-- ==== Sys2Proof/Word.lean ====
section
/-! DEFINITION. The word types of the Psigar 25K model and their plainest helpers (00_scope R4). -/
namespace Sys2Proof

/-- One byte of a store, an object or a message. -/
abbrev Byte := BitVec 8
/-- A 32-bit lane or word. -/
abbrev W32 := BitVec 32
/-- A 64-bit register. -/
abbrev W64 := BitVec 64
/-- A vector register: 128 lanes of 32 bits, lane j in bits [32j+31:32j] (02 R36). -/
abbrev VReg := BitVec 4096
/-- A 16-bit fault code (00 R14); 0 is OK. -/
abbrev Code := BitVec 16

end Sys2Proof
end

