-- ==== Sys2Proof/Syntax.lean ====
section
/-! DEFINITION. The commands of the block: one constructor per row of spec/opcode_table.json. -/
namespace Sys2Proof

/-- The element types of the vector slot (02 R49). -/
inductive VTy | fp32 | bf16 | int32 | fp16
deriving DecidableEq, Repr

/-- Where a slot operation stands: the logical core, whether it is the first of its bundle (the bundle issues with it;
the bundle's other slots follow and read their operands as they were before it, 02 R41), and the bundle's predicate
mask pair (02 R39). -/
structure Slot where
  core : Nat
  first : Bool
  pm : BitVec 2
deriving DecidableEq, Repr

/-- The housekeeping tasks of the umpire (16 R440). -/
inductive HkKind | compaction | levelling | digest | scrubReport
deriving DecidableEq, Repr

/-- What an application core asks at an object address (11 R279). -/
inductive ObjAccess
  | read (addr n : Nat)
  | write (addr : Nat) (data : List Byte)
  | vat (addr : Nat) (code : BitVec 4) (x : BitVec 64)
deriving DecidableEq, Repr

/-- How a codec engine ends a frame: its status; on decode, the luma rows decoded, the picture (its planes one after another,
rows packed without pitch), and the pool indices it predicted from; the pool indices the firmware leaves marked as references
and long-term references; the blocks won by a hint; and whether it is an IRAP or key frame (15 R392, R396, R399, R403). -/
structure FrameOut where
  status : Code
  rows : Nat
  picture : List Byte
  used : List Nat
  refs : List Nat
  longs : List Nat
  hintWins : Nat
  key : Bool
deriving DecidableEq, Repr

/-- How an outstanding transfer of a core ends: its place in the list of transfers, the words that the links it crossed corrected, and how
often the worst line was received badly (02 R57; 10 R253). -/
structure XferEnd where
  idx : Nat
  fixed : Nat
  bad : Nat
deriving DecidableEq, Repr

/-- A flash package, and the tiles (block, tile) of its images that its controller can correct no more (11 R280, R295). -/
structure CaveReport where
  pkg : Nat
  lost : List (Nat × Nat)
deriving DecidableEq, Repr

/-- An application core, and the context that it acts for (11 R279). -/
structure AppCore where
  core : Nat
  ctx : Nat
deriving DecidableEq, Repr

/-- A command of the block. -/
inductive Instr

  /-- MNOP (R45). Matrix slot no-operation. -/
  | mnop (b : Slot)
  /-- MMA (R72). Adds one micro-block of exact products into the enabled cells' curd registers. -/
  | mma (b : Slot) (aReg : BitVec 4) (bReg : BitVec 4) (acc : BitVec 8) (postInc : Bool) (first : Bool)
  /-- MWH (R82). Adds up to 32 BF16 outlier-channel products to the whey sum on the side array. -/
  | mwh (b : Slot) (aReg : BitVec 4) (bReg : BitVec 4) (acc : BitVec 8) (first : Bool)
  /-- MFOLD (R77). Ends a K-block by rounding the curd total, and optionally the whey sum, once into the FP32 carry. -/
  | mfold (b : Slot) (acc : BitVec 8) (init : Bool) (join : Bool)
  /-- MSETC (R45). Loads the carry from an FP32 tile, or broadcasts an FP32 row into it. -/
  | msetc (b : Slot) (aReg : BitVec 4) (acc : BitVec 8) (bcast : Bool)
  /-- MZERO (R45). Sets the curd registers and carries of the enabled cells to zero. -/
  | mzero (b : Slot) (acc : BitVec 8)
  /-- VNOP (R50). Vector slot no-operation. -/
  | vnop (b : Slot)
  /-- VADD (R50). Element-wise addition. -/
  | vadd (b : Slot) (vd : BitVec 6) (va : BitVec 6) (vb : BitVec 6) (ty : VTy)
  /-- VSUB (R50). Element-wise subtraction. -/
  | vsub (b : Slot) (vd : BitVec 6) (va : BitVec 6) (vb : BitVec 6) (ty : VTy)
  /-- VMUL (R50). Element-wise multiplication. -/
  | vmul (b : Slot) (vd : BitVec 6) (va : BitVec 6) (vb : BitVec 6) (ty : VTy)
  /-- VFMA (R50). Fused multiply-add with one rounding. -/
  | vfma (b : Slot) (vd : BitVec 6) (va : BitVec 6) (vb : BitVec 6) (vc : BitVec 6) (ty : VTy)
  /-- VMAX (R531). Element-wise IEEE maximum. -/
  | vmax (b : Slot) (vd : BitVec 6) (va : BitVec 6) (vb : BitVec 6) (ty : VTy)
  /-- VMIN (R531). Element-wise IEEE minimum. -/
  | vmin (b : Slot) (vd : BitVec 6) (va : BitVec 6) (vb : BitVec 6) (ty : VTy)
  /-- VABS (R50). Element-wise absolute value. -/
  | vabs (b : Slot) (vd : BitVec 6) (va : BitVec 6) (ty : VTy)
  /-- VNEG (R50). Element-wise negation. -/
  | vneg (b : Slot) (vd : BitVec 6) (va : BitVec 6) (ty : VTy)
  /-- VCMP (R531). Element-wise comparison that writes integer 1 or 0. -/
  | vcmp (b : Slot) (vd : BitVec 6) (va : BitVec 6) (vb : BitVec 6) (cond : BitVec 2) (ty : VTy)
  /-- VSEL (R531). Selects va or vb per element, according to the raw bits of vc. -/
  | vsel (b : Slot) (vd : BitVec 6) (va : BitVec 6) (vb : BitVec 6) (vc : BitVec 6) (ty : VTy)
  /-- VAND (R50). Bitwise AND. -/
  | vand (b : Slot) (vd : BitVec 6) (va : BitVec 6) (vb : BitVec 6)
  /-- VOR (R50). Bitwise OR. -/
  | vor (b : Slot) (vd : BitVec 6) (va : BitVec 6) (vb : BitVec 6)
  /-- VXOR (R50). Bitwise XOR. -/
  | vxor (b : Slot) (vd : BitVec 6) (va : BitVec 6) (vb : BitVec 6)
  /-- VSHF (R50). Permutes lanes by index. -/
  | vshf (b : Slot) (vd : BitVec 6) (va : BitVec 6) (vb : BitVec 6)
  /-- VSPL (R50). Splats a scalar register into every lane. -/
  | vspl (b : Slot) (vd : BitVec 6) (sa : BitVec 4)
  /-- VGET (R51). Copies one lane into a scalar register, without masking. -/
  | vget (b : Slot) (sd : BitVec 4) (va : BitVec 6) (vb : BitVec 6) (half : Bool)
  /-- VCVT (R531). Converts elements between types under the selected rounding mode. -/
  | vcvt (b : Slot) (vd : BitVec 6) (va : BitVec 6) (src : VTy) (mode : BitVec 2) (ty : VTy)
  /-- VQNT (R68). Quantises each row to a block format with an E8M0 scale and counts saturations. -/
  | vqnt (b : Slot) (vd : BitVec 6) (va : BitVec 6) (fmt : BitVec 4)
  /-- VRSUM (R531). Sums each row, or the whole register, into lane 0. -/
  | vrsum (b : Slot) (vd : BitVec 6) (va : BitVec 6) (whole : Bool) (ty : VTy)
  /-- VRMAX (R531). Takes the maximum of each row, or of the whole register, into lane 0. -/
  | vrmax (b : Slot) (vd : BitVec 6) (va : BitVec 6) (whole : Bool) (ty : VTy)
  /-- VLD (R50). Loads 512 bytes of the tile buffer into a vector register. -/
  | vld (b : Slot) (vd : BitVec 6) (sa : BitVec 4) (off : BitVec 6)
  /-- VST (R50). Stores a vector register to the tile buffer. -/
  | vst (b : Slot) (vd : BitVec 6) (sa : BitVec 4) (off : BitVec 6)
  /-- VLDA (R50). Loads 512 bytes of accumulator memory into a vector register. -/
  | vlda (b : Slot) (vd : BitVec 6) (sa : BitVec 4) (off : BitVec 6)
  /-- VSTA (R50). Stores a vector register to accumulator memory. -/
  | vsta (b : Slot) (vd : BitVec 6) (sa : BitVec 4) (off : BitVec 6)
  /-- VEXP (R161). Built-in exponential, refined optionally. -/
  | vexp (b : Slot) (vd : BitVec 6) (va : BitVec 6) (refine : Bool) (ty : VTy)
  /-- VLOG (R161). Built-in natural logarithm, refined optionally. -/
  | vlog (b : Slot) (vd : BitVec 6) (va : BitVec 6) (refine : Bool) (ty : VTy)
  /-- VRCP (R161). Built-in reciprocal, refined optionally. -/
  | vrcp (b : Slot) (vd : BitVec 6) (va : BitVec 6) (refine : Bool) (ty : VTy)
  /-- VRSQ (R161). Built-in reciprocal square root, refined optionally. -/
  | vrsq (b : Slot) (vd : BitVec 6) (va : BitVec 6) (refine : Bool) (ty : VTy)
  /-- VTAB (R168). Evaluates a culture table lane by lane. -/
  | vtab (b : Slot) (vd : BitVec 6) (va : BitVec 6) (slot : BitVec 3) (ty : VTy)
  /-- VDW (R218). Performs one depth-wise tap step over a window of two registers. -/
  | vdw (b : Slot) (vd : BitVec 6) (va : BitVec 6) (sb : BitVec 4) (vc : BitVec 6) (ty : VTy)
  /-- VWEL (R176). Performs one Welford update of mean and M2. -/
  | vwel (b : Slot) (vd : BitVec 6) (va : BitVec 6) (sb : BitVec 4) (vc : BitVec 6)
  /-- VAMAX (R220). Performs one channel step of a running arg-max. -/
  | vamax (b : Slot) (vd : BitVec 6) (va : BitVec 6) (sb : BitVec 4) (vc : BitVec 6) (ty : VTy)
  /-- VESU (R184). Applies the fused ES48 state update to one group of a state tile. -/
  | vesu (b : Slot) (vd : BitVec 6) (sa : BitVec 4) (vb : BitVec 6) (vc : BitVec 6)
  /-- SNOP (R53). Scalar slot no-operation. -/
  | snop (b : Slot)
  /-- SADD (R53). Scalar register addition. -/
  | sadd (b : Slot) (sd : BitVec 4) (sa : BitVec 4) (sb : BitVec 4)
  /-- SSUB (R53). Scalar register subtraction. -/
  | ssub (b : Slot) (sd : BitVec 4) (sa : BitVec 4) (sb : BitVec 4)
  /-- SADDI (R53). Adds a sign-extended 7-bit immediate. -/
  | saddi (b : Slot) (sd : BitVec 4) (sa : BitVec 4) (imm : BitVec 7)
  /-- SAND (R53). Scalar bitwise AND. -/
  | sand (b : Slot) (sd : BitVec 4) (sa : BitVec 4) (sb : BitVec 4)
  /-- SOR (R53). Scalar bitwise OR. -/
  | sor (b : Slot) (sd : BitVec 4) (sa : BitVec 4) (sb : BitVec 4)
  /-- SXOR (R53). Scalar bitwise XOR. -/
  | sxor (b : Slot) (sd : BitVec 4) (sa : BitVec 4) (sb : BitVec 4)
  /-- SSHL (R53). Shifts left by a register amount. -/
  | sshl (b : Slot) (sd : BitVec 4) (sa : BitVec 4) (sb : BitVec 4)
  /-- SSHR (R53). Shifts logically right by a register amount. -/
  | sshr (b : Slot) (sd : BitVec 4) (sa : BitVec 4) (sb : BitVec 4)
  /-- SSRA (R53). Shifts arithmetically right by a register amount. -/
  | ssra (b : Slot) (sd : BitVec 4) (sa : BitVec 4) (sb : BitVec 4)
  /-- SSHLI (R53). Shifts left by an immediate amount. -/
  | sshli (b : Slot) (sd : BitVec 4) (sa : BitVec 4) (imm : BitVec 7)
  /-- SMUL (R53). Writes the low 64 bits of a product. -/
  | smul (b : Slot) (sd : BitVec 4) (sa : BitVec 4) (sb : BitVec 4)
  /-- SMIN (R53). Signed minimum. -/
  | smin (b : Slot) (sd : BitVec 4) (sa : BitVec 4) (sb : BitVec 4)
  /-- SMAX (R53). Signed maximum. -/
  | smax (b : Slot) (sd : BitVec 4) (sa : BitVec 4) (sb : BitVec 4)
  /-- SSLT (R53). Signed set-less-than. -/
  | sslt (b : Slot) (sd : BitVec 4) (sa : BitVec 4) (sb : BitVec 4)
  /-- SLI (R53). Loads a sign-extended 11-bit immediate. -/
  | sli (b : Slot) (sd : BitVec 4) (imm : BitVec 11)
  /-- SLIS (R53). Shifts the destination left by 11 and ORs in an immediate. -/
  | slis (b : Slot) (sd : BitVec 4) (imm : BitVec 11)
  /-- SBRZ (R53). Branches if the register is zero. -/
  | sbrz (b : Slot) (sr : BitVec 4) (imm : BitVec 11)
  /-- SBRNZ (R53). Branches if the register is not zero. -/
  | sbrnz (b : Slot) (sr : BitVec 4) (imm : BitVec 11)
  /-- SJMP (R53). Jumps unconditionally, relative to the PC. -/
  | sjmp (b : Slot) (imm : BitVec 11)
  /-- SLOOP (R54). Starts a hardware loop on a counter, or skips its body on a zero count. -/
  | sloop (b : Slot) (lc : BitVec 3) (sc : BitVec 4) (e : BitVec 8)
  /-- SRD (R53). Reads a loop count, the core number, the die counter or the tag mask. -/
  | srd (b : Slot) (sd : BitVec 4) (src : BitVec 7)
  /-- SCSR (R53). Writes CORE_MFMT or a CORE_PMASK register from a scalar register. -/
  | scsr (b : Slot) (reg : BitVec 7) (sa : BitVec 4)
  /-- SSIG (R53). Posts a 32-bit signal to the coach's event queue. -/
  | ssig (b : Slot) (sa : BitVec 4)
  /-- LOOP_END (R54). The loop_end bit decrements its counter and loops back or falls through. -/
  | loopEnd (b : Slot) (lc : BitVec 3)
  /-- BUNDLE_STOP (R60). The stop bit ends issue after this bundle. -/
  | bundleStop (b : Slot)
  /-- XNOP (R58). Transfer slot no-operation. -/
  | xnop (b : Slot)
  /-- XCOPY (R58). Starts a copy from tile buffer to tile buffer. -/
  | xcopy (b : Slot) (dst : BitVec 4) (src : BitVec 4) (len : BitVec 4) (tag : BitVec 4)
  /-- XSLD (R59). Starts a move from the staging buffer to the tile buffer, with optional conversion. -/
  | xsld (b : Slot) (dst : BitVec 4) (src : BitVec 4) (len : BitVec 4) (tag : BitVec 4) (mod : BitVec 4)
  /-- XSST (R59). Starts a move from the tile buffer to the staging buffer, with optional conversion. -/
  | xsst (b : Slot) (dst : BitVec 4) (src : BitVec 4) (len : BitVec 4) (tag : BitVec 4) (mod : BitVec 4)
  /-- XMLD (R59). Starts a load from an object address into the tile buffer. -/
  | xmld (b : Slot) (dst : BitVec 4) (src : BitVec 4) (len : BitVec 4) (tag : BitVec 4) (mod : BitVec 4)
  /-- XMST (R59). Starts a store from the tile buffer to an object address. -/
  | xmst (b : Slot) (dst : BitVec 4) (src : BitVec 4) (len : BitVec 4) (tag : BitVec 4) (mod : BitVec 4)
  /-- XHALO (R58). Starts a halo send to a neighbour in the cluster. -/
  | xhalo (b : Slot) (dst : BitVec 4) (src : BitVec 4) (len : BitVec 4) (tag : BitVec 4) (dir : BitVec 2)
  /-- XHWAIT (R58). Waits for halo arrivals and consumes the arrival count. -/
  | xhwait (b : Slot) (len : BitVec 4) (dir : BitVec 2)
  /-- XPAGE (R141). Lands the page of the next page descriptor, or reports that the walk is exhausted. -/
  | xpage (b : Slot) (dst : BitVec 4) (len : BitVec 4) (tag : BitVec 4) (part : BitVec 2)
  /-- XVAT (R259). Sends vat operations line by line to the channel controllers. -/
  | xvat (b : Slot) (dst : BitVec 4) (src : BitVec 4) (len : BitVec 4) (tag : BitVec 4) (code : BitVec 4)
  /-- XACC (R58). Makes an exact copy between the tile buffer and accumulator memory. -/
  | xacc (b : Slot) (dst : BitVec 4) (src : BitVec 4) (len : BitVec 4) (tag : BitVec 4) (fromAcc : Bool)
  /-- XFENCE (R58). Waits until no transfer of the tag, or of any tag, is outstanding. -/
  | xfence (b : Slot) (tag : BitVec 4) (all : Bool)
  /-- TRANSFER_COMPLETE (R57). An outstanding transfer finishes and its tag completes. -/
  | transferComplete (core : Nat) (done : XferEnd)
  /-- HALO_ARRIVAL (R117). A halo is fully written, and the receiver's arrival counter for that direction rises by one. -/
  | haloArrival (core : Nat) (dir : BitVec 2)
  /-- KERNEL_COMPLETE (R60). After stop or halt, every outstanding operation completes; the core becomes stopped and posts completion to its coach. -/
  | kernelComplete (core : Nat)
  /-- PC_END_STOP (R60). Bundle 2,047 issues with no stop and no branch; the core stops with E_CORE_OPERAND once its operations complete. -/
  | pcEndStop (core : Nat)
  /-- CORE_RUN (R60). A write of CORE_CTRL.run starts an idle core at start_pc. -/
  | coreRun (core : Nat) (v : W32)
  /-- CORE_HALT (R60). A write of CORE_CTRL.halt requests a stop at the next bundle boundary. -/
  | coreHalt (core : Nat) (v : W32)
  /-- REGISTER_WRITE (R8). A write to a register that has no behaviour of its own updates its fields by type. -/
  | registerWrite (blk : Nat) (inst : Nat) (off : Nat) (width : Nat) (v : W64)
  /-- PAGE_DESCRIPTOR_ISSUE (R141). The coach walks the page list and queues the next page descriptor to a core. -/
  | pageDescriptorIssue (core : Nat)
  /-- COACH_HALO_DELIVERY (R118). The coach copies a posted halo, or both halves of a two-way pair once both are posted, and increments the counters. -/
  | coachHaloDelivery (core : Nat)
  /-- HALO_TIMEOUT (R119). An XHWAIT stalls past CLU_HALO_TMO; the core stops with E_HALO_TIMEOUT. -/
  | haloTimeout (core : Nat) (dir : BitVec 2)
  /-- VAT_LINE_APPLY (R261). A channel controller applies one vat line operation indivisibly. -/
  | vatLineApply (core : Nat) (idx : Nat)
  /-- VAT_ELEMENT_OP (R259). A coach or the umpire applies a vat operation to one element and gets the old value back. -/
  | vatElementOp (ctx : Nat) (addr : Nat) (code : BitVec 4) (x : W64)
  /-- RUN_DISPATCH (R361). A coach starts the next queued run on an idle core, LC before BE. -/
  | runDispatch (core : Nat)
  /-- HUDDLE_GATHER (R155). Once the huddle counter equals the contributor count, the consuming runs are released. -/
  | huddleGather (court : Nat) (ctx : Nat) (step : Nat)
  /-- MERGE_DISPATCH (R153). Once every unit of a key split completes, one merge run is dispatched per query row tile. -/
  | mergeDispatch (court : Nat) (ctx : Nat) (step : Nat)
  /-- STEP_FORM_ROSTER (R372). The lead coach forms a roster-mode step from the candidates and takes their tokens. -/
  | stepFormRoster (court : Nat) (lc : Bool)
  /-- FIXED_STEP_FORM (R375). A queued fixed-mode batch is formed as the context's next step. -/
  | fixedStepForm (ctx : Nat)
  /-- STEP_COMPLETE (R374). A step completes and the roster entries it included are updated. -/
  | stepComplete (court : Nat) (ctx : Nat) (step : Nat)
  /-- FALLBACK_WINDOW_END (R89). A layer's monitoring window fills, and the layer may switch to fallback. -/
  | fallbackWindowEnd (court : Nat) (layer : Nat)
  /-- PLAYBOOK_INSTALL (R123). A replacement playbook is installed at a step boundary and the live sequences move to it. -/
  | playbookInstall (playbook : Nat)
  /-- TABLE_BANK_SWAP (R170). A core swaps a culture-table slot's banks once no lookup of the slot is in flight. -/
  | tableBankSwap (core : Nat) (slot : BitVec 3)
  /-- CORE_FAIL_DECLARE (R504). A core is declared failed; in-flight work ends and a spare remap or cluster degrade follows. -/
  | coreFailDeclare (phys : Nat)
  /-- CORE_ANSWER_TIMEOUT (R504). A core does not answer its coach's register reads for 1 ms. -/
  | coreAnswerTimeout (phys : Nat)
  /-- CORE_STORE_TEST (R504). The 2 ms store test that follows an E_CORE_ECC stop completes. -/
  | coreStoreTest (phys : Nat) (upsets : List (Nat × Nat × BitVec 72))
  /-- SPARE_REMAP (R62). The coach maps the failed logical position to the spare and loads its images and tables. -/
  | spareRemap (cluster : Nat)
  /-- SLOT_MOVE (R196). The coach moves a resident stream between state slots by exact copy, between steps. -/
  | slotMove (seq : Nat) (slot : Nat)
  /-- STATE_EXPORT_EFFECT (R195). An export begins at the stream's step boundary. -/
  | stateExportEffect (seq : Nat)
  /-- STATE_EXPORT_COMPLETE (R203). An export copy finishes and the stream stays resident, is benched, or its sequence ends. -/
  | stateExportComplete (seq : Nat)
  /-- STATE_IMPORT_COMPLETE (R199). An import copy finishes and the stream becomes resident. -/
  | stateImportComplete (seq : Nat)
  /-- BRANCH_EFFECT (R226). A branch takes effect at the parent's boundary, creating the children with shared pages and the state image. -/
  | branchEffect (seq : Nat)
  /-- SEAL_EFFECT (R227). A requested seal takes effect at the future's boundary. -/
  | sealEffect (seq : Nat)
  /-- PRUNE_EFFECT (R233). A prune takes effect at the future's boundary and releases its holdings in order. -/
  | pruneEffect (seq : Nat)
  /-- SEQ_END_EFFECT (R381). A sequence end takes effect at its boundary and releases what it holds. -/
  | seqEndEffect (seq : Nat)
  /-- REPIN_EFFECT (R312). A repin moves the sequence's pin at its step boundary. -/
  | repinEffect (seq : Nat)
  /-- UPDATE_STEP_EFFECT (R346). An update step starts at the context's step boundary. -/
  | updateStepEffect (plan : Nat)
  /-- UPDATE_STEP_COMPLETE (R351). An update step's runs complete and its response is sent. -/
  | updateStepComplete (plan : Nat)
  /-- STREAM_PARK (R237). The scheduler parks a resident future to rotate state slots. -/
  | streamPark (seq : Nat)
  /-- STREAM_ROTATE_IMPORT (R237). A benched future is imported into a freed slot. -/
  | streamRotateImport (court : Nat)
  /-- CONTEXT_BENCH (R365). A blocked context is benched: streams parked, slots freed, ledger folded. -/
  | contextBench (ctx : Nat)
  /-- CONTEXT_CAVE (R365). A context's bench images and page blocks move to the cave. -/
  | contextCave (ctx : Nat)
  /-- CONTEXT_ADMIT_SLOT (R366). The first waiter takes a free residency slot. -/
  | contextAdmitSlot
  /-- CONTEXT_RETURN (R367). A caved context's page blocks return to fresh before any of its steps is dispatched. -/
  | contextReturn (ctx : Nat)
  /-- LEDGER_FOLD (R379). Every 10 ms the umpire folds the accumulators into the ledger lines. -/
  | ledgerFold
  /-- PATROL_SCRUB (R256). A channel controller sweeps its live slots once per scrub period. -/
  | patrolScrub (chan : Nat) (upsets : List (Nat × BitVec 72))
  /-- COUNTING_HOUR (R263). At each counting hour the per-channel error counts return to zero. -/
  | countingHour
  /-- MAPOUT_AUTO_TRIGGER (R263). A channel exceeds its corrected or uncorrectable limit in one hour, and a map-out starts automatically. -/
  | mapoutAutoTrigger (chan : Nat)
  /-- MAPOUT_VACATE (R264). The top slice level is vacated by the tier manager. -/
  | mapoutVacate
  /-- SLICE_MOVE (R265). One slice is copied to a free slot, and its dirty lines are recopied under a hold. -/
  | sliceMove
  /-- BUCKET_REHOME (R267). A bucket homed on the mapped-out channel gets a new home in every table copy. -/
  | bucketRehome
  /-- MAPOUT_COMPLETE (R264). The map-out ends: MEM_CAP updates and the controller stops. -/
  | mapoutComplete
  /-- TIER_BLOCK_MOVE (R283). One block is copied and re-encoded, then its map entry commits indivisibly. -/
  | tierBlockMove (obj : Nat)
  /-- BLOCK_RELOCATION (R284). A fresh block is relocated within fresh with dirty-tile recopy rounds. -/
  | blockRelocation (block : Nat)
  /-- PRESSED_COMPACTION (R281). A housekeeping task compacts pressed regions. -/
  | pressedCompaction
  /-- CAVE_LEVELLING (R295). An erase spread above 200 cycles triggers relocation of cold images. -/
  | caveLevelling (report : CaveReport)
  /-- FLASH_BLOCK_RETIRE (R297). A flash block that fails to program or erase is retired after its images move. -/
  | flashBlockRetire (pkg : Nat) (bytes : Nat)
  /-- CAVE_BUDGET_RELEASE (R296). A cave move waiting on the programming budget proceeds. -/
  | caveBudgetRelease
  /-- SHARD_HASH_COMPLETE (R307). A registration's digest check finishes and its response is sent. -/
  | shardHashComplete (obj : Nat)
  /-- DIGEST_PASS (R323). The periodic rehash of registered shards may mark shards corrupt. -/
  | digestPass
  /-- SHARD_RECALL (R322). A run whose part is in the cave is held and the shard recalled. -/
  | shardRecall (core : Nat)
  /-- CODEC_FRAME_START (R395). A free engine starts the next eligible frame, switching stream context if needed. -/
  | codecFrameStart (eng : Nat)
  /-- CODEC_SLICE_EMIT (R402). A completed slice is written to the ring and reported. -/
  | codecSliceEmit (eng : Nat) (data : List Byte)
  /-- CODEC_FRAME_DONE (R402). A frame ends with its reason-1 event and its marks are cleared. -/
  | codecFrameDone (eng : Nat) (out : FrameOut)
  /-- CODEC_CLOSE_EFFECT (R405). A close takes effect at the next frame boundary and frees the stream. -/
  | codecCloseEffect (stream : Nat)
  /-- CODEC_ENGINE_FAULT (R405). An engine fails and all its streams close with E_CDC_ENGINE. -/
  | codecEngineFault (eng : Nat)
  /-- RTP_FLOW_CLOSE (R404). The named field-port flow closes and the packetiser stops. -/
  | rtpFlowClose (flow : Nat)
  /-- MBX_REQ_TAIL (R416). A write of the request tail rings the mailbox doorbell. -/
  | mbxReqTail (mbx : Nat) (tail : Nat) (data : List Byte)
  /-- MBX_RSP_HEAD (R417). The receiver advances the response head to free slots. -/
  | mbxRspHead (mbx : Nat) (head : Nat)
  /-- REQUEST_INTAKE (R421). The umpire takes a message from a request ring and checks its header. -/
  | requestIntake (mbx : Nat)
  /-- RESPONSE_DELIVER (R418). A held response is written once the response ring has room. -/
  | responseDeliver (mbx : Nat)
  /-- UMPIRE_FAILOVER (R414). An umpire fault makes the standby the acting umpire, which resumes journaled work. -/
  | umpireFailover
  /-- STANDBY_RESTORE (R506). A failed pair self-checks, reloads firmware and becomes the ready standby. -/
  | standbyRestore (pass : Bool)
  /-- HOUSEKEEPING_TASK (R440). The umpire runs a pending housekeeping task. -/
  | housekeepingTask (kind : HkKind)
  /-- HEALTH_CHECK (R432). Each second of a trial, H1 to H3 are checked, and a failure reverts the slot. -/
  | healthCheck (h2 : Bool)
  /-- TRIAL_END (R432). A trial window passes without failure and the commit becomes final. -/
  | trialEnd
  /-- FW_HANDOVER (R437). Phase 2: hub 2 takes over from hub 0 at a request boundary. -/
  | fwHandover (pauseUs : Nat)
  /-- FW_NEW_FIRMWARE_READY (R437). Phase 3 completes: hub 0 runs the new firmware and has applied the journal. -/
  | fwNewFirmwareReady
  /-- FW_PHASE3_TIMEOUT (R438). Hub 0 misses the 60 s phase-3 limit and restarts on the old firmware. -/
  | fwPhase3Timeout
  /-- FW_HANDBACK (R437). Phase 4: control passes back to hub 0 on the new firmware. -/
  | fwHandback (pauseUs : Nat)
  /-- FW_STANDBY_READY (R437). Phase 5: hub 2 becomes the standby, the bank switches and counters advance. -/
  | fwStandbyReady
  /-- TLS_CONNECT (R494). A management TLS connection is accepted onto the lowest free mailbox. -/
  | tlsConnect (anchor : List Byte)
  /-- TLS_CLOSE (R494). A management connection ends and its mailbox session closes. -/
  | tlsClose (mbx : Nat)
  /-- RAIL_DOWN (R450). A rail goes down, retrains, and its flits are resent on another rail. -/
  | railDown (rail : Nat)
  /-- RAIL_RETRAIN_TIMEOUT (R450). A rail not back within 1 s is marked failed. -/
  | railRetrainTimeout (rail : Nat)
  /-- RAIL_UP (R450). A rail completes training. -/
  | railUp (rail : Nat)
  /-- FLIT_RECEIVE (R448). A flit arrives and is accepted in order, or is discarded with a nak. -/
  | flitReceive (port : Nat) (flit : List Byte) (fecBad : Bool)
  /-- FLIT_RESEND (R448). A sender resends from ack + 1 on a nak. -/
  | flitResend (port : Nat)
  /-- RING_TRANSFER_COMPLETE (R449). The last byte of a transfer is written and a completion flit returns. -/
  | ringTransferComplete (tag : Nat)
  /-- DISCOVERY_RETURN (R453). A join's discovery flit returns around the ring and the module announces itself. -/
  | discoveryReturn (members : List (Nat × List Byte)) (rolesOk : Bool)
  /-- RING_LEAVE_COMPLETE (R454). A leave's transfers drain, and its bypasses close rail by rail. -/
  | ringLeaveComplete
  /-- MEMBER_LOSS (R454). A member silent for 1 s, or bypassed, is lost; links retrain and its transfers fail. -/
  | memberLoss (pos : Nat)
  /-- RING_HUDDLE_STAGE (R456). A reduce-scatter or all-gather stage starts once its part is complete. -/
  | ringHuddleStage (court : Nat) (ctx : Nat) (step : Nat) (data : List Byte)
  /-- RING_HUDDLE_TIMEOUT (R456). A stage contribution misses RND_HUDDLE_TMO and the step ends with E_RING_LOST. -/
  | ringHuddleTimeout (court : Nat) (ctx : Nat) (step : Nat)
  /-- RELAY_FRAME (R459). The relay network interface carries an Ethernet frame on VC 2. -/
  | relayFrame (hub : Nat) (dst : Nat) (data : List Byte)
  /-- BYPASS_POWER_LOSS (R451). Loss of the 54 V input closes every bypass within 10 ms. -/
  | bypassPowerLoss
  /-- REFCLK_LOSS (R465). The reference is lost and the synthesiser enters holdover. -/
  | refclkLoss
  /-- REFCLK_RESTORE (R465). The reference returns within tolerance and holdover ends. -/
  | refclkRestore
  /-- POWER_MEASURE (R476). Every 10 µs input power is measured and the current limiters act above 18 kW. -/
  | powerMeasure (watts : Nat) (mean : Nat) (volts : List Byte)
  /-- GOVERNOR_STEP (R477). Every 100 ms the governor applies or lifts a cap in the profile's order. -/
  | governorStep
  /-- THERMAL_CHECK (R478). Each second the continuous limit is lowered or restored by die temperature. -/
  | thermalCheck (hottest : Nat) (inlet : Nat) (outlet : Nat)
  /-- THERMAL_STOP (R478). A die at 115 °C stops issuing its cores. -/
  | thermalStop (die : Nat)
  /-- THERMAL_RESUME (R478). A die below 105 °C resumes issue. -/
  | thermalResume (die : Nat)
  /-- PS_ENTRY (R470). An idle court's idle time reaches ten exit times and it begins entry to the next state. -/
  | psEntry (court : Nat)
  /-- PS_ENTRY_COMPLETE (R472). An entry's steps complete and the court is in the new state. -/
  | psEntryComplete (court : Nat)
  /-- PS_WAKE (R471). A wake event reverses an entry before its abort point, or starts an exit. -/
  | psWake (court : Nat) (remUs : Nat)
  /-- PS_EXIT_COMPLETE (R468). The exit finishes and the court can start a run. -/
  | psExitComplete (court : Nat)
  /-- PS5_ENTRY (R474). The module enters PS5 when every court is in PS4 and the other conditions hold. -/
  | ps5Entry
  /-- PS5_WAKE (R474). A management request, or a tighter tolerance, wakes the module from PS5. -/
  | ps5Wake
  /-- RESET_ASSERT (R485). RESET_N or CAB_PGOOD low returns the module to step 1. -/
  | resetAssert (resetN : Bool) (pgood : Bool)
  /-- RESET_RELEASE (R521). Both inputs are high for 1 ms with REFCLK good, and RESET completes. -/
  | resetRelease
  /-- BOOT_ROM (R484). Both umpire pairs run their lockstep self-check and fuses are read. -/
  | bootRom (ok0 : Bool) (ok2 : Bool)
  /-- VERIFY (R489). Boot ROM verifies the bundle banks and loads the firmware, or enters recovery. -/
  | verify
  /-- TRAIN (R482). Memory training restores the map-out state and keys. -/
  | train (bad : List Nat)
  /-- SELFTEST (R482). Every physical core is tested and failures are remapped. -/
  | selftest (bad : List Nat)
  /-- COURTS (R482). The committed slot is applied, the court areas are created and the session certificate is issued. -/
  | courts
  /-- PLATFORM (R482). The application cores boot UEFI and the operating system. -/
  | platform (ok : Bool)
  /-- SERVE (R483). MOD_READY asserts and the mailboxes begin to be served. -/
  | serve
  /-- STARTUP_TIMEOUT (R482). SERVE is not reached within 300 s; the fault output asserts. -/
  | startupTimeout
  /-- BOOT_STATUS (R525). SMBus read of boot status, boot count, budget and transfer status. -/
  | bootStatus (pec : Bool)
  /-- BLADE_VOLTS (R525). SMBus read of the five blade voltages. -/
  | bladeVolts (pec : Bool)
  /-- THERMAL (R525). SMBus read of the die and coolant temperatures. -/
  | thermal (pec : Bool)
  /-- MGMT_ADDR (R525). SMBus write of the management IPv4 address, or selection of DHCP. -/
  | mgmtAddr (pec : Bool) (data : List Byte)
  /-- XFER_DATA (R525). SMBus write of a chunk of a recovery bundle or anchor change. -/
  | xferData (pec : Bool) (data : List Byte)
  /-- XFER_END (R525). Ends an SMBus transfer and acts on the recovery bundle or anchor change. -/
  | xferEnd (pec : Bool) (data : List Byte)
  /-- SMB_ALERT_RESPONSE (R525). An Alert Response Address read releases SMB_ALERT_N. -/
  | smbAlertResponse (pec : Bool)
  /-- DEBUG_CHALLENGE_EXPIRY (R498). A debug challenge lapses after 300 s. -/
  | debugChallengeExpiry
  /-- DEBUG_UNLOCK_EXPIRY (R498). A debug unlock ends when its duration expires. -/
  | debugUnlockExpiry
  /-- FAULT_RECORD_TAKE_IN (R500). The umpire numbers a unit's fault record and logs it. -/
  | faultRecordTakeIn (unit : Nat)
  /-- FAULT_RECORD_ACK (R503). The umpire acknowledges a record; a unit that suppressed records raises an overflow record. -/
  | faultRecordAck (unit : Nat)
  /-- AUDIT_PASS (R510). Each second an audit checks its balance at its consistent point. -/
  | auditPass (audit : Nat) (late : Bool)
  /-- MSG_HELLO (R423). Negotiates a version and opens a session. -/
  | msgHello (mbx : Nat)
  /-- MSG_BYE (R424). Closes the session. -/
  | msgBye (mbx : Nat)
  /-- MSG_PING (R424). Echoes the payload. -/
  | msgPing (mbx : Nat)
  /-- MSG_UMP_QUERY (R424). Returns the umpire status, intake and deferral registers. -/
  | msgUmpQuery (mbx : Nat)
  /-- MSG_CONFIG_WRITE (R430). Checks an image and copies it into the inactive slot. -/
  | msgConfigWrite (mbx : Nat)
  /-- MSG_CONFIG_COMMIT (R431). Switches to the inactive slot and opens a trial window. -/
  | msgConfigCommit (mbx : Nat)
  /-- MSG_CONFIG_CONFIRM (R432). Makes a trial commit final. -/
  | msgConfigConfirm (mbx : Nat)
  /-- MSG_CONFIG_REVERT (R434). Returns to the previous slot. -/
  | msgConfigRevert (mbx : Nat)
  /-- MSG_CONFIG_QUERY (R436). Reports the slots and the trial state. -/
  | msgConfigQuery (mbx : Nat)
  /-- MSG_CONFIG_READ (R436). Copies a slot's image to an object. -/
  | msgConfigRead (mbx : Nat)
  /-- MSG_PLAYBOOK_LOAD (R121). Checks and loads a playbook into a court. -/
  | msgPlaybookLoad (mbx : Nat)
  /-- MSG_PREC_QUERY (R93). Reports one layer's fallback state. -/
  | msgPrecQuery (mbx : Nat)
  /-- MSG_FALLBACK_SET (R94). Switches one or all layers to primary or fallback. -/
  | msgFallbackSet (mbx : Nat)
  /-- MSG_TABLE_LOAD (R171). Checks a culture table and loads it into a slot of every core of a court. -/
  | msgTableLoad (mbx : Nat)
  /-- MSG_TABLE_QUERY (R173). Reports a culture-table slot. -/
  | msgTableQuery (mbx : Nat)
  /-- MSG_SHARD_REGISTER (R307). Registers a shard into a set's staged generation. -/
  | msgShardRegister (mbx : Nat)
  /-- MSG_WGT_COMMIT (R310). Makes the staged generation current, or aborts it. -/
  | msgWgtCommit (mbx : Nat)
  /-- MSG_WGT_BIND (R326). Binds or unbinds a playbook to a weight set. -/
  | msgWgtBind (mbx : Nat)
  /-- MSG_SEQ_REPIN (R312). Requests a repin of a sequence to the current generation. -/
  | msgSeqRepin (mbx : Nat)
  /-- MSG_ADAPTER_REGISTER (R317). Registers an adapter shard and returns its id. -/
  | msgAdapterRegister (mbx : Nat)
  /-- MSG_ADAPTER_RELEASE (R320). Ends new bindings of an adapter. -/
  | msgAdapterRelease (mbx : Nat)
  /-- MSG_WGT_PRIV (R321). Sets or clears a context's privileged mark. -/
  | msgWgtPriv (mbx : Nat)
  /-- MSG_WGT_QUERY (R330). Reports a weight set. -/
  | msgWgtQuery (mbx : Nat)
  /-- MSG_SEQ_ADMIT (R368). Admits a sequence with its roster entry, pin, stream and reserves. -/
  | msgSeqAdmit (mbx : Nat)
  /-- MSG_SEQ_END (R381). Requests the end of a sequence. -/
  | msgSeqEnd (mbx : Nat)
  /-- MSG_BATCH_SUBMIT (R375). Submits a fixed-mode batch as one step. -/
  | msgBatchSubmit (mbx : Nat)
  /-- MSG_CTX_QUERY (R382). Reports a context's state. -/
  | msgCtxQuery (mbx : Nat)
  /-- MSG_ROST_GRANT (R383). Adds tokens to a roster entry. -/
  | msgRostGrant (mbx : Nat)
  /-- MSG_ROST_SET (R384). Pauses, resumes or changes the contribution of a roster entry. -/
  | msgRostSet (mbx : Nat)
  /-- MSG_ROST_QUERY (R384). Returns a roster entry. -/
  | msgRostQuery (mbx : Nat)
  /-- MSG_FUTURE_BRANCH (R230). Accepts a branch of a future into children. -/
  | msgFutureBranch (mbx : Nat)
  /-- MSG_FUTURE_SEAL (R240). Requests a seal of a future's open pages. -/
  | msgFutureSeal (mbx : Nat)
  /-- MSG_FUTURE_PRUNE (R241). Requests a prune of a future, or of its subtree. -/
  | msgFuturePrune (mbx : Nat)
  /-- MSG_FUTURE_SCORE (R236). Ranks a family's futures and optionally prunes some. -/
  | msgFutureScore (mbx : Nat)
  /-- MSG_FUTURE_QUERY (R243). Reports a future's identifiers and pages. -/
  | msgFutureQuery (mbx : Nat)
  /-- MSG_OBJ_CREATE (R298). Creates a zeroed fresh object. -/
  | msgObjCreate (mbx : Nat)
  /-- MSG_OBJ_FREE (R299). Frees an object, stopping any move of it. -/
  | msgObjFree (mbx : Nat)
  /-- MSG_TIER_MOVE (R300). Reserves space and starts moving an object to a tier. -/
  | msgTierMove (mbx : Nat)
  /-- MSG_TIER_QUERY (R301). Reports an object's tier and charges. -/
  | msgTierQuery (mbx : Nat)
  /-- MSG_QUOTA_SET (R302). Sets a client's quota limit for a tier. -/
  | msgQuotaSet (mbx : Nat)
  /-- MSG_QUOTA_QUERY (R302). Reports a client's quota limit and used count. -/
  | msgQuotaQuery (mbx : Nat)
  /-- MSG_KV_QUERY (R159). Reports a sequence's pages. -/
  | msgKvQuery (mbx : Nat)
  /-- MSG_MEM_QUERY (R270). Reports a channel or the whole module memory state. -/
  | msgMemQuery (mbx : Nat)
  /-- MSG_CHAN_MAPOUT (R271). Starts a map-out of a channel. -/
  | msgChanMapout (mbx : Nat)
  /-- MSG_STATE_QUERY (R202). Reports a stream's state. -/
  | msgStateQuery (mbx : Nat)
  /-- MSG_STATE_EXPORT (R203). Requests a snapshot, park or hand-off export of a stream. -/
  | msgStateExport (mbx : Nat)
  /-- MSG_STATE_IMPORT (R204). Checks a stream image and starts its import. -/
  | msgStateImport (mbx : Nat)
  /-- MSG_STATE_CLEAR (R205). Zeroes a stream and sets its sequence number. -/
  | msgStateClear (mbx : Nat)
  /-- MSG_CDC_OPEN (R406). Opens a codec stream on an engine. -/
  | msgCdcOpen (mbx : Nat)
  /-- MSG_CDC_POOL (R407). Adds, removes or releases a pool buffer. -/
  | msgCdcPool (mbx : Nat)
  /-- MSG_CDC_FRAME (R408). Queues a frame to encode or decode. -/
  | msgCdcFrame (mbx : Nat)
  /-- MSG_CDC_SET (R410). Changes the rate or frame rate, or returns ring space. -/
  | msgCdcSet (mbx : Nat)
  /-- MSG_CDC_CLOSE (R405). Requests a stream close. -/
  | msgCdcClose (mbx : Nat)
  /-- MSG_RING_QUERY (R461). Reports ring membership. -/
  | msgRingQuery (mbx : Nat)
  /-- MSG_RING_JOIN (R453). Opens the rails and starts joining the ring. -/
  | msgRingJoin (mbx : Nat)
  /-- MSG_RING_LEAVE (R454). Starts leaving the ring. -/
  | msgRingLeave (mbx : Nat)
  /-- MSG_PORT_ROLE (R444). Changes a rind port's role. -/
  | msgPortRole (mbx : Nat)
  /-- MSG_PWR_TOLERANCE (R475). Sets a context, court or module latency tolerance. -/
  | msgPwrTolerance (mbx : Nat)
  /-- MSG_PWR_PROFILE (R477). Sets the power profile. -/
  | msgPwrProfile (mbx : Nat)
  /-- MSG_PWR_QUERY (R480). Reports power state and measurements. -/
  | msgPwrQuery (mbx : Nat)
  /-- MSG_ATTEST_QUOTE (R497). Writes a signed quote of measurements. -/
  | msgAttestQuote (mbx : Nat)
  /-- MSG_ID_CERT (R499). Writes requested certificates. -/
  | msgIdCert (mbx : Nat)
  /-- MSG_DEBUG_CHALLENGE (R498). Issues a debug challenge. -/
  | msgDebugChallenge (mbx : Nat)
  /-- MSG_DEBUG_UNLOCK (R498). Receives a token part and verifies the token on the last part. -/
  | msgDebugUnlock (mbx : Nat)
  /-- MSG_FW_UPDATE (R437). Verifies a bundle and starts an update without a stop. -/
  | msgFwUpdate (mbx : Nat)
  /-- MSG_UPD_PLAN (R350). Registers an update plan. -/
  | msgUpdPlan (mbx : Nat)
  /-- MSG_UPD_STEP (R345). Requests the plan's next update step. -/
  | msgUpdStep (mbx : Nat)
  /-- MSG_UPD_QUERY (R352). Reports a plan's state. -/
  | msgUpdQuery (mbx : Nat)
  /-- MSG_UPD_RELEASE (R352). Releases an update plan. -/
  | msgUpdRelease (mbx : Nat)
  /-- MSG_LEDGER_READ (R386). Folds and writes ledger lines. -/
  | msgLedgerRead (mbx : Nat)
  /-- MSG_FAULT_READ (R513). Writes matching fault records. -/
  | msgFaultRead (mbx : Nat)
  /-- MSG_AUDIT_QUERY (R515). Reports an audit's counts. -/
  | msgAuditQuery (mbx : Nat)
  /-- MSG_REG_READ (R516). Reads a register through a message. -/
  | msgRegRead (mbx : Nat)
  /-- MSG_REG_WRITE (R516). Writes a register through a message. -/
  | msgRegWrite (mbx : Nat)
  /-- APP_CORE_OBJECT_ACCESS (R279). An application core acting for a client reads, writes or applies a vat operation at an object address, subject to ownership, tier and read-only checks. -/
  | appCoreObjectAccess (app : AppCore) (acc : ObjAccess)
  /-- FIELD_PORT_FRAME (R458). A field port's Ethernet MAC sends or receives a frame, with tagging, checksum offload and 1588 timestamps from the hub counter. -/
  | fieldPortFrame (port : Nat) (rx : Bool) (data : List Byte)
deriving DecidableEq, Repr

end Sys2Proof
end

