-- ==== Sys2Proof/Config.lean ====
section
/-! DEFINITION. What an implementation of the module fixes: the panel's numbers (01 R16 to R31), and the values the spec
leaves open, as constants without a body. A statement about such a constant holds whatever it is. -/
namespace Sys2Proof.Config

/-- Clusters of the module (01 R16). -/
def clusters : Nat := 1000
/-- Logical cores of a cluster (01 R16). -/
def coresPerCluster : Nat := 25
/-- Logical cores of the module (01 R16). -/
def cores : Nat := 25000
/-- Physical cores of a cluster, the spare included (01 R28). -/
def physPerCluster : Nat := 26
/-- Compute dies (01 R16). -/
def dies : Nat := 40
/-- Module channels (01 R17). -/
def channels : Nat := 512
/-- Bytes of a tile buffer (02 R35). -/
def tileBufferBytes : Nat := 393216
/-- Bytes of an accumulator memory (02 R35). -/
def accBytes : Nat := 196608
/-- Bytes of a staging buffer (01 R30). -/
def stagingBytes : Nat := 4194304

/-- A FREE VALUE: draw `n`, item `i`. Nothing constrains it (log entry 2). -/
opaque free : Nat → Nat → Nat
/-- The bits of a NaN result whose payload the spec does not state, as a function of the operands (log entry 3). -/
opaque nan : Nat → Nat
/-- The result of an INT32 vector operation whose exact result lies outside the type, as a function of the operation and
its operands: the spec states none (02 R49, R50; log entry 7). -/
opaque intOver : Nat → Nat
/-- How far the counter of a die lies from hub 0's: the counters of two dies are not aligned (18 R467; log entry 4). -/
opaque dieSkew : Nat → W64
/-- ML-DSA-87 verification: a public key, a message, a signature (19 R488; log entry 5). -/
opaque mldsaVerify : List Byte → List Byte → List Byte → Bool
/-- The 4,627 bytes of an ML-DSA-87 signature by a private key of the module (0 hub 0, 2 hub 2) (19 R497; log entry 5). -/
opaque mldsaSign : Nat → List Byte → List Byte
/-- The DER bytes of a certificate: which, boot count, configuration generation (19 R492, R499; log entry 5). -/
opaque certificate : Nat → Nat → Nat → List Byte
/-- The identity public key of hub 0 (19 R492; log entry 5). -/
opaque identityKey : List Byte
/-- The digest fused in firmware key slot `n` (19 R488; log entry 5). -/
opaque fwKeyDigest : Nat → List Byte
/-- The digest fused in debug key slot `n` (19 R498; log entry 5). -/
opaque dbgKeyDigest : Nat → List Byte
/-- The bytes that declared tensors take at planned maxima, each in the larger of its primary and fallback formats: of the declarations,
the variables' maxima, and each layer's number, activation format and fallback format. The spec gives no layout of a declaration (04 R98,
R121; log entry 80). -/
opaque tensorBytes : List (List Byte) → List Nat → List (Nat × Nat × Nat) → Nat
/-- The energy coefficient of an event, calibrated for each module (14 R378; log entry 6). -/
opaque energyCoef : Nat → W32

end Sys2Proof.Config
end

