-- ==== Sys2Proof/Machine/Codes.lean ====
section
/-! DEFINITION. The fault codes, each with the value its chapter gives (00 R14, R15). -/
namespace Sys2Proof.Machine

/-- E_UMP_VERSION (chapter 16). -/
def E_UMP_VERSION : Code := 0x0010#16
/-- E_UMP_SESSION (chapter 16). -/
def E_UMP_SESSION : Code := 0x0011#16
/-- E_UMP_SEQ (chapter 16). -/
def E_UMP_SEQ : Code := 0x0012#16
/-- E_UMP_BUSY (chapter 16). -/
def E_UMP_BUSY : Code := 0x0013#16
/-- E_UMP_OPCODE (chapter 16). -/
def E_UMP_OPCODE : Code := 0x0014#16
/-- E_UMP_LENGTH (chapter 16). -/
def E_UMP_LENGTH : Code := 0x0015#16
/-- E_UMP_CONTEXT (chapter 16). -/
def E_UMP_CONTEXT : Code := 0x0016#16
/-- E_UMP_PERM (chapter 16). -/
def E_UMP_PERM : Code := 0x0017#16
/-- E_UMP_FAULT (chapter 20). -/
def E_UMP_FAULT : Code := 0x0018#16
/-- E_CFG_FORMAT (chapter 16). -/
def E_CFG_FORMAT : Code := 0x0110#16
/-- E_CFG_GEN (chapter 16). -/
def E_CFG_GEN : Code := 0x0111#16
/-- E_CFG_TRIAL (chapter 16). -/
def E_CFG_TRIAL : Code := 0x0112#16
/-- E_CFG_BUSY (chapter 16). -/
def E_CFG_BUSY : Code := 0x0113#16
/-- E_CFG_ARG (chapter 16). -/
def E_CFG_ARG : Code := 0x0114#16
/-- E_PLAN_NOFIT (chapter 00). -/
def E_PLAN_NOFIT : Code := 0x0201#16
/-- E_ACC_TILES (chapter 00). -/
def E_ACC_TILES : Code := 0x0202#16
/-- E_PREC_PLAN (chapter 03). -/
def E_PREC_PLAN : Code := 0x0203#16
/-- E_WHEY_LIST (chapter 03). -/
def E_WHEY_LIST : Code := 0x0204#16
/-- E_WHEY_OVERLAP (chapter 03). -/
def E_WHEY_OVERLAP : Code := 0x0205#16
/-- E_PREC_NOFB (chapter 03). -/
def E_PREC_NOFB : Code := 0x0206#16
/-- E_PREC_ARG (chapter 03). -/
def E_PREC_ARG : Code := 0x0207#16
/-- E_KRN_ENCODING (chapter 02). -/
def E_KRN_ENCODING : Code := 0x0210#16
/-- E_KRN_SLOTCLASH (chapter 02). -/
def E_KRN_SLOTCLASH : Code := 0x0211#16
/-- E_KRN_LOOP (chapter 02). -/
def E_KRN_LOOP : Code := 0x0212#16
/-- E_KRN_SIZE (chapter 02). -/
def E_KRN_SIZE : Code := 0x0213#16
/-- E_PLAN_HEADER (chapter 04). -/
def E_PLAN_HEADER : Code := 0x0230#16
/-- E_PLAN_VERSION (chapter 04). -/
def E_PLAN_VERSION : Code := 0x0231#16
/-- E_PLAN_DIGEST (chapter 04). -/
def E_PLAN_DIGEST : Code := 0x0232#16
/-- E_PLAN_SHAPE (chapter 04). -/
def E_PLAN_SHAPE : Code := 0x0233#16
/-- E_LOOP_ORDER (chapter 04). -/
def E_LOOP_ORDER : Code := 0x0234#16
/-- E_BUF_PLAN (chapter 04). -/
def E_BUF_PLAN : Code := 0x0235#16
/-- E_HALO_PLAN (chapter 04). -/
def E_HALO_PLAN : Code := 0x0236#16
/-- E_PLAN_PAD (chapter 04). -/
def E_PLAN_PAD : Code := 0x0237#16
/-- E_ATT_PLAN (chapter 05). -/
def E_ATT_PLAN : Code := 0x0238#16
/-- E_REC_PLAN (chapter 07). -/
def E_REC_PLAN : Code := 0x0239#16
/-- E_CONV_PLAN (chapter 08). -/
def E_CONV_PLAN : Code := 0x023A#16
/-- E_ROLL_PLAN (chapter 09). -/
def E_ROLL_PLAN : Code := 0x023B#16
/-- E_WGT_PLAN (chapter 12). -/
def E_WGT_PLAN : Code := 0x023C#16
/-- E_PLAN_REPLACE (chapter 04). -/
def E_PLAN_REPLACE : Code := 0x023D#16
/-- E_TAB_FORMAT (chapter 06). -/
def E_TAB_FORMAT : Code := 0x0240#16
/-- E_TAB_MONOTONE (chapter 06). -/
def E_TAB_MONOTONE : Code := 0x0241#16
/-- E_TAB_BUSY (chapter 06). -/
def E_TAB_BUSY : Code := 0x0242#16
/-- E_TAB_PERM (chapter 06). -/
def E_TAB_PERM : Code := 0x0243#16
/-- E_TAB_ARG (chapter 06). -/
def E_TAB_ARG : Code := 0x0244#16
/-- E_SHAPE_OVER (chapter 00). -/
def E_SHAPE_OVER : Code := 0x0301#16
/-- E_CORE_OPERAND (chapter 02). -/
def E_CORE_OPERAND : Code := 0x0310#16
/-- E_CORE_FMT (chapter 02). -/
def E_CORE_FMT : Code := 0x0311#16
/-- E_CORE_ECC (chapter 02). -/
def E_CORE_ECC : Code := 0x0312#16
/-- E_CORE_KBLOCK (chapter 03). -/
def E_CORE_KBLOCK : Code := 0x0313#16
/-- E_HALO_TIMEOUT (chapter 04). -/
def E_HALO_TIMEOUT : Code := 0x0314#16
/-- E_KV_SEALED (chapter 05). -/
def E_KV_SEALED : Code := 0x0315#16
/-- E_TAB_EMPTY (chapter 06). -/
def E_TAB_EMPTY : Code := 0x0316#16
/-- E_MEM_UNCORR (chapter 10). -/
def E_MEM_UNCORR : Code := 0x0317#16
/-- E_OBJ_UNMAPPED (chapter 11). -/
def E_OBJ_UNMAPPED : Code := 0x0318#16
/-- E_OBJ_RO (chapter 11). -/
def E_OBJ_RO : Code := 0x0319#16
/-- E_OBJ_CAVE (chapter 11). -/
def E_OBJ_CAVE : Code := 0x031A#16
/-- E_TIER_CORRUPT (chapter 11). -/
def E_TIER_CORRUPT : Code := 0x031B#16
/-- E_CORE_FAILED (chapter 20). -/
def E_CORE_FAILED : Code := 0x0320#16
/-- E_CLU_DEGRADED (chapter 20). -/
def E_CLU_DEGRADED : Code := 0x0321#16
/-- E_WGT_DIGEST (chapter 12). -/
def E_WGT_DIGEST : Code := 0x0340#16
/-- E_WGT_FORMAT (chapter 12). -/
def E_WGT_FORMAT : Code := 0x0341#16
/-- E_WGT_PERM (chapter 12). -/
def E_WGT_PERM : Code := 0x0342#16
/-- E_WGT_STATE (chapter 12). -/
def E_WGT_STATE : Code := 0x0343#16
/-- E_WGT_SHAPE (chapter 12). -/
def E_WGT_SHAPE : Code := 0x0344#16
/-- E_WGT_MISSING (chapter 12). -/
def E_WGT_MISSING : Code := 0x0345#16
/-- E_WGT_GENS (chapter 12). -/
def E_WGT_GENS : Code := 0x0346#16
/-- E_WGT_CORRUPT (chapter 12). -/
def E_WGT_CORRUPT : Code := 0x0348#16
/-- E_WGT_MIXED (chapter 12). -/
def E_WGT_MIXED : Code := 0x0349#16
/-- E_WGT_RECALL (chapter 12). -/
def E_WGT_RECALL : Code := 0x034A#16
/-- E_WGT_LIMIT (chapter 12). -/
def E_WGT_LIMIT : Code := 0x034B#16
/-- E_SCH_CONTEXT (chapter 14). -/
def E_SCH_CONTEXT : Code := 0x0410#16
/-- E_SCH_MODE (chapter 14). -/
def E_SCH_MODE : Code := 0x0411#16
/-- E_SCH_LIMIT (chapter 14). -/
def E_SCH_LIMIT : Code := 0x0412#16
/-- E_SCH_ARG (chapter 14). -/
def E_SCH_ARG : Code := 0x0413#16
/-- E_SCH_BENCH (chapter 14). -/
def E_SCH_BENCH : Code := 0x0414#16
/-- E_SCH_CAVE (chapter 14). -/
def E_SCH_CAVE : Code := 0x0415#16
/-- E_SCH_QUEUE (chapter 14). -/
def E_SCH_QUEUE : Code := 0x0416#16
/-- E_ROST_FULL (chapter 14). -/
def E_ROST_FULL : Code := 0x0510#16
/-- E_ROST_STATE (chapter 14). -/
def E_ROST_STATE : Code := 0x0511#16
/-- E_FUTURE_OPEN (chapter 09). -/
def E_FUTURE_OPEN : Code := 0x0560#16
/-- E_FUTURE_STATE (chapter 09). -/
def E_FUTURE_STATE : Code := 0x0561#16
/-- E_FUTURE_ROSTER (chapter 09). -/
def E_FUTURE_ROSTER : Code := 0x0562#16
/-- E_TIER_QUOTA (chapter 11). -/
def E_TIER_QUOTA : Code := 0x0610#16
/-- E_TIER_NOROOM (chapter 11). -/
def E_TIER_NOROOM : Code := 0x0611#16
/-- E_TIER_BUSY (chapter 11). -/
def E_TIER_BUSY : Code := 0x0612#16
/-- E_OBJ_ARG (chapter 11). -/
def E_OBJ_ARG : Code := 0x0613#16
/-- E_OBJ_SPACE (chapter 11). -/
def E_OBJ_SPACE : Code := 0x0614#16
/-- E_TIER_PERM (chapter 11). -/
def E_TIER_PERM : Code := 0x0615#16
/-- E_CAV_RESERVE (chapter 20). -/
def E_CAV_RESERVE : Code := 0x0616#16
/-- E_TIER_FREED (chapter 11). -/
def E_TIER_FREED : Code := 0x0617#16
/-- E_KV_RESERVE (chapter 05). -/
def E_KV_RESERVE : Code := 0x0650#16
/-- E_MAP_FLOOR (chapter 10). -/
def E_MAP_FLOOR : Code := 0x0660#16
/-- E_MAP_BUSY (chapter 10). -/
def E_MAP_BUSY : Code := 0x0661#16
/-- E_MAP_STATE (chapter 10). -/
def E_MAP_STATE : Code := 0x0662#16
/-- E_MAP_PERM (chapter 10). -/
def E_MAP_PERM : Code := 0x0663#16
/-- E_MEM_MAPOUT (chapter 20). -/
def E_MEM_MAPOUT : Code := 0x0664#16
/-- E_STATE_SEQ (chapter 07). -/
def E_STATE_SEQ : Code := 0x0710#16
/-- E_STATE_BUSY (chapter 07). -/
def E_STATE_BUSY : Code := 0x0711#16
/-- E_STATE_IMAGE (chapter 07). -/
def E_STATE_IMAGE : Code := 0x0712#16
/-- E_STATE_DIGEST (chapter 07). -/
def E_STATE_DIGEST : Code := 0x0713#16
/-- E_STATE_LAYOUT (chapter 07). -/
def E_STATE_LAYOUT : Code := 0x0714#16
/-- E_STATE_NOSLOT (chapter 07). -/
def E_STATE_NOSLOT : Code := 0x0715#16
/-- E_STATE_LOST (chapter 07). -/
def E_STATE_LOST : Code := 0x0716#16
/-- E_STATE_ROOM (chapter 07). -/
def E_STATE_ROOM : Code := 0x0717#16
/-- E_CDC_PROFILE (chapter 15). -/
def E_CDC_PROFILE : Code := 0x0810#16
/-- E_CDC_LOAD (chapter 15). -/
def E_CDC_LOAD : Code := 0x0811#16
/-- E_CDC_ARG (chapter 15). -/
def E_CDC_ARG : Code := 0x0812#16
/-- E_CDC_STATE (chapter 15). -/
def E_CDC_STATE : Code := 0x0813#16
/-- E_CDC_POOL (chapter 15). -/
def E_CDC_POOL : Code := 0x0814#16
/-- E_CDC_BITSTREAM (chapter 15). -/
def E_CDC_BITSTREAM : Code := 0x0815#16
/-- E_CDC_ENGINE (chapter 15). -/
def E_CDC_ENGINE : Code := 0x0817#16
/-- E_RING_STATE (chapter 17). -/
def E_RING_STATE : Code := 0x0910#16
/-- E_RING_POSITION (chapter 17). -/
def E_RING_POSITION : Code := 0x0911#16
/-- E_RING_LOST (chapter 17). -/
def E_RING_LOST : Code := 0x0912#16
/-- E_RING_MODE (chapter 17). -/
def E_RING_MODE : Code := 0x0913#16
/-- E_PORT_ROLE (chapter 17). -/
def E_PORT_ROLE : Code := 0x0914#16
/-- E_PWR_ARG (chapter 18). -/
def E_PWR_ARG : Code := 0x0A10#16
/-- E_PWR_PERM (chapter 18). -/
def E_PWR_PERM : Code := 0x0A11#16
/-- E_PWR_THERMAL (chapter 20). -/
def E_PWR_THERMAL : Code := 0x0A12#16
/-- E_CLK_HOLDOVER (chapter 20). -/
def E_CLK_HOLDOVER : Code := 0x0A13#16
/-- E_SEC_ARG (chapter 19). -/
def E_SEC_ARG : Code := 0x0B10#16
/-- E_SEC_ROOM (chapter 19). -/
def E_SEC_ROOM : Code := 0x0B11#16
/-- E_DBG_STATE (chapter 19). -/
def E_DBG_STATE : Code := 0x0B12#16
/-- E_DBG_VERIFY (chapter 19). -/
def E_DBG_VERIFY : Code := 0x0B13#16
/-- E_DBG_UNLOCKED (chapter 20). -/
def E_DBG_UNLOCKED : Code := 0x0B14#16
/-- E_FW_VERIFY (chapter 16). -/
def E_FW_VERIFY : Code := 0x0B20#16
/-- E_FW_ROLLBACK (chapter 16). -/
def E_FW_ROLLBACK : Code := 0x0B21#16
/-- E_FW_VERSION (chapter 16). -/
def E_FW_VERSION : Code := 0x0B22#16
/-- E_FW_BUSY (chapter 16). -/
def E_FW_BUSY : Code := 0x0B23#16
/-- E_FW_HANDOVER (chapter 16). -/
def E_FW_HANDOVER : Code := 0x0B24#16
/-- E_UPD_PLAN (chapter 13). -/
def E_UPD_PLAN : Code := 0x0C10#16
/-- E_UPD_OBJ (chapter 13). -/
def E_UPD_OBJ : Code := 0x0C11#16
/-- E_UPD_CONST (chapter 13). -/
def E_UPD_CONST : Code := 0x0C12#16
/-- E_UPD_STEP (chapter 13). -/
def E_UPD_STEP : Code := 0x0C13#16
/-- E_UPD_TORN (chapter 13). -/
def E_UPD_TORN : Code := 0x0C14#16
/-- E_UPD_LIMIT (chapter 13). -/
def E_UPD_LIMIT : Code := 0x0C15#16
/-- E_AUD_MISMATCH (chapter 20). -/
def E_AUD_MISMATCH : Code := 0x0D10#16
/-- E_FLT_ARG (chapter 20). -/
def E_FLT_ARG : Code := 0x0D11#16
/-- E_REG_ADDR (chapter 20). -/
def E_REG_ADDR : Code := 0x0D12#16
/-- E_FLT_OVERFLOW (chapter 20). -/
def E_FLT_OVERFLOW : Code := 0x0D13#16

end Sys2Proof.Machine
end

