-- ==== Sys2Proof/Machine/Assoc.lean ====
section
/-! DEFINITION. Association lists in one canonical form (keys strictly rising), and the byte stores built on them.
A store of bytes lists no byte equal to what an unlisted address reads as (zero), so equal stores are equal data. -/
namespace Sys2Proof.Machine

/-- Entries by key, keys strictly rising. -/
abbrev AMap (α : Type) := List (Nat × α)
/-- A store of bytes by address; an unlisted address reads 0 and no listed byte is 0. -/
abbrev Mem := AMap Byte

namespace AMap
variable {α : Type}

/-- The entry of key `k`, if it is listed. -/
def find? : AMap α → Nat → Option α
  | [], _ => none
  | (a, v) :: m, k => if a = k then some v else find? m k

/-- The entry of key `k`, or `d` where it is not listed. -/
def getD (m : AMap α) (d : α) (k : Nat) : α := (find? m k).getD d

/-- `m` with key `k` listed with `v`. -/
def insert : AMap α → Nat → α → AMap α
  | [], k, v => [(k, v)]
  | (a, w) :: m, k, v =>
    if k < a then (k, v) :: (a, w) :: m else if k = a then (k, v) :: m else (a, w) :: insert m k v

/-- `m` with key `k` unlisted. -/
def erase (m : AMap α) (k : Nat) : AMap α := m.filter (fun e => decide (e.1 ≠ k))

/-- `m` with key `k` reading `v`, where an unlisted key reads `d`: the canonical write. -/
def setD [DecidableEq α] (m : AMap α) (d : α) (k : Nat) (v : α) : AMap α :=
  if v = d then erase m k else insert m k v

/-- The listed keys. -/
def keys (m : AMap α) : List Nat := m.map (·.1)
/-- The listed values. -/
def vals (m : AMap α) : List α := m.map (·.2)

/-- Keys strictly rising, each above `lo` where `lo` is given. -/
def sortedFrom : Option Nat → AMap α → Bool
  | _, [] => true
  | none, (a, _) :: m => sortedFrom (some a) m
  | some l, (a, _) :: m => decide (l < a) && sortedFrom (some a) m

/-- The canonical form of an association list: keys strictly rising. -/
def wf (m : AMap α) : Bool := sortedFrom none m

/-- The lowest natural number not below `k` that is no key, within `fuel` tries. -/
def lowestFree (m : AMap α) : Nat → Nat → Nat
  | 0, k => k
  | n + 1, k => match find? m k with
    | none => k
    | some _ => lowestFree m n (k + 1)

/-- `f` applied to the entry of `k` where it is listed. -/
def adjust (m : AMap α) (k : Nat) (f : α → α) : AMap α :=
  match find? m k with
  | none => m
  | some v => insert m k (f v)

end AMap

namespace Mem

/-- One byte. -/
def rd (m : Mem) (a : Nat) : Byte := AMap.getD m 0 a
/-- One byte written, in the canonical form. -/
def wr (m : Mem) (a : Nat) (b : Byte) : Mem := AMap.setD m 0 a b

/-- The canonical form of a byte store: addresses strictly rising, no zero byte listed. -/
def wf (m : Mem) : Bool := AMap.wf m && m.all (fun e => decide (e.2 ≠ 0))

/-- `n` bytes from `a`. -/
def rdBytes (m : Mem) (a : Nat) : Nat → List Byte
  | 0 => []
  | n + 1 => rd m a :: rdBytes m (a + 1) n

/-- The bytes `bs` written from `a` upward. -/
def wrBytes (m : Mem) (a : Nat) : List Byte → Mem
  | [] => m
  | b :: bs => wrBytes (wr m a b) (a + 1) bs

/-- The entries of the range [a, a + n), as a part of the list. -/
def slice (m : Mem) (a n : Nat) : Mem := m.filter (fun e => decide (a ≤ e.1) && decide (e.1 < a + n))

/-- `m` with every byte of [a, a + n) zero. -/
def clear (m : Mem) (a n : Nat) : Mem := m.filter (fun e => !(decide (a ≤ e.1) && decide (e.1 < a + n)))

end Mem

/-- The little-endian number of a list of bytes (00 R4). -/
def leNat : List Byte → Nat
  | [] => 0
  | b :: bs => b.toNat + 256 * leNat bs

/-- The `n` low bytes of `v`, lowest first (00 R4). -/
def leBytes : Nat → Nat → List Byte
  | 0, _ => []
  | n + 1, v => BitVec.ofNat 8 v :: leBytes n (v / 256)

/-- The number at byte offset `off`, `n` bytes long, of a byte list; bytes past its end read 0. -/
def leAt (bs : List Byte) (off n : Nat) : Nat := leNat ((bs.drop off).take n)

/-- `n` bytes from offset `off` of a byte list, zeros past its end. -/
def bytesAt (bs : List Byte) (off n : Nat) : List Byte :=
  let t := (bs.drop off).take n
  t ++ List.replicate (n - t.length) 0

/-- Bits [hi:lo] of a number. -/
def bitsOf (v hi lo : Nat) : Nat := (v / 2 ^ lo) % 2 ^ (hi + 1 - lo)
/-- Bit `i` of a number. -/
def bitOf (v i : Nat) : Bool := v.testBit i
/-- 1 for true. -/
def b2n (b : Bool) : Nat := if b then 1 else 0
/-- ⌈a / b⌉. -/
def ceilDiv (a b : Nat) : Nat := (a + b - 1) / b

namespace Mem
/-- The little-endian number of `n` bytes from `a`. -/
def rdLE (m : Mem) (a n : Nat) : Nat := leNat (rdBytes m a n)
/-- The `n` bytes of `v` written little-endian from `a`. -/
def wrLE (m : Mem) (a n v : Nat) : Mem := wrBytes m a (leBytes n v)
end Mem

end Sys2Proof.Machine
end

