-- ==== Sys2Proof/Machine/CoreTypes.lean ====
section
/-! DEFINITION. The state of a core and of a cluster (02_core, 03, 04, 05, 06, 07, 08). -/
namespace Sys2Proof.Machine

/-- A hardware loop (02 R54). -/
structure Loop where
  active : Bool
  count : Nat
  bodyStart : Nat
  bodyEnd : Nat
deriving DecidableEq, Repr

/-- A page descriptor (05 R142), field by field. -/
structure PageDesc where
  addr : Nat
  fmt : Nat
  headsM1 : Nat
  dblkM1 : Nat
  isSealed : Bool
  anchor : Bool
  pageId : Nat
  slot : Nat
  fill : Nat
  twlog : Nat
  vw : Nat
  vh : Nat
  seq : Nat
  layer : Nat
  group : Nat
  landed : Nat
  walkPos : Nat
  walkLen : Nat
deriving DecidableEq, Repr

/-- The transfer operations that stay outstanding (02 R58). -/
inductive XKind | copy | sld | sst | mld | mst | halo | page | vat | accTo | accFrom
deriving DecidableEq, Repr

/-- An outstanding transfer (02 R57): its addresses as taken at issue, the lines of an XVAT applied so far (10 R259), a
line met an uncorrectable word (10 R254), and the descriptor an XPAGE took (05 R141). -/
structure Xfer where
  kind : XKind
  tag : BitVec 4
  dst : Nat
  src : Nat
  len : Nat
  mod : BitVec 4
  lines : Nat
  bad : Bool
  page : Option PageDesc
deriving DecidableEq, Repr

/-- A culture table (06 R167). -/
structure CTable where
  mode : Nat
  flags : Nat
  segs : Nat
  hexp : Int
  q2 : Int
  x0 : W32
  c : W32
  nodes : List W32
deriving DecidableEq, Repr

/-- A table slot of a core: the table of each bank, the active bank, and whether the shadow bank awaits its swap
(06 R170, CORE_TAB_STAT). -/
structure TabSlot where
  act : Option CTable
  shadow : Option CTable
  pend : Bool
  bank : Bool
deriving DecidableEq, Repr

/-- CORE_STATUS.state (02). -/
inductive CState | idle | running | finished | fault
deriving DecidableEq, Repr

/-- What a run does: a plain layer, a write or read layer of the key-value cache, a recurrent update, a merge, or an
update-engine run (05, 07, 13). -/
inductive RunKind | plain | write | read | recur | merge | conv
deriving DecidableEq, Repr

/-- A run that a coach dispatches (04 R109, R113; 14 R361): the step it belongs to, its layer (index in the playbook), the
logical core it runs on, the words of its argument block, its walk and the page position a write run fills. -/
structure Run where
  court : Nat
  ctx : Nat
  step : Nat
  lc : Bool
  playbook : Nat
  layer : Nat
  kind : RunKind
  core : Nat
  seq : Option Nat
  kernel : Nat
  fallback : Bool
  args : List W32
  walk : List PageDesc
  zeroExt : Bool
  kFirst : Bool
  kLast : Bool
  skipTaps : Nat
  contributes : Bool
  pageSlot : Nat
  group : Nat
  block : Nat
  /-- The object address and length of each weight part it reads (12 R322, R323). -/
  parts : List (Nat × Nat)
  /-- What the coach writes to CORE_XCVT0 and CORE_XCVT1, for a layer with a convolution entry (08 R210). -/
  xcvt : Option (W64 × W64)
  /-- The tick at which it was dispatched (14 R377), and whether a recall was asked for it (12 R322). -/
  start : Nat
  recalled : Bool
deriving DecidableEq, Repr

/-- What the slots of a core read and write: its registers, stores and queues. -/
structure CoreRegs where
  st : CState
  pc : Nat
  fault : Code
  nextPc : Nat
  /-- No further bundle issues: stop, halt or fault seen; the code to report (0 finished). -/
  stopping : Option Code
  /-- The stop is that of R48: the bundle has issued, its other slots too, and its matrix operation has changed no cell. -/
  late : Bool
  /-- CORE_CTRL.halt: a stop at the next bundle boundary is requested. -/
  halt : Bool
  /-- CORE_CTRL.run: a start is requested and has not happened (00 R8, R9). -/
  runReq : Bool
  startPc : BitVec 11
  mfmtA : BitVec 4
  mfmtB : BitVec 4
  /-- Mask pairs pm1 to pm3: column mask, row mask; an unlisted pair is all ones. -/
  pmask : AMap (W32 × W32)
  sregs : AMap W64
  vregs : AMap VReg
  istore : Mem
  tb : Mem
  am : Mem
  /-- How stored codewords of the instruction store, the tile buffer and accumulator memory differ from fresh ones, by
  65,536 × store + word; corrected errors counted (02 R37; 10 R251). -/
  flips : AMap (BitVec 72)
  eccCount : Nat
  /-- Whey sums by cell 32i + j (FP32), and the recorded tile base. -/
  whey : AMap W32
  wheyBase : Option Nat
  loops : AMap Loop
  xfers : List Xfer
  /-- Halo arrival counters by direction, and halos written whose arrival a full counter holds (04 R117). -/
  halo : AMap Nat
  haloHeld : AMap Nat
  pageQ : List PageDesc
  /-- Descriptors of the walk the coach has not issued yet. -/
  walkLeft : List PageDesc
  tabs : AMap TabSlot
  xcvt0 : W64
  xcvt1 : W64
  spillCells : W64
  spillFolds : W64
  foldOvf : W64
  qntElems : W64
  qntSat : W64
  srKey : W64
  srCtr : W64
  stateOvf : W64
  run : Option Run
  /-- ACC_QNT_ELEMS and ACC_QNT_SAT when the run started (03, Fallback). -/
  qntElems0 : W64
  qntSat0 : W64
  /-- Events of R378 counted since the last charge, by index: 0 to 2 MACs, 3 vector FMA lanes, 4 special functions. -/
  work : AMap Nat
deriving DecidableEq, Repr

/-- A core: its state now, and as it was before the bundle that is being issued (02 R41, R60). -/
structure Core where
  now : CoreRegs
  pre : CoreRegs
deriving DecidableEq, Repr

/-- What a core posts to its coach (02 R53 SSIG, R60). -/
inductive CoachEvent
  | signal (core : Nat) (w : W32)
  | complete (core : Nat) (code : Code)
deriving DecidableEq, Repr

/-- A page that a coach has staged (05 R143): the step and layer it was staged for, its object address, where it stands and its bytes. -/
structure CachedPage where
  ctx : Nat
  step : Nat
  layer : Nat
  addr : Nat
  off : Nat
  len : Nat
deriving DecidableEq, Repr

/-- A cluster: the CLU_ registers, the failed physical positions, the staging buffer, the coach's event queue and the halo
posts it holds (04, 05, 08). -/
structure Cluster where
  spareUsed : Bool
  sparePos : Nat
  degraded : Bool
  failed : List Nat
  tbReserve : BitVec 2
  stgReserve : BitVec 2
  haloTmo : BitVec 24
  zeroDisp : W64
  shapeRej : W64
  shapeDefer : W64
  rescaleFlush : W64
  kvDesc : W64
  kvSkip : W64
  tapSkip : W64
  staging : Mem
  /-- How stored codewords of the staging buffer differ from fresh ones, by word (10 R251). -/
  flips : AMap (BitVec 72)
  events : List CoachEvent
  halos : List (Nat × Nat)
  /-- Halo posts of runs that have completed, still to be delivered: physical core, word posted, run (04 R118). -/
  owed : List (Nat × W32 × Run)
  /-- Pages that stand in the page cache, a staging region (05 R143): the pages staged. -/
  cache : List CachedPage
deriving DecidableEq, Repr

/-- A core's registers and stores after RESET: the spec's reset values (02, 03, 06, 07, 08), and zero where it gives none
(log entry 1). -/
def CoreRegs.reset : CoreRegs where
  st := .idle
  pc := 0
  fault := 0
  nextPc := 0
  stopping := none
  late := false
  halt := false
  runReq := false
  startPc := 0
  mfmtA := 0
  mfmtB := 0
  pmask := []
  sregs := []
  vregs := []
  istore := []
  tb := []
  am := []
  flips := []
  eccCount := 0
  whey := []
  wheyBase := none
  loops := []
  xfers := []
  halo := []
  haloHeld := []
  pageQ := []
  walkLeft := []
  tabs := []
  xcvt0 := 0
  xcvt1 := 0
  spillCells := 0
  spillFolds := 0
  foldOvf := 0
  qntElems := 0
  qntSat := 0
  srKey := 0
  srCtr := 0
  stateOvf := 0
  run := none
  qntElems0 := 0
  qntSat0 := 0
  work := []

def Core.reset : Core := ⟨.reset, .reset⟩

/-- A cluster after RESET (04 registers). -/
def Cluster.reset : Cluster where
  spareUsed := false
  sparePos := 0
  degraded := false
  failed := []
  tbReserve := 0
  stgReserve := 0
  haloTmo := 0x00325B
  zeroDisp := 0
  shapeRej := 0
  shapeDefer := 0
  rescaleFlush := 0
  kvDesc := 0
  kvSkip := 0
  tapSkip := 0
  staging := []
  flips := []
  events := []
  halos := []
  owed := []
  cache := []

end Sys2Proof.Machine
end

