-- ==== Sys2Proof/Machine/Ecc.lean ====
section
/-! DEFINITION. The (72,64) code of every stored word (10 R251, R252), and the codewords of a core's stores and of a staging buffer
(02 R37). A store of codewords is its data beside the words that are not fresh encodings. -/
namespace Sys2Proof.Machine

/-! The code (10 R251, R252). -/

/-- The columns of data bits 0 to 63. -/
def eccCols : List (BitVec 8) :=
  [0x07, 0x0B, 0x0D, 0x0E, 0x13, 0x15, 0x16, 0x19, 0x1A, 0x1C, 0x23, 0x25, 0x26, 0x29, 0x2A, 0x2C] ++
  [0x31, 0x32, 0x34, 0x38, 0x43, 0x45, 0x46, 0x49, 0x4A, 0x4C, 0x51, 0x52, 0x54, 0x58, 0x61, 0x62] ++
  [0x64, 0x68, 0x70, 0x83, 0x85, 0x86, 0x89, 0x8A, 0x8C, 0x91, 0x92, 0x94, 0x98, 0xA1, 0xA2, 0xA4] ++
  [0xA8, 0xB0, 0xC1, 0xC2, 0xC4, 0xC8, 0xD0, 0xE0, 0xF4, 0xE9, 0xD3, 0xA7, 0x4F, 0x9E, 0x3D, 0x7A]

/-- The check byte of a data word. -/
def eccCheck (d : BitVec 64) : BitVec 8 :=
  ((List.range 64).zip eccCols).foldl (fun c dc => if d.getLsbD dc.1 then c ^^^ dc.2 else c) 0

/-- The syndrome of a codeword that differs from a fresh one by `f`: the code is linear. -/
def eccSyndrome (f : BitVec 72) : BitVec 8 := eccCheck (f.extractLsb' 0 64) ^^^ f.extractLsb' 64 8

/-- What a read makes of a codeword: the error left in the data, and whether a correction is counted; or uncorrectable. -/
inductive EccRes
  | clean (err : BitVec 64)
  | corrected (err : BitVec 64)
  | bad
deriving DecidableEq, Repr

/-- The decoding of a syndrome (10 R252). -/
def eccDecode (f : BitVec 72) : EccRes :=
  let d := f.extractLsb' 0 64
  let sy := eccSyndrome f
  if sy = 0 then .clean d
  else if (List.range 8).any (fun j => sy == (1 : BitVec 8) <<< j) then .corrected d
  else match ((List.range 64).zip eccCols).find? (fun dc => dc.2 == sy) with
    | some dc => .corrected (d ^^^ ((1 : BitVec 64) <<< dc.1))
    | none => .bad

/-! Stores of codewords: data by byte address, and the codewords that are not fresh by word. -/

/-- The words among `ks` that a range (address, bytes) touches. -/
def wordsIn (ks : List Nat) (r : Nat × Nat) : List Nat :=
  if r.2 = 0 then [] else ks.filter (fun w => decide (r.1 < 8 * w + 8) && decide (8 * w < r.1 + r.2))

/-- What is kept of a store of codewords while it is read: data, codewords that are not fresh, words corrected; none once a word was
uncorrectable. -/
abbrev EccStore := Mem × AMap (BitVec 72) × Nat

/-- Word `w` read: corrected in place and counted, or uncorrectable (R252, R253). -/
def EccStore.word (q : EccStore) (w : Nat) : Option EccStore :=
  let put (e : BitVec 64) : Mem :=
    if e = 0 then q.1 else Mem.wrLE q.1 (8 * w) 8 (BitVec.ofNat 64 (Mem.rdLE q.1 (8 * w) 8) ^^^ e).toNat
  match AMap.find? q.2.1 w with
  | none => some q
  | some f => match eccDecode f with
    | .bad => none
    | .clean e => some (put e, AMap.erase q.2.1 w, q.2.2)
    | .corrected e => some (put e, AMap.erase q.2.1 w, q.2.2 + 1)

/-- Words read one after another. -/
def EccStore.words (q : EccStore) (ws : List Nat) : Option EccStore := ws.foldl (fun o w => o.bind (·.word w)) (some q)

/-- Ranges read, then ranges about to be written: a word written whole is stored fresh, one written in part is read first (R254). -/
def EccStore.access (q : EccStore) (rd wr : List (Nat × Nat)) : Option EccStore :=
  if q.2.1 = [] then some q
  else
    let ks := q.2.1.map (·.1)
    (q.words (rd.flatMap (wordsIn ks))).bind (fun q =>
      wr.foldl (fun (o : Option EccStore) r => o.bind (fun q =>
        (wordsIn (q.2.1.map (·.1)) r).foldl (fun (o : Option EccStore) w => o.bind (fun q =>
          if r.1 ≤ 8 * w ∧ 8 * w + 8 ≤ r.1 + r.2 then some (q.1, AMap.erase q.2.1 w, q.2.2) else q.word w)) (some q))) (some q))

namespace CoreRegs

/-- The words of store `k` (0 instruction store, 1 tile buffer, 2 accumulator memory) that are not fresh codewords. -/
def flipsOf (c : CoreRegs) (k : Nat) : AMap (BitVec 72) :=
  (c.flips.filter (fun e => decide (e.1 / 65536 = k))).map (fun e => (e.1 % 65536, e.2))
/-- The same with those of store `k` set. -/
def putFlips (c : CoreRegs) (k : Nat) (m : AMap (BitVec 72)) : AMap (BitVec 72) :=
  m.foldl (fun a e => AMap.insert a (65536 * k + e.1) e.2) (c.flips.filter (fun e => decide (e.1 / 65536 ≠ k)))

/-- Ranges of store `k` read and written by the core: what is corrected is counted; none where a word read is uncorrectable (02 R37). -/
def touch (c : CoreRegs) (k : Nat) (rd wr : List (Nat × Nat)) : Option CoreRegs :=
  if c.flips = [] then some c
  else
    let m := if k = 0 then c.istore else if k = 1 then c.tb else c.am
    (EccStore.access (m, c.flipsOf k, 0) rd wr).map (fun q =>
      let c1 := { c with flips := c.putFlips k q.2.1, eccCount := c.eccCount + q.2.2 }
      if k = 0 then { c1 with istore := q.1 } else if k = 1 then { c1 with tb := q.1 } else { c1 with am := q.1 })

/-- An operation that reads `tr` and writes `tw` of the tile buffer, reads `ar` and writes `aw` of accumulator memory; `bad` is the
answer where a word read is uncorrectable. -/
def guarded {α : Type} (c : CoreRegs) (tr tw ar aw : List (Nat × Nat)) (bad : α) (k : CoreRegs → α) : α :=
  match (c.touch 1 tr tw).bind (fun c => c.touch 2 ar aw) with
  | none => bad
  | some c => k c

/-- An upset of a stored word of store `k`. -/
def upset (c : CoreRegs) (k w : Nat) (f : BitVec 72) : CoreRegs :=
  { c with flips := AMap.setD c.flips 0 (65536 * k + w) (AMap.getD c.flips 0 (65536 * k + w) ^^^ f) }

/-- Every word of the stores read, as the store test does (20 R504): none where one is uncorrectable. -/
def readAll (c : CoreRegs) : Option CoreRegs :=
  ((c.touch 0 [(0, 32768)] []).bind (fun c => c.touch 1 [(0, Config.tileBufferBytes)] [])).bind
    (fun c => c.touch 2 [(0, Config.accBytes)] [])

/-- Whether outstanding transfers hold a KiB of accumulator memory that an operation reads (or, where `wr`, writes): one that writes it
holds it from both, one that reads it from a write (02 R41). -/
def amHeld (c : CoreRegs) (wr : Bool) (rs : List (Nat × Nat)) : Bool :=
  let meets (a n : Nat) : Bool := rs.any (fun r => decide (r.1 / 1024 ≤ (a + n - 1) / 1024) && decide (a / 1024 ≤ (r.1 + r.2 - 1) / 1024))
  c.xfers.any (fun x => match x.kind with
    | .accTo => meets x.dst x.len
    | .accFrom => wr && meets x.src x.len
    | _ => false)

end CoreRegs

/-- Ranges of a staging buffer read and written: none where a word read is uncorrectable. -/
def Cluster.touch (c : Cluster) (rd wr : List (Nat × Nat)) : Option Cluster :=
  if c.flips = [] then some c
  else (EccStore.access (c.staging, c.flips, 0) rd wr).map (fun q => { c with staging := q.1, flips := q.2.1 })

end Sys2Proof.Machine
end

