-- ==== Sys2Proof/Machine/PlanTypes.lean ====
section
/-! DEFINITION. Playbooks as loaded (04 R97 to R116, 03 R87, 05 R144, 07 R188, 08 R211, 09 R225, 12 R308), the fallback
monitor's records (03), and the image of a court configuration (16 R427 to R429). -/
namespace Sys2Proof.Machine

/-- A kernel of the directory: its bundles and its constant list (04 R99). -/
structure Kernel where
  bundles : List (BitVec 128)
  consts : List Nat
deriving DecidableEq, Repr

/-- A loop entry (04 R106); `resv` holds its reserved bits. -/
structure LoopEnt where
  dim : Nat
  level : Nat
  count : Nat
  resv : Nat
deriving DecidableEq, Repr

/-- A layer entry (04 R105). -/
structure Layer where
  layer : Nat
  loopCount : Nat
  flags : Nat
  mSpec : Nat
  nSpec : Nat
  kSpec : Nat
  gSpec : Nat
  ySpec : Nat
  xSpec : Nat
  loops : List LoopEnt
  bufSet : Nat
  haloFirst : Nat
  haloCount : Nat
  stateTiles : Nat
  kbMb : Nat
  resv : Bool
deriving DecidableEq, Repr

/-- A halo entry (04 R116). -/
structure HaloEnt where
  dir : Nat
  resv : Nat
  layer : Nat
  src : Nat
  dst : Nat
  bytes : Nat
deriving DecidableEq, Repr

/-- A region entry (04 R110). -/
structure Region where
  store : Nat
  role : Nat
  flags : Nat
  aliasOf : Nat
  offset : Nat
  sizeP : Nat
  sizeF : Nat
deriving DecidableEq, Repr

/-- A buffer set (04 R110). -/
structure BufSet where
  first : Nat
  count : Nat
  resv : Nat
deriving DecidableEq, Repr

/-- A precision-plan entry (03 R87). -/
structure PrecEnt where
  layer : Nat
  aFmt : Nat
  bFmt : Nat
  fbFmt : Nat
  policy : Nat
  threshold : Nat
  window : Nat
  wheyOff : Nat
  wheyBlocks : Nat
  krnP : Nat
  krnF : Nat
  resv : Bool
deriving DecidableEq, Repr

/-- An attention entry (05 R144). -/
structure AttEnt where
  layer : Nat
  role : Nat
  flags : Nat
  fmt : Nat
  twlog : Nat
  kvHeads : Nat
  dblk : Nat
  qPerKv : Nat
  groups : Nat
  kvIndex : Nat
  frameW : Nat
  frameH : Nat
  tBack : Nat
  tFwd : Nat
  rx : Nat
  ry : Nat
  anchors : Nat
  krnMerge : Nat
  keepFrames : Nat
  resv : Bool
deriving DecidableEq, Repr

/-- A recurrent entry (07 R188). -/
structure RecEnt where
  layer : Nat
  stateIndex : Nat
  channels : Nat
  nsLog2 : Nat
  tilesPerCore : Nat
  coreFirst : Nat
  coreCount : Nat
  resv : Bool
deriving DecidableEq, Repr

/-- A convolution entry (08 R211). -/
structure ConvEnt where
  layer : Nat
  kind : Nat
  flags : Nat
  kh : Nat
  kw : Nat
  sy : Nat
  sx : Nat
  dy : Nat
  dx : Nat
  padMode : Nat
  regroup : Nat
  pt : Nat
  pb : Nat
  pl : Nat
  pr : Nat
  cIn : Nat
  cOut : Nat
  groups : Nat
  inYSpec : Nat
  inXSpec : Nat
  resv : Bool
deriving DecidableEq, Repr

/-- A rollout entry (09 R225). -/
structure RollEnt where
  scoreLayer : Nat
  runSteps : Nat
  resv : Bool
deriving DecidableEq, Repr

/-- A weight entry (12 R308). -/
structure WgtEnt where
  layer : Nat
  parts : Nat
  experts : Nat
  k : Nat
  n : Nat
  resv : Bool
deriving DecidableEq, Repr

/-- The parsed image of a playbook (04 R97 to R99). -/
structure Plan where
  minDies : Nat
  digest : List Byte
  kernels : List Kernel
  /-- The bundle count each directory entry states (0 or above 2,048 is E_KRN_SIZE). -/
  bundleCounts : List Nat
  shapeMax : List Nat
  layers : List Layer
  halos : List HaloEnt
  bufsets : List BufSet
  regions : List Region
  prec : List PrecEnt
  /-- The whey section: the image offset of its first list, and its 64-byte lists; a list starts at a multiple of 64 (03 R80). -/
  wheyBase : Nat
  whey : List (List Nat)
  tensors : List (List Byte)
  att : List AttEnt
  recs : List RecEnt
  conv : List ConvEnt
  roll : List RollEnt
  wgt : List WgtEnt
deriving DecidableEq, Repr

/-- A loaded playbook: its court and context, the mailbox that loaded it, the weight set it is bound to (0 none), the
playbook a waiting replacement replaces, and its request when its response is still due (04 R120, R123; 12 R326). -/
structure Playbook where
  court : Nat
  ctx : Nat
  mbx : Nat
  plan : Plan
  set : Nat
  replaces : Nat
  installed : Bool
  reqSeq : Nat
deriving DecidableEq, Repr

/-- The fallback monitor's record of a court and layer (03 R89, R93). -/
structure FbRec where
  fallback : Bool
  policy : Nat
  threshold : Nat
  window : Nat
  sat : Nat
  elems : Nat
  steps : Nat
  lastRate : Nat
  windows : Nat
deriving DecidableEq, Repr

/-- A court record (16 R428) with the court's scheduling record (14 R354). -/
structure CourtRec where
  defined : Bool
  tbReserve : Nat
  stgReserve : Nat
  dies : Nat
  huddleBytes : Nat
  roster : Bool
  stepSeqs : Nat
  returnBytes : Nat
  /-- KV pools by class: base, stride, pages (05 R132). -/
  pools : List (Nat × Nat × Nat)
deriving DecidableEq, Repr

/-- A context record (14 R355). -/
structure CtxRec where
  court : Nat
  lc : Bool
  maxSeqs : Nat
  seed : Nat
  benchQuota : Nat
deriving DecidableEq, Repr

/-- A mailbox record (16 R429). -/
structure MbxRec where
  lc : Bool
  map : Nat
deriving DecidableEq, Repr

/-- A configuration image, parsed, beside its bytes (16 R427). -/
structure CfgImage where
  bytes : List Byte
  courts : AMap CourtRec
  ctxs : AMap CtxRec
  /-- Quota limits in bytes by 4 × client + tier. -/
  quotas : AMap Nat
  mbxs : AMap MbxRec
deriving DecidableEq, Repr

def CfgImage.empty : CfgImage := ⟨[], [], [], [], []⟩

end Sys2Proof.Machine
end

