-- ==== Sys2Proof/Machine/MemTypes.lean ====
section
/-! DEFINITION. The umpire's mailboxes and requests (16), stack memory and channels (10), objects and tiers (11). -/
namespace Sys2Proof.Machine

/-- A request the umpire has accepted: its mailbox, the header's fields, its class, its payload (16 R419, R429), and the tick at which it
was accepted. -/
structure Req where
  mbx : Nat
  op : Nat
  ctx : Nat
  seq : Nat
  lc : Bool
  body : List Byte
  taken : Nat
deriving DecidableEq, Repr

/-- An event that waits for room in a response ring: opcode, context, number, payload (16 R418, R420). -/
structure Event where
  op : Nat
  ctx : Nat
  seq : W32
  body : List Byte
deriving DecidableEq, Repr

/-- A mailbox (16 R415 to R424): its registers, its rings' window of 32 KiB (request ring, then response ring), its
session, and what waits for its response ring. -/
structure Mbx where
  reqTail : BitVec 16
  reqHead : BitVec 16
  rspTail : BitVec 16
  rspHead : BitVec 16
  session : Bool
  stalled : Bool
  irqEn : Bool
  verMajor : Byte
  verMinor : Byte
  evDrop : W32
  /-- The expected sequence number, and the event count of the session. -/
  expect : W32
  evCount : W32
  /-- Events were dropped since the last one delivered. -/
  dropMark : Bool
  events : List Event
  /-- Requests accepted and not yet answered. -/
  due : Nat
  held : List (List Byte)
  /-- The interrupt is raised to the served party. -/
  irq : Bool
  /-- A debug or management session's connection is open (19 R494), or an application mailbox is closed (19 R482). -/
  closed : Bool
  win : Mem
deriving DecidableEq, Repr

/-- A configuration slot: its image and generation (16 R430). -/
structure CfgSlot where
  img : CfgImage
  gen : Nat
deriving DecidableEq, Repr

/-- A trial window: the generation on trial, the seconds left, the slot it reverts to (16 R432, R434), and the mismatches that
the audits had found at the last health check. -/
structure Trial where
  gen : Nat
  left : Nat
  prev : Nat
  mism : Nat
deriving DecidableEq, Repr

/-- A firmware update in progress: its request, phase, pauses, versions and image digest (16 R437). -/
structure FwUpd where
  req : Req
  phase : Nat
  pause : Nat
  oldVer : Nat
  newVer : Nat
  digest : List Byte
  image : List Byte
deriving DecidableEq, Repr

/-- The umpire's state (16). -/
structure Ump where
  mbxs : AMap Mbx
  intake : List Req
  /-- The mailboxes served last in the two classes (16 R440, round-robin). -/
  rrLc : Nat
  rrBe : Nat
  /-- 0 hub 0, 1 hub 2; standby 0 none, 1 syncing, 2 ready (UMP_STATUS). -/
  acting : Nat
  standby : Nat
  failovers : W64
  busyCount : W64
  slot0 : CfgSlot
  slot1 : CfgSlot
  active : Nat
  committed : Nat
  trial : Option Trial
  /-- A failover has occurred in the trial window (H3). -/
  trialFailover : Bool
  /-- A trial ended by a start-up, to be told to the first management session (16 R435). -/
  trialNote : Bool
  fw : Option FwUpd
  /-- The failed pair is being restored; the tick of the last failure of each pair, by hub (20 R506). -/
  restoring : Bool
  failTicks : AMap Nat
  /-- Housekeeping tasks pending: kind and the tick since when (16 R440). -/
  tasks : List (HkKind × Nat)
deriving DecidableEq, Repr

def Mbx.reset : Mbx where
  reqTail := 0
  reqHead := 0
  rspTail := 0
  rspHead := 0
  session := false
  stalled := false
  irqEn := true
  verMajor := 0
  verMinor := 0
  evDrop := 0
  expect := 0
  evCount := 0
  dropMark := false
  events := []
  due := 0
  held := []
  irq := false
  closed := false
  win := []

/-- A memory channel and its VAT_ registers (10 R263, registers): counts of the counting hour, the vat generator. -/
structure Channel where
  st : Nat
  ceHour : Nat
  ueHour : Nat
  ue : Nat
  srKey : W64
  srCtr : W64
  ops : W64
  /-- The channel's sweep of the current scrub period is complete (10 R256, R257). -/
  swept : Bool
deriving DecidableEq, Repr

/-- An entry of a slot table that is not at its default: the slot named (10 R250). -/
structure SlotEnt where
  chan : Nat
  frame : Nat
  level : Nat
deriving DecidableEq, Repr

/-- A map-out in progress: its channel, step (1 vacating, 2 evacuating slices, 3 rehoming), what it counted, its request
where a message asked for it, and the step-1 failure (10 R264, R271). -/
structure MapOut where
  chan : Nat
  step : Nat
  slices : Nat
  ueMoved : Nat
  req : Option Req
deriving DecidableEq, Repr

/-- A relocation of a fresh block within fresh (11 R284): the region it goes to, how often dirty tiles have been copied again, and the tiles
that writes have reached since they were copied. -/
structure Reloc where
  dest : Nat
  rounds : Nat
  dirty : List Nat
deriving DecidableEq, Repr

/-- Stack memory (10). `stack` is the data of every stack word by stack byte address; `flips` lists, by word address
(address / 8), how a stored codeword differs from a fresh encoding of its word: bits [63:0] data, [71:64] check bits. -/
structure MemSt where
  stack : Mem
  flips : AMap (BitVec 72)
  chans : AMap Channel
  /-- Homes of buckets that are not at their default (10 R249). -/
  homes : AMap Nat
  /-- Remapped slices by 512 × bucket + level (10 R250, state 1). -/
  slots : AMap SlotEnt
  vacated : Nat
  auto : Bool
  floor : BitVec 10
  ceLimit : BitVec 16
  scrubOn : Bool
  scrubPeriod : BitVec 11
  sweeps : W32
  chanSel : BitVec 9
  ceTotal : W64
  ueTotal : W64
  mapout : Option MapOut
  /-- Automatic triggers that met E_MAP_BUSY (10 R263). -/
  retry : List Nat
  /-- Relocations of fresh blocks in progress, by source region (11 R284). -/
  relocs : AMap Reloc
deriving DecidableEq, Repr

def Channel.reset : Channel where
  st := 0
  ceHour := 0
  ueHour := 0
  ue := 0
  srKey := 0
  srCtr := 0
  ops := 0
  swept := false

def MemSt.reset : MemSt where
  stack := []
  flips := []
  chans := []
  homes := []
  slots := []
  vacated := 0
  auto := true
  floor := 0
  ceLimit := 1000
  scrubOn := true
  scrubPeriod := 360
  sweeps := 0
  chanSel := 0
  ceTotal := 0
  ueTotal := 0
  mapout := none
  retry := []
  relocs := []

/-- Where a block lives (11 R275 to R277): a fresh region; a pressed image of `len` bytes in 4 KiB chunks (stack address
/ 4,096); a cave image in a package, with the tiles whose flash pages the controller cannot correct (11 R280). -/
inductive Home
  | fresh (region : Nat)
  | pressed (len : Nat) (chunks : List Nat)
  | cave (pkg : Nat) (img : List Byte) (lost : List Nat)
deriving DecidableEq, Repr

/-- What a stack region is used for: a fresh block, or chunks (0 to 63) of pressed images (11 R277). -/
inductive RegUse
  | fresh (block : Nat)
  | pressed (used : List Nat)
deriving DecidableEq, Repr

/-- What an object is for (11 R279, R533): a client's object, one the module made for a context (score table, codec context, bench image), a
court area, or the directory and leaves of a sequence's page list (05 R134). -/
inductive ObjUse
  | client
  | made
  | bench
  | pools (court : Nat)
  | huddle (court : Nat)
  | stepArea (court : Nat)
  | returns (court : Nat)
  | lists (court : Nat)
  | roster
deriving DecidableEq, Repr

/-- A move of an object in progress (11 R281 to R286): destination tier, blocks moved, its reservation in units of 4 KiB, its request
(none: the module's own), the free request that stops it, its place in the order of acceptance, and whether its next block is in the
state moving (11 R275, R283). -/
structure Move where
  dest : Nat
  moved : Nat
  resv : Nat
  req : Option Req
  freeing : Option Req
  order : Nat
  moving : Bool
deriving DecidableEq, Repr

/-- An object (11 R273, R298). -/
structure Obj where
  size : Nat
  kind : Nat
  flags : Nat
  owner : Option Nat
  use : ObjUse
  move : Option Move
deriving DecidableEq, Repr

/-- A flash package: CAV_PKG_STAT, its least erase count, and the bytes retired (11 R295, R297). -/
structure Pkg where
  mean : Nat
  most : Nat
  least : Nat
  retired : Nat
deriving DecidableEq, Repr

/-- Objects, the block map, quotas and the cave (11). -/
structure TierSt where
  /-- Objects by first block. -/
  objs : AMap Obj
  /-- The block map: a block that is not listed is free. -/
  blocks : AMap Home
  regs : AMap RegUse
  /-- Limits and used counts in 4 KiB units by 4 × client + tier. -/
  limit : AMap Nat
  used : AMap Nat
  moves : W64
  selClient : BitVec 10
  selTier : BitVec 2
  budget : BitVec 16
  written : W64
  pkgSel : BitVec 5
  pkgs : AMap Pkg
  /-- Bytes programmed into the cave, by tick (11 R296). -/
  progLog : List (Nat × Nat)
  /-- Objects whose move waits for the programming budget, in order of acceptance (11 R296), and the moves accepted. -/
  budgetWait : List Nat
  accepted : Nat
  /-- Flash bytes retired, and those lost beyond the reserve (11 R297). -/
  retiredBytes : Nat
  caveLost : Nat
deriving DecidableEq, Repr

def TierSt.reset : TierSt where
  objs := []
  blocks := []
  regs := []
  limit := []
  used := []
  moves := 0
  selClient := 0
  selTier := 0
  budget := 750
  written := 0
  pkgSel := 0
  pkgs := []
  progLog := []
  budgetWait := []
  accepted := 0
  retiredBytes := 0
  caveLost := 0

def CfgSlot.empty : CfgSlot := ⟨.empty, 1⟩

def Ump.reset : Ump where
  mbxs := [64, 65, 66, 67].map (fun m => (m, { Mbx.reset with closed := true }))
  intake := []
  rrLc := 0
  rrBe := 0
  acting := 0
  standby := 0
  failovers := 0
  busyCount := 0
  slot0 := .empty
  slot1 := .empty
  active := 0
  committed := 0
  trial := none
  trialFailover := false
  trialNote := false
  fw := none
  restoring := false
  failTicks := []
  tasks := []

end Sys2Proof.Machine
end

