-- ==== Sys2Proof/Machine/SeqTypes.lean ====
section
/-! DEFINITION. Pages (05), sequences, streams and futures (05, 07, 09, 14), steps and contexts (14). -/
namespace Sys2Proof.Machine

/-- A page that is not free (05 R131): its record, the context whose page it is (14 R364), its slot, kv_index and head group (05 R126,
R135). -/
structure Page where
  refs : Nat
  isSealed : Bool
  fill : Nat
  owner : Nat
  frame : Nat
  first : Nat
  ctx : Nat
  slot : Nat
  kv : Nat
  group : Nat
deriving DecidableEq, Repr

/-- The states of a stream (07 R202): it is exporting or importing while a copy of it is in progress. -/
inductive StreamSt | resident | benched | lost
deriving DecidableEq, Repr

/-- A stream (07 R188 to R205): state, state sequence number, slot, and where its image lies while it holds no slot: none
(zero state), a bench image (by first block), or a parked image (its object address). -/
structure Stream where
  st : StreamSt
  seqNo : W64
  slot : Option Nat
  image : Option Nat
  bench : Option Nat
deriving DecidableEq, Repr

/-- What waits at the boundary of a sequence, in order of acceptance (07 R195, 09 R226 to R233, 12 R312, 14 R381). -/
inductive Wait
  | branch (r : Req) (sealFlag : Bool) (dest : Nat) (children : List Nat)
  | sealPages (r : Req)
  | prune (group : Nat) (subtree : Bool)
  | fin (r : Req)
  | repin (r : Req)
  | exporting (r : Req) (mode dest : Nat)
deriving DecidableEq, Repr

/-- A copy of a stream in progress (07 R195): an export or an import, with the request it answers. -/
structure Copy where
  isExport : Bool
  req : Req
  mode : Nat
  addr : Nat
  len : Nat
  check : Bool
  expect : Nat
  /-- The slot that the stream holds was taken for this import (07 R199, R202). -/
  took : Bool
deriving DecidableEq, Repr

/-- A sequence: its roster entry (14 R369), and what else the module holds for it: the mailbox that admitted it, its
future's identifiers (09 R224), its stream, its page list (flat entry to page id, 05 R134) with the object that holds the list's bytes (its
first block) and the leaves allocated in it (directory entry to 2 KiB unit of the object), its reserves (05 R133, 14 R363), the next unused
page slot, the first slot and frame of its chunk (05 R157), what waits at its boundary, its copy in progress, the branch image of its state
at this boundary (09 R229), the steps it ran since it became resident and the tick at which it was benched (09 R237). -/
structure Seq where
  st : Nat
  isFuture : Bool
  paused : Bool
  hasStream : Bool
  ctx : Nat
  court : Nat
  playbook : Nat
  gen : Nat
  adapter : Nat
  passes : Nat
  pass : Nat
  tokens : Nat
  chunk : Nat
  lastStatus : Code
  stateSeq : W64
  frame : Nat
  served : Nat
  contrib : List W32
  future : Nat
  steps : Nat
  mbx : Nat
  parent : Nat
  family : Nat
  depth : Nat
  pruning : Bool
  stream : Stream
  pages : AMap Nat
  lst : Option Nat
  leaves : AMap Nat
  resvPages : Nat
  resvCave : Nat
  nextSlot : Nat
  chunkSlot : Nat
  chunkFrame : Option Nat
  waits : List Wait
  copy : Option Copy
  branchImg : Option Nat
  runs : Nat
  benchedAt : Nat
deriving DecidableEq, Repr

/-- A bench image (07 R197, 09 R229): the object that holds it is keyed by its first block; its length, holders and
context, and the state sequence number it carries. -/
structure Bench where
  ctx : Nat
  len : Nat
  holders : Nat
  seqNo : W64
deriving DecidableEq, Repr

/-- The prunes that one message asked for: its request, how many are left, what they have pruned and returned so far, and the
response of a MSG_FUTURE_SCORE (09 R234, R241, R242). -/
structure PruneGroup where
  req : Req
  left : Nat
  futures : Nat
  pages : Nat
  body : Option (List Byte)
deriving DecidableEq, Repr

/-- A sequence step of a step (14 R358), with the contribution to the shape vector bound at its formation (14 R370). -/
structure StepEnt where
  seq : Nat
  sealFlag : Bool
  expect : W64
  anyState : Bool
  sv : List Nat
deriving DecidableEq, Repr

/-- The huddle of a layer in a step: buffer address and size, counter address, contributors due, whether the consumers are
released, and the ring huddle's stage (05 R155, 17 R456). -/
structure Huddle where
  buf : Nat
  size : Nat
  ctr : Nat
  need : Nat
  released : Bool
  ring : Bool
  stage : Nat
deriving DecidableEq, Repr

/-- A step that is formed and not complete (14 R358): its entries, shape vector, the fallback mode of every layer bound at
formation, the layer being run (index in the playbook), the runs of that layer not complete yet, its status, the batch
request it answers, the pages its write layers wrote, the streams whose update runs have started, its huddles and merge
records by layer index (05 R152, R155), and whether the layer being run waits for its merge (05 R153). -/
structure Step where
  court : Nat
  ctx : Nat
  num : Nat
  lc : Bool
  playbook : Nat
  shape : List Nat
  ents : List StepEnt
  modes : AMap Bool
  layer : Nat
  left : Nat
  status : Code
  batch : Option Req
  wrote : List Nat
  updated : List Nat
  huddles : AMap Huddle
  merges : AMap (Nat × Nat)
  mergeDue : Bool
  /-- The merge of the layer being run has been dispatched (05 R153; 14 R360). -/
  merged : Bool
  /-- Merge records that other modules have delivered, and this module's own once sent: 16 × layer index + position (17 R457). -/
  mergeGot : List Nat
  done : Bool
  formedAt : Nat
  /-- Saturated and quantised elements by layer number (03 R89). -/
  counts : AMap (Nat × Nat)
  /-- The index of the first entry that failed (R375). -/
  failAt : Option Nat
deriving DecidableEq, Repr

/-- A fixed-mode batch that is queued (14 R375). -/
structure Batch where
  req : Req
  court : Nat
  playbook : Nat
  shape : List Nat
  ents : List StepEnt
  /-- The fallback mode of every layer, bound at submission (03 R90), and the generation (12 R315). -/
  modes : AMap Bool
  gen : Nat
deriving DecidableEq, Repr

/-- The run-time state of a context (14 R356 to R366). -/
structure CtxSt where
  /-- 0 idle, 1 resident, 2 benched, 3 caved. -/
  st : Nat
  slot : Nat
  steps : Nat
  lastFormed : Nat
  /-- Ticks since when it is blocked, and since when it is runnable. -/
  blockedAt : Nat
  runnableAt : Nat
  queue : List Batch
  /-- No further step is formed (R366 rule 4). -/
  withheld : Bool
  /-- Its pages are back in fresh after a caving (R367). -/
  returned : Bool
deriving DecidableEq, Repr

def CtxSt.idle : CtxSt := ⟨0, 0, 0, 0, 0, 0, [], false, true⟩

/-- A run that is queued or has run, with what its completion needs: the seal of its step's pages is the step's. -/
structure SchSt where
  ctxs : AMap CtxSt
  seqs : AMap Seq
  pages : AMap Page
  benches : AMap Bench
  prunes : AMap PruneGroup
  steps : List Step
  /-- Runs dealt and not started, in dispatch order (R361). -/
  queue : List Run
  /-- How many runs of a step were dispatched to a core: key step number × 32768 + core, per context (R359). -/
  dispatched : AMap Nat
  /-- Cores on which a core block is open: context, step, layer and block by logical core (R361). -/
  openBlk : AMap (Nat × Nat × Nat × Nat)
  nextFuture : Nat
  /-- The parent of every future id assigned (09 R224, R234). -/
  parents : AMap Nat
  /-- Score tables by playbook: first block of the object (09 R235). -/
  scores : AMap Nat
  tokGranted : W64
  tokUsed : W64
  tokDropped : W64
  selCtx : BitVec 10
  ecoefSel : BitVec 4
  benchings : W32
  cavings : W32
  /-- Order of formations: a counter of the model (R366, R372: 'whose last step was formed earliest'). -/
  order : Nat
deriving DecidableEq, Repr

def SchSt.reset : SchSt where
  ctxs := []
  seqs := []
  pages := []
  benches := []
  prunes := []
  steps := []
  queue := []
  dispatched := []
  openBlk := []
  nextFuture := 1
  parents := []
  scores := []
  tokGranted := 0
  tokUsed := 0
  tokDropped := 0
  selCtx := 0
  ecoefSel := 0
  benchings := 0
  cavings := 0
  order := 1

/-- The fallback monitor and the loaded playbooks and tables (03, 04, 06). -/
structure BookSt where
  /-- Playbooks by identifier. -/
  books : AMap Playbook
  nextBook : Nat
  /-- Monitor records by 4096 × court + layer. -/
  fb : AMap FbRec
  fbEnable : Bool
  fbWindow : BitVec 11
  fbSelCourt : BitVec 3
  fbSelLayer : BitVec 12
  /-- Culture tables by 8 × court + slot: generation, image; and the load whose response is due. -/
  tables : AMap (Nat × CTable)
  tableReq : AMap Req
deriving DecidableEq, Repr

def BookSt.reset : BookSt := ⟨[], 1, [], true, 64, 0, 0, [], []⟩

end Sys2Proof.Machine
end

