-- ==== Sys2Proof/Machine/SvcTypes.lean ====
section
/-! DEFINITION. Weights (12), fault records and audits (20), the ledger (14). -/
namespace Sys2Proof.Machine

/-- A part of a shard (12 R305). -/
structure Part where
  layer : Nat
  part : Nat
  fmt : Nat
  expert : Nat
  k : Nat
  n : Nat
  off : Nat
  bytes : Nat
deriving DecidableEq, Repr

/-- A registered shard, or one whose registration waits for its hash (12 R307, R322, R323): keyed by its object's first
block. `gen` 0: an adapter's shard; `since`: the tick at which its hash began; its digest once hashed; its place in the order of
registration. -/
structure Shard where
  set : Nat
  gen : Nat
  adapter : Nat
  owner : Nat
  recallTier : Nat
  registered : Bool
  corrupt : Bool
  parts : List Part
  req : Option Req
  since : Nat
  digest : List Byte
  order : Nat
deriving DecidableEq, Repr

/-- A live generation: 0 staged, 1 current, 2 retiring; whether it was committed with the keep flag (12 R304, R316). -/
structure Gen where
  st : Nat
  keep : Bool
deriving DecidableEq, Repr

/-- A weight set (12 R304, R321). -/
structure WSet where
  shared : Bool
  owner : Nat
  next : Nat
  gens : AMap Gen
deriving DecidableEq, Repr

/-- An adapter (12 R317, R320). -/
structure Adapter where
  obj : Nat
  ctx : Nat
  set : Nat
  released : Bool
deriving DecidableEq, Repr

structure WgtSt where
  sets : AMap WSet
  shards : AMap Shard
  adapters : AMap Adapter
  priv : List Nat
  selSet : BitVec 6
  selGen : W32
  digOn : Bool
  digPeriod : Byte
  passes : W32
  failures : Nat
  extra : W64
  recalls : W64
deriving DecidableEq, Repr

def WgtSt.reset : WgtSt := ⟨[], [], [], [], 0, 0, true, 24, 0, 0, 0, 0⟩

/-- A fault record (20 R501); number, counter and boot count are set when the umpire takes it in. -/
structure FRec where
  number : Nat
  counter : W64
  boot : W32
  code : Code
  severity : Nat
  action : Nat
  ctx : Nat
  court : Nat
  source : Nat
  step : Nat
  addr : Nat
  d0 : Nat
  d1 : Nat
deriving DecidableEq, Repr

/-- The records a unit holds (20 R503): those it raised, with whether the umpire has taken them in; how many it
suppressed, the first code and the highest severity among those. -/
structure UnitQ where
  recs : List (FRec × Bool)
  suppressed : Nat
  firstCode : Code
  topSeverity : Nat
deriving DecidableEq, Repr

def UnitQ.empty : UnitQ := ⟨[], 0, 0, 0⟩

/-- An audit's counters (AUD_STAT, AUD_LAST; the register shows mismatches and late passes up to 65,535). -/
structure Aud where
  passes : W32
  mismatches : Nat
  late : Nat
  last : W64
deriving DecidableEq, Repr

structure FltSt where
  /-- Records held by units, by hierarchical identifier. -/
  units : AMap UnitQ
  /-- The flash log by record number. -/
  log : AMap FRec
  count : W64
  pairsRetired : Nat
  audSel : BitVec 3
  auds : AMap Aud
deriving DecidableEq, Repr

def FltSt.reset : FltSt := ⟨[], [], 0, 0, 0, []⟩

/-- The ledger (14 R376 to R379). Items: 0 core, 1 update, 2 codec, 3 hash time (accumulators in ACLK cycles, lines in microseconds); 4 to 9
fresh, pressed, cave bytes read and written; 10 energy; 11 sequence steps. -/
structure LedgerSt where
  /-- The accumulators of clusters and hubs by 65,536 × unit + 16 × slot + item: residency slots 0 to 127, 128 for the unattributed line,
  1,024 + client for a client that holds no slot (log entry 86). -/
  acc : AMap Nat
  /-- Lines by 16 × line + item. -/
  lines : AMap W64
  folds : W64
  /-- The tick up to which idle cores' leakage and clocks are counted, and the core-ticks of runs that have ended since then. -/
  since : Nat
  busy : Nat
deriving DecidableEq, Repr

def LedgerSt.reset : LedgerSt := ⟨[], [], 0, 0, 0⟩

end Sys2Proof.Machine
end

