-- ==== Sys2Proof/Machine/SysTypes.lean ====
section
/-! DEFINITION. The state of start-up and security (19, 21), clocks and power (18), and the update engine (13). -/
namespace Sys2Proof.Machine

/-- Start-up, keys, the debug port and the firmware banks (19). -/
structure SecSt where
  /-- SEC_BOOT: the step of R482 in progress (8 at SERVE, 9 in recovery), whether start-up failed there, and its code. -/
  step : Nat
  failed : Bool
  fault : Code
  /-- MOD_READY (21 R522). -/
  ready : Bool
  /-- The levels of RESET_N and CAB_PGOOD (21 R521). -/
  resetN : Bool
  pgood : Bool
  bootCount : W32
  /-- The current bundle bank is B; the images in the banks. -/
  bank : Bool
  bankA : List Byte
  bankB : List Byte
  /-- The firmware that runs: its version and the digest that is its measurement. -/
  fwVersion : Nat
  fwDigest : List Byte
  rbSel : BitVec 6
  /-- Fuses blown in each anti-rollback counter (R491), and the revoked key slots (R493). -/
  fuses : AMap Nat
  fwRevoked : List Nat
  dbgRevoked : List Nat
  /-- Management trust anchors by slot (R495). -/
  anchors : AMap (List Byte)
  /-- The debug level in force, and the tick at which the unlock ends (R498). -/
  unlocked : Option Nat
  unlockEnd : Nat
  /-- The current challenge and the tick at which it lapses. -/
  challenge : Option (List Byte × Nat)
  /-- An unlock token that arrives: the next part, how many parts, the bytes so far. -/
  token : Option (Nat × Nat × List Byte)
  /-- The generation that the session certificate carries (R492). -/
  certGen : Nat
deriving DecidableEq, Repr

def SecSt.reset : SecSt where
  step := 1
  failed := false
  fault := 0
  ready := false
  resetN := false
  pgood := false
  bootCount := 0
  bank := false
  bankA := []
  bankB := []
  fwVersion := 0
  fwDigest := []
  rbSel := 0
  fuses := []
  fwRevoked := []
  dbgRevoked := []
  anchors := []
  unlocked := none
  unlockEnd := 0
  challenge := none
  token := none
  certGen := 0

/-- The SMBus interface (21 R525): SMB_ALERT_N asserted; the static address (12 bytes; all zero selects DHCP); the transfer that
is being assembled (its kind, and its bytes); the two bits of XFER_STATUS; what the last read returned, and whether the last
transaction was NACKed. -/
structure SmbSt where
  alert : Bool
  addr : List Byte
  xfer : Option (Nat × Mem)
  anchorRefused : Bool
  bundleRefused : Bool
  out : List Byte
  nack : Bool
deriving DecidableEq, Repr

def SmbSt.reset : SmbSt := ⟨false, [0, 0, 0, 0, 0, 0, 0, 0, 0, 0, 0, 0], none, false, false, [], false⟩

/-- A court's power state (18 R468 to R472): PS0 to PS4; an entry into the next state in progress; whether an exit follows an
entry that is past its last abort point, or is in progress; the microseconds a wake reports; the tick since when the court is
idle, plus 1 (0: it is not idle). -/
structure CourtPwr where
  st : Nat
  entering : Bool
  waking : Bool
  exitUs : Nat
  idleSince : Nat
deriving DecidableEq, Repr

def CourtPwr.reset : CourtPwr := ⟨0, false, false, 0, 0⟩

/-- Clocks, power and thermal state (18). -/
structure PwrSt where
  locked : Bool
  holdover : Bool
  /-- The reference is within tolerance (R465). -/
  refGood : Bool
  profile : Nat
  /-- What is withheld from array issue and from vector issue, in 1/64 of ACLK cycles (R477). -/
  capA : Nat
  capV : Nat
  beHeld : Bool
  courtSel : BitVec 3
  courts : AMap CourtPwr
  /-- The module is in PS5. -/
  ps5 : Bool
  /-- Tolerances in µs: by 1,024 × court + context (default 1), by court (default 30,000), and the module's. -/
  tolCtx : AMap Nat
  tolCourt : AMap Nat
  tolModule : Nat
  now : Nat
  mean : Nat
  blades : BitVec 60
  throttle : W64
  /-- The instantaneous limiters act (R476). -/
  limiting : Bool
  /-- Watts taken off the continuous limit by temperature (R478), and whether it is being lowered. -/
  derate : Nat
  hot : Bool
  /-- Dies whose cores have stopped issuing at 115 °C (R478). -/
  stopped : List Nat
  /-- The last temperatures told: hottest die, inlet, outlet (21). -/
  hottest : Nat
  inlet : Nat
  outlet : Nat
deriving DecidableEq, Repr

def PwrSt.reset : PwrSt where
  locked := false
  holdover := false
  refGood := true
  profile := 0
  capA := 0
  capV := 0
  beHeld := false
  courtSel := 0
  courts := []
  ps5 := false
  tolCtx := []
  tolCourt := []
  tolModule := 0
  now := 0
  mean := 0
  blades := 0
  throttle := 0
  limiting := false
  derate := 0
  hot := false
  stopped := []
  hottest := 0
  inlet := 0
  outlet := 0

/-- A layer descriptor of an update plan (13 R336). -/
structure UpdLayer where
  layer : Nat
  rule : Nat
  nesterov : Bool
  maskMode : Nat
  wFmt : Nat
  sFmt : Nat
  gFmt : Nat
  group : Nat
  k : Nat
  n : Nat
  blk : Nat
  refresh : Nat
  iters : Nat
  w : Nat
  g : Nat
  m : Nat
  v : Nat
  stats : Nat
  roots : Nat
  mask : Nat
deriving DecidableEq, Repr

/-- A registered update plan (13 R335, R345 to R352): the context and court, the plan as it was read, the next step, whether it
is torn, the step that waits for its boundary or runs (with the tick at which it started), the last refresh and its residual,
a release that waits for the running step, the freeze masks as that step read them (13 R344), and, where a core of its court has failed
during it, how many writes its runs had made (13 R348). -/
structure UpdPlan where
  ctx : Nat
  court : Nat
  groups : Nat
  steps : Nat
  seed : W64
  layers : List UpdLayer
  consts : List Byte
  next : Nat
  torn : Bool
  waiting : Option Req
  running : Option (Req × Nat)
  lastRefresh : Option Nat
  residual : W32
  release : Option Req
  masks : List (List Byte)
  failed : Option Nat
deriving DecidableEq, Repr

/-- The parameter update engine (13): plans by identifier, and the UPD_ counters. -/
structure UpdSt where
  plans : AMap UpdPlan
  nextId : Nat
  steps : W64
  tiles : W64
  refreshes : W32
  skips : W32
  nonfinite : W64
deriving DecidableEq, Repr

def UpdSt.reset : UpdSt := ⟨[], 1, 0, 0, 0, 0, 0⟩

end Sys2Proof.Machine
end

