-- ==== Sys2Proof/Machine/PortTypes.lean ====
section
/-! DEFINITION. The state of the rind ports and the module ring (17), and of the codec engines (15). -/
namespace Sys2Proof.Machine

/-- A data or control flit (17 R446), the fields that are set as it is sent apart. -/
structure Flit where
  ty : Nat
  vc : Nat
  src : Nat
  dst : Nat
  seq : BitVec 12
  dateline : Bool
  tag : Nat
  index : Nat
  data : List Byte
deriving DecidableEq, Repr

/-- The link of a port (17 R447, R448): 0 down, 1 training, 2 up, 3 failed; flits resent and uncorrectable codewords; the next
seq to send and the last received in order; flits sent and not acknowledged, and flits that wait for a credit; by VC, the
credits held, and those that flits sent have taken; a nak sent for a flit discarded since the last in order; a nak received.
Acks, naks and credits go back in idle flits at once. -/
structure Link where
  st : Nat
  resent : Nat
  fecBad : Nat
  txSeq : BitVec 12
  rxSeq : BitVec 12
  replay : List Flit
  waiting : List Flit
  credits : AMap Nat
  out : AMap Nat
  nakDue : Bool
  nakked : Bool
deriving DecidableEq, Repr

def Link.reset : Link := ⟨0, 0, 0, 0, 4095, [], [], [], [], false, false⟩

/-- A transfer across the ring (17 R449): sent by this module or received by it; its tag and ends; its destination (0 an object
address; 1 a court's huddle area at an offset, with merge records of a layer; 2 a relay interface by hub; 3 a part of a ring
huddle); the court or hub, the address or offset, the layer; its length; the flit indices landed, and the bytes
landed where the destination is no object. -/
structure RTransfer where
  sent : Bool
  tag : Nat
  src : Nat
  dst : Nat
  kind : Nat
  court : Nat
  addr : Nat
  layer : Nat
  len : Nat
  got : List Nat
  buf : Mem
deriving DecidableEq, Repr

/-- An Ethernet MAC of a field port (17 R458): the last frame received and sent, with their stamps, and whether the checksums of
the one received hold. -/
structure FieldPort where
  rx : List Byte
  rxStamp : W64
  rxOk : Bool
  tx : List Byte
  txStamp : W64
deriving DecidableEq, Repr

def FieldPort.reset : FieldPort := ⟨[], 0, true, [], 0⟩

/-- The rind and the ring (17): roles by port, the recorded position, links by port, the rails whose bypass is open; membership;
members by position (rails up, the first bytes of the identity digest); a join in progress (its request, the position wanted)
and a leave in progress; transfers; the RND_ registers; the last frame received by each hub's relay interface; field ports. -/
structure RingSt where
  roles : AMap Nat
  recorded : Option Nat
  links : AMap Link
  opened : List Nat
  member : Bool
  position : Nat
  members : AMap (Nat × List Byte)
  joining : Option (Option Req × Nat)
  leaving : Option Req
  transfers : List RTransfer
  nextTag : Nat
  portSel : BitVec 6
  flits : W64
  huddleTmo : BitVec 16
  relayRx : AMap (List Byte)
  fields : AMap FieldPort
deriving DecidableEq, Repr

def RingSt.reset : RingSt where
  roles := []
  recorded := none
  links := []
  opened := []
  member := false
  position := 0
  members := []
  joining := none
  leaving := none
  transfers := []
  nextTag := 1
  portSel := 0
  flits := 0
  huddleTmo := 1000
  relayRx := []
  fields := []

/-- A pool buffer (15 R396): its object address and pitches, its mark byte, and the frame it holds (number, pts). -/
structure PoolBuf where
  addr : Nat
  lumaPitch : Nat
  chromaPitch : Nat
  chromaOff : Nat
  marks : Byte
  num : Nat
  pts : Nat
deriving DecidableEq, Repr

/-- A frame accepted (15 R408), with its place in the order of acceptance. -/
structure CFrame where
  num : Nat
  flags : Nat
  index : Nat
  len : Nat
  pts : Nat
  src : Nat
  hints : Nat
  order : Nat
deriving DecidableEq, Repr

/-- A codec stream (15 R394, R406): who opened it; its fields; its load; the object of its context; its pool; its queue; its ring
(write and read offsets); its RTP packetiser; the code with which it closes. -/
structure CStream where
  ctx : Nat
  mbx : Nat
  eng : Nat
  dir : Nat
  standard : Nat
  profile : Nat
  level : Nat
  chroma : Nat
  depth : Nat
  flags : Nat
  width : Nat
  height : Nat
  fps : Nat
  rc : Nat
  qp : Nat
  sliceRows : Nat
  gop : Nat
  kbps : Nat
  bufferBytes : Nat
  maxFrame : Nat
  ring : Nat
  outBytes : Nat
  idr : Nat
  flow : Nat
  ssrc : Nat
  load : Nat
  obj : Nat
  pool : AMap PoolBuf
  queue : List CFrame
  nextFrame : Nat
  wr : Nat
  rd : Nat
  rtpOn : Bool
  rtpSeq : Nat
  closing : Option Code
  kbpsSet : Nat
  fpsSet : Nat
  sinceKey : Nat
deriving DecidableEq, Repr

/-- The frame an engine runs (15 R394): its stream and frame, the pool index it writes, the slices emitted and their bytes, the
tick at which it started, and on encode whether it is an IRAP or key frame (R393). -/
structure EngRun where
  stream : Nat
  frame : CFrame
  target : Nat
  slices : Nat
  bytes : Nat
  start : Nat
  key : Bool
deriving DecidableEq, Repr

/-- A codec engine (15): failed; the stream whose frame it last ran; the frame it runs; its counters. -/
structure Engine where
  failed : Bool
  last : Option Nat
  run : Option EngRun
  switches : W64
  frames : W64
  hintWin : W64
  hintSkip : W64
deriving DecidableEq, Repr

def Engine.reset : Engine := ⟨false, none, none, 0, 0, 0, 0⟩

structure CdcSt where
  streams : AMap CStream
  engs : AMap Engine
  engSel : BitVec 4
  order : Nat
deriving DecidableEq, Repr

def CdcSt.reset : CdcSt := ⟨[], [], 0, 0⟩

end Sys2Proof.Machine
end

