-- ==== Sys2Proof/Machine/State.lean ====
section
/-! DEFINITION. The state of the block, its stops, and the state after RESET. -/
namespace Sys2Proof.Machine

/-- Why the block stops. -/
inductive Fault
  /-- No acting umpire is left: a failover with no ready standby (16 R414 gives no behaviour). Safe: the model stops. -/
  | noActingUmpire
deriving DecidableEq, Repr

/-- Why a command is turned away. -/
inductive Refusal
  /-- Raised by an arm whose command has no meaning yet. Safe: the model stops. -/
  | notModelled (mnemonic : String)
deriving DecidableEq, Repr

/-- The state of the block. -/
structure State where
  /-- The commands that are waiting, first in, first out. -/
  pending : List Instr
  /-- How many free values have been drawn (the model's own field, log entry 2). -/
  free : Nat
  /-- Cores by physical index 26 × cluster + position; an unlisted core is as RESET leaves it. -/
  cores : AMap Core
  /-- Clusters by number; an unlisted cluster is as RESET leaves it. -/
  clus : AMap Cluster
  /-- CLK_COUNTER: the free-running counter of hub 0 (18 R466, R467). -/
  counter : W64
  /-- What the last access of a unit inside the module was answered, code and bytes: coaches by 65,536 + context, the umpire by 131,072,
  application cores by 196,608 + core (10 R254, R259; 11 R278, R279). -/
  answers : AMap (Code × List Byte)
  mem : MemSt
  tier : TierSt
  ump : Ump
  book : BookSt
  sch : SchSt
  wgt : WgtSt
  flt : FltSt
  led : LedgerSt
  sec : SecSt
  smb : SmbSt
  pwr : PwrSt
  upd : UpdSt
  ring : RingSt
  cdc : CdcSt
deriving DecidableEq, Repr

/-- The state right after the RESET step of start-up. -/
def State.reset : State where
  pending := []
  free := 0
  cores := []
  clus := []
  counter := 0
  answers := []
  mem := .reset
  tier := .reset
  ump := .reset
  book := .reset
  sch := .reset
  wgt := .reset
  flt := .reset
  led := .reset
  sec := .reset
  smb := .reset
  pwr := .reset
  upd := .reset
  ring := .reset
  cdc := .reset

end Sys2Proof.Machine
end

