-- ==== Sys2Proof/Machine/Ops.lean ====
section
/-! DEFINITION. The shared operations over cores and clusters: the spare map, issue of a bundle slot by slot, stops. -/
namespace Sys2Proof.Machine

/-! Homes of cores and clusters. -/

/-- The core at physical index `p`. -/
def State.core (s : State) (p : Nat) : Core := AMap.getD s.cores Core.reset p
/-- `s` with the core at physical index `p` set. -/
def State.setCore (s : State) (p : Nat) (c : Core) : State := { s with cores := AMap.insert s.cores p c }
/-- Cluster `n`. -/
def State.clu (s : State) (n : Nat) : Cluster := AMap.getD s.clus Cluster.reset n
/-- `s` with cluster `n` set. -/
def State.setClu (s : State) (n : Nat) (c : Cluster) : State := { s with clus := AMap.insert s.clus n c }
/-- `s` with `f` applied to cluster `n`. -/
def State.modClu (s : State) (n : Nat) (f : Cluster → Cluster) : State := s.setClu n (f (s.clu n))

/-- The physical index of logical core `k`: the spare where it replaces the position; none where the position is
unusable (01 R16, R21; 02 R62, R63). -/
def State.physOf (s : State) (k : Nat) : Option Nat :=
  if k < Config.cores then
    let cl := s.clu (k / 25)
    let pos := if cl.spareUsed && cl.sparePos == k % 25 then 25 else k % 25
    if cl.failed.contains pos then none else some (26 * (k / 25) + pos)
  else none

/-- The logical number a physical core reports (CORE_ID.logical; 02 R62): none for a core that has no position. -/
def State.logicalOf (s : State) (p : Nat) : Option Nat :=
  let cl := s.clu (p / 26)
  let pos := p % 26
  if pos = 25 then (if cl.spareUsed then some (25 * (p / 26) + cl.sparePos) else none)
  else if cl.spareUsed && cl.sparePos == pos then none else some (25 * (p / 26) + pos)

/-- The die of a logical core (01 R16). -/
def dieOfCore (k : Nat) : Nat := k / 625

/-- `f` applied to a core, to its state now and to its state before the open bundle alike: what happens to a core apart
from its bundles is not undone with a bundle. -/
def State.modCore (s : State) (p : Nat) (f : CoreRegs → CoreRegs) : State :=
  let c := s.core p
  s.setCore p ⟨f c.now, f c.pre⟩

/-- The core `p` posts an event to its coach (02 R53, R60). -/
def State.post (s : State) (p : Nat) (e : CoachEvent) : State :=
  s.modClu (p / 26) (fun cl => { cl with events := cl.events ++ [e] })

/-- A free value drawn (log entry 2): item `i` of draw `s.free`. -/
def State.fv (s : State) (i : Nat) : Nat := Config.free s.free i
/-- The draw counter advanced. -/
def State.drawn (s : State) : State := { s with free := s.free + 1 }

/-- The free-running counter of a die (18 R466, R467): hub 0's, moved by the die's unknown skew. -/
def State.dieCounter (s : State) (die : Nat) : W64 := s.counter + Config.dieSkew die

/-- One tick of the hub 0 counter (log entry 9). -/
def State.tick (s : State) : State := { s with counter := s.counter + 1 }

/-! Registers of a core. -/

namespace CoreRegs
/-- Scalar register `i`; s0 reads zero (02 R36). -/
def sr (c : CoreRegs) (i : BitVec 4) : W64 := if i = 0 then 0 else AMap.getD c.sregs 0 i.toNat
/-- Scalar register `i` written; a write of s0 is ignored (02 R36). -/
def sw (c : CoreRegs) (i : BitVec 4) (v : W64) : CoreRegs :=
  if i = 0 then c else { c with sregs := AMap.insert c.sregs i.toNat v }
/-- Vector register `i`. -/
def vr (c : CoreRegs) (i : BitVec 6) : VReg := AMap.getD c.vregs 0 i.toNat
/-- Vector register `i` written. -/
def vw (c : CoreRegs) (i : BitVec 6) (v : VReg) : CoreRegs := { c with vregs := AMap.insert c.vregs i.toNat v }
/-- The mask pair `pm`: column mask and row mask; pair 0 is all ones (02 R39, R56). -/
def masks (c : CoreRegs) (pm : BitVec 2) : W32 × W32 :=
  if pm = 0 then (0xFFFFFFFF, 0xFFFFFFFF) else AMap.getD c.pmask (0xFFFFFFFF, 0xFFFFFFFF) pm.toNat
def colMask (c : CoreRegs) (pm : BitVec 2) : W32 := (c.masks pm).1
def rowMask (c : CoreRegs) (pm : BitVec 2) : W32 := (c.masks pm).2
/-- Loop counter `n`; at reset inactive. -/
def loop (c : CoreRegs) (n : Nat) : Loop := AMap.getD c.loops ⟨false, 0, 0, 0⟩ n
def setLoop (c : CoreRegs) (n : Nat) (l : Loop) : CoreRegs := { c with loops := AMap.insert c.loops n l }
/-- The halo arrival counter of a direction (02 R58). -/
def haloCount (c : CoreRegs) (d : Nat) : Nat := AMap.getD c.halo 0 d
def setHalo (c : CoreRegs) (d n : Nat) : CoreRegs := { c with halo := AMap.insert c.halo d n }
/-- The mask of tags that have transfers outstanding (02 R53 SRD source 10); a transfer of length zero has completed its tag
(02 R57). -/
def tagMask (c : CoreRegs) : W64 := (c.xfers.filter (·.len ≠ 0)).foldl (fun m x => m ||| ((1 : W64) <<< x.tag.toNat)) 0
/-- A table slot (06 R170). -/
def tab (c : CoreRegs) (n : Nat) : TabSlot := AMap.getD c.tabs ⟨none, none, false, false⟩ n
end CoreRegs

/-- Lane `j` is enabled when bit j mod 32 of the column mask is 1 (02 R51). -/
def laneOn (col : W32) (j : Nat) : Bool := col.getLsbD (j % 32)

/-! Issue of bundles, slot by slot (02 R40, R41, R60; log entry 10). -/

/-- What a slot operation does: its effect, with the words SSIG posts; a stop with a fault code, before its bundle issues or, as R48 has
it for matrix operands, after; or a stall. -/
inductive SlotRes
  | ok (c : CoreRegs)
  | sig (c : CoreRegs) (w : W32)
  | stop (code : Code)
  | late (code : Code)
  | stall

/-- The core as a slot operation finds it: the first slot of a bundle issues the bundle (the program counter moves to it);
none where the core issues nothing: it is not running, it stops, or no bundle is left (02 R60). The other slots of a bundle whose
matrix operand stops the core issue with it (R48, R60). -/
def Core.begin (c : Core) (first : Bool) : Option Core :=
  if c.now.st = .running ∧ (c.now.stopping = none ∨ (c.now.late ∧ !first)) then
    if first then
      if c.now.halt = false ∧ c.now.nextPc < 2048 then
        some ⟨{ c.now with pc := c.now.nextPc, nextPc := c.now.nextPc + 1 }, c.now⟩
      else none
    else some c
  else none

/-- The registers of a core that has stopped with a code: finished where it is 0, fault otherwise (CORE_STATUS). -/
def CoreRegs.stopped (c : CoreRegs) (code : Code) : CoreRegs :=
  { c with st := if code = 0 then .finished else .fault, fault := code, stopping := none, late := false,
           halt := false, wheyBase := none }

/-- A fault stops the core without issuing its bundle: every effect of the bundle is taken back, and once no transfer is
outstanding the core stops and posts its completion (02 R59, R60). -/
def State.coreStop (s : State) (p : Nat) (code : Code) : State :=
  let r := (s.core p).pre
  if r.xfers = [] then
    let t := r.stopped code
    (s.setCore p ⟨t, t⟩).post p (.complete (p) code)
  else
    let t := { r with stopping := some code }
    s.setCore p ⟨t, t⟩

/-- A core stops with a code apart from any bundle: nothing is taken back. -/
def State.stopNow (s : State) (p : Nat) (code : Code) : State :=
  let r := (s.core p).now
  (s.setCore p ⟨r, r⟩).coreStop p code

/-- The bundle at the program counter read from the instruction store, by its first slot: none where a word of it is uncorrectable
(02 R37). -/
def CoreRegs.fetch (c : CoreRegs) (first : Bool) : Option CoreRegs := if first then c.touch 0 [(16 * c.pc, 16)] [] else some c
/-- The core with its bundle read. -/
def Core.read (c : Core) (first : Bool) : Option Core := (c.now.fetch first).map (fun r => ⟨r, c.pre⟩)

/-- A slot operation; no bundle issues on a die that its temperature has stopped (18 R478): `f` takes the registers as they were before the bundle and the core as it stands now. -/
def slotOp (b : Slot) (f : CoreRegs → CoreRegs → SlotRes) (s : State) : State :=
  match s.physOf b.core with
  | none => s
  | some p =>
    if b.first && s.pwr.stopped.contains (dieOfCore b.core) then s else
    match (s.core p).begin b.first with
    | none => s
    | some c0 => match c0.read b.first with
      | none => (s.setCore p c0).coreStop p E_CORE_ECC
      | some c => match f c.pre c.now with
      | .ok r => s.setCore p ⟨r, c.pre⟩
      | .late code => s.setCore p ⟨{ c.now with stopping := some code, late := true }, c.pre⟩
      | .sig r w => (s.setCore p ⟨r, c.pre⟩).post p (.signal p w)
      | .stop code => (s.setCore p c).coreStop p code
      | .stall => if b.first then s else s.setCore p ⟨c.pre, c.pre⟩

/-- Whether a tile-buffer operand of `n` bytes at `a` is aligned and in range (02 R48). -/
def tbOk (a n : Nat) : Bool := decide (a % 64 = 0) && decide (a + n ≤ Config.tileBufferBytes)
/-- The same for accumulator memory (02 R35, R51). -/
def amOk (a n : Nat) : Bool := decide (a % 64 = 0) && decide (a + n ≤ Config.accBytes)

end Sys2Proof.Machine
end

