-- ==== Sys2Proof/Machine/Flags.lean ====
section
/-! DEFINITION. The block has no condition flags. What its operations count instead: the counters of a core, which wrap
modulo 2^64 (03, Registers), and the generator counter of stochastic rounding (03 R86). -/
namespace Sys2Proof.Machine

namespace CoreRegs
/-- A fold's counts: spilled cells, a fold with at least one, overflows (03 R77, R79). -/
def countFold (c : CoreRegs) (spills ovfs : Nat) : CoreRegs :=
  { c with spillCells := c.spillCells + BitVec.ofNat 64 spills
           spillFolds := c.spillFolds + (if spills = 0 then 0 else 1)
           foldOvf := c.foldOvf + BitVec.ofNat 64 ovfs }
/-- Quantised and saturated elements (03 R69). -/
def countQnt (c : CoreRegs) (elems sat : Nat) : CoreRegs :=
  { c with qntElems := c.qntElems + BitVec.ofNat 64 elems, qntSat := c.qntSat + BitVec.ofNat 64 sat }
/-- `n` more events of an index of R378. -/
def count (c : CoreRegs) (ev n : Nat) : CoreRegs := { c with work := AMap.insert c.work ev (AMap.getD c.work 0 ev + n) }
/-- A stochastic operation advances the generator counter by 64 (03 R86). -/
def srAdvance (c : CoreRegs) : CoreRegs := { c with srCtr := c.srCtr + 64 }
end CoreRegs

end Sys2Proof.Machine
end

