-- ==== Sys2Proof/Machine/Float.lean ====
section
/-! DEFINITION. Number formats (03 R64), exact values and the one rounding (IEEE 754; 03 R84, R85). Values are kept
exact as integers times powers of two; every result is rounded once, from the exact value. -/
namespace Sys2Proof.Machine

/-- The rounding modes of VCVT (02 R50) and of R84. -/
inductive RMode | nearest | toZero | stochastic (r : Nat)
deriving DecidableEq, Repr

/-- How a format treats its top codes (03 R64). -/
inductive FTop | ieee | e4m3 | noSpecial
deriving DecidableEq, Repr

/-- A floating-point format: exponent bits, mantissa bits, bias, special codes, and whether an overflow saturates (R85). -/
structure Fmt where
  eb : Nat
  mb : Nat
  bias : Nat
  top : FTop
  sat : Bool
deriving DecidableEq, Repr

namespace Fmt
def fp32 : Fmt := ⟨8, 23, 127, .ieee, false⟩
def bf16 : Fmt := ⟨8, 7, 127, .ieee, false⟩
def fp16 : Fmt := ⟨5, 10, 15, .ieee, false⟩
def e4m3 : Fmt := ⟨4, 3, 7, .e4m3, true⟩
def e5m2 : Fmt := ⟨5, 2, 15, .ieee, true⟩
def e2m1 : Fmt := ⟨2, 1, 1, .noSpecial, true⟩

/-- The magnitude code of the largest finite value. -/
def maxCode (f : Fmt) : Nat :=
  match f.top with
  | .ieee => (2 ^ f.eb - 1) * 2 ^ f.mb - 1
  | .e4m3 => 2 ^ (f.eb + f.mb) - 2
  | .noSpecial => 2 ^ (f.eb + f.mb) - 1

/-- Bits of the format, the sign included. -/
def width (f : Fmt) : Nat := 1 + f.eb + f.mb
/-- Weight exponent of the least significant bit of the subnormals. -/
def minExp (f : Fmt) : Int := 1 - (f.bias : Int) - (f.mb : Int)
end Fmt

/-- A number read from a code: NaN, an infinity, or ±m × 2^e (a zero keeps its sign). -/
inductive FV
  | nan
  | inf (neg : Bool)
  | fin (neg : Bool) (m : Nat) (e : Int)
deriving DecidableEq, Repr

/-- n × 2^e, exactly. -/
structure Dy where
  n : Int
  e : Int
deriving DecidableEq, Repr

namespace Dy
/-- The exact sum. -/
def add (a b : Dy) : Dy :=
  if a.n = 0 then b else if b.n = 0 then a else
  if a.e ≤ b.e then ⟨a.n + b.n * 2 ^ (b.e - a.e).toNat, a.e⟩ else ⟨a.n * 2 ^ (a.e - b.e).toNat + b.n, b.e⟩
/-- The exact product. -/
def mul (a b : Dy) : Dy := ⟨a.n * b.n, a.e + b.e⟩
def neg (a : Dy) : Dy := ⟨-a.n, a.e⟩
def sub (a b : Dy) : Dy := add a (neg b)
def ofInt (n : Int) : Dy := ⟨n, 0⟩
/-- a < b. -/
def lt (a b : Dy) : Bool := decide ((sub a b).n < 0)
def le (a b : Dy) : Bool := decide ((sub a b).n ≤ 0)
/-- ⌊a / 2^k⌋ as an integer. -/
def floorAt (a : Dy) (k : Int) : Int :=
  if k ≤ a.e then a.n * 2 ^ (a.e - k).toNat else a.n.fdiv (2 ^ (k - a.e).toNat)
/-- a / 2^k truncated toward zero. -/
def truncAt (a : Dy) (k : Int) : Int :=
  if k ≤ a.e then a.n * 2 ^ (a.e - k).toNat else a.n.tdiv (2 ^ (k - a.e).toNat)
/-- ⌊log2 |a|⌋ of a non-zero value. -/
def log2 (a : Dy) : Int := (a.n.natAbs.log2 : Int) + a.e
end Dy

namespace FV
/-- The code `bits` of format `f` as a number. -/
def ofBits (f : Fmt) (bits : Nat) : FV :=
  let neg := bits.testBit (f.eb + f.mb)
  let ex := (bits / 2 ^ f.mb) % 2 ^ f.eb
  let mt := bits % 2 ^ f.mb
  if f.top = .ieee ∧ ex = 2 ^ f.eb - 1 then (if mt = 0 then .inf neg else .nan)
  else if f.top = .e4m3 ∧ ex = 2 ^ f.eb - 1 ∧ mt = 2 ^ f.mb - 1 then .nan
  else if ex = 0 then .fin neg mt f.minExp
  else .fin neg (mt + 2 ^ f.mb) (f.minExp + ((ex - 1 : Nat) : Int))

def isNan : FV → Bool | .nan => true | _ => false
def isFin : FV → Bool | .fin _ _ _ => true | _ => false
def isZero : FV → Bool | .fin _ 0 _ => true | _ => false
def sign : FV → Bool | .nan => false | .inf s => s | .fin s _ _ => s

/-- The finite value (0 for the others). -/
def dy : FV → Dy
  | .fin s m e => ⟨if s then -(m : Int) else (m : Int), e⟩
  | _ => ⟨0, 0⟩

/-- A finite value, with the sign `zneg` for a zero. -/
def ofDy (zneg : Bool) (d : Dy) : FV := if d.n = 0 then .fin zneg 0 0 else .fin (decide (d.n < 0)) d.n.natAbs d.e

def neg : FV → FV | .nan => .nan | .inf s => .inf !s | .fin s m e => .fin (!s) m e
def abs : FV → FV | .nan => .nan | .inf _ => .inf false | .fin _ m e => .fin false m e

/-- The exact IEEE 754 sum. -/
def add : FV → FV → FV
  | .nan, _ => .nan
  | _, .nan => .nan
  | .inf s, .inf t => if s = t then .inf s else .nan
  | .inf s, _ => .inf s
  | _, .inf t => .inf t
  | a, b => ofDy (a.sign && b.sign && a.isZero && b.isZero) (a.dy.add b.dy)

/-- The exact IEEE 754 product. -/
def mul : FV → FV → FV
  | .nan, _ => .nan
  | _, .nan => .nan
  | .inf s, b => if b.isZero then .nan else .inf (s != b.sign)
  | a, .inf t => if a.isZero then .nan else .inf (a.sign != t)
  | a, b => ofDy (a.sign != b.sign) (a.dy.mul b.dy)

/-- IEEE 754 less-than; false with a NaN. -/
def lt : FV → FV → Bool
  | .nan, _ => false
  | _, .nan => false
  | .inf s, .inf t => s && !t
  | .inf s, _ => s
  | _, .inf t => !t
  | a, b => a.dy.lt b.dy

/-- IEEE 754 equality: −0 equals +0, NaN equals nothing. -/
def eqv : FV → FV → Bool
  | .nan, _ => false
  | _, .nan => false
  | .inf s, .inf t => s == t
  | .inf _, _ => false
  | _, .inf _ => false
  | a, b => decide ((a.dy.sub b.dy).n = 0)

/-- The order of the IEEE 754 maximum, in which −0 lies below +0 (02 R531). -/
def below (a b : FV) : Bool := a.lt b || (a.eqv b && a.sign && !b.sign)
end FV

/-- The magnitude num/den × 2^e (den > 0) rounded to a magnitude code of `f`; codes above `maxCode` are an overflow. -/
def roundMag (f : Fmt) (md : RMode) (num den : Nat) (e : Int) : Nat :=
  if num = 0 then 0 else
  let l0 : Int := (num.log2 : Int) - (den.log2 : Int)
  let below := if 0 ≤ l0 then num < den * 2 ^ l0.toNat else num * 2 ^ (-l0).toNat < den
  let l := (if below then l0 - 1 else l0) + e
  let u := max (l - (f.mb : Int)) f.minExp
  let a := if u ≤ e then num * 2 ^ (e - u).toNat else num
  let b := if u ≤ e then den else den * 2 ^ (u - e).toNat
  let q := a / b
  let r := a % b
  let up := match md with
    | .nearest => decide (b < 2 * r) || (decide (2 * r = b) && q % 2 == 1)
    | .toZero => false
    | .stochastic rnd => decide (rnd < r * 65536 / b)
  (if up then q + 1 else q) + (u - f.minExp).toNat * 2 ^ f.mb

/-- Whether num/den × 2^e lies above the largest finite value of `f`. -/
def aboveMax (f : Fmt) (num den : Nat) (e : Int) : Bool :=
  let m := FV.ofBits f f.maxCode
  match m with
  | .fin _ mm me =>
    if me ≤ e then decide (mm * den < num * 2 ^ (e - me).toNat) else decide (mm * den * 2 ^ (me - e).toNat < num)
  | _ => false

/-- ±num/den × 2^e rounded into a code of `f`. What is beyond the largest finite value once rounded saturates (R85) or gives an
infinity, toward zero too (02 R531; log entry 76); a stochastic rounding of such a value rounds to nearest (R84). -/
def roundQ (f : Fmt) (md : RMode) (neg : Bool) (num den : Nat) (e : Int) : Nat :=
  let md' := match md with
    | .stochastic r => if aboveMax f num den e then .nearest else .stochastic r
    | m => m
  let c := roundMag f md' num den e
  let c' := if c ≤ f.maxCode then c
    else if f.sat || f.top = .noSpecial then f.maxCode
    else f.maxCode + 1
  c' + (if neg then 2 ^ (f.eb + f.mb) else 0)

/-- The quiet NaN of a format: 0x7FC0_0000, 0x7FC0 or 0x7E00 (02 R531). -/
def qnan (f : Fmt) : Nat :=
  match f.top with
  | .ieee => (2 ^ f.eb - 1) * 2 ^ f.mb + 2 ^ (f.mb - 1)
  | .e4m3 => 2 ^ (f.eb + f.mb) - 1
  | .noSpecial => 0

/-- A NaN of `f` whose sign and payload the spec does not state: a free value of the operands (log entry 3). -/
def freeNan (f : Fmt) (seed : Nat) : Nat :=
  match f.top with
  | .ieee =>
    let n := Config.nan seed
    let mt := n % 2 ^ f.mb
    (2 ^ f.eb - 1) * 2 ^ f.mb + (if mt = 0 then 1 else mt) + (if n.testBit (f.eb + f.mb) then 2 ^ (f.eb + f.mb) else 0)
  | .e4m3 => 2 ^ (f.eb + f.mb) - 1
  | .noSpecial => 0

/-- The code of an exact number in `f`; a NaN takes the code `nanCode`. -/
def FV.toBits (f : Fmt) (md : RMode) (nanCode : Nat) : FV → Nat
  | .nan => nanCode
  | .inf s => (if f.sat || f.top = .noSpecial then f.maxCode else f.maxCode + 1) + (if s then 2 ^ (f.eb + f.mb) else 0)
  | .fin s m e => roundQ f md s m 1 e

/-! FP32 arithmetic on codes, rounded once to nearest with ties to even (02 R49). `seed` names the operands for the
payload of a NaN result. -/

def f32 (x : W32) : FV := FV.ofBits .fp32 x.toNat
/-- RN of an exact number to FP32, a NaN result with a free payload. -/
def rn32 (seed : Nat) (v : FV) : W32 := BitVec.ofNat 32 (v.toBits .fp32 .nearest (freeNan .fp32 seed))
/-- RN of an exact number to FP32, a NaN written as 0x7FC0_0000. -/
def rnq32 (v : FV) : W32 := BitVec.ofNat 32 (v.toBits .fp32 .nearest (qnan .fp32))
/-- An operation (tag) and its operands as one number, for `Config.nan`. -/
def seedOf (tag a b c : Nat) : Nat := a + 2 ^ 64 * b + 2 ^ 128 * c + 2 ^ 192 * tag

def fadd32 (a b : W32) : W32 := rn32 (seedOf 1 a.toNat b.toNat 0) ((f32 a).add (f32 b))
def fsub32 (a b : W32) : W32 := rn32 (seedOf 2 a.toNat b.toNat 0) ((f32 a).add (f32 b).neg)
def fmul32 (a b : W32) : W32 := rn32 (seedOf 3 a.toNat b.toNat 0) ((f32 a).mul (f32 b))
def ffma32 (a b c : W32) : W32 := rn32 (seedOf 4 a.toNat b.toNat c.toNat) (((f32 a).mul (f32 b)).add (f32 c))
def fneg32 (a : W32) : W32 := a ^^^ 0x80000000#32
/-- a / b rounded once. -/
def fdiv32 (a b : W32) : W32 :=
  match f32 a, f32 b with
  | .nan, _ => rn32 (seedOf 5 a.toNat b.toNat 0) .nan
  | _, .nan => rn32 (seedOf 5 a.toNat b.toNat 0) .nan
  | .inf _, .inf _ => rn32 (seedOf 5 a.toNat b.toNat 0) .nan
  | .inf s, y => rn32 0 (.inf (s != y.sign))
  | x, .inf t => rn32 0 (.fin (x.sign != t) 0 0)
  | .fin s m e, .fin t n k =>
    if n = 0 then (if m = 0 then rn32 (seedOf 5 a.toNat b.toNat 0) .nan else rn32 0 (.inf (s != t)))
    else BitVec.ofNat 32 (roundQ .fp32 .nearest (s != t) m n (e - k))

/-- An exact value rounded to an integer under a mode (03 R84 with the integers as the target format). -/
def Dy.roundInt (md : RMode) (d : Dy) : Int :=
  let t := d.truncAt 0
  let r := d.sub (.ofInt t)
  let f : Nat := (Dy.floorAt ⟨r.n.natAbs, r.e⟩ (-17)).toNat
  let exactHalf := decide ((Dy.sub ⟨r.n.natAbs, r.e⟩ ⟨1, -1⟩).n = 0)
  let up := match md with
    | .toZero => false
    | .nearest => if exactHalf then decide (t % 2 ≠ 0) else decide (65536 ≤ f)
    | .stochastic rnd => decide (rnd < f / 2)
  if up then (if d.n < 0 then t - 1 else t + 1) else t

/-- Lane j of a vector register (02 R36). -/
def lane (v : VReg) (j : Nat) : W32 := BitVec.ofNat 32 (v.toNat / 2 ^ (32 * j))
/-- 16-bit element k of a vector register. -/
def elem16 (v : VReg) (k : Nat) : BitVec 16 := BitVec.ofNat 16 (v.toNat / 2 ^ (16 * k))
/-- The register whose lane j is `g j`. -/
def ofLanes (g : Nat → W32) : VReg :=
  BitVec.ofNat 4096 ((List.range 128).foldr (fun j acc => acc + (g j).toNat * 2 ^ (32 * j)) 0)
/-- The register whose 16-bit element k is `g k`. -/
def ofElems16 (g : Nat → BitVec 16) : VReg :=
  BitVec.ofNat 4096 ((List.range 256).foldr (fun k acc => acc + (g k).toNat * 2 ^ (16 * k)) 0)

/-- The generator of stochastic rounding (03 R86): 16 bits for index j. -/
def srBits (key ctr : W64) (j : Nat) : Nat :=
  let z0 := (ctr + BitVec.ofNat 64 (j / 4)) ^^^ key
  let z1 := (z0 ^^^ (z0 >>> 30)) * 0xBF58476D1CE4E5B9#64
  let z2 := (z1 ^^^ (z1 >>> 27)) * 0x94D049BB133111EB#64
  let z3 := z2 ^^^ (z2 >>> 31)
  (z3.toNat / 2 ^ (16 * (j % 4))) % 65536

end Sys2Proof.Machine
end

