-- ==== Sys2Proof/Machine/Operands.lean ====
section
/-! DEFINITION. Operand forms of the vector slot: elements by type, the enables of a column mask, element-wise and
reducing forms, addresses (02 R36, R49 to R51, R531). -/
namespace Sys2Proof.Machine

/-- The float format of a vector type; INT32 has none. -/
def VTy.fmt? : VTy → Option Fmt
  | .fp32 => some .fp32
  | .bf16 => some .bf16
  | .fp16 => some .fp16
  | .int32 => none

/-- Whether the elements of a type are 16 bits wide (02 R36). -/
def VTy.is16 : VTy → Bool
  | .bf16 => true
  | .fp16 => true
  | _ => false

/-- Element `k` of a register under a type, as a number. -/
def elemAt (ty : VTy) (v : VReg) (k : Nat) : Nat := if VTy.is16 ty then (elem16 v k).toNat else (lane v k).toNat

/-- The register whose enabled elements are `g k`; a disabled lane keeps its bits of `old` (02 R51). -/
def mapElems (ty : VTy) (col : W32) (old : VReg) (g : Nat → Nat) : VReg :=
  if VTy.is16 ty then ofElems16 (fun k => if laneOn col (k / 2) then BitVec.ofNat 16 (g k) else elem16 old k)
  else ofLanes (fun j => if laneOn col j then BitVec.ofNat 32 (g j) else lane old j)

/-- The same for an operation on 32-bit lanes. -/
def mapLanes (col : W32) (old : VReg) (g : Nat → W32) : VReg :=
  ofLanes (fun j => if laneOn col j then g j else lane old j)

/-- An exact float result rounded to its format, a NaN result with a free payload. -/
def roundTo (f : Fmt) (seed : Nat) (v : FV) : Nat := v.toBits f .nearest (freeNan f seed)

/-- An exact INT32 result: itself where it fits; else the spec states none, a free value (log entry 7). -/
def intTo (seed : Nat) (n : Int) : Nat :=
  if -2147483648 ≤ n ∧ n ≤ 2147483647 then (n % 4294967296).toNat else Config.intOver seed % 4294967296

/-- A signed 32-bit element. -/
def sint32 (x : Nat) : Int := (BitVec.ofNat 32 x).toInt

/-- An arithmetic operation on elements of a type: on exact values, rounded once; on integers. -/
def arith2 (ty : VTy) (tag : Nat) (fl : FV → FV → FV) (it : Int → Int → Int) (a b : Nat) : Nat :=
  match VTy.fmt? ty with
  | some f => roundTo f (seedOf tag a b 0) (fl (.ofBits f a) (.ofBits f b))
  | none => intTo (seedOf tag a b 0) (it (sint32 a) (sint32 b))

/-- The IEEE 754 maximum (or minimum) of two codes: NaN where either is NaN, written as the quiet NaN; signed for
INT32 (02 R531). -/
def maxElem (ty : VTy) (isMin : Bool) (a b : Nat) : Nat :=
  match VTy.fmt? ty with
  | some f =>
    let x := FV.ofBits f a
    let y := FV.ofBits f b
    if x.isNan || y.isNan then qnan f
    else if isMin then (if y.below x then b else a) else (if x.below y then b else a)
  | none => if isMin then (if sint32 b < sint32 a then b else a) else (if sint32 a < sint32 b then b else a)

/-- The comparisons of VCMP: eq, ne, lt, le (02 R531). -/
def cmpElem (ty : VTy) (cond : BitVec 2) (a b : Nat) : Nat :=
  match VTy.fmt? ty with
  | some f =>
    let x := FV.ofBits f a
    let y := FV.ofBits f b
    match cond.toNat with
    | 0 => b2n (x.eqv y)
    | 1 => b2n (!x.eqv y)
    | 2 => b2n (x.lt y)
    | _ => b2n (x.lt y || x.eqv y)
  | none =>
    match cond.toNat with
    | 0 => b2n (a == b)
    | 1 => b2n (a != b)
    | 2 => b2n (decide (sint32 a < sint32 b))
    | _ => b2n (decide (sint32 a ≤ sint32 b))

/-- The sign bit of an element's format. -/
def signBit (ty : VTy) : Nat := if VTy.is16 ty then 32768 else 2147483648

/-- Rounding mode of VCVT: 00 nearest, 01 stochastic, 10 toward zero (02 R50). -/
def cvtMode (mode : BitVec 2) (key ctr : W64) (k : Nat) : RMode :=
  match mode.toNat with
  | 0 => .nearest
  | 1 => .stochastic (srBits key ctr k)
  | _ => .toZero

/-- One element converted from a type to another (02 R531; 03 R84, R85). -/
def cvtElem (src ty : VTy) (md : RMode) (x : Nat) : Nat :=
  match VTy.fmt? src, VTy.fmt? ty with
  | none, none => x
  | none, some f => (FV.ofDy false (.ofInt (sint32 x))).toBits f md 0
  | some f, none =>
    match FV.ofBits f x with
    | .nan => 0
    | .inf s => if s then 2147483648 else 2147483647
    | v =>
      let n := v.dy.roundInt md
      if 2147483647 < n then 2147483647 else if n < -2147483648 then 2147483648 else (n % 4294967296).toNat
  | some f, some g => (FV.ofBits f x).toBits g md (freeNan g (seedOf 7 x f.mb g.mb))

/-- Lanes of row `r`, or of the whole register, that are enabled. -/
def lanesOn (col : W32) (lo n : Nat) : List Nat := ((List.range n).map (· + lo)).filter (laneOn col)

/-- The sum of lanes: exact, rounded once; modulo 2^32 for INT32 (02 R531). -/
def sumLanes (ty : VTy) (v : VReg) (js : List Nat) : W32 :=
  match ty with
  | .int32 => js.foldl (fun a j => a + lane v j) 0
  | _ =>
    match js with
    | [] => 0
    | j :: js => rn32 (seedOf 8 v.toNat 0 0) (js.foldl (fun a k => a.add (f32 (lane v k))) (f32 (lane v j)))

/-- The maximum of lanes; a NaN among them, the only one too, gives the quiet NaN. -/
def maxLanes (ty : VTy) (v : VReg) (js : List Nat) : W32 :=
  match js with
  | [] => 0
  | j :: _ => BitVec.ofNat 32 (js.foldl (fun a k => maxElem ty false a (lane v k).toNat) (lane v j).toNat)

/-- A reduction: each row into its lane 0, or the whole register into lane 0; written only where that lane is enabled
(02 R50, R531). -/
def reduce (col : W32) (old : VReg) (whole : Bool) (f : List Nat → W32) : VReg :=
  ofLanes fun j =>
    if whole then (if j = 0 ∧ laneOn col 0 then f (lanesOn col 0 128) else lane old j)
    else if j % 32 = 0 ∧ laneOn col j then f (lanesOn col j 32) else lane old j

/-- The byte address of a vector load or store: s[sa] + sext(off) × 512, exactly (02 R50). -/
def vaddr (c : CoreRegs) (sa : BitVec 4) (off : BitVec 6) : Int := ((c.sr sa).toNat : Int) + off.toInt * 512

/-- Whether 512 bytes at a vector address are aligned and in a store of `size` bytes (02 R48, R51). -/
def vaddrOk (a : Int) (size : Nat) : Bool := decide (0 ≤ a) && decide (a % 64 = 0) && decide (a + 512 ≤ size)

/-- 512 bytes of a store as a vector register. -/
def loadV (m : Mem) (a : Nat) : VReg := BitVec.ofNat 4096 (Mem.rdLE m a 512)

/-- The enabled lanes of a register stored (02 R51). -/
def storeV (m : Mem) (col : W32) (a : Nat) (v : VReg) : Mem :=
  (List.range 128).foldl (fun m j => if laneOn col j then Mem.wrLE m (a + 4 * j) 4 (lane v j).toNat else m) m

/-- The bytes that the enabled lanes of a register transfer at `a`: pairs of lanes that share a word as one range (02 R51). -/
def laneRanges (col : W32) (a : Nat) : List (Nat × Nat) :=
  (List.range 64).flatMap (fun k => match laneOn col (2 * k), laneOn col (2 * k + 1) with
    | true, true => [(a + 8 * k, 8)]
    | true, false => [(a + 8 * k, 4)]
    | false, true => [(a + 8 * k + 4, 4)]
    | false, false => [])

/-- A vector operation that cannot stop: vd takes `g` of the registers as they were before the bundle, the column mask,
and the register's present bits. -/
def vecOp (b : Slot) (vd : BitVec 6) (g : CoreRegs → W32 → VReg → VReg) (s : State) : State :=
  slotOp b (fun pre now => .ok (now.vw vd (g pre (pre.colMask b.pm) (now.vr vd)))) s
/-- The same, with its events counted: of index `ev`, one for each enabled lane (14 R378; log entry 86). -/
def workOp (b : Slot) (vd : BitVec 6) (ev : Nat) (g : CoreRegs → W32 → VReg → VReg) (s : State) : State :=
  slotOp b (fun pre now =>
    .ok ((now.vw vd (g pre (pre.colMask b.pm) (now.vr vd))).count ev (lanesOn (pre.colMask b.pm) 0 128).length)) s

end Sys2Proof.Machine
end

