-- ==== Sys2Proof/Machine/Press.lean ====
section
/-! DEFINITION. Compressed block images: tiles, their encoder and decoder (11 R276, R290 to R294). -/
namespace Sys2Proof.Machine

/-- Bytes of a tile (11 R273). -/
def tileBytes : Nat := 4096

/-- Exponent bits and sign and mantissa bits of an element kind (11 R292); kind 0 is raw. -/
def pressParams : Nat → Option (Nat × Nat)
  | 1 => some (8, 24)
  | 2 => some (8, 8)
  | 3 => some (5, 11)
  | 4 => some (4, 4)
  | 5 => some (5, 3)
  | _ => none

/-- One byte into a reflected CRC-32C register (11 R291). -/
def crcByte (c : BitVec 32) (b : Byte) : BitVec 32 :=
  (List.range 8).foldl (fun c _ => if c.getLsbD 0 then (c >>> 1) ^^^ 0x82F63B78 else c >>> 1) (c ^^^ b.setWidth 32)
/-- CRC-32C (11 R291). -/
def crc32c (bs : List Byte) : Nat := (bs.foldl crcByte 0xFFFFFFFF ^^^ 0xFFFFFFFF).toNat

/-- The elements of `sz` bytes of a byte list, at most `fuel`. -/
def elemsOf (sz : Nat) : Nat → List Byte → List Nat
  | 0, _ => []
  | n + 1, bs => leNat (bs.take sz) :: elemsOf sz n (bs.drop sz)

/-- A bit stream of fields written least significant bit first: its number and its length (11 R293). -/
def packFields : List (Nat × Nat) → Nat × Nat
  | [] => (0, 0)
  | (v, w) :: r => let q := packFields r; (v % 2 ^ w + 2 ^ w * q.1, w + q.2)
/-- The bytes of a stream, its last byte padded with zeros. -/
def streamBytes (fs : List (Nat × Nat)) : List Byte := let q := packFields fs; leBytes (ceilDiv q.2 8) q.1

/-- Bits that hold `n`. -/
def bitLen (n : Nat) : Nat := if n = 0 then 0 else n.log2 + 1

/-- A group of 32 elements in ascending order: its two descriptor bytes, its exponent fields, its mantissa fields (11 R293,
R294). -/
def encGroup (eb mb : Nat) (xs : List Nat) : List Byte × List (Nat × Nat) × List (Nat × Nat) :=
  let nz := xs.filter (· ≠ 0)
  let e (x : Nat) := x / 2 ^ (mb - 1) % 2 ^ eb
  let sm (x : Nat) := x / 2 ^ (eb + mb - 1) * 2 ^ (mb - 1) + x % 2 ^ (mb - 1)
  let base := match nz.map e with | [] => 0 | a :: r => r.foldl min a
  let w := bitLen ((nz.map e).foldl max base - base)
  let z := xs.any (· == 0)
  let mask := ((List.range 32).zip xs).foldl (fun m jx => if jx.2 = 0 then m + 2 ^ jx.1 else m) 0
  ([BitVec.ofNat 8 base, BitVec.ofNat 8 (w + 16 * b2n z)],
   (if z then [(mask, 32)] else []) ++ nz.map (fun x => (e x - base, w)), nz.map (fun x => (sm x, mb)))

/-- A list cut into groups of 32, at most `fuel`. -/
def groups32 : Nat → List Nat → List (List Nat)
  | 0, _ => []
  | n + 1, xs => xs.take 32 :: groups32 n (xs.drop 32)

/-- The payload of a typed tile. -/
def encTyped (eb mb : Nat) (t : List Byte) : List Byte :=
  let n := tileBytes * 8 / (eb + mb)
  let gs := (groups32 (n / 32) (elemsOf ((eb + mb) / 8) n t)).map (encGroup eb mb)
  (gs.map (·.1)).flatten ++ streamBytes (gs.map (·.2.1)).flatten ++ streamBytes (gs.map (·.2.2)).flatten

/-- A tile with its header, padded to whole 16 bytes (11 R290, R291). -/
def tileImage (kind idx : Nat) (payload data : List Byte) : List Byte :=
  leBytes 16 (kind + 16 * payload.length + 2 ^ 17 * idx + 2 ^ 32 * crc32c data) ++ payload ++
    List.replicate (16 * ceilDiv payload.length 16 - payload.length) 0

/-- The module's encoder of one tile (11 R294): the typed form is stored when its payload is shorter than 4,096 bytes. -/
def encTile (kind idx : Nat) (t : List Byte) : List Byte :=
  if t.all (· == 0) then tileImage 6 idx [] t
  else match pressParams kind with
    | none => tileImage 0 idx t t
    | some (eb, mb) =>
      let p := encTyped eb mb t
      if p.length < tileBytes then tileImage kind idx p t else tileImage 0 idx t t

/-- A block's tiles encoded, from tile `idx`. -/
def encTiles (kind : Nat) : Nat → Nat → List Byte → List (List Byte)
  | 0, _, _ => []
  | n + 1, idx, bs => encTile kind idx (bs.take tileBytes) :: encTiles kind n (idx + 1) (bs.drop tileBytes)

/-- The image of a block (11 R290). -/
def encBlock (kind : Nat) (bs : List Byte) : List Byte :=
  let ts := encTiles kind 64 0 bs
  let body := ts.flatten
  leBytes 4 0x4B4C4250 ++ [BitVec.ofNat 8 kind, 64, 0, 0] ++ leBytes 4 (144 + body.length) ++ leBytes 4 0 ++
    (ts.map (fun t => leBytes 2 (t.length / 16))).flatten ++ body

/-- The exponents of `n` elements of a group from element `j` on, at bit `pos`: none for a zero element; fails where the
stream ends or an exponent is out of range. -/
def decElems (v nbits w base emax mask : Nat) : Nat → Nat → Nat → Option (List (Option Nat) × Nat)
  | 0, _, pos => some ([], pos)
  | n + 1, j, pos =>
    if mask.testBit j then
      match decElems v nbits w base emax mask n (j + 1) pos with
      | none => none
      | some (es, p) => some (none :: es, p)
    else
      let e := base + v / 2 ^ pos % 2 ^ w
      if nbits < pos + w ∨ emax < e then none
      else match decElems v nbits w base emax mask n (j + 1) (pos + w) with
        | none => none
        | some (es, p) => some (some e :: es, p)

/-- The exponent plane: groups from `q` on, each element with whether its group has a zero mask. `p` is the payload, `v` the number of
the bytes after the descriptors. -/
def decGroups (p : List Byte) (v nbits eb : Nat) : Nat → Nat → Nat → Option (List (Option Nat × Bool) × Nat)
  | 0, _, pos => some ([], pos)
  | n + 1, q, pos =>
    let base := leAt p (2 * q) 1
    let d := leAt p (2 * q + 1) 1
    let w := d % 16
    let z := d.testBit 4
    if 32 ≤ d ∨ eb < w ∨ 2 ^ eb - 1 < base ∨ (z ∧ nbits < pos + 32) then none
    else
      let mask := if z then v / 2 ^ pos % 2 ^ 32 else 0
      match decElems v nbits w base (2 ^ eb - 1) mask 32 0 (if z then pos + 32 else pos) with
      | none => none
      | some (es, pos1) => match decGroups p v nbits eb n (q + 1) pos1 with
        | none => none
        | some (fs, pos2) => some (es.map (fun e => (e, z)) ++ fs, pos2)

/-- The mantissa plane: the elements' bytes. A zero element in a group without a zero mask is no valid tile. -/
def decMant (v nbits eb mb : Nat) : List (Option Nat × Bool) → Nat → Option (List Byte × Nat)
  | [], pos => some ([], pos)
  | (none, _) :: es, pos => match decMant v nbits eb mb es pos with
    | none => none
    | some (bs, p) => some (List.replicate ((eb + mb) / 8) 0 ++ bs, p)
  | (some e, z) :: es, pos =>
    let sm := v / 2 ^ pos % 2 ^ mb
    if nbits < pos + mb ∨ (!z ∧ e = 0 ∧ sm = 0) then none
    else
      let x := sm / 2 ^ (mb - 1) * 2 ^ (eb + mb - 1) + e * 2 ^ (mb - 1) + sm % 2 ^ (mb - 1)
      match decMant v nbits eb mb es (pos + mb) with
      | none => none
      | some (bs, p) => some (leBytes ((eb + mb) / 8) x ++ bs, p)

/-- A typed payload decoded; none where it breaks the format (11 R293; the payload ends at the byte of its last bit and
its pad bits are zero). -/
def decTyped (eb mb : Nat) (p : List Byte) : Option (List Byte) :=
  let g := tileBytes * 8 / (eb + mb) / 32
  let rest := p.drop (2 * g)
  let v := leNat rest
  let nbits := 8 * rest.length
  if p.length < 2 * g then none
  else match decGroups p v nbits eb g 0 0 with
    | none => none
    | some (es, x) =>
      let m0 := 8 * ceilDiv x 8
      if v / 2 ^ x % 2 ^ (m0 - x) ≠ 0 then none
      else match decMant v nbits eb mb es m0 with
        | none => none
        | some (bs, y) => if ceilDiv y 8 = rest.length ∧ v / 2 ^ y = 0 then some bs else none

/-- A tile decoded: its stored bytes (header first), the image's kind and the tile's number (11 R291). -/
def decTile (kind idx : Nat) (t : List Byte) : Option (List Byte) :=
  let h := leAt t 0 16
  let tk := bitsOf h 3 0
  let n := bitsOf h 16 4
  let p := bytesAt t 16 n
  if ¬(tk = 0 ∨ tk = 6 ∨ tk = kind) ∨ bitsOf h 22 17 ≠ idx ∨ bitsOf h 31 23 ≠ 0 ∨ bitsOf h 127 64 ≠ 0
      ∨ t.length ≠ 16 + 16 * ceilDiv n 16 ∨ (t.drop (16 + n)).any (· != 0) then none
  else
    let d := if tk = 0 then (if n = tileBytes then some p else none)
      else if tk = 6 then (if n = 0 then some (List.replicate tileBytes 0) else none)
      else match pressParams tk with
        | none => none
        | some (eb, mb) => if 1 ≤ n ∧ n < tileBytes then decTyped eb mb p else none
    match d with
    | none => none
    | some bs => if crc32c bs = bitsOf h 63 32 then some bs else none

/-- The directory of an image's first 144 bytes: kind and tile lengths in 16-byte units; none where the header breaks the
format (11 R290). -/
def imageHead (h : List Byte) : Option (Nat × List Nat) :=
  let ents := elemsOf 2 64 (h.drop 16)
  if leAt h 0 4 = 0x4B4C4250 ∧ leAt h 4 1 ≤ 5 ∧ leAt h 5 1 = 64 ∧ leAt h 6 2 = 0 ∧ leAt h 12 4 = 0
      ∧ ents.all (fun u => decide (1 ≤ u) && decide (u ≤ 257)) ∧ leAt h 8 4 = 144 + 16 * ents.sum
  then some (leAt h 4 1, ents) else none

/-- Tiles `idx` and up decoded from the bytes that hold them. -/
def decTiles (kind : Nat) : Nat → List Nat → List Byte → Option (List Byte)
  | _, [], _ => some []
  | idx, u :: us, bs =>
    match decTile kind idx (bs.take (16 * u)) with
    | none => none
    | some d => match decTiles kind (idx + 1) us (bs.drop (16 * u)) with
      | none => none
      | some r => some (d ++ r)

/-- A block image decoded. -/
def decBlock (img : List Byte) : Option (List Byte) :=
  match imageHead img with
  | none => none
  | some (kind, ents) => decTiles kind 0 ents (img.drop 144)

end Sys2Proof.Machine
end

