-- ==== Sys2Proof/Machine/Report.lean ====
section
/-! DEFINITION. Fault records raised by units (20 R501, R503), the ledger's accumulators (14 R376 to R379), and the
messages the umpire sends (16 R418 to R420). -/
namespace Sys2Proof.Machine

/-! Fault records. -/

/-- A hierarchical identifier of this module less its ring position, which the umpire adds when it takes the record in
(01 R26). -/
def ident (level unit : Nat) : Nat := level + 256 * unit
/-- The die that owns a channel (01 R17). -/
def dieOfChannel (c : Nat) : Nat := 8 * (c / 16 / 8 + (if c % 16 < 8 then 0 else 1)) + c / 16 % 8

/-- A record of a code, severity and source, with no context, court, step, address or detail. -/
def FRec.mk0 (code : Code) (severity source : Nat) : FRec where
  number := 0
  counter := 0
  boot := 0
  code := code
  severity := severity
  action := 0
  ctx := 0xFFFF
  court := 0xFF
  source := source
  step := 0
  addr := 0
  d0 := 0
  d1 := 0

/-- The records of a unit with one more raised: at 64 unacknowledged it is suppressed and counted (20 R503). -/
def UnitQ.raise (q : UnitQ) (r : FRec) : UnitQ :=
  if q.recs.length < 64 then { q with recs := q.recs ++ [(r, false)] }
  else { q with suppressed := q.suppressed + 1
                firstCode := if q.suppressed = 0 then r.code else q.firstCode
                topSeverity := max q.topSeverity r.severity }

/-- A unit raises a fault record; the unit is the record's source. -/
def State.raise (s : State) (r : FRec) : State :=
  { s with flt := { s.flt with
    units := AMap.insert s.flt.units r.source ((AMap.getD s.flt.units .empty r.source).raise r) } }

/-! The ledger. -/

/-- The accumulator of a line in a cluster or hub: that of its residency slot, or the unattributed one (14 R357, R379). -/
def State.ledSlot (s : State) (line : Nat) : Nat :=
  if line = 1024 then 128
  else match AMap.find? s.sch.ctxs line with
    | some c => if c.st = 1 then c.slot else 1024 + line
    | none => 1024 + line
/-- The line that an accumulator is folded into. -/
def State.ledLineOf (s : State) (slot : Nat) : Nat :=
  if slot < 128 then match List.find? (fun e => decide (e.2.st = 1) && decide (e.2.slot = slot)) s.sch.ctxs with
    | some e => e.1
    | none => 1024
  else if slot = 128 then 1024 else slot - 1024
/-- `n` more in the accumulator of a unit (a cluster's or hub's identifier) for a line and an item. -/
def State.addAcc (s : State) (unit line item n : Nat) : State :=
  let k := 65536 * unit + 16 * s.ledSlot line + item
  { s with led := { s.led with acc := AMap.insert s.led.acc k (AMap.getD s.led.acc 0 k + n) } }
/-- The energy of `n` events of an index of R378, in 1 / (256 × 3,300) pJ: coefficients are in 1/256 pJ, and that of core time is for a
microsecond of 3,300 cycles. -/
def eventEnergy (ev n : Nat) : Nat := (Config.energyCoef ev).toNat * n * (if ev = 10 then 1 else 3300)
/-- The event of R378 that a unit of an item is: core time, a stack byte, a flash byte. -/
def itemEvent (item : Nat) : Option Nat :=
  if item ≤ 1 then some 10 else if item ≤ 3 then none else if item ≤ 7 then some 6 else if item ≤ 9 then some 8 else none
/-- `n` units of an item charged to a line at a unit (14 R377), with their energy (R378). -/
def State.chargeAt (s : State) (unit line item n : Nat) : State :=
  match itemEvent item with
  | some ev => (s.addAcc unit line item n).addAcc unit line 10 (eventEnergy ev n)
  | none => s.addAcc unit line item n
/-- The same at hub 0, for what the umpire and its engines do. -/
def State.charge (s : State) (line item n : Nat) : State := s.chargeAt (ident 2 1024) line item n

/-! Messages. -/

/-- Mailbox `m`. -/
def State.mbx (s : State) (m : Nat) : Mbx := AMap.getD s.ump.mbxs .reset m
def State.setMbx (s : State) (m : Nat) (b : Mbx) : State :=
  { s with ump := { s.ump with mbxs := AMap.insert s.ump.mbxs m b } }
def State.modMbx (s : State) (m : Nat) (f : Mbx → Mbx) : State := s.setMbx m (f (s.mbx m))

def isApp (m : Nat) : Bool := decide (m < 64)
def isMgmt (m : Nat) : Bool := decide (64 ≤ m) && decide (m < 68)
def isDebug (m : Nat) : Bool := decide (68 ≤ m) && decide (m < 72)

/-- Slots a message of `n` bytes takes (16 R416). -/
def slotsOf (n : Nat) : Nat := ceilDiv n 64

/-- The 16-byte header (16 R419). -/
def msgHeader (major minor : Byte) (op ctx len seq flags : Nat) : List Byte :=
  [major, minor] ++ leBytes 2 op ++ leBytes 2 ctx ++ leBytes 2 len ++ leBytes 4 seq ++ leBytes 2 flags ++ [0, 0]

/-- Bytes written into a ring of 256 slots at byte `pos`, wrapping. -/
def ringWrite (w : Mem) (base pos : Nat) : List Byte → Mem
  | [] => w
  | b :: bs => ringWrite (Mem.wr w (base + pos % 16384) b) base (pos + 1) bs

/-- Bytes of a ring from byte `pos`, wrapping. -/
def ringRead (w : Mem) (base pos : Nat) : Nat → List Byte
  | 0 => []
  | n + 1 => Mem.rd w (base + pos % 16384) :: ringRead w base (pos + 1) n

namespace Mbx
/-- Free slots of the response ring. -/
def room (b : Mbx) : Nat := 256 - (b.rspTail - b.rspHead).toNat
/-- A message written at the response tail, which then advances; the interrupt is raised where it is enabled (R417). -/
def put (b : Mbx) (msg : List Byte) : Mbx :=
  { b with win := ringWrite b.win 16384 (64 * b.rspTail.toNat) msg
           rspTail := b.rspTail + BitVec.ofNat 16 (slotsOf msg.length)
           irq := b.irq || b.irqEn }
/-- A response: written, or held while it does not fit (R418). -/
def respond (b : Mbx) (msg : List Byte) : Mbx :=
  if b.held = [] ∧ slotsOf msg.length ≤ b.room then b.put msg
  else { b with held := b.held ++ [msg], stalled := true }
/-- An event's message; the first delivered after a drop carries flag [2]. -/
def eventMsg (b : Mbx) (e : Event) : List Byte :=
  msgHeader b.verMajor b.verMinor e.op e.ctx e.body.length e.seq.toNat (if b.dropMark then 6 else 2) ++ e.body
/-- An event raised: numbered, then delivered, kept, or dropped and counted (R418, R420). -/
def event (b : Mbx) (op ctx : Nat) (body : List Byte) : Mbx :=
  if b.session then
    let e : Event := ⟨op, ctx, b.evCount, body⟩
    let b1 := { b with evCount := b.evCount + 1 }
    if b.held = [] ∧ b.events = [] ∧ slotsOf (16 + body.length) ≤ b.room then
      { b1.put (b1.eventMsg e) with dropMark := false }
    else if b.events.length < 256 then { b1 with events := b.events ++ [e] }
    else { b1 with evDrop := b.evDrop + 1, dropMark := true }
  else b
end Mbx

/-- The response to a request: its opcode, context and sequence number echoed, flag [0] set (16 R420). -/
def State.reply (s : State) (r : Req) (body : List Byte) : State :=
  s.modMbx r.mbx (fun b =>
    let b1 := b.respond (msgHeader b.verMajor b.verMinor r.op r.ctx body.length r.seq 1 ++ body)
    { b1 with due := b1.due - 1 })

/-- A response that begins with a status. -/
def State.answer (s : State) (r : Req) (status : Code) (rest : List Byte) : State :=
  s.reply r (leBytes 2 status.toNat ++ rest)

/-- A response with a status and zeros: `n` bytes after the status. -/
def State.refuse (s : State) (r : Req) (status : Code) (n : Nat) : State := s.answer r status (leBytes n 0)

/-- An event on one mailbox. -/
def State.event (s : State) (m op ctx : Nat) (body : List Byte) : State := s.modMbx m (fun b => b.event op ctx body)
/-- An event on every management mailbox. -/
def State.eventMgmt (s : State) (op ctx : Nat) (body : List Byte) : State :=
  [64, 65, 66, 67].foldl (fun s m => s.event m op ctx body) s

namespace Req
/-- The payload field of `n` bytes at `off`. -/
def fld (r : Req) (off n : Nat) : Nat := leAt r.body off n
/-- Whether the payload bytes [off, off + n) are zero. -/
def zeros (r : Req) (off n : Nat) : Bool := r.fld off n == 0
end Req

/-- The active configuration. -/
def State.cfg (s : State) : CfgImage := if s.ump.active = 0 then s.ump.slot0.img else s.ump.slot1.img
/-- A defined court. -/
def State.courtRec (s : State) (c : Nat) : Option CourtRec :=
  match AMap.find? s.cfg.courts c with
  | some r => if r.defined then some r else none
  | none => none
def State.courtDefined (s : State) (c : Nat) : Bool := (s.courtRec c).isSome
/-- The record of a defined context. -/
def State.ctxRec (s : State) (c : Nat) : Option CtxRec := AMap.find? s.cfg.ctxs c
/-- Whether a mailbox permits a context (16 R429). -/
def State.permits (s : State) (m c : Nat) : Bool :=
  isMgmt m || (match AMap.find? s.cfg.mbxs m with | some r => r.map.testBit c | none => false)

end Sys2Proof.Machine
end

