-- ==== Sys2Proof/Machine/Stack.lean ====
section
/-! DEFINITION. Stack memory: interleave, slot tables, the (72,64) code, corrected and uncorrectable words (10 R246 to
R255). -/
namespace Sys2Proof.Machine

/-- The bucket of a stack address (10 R247). -/
def bucketOf (a : Nat) : Nat :=
  let g := a / 256
  (List.range 12).foldl (fun b k =>
    b + 2 ^ k * b2n ((g.testBit k).xor ((g.testBit (12 + k)).xor (g.testBit (24 + (k + 6) % 9))))) 0
/-- The index of a stack address, and its slice level (10 R247). -/
def indexOf (a : Nat) : Nat := a / 256 / 4096
def levelOf (a : Nat) : Nat := indexOf a / 4096

/-- The default slot of a slice (10 R248). -/
def defaultSlot (b level : Nat) : SlotEnt := ⟨b % 512, b / 512, level⟩
/-- The channel-local byte address in a slot (10 R248). -/
def localAddr (e : SlotEnt) (a : Nat) : Nat := e.frame * 2 ^ 29 + e.level * 2 ^ 20 + indexOf a % 4096 * 256 + a % 256

/-- The slot of a slice (10 R250): none where it is vacated. -/
def State.slotOf (s : State) (b level : Nat) : Option SlotEnt :=
  if 512 - s.mem.vacated ≤ level then none
  else match AMap.find? s.mem.slots (512 * b + level) with
    | some e => some e
    | none => some (defaultSlot b level)

/-- The channel that stores a stack address. -/
def State.chanOf (s : State) (a : Nat) : Nat :=
  match s.slotOf (bucketOf a) (levelOf a) with
  | some e => e.chan
  | none => bucketOf a % 512

/-- The home channel of a bucket (10 R249). -/
def State.homeOf (s : State) (b : Nat) : Nat := AMap.getD s.mem.homes (b % 512) b

def State.chan (s : State) (c : Nat) : Channel := AMap.getD s.mem.chans .reset c
def State.modChan (s : State) (c : Nat) (f : Channel → Channel) : State :=
  { s with mem := { s.mem with chans := AMap.insert s.mem.chans c (f (s.chan c)) } }

/-- Channels in service or being evacuated (MEM_CAP). -/
def State.liveChannels (s : State) : Nat := 512 - s.mem.vacated

/-- The fault record of an uncorrectable word at a stack address: its source is the die that owns the channel. -/
def State.uncorrRecord (s : State) (a severity ctx : Nat) : State :=
  s.raise { FRec.mk0 E_MEM_UNCORR severity (ident 2 (dieOfChannel (s.chanOf a))) with addr := a, ctx := ctx }

/-- A counted correction on a channel (10 R253; MEM_CE_TOTAL). -/
def State.countCe (s : State) (c : Nat) : State :=
  let s1 := s.modChan c (fun ch => { ch with ceHour := ch.ceHour + 1 })
  { s1 with mem := { s1.mem with ceTotal := s1.mem.ceTotal + 1 } }
/-- A detected uncorrectable word (10 R255). -/
def State.countUe (s : State) (c : Nat) : State :=
  let s1 := s.modChan c (fun ch => { ch with ueHour := ch.ueHour + 1, ue := ch.ue + 1 })
  { s1 with mem := { s1.mem with ueTotal := s1.mem.ueTotal + 1 } }

/-- The word's stored codeword becomes a fresh encoding of its data changed by `e`. -/
def State.settle (s : State) (w : Nat) (e : BitVec 64) : State :=
  let v := (BitVec.ofNat 64 (Mem.rdLE s.mem.stack (8 * w) 8) ^^^ e).toNat
  { s with mem := { s.mem with
    flips := AMap.erase s.mem.flips w
    stack := if e = 0 then s.mem.stack else Mem.wrLE s.mem.stack (8 * w) 8 v } }

/-- The stack word at word address `w` read: corrected in place, or found uncorrectable (counted, and recorded with a
severity for a context); the flag says it is readable (10 R252 to R255). -/
def State.touch (s : State) (sev ctx w : Nat) : State × Bool :=
  match AMap.find? s.mem.flips w with
  | none => (s, true)
  | some f =>
    let c := s.chanOf (8 * w)
    match eccDecode f with
    | .bad => (((s.countUe c).uncorrRecord (8 * w) sev ctx), false)
    | .clean e => (s.settle w e, true)
    | .corrected e => ((s.settle w e).countCe c, true)
/-- The words from word address `w`, `n` of them, read: all readable or not. -/
def State.touchAll (s : State) (sev ctx w : Nat) : Nat → State × Bool
  | 0 => (s, true)
  | n + 1 =>
    let r := s.touch sev ctx w
    let q := r.1.touchAll sev ctx (w + 1) n
    (q.1, r.2 && q.2)

/-- `n` bytes read at a stack address, with whether every word was readable. -/
def State.stackRead (s : State) (sev ctx a n : Nat) : State × Bool × List Byte :=
  let w0 := a / 8
  let r := s.touchAll sev ctx w0 (if n = 0 then 0 else (a + n - 1) / 8 + 1 - w0)
  (r.1, r.2, Mem.rdBytes r.1.mem.stack a n)

/-- Bytes of one word written: a write of all 8 bytes stores a fresh codeword; a partial write of an uncorrectable word is
not applied (10 R254). -/
def State.writeWord (s : State) (sev ctx a : Nat) (bs : List Byte) : State × Bool :=
  if a % 8 = 0 ∧ bs.length = 8 then
    ({ s with mem := { s.mem with flips := AMap.erase s.mem.flips (a / 8), stack := Mem.wrBytes s.mem.stack a bs } }, true)
  else
    let r := s.touch sev ctx (a / 8)
    if r.2 then ({ r.1 with mem := { r.1.mem with stack := Mem.wrBytes r.1.mem.stack a bs } }, true) else (r.1, false)

/-- Bytes written at a stack address word by word, within `fuel` words; the flag says every word was applied. -/
def State.stackWriteN (s : State) (sev ctx a : Nat) (bs : List Byte) : Nat → State × Bool
  | 0 => (s, true)
  | fuel + 1 =>
    if bs = [] then (s, true) else
    let k := 8 - a % 8
    let r := s.writeWord sev ctx a (bs.take k)
    let q := r.1.stackWriteN sev ctx (a + k) (bs.drop k) fuel
    (q.1, r.2 && q.2)
def State.stackWrite (s : State) (sev ctx a : Nat) (bs : List Byte) : State × Bool :=
  s.stackWriteN sev ctx a bs (bs.length / 8 + 2)

/-- A range of stack addresses cleared: data zero, codewords fresh. -/
def State.stackClear (s : State) (a n : Nat) : State :=
  { s with mem := { s.mem with
    stack := Mem.clear s.mem.stack a n
    flips := s.mem.flips.filter (fun e => !(decide (a ≤ 8 * e.1) && decide (8 * e.1 < a + n))) } }

end Sys2Proof.Machine
end

