-- ==== Sys2Proof/Machine/Objects.lean ====
section
/-! DEFINITION. Objects: placement, quotas, homes of blocks, access and vat operations (11 R273 to R289; 10 R258 to
R262). -/
namespace Sys2Proof.Machine

/-- Bytes of a block (11 R273). -/
def blockBytes : Nat := 262144
/-- The client that an object's space in a tier is charged to; the cave reserves of its sequences cover a caved bench image (14 R363). -/
def Obj.payer (o : Obj) (tier : Nat) : Option Nat := if o.use = .bench ∧ tier = 2 then none else o.owner
/-- Blocks of an object. -/
def Obj.blocks (o : Obj) : Nat := ceilDiv o.size blockBytes

/-! Stack regions and chunks (11 R275, R277). Region r is stack addresses 2^18 r to 2^18 (r + 1) - 1; the map reserve takes
the regions below 32,768. -/

/-- The first region that no new datum takes: past the live capacity, and past what a map-out vacates (10 R268). -/
def State.regionEnd (s : State) : Nat :=
  16384 * (s.liveChannels - (match s.mem.mapout with | some m => b2n (decide (m.step = 1)) | none => 0))
/-- Regions that are given over to the pressed tier. -/
def State.pressedRegions (s : State) : AMap (List Nat) :=
  s.tier.regs.filterMap (fun e => match e.2 with | .pressed u => some (e.1, u) | .fresh _ => none)
/-- Free regions of stack space. -/
def State.freeRegions (s : State) : Nat :=
  s.regionEnd - 32768 - (s.tier.regs.filter (fun e => decide (e.1 < s.regionEnd))).length
/-- Free 4 KiB chunks in the pressed regions, those in addresses being vacated apart (10 R268). -/
def State.freeChunks (s : State) : Nat :=
  ((s.pressedRegions.filter (fun e => decide (e.1 < s.regionEnd))).map (fun e => 64 - e.2.length)).sum
/-- Reservations of moves into a tier, in 4 KiB units (11 R282). -/
def State.reserved (s : State) (tier : Nat) : Nat :=
  (s.tier.objs.map (fun e => match e.2.move with | some m => if m.dest = tier then m.resv else 0 | none => 0)).sum
/-- Units of 4 KiB a home charges: a fresh block 64, a pressed image its chunks, a cave image whole 16 KiB (11 R287). -/
def Home.units : Home → Nat
  | .fresh _ => 64
  | .pressed _ cs => cs.length
  | .cave _ img _ => 4 * ceilDiv img.length 16384
def Home.tier : Home → Nat
  | .fresh _ => 0
  | .pressed _ _ => 1
  | .cave _ _ _ => 2
/-- Free 16 KiB units of usable cave space (TIER_CAVE). -/
def State.caveFree (s : State) : Nat :=
  (80000000000000 - s.tier.caveLost) / 16384 -
    (s.tier.blocks.map (fun e => match e.2 with | .cave _ img _ => ceilDiv img.length 16384 | _ => 0)).sum
/-- Units of 4 KiB of the cave reserves of sequences that no caved image or page block takes (14 R363, R365). -/
def State.caveReserve (s : State) : Nat :=
  let mine (b : Nat) : Bool := match List.find? (fun e => decide (e.1 ≤ b) && decide (b < e.1 + e.2.blocks)) s.tier.objs with
    | some (_, o) => (o.payer 2).isNone
    | none => false
  (s.sch.seqs.map (fun e => e.2.resvCave)).sum -
    (s.tier.blocks.map (fun e => match e.2 with | .cave _ _ _ => b2n (mine e.1) * e.2.units | _ => 0)).sum
/-- Whether free stack space holds `fresh` units of 4 KiB in whole regions beside `pressed` chunks, which take free chunks first. -/
def State.fits (s : State) (fresh pressed : Nat) : Bool :=
  decide (fresh + 64 * ceilDiv (pressed - s.freeChunks) 64 ≤ 64 * s.freeRegions)
/-- Whether a tier has the space for `n` further units of 4 KiB beside what moves have reserved (11 R282 case 3, R288). -/
def State.hasRoom (s : State) (tier n : Nat) : Bool :=
  if tier = 0 then s.fits (n + s.reserved 0) (s.reserved 1)
  else if tier = 1 then s.fits (s.reserved 0) (n + s.reserved 1)
  else decide (n + s.reserved 2 + s.caveReserve ≤ 4 * s.caveFree)

/-- The charge of `n` units taken by a client in a tier; space of no client is unattributed (11 R287, R289). -/
def State.chargeQuota (s : State) (owner : Option Nat) (tier n : Nat) : State :=
  match owner with
  | none => s
  | some c => let k := 4 * c + tier; { s with tier := { s.tier with used := AMap.setD s.tier.used 0 k (AMap.getD s.tier.used 0 k + n) } }
def State.unchargeQuota (s : State) (owner : Option Nat) (tier n : Nat) : State :=
  match owner with
  | none => s
  | some c => let k := 4 * c + tier; { s with tier := { s.tier with used := AMap.setD s.tier.used 0 k (AMap.getD s.tier.used 0 k - n) } }
/-- Whether a client's quota covers `n` further units (11 R287). -/
def State.quotaOk (s : State) (owner : Option Nat) (tier n : Nat) : Bool :=
  match owner with
  | none => true
  | some c => decide (AMap.getD s.tier.used 0 (4 * c + tier) + n ≤ AMap.getD s.tier.limit 0 (4 * c + tier))

/-- The lowest free region: below the end of what new data take, but for a move that was accepted before a map-out and finds none there
(10 R268). -/
def State.pickRegion (s : State) : Nat := AMap.lowestFree s.tier.regs (s.tier.regs.length + 1) 32768
def State.setRegion (s : State) (r : Nat) (u : RegUse) : State := { s with tier := { s.tier with regs := AMap.insert s.tier.regs r u } }
def State.clearRegion (s : State) (r : Nat) : State := { s with tier := { s.tier with regs := AMap.erase s.tier.regs r } }
def State.setBlock (s : State) (b : Nat) (h : Home) : State := { s with tier := { s.tier with blocks := AMap.insert s.tier.blocks b h } }
def State.setObj (s : State) (b : Nat) (o : Obj) : State := { s with tier := { s.tier with objs := AMap.insert s.tier.objs b o } }

/-- A chunk (stack address / 4,096) taken: in the lowest pressed region with a free one, else in the lowest free region. -/
def State.takeChunk (s : State) : State × Nat :=
  match List.find? (fun e => decide (e.2.length < 64) && decide (e.1 < s.regionEnd)) s.pressedRegions with
  | some (r, used) =>
    let j := ((List.range 64).find? (fun j => !used.contains j)).getD 0
    (s.setRegion r (.pressed (used ++ [j])), 64 * r + j)
  | none => let r := s.pickRegion; (s.setRegion r (.pressed [0]), 64 * r)
/-- `n` chunks taken. -/
def State.takeChunks (s : State) : Nat → State × List Nat
  | 0 => (s, [])
  | n + 1 => let q := s.takeChunk; let r := q.1.takeChunks n; (r.1, q.2 :: r.2)
/-- A chunk given back; a region without chunks is free again. -/
def State.freeChunk (s : State) (c : Nat) : State :=
  match AMap.find? s.tier.regs (c / 64) with
  | some (.pressed used) =>
    let u := used.filter (· ≠ c % 64)
    if u = [] then s.clearRegion (c / 64) else s.setRegion (c / 64) (.pressed u)
  | _ => s
/-- A relocation from a region given up, where there is one: its destination is free again. -/
def State.dropReloc (s : State) (r : Nat) : State :=
  match AMap.find? s.mem.relocs r with
  | none => s
  | some x => let t := s.clearRegion x.dest; { t with mem := { t.mem with relocs := AMap.erase t.mem.relocs r } }
/-- A home given back. -/
def State.freeHome (s : State) : Home → State
  | .fresh r => (s.clearRegion r).dropReloc r
  | .pressed _ cs => cs.foldl State.freeChunk s
  | .cave _ _ _ => s

/-! Creation and release. -/

/-- The lowest run of `n` free block numbers from `k` up, past the objects of the list (11 R274). -/
def findRun (n : Nat) : Nat → AMap Obj → Nat
  | k, [] => k
  | k, (b, o) :: rest => if k + n ≤ b then k else findRun n (max k (b + o.blocks)) rest
/-- Blocks of all objects. -/
def State.allocBlocks (s : State) : Nat := (s.tier.objs.map (fun e => e.2.blocks)).sum

/-- Fresh homes for `n` blocks from `b`, cleared to zero. -/
def State.freshBlocks (s : State) (b : Nat) : Nat → State
  | 0 => s
  | n + 1 =>
    let r := s.pickRegion
    (((s.setRegion r (.fresh b)).setBlock b (.fresh r)).stackClear (blockBytes * r) blockBytes).freshBlocks (b + 1) n

/-- An object placed at block `b` with fresh, zeroed blocks, charged to its owner. -/
def State.placeObj (s : State) (b : Nat) (o : Obj) : State :=
  ((s.setObj b o).freshBlocks b o.blocks).chargeQuota (o.payer 0) 0 (64 * o.blocks)

/-- A new fresh object: its address, or the code that refuses it (11 R274, R287, R288). -/
def State.createObj (s : State) (owner : Option Nat) (use : ObjUse) (size kind flags : Nat) : State × Code × Nat :=
  let o : Obj := ⟨size, kind, flags, owner, use, none⟩
  let n := o.blocks
  if 536870912 < s.allocBlocks + n then (s, E_OBJ_SPACE, 0)
  else if !s.quotaOk owner 0 (64 * n) then (s, E_TIER_QUOTA, 0)
  else if !s.hasRoom 0 (64 * n) then (s, E_TIER_NOROOM, 0)
  else
    let b := findRun n 1 s.tier.objs
    (s.placeObj b o, 0, blockBytes * b)

/-- A court area at an address of the configuration: placed where its blocks are free, within what an object and all objects may take (11
R273, R274, R533). -/
def State.createAt (s : State) (use : ObjUse) (addr size : Nat) : State × Code :=
  let b := addr / blockBytes
  let o : Obj := ⟨addr % blockBytes + size, 0, 0, none, use, none⟩
  if 2 ^ 52 < addr + size ∨ 2 ^ 40 < o.size ∨ 536870912 < s.allocBlocks + o.blocks then (s, E_OBJ_SPACE)
  else if b = 0 ∨ s.tier.objs.any (fun e => decide (e.1 < b + o.blocks) && decide (b < e.1 + e.2.blocks)) ∨ !s.hasRoom 0 (64 * o.blocks)
  then (s, E_TIER_NOROOM)
  else (s.placeObj b o, 0)

/-- The homes of the blocks of an object. -/
def State.homesOf (s : State) (b : Nat) (o : Obj) : List (Nat × Home) :=
  s.tier.blocks.filter (fun e => decide (b ≤ e.1) && decide (e.1 < b + o.blocks))

/-- An object released: its blocks free, its charges gone (11 R299). -/
def State.dropObj (s : State) (b : Nat) : State :=
  match AMap.find? s.tier.objs b with
  | none => s
  | some o =>
    let hs := s.homesOf b o
    let s1 := hs.foldl (fun s e => (s.freeHome e.2).unchargeQuota (o.payer e.2.tier) e.2.tier e.2.units) s
    let s2 := match o.move with | some m => s1.unchargeQuota (o.payer m.dest) m.dest m.resv | none => s1
    { s2 with tier := { s2.tier with
      objs := AMap.erase s2.tier.objs b
      blocks := s2.tier.blocks.filter (fun e => !(decide (b ≤ e.1) && decide (e.1 < b + o.blocks)))
      budgetWait := s2.tier.budgetWait.filter (· ≠ b) } }

/-- Its tier: 3 where its blocks are mixed (11 R285, R300). -/
def State.objTier (s : State) (b : Nat) (o : Obj) : Nat :=
  match (s.homesOf b o).map (fun e => e.2.tier) with
  | [] => 0
  | t :: ts => if ts.all (· == t) then t else 3
/-- Bytes charged in a tier. -/
def State.objStored (s : State) (b : Nat) (o : Obj) (tier : Nat) : Nat :=
  4096 * (((s.homesOf b o).filter (fun e => e.2.tier == tier)).map (fun e => e.2.units)).sum

/-! Access (11 R278 to R280, R533). -/

/-- Who reaches an object address: a core run of a step of a context (none: a core that runs for no step), a coach acting for a
step, an application core acting for a client, a message of a context, a management mailbox (16 R426), the umpire for the
module itself. -/
inductive Agent
  | core (ctx : Option Nat)
  | coach (ctx : Nat)
  | app (ctx : Nat)
  | msg (ctx : Nat)
  | mgmt
  | umpire
deriving DecidableEq, Repr

/-- The object that holds a block, with its first block. -/
def State.objAt (s : State) (b : Nat) : Option (Nat × Obj) :=
  List.find? (fun e => decide (e.1 ≤ b) && decide (b < e.1 + e.2.blocks)) s.tier.objs

/-- The object address of a page and its stride (05 R132). -/
def State.pageAddr (s : State) (court id : Nat) : Nat × Nat :=
  match s.courtRec court with
  | none => (0, 0)
  | some r => match r.pools[bitsOf id 25 24]? with
    | none => (0, 0)
    | some (base, stride, _) => (base + id % 2 ^ 24 * stride, stride)

/-- Whether [a, a + n) lies within [b, b + m). -/
def within (a n b m : Nat) : Bool := decide (b ≤ a) && decide (a + n ≤ b + m)

/-- What a core run of a context reaches of a court area: bytes [a, a + n) of one block (11 R533). -/
def State.coreReaches (s : State) (ctx : Nat) (use : ObjUse) (a n : Nat) : Bool :=
  match use with
  | .pools court => s.sch.pages.any (fun e =>
      decide (e.1 / 2 ^ 26 = court) && decide (e.2.ctx = ctx) &&
      (let p := s.pageAddr court (e.1 % 2 ^ 26)
       decide (p.1 / blockBytes ≤ a / blockBytes) && decide (a / blockBytes * blockBytes < p.1 + p.2)))
  | .huddle court => s.sch.steps.any (fun st =>
      decide (st.court = court) && decide (st.ctx = ctx) &&
      (st.huddles.any (fun e => within a n e.2.buf e.2.size) || st.merges.any (fun e => within a n e.2.1 e.2.2)))
  | _ => false

/-- What a coach that acts for a step of a context reaches of the court areas: those of the context's court, and the roster (11 R533). -/
def State.coachReaches (s : State) (ctx : Nat) (use : ObjUse) : Bool :=
  let mine (court : Nat) : Bool := match s.ctxRec ctx with | some r => decide (r.court = court) | none => false
  match use with
  | .pools k => mine k
  | .huddle k => mine k
  | .stepArea k => mine k
  | .returns k => mine k
  | .lists k => mine k
  | _ => true

/-- Whether an agent may reach bytes [a, a + n) of a block of an object. -/
def State.mayReach (s : State) (ag : Agent) (o : Obj) (wr : Bool) (a n : Nat) : Bool :=
  match o.use with
  | .client | .made | .bench =>
    let own (c : Nat) := decide (o.owner = some c) || (!wr && o.flags.testBit 0)
    match ag with
    | .umpire => true
    | .mgmt => true
    | .core none => false
    | .core (some c) => own c
    | .coach c => own c
    | .app c => own c
    | .msg c => own c
  | use => match ag with
    | .umpire => true
    | .coach c => s.coachReaches c use
    | .core (some c) => s.coreReaches c use a n
    | _ => false

/-- A range cut at block boundaries, at most `fuel` pieces: address and length. -/
def blockPieces : Nat → Nat → Nat → List (Nat × Nat)
  | 0, _, _ => []
  | fuel + 1, a, n =>
    if n = 0 then [] else
    let k := min n (blockBytes - a % blockBytes)
    (a, k) :: blockPieces fuel (a + k) (n - k)
def piecesOf (a n : Nat) : List (Nat × Nat) := blockPieces (n / blockBytes + 2) a n

/-- Whether the codec holds an object read-only: a pool buffer with a mark set, or the source of a frame that is not done (15 R397,
R408). -/
def State.codecHolds (s : State) (b : Nat) (o : Obj) : Bool :=
  let mine (a : Nat) : Bool := decide (b ≤ a / blockBytes) && decide (a / blockBytes < b + o.blocks)
  s.cdc.streams.any (fun e =>
    e.2.pool.any (fun p => decide (p.2.marks.toNat % 32 ≠ 0) && mine p.2.addr) ||
    (decide (e.2.dir = 1) && e.2.queue.any (fun f => mine f.src))) ||
  s.cdc.engs.any (fun e => match e.2.run with
    | some x => (match AMap.find? s.cdc.streams x.stream with | some c => decide (c.dir = 1) && mine x.frame.src | none => false)
    | none => false)
/-- The check of one piece: 0, or the code that stops it. An object on the move, a shard, and what the codec
holds are read-only (11 R283, 12 R307, 15 R397). -/
def State.pieceCode (s : State) (ag : Agent) (wr : Bool) (p : Nat × Nat) : Code :=
  match s.objAt (p.1 / blockBytes), AMap.find? s.tier.blocks (p.1 / blockBytes) with
  | some (b, o), some h =>
    if !s.mayReach ag o wr p.1 p.2 then E_OBJ_UNMAPPED
    else match h with
      | .cave _ _ _ => E_OBJ_CAVE
      | .pressed _ _ => if wr then E_OBJ_RO else 0
      | .fresh _ => if wr && (o.move.isSome || (AMap.find? s.wgt.shards b).isSome || s.codecHolds b o) then E_OBJ_RO else 0
  | _, _ => E_OBJ_UNMAPPED

/-- The check of an access: an unmapped piece first, then a cave piece, then a read-only one. -/
def State.accessCode (s : State) (ag : Agent) (wr : Bool) (a n : Nat) : Code :=
  if 2 ^ 52 < a + n then E_OBJ_UNMAPPED
  else
    let cs := (piecesOf a n).map (s.pieceCode ag wr)
    if cs.contains E_OBJ_UNMAPPED then E_OBJ_UNMAPPED
    else if cs.contains E_OBJ_CAVE then E_OBJ_CAVE
    else if cs.contains E_OBJ_RO then E_OBJ_RO
    else 0

/-- What an access needs beside its address: who asks, the severity and the context its fault records carry, and the unit that
decodes pressed tiles. -/
structure Access where
  ag : Agent
  sev : Nat
  ctx : Nat
  unit : Nat

/-- Bytes of an image whose chunks are given, `n` from offset `off`, at most `fuel` chunks. -/
def State.chunkRead (s : State) (ac : Access) (cs : List Nat) : Nat → Nat → Nat → State × Bool × List Byte
  | 0, _, _ => (s, true, [])
  | fuel + 1, off, n =>
    if n = 0 then (s, true, []) else
    let k := min n (4096 - off % 4096)
    let r := s.stackRead ac.sev ac.ctx (4096 * (cs[off / 4096]?.getD 0) + off % 4096) k
    let q := r.1.chunkRead ac cs fuel (off + k) (n - k)
    (q.1, r.2.1 && q.2.1, r.2.2 ++ q.2.2)

/-- The record of a tile that fails to decode (11 R280). -/
def State.corruptRecord (s : State) (ac : Access) (addr : Nat) : State :=
  s.raise { FRec.mk0 E_TIER_CORRUPT ac.sev ac.unit with addr := addr, ctx := ac.ctx }

/-- Tile `t` of a pressed block at object address `addr` (its block's start): decoded whole (11 R278, R280). -/
def State.pressedTile (s : State) (ac : Access) (addr len : Nat) (cs : List Nat) (t : Nat) : State × Code × List Byte :=
  let h := s.chunkRead ac cs (cs.length + 2) 0 144
  if !h.2.1 then (h.1, E_MEM_UNCORR, []) else
  let bad (s : State) : State × Code × List Byte := (s.corruptRecord ac (addr + 4096 * t), E_TIER_CORRUPT, [])
  match imageHead h.2.2 with
  | none => bad h.1
  | some (kind, ents) =>
    let off := 144 + 16 * (ents.take t).sum
    let n := 16 * ents[t]?.getD 0
    if len < off + n then bad h.1 else
    let r := h.1.chunkRead ac cs (cs.length + 2) off n
    if !r.2.1 then (r.1, E_MEM_UNCORR, []) else
    match decTile kind t r.2.2 with
    | none => bad r.1
    | some d => (r.1, 0, d)

/-- Bytes [off, off + n) of a pressed block, tile by tile. -/
def State.pressedRead (s : State) (ac : Access) (addr len : Nat) (cs : List Nat) : Nat → Nat → Nat → State × Code × List Byte
  | 0, _, _ => (s, 0, [])
  | fuel + 1, off, n =>
    if n = 0 then (s, 0, []) else
    let k := min n (4096 - off % 4096)
    let r := s.pressedTile ac addr len cs (off / 4096)
    if r.2.1 ≠ 0 then r else
    let q := r.1.pressedRead ac addr len cs fuel (off + k) (n - k)
    (q.1, q.2.1, (r.2.2.drop (off % 4096)).take k ++ q.2.2)

/-- One piece read from where its block lives. -/
def State.pieceRead (s : State) (ac : Access) (p : Nat × Nat) : State × Code × List Byte :=
  match AMap.find? s.tier.blocks (p.1 / blockBytes) with
  | some (.fresh r) =>
    let q := s.stackRead ac.sev ac.ctx (blockBytes * r + p.1 % blockBytes) p.2
    (q.1, if q.2.1 then 0 else E_MEM_UNCORR, q.2.2)
  | some (.pressed len cs) => s.pressedRead ac (p.1 / blockBytes * blockBytes) len cs 66 (p.1 % blockBytes) p.2
  | _ => (s, E_OBJ_CAVE, [])

/-- The pieces read in order; the first code met is the answer's. -/
def State.piecesRead (s : State) (ac : Access) : List (Nat × Nat) → State × Code × List Byte
  | [] => (s, 0, [])
  | p :: ps =>
    let r := s.pieceRead ac p
    let q := r.1.piecesRead ac ps
    (q.1, if r.2.1 ≠ 0 then r.2.1 else q.2.1, r.2.2 ++ q.2.2)

/-- `n` bytes read at an object address. -/
def State.objRead (s : State) (ac : Access) (a n : Nat) : State × Code × List Byte :=
  let c := s.accessCode ac.ag false a n
  if c ≠ 0 then (s, c, []) else s.piecesRead ac (piecesOf a n)

/-- The stack address of an object address in a fresh block. -/
def State.freshAddr (s : State) (a : Nat) : Option Nat :=
  match AMap.find? s.tier.blocks (a / blockBytes) with
  | some (.fresh r) => some (blockBytes * r + a % blockBytes)
  | _ => none

/-- Tiles that a write of bytes [a, a + n) reaches (stack addresses within one region) marked dirty, where the region's block is being
relocated (11 R284). -/
def State.markDirty (s : State) (a n : Nat) : State :=
  match AMap.find? s.mem.relocs (a / blockBytes) with
  | none => s
  | some r =>
    let ts := (List.range 64).filter (fun t => decide (4096 * t < a % blockBytes + n) && decide (a % blockBytes < 4096 * t + 4096))
    { s with mem := { s.mem with relocs := AMap.insert s.mem.relocs (a / blockBytes) { r with dirty := (r.dirty ++ ts).eraseDups } } }

/-- The pieces written in order; every word that can be is written (10 R254). -/
def State.piecesWrite (s : State) (ac : Access) : List (Nat × Nat) → List Byte → State × Code
  | [], _ => (s, 0)
  | p :: ps, bs =>
    match s.freshAddr p.1 with
    | none => (s, E_OBJ_RO)
    | some x =>
      let r := (s.markDirty x p.2).stackWrite ac.sev ac.ctx x (bs.take p.2)
      let q := r.1.piecesWrite ac ps (bs.drop p.2)
      (q.1, if r.2 then q.2 else E_MEM_UNCORR)

/-- Bytes written at an object address: nothing moves where the access is refused. -/
def State.objWrite (s : State) (ac : Access) (a : Nat) (bs : List Byte) : State × Code :=
  let c := s.accessCode ac.ag true a bs.length
  if c ≠ 0 then (s, c) else s.piecesWrite ac (piecesOf a bs.length) bs

/-! Vat operations (10 R258 to R262). -/

/-- Element bytes of a vat code; 0 for a reserved code. -/
def vatWidth (code : BitVec 4) : Nat :=
  match code.toNat with
  | 0 | 3 | 5 | 6 | 9 | 10 => 4
  | 1 | 2 | 7 | 8 => 2
  | 4 | 11 | 12 => 8
  | _ => 0

/-- One element: memory value, operand, random bits. -/
def vatElem (code : BitVec 4) (m x r : Nat) : Nat :=
  let sx (w : Nat) (v : Nat) : Int := if v < 2 ^ (w - 1) then (v : Int) else (v : Int) - 2 ^ w
  match code.toNat with
  | 0 => ((FV.ofBits .fp32 m).add (FV.ofBits .fp32 x)).toBits .fp32 .nearest 0x7FC00000
  | 1 => ((FV.ofBits .bf16 m).add (FV.ofBits .bf16 x)).toBits .bf16 .nearest 0x7FC0
  | 2 => ((FV.ofBits .bf16 m).add (FV.ofBits .bf16 x)).toBits .bf16 (.stochastic r) 0x7FC0
  | 3 => (m + x) % 2 ^ 32
  | 4 => (m + x) % 2 ^ 64
  | 5 => maxElem .fp32 true m x
  | 6 => maxElem .fp32 false m x
  | 7 => maxElem .bf16 true m x
  | 8 => maxElem .bf16 false m x
  | 9 => if sx 32 m ≤ sx 32 x then m else x
  | 10 => if sx 32 m ≤ sx 32 x then x else m
  | 11 => if sx 64 m ≤ sx 64 x then m else x
  | 12 => if sx 64 m ≤ sx 64 x then x else m
  | _ => m

/-- The elements of a line combined, from element `j` of the line. -/
def vatLine (code : BitVec 4) (w : Nat) (key ctr : W64) : Nat → Nat → List Byte → List Byte → List Byte
  | 0, _, _, _ => []
  | n + 1, j, ms, xs =>
    leBytes w (vatElem code (leNat (ms.take w)) (leNat (xs.take w)) (srBits key ctr j)) ++
      vatLine code w key ctr n (j + 1) (ms.drop w) (xs.drop w)

/-- A vat operation at a stack address within one line: applied whole, or not at all where a target word is uncorrectable;
with the bytes from before. -/
def State.vatApply (s : State) (ac : Access) (code : BitVec 4) (a : Nat) (xs : List Byte) : State × Code × List Byte :=
  let w := vatWidth code
  let r := s.stackRead ac.sev ac.ctx a xs.length
  if w = 0 then (s, E_KRN_ENCODING, [])
  else if !r.2.1 then (r.1, E_MEM_UNCORR, []) else
  let c := r.1.chanOf a
  let ch := r.1.chan c
  let out := vatLine code w ch.srKey ch.srCtr (xs.length / w) (a % 64 / w) r.2.2 xs
  let t := ((r.1.markDirty a xs.length).stackWrite ac.sev ac.ctx a out).1
  (t.modChan c (fun ch => { ch with ops := ch.ops + 1, srCtr := if code = 2 then ch.srCtr + 8 else ch.srCtr }), 0, r.2.2)

/-- A vat operation on bytes of one line at an object address. -/
def State.objVat (s : State) (ac : Access) (code : BitVec 4) (a : Nat) (xs : List Byte) : State × Code × List Byte :=
  let c := s.accessCode ac.ag true a xs.length
  if c ≠ 0 then (s, c, []) else
  match s.freshAddr a with
  | none => (s, E_OBJ_RO, [])
  | some x => s.vatApply ac code x xs

/-- The object that starts at an address, where a request may name it: of the request's context, of any context from a
management mailbox (16 R426), or a shared one where reading is enough; no court area (11 R299 to R301, R533). -/
def State.ownObj (s : State) (r : Req) (addr : Nat) (reading : Bool) : Option (Nat × Obj) :=
  if addr % blockBytes ≠ 0 then none else
  match AMap.find? s.tier.objs (addr / blockBytes) with
  | none => none
  | some o =>
    let ok := match o.use with
      | .client | .made | .bench => isMgmt r.mbx || decide (o.owner = some r.ctx) || (reading && o.flags.testBit 0)
      | _ => false
    if ok then some (addr / blockBytes, o) else none

/-- Bytes moved between a unit that works for a line and an object address, charged by the tier of each block (14 R376,
R377). -/
def State.chargeBytesAt (s : State) (unit line : Nat) (wr : Bool) (a n : Nat) : State :=
  (piecesOf a n).foldl (fun s p => match AMap.find? s.tier.blocks (p.1 / blockBytes) with
    | some h => s.chargeAt unit line (4 + 2 * h.tier + b2n wr) p.2
    | none => s) s
/-- The same at hub 0. -/
def State.chargeBytes (s : State) (line : Nat) (wr : Bool) (a n : Nat) : State := s.chargeBytesAt (ident 2 1024) line wr a n

/-- How a request reaches object addresses. -/
def Req.access (r : Req) : Access :=
  ⟨if isMgmt r.mbx then .mgmt else .msg r.ctx, 1, r.ctx, ident 2 1024⟩
/-- How the umpire reaches them for a context. -/
def umpAccess (ctx : Nat) : Access := ⟨.umpire, 1, ctx, ident 2 1024⟩

end Sys2Proof.Machine
end

