-- ==== Sys2Proof/Machine/Transfer.lean ====
section
/-! DEFINITION. The transfer slot (02 R57 to R59), layout conversion (08 R209, R210), page landing (05 R127, R141, R142), vat
transfers (10 R259), and the completion of transfers and halos (04 R117). -/
namespace Sys2Proof.Machine

/-! Layout conversion. -/

/-- How a move maps its source to its destination: the ranges (offset, bytes) of the two sides from their base addresses, and
the elements (destination offset, source offset) of `es` bytes; no element: a plain byte copy. -/
structure MoveMap where
  src : List (Nat × Nat)
  dst : List (Nat × Nat)
  es : Nat
  elems : List (Nat × Nat)

/-- The ranges of `c` planes of `n` bytes, `pitch` apart. -/
def planeRanges (c pitch n : Nat) : List (Nat × Nat) := (List.range c).map (fun i => (i * pitch, n))

/-- The pairs (planar offset, interleaved offset) of `p` positions of `c` channels. -/
def interleavePairs (c p es pitch : Nat) : List (Nat × Nat) :=
  (List.range p).flatMap fun q => (List.range c).map fun k => (k * pitch + q * es, (q * c + k) * es)

/-- The pairs (deep offset, wide offset) of space-to-depth over `c` planes of `rows` rows of `x` elements (08 R210). -/
def depthPairs (c x rows f es pitch : Nat) : List (Nat × Nat) :=
  (List.range c).flatMap fun k => (List.range rows).flatMap fun y => (List.range x).map fun i =>
    ((k * f * f + y % f * f + i % f) * (pitch / (f * f)) + (y / f * (x / f) + i / f) * es, k * pitch + (y * x + i) * es)

/-- The map of a move of `len` bytes under a conversion modifier and a descriptor (08 R209): none where the length or the
descriptor breaks the rule. -/
def moveMap (kind : Nat) (d : W64) (len : Nat) : Option MoveMap :=
  let v := d.toNat
  let es := 2 ^ bitsOf v 1 0
  let c := bitsOf v 13 2 + 1
  let x := bitsOf v 27 14 + 1
  let f := 2 ^ bitsOf v 29 28
  let pitch := bitsOf v 63 32
  let swap (l : List (Nat × Nat)) := l.map (fun e => (e.2, e.1))
  if kind = 0 then some ⟨[(0, len)], [(0, len)], 1, []⟩
  else if 5 ≤ kind ∨ bitsOf v 1 0 = 3 ∨ pitch % 64 ≠ 0 then none
  else if kind ≤ 2 then
    let n := len / (c * es)
    if len % (x * c * es) ≠ 0 ∨ pitch < n * es then none
    else
      let ps := interleavePairs c n es pitch
      if kind = 1 then some ⟨[(0, len)], planeRanges c pitch (n * es), es, ps⟩
      else some ⟨planeRanges c pitch (n * es), [(0, len)], es, swap ps⟩
  else
    let rows := len / (c * x * es)
    if len % (f * x * c * es) ≠ 0 ∨ x % f ≠ 0 ∨ pitch < rows * x * es then none
    else
      let wide := planeRanges c pitch (rows * x * es)
      let deep := planeRanges (c * f * f) (pitch / (f * f)) (rows * x * es / (f * f))
      let ps := depthPairs c x rows f es pitch
      if kind = 3 then some ⟨wide, deep, es, ps⟩ else some ⟨deep, wide, es, swap ps⟩

/-- The bytes of a destination, by offset, made from those of a source. -/
def MoveMap.apply (m : MoveMap) (src : Mem) : Mem :=
  if m.elems = [] then src
  else m.elems.foldl (fun d e => Mem.wrBytes d e.1 (Mem.rdBytes src e.2 m.es)) []

/-- Whether the ranges of a side lie in a store of `size` bytes from an aligned base. -/
def sideOk (base size : Nat) (rs : List (Nat × Nat)) : Bool :=
  decide (base % 64 = 0) && rs.all (fun r => decide (base + r.1 + r.2 ≤ size))

/-- The map of a transfer of the core (02 R58, 08 R209): XSLD, XSST, XMLD and XMST convert under mod; the others copy. -/
def CoreRegs.mapOf (c : CoreRegs) (k : XKind) (md : BitVec 4) (len : Nat) : Option MoveMap :=
  match k with
  | .sld | .sst | .mld | .mst => moveMap (md.toNat % 8) (if md.getLsbD 3 then c.xcvt1 else c.xcvt0) len
  | _ => moveMap 0 0 len

/-! Issue. -/

/-- The agent of a core's transfers: the context of its run (11 R279). -/
def CoreRegs.agent (c : CoreRegs) : Agent := .core (c.run.map (·.ctx))
/-- How a core's transfers reach object addresses: their records name its context, and its cluster router decodes. -/
def CoreRegs.access (c : CoreRegs) (p : Nat) : Access :=
  ⟨c.agent, 1, match c.run with | some r => r.ctx | none => 0xFFFF, ident 1 (p / 26)⟩

/-- The first code of the ranges of a side at an object address; bits [63:52] of the register must be zero (02 R59). -/
def State.sideCode (s : State) (ag : Agent) (wr : Bool) (base : Nat) (rs : List (Nat × Nat)) : Code :=
  if 2 ^ 52 ≤ base then E_CORE_OPERAND
  else
    let cs := rs.map (fun r => s.accessCode ag wr (base + r.1) r.2)
    if cs.contains E_OBJ_UNMAPPED then E_OBJ_UNMAPPED
    else if cs.contains E_OBJ_CAVE then E_OBJ_CAVE
    else if cs.contains E_OBJ_RO then E_OBJ_RO
    else 0

/-- Byte offset `o` of the staging buffer (02 R59). -/
def stagingOk (base : Nat) (rs : List (Nat × Nat)) : Bool := sideOk base Config.stagingBytes rs

/-- The check of a transfer before any byte moves: 0, or the code that stops the core. -/
def State.xferCode (s : State) (c : CoreRegs) (k : XKind) (md : BitVec 4) (dst src len : Nat) : Code :=
  match c.mapOf k md len with
  | none => E_CORE_OPERAND
  | some m =>
    let tb := Config.tileBufferBytes
    let conv := match k with | .mld | .mst => md.toNat % 8 ≠ 0 | _ => false
    let bad (b : Bool) : Code := if b then 0 else E_CORE_OPERAND
    match k with
    | .copy | .halo => bad (sideOk src tb m.src && sideOk dst tb m.dst)
    | .sld => bad (stagingOk src m.src && sideOk dst tb m.dst)
    | .sst => bad (sideOk src tb m.src && stagingOk dst m.dst)
    | .accTo => bad (sideOk src tb m.src && sideOk dst Config.accBytes m.dst)
    | .accFrom => bad (sideOk src Config.accBytes m.src && sideOk dst tb m.dst)
    | .mld => if !sideOk dst tb m.dst || (conv && decide (src % 64 ≠ 0)) then E_CORE_OPERAND
              else s.sideCode c.agent false src m.src
    | .mst => if !sideOk src tb m.src || (conv && decide (dst % 64 ≠ 0)) then E_CORE_OPERAND
              else s.sideCode c.agent true dst m.dst
    | .vat => if vatWidth md = 0 then E_KRN_ENCODING
              else if !sideOk src tb m.src || decide (dst % vatWidth md ≠ 0) then E_CORE_OPERAND
              else s.sideCode c.agent true dst [(0, len)]
    | .page => 0

/-- Whether outstanding transfers hold the accumulator memory that an XACC reads or writes (02 R41). -/
def CoreRegs.xaccHeld (c : CoreRegs) (k : XKind) (dst src len : Nat) : Bool :=
  match k with
  | .accTo => c.amHeld true [(dst, len)]
  | .accFrom => c.amHeld false [(src, len)]
  | _ => false

/-- A transfer starts: its length and addresses are checked, a length of zero completes at once (02 R57), and a core with 32
transfers outstanding waits. -/
def xferOp (b : Slot) (k : XKind) (dst src len tag md : BitVec 4) (s : State) : State :=
  slotOp b (fun pre now =>
    let n := (pre.sr len).toNat
    let d := (pre.sr dst).toNat
    let a := (pre.sr src).toNat
    if n % 64 ≠ 0 ∨ 393216 < n then .stop E_CORE_OPERAND
    else if n = 0 then .ok now
    else
      let c := s.xferCode pre k md d a n
      if c ≠ 0 then .stop c
      else if 32 ≤ now.xfers.length ∨ pre.xaccHeld k d a n then .stall
      else .ok { now with xfers := now.xfers ++ [⟨k, tag, d, a, n, md, 0, false, none⟩] }) s

/-- The logical neighbour of a core in a direction: 0 N, 1 E, 2 S, 3 W, in the 5 × 5 grid of its cluster (01 R21). -/
def neighbour (core : Nat) (dir : Nat) : Option Nat :=
  let q := core % 25
  match dir with
  | 0 => if q / 5 = 0 then none else some (core - 5)
  | 1 => if q % 5 = 4 then none else some (core + 1)
  | 2 => if q / 5 = 4 then none else some (core + 5)
  | _ => if q % 5 = 0 then none else some (core - 1)

/-- XNOP. -/
def execXnop (b : Slot) (s : State) : Host.Outcome State Fault Refusal := .next (slotOp b (fun _ now => .ok now) s)
/-- XCOPY: tile buffer to tile buffer. -/
def execXcopy (b : Slot) (dst src len tag : BitVec 4) (s : State) : Host.Outcome State Fault Refusal :=
  .next (xferOp b .copy dst src len tag 0 s)
/-- XSLD: staging buffer to tile buffer. -/
def execXsld (b : Slot) (dst src len tag mod : BitVec 4) (s : State) : Host.Outcome State Fault Refusal :=
  .next (xferOp b .sld dst src len tag mod s)
/-- XSST: tile buffer to staging buffer. -/
def execXsst (b : Slot) (dst src len tag mod : BitVec 4) (s : State) : Host.Outcome State Fault Refusal :=
  .next (xferOp b .sst dst src len tag mod s)
/-- XMLD: object address to tile buffer. -/
def execXmld (b : Slot) (dst src len tag mod : BitVec 4) (s : State) : Host.Outcome State Fault Refusal :=
  .next (xferOp b .mld dst src len tag mod s)
/-- XMST: tile buffer to object address. -/
def execXmst (b : Slot) (dst src len tag mod : BitVec 4) (s : State) : Host.Outcome State Fault Refusal :=
  .next (xferOp b .mst dst src len tag mod s)
/-- XVAT: vat operations on the object address from tile-buffer data (10 R259). -/
def execXvat (b : Slot) (dst src len tag code : BitVec 4) (s : State) : Host.Outcome State Fault Refusal :=
  .next (xferOp b .vat dst src len tag code s)
/-- XACC: exact copy between tile buffer and accumulator memory. -/
def execXacc (b : Slot) (dst src len tag : BitVec 4) (fromAcc : Bool) (s : State) : Host.Outcome State Fault Refusal :=
  .next (xferOp b (if fromAcc then .accFrom else .accTo) dst src len tag 0 s)

/-- XHALO: a halo to the neighbour in direction dir; a length of zero counts as a halo that moves nothing (02 R57, R58). -/
def execXhalo (b : Slot) (dst src len tag : BitVec 4) (dir : BitVec 2) (s : State) : Host.Outcome State Fault Refusal :=
  .next (slotOp b (fun pre now =>
    let n := (pre.sr len).toNat
    let d := (pre.sr dst).toNat
    let a := (pre.sr src).toNat
    if n % 64 ≠ 0 ∨ 393216 < n ∨ neighbour b.core dir.toNat = none then .stop E_CORE_OPERAND
    else
      let c := if n = 0 then 0 else s.xferCode pre .halo 0 d a n
      if c ≠ 0 then .stop c
      else if 32 ≤ now.xfers.length then .stall
      else .ok { now with xfers := now.xfers ++ [⟨.halo, tag, d, a, n, dir.zeroExtend 4, 0, false, none⟩] }) s)

/-- XHWAIT: waits until the arrival counter of dir is at least s[len], then subtracts it. -/
def execXhwait (b : Slot) (len : BitVec 4) (dir : BitVec 2) (s : State) : Host.Outcome State Fault Refusal :=
  .next (slotOp b (fun pre now =>
    let n := (pre.sr len).toNat
    if now.haloCount dir.toNat < n then .stall
    else .ok (now.setHalo dir.toNat (now.haloCount dir.toNat - n))) s)

/-- XFENCE: waits until no transfer of the tag, or of any tag, is outstanding. -/
def execXfence (b : Slot) (tag : BitVec 4) (all : Bool) (s : State) : Host.Outcome State Fault Refusal :=
  .next (slotOp b (fun _ now =>
    if now.xfers.any (fun x => decide (x.len ≠ 0) && (all || x.tag == tag)) then .stall else .ok now) s)

/-! Pages. -/

/-- Stored and landed bytes of a micro-block of a page format (05 R127). -/
def pageMicro : Nat → Nat × Nat
  | 0 => (2048, 2048)
  | 1 => (1024, 1088)
  | 2 => (1024, 1088)
  | 3 => (1088, 1088)
  | 4 => (1088, 1088)
  | _ => (576, 576)
/-- Micro-blocks of a part (05 R128). -/
def partBlocks (h dblk : Nat) : Nat := h * 8 * dblk

/-- The 32 bytes of a page descriptor (05 R142). -/
def PageDesc.bytes (d : PageDesc) : List Byte :=
  leBytes 8 (d.addr + 2 ^ 52 * d.fmt + 2 ^ 56 * d.headsM1 + 2 ^ 59 * d.dblkM1 + 2 ^ 62 * b2n d.isSealed + 2 ^ 63 * b2n d.anchor) ++
  leBytes 8 (d.pageId + 2 ^ 32 * d.slot) ++
  leBytes 8 (d.fill + 2 ^ 9 * d.twlog + 2 ^ 13 * d.vw + 2 ^ 22 * d.vh + 2 ^ 32 * d.seq + 2 ^ 44 * d.layer + 2 ^ 56 * d.group) ++
  leBytes 8 (d.landed + 2 ^ 32 * d.walkPos + 2 ^ 48 * d.walkLen)

/-- The parts a modifier asks: keys, values, or both (05 R141). -/
def pageParts (part : Nat) : List Nat := if part = 2 then [0, 1] else [part]

/-- XPAGE (05 R141): the next descriptor's page, or 0 in s[len] once the walk is exhausted. -/
def execXpage (b : Slot) (dst len tag : BitVec 4) (part : BitVec 2) (s : State) : Host.Outcome State Fault Refusal :=
  .next (slotOp b (fun pre now =>
    match now.pageQ with
    | [] => if now.walkLeft = [] then .ok (now.sw len 0) else .stall
    | d :: rest =>
      let n := 64 + (pageParts part.toNat).length * d.landed * 64
      let a := (pre.sr dst).toNat
      if part = 3 ∨ !tbOk a n then .stop E_CORE_OPERAND
      else if 32 ≤ now.xfers.length then .stall
      else .ok { (now.sw len (BitVec.ofNat 64 n)) with
                 pageQ := rest, xfers := now.xfers ++ [⟨.page, tag, a, 0, n, part.zeroExtend 4, 0, false, some d⟩] }) s)

/-- The scale line the transfer engine appends to a micro-block of an unscaled page (05 R127). -/
def scaleLine : List Byte := List.replicate 32 0x7F ++ List.replicate 32 0
/-- A stored part as it lands. -/
def landPart (fmt : Nat) : Nat → List Byte → List Byte
  | 0, _ => []
  | n + 1, bs =>
    let m := (pageMicro fmt).1
    bs.take m ++ (if fmt = 1 ∨ fmt = 2 then scaleLine else []) ++ landPart fmt n (bs.drop m)

/-! Completion. -/

/-- A transfer of the core at `p` leaves its list. -/
def CoreRegs.dropXfer (c : CoreRegs) (i : Nat) : CoreRegs := { c with xfers := c.xfers.eraseIdx i }
/-- A transfer in flight meets a code: the core stops with it once nothing is outstanding (10 R254); a code that stops it
already stays. -/
def CoreRegs.failWith (c : CoreRegs) (code : Code) : CoreRegs :=
  match c.stopping with
  | some x => if x = 0 then { c with stopping := some code } else c
  | none => { c with stopping := some code }

/-- The bytes of the ranges of a side in a store, by offset. -/
def gatherStore (m : Mem) (base : Nat) (rs : List (Nat × Nat)) : Mem :=
  rs.foldl (fun t r => Mem.wrBytes t r.1 (Mem.rdBytes m (base + r.1) r.2)) []
/-- A store with the ranges of a side written from bytes by offset. -/
def scatterStore (m : Mem) (base : Nat) (rs : List (Nat × Nat)) (t : Mem) : Mem :=
  rs.foldl (fun m r => Mem.wrBytes m (base + r.1) (Mem.rdBytes t r.1 r.2)) m

/-- The ranges of a side read at an object address, accepted at issue (11 R283). -/
def State.gatherObj (s : State) (ac : Access) (line base : Nat) : List (Nat × Nat) → Mem → State × Code × Mem
  | [], t => (s, 0, t)
  | r :: rs, t =>
    let q := (s.chargeBytesAt ac.unit line false (base + r.1) r.2).piecesRead ac (piecesOf (base + r.1) r.2)
    let z := q.1.gatherObj ac line base rs (Mem.wrBytes t r.1 q.2.2)
    (z.1, if q.2.1 ≠ 0 then q.2.1 else z.2.1, z.2.2)
/-- The ranges of a side written at an object address. -/
def State.scatterObj (s : State) (ac : Access) (line base : Nat) (t : Mem) : List (Nat × Nat) → State × Code
  | [] => (s, 0)
  | r :: rs =>
    let q := (s.chargeBytesAt ac.unit line true (base + r.1) r.2).piecesWrite ac (piecesOf (base + r.1) r.2) (Mem.rdBytes t r.1 r.2)
    let z := q.1.scatterObj ac line base t rs
    (z.1, if q.2 ≠ 0 then q.2 else z.2)

/-- The ledger line of a core: its run's context, or unattributed. -/
def CoreRegs.line (c : CoreRegs) : Nat := match c.run with | some r => r.ctx | none => 1024

/-- Where the page cache of a cluster holds a page for the step of a run (05 R143). -/
def State.cachedAt (s : State) (cl : Nat) (run : Option Run) (addr : Nat) : Option Nat :=
  run.bind (fun r => ((s.clu cl).cache.find? (fun e =>
    decide (e.ctx = r.ctx) && decide (e.step = r.step) && decide (e.addr = addr))).map (·.off))
/-- `n` bytes of a page from offset `k`: from the page cache of the cluster where it is staged, else through the cluster router. -/
def State.pagePart (s : State) (ac : Access) (line cl : Nat) (run : Option Run) (addr k n : Nat) : State × Code × List Byte :=
  match s.cachedAt cl run addr with
  | some off => match (s.clu cl).touch [(off + k, n)] [] with
    | none => (s, E_MEM_UNCORR, [])
    | some c => (s.setClu cl c, 0, Mem.rdBytes c.staging (off + k) n)
  | none => (s.chargeBytesAt ac.unit line false (addr + k) n).piecesRead ac (piecesOf (addr + k) n)

/-- The page of a descriptor landed (05 R127, R128, R141, R143): the bytes, and the code that stopped the read. -/
def State.landPage (s : State) (ac : Access) (line cl : Nat) (run : Option Run) (d : PageDesc) (part : Nat) : State × Code × List Byte :=
  let nb := partBlocks (d.headsM1 + 1) (d.dblkM1 + 1)
  let stored := nb * (pageMicro d.fmt).1
  let r := (pageParts part).foldl (fun (q : State × Code × List Byte) k =>
    let x := q.1.pagePart ac line cl run d.addr (k * stored) stored
    (x.1, if q.2.1 ≠ 0 then q.2.1 else x.2.1, q.2.2 ++ landPart d.fmt nb x.2.2)) (s, 0, [])
  (r.1, r.2.1, d.bytes ++ List.replicate 32 0 ++ r.2.2)

/-- The ranges of a side from its base address. -/
def basedAt (base : Nat) (rs : List (Nat × Nat)) : List (Nat × Nat) := rs.map (fun r => (base + r.1, r.2))

/-- The codewords that transfer `x` of the core at `p` reads and writes in the core's stores and its staging buffer: E_CORE_ECC where the
core reads an uncorrectable word of its own (02 R37), E_MEM_UNCORR where it reads one of the staging buffer (10 R254). -/
def State.xferWords (s : State) (p : Nat) (x : Xfer) (m : MoveMap) : State × Code :=
  let src := basedAt x.src m.src
  let dst := basedAt x.dst m.dst
  let own (tr tw ar aw : List (Nat × Nat)) (s : State) : State × Code :=
    if ((s.core p).now.guarded tr tw ar aw none some).isNone then (s, E_CORE_ECC)
    else (s.modCore p (fun c => c.guarded tr tw ar aw c (fun d => d)), 0)
  match x.kind with
  | .copy => own src dst [] [] s
  | .sld => match (s.clu (p / 26)).touch src [] with
    | none => (s, E_MEM_UNCORR)
    | some c => own [] dst [] [] (s.setClu (p / 26) c)
  | .sst =>
    let r := own src [] [] [] s
    if r.2 ≠ 0 then r else (r.1.modClu (p / 26) (fun c => (c.touch [] dst).getD c), 0)
  | .accTo => own src [] [] dst s
  | .accFrom => own [] dst src [] s
  | .mld | .page => own [] dst [] [] s
  | .mst | .halo | .vat => own src [] [] [] s

/-- What moves of transfer `x` once its codewords are read: the state, and the code that fails it. A halo leaves its arrival to be counted
at the receiver `q`. -/
def State.xferMove (s : State) (p : Nat) (x : Xfer) (q : Option Nat) : State × Code :=
  let c := (s.core p).now
  let tbTo (t : Mem) (m : MoveMap) (s : State) : State := s.modCore p (fun r => { r with tb := scatterStore r.tb x.dst m.dst t })
  let tbFrom (m : MoveMap) : Mem := m.apply (gatherStore c.tb x.src m.src)
  match x.kind, c.mapOf x.kind x.mod x.len with
  | .page, _ => match x.page with
    | none => (s, 0)
    | some d =>
      let r := s.landPage (c.access p) c.line (p / 26) c.run d x.mod.toNat
      if r.2.1 ≠ 0 then (r.1, r.2.1)
      else (r.1.modCore p (fun g => { g with tb := Mem.wrBytes g.tb x.dst r.2.2 }), 0)
  | _, none => (s, 0)
  | .copy, some m => (tbTo (tbFrom m) m s, 0)
  | .sld, some m => (tbTo (m.apply (gatherStore (s.clu (p / 26)).staging x.src m.src)) m s, 0)
  | .sst, some m => (s.modClu (p / 26) (fun cl => { cl with staging := scatterStore cl.staging x.dst m.dst (tbFrom m) }), 0)
  | .accTo, some m => (s.modCore p (fun r => { r with am := scatterStore r.am x.dst m.dst (tbFrom m) }), 0)
  | .accFrom, some m => (tbTo (m.apply (gatherStore c.am x.src m.src)) m s, 0)
  | .mld, some m =>
    let r := s.gatherObj (c.access p) c.line x.src m.src []
    if r.2.1 ≠ 0 then (r.1, r.2.1) else (tbTo (m.apply r.2.2) m r.1, 0)
  | .mst, some m => s.scatterObj (c.access p) c.line x.dst (tbFrom m) m.dst
  | .halo, some m => match q with
    | none => (s, 0)
    | some q =>
      let d := (x.mod.toNat + 2) % 4
      (s.modCore q (fun r => let r := r.guarded [] (basedAt x.dst m.dst) [] [] r (fun d => d)
        { r with
        tb := if x.len = 0 then r.tb else scatterStore r.tb x.dst m.dst (tbFrom m)
        haloHeld := AMap.insert r.haloHeld d (AMap.getD r.haloHeld 0 d + 1) }), 0)
  | .vat, some _ => (s, if x.bad then E_MEM_UNCORR else 0)

/-- The effect of transfer `x` of the core at physical index `p`, whole: the state, and the code that fails it. -/
def State.xferEffect (s : State) (p : Nat) (x : Xfer) (q : Option Nat) : State × Code :=
  match (s.core p).now.mapOf x.kind x.mod x.len with
  | none => (s, 0)
  | some m =>
    let r := s.xferWords p x m
    if r.2 ≠ 0 then r else r.1.xferMove p x q

/-- Whether a transfer crosses the mesh (02 R58). -/
def XKind.onMesh : XKind → Bool
  | .mld | .mst | .page | .vat => true
  | _ => false
/-- The words that mesh links and bridges corrected in the lines of a transfer, and what its line that stayed uncorrectable on the fourth
receipt makes of it (10 R253, R254): a record and E_MEM_UNCORR. -/
def State.linkWords (s : State) (p : Nat) (x : Xfer) (fixed bad : Nat) : State × Code :=
  if !x.kind.onMesh then (s, 0)
  else
    let s1 := { s with mem := { s.mem with ceTotal := s.mem.ceTotal + BitVec.ofNat 64 fixed } }
    if bad < 4 then (s1, 0)
    else
      let s2 := { s1 with mem := { s1.mem with ueTotal := s1.mem.ueTotal + 1 } }
      (s2.raise { FRec.mk0 E_MEM_UNCORR 1 (ident 1 (p / 26)) with ctx := ((s.core p).now.access p).ctx }, E_MEM_UNCORR)

/-- Lines of a vat transfer: the object range cut at 64-byte lines. -/
def vatLines (x : Xfer) : Nat := (x.dst % 64 + x.len + 63) / 64

/-- Whether the transfer at place `i` may complete now: halos of one direction in the order they were posted, and only while
the receiver's counter has room (04 R117); a vat transfer once all its lines were applied or skipped (10 R254). -/
def State.xferReady (s : State) (c : CoreRegs) (i : Nat) (x : Xfer) (q : Option Nat) : Bool :=
  match x.kind with
  | .halo =>
    !((c.xfers.take i).any (fun y => y.kind == .halo && y.mod == x.mod)) &&
    (match q with
     | none => true
     | some q => let r := (s.core q).now; let d := (x.mod.toNat + 2) % 4
                 decide (r.haloCount d + AMap.getD r.haloHeld 0 d < 65535))
  | .vat => decide (x.lines = vatLines x)
  | _ => true

/-- TRANSFER_COMPLETE: transfer `idx` of the core's outstanding list moves its bytes and completes its tag (02 R57). `fixed` words of it
were corrected on the way, and one line arrived uncorrectable `bad` times in a row: up to 3 times it is sent again (10 R253). -/
def execTransferComplete (core : Nat) (e : XferEnd) (s : State) : Host.Outcome State Fault Refusal :=
  .next <| match s.physOf core with
  | none => s
  | some p =>
    let c := (s.core p).now
    match c.xfers[e.idx]? with
    | none => s
    | some x =>
      let q := match x.kind with
        | .halo => match neighbour core x.mod.toNat with | some k => s.physOf k | none => none
        | _ => none
      if !s.xferReady c e.idx x q then s
      else
        let l := s.linkWords p x e.fixed e.bad
        let r := if l.2 ≠ 0 then l else l.1.xferEffect p x q
        r.1.modCore p (fun g => let h := g.dropXfer e.idx; if r.2 ≠ 0 then h.failWith r.2 else h)

/-- HALO_ARRIVAL: a halo that is fully written is counted (04 R117). -/
def execHaloArrival (core : Nat) (dir : BitVec 2) (s : State) : Host.Outcome State Fault Refusal :=
  .next <| match s.physOf core with
  | none => s
  | some p =>
    let c := (s.core p).now
    let d := dir.toNat
    let n := AMap.getD c.haloHeld 0 d
    if n = 0 ∨ 65535 ≤ c.haloCount d then s
    else s.modCore p (fun g => { g.setHalo d (g.haloCount d + 1) with haloHeld := AMap.setD g.haloHeld 0 d (n - 1) })

/-- VAT_LINE_APPLY: the next line of vat transfer `idx` of the core is applied by its channel's controller, after every line
that an earlier vat transfer of the core still has to apply there (10 R259, R261); a line with an uncorrectable word is
skipped (10 R254). -/
def execVatLineApply (core idx : Nat) (s : State) : Host.Outcome State Fault Refusal :=
  .next <| match s.physOf core with
  | none => s
  | some p =>
    let c := (s.core p).now
    match c.xfers[idx]? with
    | none => s
    | some x =>
      let line := x.dst / 64 + x.lines
      let waits := (c.xfers.take idx).any (fun y =>
        y.kind == .vat && decide (y.dst / 64 + y.lines ≤ line) && decide (line < y.dst / 64 + vatLines y))
      if x.kind ≠ .vat ∨ vatLines x ≤ x.lines ∨ waits then s
      else
        let a := max x.dst (64 * line)
        let n := min (x.dst + x.len) (64 * line + 64) - a
        let data := Mem.rdBytes c.tb (x.src + (a - x.dst)) n
        match s.freshAddr a with
        | none => s
        | some y =>
          let r := (s.chargeBytesAt (ident 1 (p / 26)) c.line true a n).vatApply (c.access p) x.mod y data
          r.1.modCore p (fun g => { g with
            xfers := g.xfers.modify idx (fun z => { z with lines := z.lines + 1, bad := z.bad || decide (r.2.1 ≠ 0) }) })

/-- What the last access of a unit was answered (10 R254, R259; 11 R278, R279). -/
def State.answerUnit (s : State) (unit : Nat) (code : Code) (data : List Byte) : State :=
  { s with answers := AMap.insert s.answers unit (code, data) }

/-- VAT_ELEMENT_OP: a coach (of a context's step) or the umpire (context 0xFFFF) applies a vat operation to one element; the answer
carries the element's value from before, or the code that refuses it (10 R254, R259). -/
def execVatElementOp (ctx addr : Nat) (code : BitVec 4) (x : W64) (s : State) : Host.Outcome State Fault Refusal :=
  .next <|
    let w := vatWidth code
    if w < 4 ∨ addr % w ≠ 0 then s
    else
      let ac : Access := ⟨if ctx = 0xFFFF then .umpire else .coach ctx, 1, ctx, ident 2 1024⟩
      let r := s.objVat ac code addr (leBytes w x.toNat)
      let s1 := if r.2.1 = 0 then (r.1.chargeBytes 1024 false addr w).chargeBytes 1024 true addr w else r.1
      s1.answerUnit (if ctx = 0xFFFF then 131072 else 65536 + ctx) r.2.1 (if r.2.1 = 0 then r.2.2 else [])

end Sys2Proof.Machine
end

