-- ==== Sys2Proof/Machine/CoreControl.lean ====
section
/-! DEFINITION. Start, halt and stop of a core (02 R60, R61), and its stall on a halo (R58). -/
namespace Sys2Proof.Machine

/-- The registers a run starts with: s1 to s15, v0 to v63, the loop counts and the whey sums are undefined (free values), every
loop counter is inactive and no whey tile base is recorded (02 R61). The tag state, undefined too, is left as it is: DESIGN CHOICE, log
entry 2: a core that starts has nothing outstanding, so SRD source 10 reads 0. -/
def CoreRegs.started (c : CoreRegs) (fv : Nat → Nat) (pc : Nat) : CoreRegs :=
  { c with
    st := .running, pc := pc, fault := 0, nextPc := pc, stopping := none, late := false, runReq := false, wheyBase := none
    sregs := (List.range 15).map (fun i => (i + 1, BitVec.ofNat 64 (fv (i + 1))))
    vregs := (List.range 64).map (fun i => (i, BitVec.ofNat 4096 (fv (100 + i))))
    loops := (List.range 8).map (fun i => (i, ⟨false, fv (200 + i), 0, 0⟩))
    whey := (List.range 1024).map (fun i => (i, BitVec.ofNat 32 (fv (1000 + i)))) }

/-- The core at `p` starts at bundle `pc`, and CORE_CTRL.run is clear again; a core that runs is left as it is. -/
def State.startCore (s : State) (p pc : Nat) : State :=
  let c := (s.core p).now
  if c.st = .running then s
  else
    let t := c.started (fun i => s.fv i) pc
    (s.setCore p ⟨t, t⟩).drawn

/-- A run request that CORE_CTRL holds starts the core, at start_pc, where it does not run (02 CORE_CTRL; 00 R9). -/
def State.startHeld (s : State) (p : Nat) : State :=
  let c := (s.core p).now
  if c.runReq then s.startCore p c.startPc.toNat else s

/-- CORE_CTRL written: start_pc; run and halt are set where their bits are 1 (02, CORE_CTRL; 00 R8). A core that runs holds the run
request until it has stopped (log entry 75). -/
def State.writeCtrl (s : State) (p : Nat) (v : W32) : State :=
  (s.modCore p (fun c => { c with startPc := v.setWidth 11, runReq := c.runReq || v.getLsbD 16, halt := c.halt || v.getLsbD 17 })).startHeld p

/-- CORE_RUN: a write of CORE_CTRL with run set. -/
def execCoreRun (core : Nat) (v : W32) (s : State) : Host.Outcome State Fault Refusal :=
  .next <| match s.physOf core with
  | none => s
  | some p => s.writeCtrl p (v ||| 0x10000)

/-- CORE_HALT: a write of CORE_CTRL with halt set. -/
def execCoreHalt (core : Nat) (v : W32) (s : State) : Host.Outcome State Fault Refusal :=
  .next <| match s.physOf core with
  | none => s
  | some p => s.writeCtrl p (v ||| 0x20000)

/-- PC_END_STOP: bundle 2,047 has issued and nothing took the program counter elsewhere; the core issues no further bundle
and stops with E_CORE_OPERAND once its operations complete (02 R60). -/
def execPcEndStop (core : Nat) (s : State) : Host.Outcome State Fault Refusal :=
  .next <| match s.physOf core with
  | none => s
  | some p =>
    let c := (s.core p).now
    if c.st = .running ∧ c.stopping = none ∧ c.nextPc = 2048 then
      s.modCore p (fun c => { c with stopping := some E_CORE_OPERAND })
    else s

/-- Whether the core stalls on an XHWAIT of a direction: the transfer slot of the bundle it would issue next (02 R58). -/
def CoreRegs.awaits (c : CoreRegs) (dir : Nat) : Bool :=
  let x := bitsOf (Mem.rdLE c.istore (16 * c.nextPc) 16) 31 8
  decide (c.st = .running) && decide (c.stopping = none) && decide (bitsOf x 23 20 = 7) && decide (x % 4 = dir) &&
    decide (c.haloCount dir < (c.sr (BitVec.ofNat 4 (bitsOf x 11 8))).toNat)

end Sys2Proof.Machine
end

