-- ==== Sys2Proof/Machine/Sfu.lean ====
section
/-! DEFINITION. The special-function unit: node tables, fits and refine steps of the built-in functions, and culture tables
(06 R161 to R168). The tables are computed from their definitions by integer roots and series. -/
namespace Sys2Proof.Machine

/-- ⌊√n⌋ by Newton's method from above. -/
def isqrtFrom (n : Nat) : Nat → Nat → Nat
  | 0, x => x
  | k + 1, x =>
    let y := (x + n / x) / 2
    if y < x then isqrtFrom n k y else x
def isqrt (n : Nat) : Nat := if n = 0 then 0 else isqrtFrom n (n.log2 + 2) (2 ^ (n.log2 / 2 + 1))

/-- n/d to the nearest integer, ties to even. -/
def roundDiv (n d : Nat) : Nat :=
  let q := n / d
  let r := n % d
  if d < 2 * r ∨ (2 * r = d ∧ q % 2 = 1) then q + 1 else q

/-- ⌊ln 2 × 2^160⌋ to within 2^-150, from ln 2 = Σ 2 / ((2k + 1) 3^(2k + 1)). -/
def ln2Big : Nat := (List.range 52).foldl (fun acc k => acc + 2 ^ 161 / ((2 * k + 1) * 3 ^ (2 * k + 1))) 0
/-- log2 e held to 64 bits, as a multiple of 2^-63 (R161). -/
def log2eN : Nat := roundDiv (2 ^ 223) ln2Big
/-- ln 2 held to 48 bits, as a multiple of 2^-48 (R165). -/
def ln2N48 : Nat := roundDiv ln2Big (2 ^ 112)
/-- ⌊2^(i/32) × 2^64⌋: the 32nd root as five square roots. -/
def pow2N64 (i : Nat) : Nat := isqrt (isqrt (isqrt (isqrt (isqrt (2 ^ (i + 2048))))))

/-- RN of a positive rational times 2^e, as an exact value. -/
def rnRat (num den : Nat) (e : Int) : Dy := (f32 (BitVec.ofNat 32 (roundQ .fp32 .nearest false num den e))).dy
/-- RN of an exact value, as an exact value. -/
def rnDy (d : Dy) : Dy := (f32 (rnq32 (.ofDy false d))).dy

/-- y_i of exp: RN(2^(i/32)). -/
def expY (i : Nat) : Dy :=
  if i = 0 then ⟨1, 0⟩ else if i = 32 then ⟨2, 0⟩ else rnRat (2 * pow2N64 i + 1) 1 (-65)
/-- n_i of the refine of exp: 2^(i/32) held to 32 bits (R165). -/
def expN (i : Nat) : Dy := if i = 0 then ⟨1, 0⟩ else ⟨roundDiv (2 * pow2N64 i + 1) (2 ^ 34), -31⟩
/-- m_i of log: RN48(2^(i/32)), as a multiple of 2^-48 (R161). -/
def logM (i : Nat) : Nat := if i = 32 then 2 ^ 49 else if i = 0 then 2 ^ 48 else roundDiv (2 * pow2N64 i + 1) (2 ^ 17)
/-- L = RN(ln 2) (R161). -/
def bigL : Dy := (f32 0x3F317218#32).dy
/-- c = RU(2^(−1/2)) (R161). -/
def bigC : Dy := (f32 0x3F3504F4#32).dy
/-- y_i of log: RN(i ln 2 / 32 + 40 × 10^-6) (R161). -/
def logY (i : Nat) : Dy :=
  if i = 0 then ⟨0, 0⟩ else if i = 32 then bigL
  else rnRat (i * ln2Big * 100000 + 128 * 2 ^ 160) 3200000 (-160)
/-- 1 / m_i held to 32 bits (R165). -/
def logInv (i : Nat) : Dy := if i = 0 then ⟨1, 0⟩ else ⟨roundDiv (2 ^ 80) (logM i), -32⟩
/-- y_i of the reciprocal: RN(1 / m_i). -/
def rcpY (i : Nat) : Dy := rnRat 32 (32 + i) 0
/-- y_i of the reciprocal square root: RN(m_i^(−1/2)), y_32 = c. -/
def rsqY (i : Nat) : Dy :=
  if i = 0 then ⟨1, 0⟩ else if i = 32 then bigC else rnRat (2 * isqrt (2 ^ 133 / (32 + i)) + 1) 1 (-65)

/-- y_i + (y_(i+1) − y_i) × φ with φ a multiple of 2^-24, exactly. -/
def fitAt (y0 y1 : Dy) (phi : Int) : Dy := y0.add ((y1.sub y0).mul ⟨phi, -24⟩)
/-- (a − p) / (q − p) truncated to 24 fractional bits, for p ≤ a < q (R161). -/
def phiOf (a p q : Dy) : Int :=
  let x := a.sub p
  let y := q.sub p
  let k := min x.e y.e
  ((x.n * 2 ^ (x.e - k).toNat) * 2 ^ 24) / (y.n * 2 ^ (y.e - k).toNat)

/-- A positive finite value as 2^e × m with m in [1, 2): e and m. -/
def split (d : Dy) : Int × Dy := (d.log2, ⟨d.n, d.e - d.log2⟩)
/-- A value times 2^k. -/
def Dy.scale (d : Dy) (k : Int) : Dy := ⟨d.n, d.e + k⟩

/-- The four built-in functions. -/
inductive Fn | exp | log | rcp | rsq
deriving DecidableEq, Repr

/-- The results of special inputs (R163); none where R161 applies. A NaN result has a free payload (log entry 3). -/
def fnSpecial (fn : Fn) (x : W32) : Option W32 :=
  let nan := some (rn32 (seedOf 11 x.toNat 0 0) .nan)
  let inf := fun s => some (rn32 0 (.inf s))
  let zero := fun s => some (rn32 0 (.fin s 0 0))
  match fn, f32 x with
  | _, .nan => nan
  | .exp, .inf s => if s then zero false else inf false
  | .exp, .fin s m e =>
    let d := (FV.fin s m e).dy
    if m = 0 then some 0x3F800000
    else if (Dy.lt ⟨88722839, 0⟩ (d.mul ⟨1000000, 0⟩)) then inf false
    else if (d.lt ⟨-(149 * ln2Big : Nat), -160⟩) then zero false
    else none
  | .log, .inf s => if s then nan else inf false
  | .log, .fin s m _ => if m = 0 then inf true else if s then nan else none
  | .rcp, .inf s => zero s
  | .rcp, .fin s m e => if Dy.lt ⟨m, e⟩ ⟨1, -128⟩ then inf s else none
  | .rsq, .inf s => if s then nan else zero false
  | .rsq, .fin s m _ => if m = 0 then inf s else if s then nan else none

/-- The exact reduction of exp: k and t as a multiple of 2^-48 (R161). -/
def expReduce (d : Dy) : Int × Nat :=
  let u := (d.mul ⟨log2eN, -63⟩).floorAt (-48)
  (u.fdiv (2 ^ 48), (u.fmod (2 ^ 48)).toNat)

/-- The segment of log's argument m in [1, 2): the largest i with m_i ≤ m. -/
def logSeg (m : Dy) : Nat :=
  (List.range 32).foldl (fun b i => if Dy.le ⟨logM i, -48⟩ m then i else b) 0

/-- The exact unrefined result (R161), for an input without a special result. -/
def fnFit (fn : Fn) (x : W32) : Dy :=
  let d := (f32 x).dy
  match fn with
  | .exp =>
    let kt := expReduce d
    let i := kt.2 / 2 ^ 43
    let phi : Nat := (kt.2 % 2 ^ 43) / 2 ^ 19
    (fitAt (expY i) (expY (i + 1)) phi).scale kt.1
  | .log =>
    let em := split d
    let i := logSeg em.2
    let f := fitAt (logY i) (logY (i + 1)) (phiOf em.2 ⟨logM i, -48⟩ ⟨logM (i + 1), -48⟩)
    ((Dy.ofInt em.1).mul bigL).add f
  | .rcp =>
    let em := split ⟨d.n.natAbs, d.e⟩
    let i := ((em.2.sub ⟨1, 0⟩).floorAt (-5)).toNat
    let f := fitAt (rcpY i) (rcpY (i + 1)) (phiOf em.2 ⟨32 + i, -5⟩ ⟨33 + i, -5⟩)
    let r := f.scale (-em.1)
    if d.n < 0 then r.neg else r
  | .rsq =>
    let em := split d
    let i := ((em.2.sub ⟨1, 0⟩).floorAt (-5)).toNat
    let f := fitAt (rsqY i) (rsqY (i + 1)) (phiOf em.2 ⟨32 + i, -5⟩ ⟨33 + i, -5⟩)
    let j := em.1.fdiv 2
    if em.1 % 2 = 0 then f.scale (-j) else (f.mul bigC).scale (-j)

/-- The refine step (R165) from the unrefined result y0 (finite and not zero). -/
def fnRefine (fn : Fn) (x y0 : W32) : W32 :=
  let d := (f32 x).dy
  let y := (f32 y0).dy
  let one : Dy := ⟨1, 0⟩
  match fn with
  | .rcp =>
    let e := rnDy (one.sub (d.mul y))
    rnq32 (.ofDy false (y.add (rnDy (y.mul e))))
  | .rsq =>
    let e := rnDy (one.sub ((d.mul y).mul y))
    rnq32 (.ofDy false (y.add (rnDy ((y.scale (-1)).mul e))))
  | .exp =>
    let kt := expReduce d
    let i := kt.2 / 2 ^ 43
    let w := rnDy ((Dy.mk (kt.2 % 2 ^ 43 : Nat) (-48)).mul ⟨ln2N48, -48⟩)
    let q1 := rnDy ((w.mul (rnRat 1 6 0)).add ⟨1, -1⟩)
    let q2 := rnDy ((w.mul q1).add one)
    let p := rnDy ((w.mul q2).add one)
    rnq32 (.ofDy false (((expN i).mul p).scale kt.1))
  | .log =>
    let em := split d
    let i := logSeg em.2
    let w := rnDy ((em.2.sub ⟨logM i, -48⟩).mul (logInv i))
    let q1 := rnDy ((w.mul (rnRat 1 3 0)).sub ⟨1, -1⟩)
    let q2 := rnDy ((w.mul q1).add one)
    let r := rnDy (w.mul q2)
    let ln2 : Dy := ⟨ln2N48, -48⟩
    rnq32 (.ofDy false ((((Dy.ofInt em.1).mul ln2).add (((Dy.ofInt i).mul ln2).scale (-5))).add r))

/-- A built-in function of an FP32 code (R161 to R165). -/
def builtin (fn : Fn) (refine : Bool) (x : W32) : W32 :=
  match fnSpecial fn x with
  | some r => r
  | none =>
    let y0 := rnq32 (.ofDy false (fnFit fn x))
    let v := f32 y0
    if refine && v.isFin && !v.isZero then fnRefine fn x y0 else y0

/-- With type BF16 an element is widened, evaluated, and rounded (R166). -/
def viaFp32 (ty : VTy) (g : W32 → W32) (x : Nat) : Nat :=
  match ty with
  | .bf16 =>
    let r := g (BitVec.ofNat 32 (x * 65536))
    (f32 r).toBits .bf16 .nearest (freeNan .bf16 (seedOf 12 r.toNat 0 0))
  | _ => (g (BitVec.ofNat 32 x)).toNat

/-! Culture tables (R167, R168). -/

/-- Node i of a table, as an exact value. -/
def CTable.node (t : CTable) (i : Nat) : Dy := (f32 (t.nodes.getD i 0)).dy

/-- The fit at a position a given as num/den segments (den > 0), exact, with φ held to 24 fractional bits. -/
def CTable.fit (t : CTable) (num den : Int) : Dy :=
  let i := (num.fdiv den).toNat
  let phi := (num.fmod den) * 2 ^ 24 / den
  fitAt (t.node i) (t.node (i + 1)) phi

/-- Two exact values as integers over one power of two. -/
def Dy.common (a b : Dy) : Int × Int :=
  let k := min a.e b.e
  (a.n * 2 ^ (a.e - k).toNat, b.n * 2 ^ (b.e - k).toNat)

/-- A table applied to a value that is not NaN: an exact result, or NaN (R168). -/
def CTable.apply (t : CTable) (x : FV) : FV :=
  match t.mode with
  | 0 =>
    let out := fun (y : Dy) => if bitOf t.flags 2 then FV.nan else FV.ofDy false y
    match x with
    | .nan => .nan
    | .inf s => out (if s then t.node 0 else t.node t.segs)
    | v =>
      let off := v.dy.sub (f32 t.x0).dy
      if off.n < 0 then out (t.node 0)
      else if Dy.lt ⟨t.segs, t.hexp⟩ off then out (t.node t.segs)
      else
        let nd := off.common ⟨1, t.hexp⟩
        .ofDy false (if nd.1 = t.segs * nd.2 then t.node t.segs else t.fit nd.1 nd.2)
  | 1 =>
    match x with
    | .fin s m e =>
      if m = 0 ∨ s then .nan else
      let d : Dy := ⟨m, e⟩
      let ex := if t.q2 % 2 = 0 then d.log2 else d.log2 - d.log2 % 2
      let mm := (d.scale (-ex)).sub ⟨1, 0⟩
      let nd := (mm.mul ⟨t.segs, 0⟩).common ⟨if t.q2 % 2 = 0 then 1 else 3, 0⟩
      .ofDy false (((t.fit nd.1 nd.2).scale (t.q2 * ex / 2)).add ((f32 t.c).dy.mul (.ofInt ex)))
    | _ => .nan
  | _ =>
    match x with
    | .fin _ _ _ =>
      let p := (f32 t.c).dy
      let nd := x.dy.common p
      let k := x.dy.sub (p.mul (.ofInt (nd.1.fdiv nd.2)))
      let r : Dy := ⟨k.floorAt (-48), -48⟩
      let q := (r.mul ⟨t.segs, 0⟩).common p
      .ofDy false (t.fit q.1 q.2)
    | _ => .nan

/-- VTAB of one FP32 code (R168): symmetry, table, one rounding. -/
def CTable.eval (t : CTable) (x : W32) : W32 :=
  let v := f32 x
  let sym := bitsOf t.flags 4 3
  if v.isNan then rn32 (seedOf 13 x.toNat 0 0) .nan
  else
    let neg := match v with
      | .fin s m _ => s && m != 0
      | .inf s => s
      | .nan => false
    let r := t.apply (if sym = 0 then v else v.abs)
    rn32 (seedOf 13 x.toNat 0 0) (if sym = 2 && neg then r.neg else r)

end Sys2Proof.Machine
end

