-- ==== Sys2Proof/Machine/Umpire.lean ====
section
/-! DEFINITION. Mailboxes, the intake, sessions (16 R415 to R426, R439 to R441), and the service of one request. -/
namespace Sys2Proof.Machine

/-! The opcode catalogue (16 R425). -/

/-- Who may send: any, application and management, management, debug, management and debug. -/
inductive Senders | any | appMgmt | mgmt | debug | mgmtDebug
deriving DecidableEq, Repr

def catalogue0 : List (Nat × Senders × Nat) :=
  [(0x0001, .any, 8), (0x0002, .any, 0), (0x0003, .any, 0), (0x0004, .any, 8), (0x0100, .mgmt, 16), (0x0101, .mgmt, 16),
   (0x0102, .mgmt, 8), (0x0103, .mgmt, 8), (0x0104, .any, 8), (0x0105, .mgmt, 24), (0x0200, .appMgmt, 24)]
def catalogue1 : List (Nat × Senders × Nat) :=
  [(0x0220, .appMgmt, 8), (0x0221, .appMgmt, 8), (0x0250, .mgmt, 24), (0x0251, .appMgmt, 8), (0x0300, .appMgmt, 16),
   (0x0301, .appMgmt, 8), (0x0302, .appMgmt, 8), (0x0303, .appMgmt, 8), (0x0304, .appMgmt, 16), (0x0305, .appMgmt, 8)]
def catalogue2 : List (Nat × Senders × Nat) :=
  [(0x0306, .mgmt, 8), (0x0307, .appMgmt, 8), (0x0400, .appMgmt, 40), (0x0401, .appMgmt, 8), (0x0402, .appMgmt, 16),
   (0x0403, .appMgmt, 8), (0x0500, .appMgmt, 8), (0x0501, .appMgmt, 24), (0x0502, .appMgmt, 8), (0x0560, .appMgmt, 16)]
def catalogue3 : List (Nat × Senders × Nat) :=
  [(0x0561, .appMgmt, 8), (0x0562, .appMgmt, 8), (0x0563, .appMgmt, 24), (0x0564, .appMgmt, 8), (0x0600, .appMgmt, 16),
   (0x0601, .appMgmt, 8), (0x0602, .appMgmt, 16), (0x0603, .appMgmt, 8), (0x0604, .mgmt, 16), (0x0605, .appMgmt, 8)]
def catalogue4 : List (Nat × Senders × Nat) :=
  [(0x0640, .appMgmt, 8), (0x0660, .any, 8), (0x0661, .mgmt, 8), (0x0700, .appMgmt, 8), (0x0701, .appMgmt, 24),
   (0x0702, .appMgmt, 32), (0x0703, .appMgmt, 16), (0x0800, .appMgmt, 64), (0x0801, .appMgmt, 32), (0x0802, .appMgmt, 32)]
def catalogue5 : List (Nat × Senders × Nat) :=
  [(0x0804, .appMgmt, 16), (0x0805, .appMgmt, 8), (0x0900, .any, 8), (0x0901, .mgmt, 8), (0x0902, .mgmt, 8),
   (0x0904, .mgmt, 8), (0x0A00, .appMgmt, 8), (0x0A01, .mgmt, 8), (0x0A02, .any, 8), (0x0B00, .any, 56)]
def catalogue6 : List (Nat × Senders × Nat) :=
  [(0x0B01, .any, 24), (0x0B02, .debug, 8), (0x0B03, .debug, 16), (0x0B20, .mgmt, 16), (0x0C00, .appMgmt, 32),
   (0x0C01, .appMgmt, 8), (0x0C02, .appMgmt, 8), (0x0C03, .appMgmt, 8), (0x0D00, .any, 16), (0x0D01, .any, 32),
   (0x0D03, .mgmtDebug, 8), (0x0D04, .mgmtDebug, 8), (0x0D05, .debug, 16)]
/-- The requests: opcode, senders, and the bytes of the payload table (R421 check 8). -/
def catalogue : List (Nat × Senders × Nat) :=
  catalogue0 ++ catalogue1 ++ catalogue2 ++ catalogue3 ++ catalogue4 ++ catalogue5 ++ catalogue6

/-- What a debug mailbox may send while the debug port is locked (R426). -/
def lockedOps : List Nat := [0x0001, 0x0002, 0x0003, 0x0004, 0x0660, 0x0A02, 0x0B02, 0x0B03]

def Senders.permits (k : Senders) (m : Nat) : Bool :=
  match k with
  | .any => true
  | .appMgmt => isApp m || isMgmt m
  | .mgmt => isMgmt m
  | .debug => isDebug m
  | .mgmtDebug => isMgmt m || isDebug m

/-- The code of check 6: the owning chapter's own code where it gives one. -/
def permCode (op : Nat) : Code :=
  match op with
  | 0x0250 => E_TAB_PERM
  | 0x0604 => E_TIER_PERM
  | 0x0661 => E_MAP_PERM
  | _ => E_UMP_PERM

/-- Whether a request of mailbox `m` and context `c` is LC (R429). -/
def State.requestLc (s : State) (m c : Nat) : Bool :=
  isMgmt m ||
  ((match AMap.find? s.cfg.mbxs m with | some r => r.lc | none => false) &&
   (match s.ctxRec c with | some r => r.lc | none => false))

/-- Whether a header's context may stand on a mailbox (R419, R429): 0xFFFF names the module, from management and debug
mailboxes only. -/
def State.contextOk (s : State) (m c : Nat) : Bool :=
  if c = 0xFFFF then isMgmt m || isDebug m
  else if isMgmt m then decide (c < 1024)
  else decide (c < 1024) && s.permits m c

/-- Whether the mailboxes are served: from SERVE on (19 R483). -/
def State.serving (s : State) : Bool := s.sec.ready

/-! Intake. -/

/-- The session closes: its undelivered events are discarded (R424). -/
def Mbx.close (b : Mbx) : Mbx := { b with session := false, verMajor := 0, verMinor := 0, events := [] }

/-- A request answered at the ring, without an intake entry. -/
def State.refuseAtRing (s : State) (r : Req) (body : List Byte) : State :=
  (s.modMbx r.mbx (fun b => { b with due := b.due + 1 })).reply r body

/-- The checks 2 to 9 of R421 but the sequence number's update: 0, or the code. -/
def State.headerCode (s : State) (b : Mbx) (r : Req) (major minor : Byte) (flags : Nat) : Code :=
  if b.session = false ∧ r.op ≠ 1 then E_UMP_SESSION
  else if r.op ≠ 1 ∧ (major ≠ b.verMajor ∨ minor ≠ b.verMinor) then E_UMP_VERSION
  else if r.op ≠ 1 ∧ r.seq ≠ b.expect.toNat then E_UMP_SEQ
  else match catalogue.find? (fun e => e.1 == r.op) with
    | none => E_UMP_OPCODE
    | some (_, who, n) =>
      if flags % 4 ≠ 0 then E_UMP_OPCODE
      else if !who.permits r.mbx then permCode r.op
      else if isDebug r.mbx ∧ s.sec.unlocked = none ∧ ¬ lockedOps.contains r.op then E_UMP_PERM
      else if isDebug r.mbx ∧ r.op = 0x0D05 ∧ s.sec.unlocked ≠ some 2 then E_UMP_PERM
      else if !s.contextOk r.mbx r.ctx then E_UMP_CONTEXT
      else if r.body.length < n then E_UMP_LENGTH
      else if !r.lc ∧ (384 ≤ (s.ump.intake.filter (fun q => !q.lc)).length ∨ 512 ≤ s.ump.intake.length) then E_UMP_BUSY
      else 0

/-- Whether check 4 was reached: the request then consumes its number. -/
def reachedSeq (b : Mbx) (r : Req) (major minor : Byte) : Bool :=
  b.session && decide (r.op ≠ 1) && decide (major = b.verMajor) && decide (minor = b.verMinor)

/-- REQUEST_INTAKE: the umpire takes the next message of a request ring (R417, R421). Nothing is taken while a response is
held, while a MSG_HELLO or MSG_BYE of the mailbox waits, or while an LC request meets a full intake (R418, R424, R441). -/
def execRequestIntake (mbx : Nat) (s : State) : Host.Outcome State Fault Refusal :=
  .next <|
    let b := s.mbx mbx
    let avail := (b.reqTail - b.reqHead).toNat
    if 72 ≤ mbx ∨ !s.serving ∨ b.closed ∨ avail = 0 ∨ b.held ≠ [] ∨
       s.ump.intake.any (fun q => decide (q.mbx = mbx) && (decide (q.op = 1) || decide (q.op = 2))) then s
    else
      let pos := 64 * b.reqHead.toNat
      let h := ringRead b.win 0 pos 16
      let len := leAt h 6 2
      let n := slotsOf (16 + len)
      let op := leAt h 2 2
      let ctx := leAt h 4 2
      let r0 : Req := ⟨mbx, op, ctx, leAt h 8 4, s.requestLc mbx ctx, [], s.counter.toNat⟩
      if 1008 < len ∨ avail < n then
        ((s.modMbx mbx (fun b => { b with reqHead := b.reqTail })).refuseAtRing r0 (leBytes 2 E_UMP_LENGTH.toNat)).modMbx mbx
          Mbx.close
      else
        let r := { r0 with body := ringRead b.win 0 (pos + 16) len }
        if r.lc ∧ 512 ≤ s.ump.intake.length then s
        else
          let major := BitVec.ofNat 8 (leAt h 0 1)
          let minor := BitVec.ofNat 8 (leAt h 1 1)
          let code := s.headerCode b r major minor (leAt h 12 2)
          let s1 := s.modMbx mbx (fun b => { b with
            reqHead := b.reqHead + BitVec.ofNat 16 n
            expect := if reachedSeq b r major minor then BitVec.ofNat 32 (r.seq + 1) else b.expect })
          if code = 0 then
            let s2 := s1.modMbx mbx (fun b => { b with due := b.due + 1 })
            { s2 with ump := { s2.ump with intake := s2.ump.intake ++ [r] } }
          else if code = E_UMP_BUSY then
            let s2 := { s1 with ump := { s1.ump with busyCount := s1.ump.busyCount + 1 } }
            (s2.refuseAtRing r (leBytes 2 code.toNat ++ leBytes 2 0 ++ leBytes 4 (1 + s2.fv 0 % 1000))).drawn
          else s1.refuseAtRing r (leBytes 2 code.toNat)

/-- The request tail written; a tail that would put more than 256 slots between head and tail is ignored (R416). -/
def Mbx.setTail (b : Mbx) (t : BitVec 16) : Mbx := if (t - b.reqHead).toNat ≤ 256 then { b with reqTail := t } else b

/-- MBX_REQ_TAIL: the sender's slots, written from the request tail up, and the tail (R416). -/
def execMbxReqTail (mbx tail : Nat) (data : List Byte) (s : State) : Host.Outcome State Fault Refusal :=
  .next <|
    if 72 ≤ mbx then s else
    let b := s.mbx mbx
    let free := 256 - (b.reqTail - b.reqHead).toNat
    s.setMbx mbx (({ b with win := ringWrite b.win 0 (64 * b.reqTail.toNat) (data.take (64 * free)) } : Mbx).setTail
      (BitVec.ofNat 16 tail))

/-- The response head written; a head beyond the tail is ignored (R417). -/
def Mbx.setHead (b : Mbx) (h : BitVec 16) : Mbx :=
  if (h - b.rspHead).toNat ≤ (b.rspTail - b.rspHead).toNat then { b with rspHead := h } else b

/-- MBX_RSP_HEAD: the receiver frees response slots; its interrupt is taken back. -/
def execMbxRspHead (mbx head : Nat) (s : State) : Host.Outcome State Fault Refusal :=
  .next (if 72 ≤ mbx then s else s.modMbx mbx (fun b => { b.setHead (BitVec.ofNat 16 head) with irq := false }))

/-- What waits for the response ring, written while it fits: a held response first, then an event (R418). -/
def Mbx.deliver (b : Mbx) : Mbx :=
  match b.held with
  | m :: rest =>
    if slotsOf m.length ≤ b.room then { b.put m with held := rest, stalled := !rest.isEmpty } else b
  | [] => match b.events with
    | [] => b
    | e :: rest =>
      if slotsOf (16 + e.body.length) ≤ b.room then { b.put (b.eventMsg e) with events := rest, dropMark := false } else b

/-- RESPONSE_DELIVER. -/
def execResponseDeliver (mbx : Nat) (s : State) : Host.Outcome State Fault Refusal :=
  .next (if 72 ≤ mbx then s else s.modMbx mbx Mbx.deliver)

/-! Service. -/

/-- Ticks of the hub 0 counter in a second, a millisecond and a microsecond (18 R466). -/
def tickS : Nat := 100000000
def tickMs : Nat := 100000
def tickUs : Nat := 100

/-- The moment from which a pending housekeeping task has waited 30 s, where one has (R440). -/
def State.overdue (s : State) : Option Nat :=
  ((s.ump.tasks.map (fun t => t.2 + 30 * tickS)).filter (fun d => decide (d ≤ s.counter.toNat))).foldl
    (fun (m : Option Nat) d => some (match m with | none => d | some x => min x d)) none
/-- Whether a request was accepted after that moment: the task runs before it (R440). -/
def State.afterTask (s : State) (r : Req) : Bool := match s.overdue with | some d => decide (d < r.taken) | none => false
/-- The request of a mailbox that is served next within a class: the first accepted; a MSG_HELLO or MSG_BYE once every other
accepted request of the mailbox is answered (R422, R424); none where a task comes before it. -/
def State.firstOf (s : State) (lc : Bool) (m : Nat) : Option Req :=
  match s.ump.intake.find? (fun r => r.lc == lc && r.mbx == m) with
  | none => none
  | some r => if (r.op = 1 ∨ r.op = 2) ∧ (s.mbx m).due ≠ 1 ∨ s.afterTask r then none else some r

/-- The next request of a class, round-robin from after the mailbox served last. -/
def State.nextOf (s : State) (lc : Bool) (last : Nat) : Option Req :=
  (List.range 72).findSome? (fun i => s.firstOf lc ((last + 1 + i) % 72))

/-- The request the umpire serves next (R440): LC requests; no BE request while a housekeeping task has waited 30 s. -/
def State.nextReq (s : State) : Option Req :=
  match s.nextOf true s.ump.rrLc with
  | some r => some r
  | none =>
    if s.overdue.isSome then none else s.nextOf false s.ump.rrBe

/-- The request leaves the intake, and its mailbox is the one served last in its class. -/
def State.takeReq (s : State) (r : Req) : State :=
  { s with ump := { s.ump with
    intake := s.ump.intake.erase r
    rrLc := if r.lc then r.mbx else s.ump.rrLc
    rrBe := if r.lc then s.ump.rrBe else r.mbx } }

/-- The service of a request of mailbox `m` with opcode `op`: `f` is its transaction. A command that names a request the
umpire does not serve next has no effect. -/
def serve (op m : Nat) (f : Req → State → State) (s : State) : State :=
  match s.nextReq with
  | some r => if s.serving ∧ r.mbx = m ∧ r.op = op then f r (s.takeReq r) else s
  | none => s

/-! Sessions and the umpire's own messages. -/

/-- 0 application, 1 management, 2 debug. -/
def mbxKind (m : Nat) : Nat := if m < 64 then 0 else if m < 68 then 1 else 2

/-- MSG_HELLO's payload after the status. -/
def State.helloBody (s : State) (r : Req) (major : Nat) : List Byte :=
  [BitVec.ofNat 8 major, 0, 1, 0, 1, 0, BitVec.ofNat 8 r.mbx, BitVec.ofNat 8 (mbxKind r.mbx),
   BitVec.ofNat 8 (b2n (s.requestLc r.mbx r.ctx)), 0] ++ leBytes 2 256 ++ leBytes 2 1008

/-- The MSG_CONFIG_EVENT payload (R436). -/
def configEvent (reason check gen : Nat) : List Byte :=
  [BitVec.ofNat 8 reason, BitVec.ofNat 8 check] ++ leBytes 6 0 ++ leBytes 8 gen
/-- The generation in force. -/
def State.activeGen (s : State) : Nat := if s.ump.active = 0 then s.ump.slot0.gen else s.ump.slot1.gen

/-- MSG_HELLO (R423, R424): version 1.0 where it lies in the sender's range; the first management session hears of a trial that
a start-up ended (R435). -/
def execMsgHello (mbx : Nat) (s : State) : Host.Outcome State Fault Refusal :=
  .next (serve 0x0001 mbx (fun r s =>
    let lo := 256 * r.fld 0 1 + r.fld 1 1
    let hi := 256 * r.fld 2 1 + r.fld 3 1
    if lo ≤ 256 ∧ 256 ≤ hi then
      let s1 := s.modMbx mbx (fun b => { b.close with
        session := true, verMajor := 1, verMinor := 0, expect := BitVec.ofNat 32 (r.seq + 1), evCount := 0, dropMark := false })
      let s2 := s1.answer r 0 (s.helloBody r 1)
      if isMgmt mbx ∧ s2.ump.trialNote then
        let s3 := s2.event mbx 0x0106 0xFFFF (configEvent 3 0 s2.activeGen)
        { s3 with ump := { s3.ump with trialNote := false } }
      else s2
    else (s.modMbx mbx Mbx.close).answer r E_UMP_VERSION (s.helloBody r 0)) s)

/-- MSG_BYE (R424): its response is the session's last message. -/
def execMsgBye (mbx : Nat) (s : State) : Host.Outcome State Fault Refusal :=
  .next (serve 0x0002 mbx (fun r s =>
    ((s.modMbx mbx (fun b => { b with events := [] })).answer r 0 []).modMbx mbx Mbx.close) s)

/-- MSG_PING: the payload echoed, cut to what a message holds beside the status. -/
def execMsgPing (mbx : Nat) (s : State) : Host.Outcome State Fault Refusal :=
  .next (serve 0x0003 mbx (fun r s => s.answer r 0 (r.body.take 1006)) s)

/-- UMP_STATUS. -/
def State.umpStatus (s : State) : Nat :=
  s.ump.acting + 2 * s.ump.standby + 8 * (match s.ump.fw with | some f => f.phase | none => 0) +
  64 * b2n s.ump.trial.isSome + 128 * s.ump.active + 256 * (match s.ump.trial with | some t => t.left | none => 0)
/-- UMP_INTAKE. -/
def State.umpIntake (s : State) : Nat :=
  (s.ump.intake.filter (·.lc)).length + 1024 * (s.ump.intake.filter (fun r => !r.lc)).length
/-- UMP_DEFER: the longest wait of a pending housekeeping task in ms. -/
def State.umpDefer (s : State) : Nat :=
  min 65535 ((s.ump.tasks.map (fun t => (s.counter.toNat - t.2) / tickMs)).foldl max 0)

/-- MSG_UMP_QUERY. -/
def execMsgUmpQuery (mbx : Nat) (s : State) : Host.Outcome State Fault Refusal :=
  .next (serve 0x0004 mbx (fun r s =>
    s.answer r 0 (leBytes 2 0 ++ leBytes 4 s.umpStatus ++ leBytes 4 s.umpIntake ++ leBytes 4 s.umpDefer)) s)

end Sys2Proof.Machine
end

