-- ==== Sys2Proof/Machine/Tables.lean ====
section
/-! DEFINITION. Culture tables: image checks, load, query and the swap of banks (06 R167 to R173). -/
namespace Sys2Proof.Machine

/-- The dies of a court, ascending. -/
def State.courtDies (s : State) (court : Nat) : List Nat :=
  match s.courtRec court with
  | none => []
  | some r => (List.range 40).filter (fun d => r.dies.testBit d)
/-- The court a die belongs to. -/
def State.courtOfDie (s : State) (die : Nat) : Option Nat :=
  (List.range 8).find? (fun c => match s.courtRec c with | some r => r.dies.testBit die | none => false)
/-- The physical cores of a court's logical positions. -/
def State.courtCores (s : State) (court : Nat) : List Nat :=
  (s.courtDies court).flatMap (fun d => (List.range 625).filterMap (fun i => s.physOf (625 * d + i)))

/-- A finite FP32 word. -/
def finite32 (w : Nat) : Bool := (FV.ofBits .fp32 w).isFin

/-- A signed byte. -/
def sbyte (n : Nat) : Int := (BitVec.ofNat 8 n).toInt

/-- The table of an image (06 R167), with the code of the first check that fails (R169). -/
def tableOf (img : List Byte) : CTable × Code :=
  let mode := leAt img 0 1
  let flags := leAt img 1 1
  let segs := leAt img 2 2
  let h := sbyte (leAt img 4 1)
  let q2 := sbyte (leAt img 5 1)
  let x0 := leAt img 8 4
  let c := leAt img 12 4
  let ys := (List.range (segs + 1)).map (fun i => leAt img (32 + 4 * i) 4)
  let t : CTable := ⟨mode, flags, segs, h, q2, BitVec.ofNat 32 x0, BitVec.ofNat 32 c, ys.map (BitVec.ofNat 32)⟩
  let okFields := decide (mode ≤ 2) && decide (flags < 32) && decide (flags / 8 ≠ 3) && decide (1 ≤ segs) && decide (segs ≤ 256) &&
    (if mode = 0 then decide (-64 ≤ h) && decide (h ≤ 63) && finite32 x0 && decide (c = 0) else decide (h = 0) && decide (x0 = 0)) &&
    (if mode = 1 then decide (-4 ≤ q2) && decide (q2 ≤ 4) && finite32 c && (decide (q2 = 0) || (FV.ofBits .fp32 c).isZero)
     else decide (q2 = 0)) &&
    (if mode = 2 then finite32 c && (FV.fin false 0 0).lt (FV.ofBits .fp32 c) else true) &&
    decide (leAt img 6 2 = 0) && decide (leAt img 16 16 = 0) && decide (img.length = 32 + 4 * (segs + 1)) && ys.all finite32
  if !okFields then (t, E_TAB_FORMAT)
  else if !flags.testBit 0 then (t, 0)
  else
    let ds := ys.map (fun y => (FV.ofBits .fp32 y).dy)
    let down := flags.testBit 1
    let ord (a b : Dy) : Bool := if down then b.le a else a.le b
    let mono := ((ds.zip ds.tail).all (fun p => ord p.1 p.2))
    let y0 := ds.headD ⟨0, 0⟩
    let yS := ds.getLastD ⟨0, 0⟩
    let zero : Dy := ⟨0, 0⟩
    let binade :=
      if q2 ≠ 0 then ds.all (fun d => zero.lt d) && ord yS (y0.scale (if q2 % 2 = 0 then q2 / 2 else q2))
      else ord yS (y0.add (FV.ofBits .fp32 c).dy)
    if !mono then (t, E_TAB_MONOTONE)
    else if mode = 1 ∧ !binade then (t, E_TAB_MONOTONE)
    else if mode = 2 then (t, E_TAB_MONOTONE)
    else (t, 0)

/-- The table put into the shadow bank of a slot, to be swapped. -/
def CoreRegs.stageTable (c : CoreRegs) (slot : Nat) (t : CTable) : CoreRegs :=
  let b := c.tab slot
  { c with tabs := AMap.insert c.tabs slot { b with shadow := some t, pend := true } }
/-- The banks of a slot swapped, where a swap is pending. -/
def CoreRegs.swapTable (c : CoreRegs) (slot : Nat) : CoreRegs :=
  let b := c.tab slot
  if b.pend then { c with tabs := AMap.insert c.tabs slot ⟨b.shadow, b.act, false, !b.bank⟩ } else c

/-- Cores of a court that have not yet swapped a slot. -/
def State.tabPending (s : State) (court slot : Nat) : Nat :=
  ((s.courtCores court).filter (fun p => ((s.core p).now.tab slot).pend)).length

/-- Whether the cores of a court are power-gated or off (18 R468): they swap when they wake (06 R172). -/
def State.courtGated (s : State) (court : Nat) : Bool := decide (2 ≤ (AMap.getD s.pwr.courts .reset court).st)
/-- The cores whose swap the answer of a load waits for: every core of the court that has power (R171; log entry 73). -/
def State.tabAwaited (s : State) (court slot : Nat) : Nat := if s.courtGated court then 0 else s.tabPending court slot

/-- The generation of a court's slot. -/
def State.tabGen (s : State) (court slot : Nat) : Nat :=
  match AMap.find? s.book.tables (8 * court + slot) with | some (g, _) => g | none => 0

/-- The response of a load, once every core it waits for has swapped, with how many cores of the court have (R171). -/
def State.tabAnswer (s : State) (court slot : Nat) : State :=
  let k := 8 * court + slot
  match AMap.find? s.book.tableReq k with
  | none => s
  | some r =>
    if s.tabAwaited court slot ≠ 0 then s
    else
      let s1 := s.answer r 0 (leBytes 2 0 ++ leBytes 4 (s.tabGen court slot) ++
        leBytes 4 ((s.courtCores court).length - s.tabPending court slot))
      { s1 with book := { s1.book with tableReq := AMap.erase s1.book.tableReq k } }

/-- The responses of every load of a court that waits for no core any more: a core was gated, has failed or has woken. -/
def State.tabAnswers (s : State) (court : Nat) : State := (List.range 8).foldl (fun s k => s.tabAnswer court k) s
/-- The swaps that a court's cores make when they wake, before a bundle issues (R172). -/
def State.swapOnWake (s : State) (court : Nat) : State :=
  ((s.courtCores court).foldl (fun s p => s.modCore p (fun c => (List.range 8).foldl CoreRegs.swapTable c)) s).tabAnswers court

/-- TABLE_BANK_SWAP: the core swaps the banks of a slot, no lookup of it being in flight (R170); a load is answered when every
core of its court that has power has swapped. A core that has none swaps when it wakes (R172). -/
def execTableBankSwap (core : Nat) (slot : BitVec 3) (s : State) : Host.Outcome State Fault Refusal :=
  .next <| match s.physOf core with
  | none => s
  | some p =>
    match s.courtOfDie (dieOfCore core) with
    | none => s.modCore p (fun c => c.swapTable slot.toNat)
    | some court =>
      if s.courtGated court then s else (s.modCore p (fun c => c.swapTable slot.toNat)).tabAnswer court slot.toNat

/-- MSG_TABLE_LOAD (R171). -/
def execMsgTableLoad (mbx : Nat) (s : State) : Host.Outcome State Fault Refusal :=
  .next (serve 0x0250 mbx (fun r s =>
    let court := r.fld 0 1
    let slot := r.fld 1 1
    let addr := r.fld 8 8
    let len := r.fld 16 4
    if !s.courtDefined court ∨ 7 < slot ∨ 2 ^ 52 ≤ addr then s.refuse r E_TAB_ARG 10
    else if s.tabPending court slot ≠ 0 ∨ (AMap.find? s.book.tableReq (8 * court + slot)).isSome then s.refuse r E_TAB_BUSY 10
    else
      let q := s.objRead r.access addr len
      if q.2.1 ≠ 0 then q.1.refuse r q.2.1 10
      else
        let t := tableOf q.2.2
        if t.2 ≠ 0 then q.1.refuse r t.2 10
        else
          let k := 8 * court + slot
          let s1 := (q.1.courtCores court).foldl (fun s p => s.modCore p (fun c => c.stageTable slot t.1)) q.1
          let s2 := { s1 with book := { s1.book with
            tables := AMap.insert s1.book.tables k ((s1.tabGen court slot + 1) % 2 ^ 32, t.1)
            tableReq := AMap.insert s1.book.tableReq k r } }
          s2.tabAnswer court slot) s)

/-- MSG_TABLE_QUERY (R173). -/
def execMsgTableQuery (mbx : Nat) (s : State) : Host.Outcome State Fault Refusal :=
  .next (serve 0x0251 mbx (fun r s =>
    let court := r.fld 0 1
    let slot := r.fld 1 1
    if !s.courtDefined court ∨ 7 < slot then s.refuse r E_TAB_ARG 14
    else match AMap.find? s.book.tables (8 * court + slot) with
      | none => s.refuse r 0 14
      | some (g, t) => s.answer r 0 ([BitVec.ofNat 8 t.mode, BitVec.ofNat 8 t.flags] ++ leBytes 2 t.segs ++ leBytes 2 0 ++
          leBytes 4 g ++ leBytes 4 (s.tabPending court slot))) s)

end Sys2Proof.Machine
end

