-- ==== Sys2Proof/Machine/Blocks.lean ====
section
/-! DEFINITION. Reading objects in any tier, releasing objects, and events to the mailboxes of a context (11, 16). -/
namespace Sys2Proof.Machine

/-- Bytes [off, off + n) of a cave image: none where a tile of them lies on a page the controller cannot correct, or does not decode. -/
def caveBytes (img : List Byte) (lost : List Nat) (off n : Nat) : Option (List Byte) :=
  if lost.any (fun t => decide (4096 * t < off + n) && decide (off < 4096 * t + 4096)) then none
  else (decBlock img).map (fun d => bytesAt d off n)
/-- One piece read wherever its block lives: a cave image is decoded whole (11 R280, R300; 12 R322). -/
def State.pieceAny (s : State) (ac : Access) (p : Nat × Nat) : State × Code × List Byte :=
  match AMap.find? s.tier.blocks (p.1 / blockBytes) with
  | some (.cave pkg img lost) => match caveBytes img lost (p.1 % blockBytes) p.2 with
    | some d => (s, 0, d)
    | none => (s.corruptRecord { ac with unit := ident 2 (1024 + pkg / 6) } (p.1 / blockBytes * blockBytes), E_TIER_CORRUPT, [])
  | _ => s.pieceRead ac p

/-- The pieces read in order, in any tier; the first code met is the answer's. -/
def State.piecesAny (s : State) (ac : Access) : List (Nat × Nat) → State × Code × List Byte
  | [] => (s, 0, [])
  | p :: ps =>
    let r := s.pieceAny ac p
    if r.2.1 ≠ 0 then r
    else
      let q := r.1.piecesAny ac ps
      (q.1, q.2.1, r.2.2 ++ q.2.2)
/-- `n` bytes at an object address in any tier, for the module itself. -/
def State.anyRead (s : State) (ac : Access) (a n : Nat) : State × Code × List Byte := s.piecesAny ac (piecesOf a n)

/-- The response of a move that stops because its object is freed (11 R286). -/
def State.answerFreed (s : State) (b : Nat) (o : Obj) : State :=
  match o.move with
  | none => s
  | some m => match m.req with
    | none => s
    | some r => s.answer r E_TIER_FREED ([BitVec.ofNat 8 (s.objTier b o), 0] ++ leBytes 4 m.moved ++ leBytes 8 0)

/-- An object freed by the module: a move of it that a request waits for is answered first. -/
def State.releaseObj (s : State) (b : Nat) : State :=
  match AMap.find? s.tier.objs b with
  | none => s
  | some o => (s.answerFreed b o).dropObj b

/-- The application mailboxes of a context. -/
def State.mboxesOf (s : State) (ctx : Nat) : List Nat := (List.range 64).filter (fun m => s.permits m ctx)
/-- An event on the mailboxes of a context. -/
def State.eventCtx (s : State) (ctx op : Nat) (body : List Byte) : State :=
  (s.mboxesOf ctx).foldl (fun s m => s.event m op ctx body) s

end Sys2Proof.Machine
end

