-- ==== Sys2Proof/Machine/Curd.lean ====
section
/-! DEFINITION. Element formats of the array, curd registers, contributions and the fold (03 R64 to R79). -/
namespace Sys2Proof.Machine

/-- A two's complement number of `w` bits. -/
def sextN (w v : Nat) : Int := if v % 2 ^ w < 2 ^ (w - 1) then (v % 2 ^ w : Nat) else ((v % 2 ^ w : Nat) : Int) - (2 ^ w : Nat)

/-- The value of an element code of a CORE_MFMT format (03 R64, R66): an invalid code is NaN. -/
def elemVal (fmt raw : Nat) : FV :=
  match fmt with
  | 0 => .ofBits .e2m1 raw
  | 1 => .ofBits .e4m3 raw
  | 2 => .ofBits .e5m2 raw
  | 3 => if raw = 8 then .nan else .ofDy false (.ofInt (sextN 4 raw))
  | 4 => if raw ≤ 3 ∨ 13 ≤ raw then .ofDy false (.ofInt (sextN 4 raw)) else .nan
  | 5 => if raw ≤ 1 ∨ raw = 15 then .ofDy false (.ofInt (sextN 4 raw)) else .nan
  | 8 => .ofBits .bf16 raw
  | 9 => .ofBits .fp16 raw
  | _ => .nan

/-- Bits of an element's container (02 R46). -/
def elemBits (fmt : Nat) : Nat := if fmt = 1 ∨ fmt = 2 then 8 else if fmt = 8 ∨ fmt = 9 then 16 else 4
/-- Bytes of a row of 32 elements (02 R46). -/
def rowBytes (fmt : Nat) : Nat := 4 * elemBits fmt
/-- Whether the format carries E8M0 scales. -/
def isScaled (fmt : Nat) : Bool := decide (fmt ≤ 5)
/-- Bytes of one operand (02 R46). -/
def operandSize (fmt : Nat) : Nat := 32 * rowBytes fmt + (if isScaled fmt then 64 else 0)

/-- h_f and l_f of a scaled format (03, before R71). -/
def hl (fmt : Nat) : Int × Int :=
  match fmt with
  | 0 => (3, -1)
  | 1 => (9, -9)
  | 2 => (16, -16)
  | 3 => (3, 0)
  | 4 => (2, 0)
  | _ => (1, 0)

/-- A format pair: its pair code, S_max, and the exponent of the window LSB less the anchor (03 R71, R73). -/
structure Pair where
  code : Nat
  smax : Int
  lsb : Int
  isFloat : Bool
deriving DecidableEq, Repr

/-- The pair codes, either order (03 R71). -/
def pairCode (a b : Nat) : Option Nat :=
  let lo := min a b
  let hi := max a b
  match lo, hi with
  | 0, 0 => some 0
  | 0, 3 => some 1
  | 0, 4 => some 2
  | 0, 5 => some 3
  | 3, 3 => some 4
  | 3, 4 => some 5
  | 3, 5 => some 6
  | 4, 4 => some 7
  | 4, 5 => some 8
  | 5, 5 => some 9
  | 0, 1 => some 10
  | 1, 3 => some 11
  | 1, 4 => some 12
  | 1, 5 => some 13
  | 1, 1 => some 14
  | 0, 2 => some 15
  | 2, 3 => some 16
  | 2, 4 => some 17
  | 2, 5 => some 18
  | 1, 2 => some 19
  | 2, 2 => some 20
  | 8, 8 => some 21
  | 9, 9 => some 22
  | _, _ => none

/-- The pair of two formats that R47 permits. -/
def pairOf (a b : Nat) : Option Pair :=
  match pairCode a b with
  | none => none
  | some c =>
    if c = 21 then some ⟨c, 76, -76 - 16 + 1, true⟩
    else if c = 22 then some ⟨c, 70, -70 - 22 + 1, true⟩
    else
      let smax := 92 - ((hl a).1 + (hl b).1 - (hl a).2 - (hl b).2)
      some ⟨c, smax, (hl a).2 + (hl b).2 - smax, false⟩

/-- A curd register (03 R70); special: 0 finite, 1 +Inf, 2 −Inf, 3 NaN. -/
structure Curd where
  acc : Int
  anchor : Int
  mbc : Nat
  pair : Nat
  special : Nat
  av : Bool
  sticky : Bool
deriving DecidableEq, Repr

namespace Curd
def clear : Curd := ⟨0, 0, 0, 0, 0, false, false⟩
/-- The fields of the 128 bits. -/
def ofNat (v : Nat) : Curd where
  acc := sextN 103 v
  anchor := sextN 10 (v / 2 ^ 103)
  mbc := bitsOf v 118 113
  pair := bitsOf v 123 119
  special := bitsOf v 125 124
  av := bitOf v 126
  sticky := bitOf v 127
/-- The 128 bits of the fields. -/
def toNat (c : Curd) : Nat :=
  (c.acc % 2 ^ 103).toNat + 2 ^ 103 * (c.anchor % 1024).toNat + 2 ^ 113 * (c.mbc % 64) + 2 ^ 119 * (c.pair % 32) +
    2 ^ 124 * (c.special % 4) + 2 ^ 126 * b2n c.av + 2 ^ 127 * b2n c.sticky

/-- Whether d / 2^k leaves a remainder. -/
def inexactAt (d : Dy) (k : Int) : Bool := decide ((d.sub ⟨d.truncAt k, k⟩).n ≠ 0)

/-- A contribution placed (03 R73): its exact value and its exponent. A NaN or an infinity sets special by the rules of
addition; a zero has no effect. -/
def place (p : Pair) (c : Curd) (v : FV) (ex : Int) : Curd :=
  match v with
  | .nan => { c with special := 3 }
  | .inf s => { c with special := if c.special = 0 then (if s then 2 else 1)
                                  else if c.special = (if s then 2 else 1) then c.special else 3 }
  | .fin _ m _ =>
    if m = 0 then c else
    let c1 : Curd := if c.av then c else { c with anchor := ex, av := true }
    let c2 : Curd :=
      if c1.anchor < ex then
        let d : Dy := ⟨c1.acc, 0⟩
        { c1 with acc := d.truncAt (ex - c1.anchor), anchor := ex, sticky := c1.sticky || inexactAt d (ex - c1.anchor) }
      else c1
    let l := c2.anchor + p.lsb
    { c2 with acc := c2.acc + v.dy.truncAt l, sticky := c2.sticky || inexactAt v.dy l }

/-- One micro-block added to a cell (03 R72): the micro-sum of a scaled pair at the combined scale exponent, or the 32
products of a float pair in ascending order. `sa`, `sb`: the scale bytes. -/
def addBlock (p : Pair) (c : Curd) (xs ys : List FV) (sa sb : Nat) : Curd :=
  let prods := List.zipWith FV.mul xs ys
  let c1 :=
    if p.isFloat then prods.foldl (fun c v => place p c v (match v with | .fin _ _ _ => v.dy.log2 | _ => 0)) c
    else if sa = 255 ∨ sb = 255 then place p c .nan 0
    else
      let cm : Int := (sa : Int) - 127 + ((sb : Int) - 127)
      let sum := prods.foldl FV.add (.fin false 0 0)
      let v := match sum with
        | .fin s m e => .fin s m (e + cm)
        | x => x
      place p c v cm
  { c1 with mbc := c1.mbc + 1, pair := p.code }

/-- The curd total as an exact number (03 R77). -/
def total (c : Curd) (lsb : Int) : FV :=
  if c.special = 1 then .inf false else if c.special = 2 then .inf true else if c.special = 3 then .nan
  else .ofDy false ⟨c.acc, c.anchor + lsb⟩

/-- The window LSB less the anchor, from a pair code (03 R71, R73); 0 for a code that no pair has, 23 to 31 (DESIGN CHOICE, log entry
77). -/
def lsbOf (code : Nat) : Int :=
  let spans : List (Int × Int) := [(84, -2), (85, -1), (86, -1), (87, -1), (86, 0), (87, 0), (88, 0), (88, 0), (89, 0),
    (90, 0), (70, -10), (71, -9), (72, -9), (73, -9), (56, -18), (56, -17), (57, -16), (58, -16), (59, -16), (42, -25),
    (28, -32), (76, -15), (70, -21)]
  match spans[code]? with
  | some (sm, l) => l - sm
  | none => 0

/-- What a fold writes to the carry, and whether finite inputs overflowed (03 R77 to R79). -/
def fold (c : Curd) (carry : W32) (whey : Option W32) (init : Bool) : W32 × Bool :=
  let vs := if c.av = false ∧ c.special = 0 then [] else [c.total (lsbOf c.pair)]
  let ws := match whey with | none => [] | some w => [f32 w]
  if vs = [] ∧ whey = none then (if init then 0 else carry, false)
  else
    let terms := (if init then [] else [f32 carry]) ++ vs ++ ws
    let sum := match terms with
      | [] => FV.fin false 0 0
      | t :: ts => ts.foldl FV.add t
    let r := rnq32 sum
    (r, terms.all FV.isFin && !(f32 r).isFin)
end Curd

end Sys2Proof.Machine
end

