-- ==== Sys2Proof/Machine/KernelCheck.lean ====
section
/-! DEFINITION. The loader's check of a kernel: bundle encoding, slot clashes and loops (02 R38, R39, R42, R43, R44, R49, R52, R53,
R55, R57; 04 R532). -/
namespace Sys2Proof.Machine

/-- A register a slot writes: a scalar or a vector register. -/
abbrev WReg := Bool × Nat

/-- What a scalar slot does to the order of bundles: nothing, a branch to a bundle, a loop (counter, end bundle). -/
inductive Flow
  | none
  | branch (target : Int)
  | loop (lc last : Nat)
deriving DecidableEq, Repr

/-- Matrix slot (02 R44, R45): whether it is well formed, the scalar registers it writes, and whether it writes one twice. -/
def mSlot (w : Nat) : Bool × List WReg × Bool :=
  let op := bitsOf w 23 20
  let a := bitsOf w 19 16
  let b := bitsOf w 15 12
  let md := bitsOf w 3 0
  let base := decide (bitsOf w 11 4 ≤ 172)
  match op with
  | 0 => (decide (w = 0), [], false)
  | 1 => (base && decide (md < 4), if md % 2 = 1 then (if a = b then [(false, a)] else [(false, a), (false, b)]) else [],
          decide (md % 2 = 1 ∧ a = b ∧ a ≠ 0))
  | 2 => (base && decide (md = 0 ∨ md = 2), [], false)
  | 3 => (base && decide (md < 4) && decide (a = 0) && decide (b = 0), [], false)
  | 4 => (base && decide (md < 2) && decide (b = 0), [], false)
  | 5 => (base && decide (md = 0) && decide (a = 0) && decide (b = 0), [], false)
  | _ => (false, [], false)

/-- A vector operation's rule (02 R50): the types it takes (none: the field is 00), the fields that name scalar registers (va,
vb), the values vb and vc may take, what it writes (vd scalar, vd vector, vc). -/
structure VRule where
  types : List Nat
  vaMax : Nat
  vbMax : Nat
  vcMax : Nat
  sd : Bool
  vd : Bool
  wvc : Bool

def vAll : List Nat := [0, 1, 2, 3]
def vFb : List Nat := [0, 1]
def vLane : List Nat := [0, 2]

/-- The rule of a vector opcode; none where it is reserved. -/
def vRule (op : Nat) : Option VRule :=
  if op = 0x01 ∨ op = 0x02 ∨ op = 0x03 ∨ op = 0x05 ∨ op = 0x06 ∨ op = 0x0B ∨ op = 0x0C ∨ op = 0x0D then
    some ⟨vAll, 63, 63, 0, false, true, false⟩
  else if op = 0x04 then some ⟨[0, 1, 3], 63, 63, 63, false, true, false⟩
  else if op = 0x07 ∨ op = 0x08 then some ⟨vAll, 63, 0, 0, false, true, false⟩
  else if op = 0x09 then some ⟨vAll, 63, 63, 3, false, true, false⟩
  else if op = 0x0A then some ⟨vAll, 63, 63, 63, false, true, false⟩
  else if op = 0x0E then some ⟨vLane, 63, 63, 0, false, true, false⟩
  else if op = 0x0F then some ⟨vAll, 15, 0, 0, false, true, false⟩
  else if op = 0x10 then some ⟨vLane, 63, 63, 1, true, false, false⟩
  else if op = 0x11 then some ⟨vAll, 63, 3, 2, false, true, false⟩
  else if op = 0x12 then some ⟨[0], 63, 15, 0, false, true, false⟩
  else if op = 0x13 ∨ op = 0x14 then some ⟨vLane, 63, 0, 1, false, true, false⟩
  else if op = 0x18 ∨ op = 0x1A then some ⟨[0], 15, 63, 0, false, true, false⟩
  else if op = 0x19 ∨ op = 0x1B then some ⟨[0], 15, 63, 0, false, false, false⟩
  else if 0x20 ≤ op ∧ op ≤ 0x23 then some ⟨vFb, 63, 0, 1, false, true, false⟩
  else if op = 0x24 then some ⟨vFb, 63, 7, 0, false, true, false⟩
  else if op = 0x28 then some ⟨vFb, 63, 15, 63, false, true, false⟩
  else if op = 0x29 then some ⟨[0], 63, 15, 63, false, true, true⟩
  else if op = 0x2A then some ⟨vFb, 63, 15, 63, false, true, true⟩
  else if op = 0x2B then some ⟨[0], 15, 63, 63, false, true, false⟩
  else none

/-- Vector slot (02 R49, R50). -/
def vSlot (w : Nat) : Bool × List WReg :=
  let op := bitsOf w 31 26
  let vd := bitsOf w 25 20
  let va := bitsOf w 19 14
  let vb := bitsOf w 13 8
  let vc := bitsOf w 7 2
  if op = 0 then (decide (w = 0), [])
  else match vRule op with
    | none => (false, [])
    | some r =>
      (r.types.contains (w % 4) && decide (va ≤ r.vaMax) && decide (vb ≤ r.vbMax) && decide (vc ≤ r.vcMax) &&
        (!r.sd || decide (vd < 16)),
       (if r.sd then [(false, vd)] else []) ++ (if r.vd then [(true, vd)] else []) ++ (if r.wvc then [(true, vc)] else []))

/-- A scalar slot at bundle `pc` (02 R52, R53); `s0`: it is the S0 slot. -/
def sSlot (w : Nat) (s0 : Bool) (pc : Nat) : Bool × List WReg × Flow :=
  let op := bitsOf w 19 15
  let sd := bitsOf w 14 11
  let sa := bitsOf w 10 7
  let imm7 := bitsOf w 6 0
  let imm11 : Int := (BitVec.ofNat 11 w).toInt
  let wr : List WReg := [(false, sd)]
  let tgt : Int := pc + imm11
  let okT := decide (0 ≤ tgt) && decide (tgt ≤ 2047)
  match op with
  | 0x00 => (decide (w = 0), [], .none)
  | 0x01 | 0x02 | 0x04 | 0x05 | 0x06 | 0x07 | 0x08 | 0x09 | 0x0B | 0x0C | 0x0D | 0x0E => (decide (w % 8 = 0), wr, .none)
  | 0x03 => (true, wr, .none)
  | 0x0A => (decide (imm7 < 64), wr, .none)
  | 0x10 | 0x11 => (true, wr, .none)
  | 0x12 | 0x13 => (s0 && okT, [], .branch tgt)
  | 0x14 => (s0 && okT && decide (sd = 0), [], .branch tgt)
  | 0x15 => (s0 && decide (w % 256 ≠ 0), [], .loop (bitsOf w 14 12) (pc + w % 256))
  | 0x16 => (decide (sa = 0) && decide (imm7 ≤ 10), wr, .none)
  | 0x17 => (decide (sd = 0) && decide (imm7 ≤ 3), [], .none)
  | 0x18 => (decide (sd = 0) && decide (imm7 = 0), [], .none)
  | _ => (false, [], .none)

/-- Transfer slot (02 R57, R58; 08 R209; 10 R258). XFENCE of every tag (mod[0] = 1) may hold anything in its tag field, which it does not
use (DESIGN CHOICE, log entry 82: the rule does not say). -/
def xSlot (w : Nat) : Bool × List WReg :=
  let dst := bitsOf w 19 16
  let src := bitsOf w 15 12
  let len := bitsOf w 11 8
  let tag := bitsOf w 7 4
  let md := bitsOf w 3 0
  match bitsOf w 23 20 with
  | 0x0 => (decide (w = 0), [])
  | 0x1 => (decide (md = 0), [])
  | 0x2 | 0x3 | 0x4 | 0x5 => (decide (md % 8 ≤ 4), [])
  | 0x6 => (decide (md < 4), [])
  | 0x7 => (decide (md < 4) && decide (dst = 0) && decide (src = 0) && decide (tag = 0), [])
  | 0x8 => (decide (md < 3) && decide (src = 0), [(false, len)])
  | 0x9 => (decide (md ≤ 12), [])
  | 0xA => (decide (md < 2), [])
  | 0xB => (decide (md < 2) && decide (dst = 0) && decide (src = 0) && decide (len = 0), [])
  | _ => (false, [])

/-- Whether two slots write one register, s0 apart (02 R42). A slot that names one register for both its results (VWEL and VAMAX with vd =
vc) is taken for a clash too (DESIGN CHOICE, log entry 82: the rule speaks of two slots, and of MMA). -/
def clash (ws : List (List WReg)) : Bool :=
  let all := (ws.flatten).filter (fun r => r ≠ (false, 0))
  decide (all.eraseDups.length < all.length)

/-- What one bundle says: the code of its first failure, its flow, and the counter it ends. -/
def bundleCode (b : Nat) (pc : Nat) : Code × Flow × Option Nat :=
  let m := mSlot (bitsOf b 127 104)
  let v := vSlot (bitsOf b 103 72)
  let s0 := sSlot (bitsOf b 71 52) true pc
  let s1 := sSlot (bitsOf b 51 32) false pc
  let x := xSlot (bitsOf b 31 8)
  let c := b % 256
  let le := c.testBit 2
  let ends := if le then some (bitsOf c 5 3) else none
  let okC := decide (c < 128) && (le || decide (bitsOf c 5 3 = 0))
  if !(okC && m.1 && v.1 && s0.1 && s1.1 && x.1) then (E_KRN_ENCODING, .none, none)
  else if m.2.2 || clash [m.2.1, v.2, s0.2.1, s1.2.1, x.2] then (E_KRN_SLOTCLASH, .none, none)
  else if le && (c.testBit 6 || (match s0.2.2 with | .branch _ => true | _ => false)) then (E_KRN_LOOP, .none, none)
  else (0, s0.2.2, ends)

/-- The loops still open at bundle `pc`, innermost first, as the loops of a kernel are met in order: false where they are not
nested, reuse a counter in a nest, or end on one bundle (02 R55). A loop is (start, counter, end). -/
def nested : List (Nat × Nat × Nat) → List (Nat × Nat × Nat) → Bool
  | _, [] => true
  | stack, l :: ls =>
    let st := stack.dropWhile (fun o => decide (o.2.2 < l.1))
    st.all (fun o => decide (l.2.2 < o.2.2) && decide (o.2.1 ≠ l.2.1)) && nested (l :: st) ls

/-- The structure of a kernel's loops and branches (02 R55). -/
def loopsOk (fs : List (Nat × Flow × Option Nat)) : Bool :=
  let loops := fs.filterMap (fun f => match f.2.1 with | .loop n e => some (f.1, n, e) | _ => none)
  let ends := fs.filterMap (fun f => match f.2.2 with | some n => some (f.1, n) | none => none)
  let branches := fs.filterMap (fun f => match f.2.1 with | .branch t => some (f.1, t) | _ => none)
  loops.all (fun l => ends.contains (l.2.2, l.2.1)) &&
  decide ((loops.map (·.2.2)).eraseDups.length = loops.length) &&
  nested [] loops &&
  ends.all (fun e => loops.any (fun l => l.2.2 == e.1 && l.2.1 == e.2)) &&
  branches.all (fun b => loops.all (fun l =>
    !(decide ((l.1 : Int) < b.2) && decide (b.2 ≤ (l.2.2 : Int))) || (decide (l.1 < b.1) && decide (b.1 ≤ l.2.2))))

/-- The bundles in ascending order: the first failure's code, and what they say. -/
def bundlesCode : Nat → List Nat → Code × List (Nat × Flow × Option Nat)
  | _, [] => (0, [])
  | pc, b :: bs =>
    let r := bundleCode b pc
    if r.1 ≠ 0 then (r.1, [])
    else
      let q := bundlesCode (pc + 1) bs
      (q.1, (pc, r.2.1, r.2.2) :: q.2)

/-- Check 4 on one kernel, given the bundle count its directory entry states (04 R532). -/
def kernelCode (count : Nat) (bundles : List (BitVec 128)) : Code :=
  if count = 0 ∨ 2048 < count then E_KRN_SIZE
  else
    let r := bundlesCode 0 (bundles.map (·.toNat))
    if r.1 ≠ 0 then r.1
    else if loopsOk r.2 then 0 else E_KRN_LOOP

end Sys2Proof.Machine
end

