-- ==== Sys2Proof/Machine/PlanParse.lean ====
section
/-! DEFINITION. A playbook image read into its parts (04 R97 to R99, R105, R106, R110, R116; 03 R80, R87; 05 R144; 07 R188; 08
R211; 09 R225; 12 R308). -/
namespace Sys2Proof.Machine

/-- A section of the table (04 R98). -/
structure Sect where
  kind : Nat
  optional : Bool
  count : Nat
  off : Nat
  len : Nat
deriving DecidableEq, Repr

/-- Entry size of a known section kind but the kernels'. -/
def sectSize : Nat → Option Nat
  | 2 => some 8
  | 3 => some 80
  | 4 => some 16
  | 5 => some 8
  | 6 => some 16
  | 7 => some 32
  | 8 => some 64
  | 9 => some 16
  | 10 => some 64
  | 11 => some 32
  | 12 => some 48
  | 13 => some 16
  | 14 => some 16
  | _ => none

def sectsOf (img : List Byte) : List Sect :=
  (List.range (leAt img 16 2)).map (fun i =>
    let e := bytesAt img (128 + 16 * i) 16
    ⟨leAt e 0 2, (leAt e 2 2).testBit 0, leAt e 4 4, leAt e 8 4, leAt e 12 4⟩)

/-- The entries of a section, `sz` bytes each. -/
def entriesOf (img : List Byte) (ss : List Sect) (kind sz : Nat) : List (List Byte) :=
  match ss.find? (fun x => x.kind == kind) with
  | none => []
  | some x => (List.range x.count).map (fun i => bytesAt img (x.off + sz * i) sz)

/-- Whether bytes [a, a + n) of an entry are zero. -/
def zeroAt (e : List Byte) (a n : Nat) : Bool := leAt e a n == 0

/-- A kernel directory entry: offset, bundles, constants, constant offset. -/
def dirOf (e : List Byte) : Nat × Nat × Nat × Nat := (leAt e 0 4, leAt e 4 2, leAt e 6 2, leAt e 8 4)

def kernelOf (img : List Byte) (e : List Byte) : Kernel :=
  let d := dirOf e
  ⟨(List.range d.2.1).map (fun i => BitVec.ofNat 128 (leAt img (d.1 + 16 * i) 16)),
   (List.range d.2.2.1).map (fun i => leAt img (d.2.2.2 + 4 * i) 4)⟩

def loopOf (w : Nat) : LoopEnt := ⟨bitsOf w 3 0, bitsOf w 6 4, bitsOf w 23 8, bitsOf w 7 7 + 2 * (w / 2 ^ 24)⟩

def layerOf (e : List Byte) : Layer where
  layer := leAt e 0 2
  loopCount := leAt e 2 1
  flags := leAt e 3 1
  mSpec := leAt e 4 4
  nSpec := leAt e 8 4
  kSpec := leAt e 12 4
  gSpec := leAt e 16 4
  ySpec := leAt e 20 4
  xSpec := leAt e 24 4
  loops := (List.range 8).map (fun i => loopOf (leAt e (28 + 4 * i) 4))
  bufSet := leAt e 60 2
  haloFirst := leAt e 62 2
  haloCount := leAt e 64 1
  stateTiles := leAt e 65 1
  kbMb := leAt e 66 1
  resv := zeroAt e 67 13

def haloOf (e : List Byte) : HaloEnt := ⟨leAt e 0 1, leAt e 1 1, leAt e 2 2, leAt e 4 4, leAt e 8 4, leAt e 12 4⟩
def regionOf (e : List Byte) : Region := ⟨leAt e 0 1, leAt e 1 1, leAt e 2 1, leAt e 3 1, leAt e 4 4, leAt e 8 4, leAt e 12 4⟩
def bufSetOf (e : List Byte) : BufSet := ⟨leAt e 0 4, leAt e 4 2, leAt e 6 2⟩

def precOf (e : List Byte) : PrecEnt where
  layer := leAt e 0 2
  aFmt := leAt e 2 1
  bFmt := leAt e 3 1
  fbFmt := leAt e 4 1
  policy := leAt e 5 1
  threshold := leAt e 8 4
  window := leAt e 12 2
  wheyOff := leAt e 16 4
  wheyBlocks := leAt e 20 2
  krnP := leAt e 22 2
  krnF := leAt e 24 2
  resv := zeroAt e 6 2 && zeroAt e 14 2 && zeroAt e 26 6

def attOf (e : List Byte) : AttEnt where
  layer := leAt e 0 2
  role := leAt e 2 1
  flags := leAt e 3 1
  fmt := leAt e 4 1
  twlog := leAt e 5 1
  kvHeads := leAt e 6 1
  dblk := leAt e 7 1
  qPerKv := leAt e 8 1
  groups := leAt e 9 1
  kvIndex := leAt e 10 2
  frameW := leAt e 12 2
  frameH := leAt e 14 2
  tBack := leAt e 16 2
  tFwd := leAt e 18 2
  rx := leAt e 20 2
  ry := leAt e 22 2
  anchors := leAt e 24 2
  krnMerge := leAt e 26 2
  keepFrames := leAt e 28 4
  resv := zeroAt e 32 32

def recOf (e : List Byte) : RecEnt where
  layer := leAt e 0 2
  stateIndex := leAt e 2 2
  channels := leAt e 4 4
  nsLog2 := leAt e 8 1
  tilesPerCore := leAt e 10 2
  coreFirst := leAt e 12 4
  coreCount := leAt e 16 4
  resv := zeroAt e 9 1 && zeroAt e 20 12

def convOf (e : List Byte) : ConvEnt where
  layer := leAt e 0 2
  kind := leAt e 2 1
  flags := leAt e 3 1
  kh := leAt e 4 1
  kw := leAt e 5 1
  sy := leAt e 6 1
  sx := leAt e 7 1
  dy := leAt e 8 1
  dx := leAt e 9 1
  padMode := leAt e 10 1
  regroup := leAt e 11 1
  pt := leAt e 12 2
  pb := leAt e 14 2
  pl := leAt e 16 2
  pr := leAt e 18 2
  cIn := leAt e 20 4
  cOut := leAt e 24 4
  groups := leAt e 28 4
  inYSpec := leAt e 32 4
  inXSpec := leAt e 36 4
  resv := zeroAt e 40 8

def rollOf (e : List Byte) : RollEnt := ⟨leAt e 0 2, leAt e 2 1, zeroAt e 3 13⟩

def wgtOf (e : List Byte) : WgtEnt where
  layer := leAt e 0 2
  parts := leAt e 2 1
  experts := leAt e 4 2
  k := leAt e 8 4
  n := leAt e 12 4
  resv := zeroAt e 3 1 && zeroAt e 6 2

/-- The image offset of the first whey list of a section, and the lists that lie wholly inside it: they start at multiples of 64 (03
R80; DEDUCED, log entry 80, for a section that does not). -/
def wheyLists (img : List Byte) (x : Sect) : Nat × List (List Nat) :=
  let a := 64 * ceilDiv x.off 64
  (a, (List.range ((x.off + x.len - a) / 64)).map (fun j => (List.range 32).map (fun i => leAt img (a + 64 * j + 2 * i) 2)))

/-- The parts of an image whose section table is well formed. A shape variable is read with its reserved bytes above it, so that one with
a reserved byte set is out of range and refused at check 7 (R101, R121; DESIGN CHOICE, log entry 80: the rule names no code). -/
def planOf (img : List Byte) : Plan :=
  let ss := sectsOf img
  let dirs := entriesOf img ss 1 16
  let whey := match ss.find? (fun x => x.kind == 8) with | some x => wheyLists img x | none => (0, [])
  { minDies := leAt img 18 2
    digest := bytesAt img 64 64
    kernels := dirs.map (kernelOf img)
    bundleCounts := dirs.map (fun e => leAt e 4 2)
    shapeMax := (entriesOf img ss 2 8).map (fun e => leAt e 0 8)
    layers := (entriesOf img ss 3 80).map layerOf
    halos := (entriesOf img ss 4 16).map haloOf
    bufsets := (entriesOf img ss 5 8).map bufSetOf
    regions := (entriesOf img ss 6 16).map regionOf
    prec := (entriesOf img ss 7 32).map precOf
    wheyBase := whey.1
    whey := whey.2
    tensors := entriesOf img ss 9 16
    att := (entriesOf img ss 10 64).map attOf
    recs := (entriesOf img ss 11 32).map recOf
    conv := (entriesOf img ss 12 48).map convOf
    roll := (entriesOf img ss 13 16).map rollOf
    wgt := (entriesOf img ss 14 16).map wgtOf }

end Sys2Proof.Machine
end

