-- ==== Sys2Proof/Machine/Sha3.lean ====
section
/-! DEFINITION. SHA3-512, the digest of images and certificates (04 R97, 12 R306, 19). PRESUMED: the spec names the function; its
steps are those of FIPS 202 (log entry 8). The round constants and the rotations are computed, not tabled. -/
namespace Sys2Proof.Machine

/-- The five sheets of the sponge state: sheet x holds the lanes (x, 0) to (x, 4). -/
abbrev Sheets := List (List W64)

/-- Lane (x, y), both taken modulo 5. -/
def laneOf (s : Sheets) (x y : Nat) : W64 := (s.getD (x % 5) []).getD (y % 5) 0

/-- The sheets whose lane (x, y) is f x y. -/
def sheetsOf (f : Nat → Nat → W64) : Sheets := (List.range 5).map (fun x => (List.range 5).map (f x))

/-- The rotation of each lane (x, y): lane (0, 0) by none; the t-th lane of the walk (1, 0), (y, 2x + 3y), … by (t + 1)(t + 2)/2. -/
def turnWalk : Nat → Nat → Nat → Nat → List ((Nat × Nat) × Nat)
  | 0, _, _, _ => []
  | n + 1, t, x, y => ((x, y), (t + 1) * (t + 2) / 2 % 64) :: turnWalk n (t + 1) y ((2 * x + 3 * y) % 5)

def turnOf (x y : Nat) : Nat := ((turnWalk 24 0 1 0).lookup (x, y)).getD 0

/-- The feedback register of the round constants: x⁸ + x⁶ + x⁵ + x⁴ + 1. -/
def rcNext (r : BitVec 8) : BitVec 8 := if r.msb then (r <<< 1) ^^^ 0x71 else r <<< 1

/-- A round's constant, whose bit 2ʲ − 1 is the register's j-th output, and the register after it. -/
def rcWord (r : BitVec 8) : W64 × BitVec 8 :=
  (List.range 7).foldl (fun p j => (if p.2.getLsbD 0 then p.1 ||| ((1 : W64) <<< (2 ^ j - 1)) else p.1, rcNext p.2)) (0, r)

/-- θ: every lane takes the parities of the sheet before it and, turned by one, of the sheet after it. -/
def thetaStep (s : Sheets) : Sheets :=
  let parity := s.map (fun sh => sh.foldr (· ^^^ ·) 0)
  sheetsOf (fun x y => laneOf s x y ^^^ parity.getD ((x + 4) % 5) 0 ^^^ (parity.getD ((x + 1) % 5) 0).rotateLeft 1)

/-- ρ and π: lane (x, y), turned, lands at (y, 2x + 3y). -/
def turnMove (s : Sheets) : Sheets :=
  sheetsOf (fun x y => (laneOf s (x + 3 * y) x).rotateLeft (turnOf ((x + 3 * y) % 5) x))

/-- χ, and ι on lane (0, 0). -/
def chiStep (k : W64) (s : Sheets) : Sheets :=
  sheetsOf (fun x y => (laneOf s (x + 2) y &&& ~~~ laneOf s (x + 1) y) ^^^ laneOf s x y ^^^ (if x + y = 0 then k else 0))

/-- `n` rounds from the register `r`. -/
def spongeRounds : Nat → BitVec 8 → Sheets → Sheets
  | 0, _, s => s
  | n + 1, r, s => spongeRounds n (rcWord r).2 (chiStep (rcWord r).1 (turnMove (thetaStep s)))

/-- The padded message taken in, 72 bytes (the lanes x + 5y below 9) at a time, at most `fuel` blocks. -/
def takeIn : Nat → Sheets → List Byte → Sheets
  | 0, s, _ => s
  | n + 1, s, bs =>
    if bs = [] then s
    else takeIn n (spongeRounds 24 1 (sheetsOf (fun x y =>
      laneOf s x y ^^^ (if x + 5 * y < 9 then BitVec.ofNat 64 (leAt bs (8 * (x + 5 * y)) 8) else 0)))) (bs.drop 72)

/-- The 64 bytes of the SHA3-512 digest. -/
def sha3 (msg : List Byte) : List Byte :=
  let room := 71 - msg.length % 72
  let tail : List Byte := if room = 0 then [0x86] else 0x06 :: (List.replicate (room - 1) 0 ++ [0x80])
  let s := takeIn (msg.length / 72 + 1) (sheetsOf (fun _ _ => 0)) (msg ++ tail)
  (List.range 8).flatMap (fun i => leBytes 8 (laneOf s i (i / 5)).toNat)

end Sys2Proof.Machine
end

