-- ==== Sys2Proof/Machine/PlanCheck.lean ====
section
/-! DEFINITION. The loader's checks 1 to 11 of a playbook (04 R97 to R121, R532; 03 R80, R87; 05 R144, R146; 07 R190; 08 R213; 09
R225; 12 R308), and the dimensions of a layer. -/
namespace Sys2Proof.Machine

/-- A failed check: code, check number, layer concerned, and item: the kernel, region, halo entry, tensor or section (04 R120). -/
structure PlanFail where
  code : Code
  check : Nat
  layer : Nat
  item : Nat
deriving DecidableEq, Repr

/-- The failure where a condition does not hold. -/
def need (ok : Bool) (code : Code) (check layer item : Nat) : Option PlanFail :=
  if ok then none else some ⟨code, check, layer, item⟩
/-- The first failure of a list of checks. -/
def firstFail (l : List (Option PlanFail)) : Option PlanFail := l.findSome? id
/-- The first failure over the entries of a list, each with its index. -/
def eachFail {α : Type} (l : List α) (f : Nat → α → Option PlanFail) : Option PlanFail :=
  ((List.range l.length).zip l).findSome? (fun e => f e.1 e.2)

def noItem : Nat := 0xFFFF

/-! Check 1: header, section table, kernel directory (R97 to R99). -/

/-- The header, given the request's length. -/
def headerFail (h : List Byte) (len : Nat) : Option PlanFail :=
  need (decide (128 ≤ len) && decide (leAt h 0 4 = 0x4B425950) && decide (leAt h 8 8 = len) && zeroAt h 7 1 && zeroAt h 20 44 &&
    decide (1 ≤ leAt h 16 2) && decide (leAt h 16 2 ≤ 64) && decide (1 ≤ leAt h 18 2) && decide (leAt h 18 2 ≤ 40) &&
    decide (128 + 16 * leAt h 16 2 ≤ len)) E_PLAN_HEADER 1 noItem noItem

/-- Whether a section is one that is ignored. -/
def Sect.ignored (x : Sect) : Bool := x.optional && decide (x.kind ≠ 1) && (sectSize x.kind).isNone
/-- Whether two ranges share a byte. -/
def overlap (a n b m : Nat) : Bool := decide (a < b + m) && decide (b < a + n) && decide (0 < n) && decide (0 < m)

/-- The section table (R98). A section of unknown kind that is optional is ignored whole: neither its place nor an overlap with it is
looked at (DESIGN CHOICE, log entry 80: the rule does not say). -/
def sectionFail (ss : List Sect) (len : Nat) : Option PlanFail :=
  eachFail ss (fun i x =>
    let known := decide (x.kind = 1) || (sectSize x.kind).isSome
    need (x.ignored || (known && decide (x.off + x.len ≤ len) &&
      (match sectSize x.kind with | some n => decide (x.len = x.count * n) | none => decide (16 * x.count ≤ x.len)) &&
      (ss.take i).all (fun y => y.ignored || (decide (y.kind ≠ x.kind) && !overlap x.off x.len y.off y.len))))
      E_PLAN_HEADER 1 noItem i)

/-- The kernel directory (R99); the bundle count is check 4's, a list that reaches too far check 7's. A misaligned offset, a const_offset
beside a count of 0 and a reserved word not zero are refused here (DESIGN CHOICE, log entry 80: the rule gives no code for them). -/
def directoryFail (x : Sect) (dirs : List (List Byte)) : Option PlanFail :=
  eachFail dirs (fun i e =>
    let d := dirOf e
    need (decide (d.1 % 16 = 0) && decide (x.off ≤ d.1) && decide (d.1 + 16 * d.2.1 ≤ x.off + x.len) &&
      decide (d.2.2.2 % 4 = 0) && zeroAt e 12 4 &&
      (if d.2.2.1 = 0 then decide (d.2.2.2 = 0)
       else decide (x.off ≤ d.2.2.2) && decide (d.2.2.2 + 4 * d.2.2.1 ≤ x.off + x.len))) E_PLAN_HEADER 1 noItem i)

/-- Check 2. -/
def versionFail (h : List Byte) : Option PlanFail :=
  need (decide (leAt h 4 1 = 1) && decide (leAt h 6 1 = 1)) E_PLAN_VERSION 2 noItem noItem

/-- Check 3. -/
def digestFail (img : List Byte) : Option PlanFail :=
  need (decide (sha3 (img.drop 128) = bytesAt img 64 64)) E_PLAN_DIGEST 3 noItem noItem

namespace Plan

/-! Lookups. -/
def layerEnt (p : Plan) (n : Nat) : Option Layer := p.layers.find? (fun l => l.layer == n)
def precEnt (p : Plan) (n : Nat) : Option PrecEnt := p.prec.find? (fun e => e.layer == n)
def attEnt (p : Plan) (n : Nat) : Option AttEnt := p.att.find? (fun e => e.layer == n)
def recEnt (p : Plan) (n : Nat) : Option RecEnt := p.recs.find? (fun e => e.layer == n)
def convEnt (p : Plan) (n : Nat) : Option ConvEnt := p.conv.find? (fun e => e.layer == n)
def wgtEnt (p : Plan) (n : Nat) : Option WgtEnt := p.wgt.find? (fun e => e.layer == n)

/-! Dimensions (R101). -/

/-- The value of a dimension spec at a shape vector. -/
def dimOf (sv : List Nat) (spec : Nat) : Nat :=
  if spec.testBit 31 then bitsOf spec 30 8 * sv[spec % 16]?.getD 0 else spec % 2 ^ 31
/-- A spec is well formed. -/
def specOk (p : Plan) (spec : Nat) : Bool :=
  if spec.testBit 31 then decide (bitsOf spec 7 4 = 0) && decide (spec % 16 < p.shapeMax.length) && decide (1 ≤ bitsOf spec 30 8)
  else true

end Plan

namespace Layer
def spatial (l : Layer) : Bool := l.flags.testBit 0
def bias (l : Layer) : Bool := l.flags.testBit 1
/-- The extent of a dimension code at a shape vector: M, N, K, G, Y, X (R106). -/
def extent (l : Layer) (sv : List Nat) (dim : Nat) : Nat :=
  match dim with
  | 1 => if l.spatial then Plan.dimOf sv l.ySpec * Plan.dimOf sv l.xSpec else Plan.dimOf sv l.mSpec
  | 2 => Plan.dimOf sv l.nSpec
  | 3 => Plan.dimOf sv l.kSpec
  | 4 => Plan.dimOf sv l.gSpec
  | 5 => Plan.dimOf sv l.ySpec
  | 6 => Plan.dimOf sv l.xSpec
  | _ => 0
/-- The loops in use. -/
def used (l : Layer) : List LoopEnt := l.loops.takeWhile (fun e => decide (e.dim ≠ 0))
/-- The level-0 count of a dimension; 0 without one. -/
def count0 (l : Layer) (dim : Nat) : Nat :=
  match l.used.find? (fun e => e.dim == dim && e.level == 0) with | some e => e.count | none => 0
/-- The splits of a dimension at levels 1 to 4: level and count, outermost first. -/
def splits (l : Layer) (dim : Nat) : List (Nat × Nat) :=
  (l.used.filter (fun e => e.dim == dim && decide (1 ≤ e.level))).map (fun e => (e.level, e.count))
/-- Resident curd tiles (R108). -/
def resident (l : Layer) : Nat :=
  match l.used.dropWhile (fun e => !(e.dim == 3 && e.level == 0)) with
  | [] => 0
  | _ :: inner => (inner.filter (fun e => e.level == 0 && (e.dim == 1 || e.dim == 2))).foldl (fun n e => n * e.count) 1
end Layer

/-! Check 4 (R532). -/

def kernelsFail (p : Plan) : Option PlanFail :=
  eachFail (p.bundleCounts.zip p.kernels) (fun i e =>
    let c := kernelCode e.1 e.2.bundles
    need (decide (c = 0)) c 4 noItem i)

/-! Check 5 (03 R87). A layer entry must have its precision-plan entry (04 R105: 'layer number, matching its precision-plan entry'); one
without is refused here with E_PREC_PLAN (DESIGN CHOICE, log entry 80: the list of R87 does not hold the case). -/

/-- Whether CORE_MFMT codes a and b are a permitted pair (02 R47). -/
def pairOk (a b : Nat) : Bool := (pairOf a b).isSome

/-- Whether a kernel executes VQNT. -/
def Kernel.quantises (k : Kernel) : Bool := k.bundles.any (fun b => bitsOf b.toNat 103 98 == 0x12)

def precFail (p : Plan) : Option PlanFail :=
  let nk := p.kernels.length
  let fbOk (e : PrecEnt) := e.fbFmt == 1 || e.fbFmt == 2 || e.fbFmt == 0xFF
  firstFail [
    eachFail p.prec (fun i e =>
      need (decide (e.layer ≤ 4095) && (p.prec.take i).all (fun f => f.layer != e.layer) && pairOk e.aFmt e.bFmt && fbOk e &&
        (e.fbFmt == 0xFF || pairOk e.fbFmt e.bFmt) && decide (e.policy ≤ 2) &&
        (e.policy == 1 || (e.fbFmt != 0xFF && e.krnF != 0xFFFF)) &&
        decide (1 ≤ e.threshold) && decide (e.threshold ≤ 1000000) && decide (e.window ≤ 1024) &&
        decide (e.krnP < nk) && (e.krnF == 0xFFFF || decide (e.krnF < nk)) && e.resv) E_PREC_PLAN 5 e.layer noItem),
    eachFail p.kernels (fun k kr =>
      need (!kr.quantises || (p.prec.filter (fun e => e.krnP == k || e.krnF == k)).length == 1) E_PREC_PLAN 5 noItem k),
    eachFail p.layers (fun _ l => need (p.precEnt l.layer).isSome E_PREC_PLAN 5 l.layer noItem)]

/-! Check 6 (03 R80). -/

/-- A whey index list, given the length of its K-block. -/
def wheyListOk (len : Nat) (es : List Nat) : Bool :=
  let vs := es.takeWhile (fun e => e.testBit 15)
  (es.drop vs.length).all (· == 0) &&
  vs.all (fun e => decide (bitsOf e 14 10 = 0) && decide (e % 1024 < len)) &&
  (vs.zip vs.tail).all (fun q => decide (q.1 % 1024 < q.2 % 1024))

/-- Every list of the section is held to its form; those a precision-plan entry names, to their K-block's length. -/
def wheyFail (p : Plan) : Option PlanFail :=
  firstFail [eachFail p.whey (fun _ es => need (wheyListOk 1024 es) E_WHEY_LIST 6 noItem noItem),
   eachFail p.prec (fun _ e =>
    need (
      if e.wheyOff = 0 then decide (e.wheyBlocks = 0)
      else match p.layerEnt e.layer with
        | none => false
        | some l =>
          let kb := 32 * l.kbMb
          let k := l.extent p.shapeMax 3
          let first := (e.wheyOff - p.wheyBase) / 64
          decide (e.wheyOff % 64 = 0) && decide (p.wheyBase ≤ e.wheyOff) &&
          decide (first + max 1 e.wheyBlocks ≤ p.whey.length) && decide (0 < kb) && decide (e.wheyBlocks = ceilDiv k kb) &&
          (List.range e.wheyBlocks).all (fun b => wheyListOk (min kb (k - b * kb)) (p.whey[first + b]?.getD [])))
      E_WHEY_LIST 6 e.layer noItem)]

/-! Check 7 (R99, R101, R105). -/

/-- The first word a kernel's constants may not reach, and the word they start at, for a layer (R99, 08 R215, 12 R309). -/
def constReach (p : Plan) (layer : Nat) : Nat × Nat :=
  (if (p.convEnt layer).isSome then 23 else 17, if (p.wgtEnt layer).isSome then 122 else 128)

def shapeFail (p : Plan) : Option PlanFail :=
  let big := 2 ^ 31 - 1
  firstFail [
    need (decide (p.shapeMax.length ≤ 16)) E_PLAN_SHAPE 7 noItem noItem,
    eachFail p.shapeMax (fun _ v => need (decide (1 ≤ v) && decide (v ≤ big)) E_PLAN_SHAPE 7 noItem noItem),
    eachFail p.layers (fun _ l =>
      let specs := (if l.spatial then [] else [l.mSpec]) ++ [l.nSpec, l.kSpec, l.gSpec, l.ySpec, l.xSpec]
      need (decide (1 ≤ l.loopCount) && decide (l.loopCount ≤ 8) && decide (l.flags < 4) && decide (l.haloCount ≤ 8) &&
        decide (l.stateTiles ≤ 32) && decide (1 ≤ l.kbMb) && decide (l.kbMb ≤ 32) && l.resv &&
        (l.spatial || (l.ySpec == 1 && l.xSpec == 1)) && specs.all p.specOk &&
        specs.all (fun x => decide (Plan.dimOf p.shapeMax x ≤ big)) && decide (l.extent p.shapeMax 1 ≤ big))
        E_PLAN_SHAPE 7 l.layer noItem),
    eachFail p.kernels (fun k kr => need (decide (17 + kr.consts.length ≤ 128)) E_PLAN_SHAPE 7 noItem k),
    p.prec.findSome? (fun e =>
      let q := constReach p e.layer
      [e.krnP, e.krnF].findSome? (fun k => match p.kernels[k]? with
        | none => none
        | some kr => need (decide (q.1 + kr.consts.length ≤ q.2)) E_PLAN_SHAPE 7 e.layer k)),
    p.att.findSome? (fun e => match p.kernels[e.krnMerge]? with
      | none => none
      | some kr => need (decide (17 + kr.consts.length ≤ (constReach p e.layer).2)) E_PLAN_SHAPE 7 e.layer e.krnMerge)]

/-! Check 8: loop orders (R106, R107), then attention, convolution, rollout and weight entries. -/

/-- Whether a layer carries no K loop (08 R213). -/
def noK (p : Plan) (l : Layer) : Bool := match p.convEnt l.layer with | some c => decide (2 ≤ c.kind) | none => false

def loopOrderOk (p : Plan) (dies ring : Nat) (l : Layer) : Bool :=
  let us := l.used
  let prod (lv : Nat) : Nat := (us.filter (fun e => e.level == lv)).foldl (fun n e => n * e.count) 1
  let at0 (d : Nat) : Nat := (us.filter (fun e => e.dim == d && e.level == 0)).length
  decide (us.length = l.loopCount) &&
  (l.loops.drop us.length).all (fun e => e == ⟨0, 0, 0, 0⟩) &&
  us.all (fun e => decide (e.resv = 0) && decide (e.dim ≤ 6) && decide (e.level ≤ 4) && decide (1 ≤ e.count)) &&
  (us.zip us.tail).all (fun q => decide (q.2.level ≤ q.1.level)) &&
  decide ((us.map (fun e => (e.dim, e.level))).eraseDups.length = us.length) &&
  decide (at0 2 = 1) && (if noK p l then us.all (fun e => e.dim != 3) else decide (at0 3 = 1)) && decide (at0 1 = 1) &&
  us.all (fun e => decide (e.dim < 5) || (l.spatial && decide (1 ≤ e.level))) &&
  decide (prod 1 ≤ 25) && decide (prod 2 ≤ 25) && decide (prod 3 ≤ dies) && decide (prod 4 ≤ ring)

/-- Landed and stored bytes of a micro-block of a page format; 0 where it is reserved (05 R127). -/
def pageLanded (fmt : Nat) : Nat := match fmt with | 0 => 2048 | 1 | 2 | 3 | 4 => 1088 | 5 => 576 | _ => 0
def pageStored (fmt : Nat) : Nat := match fmt with | 0 => 2048 | 1 | 2 => 1024 | 3 | 4 => 1088 | 5 => 576 | _ => 0

namespace AttEnt
def tile (a : AttEnt) : Bool := a.flags.testBit 0
/-- The stride of its pages (05 R129). -/
def stride (a : AttEnt) : Nat := 4096 * ceilDiv (2 * (8 * a.kvHeads * a.dblk * pageStored a.fmt)) 4096
/-- Pages per frame (05 R146 item 6). -/
def framePages (a : AttEnt) : Nat :=
  if a.tile then ceilDiv a.frameW (2 ^ a.twlog) * ceilDiv a.frameH (2 ^ (8 - a.twlog))
  else ceilDiv (a.frameW * a.frameH) 256 + 1
/-- Positions of one frame as M counts them. -/
def frameRows (a : AttEnt) : Nat := if a.tile then 256 * a.framePages else a.frameW * a.frameH
/-- The geometry that every entry of a playbook shares. -/
def geometry (a : AttEnt) : List Nat := [a.flags, a.fmt, a.twlog, a.kvHeads, a.dblk, a.groups, a.frameW, a.frameH]
/-- The mask descriptor, or the merge kernel is set. -/
def hasMerge (a : AttEnt) : Bool := a.krnMerge != 0xFFFF
end AttEnt

/-- The key-value layers: the write entries, by ascending kv_index. -/
def Plan.writes (p : Plan) : List AttEnt := p.att.filter (fun a => a.role == 0)
def Plan.writeOf (p : Plan) (kv : Nat) : Option AttEnt := p.writes.find? (fun a => a.kvIndex == kv)
/-- L × G: the entries of a row of the page list, and the rows C (05 R135). -/
def Plan.rowWidth (p : Plan) : Nat := p.writes.length * (match p.att with | a :: _ => a.groups | [] => 0)
def Plan.rows (p : Plan) : Nat := if p.rowWidth = 0 then 0 else 262144 / p.rowWidth
/-- F: the largest number of frames one step writes, for a write entry. -/
def Plan.maxFrames (p : Plan) (a : AttEnt) : Nat :=
  match p.layerEnt a.layer with
  | none => 0
  | some l => ceilDiv (l.extent p.shapeMax 1) a.frameRows
/-- (keep_frames + F + 1) × P + A (05 R146). -/
def Plan.retention (p : Plan) (a : AttEnt) : Nat :=
  match p.writeOf a.kvIndex with
  | none => 0
  | some w => (a.keepFrames + p.maxFrames w + 1) * a.framePages + a.anchors

/-- Field ranges of an attention entry (05 R144, R146 item 1). -/
def attFieldsOk (p : Plan) (i : Nat) (a : AttEnt) : Bool :=
  decide (a.role ≤ 1) && decide (a.flags < 2) && decide (a.fmt ≤ 5) && decide (a.twlog ≤ (if a.tile then 8 else 0)) &&
  decide (1 ≤ a.kvHeads) && decide (a.kvHeads ≤ 8) && decide (1 ≤ a.dblk) && decide (a.dblk ≤ 8) &&
  (if a.role = 0 then decide (a.qPerKv = 0) else decide (1 ≤ a.qPerKv) && decide (a.qPerKv ≤ 16)) &&
  decide (1 ≤ a.groups) && decide (a.groups ≤ 64) && decide (a.kvIndex ≤ 4095) &&
  decide (1 ≤ a.frameW) && decide (a.frameW ≤ 4096) && decide (1 ≤ a.frameH) && decide (a.frameH ≤ 4096) &&
  decide (a.anchors ≤ 16) && decide (a.keepFrames < 2 ^ 31) && a.resv &&
  (p.layerEnt a.layer).isSome && (p.att.take i).all (fun b => b.layer != a.layer) &&
  (!a.hasMerge || decide (a.krnMerge < p.kernels.length))

/-- Items 4 to 6 of 05 R146 on one entry. -/
def attLayerOk (p : Plan) (a : AttEnt) : Bool :=
  match p.layerEnt a.layer with
  | none => false
  | some l =>
    let hd := a.kvHeads * a.dblk
    decide (l.count0 1 ≤ 8) &&
    (if a.role = 0 then decide (l.nSpec = a.groups * 2 * a.kvHeads * 32 * a.dblk) && decide (l.count0 2 = hd)
     else
      decide (l.count0 2 % a.dblk = 0) && decide (0 < l.count0 2) && decide (a.qPerKv * hd % l.count0 2 = 0) &&
      decide (l.gSpec = a.groups) && (a.hasMerge == !(l.splits 3).isEmpty) &&
      (match (l.splits 3).find? (fun x => x.1 == 4) with
       | none => true
       | some (_, n) => match (p.writeOf a.kvIndex).bind (fun w => p.layerEnt w.layer) with
         | none => false
         | some w => (w.splits 1).contains (4, n))) &&
    decide (p.retention a ≤ p.rows)

def attFail (p : Plan) : Option PlanFail :=
  let f (ok : Nat → AttEnt → Bool) := eachFail p.att (fun i a => need (ok i a) E_ATT_PLAN 8 a.layer noItem)
  firstFail [
    f (attFieldsOk p),
    f (fun _ a => decide (a.geometry = (match p.att with | b :: _ => b.geometry | [] => [])) &&
      decide (a.kvHeads * 8 * a.dblk * pageLanded a.fmt ≤ 196608)),
    f (fun i a => if a.role = 0 then (p.att.take i).all (fun b => b.role != 0 || b.kvIndex != a.kvIndex)
      else (p.writeOf a.kvIndex).isSome),
    f (fun _ a => attLayerOk p a)]

/-- The output extent of an axis of a convolution (08 R212): input, padding before and after, dilation, kernel, stride. -/
def convOut (inp before after dil k stride : Nat) : Nat :=
  if inp + before + after < dil * (k - 1) + 1 then 0 else (inp + before + after - dil * (k - 1) - 1) / stride + 1

/-- The factor of a regroup code: 0 none, 1 ×2, 2 ×4, 3 ×8. -/
def regroupFactor (c : Nat) : Nat := 2 ^ c
/-- Whether every extent of a spec is a multiple of `f` (08 R213 item 6). -/
def specMultiple (spec f : Nat) : Bool := decide ((if spec.testBit 31 then bitsOf spec 30 8 else spec) % f = 0)

def ConvEnt.cg (c : ConvEnt) : Nat := c.cIn / c.groups
def ConvEnt.tapBlocks (c : ConvEnt) : Nat := ceilDiv c.cg 32

/-- Item 1 of 08 R213. -/
def convFieldsOk (p : Plan) (i : Nat) (c : ConvEnt) : Bool :=
  let str (x : Nat) := x == 1 || x == 2 || x == 4 || x == 8
  decide (c.kind ≤ 4) && decide (c.flags < 16) && decide (1 ≤ c.kh) && decide (c.kh ≤ 15) && decide (1 ≤ c.kw) && decide (c.kw ≤ 15) &&
  str c.sy && str c.sx && decide (1 ≤ c.dy) && decide (c.dy ≤ 64) && decide (1 ≤ c.dx) && decide (c.dx ≤ 64) &&
  decide (c.padMode ≤ 2) && decide (c.regroup < 16) &&
  decide (c.pt ≤ c.dy * (c.kh - 1)) && decide (c.pb ≤ c.dy * (c.kh - 1)) &&
  decide (c.pl ≤ c.dx * (c.kw - 1)) && decide (c.pr ≤ c.dx * (c.kw - 1)) &&
  decide (1 ≤ c.cIn) && decide (c.cIn ≤ 65536) && decide (1 ≤ c.cOut) && decide (c.cOut ≤ 65536) &&
  decide (1 ≤ c.groups) && decide (c.groups ≤ c.cIn) && c.resv && p.specOk c.inYSpec && p.specOk c.inXSpec &&
  (p.layerEnt c.layer).isSome && (p.conv.take i).all (fun d => d.layer != c.layer)

/-- Items 2 to 7 of 08 R213. -/
def convLayerOk (p : Plan) (c : ConvEnt) : Bool :=
  match p.layerEnt c.layer with
  | none => false
  | some l =>
    let yi := Plan.dimOf p.shapeMax c.inYSpec
    let xi := Plan.dimOf p.shapeMax c.inXSpec
    let f := regroupFactor (c.regroup % 4)
    decide (c.cIn % c.groups = 0) && decide (c.cOut % c.groups = 0) &&
    (if 2 ≤ c.kind then
      decide (c.cOut = c.cIn) && (c.kind != 2 || decide (c.groups = c.cIn)) && !c.flags.testBit 1 &&
      l.used.all (fun e => (e.dim != 2 || e.level == 0) && e.dim != 3 && e.dim != 4)
     else
      l.spatial && decide (l.nSpec = c.cOut / c.groups) && decide (l.gSpec = c.groups) &&
      decide (l.kSpec = c.kh * c.kw * c.tapBlocks * 32)) &&
    decide (convOut yi c.pt c.pb c.dy c.kh c.sy ≤ Plan.dimOf p.shapeMax l.ySpec) &&
    decide (convOut xi c.pl c.pr c.dx c.kw c.sx ≤ Plan.dimOf p.shapeMax l.xSpec) &&
    specMultiple c.inYSpec f && specMultiple c.inXSpec f &&
    (if c.kind = 2 ∧ (1 < c.sy ∨ 1 < c.sx) then decide (c.sy = c.sx) && decide (f = c.sy) else true)

def convFail (p : Plan) : Option PlanFail :=
  eachFail p.conv (fun i c => need (convFieldsOk p i c && convLayerOk p c) E_CONV_PLAN 8 c.layer noItem)

def rollFail (p : Plan) : Option PlanFail :=
  eachFail p.roll (fun i r =>
    need (decide (i = 0) && r.resv &&
      (r.scoreLayer == 0xFFFF || ((p.layerEnt r.scoreLayer).isSome && (p.attEnt r.scoreLayer).isNone))) E_ROLL_PLAN 8 r.scoreLayer noItem)

def wgtFail (p : Plan) : Option PlanFail :=
  eachFail p.wgt (fun i w =>
    need (match p.layerEnt w.layer with
      | none => false
      | some l =>
        (p.wgt.take i).all (fun v => v.layer != w.layer) && decide (w.parts < 16) && decide (w.experts ≤ 256) && w.resv &&
        decide (l.kSpec = w.k) && !bitOf w.k 31 && decide (l.nSpec = w.n) && !bitOf w.n 31 &&
        (w.parts.testBit 1 == (match p.precEnt w.layer with | some e => decide (e.wheyOff ≠ 0) | none => false)) &&
        (w.experts == 0 || decide (l.gSpec = w.experts))) E_WGT_PLAN 8 w.layer noItem)

/-- Check 8; a split across the ring needs a court in fixed mode (17 R455). -/
def ordersFail (p : Plan) (dies ring : Nat) (roster : Bool) : Option PlanFail :=
  firstFail [
    eachFail p.layers (fun _ l => need (loopOrderOk p dies ring l) E_LOOP_ORDER 8 l.layer noItem),
    eachFail p.layers (fun _ l => need (!roster || l.used.all (fun e => e.level != 4)) E_RING_MODE 8 l.layer noItem),
    attFail p, convFail p, rollFail p, wgtFail p]

/-! Check 9: regions at governing sizes (R110, R111). -/

/-- The region indices of a layer's buffer set. -/
def Plan.regionsOf (p : Plan) (l : Layer) : List Nat :=
  match p.bufsets[l.bufSet]? with
  | none => []
  | some b => (List.range b.count).map (b.first + ·)

/-- Whether a layer's fallback policy is other than "never". -/
def Plan.mayFall (p : Plan) (l : Layer) : Bool := match p.precEnt l.layer with | some e => e.policy != 1 | none => false

/-- The governing size of a region. -/
def Plan.governing (p : Plan) (i : Nat) (r : Region) : Nat :=
  let users := p.layers.filter (fun l => (p.regionsOf l).contains i)
  if (if users = [] then p.layers else users).any p.mayFall then max r.sizeP r.sizeF else r.sizeP

/-- The regions with their governing sizes. -/
def Plan.sized (p : Plan) : List (Region × Nat) :=
  ((List.range p.regions.length).zip p.regions).map (fun e => (e.2, p.governing e.1 e.2))

/-- Whether two sized regions share bytes. -/
def shareBytes (a b : Region × Nat) : Bool := decide (a.1.store = b.1.store) && overlap a.1.offset a.2 b.1.offset b.2
/-- Whether two regions may share bytes by a common group. -/
def sameGroup (a b : Region) : Bool := decide (a.aliasOf ≠ 0) && decide (a.aliasOf = b.aliasOf)

def regionOk (r : Region) : Bool :=
  let tiles := r.role == 9 || r.role == 10
  let u := if tiles then 1024 else 64
  decide (r.store ≤ 2) && decide (r.role ≤ 12) && decide (r.flags < 4) && (r.flags.testBit 1 || decide (r.sizeF = r.sizeP)) &&
  decide (r.offset % u = 0) && decide (r.sizeP % u = 0) && decide (r.sizeF % u = 0) &&
  (!tiles || decide (r.store = 1)) && (r.role != 9 || decide (r.offset / 1024 ≤ 172))

/-- Check 9. Reserved bytes of a buffer set that are not zero are refused here (DESIGN CHOICE, log entry 80: R110 gives no code). -/
def bufFail (p : Plan) : Option PlanFail :=
  let rs := p.sized
  let nth (i : Nat) : Region × Nat := rs[i]?.getD (⟨0, 0, 0, 0, 0, 0, 0⟩, 0)
  let disjoint (is : List Nat) : Option PlanFail :=
    is.findSome? (fun b => (is.filter (fun a => decide (a < b))).findSome? (fun a =>
      need (!shareBytes (nth a) (nth b) || sameGroup (nth a).1 (nth b).1) E_BUF_PLAN 9 noItem b))
  let setOf (b : BufSet) := (List.range b.count).map (b.first + ·)
  firstFail [
    eachFail rs (fun i r => need (regionOk r.1) E_BUF_PLAN 9 noItem i),
    p.bufsets.findSome? (fun b =>
      let is := setOf b
      let args := is.filter (fun i => (nth i).1.role == 8)
      firstFail [
        need (decide (1 ≤ b.count) && decide (b.count ≤ 32) && decide (b.first + b.count ≤ rs.length) && decide (b.resv = 0) &&
          decide (args.length = 1) && args.all (fun i => decide ((nth i).1.store = 0) && decide ((nth i).2 = 512)) &&
          decide ((is.filter (fun i => (nth i).1.role == 11 && (nth i).1.store == 2)).length ≤ 1)) E_BUF_PLAN 9 noItem b.first,
        disjoint is]),
    disjoint ((p.bufsets.flatMap setOf).eraseDups.filter (fun i => decide ((nth i).1.store = 2))),
    eachFail p.layers (fun _ l => need (decide (l.bufSet < p.bufsets.length)) E_BUF_PLAN 9 l.layer noItem),
    eachFail p.layers (fun _ l =>
      let st := (p.regionsOf l).filter (fun i => (nth i).1.role == 10)
      need ((l.stateTiles == 0 || !st.isEmpty) && st.all (fun i => decide (6144 * l.stateTiles ≤ (nth i).2)))
        E_BUF_PLAN 9 l.layer (st.headD noItem))]

/-! Check 10 (R108, R121; 07 R190). -/

def accFail (p : Plan) : Option PlanFail :=
  let rs := p.sized
  let nth (i : Nat) : Region × Nat := rs[i]?.getD (⟨0, 0, 0, 0, 0, 0, 0⟩, 0)
  eachFail p.layers (fun _ l =>
    let mem := p.regionsOf l
    let res := l.resident
    let curd := mem.filter (fun j => (nth j).1.role == 9)
    let other := ((mem.filter (fun j => decide ((nth j).1.store = 1) && (nth j).1.role != 9 && (nth j).1.role != 10)).map
      (fun j => (nth j).2)).sum
    need (decide (curd.length = (if res = 0 then 0 else 1)) && curd.all (fun j => decide ((nth j).2 = 20480 * res)) &&
      decide (20480 * res + 6144 * l.stateTiles + other ≤ 196608)) E_ACC_TILES 10 l.layer (curd.headD noItem))

def recFail (p : Plan) : Option PlanFail :=
  let rs := p.sized
  let nth (i : Nat) : Region × Nat := rs[i]?.getD (⟨0, 0, 0, 0, 0, 0, 0⟩, 0)
  let apart (a b : Layer) : Bool := match p.recEnt a.layer, p.recEnt b.layer with
    | some x, some y => decide (x.coreFirst + x.coreCount ≤ y.coreFirst) || decide (y.coreFirst + y.coreCount ≤ x.coreFirst)
    | _, _ => false
  firstFail [
    eachFail p.recs (fun i r =>
      need (match p.layerEnt r.layer with
        | none => false
        | some l =>
          (p.recs.take i).all (fun q => q.layer != r.layer && q.stateIndex != r.stateIndex) && decide (r.stateIndex ≤ 4095) &&
          decide (1 ≤ r.channels) && decide (r.channels ≤ 1048576) && decide (r.nsLog2 ≤ 10) &&
          decide (1 ≤ r.tilesPerCore) && decide (r.tilesPerCore ≤ 32) && decide (1 ≤ r.coreCount) && r.resv &&
          decide (r.channels * 2 ^ r.nsLog2 % 1024 = 0) && decide (l.stateTiles = r.tilesPerCore)) E_REC_PLAN 10 r.layer noItem),
    eachFail p.layers (fun _ l => need (l.stateTiles == 0 || (p.recEnt l.layer).isSome) E_REC_PLAN 10 l.layer noItem),
    p.layers.findSome? (fun a => ((p.regionsOf a).filter (fun j => (nth j).1.role == 10)).findSome? (fun j =>
      ((p.bufsets.flatMap (fun b => (List.range b.count).map (b.first + ·))).eraseDups).findSome? (fun k =>
        let users := p.layers.filter (fun b => (p.regionsOf b).contains k)
        need (if j = k then users.all (fun b => decide (b.layer = a.layer) || apart a b)
          else !shareBytes (nth j) (nth k) || ((nth k).1.role == 10 && !users.isEmpty && users.all (apart a)))
          E_ACC_TILES 10 a.layer j)))]

/-! Check 11 (R116). -/

def haloFail (p : Plan) : Option PlanFail :=
  let rs := p.sized
  let nth (i : Nat) : Region × Nat := rs[i]?.getD (⟨0, 0, 0, 0, 0, 0, 0⟩, 0)
  let inside (l : Layer) (role at' n : Nat) : Bool := (p.regionsOf l).any (fun j =>
    (nth j).1.role == role && decide ((nth j).1.store = 0) && decide ((nth j).1.offset ≤ at') &&
      decide (at' + n ≤ (nth j).1.offset + (nth j).2))
  firstFail [
    eachFail p.halos (fun i h =>
      need (match p.layerEnt h.layer with
        | none => false
        | some l => decide (h.dir < 8) && decide (h.resv = 0) && decide (64 ≤ h.bytes) && decide (h.bytes ≤ 131072) &&
          decide (h.bytes % 64 = 0) && decide (h.src % 64 = 0) && decide (h.dst % 64 = 0) &&
          inside l 7 h.src h.bytes && inside l 6 h.dst h.bytes) E_HALO_PLAN 11 h.layer i),
    eachFail p.layers (fun _ l =>
      need (decide (l.haloFirst + l.haloCount ≤ p.halos.length) || l.haloCount == 0) E_HALO_PLAN 11 l.layer l.haloFirst),
    eachFail p.layers (fun _ l =>
      need ((List.range l.haloCount).all (fun i => match p.halos[l.haloFirst + i]? with | some h => h.layer == l.layer | none => false))
        E_HALO_PLAN 11 l.layer l.haloFirst)]

/-- Checks 4 to 11 on a plan, for a court of `dies` dies in a ring of `ring` modules. -/
def planFail (p : Plan) (dies ring : Nat) (roster : Bool) : Option PlanFail :=
  firstFail [kernelsFail p, precFail p, wheyFail p, shapeFail p, ordersFail p dies ring roster, bufFail p, accFail p, recFail p, haloFail p]

end Sys2Proof.Machine
end

