-- ==== Sys2Proof/Machine/Weights.lean ====
section
/-! DEFINITION. Weights: shards, generations, adapters, digest passes (12), and their messages but MSG_SEQ_REPIN. -/
namespace Sys2Proof.Machine

/-! Parts (R305, R306). -/

/-- Bytes of an operand of a micro-block and of one of its columns, by CORE_MFMT code (02 R46); 0 for a reserved code. -/
def opDims (fmt : Nat) : Nat × Nat :=
  if fmt = 1 ∨ fmt = 2 then (1088, 32)
  else if fmt = 8 ∨ fmt = 9 then (2048, 64)
  else if fmt = 0 ∨ (3 ≤ fmt ∧ fmt ≤ 5) then (576, 16)
  else (0, 0)

def Part.nt (q : Part) : Nat := ceilDiv q.n 32
/-- Whether a part's fields are in range, given the bytes of the shard and where its part table ends. -/
def Part.ok (q : Part) (len tableEnd : Nat) : Bool :=
  let sz := (opDims q.fmt).1
  decide (q.part ≤ 4) &&
  (if q.part = 0 then decide (sz ≠ 0)
   else if q.part ≤ 2 then decide (q.fmt = 0)
   else decide (q.fmt = 8) || decide (q.fmt = 1)) &&
  (decide (q.expert ≤ 255) || decide (q.expert = 0xFFFF)) && decide (q.k % 32 = 0) && decide (1 ≤ q.n) &&
  decide (q.off % 64 = 0) && decide (tableEnd ≤ q.off) && decide (q.off + q.bytes ≤ len) &&
  (if q.part = 1 then decide (q.bytes % (2048 * q.nt) = 0)
   else if q.part = 2 then decide (q.bytes = 128 * q.nt)
   else decide (q.bytes = q.nt * (q.k / 32) * sz))

def partOf (e : List Byte) : Part :=
  ⟨leAt e 0 2, leAt e 2 1, leAt e 3 1, leAt e 4 2, leAt e 8 4, leAt e 12 4, leAt e 16 8, leAt e 24 8⟩

/-- Whether two parts name one layer, part and expert. -/
def Part.same (a b : Part) : Bool := decide (a.layer = b.layer) && decide (a.part = b.part) && decide (a.expert = b.expert)

/-- The part table of a header and table: none where they break R305 or R306. `size` is the object's. -/
def shardParts (h : List Byte) (size : Nat) : Option (List Part) :=
  let n := leAt h 6 2
  let len := leAt h 8 8
  let ents := (List.range n).map (fun i => bytesAt h (128 + 32 * i) 32)
  let ps := ents.map partOf
  let ok := decide (leAt h 0 4 = 0x44524853) && decide (leAt h 4 1 = 1) && decide (1 ≤ n) && decide (n ≤ 1024) &&
    decide (len ≤ size) && decide (128 + 32 * n ≤ len) && zeroAt h 16 48 && ents.all (fun e => zeroAt e 6 2) &&
    ps.all (fun q => q.ok len (128 + 32 * n)) &&
    ((List.range n).zip ps).all (fun e => (ps.take e.1).all (fun q => !q.same e.2 && !overlap q.off q.bytes e.2.off e.2.bytes))
  if ok then some ps else none

/-! Sets and generations (R304, R311). -/

def State.wset (s : State) (k : Nat) : Option WSet := AMap.find? s.wgt.sets k
def State.setWset (s : State) (k : Nat) (w : WSet) : State := { s with wgt := { s.wgt with sets := AMap.insert s.wgt.sets k w } }
/-- The generation of a set in a state: 0 staged, 1 current; 0 for none. -/
def WSet.genIn (w : WSet) (st : Nat) : Nat :=
  match List.find? (fun e => e.2.st == st) w.gens with | some e => e.1 | none => 0
/-- The shards of a generation of a set, by object. -/
def State.shardsOf (s : State) (set gen : Nat) : AMap Shard :=
  s.wgt.shards.filter (fun e => decide (e.2.set = set) && decide (e.2.gen = gen))
def State.setShard (s : State) (b : Nat) (h : Shard) : State := { s with wgt := { s.wgt with shards := AMap.insert s.wgt.shards b h } }
def State.dropShard (s : State) (b : Nat) : State := { s with wgt := { s.wgt with shards := AMap.erase s.wgt.shards b } }

/-- The set a sequence's playbook is bound to; 0 for none. -/
def State.setOfSeq (s : State) (q : Seq) : Nat := match AMap.find? s.book.books q.playbook with | some b => b.set | none => 0
/-- Pins on a generation (R311). -/
def State.pins (s : State) (set gen : Nat) : Nat :=
  if gen = 0 then 0 else (s.sch.seqs.filter (fun e => decide (s.setOfSeq e.2 = set) && decide (e.2.gen = gen))).length
/-- Pins on an adapter (R319). -/
def State.adapterPins (s : State) (id : Nat) : Nat :=
  if id = 0 then 0 else (s.sch.seqs.filter (fun e => decide (e.2.adapter = id))).length
/-- Whether a generation holds a corrupt shard. -/
def State.genCorrupt (s : State) (set gen : Nat) : Bool := (s.shardsOf set gen).any (fun e => e.2.corrupt)

/-- MSG_WGT_EVENT (R331), on the management mailboxes and on those of an owner where there is one. -/
def State.wgtEvent (s : State) (owner : Option Nat) (set reason adapter gen obj : Nat) : State :=
  let body := [BitVec.ofNat 8 set, BitVec.ofNat 8 reason] ++ leBytes 2 adapter ++ leBytes 4 gen ++ leBytes 8 (blockBytes * obj) ++
    leBytes 8 s.counter.toNat
  let s1 := s.eventMgmt 0x0308 0xFFFF body
  match owner with
  | none => s1
  | some c => s1.eventCtx c 0x0308 body
/-- Whom the events of a set concern beside management. -/
def WSet.party (w : WSet) : Option Nat := if w.shared then none else some w.owner

/-- A generation's shards released: freed, or returned as ordinary objects (R316). -/
def State.releaseGen (s : State) (set gen : Nat) (keep : Bool) : State :=
  (s.shardsOf set gen).foldl (fun s e =>
    let s1 := s.dropShard e.1
    if keep then s1 else s1.releaseObj e.1) s

/-- A generation retired (R304, R316): released, no longer live, and told. -/
def State.retireGen (s : State) (set gen : Nat) : State :=
  match s.wset set with
  | none => s
  | some w => match AMap.find? w.gens gen with
    | none => s
    | some g =>
      let s1 := s.releaseGen set gen g.keep
      (s1.setWset set { w with gens := AMap.erase w.gens gen }).wgtEvent w.party set 1 0 gen 0

/-- What the fall of a pin may end: a retiring generation without a pin is retired, a released adapter without one is freed
(R316, R320). -/
def State.pinsFell (s : State) (set gen adapter : Nat) : State :=
  let s1 := match s.wset set with
    | none => s
    | some w => match AMap.find? w.gens gen with
      | some g => if g.st = 2 ∧ s.pins set gen = 0 then s.retireGen set gen else s
      | none => s
  match AMap.find? s1.wgt.adapters adapter with
  | none => s1
  | some a =>
    if a.released ∧ s1.adapterPins adapter = 0 then
      let s2 := (s1.dropShard a.obj).releaseObj a.obj
      ({ s2 with wgt := { s2.wgt with adapters := AMap.erase s2.wgt.adapters adapter } }).wgtEvent (some a.ctx) 0 2 adapter 0 a.obj
    else s1

/-! What a playbook asks of a generation (R308 to R310). -/

/-- K as a part stores it: rounded up to whole micro-blocks (04 R114). -/
def storedK (k : Nat) : Nat := 32 * ceilDiv k 32

/-- The parts a weight entry declares: part number and expert. -/
def WgtEnt.declared (w : WgtEnt) : List (Nat × Nat) :=
  let es := if w.experts = 0 then [0xFFFF] else List.range w.experts
  ([0, 1, 2].filter (fun b => w.parts.testBit b)).flatMap (fun b => es.map (fun e => (b, e)))

/-- A part among the registered shards of a generation: its shard's block and itself. -/
def State.findPart (s : State) (set gen layer part expert : Nat) : Option (Nat × Part) :=
  (s.shardsOf set gen).findSome? (fun e =>
    (e.2.parts.find? (fun q => decide (q.layer = layer) && decide (q.part = part) && decide (q.expert = expert))).map (fun q => (e.1, q)))

/-- Whether element k of column n of a part's bytes is zero, in a format. -/
def elemZero (fmt nmb : Nat) (bs : List Byte) (k n : Nat) : Bool :=
  let sz := opDims fmt
  let at0 := (n / 32 * nmb + k / 32) * sz.1 + n % 32 * sz.2
  let e := k % 32
  if sz.2 = 64 then decide (leAt bs (at0 + 2 * e) 2 % 0x8000 = 0)
  else if sz.2 = 32 then decide (leAt bs (at0 + e) 1 % 128 = 0)
  else
    let nib := leAt bs (at0 + e / 2) 1 / (if e % 2 = 0 then 1 else 16) % 16
    if fmt = 0 then decide (nib % 8 = 0) else decide (nib = 0)

/-- The K elements of a layer that are whey channels (03 R80, R81). -/
def Plan.wheyElems (p : Plan) (layer : Nat) : List Nat :=
  match p.precEnt layer, p.layerEnt layer with
  | some e, some l =>
    if e.wheyOff = 0 then [] else
    (List.range e.wheyBlocks).flatMap (fun b =>
      ((p.whey[(e.wheyOff - p.wheyBase) / 64 + b]?.getD []).filter (fun x => x.testBit 15)).map (fun x =>
        b * (32 * l.kbMb) + x % 1024))
  | _, _ => []

/-- The padding elements along K of a layer (04 R114; 08 R212). -/
def Plan.padElems (p : Plan) (w : WgtEnt) : List Nat :=
  let tail := (List.range (storedK w.k - w.k)).map (w.k + ·)
  match p.convEnt w.layer with
  | none => tail
  | some c =>
    if 2 ≤ c.kind then tail else
    tail ++ (List.range (c.kh * c.kw)).flatMap (fun t =>
      (List.range (32 * c.tapBlocks - c.cg)).map (fun i => 32 * c.tapBlocks * t + c.cg + i))

/-- Check 3. -/
def State.partsMissing (s : State) (p : Plan) (set gen : Nat) : Code :=
  if p.wgt.all (fun w => w.declared.all (fun d => (s.findPart set gen w.layer d.1 d.2).isSome)) then 0 else E_WGT_MISSING
/-- Check 4. -/
def State.partsShape (s : State) (p : Plan) (set gen : Nat) : Code :=
  if p.wgt.all (fun w => w.declared.all (fun d => match s.findPart set gen w.layer d.1 d.2 with
    | none => false
    | some (_, q) =>
      decide (q.k = storedK w.k) && decide (q.n = w.n) &&
      (match p.precEnt w.layer with
       | none => false
       | some e => (d.1 != 0 || decide (q.fmt = e.bFmt)) && (d.1 != 1 || decide (q.bytes = 2048 * q.nt * e.wheyBlocks)))))
  then 0 else E_WGT_SHAPE

/-- One part-0 image against the zero elements asked of it: whey channels, then padding. -/
def partZeros (p : Plan) (w : WgtEnt) (q : Part) (bs : List Byte) : Code :=
  let zero (ks : List Nat) : Bool := ks.all (fun k => (List.range q.n).all (fun n => elemZero q.fmt (q.k / 32) bs k n))
  if !zero (p.wheyElems w.layer) then E_WHEY_OVERLAP
  else if !zero (p.padElems w) then E_PLAN_PAD
  else 0

/-- Check 5: the part-0 images read and looked at. -/
def State.partsZeros (s : State) (p : Plan) (set gen : Nat) : State × Code :=
  p.wgt.foldl (fun r w =>
    (w.declared.filter (fun d => d.1 == 0)).foldl (fun r d =>
      if r.2 ≠ 0 then r else
      match r.1.findPart set gen w.layer d.1 d.2 with
      | none => r
      | some (b, q) =>
        let t := r.1.anyRead (umpAccess 0xFFFF) (blockBytes * b + q.off) q.bytes
        (t.1, if t.2.1 ≠ 0 then t.2.1 else partZeros p w q t.2.2)) r) (s, 0)

/-- Checks 3 to 5 of R310 for one playbook: the code and the number of the check that fails. -/
def State.genCheck (s : State) (p : Plan) (set gen : Nat) : State × Code × Nat :=
  let c3 := s.partsMissing p set gen
  if c3 ≠ 0 then (s, c3, 3) else
  let c4 := s.partsShape p set gen
  if c4 ≠ 0 then (s, c4, 4) else
  let r := s.partsZeros p set gen
  (r.1, r.2, if r.2 = 0 then 0 else 5)

/-! Registration (R307, R317, R321, R324, R328). -/

/-- Whether a request may register into, commit or abort a set: a management mailbox for a shared one, the owning context for a
private one. -/
def WSet.mayManage (w : WSet) (r : Req) : Bool := if w.shared then isMgmt r.mbx else decide (w.owner = r.ctx)

/-- The place of the next registration. -/
def State.nextShard (s : State) : Nat := (s.wgt.shards.map (fun e => e.2.order)).foldl max 0 + 1
/-- Check 1 of a registration (R321): the set named, the context's right to it, and the shard's own flags. -/
def State.registerPerm (s : State) (r : Req) (set : Nat) (o : Option Obj) : Bool :=
  decide (1 ≤ set) && decide (set ≤ 63) &&
  (match s.wset set with
   | some w => w.mayManage r
   | none => isMgmt r.mbx || s.wgt.priv.contains r.ctx) &&
  (match o with
   | none => true
   | some ob =>
     let shared := match s.wset set with | some w => w.shared | none => isMgmt r.mbx
     if shared then ob.flags.testBit 0 else !ob.flags.testBit 0 && decide (ob.owner = some r.ctx))

/-- The parts of a shard object: the code of check 4, or the parts; a read that fails gives its own code. -/
def State.shardHeader (s : State) (b : Nat) (o : Obj) : State × Code × List Part :=
  let h := s.anyRead (umpAccess 0xFFFF) (blockBytes * b) (min 128 o.size)
  if h.2.1 ≠ 0 then (h.1, h.2.1, []) else
  let n := leAt h.2.2 6 2
  let t := h.1.anyRead (umpAccess 0xFFFF) (blockBytes * b) (min (128 + 32 * min n 1024) o.size)
  if t.2.1 ≠ 0 then (t.1, t.2.1, []) else
  match (if o.size < 128 then none else shardParts t.2.2 o.size) with
  | none => (t.1, E_WGT_FORMAT, [])
  | some ps => (t.1, 0, ps)

/-- MSG_SHARD_REGISTER: checks 1 to 4; its response follows SHARD_HASH_COMPLETE. -/
def execMsgShardRegister (mbx : Nat) (s : State) : Host.Outcome State Fault Refusal :=
  .next (serve 0x0300 mbx (fun r s =>
    let addr := r.fld 0 8
    let set := r.fld 8 1
    let recallTier := r.fld 9 1
    let own := s.ownObj r addr false
    let b := addr / blockBytes
    if !s.registerPerm r set (own.map (·.2)) then s.refuse r E_WGT_PERM 6
    else if (own.isSome && (AMap.find? s.wgt.shards b).isSome) || decide (1 < recallTier) then s.refuse r E_WGT_STATE 6
    else
      let w := (s.wset set).getD ⟨isMgmt r.mbx, r.ctx, 1, []⟩
      let staged := w.genIn 0
      if staged = 0 ∧ 8 ≤ w.gens.length then s.refuse r E_WGT_GENS 6
      else match own with
        | none => s.refuse r E_OBJ_UNMAPPED 6
        | some (_, o) =>
          let h := s.shardHeader b o
          let gen := if staged = 0 then w.next else staged
          let others := (h.1.shardsOf set gen).flatMap (fun e => e.2.parts)
          if h.2.1 ≠ 0 then h.1.refuse r h.2.1 6
          else if h.2.2.any (fun q => others.any (fun x => x.same q)) then h.1.refuse r E_WGT_FORMAT 6
          else
            let w1 := if staged = 0 then { w with next := w.next + 1, gens := AMap.insert w.gens gen ⟨0, false⟩ } else w
            (h.1.setWset set w1).setShard b ⟨set, gen, 0, r.ctx, recallTier, false, false, h.2.2, some r, h.1.counter.toNat, [], h.1.nextShard⟩) s)

/-- The lowest free adapter id. -/
def State.freeAdapter (s : State) : Nat := AMap.lowestFree s.wgt.adapters (s.wgt.adapters.length + 1) 1

/-- MSG_ADAPTER_REGISTER (R317, R328): its response follows SHARD_HASH_COMPLETE. -/
def execMsgAdapterRegister (mbx : Nat) (s : State) : Host.Outcome State Fault Refusal :=
  .next (serve 0x0304 mbx (fun r s =>
    let addr := r.fld 0 8
    let set := r.fld 8 1
    let b := addr / blockBytes
    match s.ownObj r addr false with
    | none => s.refuse r E_OBJ_UNMAPPED 2
    | some (_, o) =>
      if (AMap.find? s.wgt.shards b).isSome ∨ set = 0 ∨ 63 < set then s.refuse r E_WGT_STATE 2
      else if 256 ≤ (s.wgt.adapters.filter (fun e => decide (e.2.ctx = r.ctx))).length ∨ 4095 ≤ s.wgt.adapters.length then
        s.refuse r E_WGT_LIMIT 2
      else
        let h := s.shardHeader b o
        if h.2.1 ≠ 0 then h.1.refuse r h.2.1 2
        else if h.2.2.any (fun q => decide (q.part < 3)) then h.1.refuse r E_WGT_FORMAT 2
        else
          let id := h.1.freeAdapter
          let s1 := h.1.setShard b ⟨set, 0, id, r.ctx, 0, false, false, h.2.2, some r, h.1.counter.toNat, [], h.1.nextShard⟩
          { s1 with wgt := { s1.wgt with adapters := AMap.insert s1.wgt.adapters id ⟨b, r.ctx, set, false⟩ } }) s)

/-- The digest of a shard (R305): the code of a failed read, or the digest where it matches. -/
def State.shardDigest (s : State) (b : Nat) : State × Code × Option (List Byte) :=
  let h := s.anyRead (umpAccess 0xFFFF) (blockBytes * b) 128
  if h.2.1 ≠ 0 then (h.1, h.2.1, none) else
  let d := h.1.anyRead (umpAccess 0xFFFF) (blockBytes * b + 128) (leAt h.2.2 8 8 - 128)
  if d.2.1 ≠ 0 then (d.1, d.2.1, none)
  else (d.1, 0, if sha3 d.2.2 = bytesAt h.2.2 64 64 then some (bytesAt h.2.2 64 64) else none)

/-- A registration that fails its digest: the object is as it was before the request; a generation that it alone opened is no
longer staged. -/
def State.unregister (s : State) (b : Nat) (h : Shard) : State :=
  let s1 := s.dropShard b
  if h.gen = 0 then { s1 with wgt := { s1.wgt with adapters := AMap.erase s1.wgt.adapters h.adapter } }
  else if s1.shardsOf h.set h.gen = [] then
    match s1.wset h.set with
    | none => s1
    | some w => s1.setWset h.set { w with gens := AMap.erase w.gens h.gen }
  else s1

/-- The response of a registration: an adapter's id, or the staged generation. -/
def State.answerShard (s : State) (r : Req) (h : Shard) (code : Code) : State :=
  if h.gen = 0 then s.answer r code (leBytes 2 (if code = 0 then h.adapter else 0))
  else s.answer r code (leBytes 2 0 ++ leBytes 4 (if code = 0 then h.gen else 0))

/-- The client line of a context: the unattributed one for a context that is no client. -/
def lineOf (ctx : Nat) : Nat := if ctx < 1024 then ctx else 1024

/-- SHARD_HASH_COMPLETE: check 5 of R307, the hash time charged to the registering context, and the response. -/
def execShardHashComplete (obj : Nat) (s : State) : Host.Outcome State Fault Refusal :=
  .next <| match AMap.find? s.wgt.shards obj with
  | none => s
  | some h => match h.req with
    | none => s
    | some r =>
      let d := s.shardDigest obj
      let s1 := d.1.charge (lineOf h.owner) 3 (33 * (s.counter.toNat - h.since))
      if d.2.1 ≠ 0 then (s1.unregister obj h).answerShard r h d.2.1
      else match d.2.2 with
        | some g => (s1.setShard obj { h with registered := true, req := none, digest := g }).answerShard r h 0
        | none => (s1.unregister obj h).answerShard r h E_WGT_DIGEST

/-! Commit, bind, and the rest (R310, R316, R320 to R330). -/

/-- The staged generation discarded: registrations that still wait are answered with E_WGT_STATE (R325). -/
def State.abortGen (s : State) (set gen : Nat) (w : WSet) : State :=
  let s1 := (s.shardsOf set gen).foldl (fun s e => match e.2.req with
    | some q => (s.dropShard e.1).answerShard q e.2 E_WGT_STATE
    | none => s) s
  (s1.releaseGen set gen false).setWset set { w with gens := AMap.erase w.gens gen }

/-- The playbooks bound to a set. -/
def State.boundTo (s : State) (set : Nat) : List Playbook := (s.book.books.map (·.2)).filter (fun b => decide (b.set = set))

/-- Checks 1 to 5 of a commit. -/
def State.commitCheck (s : State) (set gen : Nat) : State × Code × Nat :=
  let hs := s.shardsOf set gen
  if gen = 0 ∨ hs = [] then (s, E_WGT_STATE, 1)
  else if hs.any (fun e => !e.2.registered || e.2.corrupt) then (s, E_WGT_CORRUPT, 2)
  else
    let step (k : Nat) (f : State → Plan → State × Code) (a : State × Code × Nat) : State × Code × Nat :=
      if a.2.1 ≠ 0 then a else
      (s.boundTo set).foldl (fun a b => if a.2.1 ≠ 0 then a else
        let q := f a.1 b.plan
        (q.1, q.2, if q.2 = 0 then 0 else k)) a
    let a3 := step 3 (fun s p => (s, s.partsMissing p set gen)) (s, 0, 0)
    let a4 := step 4 (fun s p => (s, s.partsShape p set gen)) a3
    step 5 (fun s p => s.partsZeros p set gen) a4

/-- The pointer switch (R310). -/
def State.switchGen (s : State) (set gen : Nat) (keep : Bool) : State :=
  match s.wset set with
  | none => s
  | some w =>
    let old := w.genIn 1
    let gs := AMap.insert (AMap.adjust w.gens old (fun g => { g with st := 2 })) gen ⟨1, keep⟩
    let s1 := s.setWset set { w with gens := gs }
    if old ≠ 0 ∧ s1.pins set old = 0 then s1.retireGen set old else s1

/-- The current generation of a set; 0 for none. -/
def State.currentGen (s : State) (set : Nat) : Nat := match s.wset set with | some w => w.genIn 1 | none => 0

/-- MSG_WGT_COMMIT (R310, R325). -/
def execMsgWgtCommit (mbx : Nat) (s : State) : Host.Outcome State Fault Refusal :=
  .next (serve 0x0301 mbx (fun r s =>
    let set := r.fld 0 1
    let flags := r.fld 1 1
    let resp (s : State) (code : Code) (check : Nat) : State :=
      s.answer r code ([BitVec.ofNat 8 check, 0] ++ leBytes 4 (s.currentGen set))
    match s.wset set with
    | none => resp s E_WGT_STATE 1
    | some w =>
      if !w.mayManage r then resp s E_WGT_PERM 0
      else
        let gen := w.genIn 0
        if flags.testBit 1 then
          if gen = 0 then resp s E_WGT_STATE 1 else resp (s.abortGen set gen w) 0 0
        else
          let c := s.commitCheck set gen
          if c.2.1 ≠ 0 then resp c.1 c.2.1 c.2.2 else resp (c.1.switchGen set gen (flags.testBit 0)) 0 0) s)

/-- The live sequences of a playbook. -/
def State.seqsOf (s : State) (book : Nat) : AMap Seq := s.sch.seqs.filter (fun e => decide (e.2.playbook = book))

/-- MSG_WGT_BIND (R326). -/
def execMsgWgtBind (mbx : Nat) (s : State) : Host.Outcome State Fault Refusal :=
  .next (serve 0x0302 mbx (fun r s =>
    let court := r.fld 0 1
    let set := r.fld 1 1
    let id := r.fld 4 4
    match AMap.find? s.book.books id with
    | none => s.refuse r E_SCH_ARG 0
    | some b =>
      if b.court ≠ court ∨ b.ctx ≠ r.ctx then s.refuse r E_SCH_ARG 0
      else
        let bound (s : State) : State :=
          { s with book := { s.book with books := AMap.insert s.book.books id { b with set := set } } }
        if set = 0 then
          if s.seqsOf id ≠ [] then s.refuse r E_WGT_STATE 0 else (bound s).answer r 0 []
        else match s.wset set with
          | none => s.refuse r E_WGT_STATE 0
          | some w =>
            if !w.shared ∧ w.owner ≠ b.ctx then s.refuse r E_WGT_PERM 0
            else if s.seqsOf id ≠ [] then s.refuse r E_WGT_STATE 0
            else
              let cur := w.genIn 1
              let c := if cur = 0 then (s, (0 : Code), 0) else s.genCheck b.plan set cur
              if c.2.1 ≠ 0 then c.1.refuse r c.2.1 0 else (bound c.1).answer r 0 []) s)

/-- MSG_ADAPTER_RELEASE (R320, R328). -/
def execMsgAdapterRelease (mbx : Nat) (s : State) : Host.Outcome State Fault Refusal :=
  .next (serve 0x0305 mbx (fun r s =>
    let id := r.fld 0 2
    match AMap.find? s.wgt.adapters id with
    | none => s.refuse r E_WGT_STATE 0
    | some a =>
      if a.ctx ≠ r.ctx ∧ !isMgmt r.mbx then s.refuse r E_WGT_PERM 0
      else if a.released || (match AMap.find? s.wgt.shards a.obj with | some h => !h.registered | none => true) then
        s.refuse r E_WGT_STATE 0
      else
        let s1 := { s with wgt := { s.wgt with adapters := AMap.insert s.wgt.adapters id { a with released := true } } }
        (s1.pinsFell 0 0 id).answer r 0 []) s)

/-- MSG_WGT_PRIV (R321, R329). -/
def execMsgWgtPriv (mbx : Nat) (s : State) : Host.Outcome State Fault Refusal :=
  .next (serve 0x0306 mbx (fun r s =>
    let ctx := r.fld 0 2
    let act := r.fld 2 1
    let rest := s.wgt.priv.filter (· ≠ ctx)
    if 1023 < ctx ∨ 1 < act then s.refuse r E_WGT_STATE 0
    else if act = 0 then ({ s with wgt := { s.wgt with priv := rest } }).answer r 0 []
    else if 8 ≤ rest.length then s.refuse r E_WGT_LIMIT 0
    else ({ s with wgt := { s.wgt with priv := rest ++ [ctx] } }).answer r 0 []) s)

/-- MSG_WGT_QUERY (R330). -/
def execMsgWgtQuery (mbx : Nat) (s : State) : Host.Outcome State Fault Refusal :=
  .next (serve 0x0307 mbx (fun r s =>
    let set := r.fld 0 1
    match s.wset set with
    | none => s.refuse r E_WGT_STATE 22
    | some w =>
      let cur := w.genIn 1
      let retiring := ((w.gens.filter (fun e => e.2.st == 2)).map (fun e => s.pins set e.1)).sum
      let held := (s.wgt.shards.filter (fun e => decide (e.2.set = set) && decide (e.2.gen ≠ 0))).map (fun e =>
        match AMap.find? s.tier.objs e.1 with | some o => o.size | none => 0)
      s.answer r 0 ([BitVec.ofNat 8 w.gens.length,
        BitVec.ofNat 8 (b2n w.shared + 2 * b2n (w.genIn 0 != 0) + 4 * b2n (cur != 0 && s.genCorrupt set cur))] ++
        leBytes 4 cur ++ leBytes 4 (s.pins set cur) ++ leBytes 4 retiring ++ leBytes 8 held.sum)) s)

/-- One shard of a digest pass (R323): hashed again, and marked corrupt where its digest no longer matches. -/
def State.digestOne (s : State) (b : Nat) (h : Shard) : State :=
  let d := s.shardDigest b
  if d.2.2.isSome ∨ h.corrupt then d.1
  else
    let party := if h.gen = 0 then some h.owner else (match d.1.wset h.set with | some w => w.party | none => none)
    let s1 := d.1.setShard b { h with corrupt := true }
    let s2 := { s1 with wgt := { s1.wgt with failures := min 65535 (s1.wgt.failures + 1) } }
    let s3 := s2.raise { FRec.mk0 E_WGT_CORRUPT 1 (ident 2 1024) with ctx := h.owner, addr := blockBytes * b }
    s3.wgtEvent party (if h.gen = 0 then 0 else h.set) 0 h.adapter h.gen b

/-- DIGEST_PASS: every registered shard hashed again, where the passes are enabled (R323). -/
def execDigestPass (s : State) : Host.Outcome State Fault Refusal :=
  .next <|
    if !s.wgt.digOn then s
    else
      let s1 := (s.wgt.shards.filter (fun e => e.2.registered)).foldl (fun s e => s.digestOne e.1 e.2) s
      { s1 with wgt := { s1.wgt with passes := s1.wgt.passes + 1 } }

end Sys2Proof.Machine
end

