-- ==== Sys2Proof/Machine/Slots.lean ====
section
/-! DEFINITION. State slots, state tiles and stream images (07 R182 to R199), and the placement of bench images (07 R229, 14
R365). -/
namespace Sys2Proof.Machine

/-! Courts by their records. -/

/-- The dies of a court record, ascending. -/
def CourtRec.dieList (c : CourtRec) : List Nat := (List.range 40).filter (fun d => c.dies.testBit d)
/-- The logical core of a court rank (07 R188). -/
def CourtRec.coreAt (c : CourtRec) (rank : Nat) : Option Nat :=
  (c.dieList[rank / 625]?).map (fun d => 625 * d + rank % 625)
/-- A court's record, with nothing in it where the court is not defined. -/
def State.court (s : State) (c : Nat) : CourtRec := (s.courtRec c).getD ⟨false, 0, 0, 0, 0, false, 0, 0, []⟩

/-- Whether a logical core may be given work: it has a physical core and its cluster is not degraded (02 R62, R63). -/
def State.coreUsable (s : State) (k : Nat) : Bool := (s.physOf k).isSome && !(s.clu (k / 25)).degraded

/-! Slots (R189). -/

/-- Tiles of a layer per sequence. -/
def RecEnt.tiles (r : RecEnt) : Nat := r.channels * 2 ^ r.nsLog2 / 1024
/-- Slots of a layer. -/
def RecEnt.slots (r : RecEnt) : Nat := if r.tiles = 0 then 0 else r.coreCount * r.tilesPerCore / r.tiles
/-- The court rank and the offset in the state-tile region of tile `t` of slot `k`. -/
def RecEnt.place (r : RecEnt) (k t : Nat) : Nat × Nat :=
  let p := k * r.tiles + t
  (r.coreFirst + p / r.tilesPerCore, p % r.tilesPerCore * 6144)

namespace Plan
/-- The recurrent entries by ascending state index. -/
def recsByIndex (p : Plan) : List RecEnt := ((p.recs.foldl (fun m r => AMap.insert m r.stateIndex r) []).map (·.2))
/-- Tiles of a stream over all recurrent layers. -/
def streamTiles (p : Plan) : Nat := (p.recs.map RecEnt.tiles).sum
/-- Bytes of a stream image (R197). -/
def imageLen (p : Plan) : Nat := 128 + 64 * ceilDiv (8 * p.recs.length) 64 + 6144 * p.streamTiles
/-- The offset in accumulator memory of the state-tile region of a layer. -/
def stateBase (p : Plan) (layer : Nat) : Nat :=
  match p.layerEnt layer with
  | none => 0
  | some l => ((p.regionsOf l).findSome? (fun i => match p.regions[i]? with
      | some r => if r.role = 10 then some r.offset else none
      | none => none)).getD 0
/-- Whether a playbook carries state, and whether its sequences are futures (07 R188, 09 R224). -/
def hasState (p : Plan) : Bool := !p.recs.isEmpty
def isRollout (p : Plan) : Bool := !p.roll.isEmpty
end Plan

/-- The court ranks that hold a position of slot `k`. -/
def RecEnt.ranks (r : RecEnt) (k : Nat) : List Nat :=
  let a := (r.place k 0).1
  (List.range ((r.place k (r.tiles - 1)).1 + 1 - a)).map (a + ·)
/-- Whether slot `k` is usable on a court. -/
def State.slotUsable (s : State) (c : CourtRec) (p : Plan) (k : Nat) : Bool :=
  p.recs.all (fun r => decide (k < r.slots) && (r.ranks k).all (fun i => match c.coreAt i with
    | some core => s.coreUsable core
    | none => false))
/-- The slot indices that every recurrent layer has. -/
def Plan.slotCount (p : Plan) : Nat := match p.recs.map RecEnt.slots with | [] => 0 | n :: ns => ns.foldl min n
/-- The resident-stream limit. -/
def State.residentLimit (s : State) (c : CourtRec) (p : Plan) : Nat :=
  ((List.range p.slotCount).filter (s.slotUsable c p)).length
/-- Whether a slot of a playbook is held by a sequence. -/
def State.slotHeld (s : State) (book k : Nat) : Bool :=
  s.sch.seqs.any (fun e => decide (e.2.playbook = book) && decide (e.2.stream.slot = some k))
/-- The lowest usable free slot of a playbook. -/
def State.freeSlot (s : State) (book : Nat) : Option Nat :=
  match AMap.find? s.book.books book with
  | none => none
  | some b => (List.range b.plan.slotCount).find? (fun k => s.slotUsable (s.court b.court) b.plan k && !s.slotHeld book k)

/-! State tiles. -/

/-- Where the tiles of a slot lie, in the order of an image: physical core and accumulator address; none where the core of a
position is unusable. -/
def State.tilePlaces (s : State) (c : CourtRec) (p : Plan) (k : Nat) : List (Option Nat × Nat) :=
  p.recsByIndex.flatMap (fun r => (List.range r.tiles).map (fun t =>
    let q := r.place k t
    ((c.coreAt q.1).bind s.physOf, p.stateBase r.layer + q.2)))
/-- The bytes of a slot's tiles. -/
def State.readTiles (s : State) (c : CourtRec) (p : Plan) (k : Nat) : List Byte :=
  (s.tilePlaces c p k).flatMap (fun q => match q.1 with
    | some ph => Mem.rdBytes (s.core ph).now.am q.2 6144
    | none => List.replicate 6144 0)
/-- Tiles written into a slot. -/
def State.writeTiles (s : State) (c : CourtRec) (p : Plan) (k : Nat) (bs : List Byte) : State :=
  (((s.tilePlaces c p k).foldl (fun (r : State × List Byte) q => (match q.1 with
    | some ph => r.1.modCore ph (fun x => { x with am := Mem.wrBytes x.am q.2 (r.2.take 6144) })
    | none => r.1, r.2.drop 6144)) (s, bs))).1
/-- Every element of a slot's tiles set to zero (R192). -/
def State.clearTiles (s : State) (c : CourtRec) (p : Plan) (k : Nat) : State :=
  (s.tilePlaces c p k).foldl (fun s q => match q.1 with
    | some ph => s.modCore ph (fun x => { x with am := Mem.clear x.am q.2 6144 })
    | none => s) s

/-! Stream images (R197). -/

/-- The directory of an image, padded. -/
def Plan.imageDir (p : Plan) : List Byte :=
  bytesAt (p.recsByIndex.flatMap (fun r => leBytes 2 r.stateIndex ++ [BitVec.ofNat 8 r.nsLog2, 0] ++ leBytes 4 r.tiles))
    0 (64 * ceilDiv (8 * p.recs.length) 64)
/-- An image: directory and tiles given, with a digest where asked. -/
def Plan.image (p : Plan) (seqNo : W64) (book gen : Nat) (digest : Bool) (tiles : List Byte) : List Byte :=
  let rest := p.imageDir ++ tiles
  leBytes 4 0x38345345 ++ [1, 0, BitVec.ofNat 8 (b2n digest), 0] ++ leBytes 2 p.recs.length ++ leBytes 2 0 ++
    leBytes 4 p.streamTiles ++ leBytes 8 seqNo.toNat ++ leBytes 4 book ++ leBytes 4 gen ++ leBytes 32 0 ++
    (if digest then sha3 rest else leBytes 64 0) ++ rest
/-- The tiles of an image. -/
def Plan.imageTiles (p : Plan) (img : List Byte) : List Byte := img.drop (128 + 64 * ceilDiv (8 * p.recs.length) 64)

/-- Checks 1 to 4 of an import (R199): `expect` where the number is checked. -/
def Plan.imageCode (p : Plan) (img : List Byte) (len : Nat) (expect : Option Nat) : Code :=
  let l := leAt img 8 2
  let dir := 64 * ceilDiv (8 * l) 64
  let ok := decide (192 ≤ img.length) && decide (img.length = len) && decide (leAt img 0 4 = 0x38345345) && decide (leAt img 4 1 = 1) &&
    decide (leAt img 6 1 = 1) && zeroAt img 7 1 && decide (1 ≤ l) && decide (l ≤ 4096) && zeroAt img 10 2 && zeroAt img 32 32 &&
    decide (len = 128 + dir + 6144 * leAt img 12 4) && zeroAt img (128 + 8 * l) (dir - 8 * l) &&
    (List.range l).all (fun i => zeroAt img (128 + 8 * i + 3) 1) &&
    decide (((List.range l).map (fun i => leAt img (128 + 8 * i + 4) 4)).sum = leAt img 12 4)
  if !ok then E_STATE_IMAGE
  else if sha3 (img.drop 128) ≠ bytesAt img 64 64 then E_STATE_DIGEST
  else if bytesAt img 128 dir ≠ p.imageDir then E_STATE_LAYOUT
  else match expect with
    | none => 0
    | some e => if leAt img 16 8 = e then 0 else E_STATE_SEQ

/-! Bench images. -/

/-- Bytes of bench images a context holds in the fresh tier, each rounded up to 4 KiB (14 R355, R363; 20 R510). -/
def State.benchBytes (s : State) (ctx : Nat) : Nat :=
  ((s.sch.benches.filter (fun e => decide (e.2.ctx = ctx))).map (fun e => match AMap.find? s.tier.objs e.1 with
    | some o => if s.objTier e.1 o = 0 then 4096 * ceilDiv e.2.len 4096 else 0
    | none => 0)).sum

/-- The image of a bench object just created, written and charged; none where it could not be created. -/
def benchMade (c : State × Code × Nat) (ctx : Nat) (img : List Byte) (seqNo : W64) : Option (State × Nat) :=
  if c.2.1 ≠ 0 then none
  else
    let b := c.2.2 / blockBytes
    let w := c.1.objWrite (umpAccess ctx) c.2.2 img
    let s1 := { w.1 with sch := { w.1.sch with benches := AMap.insert w.1.sch.benches b ⟨ctx, img.length, 0, seqNo⟩ } }
    some (s1.chargeBytes (lineOf ctx) true c.2.2 img.length, b)

/-- A bench image made for a context: an object of its own, held by nobody yet; none where the bench quota, the fresh quota or
the free fresh space does not allow it (14 R365). -/
def State.makeBench (s : State) (ctx : Nat) (img : List Byte) (seqNo : W64) : Option (State × Nat) :=
  let quota := match s.ctxRec ctx with | some c => c.benchQuota | none => 0
  if quota < s.benchBytes ctx + 4096 * ceilDiv img.length 4096 then none
  else benchMade (s.createObj (some ctx) .bench img.length 0 0) ctx img seqNo

def State.addHolder (s : State) (b : Nat) : State :=
  { s with sch := { s.sch with benches := AMap.adjust s.sch.benches b (fun x => { x with holders := x.holders + 1 }) } }
/-- A bench image freed; no boundary's branch image is it any more. -/
def State.freeBench (s : State) (b : Nat) : State :=
  ({ s with sch := { s.sch with
    benches := AMap.erase s.sch.benches b
    seqs := s.sch.seqs.map (fun (e : Nat × Seq) => (e.1, if e.2.branchImg = some b then { e.2 with branchImg := none } else e.2)) } }).releaseObj b
/-- A holder gone: the image is freed when none is left (09 R229). -/
def State.dropHolder (s : State) (b : Nat) : State :=
  match AMap.find? s.sch.benches b with
  | none => s
  | some x =>
    if x.holders ≤ 1 then s.freeBench b
    else { s with sch := { s.sch with benches := AMap.insert s.sch.benches b { x with holders := x.holders - 1 } } }

def State.seq (s : State) (i : Nat) : Option Seq := AMap.find? s.sch.seqs i
def State.setSeq (s : State) (i : Nat) (q : Seq) : State := { s with sch := { s.sch with seqs := AMap.insert s.sch.seqs i q } }
def State.modSeq (s : State) (i : Nat) (f : Seq → Seq) : State := { s with sch := { s.sch with seqs := AMap.adjust s.sch.seqs i f } }
/-- The playbook a sequence runs. -/
def State.bookOf (s : State) (q : Seq) : Option Playbook := AMap.find? s.book.books q.playbook

/-- A stream whose image is object `r.2` of the state `r.1`: it is benched. -/
def benchInto (r : State × Nat) (i tick : Nat) : State :=
  (r.1.addHolder r.2).modSeq i (fun q => { q with
    stream := { q.stream with st := .benched, slot := none, image := none, bench := some r.2 }, benchedAt := tick })
/-- A stream of a playbook `b`, resident in slot `k`, made a bench image without a digest. -/
def State.benchFrom (s : State) (i : Nat) (q : Seq) (b : Playbook) (k : Nat) : Option State :=
  (s.makeBench q.ctx (b.plan.image q.stream.seqNo q.playbook q.gen false (s.readTiles (s.court b.court) b.plan k)) q.stream.seqNo).map
    (fun r => benchInto r i s.counter.toNat)

/-- A resident stream's state as a bench image; none where no image can be made (07 R197, 14 R365). -/
def State.benchSeq (s : State) (i : Nat) : Option State :=
  match s.seq i with
  | none => none
  | some q => match s.bookOf q, q.stream.slot with
    | some b, some k => s.benchFrom i q b k
    | _, _ => none

end Sys2Proof.Machine
end

