-- ==== Sys2Proof/Machine/Books.lean ====
section
/-! DEFINITION. Loading, replacing and installing playbooks (04 R112, R120 to R124), and the fallback monitor (03 R87 to R95). -/
namespace Sys2Proof.Machine

/-! Court fit: check 13 (R121). -/

/-- Reserved bytes at the top of a tile buffer and of a staging buffer (CLU_CFG). -/
def tbReserveBytes (c : Nat) : Nat := match c with | 0 => 0 | 1 => 16384 | 2 => 32768 | _ => 65536
def stgReserveBytes (c : Nat) : Nat := 262144 * (c % 4 + 1)

/-- Bytes of a plan's kernel images. -/
def Plan.kernelBytes (p : Plan) : Nat := 16 * (p.kernels.map (fun k => k.bundles.length)).sum

/-- The playbooks of a court whose regions count beside a new one's: loaded ones, and replacements that wait, but the one
replaced (R100, R123, 14 R362). -/
def State.othersIn (s : State) (court old : Nat) : List Playbook :=
  ((s.book.books.filter (fun e => decide (e.2.court = court) && decide (e.1 ≠ old))).map (·.2))

/-- Bytes of the FP32 output of `rows` rows of a layer at a shape vector (05 R154, R155). -/
def Layer.outBytes (l : Layer) (sv : List Nat) (rows : Nat) : Nat := 4 * (rows * l.extent sv 2 * l.extent sv 4)
/-- Whether a layer ends in a huddle on the court, or in a ring huddle (05 R154). -/
def Plan.huddled (p : Plan) (l : Layer) : Bool :=
  (match p.attEnt l.layer with | some a => a.role == 0 | none => true) && (l.splits 3).any (fun x => decide (1 ≤ x.1))
/-- The product of split counts. -/
def splitProduct (sp : List (Nat × Nat)) : Nat := sp.foldl (fun n x => n * x.2) 1
/-- Bytes of one partial record (05 R152). -/
def AttEnt.recordBytes (a : AttEnt) : Nat := 256 + 32 * (32 * a.dblk) * 4
/-- The query heads of an attention entry. -/
def AttEnt.heads (a : AttEnt) : Nat := a.qPerKv * a.kvHeads * a.groups

/-- The partial records of a layer (05 R152; 08 R221): the dimensions whose split makes the units, the units, the records of a row tile in
each unit, and the bytes of one; whether the coach merges them by the arg-max rule itself. -/
structure Merging where
  dims : List Nat
  units : Nat
  heads : Nat
  bytes : Nat
  scan : Bool
/-- The partial records a layer asks for: a read layer with a key split; an arg-max layer with its channels split across cores, whose
records hold 32 values and 32 indices (log entry 83). -/
def Plan.merging (p : Plan) (l : Layer) : Option Merging :=
  match p.attEnt l.layer with
  | some a => if a.role = 1 ∧ l.splits 3 ≠ [] then some ⟨[3], splitProduct (l.splits 3), a.heads, a.recordBytes, false⟩ else none
  | none => match p.convEnt l.layer with
    | some c =>
      let u := splitProduct (l.splits 2 ++ l.splits 4)
      if c.flags.testBit 1 ∧ c.kind < 2 ∧ 1 < u ∧ !p.huddled l ∧ !p.roll.any (fun r => r.scoreLayer == l.layer) then some ⟨[2, 4], u, 1, 256, true⟩ else none
    | none => none

/-- The parts that the splits of Y and X cut a spatial layer into, and the row tiles of the largest. -/
def Layer.regions (l : Layer) : Nat := splitProduct (l.splits 5 ++ l.splits 6)
def Layer.regionTiles (l : Layer) (y x : Nat) : Nat :=
  ceilDiv (ceilDiv y (splitProduct (l.splits 5)) * ceilDiv x (splitProduct (l.splits 6))) 32
/-- Whether a layer's rows are dealt as regions of Y and X. -/
def Layer.byRegion (l : Layer) : Bool := l.spatial && !(l.splits 5 ++ l.splits 6).isEmpty
/-- Row tiles of a layer in a step at planned maxima: every sequence may begin a row tile of its own (05 R137; 12 R314). -/
def Layer.tilesMax (l : Layer) (sv : List Nat) (seqs : Nat) : Nat :=
  if l.byRegion then l.regions * l.regionTiles (l.extent sv 5) (l.extent sv 6)
  else (l.extent sv 1 + 31 * min seqs (l.extent sv 1)) / 32
/-- Bytes of the partial records of `tiles` row tiles of a layer. -/
def Plan.mergeBytes (p : Plan) (l : Layer) (tiles : Nat) : Nat :=
  match p.merging l with
  | some m => tiles * m.heads * m.units * m.bytes
  | none => 0
/-- What a step at a shape vector takes of the court's huddle area, its layers having `rows` rows and `tiles` row tiles. -/
def Plan.huddleNeed (p : Plan) (sv : List Nat) (rows tiles : Layer → Nat) : Nat :=
  (p.layers.map (fun l => (if p.huddled l then 64 * ceilDiv (l.outBytes sv (rows l)) 64 + 64 else 0) +
    64 * ceilDiv (p.mergeBytes l (tiles l)) 64)).sum

/-- Regions whose contents outlive a run: state tiles and staging. -/
def Plan.lasting (p : Plan) : List (Region × Nat) := p.sized.filter (fun r => r.1.role == 10 || decide (r.1.store = 2))

/-- Whether a playbook has a score layer (09 R235). -/
def Plan.scored (p : Plan) : Bool := p.roll.any (fun r => r.scoreLayer != 0xFFFF)

/-- KiB of the tensors of a plan at planned maxima, a layer that may fall back in the larger of its formats (03 R88). -/
def Plan.tensorKib (p : Plan) : Nat :=
  if p.tensors = [] then 0
  else ceilDiv (Config.tensorBytes p.tensors p.shapeMax
    (p.prec.map (fun e => (e.layer, e.aFmt, if e.policy = 1 then e.aFmt else e.fbFmt)))) 1024

/-- Check 13 of a plan of a context on a court of record `c`; `old`: the playbook it replaces. -/
def State.fitFail (s : State) (c : CourtRec) (court ctx : Nat) (p : Plan) (old : Nat) : Option PlanFail :=
  let others := s.othersIn court old
  let stgEnd := 4194304 - stgReserveBytes c.stgReserve
  let images := p.kernelBytes + ((others.map (fun b => b.plan.kernelBytes)).sum)
  let limit (store : Nat) : Nat :=
    if store = 0 then 393216 - tbReserveBytes c.tbReserve else if store = 1 then 196608 else stgEnd - images
  let nofit (ok : Bool) (layer item : Nat) := need ok E_PLAN_NOFIT 13 layer item
  let seqs := if c.roster then c.stepSeqs else match s.ctxRec ctx with | some x => x.maxSeqs | none => 1
  let freeQ := AMap.getD s.tier.limit 0 (4 * ctx) - AMap.getD s.tier.used 0 (4 * ctx)
  firstFail [
    nofit (decide (p.minDies ≤ c.dieList.length)) noItem noItem,
    nofit (decide (images ≤ stgEnd)) noItem noItem,
    eachFail p.sized (fun i r => nofit (decide (r.1.offset + r.2 ≤ limit r.1.store)) noItem i),
    nofit (others.all (fun b => b.plan.sized.all (fun r => r.1.store != 2 || decide (r.1.offset + r.2 ≤ stgEnd - images)))) noItem noItem,
    nofit (p.lasting.all (fun r => others.all (fun b => b.plan.lasting.all (fun q => !shareBytes r q)))) noItem noItem,
    nofit (match p.att with
      | [] => true
      | a :: _ => c.pools.any (fun x => decide (x.1 ≠ 0) && decide (x.2.1 = a.stride))) noItem noItem,
    eachFail p.recs (fun i r => nofit (decide (r.coreFirst + r.coreCount ≤ 625 * c.dieList.length)) r.layer i),
    nofit (p.recs.isEmpty || decide (1 ≤ s.residentLimit c p)) noItem noItem,
    nofit (decide (p.huddleNeed p.shapeMax (fun l => l.extent p.shapeMax 1) (fun l => l.tilesMax p.shapeMax seqs) ≤ c.huddleBytes))
      noItem noItem,
    nofit (decide (p.tensorKib ≤ 4 * freeQ)) noItem noItem,
    nofit (!p.scored || (AMap.find? s.sch.scores old).isSome || (decide (64 ≤ freeQ) && s.hasRoom 0 64 &&
      decide (s.allocBlocks < 536870912))) noItem noItem]

/-! Kernel images in the staging buffers (R112, R122). -/

/-- The kernel images of a court: those of every playbook in it, by identifier. -/
def State.kernelImage (s : State) (court : Nat) : List Byte :=
  (s.othersIn court 0).flatMap (fun b => b.plan.kernels.flatMap (fun k => k.bundles.flatMap (fun x => leBytes 16 x.toNat)))
/-- The images placed directly below the staging reserve of every cluster of a court. -/
def State.stageKernels (s : State) (court : Nat) : State :=
  let img := s.kernelImage court
  let top := 4194304 - stgReserveBytes (s.court court).stgReserve
  ((s.courtDies court).flatMap (fun d => (List.range 25).map (25 * d + ·))).foldl
    (fun s n => s.modClu n (fun c => { c with staging := Mem.wrBytes c.staging (top - img.length) img })) s

/-! The monitor's records (03 R89 to R91). -/

def fbKey (court layer : Nat) : Nat := 4096 * court + layer
def State.fbRec (s : State) (court layer : Nat) : Option FbRec := AMap.find? s.book.fb (fbKey court layer)
def State.setFb (s : State) (court layer : Nat) (r : FbRec) : State :=
  { s with book := { s.book with fb := AMap.insert s.book.fb (fbKey court layer) r } }
/-- The playbooks of a court that are in service. -/
def State.booksIn (s : State) (court : Nat) : AMap Playbook :=
  s.book.books.filter (fun e => decide (e.2.court = court) && e.2.installed)
/-- The records of a plan's layers, as its load or installation as playbook `id` leaves them (R91). A record that another playbook of the
court in service shares by its layer number stands, but that a forced layer starts in fallback (DESIGN CHOICE, log entry 81: the record is
the court's and the layer's, R89, and only a reload or MSG_FALLBACK_SET ends a fallback). -/
def State.startFb (s : State) (court id : Nat) (p : Plan) : State :=
  p.prec.foldl (fun s e =>
    match s.fbRec court e.layer,
        (s.booksIn court).any (fun b => decide (b.1 ≠ id) && (b.2.plan.precEnt e.layer).isSome) with
    | some r, true => s.setFb court e.layer { r with fallback := r.fallback || e.policy == 2 }
    | _, _ => s.setFb court e.layer ⟨e.policy == 2, e.policy, e.threshold, e.window, 0, 0, 0, 0, 0⟩) s
/-- Whether a layer runs in fallback in a step formed now (R90). -/
def State.layerMode (s : State) (court : Nat) (e : PrecEnt) : Bool :=
  e.policy != 1 && (match s.fbRec court e.layer with | some r => r.fallback | none => false)

/-- MSG_FALLBACK_EVENT (R95): the mailbox of each playbook that holds the layer, and every management mailbox, once. -/
def State.fbEvent (s : State) (court reason layer : Nat) (mode : Bool) (rate threshold : Nat) : State :=
  let body := [BitVec.ofNat 8 court, BitVec.ofNat 8 reason] ++ leBytes 2 layer ++ [BitVec.ofNat 8 (b2n mode), 0, 0, 0] ++
    leBytes 4 rate ++ leBytes 4 threshold ++ leBytes 8 s.counter.toNat
  let ms := (((s.booksIn court).filter (fun e => (e.2.plan.precEnt layer).isSome)).map (fun e => e.2.mbx)).eraseDups
  let s1 := (ms.filter (fun m => !isMgmt m)).foldl (fun s m => s.event m 0x0222 0xFFFF body) s
  s1.eventMgmt 0x0222 0xFFFF body

/-- Steps per window in force. -/
def State.windowOf (s : State) (r : FbRec) : Nat := if r.window = 0 then s.book.fbWindow.toNat else r.window

/-- A step of the court has completed: the layer's counts, for a layer with policy auto (R89). -/
def State.fbStep (s : State) (court layer sat elems : Nat) : State :=
  match s.fbRec court layer with
  | none => s
  | some r => if r.policy = 0 then s.setFb court layer { r with sat := r.sat + sat, elems := r.elems + elems, steps := r.steps + 1 } else s

/-- FALLBACK_WINDOW_END: the window of a layer is complete; its rate is taken, and the layer may switch (R89). A window is complete from
`window` steps on, so that one whose length was lowered below its count, or that this event meets late, ends too (DESIGN CHOICE, log entry
81: the rule compares for equality at the end of each step). -/
def execFallbackWindowEnd (court layer : Nat) (s : State) : Host.Outcome State Fault Refusal :=
  .next <| match s.fbRec court layer with
  | none => s
  | some r =>
    if r.policy ≠ 0 ∨ r.steps < s.windowOf r then s
    else
      let rate := if r.elems = 0 then 0 else r.sat * 1000000 / r.elems
      let trig := s.book.fbEnable && !r.fallback && decide (65536 ≤ r.elems) && decide (r.threshold * r.elems < r.sat * 1000000)
      let s1 := s.setFb court layer { r with
        fallback := r.fallback || trig, sat := 0, elems := 0, steps := 0, lastRate := rate, windows := r.windows + 1 }
      if trig then s1.fbEvent court 0 layer true rate r.threshold else s1

/-- The precision-plan entry of a layer among the playbooks of a court. -/
def State.precIn (s : State) (court layer : Nat) : Option PrecEnt := (s.booksIn court).findSome? (fun e => e.2.plan.precEnt layer)

/-- MSG_PREC_QUERY (R93). -/
def execMsgPrecQuery (mbx : Nat) (s : State) : Host.Outcome State Fault Refusal :=
  .next (serve 0x0220 mbx (fun r s =>
    let court := r.fld 0 1
    let layer := r.fld 2 2
    if !s.courtDefined court ∨ layer = 0xFFFF then s.refuse r E_PREC_ARG 22
    else match s.precIn court layer, s.fbRec court layer with
      | some e, some f =>
        let mode := if e.policy = 1 then 3 else if f.fallback then (if e.policy = 2 then 2 else 1) else 0
        s.answer r 0 ([BitVec.ofNat 8 mode, 0] ++ leBytes 4 f.lastRate ++ leBytes 4 f.threshold ++ leBytes 2 (s.windowOf f) ++
          leBytes 2 0 ++ leBytes 8 f.windows)
      | _, _ => s.refuse r E_PREC_ARG 22) s)

/-- One layer switched (R94): an event where its mode changes. -/
def State.switchLayer (s : State) (court layer : Nat) (fb : Bool) : State :=
  match s.fbRec court layer with
  | none => s
  | some r => if r.fallback = fb then s else (s.setFb court layer { r with fallback := fb }).fbEvent court 1 layer fb 0 r.threshold

/-- MSG_FALLBACK_SET (R94). -/
def execMsgFallbackSet (mbx : Nat) (s : State) : Host.Outcome State Fault Refusal :=
  .next (serve 0x0221 mbx (fun r s =>
    let court := r.fld 0 1
    let act := r.fld 1 1
    let layer := r.fld 2 2
    if !s.courtDefined court ∨ 1 < act then s.refuse r E_PREC_ARG 0
    else if layer = 0xFFFF then
      let ls := ((s.booksIn court).flatMap (fun e => (e.2.plan.prec.filter (fun x => x.policy != 1 && x.krnF != 0xFFFF)).map (·.layer))).eraseDups
      (ls.foldl (fun s l => s.switchLayer court l (act == 1)) s).answer r 0 []
    else match s.precIn court layer with
      | none => s.refuse r E_PREC_ARG 0
      | some e => if e.policy = 1 then s.refuse r E_PREC_NOFB 0 else (s.switchLayer court layer (act == 1)).answer r 0 []) s)

/-! Loading (R120 to R123). -/

/-- What a replacement must share with the playbook it replaces (R123). -/
def Plan.depends (p : Plan) : List (Nat × Nat × Nat) × List (List Nat) × List Nat × Bool :=
  (p.recsByIndex.map (fun r => (r.stateIndex, r.channels, r.nsLog2)),
   (p.att.map AttEnt.geometry).eraseDups,
   (p.writes.foldl (fun m a => AMap.insert m a.kvIndex ()) ([] : AMap Unit)).map (·.1),
   p.roll.isEmpty)

/-- The generations that matter to a replacement: the current one and those its sequences pin. -/
def State.gensFor (s : State) (book set : Nat) : List Nat :=
  (([s.currentGen set] ++ (s.seqsOf book).map (fun e => e.2.gen)).filter (· ≠ 0)).eraseDups

/-- Check 14. -/
def State.replaceFail (s : State) (p : Plan) (old : Nat) : State × Option PlanFail :=
  match AMap.find? s.book.books old with
  | none => (s, none)
  | some o =>
    if p.depends ≠ o.plan.depends then (s, some ⟨E_PLAN_REPLACE, 14, noItem, noItem⟩)
    else if o.set = 0 then (s, none)
    else (s.gensFor old o.set).foldl (fun (r : State × Option PlanFail) g =>
      if r.2.isSome then r else
      let c := r.1.genCheck p o.set g
      (c.1, if c.2.1 ≠ 0 then some ⟨c.2.1, 14, noItem, noItem⟩ else none)) (s, none)

/-- A read of the image for a check: the failed read's code with the check's number. -/
def State.imageRead (s : State) (r : Req) (addr n check : Nat) : State × Option PlanFail × List Byte :=
  let q := s.objRead r.access addr n
  (q.1, need (decide (q.2.1 = 0)) q.2.1 check noItem noItem, q.2.2)

/-- Checks 1 to 3: the image read and its plan. -/
def State.readPlan (s : State) (r : Req) (addr len : Nat) : State × Option PlanFail × Plan :=
  let none' := planOf []
  let h := s.imageRead r addr (min len 128) 1
  match firstFail [h.2.1, headerFail h.2.2 len] with
  | some f => (h.1, some f, none')
  | none =>
    let t := h.1.imageRead r (addr + 128) (16 * leAt h.2.2 16 2) 1
    let ss := sectsOf (h.2.2 ++ t.2.2)
    match firstFail [t.2.1, sectionFail ss len] with
    | some f => (t.1, some f, none')
    | none =>
      let kd := (ss.find? (fun x => x.kind == 1)).getD ⟨1, false, 0, 0, 0⟩
      let d := t.1.imageRead r (addr + kd.off) (16 * kd.count) 1
      match firstFail [d.2.1, directoryFail kd ((List.range kd.count).map (fun i => bytesAt d.2.2 (16 * i) 16)), versionFail h.2.2] with
      | some f => (d.1, some f, none')
      | none =>
        let w := d.1.imageRead r addr len 3
        match firstFail [w.2.1, digestFail w.2.2] with
        | some f => (w.1, some f, none')
        | none => (w.1, none, planOf w.2.2)

/-- Whether a court's court, scheduling or KV pool record differs between the slots while a trial runs (16 R433). -/
def State.trialCourt (s : State) (court : Nat) : Bool :=
  s.ump.trial.isSome && decide (AMap.find? s.ump.slot0.img.courts court ≠ AMap.find? s.ump.slot1.img.courts court)

/-- A score table for a playbook that has a score layer (09 R235): 64 KiB, charged to its context. A load comes here with room for it (check
13). -/
def State.makeScores (s : State) (id ctx : Nat) (p : Plan) : State :=
  if p.scored then
    let c := s.createObj (some ctx) .made 65536 0 0
    if c.2.1 = 0 then { c.1 with sch := { c.1.sch with scores := AMap.insert c.1.sch.scores id (c.2.2 / blockBytes) } } else s
  else s

/-- The refusal of a load, or its success. -/
def State.answerLoad (s : State) (r : Req) (f : Option PlanFail) (id : Nat) : State :=
  match f with
  | some x => s.answer r x.code ([BitVec.ofNat 8 x.check, 0] ++ leBytes 2 x.layer ++ leBytes 2 x.item ++ leBytes 4 0 ++ leBytes 4 0)
  | none => s.answer r 0 ([0, 0] ++ leBytes 2 noItem ++ leBytes 2 noItem ++ leBytes 4 id ++ leBytes 4 0)

/-- The number of modules a split across the ring may name: 1 outside a ring (04 R107). -/
def State.ringSize (s : State) : Nat := max 1 s.ring.members.length

/-- MSG_PLAYBOOK_LOAD (R120 to R123). -/
def execMsgPlaybookLoad (mbx : Nat) (s : State) : Host.Outcome State Fault Refusal :=
  .next (serve 0x0200 mbx (fun r s =>
    let court := r.fld 0 1
    let old := r.fld 4 4
    let addr := r.fld 8 8
    let len := r.fld 16 8
    let refuse (s : State) (c : Code) := s.answerLoad r (some ⟨c, 0, noItem, noItem⟩) 0
    if s.trialCourt court then refuse s E_CFG_TRIAL
    else if !s.courtDefined court ∨ r.fld 1 3 ≠ 0 ∨ len = 0 ∨ 2 ^ 32 < len ∨ 2 ^ 52 ≤ addr then refuse s E_SCH_ARG
    else if (match s.ctxRec r.ctx with | some c => decide (c.court ≠ court) | none => true) then refuse s E_SCH_CONTEXT
    else if old ≠ 0 && (match AMap.find? s.book.books old with
        | some b => decide (b.court ≠ court) || decide (b.ctx ≠ r.ctx)
        | none => true) then refuse s E_SCH_ARG
    else
      let q := s.readPlan r addr len
      let c := s.court court
      match firstFail [q.2.1, (if q.2.1.isSome then none else
          firstFail [planFail q.2.2 c.dieList.length s.ringSize c.roster, q.1.fitFail c court r.ctx q.2.2 old])] with
      | some f => q.1.answerLoad r (some f) 0
      | none =>
        let x := q.1.replaceFail q.2.2 old
        match x.2 with
        | some f => x.1.answerLoad r (some f) 0
        | none =>
          let s1 := x.1
          let id := s1.book.nextBook
          let set := match AMap.find? s1.book.books old with | some b => b.set | none => 0
          let b : Playbook := ⟨court, r.ctx, mbx, q.2.2, set, old, decide (old = 0), 0⟩
          let s2 := { s1 with book := { s1.book with books := AMap.insert s1.book.books id b, nextBook := id + 1 } }
          let s3 := s2.stageKernels court
          let s4 := if old = 0 then (s3.startFb court id q.2.2).makeScores id r.ctx q.2.2
            else if (AMap.find? s3.sch.scores old).isSome then s3 else s3.makeScores id r.ctx q.2.2
          s4.answerLoad r none id) s)

/-! Installation (R123). -/

/-- A stream carried over to the slot `k` of the new playbook, its tiles given. Without a slot a resident one is benched, a lost one stays
lost, one that an import is filling stays benched; none where no bench image can be made. -/
def State.carryOver (s : State) (i new : Nat) (q : Seq) (p : Plan) (c : CourtRec) (tiles : List Byte) : Option State :=
  match s.freeSlot new with
  | some k => some ((s.writeTiles c p k tiles).setSeq i { q with stream := { q.stream with slot := some k } })
  | none =>
    if q.stream.st ≠ .resident then some (s.setSeq i { q with stream := { q.stream with slot := none } })
    else (s.makeBench q.ctx (p.image q.stream.seqNo new q.gen false tiles) q.stream.seqNo).map (fun r =>
      (r.1.addHolder r.2).setSeq i { q with
        stream := { q.stream with st := .benched, slot := none, bench := some r.2 }, benchedAt := s.counter.toNat })
/-- The streams that hold a slot, carried over one after another. -/
def State.carryAll (s : State) (new : Nat) (p : Plan) (c : CourtRec) (held : List (Nat × List Byte)) : Option State :=
  held.foldl (fun o e => o.bind (fun s => match s.seq e.1 with
    | some q => s.carryOver e.1 new q p c e.2
    | none => some s)) (some s)

/-- The score tables of two playbooks, one of which has taken the other's place: the table of the old one is the new one's where that has a
score layer and no table of its own, and is freed otherwise (09 R235). -/
def State.settleScores (s : State) (new old : Nat) (b : Playbook) : State :=
  let gone := AMap.find? s.sch.scores old
  let s1 := { s with sch := { s.sch with scores := AMap.erase s.sch.scores old } }
  let s2 := match gone with
    | some t => if AMap.find? s1.sch.scores new = some t then s1 else s1.releaseObj t
    | none => s1
  if b.plan.scored ∧ (AMap.find? s2.sch.scores new).isNone then s2.makeScores new b.ctx b.plan else s2

/-- PLAYBOOK_INSTALL: a replacement that waits takes the place of the old playbook, no step of which is incomplete; the old
one's live sequences move to it (R123). Replacements of one playbook are installed in the order of their loads, each replacing the one
before; one whose streams or score table cannot be kept waits for a later boundary (DESIGN CHOICE, log entry 81). -/
def execPlaybookInstall (new : Nat) (s : State) : Host.Outcome State Fault Refusal :=
  .next <| match AMap.find? s.book.books new with
  | none => s
  | some b => match AMap.find? s.book.books b.replaces with
    | none => s
    | some o =>
      if b.installed ∨ !o.installed ∨ s.sch.steps.any (fun t => decide (t.playbook = b.replaces)) ∨
          s.book.books.any (fun e => decide (e.1 < new) && !e.2.installed && decide (e.2.replaces = b.replaces)) then s
      else
        let old := b.replaces
        let c := s.court b.court
        let seqs := s.seqsOf old
        let held := seqs.filterMap (fun e => e.2.stream.slot.map (fun k =>
          (e.1, if e.2.stream.st = .benched then [] else s.readTiles c o.plan k)))
        let s1 := seqs.foldl (fun s e => s.setSeq e.1 { e.2 with
          playbook := new, stream := { e.2.stream with slot := none } }) s
        let books := (AMap.erase (AMap.insert s1.book.books new { b with installed := true, replaces := 0, set := o.set }) old).map
          (fun e => (e.1, if e.2.replaces = old then { e.2 with replaces := new } else e.2))
        let s2 := { s1 with
          book := { s1.book with books := books }
          sch := { s1.sch with scores := (match AMap.find? s1.sch.scores old, (AMap.find? s1.sch.scores new).isNone && b.plan.scored with
            | some t, true => AMap.insert s1.sch.scores new t
            | _, _ => s1.sch.scores) } }
        match (s2.settleScores new old b).carryAll new b.plan c held with
        | none => s
        | some s3 => if b.plan.scored ∧ (AMap.find? s3.sch.scores new).isNone then s
          else (s3.startFb b.court new b.plan).stageKernels b.court

end Sys2Proof.Machine
end

