-- ==== Sys2Proof/Machine/Pages.lean ====
section
/-! DEFINITION. Pages of keys and values: pools and reservations, page lists, write slots, masks and walks, sealing, retention
and release (05 R126 to R159). -/
namespace Sys2Proof.Machine

/-! Pools (R131 to R133). -/

/-- The key of a page: its court and its page id. -/
def pageKey (court id : Nat) : Nat := 2 ^ 26 * court + id
/-- The pool class of a court that a playbook's pages use: the one with their stride (R132). -/
def CourtRec.classOf (c : CourtRec) (p : Plan) : Option Nat :=
  match p.att with
  | [] => none
  | a :: _ => (List.range c.pools.length).find? (fun i => match c.pools[i]? with
      | some (base, stride, _) => decide (base ≠ 0) && decide (stride = a.stride)
      | none => false)
/-- Pages of a class. -/
def CourtRec.classPages (c : CourtRec) (k : Nat) : Nat := match c.pools[k]? with | some (_, _, n) => n | none => 0

/-- The entries of one kv_index. -/
def Plan.kvEnts (p : Plan) (kv : Nat) : List AttEnt := p.att.filter (fun a => a.kvIndex == kv)
/-- The anchors and the frames kept of a kv_index: the most that an entry asks for (log entry 21). -/
def Plan.kvAnchors (p : Plan) (kv : Nat) : Nat := ((p.kvEnts kv).map (·.anchors)).foldl max 0
def Plan.kvKeep (p : Plan) (kv : Nat) : Nat := ((p.kvEnts kv).map (·.keepFrames)).foldl max 0
/-- The page reservation of a sequence: over every kv_index and group (R146). -/
def Plan.pageReserve (p : Plan) : Nat :=
  (p.writes.map (fun w => w.groups * ((p.kvEnts w.kvIndex).map p.retention).foldl max 0)).sum

/-- Leaves of a page list that the reservation counts (R133, R146): at most those that the anchors and a window of rows, which may wrap,
can touch. -/
def Plan.leafNeed (p : Plan) : Nat :=
  let window := (p.writes.map (fun w => ((p.kvEnts w.kvIndex).map p.retention).foldl max 0)).foldl max 0
  let anchors := (p.writes.map (fun w => p.kvAnchors w.kvIndex)).foldl max 0
  let dense := p.writes.all (fun w => decide (w.kvIndex < p.writes.length))
  min 512 (min p.pageReserve
    (if dense then ceilDiv (anchors * p.rowWidth) 512 + ceilDiv (window * p.rowWidth) 512 + 3 else p.pageReserve))
/-- Bytes and blocks of the object that holds a sequence's directory and leaves; 0 for a playbook without pages. -/
def Plan.listBytes (p : Plan) : Nat := if p.att = [] then 0 else 4096 + 2048 * p.leafNeed
def Plan.listBlocks (p : Plan) : Nat := ceilDiv p.listBytes blockBytes

/-! A pool class is shared out to contexts in groups of whole blocks, so that no 256 KiB block holds pages of two contexts (14 R364). -/

/-- The 256 KiB blocks a page of a class touches: first and last. -/
def pageBlocks (base stride i : Nat) : Nat × Nat := ((base + i * stride) / blockBytes, (base + i * stride + stride - 1) / blockBytes)
/-- Pages of a group: the fewest whose strides fill whole blocks; at least two where the class does not begin on a block. -/
def groupPages (base stride : Nat) : Nat :=
  let q := blockBytes / Nat.gcd stride blockBytes
  if base % blockBytes = 0 then q else max q 2
/-- Pages of a group that share no block with the next group. -/
def groupUsable (base stride : Nat) : Nat := groupPages base stride - b2n (decide (base % blockBytes ≠ 0))
/-- Whether a page takes part in its group. -/
def inGroup (base stride i : Nat) : Bool := decide (i % groupPages base stride < groupUsable base stride)
/-- The groups of a class of `n` pages (1 to n) that are whole. -/
def wholeGroups (base stride n : Nat) : List Nat :=
  let q := groupPages base stride
  (List.range ((n + 1) / q)).filter (fun g => decide (1 ≤ g * q))
/-- Pages of a class that are not free: key and record. -/
def State.classUsed (s : State) (court k : Nat) : List (Nat × Page) :=
  s.sch.pages.filter (fun e => decide (e.1 / 2 ^ 24 = 4 * court + k))
/-- Whether two ranges of blocks meet. -/
def meetBlocks (a b : Nat × Nat) : Bool := decide (a.1 ≤ b.2) && decide (b.1 ≤ a.2)
/-- The blocks that the pages of a group which take part touch. -/
def groupBlocks (base stride g : Nat) : Nat × Nat :=
  let q := groupPages base stride
  ((pageBlocks base stride (g * q)).1, (pageBlocks base stride (g * q + groupUsable base stride - 1)).2)
/-- Whole groups whose blocks hold a page of a context. -/
def State.groupsOf (s : State) (court k base stride n ctx : Nat) : Nat :=
  let mine := ((s.classUsed court k).filter (fun e => decide (e.2.ctx = ctx))).map (fun e => pageBlocks base stride (e.1 % 2 ^ 24))
  ((wholeGroups base stride n).filter (fun g => mine.any (meetBlocks (groupBlocks base stride g)))).length

/-- Pages reserved in a class of a court, by context. -/
def State.reservedBy (s : State) (court k : Nat) : AMap Nat :=
  (s.sch.seqs.filter (fun e => decide (e.2.court = court) && (match s.bookOf e.2 with
    | some b => (s.court court).classOf b.plan == some k
    | none => false))).foldl (fun m e => AMap.insert m e.2.ctx (AMap.getD m 0 e.2.ctx + e.2.resvPages)) []
/-- Whether a class covers the reservations of the contexts in it: those of one context by its pages; those of several by whole groups. -/
def State.classCovers (s : State) (court k base stride n : Nat) (resv : AMap Nat) : Bool :=
  match resv.filter (fun e => decide (e.2 ≠ 0)) with
  | [] => true
  | [(_, r)] => decide (r ≤ n)
  | rs => decide ((rs.map (fun e =>
      max (s.groupsOf court k base stride n e.1) (ceilDiv e.2 (groupUsable base stride)))).sum ≤ (wholeGroups base stride n).length)
/-- Whether the fresh tier has the blocks of `n` further page lists. -/
def State.listRoom (s : State) (p : Plan) (n : Nat) : Bool :=
  s.hasRoom 0 (64 * (n * p.listBlocks)) && decide (s.allocBlocks + n * p.listBlocks ≤ 536870912)
/-- Whether the pool and the fresh tier cover `n` further reservations of a playbook for a context (R133). -/
def State.canReserve (s : State) (court : Nat) (p : Plan) (ctx n : Nat) : Bool :=
  if p.att = [] then true
  else match (s.court court).classOf p with
    | none => false
    | some k => match (s.court court).pools[k]? with
      | none => false
      | some (base, stride, pages) =>
        let m := s.reservedBy court k
        s.classCovers court k base stride pages (AMap.insert m ctx (AMap.getD m 0 ctx + n * p.pageReserve)) && s.listRoom p n

/-- A free page of a class whose blocks hold no page of another context (14 R364): the lowest in a group that holds a page of the context,
else the lowest in a group that holds none, else the lowest (which page is the model's choice, log entry 83). -/
def State.freePage (s : State) (court k ctx : Nat) : Option Nat :=
  match (s.court court).pools[k]? with
  | none => none
  | some (base, stride, n) =>
    let used := s.classUsed court k
    let foreign := (used.filter (fun e => decide (e.2.ctx ≠ ctx))).map (fun e => pageBlocks base stride (e.1 % 2 ^ 24))
    let mine := ((used.filter (fun e => decide (e.2.ctx = ctx))).map (fun e => e.1 % 2 ^ 24 / groupPages base stride)).eraseDups
    let ok (i : Nat) : Bool := (AMap.find? used (pageKey court (2 ^ 24 * k + i))).isNone &&
      foreign.all (fun f => !meetBlocks f (pageBlocks base stride i))
    let clear (i : Nat) : Bool := foreign.all (fun f => !meetBlocks f (groupBlocks base stride (i / groupPages base stride)))
    let all := (List.range n).map (· + 1)
    ((all.find? (fun i => mine.contains (i / groupPages base stride) && inGroup base stride i && ok i)).orElse
      (fun _ => all.find? (fun i => inGroup base stride i && clear i && ok i))).orElse (fun _ => all.find? ok)

/-! Lists (R134 to R136). The list is kept as a map of the sequence, from flat entry to page id; its directory and leaves are the same in the
bytes of its object. -/

/-- The row of a slot. -/
def rowOf (rows anchors slot : Nat) : Nat := if slot < anchors then slot else anchors + (slot - anchors) % (rows - anchors)
/-- The flat entry of a slot, kv_index and group, within the 262,144 of a list. -/
def Plan.flatEntry (p : Plan) (kv g slot : Nat) : Nat :=
  let gs := match p.att with | a :: _ => a.groups | [] => 1
  ((rowOf p.rows (p.kvAnchors kv) slot * p.writes.length + kv) * gs + g) % 262144

/-- Bytes of a sequence's list object written by its coach. -/
def State.listWrite (s : State) (q : Seq) (off : Nat) (bs : List Byte) : State :=
  match q.lst with
  | some b => (s.objWrite (umpAccess q.ctx) (blockBytes * b + off) bs).1
  | none => s
/-- The list object of a new sequence: its directory, with no leaf. -/
def State.makeList (s : State) (i court : Nat) (p : Plan) : State :=
  if p.att = [] then s
  else
    let c := s.createObj none (.lists court) p.listBytes 0 0
    if c.2.1 ≠ 0 then s else c.1.modSeq i (fun q => { q with lst := some (c.2.2 / blockBytes), leaves := [] })
/-- The fresh region a block keeps while it is in the cave (14 R365). -/
def State.keptRegion (s : State) (b : Nat) : Option Nat :=
  (List.find? (fun e => decide (e.2 = .fresh b)) s.tier.regs).map (·.1)
/-- A caved block that is needed no more is fresh again, in the region it kept. -/
def State.uncave (s : State) (b : Nat) : State :=
  match AMap.find? s.tier.blocks b, s.keptRegion b with
  | some (.cave _ _ _), some r => s.setBlock b (.fresh r)
  | _, _ => s
/-- A sequence's directory and leaves released. -/
def State.dropList (s : State) (i : Nat) : State :=
  match s.seq i with
  | none => s
  | some q => match q.lst with
    | none => s
    | some b =>
      let n := match AMap.find? s.tier.objs b with | some o => o.blocks | none => 0
      (((List.range n).foldl (fun s k => s.uncave (b + k)) s).dropObj b).modSeq i (fun q => { q with lst := none, leaves := [] })

/-- A page id put into a flat entry; its leaf is allocated where the directory has none (R136). -/
def State.setEntry (s : State) (i n id : Nat) : State :=
  match s.seq i with
  | none => s
  | some q =>
    let unit := match AMap.find? q.leaves (n / 512) with
      | some u => u
      | none => ((List.range 514).find? (fun u => decide (2 ≤ u) && q.leaves.all (fun e => decide (e.2 ≠ u)))).getD 2
    let q1 := { q with pages := AMap.insert q.pages n id, leaves := AMap.insert q.leaves (n / 512) unit }
    let s1 := if (AMap.find? q.leaves (n / 512)).isSome then s
      else s.listWrite q (8 * (n / 512)) (leBytes 8 (match q.lst with | some b => blockBytes * b + 2048 * unit | none => 0))
    (s1.listWrite q (2048 * unit + 4 * (n % 512)) (leBytes 4 id)).setSeq i q1
/-- A flat entry cleared; a leaf all of whose entries are zero is freed (R136). -/
def State.clearEntry (s : State) (i n : Nat) : State :=
  match s.seq i with
  | none => s
  | some q => match AMap.find? q.leaves (n / 512) with
    | none => s.setSeq i { q with pages := AMap.erase q.pages n }
    | some unit =>
      let left := AMap.erase q.pages n
      let s1 := s.listWrite q (2048 * unit + 4 * (n % 512)) (leBytes 4 0)
      if left.any (fun e => decide (e.1 / 512 = n / 512)) then s1.setSeq i { q with pages := left }
      else (s1.listWrite q (8 * (n / 512)) (leBytes 8 0)).setSeq i { q with pages := left, leaves := AMap.erase q.leaves (n / 512) }

def State.page (s : State) (key : Nat) : Option Page := AMap.find? s.sch.pages key
def State.setPage (s : State) (key : Nat) (p : Page) : State := { s with sch := { s.sch with pages := AMap.insert s.sch.pages key p } }
/-- A reference gone; a page returns to the pool with its last one (R131, 09 R232). -/
def State.unref (s : State) (key : Nat) : State :=
  match s.page key with
  | none => s
  | some p =>
    if p.refs ≤ 1 then { s with sch := { s.sch with pages := AMap.erase s.sch.pages key } }
    else s.setPage key { p with refs := p.refs - 1 }

/-- The page a sequence's list names for a slot, where its entry holds that slot. -/
def State.slotPage (s : State) (q : Seq) (p : Plan) (kv g slot : Nat) : Option (Nat × Page) :=
  match AMap.find? q.pages (p.flatEntry kv g slot) with
  | none => none
  | some id => match s.page (pageKey q.court id) with
    | some pg => if pg.slot = slot ∧ pg.kv = kv ∧ pg.group = g then some (pageKey q.court id, pg) else none
    | none => none

/-! Writing (R130, R137, R138, R157). -/

/-- The first slot of the chunk that a sequence's step writes. -/
def Seq.writeSlot (q : Seq) : Nat := if q.chunkFrame = some q.frame then q.chunkSlot else q.nextSlot

/-- The frame and first position of the k-th page of a step (R130). -/
def AttEnt.pageAt (a : AttEnt) (frame k : Nat) : Nat × Nat :=
  if a.tile then (frame + k / a.framePages, k % a.framePages)
  else (frame + 256 * k / (a.frameW * a.frameH), 256 * k % (a.frameW * a.frameH))

/-- The slot of one group given a page, where it has none; the pages written are told. `some` a code: no page is left. -/
def State.openPage (s : State) (i : Nat) (p : Plan) (a : AttEnt) (g k slot tokens : Nat) : State × Code × Option Nat :=
  match s.seq i with
  | none => (s, 0, none)
  | some q => match s.slotPage q p a.kvIndex g slot with
    | some (key, _) => (s, 0, some key)
    | none =>
      let n := p.flatEntry a.kvIndex g slot
      let s1 := match AMap.find? q.pages n with | some id => s.unref (pageKey q.court id) | none => s
      match (s1.court q.court).classOf p with
      | none => (s, E_KV_RESERVE, none)
      | some c => match s1.freePage q.court c q.ctx with
        | none => (s, E_KV_RESERVE, none)
        | some ix =>
          let id := 2 ^ 24 * c + ix
          let fr := a.pageAt q.frame k
          let s2 := s1.setPage (pageKey q.court id) ⟨1, false, min 256 (tokens - 256 * k), i, fr.1, fr.2, q.ctx, slot, a.kvIndex, g⟩
          (s2.setEntry i n id, 0, some (pageKey q.court id))

/-- The slots that a sequence's step of `tokens` positions writes, reserved (R130, R157). -/
def State.takeSlots (s : State) (i tokens : Nat) : State :=
  let n := ceilDiv tokens 256
  if n = 0 then s
  else s.modSeq i (fun q => { q with
    chunkSlot := q.writeSlot, chunkFrame := some q.frame, nextSlot := max q.nextSlot (q.writeSlot + n) })
/-- Whether a page that a step would write is sealed (R138). -/
def State.cellSealed (s : State) (p : Plan) (a : AttEnt) (c : Nat × Nat × Nat) : Bool :=
  match s.seq c.1 with
  | none => false
  | some q => match s.slotPage q p a.kvIndex c.2.1 (q.writeSlot + c.2.2) with | some (_, pg) => pg.isSealed | none => false
/-- The pages that a write layer's runs fill, by sequence, group and page: one of them sealed gives E_KV_SEALED and its sequence before any
is taken; then they are taken one by one, and told (R137, R138). `tokens` is how many positions the step writes of a sequence. -/
def State.writePages (s : State) (p : Plan) (a : AttEnt) (tokens : Nat → Nat) (cells : List (Nat × Nat × Nat)) :
    State × Code × Option Nat × List Nat :=
  match cells.find? (s.cellSealed p a) with
  | some c => (s, E_KV_SEALED, some c.1, [])
  | none => cells.foldl (fun (r : State × Code × Option Nat × List Nat) c =>
      if r.2.1 ≠ 0 then r else
      match r.1.seq c.1 with
      | none => r
      | some q =>
        let t := r.1.openPage c.1 p a c.2.1 c.2.2 (q.writeSlot + c.2.2) (tokens c.1)
        (t.1, t.2.1, if t.2.1 ≠ 0 then some c.1 else none, r.2.2.2 ++ t.2.2.toList)) (s, 0, none, [])

/-! Masks and walks (R140, R142, R145). -/

/-- The column and row of a tile's first patch (R130). -/
def AttEnt.tileOrigin (a : AttEnt) (first : Nat) : Nat × Nat :=
  let across := ceilDiv a.frameW (2 ^ a.twlog)
  (first % across * 2 ^ a.twlog, first / across * 2 ^ (8 - a.twlog))

/-- The valid positions of a page: frame, row, column (R130). -/
def AttEnt.positions (a : AttEnt) (pg : Page) : List (Nat × Nat × Nat) :=
  if a.tile then
    let o := a.tileOrigin pg.first
    ((List.range pg.fill).map (fun i => (pg.frame, o.2 + i / 2 ^ a.twlog, o.1 + i % 2 ^ a.twlog))).filter (fun t =>
      decide (t.2.2 < a.frameW) && decide (t.2.1 < a.frameH))
  else
    (List.range pg.fill).map (fun i =>
      let n := pg.first + i
      (pg.frame + n / (a.frameW * a.frameH), n % (a.frameW * a.frameH) / a.frameW, n % a.frameW))

/-- |x − y|. -/
def absDiff (x y : Nat) : Nat := (x - y) + (y - x)

/-- Whether a query position sees a key position (R145). -/
def AttEnt.sees (a : AttEnt) (q k : Nat × Nat × Nat) : Bool :=
  decide (k.1 ≤ q.1 + a.tFwd) && decide (q.1 ≤ k.1 + a.tBack) &&
  (a.ry == 0xFFFF || decide (absDiff q.2.1 k.2.1 ≤ a.ry)) && (a.rx == 0xFFFF || decide (absDiff q.2.2 k.2.2 ≤ a.rx))

/-- Whether the key page is included for the query page: by a pair of valid positions. -/
def AttEnt.includes (a : AttEnt) (q k : Page) : Bool :=
  (a.positions q).any (fun x => (a.positions k).any (fun y => a.sees x y))

/-- A sequence's pages of a group and kv_index, by ascending slot. -/
def State.pagesOf (s : State) (q : Seq) (kv g : Nat) : List (Nat × Page) :=
  ((q.pages.foldl (fun (m : AMap (Nat × Page)) e => match s.page (pageKey q.court e.2) with
    | some pg => if pg.kv = kv ∧ pg.group = g then AMap.insert m pg.slot (e.2, pg) else m
    | none => m) []).map (·.2))

/-- The walk of a run's query slot: the pages included, anchors first, and how many the mask excluded (R140); `geo` stands for a query page
that no page of this module is. -/
def State.walkPages (s : State) (q : Seq) (p : Plan) (a : AttEnt) (g slot : Nat) (geo : Page) : List (Nat × Page) × Nat :=
  let all := s.pagesOf q a.kvIndex g
  let query := match s.slotPage q p a.kvIndex g slot with | some e => e.2 | none => geo
  let isAnchor (e : Nat × Page) : Bool := decide (e.2.slot < a.anchors)
  let inc (e : Nat × Page) : Bool := a.includes query e.2
  let anchors := all.filter isAnchor
  let rest := all.filter (fun e => !isAnchor e && inc e)
  ((anchors ++ rest).filter (fun e => decide (0 < e.2.fill)), (all.filter (fun e => !isAnchor e && !inc e)).length)

/-- The descriptor of a page in a walk (R142). -/
def State.pageDesc (s : State) (i : Nat) (q : Seq) (a : AttEnt) (g pos len : Nat) (e : Nat × Page) : PageDesc :=
  let o := a.tileOrigin e.2.first
  { addr := (s.pageAddr q.court e.1).1
    fmt := a.fmt
    headsM1 := a.kvHeads - 1
    dblkM1 := a.dblk - 1
    isSealed := e.2.isSealed
    anchor := decide (e.2.slot < a.anchors)
    pageId := e.1
    slot := e.2.slot
    fill := e.2.fill
    twlog := if a.tile then a.twlog else 15
    vw := if a.tile then min (2 ^ a.twlog) (a.frameW - o.1) else 0
    vh := if a.tile then min (2 ^ (8 - a.twlog)) (a.frameH - o.2) else 0
    seq := i
    layer := a.kvIndex
    group := g
    landed := 8 * a.kvHeads * a.dblk * pageLanded a.fmt / 64
    walkPos := pos
    walkLen := len }

/-! Sealing, retention, release (R157, R158; 09 R227, R228, R232). -/

/-- The page keys of a sequence's list. -/
def Seq.pageKeys (q : Seq) : List Nat := q.pages.map (fun e => pageKey q.court e.2)

/-- A page sealed, where it is open. -/
def State.sealPage (s : State) (key : Nat) : State :=
  match s.page key with
  | some p => s.setPage key { p with isSealed := true }
  | none => s
/-- The open pages of a sequence's list. -/
def State.openPages (s : State) (q : Seq) : List (Nat × Page) :=
  q.pageKeys.eraseDups.filterMap (fun k => match s.page k with
    | some p => if p.isSealed then none else some (k, p)
    | none => none)
/-- Every open page of a sequence's list sealed. -/
def State.sealAll (s : State) (q : Seq) : State := (s.openPages q).foldl (fun s e => s.sealPage e.1) s

/-- The latest frame of a page's positions. -/
def AttEnt.lastFrame (a : AttEnt) (pg : Page) : Nat :=
  if a.tile then pg.frame else pg.frame + (pg.first + pg.fill - 1) / (a.frameW * a.frameH)

/-- The retention release of a sequence whose step is being formed (R158). -/
def State.retain (s : State) (i : Nat) : State :=
  match s.seq i with
  | none => s
  | some q => match s.bookOf q with
    | none => s
    | some b => match b.plan.att with
      | [] => s
      | a :: _ =>
        q.pages.foldl (fun s e =>
          match s.page (pageKey q.court e.2) with
          | none => s
          | some pg =>
            if pg.slot < b.plan.kvAnchors pg.kv ∨ q.frame ≤ a.lastFrame pg + b.plan.kvKeep pg.kv then s
            else (s.unref (pageKey q.court e.2)).clearEntry i e.1) s

/-- Every page of a sequence's list released, then its leaves and directory; with how many pages returned to the pool (R158, 09
R233). -/
def State.releasePages (s : State) (i : Nat) : State × Nat :=
  match s.seq i with
  | none => (s, 0)
  | some q =>
    let s1 := q.pageKeys.foldl (fun s k => s.unref k) s
    ((s1.modSeq i (fun q => { q with pages := [] })).dropList i, s.sch.pages.length - s1.sch.pages.length)

/-- A child's list: the parent's entries, each page with one reference more (09 R228). -/
def State.shareList (s : State) (parent : Seq) (child : Nat) : State :=
  let s1 := parent.pageKeys.foldl (fun s k => match s.page k with
    | some p => s.setPage k { p with refs := p.refs + 1 }
    | none => s) s
  (parent.pages.foldl (fun s e => s.setEntry child e.1 e.2) s1).modSeq child (fun q => { q with
    nextSlot := parent.nextSlot, chunkSlot := parent.chunkSlot, chunkFrame := parent.chunkFrame })

/-- List rows and leaves in use (R134, R159). -/
def Plan.rowsUsed (p : Plan) (q : Seq) : Nat := (q.pages.map (fun e => e.1 / p.rowWidth)).eraseDups.length
def Seq.leavesUsed (q : Seq) : Nat := q.leaves.length

/-- The live sequence a request names: of the court, and of the request's context unless a management mailbox asks (14 R375,
R383; 16 R426). -/
def State.namedSeq (s : State) (r : Req) (court i : Nat) : Option Seq :=
  match s.seq i with
  | none => none
  | some q => if q.court = court ∧ q.st = 2 ∧ (isMgmt r.mbx ∨ q.ctx = r.ctx) then some q else none

/-- MSG_KV_QUERY (R159). -/
def execMsgKvQuery (mbx : Nat) (s : State) : Host.Outcome State Fault Refusal :=
  .next (serve 0x0640 mbx (fun r s =>
    match s.namedSeq r (r.fld 0 1) (r.fld 2 2) with
    | none => s.refuse r E_ROST_STATE 22
    | some q =>
      let open' := (s.openPages q).length
      let all := q.pageKeys.eraseDups.length
      let rows := match s.bookOf q with | some b => if b.plan.rowWidth = 0 then 0 else b.plan.rowsUsed q | none => 0
      s.answer r 0 (leBytes 2 0 ++ leBytes 4 open' ++ leBytes 4 (all - open') ++ leBytes 4 q.resvPages ++ leBytes 4 rows ++
        leBytes 4 q.leavesUsed)) s)

end Sys2Proof.Machine
end

