-- ==== Sys2Proof/Machine/Deal.lean ====
section
/-! DEFINITION. Dealing the work of a layer over units and core blocks, and the argument block of each run (04 R103, R104, R109,
R113 to R115; 05 R137, R140, R152, R155; 07 R191; 08 R212 to R217; 09 R235; 12 R309, R314; 14 R359). -/
namespace Sys2Proof.Machine

/-! Shares (R109). -/

/-- A range: its start and its length. -/
abbrev Rng := Nat × Nat

/-- The share of unit `i` of `n` in a range: equal shares of whole tiles, the first units taking the larger ones. -/
def shareOf (r : Rng) (i n : Nat) : Rng := (r.1 + i * (r.2 / n) + min i (r.2 % n), r.2 / n + b2n (decide (i < r.2 % n)))

/-- The digits of unit `u` in the splits of a level, outermost first: dimension, index and count. -/
def digitsOf (u : Nat) : List (Nat × Nat) → List (Nat × Nat × Nat)
  | [] => []
  | (d, c) :: rest =>
    let inner := rest.foldl (fun n x => n * x.2) 1
    (d, u / inner % c, c) :: digitsOf u rest

/-- A unit that a layer is dealt to: its core and the shares of each dimension, with its index among the units of a key split, among those
of a channel split, and among the regions of Y and X, and the positions of the regions before its own. -/
structure WorkUnit where
  core : Nat
  m : Rng
  n : Rng
  k : Rng
  g : Rng
  y : Rng
  x : Rng
  kUnit : Nat
  chUnit : Nat
  region : Nat
  rowBase : Nat
deriving DecidableEq, Repr

/-- The extents of a layer: rows and columns as positions, and every dimension in the units it is dealt in. -/
structure Extents where
  mPos : Nat
  nPos : Nat
  kPos : Nat
  m : Nat
  n : Nat
  k : Nat
  g : Nat
  y : Nat
  x : Nat
deriving DecidableEq, Repr

/-- The extents of a layer at a shape vector; those of a convolution or pooling layer are zero where its output is (08 R212). -/
def Plan.extents (p : Plan) (l : Layer) (sv : List Nat) : Extents :=
  let out := match p.convEnt l.layer with
    | some c => (decide (0 < convOut (Plan.dimOf sv c.inYSpec) c.pt c.pb c.dy c.kh c.sy),
        decide (0 < convOut (Plan.dimOf sv c.inXSpec) c.pl c.pr c.dx c.kw c.sx))
    | none => (true, true)
  let mp := if out.1 && out.2 then l.extent sv 1 else 0
  let np := l.extent sv 2
  let kp := l.extent sv 3
  ⟨mp, np, kp, ceilDiv mp 32, ceilDiv np 32, ceilDiv kp (32 * l.kbMb), l.extent sv 4, if out.1 then l.extent sv 5 else 0,
    if out.2 then l.extent sv 6 else 0⟩

/-- The splits of a level: dimension and count, outermost first. -/
def Layer.level (l : Layer) (lv : Nat) : List (Nat × Nat) := (l.used.filter (fun e => e.level == lv)).map (fun e => (e.dim, e.count))
def splitCount (sp : List (Nat × Nat)) : Nat := sp.foldl (fun n x => n * x.2) 1

/-- The splits of Y and X, over the levels from the outermost: dimension and count. -/
def Layer.regionSplits (l : Layer) : List (Nat × Nat) :=
  ([4, 3, 2, 1].flatMap l.level).filter (fun d => d.1 == 5 || d.1 == 6)
/-- A share taken along the digits of one dimension. -/
def cutBy (ds : List (Nat × Nat × Nat)) (dim : Nat) (r : Rng) : Rng :=
  (ds.filter (fun d => d.1 == dim)).foldl (fun r d => shareOf r d.2.1 d.2.2) r
/-- The part of Y and X that is region `i` of a layer. -/
def Layer.regionAt (l : Layer) (e : Extents) (i : Nat) : Rng × Rng :=
  let ds := digitsOf i l.regionSplits
  (cutBy ds 5 (0, e.y), cutBy ds 6 (0, e.x))
/-- The index that the digits of some dimensions spell. -/
def indexBy (ds : List (Nat × Nat × Nat)) (dims : List Nat) : Nat :=
  (ds.filter (fun d => dims.contains d.1)).foldl (fun a d => a * d.2.2 + d.2.1) 0

/-- The shares that the digits of a unit give. -/
def unitOf (l : Layer) (e : Extents) (core : Nat) (ds : List (Nat × Nat × Nat)) : WorkUnit :=
  let y := cutBy ds 5 (0, e.y)
  let x := cutBy ds 6 (0, e.x)
  let region := indexBy ds [5, 6]
  { core := core
    m := cutBy ds 1 (0, if l.byRegion then ceilDiv (y.2 * x.2) 32 else e.m)
    n := cutBy ds 2 (0, e.n)
    k := cutBy ds 3 (0, e.k)
    g := cutBy ds 4 (0, e.g)
    y := y
    x := x
    kUnit := indexBy ds [3]
    chUnit := indexBy ds [2, 4]
    region := region
    rowBase := if l.byRegion then ((List.range region).map (fun i => let q := l.regionAt e i; q.1.2 * q.2.2)).sum else 0 }

/-- The clusters of a die that take work: those that are not degraded (02 R63). -/
def State.clustersOf (s : State) (die : Nat) : List Nat := ((List.range 25).map (25 * die + ·)).filter (fun n => !(s.clu n).degraded)

/-- The clusters that take unit `u` of a die's split over clusters, with the digits that each adds: the u-th that takes work; the share of a
unit past the last is dealt to all of them in equal shares of its row tiles (R109; along rows: DESIGN CHOICE, log entry 83). -/
def clusterShares (cls : List Nat) (u : Nat) : List (Nat × List (Nat × Nat × Nat)) :=
  match cls[u]? with
  | some c => [(c, [])]
  | none => ((List.range cls.length).zip cls).map (fun e => (e.2, [(1, e.1, cls.length)]))

/-- The units of a layer on a court, this module being unit `ring` of a split across the ring (R109, 17 R455): dies ascending; unit u of a
cluster goes to logical position u. -/
def State.unitsOf (s : State) (court ring : Nat) (l : Layer) (e : Extents) : List WorkUnit :=
  let dies := s.courtDies court
  let d4 := digitsOf ring (l.level 4)
  (List.range (splitCount (l.level 3))).flatMap (fun u3 => match dies[u3]? with
    | none => []
    | some die =>
      let cls := s.clustersOf die
      (List.range (splitCount (l.level 2))).flatMap (fun u2 => (clusterShares cls u2).flatMap (fun c =>
        (List.range (splitCount (l.level 1))).map (fun u1 =>
          unitOf l e (25 * c.1 + u1)
            (d4 ++ digitsOf u3 (l.level 3) ++ digitsOf u2 (l.level 2) ++ c.2 ++ digitsOf u1 (l.level 1))))))

/-- The edge code of a unit in one direction (R113, R115): 0 no neighbour, 1 the core next to it on the cluster's grid, 2
another. -/
def edgeCode (us : List WorkUnit) (u : WorkUnit) (dir : Nat) : Nat :=
  let near (v : WorkUnit) : Bool :=
    decide (v.n = u.n) && decide (v.k = u.k) && decide (v.g = u.g) &&
    (if dir = 0 then decide (v.x = u.x) && decide (v.y.1 + v.y.2 = u.y.1)
     else if dir = 1 then decide (v.y = u.y) && decide (v.x.1 = u.x.1 + u.x.2)
     else if dir = 2 then decide (v.x = u.x) && decide (v.y.1 = u.y.1 + u.y.2)
     else decide (v.y = u.y) && decide (v.x.1 + v.x.2 = u.x.1)) && decide (0 < v.y.2) && decide (0 < v.x.2)
  match us.find? near with
  | none => 0
  | some v => if neighbour u.core dir = some v.core then 1 else 2
def edgesWord (us : List WorkUnit) (u : WorkUnit) : Nat :=
  (List.range 4).foldl (fun w d => w + 4 ^ d * edgeCode us u d) 0

/-! Core blocks (R109). -/

/-- A range cut into pieces of `c`, at most `fuel`. -/
def cutRange : Nat → Nat → Nat → Nat → List Rng
  | 0, _, _, _ => []
  | fuel + 1, a, n, c => if n = 0 then [] else (a, min c n) :: cutRange fuel (a + min c n) (n - min c n) c
/-- The blocks of a dimension: pieces of the core-block extent; an empty range is one empty block. -/
def blocksOf (r : Rng) (c : Nat) : List Rng := if r.2 = 0 then [(r.1, 0)] else cutRange r.2 r.1 r.2 (max c 1)
/-- Rows of one sequence in an M extent: their sequence, the first row tile and the first position they take there, how many positions they
are, and the sequence's shape vector (12 R314). -/
structure SeqPart where
  seq : Nat
  first : Nat
  row : Nat
  pos : Nat
  sv : List Nat
deriving DecidableEq, Repr

def SeqPart.tiles (p : SeqPart) : Nat := ceilDiv p.pos 32

/-- A block of row tiles cut where another sequence's rows begin and, where `pages` says so, at the page boundaries, 8 row tiles apart in
each sequence (05 R137). -/
def partCut (parts : List SeqPart) (pages : Bool) (r : Rng) : List Rng :=
  if r.2 = 0 then [r] else
  parts.flatMap (fun p =>
    let a := max r.1 p.first
    let n := min (r.1 + r.2) (p.first + p.tiles) - a
    if n = 0 then []
    else if !pages then [(a, n)]
    else
      let k := min n (8 - (a - p.first) % 8)
      (a, k) :: cutRange n (a + k) (n - k) 8)

/-- A core block: its rows, columns and groups. -/
structure CoreBlock where
  m : Rng
  n : Rng
  g : Rng
deriving DecidableEq, Repr

/-- The core blocks of a unit, in the order of the level-0 loops, outermost first; a group loop that the plan does not give is
innermost, one group a block. Rows of several sequences are cut as `partCut` says. -/
def Layer.coreBlocks (l : Layer) (u : WorkUnit) (parts : List SeqPart) (pages : Bool) : List CoreBlock :=
  let dims := (l.used.filter (fun e => e.level == 0 && e.dim != 3)).map (fun e => (e.dim, e.count))
  let all := if dims.any (fun d => d.1 == 4) then dims else dims ++ [(4, 1)]
  let all := if parts = [] ∨ all.any (fun d => d.1 == 1) then all else (1, max 1 u.m.2) :: all
  all.foldl (fun bs d => bs.flatMap (fun b =>
    if d.1 = 1 then
      let ms := blocksOf u.m d.2
      (if parts = [] then ms else ms.flatMap (partCut parts pages)).map (fun r => { b with m := r })
    else if d.1 = 2 then (blocksOf u.n d.2).map (fun r => { b with n := r })
    else (blocksOf u.g d.2).map (fun r => { b with g := r }))) [⟨u.m, u.n, u.g⟩]

/-! Who a layer's rows belong to. -/

/-- The rows dealt as one M extent: those of a generation (and adapter) group (12 R314), with the shape vector they are of. Where each run
needs its sequence, the rows lie sequence by sequence, each from a new row tile; `tile` and `row` count the row tiles and positions of the
groups before. -/
structure RowGroup where
  sv : List Nat
  gen : Nat
  adapter : Nat
  parts : List SeqPart
  ext : Extents
  tile : Nat
  row : Nat
deriving DecidableEq, Repr

/-- The part of a group that a row tile is of; the first where the extent is zero. -/
def RowGroup.partAt (g : RowGroup) (tile : Nat) : Option SeqPart :=
  match g.parts with
  | [p] => some p
  | ps => (ps.find? (fun p => decide (p.first ≤ tile) && decide (tile < p.first + p.tiles))).orElse (fun _ => ps.head?)
/-- The row tiles that a group has. -/
def RowGroup.tiles (g : RowGroup) (l : Layer) : Nat := if l.byRegion then l.regions * l.regionTiles g.ext.y g.ext.x else g.ext.m

/-- A sequence's contribution to the shape vector (14 R369): four words, value and variable. -/
def Seq.vector (q : Seq) : List Nat :=
  (List.range 16).map (fun v => ((q.contrib.filter (fun w => decide (w.toNat / 2 ^ 28 = v))).map (fun w => w.toNat % 2 ^ 28)).sum)
/-- Two shape vectors added. -/
def svAdd (a b : List Nat) : List Nat := (List.range 16).map (fun i => a[i]?.getD 0 + b[i]?.getD 0)
def svZero : List Nat := List.replicate 16 0

/-- The sequences of a step that live, each with what it brings to the step: all of its shape where it is alone, else the contribution
bound at its formation (14 R358, R370). -/
def State.stepSeqs (s : State) (t : Step) : List (Nat × Seq × List Nat) :=
  t.ents.filterMap (fun e => (s.seq e.seq).map (fun q => (e.seq, q, if t.ents.length = 1 then t.shape else e.sv)))

/-- The sequences of a step by pinned generation, ascending, and by adapter within one where the layer takes an adapter (12 R314). -/
def State.genGroups (s : State) (t : Step) (cut : Bool) : List (List (Nat × Seq × List Nat)) :=
  ((s.stepSeqs t).foldl (fun (m : AMap (List (Nat × Seq × List Nat))) e =>
    let key := 4096 * e.2.1.gen + (if cut then e.2.1.adapter else 0)
    AMap.insert m key (AMap.getD m [] key ++ [e])) []).map (·.2)
/-- Whether a layer takes an adapter. -/
def Plan.takesAdapter (p : Plan) (l : Layer) : Bool := match p.wgtEnt l.layer with | some w => w.parts.testBit 3 | none => false

/-- Extra passes of a step over the weights: generation groups, and the cuts by adapter of a layer that takes one (12 R314). -/
def State.extraPasses (s : State) (t : Step) (p : Plan) : Nat :=
  (s.genGroups t (p.wgt.any (fun w => w.parts.testBit 3))).length - 1

/-- The rows of sequences one after another. -/
def layParts (l : Layer) : Nat → Nat → List (Nat × Seq × List Nat) → List SeqPart
  | _, _, [] => []
  | tile, row, e :: es =>
    let p : SeqPart := ⟨e.1, tile, row, l.extent e.2.2 1, e.2.2⟩
    p :: layParts l (tile + p.tiles) (row + p.pos) es

/-- Whether every run of a layer is of one sequence: attention layers and score layers (05 R137, R140; 09 R235). -/
def Plan.bySequence (p : Plan) (l : Layer) : Bool :=
  (p.attEnt l.layer).isSome || p.roll.any (fun r => r.scoreLayer == l.layer)

/-- The M extents of a layer before they are laid out one after another: one for each group; one for each sequence where a spatial layer's
runs are of one sequence each (DESIGN CHOICE, log entry 83). -/
def State.rawGroups (s : State) (t : Step) (p : Plan) (l : Layer) : List RowGroup :=
  let gs := s.genGroups t (p.takesAdapter l)
  let mk (es : List (Nat × Seq × List Nat)) (sv : List Nat) (parts : List SeqPart) : RowGroup :=
    let e := p.extents l sv
    let ext := if parts = [] ∨ l.spatial then e
      else { e with mPos := (parts.map (·.pos)).sum, m := (parts.map (·.tiles)).sum }
    match es with
    | [] => ⟨sv, 0, 0, parts, ext, 0, 0⟩
    | e :: _ => ⟨sv, e.2.1.gen, if p.takesAdapter l then e.2.1.adapter else 0, parts, ext, 0, 0⟩
  if gs = [] then [mk [] t.shape []]
  else if p.bySequence l ∧ l.spatial then gs.flatten.map (fun e => mk [e] e.2.2 (layParts l 0 0 [e]))
  else gs.map (fun g => mk g (if gs.length = 1 then t.shape else (g.map (·.2.2)).foldl svAdd svZero)
    (if p.bySequence l then layParts l 0 0 g else []))
/-- Groups laid out one after another. -/
def layGroups (l : Layer) : Nat → Nat → List RowGroup → List RowGroup
  | _, _, [] => []
  | tile, row, g :: gs => { g with tile := tile, row := row } :: layGroups l (tile + g.tiles l) (row + g.ext.mPos) gs
/-- The M extents of a layer in a step. -/
def State.rowGroups (s : State) (t : Step) (p : Plan) (l : Layer) : List RowGroup := layGroups l 0 0 (s.rawGroups t p l)
/-- Rows and row tiles of a layer in a step. -/
def State.rowsOf (s : State) (t : Step) (p : Plan) (l : Layer) : Nat := ((s.rawGroups t p l).map (fun g => g.ext.mPos)).sum
def State.tilesOf (s : State) (t : Step) (p : Plan) (l : Layer) : Nat := ((s.rawGroups t p l).map (fun g => g.tiles l)).sum

/-! Argument blocks. -/

/-- The 128 words of an argument block from those that are set. -/
def argWords (m : AMap Nat) : List W32 := (List.range 128).map (fun i => BitVec.ofNat 32 (AMap.getD m 0 i))
/-- An address put in two words, the low one first. -/
def putAddr (m : AMap Nat) (w a : Nat) : AMap Nat := AMap.insert (AMap.insert m w (a % 2 ^ 32)) (w + 1) (a / 2 ^ 32)
def putWords (m : AMap Nat) (w : Nat) : List Nat → AMap Nat
  | [] => m
  | v :: vs => putWords (AMap.insert m w v) (w + 1) vs

/-- The mask of the last tile of an extent (R114), where a block ends there; all ones elsewhere; a free value for an empty
extent. -/
def tailMask (ext last total : Nat) (fv : Nat) : Nat :=
  if ext = 0 then fv % 2 ^ 32
  else if last = total then 2 ^ ((ext - 1) % 32 + 1) - 1
  else 2 ^ 32 - 1

/-- What a run's arguments are made from. -/
structure RunCtx where
  step : Step
  book : Playbook
  index : Nat
  layer : Layer
  prec : PrecEnt
  group : RowGroup

def RunCtx.ext (x : RunCtx) : Extents := x.group.ext
def RunCtx.plan (x : RunCtx) : Plan := x.book.plan
/-- Whether the layer of a run is in fallback in its step. -/
def RunCtx.fallback (x : RunCtx) : Bool := AMap.getD x.step.modes false x.index
/-- The kernel of the runs of a layer. -/
def RunCtx.kernel (x : RunCtx) : Nat := if x.fallback && x.prec.krnF != 0xFFFF then x.prec.krnF else x.prec.krnP

/-- The address and length of a part's operand for a run: from a column tile and a K micro-block, or as the part is laid out. -/
def State.partAddr (s : State) (x : RunCtx) (part expert off : Nat) : Option (Nat × Nat × Nat) :=
  (s.findPart x.book.set x.group.gen x.layer.layer part expert).map (fun e =>
    (blockBytes * e.1 + e.2.off + off, blockBytes * e.1 + e.2.off, e.2.bytes))

/-- The offset of a micro-block in a part of format `fmt` with `nmb` micro-blocks along K (12 R306). -/
def microOff (fmt nmb j kb : Nat) : Nat := (j * nmb + kb) * (opDims fmt).1

/-- The words of a weight entry (12 R309): the arguments with them, and the parts the run reads. -/
def State.weightArgs (s : State) (x : RunCtx) (n0 kb0 g0 : Nat) (a : AMap Nat) : AMap Nat × List (Nat × Nat) :=
  match x.plan.wgtEnt x.layer.layer with
  | none => (a, [])
  | some w =>
    let ex := if w.experts = 0 then 0xFFFF else g0
    let nmb := storedK w.k / 32
    let p0 := if w.parts.testBit 0 then s.partAddr x 0 ex (microOff x.prec.bFmt nmb n0 (kb0 * x.layer.kbMb)) else none
    let p1 := if w.parts.testBit 1 then s.partAddr x 1 ex ((n0 * x.prec.wheyBlocks + kb0) * 2048) else none
    let p2 := if w.parts.testBit 2 then s.partAddr x 2 ex (128 * n0) else none
    let ad := if w.parts.testBit 3 && x.group.adapter != 0 then AMap.find? s.wgt.adapters x.group.adapter else none
    let adPart (k : Nat) : Option (Nat × Part) := match ad with
      | none => none
      | some d => match AMap.find? s.wgt.shards d.obj with
        | none => none
        | some h => (h.parts.find? (fun q => decide (q.layer = x.layer.layer) && decide (q.part = k))).map (fun q => (d.obj, q))
    let a3 : Option (Nat × Nat × Nat) := (adPart 3).map (fun e =>
      (blockBytes * e.1 + e.2.off + microOff e.2.fmt (e.2.k / 32) 0 (kb0 * x.layer.kbMb), blockBytes * e.1 + e.2.off, e.2.bytes))
    let a4 : Option (Nat × Nat × Nat) := (adPart 4).map (fun e =>
      (blockBytes * e.1 + e.2.off + microOff e.2.fmt (e.2.k / 32) n0 0, blockBytes * e.1 + e.2.off, e.2.bytes))
    let put (a : AMap Nat) (w : Nat) (q : Option (Nat × Nat × Nat)) : AMap Nat := putAddr a w (match q with | some t => t.1 | none => 0)
    let b1 := match p0 with | some t => putAddr a 10 t.1 | none => a
    let b2 := match p2 with | some t => putAddr b1 14 t.1 | none => b1
    (put (put (put b2 122 p1) 124 a3) 126 a4, ([p0, p1, p2, a3, a4].filterMap id).map (fun t => (t.2.1, t.2.2)))

/-- The output positions of a run, by the rows and by the columns they take, and the linear index of the first (08 R215). A run without a
position has no row and no column. -/
def outRange (u : WorkUnit) (l : Layer) (e : Extents) (m : Rng) : List Nat × List Nat × Nat :=
  let y := if l.byRegion then u.y else (0, e.y)
  let x := if l.byRegion then u.x else (0, e.x)
  let w := max x.2 1
  let q0 := 32 * m.1
  let q1 := min (32 * (m.1 + m.2)) (y.2 * x.2)
  let rows := (List.range y.2).filter (fun i => decide (q0 < w * (i + 1)) && decide (w * i < q1) && decide (q0 < q1))
  let cols := (List.range x.2).filter (fun j => rows.any (fun i => decide (q0 ≤ w * i + j) && decide (w * i + j < q1)))
  (rows.map (y.1 + ·), cols.map (x.1 + ·), (y.1 + q0 / w) * e.x + x.1 + q0 % w)

/-- The taps along an axis that read a position inside [0, ext) for one of the outputs (08 R215). -/
def tapsIn (outs : List Nat) (stride before dil k ext : Nat) : List Nat :=
  (List.range k).filter (fun t => outs.any (fun i =>
    let p := i * stride + t * dil
    decide (before ≤ p) && decide (p < before + ext)))

/-- The words of a convolution entry (08 R215), and the taps outside the rectangle of those included (08 R216). -/
def convArgs (c : ConvEnt) (sv : List Nat) (u : WorkUnit) (l : Layer) (e : Extents) (m : Rng) (fv : Nat → Nat) : List Nat × Nat :=
  let yi := Plan.dimOf sv c.inYSpec
  let xi := Plan.dimOf sv c.inXSpec
  let o := outRange u l e m
  let all := c.padMode ≠ 0 && c.kind ≠ 3
  let ty := if all then List.range c.kh else tapsIn o.1 c.sy c.pt c.dy c.kh yi
  let tx := if all then List.range c.kw else tapsIn o.2.1 c.sx c.pl c.dx c.kw xi
  let span (ts : List Nat) : Nat := match ts with | [] => 0 | t :: rest => (t :: rest).getLastD 0 + 1 - t
  let word (ts : List Nat) (i : Nat) : Nat := match ts with
    | [] => fv i % 2 ^ 32
    | t :: rest => t + 2 ^ 16 * (t :: rest).getLastD 0
  ([word ty 8, word tx 9, o.2.2, xi, yi, e.x], c.kh * c.kw - span ty * span tx)

/-- The layout-conversion descriptors of a layer with a convolution entry (08 R210): channels and width of the side that is not regrouped,
and the factor, for the input and for the output (R222); element size and pitch are what the spec leaves open (free values). -/
def convDescs (c : ConvEnt) (sv : List Nat) (e : Extents) (fv : Nat → Nat) : W64 × W64 :=
  let d (ch x code i : Nat) : W64 :=
    let f := regroupFactor code
    BitVec.ofNat 64 (fv i % 3 + 4 * (max 1 (min (ch / (f * f)) 4096) - 1) + 2 ^ 14 * (min (max (f * x) 1) 16384 - 1) + 2 ^ 28 * code +
      2 ^ 32 * (64 * (fv (i + 1) % 2 ^ 26)))
  (d c.cIn (Plan.dimOf sv c.inXSpec) (c.regroup % 4) 10, d c.cOut e.x (c.regroup / 4 % 4) 12)

/-- The first element of a core block in a huddle's FP32 buffer: row-major over the `rows` rows of the layer, groups outermost (log entry
23). -/
def huddleOff (x : RunCtx) (rows : Nat) (u : WorkUnit) (b : CoreBlock) : Nat :=
  let row := match x.group.parts, x.group.partAt b.m.1 with
    | [], _ => 32 * b.m.1
    | _, some p => p.row + 32 * (b.m.1 - p.first)
    | _, none => 0
  4 * ((b.g.1 * rows + x.group.row + u.rowBase + row) * x.ext.nPos + 32 * b.n.1)

/-- The row tile of a core block among those of its layer in the step. -/
def RunCtx.tileAt (x : RunCtx) (u : WorkUnit) (b : CoreBlock) : Nat :=
  x.group.tile + (if x.layer.byRegion then u.region * x.layer.regionTiles x.ext.y x.ext.x else 0) + b.m.1
/-- Where the partial record of a row tile, query head and unit lies from the base of a layer's records (05 R152; log entry 23). -/
def Merging.off (m : Merging) (tile head unit : Nat) : Nat := ((tile * m.heads + head) * m.units + unit) * m.bytes

/-- The page slot of a core block, counted from the first that the step writes of its sequence, and its row tile in the page (05 R137). -/
def RunCtx.pageAt (x : RunCtx) (b : CoreBlock) : Nat × Nat :=
  let t := b.m.1 - (match x.group.partAt b.m.1 with | some p => p.first | none => 0)
  (t / 8, t % 8)

/-- The address of a write run's first micro-block in its page (05 R137). -/
def State.writeAddr (s : State) (x : RunCtx) (a : AttEnt) (b : CoreBlock) : Option Nat :=
  match (x.group.partAt b.m.1).bind (fun p => s.seq p.seq) with
  | none => none
  | some q =>
    let hd := a.kvHeads * a.dblk
    let part := b.n.1 / hd % 2
    let at' := x.pageAt b
    (s.slotPage q x.plan a.kvIndex (b.n.1 / (2 * hd)) (q.writeSlot + at'.1)).map (fun e =>
      let sz := pageStored a.fmt
      (s.pageAddr q.court (e.1 % 2 ^ 26)).1 + part * (8 * hd * sz) + at'.2 * (if part = 0 then a.dblk else 1) * sz)

/-- The score record of a run's sequence (09 R235). -/
def State.scoreAddr (s : State) (x : RunCtx) (seq : Option Nat) : Option Nat :=
  if x.plan.roll.any (fun r => r.scoreLayer == x.layer.layer) then
    match AMap.find? s.sch.scores x.step.playbook, seq with
    | some t, some i => some (blockBytes * t + 16 * i)
    | _, _ => none
  else none

/-- The output address of a run: its place in the huddle's buffer, its merge record, its page, its score record; a free value for a tensor
whose address the spec does not give. -/
def State.outAddr (s : State) (x : RunCtx) (u : WorkUnit) (b : CoreBlock) (fv : Nat → Nat) : Nat :=
  let free := fv 2 % 2 ^ 52
  match AMap.find? x.step.huddles x.index with
  | some h => h.buf + huddleOff x (s.rowsOf x.step x.plan x.layer) u b
  | none => match x.plan.merging x.layer, AMap.find? x.step.merges x.index with
    | some m, some base =>
      let head := match x.plan.attEnt x.layer.layer with
        | some a => b.g.1 * a.qPerKv * a.kvHeads + b.n.1 / max 1 a.dblk
        | none => 0
      base.1 + m.off (x.tileAt u b) head (if m.scan then u.chUnit else u.kUnit)
    | _, _ => match x.plan.attEnt x.layer.layer with
      | some a => if a.role = 0 then (s.writeAddr x a b).getD free else free
      | none => (s.scoreAddr x ((x.group.partAt b.m.1).map (·.seq))).getD free

/-- The words every run of a layer shares (R113), but the counts, masks and K flags. -/
def State.baseArgs (s : State) (x : RunCtx) (us : List WorkUnit) (u : WorkUnit) (b : CoreBlock) (kb0 : Nat) (fv : Nat → Nat) :
    AMap Nat × List (Nat × Nat) × Nat × Option (W64 × W64) :=
  let conv := x.plan.convEnt x.layer.layer
  let ks := match x.plan.kernels[x.kernel]? with | some k => k.consts | none => []
  let a0 := AMap.insert ([] : AMap Nat) 7 (if x.layer.spatial then edgesWord us u else 0)
  let a1 := putAddr (putAddr (putAddr a0 8 (fv 0 % 2 ^ 52)) 10 (fv 1 % 2 ^ 52)) 12 (s.outAddr x u b fv)
  let a2 := putAddr a1 14 (if x.layer.bias then fv 3 % 2 ^ 52 else 0)
  let a3 := AMap.insert a2 16 x.layer.layer
  let a4 := putWords a3 (if conv.isSome then 23 else 17) ks
  let cv := match conv with
    | none => ([], 0)
    | some c => convArgs c x.group.sv u x.layer x.ext b.m fv
  let a5 := putWords a4 17 cv.1
  let w := s.weightArgs x b.n.1 kb0 b.g.1 a5
  (w.1, w.2, cv.2, conv.map (fun c => convDescs c x.group.sv x.ext fv))

/-- The pages of a unit of a key split: its share of the walk, in walk order (05 R152). -/
def walkShare (u : WorkUnit) (units : Nat) (w : List (Nat × Page)) : List (Nat × Page) :=
  let r := shareOf (0, w.length) (u.kUnit % max 1 units) units
  (w.drop r.1).take r.2
/-- The units of a key split in this module: those of the levels below the ring (05 R152). -/
def Layer.localUnits (l : Layer) : Nat := splitProduct ((l.splits 3).filter (fun x => decide (x.1 ≠ 4)))

/-- The kind of the runs of a layer. -/
def RunCtx.kind (x : RunCtx) : RunKind :=
  match x.plan.attEnt x.layer.layer with
  | some a => if a.role = 0 then .write else .read
  | none => .plain

/-- The run of a core block along one piece of K: pieces (first K-block, count), whether it is the first and the last, the walk
of a read layer and what its mask excluded. -/
def State.makeRun (s : State) (x : RunCtx) (us : List WorkUnit) (u : WorkUnit) (b : CoreBlock) (block : Nat) (kr : Rng)
    (kFirst kLast zero : Bool) (walk : List PageDesc) (fv : Nat → Nat) : Run :=
  let base := s.baseArgs x us u b kr.1 fv
  let e := x.ext
  let part := x.group.partAt b.m.1
  let mExt := if x.layer.byRegion then u.y.2 * u.x.2 else match part with | some p => p.pos | none => e.mPos
  let mEnd := b.m.1 + b.m.2 - (if x.layer.byRegion then 0 else match part with | some p => p.first | none => 0)
  let noKs := noK x.plan x.layer
  let read := decide (x.kind = .read)
  let kmb := ceilDiv e.kPos 32
  let tail := if !read && !noKs && decide (0 < kr.2) && decide (kr.1 + kr.2 = e.k) then kmb % x.layer.kbMb else 0
  let zeroK := !read && !noKs && decide (e.k = 0)
  let flags := b2n x.fallback + 2 * b2n kFirst + 4 * b2n kLast + 8 * b2n zeroK + 16 * b2n x.layer.bias
  let a := putWords base.1 0 [b.m.2, b.n.2, if read then walk.length else if noKs then 0 else kr.2, tail,
    tailMask mExt mEnd (ceilDiv mExt 32) (fv 4), tailMask e.nPos (b.n.1 + b.n.2) e.n (fv 5), flags]
  { court := x.step.court
    ctx := x.step.ctx
    step := x.step.num
    lc := x.step.lc
    playbook := x.step.playbook
    layer := x.index
    kind := x.kind
    core := u.core
    seq := part.map (·.seq)
    kernel := x.kernel
    fallback := x.fallback
    args := argWords a
    walk := walk
    zeroExt := zero
    kFirst := kFirst
    kLast := kLast
    skipTaps := base.2.2.1
    contributes := (AMap.find? x.step.huddles x.index).isSome
    pageSlot := (x.pageAt b).1
    group := b.g.1
    block := block
    parts := base.2.1
    xcvt := base.2.2.2
    start := 0
    recalled := false }

/-- The page that holds a run's queries, by the geometry of the step (05 R130), where no page of its slot lies in this module. -/
def AttEnt.queryPage (a : AttEnt) (q : Seq) (k pos : Nat) : Page :=
  let f := a.pageAt q.frame k
  ⟨1, false, min 256 (pos - 256 * k), 0, f.1, f.2, q.ctx, q.writeSlot + k, a.kvIndex, 0⟩

/-- The walk of a run of a read layer: its descriptors, and the pages the mask excluded. -/
def State.runWalk (s : State) (x : RunCtx) (u : WorkUnit) (b : CoreBlock) : List PageDesc × Nat :=
  match x.plan.attEnt x.layer.layer, x.group.partAt b.m.1 with
  | some a, some p => match s.seq p.seq with
    | none => ([], 0)
    | some q =>
      let k := (x.pageAt b).1
      let w := s.walkPages q x.plan a b.g.1 (q.writeSlot + k) (a.queryPage q k p.pos)
      let mine := walkShare u x.layer.localUnits w.1
      (((List.range mine.length).zip mine).map (fun e => s.pageDesc p.seq q a b.g.1 e.1 mine.length e.2),
        if u.kUnit % max 1 x.layer.localUnits = 0 then w.2 else 0)
  | _, _ => ([], 0)

/-- The runs of one core block, with the pages excluded from its walk. -/
def State.blockRuns (s : State) (x : RunCtx) (us : List WorkUnit) (u : WorkUnit) (b : CoreBlock) (block : Nat) (zero : Bool)
    (fv : Nat → Nat) : List (Run × Nat) :=
  if x.kind = .read then
    let w := s.runWalk x u b
    [(s.makeRun x us u b block (0, 0) true true (zero || w.1.isEmpty) w.1 fv, w.2)]
  else if noK x.plan x.layer ∨ u.k.2 = 0 then [(s.makeRun x us u b block (u.k.1, 0) true true zero [] fv, 0)]
  else
    let ps := blocksOf u.k (x.layer.count0 3)
    let ps1 := if zero then ps.take 1 else ps
    ((List.range ps1.length).zip ps1).map (fun e =>
      (s.makeRun x us u b block e.2 (decide (e.1 = 0)) (decide (e.1 + 1 = ps1.length)) zero []
        (fun i => fv (16 * e.1 + i)), 0))

/-- Whether a unit holds work of a layer none of whose extents is zero. -/
def WorkUnit.holds (u : WorkUnit) (l : Layer) (e : Extents) (read noKs : Bool) : Bool :=
  decide (0 < u.m.2) && decide (0 < u.n.2) && decide (0 < u.g.2) &&
  (!l.spatial || (decide (0 < u.y.2) && decide (0 < u.x.2))) &&
  (read || noKs || decide (0 < u.k.2) || decide (e.k = 0))

/-- The core blocks of one M extent of a layer that this module's units run, each with its unit and its number (R103, R109). -/
def State.dealBlocks (s : State) (x : RunCtx) (ring first : Nat) : List WorkUnit × List (WorkUnit × CoreBlock × Nat) :=
  let e := x.ext
  let l := x.layer
  let us := s.unitsOf x.step.court ring l e
  let zero := decide (e.mPos = 0) || decide (e.nPos = 0) || decide (e.g = 0)
  let mine := if zero then us else us.filter (fun u => u.holds l e (decide (x.kind = .read)) (noK x.plan l))
  (us, ((List.range mine.length).zip mine).flatMap (fun p =>
    let bs := l.coreBlocks p.2 (if l.spatial then (x.group.parts.map (fun q => { q with pos := 32 * (p.2.m.1 + p.2.m.2) })) else x.group.parts)
      (decide (x.kind ≠ .plain))
    let bs1 := if zero then bs.take 1 else bs
    ((List.range bs1.length).zip bs1).map (fun q => (p.2, q.2, first + 100000 * p.1 + q.1))))

/-- The runs of one M extent of a layer. -/
def State.dealGroup (s : State) (x : RunCtx) (ring first : Nat) : List (Run × Nat) :=
  let zero := decide (x.ext.mPos = 0) || decide (x.ext.nPos = 0) || decide (x.ext.g = 0)
  let d := s.dealBlocks x ring first
  d.2.flatMap (fun q => s.blockRuns x d.1 q.1 q.2.1 q.2.2 zero (fun i => s.fv (1000000 * q.2.2 + i)))

/-- The update runs of a recurrent layer: one for each stream of the step and each state core of its slot (07 R191), by generation and
adapter (12 R314). -/
def State.updateRuns (s : State) (x : RunCtx) (r : RecEnt) : List (Run × Nat) :=
  let c := s.court x.step.court
  (s.genGroups x.step (x.plan.takesAdapter x.layer)).flatten.flatMap (fun e => match e.2.1.stream.slot with
    | none => []
    | some k =>
      let tokens := x.layer.extent e.2.2 1
      (r.ranks k).filterMap (fun rank => (c.coreAt rank).map (fun core =>
        let ts := (List.range r.tiles).filter (fun t => decide ((r.place k t).1 = rank))
        let first := ts.headD 0
        let fv := fun i => s.fv (1000000 * (32768 * e.1 + core) + i)
        let ks := match x.plan.kernels[x.kernel]? with | some k => k.consts | none => []
        let out := (s.scoreAddr x (some e.1)).getD (fv 2 % 2 ^ 52)
        let a0 := putAddr (putAddr (putAddr ([] : AMap Nat) 8 (fv 0 % 2 ^ 52)) 10 (fv 1 % 2 ^ 52)) 12 out
        let a1 := putAddr a0 14 (if x.layer.bias then fv 3 % 2 ^ 52 else 0)
        let a2 := putWords (AMap.insert a1 16 x.layer.layer) 17 ks
        let a3 := putWords a2 0 [ts.length, first, tokens, x.plan.stateBase x.layer.layer + (r.place k first).2, fv 4 % 2 ^ 32,
          fv 5 % 2 ^ 32, b2n x.fallback + 2 + 4 + 16 * b2n x.layer.bias]
        let w := s.weightArgs { x with group := { x.group with gen := e.2.1.gen, adapter := e.2.1.adapter } } 0 0 0 a3
        ({ court := x.step.court
           ctx := x.step.ctx
           step := x.step.num
           lc := x.step.lc
           playbook := x.step.playbook
           layer := x.index
           kind := .recur
           core := core
           seq := some e.1
           kernel := x.kernel
           fallback := x.fallback
           args := argWords w.1
           walk := []
           zeroExt := decide (tokens = 0)
           kFirst := true
           kLast := true
           skipTaps := 0
           contributes := false
           pageSlot := 0
           group := 0
           block := 32768 * e.1 + core
           parts := w.2
           xcvt := none
           start := 0
           recalled := false }, 0))))

/-- The index of this module among the units of a split across the ring (17 R455): its rank among the members. -/
def State.ringRank (s : State) : Nat :=
  (s.ring.members.filter (fun e => decide (e.1 < s.ring.position))).length

/-- The M extents of a layer in a step, each with what its runs' arguments are made from. -/
def State.layerCtxs (s : State) (t : Step) (b : Playbook) (i : Nat) : List RunCtx :=
  match b.plan.layers[i]? with
  | none => []
  | some l => match b.plan.precEnt l.layer with
    | none => []
    | some e => (s.rowGroups t b.plan l).map (fun g => ⟨t, b, i, l, e, g⟩)

/-- The runs of a layer of a step, in dispatch order, with the pages that masks excluded. -/
def State.dealLayer (s : State) (t : Step) (b : Playbook) (i : Nat) : List (Run × Nat) :=
  let xs := s.layerCtxs t b i
  match xs, (b.plan.layers[i]?).bind (fun l => b.plan.recEnt l.layer) with
  | x :: _, some r => s.updateRuns x r
  | _, _ => ((List.range xs.length).zip xs).flatMap (fun x => s.dealGroup x.2 s.ringRank (100000000 * x.1))

/-- The pages that this module's write runs of a layer fill: sequence, group and page counted from the first that the step writes (05 R137,
R151). -/
def State.writeCells (s : State) (t : Step) (b : Playbook) (i : Nat) (a : AttEnt) : List (Nat × Nat × Nat) :=
  ((s.layerCtxs t b i).flatMap (fun x => if x.ext.mPos = 0 then [] else
    (s.dealBlocks x s.ringRank 0).2.filterMap (fun q =>
      if q.2.1.m.2 = 0 then none
      else (x.group.partAt q.2.1.m.1).map (fun p => (p.seq, q.2.1.n.1 / (2 * (a.kvHeads * a.dblk)), (x.pageAt q.2.1).1))))).eraseDups

/-- A row tile of a layer: its place among those of the step, the rows it is one of, which of their row tiles it is, the sequence. -/
structure TileAt where
  tile : Nat
  rows : Nat
  sub : Nat
  region : Nat
  part : Option SeqPart

/-- The row tiles of an M extent. -/
def RunCtx.tileList (x : RunCtx) : List TileAt :=
  if x.layer.byRegion then
    (List.range x.layer.regions).flatMap (fun i =>
      let q := x.layer.regionAt x.ext i
      (List.range (ceilDiv (q.1.2 * q.2.2) 32)).map (fun j =>
        ⟨x.group.tile + i * x.layer.regionTiles x.ext.y x.ext.x + j, q.1.2 * q.2.2, j, i, x.group.parts.head?⟩))
  else match x.group.parts with
    | [] => (List.range x.ext.m).map (fun j => ⟨x.group.tile + j, x.ext.mPos, j, 0, none⟩)
    | ps => ps.flatMap (fun p => (List.range p.tiles).map (fun j => ⟨x.group.tile + p.first + j, p.pos, j, 0, some p⟩))

/-- The merge runs of a read layer with a key split: one for each query row tile (05 R153), on the court's usable cores in
turn. -/
def State.mergeRuns (s : State) (t : Step) (b : Playbook) (i : Nat) : List Run :=
  let cores := ((s.courtDies t.court).flatMap (fun d => (List.range 625).map (625 * d + ·))).filter s.coreUsable
  (s.layerCtxs t b i).flatMap (fun x => match b.plan.attEnt x.layer.layer, b.plan.merging x.layer, AMap.find? t.merges i with
    | some a, some mg, some m =>
      let d4 := (digitsOf s.ringRank (x.layer.level 4)).filter (fun d => d.1 == 1)
      let mine := cutBy d4 1 (0, x.group.tiles x.layer)
      (x.tileList.filter (fun q => decide (x.group.tile + mine.1 ≤ q.tile) && decide (q.tile < x.group.tile + mine.1 + mine.2))).filterMap
        (fun q => (cores[q.tile % cores.length]?).map (fun core =>
          let ks := match b.plan.kernels[a.krnMerge]? with | some k => k.consts | none => []
          let fv := fun j => s.fv (1000000 * q.tile + j)
          let w := putWords (putAddr (putAddr ([] : AMap Nat) 8 (m.1 + mg.off q.tile 0 0)) 12 (fv 0 % 2 ^ 52)) 17 ks
          let w1 := putWords (AMap.insert w 16 x.layer.layer) 0 [1, fv 1 % 2 ^ 32, mg.units, 0,
            tailMask q.rows (q.sub + 1) (ceilDiv q.rows 32) 0, fv 2 % 2 ^ 32, 2 + 4]
          let w2 := s.weightArgs x 0 0 0 w1
          { court := t.court
            ctx := t.ctx
            step := t.num
            lc := t.lc
            playbook := t.playbook
            layer := i
            kind := .merge
            core := core
            seq := q.part.map (·.seq)
            kernel := a.krnMerge
            fallback := AMap.getD t.modes false i
            args := argWords w2.1
            walk := []
            zeroExt := false
            kFirst := true
            kLast := true
            skipTaps := 0
            contributes := false
            pageSlot := q.sub
            group := 0
            block := q.tile
            parts := w2.2
            xcvt := none
            start := 0
            recalled := false }))
    | _, _, _ => [])

/-! The coach's merge of an arg-max over channels that several units hold (08 R220, R221). -/

/-- Whether a candidate takes the place of the running maximum: a greater value; NaN counts as greater than every number, and a later NaN
replaces none. -/
def maxBeats (cand run : Nat) : Bool :=
  match FV.ofBits .fp32 cand, FV.ofBits .fp32 run with
  | _, .nan => false
  | .nan, _ => true
  | c, r => r.lt c
/-- The pair of a row in partial records, merged in ascending unit order from minus infinity and zero: FP32 bits and index. -/
def scanRow (row : Nat) (recs : List (List Byte)) : Nat × Nat :=
  recs.foldl (fun best d =>
    let v := leAt d (4 * row) 4
    if maxBeats v best.1 then (v, leAt d (128 + 4 * row) 4 % 65536) else best) (0xFF800000, 0)
/-- The linear index of the output position of row `k` of a row tile (08 R215). -/
def RunCtx.position (x : RunCtx) (q : TileAt) (k : Nat) : Nat :=
  if x.layer.byRegion then
    let g := x.layer.regionAt x.ext q.region
    let p := 32 * q.sub + k
    (g.1.1 + p / max g.2.2 1) * x.ext.x + g.2.1 + p % max g.2.2 1
  else 32 * q.sub + k
/-- The pairs of an M extent, by output position. -/
def RunCtx.scanTiles (x : RunCtx) (mg : Merging) (recs : List Byte) : List (Nat × Nat × Nat) :=
  x.tileList.flatMap (fun q =>
    let ds := (List.range mg.units).map (fun u => bytesAt recs (mg.off q.tile 0 u) mg.bytes)
    (List.range (min 32 (q.rows - 32 * q.sub))).map (fun k => (x.position q k, scanRow k ds)))
/-- FP32 bits rounded to BF16. -/
def toBf16 (w : Nat) : Nat := (FV.ofBits .fp32 w).toBits .bf16 .nearest 0x7FC0

end Sys2Proof.Machine
end

