-- ==== Sys2Proof/Machine/Tiers.lean ====
section
/-! DEFINITION. Tier moves, the cave, and the messages of objects, tiers and quotas (11 R281 to R302). -/
namespace Sys2Proof.Machine

/-! Reservations (R282). -/

/-- Units of 4 KiB that a move reserves for a block in a tier: the largest image. -/
def reserveUnits (tier : Nat) : Nat := match tier with | 0 => 64 | 1 => 65 | _ => 68
/-- The blocks of an object that are not in a tier. -/
def State.blocksOutside (s : State) (b : Nat) (o : Obj) (tier : Nat) : List (Nat × Home) :=
  (s.homesOf b o).filter (fun e => e.2.tier != tier)
/-- What a move of an object into a tier reserves, in units of 4 KiB. -/
def State.moveNeed (s : State) (b : Nat) (o : Obj) (tier : Nat) : Nat := (s.blocksOutside b o tier).length * reserveUnits tier
/-- The checks of R282. -/
def State.moveCode (s : State) (b : Nat) (o : Obj) (tier : Nat) : Code :=
  let n := s.moveNeed b o tier
  if o.move.isSome then E_TIER_BUSY
  else if !s.quotaOk (o.payer tier) tier n then E_TIER_QUOTA
  else if !s.hasRoom tier n then E_TIER_NOROOM
  else 0
/-- A move accepted: its reservation is charged to the object's owner. -/
def State.startMove (s : State) (b : Nat) (o : Obj) (tier : Nat) (req : Option Req) : State :=
  let n := s.moveNeed b o tier
  let t := (s.setObj b { o with move := some ⟨tier, 0, n, req, none, s.tier.accepted, false⟩ }).chargeQuota (o.payer tier) tier n
  { t with tier := { t.tier with accepted := t.tier.accepted + 1 } }

/-! Placing a block (R277, R290, R295). -/

def Pkg.new : Pkg := ⟨0, 0, 0, 0⟩
def State.pkg (s : State) (k : Nat) : Pkg := AMap.getD s.tier.pkgs .new k
def State.setPkg (s : State) (k : Nat) (p : Pkg) : State := { s with tier := { s.tier with pkgs := AMap.insert s.tier.pkgs k p } }
/-- Units of 16 KiB of images in a package. -/
def State.pkgUnits (s : State) (k : Nat) : Nat :=
  (s.tier.blocks.map (fun e => match e.2 with | .cave p img _ => if p = k then ceilDiv img.length 16384 else 0 | _ => 0)).sum
/-- Units of 16 KiB of images a package holds at most: a twenty-fourth of the usable cave space (log entry 25). -/
def pkgLimit : Nat := 80000000000000 / 24 / 16384
/-- The package of a new image of `n` units: the lowest mean erase count among those with room, the lowest number on a tie. -/
def State.pickPkg (s : State) (n : Nat) : Nat :=
  let ok := (List.range 24).filter (fun k => decide (s.pkgUnits k + n ≤ pkgLimit))
  match ok with
  | [] => 0
  | k :: ks => ks.foldl (fun a b => if (s.pkg b).mean < (s.pkg a).mean then b else a) k

/-- Wear of a package that programs an image: how its erase counts rise is not stated (free values, log entry 2), but for their
order. -/
def State.wear (s : State) (k : Nat) : State :=
  let p := s.pkg k
  let most := p.most + s.fv 0 % 2
  let mean := min most (p.mean + s.fv 1 % 2)
  (s.setPkg k { p with most := most, mean := mean, least := min mean (p.least + s.fv 2 % 2) }).drawn

/-- Bytes programmed in the last 24 hours (R296). -/
def State.programmed (s : State) : Nat :=
  ((s.tier.progLog.filter (fun e => decide (s.counter.toNat < e.1 + 8640000000000))).map (·.2)).sum
/-- Whether `n` bytes more keep the programming budget. -/
def State.budgetOk (s : State) (n : Nat) : Bool :=
  decide (s.programmed + n ≤ s.tier.budget.toNat * 1000000 * 86400)
/-- An image programmed into the cave, in the package that is its turn. -/
def State.program (s : State) (img : List Byte) : State × Home :=
  let k := s.pickPkg (ceilDiv img.length 16384)
  let t := { s.tier with
    written := s.tier.written + BitVec.ofNat 64 img.length
    progLog := s.tier.progLog.filter (fun e => decide (s.counter.toNat < e.1 + 8640000000000)) ++ [(s.counter.toNat, img.length)] }
  (({ s with tier := t }).wear k, .cave k img [])

/-- An image written into chunks. -/
def State.writeChunks (s : State) (cs : List Nat) (img : List Byte) : State :=
  (cs.foldl (fun (r : State × List Byte) c => ((r.1.stackWrite 1 0xFFFF (4096 * c) (r.2.take 4096)).1, r.2.drop 4096)) (s, img)).1

/-- The data of block `b` placed in a tier. -/
def State.placeBlock (s : State) (b kind tier : Nat) (data : List Byte) : State × Home :=
  if tier = 0 then
    let r := s.pickRegion
    (((s.setRegion r (.fresh b)).stackWrite 1 0xFFFF (blockBytes * r) data).1, .fresh r)
  else
    let img := encBlock kind data
    if tier = 1 then
      let q := s.takeChunks (ceilDiv img.length 4096)
      (q.1.writeChunks q.2 img, .pressed img.length q.2)
    else s.program img

/-- Bytes a home stores. -/
def Home.stored : Home → Nat
  | .fresh _ => blockBytes
  | .pressed n _ => n
  | .cave _ img _ => img.length

/-- The ledger's line of an object (14 R377). -/
def Obj.line (o : Obj) : Nat := match o.owner with | some c => if c < 1024 then c else 1024 | none => 1024

/-- One block of an object's move (R283): read from its source, placed in the destination, committed; the reservation is cut to
the stored size and the source's charge released. The code of a source that cannot be read: then nothing changes. -/
def State.commitBlock (s : State) (b : Nat) (o : Obj) (m : Move) (k : Nat) (h : Home) : State × Code :=
  let r := s.pieceAny (umpAccess (match o.owner with | some c => c | none => 0xFFFF)) (blockBytes * k, blockBytes)
  if r.2.1 ≠ 0 then (r.1, r.2.1) else
  let p := r.1.placeBlock k o.kind m.dest r.2.2
  let s1 := (((p.1.freeHome h).setBlock k p.2).unchargeQuota (o.payer h.tier) h.tier h.units).unchargeQuota (o.payer m.dest) m.dest (reserveUnits m.dest)
  let s2 := (s1.chargeQuota (o.payer m.dest) m.dest p.2.units).setObj b
    { o with move := some { m with moved := m.moved + 1, resv := m.resv - reserveUnits m.dest, moving := false } }
  let s3 := { s2 with tier := { s2.tier with moves := s2.tier.moves + 1 } }
  ((s3.charge o.line (4 + 2 * h.tier) h.stored).charge o.line (5 + 2 * m.dest) p.2.stored, 0)

/-- A move ends: what is left of its reservation goes, and its request is answered (R300). -/
def State.endMove (s : State) (b : Nat) (code : Code) : State :=
  match AMap.find? s.tier.objs b with
  | none => s
  | some o => match o.move with
    | none => s
    | some m =>
      let s1 := (s.setObj b { o with move := none }).unchargeQuota (o.payer m.dest) m.dest m.resv
      let s2 := { s1 with tier := { s1.tier with budgetWait := s1.tier.budgetWait.filter (· ≠ b) } }
      match m.req with
      | none => s2
      | some r => s2.answer r code ([BitVec.ofNat 8 (s2.objTier b o), 0] ++ leBytes 4 m.moved ++ leBytes 8 (s2.objStored b o m.dest))

/-- The ranges of object addresses that an outstanding transfer of a core reaches: those of its map's side, where it converts. -/
def CoreRegs.reaches (c : CoreRegs) (x : Xfer) : List (Nat × Nat) :=
  let side (base : Nat) (f : MoveMap → List (Nat × Nat)) : List (Nat × Nat) :=
    match c.mapOf x.kind x.mod x.len with
    | some m => (f m).map (fun r => (base + r.1, r.2))
    | none => []
  match x.kind with
  | .mld => side x.src MoveMap.src
  | .mst => side x.dst MoveMap.dst
  | .vat => [(x.dst, x.len)]
  | .page => match x.page with
    | some d => [(d.addr, 2 * 64 * d.landed)]
    | none => []
  | _ => []
/-- Whether a core's outstanding transfer reaches object addresses [a, a + n): its moves accepted before a commit or a free
complete first (R283, R286). -/
def State.inFlight (s : State) (a n : Nat) : Bool :=
  s.cores.any (fun e => e.2.now.xfers.any (fun x => (e.2.now.reaches x).any (fun r =>
    decide (r.1 < a + n) && decide (a < r.1 + r.2))))

/-- What frees an object at a request: its move, if any, is answered first (R286). -/
def State.freeFor (s : State) (b : Nat) (r : Req) : State := (s.releaseObj b).answer r 0 []

/-- The next block of an object's move commits (R283); the last one, a source that cannot be read (R285), or a free of the object
(R286) ends the move. -/
def State.moveNext (s : State) (obj : Nat) (o : Obj) (m : Move) : State :=
  match s.blocksOutside obj o m.dest with
  | [] => match m.freeing with
    | some r => s.freeFor obj r
    | none => s.endMove obj 0
  | (k, h) :: rest =>
    let c := s.commitBlock obj o m k h
    match m.freeing with
    | some r => if c.2 ≠ 0 then (c.1.endMove obj c.2).freeFor obj r else c.1.freeFor obj r
    | none => if c.2 ≠ 0 then c.1.endMove obj c.2 else if rest = [] then c.1.endMove obj 0 else c.1

/-- Whether a core has a transfer outstanding into the block that a move takes next, or a relocation holds that block. -/
def State.moveBusy (s : State) (obj : Nat) (o : Obj) (m : Move) : Bool :=
  match s.blocksOutside obj o m.dest with
  | [] => false
  | (k, h) :: _ => s.inFlight (blockBytes * k) blockBytes ||
      (match h with | .fresh r => (AMap.find? s.mem.relocs r).isSome | _ => false)

/-- A move's next block enters the state moving, or, being in it, commits (R283). A block that a relocation holds waits for its commit. -/
def State.moveOn (s : State) (obj : Nat) (o : Obj) (m : Move) : State :=
  if s.moveBusy obj o m then s
  else if !m.moving ∧ m.freeing.isNone ∧ s.blocksOutside obj o m.dest ≠ [] then s.setObj obj { o with move := some { m with moving := true } }
  else s.moveNext obj o m

/-- The bytes of the image that the next block of a move into the cave programs; none where it cannot be read. -/
def State.nextImage (s : State) (obj : Nat) (o : Obj) : Nat :=
  match s.blocksOutside obj o 2 with
  | [] => 0
  | (k, _) :: _ =>
    let r := s.pieceAny (umpAccess 0xFFFF) (blockBytes * k, blockBytes)
    if r.2.1 ≠ 0 then 0 else (encBlock o.kind r.2.2).length
/-- The place of an object's move in the order of acceptance. -/
def State.moveOrder (s : State) (b : Nat) : Nat :=
  match AMap.find? s.tier.objs b with
  | some o => (match o.move with | some m => m.order | none => 0)
  | none => 0
/-- A move that waits for the programming budget, in its place by acceptance. -/
def State.awaitBudget (s : State) (obj : Nat) : State :=
  let w := s.tier.budgetWait
  let before (x : Nat) : Bool := decide (s.moveOrder x < s.moveOrder obj)
  { s with tier := { s.tier with budgetWait := w.filter before ++ [obj] ++ w.filter (fun x => !before x) } }
/-- Whether a move accepted earlier waits for the budget. -/
def State.budgetBefore (s : State) (obj : Nat) : Bool := s.tier.budgetWait.any (fun x => decide (s.moveOrder x < s.moveOrder obj))

/-- TIER_BLOCK_MOVE: the next block of an object's move enters the state moving, or commits. A move into the cave whose image would exceed
the programming budget, or that was accepted after one that waits for it, waits (R296). -/
def execTierBlockMove (obj : Nat) (s : State) : Host.Outcome State Fault Refusal :=
  .next <| match AMap.find? s.tier.objs obj with
  | none => s
  | some o => match o.move with
    | none => s
    | some m =>
      if s.tier.budgetWait.contains obj then s
      else if m.dest = 2 ∧ m.moving ∧ (s.budgetBefore obj ∨ !s.budgetOk (s.nextImage obj o)) then s.awaitBudget obj
      else s.moveOn obj o m

/-- CAVE_BUDGET_RELEASE: of the moves that wait for the programming budget the one accepted first proceeds by a block, once the budget
covers its image (R296). -/
def execCaveBudgetRelease (s : State) : Host.Outcome State Fault Refusal :=
  .next <| match s.tier.budgetWait with
  | [] => s
  | b :: rest => match AMap.find? s.tier.objs b with
    | none => s
    | some o => match o.move with
      | none => s
      | some m =>
        if s.moveBusy b o m ∨ !s.budgetOk (s.nextImage b o) then s
        else ({ s with tier := { s.tier with budgetWait := rest } }).moveOn b o m

/-! Relocations (R281, R284, R285; 10 R266). -/

/-- `n` bytes at a stack address copied to another, raw: corrected data for a correctable word, the raw codeword for an
uncorrectable one, which raises a record that fails no job. -/
def State.copyRaw (s : State) (src dst n : Nat) : State :=
  let mine (w : Nat) : Bool := decide (src ≤ 8 * w) && decide (8 * w < src + n)
  let s1 := ((s.mem.flips.filter (fun e => mine e.1)).map (·.1)).foldl (fun s w => (s.touch 0 0xFFFF w).1) s
  let s2 := s1.stackClear dst n
  { s2 with mem := { s2.mem with
    stack := (Mem.slice s1.mem.stack src n).foldl (fun m e => Mem.wr m (e.1 - src + dst) e.2) s2.mem.stack
    flips := (s1.mem.flips.filter (fun e => mine e.1)).foldl (fun m e => AMap.insert m (e.1 - src / 8 + dst / 8) e.2) s2.mem.flips } }

/-- A chunk in use moved to another place. -/
def State.moveChunk (s : State) (c : Nat) : State :=
  let q := s.takeChunk
  let s1 := (q.1.copyRaw (4096 * c) (4096 * q.2) 4096).freeChunk c
  { s1 with tier := { s1.tier with blocks := s1.tier.blocks.map (fun e => (e.1, match e.2 with
      | .pressed n cs => .pressed n (cs.map (fun x => if x = c then q.2 else x))
      | h => h)) } }

/-- A relocation counted, and its bytes charged to the unattributed line (14 R377). -/
def State.countRelocation (s : State) (tier n : Nat) : State :=
  let s1 := { s with tier := { s.tier with moves := s.tier.moves + 1 } }
  (s1.charge 1024 (4 + 2 * tier) n).charge 1024 (5 + 2 * tier) n

/-! A relocation within fresh (R284): the block stays writable, and every request is served from its source until the commit. -/

/-- The copy begins: every tile of region `r` is copied to a free region. -/
def State.startReloc (s : State) (block r : Nat) : State :=
  let q := s.pickRegion
  let t := (s.setRegion q (.fresh block)).copyRaw (blockBytes * r) (blockBytes * q) blockBytes
  { t with mem := { t.mem with relocs := AMap.insert t.mem.relocs r ⟨q, 0, []⟩ } }
/-- The dirty tiles copied again. -/
def State.recopy (s : State) (r : Nat) (x : Reloc) : State :=
  x.dirty.foldl (fun s t => s.copyRaw (blockBytes * r + 4096 * t) (blockBytes * x.dest + 4096 * t) 4096) s
/-- The commit: the block's home is the destination, and the source is free. -/
def State.commitReloc (s : State) (block r : Nat) (x : Reloc) : State :=
  let t := (((s.clearRegion r).setBlock block (.fresh x.dest)).stackClear (blockBytes * r) blockBytes).countRelocation 0 blockBytes
  { t with mem := { t.mem with relocs := AMap.erase t.mem.relocs r } }
/-- The next part of a relocation from region `r`: dirty tiles are copied again, at most twice; where none is left, or on the third round,
when no write comes between, it commits. -/
def State.stepReloc (s : State) (block r : Nat) (x : Reloc) : State :=
  if x.dirty = [] then s.commitReloc block r x
  else if x.rounds < 2 then
    let t := s.recopy r x
    { t with mem := { t.mem with relocs := AMap.insert t.mem.relocs r { x with rounds := x.rounds + 1, dirty := [] } } }
  else (s.recopy r x).commitReloc block r x
/-- Whether the move of a block's object has put that block into the state moving. -/
def State.isMoving (s : State) (block : Nat) : Bool :=
  match s.objAt block with
  | some (b, o) => (match o.move with
      | some m => m.moving && decide (((s.blocksOutside b o m.dest).head?.map (·.1)) = some block)
      | none => false)
  | none => false

/-- BLOCK_RELOCATION: a block that lies in stack addresses being vacated moves within its tier (R284; 10 R264), a fresh one in parts; without
free space it stays. -/
def execBlockRelocation (block : Nat) (s : State) : Host.Outcome State Fault Refusal :=
  .next <| match AMap.find? s.tier.blocks block with
  | some (.fresh r) =>
    match AMap.find? s.mem.relocs r with
    | some x => s.stepReloc block r x
    | none => if r < s.regionEnd ∨ s.freeRegions = 0 ∨ s.isMoving block then s else s.startReloc block r
  | some (.pressed _ cs) =>
    let out := cs.filter (fun c => decide (s.regionEnd ≤ c / 64))
    if out = [] ∨ (s.freeRegions = 0 ∧ s.freeChunks < out.length) then s
    else (out.foldl State.moveChunk s).countRelocation 1 (4096 * out.length)
  | some (.cave _ _ _) =>
    -- the fresh region that a caved page block keeps (14 R365)
    match List.find? (fun e => decide (e.2 = .fresh block) && decide (s.regionEnd ≤ e.1)) s.tier.regs with
    | some (r, _) => if s.freeRegions = 0 then s else (s.setRegion s.pickRegion (.fresh block)).clearRegion r
    | none => s
  | none => s

/-- The highest pressed region whose chunks fit into the free chunks of the others is emptied (R281; which region is the model's
choice, log entry 26). -/
def State.compact (s : State) : State :=
  let ps := s.pressedRegions
  let total := s.freeChunks
  match (ps.reverse).find? (fun e => decide (e.2.length ≤ total - (64 - e.2.length)) && decide (1 < ps.length)) with
  | none => s
  | some (r, used) =>
    if ps.any (fun e => decide (e.1 < r) && decide (e.2.length < 64)) then
      (used.foldl (fun s j => s.moveChunk (64 * r + j)) s).countRelocation 1 (4096 * used.length)
    else s
/-- PRESSED_COMPACTION. -/
def execPressedCompaction (s : State) : Host.Outcome State Fault Refusal := .next s.compact

/-! The cave (R295 to R297). -/

/-- The blocks whose image lies in a package. -/
def State.imagesIn (s : State) (k : Nat) : List (Nat × List Byte) :=
  s.tier.blocks.filterMap (fun e => match e.2 with | .cave p img _ => if p = k then some (e.1, img) else none | _ => none)
/-- One image of the cave programmed anew; one that cannot be read whole stays where it is, with a record (R280, R285). -/
def State.moveImage (s : State) (b : Nat) (img : List Byte) : State :=
  match AMap.find? s.tier.blocks b with
  | some (.cave _ _ []) =>
    let q := s.program img
    ((q.1.setBlock b q.2)).countRelocation 2 img.length
  | some (.cave k _ _) => s.corruptRecord { umpAccess 0xFFFF with unit := ident 2 (1024 + k / 6) } (blockBytes * b)
  | _ => s
/-- Tiles (block, tile) of a package's images whose flash pages the controller can correct no more (R280). -/
def State.losePages (s : State) (pkg : Nat) (lost : List (Nat × Nat)) : State :=
  lost.foldl (fun s e => match AMap.find? s.tier.blocks e.1 with
    | some (.cave k img l) => if k = pkg ∧ e.2 < 64 then s.setBlock e.1 (.cave k img (l ++ [e.2]).eraseDups) else s
    | _ => s) s

/-- A package whose erase counts spread by more than 200 gives up a cold image of its least-erased blocks (R295). Which image that
is the spec does not say (a free value). -/
def State.level (s : State) (pkg : Nat) : State :=
  let p := s.pkg pkg
  let is := s.imagesIn pkg
  if 24 ≤ pkg ∨ p.most ≤ p.least + 200 then s
  else match is[s.fv 3 % is.length]? with
    | none => s
    | some (b, img) => if s.budgetOk img.length then s.moveImage b img else s
/-- CAVE_LEVELLING: what flash pages of the package cannot be corrected since the last time (log entry 84), and the levelling itself. -/
def execCaveLevelling (r : CaveReport) (s : State) : Host.Outcome State Fault Refusal :=
  .next ((s.losePages r.pkg r.lost).level r.pkg)

/-- FLASH_BLOCK_RETIRE: a flash block of `bytes` bytes is retired, its images moved first; which images lay on it the spec does not
say (free values). Past the reserve of 16 TB usable space shrinks, and a record is raised (R297). -/
def execFlashBlockRetire (pkg bytes : Nat) (s : State) : Host.Outcome State Fault Refusal :=
  .next <|
    if 24 ≤ pkg then s
    else
      let is := s.imagesIn pkg
      let hit := ((List.range is.length).zip is).filter (fun e => decide (s.fv (10 + e.1) % 2 = 1))
      let s1 := hit.foldl (fun s e => s.moveImage e.2.1 e.2.2) s.drawn
      let p := s1.pkg pkg
      let s2 := s1.setPkg pkg { p with retired := p.retired + 1 }
      let total := s2.tier.retiredBytes + bytes
      let lost := total - 16000000000000
      let s3 := { s2 with tier := { s2.tier with retiredBytes := total, caveLost := lost } }
      if s2.tier.caveLost < lost then s3.raise (FRec.mk0 E_CAV_RESERVE 2 (ident 2 (1024 + pkg / 6))) else s3

/-! Messages (R298 to R302). -/

/-- MSG_OBJ_CREATE (R298). -/
def execMsgObjCreate (mbx : Nat) (s : State) : Host.Outcome State Fault Refusal :=
  .next (serve 0x0600 mbx (fun r s =>
    let size := r.fld 0 8
    let kind := r.fld 8 1
    if size = 0 ∨ 2 ^ 40 < size ∨ 5 < kind ∨ 1023 < r.ctx then s.refuse r E_OBJ_ARG 14
    else
      let c := s.createObj (some r.ctx) .client size kind (r.fld 9 1 % 2)
      c.1.answer r c.2.1 (leBytes 6 0 ++ leBytes 8 c.2.2)) s)

/-- The tensors a layer of an update plan names (13 R336). -/
def UpdLayer.tensors (l : UpdLayer) : List Nat := [l.w, l.g, l.m, l.v, l.stats, l.roots, l.mask].filter (· ≠ 0)
/-- Whether a registered update plan names an object (13 R349). -/
def State.planNames (s : State) (b : Nat) (o : Obj) : Bool :=
  s.upd.plans.any (fun e => e.2.layers.any (fun l => l.tensors.any (fun a =>
    decide (b ≤ a / blockBytes) && decide (a / blockBytes < b + o.blocks))))

/-- MSG_OBJ_FREE (R299, R286; 12 R307; 13 R349): it waits while transfers accepted before it are outstanding. -/
def execMsgObjFree (mbx : Nat) (s : State) : Host.Outcome State Fault Refusal :=
  .next (
    let busy := match s.nextReq with
      | some r => decide (r.op = 0x0601) && (match AMap.find? s.tier.objs (r.fld 0 8 / blockBytes) with
          | some o => s.inFlight (r.fld 0 8) (blockBytes * o.blocks)
          | none => false)
      | none => false
    if busy then s else serve 0x0601 mbx (fun r s =>
      match s.ownObj r (r.fld 0 8) false with
      | none => s.refuse r E_OBJ_ARG 0
      | some (b, o) =>
        if (AMap.find? s.wgt.shards b).isSome then s.refuse r E_WGT_STATE 0
        else if s.planNames b o then s.refuse r E_UPD_OBJ 0
        else match o.move with
          | none => s.freeFor b r
          | some m => if m.freeing.isSome then s.refuse r E_OBJ_ARG 0
            else s.setObj b { o with move := some { m with freeing := some r } }) s)

/-- MSG_TIER_MOVE (R281, R282, R300): its response follows the last TIER_BLOCK_MOVE; a move into the tier that the object occupies completes
at once. -/
def execMsgTierMove (mbx : Nat) (s : State) : Host.Outcome State Fault Refusal :=
  .next (serve 0x0602 mbx (fun r s =>
    let tier := r.fld 8 1
    match s.ownObj r (r.fld 0 8) false with
    | none => s.refuse r E_OBJ_ARG 14
    | some (b, o) =>
      if 2 < tier then s.refuse r E_OBJ_ARG 14
      else
        let c := s.moveCode b o tier
        if o.move.isNone ∧ s.blocksOutside b o tier = [] then
          s.answer r 0 ([BitVec.ofNat 8 tier, 0] ++ leBytes 4 0 ++ leBytes 8 (s.objStored b o tier))
        else if c ≠ 0 then s.refuse r c 14
        else s.startMove b o tier (some r)) s)

/-- MSG_TIER_QUERY (R301). -/
def execMsgTierQuery (mbx : Nat) (s : State) : Host.Outcome State Fault Refusal :=
  .next (serve 0x0603 mbx (fun r s =>
    match s.ownObj r (r.fld 0 8) true with
    | none => s.refuse r E_OBJ_ARG 22
    | some (b, o) =>
      let held := match o.move with | some m => 4096 * m.resv | none => 0
      s.answer r 0 ([BitVec.ofNat 8 (s.objTier b o), BitVec.ofNat 8 (b2n o.move.isSome), BitVec.ofNat 8 o.kind,
        BitVec.ofNat 8 o.flags] ++ leBytes 2 (match o.owner with | some c => c | none => 0xFFFF) ++ leBytes 8 o.size ++
        leBytes 8 (s.objStored b o 0 + s.objStored b o 1 + s.objStored b o 2 + held))) s)

def State.limitOf (s : State) (client tier : Nat) : Nat := AMap.getD s.tier.limit 0 (4 * client + tier)
def State.usedOf (s : State) (client tier : Nat) : Nat := AMap.getD s.tier.used 0 (4 * client + tier)

/-- A limit written into a configuration slot (16 R433). -/
def CfgSlot.setQuota (c : CfgSlot) (k limit : Nat) : CfgSlot := { c with img := { c.img with quotas := AMap.insert c.img.quotas k limit } }

/-- MSG_QUOTA_SET (R288, R302): the committed configuration holds the limit; during a trial it writes both slots (16 R433). -/
def execMsgQuotaSet (mbx : Nat) (s : State) : Host.Outcome State Fault Refusal :=
  .next (serve 0x0604 mbx (fun r s =>
    let client := r.fld 0 2
    let tier := r.fld 2 1
    let limit := r.fld 8 8
    if 1023 < client ∨ 2 < tier ∨ limit % 4096 ≠ 0 ∨ 2 ^ 36 - 1 < limit / 4096 then s.refuse r E_OBJ_ARG 14
    else
      let into (k : Nat) (c : CfgSlot) : CfgSlot :=
        if s.ump.trial.isSome ∨ s.ump.committed = k then c.setQuota (4 * client + tier) limit else c
      let s0 := { s with ump := { s.ump with slot0 := into 0 s.ump.slot0, slot1 := into 1 s.ump.slot1 } }
      let s1 := { s0 with tier := { s0.tier with limit := AMap.setD s0.tier.limit 0 (4 * client + tier) (limit / 4096) } }
      s1.answer r 0 (leBytes 6 0 ++ leBytes 8 (4096 * s1.usedOf client tier))) s)

/-- MSG_QUOTA_QUERY (R302). -/
def execMsgQuotaQuery (mbx : Nat) (s : State) : Host.Outcome State Fault Refusal :=
  .next (serve 0x0605 mbx (fun r s =>
    let client := r.fld 0 2
    let tier := r.fld 2 1
    if 1023 < client ∨ 2 < tier then s.refuse r E_OBJ_ARG 22
    else s.answer r 0 (leBytes 6 0 ++ leBytes 8 (4096 * s.limitOf client tier) ++ leBytes 8 (4096 * s.usedOf client tier))) s)

/-- APP_CORE_OBJECT_ACCESS: an application core acting for a client reaches an object address: it is answered with the bytes read, or an
element's value from before, or the code that refuses it (R278, R279; 10 R259). Its hub decodes pressed tiles (R278, R280), and what it moves
is charged to the unattributed line (14 R377). -/
def execAppCoreObjectAccess (app : AppCore) (acc : ObjAccess) (s : State) : Host.Outcome State Fault Refusal :=
  .next <|
    let ac : Access := ⟨.app app.ctx, 1, app.ctx, ident 2 (1024 + app.core / 16)⟩
    let told (r : State × Code × List Byte) (charged : State → State) : State :=
      ((if r.2.1 = 0 then charged r.1 else r.1)).answerUnit (196608 + app.core) r.2.1 (if r.2.1 = 0 then r.2.2 else [])
    match acc with
    | .read a n => told (s.objRead ac a n) (fun s => s.chargeBytesAt ac.unit 1024 false a n)
    | .write a d => let r := s.objWrite ac a d; told (r.1, r.2, []) (fun s => s.chargeBytesAt ac.unit 1024 true a d.length)
    | .vat a code x =>
      let w := vatWidth code
      if w < 4 ∨ a % w ≠ 0 then s
      else told (s.objVat ac code a (leBytes w x.toNat)) (fun s => (s.chargeBytesAt ac.unit 1024 false a w).chargeBytesAt ac.unit 1024 true a w)

end Sys2Proof.Machine
end

