-- ==== Sys2Proof/Machine/Sched.lean ====
section
/-! DEFINITION. Steps: the state of contexts, candidates, huddle space, the layers of a step, its failure (14 R356 to R366, R372;
05 R138, R139, R155, R156; 07 R200, R201). -/
namespace Sys2Proof.Machine

/-! Contexts (R356). -/

def State.ctxSt (s : State) (c : Nat) : CtxSt := AMap.getD s.sch.ctxs .idle c
def State.setCtx (s : State) (c : Nat) (x : CtxSt) : State := { s with sch := { s.sch with ctxs := AMap.insert s.sch.ctxs c x } }
/-- The live sequences of a context. -/
def State.seqsIn (s : State) (ctx : Nat) : AMap Seq := s.sch.seqs.filter (fun e => decide (e.2.ctx = ctx))
/-- Whether a sequence is in a step that is not complete. -/
def State.inStep (s : State) (i : Nat) : Bool := s.sch.steps.any (fun t => t.ents.any (fun e => decide (e.seq = i)))
/-- Whether a context has a step that is not complete. -/
def State.ctxBusy (s : State) (ctx : Nat) : Bool := s.sch.steps.any (fun t => decide (t.ctx = ctx))
/-- Whether an update step of the context waits for its boundary or runs (13 R346). -/
def State.updBusy (s : State) (ctx : Nat) : Bool :=
  s.upd.plans.any (fun e => decide (e.2.ctx = ctx) && (e.2.waiting.isSome || e.2.running.isSome))

/-- Whether nothing waits at a sequence's boundary and no copy of its stream is in progress. -/
def Seq.quiet (q : Seq) : Bool := q.waits.isEmpty && q.copy.isNone && !q.pruning
/-- Whether a sequence has a step ready, its stream apart (R372). -/
def State.stepReady (s : State) (i : Nat) (q : Seq) : Bool :=
  decide (q.st = 2) && !q.paused && decide (0 < q.tokens) && !s.inStep i && q.quiet
/-- Whether a sequence's stream may run. -/
def Seq.streamOk (q : Seq) : Bool := !q.hasStream || (decide (q.stream.st = .resident) && decide (q.stream.seqNo = q.stateSeq))
/-- The roster candidates of a context (R372). -/
def State.candidates (s : State) (ctx : Nat) : AMap Seq := (s.seqsIn ctx).filter (fun e => s.stepReady e.1 e.2 && e.2.streamOk)
/-- Whether every sequence of a batch may start a step: those whose stream is benched or being copied wait (07 R201). -/
def State.batchReady (s : State) (b : Batch) : Bool :=
  b.ents.all (fun e => match s.seq e.seq with
    | none => true
    | some q => !s.inStep e.seq && q.quiet && (!q.hasStream || decide (q.stream.st = .resident) || decide (q.stream.st = .lost)))
/-- Whether a context is in a court in roster mode. -/
def State.rosterMode (s : State) (court : Nat) : Bool := (s.court court).roster
/-- The court of a context; 8 for a context that is not defined. -/
def State.courtOf (s : State) (ctx : Nat) : Nat := match s.ctxRec ctx with | some r => r.court | none => 8

/-- Whether a context has a batch that could be formed now: the first queued, for batches are formed in order (R356, R375). -/
def State.dispatchable (s : State) (ctx : Nat) : Bool :=
  match (s.ctxSt ctx).queue with | b :: _ => s.batchReady b | [] => false
/-- Whether a resident context is blocked (R356). -/
def State.blocked (s : State) (ctx : Nat) : Bool :=
  !s.ctxBusy ctx && ((s.ctxSt ctx).withheld ||
    (!s.dispatchable ctx && !(s.rosterMode (s.courtOf ctx) && !(s.candidates ctx).isEmpty)))
/-- Whether a stream could run once it is resident: it runs, or its image is a bench image (or its zero state) with the number expected. -/
def Seq.streamCould (q : Seq) : Bool :=
  q.streamOk || (decide (q.stream.st = .benched) && q.stream.image.isNone && decide (q.stream.seqNo = q.stateSeq))
/-- Whether a context that is not resident would have a candidate or a queued batch if it were (R356). -/
def State.waitsRunnable (s : State) (ctx : Nat) : Bool :=
  !(s.ctxSt ctx).queue.isEmpty ||
  (s.rosterMode (s.courtOf ctx) && (s.seqsIn ctx).any (fun e => s.stepReady e.1 e.2 && e.2.streamCould))

/-- A context's marks brought up to date: since when it is blocked, and since when it is runnable (R366); 0 for neither. -/
def State.markCtx (s : State) (ctx : Nat) : State :=
  let x := s.ctxSt ctx
  let now := s.counter.toNat + 1
  let bl := decide (x.st = 1) && s.blocked ctx
  let ru := decide (x.st ≠ 1) && s.waitsRunnable ctx
  s.setCtx ctx { x with
    blockedAt := if bl then (if x.blockedAt = 0 then now else x.blockedAt) else 0
    runnableAt := if ru then (if x.runnableAt = 0 then now else x.runnableAt) else 0 }
/-- Residency slots in use, and the lowest free one (R357). -/
def State.slotsUsed (s : State) : List Nat := (s.sch.ctxs.filter (fun e => decide (e.2.st = 1))).map (fun e => e.2.slot)
def State.freeResidency (s : State) : Option Nat := (List.range 128).find? (fun k => !s.slotsUsed.contains k)
/-- Whether a context is of class LC. -/
def State.ctxLc (s : State) (ctx : Nat) : Bool := match s.ctxRec ctx with | some r => r.lc | none => false
/-- The first waiter: a runnable context without a residency slot; LC before BE, then the one runnable longest, then the lower id
(R366 rule 1). -/
def State.firstWaiter (s : State) : Option Nat :=
  ((s.sch.ctxs.filter (fun e => decide (2 ≤ e.2.st) && decide (e.2.runnableAt ≠ 0))).map (·.1)).foldl
    (fun (m : Option Nat) c => match m with
      | none => some c
      | some d =>
        let better := (s.ctxLc c && !s.ctxLc d) ||
          ((s.ctxLc c == s.ctxLc d) && decide ((s.ctxSt c).runnableAt < (s.ctxSt d).runnableAt))
        if better then some c else some d) none
/-- The resident context that has been blocked longest, the lower id on a tie (R366 rule 3). -/
def State.longestBlocked (s : State) : Option Nat :=
  ((s.sch.ctxs.filter (fun e => decide (e.2.st = 1) && decide (e.2.blockedAt ≠ 0))).map (·.1)).foldl
    (fun (m : Option Nat) c => match m with
      | none => some c
      | some d => if (s.ctxSt c).blockedAt < (s.ctxSt d).blockedAt then some c else some d) none
/-- The resident BE context whose last step was formed earliest (R366 rule 4). -/
def State.oldestBe (s : State) : Option Nat :=
  ((s.sch.ctxs.filter (fun e => decide (e.2.st = 1) && !s.ctxLc e.1)).map (·.1)).foldl
    (fun (m : Option Nat) c => match m with
      | none => some c
      | some d => if (s.ctxSt c).lastFormed < (s.ctxSt d).lastFormed then some c else some d) none
/-- Room made for an LC waiter: no further step of one BE context is formed while it waits (R366 rule 4). -/
def State.withhold (s : State) : State :=
  let lcWaits := match s.firstWaiter with | some c => s.ctxLc c | none => false
  if lcWaits && s.freeResidency.isNone then
    if s.longestBlocked.isSome || s.sch.ctxs.any (fun e => e.2.withheld) then s
    else match s.oldestBe with
      | none => s
      | some c => (s.setCtx c { s.ctxSt c with withheld := true }).markCtx c
  else { s with sch := { s.sch with ctxs := s.sch.ctxs.map (fun e => (e.1, { e.2 with withheld := false })) } }
/-- Whether a court is idle (18 R470). -/
def State.courtIdle (s : State) (court : Nat) : Bool :=
  !s.sch.steps.any (fun t => decide (t.court = court)) &&
  !s.sch.ctxs.any (fun e => !e.2.queue.isEmpty && decide (s.courtOf e.1 = court)) &&
  !s.upd.plans.any (fun e => decide (e.2.court = court) && (e.2.waiting.isSome || e.2.running.isSome)) &&
  !s.sch.seqs.any (fun e => decide (e.2.court = court) && (decide (0 < e.2.tokens) || e.2.copy.isSome)) &&
  !s.book.tableReq.any (fun e => decide (e.1 / 8 = court))
def State.courtPwr (s : State) (court : Nat) : CourtPwr := AMap.getD s.pwr.courts .reset court
def State.setCourtPwr (s : State) (court : Nat) (p : CourtPwr) : State :=
  { s with pwr := { s.pwr with courts := AMap.setD s.pwr.courts .reset court p } }
/-- Since when a court is idle, brought up to date (18 R470). -/
def State.markCourt (s : State) (court : Nat) : State :=
  let p := s.courtPwr court
  s.setCourtPwr court { p with
    idleSince := if !s.courtIdle court then 0 else if p.idleSince = 0 then s.counter.toNat + 1 else p.idleSince }
/-- The marks of every context that has been given work, what R366 holds back, and since when courts are idle. -/
def State.mark (s : State) : State :=
  ((List.range 8).filter s.courtDefined).foldl State.markCourt ((s.sch.ctxs.map (·.1)).foldl State.markCtx s).withhold

/-- A context given a sequence or a batch: from idle it becomes resident where a slot is free and no context waits for it, and waits benched
otherwise (R356, R362, R366 rules 1 and 2). -/
def State.engage (s : State) (ctx : Nat) : State :=
  let x := s.ctxSt ctx
  if x.st ≠ 0 then s
  else match s.freeResidency, s.firstWaiter with
    | some k, none => s.setCtx ctx { x with st := 1, slot := k, returned := true }
    | _, _ => s.setCtx ctx { x with st := 2, slot := 0, returned := true }
/-- A context that holds no slot is idle once it has neither live sequences nor batches; a resident one stays resident (R356). -/
def State.disengage (s : State) (ctx : Nat) : State :=
  let x := s.ctxSt ctx
  if s.seqsIn ctx = [] ∧ x.queue = [] ∧ !s.ctxBusy ctx ∧ x.st ≠ 0 ∧ x.st ≠ 1 then
    s.setCtx ctx { x with st := 0, slot := 0, blockedAt := 0, runnableAt := 0, withheld := false, returned := true }
  else s

/-! Steps. -/

def Step.same (t : Step) (ctx num : Nat) : Bool := decide (t.ctx = ctx) && decide (t.num = num)
def State.stepAt (s : State) (court ctx num : Nat) : Option Step :=
  s.sch.steps.find? (fun t => t.same ctx num && decide (t.court = court))
def State.putStep (s : State) (t : Step) : State :=
  { s with sch := { s.sch with steps := s.sch.steps.map (fun x => if x.same t.ctx t.num then t else x) } }
/-- The run of a step. -/
def Run.of (r : Run) (t : Step) : Bool := t.same r.ctx r.step
/-- Runs of a step that are on a core. -/
def State.running (s : State) (t : Step) : Nat :=
  (s.cores.filter (fun e => match e.2.now.run with | some r => r.of t | none => false)).length
/-- Whether the runs of a layer of a step are queued. -/
def State.queued (s : State) (t : Step) : Bool := s.sch.queue.any (fun r => r.of t)

/-- The cluster of a court's lead coach: the lowest that is not degraded (R370). -/
def State.leadCluster (s : State) (court : Nat) : Nat :=
  (((s.courtDies court).flatMap (fun d => (List.range 25).map (25 * d + ·))).find? (fun n => !(s.clu n).degraded)).getD 0

/-- A step ends with a code: its queued runs are dropped, and a record is raised (05 R156; 20 R501). -/
def State.failStep (s : State) (t : Step) (code : Code) (failAt : Option Nat) (source : Nat) : State :=
  if t.status ≠ 0 then s
  else
    let s1 := { s with sch := { s.sch with
      queue := s.sch.queue.filter (fun r => !r.of t)
      openBlk := s.sch.openBlk.filter (fun e => !t.same e.2.1 e.2.2.1) } }
    let n := s1.running t
    (s1.putStep { t with status := code, left := n, mergeDue := false, done := decide (n = 0), failAt := failAt }).raise
      { FRec.mk0 code 1 source with ctx := t.ctx, court := t.court, step := t.num }

/-! Huddle space (05 R155). -/

/-- The court's huddle area: object address and bytes. -/
def State.huddleArea (s : State) (court : Nat) : Nat × Nat :=
  match List.find? (fun e => decide (e.2.use = .huddle court)) s.tier.objs with
  | some (b, o) => (blockBytes * b, o.size)
  | none => (0, 0)
/-- What the steps of a court hold of it. -/
def State.huddleHeld (s : State) (court : Nat) : List (Nat × Nat) :=
  (s.sch.steps.filter (fun t => decide (t.court = court))).flatMap (fun t =>
    t.huddles.map (fun e => (e.2.buf, 64 * ceilDiv e.2.size 64 + 64)) ++ t.merges.map (fun e => (e.2.1, 64 * ceilDiv e.2.2 64)))
/-- Where `n` bytes fit: the lowest place. -/
def State.huddlePlace (s : State) (court n : Nat) : Option Nat :=
  let area := s.huddleArea court
  let held := s.huddleHeld court
  let ok (a : Nat) : Bool := decide (a + n ≤ area.1 + area.2) && held.all (fun h => decide (a + n ≤ h.1) || decide (h.1 + h.2 ≤ a))
  if n = 0 then some 0
  else ((area.1 :: held.map (fun h => h.1 + h.2)).filter ok).foldl (fun (m : Option Nat) a => match m with
    | none => some a
    | some b => some (min a b)) none
/-- Bytes of an object cleared. -/
def State.clearObj (s : State) (a n : Nat) : State :=
  (piecesOf a n).foldl (fun s p => match s.freshAddr p.1 with | some x => s.stackClear x p.2 | none => s) s
/-- The huddles and merge records of a step at a shape vector, laid out from `a` in layer order, each on 64 bytes; its layers have `rows`
rows and `tiles` row tiles. -/
def huddleLayout (p : Plan) (sv : List Nat) (rows tiles : Layer → Nat) : Nat → Nat → List Layer → AMap Huddle × AMap (Nat × Nat)
  | _, _, [] => ([], [])
  | i, a, l :: ls =>
    let size := l.outBytes sv (rows l)
    let n := 64 * ceilDiv size 64
    let mb := p.mergeBytes l (tiles l)
    let m := 64 * ceilDiv mb 64
    let hud := p.huddled l
    let a1 := if hud then a + n + 64 else a
    let r := huddleLayout p sv rows tiles (i + 1) (a1 + m) ls
    (if hud then (i, ⟨a, size, a + n, 0, false, (l.level 4).any (fun x => decide (x.1 = 3) && decide (1 < x.2)), 0⟩) :: r.1 else r.1,
     if 0 < m then (i, (a1, mb)) :: r.2 else r.2)

/-! Layers of a step. -/

/-- Whether layer `i` of a plan reads keys and values of this step that a later layer of the plan writes; and that layer (05 R139). -/
def Plan.writerAfter (p : Plan) (i : Nat) : Option Nat :=
  match (p.layers[i]?).bind (fun l => p.attEnt l.layer) with
  | none => none
  | some a =>
    if a.role = 0 then none
    else ((List.range p.layers.length).filter (fun j => decide (i < j))).find? (fun j =>
      match (p.layers[j]?).bind (fun l => p.attEnt l.layer) with
      | some w => w.role == 0 && w.kvIndex == a.kvIndex
      | none => false)
/-- The order in which a step runs the layers of its playbook: the plan's (log entry 15), a read layer after the layer that writes the pages
it may include (05 R139). -/
def Plan.order (p : Plan) : List Nat :=
  (List.range p.layers.length).flatMap (fun j =>
    (if (p.writerAfter j).isSome then [] else [j]) ++
    (List.range p.layers.length).filter (fun i => decide (p.writerAfter i = some j)))
/-- The layer that follows layer `i`. -/
def Plan.after (p : Plan) (i : Nat) : Option Nat := (p.order.dropWhile (fun j => decide (j ≠ i)))[1]?

/-- The pages that this module's runs of a write layer fill, taken for the sequences of a step: the code, and the entry, of the first that
cannot be (05 R137, R138, R151). -/
def State.openLayer (s : State) (t : Step) (b : Playbook) (i : Nat) (l : Layer) (a : AttEnt) : State × Code × Option Nat × List Nat :=
  let tokens (q : Nat) : Nat := match (s.stepSeqs t).find? (fun e => decide (e.1 = q)) with | some e => l.extent e.2.2 1 | none => 0
  let s1 := t.ents.foldl (fun s e => s.takeSlots e.seq (tokens e.seq)) s
  let w := s1.writePages b.plan a tokens (s1.writeCells t b i a)
  (if w.2.1 = E_KV_SEALED then s else w.1, w.2.1, w.2.2.1.bind (fun q => t.ents.findIdx? (fun e => decide (e.seq = q))), w.2.2.2)

/-- The counts of masked pages of a layer's runs, in the clusters that run them (05, CLU_KV_SKIP). -/
def State.countSkips (s : State) (rs : List (Run × Nat)) : State :=
  rs.foldl (fun s r => if r.2 = 0 then s else s.modClu (r.1.core / 25) (fun c => { c with kvSkip := c.kvSkip + BitVec.ofNat 64 r.2 })) s

/-- Layer `i` of a step starts: its pages are taken, its work is dealt and queued (05 R138; 04 R109). -/
def State.startLayer (s : State) (t : Step) (b : Playbook) (i : Nat) : State :=
  match b.plan.layers[i]? with
  | none => s.putStep { t with done := true }
  | some l =>
    let w := match b.plan.attEnt l.layer with
      | some a => if a.role = 0 then s.openLayer t b i l a else (s, 0, none, [])
      | none => (s, 0, none, [])
    let t1 := { t with layer := i, left := 0, merged := false, wrote := t.wrote ++ w.2.2.2 }
    if w.2.1 ≠ (0 : Code) then (w.1.putStep t1).failStep t1 w.2.1 w.2.2.1 (ident 1 (w.1.leadCluster t.court))
    else
      let rs := w.1.dealLayer t1 b i
      let t2 := { t1 with
        left := rs.length
        huddles := AMap.adjust t1.huddles i (fun h => { h with need := rs.length }) }
      let s1 := (w.1.countSkips rs).drawn
      { s1.putStep t2 with sch := { (s1.putStep t2).sch with queue := s1.sch.queue ++ rs.map (·.1) } }

/-- A step whose layer has no run left goes on, past layers that have none at all (within `fuel` layers): it waits for its merge
(05 R153) or its huddle (05 R155), takes its next layer, or is done. -/
def State.advance (s : State) (ctx num : Nat) : Nat → State
  | 0 => s
  | fuel + 1 => match s.sch.steps.find? (fun t => t.same ctx num) with
    | none => s
    | some t =>
      if t.left ≠ 0 ∨ t.status ≠ 0 ∨ t.done then s
      else if !t.merged && (AMap.find? t.merges t.layer).isSome then s.putStep { t with mergeDue := true }
      else if (match AMap.find? t.huddles t.layer with | some h => !h.released | none => false) then s
      else match AMap.find? s.book.books t.playbook with
        | none => s.putStep { t with done := true }
        | some b => match b.plan.after t.layer with
          | none => s.putStep { t with done := true }
          | some i => (s.startLayer t b i).advance ctx num fuel
/-- The layers of a step's playbook. -/
def State.layersOf (s : State) (t : Step) : Nat := match AMap.find? s.book.books t.playbook with | some b => b.plan.layers.length | none => 0

/-- Whether every run of a step has been dispatched: those of its last layer, and its merge runs (R360). -/
def State.allDispatched (s : State) (t : Step) : Bool :=
  t.done || decide (t.status ≠ 0) ||
  ((match AMap.find? s.book.books t.playbook with | some b => (b.plan.after t.layer).isNone | none => true) && !s.queued t &&
    (t.merged || (AMap.find? t.merges t.layer).isNone))
/-- Whether a lane of a court may form its next step (R360). -/
def State.laneFree (s : State) (court : Nat) (lc : Bool) : Bool :=
  (s.sch.steps.filter (fun t => decide (t.court = court) && t.lc == lc)).all s.allDispatched
/-- Whether a court is in PS0 and stays there: work that arrives in another state waits for the exit (18 R471). -/
def State.awake (s : State) (court : Nat) : Bool :=
  let p := s.courtPwr court
  decide (p.st = 0) && !p.entering && !s.pwr.ps5
/-- Whether steps of a context may be formed: it is resident, its pages are back, its court's lane is free, and no update step or
rule of the bench holds it (R357, R360, R366, R367; 13 R346). -/
def State.mayForm (s : State) (court : Nat) (lc : Bool) (ctx : Nat) : Bool :=
  let x := s.ctxSt ctx
  decide (x.st = 1) && !x.withheld && x.returned && !s.updBusy ctx && decide (s.courtOf ctx = court) &&
  (match s.ctxRec ctx with | some r => r.lc == lc | none => false)

/-- What a step finds wrong with its streams before anything of it is dispatched: the code, and the entry (07 R201; a sequence that has
ended since gives E_ROST_STATE). -/
def State.entryCode (s : State) (ents : List StepEnt) : Code × Option Nat :=
  (((List.range ents.length).zip ents).findSome? (fun e => match s.seq e.2.seq with
    | none => some (E_ROST_STATE, some e.1)
    | some q =>
      if q.st ≠ 2 then some (E_ROST_STATE, some e.1)
      else if !q.hasStream then none
      else if q.stream.st = .lost then some (E_STATE_LOST, some e.1)
      else if !e.2.anyState && decide (q.stream.seqNo ≠ e.2.expect) then some (E_STATE_SEQ, some e.1)
      else none)).getD (0, none)

/-- A step formed: its number, its huddle space cleared, its first layer dealt; none where the huddle area has no room yet. -/
def State.formStep (s : State) (court ctx : Nat) (lc : Bool) (book : Nat) (sv : List Nat) (ents : List StepEnt)
    (modes : AMap Bool) (req : Option Req) : Option State :=
  match AMap.find? s.book.books book with
  | none => none
  | some b =>
    let x := s.ctxSt ctx
    let t0 : Step :=
      { court := court, ctx := ctx, num := x.steps + 1, lc := lc, playbook := book, shape := sv, ents := ents, modes := modes
        layer := b.plan.order.headD 0, left := 0, status := 0, batch := req, wrote := [], updated := [], huddles := [], merges := []
        mergeDue := false, merged := false, mergeGot := [], done := false, formedAt := s.sch.order, counts := [], failAt := none }
    let need := b.plan.huddleNeed sv (s.rowsOf t0 b.plan) (s.tilesOf t0 b.plan)
    match s.huddlePlace court need with
    | none => none
    | some a =>
      let lay := huddleLayout b.plan sv (s.rowsOf t0 b.plan) (s.tilesOf t0 b.plan) 0 a b.plan.layers
      let t := { t0 with huddles := lay.1, merges := lay.2 }
      let s1 := s.setCtx ctx { x with steps := x.steps + 1, lastFormed := s.sch.order }
      let s2 := { s1 with
        sch := { s1.sch with steps := s1.sch.steps ++ [t], order := s1.sch.order + 1 }
        wgt := { s1.wgt with extra := s1.wgt.extra + BitVec.ofNat 64 (if req.isNone then s1.extraPasses t b.plan else 0) } }
      let s3 := (if need = 0 then s2 else s2.clearObj a need)
      let members := s.ring.members.length
      let c := if b.plan.layers.any (fun l => decide (1 < splitCount (l.level 4)) && decide (members < splitCount (l.level 4)))
        then (E_RING_LOST, none) else s3.entryCode ents
      some (if c.1 ≠ (0 : Code) then s3.failStep t c.1 c.2 (ident 1 (s3.leadCluster court))
        else
          let s4 := ents.foldl (fun s e => (s.retain e.seq).modSeq e.seq (fun q => { q with branchImg := none })) s3
          match b.plan.order with
          | [] => s4.putStep { t with done := true }
          | i :: _ => (s4.startLayer t b i).advance ctx t.num (b.plan.layers.length + 1))

/-! Tokens and events of the roster (R371, R385). -/

/-- The object address of the roster (R369). -/
def State.rosterAt (s : State) : Option Nat :=
  (List.find? (fun e => decide (e.2.use = .roster)) s.tier.objs).map (fun e => blockBytes * e.1)
/-- The tokens of a roster entry changed, by INT32 vat add on the entry's field (R370). -/
def State.addTokens (s : State) (ac : Access) (i : Nat) (n : Int) : State :=
  let s1 := match s.rosterAt with
    | some a => (s.objVat ac 3 (a + 64 * i + 16) (leBytes 4 (BitVec.ofInt 32 n).toNat)).1
    | none => s
  s1.modSeq i (fun q => { q with tokens := ((q.tokens : Int) + n).toNat })
/-- A token taken by a formation: the lead coach adds -1 (R370). -/
def State.takeToken (s : State) (i : Nat) : State :=
  let s1 := match s.seq i with
    | some q => s.addTokens ⟨.coach q.ctx, 1, q.ctx, ident 1 (s.leadCluster q.court)⟩ i (-1)
    | none => s
  { s1 with sch := { s1.sch with tokUsed := s1.sch.tokUsed + 1 } }
/-- MSG_SEQ_EVENT on the mailbox that admitted a sequence. -/
def State.seqEvent (s : State) (i : Nat) (reason : Nat) (status : Code) : State :=
  match s.seq i with
  | none => s
  | some q => s.event q.mbx 0x0503 q.ctx ([BitVec.ofNat 8 q.court, BitVec.ofNat 8 reason] ++ leBytes 2 i ++ leBytes 2 status.toNat ++
      leBytes 2 0 ++ leBytes 4 (q.steps % 2 ^ 32) ++ leBytes 4 (q.frame % 2 ^ 32))

/-- The wait of an entry at the formation of step `n` (R373). -/
def waitOf (n served : Nat) : Nat := if served = 0 then 2 ^ 32 else (n + 2 ^ 32 - served) % 2 ^ 32
/-- The entry's `served` kept from falling too far behind (R373). -/
def reserve (n served : Nat) : Nat :=
  if served ≠ 0 ∧ 2 ^ 31 < waitOf n served then
    let v := (n + 2 ^ 32 - 2 ^ 31) % 2 ^ 32
    if v = 0 then 1 else v
  else served

/-- Inserted by wait, longest first, then by roster index. -/
def insertWait (n : Nat) (e : Nat × Seq) : List (Nat × Seq) → List (Nat × Seq)
  | [] => [e]
  | f :: fs => if waitOf n f.2.served < waitOf n e.2.served then e :: f :: fs else f :: insertWait n e fs
/-- The candidates in the order of R372. -/
def sortWait (n : Nat) (l : List (Nat × Seq)) : List (Nat × Seq) := l.foldl (fun a e => insertWait n e a) []

/-- Whether a shape vector exceeds a playbook's maxima. -/
def Plan.exceeds (p : Plan) (sv : List Nat) : Bool :=
  ((List.range p.shapeMax.length).zip p.shapeMax).any (fun e => decide (e.2 < sv[e.1]?.getD 0))

/-- What the loop of R372 makes of the candidates: the entries taken with their sum, those that can never fit, how many were
deferred. -/
structure Picked where
  sv : List Nat
  taken : List (Nat × Seq)
  tooMuch : List Nat
  deferred : Nat

def pickLoop (p : Plan) (limit : Nat) : List (Nat × Seq) → Picked → Picked
  | [], r => r
  | e :: es, r =>
    if r.taken.length = limit then r
    else
      let v := e.2.vector
      if p.exceeds v then pickLoop p limit es { r with tooMuch := r.tooMuch ++ [e.1] }
      else if p.exceeds (svAdd r.sv v) then pickLoop p limit es { r with deferred := r.deferred + 1 }
      else pickLoop p limit es { r with sv := svAdd r.sv v, taken := r.taken ++ [e] }

/-- A candidate that can never fit: a token lost, its status, its events (R102, R372, R374). -/
def State.rejectOver (s : State) (lead i : Nat) : State :=
  let s1 := ((s.takeToken i).modSeq i (fun q => { q with lastStatus := E_SHAPE_OVER })).seqEvent i 1 E_SHAPE_OVER
  let s2 := match s1.seq i with | some q => if q.tokens = 0 then s1.seqEvent i 0 0 else s1 | none => s1
  s2.modClu lead (fun c => { c with shapeRej := c.shapeRej + 1 })

/-- The context a lane forms its next step for: the one with a candidate whose last step was formed earliest (R372). -/
def State.pickCtx (s : State) (court : Nat) (lc : Bool) : Option Nat :=
  ((s.sch.ctxs.map (·.1)).filter (fun c => s.mayForm court lc c && !(s.candidates c).isEmpty)).foldl
    (fun (m : Option Nat) c => match m with
      | none => some c
      | some d => if (s.ctxSt c).lastFormed < (s.ctxSt d).lastFormed then some c else some d) none

/-- The fallback modes of a plan's layers, now, by layer index (03 R90). -/
def State.modesNow (s : State) (court : Nat) (p : Plan) : AMap Bool :=
  ((List.range p.layers.length).zip p.layers).filterMap (fun e => match p.precEnt e.2.layer with
    | some x => if s.layerMode court x then some (e.1, true) else none
    | none => none)

/-- The step of a context formed from the roster (R372): of the playbook of its longest-waiting candidate (R358). -/
def State.formFor (s : State) (court ctx : Nat) (lc : Bool) : State :=
  let n := ((s.ctxSt ctx).steps + 1) % 2 ^ 32
  match sortWait n (s.candidates ctx) with
  | [] => s
  | c0 :: cs => match s.bookOf c0.2 with
    | none => s
    | some b =>
      let mine := (c0 :: cs).filter (fun e => decide (e.2.playbook = c0.2.playbook))
      let p := pickLoop b.plan (s.court court).stepSeqs mine ⟨svZero, [], [], 0⟩
      let lead := s.leadCluster court
      let s0 := (s.seqsIn ctx).foldl (fun s e => s.modSeq e.1 (fun q => { q with served := reserve n q.served })) s
      let s1 := (p.tooMuch.foldl (fun s i => s.rejectOver lead i) s0).modClu lead (fun c => { c with
        shapeDefer := c.shapeDefer + BitVec.ofNat 64 p.deferred })
      if p.taken = [] then s1
      else
        let s2 := p.taken.foldl (fun s e => s.takeToken e.1) s1
        let ents := p.taken.map (fun e => (⟨e.1, e.2.isFuture || decide (e.2.pass + 1 = e.2.passes), e.2.stateSeq, false, e.2.vector⟩ : StepEnt))
        match s2.formStep court ctx lc c0.2.playbook p.sv ents (s2.modesNow court b.plan) none with
        | none => s
        | some t => t

/-- STEP_FORM_ROSTER (R372). -/
def execStepFormRoster (court : Nat) (lc : Bool) (s : State) : Host.Outcome State Fault Refusal :=
  .next <|
    if !s.courtDefined court ∨ !s.rosterMode court ∨ !s.awake court ∨ !s.laneFree court lc then s
    else match s.pickCtx court lc with
      | none => s
      | some ctx => (s.formFor court ctx lc).mark

/-- FIXED_STEP_FORM: the first queued batch of a context is formed as its next step (R375). A step of a future carries the seal flag (05; 09
R224). A batch whose sequences no longer pin the generation that it bound is rejected whole (12 R315). Its modes are those read at its submission (03
R90); where its playbook has been replaced since, those of the new playbook's layers, read now (DESIGN CHOICE, log entry 81). -/
def execFixedStepForm (ctx : Nat) (s : State) : Host.Outcome State Fault Refusal :=
  .next <|
    let x := s.ctxSt ctx
    let court := s.courtOf ctx
    let lc := match s.ctxRec ctx with | some r => r.lc | none => false
    match x.queue with
    | [] => s
    | b :: rest =>
      if !s.mayForm court lc ctx ∨ !s.awake court ∨ !s.laneFree court lc ∨ !s.batchReady b then s
      else
        let book := (b.ents.findSome? (fun e => (s.seq e.seq).map (·.playbook))).getD b.playbook
        let modes := if book = b.playbook then b.modes else
          match AMap.find? s.book.books book with | some k => s.modesNow court k.plan | none => []
        let ents := b.ents.map (fun e => match s.seq e.seq with
          | some q => { e with sealFlag := e.sealFlag || q.isFuture, sv := q.vector }
          | none => e)
        let s1 := s.setCtx ctx { x with queue := rest }
        if b.ents.any (fun e => match s.seq e.seq with | some q => decide (q.gen ≠ b.gen) | none => false) then
          ((s1.answer b.req E_WGT_MIXED (leBytes 2 0 ++ leBytes 8 0 ++ leBytes 2 0xFFFF)).disengage ctx).mark
        else match s1.formStep court ctx lc book b.shape ents modes (some b.req) with
          | none => s
          | some t => t.mark

end Sys2Proof.Machine
end

