-- ==== Sys2Proof/Machine/Link.lean ====
section
/-! DEFINITION. The relay link and transfers across the ring, as they are sent (17 R443 to R449). What the payload of a control flit
holds is the model's own (log entry 42). -/
namespace Sys2Proof.Machine

/-! Rails, roles, links. -/

/-- The rail of a rail port, and the ports of a rail (R443). -/
def railOf (port : Nat) : Nat := 4 * (port / 12) + port % 4
def upPort (rail : Nat) : Nat := 12 * (rail / 4) + rail % 4
def downPort (rail : Nat) : Nat := upPort rail + 4
/-- Whether a port belongs to a rail. -/
def isRailPort (port : Nat) : Bool := decide (port % 12 < 8)

/-- The role of a port; at manufacture ring for rails and one 1.6 Tb/s interface for the others (R444). -/
def State.roleOf (s : State) (port : Nat) : Nat := AMap.getD s.ring.roles (if isRailPort port then 1 else 2) port
def State.setRole (s : State) (port role : Nat) : State :=
  { s with ring := { s.ring with roles := AMap.setD s.ring.roles (if isRailPort port then 1 else 2) port role } }
def State.link (s : State) (port : Nat) : Link := AMap.getD s.ring.links .reset port
def State.setLink (s : State) (port : Nat) (l : Link) : State :=
  { s with ring := { s.ring with links := AMap.setD s.ring.links .reset port l } }
/-- The rails in the ring role, and those of them that are up. -/
def State.ringRails (s : State) : List Nat := (List.range 16).filter (fun k => decide (s.roleOf (upPort k) = 1))
def State.railsUp (s : State) : List Nat :=
  s.ringRails.filter (fun k => decide ((s.link (upPort k)).st = 2) && decide ((s.link (downPort k)).st = 2))

namespace Link
def creditsOf (l : Link) (vc : Nat) : Nat := AMap.getD l.credits 0 vc
/-- Whether a flit of a VC may be sent: a credit, and room in the replay buffer (R447, R448). -/
def canSend (l : Link) (vc : Nat) : Bool := decide (0 < l.creditsOf vc) && decide (l.replay.length < 2048)
/-- A flit sent: numbered, kept until it is acknowledged, its credit taken. -/
def sendNow (l : Link) (f : Flit) : Link :=
  { l with
    txSeq := l.txSeq + 1
    replay := l.replay ++ [{ f with seq := l.txSeq }]
    credits := AMap.insert l.credits f.vc (l.creditsOf f.vc - 1)
    out := AMap.insert l.out f.vc (AMap.getD l.out 0 f.vc + 1) }
/-- A flit sent, or kept waiting; with how many flits went out. -/
def push (l : Link) (f : Flit) : Link × Nat :=
  if l.canSend f.vc && !l.waiting.any (fun g => decide (g.vc = f.vc)) then (l.sendNow f, 1) else ({ l with waiting := l.waiting ++ [f] }, 0)
/-- Waiting flits sent while credits last, in order within a VC. -/
def drain (l : Link) : Link × Nat :=
  l.waiting.foldl (fun r f => if r.1.canSend f.vc then (r.1.sendNow f, r.2 + 1) else ({ r.1 with waiting := r.1.waiting ++ [f] }, r.2))
    ({ l with waiting := [] }, 0)
/-- A link as it comes up: its seq begins anew, the receiver's buffers are advertised (R447), what waits is sent. -/
def comeUp (l : Link) : Link × Nat :=
  drain { l with
    st := 2
    txSeq := 0
    rxSeq := 4095
    replay := []
    waiting := l.replay ++ l.waiting
    credits := [(0, 64), (1, 1024), (2, 1024)]
    out := []
    nakDue := false
    nakked := false }
/-- A link that trains anew keeps the flits that have not been delivered (R450, R454). -/
def retrain (l : Link) : Link :=
  { l with st := 1, credits := [], out := [], nakDue := false, nakked := false, replay := [], waiting := l.replay ++ l.waiting }
/-- A link cut off: its counts stay. -/
def cut (l : Link) (st : Nat) : Link := { Link.reset with st := st, resent := l.resent, fecBad := l.fecBad }
/-- Flits acknowledged up to a seq leave the replay buffer. -/
def acked (l : Link) (ack : BitVec 12) : Link :=
  match l.replay.findIdx? (fun f => f.seq == ack) with
  | some i => { l with replay := l.replay.drop (i + 1) }
  | none => l
/-- Credits that come back. -/
def credit (l : Link) (vc n : Nat) : Link :=
  let m := min n (AMap.getD l.out 0 vc)
  { l with credits := AMap.insert l.credits vc (l.creditsOf vc + m), out := AMap.insert l.out vc (AMap.getD l.out 0 vc - m) }
end Link

/-- Data and control flits counted as they go out on ring ports (RND_FLITS), their 256 optical bytes each with them (14 R378), unattributed
(log entry 86). -/
def State.countFlits (s : State) (n : Nat) : State :=
  let t := if n = 0 then s else s.addAcc (ident 2 1024) 1024 10 (eventEnergy 9 (256 * n))
  { t with ring := { t.ring with flits := t.ring.flits + BitVec.ofNat 64 n } }
/-- A flit given to a port. -/
def State.pushFlit (s : State) (port : Nat) (f : Flit) : State :=
  let r := (s.link port).push f
  (s.setLink port r.1).countFlits r.2

/-! The ring. -/

/-- Positions of the members, rising. -/
def State.positions (s : State) : List Nat := s.ring.members.map (·.1)
/-- Whether the shorter way to a position is downstream; downstream on a tie (R449). -/
def State.goesDown (s : State) (dst : Nat) : Bool :=
  let ps := s.positions
  let n := ps.length
  let i := ps.findIdx (fun p => decide (p = s.ring.position))
  let j := ps.findIdx (fun p => decide (p = dst))
  decide (2 * ((j + n - i) % max 1 n) ≤ n)
/-- Whether the next member downstream has a lower position: the dateline lies on that span (R446). -/
def State.atDateline (s : State) : Bool := s.positions.all (fun p => decide (p ≤ s.ring.position))
/-- The rails that a flit may take: those that are up, or, while none is, those that train: it waits there (R450). -/
def State.railsFor (s : State) : List Nat :=
  if s.railsUp = [] then s.ringRails.filter (fun k => decide ((s.link (upPort k)).st = 1)) else s.railsUp
/-- A flit sent in a direction, over those rails in turn; there is none: the neighbour is lost. -/
def State.emit (s : State) (down : Bool) (f : Flit) : State :=
  let ups := s.railsFor
  match ups[f.index % max 1 ups.length]? with
  | none => s
  | some k => s.pushFlit (if down then downPort k else upPort k) { f with dateline := f.dateline || (down && s.atDateline) }

/-- The payload of a control flit: 0 set-up to an object, 1 to a huddle area, 2 to a relay interface, 3 of a ring huddle's part, 4
completion, 5 discovery, 6 announcement, 7 departure; a court, hub or position; a layer; an address; a length; members. -/
def controlBody (kind unit layer addr len : Nat) (entries : List (Nat × List Byte)) : List Byte :=
  leBytes 1 kind ++ leBytes 1 unit ++ leBytes 2 entries.length ++ leBytes 4 layer ++ leBytes 8 addr ++ leBytes 8 len ++
    entries.flatMap (fun e => leBytes 1 e.1 ++ leBytes 3 0 ++ bytesAt e.2 0 4)
/-- A control flit of this module. -/
def State.controlFlit (s : State) (dst tag : Nat) (body : List Byte) : Flit := ⟨2, 0, s.ring.position, dst, 0, false, tag, 0, body⟩

/-- A transfer begins: its set-up on VC 0, then its data flits, 236 bytes each (R449). -/
def State.startTransfer (s : State) (kind unit layer addr dst vc : Nat) (data : List Byte) : State :=
  let tag := s.ring.nextTag
  let down := s.goesDown dst
  let t : RTransfer := ⟨true, tag, s.ring.position, dst, kind, unit, addr, layer, data.length, [], []⟩
  let s1 := { s with ring := { s.ring with nextTag := (tag + 1) % 2 ^ 32, transfers := s.ring.transfers ++ [t] } }
  let s2 := s1.emit down (s1.controlFlit dst tag (controlBody kind unit layer addr data.length []))
  (List.range (ceilDiv data.length 236)).foldl (fun s i =>
    s.emit down ⟨1, vc, s.ring.position, dst, 0, false, tag, i, (data.drop (236 * i)).take 236⟩) s2

/-! Merge records (R457; 05 R152, R153). -/

/-- The units of a layer's split across the ring: the members with the lowest positions (R455). -/
def State.ringUnits (s : State) (l : Layer) : List Nat := s.positions.take (splitCount (l.level 4))
/-- Whether the units of a layer's partial records lie across the ring. -/
def Merging.ring (m : Merging) (l : Layer) : Bool := (l.level 4).any (fun x => m.dims.contains x.1 && decide (1 < x.2))
/-- The partial records of this module at one row tile and head: the first, and how many. -/
def State.ownRecords (s : State) (m : Merging) (l : Layer) : Nat × Nat :=
  let d4 := (digitsOf s.ringRank (l.level 4)).filter (fun d => m.dims.contains d.1)
  let n4 := d4.foldl (fun n d => n * d.2.2) 1
  (indexBy d4 m.dims * (m.units / max 1 n4), m.units / max 1 n4)
/-- Row tiles and heads that have records in a layer's merge area. -/
def State.recordSets (s : State) (t : Step) (p : Plan) (m : Merging) (l : Layer) : Nat := s.tilesOf t p l * m.heads

/-- This module's merge records of a layer sent to every other unit (R457); the code of the first that cannot be read (10 R254): from there
on nothing is sent. -/
def State.sendRecords (s : State) (t : Step) (p : Plan) (m : Merging) (l : Layer) : State × Code :=
  match AMap.find? t.merges t.layer with
  | none => (s, 0)
  | some at' =>
    let own := s.ownRecords m l
    let base := (s.huddleArea t.court).1
    (List.range (s.recordSets t p m l)).foldl (fun (s : State × Code) i =>
      if s.2 ≠ 0 then s else
      let off := at'.1 + (i * m.units + own.1) * m.bytes
      let r := s.1.anyRead (umpAccess t.ctx) off (own.2 * m.bytes)
      if r.2.1 ≠ 0 then (r.1, r.2.1) else
      (((r.1.ringUnits l).filter (fun q => decide (q ≠ s.1.ring.position))).foldl (fun s q =>
        s.startTransfer 1 t.court t.layer (off - base) q 1 r.2.2) r.1, 0)) (s, 0)
/-- Whether every other unit's records of a layer have arrived. -/
def State.recordsHere (s : State) (t : Step) (p : Plan) (m : Merging) (l : Layer) : Bool :=
  ((s.ringUnits l).filter (fun q => decide (q ≠ s.ring.position))).all (fun q =>
    decide (s.recordSets t p m l ≤ (t.mergeGot.filter (fun k => decide (k = 16 * t.layer + q))).length))

end Sys2Proof.Machine
end

