-- ==== Sys2Proof/Machine/Coach.lean ====
section
/-! DEFINITION. The coaches' work on a step: dispatching runs, completing them, walks, coach-delivered halos, huddles, merges and the
end of a step (04 R112 to R118; 05 R141, R149, R153, R155; 12 R322, R323; 14 R359, R361, R374, R377). -/
namespace Sys2Proof.Machine

/-! Dispatch (R361). -/

/-- The shard that holds an object address. -/
def State.shardAt (s : State) (a : Nat) : Option (Nat × Shard) :=
  match s.objAt (a / blockBytes) with
  | none => none
  | some (b, _) => (AMap.find? s.wgt.shards b).map (fun h => (b, h))
/-- Whether a range lies, in part, in a cave block. -/
def State.inCave (s : State) (a n : Nat) : Bool :=
  (piecesOf a n).any (fun p => match AMap.find? s.tier.blocks (p.1 / blockBytes) with | some (.cave _ _ _) => true | _ => false)
/-- The recall of a shard in progress: a move of the module's own out of the cave. -/
def State.recalling (s : State) (p : Nat × Nat) : Bool :=
  match s.objAt (p.1 / blockBytes) with
  | some (_, o) => (match o.move with | some m => m.req.isNone && decide (m.dest ≠ 2) | none => false)
  | none => false
/-- Whether a run is held for a recall of a part it reads: a part lies in the cave, or a recall that was asked for the run has not committed
its last block (12 R322). -/
def State.isHeld (s : State) (r : Run) : Bool := r.parts.any (fun p => s.inCave p.1 p.2 || (r.recalled && s.recalling p))
/-- Whether a part of a run lies in a corrupt shard (12 R323). -/
def State.readsCorrupt (s : State) (r : Run) : Bool :=
  r.parts.any (fun p => match s.shardAt p.1 with | some (_, h) => h.corrupt | none => false)

/-- Whether two runs are of one core block. -/
def Run.sameBlock (a b : Run) : Bool :=
  decide (a.ctx = b.ctx) && decide (a.step = b.step) && decide (a.layer = b.layer) && decide (a.block = b.block)
/-- The runs a core may start, in dispatch order: the next of its open core block, where one is open, once it is not held; else the first of each block that is
not held, of courts that are awake, and no BE run while the governor holds them (R361; 18 R477). -/
def State.eligible (s : State) (core : Nat) : List Run :=
  let mine := s.sch.queue.filter (fun r => decide (r.core = core) && s.awake r.court && (r.lc || !s.pwr.beHeld))
  match AMap.find? s.sch.openBlk core with
  | some (ctx, num, layer, block) => ((s.sch.queue.filter (fun r => decide (r.core = core) && decide (r.ctx = ctx) &&
      decide (r.step = num) && decide (r.layer = layer) && decide (r.block = block))).take 1).filter (fun r => !s.isHeld r)
  | none => ((List.range mine.length).zip mine).filterMap (fun e =>
      if (mine.take e.1).any (fun x => x.sameBlock e.2) || s.isHeld e.2 then none else some e.2)
/-- The run a core starts next: an LC run before a BE run. -/
def State.nextRun (s : State) (core : Nat) : Option Run :=
  let es := s.eligible core
  match es.find? (fun r => r.lc) with
  | some r => some r
  | none => es.head?

/-- The runs of a step dispatched to a core before now (R359). -/
def dispatchKey (r : Run) : Nat := (2 ^ 48 * r.ctx + r.step) * 32768 + r.core

/-- What the coach puts into a core before a run: the kernel, the argument block, the rounding generator, the conversion
descriptors, the walk (04 R113; 08 R210; 14 R359). -/
def CoreRegs.loadRun (c : CoreRegs) (p : Plan) (l : Layer) (seed n : Nat) (r : Run) : CoreRegs :=
  let bundles := match p.kernels[r.kernel]? with | some k => k.bundles | none => []
  let argsAt := ((p.regionsOf l).findSome? (fun i => match p.regions[i]? with
    | some x => if x.role = 8 then some x.offset else none
    | none => none)).getD 0
  let c := (c.touch 0 [] [(0, 16 * bundles.length)]).getD c
  let c := (c.touch 1 [] [(argsAt, 4 * r.args.length)]).getD c
  { c with
    istore := Mem.wrBytes c.istore 0 (bundles.flatMap (fun b => leBytes 16 b.toNat))
    tb := Mem.wrBytes c.tb argsAt (r.args.flatMap (fun w => leBytes 4 w.toNat))
    srKey := BitVec.ofNat 64 (Nat.xor (Nat.xor seed (r.step * 2 ^ 16 % 2 ^ 64)) r.core)
    srCtr := BitVec.ofNat 64 (n * 2 ^ 32)
    xcvt0 := match r.xcvt with | some d => d.1 | none => c.xcvt0
    xcvt1 := match r.xcvt with | some d => d.2 | none => c.xcvt1
    pageQ := []
    walkLeft := r.walk
    startPc := 0
    qntElems0 := c.qntElems
    qntSat0 := c.qntSat
    run := some r }

/-- The counters of a cluster that a dispatched run moves (04 R103; 08 R216). -/
def Cluster.countRun (c : Cluster) (r : Run) : Cluster :=
  { c with zeroDisp := if r.zeroExt then c.zeroDisp + 1 else c.zeroDisp, tapSkip := c.tapSkip + BitVec.ofNat 64 r.skipTaps }

/-- A run starts on the physical core `p`. -/
def State.startRun (s : State) (p : Nat) (b : Playbook) (l : Layer) (r0 : Run) : State :=
  let r := { r0 with start := s.counter.toNat }
  let seed := match s.ctxRec r.ctx with | some x => x.seed | none => 0
  let n := AMap.getD s.sch.dispatched 0 (dispatchKey r)
  let s1 := s.modCore p (fun c => c.loadRun b.plan l seed n r)
  let s2 := s1.modClu (r.core / 25) (fun c => c.countRun r)
  let s3 := { s2 with sch := { s2.sch with
    queue := s2.sch.queue.erase r0
    dispatched := AMap.insert s2.sch.dispatched (dispatchKey r) (n + 1)
    openBlk := if r.kLast then AMap.erase s2.sch.openBlk r.core else AMap.insert s2.sch.openBlk r.core (r.ctx, r.step, r.layer, r.block) } }
  let s4 := match r.kind, r.seq, s3.sch.steps.find? (fun t => t.same r.ctx r.step) with
    | .recur, some i, some t => s3.putStep { t with updated := if t.updated.contains i then t.updated else t.updated ++ [i] }
    | _, _, _ => s3
  s4.startCore p 0

/-- RUN_DISPATCH: an idle core starts the next run queued for it (R361); a part in a corrupt shard ends the step instead (12
R323). -/
def execRunDispatch (core : Nat) (s : State) : Host.Outcome State Fault Refusal :=
  .next <| match s.physOf core with
  | none => s
  | some p =>
    let c := (s.core p).now
    if c.st = .running ∨ c.run.isSome then s
    else match s.nextRun core with
      | none => s
      | some r => match s.sch.steps.find? (fun t => t.same r.ctx r.step), AMap.find? s.book.books r.playbook with
        | some t, some b => match b.plan.layers[r.layer]? with
          | none => s
          | some l =>
            if s.readsCorrupt r then s.failStep t E_WGT_CORRUPT none (ident 1 (core / 25))
            else s.startRun p b l r
        | _, _ => s

/-- SHARD_RECALL: the coach asks the umpire to recall the shard of a held run to its recall tier (12 R322). A recall that is refused ends the
step; one that is already in progress serves the run too, and one that stopped short is asked for again (DESIGN CHOICE, log entry 83). -/
def execShardRecall (core : Nat) (s : State) : Host.Outcome State Fault Refusal :=
  .next <| match s.sch.queue.find? (fun r => decide (r.core = core) && r.parts.any (fun p => s.inCave p.1 p.2)) with
  | none => s
  | some r =>
    let part := r.parts.find? (fun p => s.inCave p.1 p.2)
    match part.bind (fun p => s.shardAt p.1), s.sch.steps.find? (fun t => t.same r.ctx r.step) with
    | some (b, h), some t => match AMap.find? s.tier.objs b with
      | none => s
      | some o =>
        let held (s : State) : State := { s with sch := { s.sch with
          queue := s.sch.queue.map (fun x => if x = r then { x with recalled := true } else x) } }
        if (match o.move with | some m => m.req.isNone && decide (m.dest = h.recallTier) | none => false) then held s
        else
          let s1 := { s with wgt := { s.wgt with recalls := s.wgt.recalls + 1 } }
          let c := s1.moveCode b o h.recallTier
          if c ≠ 0 then s1.failStep t E_WGT_RECALL none (ident 1 (core / 25))
          else held (s1.startMove b o h.recallTier none)
    | _, _ => s

/-! The page cache (05 R143). -/

/-- The staging region of a layer that is its page cache: offset and bytes. -/
def Plan.cacheRegion (p : Plan) (l : Layer) : Option (Nat × Nat) :=
  (p.regionsOf l).findSome? (fun i => match p.regions[i]? with
    | some r => if r.role = 11 ∧ r.store = 2 then some (r.offset, p.governing i r) else none
    | none => none)
/-- Where `n` bytes fit in a region beside the pages staged there, at the lowest place. -/
def cachePlace (reg : Nat × Nat) (held : List CachedPage) (n : Nat) : Option Nat :=
  let ok (a : Nat) : Bool := decide (a + n ≤ reg.1 + reg.2) && held.all (fun e => decide (a + n ≤ e.off) || decide (e.off + e.len ≤ a))
  ((reg.1 :: held.map (fun e => 64 * ceilDiv (e.off + e.len) 64)).filter ok).head?
/-- A page of a run's walk staged in the page cache of its cluster, once per step. Where the region has no room beside the pages of the
steps in progress, those that other layers of the step staged make way; a page that does not fit, or cannot be read, is left to XPAGE
(DESIGN CHOICE, log entry 83). -/
def State.stagePage (s : State) (p : Nat) (r : Run) (d : PageDesc) : State :=
  let cl := p / 26
  match (AMap.find? s.book.books r.playbook).bind (fun b => (b.plan.layers[r.layer]?).bind b.plan.cacheRegion) with
  | none => s
  | some reg =>
    if (s.cachedAt cl (some r) d.addr).isSome then s
    else
      let n := 2 * partBlocks (d.headsM1 + 1) (d.dblkM1 + 1) * (pageMicro d.fmt).1
      let live := (s.clu cl).cache.filter (fun e => s.sch.steps.any (fun t => t.same e.ctx e.step))
      let mine := live.filter (fun e => !(decide (e.ctx = r.ctx) && decide (e.step = r.step)) || decide (e.layer = r.layer))
      let place := match cachePlace reg live n with
        | some a => some (a, live)
        | none => (cachePlace reg mine n).map (fun a => (a, mine))
      match place with
      | none => s
      | some (a, kept) =>
        let q := (s.chargeBytesAt (ident 1 cl) r.ctx false d.addr n).objRead ⟨.coach r.ctx, 1, r.ctx, ident 1 cl⟩ d.addr n
        if q.2.1 ≠ 0 then s
        else q.1.modClu cl (fun c =>
          let c := (c.touch [] [(a, n)]).getD c
          { c with staging := Mem.wrBytes c.staging a q.2.2, cache := kept ++ [⟨r.ctx, r.step, r.layer, d.addr, a, n⟩] })

/-- PAGE_DESCRIPTOR_ISSUE: the coach issues the next descriptor of the core's walk, its page staged where the layer has a page cache (05 R141,
R143). -/
def execPageDescriptorIssue (core : Nat) (s : State) : Host.Outcome State Fault Refusal :=
  .next <| match s.physOf core with
  | none => s
  | some p =>
    let c := (s.core p).now
    match c.walkLeft with
    | [] => s
    | d :: rest =>
      if 8 ≤ c.pageQ.length then s
      else
        let s1 := match c.run with | some r => s.stagePage p r d | none => s
        (s1.modCore p (fun c => { c with pageQ := c.pageQ ++ [d], walkLeft := rest })).modClu (core / 25) (fun c => { c with
          kvDesc := c.kvDesc + 1 })

/-! Completion of a run (02 R60). -/

/-- The top byte of a signal. -/
def sigKind (w : W32) : Nat := w.toNat / 2 ^ 24
/-- Rows flushed that the posts of a core tell (05 R149). -/
def flushesOf (p : Nat) (es : List CoachEvent) : Nat :=
  (es.map (fun e => match e with
    | .signal q w => if q = p ∧ sigKind w = 0xA2 then w.toNat % 2 ^ 16 else 0
    | _ => 0)).sum
/-- Whether a post is a halo's that still waits for its delivery. -/
def CoachEvent.isHalo (e : CoachEvent) : Bool := match e with | .signal _ w => sigKind w == 0xA1 | _ => false
/-- The core that posted. -/
def CoachEvent.core (e : CoachEvent) : Nat := match e with | .signal p _ => p | .complete p _ => p

/-- The coach's queue with the posts of a core that has completed taken out: it still owes the halos they post, unless their step
failed (04 R118). -/
def Cluster.clearPosts (c : Cluster) (p logical : Nat) (run : Option Run) : Cluster :=
  { c with
    events := c.events.filter (fun e => decide (e.core ≠ p))
    owed := c.owed ++ (match run with
      | some r => c.events.filterMap (fun e => match e with
        | .signal q w => if e.isHalo ∧ q = p then some (p, w, r) else none
        | _ => none)
      | none => [])
    halos := if run.isNone then c.halos.filter (fun h => decide (h.1 / 8 ≠ logical)) else c.halos
    rescaleFlush := c.rescaleFlush + BitVec.ofNat 64 (flushesOf p c.events) }

/-- The score record of a run of the score layer completed: the step's frame and the future's id (09 R235). -/
def State.postScore (s : State) (r : Run) (b : Playbook) (l : Layer) : State :=
  match b.plan.roll.find? (fun e => e.scoreLayer == l.layer), r.seq, AMap.find? s.sch.scores r.playbook with
  | some _, some i, some tab => match s.seq i with
    | some q => (s.objWrite (umpAccess r.ctx) (blockBytes * tab + 16 * i + 8)
        (leBytes 4 (q.frame % 2 ^ 32) ++ leBytes 4 (q.future % 2 ^ 32))).1
    | none => s
  | _, _, _ => s

/-- A contributing run counted in its huddle (05 R155, phase 3). -/
def State.countHuddle (s : State) (r : Run) (t : Step) : State :=
  match r.contributes, AMap.find? t.huddles r.layer with
  | true, some h => (s.objVat ⟨.coach r.ctx, 1, r.ctx, ident 1 (r.core / 25)⟩ 4 h.ctr (leBytes 8 1)).1
  | _, _ => s

/-- The counts of a run credited to its layer (03, Fallback). -/
def Step.credit (t : Step) (layer sat elems : Nat) : Step :=
  let x := AMap.getD t.counts (0, 0) layer
  { t with counts := AMap.insert t.counts layer (x.1 + sat, x.2 + elems) }

/-- The events that the core at `p` has counted, charged to a line at its cluster (14 R377, R378). -/
def State.chargeWork (s : State) (p line : Nat) : State :=
  let t := (s.core p).now.work.foldl (fun s e => s.addAcc (ident 1 (p / 26)) line 10 (eventEnergy e.1 e.2)) s
  t.modCore p (fun c => { c with work := [] })
/-- A run charged to its context from its start until now, with its events (14 R377). -/
def State.chargeRun (s : State) (p : Nat) (r : Run) : State :=
  let line := if r.ctx < 1024 then r.ctx else 1024
  let now := s.counter.toNat
  let t := (s.chargeWork p line).chargeAt (ident 1 (p / 26)) line 0 (33 * (now - r.start))
  { t with led := { t.led with busy := t.led.busy + (now - max r.start t.led.since) } }

/-- A run of a step has ended on core `p` with a code. -/
def State.finishRun (s : State) (p : Nat) (c : CoreRegs) (r : Run) (code : Code) : State :=
  let s1 := (s.chargeRun p r).modCore p (fun x => { x with run := none, pageQ := [], walkLeft := [] })
  match s1.sch.steps.find? (fun t => t.same r.ctx r.step), AMap.find? s1.book.books r.playbook with
  | some t, some b => match b.plan.layers[r.layer]? with
    | none => s1
    | some l =>
      let t1 := t.credit l.layer (c.qntSat - c.qntSat0).toNat (c.qntElems - c.qntElems0).toNat
      if t.status ≠ 0 then
        let t2 := { t1 with left := t.left - 1 }
        s1.putStep { t2 with done := decide (t2.left = 0) }
      else if code ≠ 0 then
        let t2 := { t1 with left := t.left - 1 }
        (s1.putStep t2).failStep t2 code (match r.seq with
          | some i => t.ents.findIdx? (fun e => decide (e.seq = i))
          | none => none) (ident 0 r.core)
      else
        let s2 := (s1.countHuddle r t).postScore r b l
        (s2.putStep { t1 with left := t.left - 1 }).advance r.ctx r.step (b.plan.layers.length + 1)
  | _, _ => s1

/-- The core stops where stop or halt was requested and nothing is outstanding (02 R60). -/
def State.settleCore (s : State) (p : Nat) : State :=
  let c := (s.core p).now
  if c.st = .running ∧ c.xfers = [] then
    match c.stopping with
    | some code => s.stopNow p code
    | none => if c.halt then s.stopNow p 0 else s
  else s

/-- The code of the completion that a core has posted, if its coach has not taken it. -/
def Cluster.posted (c : Cluster) (p : Nat) : Option Code :=
  c.events.findSome? (fun e => match e with | .complete q code => if q = p then some code else none | _ => none)

/-- KERNEL_COMPLETE: the core becomes stopped and posts its completion; its coach takes the posts, and ends the run. A start that CORE_CTRL
holds follows (log entry 75). -/
def execKernelComplete (core : Nat) (s : State) : Host.Outcome State Fault Refusal :=
  .next <| match s.physOf core with
  | none => s
  | some p =>
    let s1 := s.settleCore p
    let cl := p / 26
    match (s1.clu cl).posted p with
    | none => s1.startHeld p
    | some code =>
      let c := (s1.core p).now
      let failed := decide (code ≠ 0) || (match c.run with
        | some r => (match s1.sch.steps.find? (fun t => t.same r.ctx r.step) with | some t => decide (t.status ≠ 0) | none => true)
        | none => true)
      let s2 := s1.modClu cl (fun x => x.clearPosts p core (if failed then none else c.run))
      match c.run with
      | none => (s2.chargeWork p 1024).startHeld p
      | some r => ((s2.finishRun p c r code).startHeld p).mark

/-! Coach-delivered halos (04 R118). -/

/-- The core that lies next to a unit in a direction, and whether a coach delivers to it (edge code 2, R113, R115). -/
def haloPeer (us : List WorkUnit) (core dir : Nat) : Option Nat :=
  match us.find? (fun u => decide (u.core = core)) with
  | none => none
  | some u =>
    let near (v : WorkUnit) : Bool :=
      decide (v.n = u.n) && decide (v.k = u.k) && decide (v.g = u.g) && decide (0 < v.y.2) && decide (0 < v.x.2) &&
      (if dir = 0 then decide (v.x = u.x) && decide (v.y.1 + v.y.2 = u.y.1)
       else if dir = 1 then decide (v.y = u.y) && decide (v.x.1 = u.x.1 + u.x.2)
       else if dir = 2 then decide (v.x = u.x) && decide (v.y.1 = u.y.1 + u.y.2)
       else decide (v.y = u.y) && decide (v.x.1 + v.x.2 = u.x.1))
    match us.find? near with
    | none => none
    | some v => if neighbour core dir = some v.core then none else some v.core

/-- A halo's bytes written to core `b` (physical), and counted there in the direction it comes from. -/
def State.haloCopy (s : State) (b : Nat) (h : HaloEnt) (dir : Nat) (data : List Byte) : State :=
  let d := (dir + 2) % 4
  s.modCore b (fun c =>
    let c := (c.touch 1 [] [(h.dst, data.length)]).getD c
    { c.setHalo d (c.haloCount d + 1) with tb := Mem.wrBytes c.tb h.dst data })
/-- Whether the receiver's counter has room. -/
def State.haloRoom (s : State) (b dir : Nat) : Bool := decide ((s.core b).now.haloCount ((dir + 2) % 4) < 65535)

/-- One side of a post: core `a` (logical) sends entry `i` in a direction. A one-way halo is delivered; a two-way one waits for
its other side, and both are copied before either is written. `none`: a counter is full, and the post waits. -/
def State.haloSide (s : State) (us : List WorkUnit) (a i : Nat) (h : HaloEnt) (dir : Nat) (two : Bool) : Option State :=
  match haloPeer us a dir with
  | none => some s
  | some b => match s.physOf a, s.physOf b with
    | some pa, some pb =>
      let da := Mem.rdBytes (s.core pa).now.tb h.src h.bytes
      if !two then (if s.haloRoom pb dir then some (s.haloCopy pb h dir da) else none)
      else
        let opp := (dir + 2) % 4
        let other := (8 * b + opp, i)
        if (s.clu (b / 25)).halos.contains other then
          if s.haloRoom pb dir && s.haloRoom pa opp then
            let db := Mem.rdBytes (s.core pb).now.tb h.src h.bytes
            some (((s.haloCopy pb h dir da).haloCopy pa h opp db).modClu (b / 25) (fun c => { c with halos := c.halos.erase other }))
          else none
        else some (s.modClu (a / 25) (fun c => { c with halos := c.halos ++ [(8 * a + dir, i)] }))
    | _, _ => some s

/-- The units that a run's M extent is dealt to (R109): the number of a run's core block counts its extent. -/
def State.unitsFor (s : State) (r : Run) (t : Step) (b : Playbook) : List WorkUnit :=
  match (s.layerCtxs t b r.layer)[r.block / 100000000]? with
  | some x => s.unitsOf r.court s.ringRank x.layer x.ext
  | none => []

/-- A halo post of core `core` in run `r`: none while a counter that it moves is full. A post that names no halo of the run's layer, or whose
step is gone, delivers nothing. -/
def State.haloPost (s : State) (core : Nat) (w : W32) (r : Run) : Option State :=
  match AMap.find? s.book.books r.playbook, s.sch.steps.find? (fun t => t.same r.ctx r.step) with
  | some b, some t =>
    let i := w.toNat % 2 ^ 16
    match b.plan.halos[i]?, b.plan.layers[r.layer]? with
    | some h, some l =>
      if h.layer ≠ l.layer then some s
      else
        let us := s.unitsFor r t b
        let dir := h.dir % 4
        let two := h.dir.testBit 2
        (s.haloSide us core i h dir two).bind (fun s1 => if two then s1.haloSide us core i h ((dir + 2) % 4) true else some s1)
    | _, _ => some s
  | _, _ => some s

/-- COACH_HALO_DELIVERY: the first halo post of a core that its coach has not handled: of a run that has completed, else of the run on the
core. -/
def execCoachHaloDelivery (core : Nat) (s : State) : Host.Outcome State Fault Refusal :=
  .next <| match s.physOf core with
  | none => s
  | some p =>
    let cl := p / 26
    match (s.clu cl).owed.find? (fun e => decide (e.1 = p)) with
    | some e => match s.haloPost core e.2.1 e.2.2 with
      | none => s
      | some s1 => s1.modClu cl (fun c => { c with owed := c.owed.erase e })
    | none => match (s.clu cl).events.find? (fun e => e.isHalo && decide (e.core = p)), (s.core p).now.run with
      | some (.signal q w), some r => match s.haloPost core w r with
        | none => s
        | some s1 => s1.modClu cl (fun c => { c with events := c.events.erase (.signal q w) })
      | _, _ => s

/-- The partner of a core in a direction: the one its coach delivers to (edge code 2), else its neighbour (04 R115, R119). -/
def State.haloPartner (s : State) (core p dir : Nat) : Option Nat :=
  let far := (s.core p).now.run.bind (fun r =>
    match AMap.find? s.book.books r.playbook, s.sch.steps.find? (fun t => t.same r.ctx r.step) with
    | some b, some t => haloPeer (s.unitsFor r t b) core dir
    | _, _ => none)
  match far with
  | some k => some k
  | none => neighbour core dir

/-- HALO_TIMEOUT: an XHWAIT of the core on a direction has stalled past CLU_HALO_TMO. The core stops with E_HALO_TIMEOUT, and the fault ends
the stall of its partner in that direction, where that one stalls on the halo back (R119). -/
def execHaloTimeout (core : Nat) (dir : BitVec 2) (s : State) : Host.Outcome State Fault Refusal :=
  .next <| match s.physOf core with
  | none => s
  | some p =>
    let c := (s.core p).now
    if c.st ≠ .running ∨ c.stopping ≠ none then s
    else
      let s1 := s.stopNow p E_HALO_TIMEOUT
      match (s.haloPartner core p dir.toNat).bind s1.physOf with
      | none => s1
      | some q => if (s1.core q).now.awaits ((dir.toNat + 2) % 4) then s1.stopNow q E_HALO_TIMEOUT else s1

/-! Huddles, merges (05 R153, R155). -/

/-- HUDDLE_GATHER: the counter equals the contributor count, and the consuming runs are released; a huddle across the ring goes on
with its first stage (17 R456). -/
def execHuddleGather (court ctx step : Nat) (s : State) : Host.Outcome State Fault Refusal :=
  .next <| match s.stepAt court ctx step with
  | none => s
  | some t => match AMap.find? t.huddles t.layer with
    | none => s
    | some h =>
      if h.released ∨ t.left ≠ 0 ∨ t.status ≠ 0 ∨ (h.ring ∧ h.stage ≠ 0) then s
      else
        let r := s.anyRead (umpAccess ctx) h.ctr 8
        if r.2.1 ≠ 0 then r.1.failStep t r.2.1 none (ident 1 (s.leadCluster court))
        else if leNat r.2.2 ≠ h.need then r.1
        else
          let h1 := if h.ring then { h with stage := 1 } else { h with released := true }
          ((r.1.putStep { t with huddles := AMap.insert t.huddles t.layer h1 }).advance ctx step (s.layersOf t + 1)).mark

/-- The bytes of a map from position to value, `w` bytes each, for `n` positions. -/
def planeBytes (w n : Nat) (m : AMap Nat) : List Byte := (List.range n).flatMap (fun i => leBytes w (AMap.getD m 0 i))
/-- The coach's merge of an arg-max layer: its pairs written planar, packed or as two planes (08 R221). The spec gives the output's address
in no field: a free value, 64-byte aligned. The code of what could not be read or written. -/
def State.mergeScan (s : State) (t : Step) (b : Playbook) (mg : Merging) : State × Code :=
  match b.plan.layers[t.layer]?, AMap.find? t.merges t.layer with
  | some l, some m =>
    let ac : Access := ⟨.coach t.ctx, 1, t.ctx, ident 1 (s.leadCluster t.court)⟩
    let r := s.anyRead ac m.1 m.2
    if r.2.1 ≠ 0 then (r.1, r.2.1)
    else
      let n := s.rowsOf t b.plan l
      let ps := (s.layerCtxs t b t.layer).flatMap (fun x => (x.scanTiles mg r.2.2).map (fun e => (x.group.row + e.1, e.2)))
      let put (f : Nat × Nat → Nat) : AMap Nat := ps.foldl (fun m e => AMap.insert m e.1 (f e.2)) []
      let base := 64 * (s.fv 0 % 2 ^ 46)
      let pair := match b.plan.convEnt l.layer with | some c => c.flags.testBit 2 | none => false
      let data := if pair then
          bytesAt (planeBytes 4 n (put (·.1))) 0 (64 * ceilDiv (4 * n) 64) ++ planeBytes 2 n (put (·.2))
        else planeBytes 4 n (put (fun e => e.2 + 2 ^ 16 * toBf16 e.1))
      (r.1.drawn).objWrite ac base data
  | _, _ => (s, 0)

/-- A merge that may go on: its runs queued, or done by the coach itself for an arg-max layer. -/
def State.mergeNow (s : State) (t : Step) (b : Playbook) (mg : Merging) : State :=
  if mg.scan then
    let r := s.mergeScan t b mg
    if r.2 ≠ 0 then r.1.failStep t r.2 none (ident 1 (s.leadCluster t.court))
    else (r.1.putStep { t with mergeDue := false, merged := true }).advance t.ctx t.num (b.plan.layers.length + 1)
  else
    let rs := s.mergeRuns t b t.layer
    let s1 := (s.putStep { t with mergeDue := false, merged := true, left := rs.length }).drawn
    let s2 := { s1 with sch := { s1.sch with queue := s1.sch.queue ++ rs } }
    if rs = [] then s2.advance t.ctx t.num (b.plan.layers.length + 1) else s2

/-- MERGE_DISPATCH: every unit of a split has completed, and the merge follows (05 R153; 08 R221). Of a split across the ring this module's
records go out first, and the merge waits for those of the other units (17 R457). -/
def execMergeDispatch (court ctx step : Nat) (s : State) : Host.Outcome State Fault Refusal :=
  .next <| match s.stepAt court ctx step with
  | none => s
  | some t =>
    if !t.mergeDue ∨ t.left ≠ 0 ∨ t.status ≠ 0 then s
    else match AMap.find? s.book.books t.playbook with
      | none => s
      | some b => match (b.plan.layers[t.layer]?).bind (fun l => (b.plan.merging l).map (fun m => (l, m))) with
        | none => s
        | some (l, mg) =>
          let own := 16 * t.layer + s.ring.position
          if !mg.ring l then s.mergeNow t b mg
          else if t.mergeGot.contains own then (if s.recordsHere t b.plan mg l then s.mergeNow t b mg else s)
          else if s.ring.leaving.isSome then s
          else
            let t1 := { t with mergeGot := t.mergeGot ++ [own] }
            let r := s.sendRecords t b.plan mg l
            if r.2 ≠ 0 then r.1.failStep t r.2 none (ident 1 (s.leadCluster court))
            else
              let s1 := r.1.putStep t1
              if s1.recordsHere t1 b.plan mg l then s1.mergeNow t1 b mg else s1

/-! The end of a step (R374; 05 R157; 07 R193; 03 R89). -/

/-- The stream of a sequence after a step. -/
def Stream.after (x : Stream) (ran failed : Bool) : Stream :=
  if !ran then x
  else if failed then { x with st := .lost }
  else { x with seqNo := x.seqNo + 1 }

/-- The roster entry of a sequence after a step with a status. -/
def Seq.after (q : Seq) (t : Step) : Seq :=
  let ok := decide (t.status = 0)
  let served := if t.num % 2 ^ 32 = 0 then 1 else t.num % 2 ^ 32
  let q1 := { q with served := served, lastStatus := t.status }
  if ok then
    let wrap := decide (q.passes ≤ q.pass + 1)
    { q1 with
      pass := if wrap then 0 else q.pass + 1
      frame := if wrap then (q.frame + q.chunk) % 2 ^ 32 else q.frame
      steps := q.steps + 1
      runs := q.runs + 1 }
  else q1

/-- One entry of a step that has ended: its pages sealed, its stream and roster entry updated, its events (R374). -/
def State.endEntry (s : State) (t : Step) (e : StepEnt) : State :=
  match s.seq e.seq with
  | none => s
  | some q =>
    let ok := decide (t.status = 0)
    let s1 := if ok && e.sealFlag then
        (t.wrote.filter (fun k => match s.page k with | some p => decide (p.owner = e.seq) | none => false)).foldl State.sealPage s
      else s
    let st := q.stream.after (t.updated.contains e.seq) (!ok)
    let q1 := (q.after t)
    let q2 := { q1 with stream := st, stateSeq := if q.hasStream then st.seqNo else q.stateSeq }
    let s2 := s1.setSeq e.seq q2
    let s3 := if ok then s2.charge (if t.ctx < 1024 then t.ctx else 1024) 11 1 else s2.seqEvent e.seq 1 t.status
    if t.batch.isNone && decide (q2.tokens = 0) then s3.seqEvent e.seq 0 0 else s3

/-- The monitor's counts at the end of a step, for every layer of the court that it watches (03 R89). -/
def State.endCounts (s : State) (t : Step) : State :=
  (s.book.fb.filter (fun e => decide (e.1 / 4096 = t.court))).foldl (fun s e =>
    let x := AMap.getD t.counts (0, 0) (e.1 % 4096)
    s.fbStep t.court (e.1 % 4096) x.1 x.2) s

/-- STEP_COMPLETE (R374; R375 for a batch). -/
def execStepComplete (court ctx step : Nat) (s : State) : Host.Outcome State Fault Refusal :=
  .next <| match s.stepAt court ctx step with
  | none => s
  | some t =>
    if !t.done then s
    else
      let s1 := { s with sch := { s.sch with
        steps := s.sch.steps.filter (fun x => !x.same ctx step)
        dispatched := s.sch.dispatched.filter (fun e => decide (e.1 / 32768 ≠ 2 ^ 48 * ctx + step)) } }
      let s1 := { s1 with clus := s1.clus.map (fun (e : Nat × Cluster) =>
        (e.1, { e.2 with cache := e.2.cache.filter (fun p => !(decide (p.ctx = ctx) && decide (p.step = step))) })) }
      let s2 := (t.ents.foldl (fun s e => s.endEntry t e) s1).endCounts t
      let s3 := match t.batch with
        | none => s2
        | some r => s2.answer r t.status (leBytes 2 0 ++ leBytes 8 t.num ++
            leBytes 2 (if t.status = 0 then 0xFFFF else t.failAt.getD 0xFFFF))
      (s3.disengage ctx).mark

end Sys2Proof.Machine
end

