-- ==== Sys2Proof/Machine/Ledger.lean ====
section
/-! DEFINITION. The ledger's folds and reads (14 R376 to R379, R386). -/
namespace Sys2Proof.Machine

/-- How much of an item's accumulator makes one unit of its line: 3,300 ACLK cycles a microsecond of time, 10^6 pJ a microjoule,
one byte or step. -/
def foldUnit (item : Nat) : Nat := if item ≤ 3 then 3300 else if item = 10 then 844800000000 else 1
def lineKey (line item : Nat) : Nat := 16 * line + item
def State.ledLine (s : State) (line item : Nat) : W64 := AMap.getD s.led.lines 0 (lineKey line item)
/-- Whole units moved from an accumulator into its line and into the total line; the remainder stays. -/
def LedgerSt.foldOne (l : LedgerSt) (line key acc : Nat) : LedgerSt :=
  let u := foldUnit (key % 16)
  let n : W64 := BitVec.ofNat 64 (acc / u)
  let add (m : AMap W64) (k : Nat) : AMap W64 := AMap.setD m 0 k (AMap.getD m 0 k + n)
  { l with acc := AMap.setD l.acc 0 key (acc % u), lines := add (add l.lines (lineKey line (key % 16))) (lineKey 1025 (key % 16)) }

/-- Core-ticks that cores with power have spent outside any run since they were last counted: logical cores of the courts in PS0 and PS1. -/
def State.idleTicks (s : State) : Nat :=
  let now := s.counter.toNat
  let cores := ((List.range 8).map (fun k => if s.courtGated k then 0 else 625 * (s.courtDies k).length)).sum
  let runs := (s.cores.map (fun e => match e.2.now.run with | some r => now - max r.start s.led.since | none => 0)).sum
  cores * (now - s.led.since) - (s.led.busy + runs)
/-- Leakage and clocks of idle cores up to now, unattributed (R377): counted at each fold and where a court's power state changes. -/
def State.countIdle (s : State) : State :=
  let t := s.addAcc (ident 2 1024) 1024 10 (eventEnergy 10 (33 * s.idleTicks))
  { t with led := { t.led with since := s.counter.toNat, busy := 0 } }
/-- The energy of the SRAM bytes and of the mesh and bridge hops behind what each accumulator holds: the spec does not say how many there
are, so those two counts are free values (log entries 2 and 86). -/
def State.countUnstated (s : State) : State :=
  let ks := (s.led.acc.map (·.1)).filter (fun k => decide (k % 16 = 10))
  State.drawn { s with led := { s.led with acc := ks.foldl (fun m k =>
    AMap.insert m k (AMap.getD m 0 k + eventEnergy 5 (s.fv (2 * k)) + eventEnergy 7 (s.fv (2 * k + 1)))) s.led.acc } }
/-- A fold: every accumulator's whole units into its line and the total (R379). -/
def State.foldLedger (s : State) : State :=
  let s1 := s.countIdle.countUnstated
  let l := s1.led.acc.foldl (fun l e => l.foldOne (s1.ledLineOf (e.1 % 65536 / 16)) e.1 e.2) s1.led
  { s1 with led := { l with folds := l.folds + 1 } }

/-- LEDGER_FOLD. -/
def execLedgerFold (s : State) : Host.Outcome State Fault Refusal := .next s.foldLedger

/-- The record of a line (R386). -/
def State.lineRecord (s : State) (line : Nat) : List Byte :=
  leBytes 2 line ++ leBytes 6 0 ++ (List.range 12).flatMap (fun i => leBytes 8 (s.ledLine line i).toNat) ++ leBytes 24 0
/-- Whether a mailbox is shown a line. -/
def seesLine (r : Req) (line : Nat) : Bool := isMgmt r.mbx || decide (1024 ≤ line) || decide (line = r.ctx)

/-- MSG_LEDGER_READ (R386). -/
def execMsgLedgerRead (mbx : Nat) (s : State) : Host.Outcome State Fault Refusal :=
  .next (serve 0x0D00 mbx (fun r s =>
    let first := r.fld 0 2
    let count := r.fld 2 2
    let dest := r.fld 8 8
    if count = 0 ∨ 1026 < first + count ∨ dest % 64 ≠ 0 then s.refuse r E_SCH_ARG 14
    else
      let s1 := s.foldLedger
      let data := (List.range count).flatMap (fun i =>
        if seesLine r (first + i) then s1.lineRecord (first + i) else leBytes 128 0)
      let w := s1.objWrite r.access dest data
      if w.2 ≠ 0 then w.1.refuse r w.2 14
      else w.1.answer r 0 (leBytes 6 0 ++ leBytes 8 w.1.led.folds.toNat)) s)

end Sys2Proof.Machine
end

