-- ==== Sys2Proof/Machine/Streams.lean ====
section
/-! DEFINITION. The end of a sequence, streams: copies, moves between slots, rotation (07 R190 to R205; 09 R229, R233, R237; 14
R381). -/
namespace Sys2Proof.Machine

/-! What a stream holds. -/

/-- The tiles of a stream: in its slot, its bench image or its parked image; a benched zero state has none (07 R192). -/
def State.streamTilesOf (s : State) (q : Seq) (b : Playbook) : State × Code × List Byte :=
  let len := b.plan.imageLen
  match (if q.stream.st = .benched then none else q.stream.slot) with
  | some k => (s, 0, s.readTiles (s.court b.court) b.plan k)
  | none => match q.stream.bench, q.stream.image with
    | some o, _ =>
      let r := (s.chargeBytes (lineOf q.ctx) false (blockBytes * o) len).anyRead (umpAccess q.ctx) (blockBytes * o) len
      (r.1, r.2.1, b.plan.imageTiles r.2.2)
    | none, some a =>
      let r := (s.chargeBytes (lineOf q.ctx) false a len).objRead (umpAccess q.ctx) a len
      (r.1, r.2.1, b.plan.imageTiles r.2.2)
    | none, none => (s, 0, List.replicate (6144 * b.plan.streamTiles) 0)

/-- A branch image that no stream holds freed, and the parent's boundary over (09 R229). -/
def State.endBranches (s : State) (i : Nat) : State :=
  match (s.seq i).bind (·.branchImg) with
  | none => s
  | some o =>
    let s1 := s.modSeq i (fun q => { q with branchImg := none })
    match AMap.find? s1.sch.benches o with
    | some x => if x.holders = 0 then s1.freeBench o else s1
    | none => s1
/-- A stream's hold on a bench image and on a slot given up. -/
def State.dropStream (s : State) (i : Nat) : State :=
  let s := s.endBranches i
  match s.seq i with
  | none => s
  | some q =>
    let s1 := s.setSeq i { q with stream := { q.stream with slot := none, bench := none, image := none } }
    match q.stream.bench with | some o => s1.dropHolder o | none => s1

/-- The slot a stream may take: the one it holds, where it is usable; else the lowest that is free. -/
def State.slotFor (s : State) (q : Seq) : Option Nat :=
  match s.bookOf q, q.stream.slot with
  | some b, some k => if s.slotUsable (s.court b.court) b.plan k then some k else s.freeSlot q.playbook
  | _, _ => s.freeSlot q.playbook

/-- A stream made resident in slot `k` with a state and its number. -/
def State.installStream (s : State) (i k : Nat) (b : Playbook) (tiles : List Byte) (num : W64) : State :=
  ((s.dropStream i).writeTiles (s.court b.court) b.plan k tiles).modSeq i (fun q => { q with
    stream := { q.stream with st := .resident, slot := some k, seqNo := num }, stateSeq := num, runs := 0 })

/-! The cave as the place of bench images (14 R365). -/

/-- The blocks of an image programmed into the cave under block numbers from `b`. -/
def State.programBlocks (s : State) (b : Nat) : List Nat → List Byte → State
  | [], _ => s
  | k :: ks, img =>
    let p := s.program (encBlock 0 (bytesAt img 0 blockBytes))
    let s1 := p.1.setBlock (b + k) p.2
    { s1 with tier := { s1.tier with moves := s1.tier.moves + 1 } }.programBlocks b ks (img.drop blockBytes)
/-- An object of the module's own, its blocks programmed into the cave, and a bench image in it. -/
def State.caveImageAt (s : State) (ctx : Nat) (img : List Byte) (seqNo : W64) (o : Obj) (b : Nat) : State :=
  let s1 := (s.setObj b o).programBlocks b (List.range o.blocks) img
  ({ s1 with sch := { s1.sch with benches := AMap.insert s1.sch.benches b ⟨ctx, img.length, 0, seqNo⟩ } }).charge (lineOf ctx) 9 img.length
/-- A bench image made in the cave, under the cave reserve of its sequence: no quota is charged for it beside that reserve. None where the
module's objects would take more than 2^29 blocks (11 R274). -/
def State.makeCaveImage (s : State) (ctx : Nat) (img : List Byte) (seqNo : W64) : Option (State × Nat) :=
  let o : Obj := ⟨img.length, 0, 0, some ctx, .bench, none⟩
  if 536870912 < s.allocBlocks + o.blocks then none
  else
    let b := findRun o.blocks 1 s.tier.objs
    some (s.caveImageAt ctx img seqNo o b, b)
/-- Whether no move waits for the programming budget and what has been programmed in `t` is within it (11 R296). -/
def State.inBudget (s t : State) : Bool := decide (s.tier.budgetWait = []) && t.budgetOk 0
/-- A resident stream's state as a bench image in the cave. -/
def State.caveSeq (s : State) (i : Nat) : Option State :=
  match s.seq i with
  | none => none
  | some q => match s.bookOf q, q.stream.slot with
    | some b, some k =>
      let img := b.plan.image q.stream.seqNo q.playbook q.gen false (s.readTiles (s.court b.court) b.plan k)
      (s.makeCaveImage q.ctx img q.stream.seqNo).map (fun r =>
        ((r.1.endBranches i).addHolder r.2).modSeq i (fun q => { q with
          stream := { q.stream with st := .benched, slot := none, image := none, bench := some r.2 }
          benchedAt := s.counter.toNat }))
    | _, _ => none

/-! Pages that were caved (14 R365, R367). -/

/-- The blocks of R364 of a context: those of a court's pools that hold its pages, and those of its directories and leaves. -/
def State.pageBlocksOf (s : State) (ctx : Nat) : List Nat :=
  ((s.sch.pages.filter (fun e => decide (e.2.ctx = ctx))).flatMap (fun e =>
    let a := s.pageAddr (e.1 / 2 ^ 26) (e.1 % 2 ^ 26)
    (List.range ((a.1 + a.2 - 1) / blockBytes + 1 - a.1 / blockBytes)).map (a.1 / blockBytes + ·))).eraseDups ++
  (s.sch.seqs.filter (fun e => decide (e.2.ctx = ctx))).flatMap (fun e => match e.2.lst with
    | some b => (List.range (match AMap.find? s.tier.objs b with | some o => o.blocks | none => 0)).map (b + ·)
    | none => [])
/-- Caved blocks of pools that hold no page any more are fresh again, in the region they kept. -/
def State.freeCaved (s : State) : State :=
  let used := (s.sch.ctxs.map (·.1)).flatMap s.pageBlocksOf
  (s.tier.blocks.filterMap (fun e => match e.2 with | .cave _ _ _ => some e.1 | _ => none)).foldl (fun s b =>
    if used.contains b then s else s.uncave b) s

/-! The end of a sequence (09 R233; 14 R381). -/

/-- A prune of a group has taken effect, or can no longer: the answer follows the last one (09 R234, R242). -/
def State.pruneDone (s : State) (g futures pages : Nat) : State :=
  match AMap.find? s.sch.prunes g with
  | none => s
  | some p =>
    let q := { p with left := p.left - 1, futures := p.futures + futures, pages := p.pages + pages }
    if q.left = 0 then
      ({ s with sch := { s.sch with prunes := AMap.erase s.sch.prunes g } }).answer p.req 0
        (match p.body with | some b => b | none => leBytes 2 0 ++ leBytes 4 q.futures ++ leBytes 4 q.pages)
    else { s with sch := { s.sch with prunes := AMap.insert s.sch.prunes g q } }

/-- Children held by a branch that is not made: their entries and reservations go (09 R230). -/
def State.dropChildren (s : State) (is : List Nat) : State :=
  let s1 := is.foldl (fun s i => s.dropList i) s
  { s1 with sch := { s1.sch with seqs := s1.sch.seqs.filter (fun e => !is.contains e.1) } }

/-- What still waits at the boundary of a sequence that has ended is answered. -/
def State.abandon (s : State) (w : Wait) : State :=
  match w with
  | .branch r _ _ cs => (s.dropChildren cs).refuse r E_FUTURE_STATE 14
  | .sealPages r => s.refuse r E_FUTURE_STATE 10
  | .prune g _ => s.pruneDone g 0 0
  | .fin r => s.refuse r E_ROST_STATE 6
  | .repin r => s.refuse r E_ROST_STATE 10
  | .exporting r _ _ => s.refuse r E_ROST_STATE 22

/-- The score record of a roster index cleared (09 R235). -/
def State.clearScore (s : State) (q : Seq) (i : Nat) : State :=
  match AMap.find? s.sch.scores q.playbook with
  | some t => s.clearObj (blockBytes * t + 16 * i) 16
  | none => s

/-- A sequence ends: pages, reserves, slot or hold, pin, score record, roster entry (09 R233); with the pages returned. -/
def State.endSeq (s : State) (i : Nat) : State × Nat :=
  match s.seq i with
  | none => (s, 0)
  | some q =>
    let r := s.releasePages i
    let s1 := ((((r.1.freeCaved.addTokens (umpAccess q.ctx) i (-(q.tokens : Int))).dropStream i).unchargeQuota (some q.ctx) 2 q.resvCave).clearScore q i).seqEvent i 2 0
    let set := s1.setOfSeq q
    let s2 := { s1 with sch := { s1.sch with
      seqs := AMap.erase s1.sch.seqs i, tokDropped := s1.sch.tokDropped + BitVec.ofNat 64 q.tokens } }
    let s3 := q.waits.foldl State.abandon (s2.pinsFell set q.gen q.adapter)
    (s3.disengage q.ctx, r.2)

/-- Whether a sequence stands at its boundary: in no step, with no copy of its stream in progress (R195). -/
def State.atBoundary (s : State) (i : Nat) (q : Seq) : Bool := !s.inStep i && q.copy.isNone
/-- The wait at the head of a sequence's boundary taken off. -/
def State.popWait (s : State) (i : Nat) : State := s.modSeq i (fun q => { q with waits := q.waits.drop 1 })

/-- SEQ_END_EFFECT (14 R381). -/
def execSeqEndEffect (seq : Nat) (s : State) : Host.Outcome State Fault Refusal :=
  .next <| match s.seq seq with
  | none => s
  | some q => match q.waits with
    | .fin r :: _ =>
      if !s.atBoundary seq q then s
      else (((s.popWait seq).endSeq seq).1.answer r 0 (leBytes 2 0 ++ leBytes 4 q.tokens)).mark
    | _ => s

/-! Messages of streams (07 R202 to R205). -/

/-- The live sequence a stream message names, with its playbook: the code where there is none, or none with a stream. -/
def State.namedStream (s : State) (r : Req) : Except Code (Nat × Seq × Playbook) :=
  let i := r.fld 2 2
  match s.namedSeq r (r.fld 0 1) i with
  | none => .error E_ROST_STATE
  | some q => match s.bookOf q with
    | some b => if q.hasStream then .ok (i, q, b) else .error E_SCH_ARG
    | none => .error E_SCH_ARG
/-- Whether a copy of a stream is in progress or waits for its boundary. -/
def Seq.copying (q : Seq) : Bool :=
  q.copy.isSome || q.waits.any (fun w => match w with | .exporting _ _ _ => true | _ => false)
/-- The state code of R202. -/
def Seq.streamCode (q : Seq) : Nat :=
  match q.copy with
  | some c => if c.isExport then 1 else 3
  | none => match q.stream.st with | .resident => 0 | .benched => 2 | .lost => 4

/-- MSG_STATE_QUERY. -/
def execMsgStateQuery (mbx : Nat) (s : State) : Host.Outcome State Fault Refusal :=
  .next (serve 0x0700 mbx (fun r s => match s.namedStream r with
    | .error c => s.refuse r c 30
    | .ok (_, q, b) => s.answer r 0 ([BitVec.ofNat 8 q.streamCode] ++ leBytes 5 0 ++ leBytes 8 q.stream.seqNo.toNat ++
        leBytes 4 (match q.stream.slot with | some k => k | none => 0xFFFFFFFF) ++ leBytes 4 b.plan.streamTiles ++
        leBytes 8 b.plan.imageLen)) s)

/-- MSG_STATE_EXPORT (R195, R203): it waits for the stream's step boundary. -/
def execMsgStateExport (mbx : Nat) (s : State) : Host.Outcome State Fault Refusal :=
  .next (serve 0x0701 mbx (fun r s => match s.namedStream r with
    | .error c => s.refuse r c 22
    | .ok (i, q, b) =>
      let mode := r.fld 1 1
      let dest := r.fld 8 8
      if 2 < mode ∨ dest % 4096 ≠ 0 ∨ 2 ^ 52 ≤ dest then s.refuse r E_OBJ_ARG 22
      else if r.fld 16 8 < b.plan.imageLen then s.refuse r E_STATE_ROOM 22
      else if q.stream.st = .lost then s.refuse r E_STATE_LOST 22
      else if q.copying then s.refuse r E_STATE_BUSY 22
      else s.setSeq i { q with waits := q.waits ++ [.exporting r mode dest] }) s)

/-- STATE_EXPORT_EFFECT: the export at the head of a sequence's boundary begins (R195). -/
def execStateExportEffect (seq : Nat) (s : State) : Host.Outcome State Fault Refusal :=
  .next <| match s.seq seq with
  | none => s
  | some q => match q.waits with
    | .exporting r mode dest :: rest =>
      if !s.atBoundary seq q then s
      else if q.stream.st = .lost then ((s.popWait seq).refuse r E_STATE_LOST 22).mark
      else s.setSeq seq { q with waits := rest, copy := some ⟨true, r, mode, dest, 0, false, 0, false⟩ }
    | _ => s

/-- STATE_EXPORT_COMPLETE: the image is written; the stream stays as it is, is parked, or its sequence ends (R203). A stream that was lost during
the copy has no state after its last step: E_STATE_LOST, and nothing is written (R194, R195). -/
def execStateExportComplete (seq : Nat) (s : State) : Host.Outcome State Fault Refusal :=
  .next <| match s.seq seq with
  | none => s
  | some q => match q.copy, s.bookOf q with
    | some c, some b =>
      if !c.isExport then s
      else
        let t := s.streamTilesOf q b
        let s1 := t.1.modSeq seq (fun q => { q with copy := none })
        if q.stream.st = .lost then (s1.refuse c.req E_STATE_LOST 22).mark
        else if t.2.1 ≠ 0 then (s1.refuse c.req t.2.1 22).mark
        else
          let img := b.plan.image q.stream.seqNo q.playbook q.gen true t.2.2
          let w := s1.objWrite c.req.access c.addr img
          if w.2 ≠ 0 then (w.1.refuse c.req w.2 22).mark
          else
            let s2 := w.1.chargeBytes (lineOf q.ctx) true c.addr img.length
            let s3 := s2.answer c.req 0 (leBytes 6 0 ++ leBytes 8 q.stream.seqNo.toNat ++ leBytes 8 img.length)
            let s4 := if c.mode = 1 then
                (s3.dropStream seq).modSeq seq (fun q => { q with
                  stream := { q.stream with st := .benched, image := some c.addr }, benchedAt := s.counter.toNat })
              else if c.mode = 2 then (s3.endSeq seq).1
              else s3
            s4.mark
    | _, _ => s

/-- The checks of an import (R199) on the image at an address: the code, the tiles and the number. -/
def State.importCheck (s : State) (r : Req) (q : Seq) (b : Playbook) (src len : Nat) (check : Bool) (expect : Nat) :
    State × Code × List Byte × W64 :=
  let d := s.objRead r.access src len
  if d.2.1 ≠ 0 then (d.1, d.2.1, [], 0) else
  let c := b.plan.imageCode d.2.2 len (if check then some expect else none)
  (d.1, if c ≠ 0 then c else if (d.1.slotFor q).isNone then E_STATE_NOSLOT else 0, b.plan.imageTiles d.2.2,
    BitVec.ofNat 64 (leAt d.2.2 16 8))

/-- MSG_STATE_IMPORT (R199, R203, R204): the image is checked and its copy begins, in the
slot that the stream holds or takes (R202). A parked stream's next import names its image. -/
def execMsgStateImport (mbx : Nat) (s : State) : Host.Outcome State Fault Refusal :=
  .next (serve 0x0702 mbx (fun r s => match s.namedStream r with
    | .error c => s.refuse r c 14
    | .ok (i, q, b) =>
      let src := r.fld 8 8
      let len := r.fld 16 8
      let check := (r.fld 1 1).testBit 0
      if src % 4096 ≠ 0 ∨ 2 ^ 52 ≤ src then s.refuse r E_OBJ_ARG 14
      else if q.copying then s.refuse r E_STATE_BUSY 14
      else if len < 128 ∨ (q.stream.image.isSome ∧ q.stream.image ≠ some src) then s.refuse r E_STATE_IMAGE 14
      else
        let c := s.importCheck r q b src len check (r.fld 24 8)
        if c.2.1 ≠ 0 then c.1.refuse r c.2.1 14
        else
          let took := q.stream.slot.isNone
          c.1.setSeq i { q with
            copy := some ⟨false, r, 0, src, len, check, r.fld 24 8, took⟩
            stream := if took then { q.stream with slot := c.1.slotFor q } else q.stream }) s)

/-- STATE_IMPORT_COMPLETE: at the sequence's boundary the tiles stand in a slot and the stream is resident. What was checked at
acceptance is checked again on the bytes that are copied; a failed import leaves the stream as it was (R199). -/
def execStateImportComplete (seq : Nat) (s : State) : Host.Outcome State Fault Refusal :=
  .next <| match s.seq seq with
  | none => s
  | some q => match q.copy, s.bookOf q with
    | some c, some b =>
      if c.isExport || s.inStep seq then s
      else
        let t := s.importCheck c.req q b c.addr c.len c.check c.expect
        let s0 := t.1.modSeq seq (fun q => { q with copy := none })
        let s1 := if c.took then s0.modSeq seq (fun q => { q with stream := { q.stream with slot := none } }) else s0
        match t.1.slotFor q with
        | none => (s1.refuse c.req E_STATE_NOSLOT 14).mark
        | some k =>
          if t.2.1 ≠ 0 then (s1.refuse c.req t.2.1 14).mark
          else
            let s2 := (s1.chargeBytes (lineOf q.ctx) false c.addr c.len).installStream seq k b t.2.2.1 t.2.2.2
            (s2.answer c.req 0 (leBytes 6 0 ++ leBytes 8 t.2.2.2.toNat)).mark
    | _, _ => s

/-- MSG_STATE_CLEAR (R205). -/
def execMsgStateClear (mbx : Nat) (s : State) : Host.Outcome State Fault Refusal :=
  .next (serve 0x0703 mbx (fun r s => match s.namedStream r with
    | .error c => s.refuse r c 0
    | .ok (i, q, b) =>
      if q.copying then s.refuse r E_STATE_BUSY 0
      else match s.slotFor q with
        | none => s.refuse r E_STATE_NOSLOT 0
        | some k => ((s.installStream i k b (List.replicate (6144 * b.plan.streamTiles) 0)
            (BitVec.ofNat 64 (r.fld 8 8))).answer r 0 []).mark) s)

/-- SLOT_MOVE: a resident stream moves to another usable slot of its playbook by exact copy, between steps (R196). -/
def execSlotMove (seq slot : Nat) (s : State) : Host.Outcome State Fault Refusal :=
  .next <| match s.seq seq with
  | none => s
  | some q => match s.bookOf q, q.stream.slot with
    | some b, some k =>
      if q.stream.st ≠ .resident ∨ !s.atBoundary seq q ∨ s.slotHeld q.playbook slot ∨ b.plan.slotCount ≤ slot ∨
         !s.slotUsable (s.court b.court) b.plan slot then s
      else (s.writeTiles (s.court b.court) b.plan slot (s.readTiles (s.court b.court) b.plan k)).setSeq seq { q with
        stream := { q.stream with slot := some slot } }
    | _, _ => s

/-! Rotation (09 R237). -/

/-- Whether a sequence has a step ready, its stream apart: in roster mode tokens, in fixed mode a queued batch that names it. -/
def State.wantsStep (s : State) (i : Nat) (q : Seq) : Bool :=
  (s.rosterMode q.court && s.stepReady i q) ||
  (s.ctxSt q.ctx).queue.any (fun b => b.ents.any (fun e => decide (e.seq = i)))
/-- The sequences whose stream waits on the bench for a slot: of a resident context, with a step ready, not parked to an object. -/
def State.benchWaiters (s : State) : AMap Seq :=
  s.sch.seqs.filter (fun e => e.2.hasStream && decide (e.2.stream.st = .benched) && e.2.stream.image.isNone && e.2.quiet &&
    decide ((s.ctxSt e.2.ctx).st = 1) && s.wantsStep e.1 e.2)
/-- Steps a sequence runs between import and park. -/
def Plan.runSteps (p : Plan) : Nat := match p.roll with | e :: _ => if e.runSteps = 0 then 2 else e.runSteps | [] => 2

/-- STREAM_PARK: a resident stream gives its slot to one that waits on the bench (R237; 14 R365 where no bench image fits). -/
def execStreamPark (seq : Nat) (s : State) : Host.Outcome State Fault Refusal :=
  .next <| match s.seq seq with
  | none => s
  | some q => match s.bookOf q with
    | none => s
    | some b =>
      if !q.hasStream ∨ q.stream.st ≠ .resident ∨ !s.atBoundary seq q ∨ !q.quiet ∨
         (q.runs < b.plan.runSteps ∧ s.wantsStep seq q) ∨ (s.freeSlot q.playbook).isSome ∨
         !s.benchWaiters.any (fun e => decide (e.2.playbook = q.playbook)) then s
      else match s.benchSeq seq with
        | some t => t.mark
        | none => match s.caveSeq seq with | some t => if s.inBudget t then t.mark else s | none => s

/-- An image that lies in the cave brought into its court's return buffer, where it is read; the code of what stopped it (14 R367 step 3). -/
def State.viaBuffer (s : State) (q : Seq) (b : Playbook) (o : Nat) : State × Code × List Byte :=
  let len := b.plan.imageLen
  match List.find? (fun e => decide (e.2.use = .returns q.court)) s.tier.objs with
  | none => (s, E_OBJ_UNMAPPED, [])
  | some (buf, _) =>
    let a := blockBytes * buf
    let r := (s.chargeBytes (lineOf q.ctx) false (blockBytes * o) len).anyRead (umpAccess q.ctx) (blockBytes * o) len
    if r.2.1 ≠ 0 then (r.1, r.2.1, []) else
    let w := (r.1.chargeBytes (lineOf q.ctx) true a len).objWrite (umpAccess q.ctx) a r.2.2
    if w.2 ≠ 0 then (w.1, w.2, []) else
    let d := (w.1.chargeBytes (lineOf q.ctx) false a len).objRead (umpAccess q.ctx) a len
    (d.1, d.2.1, b.plan.imageTiles d.2.2)
/-- The tiles of a stream that is to be imported: a caved image comes through the return buffer. -/
def State.importTiles (s : State) (q : Seq) (b : Playbook) : State × Code × List Byte :=
  match q.stream.bench with
  | some o => match AMap.find? s.tier.objs o with
    | some x => if s.objTier o x = 0 then s.streamTilesOf q b else s.viaBuffer q b o
    | none => s.streamTilesOf q b
  | none => s.streamTilesOf q b

/-- STREAM_ROTATE_IMPORT: the stream benched longest for which a slot is free is imported; the lower roster index on a tie (R237;
14 R367). -/
def execStreamRotateImport (court : Nat) (s : State) : Host.Outcome State Fault Refusal :=
  .next <|
    let ws := s.benchWaiters.filter (fun e => decide (e.2.court = court) && (s.freeSlot e.2.playbook).isSome)
    let first := ws.foldl (fun (m : Option (Nat × Seq)) e => match m with
      | none => some e
      | some d => if e.2.benchedAt < d.2.benchedAt then some e else some d) none
    match first with
    | none => s
    | some (i, q) => match s.bookOf q, s.freeSlot q.playbook with
      | some b, some k =>
        let t := s.importTiles q b
        if t.2.1 ≠ 0 then t.1 else (t.1.installStream i k b t.2.2 q.stream.seqNo).mark
      | _, _ => s

end Sys2Proof.Machine
end

