-- ==== Sys2Proof/Machine/Roster.lean ====
section
/-! DEFINITION. Admission, the roster, fixed-mode batches, contexts, and the repin of a sequence (14 R363 to R385; 12 R311, R312,
R315, R319, R327). -/
namespace Sys2Proof.Machine

/-! Admission (R368, R380). -/

/-- A sequence with nothing but its identity. -/
def Seq.fresh (ctx court playbook mbx : Nat) : Seq where
  st := 1
  isFuture := false
  paused := false
  hasStream := false
  ctx := ctx
  court := court
  playbook := playbook
  gen := 0
  adapter := 0
  passes := 1
  pass := 0
  tokens := 0
  chunk := 1
  lastStatus := 0
  stateSeq := 0
  frame := 0
  served := 0
  contrib := [0, 0, 0, 0]
  future := 0
  steps := 0
  mbx := mbx
  parent := 0
  family := 0
  depth := 0
  pruning := false
  stream := ⟨.benched, 0, none, none, none⟩
  pages := []
  lst := none
  leaves := []
  resvPages := 0
  resvCave := 0
  nextSlot := 0
  chunkSlot := 0
  chunkFrame := none
  waits := []
  copy := none
  branchImg := none
  runs := 0
  benchedAt := 0

/-- Whether a mailbox payload's contribution words name variables of the playbook. -/
def contribOk (p : Plan) (ws : List W32) : Bool :=
  ws.all (fun w => decide (w.toNat % 2 ^ 28 = 0) || decide (w.toNat / 2 ^ 28 < p.shapeMax.length))
/-- Four words of a payload. -/
def Req.words (r : Req) (off : Nat) : List W32 := (List.range 4).map (fun i => BitVec.ofNat 32 (r.fld (off + 4 * i) 4))

/-- The lowest free roster index, below 4,096. -/
def State.freeRoster (s : State) : Option Nat :=
  let i := AMap.lowestFree s.sch.seqs (s.sch.seqs.length + 1) 0
  if i < 4096 then some i else none
/-- The sequences of a context that live, children of a branch that waits apart. -/
def State.liveIn (s : State) (ctx : Nat) : Nat := ((s.seqsIn ctx).filter (fun e => decide (2 ≤ e.2.st))).length

/-- Whether an adapter suits a playbook (12 R318). -/
def State.adapterFits (s : State) (p : Plan) (a : Adapter) : Bool :=
  match AMap.find? s.wgt.shards a.obj with
  | none => false
  | some h => ((h.parts.map (·.layer)).eraseDups).all (fun l => match p.wgtEnt l with
    | none => false
    | some w =>
      w.parts.testBit 3 &&
      (match h.parts.find? (fun q => q.layer == l && q.part == 3), h.parts.find? (fun q => q.layer == l && q.part == 4) with
        | some d, some u =>
          decide (d.k = storedK w.k) && decide (u.n = w.n) && decide (u.k = d.n) && decide (d.n % 32 = 0) && decide (32 ≤ d.n) &&
          decide (d.n ≤ 256)
        | _, _ => false))
/-- The checks of weights and adapter: the code, and the generation pinned (12 R311, R319). -/
def State.admitWeights (s : State) (b : Playbook) (ctx adapter : Nat) : Code × Nat :=
  let gen := s.currentGen b.set
  if (b.set = 0 ∧ b.plan.wgt ≠ []) ∨ (b.set ≠ 0 ∧ gen = 0) then (E_WGT_STATE, 0)
  else if s.genCorrupt b.set gen then (E_WGT_CORRUPT, 0)
  else if adapter = 0 then (0, gen)
  else match AMap.find? s.wgt.adapters adapter with
    | none => (E_WGT_STATE, 0)
    | some a =>
      if a.ctx ≠ ctx ∨ a.released ∨ a.set ≠ b.set then (E_WGT_STATE, 0)
      else match AMap.find? s.wgt.shards a.obj with
        | none => (E_WGT_STATE, 0)
        | some h =>
          if !h.registered then (E_WGT_STATE, 0)
          else if h.corrupt then (E_WGT_CORRUPT, 0)
          else if !s.adapterFits b.plan a then (E_WGT_SHAPE, 0)
          else (0, gen)

/-- The cave reserve of a sequence in units of 4 KiB: its image, its page reservation and the blocks that hold its directory and leaves, in
whole units of 16 KiB (R363; 05 R134, R146). -/
def Plan.caveReserve (p : Plan) : Nat :=
  let img := if p.hasState then p.imageLen else 0
  let pages := match p.att with
    | [] => 0
    | a :: _ => p.pageReserve * a.stride + p.listBlocks * blockBytes
  4 * ceilDiv (img + pages) 16384
/-- The checks of the reserves (R363). -/
def State.reserveCode (s : State) (ctx : Nat) (p : Plan) : Code :=
  let quota := match s.ctxRec ctx with | some c => c.benchQuota | none => 0
  if p.hasState ∧ quota < p.imageLen then E_SCH_BENCH
  else if !s.quotaOk (some ctx) 2 p.caveReserve ∨ !s.hasRoom 2 p.caveReserve then E_SCH_CAVE
  else 0

/-- The next future id: from `k` upward, past every id that is live (09 R224). -/
def State.freeFuture (s : State) : Nat → Nat → Nat
  | 0, k => k
  | n + 1, k =>
    let k1 := if 2 ^ 32 ≤ k then 1 else k
    if s.sch.seqs.any (fun e => decide (e.2.future = k1)) then s.freeFuture n (k1 + 1) else k1
/-- A sequence made a future of a family (09 R224): its id and its record cleared. -/
def State.assignFuture (s : State) (i parent family depth : Nat) : State :=
  let k := s.freeFuture (s.sch.seqs.length + 1) s.sch.nextFuture
  let s1 := s.modSeq i (fun q => { q with
    isFuture := true, future := k, parent := parent, family := if family = 0 then k else family, depth := min depth 65535 })
  let s2 := { s1 with sch := { s1.sch with nextFuture := k + 1, parents := AMap.insert s1.sch.parents k parent } }
  match s2.seq i with | some q => s2.clearScore q i | none => s2

/-- The stream of a new sequence: every element zero; resident where a slot is free, benched otherwise (07 R192). -/
def State.createStream (s : State) (i : Nat) (b : Playbook) : State :=
  if !b.plan.hasState then s
  else match s.freeSlot (match s.seq i with | some q => q.playbook | none => 0) with
    | some k => (s.clearTiles (s.court b.court) b.plan k).modSeq i (fun q => { q with
        hasStream := true, stream := ⟨.resident, 0, some k, none, none⟩ })
    | none => s.modSeq i (fun q => { q with
        hasStream := true, stream := ⟨.benched, 0, none, none, none⟩, benchedAt := s.counter.toNat })

/-- Whether a trial makes a context's record unfit for an admission: it differs between the slots, or the previous slot has none
(16 R433). -/
def State.trialCtx (s : State) (ctx : Nat) : Bool :=
  let a := AMap.find? s.ump.slot0.img.ctxs ctx
  let b := AMap.find? s.ump.slot1.img.ctxs ctx
  s.ump.trial.isSome && (decide (a ≠ b) || a.isNone || b.isNone)

/-- The checks of R368 up to the reserves: the code, or the playbook, the roster index and the generation. -/
def State.admitCheck (s : State) (r : Req) : Except Code (Playbook × Nat × Nat) :=
  let court := r.fld 0 1
  if s.trialCtx r.ctx then .error E_CFG_TRIAL
  else match s.ctxRec r.ctx, AMap.find? s.book.books (r.fld 4 4) with
    | none, _ => .error E_SCH_CONTEXT
    | some c, b =>
      if c.court ≠ court ∨ !s.courtDefined court then .error E_SCH_CONTEXT
      else match b with
        | none => .error E_SCH_ARG
        | some b =>
          let roll := b.plan.isRollout
          if b.court ≠ court ∨ b.ctx ≠ r.ctx ∨ !b.installed ∨ 1 < r.fld 1 1 ∨ ((r.fld 1 1).testBit 0 ∧ !roll) ∨
             2 ^ 31 ≤ r.fld 8 4 ∨ (!s.rosterMode court ∧ r.fld 8 4 ≠ 0) ∨ r.fld 12 1 = 0 ∨ r.fld 14 2 = 0 ∨
             !contribOk b.plan (r.words 16) then .error E_SCH_ARG
          else if c.maxSeqs ≤ s.liveIn r.ctx then .error E_SCH_LIMIT
          else match s.freeRoster with
            | none => .error E_ROST_FULL
            | some i =>
              let w := s.admitWeights b r.ctx (r.fld 2 2)
              if w.1 ≠ 0 then .error w.1
              else if !s.canReserve court b.plan r.ctx 1 then .error E_KV_RESERVE
              else
                let c := s.reserveCode r.ctx b.plan
                if c ≠ 0 then .error c else .ok (b, i, w.2)

/-- Tokens granted, counted (R371). -/
def State.granted (s : State) (n : Nat) : State :=
  { s with sch := { s.sch with tokGranted := s.sch.tokGranted + BitVec.ofNat 64 n } }
/-- MSG_SEQ_ADMIT (R368, R380; 16 R433). -/
def execMsgSeqAdmit (mbx : Nat) (s : State) : Host.Outcome State Fault Refusal :=
  .next (serve 0x0400 mbx (fun r s => match s.admitCheck r with
    | .error c => s.refuse r c 14
    | .ok (b, i, gen) =>
      let roll := b.plan.isRollout
      let q : Seq := { Seq.fresh r.ctx b.court (r.fld 4 4) mbx with
        st := 2
        gen := gen
        adapter := r.fld 2 2
        passes := if roll then 1 else r.fld 12 1
        chunk := r.fld 14 2
        contrib := r.words 16
        frame := r.fld 32 4
        resvPages := b.plan.pageReserve
        resvCave := b.plan.caveReserve }
      let s1 := ((s.setSeq i q).makeList i b.court b.plan).chargeQuota (some r.ctx) 2 b.plan.caveReserve
      let s2 := (s1.addTokens (umpAccess r.ctx) i (r.fld 8 4)).granted (r.fld 8 4)
      let s3 := s2.createStream i b
      let s4 := (if roll then s3.assignFuture i 0 0 0 else s3).engage r.ctx
      let fid := match s4.seq i with | some q => q.future | none => 0
      (s4.answer r 0 (leBytes 2 i ++ leBytes 4 fid ++ leBytes 4 gen ++ leBytes 4 0)).mark) s)

/-- MSG_SEQ_END (R381): it waits for the sequence's boundary. -/
def execMsgSeqEnd (mbx : Nat) (s : State) : Host.Outcome State Fault Refusal :=
  .next (serve 0x0401 mbx (fun r s =>
    let i := r.fld 2 2
    match s.namedSeq r (r.fld 0 1) i with
    | none => s.refuse r E_ROST_STATE 6
    | some q =>
      if q.pruning then s.refuse r E_ROST_STATE 6
      else (s.setSeq i { q with st := 3, waits := q.waits ++ [.fin r] }).mark) s)

/-! Repin (12 R312, R327). -/

/-- MSG_SEQ_REPIN: it waits for the sequence's boundary. -/
def execMsgSeqRepin (mbx : Nat) (s : State) : Host.Outcome State Fault Refusal :=
  .next (serve 0x0303 mbx (fun r s =>
    let i := r.fld 2 2
    match s.namedSeq r (r.fld 0 1) i with
    | none => s.refuse r E_ROST_STATE 10
    | some q => (s.setSeq i { q with waits := q.waits ++ [.repin r] }).mark) s)

/-- REPIN_EFFECT: the pin moves to the current generation of the sequence's set; a set without one is refused as at admission. -/
def execRepinEffect (seq : Nat) (s : State) : Host.Outcome State Fault Refusal :=
  .next <| match s.seq seq with
  | none => s
  | some q => match q.waits with
    | .repin r :: rest =>
      if !s.atBoundary seq q then s
      else
        let set := s.setOfSeq q
        let cur := s.currentGen set
        let s1 := s.setSeq seq { q with waits := rest }
        if q.gen = cur then (s1.answer r 0 (leBytes 2 0 ++ leBytes 4 q.gen ++ leBytes 4 cur)).mark
        else if cur = 0 then (s1.refuse r E_WGT_STATE 10).mark
        else if s.genCorrupt set cur then (s1.refuse r E_WGT_CORRUPT 10).mark
        else
          let s2 := (s1.setSeq seq { q with waits := rest, gen := cur }).pinsFell set q.gen 0
          (s2.answer r 0 (leBytes 2 0 ++ leBytes 4 q.gen ++ leBytes 4 cur)).mark
    | _ => s

/-! Batches (R375). -/

/-- The response of a batch: the step's number and the index of the first entry that failed. -/
def State.answerBatch (s : State) (r : Req) (code : Code) (num idx : Nat) : State :=
  s.answer r code (leBytes 2 0 ++ leBytes 8 num ++ leBytes 2 idx)

/-- An entry of a batch descriptor. -/
def stepEntOf (e : List Byte) : StepEnt :=
  ⟨leAt e 0 2, (leAt e 2 1).testBit 0, BitVec.ofNat 64 (leAt e 8 8), decide (leAt e 8 8 = 2 ^ 64 - 1), []⟩

/-- Check 2: a distinct live sequence of the court and context, of the first entry's playbook; a sequence being pruned gives
E_FUTURE_STATE (09 R233). -/
def State.batchEntry (s : State) (court ctx book : Nat) (seen : List Nat) (i : Nat) : Code :=
  match s.seq i with
  | none => E_ROST_STATE
  | some q =>
    if q.pruning then E_FUTURE_STATE
    else if q.st ≠ 2 ∨ q.court ≠ court ∨ q.ctx ≠ ctx ∨ q.playbook ≠ book ∨ seen.contains i then E_ROST_STATE
    else 0
/-- The first entry of a batch that fails check 2: its code and index. -/
def State.batchEntries (s : State) (court ctx book : Nat) : List StepEnt → List Nat → Nat → Code × Nat
  | [], _, _ => (0, 0xFFFF)
  | e :: es, seen, k =>
    let c := s.batchEntry court ctx book seen e.seq
    if c ≠ 0 then (c, k) else s.batchEntries court ctx book es (e.seq :: seen) (k + 1)

/-- The generations and the adapters the sequences of a batch pin, each once (12 R315). -/
def State.batchGens (s : State) (es : List StepEnt) : List Nat :=
  (es.filterMap (fun e => (s.seq e.seq).map (·.gen))).eraseDups
def State.batchAdapters (s : State) (es : List StepEnt) : List Nat :=
  ((es.filterMap (fun e => (s.seq e.seq).map (·.adapter))).filter (· ≠ 0)).eraseDups

/-- MSG_BATCH_SUBMIT. -/
def execMsgBatchSubmit (mbx : Nat) (s : State) : Host.Outcome State Fault Refusal :=
  .next (serve 0x0402 mbx (fun r s =>
    let court := r.fld 0 1
    let count := r.fld 2 2
    let desc := r.fld 8 8
    if !s.courtDefined court ∨ s.rosterMode court then s.answerBatch r E_SCH_MODE 0 0xFFFF
    else if count = 0 ∨ 4096 < count ∨ desc % 64 ≠ 0 then s.answerBatch r E_SCH_ARG 0 0xFFFF
    else
      let d := s.objRead r.access desc (64 + 16 * count)
      if d.2.1 ≠ 0 then d.1.answerBatch r d.2.1 0 0xFFFF
      else
        let s1 := d.1
        let sv := (List.range 16).map (fun i => leAt d.2.2 (4 * i) 4)
        let es := (List.range count).map (fun i => stepEntOf (bytesAt d.2.2 (64 + 16 * i) 16))
        let first := es.findSome? (fun e => s1.seq e.seq)
        let ctx := if r.ctx = 0xFFFF then (match first with | some q => q.ctx | none => r.ctx) else r.ctx
        let book := match first with | some q => q.playbook | none => 0
        let c := s1.batchEntries court ctx book es [] 0
        if c.1 ≠ 0 then s1.answerBatch r c.1 0 c.2
        else match AMap.find? s1.book.books book with
          | none => s1.answerBatch r E_ROST_STATE 0 0
          | some b =>
            if b.plan.exceeds sv then s1.answerBatch r E_SHAPE_OVER 0 0xFFFF
            else if 1 < (s1.batchGens es).length ∨
                (b.plan.wgt.any (fun w => w.parts.testBit 3) ∧ 1 < (s1.batchAdapters es).length) then
              s1.answerBatch r E_WGT_MIXED 0 0xFFFF
            else if 8 ≤ (s1.ctxSt ctx).queue.length then s1.answerBatch r E_SCH_QUEUE 0 0xFFFF
            else
              let x := s1.ctxSt ctx
              let s2 := s1.setCtx ctx { x with queue := x.queue ++ [⟨r, court, book, sv, es, s1.modesNow court b.plan,
                (s1.batchGens es).headD 0⟩] }
              (s2.engage ctx).mark) s)

/-! Messages of contexts and of the roster (R382 to R384). -/

/-- MSG_CTX_QUERY. -/
def execMsgCtxQuery (mbx : Nat) (s : State) : Host.Outcome State Fault Refusal :=
  .next (serve 0x0403 mbx (fun r s =>
    let c := r.fld 0 2
    match s.ctxRec c with
    | none => s.refuse r E_SCH_CONTEXT 22
    | some x =>
      if !s.permits mbx c then s.refuse r E_SCH_CONTEXT 22
      else
        let t := s.ctxSt c
        s.answer r 0 ([BitVec.ofNat 8 t.st, BitVec.ofNat 8 (b2n (t.st == 1 && s.blocked c) + 2 * b2n x.lc)] ++
          leBytes 2 (s.liveIn c) ++ [BitVec.ofNat 8 (if t.st = 1 then t.slot else 0xFF), 0] ++ leBytes 8 (s.benchBytes c) ++
          leBytes 8 t.steps)) s)

/-- MSG_ROST_GRANT (R371, R383). -/
def execMsgRostGrant (mbx : Nat) (s : State) : Host.Outcome State Fault Refusal :=
  .next (serve 0x0500 mbx (fun r s =>
    let court := r.fld 0 1
    let i := r.fld 2 2
    let n := r.fld 4 4
    if s.courtDefined court ∧ !s.rosterMode court then s.refuse r E_SCH_MODE 6
    else match s.namedSeq r court i with
      | none => s.refuse r E_ROST_STATE 6
      | some q =>
        if n = 0 ∨ 2 ^ 31 ≤ n then s.refuse r E_SCH_ARG 6
        else if 2 ^ 31 ≤ q.tokens + n then s.refuse r E_ROST_STATE 6
        else
          let s2 := (s.addTokens (umpAccess q.ctx) i n).granted n
          (s2.answer r 0 (leBytes 2 0 ++ leBytes 4 (q.tokens + n))).mark) s)

/-- MSG_ROST_SET (R384): a step already formed keeps what it was formed with. -/
def execMsgRostSet (mbx : Nat) (s : State) : Host.Outcome State Fault Refusal :=
  .next (serve 0x0501 mbx (fun r s =>
    let act := r.fld 1 1
    let i := r.fld 2 2
    match s.namedSeq r (r.fld 0 1) i with
    | none => s.refuse r E_ROST_STATE 0
    | some q =>
      let ok := match s.bookOf q with | some b => contribOk b.plan (r.words 8) | none => false
      if 2 < act ∨ (act = 2 ∧ !ok) then s.refuse r E_SCH_ARG 0
      else ((s.setSeq i (if act = 0 then { q with paused := true }
        else if act = 1 then { q with paused := false }
        else { q with contrib := r.words 8 })).answer r 0 []).mark) s)

/-- The 64 bytes of a roster entry (R369). -/
def Seq.entryBytes (q : Seq) : List Byte :=
  [BitVec.ofNat 8 q.st, BitVec.ofNat 8 (b2n q.isFuture + 2 * b2n q.paused + 4 * b2n q.hasStream)] ++
  leBytes 2 (q.ctx + 1024 * q.court) ++ leBytes 4 q.playbook ++ leBytes 4 q.gen ++ leBytes 2 q.adapter ++
  [BitVec.ofNat 8 q.passes, BitVec.ofNat 8 q.pass] ++ leBytes 4 q.tokens ++ leBytes 2 q.chunk ++ leBytes 2 q.lastStatus.toNat ++
  leBytes 8 q.stateSeq.toNat ++ leBytes 4 q.frame ++ leBytes 4 q.served ++ q.contrib.flatMap (fun w => leBytes 4 w.toNat) ++
  leBytes 4 q.future ++ leBytes 4 q.steps

/-- MSG_ROST_QUERY. -/
def execMsgRostQuery (mbx : Nat) (s : State) : Host.Outcome State Fault Refusal :=
  .next (serve 0x0502 mbx (fun r s =>
    match s.seq (r.fld 2 2) with
    | none => s.refuse r E_ROST_STATE 70
    | some q =>
      if q.court ≠ r.fld 0 1 ∨ (q.ctx ≠ r.ctx ∧ !isMgmt mbx) then s.refuse r E_ROST_STATE 70
      else s.answer r 0 (leBytes 6 0 ++ q.entryBytes)) s)

end Sys2Proof.Machine
end

