-- ==== Sys2Proof/Machine/Futures.lean ====
section
/-! DEFINITION. Futures: branches, seals, prunes, scores (09 R224 to R244). -/
namespace Sys2Proof.Machine

/-- The live future a message names; one that is being pruned is no target (R230, R244, R245). -/
def State.namedFuture (s : State) (r : Req) (court i : Nat) : Option Seq :=
  match s.namedSeq r court i with
  | none => none
  | some q => if q.isFuture && !q.pruning then some q else none
/-- Whether an object address may receive a message's result. -/
def destOk (a : Nat) : Bool := decide (a % 64 = 0) && decide (a < 2 ^ 52)

/-! Branches (R226 to R231, R239). -/

/-- `n` children of a parent given roster entries and reservations, as they are held from acceptance on. -/
def State.holdChildren (s : State) (q : Seq) (mbx : Nat) : Nat → State × Option (List Nat)
  | 0 => (s, some [])
  | n + 1 => match s.freeRoster with
    | none => (s, none)
    | some i =>
      let child := { Seq.fresh q.ctx q.court q.playbook mbx with chunk := q.chunk, resvPages := q.resvPages }
      let r := (s.setSeq i child).holdChildren q mbx n
      (r.1, r.2.map (fun is => i :: is))

/-- MSG_FUTURE_BRANCH: checks 1 to 3 of R230, and the branch waits for the parent's boundary. -/
def execMsgFutureBranch (mbx : Nat) (s : State) : Host.Outcome State Fault Refusal :=
  .next (serve 0x0560 mbx (fun r s =>
    let court := r.fld 0 1
    let i := r.fld 2 2
    let n := r.fld 4 2
    if n = 0 ∨ 1024 < n then s.refuse r E_FUTURE_STATE 14
    else match s.namedFuture r court i with
      | none => s.refuse r E_FUTURE_STATE 14
      | some q =>
        if !destOk (r.fld 8 8) then s.refuse r E_FUTURE_STATE 14
        else
          let h := s.holdChildren q mbx n
          match h.2, s.bookOf q with
          | some is, some b =>
            if !s.canReserve court b.plan q.ctx n then s.refuse r E_KV_RESERVE 14
            else ((is.foldl (fun s c => s.makeList c court b.plan) h.1).modSeq i (fun q => { q with waits := q.waits ++ [.branch r ((r.fld 1 1).testBit 0) (r.fld 8 8) is] })).mark
          | _, _ => s.refuse r E_FUTURE_ROSTER 14) s)

/-- The ids that `n` futures made one after another would take. -/
def State.futureIds (s : State) : Nat → Nat → List Nat
  | 0, _ => []
  | n + 1, k => let k1 := s.freeFuture (s.sch.seqs.length + 1) k; k1 :: s.futureIds n (k1 + 1)

/-- The image that a parent's new children share (R229): a resident parent's branch image, made once at a boundary; the parent's own bench
image where it is benched; none for a parked parent or a zero state. None of a state: no image could be made. -/
def State.branchImage (s : State) (i : Nat) (q : Seq) (b : Playbook) (tiles : List Byte) : Option (State × Option Nat) :=
  if q.stream.st ≠ .resident then some (s, q.stream.bench)
  else match q.branchImg with
    | some o => some (s, some o)
    | none =>
      let bytes := b.plan.image q.stream.seqNo q.playbook q.gen false tiles
      ((s.makeBench q.ctx bytes q.stream.seqNo).orElse (fun _ => s.makeCaveImage q.ctx bytes q.stream.seqNo)).map (fun m =>
        (m.1.modSeq i (fun q => { q with branchImg := some m.2 }), some m.2))

/-- A child given its state: the slot that is free, or the image shared, or what a parked or zero state of its parent is; told how many
children are resident. `readable`: the tiles could be read. -/
def State.placeChild (s : State) (i : Nat) (b : Playbook) (tiles : List Byte) (readable : Bool) (parent : Seq) (img : Option Nat) :
    State × Nat :=
  let s0 := s.modSeq i (fun q => { q with hasStream := true })
  match if readable then s0.freeSlot parent.playbook else none with
  | some k =>
    let s1 := match img with
      | some o => s0.chargeBytes (lineOf parent.ctx) false (blockBytes * o) b.plan.imageLen
      | none => s0
    (s1.installStream i k b tiles parent.stream.seqNo, 1)
  | none =>
    let s1 := match img with | some o => s0.addHolder o | none => s0
    (s1.modSeq i (fun q => { q with
      stream := ⟨.benched, parent.stream.seqNo, none, if img.isSome then none else parent.stream.image, img⟩
      stateSeq := parent.stream.seqNo, benchedAt := s.counter.toNat }), 0)

/-- The children placed one after another. -/
def State.placeChildren (s : State) (b : Playbook) (tiles : List Byte) (readable : Bool) (parent : Seq) (img : Option Nat) :
    List Nat → Nat → State × Nat
  | [], n => (s, n)
  | i :: is, n =>
    let r := s.placeChild i b tiles readable parent img
    r.1.placeChildren b tiles readable parent img is (n + r.2)

/-- A child's entry at the boundary: the parent's position, generation, adapter, list and identifiers (R226, R228; 12 R311). -/
def State.bearChild (s : State) (parent : Seq) (i : Nat) : State :=
  ((s.modSeq i (fun q => { q with
    st := 2, gen := parent.gen, adapter := parent.adapter, frame := parent.frame, pass := parent.pass, contrib := parent.contrib
    stateSeq := parent.stateSeq })).shareList parent i).assignFuture i parent.future parent.family (parent.depth + 1)

/-- The branch image of a boundary freed where no stream holds it and no further branch of the parent waits (R229). -/
def State.settleBranches (s : State) (i : Nat) : State :=
  match s.seq i with
  | none => s
  | some q =>
    if q.waits.any (fun w => match w with | .branch _ _ _ _ => true | _ => false) then s
    else match q.branchImg with
      | none => s
      | some o => match AMap.find? s.sch.benches o with
        | some x => if x.holders = 0 then s.freeBench o else s
        | none => s
/-- The children of a branch made, the parent's state shared with them (R226, R228, R229). -/
def State.bearAll (s : State) (r : Req) (i : Nat) (q : Seq) (b : Playbook) (is : List Nat) (tiles : List Byte) (readable : Bool)
    (img : Option Nat) : State :=
  let s1 := is.foldl (fun s c => s.bearChild q c) s
  let p := if q.hasStream then s1.placeChildren b tiles readable q img is 0 else (s1, 0)
  let num := if q.hasStream then q.stream.seqNo else q.stateSeq
  (((p.1.popWait i).settleBranches i).answer r 0 (leBytes 2 0 ++ leBytes 4 p.2 ++ leBytes 8 num.toNat)).mark

/-- BRANCH_EFFECT: checks 4 and 5 of R230, then the whole branch; or nothing of it. -/
def execBranchEffect (seq : Nat) (s : State) : Host.Outcome State Fault Refusal :=
  .next <| match s.seq seq with
  | none => s
  | some q => match q.waits, s.bookOf q with
    | .branch r sealFlag dest is :: _, some b =>
      if !s.atBoundary seq q then s
      else
        let no (s : State) (c : Code) : State := ((((s.popWait seq).dropChildren is).settleBranches seq).refuse r c 14).mark
        if q.hasStream ∧ q.stream.st = .lost then no s E_STATE_LOST
        else if !sealFlag ∧ s.openPages q ≠ [] then no s E_FUTURE_OPEN
        else
          let t := if q.hasStream then s.streamTilesOf q b else (s, 0, [])
          if t.2.1 ≠ (0 : Code) ∧ q.stream.image.isNone then no t.1 t.2.1
          else
            let ids := t.1.futureIds is.length t.1.sch.nextFuture
            let data := (is.zip ids).flatMap (fun e => leBytes 2 e.1 ++ leBytes 2 0 ++ leBytes 4 e.2)
            let w := t.1.objWrite r.access dest data
            if w.2 ≠ 0 then no w.1 w.2
            else match (if q.hasStream then w.1.branchImage seq q b t.2.2 else some (w.1, none)) with
              | none => no w.1 E_OBJ_SPACE
              | some m => (if sealFlag then m.1.sealAll q else m.1).bearAll r seq q b is t.2.2 (decide (t.2.1 = 0)) m.2
    | _, _ => s

/-! Seals (R227, R240). -/

/-- MSG_FUTURE_SEAL: it waits for the future's boundary. -/
def execMsgFutureSeal (mbx : Nat) (s : State) : Host.Outcome State Fault Refusal :=
  .next (serve 0x0561 mbx (fun r s =>
    let i := r.fld 2 2
    match s.namedFuture r (r.fld 0 1) i with
    | none => s.refuse r E_FUTURE_STATE 10
    | some q => (s.setSeq i { q with waits := q.waits ++ [.sealPages r] }).mark) s)

/-- SEAL_EFFECT: every open page of the future's list is sealed. -/
def execSealEffect (seq : Nat) (s : State) : Host.Outcome State Fault Refusal :=
  .next <| match s.seq seq with
  | none => s
  | some q => match q.waits with
    | .sealPages r :: _ =>
      if !s.atBoundary seq q then s
      else
        let ps := s.openPages q
        (((s.popWait seq).sealAll q).answer r 0 (leBytes 2 0 ++ leBytes 4 ps.length ++
          leBytes 4 ((ps.map (fun e => 256 - e.2.fill)).sum))).mark
    | _ => s

/-! Prunes (R233, R234, R241). -/

/-- A prune of a sequence accepted for a group. -/
def State.orderPrune (s : State) (g i : Nat) (subtree : Bool) : State :=
  s.modSeq i (fun q => { q with pruning := true, waits := q.waits ++ [.prune g subtree] })
/-- A group of prunes opened for a request. -/
def State.openPrunes (s : State) (r : Req) (left : Nat) (body : Option (List Byte)) : State × Nat :=
  let g := AMap.lowestFree s.sch.prunes (s.sch.prunes.length + 1) 0
  ({ s with sch := { s.sch with prunes := AMap.insert s.sch.prunes g ⟨r, left, 0, 0, body⟩ } }, g)

/-- Whether the chain of parents from future `k` reaches future `root`, within `fuel` parents. -/
def State.descends (s : State) (root : Nat) : Nat → Nat → Bool
  | 0, _ => false
  | n + 1, k => match AMap.find? s.sch.parents k with
    | none => false
    | some p => decide (p = root) || (decide (p ≠ 0) && s.descends root n p)
/-- The live futures below a future. -/
def State.descendants (s : State) (root : Nat) : AMap Seq :=
  s.sch.seqs.filter (fun e => e.2.isFuture && decide (e.2.st = 2) && s.descends root (s.sch.parents.length + 1) e.2.future)

/-- MSG_FUTURE_PRUNE: it waits for the future's boundary; with the subtree flag every live future below it is ordered pruned at its own
boundary too (R234). -/
def execMsgFuturePrune (mbx : Nat) (s : State) : Host.Outcome State Fault Refusal :=
  .next (serve 0x0562 mbx (fun r s =>
    let i := r.fld 2 2
    match s.namedFuture r (r.fld 0 1) i with
    | none => s.refuse r E_FUTURE_STATE 10
    | some q =>
      let sub := (r.fld 1 1).testBit 0
      let is := i :: (if sub then (s.descendants q.future).map (·.1) else [])
      let g := s.openPrunes r is.length none
      (is.foldl (fun s k => s.orderPrune g.2 k sub) g.1).mark) s)

/-- PRUNE_EFFECT: the future ends; with the subtree flag futures below it that a branch has made since, and that no prune has been accepted
for, are ordered pruned too. -/
def execPruneEffect (seq : Nat) (s : State) : Host.Outcome State Fault Refusal :=
  .next <| match s.seq seq with
  | none => s
  | some q => match q.waits with
    | .prune g subtree :: _ =>
      if !s.atBoundary seq q then s
      else
        let ds := if subtree then ((s.descendants q.future).filter (fun e => !e.2.pruning)).map (·.1) else []
        let s1 := ds.foldl (fun s i => s.orderPrune g i true) (s.popWait seq)
        let s2 := { s1 with sch := { s1.sch with
          prunes := AMap.adjust s1.sch.prunes g (fun p => { p with left := p.left + ds.length }) } }
        let e := s2.endSeq seq
        (e.1.pruneDone g 1 e.2).mark
    | _ => s

/-! Scores (R235, R236, R242). -/

/-- The score record of a live future where it is its own: frame and score bits. -/
def State.scoreOf (s : State) (i : Nat) (q : Seq) : Option (Nat × Nat) :=
  match AMap.find? s.sch.scores q.playbook with
  | none => none
  | some t =>
    let d := (s.objRead (umpAccess q.ctx) (blockBytes * t + 16 * i) 16).2.2
    if leAt d 12 4 = q.future then some (leAt d 8 4, leAt d 0 4) else none

/-- A member of a family that is ranked: its roster index and its score. -/
structure Member where
  seq : Nat
  score : Nat

/-- The members of a family, in ascending roster index (R236). -/
def State.members (s : State) (family : Nat) : List Member :=
  let all : List (Nat × Nat × Nat) := s.sch.seqs.filterMap (fun e =>
    if e.2.isFuture && decide (e.2.family = family) && decide (e.2.st = 2) then
      (s.scoreOf e.1 e.2).map (fun r => (e.1, r))
    else none)
  let top : Nat := (all.map (fun e => e.2.1)).foldl max 0
  (all.filter (fun e => decide (e.2.1 = top))).map (fun e => Member.mk e.1 e.2.2)

/-- Whether FP32 bits hold a NaN. -/
def isNan32 (w : Nat) : Bool := match FV.ofBits .fp32 w with | .nan => true | _ => false
/-- Whether an FP32 value is below another; false where either is NaN. -/
def below32 (a b : Nat) : Bool := (FV.ofBits .fp32 a).lt (FV.ofBits .fp32 b)
/-- Whether a member ranks before another: the higher score first, NaN last, the lower index on a tie. -/
def Member.before (a b : Member) : Bool :=
  if isNan32 a.score then isNan32 b.score && decide (a.seq < b.seq)
  else isNan32 b.score || below32 b.score a.score || (!below32 a.score b.score && decide (a.seq < b.seq))
def insertMember (m : Member) : List Member → List Member
  | [] => [m]
  | x :: xs => if m.before x then m :: x :: xs else x :: insertMember m xs
/-- Members in rank order. -/
def rankMembers (ms : List Member) : List Member := ms.foldl (fun l m => insertMember m l) []

/-- The mean of R236: the non-NaN scores added in ascending roster index, each addition rounded to nearest, divided once. -/
def meanScore (ms : List Member) : Nat :=
  match (ms.map (·.score)).filter (fun w => !isNan32 w) with
  | [] => 0
  | w :: ws =>
    let sum : W32 := ws.foldl (fun a b => fadd32 a (BitVec.ofNat 32 b)) (BitVec.ofNat 32 w)
    (fdiv32 sum (rnq32 (FV.ofDy false (Dy.ofInt (ws.length + 1))))).toNat

/-- MSG_FUTURE_SCORE: the answer follows the last prune it asks for. -/
def execMsgFutureScore (mbx : Nat) (s : State) : Host.Outcome State Fault Refusal :=
  .next (serve 0x0563 mbx (fun r s =>
    let act := r.fld 1 1
    let i := r.fld 2 2
    let keep := r.fld 4 2
    let dest := r.fld 16 8
    match s.namedSeq r (r.fld 0 1) i with
    | none => s.refuse r E_FUTURE_STATE 14
    | some q =>
      if !q.isFuture ∨ 2 < act ∨ (act = 1 ∧ (keep = 0 ∨ 4096 < keep)) ∨ !destOk dest ∨
         !(match s.bookOf q with | some b => b.plan.scored | none => false) then s.refuse r E_FUTURE_STATE 14
      else
        let ms := s.members q.family
        let ranked := rankMembers ms
        let w := s.objWrite r.access dest (ranked.flatMap (fun m => leBytes 2 m.seq ++ leBytes 2 0 ++ leBytes 4 m.score))
        if w.2 ≠ 0 then w.1.refuse r w.2 14
        else
          let out := if act = 1 then ranked.drop keep
            else if act = 2 then ranked.filter (fun m => isNan32 m.score || below32 m.score (r.fld 8 4))
            else []
          let is := (out.map (·.seq)).filter (fun k => match w.1.seq k with | some q => !q.pruning | none => false)
          let body := leBytes 2 ranked.length ++ leBytes 4 (meanScore ms) ++ leBytes 2 is.length ++ leBytes 6 0
          if is = [] then w.1.answer r 0 body
          else
            let g := w.1.openPrunes r is.length (some body)
            (is.foldl (fun s k => s.orderPrune g.2 k false) g.1).mark) s)

/-- MSG_FUTURE_QUERY (R243). -/
def execMsgFutureQuery (mbx : Nat) (s : State) : Host.Outcome State Fault Refusal :=
  .next (serve 0x0564 mbx (fun r s =>
    match s.namedSeq r (r.fld 0 1) (r.fld 2 2) with
    | none => s.refuse r E_FUTURE_STATE 30
    | some q =>
      if !q.isFuture then s.refuse r E_FUTURE_STATE 30
      else
        let refs := q.pageKeys.filterMap (fun k => (s.page k).map (·.refs))
        let table := match AMap.find? s.sch.scores q.playbook with | some t => blockBytes * t | none => 0
        s.answer r 0 (leBytes 2 q.depth ++ leBytes 4 q.future ++ leBytes 4 q.parent ++ leBytes 4 q.family ++
          leBytes 4 (refs.filter (fun n => decide (n = 1))).length ++ leBytes 4 (refs.filter (fun n => decide (1 < n))).length ++
          leBytes 8 table)) s)

end Sys2Proof.Machine
end

