-- ==== Sys2Proof/Machine/Bench.lean ====
section
/-! DEFINITION. Contexts benched, caved and made resident (14 R356, R363 to R367). -/
namespace Sys2Proof.Machine

/-- Whether it is a context's turn to lose its residency slot: no slot is free, a context waits, and it has been blocked longest
(R366 rule 3); no copy of one of its streams is in progress (07 R195). -/
def State.benchTurn (s : State) (ctx : Nat) : Bool :=
  s.freeResidency.isNone && s.firstWaiter.isSome && decide (s.longestBlocked = some ctx) &&
  (s.seqsIn ctx).all (fun e => e.2.copy.isNone)
/-- The sequences of a context whose streams are resident. -/
def State.residentStreams (s : State) (ctx : Nat) : List Nat :=
  ((s.seqsIn ctx).filter (fun e => e.2.hasStream && decide (e.2.stream.st = .resident))).map (·.1)
/-- Every resident stream of a context parked into a bench image in fresh; none where one does not fit (R365). -/
def State.benchAll (s : State) (ctx : Nat) : Option State :=
  (s.residentStreams ctx).foldl (fun (o : Option State) i => match o with | none => none | some t => t.benchSeq i) (some s)
/-- The residency slot given up, the ledger folded (R365). A context whose page blocks have not come back from the cave is caved again, and
one without live sequences is idle (R356). -/
def State.leaveSlot (s : State) (ctx st : Nat) : State :=
  let s1 := s.foldLedger
  let x := s1.ctxSt ctx
  let st := if s1.seqsIn ctx = [] ∧ x.queue = [] then 0 else if x.returned then st else 3
  (s1.setCtx ctx { x with st := st, slot := 0, withheld := false, blockedAt := 0 }).mark

/-- CONTEXT_BENCH. A context whose images do not fit is caved instead (CONTEXT_CAVE). -/
def execContextBench (ctx : Nat) (s : State) : Host.Outcome State Fault Refusal :=
  .next <|
    if !s.benchTurn ctx then s
    else match s.benchAll ctx with
      | none => s
      | some t => ({ t with sch := { t.sch with benchings := t.sch.benchings + 1 } }).leaveSlot ctx 2

/-- Bench images of a context that lie in fresh. -/
def State.freshBenches (s : State) (ctx : Nat) : List Nat :=
  (s.sch.benches.filter (fun e => decide (e.2.ctx = ctx) && (match AMap.find? s.tier.objs e.1 with
    | some o => s.objTier e.1 o == 0
    | none => false))).map (·.1)
/-- A block's data moved to the cave; the region it leaves is freed where `free` says so. -/
def State.caveBlock (s : State) (line b : Nat) (free : Bool) : State :=
  let d := s.pieceAny (umpAccess line) (blockBytes * b, blockBytes)
  if d.2.1 ≠ 0 then d.1
  else
    let p := d.1.program (encBlock 0 d.2.2)
    let s1 := match AMap.find? p.1.tier.blocks b with
      | some h => if free then p.1.freeHome h else (match h with | .fresh r => p.1.dropReloc r | _ => p.1)
      | none => p.1
    let s2 := s1.setBlock b p.2
    ((({ s2 with tier := { s2.tier with moves := s2.tier.moves + 1 } }).charge line 4 blockBytes).charge line 9 p.2.stored)
/-- A bench image moved to the cave: its fresh charge goes, and the cave reserves of R363 cover it. -/
def State.caveBench (s : State) (line b : Nat) : State :=
  match AMap.find? s.tier.objs b with
  | none => s
  | some o =>
    let s1 := s.unchargeQuota o.owner 0 (64 * o.blocks)
    (List.range o.blocks).foldl (fun s k => s.caveBlock line (b + k) true) s1
/-- Every resident stream of a context parked: into a bench image in fresh where one fits, else into one in the cave. -/
def State.parkStreams (s : State) (ctx : Nat) : Option State :=
  (s.residentStreams ctx).foldl (fun (o : Option State) i => o.bind (fun s => (s.benchSeq i).orElse (fun _ => s.caveSeq i))) (some s)

/-- A context's streams parked, its bench images and page blocks moved to the cave; a page block keeps its fresh region (R365). -/
def State.caveAll (s : State) (ctx : Nat) : Option State :=
  (s.parkStreams ctx).map (fun s1 =>
    let s2 := (s1.freshBenches ctx).foldl (fun s b => s.caveBench (lineOf ctx) b) s1
    (s2.pageBlocksOf ctx).foldl (fun s b => s.caveBlock (lineOf ctx) b false) s2)

/-- CONTEXT_CAVE: bench images and page blocks move to the cave (R365). It waits where that would exceed the programming budget (11 R296). -/
def execContextCave (ctx : Nat) (s : State) : Host.Outcome State Fault Refusal :=
  .next <|
    if !s.benchTurn ctx ∨ (s.benchAll ctx).isSome then s
    else match s.caveAll ctx with
      | none => s
      | some t =>
        if s.inBudget t then ({ t with sch := { t.sch with cavings := t.sch.cavings + 1 } }).leaveSlot ctx 3 else s

/-- CONTEXT_ADMIT_SLOT: the first waiter takes the lowest free residency slot (R366 rules 1 and 2). -/
def execContextAdmitSlot (s : State) : Host.Outcome State Fault Refusal :=
  .next <| match s.firstWaiter, s.freeResidency with
  | some c, some k =>
    let x := s.ctxSt c
    (s.setCtx c { x with st := 1, slot := k, returned := x.returned && decide (x.st ≠ 3), runnableAt := 0 }).mark
  | _, _ => s

/-- A caved page block back in the region it kept; what cannot be read stays in the cave (11 R285). -/
def State.returnBlock (s : State) (line b : Nat) : State :=
  match AMap.find? s.tier.blocks b, s.keptRegion b with
  | some (.cave _ img _), some r =>
    let d := s.pieceAny (umpAccess line) (blockBytes * b, blockBytes)
    if d.2.1 ≠ 0 then d.1
    else
      let s1 := (d.1.stackWrite 1 0xFFFF (blockBytes * r) d.2.2).1.setBlock b (.fresh r)
      (({ s1 with tier := { s1.tier with moves := s1.tier.moves + 1 } }).charge line 8 img.length).charge line 5 blockBytes
  | _, _ => s

/-- CONTEXT_RETURN: a context that was caved and holds a residency slot gets its page blocks back before any step of it is formed
(R367; 05 R133). -/
def execContextReturn (ctx : Nat) (s : State) : Host.Outcome State Fault Refusal :=
  .next <|
    let x := s.ctxSt ctx
    if x.st ≠ 1 ∨ x.returned then s
    else
      let s1 := (s.pageBlocksOf ctx).foldl (fun s b => s.returnBlock (lineOf ctx) b) s
      let back := (s1.pageBlocksOf ctx).all (fun b => match AMap.find? s1.tier.blocks b with | some (.cave _ _ _) => false | _ => true)
      (s1.setCtx ctx { s1.ctxSt ctx with returned := back }).mark

end Sys2Proof.Machine
end

