-- ==== Sys2Proof/Machine/Faults.lean ====
section
/-! DEFINITION. Fault records taken in, logged and read; audits (20 R500 to R503, R510 to R515). -/
namespace Sys2Proof.Machine

/-! Fault records (R500, R501, R503, R514). -/

/-- A record's 64 bytes (R501). -/
def FRec.bytes (r : FRec) : List Byte :=
  leBytes 8 r.number ++ leBytes 8 r.counter.toNat ++ leBytes 4 r.boot.toNat ++ leBytes 2 r.code.toNat ++
    [BitVec.ofNat 8 r.severity, BitVec.ofNat 8 r.action] ++ leBytes 2 r.ctx ++ [BitVec.ofNat 8 r.court] ++ leBytes 5 0 ++
    leBytes 8 r.source ++ leBytes 8 r.step ++ leBytes 8 r.addr ++ leBytes 4 r.d0 ++ leBytes 4 r.d1

/-- The record as it is logged: numbered, stamped, and its source completed with the ring position (01 R26). -/
def State.stampRec (s : State) (r : FRec) : FRec :=
  { r with number := s.flt.count.toNat + 1, counter := s.counter, boot := s.sec.bootCount, source := r.source + 2 ^ 28 * s.ring.position }
/-- A record into the log: 65,536 records, the oldest overwritten (R500). -/
def FltSt.keep (f : FltSt) (r : FRec) : FltSt :=
  let log := AMap.insert f.log r.number r
  { f with count := f.count + 1, log := if 65536 < log.length then log.drop 1 else log }
/-- A record taken in: logged, told to the mailboxes, and SMB_ALERT_N asserted where it is of severity 2 (R500, R514; 21 R525). -/
def State.takeIn (s : State) (r0 : FRec) : State :=
  let r := s.stampRec r0
  let s1 := { s with
    flt := s.flt.keep r
    smb := { s.smb with alert := s.smb.alert || decide (r.severity = 2) } }
  let s2 := s1.eventMgmt 0x0D02 r.ctx r.bytes
  if r.ctx < 1024 then s2.eventCtx r.ctx 0x0D02 r.bytes else s2

/-- The first record of a unit that the umpire has not taken in, marked. -/
def UnitQ.takeFirst : List (FRec × Bool) → Option (FRec × List (FRec × Bool))
  | [] => none
  | (r, false) :: rest => some (r, (r, true) :: rest)
  | (r, true) :: rest => (UnitQ.takeFirst rest).map (fun x => (x.1, (r, true) :: x.2))

def State.unitQ (s : State) (u : Nat) : UnitQ := AMap.getD s.flt.units .empty u
def State.setUnit (s : State) (u : Nat) (q : UnitQ) : State := { s with flt := { s.flt with units := AMap.insert s.flt.units u q } }

/-- A unit's next record taken in; none where it has no other. -/
def State.takeUnit (s : State) (u : Nat) : Option State :=
  match UnitQ.takeFirst (s.unitQ u).recs with
  | none => none
  | some (r, recs) => some ((s.setUnit u { s.unitQ u with recs := recs }).takeIn r)

/-- FAULT_RECORD_TAKE_IN. -/
def execFaultRecordTakeIn (unit : Nat) (s : State) : Host.Outcome State Fault Refusal := .next ((s.takeUnit unit).getD s)

/-- The overflow record of a unit (R503). -/
def UnitQ.overflow (q : UnitQ) (unit : Nat) : FRec :=
  { FRec.mk0 E_FLT_OVERFLOW q.topSeverity unit with d0 := min q.suppressed (2 ^ 32 - 1), d1 := q.firstCode.toNat }
/-- FAULT_RECORD_ACK: a record that was taken in leaves its unit; a unit that suppressed records raises one for them (R503). -/
def execFaultRecordAck (unit : Nat) (s : State) : Host.Outcome State Fault Refusal :=
  .next <|
    let q := s.unitQ unit
    match q.recs with
    | (_, true) :: rest =>
      if q.suppressed = 0 then s.setUnit unit { q with recs := rest }
      else s.setUnit unit ⟨rest ++ [(q.overflow unit, false)], 0, 0, 0⟩
    | _ => s

/-! Audits (R510 to R512). -/

/-- Buffers a receiver advertises for a virtual channel (17 R447). -/
def advertised (vc : Nat) : Nat := if vc = 0 then 64 else 1024
/-- Audit 0: for each link that is up and each VC, by 4 × port + VC: what the sender accounts for, and what was advertised. -/
def State.auditLinks (s : State) : List (Nat × Int) :=
  (s.ring.links.filter (fun e => decide (e.2.st = 2))).flatMap (fun e => [0, 1, 2].map (fun vc =>
    (4 * e.1 + vc, (AMap.getD e.2.credits 0 vc + AMap.getD e.2.out 0 vc : Nat) - (advertised vc : Nat))))
/-- Audit 1: for each pool class of each court, by 4 × court + class: free and used pages against pages_c. -/
def State.auditPages (s : State) : List (Nat × Int) :=
  (List.range 8).flatMap (fun k => match s.courtRec k with
    | none => []
    | some c => (List.range c.pools.length).map (fun i =>
        let n := match c.pools[i]? with | some (_, _, n) => n | none => 0
        let mine := s.sch.pages.filter (fun e => decide (e.1 / 2 ^ 26 = k) && decide (bitsOf e.1 25 24 = i))
        let free := n - (mine.filter (fun e => decide (e.1 % 2 ^ 24 < n))).length
        (4 * k + i, (free + mine.length : Nat) - (n : Nat))))
/-- Audit 2: state slots of each court; residency slots (item 128); holders of each bench image, by its first block. What a context is
charged for its bench images is counted from them. -/
def State.auditBench (s : State) : List (Nat × Int) :=
  (s.book.books.filter (fun e => e.2.plan.hasState && e.2.installed)).map (fun e =>
    let held := s.sch.seqs.filterMap (fun q => if q.2.playbook = e.1 then q.2.stream.slot else none)
    let n := e.2.plan.slotCount
    ((e.2.court, ((held.length + ((List.range n).filter (fun k => !held.contains k)).length : Nat) : Int) - (n : Int)) : Nat × Int)) ++
  [((128 : Nat), ((s.slotsUsed.length + ((List.range 128).filter (fun k => !s.slotsUsed.contains k)).length : Nat) : Int) - 128)] ++
  s.sch.benches.map (fun e => (e.1,
    (e.2.holders : Int) - ((s.sch.seqs.filter (fun q => decide (q.2.stream.bench = some e.1))).length : Nat)))
/-- Units of a tier that blocks of no client's objects take, those of cave reserves apart (11 R289). -/
def State.unattributed (s : State) (tier : Nat) : Nat :=
  if tier = 2 then 0 else
  ((s.tier.objs.filter (fun e => e.2.owner.isNone)).map (fun e =>
    (((s.homesOf e.1 e.2).filter (fun h => decide (h.2.tier = tier))).map (fun h => h.2.units)).sum)).sum
/-- Audit 3: for each tier, what clients are charged and what no client is charged against what is allocated and reserved. -/
def State.auditQuota (s : State) : List (Nat × Int) :=
  [0, 1, 2].map (fun t =>
    let used := ((s.tier.used.filter (fun e => decide (e.1 % 4 = t))).map (·.2)).sum
    let homes := (s.tier.blocks.map (fun e => if e.2.tier = t then e.2.units else 0)).sum
    let caves := if t = 2 then s.caveReserve else 0
    (t, (used + s.unattributed t : Nat) - (homes + s.reserved t + caves : Nat)))
/-- Audit 4: refs of each page against the lists that hold it. Pins of generations and adapters are counted from the sequences. -/
def State.auditRefs (s : State) : List (Nat × Int) :=
  s.sch.pages.map (fun e => (e.1 % 2 ^ 24,
    (e.2.refs : Int) - ((s.sch.seqs.map (fun q => (q.2.pages.filter (fun p => decide (pageKey q.2.court p.2 = e.1))).length)).sum : Nat)))
/-- Audit 5: roster tokens granted against tokens used, dropped and held (14 R371). -/
def State.auditTokens (s : State) : List (Nat × Int) :=
  [(0, (s.sch.tokUsed + s.sch.tokDropped + BitVec.ofNat 64 (s.sch.seqs.map (fun e => e.2.tokens)).sum - s.sch.tokGranted).toInt)]
/-- Audit 6: for each item, the total line against the lines of the clients and the unattributed line, by item. -/
def State.auditLedger (s : State) : List (Nat × Int) :=
  (List.range 12).map (fun i => (i, (AMap.getD s.led.lines 0 (16 * 1025 + i) -
    BitVec.ofNat 64 ((s.led.lines.filter (fun e => decide (e.1 % 16 = i) && decide (e.1 / 16 < 1025))).map (fun e => e.2.toNat)).sum).toInt))

/-- The balances of an audit: item, and found − expected. -/
def State.balances (s : State) (k : Nat) : List (Nat × Int) :=
  match k with
  | 0 => s.auditLinks
  | 1 => s.auditPages
  | 2 => s.auditBench
  | 3 => s.auditQuota
  | 4 => s.auditRefs
  | 5 => s.auditTokens
  | _ => s.auditLedger

def Aud.zero : Aud := ⟨0, 0, 0, 0⟩
def State.aud (s : State) (k : Nat) : Aud := AMap.getD s.flt.auds .zero k
def State.setAud (s : State) (k : Nat) (a : Aud) : State := { s with flt := { s.flt with auds := AMap.insert s.flt.auds k a } }
/-- A signed difference as a 32-bit word, saturating at ±(2^31 − 1) (R512). -/
def satWord (d : Int) : Nat := (BitVec.ofInt 32 (max (-2147483647) (min 2147483647 d))).toNat
/-- The record of a balance that does not hold (R512). -/
def mismatchRec (k : Nat) (b : Nat × Int) : FRec :=
  { FRec.mk0 E_AUD_MISMATCH 2 (ident 2 1024) with d0 := k + 256 * (b.1 % 2 ^ 24), d1 := satWord b.2 }

/-- AUDIT_PASS: at its consistent point an audit checks its balances; `late`: it found none within its second, and is carried to
the next (R511). -/
def execAuditPass (audit : Nat) (late : Bool) (s : State) : Host.Outcome State Fault Refusal :=
  .next <|
    if 7 ≤ audit then s
    else if late then s.setAud audit { s.aud audit with late := (s.aud audit).late + 1 }
    else
      let bad := (s.balances audit).filter (fun b => decide (b.2 ≠ 0))
      let a := s.aud audit
      let s1 := s.setAud audit { a with passes := a.passes + 1, mismatches := a.mismatches + bad.length, last := s.counter }
      bad.foldl (fun s b => s.raise (mismatchRec audit b)) s1

/-! Messages (R513, R515). -/

/-- The records a request is shown, from number `n` up. -/
def State.matching (s : State) (r : Req) (first sev : Nat) : List FRec :=
  (AMap.vals s.flt.log).filter (fun x => decide (first ≤ x.number) && decide (sev ≤ x.severity) &&
    (!isApp r.mbx || (decide (x.ctx < 1024) && s.permits r.mbx x.ctx)))

/-- MSG_FAULT_READ. -/
def execMsgFaultRead (mbx : Nat) (s : State) : Host.Outcome State Fault Refusal :=
  .next (serve 0x0D01 mbx (fun r s =>
    let first := r.fld 0 8
    let count := r.fld 8 4
    let sev := r.fld 12 1
    let dest := r.fld 16 8
    if count = 0 ∨ 4096 < count ∨ 2 < sev ∨ dest % 64 ≠ 0 ∨ r.fld 24 8 < 64 * count then s.refuse r E_FLT_ARG 14
    else
      let all := s.matching r first sev
      let recs := all.take count
      let next := match all[count]? with
        | none => s.flt.count.toNat + 1
        | some _ => (match recs.getLast? with | some x => x.number | none => 0) + 1
      let w := s.objWrite r.access dest (recs.flatMap FRec.bytes)
      if w.2 ≠ 0 then w.1.refuse r w.2 14
      else w.1.answer r 0 (leBytes 2 0 ++ leBytes 4 recs.length ++ leBytes 8 next)) s)

/-- MSG_AUDIT_QUERY. -/
def execMsgAuditQuery (mbx : Nat) (s : State) : Host.Outcome State Fault Refusal :=
  .next (serve 0x0D03 mbx (fun r s =>
    let k := r.fld 0 1
    if 6 < k then s.refuse r E_FLT_ARG 30
    else
      let a := s.aud k
      s.answer r 0 (leBytes 6 0 ++ leBytes 8 a.passes.toNat ++ leBytes 4 (min a.mismatches 65535) ++ leBytes 4 (min a.late 65535) ++
        leBytes 8 a.last.toNat)) s)

end Sys2Proof.Machine
end

