-- ==== Sys2Proof/Machine/Setup.lean ====
section
/-! DEFINITION. Configuration images and slots: their checks, commits, trials and reverts (16 R427 to R436; 04 R124; 14 R355). -/
namespace Sys2Proof.Machine

/-! The image (R427 to R430). -/

/-- A section of an image: its kind, count, offset and length. -/
structure CfgSect where
  kind : Nat
  count : Nat
  off : Nat
  len : Nat
deriving DecidableEq, Repr

/-- Whether bytes [off, off + n) of a list are zero. -/
def zerosAt (bs : List Byte) (off n : Nat) : Bool := leAt bs off n == 0
/-- Bytes of a record of a section kind. -/
def cfgRecSize (kind : Nat) : Nat := match kind with | 1 => 32 | 2 => 16 | 3 => 64 | 4 => 32 | 5 => 16 | _ => 136

/-- The header of an image of `n` bytes. -/
def cfgHeadOk (bs : List Byte) (n : Nat) : Bool :=
  leAt bs 0 4 == 0x47494643 && leAt bs 4 1 == 1 && leAt bs 6 1 == 1 && zerosAt bs 7 1 && leAt bs 8 4 == n &&
  decide (n ≤ 4194304) && decide (1 ≤ leAt bs 12 2) && decide (leAt bs 12 2 ≤ 16) && zerosAt bs 14 50
def cfgSects (bs : List Byte) : List CfgSect :=
  (List.range (leAt bs 12 2)).map (fun i => let o := 64 + 16 * i
    ⟨leAt bs o 2, leAt bs (o + 4) 4, leAt bs (o + 8) 4, leAt bs (o + 12) 4⟩)
/-- The records of a section. -/
def CfgSect.recs (x : CfgSect) (bs : List Byte) : List (List Byte) :=
  (List.range x.count).map (fun i => bytesAt bs (x.off + cfgRecSize x.kind * i) (cfgRecSize x.kind))
/-- The records of a kind. -/
def cfgRecs (bs : List Byte) (kind : Nat) : List (List Byte) :=
  match (cfgSects bs).find? (fun x => x.kind == kind) with | some x => x.recs bs | none => []

/-- One record's ranges and reserved fields. -/
def cfgRecOk (kind : Nat) (r : List Byte) : Bool :=
  match kind with
  | 1 => decide (leAt r 0 1 ≤ 7) && decide (leAt r 1 1 ≤ 1) && decide (leAt r 2 1 < 16) && zerosAt r 3 5 &&
      decide (leAt r 8 8 < 2 ^ 40) && decide (leAt r 16 8 % 262144 = 0) && zerosAt r 24 8
  | 2 => decide (leAt r 0 1 ≤ 7) && decide (leAt r 1 1 ≤ 1) && decide (1 ≤ leAt r 2 2) && decide (leAt r 2 2 ≤ 4096) &&
      decide (leAt r 4 4 % 4096 = 0) && zerosAt r 8 8
  | 3 => (List.range 4).all (fun c => decide (leAt r (16 * c) 8 % 4096 = 0) && decide (leAt r (16 * c + 8) 4 % 4096 = 0) &&
      decide (leAt r (16 * c + 12) 4 ≤ 16777215))
  | 4 => decide (leAt r 0 2 ≤ 1023) && decide (leAt r 2 1 ≤ 7) && decide (leAt r 3 1 ≤ 3) && decide (1 ≤ leAt r 4 2) &&
      decide (leAt r 4 2 ≤ 4096) && zerosAt r 6 2 && decide (leAt r 16 8 % 4096 = 0) && zerosAt r 24 8
  | 5 => decide (leAt r 0 2 ≤ 1023) && decide (leAt r 2 1 ≤ 2) && zerosAt r 3 5 && decide (leAt r 8 8 % 4096 = 0) &&
      decide (leAt r 8 8 / 4096 < 2 ^ 36)
  | _ => decide (leAt r 0 1 ≤ 67) && decide (leAt r 1 1 ≤ 1) && zerosAt r 2 6
/-- What a record of a kind is named by: no two records of a section share it. -/
def cfgRecKey (kind : Nat) (r : List Byte) : Nat :=
  match kind with | 4 => leAt r 0 2 | 5 => 4 * leAt r 0 2 + leAt r 2 1 | _ => leAt r 0 1
/-- A section alone: kind, place, records. -/
def CfgSect.ok (x : CfgSect) (bs : List Byte) (n i : Nat) : Bool :=
  decide (1 ≤ x.kind) && decide (x.kind ≤ 6) && zerosAt bs (64 + 16 * i + 2) 2 && decide (x.len = x.count * cfgRecSize x.kind) &&
  decide (64 + 16 * leAt bs 12 2 ≤ x.off) && decide (x.off + x.len ≤ n) && (x.kind != 3 || x.count == 8) &&
  decide (((cfgSects bs).filter (fun y => y.kind == x.kind)).length = 1) && (x.recs bs).all (cfgRecOk x.kind) &&
  (x.kind == 3 || decide (((x.recs bs).map (cfgRecKey x.kind)).eraseDups.length = x.count))

/-- The court record of number `k` with its scheduling and pool records; missing records read as zero. -/
def cfgCourt (bs : List Byte) (k : Nat) (r : List Byte) : CourtRec :=
  let sch := ((cfgRecs bs 2).find? (fun x => leAt x 0 1 == k)).getD []
  let kv := ((cfgRecs bs 3)[k]?).getD []
  { defined := bitOf (leAt r 1 1) 0
    tbReserve := leAt r 2 1 % 4
    stgReserve := leAt r 2 1 / 4 % 4
    dies := leAt r 8 8
    huddleBytes := leAt r 16 8
    roster := leAt sch 1 1 == 1
    stepSeqs := leAt sch 2 2
    returnBytes := leAt sch 4 4
    pools := (List.range 4).map (fun c => (leAt kv (16 * c) 8, leAt kv (16 * c + 8) 4, leAt kv (16 * c + 12) 4)) }
/-- The parsed image. -/
def cfgParse (bs : List Byte) : CfgImage where
  bytes := bs
  courts := (cfgRecs bs 1).foldl (fun m r => AMap.insert m (leAt r 0 1) (cfgCourt bs (leAt r 0 1) r)) []
  ctxs := ((cfgRecs bs 4).filter (fun r => bitOf (leAt r 3 1) 0)).foldl (fun m r => AMap.insert m (leAt r 0 2)
    ⟨leAt r 2 1, bitOf (leAt r 3 1) 1, leAt r 4 2, leAt r 8 8, leAt r 16 8⟩) []
  quotas := (cfgRecs bs 5).foldl (fun m r => AMap.insert m (4 * leAt r 0 2 + leAt r 2 1) (leAt r 8 8)) []
  mbxs := (cfgRecs bs 6).foldl (fun m r => AMap.insert m (leAt r 0 1) ⟨leAt r 1 1 == 1, leAt r 8 128⟩) []

/-- Dies: at least one in each defined court, none in two. -/
def CfgImage.diesOk (c : CfgImage) : Bool :=
  let ds := (AMap.vals c.courts).filter (fun r => r.defined)
  ds.all (fun r => decide (r.dies ≠ 0)) && decide ((ds.flatMap CourtRec.dieList).eraseDups.length = (ds.flatMap CourtRec.dieList).length)
/-- Contexts: each in a defined court. -/
def CfgImage.ctxsOk (c : CfgImage) : Bool :=
  c.ctxs.all (fun e => match AMap.find? c.courts e.2.court with | some r => r.defined | none => false)
/-- The index of the section of a kind; 0xFFFF for none. -/
def cfgSectIndex (bs : List Byte) (kind : Nat) : Nat := ((cfgSects bs).findIdx? (fun x => x.kind == kind)).getD 0xFFFF
/-- The first failure of R430: the section concerned; none where the image passes. -/
def cfgFail (bs : List Byte) : Option Nat :=
  if !cfgHeadOk bs bs.length then some 0xFFFF
  else
    let xs := cfgSects bs
    match ((List.range xs.length).zip xs).find? (fun e => !e.2.ok bs bs.length e.1) with
    | some e => some e.1
    | none =>
      let c := cfgParse bs
      if !c.diesOk then some (cfgSectIndex bs 1) else if !c.ctxsOk then some (cfgSectIndex bs 4) else none

/-! Slots. -/

def State.slotAt (s : State) (k : Nat) : CfgSlot := if k = 0 then s.ump.slot0 else s.ump.slot1
def State.setSlot (s : State) (k : Nat) (c : CfgSlot) : State :=
  if k = 0 then { s with ump := { s.ump with slot0 := c } } else { s with ump := { s.ump with slot1 := c } }

/-- MSG_CONFIG_WRITE (R430). -/
def execMsgConfigWrite (mbx : Nat) (s : State) : Host.Outcome State Fault Refusal :=
  .next (serve 0x0100 mbx (fun r s =>
    let len := r.fld 8 4
    let other := 1 - s.ump.active
    let gen := max s.ump.slot0.gen s.ump.slot1.gen + 1
    if s.ump.trial.isSome then s.answer r E_CFG_TRIAL (leBytes 2 0xFFFF ++ leBytes 12 0)
    else if 4194304 < len then s.answer r E_CFG_FORMAT (leBytes 2 0xFFFF ++ leBytes 12 0)
    else
      let w := s.objRead r.access (r.fld 0 8) len
      if w.2.1 ≠ 0 then w.1.answer r w.2.1 (leBytes 2 0xFFFF ++ leBytes 12 0)
      else match cfgFail w.2.2 with
        | some i => w.1.answer r E_CFG_FORMAT (leBytes 2 i ++ leBytes 12 0)
        | none => (w.1.setSlot other ⟨cfgParse w.2.2, gen⟩).answer r 0 (leBytes 2 0xFFFF ++ leBytes 4 0 ++ leBytes 8 gen)) s)

/-! Court areas (11 R533). -/

/-- The court of an area. -/
def ObjUse.areaOf (u : ObjUse) (court : Nat) : Bool :=
  match u with | .pools k => k == court | .huddle k => k == court | .stepArea k => k == court | .returns k => k == court | _ => false
/-- The areas of a court given up. -/
def State.dropAreas (s : State) (court : Nat) : State :=
  ((s.tier.objs.filter (fun e => e.2.use.areaOf court)).map (·.1)).foldl State.dropObj s
/-- A creation's state and code. -/
def noAddr (c : State × Code × Nat) : State × Code := (c.1, c.2.1)
/-- An area created at the lowest free place, where it has any bytes. -/
def State.areaAny (s : State) (use : ObjUse) (size : Nat) : State × Code :=
  if size = 0 then (s, 0) else if 2 ^ 40 < size then (s, E_OBJ_SPACE) else noAddr (s.createObj none use size 0 0)
/-- The areas of a court: pools at their bases, and the huddle area, a step area of one block and the return buffer where they
fit. -/
def State.makeAreas (s : State) (court : Nat) (c : CourtRec) : State × Code :=
  let p := c.pools.foldl (fun (r : State × Code) x =>
    if r.2 ≠ 0 ∨ x.1 = 0 then r else r.1.createAt (.pools court) x.1 (x.2.1 * (x.2.2 + 1))) (s, 0)
  [((.huddle court : ObjUse), c.huddleBytes), (.stepArea court, blockBytes), (.returns court, c.returnBytes)].foldl
    (fun (r : State × Code) e => if r.2 ≠ 0 then r else r.1.areaAny e.1 e.2) p

/-! Commits (R431, R433, R434). -/

/-- The courts that differ between two images. -/
def changedCourts (a b : CfgImage) : List Nat :=
  (List.range 8).filter (fun k => decide (AMap.find? a.courts k ≠ AMap.find? b.courts k))
def CfgImage.court (c : CfgImage) (k : Nat) : Option CourtRec :=
  match AMap.find? c.courts k with | some r => if r.defined then some r else none | none => none
/-- CLU_CFG written for the clusters of a court; a cluster with a running core ignores it. -/
def State.writeCluCfg (s : State) (c : CourtRec) : State :=
  (c.dieList.flatMap (fun d => (List.range 25).map (25 * d + ·))).foldl (fun s n =>
    if s.cores.any (fun e => decide (e.1 / 26 = n) && decide (e.2.now.st = .running)) then s
    else s.modClu n (fun x => { x with tbReserve := BitVec.ofNat 2 c.tbReserve, stgReserve := BitVec.ofNat 2 c.stgReserve })) s
/-- TIER_Q_LIMIT written for each quota that differs. -/
def State.writeQuotas (s : State) (a b : CfgImage) : State :=
  ((a.quotas.map (·.1)) ++ (b.quotas.map (·.1))).foldl (fun s k =>
    let old := AMap.getD a.quotas 0 k
    let new := AMap.getD b.quotas 0 k
    if old = new then s else { s with tier := { s.tier with limit := AMap.setD s.tier.limit 0 k (new / 4096) } }) s
/-- The switch to a slot, in one step: courts that change give up their areas and get new ones, CLU_CFG and the quotas are
written; with the code of an area that does not fit. -/
def State.switchTo (s : State) (k : Nat) : State × Code :=
  let old := s.cfg
  let new := (s.slotAt k).img
  let ch := changedCourts old new
  let s1 := ch.foldl State.dropAreas s
  let s2 := { s1 with ump := { s1.ump with active := k } }
  let p := ch.foldl (fun (r : State × Code) c => match new.court c with
    | none => r
    | some x => let q := (r.1.writeCluCfg x).makeAreas c x; (q.1, if r.2 ≠ 0 then r.2 else q.2)) (s2, 0)
  (p.1.writeQuotas old new, p.2)

/-- A commit's first failure: the code, the check, the court concerned (R431). -/
def State.commitFail (s : State) (k gen : Nat) : Option (Code × Nat × Nat) :=
  let old := s.cfg
  let new := (s.slotAt k).img
  let ch := changedCourts old new
  let live (court : Nat) : Bool := s.sch.seqs.any (fun e => decide (e.2.court = court)) || s.upd.plans.any (fun e => decide (e.2.court = court))
  let moved := List.find? (fun (e : Nat × Seq) => match AMap.find? old.ctxs e.2.ctx, AMap.find? new.ctxs e.2.ctx with
    | some a, some b => decide (a.court ≠ b.court) || decide (a.lc ≠ b.lc)
    | some _, none => true
    | none, _ => false) s.sch.seqs
  let unfit := ch.find? (fun c => s.book.books.any (fun e => decide (e.2.court = c) && (match new.court c with
    | none => true
    | some x => (s.fitFail x c e.2.ctx e.2.plan e.1).isSome || decide (x.returnBytes < (if e.2.plan.hasState then e.2.plan.imageLen else 0)))))
  if (s.slotAt k).gen ≠ gen then some (E_CFG_GEN, 2, 0xFF)
  else if s.ump.trial.isSome ∨ s.ump.fw.isSome ∨ s.mem.mapout.isSome then some (E_CFG_BUSY, 3, 0xFF)
  else match moved with
    | some e => some (E_SCH_CONTEXT, 4, e.2.court)
    | none => match ch.find? live with
      | some c => some (E_CFG_BUSY, 5, c)
      | none => match unfit with
        | some c => some (E_PLAN_NOFIT, 6, c)
        | none => if (s.switchTo k).2 ≠ 0 then some (E_TIER_NOROOM, 7, 0xFF) else none

/-- Mismatches the audits have found. -/
def State.mismatches (s : State) : Nat := (s.flt.auds.map (fun e => e.2.mismatches)).sum
/-- The response of a commit. -/
def State.answerCommit (s : State) (r : Req) (code : Code) (check court : Nat) : State :=
  s.answer r code ([BitVec.ofNat 8 check, BitVec.ofNat 8 court] ++ leBytes 4 0 ++ leBytes 8 s.activeGen)
/-- The inactive slot committed: its trial opens; or refused with nothing changed. -/
def State.commit (s : State) (r : Req) (gen secs : Nat) : State :=
  let k := 1 - s.ump.active
  match s.commitFail k gen with
  | some f => s.answerCommit r f.1 f.2.1 f.2.2
  | none =>
    let s1 := (s.switchTo k).1
    let s2 := { s1 with ump := { s1.ump with trial := some ⟨gen, secs, 1 - k, s.mismatches⟩, trialFailover := false } }
    s2.answerCommit r 0 0 0xFF

/-- MSG_CONFIG_COMMIT (R431, R432). -/
def execMsgConfigCommit (mbx : Nat) (s : State) : Host.Outcome State Fault Refusal :=
  .next (serve 0x0101 mbx (fun r s =>
    let secs := r.fld 8 2
    if s.ump.trial.isSome then s.answerCommit r E_CFG_TRIAL 3 0xFF
    else if secs ≠ 0 ∧ (secs < 10 ∨ 3600 < secs) then s.answerCommit r E_CFG_ARG 1 0xFF
    else s.commit r (r.fld 0 8) (if secs = 0 then 60 else secs)) s)

/-- A trial's slot recorded as committed; MSG_CONFIG_EVENT tells it (R432, R435, R436). -/
def State.finalTrial (s : State) : State :=
  let s1 := { s with ump := { s.ump with trial := none, trialFailover := false, committed := s.ump.active } }
  s1.eventMgmt 0x0106 0xFFFF (configEvent 0 0 s1.activeGen)
/-- A trial reverted, without checks (R434). -/
def State.revertTrial (s : State) (t : Trial) (reason check : Nat) : State :=
  let s1 := (s.switchTo t.prev).1
  let s2 := { s1 with ump := { s1.ump with trial := none, trialFailover := false } }
  s2.eventMgmt 0x0106 0xFFFF (configEvent reason check s2.activeGen)

/-- MSG_CONFIG_CONFIRM. -/
def execMsgConfigConfirm (mbx : Nat) (s : State) : Host.Outcome State Fault Refusal :=
  .next (serve 0x0102 mbx (fun r s => match s.ump.trial with
    | some t => if r.fld 0 8 = t.gen then s.finalTrial.refuse r 0 6 else s.refuse r E_CFG_GEN 6
    | none => s.refuse r E_CFG_GEN 6) s)

/-- MSG_CONFIG_REVERT: during a trial a revert; after one a commit of the other slot (R434). -/
def execMsgConfigRevert (mbx : Nat) (s : State) : Host.Outcome State Fault Refusal :=
  .next (serve 0x0103 mbx (fun r s => match s.ump.trial with
    | some t =>
      if (s.slotAt t.prev).gen = r.fld 0 8 then (s.revertTrial t 2 0).answerCommit r 0 0 0xFF
      else s.answerCommit r E_CFG_GEN 2 0xFF
    | none => s.commit r (r.fld 0 8) 60) s)

/-- MSG_CONFIG_QUERY. -/
def execMsgConfigQuery (mbx : Nat) (s : State) : Host.Outcome State Fault Refusal :=
  .next (serve 0x0104 mbx (fun r s =>
    s.answer r 0 ([BitVec.ofNat 8 s.ump.active, BitVec.ofNat 8 (b2n s.ump.trial.isSome)] ++
      leBytes 2 (match s.ump.trial with | some t => t.left | none => 0) ++ leBytes 2 0 ++ leBytes 8 s.ump.slot0.gen ++
      leBytes 8 s.ump.slot1.gen)) s)

/-- MSG_CONFIG_READ. -/
def execMsgConfigRead (mbx : Nat) (s : State) : Host.Outcome State Fault Refusal :=
  .next (serve 0x0105 mbx (fun r s =>
    let img := (s.slotAt (r.fld 0 1)).img.bytes
    if 1 < r.fld 0 1 ∨ r.fld 16 8 < img.length then s.refuse r E_CFG_FORMAT 14
    else
      let w := s.objWrite r.access (r.fld 8 8) img
      if w.2 ≠ 0 then w.1.refuse r w.2 14 else w.1.answer r 0 (leBytes 6 0 ++ leBytes 8 img.length)) s)

/-! Trials (R432). -/

/-- HEALTH_CHECK: H1 to H3 of a second of a trial; `h2`: every coach answered the heartbeat. -/
def execHealthCheck (h2 : Bool) (s : State) : Host.Outcome State Fault Refusal :=
  .next <| match s.ump.trial with
  | none => s
  | some t =>
    if s.mismatches ≠ t.mism then s.revertTrial t 1 1
    else if !h2 then s.revertTrial t 1 2
    else if s.ump.trialFailover then s.revertTrial t 1 3
    else { s with ump := { s.ump with trial := some { t with left := t.left - 1 } } }
/-- TRIAL_END: the window is over, every check passed. -/
def execTrialEnd (s : State) : Host.Outcome State Fault Refusal :=
  .next <| match s.ump.trial with
  | none => s
  | some t => if t.left = 0 then s.finalTrial else s

end Sys2Proof.Machine
end

