-- ==== Sys2Proof/Machine/Firmware.lean ====
section
/-! DEFINITION. Firmware bundles and updates, failover and repair of the umpire, housekeeping (16 R412 to R414, R437, R438, R440;
19 R487 to R493; 20 R506). -/
namespace Sys2Proof.Machine

/-! Bundles (R487, R488). -/

/-- The component table: each kind once, inside the image, without overlap. -/
def componentsOk (b : List Byte) : Bool :=
  let ents := (List.range 5).map (fun i => (leAt b (7360 + 16 * i) 2, leAt b (7364 + 16 * i) 4, leAt b (7368 + 16 * i) 4))
  let inside := ents.all (fun e => decide (7440 ≤ e.2.1) && decide (e.2.1 + e.2.2 ≤ b.length))
  let apart := (List.range 5).all (fun i => (List.range i).all (fun j => match ents[i]?, ents[j]? with
    | some x, some y => decide (x.2.1 + x.2.2 ≤ y.2.1) || decide (y.2.1 + y.2.2 ≤ x.2.1)
    | _, _ => true))
  (List.range 5).all (fun k => ents.any (fun e => e.1 == k)) && inside && apart &&
  (List.range 5).all (fun i => zerosAt b (7362 + 16 * i) 2 && zerosAt b (7372 + 16 * i) 4)
/-- Check 1: magic, formats, generation, ranges, reserved fields, component table. -/
def bundleFormatOk (b : List Byte) : Bool :=
  leAt b 0 4 == 0x4D524946 && leAt b 4 1 == 1 && leAt b 5 1 == 1 && leAt b 6 2 == 5 && decide (leAt b 12 1 ≤ 63) &&
  decide (leAt b 13 1 ≤ 64) && decide (leAt b 18 1 ≤ 3) && zerosAt b 19 1 && leAt b 20 4 == b.length &&
  decide (7440 ≤ b.length) && decide (b.length ≤ 268435456) && zerosAt b 24 40 && zerosAt b 7347 13 && componentsOk b
/-- Fuses blown in a counter. -/
def State.fuse (s : State) (k : Nat) : Nat := AMap.getD s.sec.fuses 0 k
/-- The checks of R488 in order: 0, or the code. -/
def State.bundleCode (s : State) (b : List Byte) : Code :=
  let key := bytesAt b 128 2592
  if !bundleFormatOk b then E_FW_VERIFY
  else if s.sec.fwRevoked.contains (leAt b 18 1) ∨ sha3 key ≠ Config.fwKeyDigest (leAt b 18 1) then E_FW_VERIFY
  else if !Config.mldsaVerify key (b.take 128) (bytesAt b 2720 4627) then E_FW_VERIFY
  else if sha3 (b.drop 7360) ≠ bytesAt b 64 64 then E_FW_VERIFY
  else if leAt b 13 1 < s.fuse (leAt b 12 1) then E_FW_ROLLBACK
  else 0
/-- The image in the bank that is current, and in the other. -/
def State.currentBank (s : State) : List Byte := if s.sec.bank then s.sec.bankB else s.sec.bankA
def State.otherBank (s : State) : List Byte := if s.sec.bank then s.sec.bankA else s.sec.bankB
/-- A bundle written to the bank that is not current (R490). -/
def State.writeBank (s : State) (b : List Byte) : State :=
  { s with sec := if s.sec.bank then { s.sec with bankA := b } else { s.sec with bankB := b } }
/-- A bundle runs: its version and its measurement. -/
def State.runBundle (s : State) (b : List Byte) : State :=
  { s with sec := { s.sec with fwVersion := leAt b 8 4, fwDigest := bytesAt b 64 64 } }

/-! Updates without a stop (16 R437, R438). -/

/-- Whether a protocol range takes in every version that an open session uses. -/
def State.versionsOk (s : State) (lo hi : Nat) : Bool :=
  s.ump.mbxs.all (fun e => !e.2.session || (let v := 256 * e.2.verMajor.toNat + e.2.verMinor.toNat; decide (lo ≤ v) && decide (v ≤ hi)))
/-- The response of an update. -/
def State.answerFw (s : State) (r : Req) (code : Code) (phase pause old new : Nat) : State :=
  s.answer r code ([BitVec.ofNat 8 phase, 0] ++ leBytes 4 pause ++ leBytes 4 old ++ leBytes 4 new)

/-- MSG_FW_UPDATE: phase 1, which verifies the image and writes it to the other bank (R437, R438; 19 R490). -/
def execMsgFwUpdate (mbx : Nat) (s : State) : Host.Outcome State Fault Refusal :=
  .next (serve 0x0B20 mbx (fun r s =>
    let refuse (s : State) (c : Code) (new : Nat) := s.answerFw r c 1 0 s.sec.fwVersion new
    if s.ump.fw.isSome ∨ s.ump.trial.isSome ∨ s.mem.mapout.isSome then refuse s E_FW_BUSY 0
    else if 268435456 < r.fld 8 8 then refuse s E_FW_VERIFY 0
    else
      let w := s.objRead r.access (r.fld 0 8) (r.fld 8 8)
      let b := w.2.2
      let new := leAt b 8 4
      if w.2.1 ≠ 0 then refuse w.1 w.2.1 0
      else if w.1.bundleCode b ≠ 0 then refuse w.1 (w.1.bundleCode b) new
      else if !w.1.versionsOk (256 * leAt b 14 1 + leAt b 15 1) (256 * leAt b 16 1 + leAt b 17 1) then refuse w.1 E_FW_VERSION new
      else
        let s1 := w.1.writeBank b
        { s1 with ump := { s1.ump with fw := some ⟨r, 1, 0, s1.sec.fwVersion, new, bytesAt b 64 64, b⟩ } }) s)

/-- FW_HANDOVER: phase 2; the other pair takes the journal and the rings, and there is no standby in phase 3. -/
def execFwHandover (pauseUs : Nat) (s : State) : Host.Outcome State Fault Refusal :=
  .next <| match s.ump.fw with
  | none => s
  | some f =>
    if f.phase ≠ 1 ∨ s.ump.standby ≠ 2 ∨ 50000 < pauseUs then s
    else { s with ump := { s.ump with fw := some { f with phase := 3, pause := pauseUs }, acting := 1 - s.ump.acting, standby := 0 } }
/-- FW_NEW_FIRMWARE_READY: phase 3 completes. -/
def execFwNewFirmwareReady (s : State) : Host.Outcome State Fault Refusal :=
  .next <| match s.ump.fw with
  | none => s
  | some f => if f.phase = 3 then { s with ump := { s.ump with fw := some { f with phase := 4 } } } else s
/-- FW_HANDBACK: phase 4; control passes back to the pair that runs the new firmware. -/
def execFwHandback (pauseUs : Nat) (s : State) : Host.Outcome State Fault Refusal :=
  .next <| match s.ump.fw with
  | none => s
  | some f =>
    if f.phase ≠ 4 ∨ 50000 < pauseUs then s
    else { s with ump := { s.ump with fw := some { f with phase := 5, pause := max f.pause pauseUs }, acting := 1 - s.ump.acting } }
/-- FW_PHASE3_TIMEOUT: the pair restarts on the old firmware and takes control back; the bank stays (R438; 19 R490). -/
def execFwPhase3Timeout (s : State) : Host.Outcome State Fault Refusal :=
  .next <| match s.ump.fw with
  | none => s
  | some f =>
    if f.phase ≠ 3 then s
    else
      let s1 := { s with ump := { s.ump with fw := none, acting := 1 - s.ump.acting, standby := 2 } }
      s1.answerFw f.req E_FW_HANDOVER 3 f.pause f.oldVer f.newVer
/-- The key slots that a bundle revokes: the bundle format does not name them (a free value), and its own slot is none (R493). -/
def State.revokes (s : State) (b : List Byte) (i : Nat) : List Nat :=
  (List.range 4).filter (fun k => decide (s.fv i / 2 ^ k % 2 = 1) && decide (i ≠ 0 ∨ k ≠ leAt b 18 1))
/-- FW_STANDBY_READY: phase 5; the standby is ready, the bank switches, the counter rises, revocations apply, and the update is
answered (19 R490, R491, R493). -/
def execFwStandbyReady (s : State) : Host.Outcome State Fault Refusal :=
  .next <| match s.ump.fw with
  | none => s
  | some f =>
    if f.phase ≠ 5 then s
    else
      let k := leAt f.image 12 1
      let s1 := { s with
        ump := { s.ump with fw := none, standby := 2 }
        sec := { s.sec with
          bank := !s.sec.bank
          fuses := AMap.setD s.sec.fuses 0 k (max (s.fuse k) (leAt f.image 13 1))
          fwRevoked := (s.sec.fwRevoked ++ s.revokes f.image 0).eraseDups
          dbgRevoked := (s.sec.dbgRevoked ++ s.revokes f.image 1).eraseDups } }
      ((s1.drawn.runBundle f.image)).answerFw f.req 0 5 f.pause f.oldVer f.newVer

/-! Failover (16 R414; 20 R503, R505, R506). -/

/-- The die of a pair's hub: 0 hub 0, 1 hub 2. -/
def hubOfPair (p : Nat) : Nat := 1024 + 2 * p
/-- A record of an umpire pair. -/
def pairRec (p sev action : Nat) : FRec := { FRec.mk0 E_UMP_FAULT sev (ident 2 (hubOfPair p)) with action := action }
/-- A pair retired until the next start-up (R506). -/
def State.retirePair (s : State) (p : Nat) : State :=
  ({ s with
    ump := { s.ump with restoring := false }
    flt := { s.flt with pairsRetired := min 2 (s.flt.pairsRetired + 1) } }).raise (pairRec p 2 6)
/-- Every record of a unit that is not taken in, taken in (at most `fuel`). -/
def State.takeAll (s : State) (u : Nat) : Nat → State
  | 0 => s
  | n + 1 => match s.takeUnit u with
    | none => s
    | some t => t.takeAll u n
/-- Every unit's records taken in. -/
def State.takeUnits (s : State) : State := (s.flt.units.map (·.1)).foldl (fun s u => s.takeAll u 64) s

/-- The other pair acting, the failed one to be restored. -/
def State.promote (s : State) : State := { s with ump := { s.ump with
  acting := 1 - s.ump.acting, standby := 0, failovers := s.ump.failovers + 1, restoring := true
  trialFailover := s.ump.trialFailover || s.ump.trial.isSome
  failTicks := AMap.insert s.ump.failTicks s.ump.acting s.counter.toNat } }
/-- Whether the acting pair failed within the last 24 hours. -/
def State.failedBefore (s : State) : Bool :=
  match AMap.find? s.ump.failTicks s.ump.acting with | some t => decide (s.counter.toNat < t + 86400 * tickS) | none => false

/-- UMPIRE_FAILOVER: the ready standby becomes the acting umpire; its first act is to take in every record (R503). A pair that fails
a second time within 24 hours is retired, another is restored (R506). -/
def execUmpireFailover (s : State) : Host.Outcome State Fault Refusal :=
  if s.ump.standby ≠ 2 then .fault .noActingUmpire
  else
    let s1 := s.promote.takeUnits.raise (pairRec s.ump.acting 2 4)
    .next (if s.failedBefore then s1.retirePair s.ump.acting else s1)

/-- STANDBY_RESTORE: the failed pair's self-check, which `pass` tells, then the current bundle under R488: it takes the journal, and
UMP_STATUS.standby shows 1, or it is retired; the next of these commands has it take the journal's end and be the ready standby (R506). -/
def execStandbyRestore (pass : Bool) (s : State) : Host.Outcome State Fault Refusal :=
  .next <|
    let p := 1 - s.ump.acting
    if !s.ump.restoring then s
    else if s.ump.standby = 0 ∧ pass ∧ s.bundleCode s.currentBank = 0 then { s with ump := { s.ump with standby := 1 } }
    else if s.ump.standby = 1 then
      ({ s with ump := { s.ump with standby := 2, restoring := false } }).raise (pairRec p 0 5)
    else s.retirePair p

/-! Housekeeping (16 R440). -/

/-- What a task does. Scheduling a digest pass and reporting scrub change no state of their own. -/
def State.keepHouse (s : State) (k : HkKind) : State :=
  match k with
  | .compaction => s.compact
  | .levelling => (List.range 24).foldl State.level s
  | .digest => s
  | .scrubReport => s
/-- Whether a task that has been pending since a tick may run: no LC request waits, and no BE request unless it has waited 30 s. -/
def State.taskTurn (s : State) (since : Nat) : Bool :=
  (s.nextOf true s.ump.rrLc).isNone &&
  (decide (since + 30 * tickS ≤ s.counter.toNat) || (s.nextOf false s.ump.rrBe).isNone)
/-- HOUSEKEEPING_TASK: a task runs when its turn comes; one whose turn it is not is pending from then on. -/
def execHousekeepingTask (kind : HkKind) (s : State) : Host.Outcome State Fault Refusal :=
  .next <|
    let now := s.counter.toNat
    let since := ((s.ump.tasks.find? (fun t => decide (t.1 = kind))).map (·.2)).getD now
    let others := s.ump.tasks.filter (fun t => decide (t.1 ≠ kind))
    if s.taskTurn since then ({ s with ump := { s.ump with tasks := others } }).keepHouse kind
    else { s with ump := { s.ump with tasks := others ++ [(kind, since)] } }

end Sys2Proof.Machine
end

