-- ==== Sys2Proof/Machine/Memory.lean ====
section
/-! DEFINITION. Patrol scrub, counting hours and map-outs (10 R253 to R257, R263 to R271). -/
namespace Sys2Proof.Machine

/-! What the registers and messages show. -/

/-- Live channels as MEM_CAP shows them: a map-out in progress counts at its last step (R264). -/
def State.shownLive (s : State) : Nat := s.liveChannels + (match s.mem.mapout with | some m => b2n (decide (2 ≤ m.step)) | none => 0)
/-- Vacated levels as MEM_CAP shows them. -/
def State.shownVacated (s : State) : Nat := 512 - s.shownLive
/-- Buckets homed on a channel. -/
def State.homesOn (s : State) (c : Nat) : Nat :=
  8 - (s.mem.homes.filter (fun e => decide (e.1 % 512 = c))).length + (s.mem.homes.filter (fun e => decide (e.2 = c))).length

/-! Patrol scrub (R256, R257). -/

/-- A codeword upset: its stored word differs from a fresh encoding by one mask more. -/
def State.upset (s : State) (w : Nat) (f : BitVec 72) : State :=
  { s with mem := { s.mem with flips := AMap.setD s.mem.flips 0 w (AMap.getD s.mem.flips 0 w ^^^ f) } }
/-- Whether a word lies in a live slot of a channel. -/
def State.wordOn (s : State) (c w : Nat) : Bool :=
  match s.slotOf (bucketOf (8 * w)) (levelOf (8 * w)) with | some e => decide (e.chan = c) | none => false
/-- The words of a channel that are not fresh codewords, read in ascending channel-local address (R256). -/
def State.sweepWords (s : State) (c : Nat) : List Nat :=
  let mine := (s.mem.flips.map (·.1)).filter (s.wordOn c)
  let key (w : Nat) : Nat := match s.slotOf (bucketOf (8 * w)) (levelOf (8 * w)) with | some e => localAddr e (8 * w) | none => 0
  (mine.foldl (fun m w => AMap.insert m (key w) w) ([] : AMap Nat)).map (·.2)

/-- One sweep of a channel. -/
def State.sweepChan (s : State) (c : Nat) : State :=
  ((s.sweepWords c).foldl (fun s w => (s.touch 0 0xFFFF w).1) s).modChan c (fun x => { x with swept := true })
/-- A sweep counted once every channel that is not mapped out has swept. -/
def State.countSweep (s : State) : State :=
  if (List.range 512).all (fun c => (s.chan c).swept || decide ((s.chan c).st = 3)) then
    { s with mem := { s.mem with
      sweeps := s.mem.sweeps + 1
      chans := s.mem.chans.map (fun e => (e.1, { e.2 with swept := false })) } }
  else s
/-- What has upset stored words of a channel. -/
def State.upsetAll (s : State) (c : Nat) (upsets : List (Nat × BitVec 72)) : State :=
  (upsets.filter (fun e => decide (e.1 < 2 ^ 38) && s.wordOn c e.1)).foldl (fun s e => s.upset e.1 e.2) s

/-- PATROL_SCRUB: what has upset stored words of the channel since its last sweep, and, where scrub is on, one whole sweep: words
are corrected, uncorrectable ones recorded without failing a job. When every live channel has swept, the sweep counts (R257). -/
def execPatrolScrub (chan : Nat) (upsets : List (Nat × BitVec 72)) (s : State) : Host.Outcome State Fault Refusal :=
  .next <|
    if 512 ≤ chan then s
    else
      let s1 := s.upsetAll chan upsets
      if !s1.mem.scrubOn ∨ (s1.chan chan).st = 3 then s1 else (s1.sweepChan chan).countSweep

/-- COUNTING_HOUR: each channel's counts for the trigger return to zero (R263). -/
def execCountingHour (s : State) : Host.Outcome State Fault Refusal :=
  .next { s with mem := { s.mem with chans := s.mem.chans.map (fun e => (e.1, { e.2 with ceHour := 0, ueHour := 0 })) } }

/-! Map-outs (R263, R264). -/

/-- Why a map-out of a channel is refused; 0 where it may start. -/
def State.mapoutCode (s : State) (c : Nat) : Code :=
  if 511 < c ∨ (s.chan c).st ≠ 0 then E_MAP_STATE
  else if s.mem.mapout.isSome then E_MAP_BUSY
  else if s.liveChannels - 1 < max s.mem.floor.toNat 256 then E_MAP_FLOOR
  else 0
/-- The record of a refused map-out. -/
def State.mapoutRecord (s : State) (c : Nat) (code : Code) (sev : Nat) : State :=
  s.raise (FRec.mk0 code sev (ident 2 (if c < 512 then dieOfChannel c else 1024)))
/-- A map-out begins: the channel is vacating. -/
def State.startMapout (s : State) (c : Nat) (req : Option Req) : State :=
  let s1 := s.modChan c (fun x => { x with st := 1 })
  { s1 with mem := { s1.mem with mapout := some ⟨c, 1, 0, 0, req⟩, retry := s1.mem.retry.filter (· ≠ c) } }
/-- An automatic trigger: started, kept to be retried, or left (R263). -/
def State.autoMapout (s : State) (c : Nat) : State :=
  let code := s.mapoutCode c
  if code = 0 then s.startMapout c none
  else
    let s1 := s.mapoutRecord c code (if code = E_MAP_FLOOR then 2 else 0)
    { s1 with mem := { s1.mem with retry := if code = E_MAP_BUSY ∧ !s1.mem.retry.contains c then s1.mem.retry ++ [c]
        else if code = E_MAP_BUSY then s1.mem.retry else s1.mem.retry.filter (· ≠ c) } }

/-- MAPOUT_AUTO_TRIGGER: a channel past its limit of the counting hour. -/
def execMapoutAutoTrigger (chan : Nat) (s : State) : Host.Outcome State Fault Refusal :=
  .next <|
    let c := s.chan chan
    if !s.mem.auto ∨ 512 ≤ chan ∨ c.st ≠ 0 ∨ (c.ceHour ≤ s.mem.ceLimit.toNat ∧ c.ueHour < 16) then s
    else s.autoMapout chan

/-- The response of a map-out asked by message (R271). -/
def State.answerMapout (s : State) (m : MapOut) (code : Code) : State :=
  match m.req with
  | none => s
  | some r => s.answer r code (leBytes 2 s.shownLive ++ leBytes 4 m.slices ++ leBytes 4 m.ueMoved ++ leBytes 4 0)
/-- A map-out is over; every automatic trigger that met it is retried, in the order in which they came (R263). -/
def State.endMapout (s : State) : State :=
  s.mem.retry.foldl State.autoMapout { s with mem := { s.mem with mapout := none, retry := [] } }

/-- Data that lies in the stack addresses being vacated: units of 4 KiB. -/
def State.vacatingUnits (s : State) : Nat :=
  ((s.tier.regs.filter (fun e => decide (s.regionEnd ≤ e.1))).map (fun e => match e.2 with | .fresh _ => 64 | .pressed u => u.length)).sum

/-- MAPOUT_VACATE: step 1 of a map-out ends when nothing lies in the addresses being vacated and no accepted move needs them any more (R268),
or fails where the data there has no room elsewhere (R264; 11 R286); the blocks move by BLOCK_RELOCATION. -/
def execMapoutVacate (s : State) : Host.Outcome State Fault Refusal :=
  .next <| match s.mem.mapout with
  | none => s
  | some m =>
    if m.step ≠ 1 then s
    else if s.vacatingUnits = 0 then
      if !s.fits (s.reserved 0) (s.reserved 1) then s else
      let s1 := s.modChan m.chan (fun x => { x with st := 2 })
      { s1 with mem := { s1.mem with
        mapout := some { m with step := 2 }
        vacated := s1.mem.vacated + 1
        slots := s1.mem.slots.filter (fun e => decide (e.1 % 512 < 511 - s1.mem.vacated)) } }
    else if 64 * s.freeRegions + s.freeChunks < s.vacatingUnits then
      let s1 := (s.modChan m.chan (fun x => { x with st := 0 })).endMapout
      s1.answerMapout m E_TIER_NOROOM
    else s

/-- The lowest live slice (512 × bucket + level) whose slot lies on a channel. -/
def State.sliceOn (s : State) (c : Nat) : Option Nat :=
  let levels := 512 - s.mem.vacated
  let own := ((List.range 8).map (fun f => c + 512 * f)).findSome? (fun b =>
    ((List.range levels).find? (fun l => (AMap.find? s.mem.slots (512 * b + l)).isNone)).map (fun l => 512 * b + l))
  let far := (List.find? (fun e => decide (e.2.chan = c)) s.mem.slots).map (·.1)
  match own, far with
  | some a, some b => some (min a b)
  | some a, none => some a
  | none, x => x
/-- The lowest free slot on a live channel other than `c`, by channel, frame and level. -/
def State.freeSlotBut (s : State) (c : Nat) : Option SlotEnt :=
  let taken := s.mem.slots.map (·.2)
  ((List.range 512).filter (fun x => decide (x ≠ c) && decide ((s.chan x).st = 0))).findSome? (fun x =>
    (List.range 8).findSome? (fun f =>
      ((List.range s.mem.vacated).map (512 - s.mem.vacated + ·)).findSome? (fun l =>
        if taken.contains ⟨x, f, l⟩ then none else some ⟨x, f, l⟩)))

/-- The words of a slice read for its move: what is corrected and recorded, and how many words are uncorrectable (R266). -/
def State.readSlice (s : State) (k : Nat) : State × Nat :=
  ((s.mem.flips.map (·.1)).filter (fun w => decide (512 * bucketOf (8 * w) + levelOf (8 * w) = k))).foldl
    (fun (r : State × Nat) w => let t := r.1.touch 0 0xFFFF w; (t.1, r.2 + b2n (!t.2))) (s, 0)

/-- SLICE_MOVE: step 2 moves the next slice off the channel: correctable words are corrected, uncorrectable ones move raw and are
recorded (R264 to R266). After the last one step 3 begins. -/
def execSliceMove (s : State) : Host.Outcome State Fault Refusal :=
  .next <| match s.mem.mapout with
  | none => s
  | some m =>
    if m.step ≠ 2 then s
    else match s.sliceOn m.chan, s.freeSlotBut m.chan with
      | some k, some e =>
        let r := s.readSlice k
        let s1 := { r.1 with mem := { r.1.mem with slots := AMap.insert r.1.mem.slots k e } }
        let next := if (s1.sliceOn m.chan).isNone then 3 else 2
        { s1 with mem := { s1.mem with mapout := some { m with step := next, slices := m.slices + 1, ueMoved := m.ueMoved + r.2 } } }
      | _, _ => s

/-- The lowest bucket homed on a channel. -/
def State.bucketHomedOn (s : State) (c : Nat) : Option Nat :=
  let own := ((List.range 8).map (fun f => c + 512 * f)).find? (fun b => (AMap.find? s.mem.homes b).isNone)
  let far := (List.find? (fun e => decide (e.2 = c)) s.mem.homes).map (·.1)
  match own, far with
  | some a, some b => some (min a b)
  | some a, none => some a
  | none, x => x
/-- The live channel other than `c` with the fewest home buckets, the lowest on a tie. -/
def State.newHome (s : State) (c : Nat) : Option Nat :=
  ((List.range 512).filter (fun x => decide (x ≠ c) && decide ((s.chan x).st = 0))).foldl (fun (m : Option Nat) x => match m with
    | none => some x
    | some y => if s.homesOn x < s.homesOn y then some x else some y) none

/-- BUCKET_REHOME: step 3 gives the next bucket homed on the channel a new home in every table copy (R264, R267). -/
def execBucketRehome (s : State) : Host.Outcome State Fault Refusal :=
  .next <| match s.mem.mapout with
  | none => s
  | some m =>
    if m.step ≠ 3 then s
    else match s.bucketHomedOn m.chan, s.newHome m.chan with
      | some b, some h => { s with mem := { s.mem with homes := AMap.setD s.mem.homes (b % 512) b h } }
      | _, _ => s

/-- MAPOUT_COMPLETE: step 4: the channel is mapped out (R264; 20 R505). -/
def execMapoutComplete (s : State) : Host.Outcome State Fault Refusal :=
  .next <| match s.mem.mapout with
  | none => s
  | some m =>
    if m.step ≠ 3 ∨ (s.bucketHomedOn m.chan).isSome then s
    else
      let s1 := s.modChan m.chan (fun x => { x with st := 3 })
      let s2 := s1.raise { FRec.mk0 E_MEM_MAPOUT 0 (ident 2 (dieOfChannel m.chan)) with action := 3 }
      let s3 := { s2 with mem := { s2.mem with mapout := none } }
      (s3.answerMapout m 0).endMapout

/-! Messages (R270, R271). -/

/-- MSG_MEM_QUERY. -/
def execMsgMemQuery (mbx : Nat) (s : State) : Host.Outcome State Fault Refusal :=
  .next (serve 0x0660 mbx (fun r s =>
    let c := r.fld 0 2
    let body (st homes ce ue : Nat) : List Byte :=
      [BitVec.ofNat 8 st, 0] ++ leBytes 2 s.shownLive ++ leBytes 2 homes ++ leBytes 4 ce ++ leBytes 4 ue ++
        leBytes 4 s.mem.sweeps.toNat ++ leBytes 4 0
    if c = 0xFFFF then
      s.answer r 0 (body 0 0 (s.mem.chans.map (fun e => e.2.ceHour)).sum (s.mem.chans.map (fun e => e.2.ue)).sum)
    else if 511 < c then s.refuse r E_MAP_STATE 22
    else s.answer r 0 (body (s.chan c).st (s.homesOn c) (s.chan c).ceHour (s.chan c).ue)) s)

/-- MSG_CHAN_MAPOUT: its response follows the end of the map-out. -/
def execMsgChanMapout (mbx : Nat) (s : State) : Host.Outcome State Fault Refusal :=
  .next (serve 0x0661 mbx (fun r s =>
    let c := r.fld 0 2
    let code := s.mapoutCode c
    if code = 0 then s.startMapout c (some r)
    else (s.mapoutRecord c code 1).answer r code (leBytes 2 s.shownLive ++ leBytes 12 0)) s)

end Sys2Proof.Machine
end

