-- ==== Sys2Proof/Machine/Repair.lean ====
section
/-! DEFINITION. Core failures and repair (02 R62, R63; 07 R194; 20 R504, R505). -/
namespace Sys2Proof.Machine

/-- Whether a slot of a playbook has a tile on a logical core. -/
def State.slotTouches (s : State) (b : Playbook) (k core : Nat) : Bool :=
  b.plan.recs.any (fun r => (r.ranks k).any (fun i => decide ((s.court b.court).coreAt i = some core)))
/-- Every resident stream with a tile on a logical core is lost (07 R194). -/
def State.loseStreams (s : State) (core : Nat) : State :=
  { s with sch := { s.sch with seqs := s.sch.seqs.map (fun e =>
      let hit := match AMap.find? s.book.books e.2.playbook, e.2.stream.slot with
        | some b, some k => s.slotTouches b k core
        | _, _ => false
      (e.1, if e.2.hasStream && decide (e.2.stream.st = .resident) && hit then
          { e.2 with stream := { e.2.stream with st := .lost } }
        else e.2)) } }

/-- Whether a step has work in flight on a cluster: a run on one of its cores, an open core block there, or, where `queued` says
so, a run queued for it. -/
def State.inFlightOn (s : State) (t : Step) (cl : Nat) (queued : Bool) : Bool :=
  s.cores.any (fun e => decide (e.1 / 26 = cl) && (match e.2.now.run with | some r => r.of t | none => false)) ||
  s.sch.openBlk.any (fun e => decide (e.1 / 25 = cl) && t.same e.2.1 e.2.2.1) ||
  (queued && s.sch.queue.any (fun r => decide (r.core / 25 = cl) && r.of t))
/-- The steps with work in flight on a cluster end with E_CORE_FAILED (02 R63, 20 R504). -/
def State.failSteps (s : State) (cl : Nat) (queued : Bool) : State :=
  s.sch.steps.foldl (fun s t => if s.inFlightOn t cl queued then s.failStep t E_CORE_FAILED none (ident 1 cl) else s) s
/-- The contents of a failed core are gone, its run with them (02 R63); what it has done is charged (14 R377). -/
def State.dropCore (s : State) (p : Nat) : State :=
  let s0 := match (s.core p).now.run with | some r => s.chargeRun p r | none => s.chargeWork p 1024
  let s1 := { s0 with cores := AMap.erase s0.cores p }
  match (s.core p).now.run with
  | none => s1
  | some r => match s1.sch.steps.find? (fun t => r.of t) with
    | none => s1
    | some t => s1.putStep { t with left := t.left - 1, done := t.done || decide (t.status ≠ 0 ∧ t.left ≤ 1) }
/-- Update steps that run in the court of a die fail; how many writes their runs had made is a free value (13 R348; log entry 2). -/
def State.tearPlans (s : State) (die : Nat) : State :=
  let hit (p : UpdPlan) : Bool := decide (s.courtOfDie die = some p.court) && p.running.isSome && p.failed.isNone
  let ps : AMap UpdPlan := s.upd.plans.map (fun e => (e.1, if hit e.2 then { e.2 with failed := some (s.fv e.1) } else e.2))
  State.drawn { s with upd := { s.upd with plans := ps } }

/-- Table loads of the court of a die answered, where they waited for the failed core alone (06 R171). -/
def State.answerTables (s : State) (die : Nat) : State :=
  match s.courtOfDie die with | some k => s.tabAnswers k | none => s
/-- A core is declared failed (R504). A first failure waits for its remap; a spare that fails unused uses up the budget; a second
failure leaves the position unusable and the cluster degraded (R505). -/
def State.declareFailed (s : State) (p : Nat) : State :=
  let cl := p / 26
  let pos := p % 26
  let c := s.clu cl
  if 26000 ≤ p ∨ c.failed.contains pos then s
  else
    let idle := decide (pos = 25) && !c.spareUsed
    let second := if idle then c.failed ≠ [] else (c.failed.contains 25 ∨ c.spareUsed ∨ c.failed ≠ [])
    let lost := s.logicalOf p
    let s1 := s.modClu cl (fun c => { c with failed := c.failed ++ [pos], degraded := c.degraded || decide second })
    let s2 := if idle && !decide second then s1 else s1.failSteps cl (decide second)
    let s3 := s2.dropCore p
    let s4 := match lost with | some k => ((s3.loseStreams k).tearPlans (k / 625)).answerTables (k / 625) | none => s3
    if second then s4.raise { FRec.mk0 E_CLU_DEGRADED 2 (ident 1 cl) with action := 2 }
    else if idle then s4.raise (FRec.mk0 E_CORE_FAILED 0 (ident 1 cl))
    else s4

/-- CORE_FAIL_DECLARE. -/
def execCoreFailDeclare (phys : Nat) (s : State) : Host.Outcome State Fault Refusal := .next (s.declareFailed phys).mark
/-- CORE_ANSWER_TIMEOUT: a core that does not answer its coach for 1 ms is declared failed. -/
def execCoreAnswerTimeout (phys : Nat) (s : State) : Host.Outcome State Fault Refusal := .next (s.declareFailed phys).mark
/-- Upsets of stored words of the core at `p` (store 0 to 2 as in CoreRegs.flips) or of its cluster's staging buffer (3). -/
def State.upsetStores (s : State) (p : Nat) (us : List (Nat × Nat × BitVec 72)) : State :=
  us.foldl (fun s u =>
    if u.1 = 3 then
      if u.2.1 < 524288 then s.modClu (p / 26) (fun c => { c with
        flips := AMap.setD c.flips 0 u.2.1 (AMap.getD c.flips 0 u.2.1 ^^^ u.2.2) }) else s
    else if u.2.1 < (if u.1 = 0 then 4096 else if u.1 = 1 then 49152 else 24576) then
      s.modCore p (fun c => c.upset (min u.1 2) u.2.1 u.2.2)
    else s) s
/-- CORE_STORE_TEST: what has upset stored words of the core (and of its cluster's staging buffer) since the last test, and, of a core that
has stopped with E_CORE_ECC, the test itself: every word of its stores is read; where one is uncorrectable the core is declared failed (02
R37; 20 R504; log entry 27). -/
def execCoreStoreTest (phys : Nat) (upsets : List (Nat × Nat × BitVec 72)) (s : State) : Host.Outcome State Fault Refusal :=
  .next <|
    if 26000 ≤ phys ∨ (s.clu (phys / 26)).failed.contains (phys % 26) then s
    else
      let s1 := s.upsetStores phys upsets
      let c := (s1.core phys).now
      if c.st = .fault ∧ c.fault = E_CORE_ECC then
        match c.readAll with
        | none => (s1.declareFailed phys).mark
        | some d => s1.setCore phys ⟨d, d⟩
      else s1

/-- The culture tables a core receives: every slot of its court (06 R172). -/
def State.courtTables (s : State) (court : Nat) : AMap TabSlot :=
  (List.range 8).filterMap (fun k => match AMap.find? s.book.tables (8 * court + k) with
    | some (_, t) => some (k, ⟨some t, none, false, false⟩)
    | none => none)
/-- The instruction store of a spare at its remap: the cluster's kernel image as its staging buffer holds it, as far as the store reaches
(R62; DESIGN CHOICE, log entry 79: which part of an image longer than the store is not said). -/
def State.imageStore (s : State) (court cluster : Nat) : Mem :=
  let n := (s.kernelImage court).length
  let top := 4194304 - stgReserveBytes (s.court court).stgReserve
  Mem.wrBytes [] 0 (Mem.rdBytes (s.clu cluster).staging (top - n) (min n 32768))
/-- The failed position of a cluster is the spare's from now on, with the tables of its court and the cluster's kernel image; its other
stores are clear (R62; 07 R194). -/
def State.remapSpare (s : State) (cluster : Nat) : State :=
  let c := s.clu cluster
  match c.failed with
  | [pos] =>
    if 1000 ≤ cluster ∨ c.spareUsed ∨ pos = 25 then s
    else
      let p := 26 * cluster + 25
      let t : CoreRegs := match s.courtOfDie (cluster / 25) with
        | some k => { CoreRegs.reset with tabs := s.courtTables k, istore := s.imageStore k cluster }
        | none => CoreRegs.reset
      let s1 := (s.setCore p ⟨t, t⟩).modClu cluster (fun c => { c with spareUsed := true, sparePos := pos })
      s1.raise { FRec.mk0 E_CORE_FAILED 1 (ident 1 cluster) with action := 1, d0 := 0 }
  | _ => s
/-- SPARE_REMAP. -/
def execSpareRemap (cluster : Nat) (s : State) : Host.Outcome State Fault Refusal := .next (s.remapSpare cluster).mark

end Sys2Proof.Machine
end

