-- ==== Sys2Proof/Machine/Ring.lean ====
section
/-! DEFINITION. The module ring: flits received, rails, membership, ring huddles, the relay interface, field ports (17 R448 to R463). -/
namespace Sys2Proof.Machine

/-! What the ring shows (R461, R462). -/

/-- Bit n for each member at position n. -/
def State.memberMask (s : State) : Nat := (s.positions.map (fun p => 2 ^ p)).sum
def State.railCount (s : State) : Nat := s.railsUp.length
/-- The first bytes of the digest of this module's identity public key. -/
def ownDigest : List Byte := (sha3 Config.identityKey).take 4
/-- MSG_RING_EVENT on every management mailbox. -/
def State.ringEvent (s : State) (reason pos rail : Nat) : State :=
  s.eventMgmt 0x0903 0xFFFF (leBytes 1 reason ++ leBytes 1 pos ++ leBytes 1 rail ++ leBytes 1 0 ++ leBytes 2 s.memberMask ++ leBytes 2 0 ++
    leBytes 8 s.counter.toNat)

/-- MSG_RING_QUERY (R461). -/
def execMsgRingQuery (mbx : Nat) (s : State) : Host.Outcome State Fault Refusal :=
  .next (serve 0x0900 mbx (fun r s =>
    s.answer r 0 (leBytes 1 (b2n s.ring.member) ++ leBytes 1 (if s.ring.member then s.ring.position else 0xFF) ++
      leBytes 2 s.memberMask ++ leBytes 1 s.railCount ++ leBytes 9 0 ++
      (List.range 16).flatMap (fun n => match AMap.find? s.ring.members n with
        | none => leBytes 8 0
        | some (rails, dig) => leBytes 1 1 ++ leBytes 1 (if n = s.ring.position then s.railCount else rails) ++ leBytes 2 0 ++ bytesAt dig 0 4))) s)

/-! Bypasses and roles (R444, R451). -/

/-- A rail's bypass opens: its transceivers begin to train. -/
def State.openRail (s : State) (k : Nat) : State :=
  let s1 := { s with ring := { s.ring with opened := k :: s.ring.opened.filter (· ≠ k) } }
  (s1.setLink (upPort k) ((s1.link (upPort k)).retrain)).setLink (downPort k) ((s1.link (downPort k)).retrain)
/-- A rail's bypass closes: its transceivers are cut off. -/
def State.closeRail (s : State) (k : Nat) : State :=
  let s1 := { s with ring := { s.ring with opened := s.ring.opened.filter (· ≠ k) } }
  (s1.setLink (upPort k) ((s1.link (upPort k)).cut 0)).setLink (downPort k) ((s1.link (downPort k)).cut 0)
/-- Every ring-role rail closed. -/
def State.closeRing (s : State) : State := s.ringRails.foldl State.closeRail s

/-- BYPASS_POWER_LOSS (R451). -/
def execBypassPowerLoss (s : State) : Host.Outcome State Fault Refusal := .next ((List.range 16).foldl State.closeRail s)

/-- MSG_PORT_ROLE (R444): ring and field roles of a rail port hold for both ports of the rail; a link whose role changes goes down. -/
def execMsgPortRole (mbx : Nat) (s : State) : Host.Outcome State Fault Refusal :=
  .next (serve 0x0904 mbx (fun r s =>
    let port := r.fld 0 1
    let role := r.fld 1 1
    let done (s : State) (code : Code) : State := s.answer r code (leBytes 1 (if port < 48 then s.roleOf port else 0) ++ leBytes 5 0)
    if 47 < port ∨ 3 < role ∨ (role = 1 ∧ !isRailPort port) then done s E_PORT_ROLE
    else if s.roleOf port = role then done s 0
    else if isRailPort port ∧ (s.ring.member ∨ s.ring.joining.isSome) then done s E_RING_STATE
    else
      let k := railOf port
      let ports := if !isRailPort port then [port]
        else if role = 0 ∧ s.roleOf port ≠ 1 then [port]
        else [upPort k, downPort k]
      let s1 := ports.foldl (fun s p => (s.setRole p role).setLink p ((s.link p).cut 0)) s
      let s2 := if !isRailPort port then s1
        else if 2 ≤ s1.roleOf (upPort k) ∨ 2 ≤ s1.roleOf (downPort k) then
          { s1 with ring := { s1.ring with opened := k :: s1.ring.opened.filter (· ≠ k) } }
        else { s1 with ring := { s1.ring with opened := s1.ring.opened.filter (· ≠ k) } }
      done s2 0) s)

/-! Losses and leaves (R454). -/

/-- Whether a flit has an end at a position. -/
def Flit.ends (f : Flit) (p : Nat) : Bool := decide (f.src = p) || decide (f.dst = p)
/-- Every ring link retrains, its seq reset; flits of a departed member are dropped. -/
def State.retrainAll (s : State) (p : Nat) : State :=
  s.railsUp.foldl (fun s k => [upPort k, downPort k].foldl (fun s q =>
    let l := (s.link q).retrain
    s.setLink q { l with waiting := l.waiting.filter (fun f => !f.ends p) }) s) s
/-- The highest split across the ring that a step's playbook has. -/
def State.stepUnits (s : State) (t : Step) : Nat := match AMap.find? s.book.books t.playbook with
  | some b => (b.plan.layers.map (fun l => splitCount (l.level 4))).foldl max 1
  | none => 1
/-- A member is gone: its transfers end with E_RING_LOST, as do the steps it was a unit of; a record says so where a transfer is lost
(20 R502, R505). -/
def State.dropMember (s : State) (p : Nat) : State :=
  let hit (x : RTransfer) : Bool := decide (x.src = p) || decide (x.dst = p)
  let lost := s.ring.transfers.any hit
  let hurt := s.sch.steps.filter (fun t => decide (1 < s.stepUnits t) && (s.positions.take (s.stepUnits t)).contains p)
  let s1 := { s with ring := { s.ring with members := AMap.erase s.ring.members p, transfers := s.ring.transfers.filter (fun x => !hit x) } }
  let s2 := hurt.foldl (fun s t => s.failStep t E_RING_LOST none (ident 2 1024)) s1
  let s3 := if lost then s2.raise { FRec.mk0 E_RING_LOST 1 (ident 2 1024) with action := 8 } else s2
  s3.retrainAll p

/-- A member that is lost (R454). -/
def State.loseMember (s : State) (p : Nat) : State := (s.dropMember p).ringEvent 2 p 0xFF
/-- MEMBER_LOSS. -/
def execMemberLoss (pos : Nat) (s : State) : Host.Outcome State Fault Refusal :=
  .next (if !s.ring.member ∨ pos = s.ring.position ∨ (AMap.find? s.ring.members pos).isNone then s
    else (s.loseMember pos).mark)

/-! Flits received (R446 to R449). -/

/-- The bytes that a received transfer's flit lands in an object; elsewhere they are kept until the transfer is complete. -/
def State.landFlit (s : State) (x : RTransfer) (i : Nat) (data : List Byte) : State × RTransfer :=
  let y := { x with got := if x.got.contains i then x.got else i :: x.got }
  if x.kind = 0 then ((s.objWrite (umpAccess 0xFFFF) (x.addr + 236 * i) data).1, y)
  else (s, { y with buf := Mem.wrBytes y.buf (236 * i) data })
/-- A received transfer by sender and tag. -/
def State.inbound (s : State) (src tag : Nat) : Option RTransfer :=
  s.ring.transfers.find? (fun x => !x.sent && decide (x.src = src) && decide (x.tag = tag))
def State.putInbound (s : State) (y : RTransfer) : State :=
  let rest := s.ring.transfers.filter (fun x => x.sent || decide (x.src ≠ y.src) || decide (x.tag ≠ y.tag))
  { s with ring := { s.ring with transfers := rest ++ [y] } }
/-- A data flit for this module; one that comes before its set-up waits for it (kind 9). -/
def State.landData (s : State) (f : Flit) : State :=
  let x := (s.inbound f.src f.tag).getD ⟨false, f.tag, f.src, f.dst, 9, 0, 0, 0, 0, [], []⟩
  let r := s.landFlit x f.index f.data
  r.1.putInbound r.2
/-- A set-up: the destination and the length are known; what came before it lands. -/
def State.setUp (s : State) (f : Flit) (kind : Nat) : State :=
  let d := f.data
  let old := s.inbound f.src f.tag
  let x : RTransfer := ⟨false, f.tag, f.src, f.dst, kind, leAt d 1 1, leAt d 8 8, leAt d 4 4, leAt d 16 8, [], []⟩
  match old with
  | none => s.putInbound x
  | some y =>
    let r := y.got.foldl (fun (a : State × RTransfer) i =>
      a.1.landFlit a.2 i (Mem.rdBytes y.buf (236 * i) (min 236 (x.len - 236 * i)))) (s, x)
    r.1.putInbound r.2

/-- A flit goes on in its direction, on the rail it came on where that is up. -/
def State.forward (s : State) (rail : Nat) (down : Bool) (f : Flit) : State :=
  if s.railsUp.contains rail then
    s.pushFlit (if down then downPort rail else upPort rail) { f with dateline := f.dateline || (down && s.atDateline) }
  else s.emit down f

/-- A control flit that every member hears: a discovery gains this member's entry, an announcement its sender, a departure takes its
sender away. -/
def State.hear (s : State) (rail : Nat) (down : Bool) (f : Flit) (kind : Nat) : State :=
  let p := leAt f.data 1 1
  if kind = 5 then
    let more := f.data.take 2 ++ leBytes 2 (leAt f.data 2 2 + 1) ++ f.data.drop 4 ++ leBytes 1 s.ring.position ++ leBytes 3 0 ++ ownDigest
    s.forward rail down (if s.ring.member then { f with data := more } else f)
  else if !s.ring.member then s.forward rail down f
  else if p = s.ring.position then s
  else if kind = 6 then
    let s1 := { s with ring := { s.ring with members := AMap.insert s.ring.members p (leAt f.data 4 4, bytesAt f.data 28 4) } }
    (s1.forward rail down f).ringEvent 0 p 0xFF
  else ((s.forward rail down f).dropMember p).ringEvent 1 p 0xFF

/-- A flit accepted in order: landed, acted on, or forwarded on the same VC. -/
def State.acceptFlit (s : State) (rail : Nat) (down : Bool) (f : Flit) : State :=
  let kind := leAt f.data 0 1
  let mine := s.ring.member && decide (f.dst = s.ring.position)
  if f.ty = 2 ∧ 5 ≤ kind then
    if s.ring.joining.isSome ∧ kind = 5 then s else s.hear rail down f kind
  else if !mine then s.forward rail down f
  else if f.ty = 1 then s.landData f
  else if kind ≤ 3 then s.setUp f kind
  else { s with ring := { s.ring with transfers := s.ring.transfers.filter (fun x => !(x.sent && decide (x.tag = f.tag) && decide (x.dst = f.src))) } }

/-- A count that stays at 65,535. -/
def sat16 (n : Nat) : Nat := min 65535 n
/-- The data or control flit that 256 bytes spell, its type, VC and length legal. -/
def flitOf (b : List Byte) : Flit :=
  let h := leAt b 0 8
  let g := leAt b 8 8
  ⟨bitsOf h 3 0, bitsOf h 5 4, bitsOf h 9 6, bitsOf h 13 10, BitVec.ofNat 12 (bitsOf h 25 14), bitOf h 39, bitsOf g 31 0, bitsOf g 55 32,
    (b.drop 16).take (bitsOf g 63 56)⟩
/-- The ack, nak and credits of a flit's header. -/
def Link.feedback (l : Link) (b : List Byte) : Link × Nat :=
  let h := leAt b 0 8
  let l1 := (l.acked (BitVec.ofNat 12 (bitsOf h 37 26)))
  let l2 := if bitOf h 38 then { l1 with nakked := true } else l1
  (((l2.credit 0 (bitsOf h 45 40)).credit 1 (bitsOf h 51 46)).credit 2 (bitsOf h 57 52)).drain

/-- FLIT_RECEIVE: a flit of a ring port whose link is up: discarded with a nak where its CRC fails, the FEC gave it up, or it is not the
next in order; else accepted. A reserved type or VC is discarded likewise. -/
def execFlitReceive (port : Nat) (flit : List Byte) (fecBad : Bool) (s : State) : Host.Outcome State Fault Refusal :=
  .next <|
    let l := s.link port
    if 48 ≤ port ∨ !isRailPort port ∨ s.roleOf port ≠ 1 ∨ l.st ≠ 2 then s
    else
      let f := flitOf flit
      let drop (l : Link) : State := s.setLink port { l with nakDue := true }
      if fecBad then drop { l with fecBad := sat16 (l.fecBad + 1) }
      else if flit.length ≠ 256 ∨ crc32c (flit.take 252) ≠ leAt flit 252 4 ∨ 2 < f.ty ∨ f.vc = 3 ∨ 236 < leAt flit 15 1 then drop l
      else if f.ty = 0 then
        let r := l.feedback flit
        (s.setLink port r.1).countFlits r.2
      else if f.seq ≠ l.rxSeq + 1 then drop l
      else
        let r := ({ l with rxSeq := f.seq, nakDue := false }).feedback flit
        ((s.setLink port r.1).countFlits r.2).acceptFlit (railOf port) (decide (port % 12 < 4)) f

/-- FLIT_RESEND: every flit not acknowledged is sent again, and counted. -/
def execFlitResend (port : Nat) (s : State) : Host.Outcome State Fault Refusal :=
  .next <|
    let l := s.link port
    if !l.nakked then s
    else (s.setLink port { l with nakked := false, resent := sat16 (l.resent + l.replay.length) }).countFlits l.replay.length

/-- RING_TRANSFER_COMPLETE: every flit has landed: the bytes that were kept go where they belong, and a completion flit returns (R449).
Merge records wait for the step that holds their place (R457); a relay frame reaches its interface (R459). -/
def execRingTransferComplete (tag : Nat) (s : State) : Host.Outcome State Fault Refusal :=
  .next <| match s.ring.transfers.find? (fun x => !x.sent && decide (x.tag = tag) && decide (x.kind < 4) &&
      decide (x.got.length = ceilDiv x.len 236)) with
  | none => s
  | some x =>
    let bytes := Mem.rdBytes x.buf 0 x.len
    let placed : Option State :=
      if x.kind = 1 then
        let a := (s.huddleArea x.court).1 + x.addr
        match s.sch.steps.find? (fun t => decide (t.court = x.court) && (match AMap.find? t.merges x.layer with
            | some m => within a x.len m.1 m.2
            | none => false)) with
        | none => none
        | some t => some ((s.objWrite (umpAccess t.ctx) a bytes).1.putStep { t with mergeGot := t.mergeGot ++ [16 * x.layer + x.src] })
      else if x.kind = 2 then some { s with ring := { s.ring with relayRx := AMap.insert s.ring.relayRx x.court bytes } }
      else some s
    match placed with
    | none => s
    | some s1 =>
      let s2 := { s1 with ring := { s1.ring with transfers := s1.ring.transfers.filter (fun y => y.sent || decide (y.src ≠ x.src) || decide (y.tag ≠ tag)) } }
      s2.emit (s2.goesDown x.src) (s2.controlFlit x.src tag (controlBody 4 0 0 0 0 []))

/-! Rails (R450). -/

/-- RAIL_DOWN: the rail trains; flits not acknowledged go out on another rail to the same neighbour, or wait where there is none. -/
def execRailDown (rail : Nat) (s : State) : Host.Outcome State Fault Refusal :=
  .next <|
    if 16 ≤ rail ∨ ((s.link (upPort rail)).st ≠ 2 ∧ (s.link (downPort rail)).st ≠ 2) then s
    else
      let lu := s.link (upPort rail)
      let ld := s.link (downPort rail)
      let other := s.railsUp.any (fun k => decide (k ≠ rail))
      if other ∧ s.roleOf (upPort rail) = 1 then
        let down (l : Link) : Link := { l.cut 1 with resent := sat16 (l.resent + l.replay.length) }
        let s1 := (s.setLink (upPort rail) (down lu)).setLink (downPort rail) (down ld)
        let s2 := (lu.replay ++ lu.waiting).foldl (fun s f => s.emit false f) s1
        (ld.replay ++ ld.waiting).foldl (fun s f => s.emit true f) s2
      else (s.setLink (upPort rail) lu.retrain).setLink (downPort rail) ld.retrain

/-- While the module joins, its next ring rail opens once none trains; the last one settled, discovery goes out downstream on the lowest
rail that is up (R453). -/
def State.joinOn (s : State) : State :=
  match s.ring.joining with
  | none => s
  | some (_, want) =>
    if s.ringRails.any (fun k => decide ((s.link (upPort k)).st = 1)) then s
    else match s.ringRails.find? (fun k => !s.ring.opened.contains k) with
      | some k => s.openRail k
      | none => match s.railsUp with
        | [] => s
        | k :: _ => s.pushFlit (downPort k) ⟨2, 0, want % 16, want % 16, 0, false, 0, 0, controlBody 5 0 0 0 0 []⟩

/-- RAIL_UP: the rail has trained; its buffers are advertised, what waited goes out (R447, R450). -/
def execRailUp (rail : Nat) (s : State) : Host.Outcome State Fault Refusal :=
  .next <|
    let lu := s.link (upPort rail)
    if 16 ≤ rail ∨ !s.ring.opened.contains rail ∨ lu.st = 2 then s
    else
      let ru := lu.comeUp
      let rd := (s.link (downPort rail)).comeUp
      let s1 := ((s.setLink (upPort rail) ru.1).setLink (downPort rail) rd.1).countFlits (ru.2 + rd.2)
      if s.roleOf (upPort rail) ≠ 1 then s1
      else if s.ring.member then s1.ringEvent 4 s.ring.position rail
      else s1.joinOn

/-- The neighbours of this module in the ring. -/
def State.neighbours (s : State) : List Nat :=
  let ps := s.positions
  let i := ps.findIdx (fun p => decide (p = s.ring.position))
  let n := ps.length
  ([ps[(i + 1) % max 1 n]?, ps[(i + n - 1) % max 1 n]?].filterMap id).eraseDups.filter (fun p => decide (p ≠ s.ring.position))
/-- RAIL_RETRAIN_TIMEOUT: the rail is marked failed, and reported; what waited on it takes another rail. No rail is up or trains: the
neighbours count as lost (R450). -/
def execRailRetrainTimeout (rail : Nat) (s : State) : Host.Outcome State Fault Refusal :=
  .next <|
    let lu := s.link (upPort rail)
    if 16 ≤ rail ∨ lu.st ≠ 1 then s
    else
      let ld := s.link (downPort rail)
      let s1 := (s.setLink (upPort rail) { lu with st := 3, waiting := [] }).setLink (downPort rail) { ld with st := 3, waiting := [] }
      if s.roleOf (upPort rail) ≠ 1 then s1
      else if !s.ring.member then s1.joinOn
      else
        let s2 := ld.waiting.foldl (fun s f => s.emit true f) (lu.waiting.foldl (fun s f => s.emit false f) s1)
        let s3 := s2.ringEvent 3 s.ring.position rail
        if s3.railsFor = [] then (s3.neighbours.foldl State.loseMember s3).mark else s3

/-! Membership (R453, R454). -/

/-- MSG_RING_JOIN: its response follows the return of the discovery flit. -/
def execMsgRingJoin (mbx : Nat) (s : State) : Host.Outcome State Fault Refusal :=
  .next (serve 0x0901 mbx (fun r s =>
    let p := r.fld 0 1
    if s.ring.member ∨ s.ring.joining.isSome then s.refuse r E_RING_STATE 8
    else if 15 < p ∧ p ≠ 0xFF then s.refuse r E_RING_POSITION 8
    else ({ s with ring := { s.ring with joining := some (some r, p) } }).joinOn) s)

/-- A join that is turned down: the bypasses close again. -/
def State.failJoin (s : State) (req : Option Req) (code : Code) : State :=
  let s1 := ({ s with ring := { s.ring with joining := none } }).closeRing
  match req with
  | none => s1
  | some r => s1.refuse r code 8

/-- DISCOVERY_RETURN: the members the discovery flit found, and whether their ring rails are this module's. The module takes its
position, and announces itself. -/
def execDiscoveryReturn (members : List (Nat × List Byte)) (rolesOk : Bool) (s : State) : Host.Outcome State Fault Refusal :=
  .next <| match s.ring.joining with
  | none => s
  | some (req, want) =>
    let taken := members.map (·.1)
    if s.ringRails.any (fun k => decide ((s.link (upPort k)).st = 1) || !s.ring.opened.contains k) then s
    else
      let pos := if want = 0xFF then (List.range 16).find? (fun p => !taken.contains p) else if taken.contains want then none else some want
      match pos with
      | none => s.failJoin req E_RING_POSITION
      | some p =>
        if !rolesOk then s.failJoin req E_RING_STATE
        else
          let ms := (members.filter (fun m => decide (m.1 < 16))).foldl (fun (m : AMap (Nat × List Byte)) e =>
            AMap.insert m e.1 (s.railCount, bytesAt e.2 0 4)) []
          let s1 := { s with ring := { s.ring with
            member := true, position := p, recorded := some p, joining := none, members := AMap.insert ms p (s.railCount, ownDigest) } }
          let s2 := s1.emit true (s1.controlFlit p 0 (controlBody 6 p s1.railCount 0 0 [(p, ownDigest)]))
          let s3 := match req with
            | none => s2
            | some r => s2.answer r 0 (leBytes 1 p ++ leBytes 1 0 ++ leBytes 2 s2.memberMask ++ leBytes 1 s2.railCount ++ leBytes 3 0)
          s3.ringEvent 0 p 0xFF

/-- MSG_RING_LEAVE: new transfers are refused from here on. -/
def execMsgRingLeave (mbx : Nat) (s : State) : Host.Outcome State Fault Refusal :=
  .next (serve 0x0902 mbx (fun r s =>
    if !s.ring.member ∨ s.ring.leaving.isSome then s.refuse r E_RING_STATE 6
    else { s with ring := { s.ring with leaving := some r } }) s)

/-- RING_LEAVE_COMPLETE: the departure is announced, the bypasses close; transfers still in progress end with E_RING_LOST. -/
def execRingLeaveComplete (s : State) : Host.Outcome State Fault Refusal :=
  .next <| match s.ring.leaving with
  | none => s
  | some r =>
    let p := s.ring.position
    let s1 := s.emit true (s.controlFlit p 0 (controlBody 7 p 0 0 0 []))
    let hurt := s1.sch.steps.filter (fun t => decide (1 < s1.stepUnits t))
    let lost := decide (s1.ring.transfers ≠ [])
    let s2 := hurt.foldl (fun s t => s.failStep t E_RING_LOST none (ident 2 1024)) s1
    let s3 := if lost then s2.raise { FRec.mk0 E_RING_LOST 1 (ident 2 1024) with action := 8 } else s2
    let s4 := s3.closeRing
    let s5 := { s4 with ring := { s4.ring with
      member := false, position := 0, recorded := none, members := [], leaving := none, transfers := [] } }
    ((s5.answer r 0 (leBytes 6 0)).ringEvent 1 p 0xFF).mark

/-! The ring huddle (R456). -/

/-- A range cut at 64-byte lines. -/
def linePieces : Nat → Nat → Nat → List (Nat × Nat)
  | 0, _, _ => []
  | fuel + 1, a, n =>
    if n = 0 then [] else
    let k := min n (64 - a % 64)
    (a, k) :: linePieces fuel (a + k) (n - k)
/-- Part `k` of a buffer cut into `u` parts. -/
def huddlePart (h : Huddle) (u k : Nat) : Nat × Nat := (h.buf + k * h.size / u, (k + 1) * h.size / u - k * h.size / u)
/-- Bytes added line by line with vat FP32 adds. -/
def State.vatAdd (s : State) (ac : Access) (a : Nat) (bs : List Byte) : State × Code :=
  (linePieces (bs.length / 64 + 2) a bs.length).foldl (fun (r : State × Code) p =>
    let q := r.1.objVat ac 0 p.1 ((bs.drop (p.1 - a)).take p.2)
    (q.1, if r.2 ≠ 0 then r.2 else q.2.1)) (s, 0)

/-- RING_HUDDLE_STAGE: in stage s of reduce-scatter unit i sends part i − s and adds the part i − 1 − s that has come; in a stage of
all-gather it sends part i − s + 1, and part i − s arrives whole. After the last, the consuming runs are released. -/
def execRingHuddleStage (court ctx step : Nat) (data : List Byte) (s : State) : Host.Outcome State Fault Refusal :=
  .next <| match s.stepAt court ctx step with
  | none => s
  | some t => match AMap.find? t.huddles t.layer with
    | none => s
    | some h =>
      let u := match AMap.find? s.book.books t.playbook with
        | some b => (match b.plan.layers[t.layer]? with | some l => splitCount (l.level 4) | none => 1)
        | none => 1
      let i := s.ringRank
      let last := 2 * (u - 1)
      if !h.ring ∨ h.released ∨ h.stage = 0 ∨ last < h.stage ∨ t.status ≠ 0 ∨ s.ring.leaving.isSome ∨ s.positions.length < u then s
      else
        let gather := decide (u ≤ h.stage)
        let st := if gather then h.stage - (u - 1) else h.stage
        let snd := huddlePart h u ((i + 2 * u - st + b2n gather) % u)
        let rcv := huddlePart h u ((i + 2 * u - 1 - st + b2n gather) % u)
        if data.length ≠ rcv.2 then s
        else
          let ac : Access := ⟨.coach ctx, 1, ctx, ident 2 1024⟩
          let own := s.anyRead ac snd.1 snd.2
          let dst := (s.positions[(i + 1) % u]?).getD 0
          let s1 := own.1.startTransfer 3 court t.layer (snd.1 - (s.huddleArea court).1) dst 1 own.2.2
          let w := if gather then s1.objWrite ac rcv.1 data else s1.vatAdd ac rcv.1 data
          let code := if own.2.1 ≠ 0 then own.2.1 else w.2
          if code ≠ 0 then (w.1.failStep t code none (ident 1 (s.leadCluster court))).mark
          else
            let h1 := { h with stage := h.stage + 1, released := decide (h.stage = last) }
            ((w.1.putStep { t with huddles := AMap.insert t.huddles t.layer h1 }).advance ctx step (s.layersOf t + 1)).mark

/-- RING_HUDDLE_TIMEOUT: the step ends on this unit, and no run reads the buffer. -/
def execRingHuddleTimeout (court ctx step : Nat) (s : State) : Host.Outcome State Fault Refusal :=
  .next <| match s.stepAt court ctx step with
  | none => s
  | some t => match AMap.find? t.huddles t.layer with
    | none => s
    | some h =>
      if !h.ring ∨ h.released ∨ h.stage = 0 then s
      else (s.failStep t E_RING_LOST none (ident 1 (s.leadCluster court))).mark

/-! The relay interface and field ports (R458, R459). -/

/-- RELAY_FRAME: a frame of a hub's relay interface to another member; it reaches the interface that its destination address names. -/
def execRelayFrame (hub dst : Nat) (data : List Byte) (s : State) : Host.Outcome State Fault Refusal :=
  .next <|
    if 4 ≤ hub ∨ !s.ring.member ∨ s.ring.leaving.isSome ∨ dst = s.ring.position ∨ (AMap.find? s.ring.members dst).isNone ∨
       data = [] ∨ 9216 < data.length then s
    else
      let mac : List Byte := [0x02, 0xEF, 0x1D, 0x00]
      let hubTo := if data.take 4 = mac then leAt data 4 1 % 4 else hub
      s.startTransfer 2 hubTo 0 0 dst 2 data

/-- The ones' complement sum of 16-bit big-endian words. -/
def sum16 : List Byte → Nat
  | [] => 0
  | [a] => 256 * a.toNat
  | a :: b :: rest => 256 * a.toNat + b.toNat + sum16 rest
def foldSum (n : Nat) : Nat :=
  let m := n % 65536 + n / 65536
  let k := m % 65536 + m / 65536
  k % 65536 + k / 65536
/-- Where a frame's checksums stand: each as the range it covers, the sum of its pseudo-header, and its own place (PRESUMED: the layouts of
802.1Q, IPv4, IPv6, UDP and TCP, log entry 43). -/
def frameSums (d : List Byte) : List (Nat × Nat × Nat × Nat) :=
  let be (i : Nat) : Nat := 256 * leAt d i 1 + leAt d (i + 1) 1
  let l3 := if be 12 = 0x8100 ∨ be 12 = 0x88A8 then 18 else 14
  let ty := be (l3 - 2)
  let at4 (proto start n pseudo : Nat) : List (Nat × Nat × Nat × Nat) :=
    if proto = 17 then [(start, n, pseudo + proto + n, start + 6)] else if proto = 6 then [(start, n, pseudo + proto + n, start + 16)] else []
  if ty = 0x0800 then
    let ihl := 4 * (leAt d l3 1 % 16)
    let n := be (l3 + 2) - ihl
    (l3, ihl, 0, l3 + 10) :: (if be (l3 + 6) % 16384 = 0 then at4 (leAt d (l3 + 9) 1) (l3 + ihl) n (sum16 ((d.drop (l3 + 12)).take 8)) else [])
  else if ty = 0x86DD then at4 (leAt d (l3 + 6) 1) (l3 + 40) (be (l3 + 4)) (sum16 ((d.drop (l3 + 8)).take 32))
  else []
/-- A frame as it is sent: its checksums filled in. -/
def frameSend (d : List Byte) : List Byte :=
  (frameSums d).foldl (fun d e =>
    let put (v : Nat) : List Byte := d.take e.2.2.2 ++ [BitVec.ofNat 8 (v / 256), BitVec.ofNat 8 v] ++ d.drop (e.2.2.2 + 2)
    if d.length < e.2.2.2 + 2 then d
    else
      let d0 := put 0
      let v := 65535 - foldSum (sum16 ((d0.drop e.1).take e.2.1) + e.2.2.1)
      put (if v = 0 ∧ e.2.2.2 = e.1 + 6 then 65535 else v)) d
/-- Whether a received frame's checksums hold; a UDP checksum of zero says there is none. -/
def frameOk (d : List Byte) : Bool :=
  (frameSums d).all (fun e => (decide (e.2.2.2 = e.1 + 6) && decide (leAt d e.2.2.2 2 = 0)) ||
    decide (foldSum (sum16 ((d.drop e.1).take e.2.1) + e.2.2.1) = 65535))

/-- The free-running counter of a hub. -/
def State.hubCounter (s : State) (hub : Nat) : W64 := if hub = 0 then s.counter else s.dieCounter (1024 + hub)

/-- FIELD_PORT_FRAME: a frame received or sent by a port of a field role, with its stamp; the optical bytes sent are counted (14 R378). -/
def execFieldPortFrame (port : Nat) (rx : Bool) (data : List Byte) (s : State) : Host.Outcome State Fault Refusal :=
  .next <|
    if 48 ≤ port ∨ s.roleOf port < 2 ∨ s.pwr.ps5 ∨ data = [] ∨ 9216 < data.length then s
    else
      let p := AMap.getD s.ring.fields .reset port
      let stamp := s.hubCounter (port / 12)
      let q : FieldPort := if rx then { p with rx := data, rxStamp := stamp, rxOk := frameOk data } else { p with tx := frameSend data, txStamp := stamp }
      let t := if rx then s else s.addAcc (ident 2 (1024 + port / 12)) 1024 10 (eventEnergy 9 data.length)
      { t with ring := { t.ring with fields := AMap.insert t.ring.fields port q } }

end Sys2Proof.Machine
end

