-- ==== Sys2Proof/Machine/Boot.lean ====
section
/-! DEFINITION. Reset and the start-up sequence (19 R482 to R490; 21 R521, R522). -/
namespace Sys2Proof.Machine

/-! What a reset keeps (R485, R486). -/

/-- The module at step 1, with what a reset keeps: fuses, banks, anchors and the count of start-ups; the configuration slots and the
failover count; the fault log; the map-out state; wear, retirement and the count of cave writes; port roles and the recorded ring
position. A trial that a start-up ends is noted (16 R435). The queue of commands and the count of free values are the model's own. -/
def State.restart (s : State) : State :=
  let z := State.reset
  { z with
    pending := s.pending
    free := s.free
    mem := { z.mem with
      homes := s.mem.homes
      slots := s.mem.slots
      vacated := s.mem.vacated
      mapout := s.mem.mapout.map (fun m => { m with req := none })
      chans := (s.mem.chans.filter (fun e => decide (e.2.st ≠ 0))).map (fun e => (e.1, { Channel.reset with st := e.2.st })) }
    tier := { z.tier with
      written := s.tier.written
      pkgs := s.tier.pkgs
      retiredBytes := s.tier.retiredBytes
      caveLost := s.tier.caveLost }
    ump := { z.ump with
      failovers := s.ump.failovers
      slot0 := s.ump.slot0
      slot1 := s.ump.slot1
      committed := s.ump.committed
      trialNote := s.ump.trialNote || s.ump.trial.isSome }
    flt := { z.flt with log := s.flt.log, count := s.flt.count }
    sec := { z.sec with
      resetN := s.sec.resetN
      pgood := s.sec.pgood
      bootCount := s.sec.bootCount
      bank := s.sec.bank
      bankA := s.sec.bankA
      bankB := s.sec.bankB
      fuses := s.sec.fuses
      fwRevoked := s.sec.fwRevoked
      dbgRevoked := s.sec.dbgRevoked
      anchors := s.sec.anchors }
    pwr := { z.pwr with refGood := s.pwr.refGood }
    ring := { z.ring with roles := s.ring.roles, recorded := s.ring.recorded } }

/-- RESET_ASSERT: the levels of RESET_N and CAB_PGOOD; a low one returns the module to step 1 (R485; 21 R521). -/
def execResetAssert (resetN pgood : Bool) (s : State) : Host.Outcome State Fault Refusal :=
  .next <|
    let s1 := { s with sec := { s.sec with resetN := resetN, pgood := pgood } }
    if resetN && pgood then s1 else s1.restart

/-- Whether a step of start-up is in progress and may go on. -/
def State.atStep (s : State) (n : Nat) : Bool := decide (s.sec.step = n) && !s.sec.failed
def State.toStep (s : State) (n : Nat) : State := { s with sec := { s.sec with step := n } }
/-- Start-up fails at its step (R482). -/
def State.bootFail (s : State) (code : Code) : State := { s with sec := { s.sec with failed := true, fault := code } }

/-- RESET_RELEASE: both inputs have been high for 1 ms, the reference is good, BCLK is locked: a start-up begins and is counted (R484;
21 R521). -/
def execResetRelease (s : State) : Host.Outcome State Fault Refusal :=
  .next <|
    if !s.atStep 1 ∨ !s.pwr.refGood then s
    else
      let s1 := { s with
        sec := { s.sec with resetN := true, pgood := true, bootCount := s.sec.bootCount + 1 }
        pwr := { s.pwr with locked := true } }
      s1.toStep 2

/-- BOOT_ROM: the lockstep self-checks of hub 0's pair and hub 2's; a pair that fails is retired, both failing stops start-up (R484). -/
def execBootRom (ok0 ok2 : Bool) (s : State) : Host.Outcome State Fault Refusal :=
  .next <|
    if !s.atStep 2 then s
    else
      let s1 := if ok0 then s else s.retirePair 0
      let s2 := if ok2 then s1 else s1.retirePair 1
      if !ok0 && !ok2 then s2.bootFail E_UMP_FAULT
      else ({ s2 with ump := { s2.ump with acting := b2n (!ok0), standby := 0 } }).toStep 3

/-- VERIFY: the current bank, then the other; neither passes: recovery (R489). The other pair, where it passed its check, is the ready
standby once its firmware is loaded. -/
def execVerify (s : State) : Host.Outcome State Fault Refusal :=
  .next <|
    if !s.atStep 3 then s
    else
      let ready (s : State) : State := ({ s with ump := { s.ump with standby := if s.flt.pairsRetired = 0 then 2 else 0 } }).toStep 4
      if s.bundleCode s.currentBank = 0 then ready (s.runBundle s.currentBank)
      else if s.bundleCode s.otherBank = 0 then
        ready ({ s.runBundle s.otherBank with sec := { (s.runBundle s.otherBank).sec with bank := !s.sec.bank } })
      else
        { s with sec := { s.sec with step := 9, fault := s.bundleCode s.otherBank }, smb := { s.smb with alert := true } }

/-- TRAIN: every channel's key of stochastic rounding is written with a free value (log entry 2; 10 R260); a channel that fails is mapped
out under R263. -/
def execTrain (bad : List Nat) (s : State) : Host.Outcome State Fault Refusal :=
  .next <|
    if !s.atStep 4 then s
    else
      let s1 := (List.range 512).foldl (fun s c => s.modChan c (fun x => { x with srKey := BitVec.ofNat 64 (s.fv c) })) s
      ((bad.filter (· < 512)).foldl State.autoMapout s1.drawn).toStep 5

/-- SELFTEST: a physical core that fails is declared failed and remapped (R482; 20 R504). -/
def execSelftest (bad : List Nat) (s : State) : Host.Outcome State Fault Refusal :=
  .next <|
    if !s.atStep 5 then s
    else (bad.foldl (fun s p => (s.declareFailed p).remapSpare (p / 26)) s).toStep 6

/-- A record whose code and severity the spec does not state: free values (log entry 2), the code one that names a fault (00 R14: not 0,
with the high byte of an area). -/
def State.openRecord (s : State) (r : FRec) : State :=
  (s.raise { r with code := BitVec.ofNat 16 (s.fv 0 % 0x0DFF + 1), severity := s.fv 1 % 3 }).drawn
/-- A court of the committed slot created, or left undefined with a record: a die with no usable cluster, or areas that do not fit. -/
def State.bootCourt (s : State) (k : Nat) (c : CourtRec) : State :=
  let usable (d : Nat) : Bool := !(s.clustersOf d).isEmpty
  let q := (s.writeCluCfg c).makeAreas k c
  if c.dieList.all usable ∧ q.2 = 0 then q.1
  else
    let s1 := q.1.dropAreas k
    let x := s1.slotAt s1.ump.active
    let img := { x.img with courts := AMap.insert x.img.courts k { c with defined := false } }
    (s1.setSlot s1.ump.active { x with img := img }).openRecord { FRec.mk0 0 0 (ident 2 1024) with court := k }

/-- Court `c` of an image, where it has one. -/
def CfgImage.boot (img : CfgImage) (s : State) (c : Nat) : State := match img.court c with | none => s | some r => s.bootCourt c r

/-- COURTS: the committed slot is applied: courts and their areas, quotas, the roster's block; the session certificate is issued
(R482; 16 R435). -/
def execCourts (s : State) : Host.Outcome State Fault Refusal :=
  .next <|
    if !s.atStep 6 then s
    else
      let k := s.ump.committed
      let s0 := { s with ump := { s.ump with active := k } }
      let x := s0.slotAt k
      let s1 := s0.setSlot k { x with img := { x.img with courts := (cfgParse x.img.bytes).courts } }
      let img := (s1.slotAt k).img
      let s2 := (List.range 8).foldl img.boot (s1.writeQuotas .empty img)
      let s3 := (s2.areaAny .roster 262144).1
      ({ s3 with sec := { s3.sec with certGen := s3.activeGen } }).toStep 7

/-- PLATFORM: where the application cores do not come up, their mailboxes are closed (R482). -/
def execPlatform (ok : Bool) (s : State) : Host.Outcome State Fault Refusal :=
  .next <|
    if !s.atStep 7 then s
    else if ok then s.toStep 8
    else
      let s1 := (List.range 64).foldl (fun s m => s.modMbx m (fun b => { b with closed := true })) s
      (s1.openRecord (FRec.mk0 0 0 (ident 2 1024))).toStep 8

/-- SERVE: MOD_READY rises, requests are taken; rails of a field role open, and a former ring member rejoins (R482; 17 R451, R453). -/
def execServe (s : State) : Host.Outcome State Fault Refusal :=
  .next <|
    if !s.atStep 8 ∨ s.sec.ready then s
    else
      let s1 := { s with sec := { s.sec with ready := true } }
      let fields := (List.range 16).filter (fun k => decide (2 ≤ s1.roleOf (upPort k)) || decide (2 ≤ s1.roleOf (downPort k)))
      let s2 := fields.foldl State.openRail s1
      match s2.ring.recorded with
      | none => s2.mark
      | some p => (({ s2 with ring := { s2.ring with joining := some (none, p) } }).joinOn).mark

/-- STARTUP_TIMEOUT: SERVE is not reached within 300 s of the start, which RESET_N and CAB_PGOOD high allow (R482; 21 R521). -/
def execStartupTimeout (s : State) : Host.Outcome State Fault Refusal :=
  .next (if (s.sec.step < 2 ∧ !(s.sec.resetN && s.sec.pgood)) ∨ s.sec.ready ∨ s.sec.failed ∨ s.sec.step = 9 then s else s.bootFail s.sec.fault)

/-! Outputs (21 R522). -/

/-- Whether MOD_FAULT_N is low. -/
def State.modFault (s : State) : Bool :=
  s.sec.failed || decide (s.sec.step = 9) || decide (0 < s.flt.pairsRetired) || s.clus.any (fun e => e.2.degraded)

end Sys2Proof.Machine
end

