-- ==== Sys2Proof/Machine/Codec.lean ====
section
/-! DEFINITION. The codec engines: streams, pools, frames, slices, closing (15 R388 to R411). -/
namespace Sys2Proof.Machine

/-! What a stream may be (R388, R389). -/

/-- The largest luma picture of a level code, in samples, and its largest side squared times an eighth: the levels of the standards
(PRESUMED, log entry 41); none for a code that is no level. -/
def levelSize (standard level : Nat) : Option Nat :=
  let tab : List (Nat × Nat) :=
    if standard = 0 then [(30, 36864), (60, 122880), (63, 245760), (90, 552960), (93, 983040), (120, 2228224), (123, 2228224),
      (150, 8912896), (153, 8912896), (156, 8912896), (180, 35651584), (183, 35651584), (186, 35651584)]
    else if standard = 1 then [(0, 147456), (1, 278784), (4, 665856), (5, 1065024), (8, 2359296), (9, 2359296),
      (12, 8912896), (13, 8912896), (14, 8912896), (15, 8912896), (16, 35651584), (17, 35651584), (18, 35651584), (19, 35651584)]
    else [(9, 25344), (10, 25344), (11, 101376), (12, 101376), (13, 101376), (20, 101376), (21, 202752), (22, 414720),
      (30, 414720), (31, 921600), (32, 1310720), (40, 2097152), (41, 2097152), (42, 2228224), (50, 5652480), (51, 9437184),
      (52, 9437184), (60, 35651584), (61, 35651584), (62, 35651584)]
  (tab.find? (fun e => e.1 == level)).map (·.2)

namespace CStream
/-- Whether the standard, profile, level, tier, chroma and depth are those of R388. -/
def kindOk (c : CStream) : Bool :=
  let hi := c.flags.testBit 2
  if c.standard = 0 then
    if c.dir = 0 then (decide (c.profile = 1 ∨ c.profile = 2)) && decide (c.chroma = 0) && decide (c.level ≤ 186)
    else ((decide (c.profile = 1 ∨ c.profile = 2) && decide (c.chroma = 0)) || (decide (c.profile = 4) && decide (c.chroma ≠ 0))) &&
      decide (c.level ≤ 186)
  else if c.standard = 1 then
    if c.dir = 0 then decide (c.profile = 0) && decide (c.chroma = 0) && decide (c.level ≤ 17) && !hi
    else ((decide (c.profile = 0) && decide (c.chroma = 0 ∨ c.chroma = 3)) || (decide (c.profile = 1) && decide (c.chroma = 2))) &&
      decide (c.level ≤ 19)
  else decide (c.dir = 1) && decide (c.profile = 100 ∨ c.profile = 110) && decide (c.chroma = 0) && decide (c.level ≤ 62) && !hi
/-- Whether the picture size is within R389 and the level. -/
def sizeOk (c : CStream) : Bool :=
  let lim := match levelSize c.standard c.level with
    | none => false
    | some n => decide (c.width * c.height ≤ n) && (decide (c.standard = 1) ||
        (decide (c.width * c.width ≤ 8 * n) && decide (c.height * c.height ≤ 8 * n)))
  lim && (if c.dir = 0 then decide (128 ≤ c.width ∧ c.width ≤ 7680 ∧ c.width % 8 = 0 ∧ 128 ≤ c.height ∧ c.height ≤ 4320 ∧ c.height % 8 = 0)
    else decide (1 ≤ c.width ∧ c.width ≤ 8192 ∧ 1 ≤ c.height ∧ c.height ≤ 4352))
/-- The load in parts per million at a rate in thousandths of a frame per second (R390). -/
def loadAt (c : CStream) (fps : Nat) : Nat :=
  let w : Nat × Nat := if c.dir = 1 ∧ c.chroma = 1 then (4, 3) else if c.dir = 1 ∧ c.chroma = 2 then (2, 1) else (1, 1)
  let budget := if c.dir = 0 then 995328000 else 1990656000
  ceilDiv (1000 * c.width * c.height * fps * w.1) (w.2 * budget) + ceilDiv (fps * 40) 1000
/-- Bytes of a sample, and width and height of a chroma plane. -/
def bps (c : CStream) : Nat := if c.depth = 8 then 1 else 2
def chromaW (c : CStream) : Nat := if c.chroma = 3 then 0 else if c.chroma = 2 then c.width else ceilDiv c.width 2
def chromaH (c : CStream) : Nat := if c.chroma = 3 then 0 else if c.chroma = 0 then ceilDiv c.height 2 else c.height
/-- The planes of a buffer: address, pitch, width and height in samples (R396). -/
def planes (c : CStream) (b : PoolBuf) : List (Nat × Nat × Nat × Nat) :=
  let cb := b.addr + b.chromaOff
  (b.addr, b.lumaPitch, c.width, c.height) ::
    (if c.chroma = 3 then [] else [(cb, b.chromaPitch, c.chromaW, c.chromaH), (cb + b.chromaPitch * c.chromaH, b.chromaPitch, c.chromaW, c.chromaH)])
/-- Buffers an open must promise (R397). -/
def poolNeed (c : CStream) : Nat := if c.dir = 1 then 1 else if c.flags.testBit 3 then 5 + c.gop else 6
/-- Bytes of the ring that are in use; offsets are `wr` and `rd` modulo its size. -/
def ringUsed (c : CStream) : Nat := c.wr - c.rd
/-- Where a unit of `n` bytes starts, as a running offset: never across the end of the ring (R400). -/
def unitAt (c : CStream) (n : Nat) : Nat :=
  if c.outBytes < c.wr % c.outBytes + n then (c.wr / c.outBytes + 1) * c.outBytes else c.wr
/-- A buffer whose bits [4:0] are zero (R396). -/
def freeBuf (b : PoolBuf) : Bool := decide (b.marks.toNat % 32 = 0)
/-- The lowest free buffer. -/
def target (c : CStream) : Option Nat := (List.find? (fun (e : Nat × PoolBuf) => freeBuf e.2) c.pool).map (·.1)
/-- How its engine reaches memory: for the context, or the management mailbox, that opened it. -/
def access (c : CStream) : Access := ⟨if isMgmt c.mbx then .mgmt else .msg c.ctx, 1, c.ctx, ident 2 (1024 + c.eng / 4)⟩
end CStream

def State.cstream (s : State) (i : Nat) : Option CStream := AMap.find? s.cdc.streams i
def State.setStream (s : State) (i : Nat) (c : CStream) : State :=
  { s with cdc := { s.cdc with streams := AMap.insert s.cdc.streams i c } }
def State.engine (s : State) (e : Nat) : Engine := AMap.getD s.cdc.engs .reset e
def State.setEngine (s : State) (e : Nat) (x : Engine) : State := { s with cdc := { s.cdc with engs := AMap.setD s.cdc.engs .reset e x } }
/-- The streams of an engine, and their committed load. -/
def State.streamsOf (s : State) (e : Nat) : AMap CStream := s.cdc.streams.filter (fun x => decide (x.2.eng = e))
def State.loadOf (s : State) (e : Nat) : Nat := ((s.streamsOf e).map (fun x => x.2.load)).sum

/-- An event of a stream (R409). -/
def State.cdcEvent (s : State) (i : Nat) (c : CStream) (reason index : Nat) (status : Code) (slice frame off n pts : Nat) : State :=
  s.event c.mbx 0x0803 c.ctx (leBytes 2 i ++ leBytes 1 reason ++ leBytes 1 index ++ leBytes 2 status.toNat ++ leBytes 2 slice ++
    leBytes 4 frame ++ leBytes 4 off ++ leBytes 4 n ++ leBytes 4 0 ++ leBytes 8 pts)

/-! Opening (R390, R391, R393, R394, R397, R406). -/

def streamOfOpen (r : Req) : CStream where
  ctx := r.ctx
  mbx := r.mbx
  eng := r.fld 7 1
  dir := r.fld 0 1
  standard := r.fld 1 1
  profile := r.fld 2 1
  level := r.fld 3 1
  chroma := r.fld 4 1
  depth := r.fld 5 1
  flags := r.fld 6 1
  width := r.fld 8 2
  height := r.fld 10 2
  fps := r.fld 12 4
  rc := r.fld 16 1
  qp := r.fld 17 1
  sliceRows := r.fld 18 1
  gop := r.fld 19 1
  kbps := r.fld 20 4
  bufferBytes := r.fld 24 4
  maxFrame := r.fld 28 4
  ring := r.fld 32 8
  outBytes := r.fld 40 4
  idr := r.fld 44 2
  flow := r.fld 48 4
  ssrc := r.fld 52 4
  load := 0
  obj := 0
  pool := []
  queue := []
  nextFrame := 0
  wr := 0
  rd := 0
  rtpOn := bitOf (r.fld 6 1) 1
  rtpSeq := r.fld 56 2
  closing := none
  kbpsSet := r.fld 20 4
  fpsSet := r.fld 12 4
  sinceKey := 0

/-- Whether the fields of an open are in range and consistent (R406, R393, R397). -/
def CStream.argOk (c : CStream) (r : Req) : Bool :=
  let g1 := c.flags.testBit 3
  decide (c.dir ≤ 1) && decide (c.standard ≤ 2) && decide (c.chroma ≤ 3) && decide (c.depth = 8 ∨ c.depth = 10) &&
  decide (c.flags < 16) && decide (c.eng < 16 ∨ c.eng = 255) && decide (1 ≤ c.fps ∧ c.fps ≤ 240000) &&
  (c.rtpOn || decide (c.flow = 0)) && decide (c.poolNeed ≤ r.fld 46 1 ∧ r.fld 46 1 ≤ 16) &&
  (if c.dir = 1 then r.zeros 16 30
   else decide (c.rc ≤ 2) && decide (1 ≤ c.sliceRows) && decide (1 ≤ c.idr) && decide (c.ring % 4096 = 0) &&
     decide (1 ≤ c.maxFrame) && decide (2 * c.maxFrame ≤ c.outBytes) &&
     (if g1 then decide (c.gop = 2 ∨ c.gop = 4 ∨ c.gop = 8) && !c.flags.testBit 0 else decide (c.gop = 0)))

/-- The engine an open goes to: the one named, or the one of lowest load that has not failed. -/
def State.engineFor (s : State) (e : Nat) : Option Nat :=
  if e ≠ 255 then (if (s.engine e).failed then none else some e)
  else ((List.range 16).filter (fun e => !(s.engine e).failed)).foldl (fun (m : Option Nat) e => match m with
    | none => some e
    | some x => if s.loadOf e < s.loadOf x then some e else some x) none

/-- MSG_CDC_OPEN (R406): arguments, then the profile, the load, and the memory. -/
def execMsgCdcOpen (mbx : Nat) (s : State) : Host.Outcome State Fault Refusal :=
  .next (serve 0x0800 mbx (fun r s =>
    let c := streamOfOpen r
    let load := c.loadAt c.fps
    if !c.argOk r ∨ 1023 < r.ctx then s.refuse r E_CDC_ARG 10
    else if !c.kindOk ∨ !c.sizeOk then s.refuse r E_CDC_PROFILE 10
    else match s.engineFor c.eng with
      | none => s.refuse r E_CDC_ENGINE 10
      | some e =>
        if 1000000 < s.loadOf e + load ∨ 16 ≤ (s.streamsOf e).length then s.refuse r E_CDC_LOAD 10
        else
          let code := if c.dir = 0 then s.accessCode r.access.ag true c.ring c.outBytes else 0
          if code ≠ 0 then s.refuse r code 10
          else
            let q := s.createObj (some r.ctx) .made 393216 0 0
            if q.2.1 ≠ 0 then q.1.refuse r q.2.1 10
            else
              let i := AMap.lowestFree q.1.cdc.streams 256 0
              (q.1.setStream i { c with eng := e, load := load, obj := q.2.2 }).answer r 0
                (leBytes 2 i ++ leBytes 1 e ++ leBytes 3 0 ++ leBytes 4 load)) s)

/-! Pool, frames, settings, close (R397, R405, R407 to R410). -/

/-- An open stream a request may name. -/
def State.streamFor (s : State) (r : Req) : Option (Nat × CStream) :=
  match s.cstream (r.fld 0 2) with
  | some c => if c.closing.isNone && (isMgmt r.mbx || decide (c.ctx = r.ctx)) then some (r.fld 0 2, c) else none
  | none => none

/-- Whether a buffer has the shape of R396, lies in one object of the stream's context, and its bytes may be written. -/
def State.bufOk (s : State) (ag : Agent) (c : CStream) (b : PoolBuf) : Bool :=
  (match s.objAt (b.addr / blockBytes) with
    | some (k, o) => decide (o.owner = some c.ctx) && (c.planes b).all (fun p => decide (blockBytes * k ≤ p.1 ∧ p.1 + p.2.1 * p.2.2.2 ≤ blockBytes * k + o.size))
    | none => false) &&
  decide (b.lumaPitch % 64 = 0) && decide (b.chromaPitch % 64 = 0) &&
  (c.planes b).all (fun p => decide (p.2.2.1 * c.bps ≤ p.2.1) && decide (s.accessCode ag true p.1 (p.2.1 * p.2.2.2) = 0))

/-- MSG_CDC_POOL (R407). -/
def execMsgCdcPool (mbx : Nat) (s : State) : Host.Outcome State Fault Refusal :=
  .next (serve 0x0801 mbx (fun r s =>
    match s.streamFor r with
    | none => s.refuse r E_CDC_STATE 1
    | some (i, c) =>
      let k := r.fld 2 1
      let old := AMap.find? c.pool k
      if 2 < r.fld 3 1 then s.refuse r E_CDC_ARG 1
      else if 15 < k then s.refuse r E_CDC_POOL 1
      else match r.fld 3 1, old with
        | 0, none =>
          let b : PoolBuf := ⟨r.fld 8 8, r.fld 16 4, r.fld 20 4, r.fld 24 8, 0, 0, 0⟩
          if s.bufOk r.access.ag c b then (s.setStream i { c with pool := AMap.insert c.pool k b }).answer r 0 (leBytes 1 0)
          else s.refuse r E_CDC_POOL 1
        | 1, some b =>
          if CStream.freeBuf b then (s.setStream i { c with pool := AMap.erase c.pool k }).answer r 0 (leBytes 1 b.marks.toNat)
          else s.answer r E_CDC_POOL (leBytes 1 b.marks.toNat)
        | 2, some b =>
          let m := b.marks &&& 0xF7#8
          (s.setStream i { c with pool := AMap.insert c.pool k { b with marks := m } }).answer r 0 (leBytes 1 m.toNat)
        | _, some b => s.answer r E_CDC_POOL (leBytes 1 b.marks.toNat)
        | _, none => s.refuse r E_CDC_POOL 1) s)

/-- MSG_CDC_FRAME (R408): a frame accepted takes its number and its place in the engine's order. -/
def execMsgCdcFrame (mbx : Nat) (s : State) : Host.Outcome State Fault Refusal :=
  .next (serve 0x0802 mbx (fun r s =>
    match s.streamFor r with
    | none => s.refuse r E_CDC_STATE 4
    | some (i, c) =>
      let flags := r.fld 2 1
      let k := r.fld 3 1
      let n := r.fld 4 4
      let argOk := if c.dir = 0 then decide (flags ≤ 1) && decide (n = 0) else decide (flags = 0 ∨ flags = 2) && decide (k = 0)
      if 32 ≤ c.queue.length then s.refuse r E_CDC_STATE 4
      else if !argOk then s.refuse r E_CDC_ARG 4
      else if c.dir = 0 ∧ !(match AMap.find? c.pool k with | some b => CStream.freeBuf b | none => false) then s.refuse r E_CDC_POOL 4
      else
        let code := if c.dir = 1 then s.accessCode r.access.ag false (r.fld 16 8) n else 0
        if code ≠ 0 then s.refuse r code 4
        else
          let f : CFrame := ⟨c.nextFrame, flags, k, n, r.fld 8 8, r.fld 16 8, r.fld 24 8, s.cdc.order⟩
          let pool := if c.dir = 0 then AMap.adjust c.pool k (fun b => { b with marks := b.marks ||| 1#8, num := f.num, pts := f.pts }) else c.pool
          let s1 := s.setStream i { c with queue := c.queue ++ [f], nextFrame := c.nextFrame + 1, pool := pool }
          ({ s1 with cdc := { s1.cdc with order := s1.cdc.order + 1 } }).answer r 0 (leBytes 4 f.num)) s)

/-- MSG_CDC_SET (R410): a rate takes effect at the stream's next frame (R392), its load at once; a read offset must lie in what the ring
holds. -/
def execMsgCdcSet (mbx : Nat) (s : State) : Host.Outcome State Fault Refusal :=
  .next (serve 0x0804 mbx (fun r s =>
    match s.streamFor r with
    | none => s.refuse r E_CDC_STATE 0
    | some (i, c) =>
      let v := r.fld 8 8
      let act := r.fld 2 1
      if act = 0 then
        if c.dir = 0 ∧ v < 2 ^ 32 then (s.setStream i { c with kbpsSet := v }).answer r 0 [] else s.refuse r E_CDC_ARG 0
      else if act = 1 then
        let load := c.loadAt v
        if v = 0 ∨ 240000 < v then s.refuse r E_CDC_ARG 0
        else if 1000000 < s.loadOf c.eng - c.load + load then s.refuse r E_CDC_LOAD 0
        else (s.setStream i { c with fpsSet := v, load := load }).answer r 0 []
      else if act = 2 then
        let rd := c.rd + (v + c.outBytes - c.rd % max 1 c.outBytes) % max 1 c.outBytes
        if c.dir = 0 ∧ v < c.outBytes ∧ rd ≤ c.wr then (s.setStream i { c with rd := rd }).answer r 0 [] else s.refuse r E_CDC_ARG 0
      else s.refuse r E_CDC_ARG 0) s)

/-- MSG_CDC_CLOSE (R405): the close takes effect at the engine's next frame boundary. -/
def execMsgCdcClose (mbx : Nat) (s : State) : Host.Outcome State Fault Refusal :=
  .next (serve 0x0805 mbx (fun r s =>
    match s.streamFor r with
    | none => s.refuse r E_CDC_STATE 0
    | some (i, c) => (s.setStream i { c with closing := some 0 }).answer r 0 []) s)

/-! Frames (R395 to R403). -/

/-- The settings a frame starts with (R392), and the count to the next IRAP or key frame (R393). -/
def CStream.isKey (c : CStream) (f : CFrame) : Bool := decide (c.dir = 0) && (bitOf f.flags 0 || decide (c.sinceKey = 0))
def CStream.began (c : CStream) (f : CFrame) : CStream :=
  { c with kbps := c.kbpsSet, fps := c.fpsSet, sinceKey := ((if c.isKey f then 0 else c.sinceKey) + 1) % max 1 c.idr }
/-- Slices a frame has, with coding rows of `h` luma lines (R402): one without sub-frame mode. -/
def CStream.sliceCount (c : CStream) (h : Nat) : Nat :=
  if c.flags.testBit 0 then ceilDiv (ceilDiv c.height h) (max 1 c.sliceRows) else 1
/-- The numbers of slices a frame may end with: HEVC has 64-line CTUs (R388), AV1 superblocks of 64 or of 128 lines as the firmware
chooses. -/
def CStream.sliceCounts (c : CStream) : List Nat :=
  if c.standard = 1 then [c.sliceCount 64, c.sliceCount 128] else [c.sliceCount 64]

/-- The marks of a buffer set and cleared. -/
def CStream.mark (c : CStream) (k : Nat) (set clr : Byte) : CStream :=
  { c with pool := AMap.adjust c.pool k (fun b => { b with marks := (b.marks &&& ~~~clr) ||| set }) }

/-- Whether a stream's next frame can start: a free buffer, and on encode room for a frame (R395, R401). -/
def CStream.canStart (c : CStream) : Bool :=
  c.closing.isNone && c.target.isSome && (decide (c.dir = 1) || decide (c.ringUsed + c.maxFrame ≤ c.outBytes))
/-- The stream whose frame an engine starts: LC before BE, then the order of acceptance (R395). -/
def State.nextStream (s : State) (e : Nat) : Option (Nat × CStream × CFrame) :=
  ((s.streamsOf e).filterMap (fun x => match x.2.queue with
    | [] => none
    | f :: _ => if x.2.canStart then some (x.1, x.2, f) else none)).foldl
    (fun (m : Option (Nat × CStream × CFrame)) x => match m with
      | none => some x
      | some y =>
        let a := s.ctxLc x.2.1.ctx
        let b := s.ctxLc y.2.1.ctx
        if (a && !b) || ((a == b) && decide (x.2.2.order < y.2.2.order)) then some x else some y) none

/-- Whether a frame's hint map is used; a map that does not fit is ignored (R398). -/
def State.hintsFit (s : State) (c : CStream) (f : CFrame) : Bool :=
  let bw := ceilDiv c.width 16
  let bh := ceilDiv c.height 16
  decide (s.accessCode c.access.ag false f.hints (64 + 16 * bw * bh) = 0) &&
  (let h := (s.objRead c.access f.hints 64).2.2
   decide (leAt h 0 4 = 0x544E4948) && decide (leAt h 4 2 = bw) && decide (leAt h 6 2 = bh) &&
   c.pool.any (fun p => decide (p.2.pts = leAt h 8 8) && bitOf p.2.marks.toNat 1))

/-- The context of the stream last run saved, and the next one's loaded (R394); what firmware state a context object holds is a free
value (log entry 2). -/
def State.switchStream (s : State) (e i : Nat) : State :=
  let x := s.engine e
  if x.last = some i then s
  else
    let s1 := match x.last with
      | none => s
      | some j => match s.cstream j with
        | none => s
        | some c =>
          let bs := (List.range 393216).map (fun k => BitVec.ofNat 8 (s.fv k))
          ((s.piecesWrite c.access (piecesOf c.obj 393216) bs).1.chargeBytes (lineOf c.ctx) true c.obj 393216).drawn
    let s2 := match s1.cstream i with
      | none => s1
      | some c => s1.chargeBytes (lineOf c.ctx) false c.obj 393216
    s2.setEngine e { x with last := some i, switches := x.switches + 1 }

/-- CODEC_FRAME_START. -/
def execCodecFrameStart (eng : Nat) (s : State) : Host.Outcome State Fault Refusal :=
  .next <|
    let x := s.engine eng
    if 16 ≤ eng ∨ x.failed ∨ x.run.isSome then s
    else match s.nextStream eng with
      | none => s
      | some (i, c, f) => match c.target with
        | none => s
        | some t =>
          let skip := decide (c.dir = 0) && decide (f.hints ≠ 0) && !s.hintsFit c f
          let s1 := s.switchStream eng i
          let y := s1.engine eng
          let c1 := (if c.dir = 0 then c.mark f.index 16 0 else c).mark t 16 32
          let c2 := { c1.began f with queue := c.queue.drop 1, pool := AMap.adjust c1.pool t (fun b => { b with num := f.num, pts := f.pts }) }
          (s1.setStream i c2).setEngine eng { y with
            run := some ⟨i, f, t, 0, 0, s.counter.toNat, c.isKey f⟩
            hintSkip := y.hintSkip + BitVec.ofNat 64 (b2n skip) }

/-- CODEC_SLICE_EMIT: a unit goes whole and contiguous into the ring, and is reported; with RTP its packets are queued, and its space
returns (R400, R402, R404). -/
def execCodecSliceEmit (eng : Nat) (data : List Byte) (s : State) : Host.Outcome State Fault Refusal :=
  .next <|
    let x := s.engine eng
    match x.run with
    | none => s
    | some run => match s.cstream run.stream with
      | none => s
      | some c =>
        let n := data.length
        let p := c.unitAt n
        if c.dir = 1 ∨ n = 0 ∨ c.maxFrame < run.bytes + n ∨ c.rd + c.outBytes < p + n ∨ c.sliceCount 64 ≤ run.slices then s
        else
          let off := p % c.outBytes
          let w := s.objWrite c.access (c.ring + off) data
          let s1 := w.1.chargeBytes (lineOf c.ctx) true (c.ring + off) n
          let rtp := c.rtpOn
          let c1 := { c with
            wr := p + n
            rd := if rtp then p + n else c.rd
            rtpSeq := if rtp then (c.rtpSeq + 1 + s.fv 0) % 65536 else c.rtpSeq }
          let s2 := if rtp then s1.drawn else s1
          ((s2.setStream run.stream c1).setEngine eng { x with run := some { run with slices := run.slices + 1, bytes := run.bytes + n } }).cdcEvent
            run.stream c1 0 run.frame.index w.2 run.slices run.frame.num off n run.frame.pts

/-- One plane of a picture written by the engine: rows below `rows` from what was coded, the others from the reference's plane, or
mid-grey (R403). -/
def State.planeWrite (s : State) (c : CStream) (p : Nat × Nat × Nat × Nat) (ref : Option (Nat × Nat)) (data : List Byte) (rows : Nat) : State :=
  let w := p.2.2.1 * c.bps
  let grey := (List.replicate p.2.2.1 (leBytes c.bps (2 ^ (c.depth - 1)))).flatten
  (List.range p.2.2.2).foldl (fun s i =>
    let a := p.1 + p.2.1 * i
    let line := if i < rows then bytesAt data (w * i) w
      else match ref with
        | none => grey
        | some (ra, rp) => let q := s.piecesRead c.access (piecesOf (ra + rp * i) w); if q.2.1 = 0 then q.2.2 else grey
    (s.piecesWrite c.access (piecesOf a w) line).1.chargeBytes (lineOf c.ctx) true a w) s

/-- A picture written whole into its buffer: the coded rows, then the filled ones. -/
def State.pictureWrite (s : State) (c : CStream) (b : PoolBuf) (ref : Option PoolBuf) (picture : List Byte) (rows : Nat) : State :=
  let ps := c.planes b
  let rs : List (Option (Nat × Nat)) := match ref with
    | none => ps.map (fun _ => none)
    | some r => (c.planes r).map (fun q => some (q.1, q.2.1))
  ((ps.zip rs).foldl (fun (acc : State × Nat) e =>
    let h := e.1.2.2.2
    let w := e.1.2.2.1 * c.bps
    (acc.1.planeWrite c e.1 e.2 (picture.drop acc.2) (if h = c.height then rows else rows * h / max 1 c.height), acc.2 + w * h)) (s, 0)).1

/-- The most recent reference of a stream other than buffer `t`. -/
def CStream.lastRef (c : CStream) (t : Nat) : Option PoolBuf :=
  (c.pool.filter (fun p => decide (p.1 ≠ t) && decide (p.2.marks.toNat / 2 % 4 ≠ 0))).foldl (fun (m : Option PoolBuf) p => match m with
    | none => some p.2
    | some b => if b.num < p.2.num then some p.2 else some b) none

/-- What the firmware leaves marked, the busy and input marks cleared (R396). -/
def CStream.endMarks (c : CStream) (run : EngRun) (out : FrameOut) : CStream :=
  { c with pool := c.pool.map (fun p =>
      let m0 := p.2.marks &&& (if c.dir = 0 ∧ p.1 = run.frame.index then 0xE8#8 else 0xE9#8)
      let m1 := if out.refs.contains p.1 then m0 ||| 2#8 else m0
      (p.1, { p.2 with marks := if out.longs.contains p.1 then m1 ||| 4#8 else m1 })) }

/-- CODEC_FRAME_DONE (R402, R403): the marks, the picture, and the frame's last events; a sequence header that breaks R389 ends the
stream. An encode frame ends after the last of its slices. -/
def execCodecFrameDone (eng : Nat) (out : FrameOut) (s : State) : Host.Outcome State Fault Refusal :=
  .next <|
    let x := s.engine eng
    match x.run with
    | none => s
    | some run => match s.cstream run.stream with
      | none => s
      | some c => match AMap.find? c.pool run.target with
        | none => s
        | some b =>
          if c.dir = 0 ∧ run.slices ∉ c.sliceCounts then s else
          let i := run.stream
          let f := run.frame
          let shown := decide (c.dir = 1) && decide (out.status ≠ E_CDC_PROFILE) && (decide (out.picture ≠ []) || decide (out.status ≠ 0))
          let bad := decide (out.status = E_CDC_BITSTREAM) || (!out.key && out.used.any (fun k => match AMap.find? c.pool k with
            | some u => bitOf u.marks.toNat 5
            | none => false))
          let s1 := s.chargeBytes (lineOf c.ctx) false f.src (if c.dir = 1 then f.len else 0)
          let s2 := if shown ∨ (c.dir = 0 ∧ out.picture ≠ []) then s1.pictureWrite c b (c.lastRef run.target) out.picture out.rows else s1
          let c1 := c.endMarks run out
          let c2 := if shown then c1.mark run.target (if bad then 0x28 else 0x08) 0 else c1
          let c3 := if out.status = E_CDC_PROFILE then { c2 with closing := some E_CDC_PROFILE } else c2
          let s3 := (s2.charge (lineOf c.ctx) 2 (33 * (s.counter.toNat - run.start))).setStream i c3
          let s4 := s3.setEngine eng { s3.engine eng with
            run := none, frames := x.frames + 1, hintWin := x.hintWin + BitVec.ofNat 64 (if c.dir = 0 ∧ f.hints ≠ 0 then out.hintWins else 0) }
          let s5 := if shown then s4.cdcEvent i c3 2 run.target out.status 0 f.num 0 0 f.pts else s4
          s5.cdcEvent i c3 1 (if c.dir = 0 then f.index else if shown then run.target else 0xFF) out.status run.slices f.num 0 run.bytes f.pts

/-! Closing (R405). -/

/-- A stream closed: its queued frames discarded, its context freed, the event of reason 3. -/
def State.closeStream (s : State) (i : Nat) (c : CStream) (code : Code) : State :=
  let s1 := c.queue.foldl (fun s f => s.cdcEvent i c 1 (if c.dir = 0 then f.index else 0xFF) E_CDC_STATE 0 f.num 0 0 f.pts) s
  let s2 := s1.dropObj (c.obj / blockBytes)
  let x := s2.engine c.eng
  let s3 := s2.setEngine c.eng { x with last := if x.last = some i then none else x.last }
  ({ s3 with cdc := { s3.cdc with streams := AMap.erase s3.cdc.streams i } }).cdcEvent i c 3 0xFF code 0 0 0 0 0

/-- CODEC_CLOSE_EFFECT: at a frame boundary of the stream's engine. -/
def execCodecCloseEffect (stream : Nat) (s : State) : Host.Outcome State Fault Refusal :=
  .next <| match s.cstream stream with
  | none => s
  | some c => match c.closing with
    | none => s
    | some code => if (s.engine c.eng).run.isSome then s else s.closeStream stream c code

/-- CODEC_ENGINE_FAULT: every stream of the engine closes with E_CDC_ENGINE (R405; 20 R502 action 7). -/
def execCodecEngineFault (eng : Nat) (s : State) : Host.Outcome State Fault Refusal :=
  .next <|
    let x := s.engine eng
    if 16 ≤ eng ∨ x.failed then s
    else
      let s1 := match x.run with
        | none => s
        | some run => match s.cstream run.stream with
          | none => s
          | some c => (s.charge (lineOf c.ctx) 2 (33 * (s.counter.toNat - run.start))).cdcEvent run.stream c 1
              (if c.dir = 0 then run.frame.index else 0xFF) E_CDC_ENGINE run.slices run.frame.num 0 run.bytes run.frame.pts
      let s2 := s1.setEngine eng { x with failed := true, run := none, last := none }
      let s3 := (s2.streamsOf eng).foldl (fun s e => s.closeStream e.1 e.2 E_CDC_ENGINE) s2
      s3.raise { FRec.mk0 E_CDC_ENGINE 1 (ident 2 (1024 + eng / 4)) with action := 7 }

/-- RTP_FLOW_CLOSE: the packetisers of the flow stop; units stay in their rings (R404). -/
def execRtpFlowClose (flow : Nat) (s : State) : Host.Outcome State Fault Refusal :=
  .next { s with cdc := { s.cdc with streams := s.cdc.streams.map (fun e =>
    (e.1, if e.2.rtpOn ∧ e.2.flow = flow then { e.2 with rtpOn := false } else e.2)) } }

end Sys2Proof.Machine
end

