-- ==== Sys2Proof/Machine/Functions.lean ====
section
/-! DEFINITION. The vector slot's functions: built-in functions and culture tables (06), the depth-wise step and arg-max
(08 R218, R220), the Welford step (06 R176) and the fused state update (07 R184 to R186). -/
namespace Sys2Proof.Machine

/-- VEXP. -/
def execVexp (b : Slot) (vd va : BitVec 6) (refine : Bool) (ty : VTy) (s : State) : Host.Outcome State Fault Refusal :=
  .next (workOp b vd 4 (fun c col old =>
    mapElems ty col old (fun k => viaFp32 ty (builtin .exp refine) (elemAt ty (c.vr va) k))) s)
/-- VLOG. -/
def execVlog (b : Slot) (vd va : BitVec 6) (refine : Bool) (ty : VTy) (s : State) : Host.Outcome State Fault Refusal :=
  .next (workOp b vd 4 (fun c col old =>
    mapElems ty col old (fun k => viaFp32 ty (builtin .log refine) (elemAt ty (c.vr va) k))) s)
/-- VRCP. -/
def execVrcp (b : Slot) (vd va : BitVec 6) (refine : Bool) (ty : VTy) (s : State) : Host.Outcome State Fault Refusal :=
  .next (workOp b vd 4 (fun c col old =>
    mapElems ty col old (fun k => viaFp32 ty (builtin .rcp refine) (elemAt ty (c.vr va) k))) s)
/-- VRSQ. -/
def execVrsq (b : Slot) (vd va : BitVec 6) (refine : Bool) (ty : VTy) (s : State) : Host.Outcome State Fault Refusal :=
  .next (workOp b vd 4 (fun c col old =>
    mapElems ty col old (fun k => viaFp32 ty (builtin .rsq refine) (elemAt ty (c.vr va) k))) s)


/-- VTAB (06 R168, R170, R172): it waits while the slot's swap is pending; an empty slot stops the core. -/
def execVtab (b : Slot) (vd va : BitVec 6) (slot : BitVec 3) (ty : VTy) (s : State) : Host.Outcome State Fault Refusal :=
  .next (slotOp b (fun pre now =>
    let t := now.tab slot.toNat
    if t.pend then .stall
    else match t.act with
      | none => .stop E_TAB_EMPTY
      | some tb => .ok ((now.vw vd (mapElems ty (pre.colMask b.pm) (now.vr vd)
          (fun k => viaFp32 ty tb.eval (elemAt ty (pre.vr va) k)))).count 4 (lanesOn (pre.colMask b.pm) 0 128).length)) s)

/-- VDW (08 R218). -/
def execVdw (b : Slot) (vd va : BitVec 6) (sb : BitVec 4) (vc : BitVec 6) (ty : VTy) (s : State) :
    Host.Outcome State Fault Refusal :=
  .next (slotOp b (fun pre now =>
    let w := (pre.sr sb).toNat
    let o := bitsOf w 40 32
    let n := if VTy.is16 ty then 256 else 128
    if w / 2 ^ 41 ≠ 0 ∨ n < o then .stop E_CORE_OPERAND
    else match VTy.fmt? ty with
      | none => .ok now
      | some f =>
        let win := fun k => if k < n then elemAt ty (pre.vr va) k else elemAt ty (pre.vr vc) (k - n)
        .ok ((now.vw vd (mapElems ty (pre.colMask b.pm) (now.vr vd) (fun k =>
          let d := elemAt ty (pre.vr vd) k
          roundTo f (seedOf 14 (w % 2 ^ 32) (win (o + k)) d)
            (((f32 (BitVec.ofNat 32 w)).mul (.ofBits f (win (o + k)))).add (.ofBits f d))))).count 3
          (lanesOn (pre.colMask b.pm) 0 128).length)) s)

/-- One Welford step of a lane (06 R176): each line rounded once; the new mean and M2. -/
def welford (n : Nat) (x mean m2 : W32) : W32 × W32 :=
  let delta := fsub32 x mean
  let mean' := match f32 mean, f32 delta with
    | .fin sm mm em, .fin sd md ed =>
      let a : Int := (FV.fin sm mm em).dy.n * (n + 1)
      let k := min em ed
      let num := a * 2 ^ (em - k).toNat + (FV.fin sd md ed).dy.n * 2 ^ (ed - k).toNat
      if num = 0 then rn32 0 (.fin (sm && sd && mm == 0 && md == 0) 0 0)
      else BitVec.ofNat 32 (roundQ .fp32 .nearest (decide (num < 0)) num.natAbs (n + 1) k)
    | a, d => rn32 (seedOf 15 x.toNat mean.toNat n) (a.add d)
  let m2' := rn32 (seedOf 16 x.toNat mean.toNat m2.toNat)
    ((f32 m2).add ((f32 delta).mul ((f32 x).add (f32 mean').neg)))
  (mean', m2')

/-- VWEL (06 R176). -/
def execVwel (b : Slot) (vd va : BitVec 6) (sb : BitVec 4) (vc : BitVec 6) (s : State) :
    Host.Outcome State Fault Refusal :=
  .next (slotOp b (fun pre now =>
    let n := (pre.sr sb).toNat % 2 ^ 32
    if 16777216 ≤ n then .stop E_CORE_OPERAND
    else
      let col := pre.colMask b.pm
      let r := fun j => welford n (lane (pre.vr va) j) (lane (pre.vr vd) j) (lane (pre.vr vc) j)
      .ok ((now.vw vd (mapLanes col (now.vr vd) (fun j => (r j).1))).vw vc
        (mapLanes col (now.vr vc) (fun j => (r j).2)))) s)

/-- Whether a candidate of an arg-max replaces the running maximum (08 R220). -/
def amaxTakes (f : Fmt) (cand cur : Nat) : Bool :=
  let x := FV.ofBits f cand
  let y := FV.ofBits f cur
  !y.isNan && (x.isNan || y.lt x)

/-- VAMAX (08 R220). -/
def execVamax (b : Slot) (vd va : BitVec 6) (sb : BitVec 4) (vc : BitVec 6) (ty : VTy) (s : State) :
    Host.Outcome State Fault Refusal :=
  .next (slotOp b (fun pre now =>
    match VTy.fmt? ty with
    | none => .ok now
    | some f =>
      let col := pre.colMask b.pm
      let ch := (pre.sr sb).toNat % 65536
      let takes := fun k => amaxTakes f (elemAt ty (pre.vr va) k) (elemAt ty (pre.vr vd) k)
      .ok ((now.vw vd (mapElems ty col (now.vr vd)
          (fun k => if takes k then elemAt ty (pre.vr va) k else elemAt ty (pre.vr vd) k))).vw vc
        (mapElems ty col (now.vr vc) (fun k => if takes k then ch else elemAt ty (pre.vr vc) k)))) s)

/-! ES48 (07 R180 to R185). -/

/-- The exponent E of a hi part: −126 where it is zero or subnormal (R180). -/
def es48Exp (hi : W32) : Int := if (hi.toNat / 2 ^ 23) % 256 = 0 then -126 else ((hi.toNat / 2 ^ 23 % 256 : Nat) : Int) - 127

/-- (t − hi) / 2^(E − 39) to the nearest integer, ties to even (R184). -/
def es48Comp (t : Dy) (hi : W32) : Int :=
  Dy.roundInt .nearest ((t.sub (f32 hi).dy).scale (39 - es48Exp hi))

/-- The next FP32 value toward +∞. -/
def nextUp (x : W32) : W32 :=
  if x.toNat % 2 ^ 31 = 0 then 1 else if x.getLsbD 31 then x - 1 else x + 1

/-- The update of one element: hi′, comp′ and whether it overflowed (R184, R185). Where step 4 takes the largest finite hi′ to +Inf, comp′
is zero (R180), and it counts as an overflow: DESIGN CHOICE, log entry 78. -/
def es48Step (hi : W32) (comp : Int) (a u : W32) : W32 × Int × Bool :=
  match f32 hi, f32 a, f32 u with
  | .fin sh mh eh, .fin sa ma ea, .fin su mu eu =>
    let sv := FV.ofDy sh ((FV.fin sh mh eh).dy.add ⟨comp, es48Exp hi - 39⟩)
    let t := ((FV.fin sa ma ea).mul sv).add (.fin su mu eu)
    let h := rnq32 t
    if (f32 h).isFin then
      let c := es48Comp t.dy h
      let h' := nextUp h
      if c ≠ 32768 then (h, c, false)
      else if (f32 h').isFin then (h', es48Comp t.dy h', false)
      else (h', 0, true)
    else (h, 0, true)
  | x, y, z => (rn32 (seedOf 17 hi.toNat a.toNat u.toNat) ((y.mul x).add z), 0, false)

/-- VESU (07 R184 to R186). -/
def execVesu (b : Slot) (vd : BitVec 6) (sa : BitVec 4) (vb vc : BitVec 6) (s : State) : Host.Outcome State Fault Refusal :=
  .next (slotOp b (fun pre now =>
    let a := (pre.sr sa).toNat
    let col := pre.colMask b.pm
    let js := lanesOn col 0 128
    if a % 256 ≠ 0 ∨ 195840 < a then .stop E_CORE_OPERAND
    else if pre.amHeld true [(a, 768)] then .stall
    else
      now.guarded [] [] (js.map (fun j => (a + 4 * j, 4)) ++ js.map (fun j => (a + 512 + 2 * j, 2))) [] (.stop E_CORE_ECC) fun now =>
      let r := js.map (fun j => (j, es48Step (BitVec.ofNat 32 (Mem.rdLE now.am (a + 4 * j) 4))
        (sextN 16 (Mem.rdLE now.am (a + 512 + 2 * j) 2)) (lane (pre.vr vb) j) (lane (pre.vr vc) j)))
      let am := r.foldl (fun m q =>
        Mem.wrLE (Mem.wrLE m (a + 4 * q.1) 4 q.2.1.toNat) (a + 512 + 2 * q.1) 2 (q.2.2.1 % 65536).toNat) now.am
      let ovf := (r.filter (fun q => q.2.2.2)).length
      let v := mapLanes col (now.vr vd) (fun j => BitVec.ofNat 32 (Mem.rdLE am (a + 4 * j) 4))
      .ok ({ now.vw vd v with am := am, stateOvf := now.stateOvf + BitVec.ofNat 64 ovf }.count 3 js.length)) s)

end Sys2Proof.Machine
end

