-- ==== Sys2Proof/Machine/Matrix.lean ====
section
/-! DEFINITION. The matrix slot (02 R44 to R48; 03 R70 to R83). -/
namespace Sys2Proof.Machine

/-- The cells that take part: row bit i and column bit j (02 R48). -/
def cellsOn (row col : W32) : List (Nat × Nat) :=
  (List.range 32).flatMap fun i =>
    if row.getLsbD i then (List.range 32).filterMap (fun j => if col.getLsbD j then some (i, j) else none) else []

/-- Byte address of the curd register of cell (i, j) of the tile at KiB `t`, and of its carry (02 R37). -/
def curdAddr (t : Nat) (i j : Nat) : Nat := 1024 * t + 16 * (32 * i + j)
def carryAddr (t : Nat) (i j : Nat) : Nat := 1024 * t + 16384 + 4 * (32 * i + j)

namespace CoreRegs
def curd (c : CoreRegs) (t i j : Nat) : Curd := .ofNat (Mem.rdLE c.am (curdAddr t i j) 16)
def setCurd (c : CoreRegs) (t i j : Nat) (v : Curd) : CoreRegs :=
  { c with am := Mem.wrLE c.am (curdAddr t i j) 16 v.toNat }
def carry (c : CoreRegs) (t i j : Nat) : W32 := BitVec.ofNat 32 (Mem.rdLE c.am (carryAddr t i j) 4)
def setCarry (c : CoreRegs) (t i j : Nat) (v : W32) : CoreRegs :=
  { c with am := Mem.wrLE c.am (carryAddr t i j) 4 v.toNat }
/-- The whey sum of a cell. -/
def wheySum (c : CoreRegs) (i j : Nat) : W32 := AMap.getD c.whey 0 (32 * i + j)
def setWhey (c : CoreRegs) (i j : Nat) (v : W32) : CoreRegs := { c with whey := AMap.insert c.whey (32 * i + j) v }
end CoreRegs

/-- Element k of row (or column) i of an operand at `a` (02 R46). -/
def operandElem (tb : Mem) (fmt a i k : Nat) : FV :=
  let row := a + i * rowBytes fmt
  match elemBits fmt with
  | 4 => elemVal fmt ((Mem.rd tb (row + k / 2)).toNat / 2 ^ (4 * (k % 2)) % 16)
  | 8 => elemVal fmt (Mem.rd tb (row + k)).toNat
  | _ => elemVal fmt (Mem.rdLE tb (row + 2 * k) 2)

/-- A row (or column) of an operand: its 32 elements and its scale byte. -/
def operandRow (tb : Mem) (fmt a i : Nat) : List FV × Nat :=
  ((List.range 32).map (operandElem tb fmt a i), (Mem.rd tb (a + 32 * rowBytes fmt + i)).toNat)

/-- The curd registers and the carries of cells of a tile: ranges of accumulator memory. -/
def curdRanges (t : Nat) (cells : List (Nat × Nat)) : List (Nat × Nat) := cells.map (fun e => (curdAddr t e.1 e.2, 16))
def carryRanges (t : Nat) (cells : List (Nat × Nat)) : List (Nat × Nat) := cells.map (fun e => (carryAddr t e.1 e.2, 4))
/-- Whether an outstanding transfer holds a KiB of the tile at `t` (02 R41). -/
def CoreRegs.tileHeld (c : CoreRegs) (t : Nat) : Bool := c.amHeld true [(1024 * t, 20480)]

/-- A tile base the matrix slot may name (02 R37). -/
def tileOk (acc : BitVec 8) : Bool := decide (acc.toNat ≤ 172)

def mmaCells (p : Pair) (tb : Mem) (fa fb a b t : Nat) (first : Bool) (cells : List (Nat × Nat)) (c : CoreRegs) : CoreRegs :=
  cells.foldl (fun c ij =>
    let x := operandRow tb fa a ij.1
    let y := operandRow tb fb b ij.2
    let old := if first then Curd.clear else c.curd t ij.1 ij.2
    c.setCurd t ij.1 ij.2 (Curd.addBlock p old x.1 y.1 x.2 y.2)) c

/-- MNOP. -/
def execMnop (b : Slot) (s : State) : Host.Outcome State Fault Refusal :=
  .next (slotOp b (fun _ now => .ok now) s)

/-- The event of R378 that a product of two formats is: a MAC at 4 bits and below, at FP8, at BF16 or FP16; the wider format counts. -/
def macEvent (fa fb : Nat) : Nat := match max (elemBits fa) (elemBits fb) with | 4 => 0 | 8 => 1 | _ => 2
/-- MMA (03 R72 to R74; 02 R46, R48): checks in the order of R74, then one micro-block for every enabled cell. A cell that an open K-block
claims with a count of 33 to 63, which only bytes written from outside the matrix slot can hold, counts as open: DESIGN CHOICE, log
entry 77. -/
def execMma (b : Slot) (aReg bReg : BitVec 4) (acc : BitVec 8) (postInc first : Bool) (s : State) :
    Host.Outcome State Fault Refusal :=
  .next (slotOp b (fun pre now =>
    let fa := pre.mfmtA.toNat
    let fb := pre.mfmtB.toNat
    let a := (pre.sr aReg).toNat
    let bb := (pre.sr bReg).toNat
    let cells := cellsOn (pre.rowMask b.pm) (pre.colMask b.pm)
    match pairOf fa fb with
    | none => .stop E_CORE_FMT
    | some p =>
      if !tileOk acc then .stop E_CORE_OPERAND
      else if !(tbOk a (operandSize fa) && tbOk bb (operandSize fb)) then .late E_CORE_OPERAND
      else if pre.tileHeld acc.toNat then .stall
      else
        let cu := curdRanges acc.toNat cells
        now.guarded [(a, operandSize fa), (bb, operandSize fb)] [] (if first then [] else cu) cu (.stop E_CORE_ECC) fun now =>
        if !first && cells.any (fun ij => (now.curd acc.toNat ij.1 ij.2).mbc == 32) then .stop E_CORE_KBLOCK
        else if !first && cells.any (fun ij =>
            let c := now.curd acc.toNat ij.1 ij.2
            c.mbc != 0 && c.pair != p.code) then .stop E_CORE_FMT
        else
          let c := (mmaCells p now.tb fa fb a bb acc.toNat first cells now).count (macEvent fa fb) (32 * cells.length)
          .ok (if postInc then
                (c.sw aReg (pre.sr aReg + BitVec.ofNat 64 (operandSize fa))).sw bReg
                  (pre.sr bReg + BitVec.ofNat 64 (operandSize fb))
              else c)) s)

/-- The whey sum of a cell after 32 products, each addition rounded (03 R82). -/
def wheyAdd (w : W32) (xs ys : List FV) : W32 :=
  (List.zipWith FV.mul xs ys).foldl (fun w v => rn32 (seedOf 6 w.toNat 0 0) ((f32 w).add v)) w

/-- MWH (03 R82, R83). -/
def execMwh (b : Slot) (aReg bReg : BitVec 4) (acc : BitVec 8) (first : Bool) (s : State) :
    Host.Outcome State Fault Refusal :=
  .next (slotOp b (fun pre now =>
    let a := (pre.sr aReg).toNat
    let bb := (pre.sr bReg).toNat
    if !tileOk acc || (!first && now.wheyBase != some acc.toNat) then .stop E_CORE_OPERAND
    else if !(tbOk a 2048 && tbOk bb 2048) then .late E_CORE_OPERAND
    else
      now.guarded [(a, 2048), (bb, 2048)] [] [] [] (.stop E_CORE_ECC) fun now =>
      .ok (((cellsOn (pre.rowMask b.pm) (pre.colMask b.pm)).foldl (fun (c : CoreRegs) ij =>
        c.setWhey ij.1 ij.2 (wheyAdd (if first then 0 else now.wheySum ij.1 ij.2)
          (operandRow now.tb 8 a ij.1).1 (operandRow now.tb 8 bb ij.2).1))
        { now with wheyBase := some acc.toNat }).count 2 (32 * (cellsOn (pre.rowMask b.pm) (pre.colMask b.pm)).length))) s)

/-- The fold of one cell: the carry, the curd register cleared, the whey sum consumed; spills and overflows counted. -/
def foldCell (t : Nat) (init join : Bool) (c : CoreRegs) (i j : Nat) : CoreRegs × Nat × Nat :=
  let cu := c.curd t i j
  let r := cu.fold (c.carry t i j) (if join then some (c.wheySum i j) else none) init
  let c1 := (c.setCarry t i j r.1).setCurd t i j .clear
  (if join then c1.setWhey i j 0 else c1, b2n cu.sticky, b2n r.2)

/-- MFOLD (03 R77 to R79, R83). -/
def execMfold (b : Slot) (acc : BitVec 8) (init join : Bool) (s : State) : Host.Outcome State Fault Refusal :=
  .next (slotOp b (fun pre now =>
    let cells := cellsOn (pre.rowMask b.pm) (pre.colMask b.pm)
    if !tileOk acc || (join && now.wheyBase != some acc.toNat) then .stop E_CORE_OPERAND
    else if pre.tileHeld acc.toNat then .stall
    else
      let ar := curdRanges acc.toNat cells ++ (if init then [] else carryRanges acc.toNat cells)
      now.guarded [] [] ar (carryRanges acc.toNat cells) (.stop E_CORE_ECC) fun now =>
      let r := cells.foldl (fun r ij =>
        let q := foldCell acc.toNat init join r.1 ij.1 ij.2
        (q.1, r.2.1 + q.2.1, r.2.2 + q.2.2)) (now, 0, 0)
      .ok (r.1.countFold r.2.1 r.2.2)) s)

/-- MSETC (02 R45, R48): the carries of the enabled cells from an FP32 tile, or from one FP32 row for every row. -/
def execMsetc (b : Slot) (aReg : BitVec 4) (acc : BitVec 8) (bcast : Bool) (s : State) :
    Host.Outcome State Fault Refusal :=
  .next (slotOp b (fun pre now =>
    let a := (pre.sr aReg).toNat
    let n := if bcast then 128 else 4096
    let cells := cellsOn (pre.rowMask b.pm) (pre.colMask b.pm)
    if !tileOk acc then .stop E_CORE_OPERAND
    else if !tbOk a n then .late E_CORE_OPERAND
    else if pre.tileHeld acc.toNat then .stall
    else
      now.guarded [(a, n)] [] [] (carryRanges acc.toNat cells) (.stop E_CORE_ECC) fun now =>
      .ok (cells.foldl (fun c ij =>
        c.setCarry acc.toNat ij.1 ij.2
          (BitVec.ofNat 32 (Mem.rdLE now.tb (a + (if bcast then 4 * ij.2 else 4 * (32 * ij.1 + ij.2))) 4))) now)) s)

/-- MZERO (02 R45): curd registers and carries of the enabled cells to zero. -/
def execMzero (b : Slot) (acc : BitVec 8) (s : State) : Host.Outcome State Fault Refusal :=
  .next (slotOp b (fun pre now =>
    let cells := cellsOn (pre.rowMask b.pm) (pre.colMask b.pm)
    if !tileOk acc then .stop E_CORE_OPERAND
    else if pre.tileHeld acc.toNat then .stall
    else
      now.guarded [] [] [] (curdRanges acc.toNat cells ++ carryRanges acc.toNat cells) (.stop E_CORE_ECC) fun now =>
      .ok (cells.foldl (fun c ij =>
        (c.setCarry acc.toNat ij.1 ij.2 0).setCurd acc.toNat ij.1 ij.2 .clear) now)) s)

end Sys2Proof.Machine
end

