-- ==== Sys2Proof/Machine/Power.lean ====
section
/-! DEFINITION. Clocks, power states, tolerances, limits and temperatures (18). -/
namespace Sys2Proof.Machine

/-! Power states (R468 to R475). -/

/-- Exit times in microseconds, rounded up (R468, R480). -/
def exitUs (st : Nat) : Nat := match st with | 0 => 0 | 1 => 1 | 2 => 20 | 3 => 2000 | 4 => 30000 | _ => 2000000
/-- Ten times an exit time, in ticks of 10 ns (R470). -/
def idleTicks (st : Nat) : Nat := match st with | 1 => 500 | st => 1000 * exitUs st
/-- The most microseconds an entry may still take past its last abort point (R472), rounded up. -/
def entryUs (st : Nat) : Nat := match st with | 1 => 1 | 2 => 5 | 3 => 400 | _ => 5000

/-- A context's tolerance in a court, and a court's management tolerance (R475). -/
def State.tolCtx (s : State) (court ctx : Nat) : Nat := AMap.getD s.pwr.tolCtx 1 (1024 * court + ctx)
def State.tolCourt (s : State) (court : Nat) : Nat := AMap.getD s.pwr.tolCourt 30000 court
/-- A court's effective tolerance (R475). -/
def State.effTol (s : State) (court : Nat) : Nat :=
  ((s.sch.ctxs.filter (fun e => decide (e.2.st ≠ 0) && decide (s.courtOf e.1 = court))).map (fun e => s.tolCtx court e.1)).foldl min
    (s.tolCourt court)
/-- Whether a tolerance permits a state: its exit time is at most the tolerance (PS1: 0.5 µs). -/
def permitsState (tol st : Nat) : Bool := decide (exitUs st ≤ tol)

/-- MSG_PWR_EVENT (R480). -/
def State.pwrEvent (s : State) (court reason state exit : Nat) : State :=
  s.eventMgmt 0x0A03 0xFFFF ([BitVec.ofNat 8 court, BitVec.ofNat 8 reason, BitVec.ofNat 8 state,
    BitVec.ofNat 8 (max s.pwr.capA s.pwr.capV)] ++ leBytes 4 exit ++ leBytes 8 s.counter.toNat)

/-- A store whose contents are lost: free values (log entry 2). -/
def State.lostStore (s : State) (base n : Nat) : Mem := Mem.wrBytes [] 0 ((List.range n).map (fun i => BitVec.ofNat 8 (s.fv (base + i))))
/-- What a court's cores lose on entry to PS2 (tile buffers; registers are undefined at every start, 02 R61), and to PS3, where
nothing in the clusters is retained. -/
def State.loseStores (s : State) (court : Nat) (deep : Bool) : State :=
  let cores := (s.courtCores court).foldl (fun s p => s.modCore p (fun c =>
    let tb := s.lostStore (2 ^ 21 * p) Config.tileBufferBytes
    if deep then { c with tb := tb, am := s.lostStore (2 ^ 21 * p + 2 ^ 19) Config.accBytes,
                          istore := s.lostStore (2 ^ 21 * p + 2 ^ 20) 32768, tabs := [] }
    else { c with tb := tb })) s
  let t := if deep then
      ((s.courtDies court).flatMap (fun d => (List.range 25).map (25 * d + ·))).foldl (fun t n =>
        t.modClu n (fun c => { c with staging := s.lostStore (2 ^ 40 + 2 ^ 23 * n) Config.stagingBytes })) cores
    else cores
  t.drawn
/-- What an exit from PS3 or PS4 brings back: kernel images in the staging buffers and every table slot (R473). -/
def State.restoreClusters (s : State) (court : Nat) : State :=
  let tabs := (List.range 8).filterMap (fun k => match AMap.find? s.book.tables (8 * court + k) with
    | some (_, t) => some (k, (⟨some t, none, false, false⟩ : TabSlot))
    | none => none)
  let s1 := (s.courtCores court).foldl (fun s p => s.modCore p (fun c => { c with tabs := tabs })) s
  (s1.stageKernels court).tabAnswers court

/-- The resident streams of a court. -/
def State.courtStreams (s : State) (court : Nat) : List Nat :=
  (s.sch.seqs.filter (fun e => decide (e.2.court = court) && e.2.hasStream && decide (e.2.stream.st = .resident))).map (·.1)
/-- Streams parked one after another (14 R365; R473), as far as they fit; whether all are. -/
def State.parkAll (s : State) : List Nat → State × Bool
  | [] => (s, true)
  | i :: is => match s.benchSeq i with
    | none => (s, false)
    | some t => t.parkAll is

/-- PS_ENTRY: an idle court's time for the next state has come, and its entry begins; into PS3 its streams are parked first, and one
that does not fit reverses the entry (R470, R472, R473). -/
def execPsEntry (court : Nat) (s : State) : Host.Outcome State Fault Refusal :=
  .next <|
    let p := s.courtPwr court
    let next := p.st + 1
    if !s.courtDefined court ∨ p.entering ∨ p.waking ∨ 4 ≤ p.st ∨ s.pwr.ps5 ∨ !s.courtIdle court then s
    else if p.idleSince = 0 then s.markCourt court
    else if !permitsState (s.effTol court) next ∨ s.counter.toNat + 1 < p.idleSince + idleTicks next then s
    else if next = 3 then
      let r := s.parkAll (s.courtStreams court)
      if r.2 then r.1.setCourtPwr court { p with entering := true } else r.1.pwrEvent court 2 2 (exitUs 2)
    else s.setCourtPwr court { p with entering := true }

/-- PS_ENTRY_COMPLETE: the court is in the new state (R468, R472). An exit that a late wake asked for goes on from there. -/
def execPsEntryComplete (court : Nat) (s : State) : Host.Outcome State Fault Refusal :=
  .next <|
    let p := s.courtPwr court
    if !p.entering then s
    else
      let st := p.st + 1
      let s1 := s.countIdle.setCourtPwr court { p with st := st, entering := false }
      let s2 := if st = 2 then s1.loseStores court false else if st = 3 then s1.loseStores court true else s1
      (s2.tabAnswers court).pwrEvent court 0 st (exitUs st)

/-- PS_WAKE: a wake event (R471). `remUs` 0: an entry in progress has not reached its last abort point, and is reversed; otherwise
it completes in `remUs` microseconds and the exit follows (R472). -/
def execPsWake (court remUs : Nat) (s : State) : Host.Outcome State Fault Refusal :=
  .next <|
    let p := s.courtPwr court
    if !s.courtDefined court ∨ p.waking ∨ (p.st = 0 ∧ !p.entering) then s
    else if !p.entering then s.setCourtPwr court { p with waking := true, exitUs := exitUs p.st, idleSince := 0 }
    else if remUs = 0 then
      (s.setCourtPwr court { p with
        entering := false, waking := decide (p.st ≠ 0), exitUs := exitUs p.st, idleSince := 0 }).pwrEvent court 2 p.st (exitUs p.st)
    else if entryUs (p.st + 1) < remUs then s
    else s.setCourtPwr court { p with waking := true, exitUs := remUs + exitUs (p.st + 1), idleSince := 0 }

/-- PS_EXIT_COMPLETE: the court can start a run (R468, R473). -/
def execPsExitComplete (court : Nat) (s : State) : Host.Outcome State Fault Refusal :=
  .next <|
    let p := s.courtPwr court
    if !p.waking ∨ p.entering then s
    else
      let s1 := s.countIdle.setCourtPwr court { p with st := 0, waking := false }
      ((if 3 ≤ p.st then s1.restoreClusters court else s1.swapOnWake court).pwrEvent court 1 0 p.exitUs).mark

/-- PS5_ENTRY (R474): application cores, codec engines, field-role ports and flash controllers go off. -/
def execPs5Entry (s : State) : Host.Outcome State Fault Refusal :=
  .next <|
    let courts := (List.range 8).filter s.courtDefined
    let deep (k : Nat) : Bool := let p := s.courtPwr k; decide (p.st = 4) && !p.entering && !p.waking
    let app := s.ump.mbxs.any (fun e => isApp e.1 && e.2.session)
    if s.pwr.ps5 ∨ !courts.all deep ∨ s.pwr.tolModule < 2000000 ∨ s.cdc.streams ≠ [] ∨ app then s
    else ({ s with pwr := { s.pwr with ps5 := true } }).pwrEvent 0xFF 0 5 (exitUs 5)
/-- The module leaves PS5. -/
def State.leavePs5 (s : State) : State :=
  if s.pwr.ps5 then ({ s with pwr := { s.pwr with ps5 := false } }).pwrEvent 0xFF 1 0 (exitUs 5) else s
/-- PS5_WAKE: a request on a management mailbox, or a tighter module tolerance (R474). -/
def execPs5Wake (s : State) : Host.Outcome State Fault Refusal := .next s.leavePs5

/-! Messages (R480). -/

/-- The state of a court, or of the module (0xFF). -/
def State.shownPs (s : State) (court : Nat) : Nat := if s.pwr.ps5 then 5 else if court = 0xFF then 0 else (s.courtPwr court).st
/-- A court's tolerance has changed (R475): below its state's exit time the court wakes; a looser one starts the idle count anew. -/
def State.retune (s : State) (court before : Nat) : State :=
  let p := s.courtPwr court
  let now := s.effTol court
  if before < now then (s.setCourtPwr court { p with idleSince := 0 }).markCourt court
  else if !permitsState now p.st ∧ !p.entering ∧ !p.waking then
    s.setCourtPwr court { p with waking := true, exitUs := exitUs p.st, idleSince := 0 }
  else s

/-- MSG_PWR_TOLERANCE. -/
def execMsgPwrTolerance (mbx : Nat) (s : State) : Host.Outcome State Fault Refusal :=
  .next (serve 0x0A00 mbx (fun r s =>
    let court := r.fld 0 1
    let tol := r.fld 4 4
    let mg := bitOf (r.fld 1 1) 0
    let done (s : State) := s.answer r 0 ([BitVec.ofNat 8 (s.shownPs court), 0] ++ leBytes 4 (exitUs (s.shownPs court)))
    if (mg ∨ court = 0xFF) ∧ !isMgmt r.mbx then s.refuse r E_PWR_PERM 6
    else if court = 0xFF then
      let s1 := { s with pwr := { s.pwr with tolModule := tol } }
      done (if tol < 2000000 then s1.leavePs5 else s1)
    else if !s.courtDefined court ∨ (!mg ∧ 1023 < r.ctx) then s.refuse r E_PWR_ARG 6
    else
      let before := s.effTol court
      let s1 := if mg then { s with pwr := { s.pwr with tolCourt := AMap.setD s.pwr.tolCourt 30000 court tol } }
        else { s with pwr := { s.pwr with tolCtx := AMap.setD s.pwr.tolCtx 1 (1024 * court + r.ctx) tol } }
      done (s1.retune court before)) s)

/-- MSG_PWR_PROFILE. -/
def execMsgPwrProfile (mbx : Nat) (s : State) : Host.Outcome State Fault Refusal :=
  .next (serve 0x0A01 mbx (fun r s =>
    let p := r.fld 0 1
    if 3 < p then s.answer r E_PWR_ARG (leBytes 1 s.pwr.profile ++ leBytes 5 0)
    else ({ s with pwr := { s.pwr with profile := p } }).answer r 0 (leBytes 1 p ++ leBytes 5 0)) s)

/-- MSG_PWR_QUERY. -/
def execMsgPwrQuery (mbx : Nat) (s : State) : Host.Outcome State Fault Refusal :=
  .next (serve 0x0A02 mbx (fun r s =>
    let court := r.fld 0 1
    if !s.courtDefined court then s.refuse r E_PWR_ARG 16
    else s.answer r 0 ([BitVec.ofNat 8 (s.shownPs court), BitVec.ofNat 8 s.pwr.profile] ++ leBytes 4 (s.effTol court) ++
      leBytes 4 s.pwr.now ++ leBytes 4 s.pwr.mean ++ [BitVec.ofNat 8 (max s.pwr.capA s.pwr.capV), 0])) s)

/-! Limits (R476 to R478). -/

/-- POWER_MEASURE: a 10 µs measurement and the mean of the window; above 18 kW the limiters act until one lies below it. Blade
voltages are told for information (R479). -/
def execPowerMeasure (watts mean : Nat) (volts : List Byte) (s : State) : Host.Outcome State Fault Refusal :=
  .next { s with pwr := { s.pwr with
    now := min watts 65535
    mean := min mean 65535
    throttle := if s.pwr.limiting then s.pwr.throttle + 1 else s.pwr.throttle
    limiting := if 18000 < watts then true else if watts < 18000 then false else s.pwr.limiting
    blades := BitVec.ofNat 60 (((List.range 5).map (fun b => min (leAt volts (2 * b) 2) 4095 * 2 ^ (12 * b))).sum) } }

/-- The continuous limit in force, in watts. -/
def PwrSt.limit (p : PwrSt) : Nat := (if p.profile = 3 then 10000 else 15000) - p.derate
/-- The next cap, in the order of the profile. -/
def PwrSt.capUp (p : PwrSt) : PwrSt :=
  if p.profile = 1 ∧ p.capV < 32 then { p with capV := p.capV + 1 }
  else if p.profile = 2 ∧ p.capA < 32 then { p with capA := p.capA + 1 }
  else { p with capA := min 63 (p.capA + 1), capV := min 63 (p.capV + 1) }
/-- A cap lifted, in the reverse order. -/
def PwrSt.capDown (p : PwrSt) : PwrSt :=
  if p.profile = 1 ∧ p.capA = 0 then { p with capV := p.capV - 1 }
  else if p.profile = 2 ∧ p.capV = 0 then { p with capA := p.capA - 1 }
  else { p with capA := p.capA - 1, capV := p.capV - 1 }
/-- GOVERNOR_STEP: BE dispatch is held first, then a cap a step; both are lifted in the reverse order below 95 % of the limit
(R477). -/
def execGovernorStep (s : State) : Host.Outcome State Fault Refusal :=
  .next <|
    let p := s.pwr
    let capped (q : PwrSt) : State := if q = p then s else ({ s with pwr := q }).pwrEvent 0xFF 3 (s.shownPs 0xFF) 0
    if p.limit < p.mean then
      if !p.beHeld then { s with pwr := { p with beHeld := true } } else capped p.capUp
    else if 100 * p.mean < 95 * p.limit then
      if p.capA = 0 ∧ p.capV = 0 then { s with pwr := { p with beHeld := false } } else capped p.capDown
    else s

/-- A temperature in 1/16 °C (21 R525). -/
def tempOf (v : Nat) : Int := (BitVec.ofNat 16 v).toInt
/-- THERMAL_CHECK: above 100 °C the continuous limit falls by 500 W a second until the hottest die is at 95 °C; then it is restored in
the same steps (R478). -/
def execThermalCheck (hottest inlet outlet : Nat) (s : State) : Host.Outcome State Fault Refusal :=
  .next <|
    let p := s.pwr
    let hot := if 1600 < tempOf hottest then true else if tempOf hottest ≤ 1520 then false else p.hot
    let top := if p.profile = 3 then 10000 else 15000
    let d := if hot then min top (p.derate + 500) else p.derate - 500
    let s1 := { s with pwr := { p with
      hot := hot, derate := d, hottest := hottest % 65536, inlet := inlet % 65536, outlet := outlet % 65536 } }
    if d = p.derate then s1 else s1.pwrEvent 0xFF 4 (s.shownPs 0xFF) 0
/-- THERMAL_STOP: at 115 °C a die's cores stop issuing at the next bundle boundary (R478). -/
def execThermalStop (die : Nat) (s : State) : Host.Outcome State Fault Refusal :=
  .next <|
    if 40 ≤ die ∨ s.pwr.stopped.contains die then s
    else (({ s with pwr := { s.pwr with stopped := s.pwr.stopped ++ [die] } }).raise (FRec.mk0 E_PWR_THERMAL 0 (ident 2 die))).pwrEvent
      0xFF 4 (s.shownPs 0xFF) 0
/-- THERMAL_RESUME: below 105 °C they resume. -/
def execThermalResume (die : Nat) (s : State) : Host.Outcome State Fault Refusal :=
  .next { s with pwr := { s.pwr with stopped := s.pwr.stopped.filter (· ≠ die) } }

/-! The reference clock (R464, R465). -/

/-- REFCLK_LOSS: a locked synthesiser enters holdover, and a record is raised; the module keeps computing. -/
def execRefclkLoss (s : State) : Host.Outcome State Fault Refusal :=
  .next <|
    let s1 := { s with pwr := { s.pwr with refGood := false, holdover := s.pwr.locked } }
    if s.pwr.locked && !s.pwr.holdover then (s1.raise (FRec.mk0 E_CLK_HOLDOVER 0 (ident 2 1024))).pwrEvent 0xFF 5 (s.shownPs 0xFF) 0
    else s1
/-- REFCLK_RESTORE: holdover ends without a pause. -/
def execRefclkRestore (s : State) : Host.Outcome State Fault Refusal :=
  .next { s with pwr := { s.pwr with refGood := true, holdover := false } }

end Sys2Proof.Machine
end

