-- ==== Sys2Proof/Machine/Security.lean ====
section
/-! DEFINITION. The management session, attestation, certificates, debug unlock (19 R494 to R499). -/
namespace Sys2Proof.Machine

/-! The management session (R494, R495). -/

/-- TLS_CONNECT: a client certificate that chains to a trust anchor (given by its digest) takes the lowest mailbox without a
connection; a fifth connection is closed. -/
def execTlsConnect (anchor : List Byte) (s : State) : Host.Outcome State Fault Refusal :=
  .next <|
    if !s.serving ∨ !s.sec.anchors.any (fun e => decide (e.2 = anchor)) then s
    else match [64, 65, 66, 67].find? (fun m => (s.mbx m).closed) with
      | none => s
      | some m => s.modMbx m (fun b => { b with closed := false })

/-- TLS_CLOSE: the connection ends, and with it the mailbox's session (16 R424). -/
def execTlsClose (mbx : Nat) (s : State) : Host.Outcome State Fault Refusal :=
  .next (if isMgmt mbx && !(s.mbx mbx).closed then s.modMbx mbx (fun b => { b.close with closed := true }) else s)

/-! Attestation (R496, R497). -/

/-- The pair that signs: 0 the identity of hub 0, 2 of hub 2. -/
def State.signer (s : State) : Nat := 2 * s.ump.acting
/-- An entry of a quote. -/
def quoteEntry (kind id : Nat) (digest : List Byte) : List Byte := leBytes 1 kind ++ leBytes 3 0 ++ leBytes 4 id ++ leBytes 8 0 ++ bytesAt digest 0 64
/-- Whether an application mailbox sees what belongs to a context. -/
def State.quoteSees (s : State) (m ctx : Nat) : Bool := !isApp m || s.permits m ctx
/-- A list in rising order of a key, entries of equal key in their order. -/
def insertBy (e : Nat × List Byte) : List (Nat × List Byte) → List (Nat × List Byte)
  | [] => [e]
  | x :: xs => if e.1 < x.1 then e :: x :: xs else x :: insertBy e xs
def sortBy (l : List (Nat × List Byte)) : List (Nat × List Byte) := l.foldl (fun a e => insertBy e a) []

/-- The entries of a quote, by kind and then by identifier. -/
def State.quoteEntries (s : State) (m kinds court set : Nat) : List (List Byte) :=
  let k (i : Nat) (l : List (List Byte)) : List (List Byte) := if kinds.testBit i then l else []
  let books := s.book.books.filter (fun e => (decide (court = 0xFF) || decide (e.2.court = court)) && s.quoteSees m e.2.ctx)
  let shards := s.wgt.shards.filter (fun e => decide (e.2.gen ≠ 0) && e.2.registered && (decide (set = 0) || decide (e.2.set = set)) &&
    (match AMap.find? s.wgt.sets e.2.set with | some w => w.shared || s.quoteSees m w.owner | none => false))
  let sorted := sortBy (sortBy (shards.map (fun e => (e.2.order, leBytes 4 (e.2.set + 256 * e.2.gen) ++ e.2.digest))) |>.map (fun e => (leAt e.2 0 4, e.2)))
  let adapters := s.wgt.adapters.filter (fun e => s.quoteSees m e.2.ctx && (match AMap.find? s.wgt.shards e.2.obj with | some h => h.registered | none => false))
  k 0 [quoteEntry 0 s.sec.fwVersion s.sec.fwDigest] ++
  k 1 [quoteEntry 1 s.ump.active (sha3 s.cfg.bytes)] ++
  k 2 (books.map (fun e => quoteEntry 2 e.1 e.2.plan.digest)) ++
  k 3 (sorted.map (fun e => quoteEntry 3 (leAt e.2 0 4) (e.2.drop 4))) ++
  k 4 (adapters.map (fun e => quoteEntry 4 e.1 (match AMap.find? s.wgt.shards e.2.obj with | some h => h.digest | none => [])))

/-- The debug level in force. -/
def State.debugLevel (s : State) : Nat := match s.sec.unlocked with | some l => l | none => 0
/-- A quote, signed. -/
def State.quote (s : State) (nonce : List Byte) (es : List (List Byte)) : List Byte :=
  let head := leBytes 4 0x544F5551 ++ leBytes 1 1 ++ leBytes 1 s.signer ++ leBytes 2 es.length ++ leBytes 4 (64 + 80 * es.length + 4627) ++
    leBytes 4 s.sec.bootCount.toNat ++ leBytes 8 s.counter.toNat ++ bytesAt nonce 0 32 ++ leBytes 1 s.debugLevel ++ leBytes 7 0 ++ es.flatten
  head ++ bytesAt (Config.mldsaSign s.signer head) 0 4627

/-- MSG_ATTEST_QUOTE. -/
def execMsgAttestQuote (mbx : Nat) (s : State) : Host.Outcome State Fault Refusal :=
  .next (serve 0x0B00 mbx (fun r s =>
    let court := r.fld 33 1
    let set := r.fld 34 1
    let dest := r.fld 40 8
    if 64 ≤ r.fld 32 1 ∨ (7 < court ∧ court ≠ 0xFF) ∨ 63 < set ∨ dest % 64 ≠ 0 then s.refuse r E_SEC_ARG 6
    else
      let es := s.quoteEntries mbx (r.fld 32 1) court set
      let n := 64 + 80 * es.length + 4627
      if r.fld 48 8 < n then s.refuse r E_SEC_ROOM 6
      else
        let w := s.objWrite r.access dest (s.quote (r.body.take 32) es)
        if w.2 ≠ 0 then w.1.refuse r w.2 6
        else w.1.answer r 0 (leBytes 2 es.length ++ leBytes 4 n)) s)

/-! Certificates (R492, R499). -/

/-- The certificates a request names, one after another: identities, the manufacturing CA's, the session's, or the whole chain. -/
def State.certs (s : State) (which : Nat) : List Byte :=
  let one (w : Nat) : List Byte := if w = 2 then Config.certificate 2 s.sec.bootCount.toNat s.sec.certGen else Config.certificate w 0 0
  if which = 4 then one 2 ++ one s.ump.acting ++ one 3 else one which

/-- MSG_ID_CERT. -/
def execMsgIdCert (mbx : Nat) (s : State) : Host.Outcome State Fault Refusal :=
  .next (serve 0x0B01 mbx (fun r s =>
    if 4 < r.fld 0 1 then s.refuse r E_SEC_ARG 6
    else
      let d := s.certs (r.fld 0 1)
      if r.fld 16 8 < d.length then s.refuse r E_SEC_ROOM 6
      else
        let w := s.objWrite r.access (r.fld 8 8) d
        if w.2 ≠ 0 then w.1.refuse r w.2 6 else w.1.answer r 0 (leBytes 2 0 ++ leBytes 4 d.length)) s)

/-! Debug unlock (R498). -/

/-- MSG_DEBUG_CHALLENGE: a new challenge replaces the old one; its random bytes are free values (log entry 2). -/
def execMsgDebugChallenge (mbx : Nat) (s : State) : Host.Outcome State Fault Refusal :=
  .next (serve 0x0B02 mbx (fun r s =>
      let ch := (List.range 32).map (fun i => BitVec.ofNat 8 (s.fv i)) ++ bytesAt (sha3 Config.identityKey) 0 24 ++
        leBytes 4 s.sec.bootCount.toNat ++ leBytes 4 s.counter.toNat
      let s1 := s.drawn
      ({ s1 with sec := { s1.sec with challenge := some (ch, s.counter.toNat + 300 * tickS), token := none } }).answer r 0 (leBytes 6 0 ++ ch)) s)

/-- Whether a whole token passes the checks of R498, for a challenge. -/
def State.tokenOk (s : State) (ch t : List Byte) : Bool :=
  let slot := leAt t 66 1
  let key := bytesAt t 80 2592
  decide (t.length = 7299) && decide (t.take 64 = ch) && decide (1 ≤ leAt t 64 1 ∧ leAt t 64 1 ≤ 2) && decide (slot ≤ 3) &&
  decide (60 ≤ leAt t 68 4 ∧ leAt t 68 4 ≤ 86400) && !s.sec.dbgRevoked.contains slot && decide (sha3 key = Config.dbgKeyDigest slot) &&
  decide (s.fuse 1 ≤ leAt t 65 1) && Config.mldsaVerify key (t.take 80) (bytesAt t 2672 4627)

/-- MSG_DEBUG_UNLOCK: a part of the token; the last one has it verified, and the challenge is spent. -/
def execMsgDebugUnlock (mbx : Nat) (s : State) : Host.Outcome State Fault Refusal :=
  .next (serve 0x0B03 mbx (fun r s =>
    let part := r.fld 0 1
    let parts := r.fld 1 1
    let n := r.fld 2 2
    if 7 < part ∨ parts = 0 ∨ 8 < parts ∨ n = 0 ∨ 992 < n ∨ r.body.length < 16 + n then s.refuse r E_SEC_ARG 0
    else
      let fresh := match s.sec.challenge with | some (_, t) => decide (s.counter.toNat < t) | none => false
      let expected := match s.sec.token with | some (k, m, _) => decide (part = k) && decide (parts = m) | none => decide (part = 0)
      if !fresh || !expected then s.refuse r E_DBG_STATE 0
      else
        let t := (match s.sec.token with | some (_, _, bs) => bs | none => []) ++ (r.body.drop 16).take n
        if part + 1 < parts then ({ s with sec := { s.sec with token := some (part + 1, parts, t) } }).answer r 0 []
        else
          let ch := match s.sec.challenge with | some (c, _) => c | none => []
          let ok := s.tokenOk ch t
          let s1 := { s with sec := { s.sec with challenge := none, token := none } }
          if !ok then s1.refuse r E_DBG_VERIFY 0
          else
            let s2 := { s1 with sec := { s1.sec with unlocked := some (leAt t 64 1), unlockEnd := s.counter.toNat + leAt t 68 4 * tickS } }
            (s2.raise (FRec.mk0 E_DBG_UNLOCKED 0 (ident 2 1024))).answer r 0 []) s)

/-- DEBUG_CHALLENGE_EXPIRY: 300 s after its issue. -/
def execDebugChallengeExpiry (s : State) : Host.Outcome State Fault Refusal :=
  .next <| match s.sec.challenge with
  | some (_, t) => if t ≤ s.counter.toNat then { s with sec := { s.sec with challenge := none, token := none } } else s
  | none => s

/-- DEBUG_UNLOCK_EXPIRY: at the end of the token's duration. -/
def execDebugUnlockExpiry (s : State) : Host.Outcome State Fault Refusal :=
  .next (if s.sec.unlocked.isSome ∧ s.sec.unlockEnd ≤ s.counter.toNat then { s with sec := { s.sec with unlocked := none, unlockEnd := 0 } } else s)

end Sys2Proof.Machine
end

