-- ==== Sys2Proof/Machine/Smbus.lean ====
section
/-! DEFINITION. The SMBus interface (21 R525; 19 R489, R495). -/
namespace Sys2Proof.Machine

/-! Registers it shows, whole. -/

/-- SEC_BOOT. -/
def State.secBoot (s : State) : Nat := s.sec.step + 16 * b2n s.sec.failed + 32 * b2n s.sec.bank + 65536 * s.sec.fault.toNat
/-- FLT_BUDGET: spares used or failed, clusters degraded, pairs retired (20). -/
def State.fltBudget (s : State) : Nat :=
  (s.clus.filter (fun e => e.2.spareUsed || e.2.failed.contains 25)).length + 1024 * (s.clus.filter (fun e => e.2.degraded)).length + 2 ^ 20 * s.flt.pairsRetired
/-- XFER_STATUS. -/
def SmbSt.xferStatus (m : SmbSt) : Nat := b2n m.anchorRefused + 2 * b2n m.bundleRefused

/-! Transactions. A transaction without a valid PEC is NACKed and has no effect; the module answers from step 2 on. -/

def State.smbOut (s : State) (bs : List Byte) : State := { s with smb := { s.smb with out := bs, nack := false } }
def State.smbAck (s : State) : State := s.smbOut []
def State.smbNack (s : State) : State := { s with smb := { s.smb with out := [], nack := true } }
def State.smbUp (s : State) (pec : Bool) : Bool := pec && decide (2 ≤ s.sec.step)
/-- A block read. -/
def State.smbRead (s : State) (pec : Bool) (bs : List Byte) : State := if s.smbUp pec then s.smbOut bs else s.smbNack

/-- BOOT_STATUS. -/
def execBootStatus (pec : Bool) (s : State) : Host.Outcome State Fault Refusal :=
  .next (s.smbRead pec (leBytes 4 s.secBoot ++ leBytes 4 s.sec.bootCount.toNat ++ leBytes 4 s.fltBudget ++ leBytes 4 s.smb.xferStatus))
/-- BLADE_VOLTS. -/
def execBladeVolts (pec : Bool) (s : State) : Host.Outcome State Fault Refusal :=
  .next (s.smbRead pec ((List.range 5).flatMap (fun i => leBytes 2 (bitsOf s.pwr.blades.toNat (12 * i + 11) (12 * i)))))
/-- THERMAL. -/
def execThermal (pec : Bool) (s : State) : Host.Outcome State Fault Refusal :=
  .next (s.smbRead pec (leBytes 2 s.pwr.hottest ++ leBytes 2 s.pwr.inlet ++ leBytes 2 s.pwr.outlet))

/-- MGMT_ADDR: the static address, or DHCP. In recovery nothing but a bundle is accepted (19 R489). -/
def execMgmtAddr (pec : Bool) (data : List Byte) (s : State) : Host.Outcome State Fault Refusal :=
  .next (if !s.smbUp pec ∨ s.sec.step = 9 ∨ data.length ≠ 12 then s.smbNack
    else ({ s with smb := { s.smb with addr := data } }).smbAck)

/-- Whether a kind of transfer is accepted: a recovery bundle in recovery only, an anchor change at any other time. -/
def State.kindOk (s : State) (kind : Nat) : Bool := if s.sec.step = 9 then decide (kind = 0) else decide (kind = 1)

/-- XFER_DATA: a chunk of a transfer; one of another kind discards what has not ended. -/
def execXferData (pec : Bool) (data : List Byte) (s : State) : Host.Outcome State Fault Refusal :=
  .next <|
    let kind := leAt data 0 1
    if !s.smbUp pec ∨ data.length < 6 ∨ 255 < data.length ∨ !s.kindOk kind then s.smbNack
    else
      let old : Mem := match s.smb.xfer with | some (k, m) => if k = kind then m else [] | none => []
      ({ s with smb := { s.smb with xfer := some (kind, Mem.wrBytes old (leAt data 1 4) (data.drop 5)) } }).smbAck

/-- Whether an anchor change is allowed: unsigned while the store is empty, else signed by a current anchor (19 R495). -/
def State.anchorOk (s : State) (b : List Byte) : Bool :=
  decide (leAt b 0 1 ≤ 3) && decide (leAt b 1 1 ≤ 1) && decide (leAt b 2 2 = 0) &&
  (if s.sec.anchors = [] then decide (b.length = 68)
   else
     let key := bytesAt b 72 2592
     decide (b.length = 7291) && decide (leAt b 69 3 = 0) && decide (AMap.find? s.sec.anchors (leAt b 68 1) = some (sha3 key)) &&
     Config.mldsaVerify key (b.take 68) (bytesAt b 2664 4627))

/-- XFER_END: the module acts on the assembled transfer. A bundle that passes R488 goes to bank A, and start-up begins anew; an anchor
change is checked and applied; either is refused with its bit of XFER_STATUS. -/
def execXferEnd (pec : Bool) (data : List Byte) (s : State) : Host.Outcome State Fault Refusal :=
  .next <|
    let kind := leAt data 0 1
    match s.smb.xfer with
    | none => s.smbNack
    | some (k, m) =>
      if !s.smbUp pec ∨ data.length ≠ 5 ∨ k ≠ kind ∨ !s.kindOk kind then s.smbNack
      else
        let b := Mem.rdBytes m 0 (leAt data 1 4)
        let s1 := { s with smb := { s.smb with xfer := none } }
        if kind = 0 then
          if s.bundleCode b = 0 then
            ({ s1 with sec := { s1.sec with bankA := b } }).restart.smbAck
          else ({ s1 with smb := { s1.smb with bundleRefused := true } }).smbAck
        else if s.anchorOk b then
          let a := if leAt b 1 1 = 0 then AMap.insert s1.sec.anchors (leAt b 0 1) (bytesAt b 4 64) else AMap.erase s1.sec.anchors (leAt b 0 1)
          ({ s1 with smb := { s1.smb with anchorRefused := false }, sec := { s1.sec with anchors := a } }).smbAck
        else ({ s1 with smb := { s1.smb with anchorRefused := true } }).smbAck

/-- SMB_ALERT_RESPONSE: the module answers with its address while it asserts SMB_ALERT_N, and releases it. -/
def execSmbAlertResponse (pec : Bool) (s : State) : Host.Outcome State Fault Refusal :=
  .next (if !s.smbUp pec ∨ !s.smb.alert then s.smbNack else ({ s with smb := { s.smb with alert := false } }).smbOut [0xA4])

end Sys2Proof.Machine
end

