-- ==== Sys2Proof/Machine/Vector.lean ====
section
/-! DEFINITION. The vector slot: arithmetic, logic, moves, conversion, reduction, loads and stores (02 R49 to R51, R531;
03 R68, R69, R84 to R86). -/
namespace Sys2Proof.Machine

/-- VNOP. -/
def execVnop (b : Slot) (s : State) : Host.Outcome State Fault Refusal :=
  .next (slotOp b (fun _ now => .ok now) s)

/-- VADD. -/
def execVadd (b : Slot) (vd va vb : BitVec 6) (ty : VTy) (s : State) : Host.Outcome State Fault Refusal :=
  .next (vecOp b vd (fun c col old =>
    mapElems ty col old (fun k => arith2 ty 1 FV.add (· + ·) (elemAt ty (c.vr va) k) (elemAt ty (c.vr vb) k))) s)

/-- VSUB. -/
def execVsub (b : Slot) (vd va vb : BitVec 6) (ty : VTy) (s : State) : Host.Outcome State Fault Refusal :=
  .next (vecOp b vd (fun c col old =>
    mapElems ty col old (fun k =>
      arith2 ty 2 (fun x y => x.add y.neg) (· - ·) (elemAt ty (c.vr va) k) (elemAt ty (c.vr vb) k))) s)

/-- VMUL. -/
def execVmul (b : Slot) (vd va vb : BitVec 6) (ty : VTy) (s : State) : Host.Outcome State Fault Refusal :=
  .next (vecOp b vd (fun c col old =>
    mapElems ty col old (fun k => arith2 ty 3 FV.mul (· * ·) (elemAt ty (c.vr va) k) (elemAt ty (c.vr vb) k))) s)

/-- VFMA: one rounding. INT32 is no type of it (WellFormed): vd keeps its bits. -/
def execVfma (b : Slot) (vd va vb vc : BitVec 6) (ty : VTy) (s : State) : Host.Outcome State Fault Refusal :=
  .next (workOp b vd 3 (fun c col old =>
    match VTy.fmt? ty with
    | none => old
    | some f => mapElems ty col old (fun k =>
        let x := elemAt ty (c.vr va) k
        let y := elemAt ty (c.vr vb) k
        let z := elemAt ty (c.vr vc) k
        roundTo f (seedOf 4 x y z) (((FV.ofBits f x).mul (.ofBits f y)).add (.ofBits f z)))) s)

/-- VMAX. -/
def execVmax (b : Slot) (vd va vb : BitVec 6) (ty : VTy) (s : State) : Host.Outcome State Fault Refusal :=
  .next (vecOp b vd (fun c col old =>
    mapElems ty col old (fun k => maxElem ty false (elemAt ty (c.vr va) k) (elemAt ty (c.vr vb) k))) s)

/-- VMIN. -/
def execVmin (b : Slot) (vd va vb : BitVec 6) (ty : VTy) (s : State) : Host.Outcome State Fault Refusal :=
  .next (vecOp b vd (fun c col old =>
    mapElems ty col old (fun k => maxElem ty true (elemAt ty (c.vr va) k) (elemAt ty (c.vr vb) k))) s)

/-- VABS: the sign bit cleared; for INT32 the magnitude. -/
def execVabs (b : Slot) (vd va : BitVec 6) (ty : VTy) (s : State) : Host.Outcome State Fault Refusal :=
  .next (vecOp b vd (fun c col old =>
    mapElems ty col old (fun k =>
      let x := elemAt ty (c.vr va) k
      match ty with
      | .int32 => intTo (seedOf 9 x 0 0) (sint32 x).natAbs
      | _ => x % signBit ty)) s)

/-- VNEG: the sign bit inverted; for INT32 the negation. -/
def execVneg (b : Slot) (vd va : BitVec 6) (ty : VTy) (s : State) : Host.Outcome State Fault Refusal :=
  .next (vecOp b vd (fun c col old =>
    mapElems ty col old (fun k =>
      let x := elemAt ty (c.vr va) k
      match ty with
      | .int32 => intTo (seedOf 10 x 0 0) (-(sint32 x))
      | _ => if signBit ty ≤ x then x - signBit ty else x + signBit ty)) s)

/-- VCMP. -/
def execVcmp (b : Slot) (vd va vb : BitVec 6) (cond : BitVec 2) (ty : VTy) (s : State) :
    Host.Outcome State Fault Refusal :=
  .next (vecOp b vd (fun c col old =>
    mapElems ty col old (fun k => cmpElem ty cond (elemAt ty (c.vr va) k) (elemAt ty (c.vr vb) k))) s)

/-- VSEL: the test is made on the raw bits of vc's element. -/
def execVsel (b : Slot) (vd va vb vc : BitVec 6) (ty : VTy) (s : State) : Host.Outcome State Fault Refusal :=
  .next (vecOp b vd (fun c col old =>
    mapElems ty col old (fun k =>
      if elemAt ty (c.vr vc) k ≠ 0 then elemAt ty (c.vr va) k else elemAt ty (c.vr vb) k)) s)

/-- VAND. -/
def execVand (b : Slot) (vd va vb : BitVec 6) (s : State) : Host.Outcome State Fault Refusal :=
  .next (vecOp b vd (fun c col old => mapLanes col old (lane (c.vr va &&& c.vr vb))) s)
/-- VOR. -/
def execVor (b : Slot) (vd va vb : BitVec 6) (s : State) : Host.Outcome State Fault Refusal :=
  .next (vecOp b vd (fun c col old => mapLanes col old (lane (c.vr va ||| c.vr vb))) s)
/-- VXOR. -/
def execVxor (b : Slot) (vd va vb : BitVec 6) (s : State) : Host.Outcome State Fault Refusal :=
  .next (vecOp b vd (fun c col old => mapLanes col old (lane (c.vr va ^^^ c.vr vb))) s)

/-- VSHF: vd[j] = va[vb[j] mod 128]. -/
def execVshf (b : Slot) (vd va vb : BitVec 6) (s : State) : Host.Outcome State Fault Refusal :=
  .next (vecOp b vd (fun c col old => mapLanes col old (fun j => lane (c.vr va) ((lane (c.vr vb) j).toNat % 128))) s)

/-- VSPL. -/
def execVspl (b : Slot) (vd : BitVec 6) (sa : BitVec 4) (s : State) : Host.Outcome State Fault Refusal :=
  .next (vecOp b vd (fun c col old => mapLanes col old (fun _ => BitVec.ofNat 32 (c.sr sa).toNat)) s)

/-- VGET: the lane half × 64 + vb, zero-extended; not masked (02 R51). -/
def execVget (b : Slot) (sd : BitVec 4) (va vb : BitVec 6) (half : Bool) (s : State) : Host.Outcome State Fault Refusal :=
  .next (slotOp b (fun pre now =>
    .ok (now.sw sd (BitVec.ofNat 64 (lane (pre.vr va) (64 * b2n half + vb.toNat)).toNat))) s)

/-- VCVT (02 R531): element k of the source feeds element k of the destination, for every k below both counts. -/
def execVcvt (b : Slot) (vd va : BitVec 6) (src : VTy) (mode : BitVec 2) (ty : VTy) (s : State) :
    Host.Outcome State Fault Refusal :=
  .next (slotOp b (fun pre now =>
    let col := pre.colMask b.pm
    let old := now.vr vd
    let narrow := VTy.is16 ty && !VTy.is16 src
    let g := fun k => if narrow && decide (128 ≤ k) then (elem16 old k).toNat
      else cvtElem src ty (cvtMode mode pre.srKey pre.srCtr k) (elemAt src (pre.vr va) k)
    let c := now.vw vd (mapElems ty col old g)
    .ok (if mode = 1 then c.srAdvance else c)) s)

/-- e_f of a block format (03 R68). -/
def vqntExp (fmt : Nat) : Int :=
  match fmt with
  | 0 => 2
  | 1 => 8
  | 2 => 15
  | 3 => 2
  | 4 => 1
  | _ => 0

/-- The code of x / 2^(S−127) in a block format, and whether it saturates (03 R68). -/
def vqntCode (fmt : Nat) (x : FV) (sh : Int) : Nat × Bool :=
  match x with
  | .fin neg m e =>
    if fmt ≤ 2 then
      let f : Fmt := if fmt = 0 then .e2m1 else if fmt = 1 then .e4m3 else .e5m2
      let c := roundMag f .nearest m 1 (e - sh)
      let sat := decide (f.maxCode < c)
      ((if sat then f.maxCode else c) + (if neg then 2 ^ (f.eb + f.mb) else 0), sat)
    else
      let mx : Int := if fmt = 3 then 7 else if fmt = 4 then 3 else 1
      let n := Dy.roundInt .nearest ⟨m, e - sh⟩
      let sat := decide (mx < n)
      let n' := if sat then mx else n
      (((if neg then -n' else n') % 16).toNat, sat)
  | _ => (0, false)

/-- A row quantised: its scale byte, its element codes by lane, and the counts (03 R68, R69). -/
def vqntRow (fmt : Nat) (v : VReg) (js : List Nat) : Nat × List (Nat × Nat) × Nat :=
  let xs := js.map (fun j => (j, f32 (lane v j)))
  if xs.any (fun jx => !jx.2.isFin) then (255, xs.map (fun jx => (jx.1, 0)), 0)
  else
    let nz := xs.filter (fun jx => !jx.2.isZero)
    if nz.isEmpty then (0, xs.map (fun jx => (jx.1, 0)), 0)
    else
      let top := nz.foldl (fun (m : Int) jx => max m jx.2.dy.log2) (-1000)
      let sc : Int := max 0 (min 254 (top - vqntExp fmt + 127))
      let cs := xs.map (fun jx => (jx.1, vqntCode fmt jx.2 (sc - 127)))
      (sc.toNat, cs.map (fun c => (c.1, c.2.1)), (cs.filter (fun c => c.2.2)).length)

/-- `v` with bits [lo + w − 1 : lo] set to `x`. -/
def setBits (v lo w x : Nat) : Nat := v - (v / 2 ^ lo % 2 ^ w) * 2 ^ lo + (x % 2 ^ w) * 2 ^ lo

/-- VQNT (03 R68, R69): a format code above 5 stops the core. -/
def execVqnt (b : Slot) (vd va : BitVec 6) (fmt : BitVec 4) (s : State) : Host.Outcome State Fault Refusal :=
  .next (slotOp b (fun pre now =>
    if 5 < fmt.toNat then .stop E_CORE_FMT else
    let col := pre.colMask b.pm
    let w := elemBits fmt.toNat
    let rows := (List.range 4).map (fun r => (r, vqntRow fmt.toNat (pre.vr va) (lanesOn col (32 * r) 32)))
    let v := rows.foldl (fun (v : Nat) rr =>
      let v1 := rr.2.2.1.foldl (fun (v : Nat) jc => setBits v (256 * rr.1 + w * (jc.1 - 32 * rr.1)) w jc.2) v
      setBits v1 (8 * (384 + rr.1)) 8 rr.2.1) (now.vr vd).toNat
    .ok ((now.vw vd (BitVec.ofNat 4096 v)).countQnt
      ((rows.map (fun rr => rr.2.2.1.length)).foldl (· + ·) 0) ((rows.map (fun rr => rr.2.2.2)).foldl (· + ·) 0))) s)

/-- VRSUM (02 R531). -/
def execVrsum (b : Slot) (vd va : BitVec 6) (whole : Bool) (ty : VTy) (s : State) : Host.Outcome State Fault Refusal :=
  .next (vecOp b vd (fun c col old => reduce col old whole (sumLanes ty (c.vr va))) s)

/-- VRMAX (02 R531). -/
def execVrmax (b : Slot) (vd va : BitVec 6) (whole : Bool) (ty : VTy) (s : State) : Host.Outcome State Fault Refusal :=
  .next (vecOp b vd (fun c col old => reduce col old whole (maxLanes ty (c.vr va))) s)

/-- VLD: 512 bytes of the tile buffer; disabled lanes transfer no bytes (02 R51). -/
def execVld (b : Slot) (vd : BitVec 6) (sa : BitVec 4) (off : BitVec 6) (s : State) : Host.Outcome State Fault Refusal :=
  .next (slotOp b (fun pre now =>
    let a := vaddr pre sa off
    if vaddrOk a Config.tileBufferBytes then
      now.guarded (laneRanges (pre.colMask b.pm) a.toNat) [] [] [] (.stop E_CORE_ECC) fun now =>
      .ok (now.vw vd (mapLanes (pre.colMask b.pm) (now.vr vd) (lane (loadV now.tb a.toNat))))
    else .stop E_CORE_OPERAND) s)

/-- VST. -/
def execVst (b : Slot) (vd : BitVec 6) (sa : BitVec 4) (off : BitVec 6) (s : State) : Host.Outcome State Fault Refusal :=
  .next (slotOp b (fun pre now =>
    let a := vaddr pre sa off
    if vaddrOk a Config.tileBufferBytes then
      now.guarded [] (laneRanges (pre.colMask b.pm) a.toNat) [] [] (.stop E_CORE_ECC) fun now =>
      .ok { now with tb := storeV now.tb (pre.colMask b.pm) a.toNat (pre.vr vd) }
    else .stop E_CORE_OPERAND) s)

/-- VLDA: 512 bytes of accumulator memory. -/
def execVlda (b : Slot) (vd : BitVec 6) (sa : BitVec 4) (off : BitVec 6) (s : State) : Host.Outcome State Fault Refusal :=
  .next (slotOp b (fun pre now =>
    let a := vaddr pre sa off
    if !vaddrOk a Config.accBytes then .stop E_CORE_OPERAND
    else if pre.amHeld false [(a.toNat, 512)] then .stall
    else
      now.guarded [] [] (laneRanges (pre.colMask b.pm) a.toNat) [] (.stop E_CORE_ECC) fun now =>
      .ok (now.vw vd (mapLanes (pre.colMask b.pm) (now.vr vd) (lane (loadV now.am a.toNat))))) s)

/-- VSTA. -/
def execVsta (b : Slot) (vd : BitVec 6) (sa : BitVec 4) (off : BitVec 6) (s : State) : Host.Outcome State Fault Refusal :=
  .next (slotOp b (fun pre now =>
    let a := vaddr pre sa off
    if !vaddrOk a Config.accBytes then .stop E_CORE_OPERAND
    else if pre.amHeld true [(a.toNat, 512)] then .stall
    else
      now.guarded [] [] [] (laneRanges (pre.colMask b.pm) a.toNat) (.stop E_CORE_ECC) fun now =>
      .ok { now with am := storeV now.am (pre.colMask b.pm) a.toNat (pre.vr vd) }) s)

end Sys2Proof.Machine
end

