-- ==== Sys2Proof/Machine/UpdateRules.lean ====
section
/-! DEFINITION. The arithmetic of the parameter update engine: tiles, the four rules, the statistics and roots of FPC, write-back
and rounding (13 R333 to R344). -/
namespace Sys2Proof.Machine

/-! Tiles (R333). -/

/-- Bytes of a tile in a format code. -/
def updTileBytes (fmt : Nat) : Nat := if fmt = 0 then 4096 else if fmt = 1 then 2048 else 1088
/-- Little-endian numbers of `w` bytes, `n` of them. -/
def splitLE (w : Nat) : Nat → List Byte → List Nat
  | 0, _ => []
  | n + 1, bs => leNat (bs.take w) :: splitLE w n (bs.drop w)
/-- An MXFP8 element as FP32: its element value times its scale (R339). -/
def mx8Value (scale code : Nat) : W32 :=
  if scale = 255 then rn32 (seedOf 30 scale code 0) .nan
  else match elemVal 1 code with
    | .fin s m e => rnq32 (.fin s m (e + (scale : Int) - 127))
    | v => rn32 (seedOf 30 scale code 0) v
/-- The 1,024 elements of a tile as FP32, element j being column j / 32, row j mod 32. -/
def tileValues (fmt : Nat) (bs : List Byte) : List W32 :=
  if fmt = 0 then (splitLE 4 1024 bs).map (BitVec.ofNat 32)
  else if fmt = 1 then (splitLE 2 1024 bs).map (fun x => BitVec.ofNat 32 (x * 65536))
  else
    let scales := splitLE 1 32 (bs.drop 1024)
    ((List.range 1024).zip (splitLE 1 1024 bs)).map (fun e => mx8Value (scales.getD (e.1 / 32) 0) e.2)
/-- Whether an FP32 code is NaN or infinite. -/
def nonFinite (x : W32) : Bool := !(f32 x).isFin

/-! Write-back (R342 to R344). -/

/-- The random bits of element j of tile t of tensor `tau` at step `st` (R343). -/
def updBits (seed : W64) (layer st t tau j : Nat) : Nat :=
  let key := seed ^^^ (BitVec.ofNat 64 layer <<< 48)
  let ctr := BitVec.ofNat 64 (st * 2 ^ 40 + t * 1024 + tau * 256 + j / 128 * 32)
  srBits key ctr (j % 128)
/-- The scale of a column of new values (03 R68 with e_f = 8): 255 where one is not finite, 0 where all are zero. -/
def colScale (xs : List W32) : Nat :=
  if xs.any nonFinite then 255
  else
    let nz := (xs.map f32).filter (fun v => !v.isZero)
    if nz.isEmpty then 0
    else (max 0 (min 254 (nz.foldl (fun (m : Int) v => max m v.dy.log2) (-1000) - 8 + 127))).toNat
/-- The E4M3 code of a value against a scale. -/
def mx8Code (scale r : Nat) (x : W32) : Nat :=
  let v := if scale = 255 then FV.nan else match f32 x with
    | .fin s m e => .fin s m (e - ((scale : Int) - 127))
    | v => v
  v.toBits .e4m3 (.stochastic r) (freeNan .e4m3 (seedOf 31 scale x.toNat 0))
/-- A column of an MXFP8 tile: its scale and codes. A column that keeps a frozen element keeps its scale. -/
def mx8Column (oldScale : Nat) (old : List Nat) (frozen : List Bool) (rs : List Nat) (xs : List W32) : Nat × List Nat :=
  let keep := frozen.any id
  let scale := if keep then oldScale else colScale xs
  (scale, ((old.zip frozen).zip (rs.zip xs)).map (fun e =>
    if e.1.2 then e.1.1 else if !keep && decide (scale = 255) then 0 else mx8Code scale e.2.1 e.2.2))
/-- A tile written: `old` its bytes, `frozen` the rows that keep their bits, `bits j` the random bits, `new` the values. -/
def encodeTile (fmt : Nat) (old : List Byte) (frozen : List Bool) (bits : Nat → Nat) (new : List W32) : List Byte :=
  let fz (j : Nat) : Bool := frozen.getD (j % 32) false
  if fmt = 0 then
    ((List.range 1024).zip ((splitLE 4 1024 old).zip new)).flatMap (fun e => leBytes 4 (if fz e.1 then e.2.1 else e.2.2.toNat))
  else if fmt = 1 then
    ((List.range 1024).zip ((splitLE 2 1024 old).zip new)).flatMap (fun e => leBytes 2 (if fz e.1 then e.2.1 else
      (f32 e.2.2).toBits .bf16 (.stochastic (bits e.1)) (freeNan .bf16 (seedOf 32 e.2.2.toNat 0 0))))
  else
    let cols := (List.range 32).map (fun c =>
      let js := (List.range 32).map (32 * c + ·)
      mx8Column (leAt old (1024 + c) 1) (splitLE 1 32 (old.drop (32 * c))) ((List.range 32).map fz) (js.map bits)
        ((new.drop (32 * c)).take 32))
    cols.flatMap (fun c => c.2.flatMap (leBytes 1)) ++ cols.flatMap (fun c => leBytes 1 c.1) ++ leBytes 32 0
/-- The non-finite values among the elements of a tile that were written (R339). -/
def nonFiniteIn (fmt : Nat) (frozen : List Bool) (bs : List Byte) : Nat :=
  (((List.range 1024).zip (tileValues fmt bs)).filter (fun e => !frozen.getD (e.1 % 32) false && nonFinite e.2)).length

/-! The rules (R339). -/

/-- A step's constants (R337). -/
structure UpdConst where
  eta : W32
  lam : W32
  b1 : W32
  b2 : W32
  c1 : W32
  c2 : W32
  eps : W32
  gam : W32

def UpdConst.read (bs : List Byte) (off : Nat) : UpdConst :=
  let f (i : Nat) : W32 := BitVec.ofNat 32 (leAt bs (off + 4 * i) 4)
  ⟨f 0, f 1, f 2, f 3, f 4, f 5, f 6, f 7⟩

def oneF : W32 := 0x3F800000
def sqrtVia (h : W32) : W32 := fmul32 h (builtin .rsq true h)
/-- 1 − β. -/
def oneLess (b : W32) : W32 := fsub32 oneF b
def signF (x : W32) : W32 :=
  let v := f32 x
  if v.isNan then rn32 (seedOf 33 x.toNat 0 0) .nan else if v.isZero then 0 else if v.sign then fneg32 oneF else oneF
/-- w − η·(u + λ·w). -/
def decayed (c : UpdConst) (w u : W32) : W32 := fsub32 w (fmul32 c.eta (fadd32 u (fmul32 c.lam w)))
/-- One element: the new w, m and v from w, m, v and g (for FPC, `g` is the direction's element D). -/
def updElem (rule : Nat) (nesterov : Bool) (c : UpdConst) (w m v g : W32) : W32 × W32 × W32 :=
  if rule = 0 then
    let m' := fadd32 (fmul32 c.b1 m) g
    let u := if nesterov then fadd32 g (fmul32 c.b1 m') else m'
    (decayed c w u, m', v)
  else if rule = 1 then
    let m' := fadd32 (fmul32 c.b1 m) (fmul32 (oneLess c.b1) g)
    let v' := fadd32 (fmul32 c.b2 v) (fmul32 (oneLess c.b2) (fmul32 g g))
    let h := fmul32 c.c2 v'
    let r := if (f32 h).isZero then 0 else sqrtVia h
    let u := fmul32 (fmul32 c.c1 m') (builtin .rcp true (fadd32 r c.eps))
    (decayed c w u, m', v')
  else if rule = 2 then
    let m' := fadd32 (fmul32 c.b1 m) g
    (decayed c w m', m', v)
  else
    let u := signF (fadd32 (fmul32 c.b1 m) (fmul32 (oneLess c.b1) g))
    let m' := fadd32 (fmul32 c.b2 m) (fmul32 (oneLess c.b2) g)
    (decayed c w u, m', v)

/-- Whether the constants satisfy R347 for a rule. -/
def UpdConst.ok (c : UpdConst) (rule : Nat) : Bool :=
  let unit (b : W32) : Bool := (f32 b).isFin && !((f32 b).lt (f32 0)) && (f32 b).lt (f32 oneF)
  let e := f32 c.eps
  unit c.b1 && unit c.b2 && (f32 c.eta).isFin && (f32 c.lam).isFin && (f32 c.gam).isFin &&
  (if rule = 1 then (f32 0).lt e else if rule = 2 then e.eqv (f32 0) || (f32 0).lt e else true)

/-! Matrices of FPC, by rows (R340, R341). -/

abbrev Mat := List (List W32)

def Mat.at (m : Mat) (i j : Nat) : W32 := (m.getD i []).getD j 0
def Mat.ofFn (r c : Nat) (f : Nat → Nat → W32) : Mat := (List.range r).map (fun i => (List.range c).map (f i))
def Mat.ofBytes (r c : Nat) (bs : List Byte) : Mat :=
  (List.range r).map (fun i => (splitLE 4 c (bs.drop (4 * c * i))).map (BitVec.ofNat 32))
def Mat.bytes (m : Mat) : List Byte := m.flatMap (fun r => r.flatMap (fun x => leBytes 4 x.toNat))
def Mat.transpose (m : Mat) (r c : Nat) : Mat := Mat.ofFn c r (fun i j => m.at j i)
/-- A product: each element sums over the inner index in ascending order by VFMA. -/
def Mat.mul (a b : Mat) (r k c : Nat) : Mat :=
  let bt := b.transpose k c
  (List.range r).map (fun i => (List.range c).map (fun j =>
    ((a.getD i []).zip (bt.getD j [])).foldl (fun acc e => ffma32 e.1 e.2 acc) 0))
def Mat.zipWith (f : W32 → W32 → W32) (a b : Mat) : Mat := (a.zip b).map (fun e => (e.1.zip e.2).map (fun x => f x.1 x.2))
def Mat.ident (n : Nat) : Mat := Mat.ofFn n n (fun i j => if i = j then oneF else 0)
/-- Block (p, q) of a matrix. -/
def Mat.block (m : Mat) (r0 r c0 c : Nat) : Mat := ((m.drop r0).take r).map (fun x => (x.drop c0).take c)
/-- The sum of a list of matrices, in order. -/
def Mat.sum (z : Mat) : List Mat → Mat
  | [] => z
  | a :: as => as.foldl (Mat.zipWith fadd32) a

/-- β2·S + (1 − β2)·Σ. -/
def statUpdate (c : UpdConst) (s sum : Mat) : Mat :=
  Mat.zipWith (fun a b => fadd32 (fmul32 c.b2 a) (fmul32 (oneLess c.b2) b)) s sum

/-- √x rounded once, for a value that is not negative. -/
def sqrtF (x : W32) : W32 :=
  match f32 x with
  | .fin false m e =>
    let k : Nat := 64 + (e % 2).toNat
    let n := m * 2 ^ (k + 64)
    let r := isqrt n
    rnq32 (.fin false (2 * r + b2n (decide (r * r ≠ n))) ((e - (k : Int) - 64) / 2 - 1))
  | _ => x
/-- f: the Frobenius norm, its squares summed in ascending row-major order. -/
def frobenius (a : Mat) : W32 := sqrtF (a.foldl (fun acc r => r.foldl (fun acc x => ffma32 x x acc) acc) 0)

/-- The coupled Newton iteration, `iters` times, from X and M. -/
def newton (n : Nat) : Nat → Mat → Mat → Mat × Mat
  | 0, x, m => (x, m)
  | k + 1, x, m =>
    let t := Mat.ofFn n n (fun i j => fmul32 (fsub32 (if i = j then 0x40A00000 else 0) (m.at i j)) 0x3E800000)
    let x' := x.mul t n n n
    let t2 := t.mul t n n n
    newton n k x' ((t2.mul t2 n n n).mul m n n n)

/-- A refresh of a statistic (R341): the new root and its residual, or none where the old root is kept. -/
def refreshRoot (n iters : Nat) (eps : W32) (st : Mat) : Option (Mat × W32) :=
  let a := Mat.zipWith fadd32 st (Mat.ofFn n n (fun i j => if i = j then eps else 0))
  let f := frobenius a
  if (f32 f).isZero ∨ a.any (fun r => r.any nonFinite) then none
  else
    let x0 := builtin .rcp true (builtin .rsq true (builtin .rsq true f))
    let r := newton n iters (Mat.ofFn n n (fun i j => if i = j then x0 else 0)) (a.map (fun r => r.map (fun v => fdiv32 v f)))
    if r.1.any (fun r => r.any nonFinite) then none
    else
      let d := Mat.zipWith fsub32 r.2 (Mat.ident n)
      some (r.1, d.foldl (fun acc r => r.foldl (fun acc v =>
        BitVec.ofNat 32 (maxElem .fp32 false acc.toNat (BitVec.toNat (v &&& 0x7FFFFFFF#32)))) acc) 0)

end Sys2Proof.Machine
end

