-- ==== Sys2Proof/Machine/Update.lean ====
section
/-! DEFINITION. The parameter update engine: plans, steps and its messages (13 R335 to R338, R345 to R353). -/
namespace Sys2Proof.Machine

/-! Plans (R335, R336, R338). -/

namespace UpdLayer
def tiles (l : UpdLayer) : Nat := l.k / 32 * (l.n / 32)
/-- Block widths and counts of FPC along K and along N. -/
def bK (l : UpdLayer) : Nat := min l.k l.blk
def bN (l : UpdLayer) : Nat := min l.n l.blk
def pMax (l : UpdLayer) : Nat := l.k / max 1 l.bK
def qMax (l : UpdLayer) : Nat := l.n / max 1 l.bN
/-- Bytes of the statistics, and of the roots. -/
def statBytes (l : UpdLayer) : Nat := 4 * (l.pMax * l.bK * l.bK + l.qMax * l.bN * l.bN)
/-- Bytes of the freeze mask. -/
def maskBytes (l : UpdLayer) : Nat := if l.maskMode = 1 then ceilDiv l.tiles 8 else l.k / 8
/-- Address and bytes of every tensor the layer names; the mask apart. -/
def ranges (l : UpdLayer) : List (Nat × Nat) :=
  [(l.w, l.tiles * updTileBytes l.wFmt), (l.g, l.tiles * updTileBytes l.gFmt), (l.m, l.tiles * updTileBytes l.sFmt)] ++
  (if l.rule = 1 then [(l.v, l.tiles * updTileBytes l.sFmt)] else []) ++
  (if l.rule = 2 then [(l.stats, l.statBytes), (l.roots, l.statBytes)] else [])
def allRanges (l : UpdLayer) : List (Nat × Nat) :=
  l.ranges ++ (if l.maskMode = 0 then [] else [(l.mask, l.maskBytes)])
end UpdLayer

/-- A layer descriptor of 96 bytes. -/
def updLayerOf (d : List Byte) : UpdLayer where
  layer := leAt d 0 2
  rule := leAt d 2 1
  nesterov := bitOf (leAt d 3 1) 0
  maskMode := bitsOf (leAt d 3 1) 2 1
  wFmt := leAt d 4 1
  sFmt := leAt d 5 1
  gFmt := leAt d 6 1
  group := leAt d 7 1
  k := leAt d 8 4
  n := leAt d 12 4
  blk := leAt d 16 2
  refresh := leAt d 18 2
  iters := leAt d 20 1
  w := leAt d 24 8
  g := leAt d 32 8
  m := leAt d 40 8
  v := leAt d 48 8
  stats := leAt d 56 8
  roots := leAt d 64 8
  mask := leAt d 72 8

/-- Whether a descriptor keeps R336: its ranges, its reserved fields, its alignment. -/
def UpdLayer.ok (l : UpdLayer) (d : List Byte) (groups : Nat) : Bool :=
  let dim (x : Nat) : Bool := decide (x % 32 = 0) && decide (32 ≤ x) && decide (x ≤ 1048576)
  let fpc := decide (l.rule = 2)
  decide (l.rule ≤ 3) && decide (leAt d 3 1 < 8) && (!l.nesterov || decide (l.rule = 0)) && decide (l.maskMode ≤ 2) &&
  decide (l.wFmt ≤ 2) && decide (l.sFmt ≤ 2) && decide (l.gFmt ≤ 1) && decide (l.group < groups) && dim l.k && dim l.n &&
  (if fpc then decide (l.blk % 32 = 0) && decide (32 ≤ l.blk) && decide (l.blk ≤ 4096) && decide (1 ≤ l.refresh) &&
      decide (1 ≤ l.iters) && decide (l.iters ≤ 32)
   else decide (l.blk = 0) && decide (l.refresh = 0) && decide (l.iters = 0) && decide (l.stats = 0) && decide (l.roots = 0)) &&
  (decide (l.rule = 1) || decide (l.v = 0)) && (decide (l.maskMode ≠ 0) || decide (l.mask = 0)) &&
  decide (leAt d 21 3 = 0) && decide (leAt d 80 16 = 0) &&
  [l.w, l.g, l.m, l.v, l.stats, l.roots, l.mask].all (fun a => decide (a % 64 = 0))

/-- Whether FPC blocks divide their dimensions (R338). -/
def UpdLayer.blocksOk (l : UpdLayer) : Bool :=
  decide (l.rule ≠ 2) ||
  ((decide (l.k ≤ l.blk) || decide (l.k % l.blk = 0)) && (decide (l.n ≤ l.blk) || decide (l.n % l.blk = 0)))

/-- A plan whose header and descriptors keep R335 and R336, or the layer at fault (0xFFFF: the header). -/
def updParse (ctx court : Nat) (bs : List Byte) : UpdPlan ⊕ Nat :=
  let nl := leAt bs 6 2
  let groups := leAt bs 5 1
  let steps := leAt bs 8 4
  let dOff := leAt bs 24 8
  let cOff := leAt bs 32 8
  if bs.length < 64 ∨ leAt bs 0 4 ≠ 0x4E414C50 ∨ leAt bs 4 1 ≠ 1 ∨ groups = 0 ∨ 16 < groups ∨ nl = 0 ∨ 4096 < nl ∨
     steps = 0 ∨ 16777215 < steps ∨ leAt bs 12 4 ≠ 0 ∨ leAt bs 40 24 ≠ 0 ∨ dOff % 64 ≠ 0 ∨ cOff % 64 ≠ 0 ∨
     bs.length < dOff + 96 * nl ∨ bs.length < cOff + 32 * steps * groups then .inr 0xFFFF
  else
    let ds := (List.range nl).map (fun i => bytesAt bs (dOff + 96 * i) 96)
    let ls := ds.map updLayerOf
    match (ls.zip ds).find? (fun e => !e.1.ok e.2 groups) with
    | some e => .inr e.1.layer
    | none =>
      match ls.find? (fun l => decide (1 < (ls.filter (fun k => decide (k.layer = l.layer))).length)) with
      | some l => .inr l.layer
      | none => .inl
        { ctx := ctx, court := court, groups := groups, steps := steps, seed := BitVec.ofNat 64 (leAt bs 16 8), layers := ls
          consts := bytesAt bs cOff (32 * steps * groups), next := 0, torn := false, waiting := none, running := none
          lastRefresh := none, residual := 0, release := none, masks := [], failed := none }

/-- Check 2 of R350 for a layer: blocks divide, and a tensor fits the object it is named in; where it is named by the object's own
address, the object is as large as the tensor (log entry 40). -/
def State.updSizesOk (s : State) (l : UpdLayer) : Bool :=
  l.blocksOk && l.allRanges.all (fun e => match s.objAt (e.1 / blockBytes) with
    | none => true
    | some (b, o) =>
      let off := e.1 - blockBytes * b
      if off = 0 ∧ l.ranges.contains e then decide (o.size = e.2) else decide (off + e.2 ≤ o.size))
/-- Check 3 of R350 for a layer: the context's own objects, neither shared nor shards (R349). -/
def State.updOwnOk (s : State) (ctx : Nat) (l : UpdLayer) : Bool :=
  l.allRanges.all (fun e => match s.objAt (e.1 / blockBytes) with
    | none => false
    | some (b, o) => decide (o.owner = some ctx) && decide (o.use = .client ∨ o.use = .made) && !o.flags.testBit 0 &&
        (AMap.find? s.wgt.shards b).isNone)
def meets (a b : Nat × Nat) : Bool := decide (a.1 < b.1 + b.2) && decide (b.1 < a.1 + a.2)
/-- A layer whose tensors share a byte with another tensor of the plan or with a registered plan (R349). -/
def State.updOverlap (s : State) (ls : List UpdLayer) : Option Nat :=
  let others := s.upd.plans.flatMap (fun e => e.2.layers.flatMap UpdLayer.allRanges)
  let all := ls.flatMap UpdLayer.allRanges
  (ls.find? (fun l => l.allRanges.any (fun r =>
    others.any (meets r) || decide (1 < (all.filter (meets r)).length)))).map (·.layer)

/-- How update runs of a plan reach its tensors. -/
def State.updAccess (s : State) (p : UpdPlan) : Access := ⟨.core (some p.ctx), 1, p.ctx, ident 1 (s.leadCluster p.court)⟩

/-- Statistics zero and roots the identity, at registration (R340). -/
def State.resetStats (s : State) (l : UpdLayer) (ac : Access) : State :=
  if l.rule ≠ 2 then s else
  let eye (c n : Nat) : List Byte := (List.replicate c (Mat.ident n).bytes).flatten
  let s1 := (s.objWrite ac l.stats (List.replicate l.statBytes 0)).1
  (s1.objWrite ac l.roots (eye l.pMax l.bK ++ eye l.qMax l.bN)).1
/-- What stops that reset: the code of a statistics or roots tensor that cannot be written (DESIGN CHOICE, log entry 85: the plan is then not
registered). -/
def State.resetCode (s : State) (l : UpdLayer) (ac : Access) : Code :=
  if l.rule ≠ 2 then 0 else
  let a := s.accessCode ac.ag true l.stats l.statBytes
  if a ≠ 0 then a else s.accessCode ac.ag true l.roots l.statBytes

/-- MSG_UPD_PLAN (R350). -/
def execMsgUpdPlan (mbx : Nat) (s : State) : Host.Outcome State Fault Refusal :=
  .next (serve 0x0C00 mbx (fun r s =>
    let no (s : State) (code : Code) (layer : Nat) : State := s.answer r code (leBytes 2 layer ++ leBytes 4 0)
    let court := r.fld 0 1
    if 7 < court ∨ !s.courtDefined court ∨ s.courtOf r.ctx ≠ court then no s E_UPD_PLAN 0xFFFF else
    let q := s.objRead r.access (r.fld 8 8) (r.fld 16 8)
    let s := q.1
    if q.2.1 ≠ 0 then no s q.2.1 0xFFFF else
    match updParse r.ctx court q.2.2 with
    | .inr l => no s E_UPD_PLAN l
    | .inl p =>
      if p.steps ≤ r.fld 24 4 then no s E_UPD_PLAN 0xFFFF else
      match p.layers.find? (fun l => !s.updSizesOk l) with
      | some l => no s E_UPD_PLAN l.layer
      | none =>
        match p.layers.find? (fun l => !s.updOwnOk r.ctx l) with
        | some l => no s E_UPD_OBJ l.layer
        | none =>
          match s.updOverlap p.layers with
          | some l => no s E_UPD_OBJ l
          | none =>
            if 64 ≤ s.upd.plans.length ∨ 16 ≤ (s.upd.plans.filter (fun e => decide (e.2.ctx = r.ctx))).length then
              no s E_UPD_LIMIT 0xFFFF
            else match p.layers.find? (fun l => decide (s.resetCode l (umpAccess r.ctx) ≠ 0)) with
            | some l => no s (s.resetCode l (umpAccess r.ctx)) l.layer
            | none =>
              let id := s.upd.nextId
              let s1 := p.layers.foldl (fun s l => s.resetStats l (umpAccess r.ctx)) s
              let s2 := { s1 with upd := { s1.upd with
                plans := AMap.insert s1.upd.plans id { p with next := r.fld 24 4 }, nextId := id + 1 } }
              s2.answer r 0 (leBytes 2 0xFFFF ++ leBytes 4 id)) s)

/-! Steps (R345 to R348). -/

/-- A plan a request may name: of its context, or of any from a management mailbox. -/
def State.planOf (s : State) (r : Req) : Option (Nat × UpdPlan) :=
  match AMap.find? s.upd.plans (r.fld 0 4) with
  | some p => if isMgmt r.mbx ∨ p.ctx = r.ctx then some (r.fld 0 4, p) else none
  | none => none
def State.setPlan (s : State) (i : Nat) (p : UpdPlan) : State :=
  { s with upd := { s.upd with plans := AMap.insert s.upd.plans i p } }

/-- The response of MSG_UPD_STEP. -/
def State.answerUpd (s : State) (r : Req) (code : Code) (refreshed tiles frozen bad : Nat) : State :=
  s.answer r code (leBytes 2 refreshed ++ leBytes 4 tiles ++ leBytes 4 frozen ++ leBytes 4 bad)

/-- A release that waited is done once no step runs (R352). -/
def State.settleRelease (s : State) (i : Nat) : State :=
  match AMap.find? s.upd.plans i with
  | none => s
  | some p => match p.release with
    | none => s
    | some r => ({ s with upd := { s.upd with plans := AMap.erase s.upd.plans i } }).answer r 0 []

/-- MSG_UPD_STEP (R345, R351): accepted, it waits for a step boundary of the context. -/
def execMsgUpdStep (mbx : Nat) (s : State) : Host.Outcome State Fault Refusal :=
  .next (serve 0x0C01 mbx (fun r s =>
    match s.planOf r with
    | none => s.refuse r E_UPD_PLAN 14
    | some (i, p) =>
      let st := r.fld 4 4
      if p.torn then s.refuse r E_UPD_TORN 14
      else if st ≠ p.next ∨ p.steps ≤ st ∨ p.waiting.isSome ∨ p.running.isSome then s.refuse r E_UPD_STEP 14
      else (s.setPlan i { p with waiting := some r }).mark) s)

def UpdPlan.constOf (p : UpdPlan) (l : UpdLayer) : UpdConst := .read p.consts (32 * (p.next * p.groups + l.group))
/-- The code of an object that is not fresh or not writable, as a whole. -/
def State.wholeCode (s : State) (ag : Agent) (a : Nat) : Code :=
  match s.objAt (a / blockBytes) with
  | some (b, o) => s.accessCode ag true (blockBytes * b) (blockBytes * o.blocks)
  | none => E_OBJ_UNMAPPED
/-- The first code of R347: an object that is not fresh or not writable, then the constants. -/
def State.updCheck (s : State) (p : UpdPlan) : Code :=
  let ac := s.updAccess p
  let codes := p.layers.flatMap (fun l => l.allRanges.map (fun e => s.wholeCode ac.ag e.1))
  match codes.find? (fun c => c ≠ 0) with
  | some c => c
  | none => if p.layers.all (fun l => (p.constOf l).ok l.rule) then 0 else E_UPD_CONST

/-- The freeze masks of a plan's layers read, in the order of the layers; the code of the first that cannot be read (R344). -/
def State.readMasks (s : State) (p : UpdPlan) : List UpdLayer → State × Code × List (List Byte)
  | [] => (s, 0, [])
  | l :: ls =>
    let r := if l.maskMode = 0 then (s, 0, []) else
      let q := s.objRead (s.updAccess p) l.mask l.maskBytes
      (q.1.chargeBytesAt (s.updAccess p).unit p.ctx false l.mask l.maskBytes, q.2.1, q.2.2)
    if r.2.1 ≠ 0 then (r.1, r.2.1, []) else
    let q := r.1.readMasks p ls
    (q.1, q.2.1, r.2.2 :: q.2.2)

/-- UPDATE_STEP_EFFECT: at a step boundary of the context, with its court awake, the step is checked and starts: its masks are read (R344,
R346, R347). -/
def execUpdateStepEffect (plan : Nat) (s : State) : Host.Outcome State Fault Refusal :=
  .next <| match AMap.find? s.upd.plans plan with
  | none => s
  | some p => match p.waiting with
    | none => s
    | some r =>
      let busy := s.ctxBusy p.ctx || s.upd.plans.any (fun e => decide (e.2.ctx = p.ctx) && e.2.running.isSome)
      if busy ∨ !s.awake p.court then s
      else
        let c := s.updCheck p
        let m := if c ≠ 0 then (s, c, []) else s.readMasks p p.layers
        if m.2.1 ≠ 0 then (((m.1.setPlan plan { p with waiting := none }).answerUpd r m.2.1 0 0 0 0).settleRelease plan).mark
        else m.1.setPlan plan { p with waiting := none, running := some (r, s.counter.toNat), masks := m.2.2, failed := none }

/-- A step as it runs: the state, the first fault met, whether anything is written, how many writes come before a core failure ends it
(none: no failure), and the counts. -/
structure UpdRun where
  s : State
  code : Code
  wrote : Bool
  left : Option Nat
  tiles : Nat
  frozen : Nat
  bad : Nat
  refreshed : Nat
  skips : Nat
  residual : W32

namespace UpdRun
def read (x : UpdRun) (p : UpdPlan) (a n : Nat) : UpdRun × List Byte :=
  if x.code ≠ 0 then (x, List.replicate n 0) else
  let q := x.s.objRead (x.s.updAccess p) a n
  ({ x with s := q.1.chargeBytesAt (x.s.updAccess p).unit p.ctx false a n, code := q.2.1 }, q.2.2)
def write (x : UpdRun) (p : UpdPlan) (a : Nat) (bs : List Byte) : UpdRun :=
  if x.code ≠ 0 then x else
  if x.left = some 0 then { x with code := E_CORE_FAILED } else
  let q := x.s.objWrite (x.s.updAccess p) a bs
  { x with s := q.1.chargeBytesAt (x.s.updAccess p).unit p.ctx true a bs.length, code := q.2, left := x.left.map (· - 1),
           wrote := x.wrote || decide (q.2 = 0) || decide (q.2 = E_MEM_UNCORR) }

/-- The rows of a tile that a mask freezes; all of them where the tile is frozen whole (R344). -/
def frozenRows (l : UpdLayer) (mask : List Byte) (t : Nat) : List Bool :=
  let bit (i : Nat) : Bool := bitOf (leAt mask (i / 8) 1) (i % 8)
  if l.maskMode = 1 then List.replicate 32 (bit t)
  else if l.maskMode = 2 then (List.range 32).map (fun i => bit (32 * (t % (l.k / 32)) + i))
  else List.replicate 32 false

/-- One tile of a layer: `gOf` gives what takes g's place (for FPC, the direction). -/
def tile (p : UpdPlan) (l : UpdLayer) (mask : List Byte) (dir : Option Mat) (x : UpdRun) (t : Nat) : UpdRun :=
  if x.code ≠ 0 then x else
  let fz := frozenRows l mask t
  if fz.all id then { x with frozen := x.frozen + 1 } else
  let c := p.constOf l
  let wb := updTileBytes l.wFmt
  let sb := updTileBytes l.sFmt
  let gb := updTileBytes l.gFmt
  let rw := x.read p (l.w + wb * t) wb
  let rm := rw.1.read p (l.m + sb * t) sb
  let rv := if l.rule = 1 then rm.1.read p (l.v + sb * t) sb else (rm.1, List.replicate sb 0)
  let rg := match dir with
    | none =>
      let q := rv.1.read p (l.g + gb * t) gb
      (q.1, (tileValues l.gFmt q.2).map (fmul32 c.gam))
    | some d => (rv.1, (List.range 1024).map (fun j => d.at (32 * (t % (l.k / 32)) + j % 32) (32 * (t / (l.k / 32)) + j / 32)))
  let x1 := rg.1
  if x1.code ≠ 0 then x1 else
  let out := (((tileValues l.wFmt rw.2).zip (tileValues l.sFmt rm.2)).zip ((tileValues l.sFmt rv.2).zip rg.2)).map (fun e =>
    updElem l.rule l.nesterov c e.1.1 e.1.2 e.2.1 e.2.2)
  let enc (fmt tau : Nat) (old : List Byte) (vals : List W32) : List Byte :=
    encodeTile fmt old fz (updBits p.seed l.layer p.next t tau) vals
  let nw := enc l.wFmt 0 rw.2 (out.map (·.1))
  let nm := enc l.sFmt 1 rm.2 (out.map (·.2.1))
  let nv := enc l.sFmt 2 rv.2 (out.map (·.2.2))
  let counted (y : UpdRun) (fmt n : Nat) (bs : List Byte) : UpdRun :=
    if y.code ≠ 0 then y else { y with tiles := y.tiles + n, bad := y.bad + nonFiniteIn fmt fz bs }
  let x2 := counted (x1.write p (l.w + wb * t) nw) l.wFmt 1 nw
  let x3 := counted (x2.write p (l.m + sb * t) nm) l.sFmt 0 nm
  if l.rule = 1 then counted (x3.write p (l.v + sb * t) nv) l.sFmt 0 nv else x3

/-- A statistic's root refreshed where the step refreshes: written to its place, or kept as it is (R341). -/
def refresh (p : UpdPlan) (l : UpdLayer) (n a : Nat) (x : UpdRun) (st root : Mat) : UpdRun × Mat :=
  if x.code ≠ 0 then (x, root) else
  match refreshRoot n l.iters (p.constOf l).eps st with
  | none => ({ x with skips := x.skips + 1 }, root)
  | some (m, res) =>
    let y := x.write p a m.bytes
    if y.code ≠ 0 then (y, root)
    else ({ y with
      refreshed := y.refreshed + 1
      residual := BitVec.ofNat 32 (maxElem .fp32 false y.residual.toNat res.toNat) }, m)
/-- The roots of `n` × `n` statistics refreshed one after another from address `a` on (R341). -/
def refreshAll (p : UpdPlan) (l : UpdLayer) (n : Nat) : Nat → UpdRun → List (Mat × Mat) → UpdRun × List Mat
  | _, x, [] => (x, [])
  | a, x, e :: es =>
    let q := refresh p l n a x e.1 e.2
    let r := refreshAll p l n (a + 4 * n * n) q.1 es
    (r.1, q.2 :: r.2)

/-- The square FP32 matrices of a statistics or roots tensor: L or PL, then R or PR. -/
def squares (l : UpdLayer) (bs : List Byte) : List Mat × List Mat :=
  let ks := l.bK * l.bK * 4
  let ns := l.bN * l.bN * 4
  ((List.range l.pMax).map (fun p => Mat.ofBytes l.bK l.bK (bs.drop (ks * p))),
   (List.range l.qMax).map (fun q => Mat.ofBytes l.bN l.bN (bs.drop (ks * l.pMax + ns * q))))

/-- γ times the stored gradient of a layer, as one matrix (R340). -/
def gradOf (p : UpdPlan) (l : UpdLayer) (bs : List Byte) : Mat :=
  let gb := updTileBytes l.gFmt
  let tl := (List.range l.tiles).map (fun t => (tileValues l.gFmt (bs.drop (gb * t))).map (fmul32 (p.constOf l).gam))
  Mat.ofFn l.k l.n (fun i j => (tl.getD (j / 32 * (l.k / 32) + i / 32) []).getD (32 * (j % 32) + i % 32) 0)

/-- FPC's statistics, refresh and direction (R340 steps 1 to 3); the gradient is read once for the statistics and once for the direction
(R334). -/
def fpc (p : UpdPlan) (l : UpdLayer) (x : UpdRun) : UpdRun × Mat :=
  let c := p.constOf l
  let gb := updTileBytes l.gFmt
  let rg := x.read p l.g (l.tiles * gb)
  let rs := rg.1.read p l.stats l.statBytes
  let rr := rs.1.read p l.roots l.statBytes
  if rr.1.code ≠ 0 then (rr.1, []) else
  let g := gradOf p l rg.2
  let blk (pi qi : Nat) : Mat := g.block (pi * l.bK) l.bK (qi * l.bN) l.bN
  let st := squares l rs.2
  let ro := squares l rr.2
  let ls := ((List.range l.pMax).zip st.1).map (fun e => statUpdate c e.2 (Mat.sum [] ((List.range l.qMax).map (fun q =>
    (blk e.1 q).mul ((blk e.1 q).transpose l.bK l.bN) l.bK l.bN l.bK))))
  let rs' := ((List.range l.qMax).zip st.2).map (fun e => statUpdate c e.2 (Mat.sum [] ((List.range l.pMax).map (fun pi =>
    ((blk pi e.1).transpose l.bK l.bN).mul (blk pi e.1) l.bN l.bK l.bN))))
  let x1 := rr.1.write p l.stats (ls.flatMap Mat.bytes ++ rs'.flatMap Mat.bytes)
  let due := decide (p.next % max 1 l.refresh = 0)
  let f1 := if due then refreshAll p l l.bK l.roots x1 (ls.zip ro.1) else (x1, ro.1)
  let f2 := if due then refreshAll p l l.bN (l.roots + 4 * l.pMax * l.bK * l.bK) f1.1 (rs'.zip ro.2) else (f1.1, ro.2)
  let x2 := f2.1.read p l.g (l.tiles * gb)
  let g2 := gradOf p l x2.2
  let dirs := (List.range l.pMax).map (fun pi => (List.range l.qMax).map (fun q =>
    (((f1.2.getD pi []).mul (g2.block (pi * l.bK) l.bK (q * l.bN) l.bN) l.bK l.bK l.bN).mul (f2.2.getD q []) l.bK l.bN l.bN)))
  (x2.1, Mat.ofFn l.k l.n (fun i j =>
    ((dirs.getD (i / max 1 l.bK) []).getD (j / max 1 l.bN) []).at (i % max 1 l.bK) (j % max 1 l.bN)))

/-- One layer of a step, with its mask (R340, R344). -/
def layer (p : UpdPlan) (x : UpdRun) (e : UpdLayer × List Byte) : UpdRun :=
  if x.code ≠ 0 then x else
  let d := if e.1.rule = 2 then (let q := fpc p e.1 x; (q.1, some q.2)) else (x, none)
  (List.range e.1.tiles).foldl (tile p e.1 e.2 d.2) d.1
end UpdRun

/-- The counters of the engine after a step (R353). -/
def UpdSt.counted (u : UpdSt) (x : UpdRun) : UpdSt := { u with
  steps := u.steps + BitVec.ofNat 64 (b2n (decide (x.code = 0)))
  tiles := u.tiles + BitVec.ofNat 64 x.tiles
  refreshes := u.refreshes + BitVec.ofNat 32 x.refreshed
  skips := u.skips + BitVec.ofNat 32 x.skips
  nonfinite := u.nonfinite + BitVec.ofNat 64 x.bad }
/-- A plan after a step: the next step where there was no fault, torn where one came after a write (R348). -/
def UpdPlan.ran (p : UpdPlan) (x : UpdRun) : UpdPlan := { p with
  running := none
  next := if x.code = 0 then p.next + 1 else p.next
  torn := decide (x.code ≠ 0) && x.wrote
  lastRefresh := if x.refreshed = 0 then p.lastRefresh else some p.next
  residual := if x.refreshed = 0 then p.residual else x.residual }
/-- The core time of a step's runs, in cycles: free, but at most that of every core of the court since the step began (log entry 2). -/
def State.updTime (s : State) (p : UpdPlan) : Nat :=
  let start := match p.running with | some (_, t) => t | none => s.counter.toNat
  s.fv 0 % (33 * (s.counter.toNat - start) * (s.courtCores p.court).length + 1)
/-- A step over: its update time charged at its lead cluster, with a free count of its vector and function events (14 R378), its plan stored, its response sent, and a release that waited done. -/
def State.updDone (s : State) (plan : Nat) (r : Req) (p : UpdPlan) (time : Nat) (code : Code) (x : UpdRun) : State :=
  let u := (s.updAccess p).unit
  let s1 := (((s.chargeAt u p.ctx 1 time).addAcc u p.ctx 10 (eventEnergy 3 (s.fv 1) + eventEnergy 4 (s.fv 2))).drawn).setPlan plan p
  ((s1.answerUpd r code x.refreshed x.tiles x.frozen x.bad).settleRelease plan).mark

/-- What the runs of a step compute and write, layer by layer; a core failure during it ends it (R348). -/
def State.updRun (s : State) (p : UpdPlan) : UpdRun :=
  let x := (p.layers.zip p.masks).foldl (UpdRun.layer p) ⟨s, 0, false, p.failed, 0, 0, 0, 0, 0, 0⟩
  if p.failed.isSome ∧ x.code = 0 then { x with code := E_CORE_FAILED } else x

/-- UPDATE_STEP_COMPLETE: what the step's runs compute and write, then its response (R339 to R344, R348, R351). Update time of the
plan's context is a free value (log entry 2). -/
def execUpdateStepComplete (plan : Nat) (s : State) : Host.Outcome State Fault Refusal :=
  .next <| match AMap.find? s.upd.plans plan with
  | none => s
  | some p => match p.running with
    | none => s
    | some (r, _) =>
      let x := s.updRun p
      ({ x.s with upd := x.s.upd.counted x }).updDone plan r (p.ran x) (s.updTime p) x.code x

/-- MSG_UPD_QUERY (R352). -/
def execMsgUpdQuery (mbx : Nat) (s : State) : Host.Outcome State Fault Refusal :=
  .next (serve 0x0C02 mbx (fun r s =>
    match s.planOf r with
    | none => s.refuse r E_UPD_PLAN 14
    | some (_, p) =>
      let st := if p.torn then 2 else if p.running.isSome then 1 else 0
      s.answer r 0 (leBytes 1 st ++ leBytes 1 0 ++ leBytes 4 p.next ++
        leBytes 4 (match p.lastRefresh with | some x => x | none => 0xFFFFFFFF) ++ leBytes 4 p.residual.toNat)) s)

/-- MSG_UPD_RELEASE (R352): while a step waits or runs it takes effect when the step completes. -/
def execMsgUpdRelease (mbx : Nat) (s : State) : Host.Outcome State Fault Refusal :=
  .next (serve 0x0C03 mbx (fun r s =>
    match s.planOf r with
    | none => s.refuse r E_UPD_PLAN 0
    | some (i, p) =>
      if p.release.isSome then s.refuse r E_UPD_PLAN 0
      else
        let s1 := s.setPlan i { p with release := some r }
        if p.waiting.isSome ∨ p.running.isSome then s1 else s1.settleRelease i) s)

end Sys2Proof.Machine
end

