-- ==== Sys2Proof/Machine/Regs.lean ====
section
/-! DEFINITION. Every register of the module by block, instance and offset (00 R7 to R11; the register tables of 02 to 20),
REGISTER_WRITE, MSG_REG_READ and MSG_REG_WRITE (20 R516). -/
namespace Sys2Proof.Machine

/-! Where a register lies. -/

/-- Offsets of the 32-bit registers of a block, MBX_ apart (R516 gives the block codes). -/
def regs32 (blk : Nat) : List Nat :=
  match blk with
  | 0x01 => [0x00, 0x08, 0x10, 0x18, 0x38]
  | 0x02 => [0x00, 0x08, 0x10]
  | 0x03 => [0x1000, 0x1008]
  | 0x04 => [0x00, 0x08, 0x10, 0x18, 0x28]
  | 0x06 => [0x10]
  | 0x07 => [0x00, 0x10]
  | 0x08 => [0x10]
  | 0x0A => [0x00, 0x10, 0x20, 0x28]
  | 0x0B => [0x00]
  | 0x0C => [0x00]
  | 0x0D => [0x00, 0x08, 0x10]
  | 0x0F => [0x00, 0x20]
  | 0x10 => [0x00]
  | 0x11 => [0x00, 0x08]
  | 0x12 => [0x00, 0x08, 0x10, 0x18, 0x20]
  | 0x13 => [0x08]
  | 0x14 => [0x00]
  | _ => []
/-- Offsets of the 64-bit registers. -/
def regs64 (blk : Nat) : List Nat :=
  match blk with
  | 0x01 => [0x20, 0x28, 0x30, 0x40, 0x48]
  | 0x02 => [0x18, 0x20, 0x28, 0x30, 0x38, 0x40, 0x48]
  | 0x03 => [0x00, 0x08, 0x10, 0x18, 0x20, 0x28, 0x30, 0x38, 0x1010]
  | 0x04 => [0x20, 0x30, 0x38, 0x40]
  | 0x05 => [0x00, 0x08, 0x10]
  | 0x06 => [0x00, 0x08, 0x18, 0x20, 0x28]
  | 0x07 => [0x08, 0x18]
  | 0x08 => [0x00, 0x08, 0x18, 0x20, 0x28]
  | 0x09 => [0x00, 0x08, 0x10, 0x18]
  | 0x0A => [0x08, 0x18]
  | 0x0B => [0x08, 0x10, 0x18]
  | 0x0C => [0x08, 0x10, 0x18, 0x20, 0x28]
  | 0x0D => [0x18, 0x20, 0x28, 0x30]
  | 0x0F => [0x08, 0x10, 0x18]
  | 0x10 => [0x08]
  | 0x11 => [0x10, 0x18, 0x20, 0x28]
  | 0x13 => [0x00]
  | 0x14 => [0x08, 0x10]
  | _ => []
/-- The width in bits of the register at an offset; 0 where none lies there (R10). The registers of mailbox m lie at 64 m (16). -/
def regWidth (blk off : Nat) : Nat :=
  if blk = 0x0E then
    (if 72 ≤ off / 64 then 0
     else if [0x00, 0x08, 0x10, 0x18].contains (off % 64) then 32
     else if off % 64 = 0x20 then 64 else 0)
  else if (regs32 blk).contains off then 32
  else if (regs64 blk).contains off then 64
  else 0

/-- Whether a block has an instance (R516). -/
def instOk (blk inst off : Nat) : Bool :=
  match blk with
  | 0x01 => decide (inst < 25000)
  | 0x02 => decide (inst < 1000)
  | 0x03 => if off < 0x1000 then decide (inst < 25000) else inst == 0
  | 0x05 => decide (inst < 512)
  | _ => decide (1 ≤ blk) && decide (blk ≤ 0x14) && (inst == 0)

/-! What the registers show. -/

/-- The bits of a table slot property, slot n at bit n. -/
def CoreRegs.tabBits (c : CoreRegs) (f : TabSlot → Bool) : Nat := ((List.range 8).map (fun n => 2 ^ n * b2n (f (c.tab n)))).sum
def CState.num : CState → Nat
  | .idle => 0 | .running => 1 | .finished => 2 | .fault => 3
/-- A pair of masks as one register: the column mask below the row mask. -/
def maskReg (m : W32 × W32) : Nat := m.1.toNat + 2 ^ 32 * m.2.toNat

/-- The CORE_ block (02, 06, 08): the logical core `k` at physical index `p`. -/
def CoreRegs.readCore (c : CoreRegs) (k p off : Nat) : Nat :=
  match off with
  | 0x00 => k + 2 ^ 20 * (p % 26)
  | 0x08 => c.startPc.toNat + 2 ^ 16 * b2n c.runReq + 2 ^ 17 * b2n c.halt
  | 0x10 => c.st.num + 4 * (c.pc % 2048) + (if c.st = .fault then 65536 * c.fault.toNat else 0)
  | 0x18 => c.mfmtA.toNat + 16 * c.mfmtB.toNat
  | 0x20 => maskReg (c.masks 1)
  | 0x28 => maskReg (c.masks 2)
  | 0x30 => maskReg (c.masks 3)
  | 0x38 => c.tabBits (fun t => t.act.isSome) + 256 * c.tabBits (·.pend) + 65536 * c.tabBits (·.bank)
  | 0x40 => c.xcvt0.toNat
  | 0x48 => c.xcvt1.toNat
  | _ => 0

/-- The per-core ACC_ registers (03, 07). -/
def CoreRegs.readAcc (c : CoreRegs) (off : Nat) : Nat :=
  match off with
  | 0x00 => c.spillCells.toNat
  | 0x08 => c.spillFolds.toNat
  | 0x10 => c.foldOvf.toNat
  | 0x18 => c.qntElems.toNat
  | 0x20 => c.qntSat.toNat
  | 0x28 => c.srKey.toNat
  | 0x30 => c.srCtr.toNat
  | 0x38 => c.stateOvf.toNat
  | _ => 0

/-- ACC_FB_STAT of the selected court and layer (03); its reset value 0 until the courts are created (19 R482; log entry 62). -/
def State.fbStat (s : State) : Nat :=
  if s.sec.step < 7 ∨ 8 < s.sec.step then 0 else
  let court := s.book.fbSelCourt.toNat
  let layer := s.book.fbSelLayer.toNat
  match s.precIn court layer, s.fbRec court layer with
  | some e, some f =>
    let mode := if e.policy = 1 then 3 else if f.fallback then (if e.policy = 2 then 2 else 1) else 0
    mode + 2 ^ 4 * (f.threshold % 2 ^ 20) + 2 ^ 28 * (f.lastRate % 2 ^ 20) + 2 ^ 48 * min f.windows 65535
  | _, _ => 3

/-- The fallback-monitor registers of the ACC_ block (03). -/
def State.readMonitor (s : State) (off : Nat) : Nat :=
  match off with
  | 0x1000 => b2n s.book.fbEnable + 2 ^ 8 * s.book.fbWindow.toNat
  | 0x1008 => s.book.fbSelCourt.toNat + 2 ^ 4 * s.book.fbSelLayer.toNat
  | 0x1010 => s.fbStat
  | _ => 0

/-- The CLU_ block (04, 05, 08). -/
def Cluster.read (c : Cluster) (off : Nat) : Nat :=
  match off with
  | 0x00 => c.tbReserve.toNat + 4 * c.stgReserve.toNat
  | 0x08 => b2n c.spareUsed + 2 * (c.sparePos % 32) + 64 * b2n c.degraded + 256 * min c.halos.length 255
  | 0x10 => c.haloTmo.toNat
  | 0x18 => c.zeroDisp.toNat
  | 0x20 => c.shapeRej.toNat
  | 0x28 => c.rescaleFlush.toNat
  | 0x30 => c.kvDesc.toNat
  | 0x38 => c.kvSkip.toNat
  | 0x40 => c.tapSkip.toNat
  | 0x48 => c.shapeDefer.toNat
  | _ => 0

/-- MEM_SCRUB_STAT.progress: the channels swept in this period among the live ones, in units of 1/65,536. -/
def State.scrubProgress (s : State) : Nat :=
  min 65535 (65536 * (s.mem.chans.filter (fun e => e.2.swept)).length / max 1 s.liveChannels)

/-- The MEM_ block (10). -/
def State.readMem (s : State) (off : Nat) : Nat :=
  let n := s.mem.chanSel.toNat
  match off with
  | 0x00 => s.shownLive + 2 ^ 10 * s.shownVacated
  | 0x08 => b2n s.mem.auto + 2 ^ 8 * s.mem.floor.toNat
  | 0x10 => s.mem.ceLimit.toNat
  | 0x18 => b2n s.mem.scrubOn + 2 ^ 8 * s.mem.scrubPeriod.toNat
  | 0x20 => s.mem.sweeps.toNat + 2 ^ 32 * s.scrubProgress
  | 0x28 => n
  | 0x30 => (s.chan n).st + 2 ^ 4 * min (s.chan n).ceHour (2 ^ 20 - 1) + 2 ^ 24 * min (s.chan n).ue 65535 + 2 ^ 40 * s.homesOn n
  | 0x38 => s.mem.ceTotal.toNat
  | 0x40 => s.mem.ueTotal.toNat
  | _ => 0

/-- The VAT_ block (10). -/
def Channel.read (c : Channel) (off : Nat) : Nat :=
  match off with
  | 0x00 => c.srKey.toNat
  | 0x08 => c.srCtr.toNat
  | 0x10 => c.ops.toNat
  | _ => 0

/-- Whether the stack is trained and its map restored: from the end of TRAIN on, and not in recovery (19 R482). Before, TIER_STACK and
TIER_CAVE show their reset value 0 (log entry 62). -/
def State.mapUp (s : State) : Bool := decide (5 ≤ s.sec.step) && decide (s.sec.step ≤ 8)
/-- The TIER_ block (11). -/
def State.readTier (s : State) (off : Nat) : Nat :=
  let client := s.tier.selClient.toNat
  let tier := s.tier.selTier.toNat
  match off with
  | 0x00 => if s.mapUp then s.freeRegions + 2 ^ 24 * s.pressedRegions.length else 0
  | 0x08 => if s.mapUp then s.caveFree else 0
  | 0x10 => client + 2 ^ 16 * tier
  | 0x18 => if tier = 3 then 0 else s.limitOf client tier
  | 0x20 => if tier = 3 then 0 else s.usedOf client tier
  | 0x28 => s.tier.moves.toNat
  | _ => 0

/-- The CAV_ block (11). -/
def State.readCave (s : State) (off : Nat) : Nat :=
  let p := s.pkg s.tier.pkgSel.toNat
  match off with
  | 0x00 => s.tier.budget.toNat
  | 0x08 => s.tier.written.toNat
  | 0x10 => s.tier.pkgSel.toNat
  | 0x18 => min p.mean 65535 + 2 ^ 16 * min p.most 65535 + 2 ^ 32 * min p.retired 65535
  | _ => 0

/-- WGT_STAT (12). -/
def State.wgtStat (s : State) : Nat :=
  let k := s.wgt.selSet.toNat
  match s.wset k with
  | none => 0
  | some w =>
    let cur := w.genIn 1
    let g := if s.wgt.selGen = 0 then cur else s.wgt.selGen.toNat
    cur % 2 ^ 32 + 2 ^ 32 * w.gens.length + 2 ^ 36 * b2n (w.genIn 0 != 0) + 2 ^ 40 * s.pins k g +
      2 ^ 53 * b2n (g != 0 && s.genCorrupt k g)

/-- The WGT_ block (12). -/
def State.readWgt (s : State) (off : Nat) : Nat :=
  match off with
  | 0x00 => s.wgt.selSet.toNat + 2 ^ 32 * s.wgt.selGen.toNat
  | 0x08 => s.wgtStat
  | 0x10 => b2n s.wgt.digOn + 2 ^ 8 * s.wgt.digPeriod.toNat
  | 0x18 => s.wgt.passes.toNat + 2 ^ 32 * min s.wgt.failures 65535
  | 0x20 => s.wgt.extra.toNat
  | 0x28 => s.wgt.recalls.toNat
  | _ => 0

/-- The UPD_ block (13). -/
def State.readUpd (s : State) (off : Nat) : Nat :=
  match off with
  | 0x00 => s.upd.steps.toNat
  | 0x08 => s.upd.tiles.toNat
  | 0x10 => s.upd.refreshes.toNat + 2 ^ 32 * s.upd.skips.toNat
  | 0x18 => s.upd.nonfinite.toNat
  | _ => 0

/-- SCH_CTX_STAT (14). -/
def State.ctxStat (s : State) : Nat :=
  let c := s.sch.selCtx.toNat
  let t := s.ctxSt c
  t.st + 4 * b2n (t.st == 1 && s.blocked c) + 8 * b2n (match s.ctxRec c with | some x => x.lc | none => false) +
    2 ^ 4 * (if t.st = 1 then t.slot else 0) + 2 ^ 11 * s.liveIn c + 2 ^ 24 * (s.benchBytes c / 4096)

/-- How many contexts are in a state of R356. -/
def State.ctxsIn (s : State) (st : Nat) : Nat := (s.sch.ctxs.filter (fun e => decide (e.2.st = st))).length

/-- The SCH_ block (14). -/
def State.readSch (s : State) (off : Nat) : Nat :=
  match off with
  | 0x00 => s.sch.selCtx.toNat
  | 0x08 => s.ctxStat
  | 0x10 => s.ctxsIn 1 + 2 ^ 8 * s.ctxsIn 2 + 2 ^ 19 * s.ctxsIn 3
  | 0x18 => s.sch.benchings.toNat + 2 ^ 32 * s.sch.cavings.toNat
  | 0x20 => s.sch.ecoefSel.toNat
  | 0x28 => if s.sch.ecoefSel.toNat < 11 then (Config.energyCoef s.sch.ecoefSel.toNat).toNat else 0
  | _ => 0

/-- The ROST_ block (14). -/
def State.readRost (s : State) (off : Nat) : Nat :=
  match off with
  | 0x00 => (s.sch.seqs.filter (fun e => decide (1 ≤ e.2.st))).length
  | 0x08 => s.sch.tokGranted.toNat
  | 0x10 => s.sch.tokUsed.toNat
  | 0x18 => s.sch.tokDropped.toNat
  | _ => 0

/-- The CDC_ block (15). -/
def State.readCdc (s : State) (off : Nat) : Nat :=
  let n := s.cdc.engSel.toNat
  let e := s.engine n
  match off with
  | 0x00 => n
  | 0x08 => (s.streamsOf n).length + 2 ^ 5 * b2n e.run.isSome + 2 ^ 6 * b2n e.failed + 2 ^ 8 * s.loadOf n
  | 0x10 => e.switches.toNat
  | 0x18 => e.frames.toNat
  | 0x20 => e.hintWin.toNat
  | 0x28 => e.hintSkip.toNat
  | _ => 0

/-- The UMP_ block (16). -/
def State.readUmp (s : State) (off : Nat) : Nat :=
  match off with
  | 0x00 => s.umpStatus
  | 0x08 => s.umpIntake
  | 0x10 => s.umpDefer
  | 0x18 => s.ump.busyCount.toNat
  | 0x20 => s.ump.slot0.gen
  | 0x28 => s.ump.slot1.gen
  | 0x30 => s.ump.failovers.toNat
  | _ => 0

/-- The registers of a mailbox (16). -/
def Mbx.read (b : Mbx) (off : Nat) : Nat :=
  match off with
  | 0x00 => b.reqTail.toNat
  | 0x08 => b.reqHead.toNat
  | 0x10 => b.rspTail.toNat
  | 0x18 => b.rspHead.toNat
  | 0x20 => b2n b.session + 2 * b2n b.stalled + 4 * b2n b.irqEn + 2 ^ 8 * b.verMajor.toNat + 2 ^ 16 * b.verMinor.toNat +
      2 ^ 32 * b.evDrop.toNat
  | _ => 0

/-- RND_PORT_STAT (17): the port shown is 0 to 47; another shows zero. -/
def State.portStat (s : State) : Nat :=
  let p := s.ring.portSel.toNat
  if 48 ≤ p then 0
  else
    let l := s.link p
    let rail := isRailPort p
    s.roleOf p + 4 * l.st + 16 * b2n (!(rail && s.ring.opened.contains (railOf p))) +
      2 ^ 6 * (if rail then railOf p else 0) + 2 ^ 16 * min l.resent 65535 + 2 ^ 32 * min l.fecBad 65535

/-- The RND_ block (17). -/
def State.readRnd (s : State) (off : Nat) : Nat :=
  match off with
  | 0x00 => s.ring.portSel.toNat
  | 0x08 => s.portStat
  | 0x10 => b2n s.ring.member + 2 * (s.ring.position % 16) + 2 ^ 8 * s.memberMask + 2 ^ 24 * s.railsUp.length
  | 0x18 => s.ring.flits.toNat
  | 0x20 => s.ring.huddleTmo.toNat
  | _ => 0

/-- The CLK_ block (18). -/
def State.readClk (s : State) (off : Nat) : Nat :=
  match off with
  | 0x00 => b2n s.pwr.locked + 2 * b2n s.pwr.holdover
  | 0x08 => s.counter.toNat
  | _ => 0

/-- The PWR_ block (18). -/
def State.readPwr (s : State) (off : Nat) : Nat :=
  let c := s.pwr.courtSel.toNat
  match off with
  | 0x00 => s.pwr.profile % 4 + 2 ^ 8 * min 63 (max s.pwr.capA s.pwr.capV) + 2 ^ 14 * b2n s.pwr.beHeld
  | 0x08 => c
  | 0x10 => s.shownPs c + 8 * b2n (s.courtPwr c).entering + 2 ^ 32 * s.effTol c
  | 0x18 => min 65535 s.pwr.now + 2 ^ 16 * min 65535 s.pwr.mean
  | 0x20 => s.pwr.blades.toNat
  | 0x28 => s.pwr.throttle.toNat
  | _ => 0

/-- SEC_DEBUG.left: the seconds until the unlock ends, a part of one counted whole. -/
def State.debugLeft (s : State) : Nat := if s.sec.unlocked.isSome then ceilDiv (s.sec.unlockEnd - s.counter.toNat) tickS else 0

/-- The SEC_ block (19). -/
def State.readSec (s : State) (off : Nat) : Nat :=
  match off with
  | 0x00 => s.secBoot
  | 0x08 => s.sec.bootCount.toNat
  | 0x10 => s.sec.rbSel.toNat
  | 0x18 => min 64 (AMap.getD s.sec.fuses 0 s.sec.rbSel.toNat)
  | 0x20 => s.debugLevel + 4 * b2n s.sec.challenge.isSome + 2 ^ 15 * s.debugLeft
  | _ => 0

/-- The FLT_ and AUD_ blocks (20). -/
def State.readFlt (s : State) (off : Nat) : Nat :=
  match off with
  | 0x00 => s.flt.count.toNat
  | 0x08 => s.fltBudget
  | _ => 0
def State.readAud (s : State) (off : Nat) : Nat :=
  let a := s.aud s.flt.audSel.toNat
  match off with
  | 0x00 => s.flt.audSel.toNat
  | 0x08 => a.passes.toNat + 2 ^ 32 * min a.mismatches 65535 + 2 ^ 48 * min a.late 65535
  | 0x10 => a.last.toNat
  | _ => 0

/-- The value of the register at an offset of an instance of a block; zero where no register lies there (R8, R10), and for a
logical core that no physical core holds. -/
def State.readReg (s : State) (blk inst off : Nat) : Nat :=
  match blk with
  | 0x01 => match s.physOf inst with | some p => (s.core p).now.readCore inst p off | none => 0
  | 0x02 => (s.clu inst).read off
  | 0x03 => if off < 0x1000 then (match s.physOf inst with | some p => (s.core p).now.readAcc off | none => 0) else s.readMonitor off
  | 0x04 => s.readMem off
  | 0x05 => (s.chan inst).read off
  | 0x06 => s.readTier off
  | 0x07 => s.readCave off
  | 0x08 => s.readWgt off
  | 0x09 => s.readUpd off
  | 0x0A => s.readSch off
  | 0x0B => s.readRost off
  | 0x0C => s.readCdc off
  | 0x0D => s.readUmp off
  | 0x0E => if off / 64 < 72 then (s.mbx (off / 64)).read (off % 64) else 0
  | 0x0F => s.readRnd off
  | 0x10 => s.readClk off
  | 0x11 => s.readPwr off
  | 0x12 => s.readSec off
  | 0x13 => s.readFlt off
  | 0x14 => s.readAud off
  | _ => 0

/-! What writes do. -/

/-- A mask pair written (02). -/
def CoreRegs.writeMask (c : CoreRegs) (n : Nat) (v : W64) : CoreRegs :=
  { c with pmask := AMap.insert c.pmask n (v.setWidth 32, (v >>> 32).setWidth 32) }
/-- CORE_MFMT written: a pair that R47 does not permit is ignored, and stops a core that runs with E_CORE_FMT (02 R47; log entry 75). -/
def State.writeMfmt (s : State) (p : Nat) (v : W64) : State :=
  let c := (s.core p).now
  if (pairOf (v.toNat % 16) (v.toNat / 16 % 16)).isSome then
    s.modCore p (fun c => { c with mfmtA := v.setWidth 4, mfmtB := (v >>> 4).setWidth 4 })
  else if c.st = .running ∧ c.stopping = none then s.stopNow p E_CORE_FMT
  else s

/-- The CORE_ block written. -/
def State.writeCore (s : State) (p off : Nat) (v : W64) : State :=
  match off with
  | 0x08 => s.writeCtrl p (v.setWidth 32)
  | 0x18 => s.writeMfmt p v
  | 0x20 => s.modCore p (fun c => c.writeMask 1 v)
  | 0x28 => s.modCore p (fun c => c.writeMask 2 v)
  | 0x30 => s.modCore p (fun c => c.writeMask 3 v)
  | _ => s

/-- The per-core ACC_ registers written (03). -/
def CoreRegs.writeAcc (c : CoreRegs) (off : Nat) (v : W64) : CoreRegs :=
  match off with
  | 0x28 => { c with srKey := v }
  | 0x30 => { c with srCtr := v }
  | _ => c

/-- The fallback-monitor registers written (03): a default window of 0 or of more than 1,024 is ignored. -/
def BookSt.writeMonitor (b : BookSt) (off : Nat) (v : W64) : BookSt :=
  match off with
  | 0x1000 =>
    let w : BitVec 11 := (v >>> 8).setWidth 11
    { b with fbEnable := v.getLsbD 0, fbWindow := if w = 0 ∨ 1024 < w.toNat then b.fbWindow else w }
  | 0x1008 => { b with fbSelCourt := v.setWidth 3, fbSelLayer := (v >>> 4).setWidth 12 }
  | _ => b

/-- The CLU_ block written (04): CLU_CFG is kept while a core of the cluster runs, and a limit of 0 is ignored. -/
def State.writeClu (s : State) (n off : Nat) (v : W64) : State :=
  match off with
  | 0x00 =>
    if s.cores.any (fun e => decide (e.1 / 26 = n) && decide (e.2.now.st = .running)) then s
    else s.modClu n (fun c => { c with tbReserve := v.setWidth 2, stgReserve := (v >>> 2).setWidth 2 })
  | 0x10 => s.modClu n (fun c => if v.setWidth 24 = 0#24 then c else { c with haloTmo := v.setWidth 24 })
  | _ => s

/-- The MEM_ block written (10): a limit of 0, and a period outside 60 to 1,440, are ignored. -/
def MemSt.write (m : MemSt) (off : Nat) (v : W64) : MemSt :=
  match off with
  | 0x08 => { m with auto := v.getLsbD 0, floor := (v >>> 8).setWidth 10 }
  | 0x10 => if v.setWidth 16 = 0#16 then m else { m with ceLimit := v.setWidth 16 }
  | 0x18 =>
    let p : BitVec 11 := (v >>> 8).setWidth 11
    { m with scrubOn := v.getLsbD 0, scrubPeriod := if p.toNat < 60 ∨ 1440 < p.toNat then m.scrubPeriod else p }
  | 0x28 => { m with chanSel := v.setWidth 9 }
  | _ => m

/-- The VAT_ block written (10). -/
def Channel.write (c : Channel) (off : Nat) (v : W64) : Channel :=
  match off with
  | 0x00 => { c with srKey := v }
  | 0x08 => { c with srCtr := v }
  | _ => c

/-- The TIER_ and CAV_ blocks written (11): a budget of 0 or above 750 is ignored. -/
def TierSt.write (t : TierSt) (off : Nat) (v : W64) : TierSt :=
  match off with
  | 0x10 => { t with selClient := v.setWidth 10, selTier := (v >>> 16).setWidth 2 }
  | 0x18 =>
    if t.selTier = 3 then t
    else { t with limit := AMap.setD t.limit 0 (4 * t.selClient.toNat + t.selTier.toNat) (v.toNat % 2 ^ 36) }
  | _ => t
def TierSt.writeCave (t : TierSt) (off : Nat) (v : W64) : TierSt :=
  match off with
  | 0x00 =>
    let b : BitVec 16 := v.setWidth 16
    if b = 0 ∨ 750 < b.toNat then t else { t with budget := b }
  | 0x10 => { t with pkgSel := v.setWidth 5 }
  | _ => t

/-- The WGT_ block written (12): a period outside 1 to 168 is ignored. -/
def WgtSt.write (w : WgtSt) (off : Nat) (v : W64) : WgtSt :=
  match off with
  | 0x00 => { w with selSet := v.setWidth 6, selGen := (v >>> 32).setWidth 32 }
  | 0x10 =>
    let p : Byte := (v >>> 8).setWidth 8
    { w with digOn := v.getLsbD 0, digPeriod := if p = 0 ∨ 168 < p.toNat then w.digPeriod else p }
  | _ => w

/-- The SCH_ block written (14). -/
def SchSt.write (c : SchSt) (off : Nat) (v : W64) : SchSt :=
  match off with
  | 0x00 => { c with selCtx := v.setWidth 10 }
  | 0x20 => { c with ecoefSel := v.setWidth 4 }
  | _ => c

/-- The registers of a mailbox written (16). -/
def Mbx.write (b : Mbx) (off : Nat) (v : W64) : Mbx :=
  match off with
  | 0x00 => b.setTail (v.setWidth 16)
  | 0x18 => { b.setHead (v.setWidth 16) with irq := false }
  | 0x20 => { b with irqEn := v.getLsbD 2 }
  | _ => b

/-- The RND_ block written (17): a limit of 0 is ignored. -/
def RingSt.write (r : RingSt) (off : Nat) (v : W64) : RingSt :=
  match off with
  | 0x00 => { r with portSel := v.setWidth 6 }
  | 0x20 => if v.setWidth 16 = 0#16 then r else { r with huddleTmo := v.setWidth 16 }
  | _ => r

/-- A value written to the register at an offset of an instance of a block: RW and W1S fields by type, what the chapters say beside;
RO registers, and offsets without one, ignore it (R8, R10). -/
def State.writeReg (s : State) (blk inst off : Nat) (v : W64) : State :=
  match blk with
  | 0x01 => match s.physOf inst with | some p => s.writeCore p off v | none => s
  | 0x02 => s.writeClu inst off v
  | 0x03 =>
    if off < 0x1000 then (match s.physOf inst with | some p => s.modCore p (fun c => c.writeAcc off v) | none => s)
    else { s with book := s.book.writeMonitor off v }
  | 0x04 => { s with mem := s.mem.write off v }
  | 0x05 => s.modChan inst (fun c => c.write off v)
  | 0x06 => { s with tier := s.tier.write off v }
  | 0x07 => { s with tier := s.tier.writeCave off v }
  | 0x08 => { s with wgt := s.wgt.write off v }
  | 0x0A => { s with sch := s.sch.write off v }
  | 0x0C => if off = 0 then { s with cdc := { s.cdc with engSel := v.setWidth 4 } } else s
  | 0x0E => if off / 64 < 72 then s.modMbx (off / 64) (fun b => b.write (off % 64) v) else s
  | 0x0F => { s with ring := s.ring.write off v }
  | 0x11 => if off = 8 then { s with pwr := { s.pwr with courtSel := v.setWidth 3 } } else s
  | 0x12 => if off = 0x10 then { s with sec := { s.sec with rbSel := v.setWidth 6 } } else s
  | 0x14 => if off = 0 then { s with flt := { s.flt with audSel := v.setWidth 3 } } else s
  | _ => s

/-- REGISTER_WRITE: a write of `width` bits; only a write of the register's full width has an effect (R7). -/
def execRegisterWrite (blk inst off width : Nat) (v : W64) (s : State) : Host.Outcome State Fault Refusal :=
  .next (if instOk blk inst off ∧ regWidth blk off ≠ 0 ∧ width = regWidth blk off then s.writeReg blk inst off v else s)

/-- MSG_REG_READ. -/
def execMsgRegRead (mbx : Nat) (s : State) : Host.Outcome State Fault Refusal :=
  .next (serve 0x0D04 mbx (fun r s =>
    let blk := r.fld 0 1
    let inst := r.fld 2 2
    let off := r.fld 4 4
    if !instOk blk inst off then s.refuse r E_REG_ADDR 14
    else s.answer r 0 (leBytes 6 0 ++ leBytes 8 (if regWidth blk off = 0 then 0 else s.readReg blk inst off))) s)

/-- MSG_REG_WRITE. -/
def execMsgRegWrite (mbx : Nat) (s : State) : Host.Outcome State Fault Refusal :=
  .next (serve 0x0D05 mbx (fun r s =>
    let blk := r.fld 0 1
    let inst := r.fld 2 2
    let off := r.fld 4 4
    if !instOk blk inst off then s.refuse r E_REG_ADDR 0
    else (if regWidth blk off = 0 then s else s.writeReg blk inst off (BitVec.ofNat 64 (r.fld 8 8))).answer r 0 []) s)

end Sys2Proof.Machine
end

