-- ==== Sys2Proof/Machine/Scalar.lean ====
section
/-! DEFINITION. The scalar slots, loops and the end of a kernel (02 R52 to R56, R60). -/
namespace Sys2Proof.Machine

/-- A scalar operation that writes sd from the registers as they were before the bundle. -/
def scalarOp (b : Slot) (sd : BitVec 4) (f : CoreRegs → W64) (s : State) : State :=
  slotOp b (fun pre now => .ok (now.sw sd (f pre))) s

/-- A branch: the next bundle is PC + sext(imm11) where `t` holds of the registers before the bundle. -/
def branchOp (b : Slot) (imm : BitVec 11) (t : CoreRegs → Bool) (s : State) : State :=
  slotOp b (fun pre now => .ok (if t pre then { now with nextPc := ((now.pc : Int) + imm.toInt).toNat } else now)) s

/-- SNOP. -/
def execSnop (b : Slot) (s : State) : Host.Outcome State Fault Refusal := .next (slotOp b (fun _ now => .ok now) s)
/-- SADD. -/
def execSadd (b : Slot) (sd sa sb : BitVec 4) (s : State) : Host.Outcome State Fault Refusal :=
  .next (scalarOp b sd (fun c => c.sr sa + c.sr sb) s)
/-- SSUB. -/
def execSsub (b : Slot) (sd sa sb : BitVec 4) (s : State) : Host.Outcome State Fault Refusal :=
  .next (scalarOp b sd (fun c => c.sr sa - c.sr sb) s)
/-- SADDI. -/
def execSaddi (b : Slot) (sd sa : BitVec 4) (imm : BitVec 7) (s : State) : Host.Outcome State Fault Refusal :=
  .next (scalarOp b sd (fun c => c.sr sa + imm.signExtend 64) s)
/-- SAND. -/
def execSand (b : Slot) (sd sa sb : BitVec 4) (s : State) : Host.Outcome State Fault Refusal :=
  .next (scalarOp b sd (fun c => c.sr sa &&& c.sr sb) s)
/-- SOR. -/
def execSor (b : Slot) (sd sa sb : BitVec 4) (s : State) : Host.Outcome State Fault Refusal :=
  .next (scalarOp b sd (fun c => c.sr sa ||| c.sr sb) s)
/-- SXOR. -/
def execSxor (b : Slot) (sd sa sb : BitVec 4) (s : State) : Host.Outcome State Fault Refusal :=
  .next (scalarOp b sd (fun c => c.sr sa ^^^ c.sr sb) s)
/-- SSHL: shift by sb[5:0]. -/
def execSshl (b : Slot) (sd sa sb : BitVec 4) (s : State) : Host.Outcome State Fault Refusal :=
  .next (scalarOp b sd (fun c => c.sr sa <<< ((c.sr sb).toNat % 64)) s)
/-- SSHR: logical. -/
def execSshr (b : Slot) (sd sa sb : BitVec 4) (s : State) : Host.Outcome State Fault Refusal :=
  .next (scalarOp b sd (fun c => c.sr sa >>> ((c.sr sb).toNat % 64)) s)
/-- SSRA: arithmetic. -/
def execSsra (b : Slot) (sd sa sb : BitVec 4) (s : State) : Host.Outcome State Fault Refusal :=
  .next (scalarOp b sd (fun c => (c.sr sa).sshiftRight ((c.sr sb).toNat % 64)) s)
/-- SSHLI: shift by imm7[5:0]. -/
def execSshli (b : Slot) (sd sa : BitVec 4) (imm : BitVec 7) (s : State) : Host.Outcome State Fault Refusal :=
  .next (scalarOp b sd (fun c => c.sr sa <<< (imm.toNat % 64)) s)
/-- SMUL: the low 64 bits. -/
def execSmul (b : Slot) (sd sa sb : BitVec 4) (s : State) : Host.Outcome State Fault Refusal :=
  .next (scalarOp b sd (fun c => c.sr sa * c.sr sb) s)
/-- SMIN: signed. -/
def execSmin (b : Slot) (sd sa sb : BitVec 4) (s : State) : Host.Outcome State Fault Refusal :=
  .next (scalarOp b sd (fun c => if (c.sr sb).slt (c.sr sa) then c.sr sb else c.sr sa) s)
/-- SMAX: signed. -/
def execSmax (b : Slot) (sd sa sb : BitVec 4) (s : State) : Host.Outcome State Fault Refusal :=
  .next (scalarOp b sd (fun c => if (c.sr sa).slt (c.sr sb) then c.sr sb else c.sr sa) s)
/-- SSLT: signed. -/
def execSslt (b : Slot) (sd sa sb : BitVec 4) (s : State) : Host.Outcome State Fault Refusal :=
  .next (scalarOp b sd (fun c => if (c.sr sa).slt (c.sr sb) then 1 else 0) s)
/-- SLI. -/
def execSli (b : Slot) (sd : BitVec 4) (imm : BitVec 11) (s : State) : Host.Outcome State Fault Refusal :=
  .next (scalarOp b sd (fun _ => imm.signExtend 64) s)
/-- SLIS: sd = (sd << 11) OR imm11. -/
def execSlis (b : Slot) (sd : BitVec 4) (imm : BitVec 11) (s : State) : Host.Outcome State Fault Refusal :=
  .next (scalarOp b sd (fun c => (c.sr sd <<< 11) ||| imm.zeroExtend 64) s)
/-- SBRZ. -/
def execSbrz (b : Slot) (sr : BitVec 4) (imm : BitVec 11) (s : State) : Host.Outcome State Fault Refusal :=
  .next (branchOp b imm (fun c => c.sr sr == 0) s)
/-- SBRNZ. -/
def execSbrnz (b : Slot) (sr : BitVec 4) (imm : BitVec 11) (s : State) : Host.Outcome State Fault Refusal :=
  .next (branchOp b imm (fun c => c.sr sr != 0) s)
/-- SJMP. -/
def execSjmp (b : Slot) (imm : BitVec 11) (s : State) : Host.Outcome State Fault Refusal :=
  .next (branchOp b imm (fun _ => true) s)

/-- SLOOP (02 R54). -/
def execSloop (b : Slot) (lc : BitVec 3) (sc : BitVec 4) (e : BitVec 8) (s : State) : Host.Outcome State Fault Refusal :=
  .next (slotOp b (fun pre now =>
    let n := (pre.sr sc).toNat
    if 2 ^ 32 ≤ n then .stop E_CORE_OPERAND
    else if n = 0 then
      .ok { now.setLoop lc.toNat { now.loop lc.toNat with active := false } with nextPc := now.pc + e.toNat + 1 }
    else .ok (now.setLoop lc.toNat ⟨true, n, now.pc + 1, now.pc + e.toNat⟩)) s)

/-- SRD: a loop counter, the logical core number, the die's counter, or the mask of outstanding tags. -/
def execSrd (b : Slot) (sd : BitVec 4) (src : BitVec 7) (s : State) : Host.Outcome State Fault Refusal :=
  .next (scalarOp b sd (fun c =>
    if src.toNat < 8 then BitVec.ofNat 64 (c.loop src.toNat).count
    else if src = 8 then BitVec.ofNat 64 b.core
    else if src = 9 then s.dieCounter (dieOfCore b.core)
    else c.tagMask) s)

/-- SCSR: CORE_MFMT (a pair that R47 does not permit is ignored and stops the core) or a mask pair. -/
def execScsr (b : Slot) (reg : BitVec 7) (sa : BitVec 4) (s : State) : Host.Outcome State Fault Refusal :=
  .next (slotOp b (fun pre now =>
    let v := pre.sr sa
    if reg = 0 then
      let fa := v.toNat % 16
      let fb := v.toNat / 16 % 16
      if (pairOf fa fb).isSome then .ok { now with mfmtA := BitVec.ofNat 4 fa, mfmtB := BitVec.ofNat 4 fb }
      else .stop E_CORE_FMT
    else if reg.toNat ≤ 3 then
      .ok { now with pmask := AMap.insert now.pmask reg.toNat (BitVec.ofNat 32 v.toNat, BitVec.ofNat 32 (v.toNat / 2 ^ 32)) }
    else .ok now) s)

/-- SSIG: bits [31:0] of sa to the coach's event queue. -/
def execSsig (b : Slot) (sa : BitVec 4) (s : State) : Host.Outcome State Fault Refusal :=
  .next (slotOp b (fun pre now => .sig now (BitVec.ofNat 32 (pre.sr sa).toNat)) s)

/-- LOOP_END (02 R54): an active counter is decremented; above zero, the next bundle is the body start. -/
def execLoopEnd (b : Slot) (lc : BitVec 3) (s : State) : Host.Outcome State Fault Refusal :=
  .next (slotOp b (fun _ now =>
    let l := now.loop lc.toNat
    if l.active = false then .ok now
    else if 1 < l.count then .ok { now.setLoop lc.toNat { l with count := l.count - 1 } with nextPc := l.bodyStart }
    else .ok (now.setLoop lc.toNat { l with active := false, count := 0 })) s)

/-- BUNDLE_STOP (02 R60): no further bundle issues; a stop that the bundle's matrix operand has asked for stays (R48). -/
def execBundleStop (b : Slot) (s : State) : Host.Outcome State Fault Refusal :=
  .next (slotOp b (fun _ now => .ok { now with stopping := some (now.stopping.getD 0) }) s)

end Sys2Proof.Machine
end

