-- ==== Sys2Proof/Machine/Dispatch.lean ====
section
/-! DEFINITION. The effect of each command: one arm per constructor, one call of its meaning. -/
namespace Sys2Proof.Machine

def exec (i : Instr) (s : State) : Host.Outcome State Fault Refusal :=
  match i with
  | .mnop b => Sys2Proof.Machine.execMnop b s
  | .mma b aReg bReg acc postInc first => Sys2Proof.Machine.execMma b aReg bReg acc postInc first s
  | .mwh b aReg bReg acc first => Sys2Proof.Machine.execMwh b aReg bReg acc first s
  | .mfold b acc init join => Sys2Proof.Machine.execMfold b acc init join s
  | .msetc b aReg acc bcast => Sys2Proof.Machine.execMsetc b aReg acc bcast s
  | .mzero b acc => Sys2Proof.Machine.execMzero b acc s
  | .vnop b => Sys2Proof.Machine.execVnop b s
  | .vadd b vd va vb ty => Sys2Proof.Machine.execVadd b vd va vb ty s
  | .vsub b vd va vb ty => Sys2Proof.Machine.execVsub b vd va vb ty s
  | .vmul b vd va vb ty => Sys2Proof.Machine.execVmul b vd va vb ty s
  | .vfma b vd va vb vc ty => Sys2Proof.Machine.execVfma b vd va vb vc ty s
  | .vmax b vd va vb ty => Sys2Proof.Machine.execVmax b vd va vb ty s
  | .vmin b vd va vb ty => Sys2Proof.Machine.execVmin b vd va vb ty s
  | .vabs b vd va ty => Sys2Proof.Machine.execVabs b vd va ty s
  | .vneg b vd va ty => Sys2Proof.Machine.execVneg b vd va ty s
  | .vcmp b vd va vb cond ty => Sys2Proof.Machine.execVcmp b vd va vb cond ty s
  | .vsel b vd va vb vc ty => Sys2Proof.Machine.execVsel b vd va vb vc ty s
  | .vand b vd va vb => Sys2Proof.Machine.execVand b vd va vb s
  | .vor b vd va vb => Sys2Proof.Machine.execVor b vd va vb s
  | .vxor b vd va vb => Sys2Proof.Machine.execVxor b vd va vb s
  | .vshf b vd va vb => Sys2Proof.Machine.execVshf b vd va vb s
  | .vspl b vd sa => Sys2Proof.Machine.execVspl b vd sa s
  | .vget b sd va vb half => Sys2Proof.Machine.execVget b sd va vb half s
  | .vcvt b vd va src mode ty => Sys2Proof.Machine.execVcvt b vd va src mode ty s
  | .vqnt b vd va fmt => Sys2Proof.Machine.execVqnt b vd va fmt s
  | .vrsum b vd va whole ty => Sys2Proof.Machine.execVrsum b vd va whole ty s
  | .vrmax b vd va whole ty => Sys2Proof.Machine.execVrmax b vd va whole ty s
  | .vld b vd sa off => Sys2Proof.Machine.execVld b vd sa off s
  | .vst b vd sa off => Sys2Proof.Machine.execVst b vd sa off s
  | .vlda b vd sa off => Sys2Proof.Machine.execVlda b vd sa off s
  | .vsta b vd sa off => Sys2Proof.Machine.execVsta b vd sa off s
  | .vexp b vd va refine ty => Sys2Proof.Machine.execVexp b vd va refine ty s
  | .vlog b vd va refine ty => Sys2Proof.Machine.execVlog b vd va refine ty s
  | .vrcp b vd va refine ty => Sys2Proof.Machine.execVrcp b vd va refine ty s
  | .vrsq b vd va refine ty => Sys2Proof.Machine.execVrsq b vd va refine ty s
  | .vtab b vd va slot ty => Sys2Proof.Machine.execVtab b vd va slot ty s
  | .vdw b vd va sb vc ty => Sys2Proof.Machine.execVdw b vd va sb vc ty s
  | .vwel b vd va sb vc => Sys2Proof.Machine.execVwel b vd va sb vc s
  | .vamax b vd va sb vc ty => Sys2Proof.Machine.execVamax b vd va sb vc ty s
  | .vesu b vd sa vb vc => Sys2Proof.Machine.execVesu b vd sa vb vc s
  | .snop b => Sys2Proof.Machine.execSnop b s
  | .sadd b sd sa sb => Sys2Proof.Machine.execSadd b sd sa sb s
  | .ssub b sd sa sb => Sys2Proof.Machine.execSsub b sd sa sb s
  | .saddi b sd sa imm => Sys2Proof.Machine.execSaddi b sd sa imm s
  | .sand b sd sa sb => Sys2Proof.Machine.execSand b sd sa sb s
  | .sor b sd sa sb => Sys2Proof.Machine.execSor b sd sa sb s
  | .sxor b sd sa sb => Sys2Proof.Machine.execSxor b sd sa sb s
  | .sshl b sd sa sb => Sys2Proof.Machine.execSshl b sd sa sb s
  | .sshr b sd sa sb => Sys2Proof.Machine.execSshr b sd sa sb s
  | .ssra b sd sa sb => Sys2Proof.Machine.execSsra b sd sa sb s
  | .sshli b sd sa imm => Sys2Proof.Machine.execSshli b sd sa imm s
  | .smul b sd sa sb => Sys2Proof.Machine.execSmul b sd sa sb s
  | .smin b sd sa sb => Sys2Proof.Machine.execSmin b sd sa sb s
  | .smax b sd sa sb => Sys2Proof.Machine.execSmax b sd sa sb s
  | .sslt b sd sa sb => Sys2Proof.Machine.execSslt b sd sa sb s
  | .sli b sd imm => Sys2Proof.Machine.execSli b sd imm s
  | .slis b sd imm => Sys2Proof.Machine.execSlis b sd imm s
  | .sbrz b sr imm => Sys2Proof.Machine.execSbrz b sr imm s
  | .sbrnz b sr imm => Sys2Proof.Machine.execSbrnz b sr imm s
  | .sjmp b imm => Sys2Proof.Machine.execSjmp b imm s
  | .sloop b lc sc e => Sys2Proof.Machine.execSloop b lc sc e s
  | .srd b sd src => Sys2Proof.Machine.execSrd b sd src s
  | .scsr b reg sa => Sys2Proof.Machine.execScsr b reg sa s
  | .ssig b sa => Sys2Proof.Machine.execSsig b sa s
  | .loopEnd b lc => Sys2Proof.Machine.execLoopEnd b lc s
  | .bundleStop b => Sys2Proof.Machine.execBundleStop b s
  | .xnop b => Sys2Proof.Machine.execXnop b s
  | .xcopy b dst src len tag => Sys2Proof.Machine.execXcopy b dst src len tag s
  | .xsld b dst src len tag mod => Sys2Proof.Machine.execXsld b dst src len tag mod s
  | .xsst b dst src len tag mod => Sys2Proof.Machine.execXsst b dst src len tag mod s
  | .xmld b dst src len tag mod => Sys2Proof.Machine.execXmld b dst src len tag mod s
  | .xmst b dst src len tag mod => Sys2Proof.Machine.execXmst b dst src len tag mod s
  | .xhalo b dst src len tag dir => Sys2Proof.Machine.execXhalo b dst src len tag dir s
  | .xhwait b len dir => Sys2Proof.Machine.execXhwait b len dir s
  | .xpage b dst len tag part => Sys2Proof.Machine.execXpage b dst len tag part s
  | .xvat b dst src len tag code => Sys2Proof.Machine.execXvat b dst src len tag code s
  | .xacc b dst src len tag fromAcc => Sys2Proof.Machine.execXacc b dst src len tag fromAcc s
  | .xfence b tag all => Sys2Proof.Machine.execXfence b tag all s
  | .transferComplete core done => Sys2Proof.Machine.execTransferComplete core done s
  | .haloArrival core dir => Sys2Proof.Machine.execHaloArrival core dir s
  | .kernelComplete core => Sys2Proof.Machine.execKernelComplete core s
  | .pcEndStop core => Sys2Proof.Machine.execPcEndStop core s
  | .coreRun core v => Sys2Proof.Machine.execCoreRun core v s
  | .coreHalt core v => Sys2Proof.Machine.execCoreHalt core v s
  | .registerWrite blk inst off width v => Sys2Proof.Machine.execRegisterWrite blk inst off width v s
  | .pageDescriptorIssue core => Sys2Proof.Machine.execPageDescriptorIssue core s
  | .coachHaloDelivery core => Sys2Proof.Machine.execCoachHaloDelivery core s
  | .haloTimeout core dir => Sys2Proof.Machine.execHaloTimeout core dir s
  | .vatLineApply core idx => Sys2Proof.Machine.execVatLineApply core idx s
  | .vatElementOp ctx addr code x => Sys2Proof.Machine.execVatElementOp ctx addr code x s
  | .runDispatch core => Sys2Proof.Machine.execRunDispatch core s
  | .huddleGather court ctx step => Sys2Proof.Machine.execHuddleGather court ctx step s
  | .mergeDispatch court ctx step => Sys2Proof.Machine.execMergeDispatch court ctx step s
  | .stepFormRoster court lc => Sys2Proof.Machine.execStepFormRoster court lc s
  | .fixedStepForm ctx => Sys2Proof.Machine.execFixedStepForm ctx s
  | .stepComplete court ctx step => Sys2Proof.Machine.execStepComplete court ctx step s
  | .fallbackWindowEnd court layer => Sys2Proof.Machine.execFallbackWindowEnd court layer s
  | .playbookInstall playbook => Sys2Proof.Machine.execPlaybookInstall playbook s
  | .tableBankSwap core slot => Sys2Proof.Machine.execTableBankSwap core slot s
  | .coreFailDeclare phys => Sys2Proof.Machine.execCoreFailDeclare phys s
  | .coreAnswerTimeout phys => Sys2Proof.Machine.execCoreAnswerTimeout phys s
  | .coreStoreTest phys upsets => Sys2Proof.Machine.execCoreStoreTest phys upsets s
  | .spareRemap cluster => Sys2Proof.Machine.execSpareRemap cluster s
  | .slotMove seq slot => Sys2Proof.Machine.execSlotMove seq slot s
  | .stateExportEffect seq => Sys2Proof.Machine.execStateExportEffect seq s
  | .stateExportComplete seq => Sys2Proof.Machine.execStateExportComplete seq s
  | .stateImportComplete seq => Sys2Proof.Machine.execStateImportComplete seq s
  | .branchEffect seq => Sys2Proof.Machine.execBranchEffect seq s
  | .sealEffect seq => Sys2Proof.Machine.execSealEffect seq s
  | .pruneEffect seq => Sys2Proof.Machine.execPruneEffect seq s
  | .seqEndEffect seq => Sys2Proof.Machine.execSeqEndEffect seq s
  | .repinEffect seq => Sys2Proof.Machine.execRepinEffect seq s
  | .updateStepEffect plan => Sys2Proof.Machine.execUpdateStepEffect plan s
  | .updateStepComplete plan => Sys2Proof.Machine.execUpdateStepComplete plan s
  | .streamPark seq => Sys2Proof.Machine.execStreamPark seq s
  | .streamRotateImport court => Sys2Proof.Machine.execStreamRotateImport court s
  | .contextBench ctx => Sys2Proof.Machine.execContextBench ctx s
  | .contextCave ctx => Sys2Proof.Machine.execContextCave ctx s
  | .contextAdmitSlot => Sys2Proof.Machine.execContextAdmitSlot s
  | .contextReturn ctx => Sys2Proof.Machine.execContextReturn ctx s
  | .ledgerFold => Sys2Proof.Machine.execLedgerFold s
  | .patrolScrub chan upsets => Sys2Proof.Machine.execPatrolScrub chan upsets s
  | .countingHour => Sys2Proof.Machine.execCountingHour s
  | .mapoutAutoTrigger chan => Sys2Proof.Machine.execMapoutAutoTrigger chan s
  | .mapoutVacate => Sys2Proof.Machine.execMapoutVacate s
  | .sliceMove => Sys2Proof.Machine.execSliceMove s
  | .bucketRehome => Sys2Proof.Machine.execBucketRehome s
  | .mapoutComplete => Sys2Proof.Machine.execMapoutComplete s
  | .tierBlockMove obj => Sys2Proof.Machine.execTierBlockMove obj s
  | .blockRelocation block => Sys2Proof.Machine.execBlockRelocation block s
  | .pressedCompaction => Sys2Proof.Machine.execPressedCompaction s
  | .caveLevelling report => Sys2Proof.Machine.execCaveLevelling report s
  | .flashBlockRetire pkg bytes => Sys2Proof.Machine.execFlashBlockRetire pkg bytes s
  | .caveBudgetRelease => Sys2Proof.Machine.execCaveBudgetRelease s
  | .shardHashComplete obj => Sys2Proof.Machine.execShardHashComplete obj s
  | .digestPass => Sys2Proof.Machine.execDigestPass s
  | .shardRecall core => Sys2Proof.Machine.execShardRecall core s
  | .codecFrameStart eng => Sys2Proof.Machine.execCodecFrameStart eng s
  | .codecSliceEmit eng data => Sys2Proof.Machine.execCodecSliceEmit eng data s
  | .codecFrameDone eng out => Sys2Proof.Machine.execCodecFrameDone eng out s
  | .codecCloseEffect stream => Sys2Proof.Machine.execCodecCloseEffect stream s
  | .codecEngineFault eng => Sys2Proof.Machine.execCodecEngineFault eng s
  | .rtpFlowClose flow => Sys2Proof.Machine.execRtpFlowClose flow s
  | .mbxReqTail mbx tail data => Sys2Proof.Machine.execMbxReqTail mbx tail data s
  | .mbxRspHead mbx head => Sys2Proof.Machine.execMbxRspHead mbx head s
  | .requestIntake mbx => Sys2Proof.Machine.execRequestIntake mbx s
  | .responseDeliver mbx => Sys2Proof.Machine.execResponseDeliver mbx s
  | .umpireFailover => Sys2Proof.Machine.execUmpireFailover s
  | .standbyRestore pass => Sys2Proof.Machine.execStandbyRestore pass s
  | .housekeepingTask kind => Sys2Proof.Machine.execHousekeepingTask kind s
  | .healthCheck h2 => Sys2Proof.Machine.execHealthCheck h2 s
  | .trialEnd => Sys2Proof.Machine.execTrialEnd s
  | .fwHandover pauseUs => Sys2Proof.Machine.execFwHandover pauseUs s
  | .fwNewFirmwareReady => Sys2Proof.Machine.execFwNewFirmwareReady s
  | .fwPhase3Timeout => Sys2Proof.Machine.execFwPhase3Timeout s
  | .fwHandback pauseUs => Sys2Proof.Machine.execFwHandback pauseUs s
  | .fwStandbyReady => Sys2Proof.Machine.execFwStandbyReady s
  | .tlsConnect anchor => Sys2Proof.Machine.execTlsConnect anchor s
  | .tlsClose mbx => Sys2Proof.Machine.execTlsClose mbx s
  | .railDown rail => Sys2Proof.Machine.execRailDown rail s
  | .railRetrainTimeout rail => Sys2Proof.Machine.execRailRetrainTimeout rail s
  | .railUp rail => Sys2Proof.Machine.execRailUp rail s
  | .flitReceive port flit fecBad => Sys2Proof.Machine.execFlitReceive port flit fecBad s
  | .flitResend port => Sys2Proof.Machine.execFlitResend port s
  | .ringTransferComplete tag => Sys2Proof.Machine.execRingTransferComplete tag s
  | .discoveryReturn members rolesOk => Sys2Proof.Machine.execDiscoveryReturn members rolesOk s
  | .ringLeaveComplete => Sys2Proof.Machine.execRingLeaveComplete s
  | .memberLoss pos => Sys2Proof.Machine.execMemberLoss pos s
  | .ringHuddleStage court ctx step data => Sys2Proof.Machine.execRingHuddleStage court ctx step data s
  | .ringHuddleTimeout court ctx step => Sys2Proof.Machine.execRingHuddleTimeout court ctx step s
  | .relayFrame hub dst data => Sys2Proof.Machine.execRelayFrame hub dst data s
  | .bypassPowerLoss => Sys2Proof.Machine.execBypassPowerLoss s
  | .refclkLoss => Sys2Proof.Machine.execRefclkLoss s
  | .refclkRestore => Sys2Proof.Machine.execRefclkRestore s
  | .powerMeasure watts mean volts => Sys2Proof.Machine.execPowerMeasure watts mean volts s
  | .governorStep => Sys2Proof.Machine.execGovernorStep s
  | .thermalCheck hottest inlet outlet => Sys2Proof.Machine.execThermalCheck hottest inlet outlet s
  | .thermalStop die => Sys2Proof.Machine.execThermalStop die s
  | .thermalResume die => Sys2Proof.Machine.execThermalResume die s
  | .psEntry court => Sys2Proof.Machine.execPsEntry court s
  | .psEntryComplete court => Sys2Proof.Machine.execPsEntryComplete court s
  | .psWake court remUs => Sys2Proof.Machine.execPsWake court remUs s
  | .psExitComplete court => Sys2Proof.Machine.execPsExitComplete court s
  | .ps5Entry => Sys2Proof.Machine.execPs5Entry s
  | .ps5Wake => Sys2Proof.Machine.execPs5Wake s
  | .resetAssert resetN pgood => Sys2Proof.Machine.execResetAssert resetN pgood s
  | .resetRelease => Sys2Proof.Machine.execResetRelease s
  | .bootRom ok0 ok2 => Sys2Proof.Machine.execBootRom ok0 ok2 s
  | .verify => Sys2Proof.Machine.execVerify s
  | .train bad => Sys2Proof.Machine.execTrain bad s
  | .selftest bad => Sys2Proof.Machine.execSelftest bad s
  | .courts => Sys2Proof.Machine.execCourts s
  | .platform ok => Sys2Proof.Machine.execPlatform ok s
  | .serve => Sys2Proof.Machine.execServe s
  | .startupTimeout => Sys2Proof.Machine.execStartupTimeout s
  | .bootStatus pec => Sys2Proof.Machine.execBootStatus pec s
  | .bladeVolts pec => Sys2Proof.Machine.execBladeVolts pec s
  | .thermal pec => Sys2Proof.Machine.execThermal pec s
  | .mgmtAddr pec data => Sys2Proof.Machine.execMgmtAddr pec data s
  | .xferData pec data => Sys2Proof.Machine.execXferData pec data s
  | .xferEnd pec data => Sys2Proof.Machine.execXferEnd pec data s
  | .smbAlertResponse pec => Sys2Proof.Machine.execSmbAlertResponse pec s
  | .debugChallengeExpiry => Sys2Proof.Machine.execDebugChallengeExpiry s
  | .debugUnlockExpiry => Sys2Proof.Machine.execDebugUnlockExpiry s
  | .faultRecordTakeIn unit => Sys2Proof.Machine.execFaultRecordTakeIn unit s
  | .faultRecordAck unit => Sys2Proof.Machine.execFaultRecordAck unit s
  | .auditPass audit late => Sys2Proof.Machine.execAuditPass audit late s
  | .msgHello mbx => Sys2Proof.Machine.execMsgHello mbx s
  | .msgBye mbx => Sys2Proof.Machine.execMsgBye mbx s
  | .msgPing mbx => Sys2Proof.Machine.execMsgPing mbx s
  | .msgUmpQuery mbx => Sys2Proof.Machine.execMsgUmpQuery mbx s
  | .msgConfigWrite mbx => Sys2Proof.Machine.execMsgConfigWrite mbx s
  | .msgConfigCommit mbx => Sys2Proof.Machine.execMsgConfigCommit mbx s
  | .msgConfigConfirm mbx => Sys2Proof.Machine.execMsgConfigConfirm mbx s
  | .msgConfigRevert mbx => Sys2Proof.Machine.execMsgConfigRevert mbx s
  | .msgConfigQuery mbx => Sys2Proof.Machine.execMsgConfigQuery mbx s
  | .msgConfigRead mbx => Sys2Proof.Machine.execMsgConfigRead mbx s
  | .msgPlaybookLoad mbx => Sys2Proof.Machine.execMsgPlaybookLoad mbx s
  | .msgPrecQuery mbx => Sys2Proof.Machine.execMsgPrecQuery mbx s
  | .msgFallbackSet mbx => Sys2Proof.Machine.execMsgFallbackSet mbx s
  | .msgTableLoad mbx => Sys2Proof.Machine.execMsgTableLoad mbx s
  | .msgTableQuery mbx => Sys2Proof.Machine.execMsgTableQuery mbx s
  | .msgShardRegister mbx => Sys2Proof.Machine.execMsgShardRegister mbx s
  | .msgWgtCommit mbx => Sys2Proof.Machine.execMsgWgtCommit mbx s
  | .msgWgtBind mbx => Sys2Proof.Machine.execMsgWgtBind mbx s
  | .msgSeqRepin mbx => Sys2Proof.Machine.execMsgSeqRepin mbx s
  | .msgAdapterRegister mbx => Sys2Proof.Machine.execMsgAdapterRegister mbx s
  | .msgAdapterRelease mbx => Sys2Proof.Machine.execMsgAdapterRelease mbx s
  | .msgWgtPriv mbx => Sys2Proof.Machine.execMsgWgtPriv mbx s
  | .msgWgtQuery mbx => Sys2Proof.Machine.execMsgWgtQuery mbx s
  | .msgSeqAdmit mbx => Sys2Proof.Machine.execMsgSeqAdmit mbx s
  | .msgSeqEnd mbx => Sys2Proof.Machine.execMsgSeqEnd mbx s
  | .msgBatchSubmit mbx => Sys2Proof.Machine.execMsgBatchSubmit mbx s
  | .msgCtxQuery mbx => Sys2Proof.Machine.execMsgCtxQuery mbx s
  | .msgRostGrant mbx => Sys2Proof.Machine.execMsgRostGrant mbx s
  | .msgRostSet mbx => Sys2Proof.Machine.execMsgRostSet mbx s
  | .msgRostQuery mbx => Sys2Proof.Machine.execMsgRostQuery mbx s
  | .msgFutureBranch mbx => Sys2Proof.Machine.execMsgFutureBranch mbx s
  | .msgFutureSeal mbx => Sys2Proof.Machine.execMsgFutureSeal mbx s
  | .msgFuturePrune mbx => Sys2Proof.Machine.execMsgFuturePrune mbx s
  | .msgFutureScore mbx => Sys2Proof.Machine.execMsgFutureScore mbx s
  | .msgFutureQuery mbx => Sys2Proof.Machine.execMsgFutureQuery mbx s
  | .msgObjCreate mbx => Sys2Proof.Machine.execMsgObjCreate mbx s
  | .msgObjFree mbx => Sys2Proof.Machine.execMsgObjFree mbx s
  | .msgTierMove mbx => Sys2Proof.Machine.execMsgTierMove mbx s
  | .msgTierQuery mbx => Sys2Proof.Machine.execMsgTierQuery mbx s
  | .msgQuotaSet mbx => Sys2Proof.Machine.execMsgQuotaSet mbx s
  | .msgQuotaQuery mbx => Sys2Proof.Machine.execMsgQuotaQuery mbx s
  | .msgKvQuery mbx => Sys2Proof.Machine.execMsgKvQuery mbx s
  | .msgMemQuery mbx => Sys2Proof.Machine.execMsgMemQuery mbx s
  | .msgChanMapout mbx => Sys2Proof.Machine.execMsgChanMapout mbx s
  | .msgStateQuery mbx => Sys2Proof.Machine.execMsgStateQuery mbx s
  | .msgStateExport mbx => Sys2Proof.Machine.execMsgStateExport mbx s
  | .msgStateImport mbx => Sys2Proof.Machine.execMsgStateImport mbx s
  | .msgStateClear mbx => Sys2Proof.Machine.execMsgStateClear mbx s
  | .msgCdcOpen mbx => Sys2Proof.Machine.execMsgCdcOpen mbx s
  | .msgCdcPool mbx => Sys2Proof.Machine.execMsgCdcPool mbx s
  | .msgCdcFrame mbx => Sys2Proof.Machine.execMsgCdcFrame mbx s
  | .msgCdcSet mbx => Sys2Proof.Machine.execMsgCdcSet mbx s
  | .msgCdcClose mbx => Sys2Proof.Machine.execMsgCdcClose mbx s
  | .msgRingQuery mbx => Sys2Proof.Machine.execMsgRingQuery mbx s
  | .msgRingJoin mbx => Sys2Proof.Machine.execMsgRingJoin mbx s
  | .msgRingLeave mbx => Sys2Proof.Machine.execMsgRingLeave mbx s
  | .msgPortRole mbx => Sys2Proof.Machine.execMsgPortRole mbx s
  | .msgPwrTolerance mbx => Sys2Proof.Machine.execMsgPwrTolerance mbx s
  | .msgPwrProfile mbx => Sys2Proof.Machine.execMsgPwrProfile mbx s
  | .msgPwrQuery mbx => Sys2Proof.Machine.execMsgPwrQuery mbx s
  | .msgAttestQuote mbx => Sys2Proof.Machine.execMsgAttestQuote mbx s
  | .msgIdCert mbx => Sys2Proof.Machine.execMsgIdCert mbx s
  | .msgDebugChallenge mbx => Sys2Proof.Machine.execMsgDebugChallenge mbx s
  | .msgDebugUnlock mbx => Sys2Proof.Machine.execMsgDebugUnlock mbx s
  | .msgFwUpdate mbx => Sys2Proof.Machine.execMsgFwUpdate mbx s
  | .msgUpdPlan mbx => Sys2Proof.Machine.execMsgUpdPlan mbx s
  | .msgUpdStep mbx => Sys2Proof.Machine.execMsgUpdStep mbx s
  | .msgUpdQuery mbx => Sys2Proof.Machine.execMsgUpdQuery mbx s
  | .msgUpdRelease mbx => Sys2Proof.Machine.execMsgUpdRelease mbx s
  | .msgLedgerRead mbx => Sys2Proof.Machine.execMsgLedgerRead mbx s
  | .msgFaultRead mbx => Sys2Proof.Machine.execMsgFaultRead mbx s
  | .msgAuditQuery mbx => Sys2Proof.Machine.execMsgAuditQuery mbx s
  | .msgRegRead mbx => Sys2Proof.Machine.execMsgRegRead mbx s
  | .msgRegWrite mbx => Sys2Proof.Machine.execMsgRegWrite mbx s
  | .appCoreObjectAccess app acc => Sys2Proof.Machine.execAppCoreObjectAccess app acc s
  | .fieldPortFrame port rx data => Sys2Proof.Machine.execFieldPortFrame port rx data s

end Sys2Proof.Machine
end

