-- ==== Sys2Proof/WellFormed.lean ====
section
/-! DEFINITION. Which commands are well formed: the numbers of units lie in the panel (01 R16 to R31; 14 R354 to R356; 16 R415; 17 R443),
and the fields of a slot operation take the values the operation tables allow (02 R44 to R58; 05 R141; 10 R258). The meanings
are total all the same. -/
namespace Sys2Proof

/-- A logical core of the module (01 R16). -/
def okCore (k : Nat) : Bool := decide (k < Config.cores)
/-- A mailbox (16 R415). -/
def okMbx (m : Nat) : Bool := decide (m < 72)
/-- A court (14 R354). -/
def okCourt (c : Nat) : Bool := decide (c < 8)
/-- A context (14 R355). -/
def okCtx (c : Nat) : Bool := decide (c < 1024)
/-- An element type that an operation takes (02 R50). -/
def okTy (t : VTy) (ts : List VTy) : Bool := ts.contains t

/-- Well-formed commands. -/
def Instr.wf : Instr → Bool
  | .mnop b => okCore b.core
  | .mma b _ _ acc _ _ => okCore b.core && decide (acc.toNat ≤ 172)
  | .mwh b _ _ acc _ => okCore b.core && decide (acc.toNat ≤ 172)
  | .mfold b acc _ _ => okCore b.core && decide (acc.toNat ≤ 172)
  | .msetc b _ acc _ => okCore b.core && decide (acc.toNat ≤ 172)
  | .mzero b acc => okCore b.core && decide (acc.toNat ≤ 172)
  | .vnop b => okCore b.core
  | .vadd b _ _ _ _ => okCore b.core
  | .vsub b _ _ _ _ => okCore b.core
  | .vmul b _ _ _ _ => okCore b.core
  | .vfma b _ _ _ _ ty => okCore b.core && okTy ty [.fp32, .bf16, .fp16]
  | .vmax b _ _ _ _ => okCore b.core
  | .vmin b _ _ _ _ => okCore b.core
  | .vabs b _ _ _ => okCore b.core
  | .vneg b _ _ _ => okCore b.core
  | .vcmp b _ _ _ _ _ => okCore b.core
  | .vsel b _ _ _ _ _ => okCore b.core
  | .vand b _ _ _ => okCore b.core
  | .vor b _ _ _ => okCore b.core
  | .vxor b _ _ _ => okCore b.core
  | .vshf b _ _ _ => okCore b.core
  | .vspl b _ _ => okCore b.core
  | .vget b _ _ _ _ => okCore b.core
  | .vcvt b _ _ _ _ _ => okCore b.core
  | .vqnt b _ _ _ => okCore b.core
  | .vrsum b _ _ _ ty => okCore b.core && okTy ty [.fp32, .int32]
  | .vrmax b _ _ _ ty => okCore b.core && okTy ty [.fp32, .int32]
  | .vld b _ _ _ => okCore b.core
  | .vst b _ _ _ => okCore b.core
  | .vlda b _ _ _ => okCore b.core
  | .vsta b _ _ _ => okCore b.core
  | .vexp b _ _ _ ty => okCore b.core && okTy ty [.fp32, .bf16]
  | .vlog b _ _ _ ty => okCore b.core && okTy ty [.fp32, .bf16]
  | .vrcp b _ _ _ ty => okCore b.core && okTy ty [.fp32, .bf16]
  | .vrsq b _ _ _ ty => okCore b.core && okTy ty [.fp32, .bf16]
  | .vtab b _ _ _ ty => okCore b.core && okTy ty [.fp32, .bf16]
  | .vdw b _ _ _ _ ty => okCore b.core && okTy ty [.fp32, .bf16]
  | .vwel b _ _ _ _ => okCore b.core
  | .vamax b _ _ _ _ ty => okCore b.core && okTy ty [.fp32, .bf16]
  | .vesu b _ _ _ _ => okCore b.core
  | .snop b => okCore b.core
  | .sadd b _ _ _ => okCore b.core
  | .ssub b _ _ _ => okCore b.core
  | .saddi b _ _ _ => okCore b.core
  | .sand b _ _ _ => okCore b.core
  | .sor b _ _ _ => okCore b.core
  | .sxor b _ _ _ => okCore b.core
  | .sshl b _ _ _ => okCore b.core
  | .sshr b _ _ _ => okCore b.core
  | .ssra b _ _ _ => okCore b.core
  | .sshli b _ _ imm => okCore b.core && decide (imm.toNat < 64)
  | .smul b _ _ _ => okCore b.core
  | .smin b _ _ _ => okCore b.core
  | .smax b _ _ _ => okCore b.core
  | .sslt b _ _ _ => okCore b.core
  | .sli b _ _ => okCore b.core
  | .slis b _ _ => okCore b.core
  | .sbrz b _ _ => okCore b.core
  | .sbrnz b _ _ => okCore b.core
  | .sjmp b _ => okCore b.core
  | .sloop b _ _ e => okCore b.core && decide (e ≠ 0)
  | .srd b _ src => okCore b.core && decide (src.toNat ≤ 10)
  | .scsr b reg _ => okCore b.core && decide (reg.toNat ≤ 3)
  | .ssig b _ => okCore b.core
  | .loopEnd b _ => okCore b.core
  | .bundleStop b => okCore b.core
  | .xnop b => okCore b.core
  | .xcopy b _ _ _ _ => okCore b.core
  | .xsld b _ _ _ _ mod => okCore b.core && decide (mod.toNat % 8 ≤ 4)
  | .xsst b _ _ _ _ mod => okCore b.core && decide (mod.toNat % 8 ≤ 4)
  | .xmld b _ _ _ _ mod => okCore b.core && decide (mod.toNat % 8 ≤ 4)
  | .xmst b _ _ _ _ mod => okCore b.core && decide (mod.toNat % 8 ≤ 4)
  | .xhalo b _ _ _ _ _ => okCore b.core
  | .xhwait b _ _ => okCore b.core
  | .xpage b _ _ _ part => okCore b.core && decide (part.toNat < 3)
  | .xvat b _ _ _ _ code => okCore b.core && decide (code.toNat ≤ 12)
  | .xacc b _ _ _ _ _ => okCore b.core
  | .xfence b _ _ => okCore b.core
  | .transferComplete core _ => okCore core
  | .haloArrival core _ => okCore core
  | .kernelComplete core => okCore core
  | .pcEndStop core => okCore core
  | .coreRun core _ => okCore core
  | .coreHalt core _ => okCore core
  | .registerWrite _ inst _ width _ => decide (inst < 65536) && decide (width ≤ 64)
  | .pageDescriptorIssue core => okCore core
  | .coachHaloDelivery core => okCore core
  | .haloTimeout core _ => okCore core
  | .vatLineApply core _ => okCore core
  | .vatElementOp ctx _ code _ => (okCtx ctx || ctx == 0xFFFF) && decide (code.toNat ≤ 12)
  | .runDispatch core => okCore core
  | .huddleGather court ctx _ => okCourt court && okCtx ctx
  | .mergeDispatch court ctx _ => okCourt court && okCtx ctx
  | .stepFormRoster court _ => okCourt court
  | .fixedStepForm ctx => okCtx ctx
  | .stepComplete court ctx _ => okCourt court && okCtx ctx
  | .fallbackWindowEnd court layer => okCourt court && decide (layer < 4096)
  | .playbookInstall _ => true
  | .tableBankSwap core _ => okCore core
  | .coreFailDeclare phys => decide (phys < 26000)
  | .coreAnswerTimeout phys => decide (phys < 26000)
  | .coreStoreTest phys _ => decide (phys < 26000)
  | .spareRemap cluster => decide (cluster < Config.clusters)
  | .slotMove _ _ => true
  | .stateExportEffect _ => true
  | .stateExportComplete _ => true
  | .stateImportComplete _ => true
  | .branchEffect _ => true
  | .sealEffect _ => true
  | .pruneEffect _ => true
  | .seqEndEffect _ => true
  | .repinEffect _ => true
  | .updateStepEffect _ => true
  | .updateStepComplete _ => true
  | .streamPark _ => true
  | .streamRotateImport court => okCourt court
  | .contextBench ctx => okCtx ctx
  | .contextCave ctx => okCtx ctx
  | .contextAdmitSlot => true
  | .contextReturn ctx => okCtx ctx
  | .ledgerFold => true
  | .patrolScrub chan _ => decide (chan < Config.channels)
  | .countingHour => true
  | .mapoutAutoTrigger chan => decide (chan < Config.channels)
  | .mapoutVacate => true
  | .sliceMove => true
  | .bucketRehome => true
  | .mapoutComplete => true
  | .tierBlockMove _ => true
  | .blockRelocation _ => true
  | .pressedCompaction => true
  | .caveLevelling r => decide (r.pkg < 24)
  | .flashBlockRetire pkg _ => decide (pkg < 24)
  | .caveBudgetRelease => true
  | .shardHashComplete _ => true
  | .digestPass => true
  | .shardRecall core => okCore core
  | .codecFrameStart eng => decide (eng < 16)
  | .codecSliceEmit eng _ => decide (eng < 16)
  | .codecFrameDone eng _ => decide (eng < 16)
  | .codecCloseEffect _ => true
  | .codecEngineFault eng => decide (eng < 16)
  | .rtpFlowClose _ => true
  | .mbxReqTail mbx tail _ => okMbx mbx && decide (tail < 65536)
  | .mbxRspHead mbx head => okMbx mbx && decide (head < 65536)
  | .requestIntake mbx => okMbx mbx
  | .responseDeliver mbx => okMbx mbx
  | .umpireFailover => true
  | .standbyRestore _ => true
  | .housekeepingTask _ => true
  | .healthCheck _ => true
  | .trialEnd => true
  | .fwHandover _ => true
  | .fwNewFirmwareReady => true
  | .fwPhase3Timeout => true
  | .fwHandback _ => true
  | .fwStandbyReady => true
  | .tlsConnect _ => true
  | .tlsClose mbx => okMbx mbx
  | .railDown rail => decide (rail < 16)
  | .railRetrainTimeout rail => decide (rail < 16)
  | .railUp rail => decide (rail < 16)
  | .flitReceive port _ _ => decide (port < 48)
  | .flitResend port => decide (port < 48)
  | .ringTransferComplete _ => true
  | .discoveryReturn _ _ => true
  | .ringLeaveComplete => true
  | .memberLoss pos => decide (pos < 16)
  | .ringHuddleStage court ctx _ _ => okCourt court && okCtx ctx
  | .ringHuddleTimeout court ctx _ => okCourt court && okCtx ctx
  | .relayFrame hub _ _ => decide (hub < 4)
  | .bypassPowerLoss => true
  | .refclkLoss => true
  | .refclkRestore => true
  | .powerMeasure _ _ _ => true
  | .governorStep => true
  | .thermalCheck hottest inlet outlet => decide (hottest < 65536) && decide (inlet < 65536) && decide (outlet < 65536)
  | .thermalStop die => decide (die < Config.dies)
  | .thermalResume die => decide (die < Config.dies)
  | .psEntry court => okCourt court
  | .psEntryComplete court => okCourt court
  | .psWake court _ => okCourt court
  | .psExitComplete court => okCourt court
  | .ps5Entry => true
  | .ps5Wake => true
  | .resetAssert _ _ => true
  | .resetRelease => true
  | .bootRom _ _ => true
  | .verify => true
  | .train bad => bad.all (fun c => decide (c < Config.channels))
  | .selftest bad => bad.all (fun c => decide (c < 26000))
  | .courts => true
  | .platform _ => true
  | .serve => true
  | .startupTimeout => true
  | .bootStatus _ => true
  | .bladeVolts _ => true
  | .thermal _ => true
  | .mgmtAddr _ _ => true
  | .xferData _ _ => true
  | .xferEnd _ _ => true
  | .smbAlertResponse _ => true
  | .debugChallengeExpiry => true
  | .debugUnlockExpiry => true
  | .faultRecordTakeIn _ => true
  | .faultRecordAck _ => true
  | .auditPass audit _ => decide (audit < 7)
  | .msgHello mbx => okMbx mbx
  | .msgBye mbx => okMbx mbx
  | .msgPing mbx => okMbx mbx
  | .msgUmpQuery mbx => okMbx mbx
  | .msgConfigWrite mbx => okMbx mbx
  | .msgConfigCommit mbx => okMbx mbx
  | .msgConfigConfirm mbx => okMbx mbx
  | .msgConfigRevert mbx => okMbx mbx
  | .msgConfigQuery mbx => okMbx mbx
  | .msgConfigRead mbx => okMbx mbx
  | .msgPlaybookLoad mbx => okMbx mbx
  | .msgPrecQuery mbx => okMbx mbx
  | .msgFallbackSet mbx => okMbx mbx
  | .msgTableLoad mbx => okMbx mbx
  | .msgTableQuery mbx => okMbx mbx
  | .msgShardRegister mbx => okMbx mbx
  | .msgWgtCommit mbx => okMbx mbx
  | .msgWgtBind mbx => okMbx mbx
  | .msgSeqRepin mbx => okMbx mbx
  | .msgAdapterRegister mbx => okMbx mbx
  | .msgAdapterRelease mbx => okMbx mbx
  | .msgWgtPriv mbx => okMbx mbx
  | .msgWgtQuery mbx => okMbx mbx
  | .msgSeqAdmit mbx => okMbx mbx
  | .msgSeqEnd mbx => okMbx mbx
  | .msgBatchSubmit mbx => okMbx mbx
  | .msgCtxQuery mbx => okMbx mbx
  | .msgRostGrant mbx => okMbx mbx
  | .msgRostSet mbx => okMbx mbx
  | .msgRostQuery mbx => okMbx mbx
  | .msgFutureBranch mbx => okMbx mbx
  | .msgFutureSeal mbx => okMbx mbx
  | .msgFuturePrune mbx => okMbx mbx
  | .msgFutureScore mbx => okMbx mbx
  | .msgFutureQuery mbx => okMbx mbx
  | .msgObjCreate mbx => okMbx mbx
  | .msgObjFree mbx => okMbx mbx
  | .msgTierMove mbx => okMbx mbx
  | .msgTierQuery mbx => okMbx mbx
  | .msgQuotaSet mbx => okMbx mbx
  | .msgQuotaQuery mbx => okMbx mbx
  | .msgKvQuery mbx => okMbx mbx
  | .msgMemQuery mbx => okMbx mbx
  | .msgChanMapout mbx => okMbx mbx
  | .msgStateQuery mbx => okMbx mbx
  | .msgStateExport mbx => okMbx mbx
  | .msgStateImport mbx => okMbx mbx
  | .msgStateClear mbx => okMbx mbx
  | .msgCdcOpen mbx => okMbx mbx
  | .msgCdcPool mbx => okMbx mbx
  | .msgCdcFrame mbx => okMbx mbx
  | .msgCdcSet mbx => okMbx mbx
  | .msgCdcClose mbx => okMbx mbx
  | .msgRingQuery mbx => okMbx mbx
  | .msgRingJoin mbx => okMbx mbx
  | .msgRingLeave mbx => okMbx mbx
  | .msgPortRole mbx => okMbx mbx
  | .msgPwrTolerance mbx => okMbx mbx
  | .msgPwrProfile mbx => okMbx mbx
  | .msgPwrQuery mbx => okMbx mbx
  | .msgAttestQuote mbx => okMbx mbx
  | .msgIdCert mbx => okMbx mbx
  | .msgDebugChallenge mbx => okMbx mbx
  | .msgDebugUnlock mbx => okMbx mbx
  | .msgFwUpdate mbx => okMbx mbx
  | .msgUpdPlan mbx => okMbx mbx
  | .msgUpdStep mbx => okMbx mbx
  | .msgUpdQuery mbx => okMbx mbx
  | .msgUpdRelease mbx => okMbx mbx
  | .msgLedgerRead mbx => okMbx mbx
  | .msgFaultRead mbx => okMbx mbx
  | .msgAuditQuery mbx => okMbx mbx
  | .msgRegRead mbx => okMbx mbx
  | .msgRegWrite mbx => okMbx mbx
  | .appCoreObjectAccess a _ => decide (a.core < 64) && okCtx a.ctx
  | .fieldPortFrame port _ _ => decide (port < 48)

end Sys2Proof
end

