-- ==== Sys2Proof/Safety.lean ====
section
/-! DEFINITION. What counts as a sound state of the block, in the terms that statements use: what commands other than a reset and a
register write leave alone, and the ranges that the register tables give to the fields software sets. -/
namespace Sys2Proof.Machine

/-- The queue of commands, and the fields that only a register write or a reset changes: the default window of the fallback monitor
(03), the corrected-word limit and the scrub period (10), the programming budget (11), the digest period (12), the huddle stage limit
(17). -/
structure Kept where
  pending : List Instr
  fbWindow : BitVec 11
  ceLimit : BitVec 16
  scrubPeriod : BitVec 11
  budget : BitVec 16
  digPeriod : Byte
  huddleTmo : BitVec 16

/-- Those fields of a state. -/
def State.kept (s : State) : Kept :=
  ⟨s.pending, s.book.fbWindow, s.mem.ceLimit, s.mem.scrubPeriod, s.tier.budget, s.wgt.digPeriod, s.ring.huddleTmo⟩

/-- The ranges of the register tables: a default window of 1 to 1,024 steps; a limit that is not 0; a scrub period of 60 to 1,440
minutes; a budget of 1 to 750 MB/s; a digest period of 1 to 168 hours; a huddle limit that is not 0. -/
def Kept.inRange (k : Kept) : Prop :=
  (k.fbWindow ≠ 0 ∧ k.fbWindow.toNat ≤ 1024) ∧ k.ceLimit ≠ 0 ∧ (60 ≤ k.scrubPeriod.toNat ∧ k.scrubPeriod.toNat ≤ 1440) ∧
  (k.budget ≠ 0 ∧ k.budget.toNat ≤ 750) ∧ (k.digPeriod ≠ 0 ∧ k.digPeriod.toNat ≤ 168) ∧ k.huddleTmo ≠ 0

/-- The fields software sets lie in their ranges. -/
def State.InRange (s : State) : Prop := s.kept.inRange

/-! The issue of a slot, and the elements of a register. -/

/-- Slot `b` issues on the core at physical index `p`: its logical core has that position, its die is not stopped by its temperature,
and the core, running, finds the bundle's registers as `c` holds them, before the bundle and now (02 R40, R41, R60). -/
structure State.Issues (s : State) (b : Slot) (p : Nat) (c : Core) : Prop where
  phys : s.physOf b.core = some p
  cool : (b.first && s.pwr.stopped.contains (dieOfCore b.core)) = false
  begins : ((s.core p).begin b.first).bind (fun x => x.read b.first) = some c

/-- Elements of a register under a type (02 R36). -/
def elemCount (ty : VTy) : Nat := if VTy.is16 ty then 256 else 128
/-- The width of an element. -/
def elemWidth (ty : VTy) : Nat := if VTy.is16 ty then 16 else 32
/-- The lane that holds element `k`. -/
def elemLane (ty : VTy) (k : Nat) : Nat := if VTy.is16 ty then k / 2 else k

/-- `s` once a slot has issued on the core at `p`, found as `c`: its registers are `r` now, and what the bundle began with stays. -/
def State.issued (s : State) (p : Nat) (c : Core) (r : CoreRegs) : State := s.setCore p ⟨r, c.pre⟩

/-- The slot of a slot command: the operations of the five slots, the end of a loop and the stop of a bundle. -/
def slotOf (i : Instr) : Option Slot :=
  match i with
  | .mnop b => some b
  | .mma b _ _ _ _ _ => some b
  | .mwh b _ _ _ _ => some b
  | .mfold b _ _ _ => some b
  | .msetc b _ _ _ => some b
  | .mzero b _ => some b
  | .vnop b => some b
  | .vadd b _ _ _ _ => some b
  | .vsub b _ _ _ _ => some b
  | .vmul b _ _ _ _ => some b
  | .vfma b _ _ _ _ _ => some b
  | .vmax b _ _ _ _ => some b
  | .vmin b _ _ _ _ => some b
  | .vabs b _ _ _ => some b
  | .vneg b _ _ _ => some b
  | .vcmp b _ _ _ _ _ => some b
  | .vsel b _ _ _ _ _ => some b
  | .vand b _ _ _ => some b
  | .vor b _ _ _ => some b
  | .vxor b _ _ _ => some b
  | .vshf b _ _ _ => some b
  | .vspl b _ _ => some b
  | .vget b _ _ _ _ => some b
  | .vcvt b _ _ _ _ _ => some b
  | .vqnt b _ _ _ => some b
  | .vrsum b _ _ _ _ => some b
  | .vrmax b _ _ _ _ => some b
  | .vld b _ _ _ => some b
  | .vst b _ _ _ => some b
  | .vlda b _ _ _ => some b
  | .vsta b _ _ _ => some b
  | .vexp b _ _ _ _ => some b
  | .vlog b _ _ _ _ => some b
  | .vrcp b _ _ _ _ => some b
  | .vrsq b _ _ _ _ => some b
  | .vtab b _ _ _ _ => some b
  | .vdw b _ _ _ _ _ => some b
  | .vwel b _ _ _ _ => some b
  | .vamax b _ _ _ _ _ => some b
  | .vesu b _ _ _ _ => some b
  | .snop b => some b
  | .sadd b _ _ _ => some b
  | .ssub b _ _ _ => some b
  | .saddi b _ _ _ => some b
  | .sand b _ _ _ => some b
  | .sor b _ _ _ => some b
  | .sxor b _ _ _ => some b
  | .sshl b _ _ _ => some b
  | .sshr b _ _ _ => some b
  | .ssra b _ _ _ => some b
  | .sshli b _ _ _ => some b
  | .smul b _ _ _ => some b
  | .smin b _ _ _ => some b
  | .smax b _ _ _ => some b
  | .sslt b _ _ _ => some b
  | .sli b _ _ => some b
  | .slis b _ _ => some b
  | .sbrz b _ _ => some b
  | .sbrnz b _ _ => some b
  | .sjmp b _ => some b
  | .sloop b _ _ _ => some b
  | .srd b _ _ => some b
  | .scsr b _ _ => some b
  | .ssig b _ => some b
  | .loopEnd b _ => some b
  | .bundleStop b => some b
  | .xnop b => some b
  | .xcopy b _ _ _ _ => some b
  | .xsld b _ _ _ _ _ => some b
  | .xsst b _ _ _ _ _ => some b
  | .xmld b _ _ _ _ _ => some b
  | .xmst b _ _ _ _ _ => some b
  | .xhalo b _ _ _ _ _ => some b
  | .xhwait b _ _ => some b
  | .xpage b _ _ _ _ => some b
  | .xvat b _ _ _ _ _ => some b
  | .xacc b _ _ _ _ _ => some b
  | .xfence b _ _ => some b
  | _ => none

/-- What the scalar operations write (R53), of the registers `c` before the bundle: the slot, the destination and its value. -/
def scalarWrite (s : State) (c : CoreRegs) (i : Instr) : Option (Slot × BitVec 4 × W64) :=
  let u (r : BitVec 4) : Nat := (c.sr r).toNat
  let z (r : BitVec 4) : Int := (c.sr r).toInt
  match i with
  | .sadd b d x y => some (b, d, BitVec.ofNat 64 (u x + u y))
  | .ssub b d x y => some (b, d, BitVec.ofInt 64 (z x - z y))
  | .saddi b d x imm => some (b, d, BitVec.ofInt 64 (z x + imm.toInt))
  | .sand b d x y => some (b, d, c.sr x &&& c.sr y)
  | .sor b d x y => some (b, d, c.sr x ||| c.sr y)
  | .sxor b d x y => some (b, d, c.sr x ^^^ c.sr y)
  | .sshl b d x y => some (b, d, BitVec.ofNat 64 (u x * 2 ^ (u y % 64)))
  | .sshr b d x y => some (b, d, BitVec.ofNat 64 (u x / 2 ^ (u y % 64)))
  | .ssra b d x y => some (b, d, BitVec.ofInt 64 (z x / 2 ^ (u y % 64)))
  | .sshli b d x imm => some (b, d, BitVec.ofNat 64 (u x * 2 ^ (imm.toNat % 64)))
  | .smul b d x y => some (b, d, BitVec.ofNat 64 (u x * u y))
  | .smin b d x y => some (b, d, BitVec.ofInt 64 (min (z x) (z y)))
  | .smax b d x y => some (b, d, BitVec.ofInt 64 (max (z x) (z y)))
  | .sslt b d x y => some (b, d, if z x < z y then 1 else 0)
  | .sli b d imm => some (b, d, BitVec.ofInt 64 imm.toInt)
  | .slis b d imm => some (b, d, BitVec.ofNat 64 (u d * 2 ^ 11 + imm.toNat))
  | .srd b d src => some (b, d,
      if src.toNat < 8 then BitVec.ofNat 64 (c.loop src.toNat).count
      else if src.toNat = 8 then BitVec.ofNat 64 b.core
      else if src.toNat = 9 then s.counter + Config.dieSkew (b.core / 625)
      else c.tagMask)
  | _ => none

/-- Command `i` issues as `c`, reads the ranges `tr` of the tile buffer and `ar` of accumulator memory, and is about to write `tw` and `aw`.
An uncorrectable word among them stops the core with E_CORE_ECC; otherwise `P` of the core with those words corrected (02 R37; 10 R252 to
R254). -/
def OverStores (i : Instr) (s : State) (p : Nat) (c : Core) (tr tw ar aw : List (Nat × Nat)) (P : Core → Prop) : Prop :=
  (c.now.guarded tr tw ar aw none some = none → exec i s = .next ((s.setCore p c).coreStop p E_CORE_ECC)) ∧
  ∀ r, c.now.guarded tr tw ar aw none some = some r → P ⟨r, c.pre⟩

/-! Results of the vector slot. -/

/-- Command `i` answers a next state in which the enabled elements of vd, of type `ty`, are `g`, its disabled elements and every other
vector register are as before, and nothing else has changed but the count of work for the ledger (02 R51; 14 R378). -/
def VectorWrites (i : Instr) (s : State) (p : Nat) (c : Core) (col : W32) (vd : BitVec 6) (ty : VTy) (g : Nat → Nat) : Prop :=
  ∃ t, exec i s = .next t ∧ t = s.issued p c (t.core p).now ∧
    (t.core p).now = { c.now with vregs := (t.core p).now.vregs, work := (t.core p).now.work } ∧
    (∀ r, r ≠ vd → (t.core p).now.vr r = c.now.vr r) ∧
    ∀ k, k < elemCount ty → elemAt ty ((t.core p).now.vr vd) k =
      if laneOn col (elemLane ty k) then g k % 2 ^ elemWidth ty else elemAt ty (c.now.vr vd) k

/-- The element-wise operations (R50, R531; 06 R161, R166), of the registers `c` before the bundle: the slot, the destination, the type
and the value of element `k`. A float result is the exact result rounded once; an INT32 result is the exact result where it fits. -/
def vecElem (c : CoreRegs) (i : Instr) : Option (Slot × BitVec 6 × VTy × (Nat → Nat)) :=
  let x (ty : VTy) (r : BitVec 6) (k : Nat) : Nat := elemAt ty (c.vr r) k
  let l (r : BitVec 6) (k : Nat) : W32 := lane (c.vr r) k
  let fn (ty : VTy) (f : Fn) (rf : Bool) (va : BitVec 6) (k : Nat) : Nat := viaFp32 ty (builtin f rf) (x ty va k)
  match i with
  | .vadd b d va vb ty => some (b, d, ty, fun k => arith2 ty 1 FV.add (· + ·) (x ty va k) (x ty vb k))
  | .vsub b d va vb ty => some (b, d, ty, fun k => arith2 ty 2 (fun p q => p.add q.neg) (· - ·) (x ty va k) (x ty vb k))
  | .vmul b d va vb ty => some (b, d, ty, fun k => arith2 ty 3 FV.mul (· * ·) (x ty va k) (x ty vb k))
  | .vfma b d va vb vc ty => match VTy.fmt? ty with
    | none => none
    | some f => some (b, d, ty, fun k => roundTo f (seedOf 4 (x ty va k) (x ty vb k) (x ty vc k))
        (((FV.ofBits f (x ty va k)).mul (.ofBits f (x ty vb k))).add (.ofBits f (x ty vc k))))
  | .vmax b d va vb ty => some (b, d, ty, fun k => maxElem ty false (x ty va k) (x ty vb k))
  | .vmin b d va vb ty => some (b, d, ty, fun k => maxElem ty true (x ty va k) (x ty vb k))
  | .vabs b d va ty => some (b, d, ty, fun k =>
      if ty = .int32 then intTo (seedOf 9 (x ty va k) 0 0) ((sint32 (x ty va k)).natAbs : Int)
      else if ty = .fp32 then x ty va k % 2 ^ 31 else x ty va k % 2 ^ 15)
  | .vneg b d va ty => some (b, d, ty, fun k =>
      if ty = .int32 then intTo (seedOf 10 (x ty va k) 0 0) (-(sint32 (x ty va k)))
      else if ty = .fp32 then x ty va k + 2 ^ 31 else x ty va k + 2 ^ 15)
  | .vcmp b d va vb cond ty => some (b, d, ty, fun k => cmpElem ty cond (x ty va k) (x ty vb k))
  | .vsel b d va vb vc ty => some (b, d, ty, fun k => if x ty vc k = 0 then x ty vb k else x ty va k)
  | .vand b d va vb => some (b, d, .int32, fun k => (l va k &&& l vb k).toNat)
  | .vor b d va vb => some (b, d, .int32, fun k => (l va k ||| l vb k).toNat)
  | .vxor b d va vb => some (b, d, .int32, fun k => (l va k ^^^ l vb k).toNat)
  | .vshf b d va vb => some (b, d, .int32, fun k => (l va ((l vb k).toNat % 128)).toNat)
  | .vspl b d sa => some (b, d, .int32, fun _ => (c.sr sa).toNat)
  | .vexp b d va rf ty => some (b, d, ty, fn ty .exp rf va)
  | .vlog b d va rf ty => some (b, d, ty, fn ty .log rf va)
  | .vrcp b d va rf ty => some (b, d, ty, fn ty .rcp rf va)
  | .vrsq b d va rf ty => some (b, d, ty, fn ty .rsq rf va)
  | _ => none


/-! Transfers. -/

/-- The transfer operations of R58 with a source, a destination and a length: the slot, the kind, the registers, the tag and the
modifier. -/
def xferOf (i : Instr) : Option (Slot × XKind × BitVec 4 × BitVec 4 × BitVec 4 × BitVec 4 × BitVec 4) :=
  match i with
  | .xcopy b d a n t => some (b, .copy, d, a, n, t, 0)
  | .xsld b d a n t m => some (b, .sld, d, a, n, t, m)
  | .xsst b d a n t m => some (b, .sst, d, a, n, t, m)
  | .xmld b d a n t m => some (b, .mld, d, a, n, t, m)
  | .xmst b d a n t m => some (b, .mst, d, a, n, t, m)
  | .xvat b d a n t m => some (b, .vat, d, a, n, t, m)
  | .xacc b d a n t false => some (b, .accTo, d, a, n, t, 0)
  | .xacc b d a n t true => some (b, .accFrom, d, a, n, t, 0)
  | _ => none

/-- The sizes of the two stores of a transfer that stays in its cluster: source, destination (02 R57 to R59). -/
def xferStores : XKind → Option (Nat × Nat)
  | .copy => some (393216, 393216)
  | .halo => some (393216, 393216)
  | .sld => some (4194304, 393216)
  | .sst => some (393216, 4194304)
  | .accTo => some (393216, 196608)
  | .accFrom => some (196608, 393216)
  | _ => none

/-! Requests. -/

/-- Request `r`, of mailbox `m` and with opcode `op`, is the one the umpire serves next, and it serves (16 R422, R440). -/
structure State.Serves (s : State) (op m : Nat) (r : Req) : Prop where
  next : s.nextReq = some r
  up : s.sec.ready = true
  mbx : r.mbx = m
  op : r.op = op

/-- The opcode and the mailbox of a message command (16 R419, R420). -/
def msgOf (i : Instr) : Option (Nat × Nat) :=
  match i with
  | .msgHello m => some (0x0001, m)
  | .msgBye m => some (0x0002, m)
  | .msgPing m => some (0x0003, m)
  | .msgUmpQuery m => some (0x0004, m)
  | .msgConfigWrite m => some (0x0100, m)
  | .msgConfigCommit m => some (0x0101, m)
  | .msgConfigConfirm m => some (0x0102, m)
  | .msgConfigRevert m => some (0x0103, m)
  | .msgConfigQuery m => some (0x0104, m)
  | .msgConfigRead m => some (0x0105, m)
  | .msgPlaybookLoad m => some (0x0200, m)
  | .msgPrecQuery m => some (0x0220, m)
  | .msgFallbackSet m => some (0x0221, m)
  | .msgTableLoad m => some (0x0250, m)
  | .msgTableQuery m => some (0x0251, m)
  | .msgShardRegister m => some (0x0300, m)
  | .msgWgtCommit m => some (0x0301, m)
  | .msgWgtBind m => some (0x0302, m)
  | .msgSeqRepin m => some (0x0303, m)
  | .msgAdapterRegister m => some (0x0304, m)
  | .msgAdapterRelease m => some (0x0305, m)
  | .msgWgtPriv m => some (0x0306, m)
  | .msgWgtQuery m => some (0x0307, m)
  | .msgSeqAdmit m => some (0x0400, m)
  | .msgSeqEnd m => some (0x0401, m)
  | .msgBatchSubmit m => some (0x0402, m)
  | .msgCtxQuery m => some (0x0403, m)
  | .msgRostGrant m => some (0x0500, m)
  | .msgRostSet m => some (0x0501, m)
  | .msgRostQuery m => some (0x0502, m)
  | .msgFutureBranch m => some (0x0560, m)
  | .msgFutureSeal m => some (0x0561, m)
  | .msgFuturePrune m => some (0x0562, m)
  | .msgFutureScore m => some (0x0563, m)
  | .msgFutureQuery m => some (0x0564, m)
  | .msgObjCreate m => some (0x0600, m)
  | .msgObjFree m => some (0x0601, m)
  | .msgTierMove m => some (0x0602, m)
  | .msgTierQuery m => some (0x0603, m)
  | .msgQuotaSet m => some (0x0604, m)
  | .msgQuotaQuery m => some (0x0605, m)
  | .msgKvQuery m => some (0x0640, m)
  | .msgMemQuery m => some (0x0660, m)
  | .msgChanMapout m => some (0x0661, m)
  | .msgStateQuery m => some (0x0700, m)
  | .msgStateExport m => some (0x0701, m)
  | .msgStateImport m => some (0x0702, m)
  | .msgStateClear m => some (0x0703, m)
  | .msgCdcOpen m => some (0x0800, m)
  | .msgCdcPool m => some (0x0801, m)
  | .msgCdcFrame m => some (0x0802, m)
  | .msgCdcSet m => some (0x0804, m)
  | .msgCdcClose m => some (0x0805, m)
  | .msgRingQuery m => some (0x0900, m)
  | .msgRingJoin m => some (0x0901, m)
  | .msgRingLeave m => some (0x0902, m)
  | .msgPortRole m => some (0x0904, m)
  | .msgPwrTolerance m => some (0x0A00, m)
  | .msgPwrProfile m => some (0x0A01, m)
  | .msgPwrQuery m => some (0x0A02, m)
  | .msgAttestQuote m => some (0x0B00, m)
  | .msgIdCert m => some (0x0B01, m)
  | .msgDebugChallenge m => some (0x0B02, m)
  | .msgDebugUnlock m => some (0x0B03, m)
  | .msgFwUpdate m => some (0x0B20, m)
  | .msgUpdPlan m => some (0x0C00, m)
  | .msgUpdStep m => some (0x0C01, m)
  | .msgUpdQuery m => some (0x0C02, m)
  | .msgUpdRelease m => some (0x0C03, m)
  | .msgLedgerRead m => some (0x0D00, m)
  | .msgFaultRead m => some (0x0D01, m)
  | .msgAuditQuery m => some (0x0D03, m)
  | .msgRegRead m => some (0x0D04, m)
  | .msgRegWrite m => some (0x0D05, m)
  | _ => none
end Sys2Proof.Machine
end

