-- ==== Sys2Proof/Certificates/Slice0/Obligations.lean ====
section
/-! DEFINITION. The statements about the model, for the provers: each says in its docstring which rules of the spec it formalises. -/

section Statements
open Sys2Proof Sys2Proof.Machine

/-! The machine. -/

/-- The command at the front of the queue is what a step runs: a step of a state with `c` in front is `exec c` on the state with the
queue's rest. -/
def Obligations.StepTakesFront : Prop :=
  ∀ (c : Instr) (s : State), step { s with pending := c :: s.pending } = exec c s

/-! The scalar slots (02 R36, R41, R52, R53). -/

/-- A scalar operation of R53 that issues writes its value, computed of the registers as they were before the bundle, into its
destination; s0 stays zero; every other scalar register, every other field of the core, and all the rest of the block stay.
The choices made here are log entry 10. -/
def Obligations.ScalarResults : Prop :=
  ∀ (s : State) (i : Instr) (b : Slot) (sd : BitVec 4) (v : W64) (p : Nat) (c : Core),
    s.Issues b p c → scalarWrite s c.pre i = some (b, sd, v) →
    ∃ t, exec i s = .next t ∧ t = s.issued p c (t.core p).now ∧
      (t.core p).now = { c.now with sregs := (t.core p).now.sregs } ∧
      ∀ r, (t.core p).now.sr r = if r = sd ∧ sd ≠ 0 then v else c.now.sr r

/-- The branches take the next bundle to PC + sext(imm11) on their condition; the no-operations of the four slots change nothing but
that their bundle issues (R53; R45, R50, R58).
The choices made here are log entry 10. -/
def Obligations.BranchesAndNops : Prop :=
  ∀ (s : State) (b : Slot) (p : Nat) (c : Core), s.Issues b p c →
    let go (imm : BitVec 11) := s.issued p c { c.now with nextPc := ((c.now.pc : Int) + imm.toInt).toNat }
    let on := s.issued p c c.now
    (∀ r imm, exec (.sbrz b r imm) s = .next (if c.pre.sr r = 0 then go imm else on)) ∧
    (∀ r imm, exec (.sbrnz b r imm) s = .next (if c.pre.sr r = 0 then on else go imm)) ∧
    (∀ imm, exec (.sjmp b imm) s = .next (go imm)) ∧
    exec (.snop b) s = .next on ∧ exec (.vnop b) s = .next on ∧ exec (.mnop b) s = .next on ∧ exec (.xnop b) s = .next on

/-- The loops of R54: a count of zero skips the body and leaves the counter inactive; another count starts the loop; at the loop's
end an active counter is decremented, and the next bundle is the body start while it is above zero; an inactive counter is left
unchanged. No other counter and no other field changes. A count above 32 bits stops the core with E_CORE_OPERAND, and the start of a run
leaves every counter inactive. -/
def Obligations.LoopRules : Prop :=
  ∀ (s : State) (b : Slot) (p : Nat) (c : Core) (lc : BitVec 3), s.Issues b p c →
    (∀ (sc : BitVec 4) (e : BitVec 8), (c.pre.sr sc).toNat < 2 ^ 32 →
      ∃ t, exec (.sloop b lc sc e) s = .next t ∧ t = s.issued p c (t.core p).now ∧
        (t.core p).now = { c.now with loops := (t.core p).now.loops, nextPc := (t.core p).now.nextPc } ∧
        (∀ n, n ≠ lc.toNat → (t.core p).now.loop n = c.now.loop n) ∧
        (c.pre.sr sc = 0 → (t.core p).now.nextPc = c.now.pc + e.toNat + 1 ∧ ((t.core p).now.loop lc.toNat).active = false) ∧
        (c.pre.sr sc ≠ 0 → (t.core p).now.nextPc = c.now.nextPc ∧
          (t.core p).now.loop lc.toNat = ⟨true, (c.pre.sr sc).toNat, c.now.pc + 1, c.now.pc + e.toNat⟩)) ∧
    (∃ t, exec (.loopEnd b lc) s = .next t ∧ t = s.issued p c (t.core p).now ∧
      (t.core p).now = { c.now with loops := (t.core p).now.loops, nextPc := (t.core p).now.nextPc } ∧
      (∀ n, n ≠ lc.toNat → (t.core p).now.loop n = c.now.loop n) ∧
      ((c.now.loop lc.toNat).active = false → (t.core p).now = c.now) ∧
      ((c.now.loop lc.toNat).active = true → ((t.core p).now.loop lc.toNat).count = (c.now.loop lc.toNat).count - 1) ∧
      ((c.now.loop lc.toNat).active = true → 1 < (c.now.loop lc.toNat).count →
        (t.core p).now.nextPc = (c.now.loop lc.toNat).bodyStart ∧ ((t.core p).now.loop lc.toNat).active = true) ∧
      ((c.now.loop lc.toNat).active = true → (c.now.loop lc.toNat).count ≤ 1 →
        (t.core p).now.nextPc = c.now.nextPc ∧ ((t.core p).now.loop lc.toNat).active = false)) ∧
    (∀ (sc : BitVec 4) (e : BitVec 8), 2 ^ 32 ≤ (c.pre.sr sc).toNat → exec (.sloop b lc sc e) s = .next ((s.setCore p c).coreStop p E_CORE_OPERAND)) ∧
    (∀ (k q : Nat) (v : W32), s.physOf k = some q → (s.core q).now.st ≠ .running →
      ∃ t, exec (.coreRun k v) s = .next t ∧ (t.core q).now.st = .running ∧ ((t.core q).now.loop lc.toNat).active = false)

/-- The control registers a kernel writes, the words it posts to its coach, and the end of its bundles (R47, R53, R56, R60): SCSR writes
a permitted format pair or a mask pair, and an unpermitted pair stops the core with E_CORE_FMT and changes no register; SSIG posts
bits [31:0] of its register; after a bundle with stop no further bundle issues. -/
def Obligations.ControlRegistersAndPosts : Prop :=
  ∀ (s : State) (b : Slot) (p : Nat) (c : Core), s.Issues b p c →
    (∀ (sa : BitVec 4) (fa fb : Nat), fa = (c.pre.sr sa).toNat % 16 → fb = (c.pre.sr sa).toNat / 16 % 16 →
      ((pairOf fa fb).isSome = true → exec (.scsr b 0 sa) s =
        .next (s.issued p c { c.now with mfmtA := BitVec.ofNat 4 fa, mfmtB := BitVec.ofNat 4 fb })) ∧
      (pairOf fa fb = none → exec (.scsr b 0 sa) s = .next ((s.setCore p c).coreStop p E_CORE_FMT))) ∧
    (∀ (reg : BitVec 7) (sa : BitVec 4), 1 ≤ reg.toNat → reg.toNat ≤ 3 →
      ∃ t, exec (.scsr b reg sa) s = .next t ∧ t = s.issued p c (t.core p).now ∧
        (t.core p).now = { c.now with pmask := (t.core p).now.pmask } ∧
        ∀ pm : BitVec 2, (t.core p).now.masks pm =
          if pm.toNat = reg.toNat then ((c.pre.sr sa).setWidth 32, (c.pre.sr sa >>> 32).setWidth 32) else c.now.masks pm) ∧
    (∀ sa, exec (.ssig b sa) s = .next ((s.issued p c c.now).post p (.signal p ((c.pre.sr sa).setWidth 32)))) ∧
    (let t := s.issued p c { c.now with stopping := some (c.now.stopping.getD 0) }
     exec (.bundleStop b) s = .next t ∧ ∀ f, slotOp ⟨b.core, true, b.pm⟩ f t = t)

/-- A stopped core, or one that stops, issues nothing: no slot command of it has an effect (R60). Where a matrix operand has stopped it
(R48), the other slots of that one bundle still issue, and no further bundle.
The choices made here are log entry 11. -/
def Obligations.StoppedCoreIssuesNothing : Prop :=
  ∀ (s : State) (i : Instr) (b : Slot) (p : Nat), slotOf i = some b → s.physOf b.core = some p →
    (s.core p).now.st ≠ .running ∨ (s.core p).now.stopping ≠ none ∧ ((s.core p).now.late = false ∨ b.first = true) → exec i s = .next s

/-- A slot command changes its own core and the event queue of that core's cluster, and nothing else of the block: no other core, no
other cluster, no memory, no queue, no register of any other unit. -/
def Obligations.SlotsKeepToTheirCore : Prop :=
  ∀ (s t : State) (i : Instr) (b : Slot), slotOf i = some b → exec i s = .next t →
    t = { s with cores := t.cores, clus := t.clus } ∧
    (∀ q, s.physOf b.core ≠ some q → t.core q = s.core q) ∧
    (∀ n, t.clu n = { s.clu n with events := (t.clu n).events }) ∧
    (∀ n, (∀ p, s.physOf b.core = some p → n ≠ p / 26) → t.clu n = s.clu n)

/-! The vector slot (02 R49 to R51, R531; 03 R68, R69, R86; 06, 07, 08). -/

/-- An element-wise operation that issues writes its enabled elements, computed of the registers as they were before the bundle; a
disabled lane keeps its value; every other register and the rest of the block stay.
The choices made here are log entries 3 and 7. -/
def Obligations.VectorElementResults : Prop :=
  ∀ (s : State) (i : Instr) (b : Slot) (vd : BitVec 6) (ty : VTy) (g : Nat → Nat) (p : Nat) (c : Core),
    s.Issues b p c → vecElem c.pre i = some (b, vd, ty, g) → VectorWrites i s p c (c.pre.colMask b.pm) vd ty g

/-- Reductions, the move of one lane to a scalar register, and conversion: VRSUM and VRMAX write only lane 0 of a row (or of the
register), from the enabled lanes, and only where it is enabled; VGET is not masked; VCVT converts element k to element k, elements 128
to 255 of a narrowing conversion stay, and only stochastic rounding advances the generator counter, by 64 (R51, R86, R531).
The choices made here are log entry 3. -/
def Obligations.ReductionsMovesAndConversion : Prop :=
  ∀ (s : State) (b : Slot) (p : Nat) (c : Core), s.Issues b p c →
    let col := c.pre.colMask b.pm
    let kept (t : State) (vd : BitVec 6) := t = s.issued p c (t.core p).now ∧
      (∀ r, r ≠ vd → (t.core p).now.vr r = c.now.vr r)
    let only (t : State) := (t.core p).now = { c.now with vregs := (t.core p).now.vregs }
    let red (t : State) (vd : BitVec 6) (whole : Bool) (f : List Nat → W32) := ∀ j, j < 128 → lane ((t.core p).now.vr vd) j =
      if whole = true ∧ j = 0 ∧ laneOn col 0 = true then f ((List.range 128).filter (laneOn col))
      else if whole = false ∧ j % 32 = 0 ∧ laneOn col j = true then f (((List.range 32).map (· + j)).filter (laneOn col))
      else lane (c.now.vr vd) j
    (∀ vd va whole ty, ∃ t, exec (.vrsum b vd va whole ty) s = .next t ∧ kept t vd ∧ only t ∧ red t vd whole (sumLanes ty (c.pre.vr va))) ∧
    (∀ vd va whole ty, ∃ t, exec (.vrmax b vd va whole ty) s = .next t ∧ kept t vd ∧ only t ∧ red t vd whole (maxLanes ty (c.pre.vr va))) ∧
    (∀ sd va vb half, exec (.vget b sd va vb half) s = .next (s.issued p c
      (c.now.sw sd ((lane (c.pre.vr va) (64 * b2n half + vb.toNat)).setWidth 64)))) ∧
    (∀ vd va src mode ty, ∃ t, exec (.vcvt b vd va src mode ty) s = .next t ∧ kept t vd ∧
      (t.core p).now = { c.now with vregs := (t.core p).now.vregs, srCtr := (t.core p).now.srCtr } ∧
      (t.core p).now.srCtr = (if mode = 1 then c.now.srCtr + 64 else c.now.srCtr) ∧
      ∀ k, k < elemCount ty → elemAt ty ((t.core p).now.vr vd) k =
        if laneOn col (elemLane ty k) = true ∧ k < elemCount src then
          cvtElem src ty (cvtMode mode c.pre.srKey c.pre.srCtr k) (elemAt src (c.pre.vr va) k) % 2 ^ elemWidth ty
        else elemAt ty (c.now.vr vd) k)

/-- VQNT writes, for each row r, its E8M0 scale at byte 384 + r and the code of each of its enabled lanes from byte 32r, and
counts the quantised and the saturated elements; every other register stays (R68, R69). A format code above 5 stops the core. -/
def Obligations.QuantisedRows : Prop :=
  ∀ (s : State) (b : Slot) (p : Nat) (c : Core) (vd va : BitVec 6) (fmt : BitVec 4), s.Issues b p c →
    (5 < fmt.toNat → exec (.vqnt b vd va fmt) s = .next ((s.setCore p c).coreStop p E_CORE_FMT)) ∧
    (fmt.toNat ≤ 5 →
      let row (r : Nat) := vqntRow fmt.toNat (c.pre.vr va) (((List.range 32).map (· + 32 * r)).filter (laneOn (c.pre.colMask b.pm)))
      ∃ t, exec (.vqnt b vd va fmt) s = .next t ∧ t = s.issued p c (t.core p).now ∧
        (t.core p).now = { c.now with vregs := (t.core p).now.vregs, qntElems := (t.core p).now.qntElems, qntSat := (t.core p).now.qntSat } ∧
        (∀ r, r ≠ vd → (t.core p).now.vr r = c.now.vr r) ∧
        (∀ r, r < 4 → ((t.core p).now.vr vd).toNat / 2 ^ (8 * (384 + r)) % 256 = (row r).1 % 256 ∧
          ∀ e ∈ (row r).2.1, ((t.core p).now.vr vd).toNat / 2 ^ (256 * r + elemBits fmt.toNat * (e.1 - 32 * r)) % 2 ^ elemBits fmt.toNat =
            e.2 % 2 ^ elemBits fmt.toNat) ∧
        (t.core p).now.qntElems = c.now.qntElems + BitVec.ofNat 64 (4 * ((List.range 32).filter (laneOn (c.pre.colMask b.pm))).length) ∧
        (t.core p).now.qntSat = c.now.qntSat + BitVec.ofNat 64 ((row 0).2.2 + (row 1).2.2 + (row 2).2.2 + (row 3).2.2))

/-- Vector loads and stores of the tile buffer and of accumulator memory at s[va] + sext(off) × 512: enabled lanes move, disabled lanes
move no bytes, every byte outside the 512 stays; an address that is not aligned or leaves the store stops the core with
E_CORE_OPERAND, an uncorrectable word among those read stops it with E_CORE_ECC, and an access to accumulator memory that an outstanding
transfer holds waits (R37, R41, R48, R50, R51).
The choices made here are log entry 12. -/
def Obligations.VectorMemory : Prop :=
  ∀ (s : State) (b : Slot) (p : Nat) (c : Core) (vd : BitVec 6) (sa : BitVec 4) (off : BitVec 6), s.Issues b p c →
    let a := vaddr c.pre sa off
    let col := c.pre.colMask b.pm
    let wait := if b.first then s else s.setCore p ⟨c.pre, c.pre⟩
    let rs := laneRanges col a.toNat
    let stored (m m' : Mem) := (∀ j, j < 128 → Mem.rdLE m' (a.toNat + 4 * j) 4 =
        if laneOn col j then (lane (c.pre.vr vd) j).toNat else Mem.rdLE m (a.toNat + 4 * j) 4) ∧
      ∀ x, x < a.toNat ∨ a.toNat + 512 ≤ x → Mem.rd m' x = Mem.rd m x
    (vaddrOk a Config.tileBufferBytes = true →
      OverStores (.vld b vd sa off) s p c rs [] [] [] (fun c =>
        VectorWrites (.vld b vd sa off) s p c col vd .int32 (fun j => Mem.rdLE c.now.tb (a.toNat + 4 * j) 4)) ∧
      OverStores (.vst b vd sa off) s p c [] rs [] [] (fun c =>
        ∃ t, exec (.vst b vd sa off) s = .next t ∧ t = s.issued p c (t.core p).now ∧
          (t.core p).now = { c.now with tb := (t.core p).now.tb } ∧ stored c.now.tb (t.core p).now.tb)) ∧
    (vaddrOk a Config.accBytes = true →
      (c.pre.amHeld false [(a.toNat, 512)] = true → exec (.vlda b vd sa off) s = .next wait) ∧
      (c.pre.amHeld false [(a.toNat, 512)] = false → OverStores (.vlda b vd sa off) s p c [] [] rs [] (fun c =>
        VectorWrites (.vlda b vd sa off) s p c col vd .int32 (fun j => Mem.rdLE c.now.am (a.toNat + 4 * j) 4))) ∧
      (c.pre.amHeld true [(a.toNat, 512)] = true → exec (.vsta b vd sa off) s = .next wait) ∧
      (c.pre.amHeld true [(a.toNat, 512)] = false → OverStores (.vsta b vd sa off) s p c [] [] [] rs (fun c =>
        ∃ t, exec (.vsta b vd sa off) s = .next t ∧ t = s.issued p c (t.core p).now ∧
          (t.core p).now = { c.now with am := (t.core p).now.am } ∧ stored c.now.am (t.core p).now.am))) ∧
    (vaddrOk a Config.tileBufferBytes = false →
      exec (.vld b vd sa off) s = .next ((s.setCore p c).coreStop p E_CORE_OPERAND) ∧
      exec (.vst b vd sa off) s = .next ((s.setCore p c).coreStop p E_CORE_OPERAND)) ∧
    (vaddrOk a Config.accBytes = false →
      exec (.vlda b vd sa off) s = .next ((s.setCore p c).coreStop p E_CORE_OPERAND) ∧
      exec (.vsta b vd sa off) s = .next ((s.setCore p c).coreStop p E_CORE_OPERAND))

/-- Culture tables, the depth-wise tap and the arg-max (06 R168, R170, R172; 08 R218, R220): a lookup uses the active bank of its slot,
waits while the slot's swap is pending, and stops the core with E_TAB_EMPTY where the active bank is empty; a tap step adds the weight
times the window's element, rounded once, and stops the core on an offset past a register's elements; an arg-max step takes a candidate
that replaces the maximum, and its channel with it (where vc is vd, the channel stands there).
The choices made here are log entry 12. -/
def Obligations.TablesTapsAndArgMax : Prop :=
  ∀ (s : State) (b : Slot) (p : Nat) (c : Core) (vd va : BitVec 6) (ty : VTy) (f : Fmt), s.Issues b p c → VTy.fmt? ty = some f →
    let col := c.pre.colMask b.pm
    let x (r : BitVec 6) (k : Nat) := elemAt ty (c.pre.vr r) k
    (∀ slot : BitVec 3,
      (∀ tb, (c.now.tab slot.toNat).pend = false → (c.now.tab slot.toNat).act = some tb →
        VectorWrites (.vtab b vd va slot ty) s p c col vd ty (fun k => viaFp32 ty tb.eval (x va k))) ∧
      ((c.now.tab slot.toNat).pend = false → (c.now.tab slot.toNat).act = none →
        exec (.vtab b vd va slot ty) s = .next ((s.setCore p c).coreStop p E_TAB_EMPTY)) ∧
      ((c.now.tab slot.toNat).pend = true →
        exec (.vtab b vd va slot ty) s = .next (if b.first then s else s.setCore p ⟨c.pre, c.pre⟩))) ∧
    (∀ (sb : BitVec 4) (vc : BitVec 6),
      let w := (c.pre.sr sb).toNat
      let o := w / 2 ^ 32 % 512
      (w < 2 ^ 41 → o ≤ elemCount ty →
        VectorWrites (.vdw b vd va sb vc ty) s p c col vd ty (fun k =>
          let win := if o + k < elemCount ty then x va (o + k) else x vc (o + k - elemCount ty)
          roundTo f (seedOf 14 (w % 2 ^ 32) win (x vd k)) (((f32 (BitVec.ofNat 32 w)).mul (.ofBits f win)).add (.ofBits f (x vd k))))) ∧
      (2 ^ 41 ≤ w ∨ elemCount ty < o → exec (.vdw b vd va sb vc ty) s = .next ((s.setCore p c).coreStop p E_CORE_OPERAND))) ∧
    (∀ (sb : BitVec 4) (vc : BitVec 6),
      let takes (k : Nat) := !(FV.ofBits f (x vd k)).isNan && ((FV.ofBits f (x va k)).isNan || (FV.ofBits f (x vd k)).lt (.ofBits f (x va k)))
      ∃ t, exec (.vamax b vd va sb vc ty) s = .next t ∧ t = s.issued p c (t.core p).now ∧
        (t.core p).now = { c.now with vregs := (t.core p).now.vregs } ∧
        (∀ r, r ≠ vd → r ≠ vc → (t.core p).now.vr r = c.now.vr r) ∧
        ∀ k, k < elemCount ty →
          elemAt ty ((t.core p).now.vr vd) k = (if laneOn col (elemLane ty k) = false then elemAt ty (c.now.vr vd) k
            else if vc = vd then (if takes k then (c.pre.sr sb).toNat % 2 ^ 16 else x vc k) else if takes k then x va k else x vd k) ∧
          elemAt ty ((t.core p).now.vr vc) k = (if laneOn col (elemLane ty k) = false then elemAt ty (c.now.vr vc) k
            else if takes k then (c.pre.sr sb).toNat % 2 ^ 16 else x vc k))

/-- The Welford step and the fused state update (06 R176; 07 R184 to R186): VWEL steps mean and M2 of every enabled lane, and stops the
core where the count reaches 2^24; VESU steps every enabled element of the group at its address in accumulator memory, counts the
overflows, writes the new hi parts to vd, leaves every byte of a disabled element and outside the group, and stops the core on an
address that is not a group's; it waits while an outstanding transfer holds the group, and an uncorrectable word stops the core (02 R37,
R41). Its lanes are counted for the ledger (14 R378).
The choices made here are log entry 3. -/
def Obligations.WelfordAndStateUpdate : Prop :=
  ∀ (s : State) (b : Slot) (p : Nat) (c : Core), s.Issues b p c →
    let col := c.pre.colMask b.pm
    (∀ vd va sb vc, (c.pre.sr sb).toNat % 2 ^ 32 < 2 ^ 24 →
      let r (j : Nat) := welford ((c.pre.sr sb).toNat % 2 ^ 32) (lane (c.pre.vr va) j) (lane (c.pre.vr vd) j) (lane (c.pre.vr vc) j)
      ∃ t, exec (.vwel b vd va sb vc) s = .next t ∧ t = s.issued p c (t.core p).now ∧
        (t.core p).now = { c.now with vregs := (t.core p).now.vregs } ∧
        (∀ r, r ≠ vd → r ≠ vc → (t.core p).now.vr r = c.now.vr r) ∧
        ∀ j, j < 128 → lane ((t.core p).now.vr vd) j = (if laneOn col j then (if vc = vd then (r j).2 else (r j).1) else lane (c.now.vr vd) j) ∧
          lane ((t.core p).now.vr vc) j = if laneOn col j then (r j).2 else lane (c.now.vr vc) j) ∧
    (∀ vd va sb vc, 2 ^ 24 ≤ (c.pre.sr sb).toNat % 2 ^ 32 →
      exec (.vwel b vd va sb vc) s = .next ((s.setCore p c).coreStop p E_CORE_OPERAND)) ∧
    (∀ vd sa vb vc, (c.pre.sr sa).toNat % 256 = 0 → (c.pre.sr sa).toNat ≤ 195840 →
      let a := (c.pre.sr sa).toNat
      let js := (List.range 128).filter (laneOn col)
      (c.pre.amHeld true [(a, 768)] = true → exec (.vesu b vd sa vb vc) s = .next (if b.first then s else s.setCore p ⟨c.pre, c.pre⟩)) ∧
      (c.pre.amHeld true [(a, 768)] = false → OverStores (.vesu b vd sa vb vc) s p c [] []
          (js.map (fun j => (a + 4 * j, 4)) ++ js.map (fun j => (a + 512 + 2 * j, 2))) [] (fun c =>
      let st (j : Nat) := es48Step (BitVec.ofNat 32 (Mem.rdLE c.now.am (a + 4 * j) 4)) (sextN 16 (Mem.rdLE c.now.am (a + 512 + 2 * j) 2))
        (lane (c.pre.vr vb) j) (lane (c.pre.vr vc) j)
      ∃ t, exec (.vesu b vd sa vb vc) s = .next t ∧ t = s.issued p c (t.core p).now ∧
        (t.core p).now = { c.now with vregs := (t.core p).now.vregs, am := (t.core p).now.am, stateOvf := (t.core p).now.stateOvf, work := (t.core p).now.work } ∧
        (∀ r, r ≠ vd → (t.core p).now.vr r = c.now.vr r) ∧
        (∀ j, j < 128 → laneOn col j = true →
          Mem.rdLE (t.core p).now.am (a + 4 * j) 4 = (st j).1.toNat ∧
          Mem.rdLE (t.core p).now.am (a + 512 + 2 * j) 2 = ((st j).2.1 % 65536).toNat ∧ lane ((t.core p).now.vr vd) j = (st j).1) ∧
        (∀ j, j < 128 → laneOn col j = false →
          Mem.rdLE (t.core p).now.am (a + 4 * j) 4 = Mem.rdLE c.now.am (a + 4 * j) 4 ∧
          Mem.rdLE (t.core p).now.am (a + 512 + 2 * j) 2 = Mem.rdLE c.now.am (a + 512 + 2 * j) 2 ∧
          lane ((t.core p).now.vr vd) j = lane (c.now.vr vd) j) ∧
        (∀ x, x < a ∨ a + 768 ≤ x → Mem.rd (t.core p).now.am x = Mem.rd c.now.am x) ∧
        (t.core p).now.stateOvf = c.now.stateOvf +
          BitVec.ofNat 64 (((List.range 128).filter (fun j => laneOn col j && (st j).2.2)).length)))) ∧
    (∀ vd sa vb vc, (c.pre.sr sa).toNat % 256 ≠ 0 ∨ 195840 < (c.pre.sr sa).toNat →
      exec (.vesu b vd sa vb vc) s = .next ((s.setCore p c).coreStop p E_CORE_OPERAND))

/-! The matrix slot (02 R44 to R48; 03 R70 to R83). -/

/-- A K-block that does not spill is exact, whatever its spread: where no placed contribution and no rise of the anchor has discarded a
bit, the register's acc times the weight of its window LSB is the exact sum of the contributions (R73, R76). -/
def Obligations.UnspilledKBlockIsExact : Prop :=
  ∀ (p : Pair) (vs : List (FV × Int)), (∀ v ∈ vs, v.1.isFin = true) →
    let c := vs.foldl (fun c v => Curd.place p c v.1 v.2) Curd.clear
    c.sticky = false →
    (c.acc : ℚ) * 2 ^ (c.anchor + p.lsb) = (vs.map (fun v => (v.1.dy.n : ℚ) * 2 ^ v.1.dy.e)).sum

/-- A multiply-accumulate that passes the checks of R74 adds one micro-block to the curd register of every cell that takes part, and
leaves every other byte of accumulator memory, so the register and the carry of every other cell; it steps its address registers by
the operand sizes where it post-increments, counts its products for the ledger (14 R378), and changes nothing else (R45, R46, R48, R72,
R74). It waits while an outstanding transfer holds its tile (R41), and an uncorrectable word stops the core (R37).
The choices made here are log entry 12. -/
def Obligations.MultiplyAccumulate : Prop :=
  ∀ (s : State) (b : Slot) (p : Nat) (c : Core) (aReg bReg : BitVec 4) (acc : BitVec 8) (postInc first : Bool) (P : Pair),
    s.Issues b p c → pairOf c.pre.mfmtA.toNat c.pre.mfmtB.toNat = some P →
    let fa := c.pre.mfmtA.toNat
    let fb := c.pre.mfmtB.toNat
    let xa := (c.pre.sr aReg).toNat
    let xb := (c.pre.sr bReg).toNat
    let part (i j : Nat) := (c.pre.rowMask b.pm).getLsbD i && (c.pre.colMask b.pm).getLsbD j
    acc.toNat ≤ 172 → tbOk xa (operandSize fa) = true → tbOk xb (operandSize fb) = true →
    let cells := cellsOn (c.pre.rowMask b.pm) (c.pre.colMask b.pm)
    (c.pre.tileHeld acc.toNat = true → exec (.mma b aReg bReg acc postInc first) s = .next (if b.first then s else s.setCore p ⟨c.pre, c.pre⟩)) ∧
    (c.pre.tileHeld acc.toNat = false → OverStores (.mma b aReg bReg acc postInc first) s p c [(xa, operandSize fa), (xb, operandSize fb)] []
        (if first then [] else curdRanges acc.toNat cells) (curdRanges acc.toNat cells) (fun c =>
    (first = false → ∀ i j, i < 32 → j < 32 → part i j = true →
      (c.now.curd acc.toNat i j).mbc ≠ 32 ∧ ((c.now.curd acc.toNat i j).mbc = 0 ∨ (c.now.curd acc.toNat i j).pair = P.code)) →
    ∃ t, exec (.mma b aReg bReg acc postInc first) s = .next t ∧ t = s.issued p c (t.core p).now ∧
      (t.core p).now = { c.now with am := (t.core p).now.am, sregs := (t.core p).now.sregs, work := (c.now.count (macEvent fa fb) (32 * cells.length)).work } ∧
      (∀ i j, i < 32 → j < 32 → part i j = true →
        Mem.rdLE (t.core p).now.am (curdAddr acc.toNat i j) 16 =
          (Curd.addBlock P (if first then .clear else c.now.curd acc.toNat i j)
            (operandRow c.now.tb fa xa i).1 (operandRow c.now.tb fb xb j).1
            (operandRow c.now.tb fa xa i).2 (operandRow c.now.tb fb xb j).2).toNat % 2 ^ 128) ∧
      (∀ x, (∀ i j, i < 32 → j < 32 → part i j = true → x < curdAddr acc.toNat i j ∨ curdAddr acc.toNat i j + 16 ≤ x) →
        Mem.rd (t.core p).now.am x = Mem.rd c.now.am x) ∧
      ∀ r, (t.core p).now.sr r =
        if postInc = true ∧ r = bReg ∧ bReg ≠ 0 then c.pre.sr bReg + BitVec.ofNat 64 (operandSize fb)
        else if postInc = true ∧ r = aReg ∧ aReg ≠ 0 then c.pre.sr aReg + BitVec.ofNat 64 (operandSize fa)
        else c.now.sr r))

/-- MSETC loads the carry, and MZERO clears the curd register and the carry, of every cell that takes part; every other byte of
accumulator memory stays, and nothing else changes (R45, R48). They wait while an outstanding transfer holds the tile (R41), and an
uncorrectable word stops the core (R37).
The choices made here are log entry 12. -/
def Obligations.CarriesSetAndCellsCleared : Prop :=
  ∀ (s : State) (b : Slot) (p : Nat) (c : Core) (acc : BitVec 8), s.Issues b p c → acc.toNat ≤ 172 →
    let part (i j : Nat) := (c.pre.rowMask b.pm).getLsbD i && (c.pre.colMask b.pm).getLsbD j
    let cells := cellsOn (c.pre.rowMask b.pm) (c.pre.colMask b.pm)
    let wait := if b.first then s else s.setCore p ⟨c.pre, c.pre⟩
    (∀ (aReg : BitVec 4) (bcast : Bool), tbOk (c.pre.sr aReg).toNat (if bcast then 128 else 4096) = true →
      (c.pre.tileHeld acc.toNat = true → exec (.msetc b aReg acc bcast) s = .next wait) ∧
      (c.pre.tileHeld acc.toNat = false → OverStores (.msetc b aReg acc bcast) s p c [((c.pre.sr aReg).toNat, if bcast then 128 else 4096)] [] []
          (carryRanges acc.toNat cells) (fun c =>
      ∃ t, exec (.msetc b aReg acc bcast) s = .next t ∧ t = s.issued p c (t.core p).now ∧
        (t.core p).now = { c.now with am := (t.core p).now.am } ∧
        (∀ i j, i < 32 → j < 32 → part i j = true → (t.core p).now.carry acc.toNat i j =
          BitVec.ofNat 32 (Mem.rdLE c.now.tb ((c.pre.sr aReg).toNat + (if bcast then 4 * j else 128 * i + 4 * j)) 4)) ∧
        ∀ x, (∀ i j, i < 32 → j < 32 → part i j = true → x < carryAddr acc.toNat i j ∨ carryAddr acc.toNat i j + 4 ≤ x) →
          Mem.rd (t.core p).now.am x = Mem.rd c.now.am x))) ∧
    (c.pre.tileHeld acc.toNat = true → exec (.mzero b acc) s = .next wait) ∧
    (c.pre.tileHeld acc.toNat = false → OverStores (.mzero b acc) s p c [] [] [] (curdRanges acc.toNat cells ++ carryRanges acc.toNat cells) (fun c =>
     ∃ t, exec (.mzero b acc) s = .next t ∧ t = s.issued p c (t.core p).now ∧
      (t.core p).now = { c.now with am := (t.core p).now.am } ∧
      (∀ i j, i < 32 → j < 32 → part i j = true → (t.core p).now.curd acc.toNat i j = .clear ∧ (t.core p).now.carry acc.toNat i j = 0) ∧
      ∀ x, (∀ i j, i < 32 → j < 32 → part i j = true → (x < curdAddr acc.toNat i j ∨ curdAddr acc.toNat i j + 16 ≤ x) ∧
          (x < carryAddr acc.toNat i j ∨ carryAddr acc.toNat i j + 4 ≤ x)) →
        Mem.rd (t.core p).now.am x = Mem.rd c.now.am x))

/-- The fold and the whey path: MFOLD writes to the carry of every cell that takes part the sum of R77, rounded once, clears its curd
register, takes its whey sum where it joins, and counts the spilled cells and the overflows; MWH adds its products to the whey sums of
the cells that take part and records the tile base where it opens one (R77 to R79, R82, R83). Every other cell keeps its register, its
carry and its whey sum. A cell without a contribution adds nothing: its carry keeps its bits, or receives +0 with init. A fold waits while
an outstanding transfer holds its tile (02 R41), an uncorrectable word stops the core (02 R37), and the products of MWH are counted for
the ledger (14 R378).
The choices made here are log entry 12. -/
def Obligations.FoldAndWhey : Prop :=
  ∀ (s : State) (b : Slot) (p : Nat) (c : Core) (acc : BitVec 8), s.Issues b p c → acc.toNat ≤ 172 →
    let part (i j : Nat) := (c.pre.rowMask b.pm).getLsbD i && (c.pre.colMask b.pm).getLsbD j
    let on := cellsOn (c.pre.rowMask b.pm) (c.pre.colMask b.pm)
    let cells := (List.range 1024).filter (fun n => part (n / 32) (n % 32))
    (∀ init join, (join = true → c.now.wheyBase = some acc.toNat) → c.pre.tileHeld acc.toNat = true →
      exec (.mfold b acc init join) s = .next (if b.first then s else s.setCore p ⟨c.pre, c.pre⟩)) ∧
    (∀ init join, (join = true → c.now.wheyBase = some acc.toNat) → c.pre.tileHeld acc.toNat = false →
      OverStores (.mfold b acc init join) s p c [] [] (curdRanges acc.toNat on ++ (if init then [] else carryRanges acc.toNat on))
        (carryRanges acc.toNat on) (fun c =>
      let res (i j : Nat) (init join : Bool) := (c.now.curd acc.toNat i j).fold (c.now.carry acc.toNat i j)
        (if join then some (c.now.wheySum i j) else none) init
      let spills := (cells.filter (fun n => (c.now.curd acc.toNat (n / 32) (n % 32)).sticky)).length
      ∃ t, exec (.mfold b acc init join) s = .next t ∧ t = s.issued p c (t.core p).now ∧
        (t.core p).now = { c.now with am := (t.core p).now.am, whey := (t.core p).now.whey, spillCells := (t.core p).now.spillCells, spillFolds := (t.core p).now.spillFolds, foldOvf := (t.core p).now.foldOvf } ∧
        (∀ i j, i < 32 → j < 32 → part i j = true → (t.core p).now.carry acc.toNat i j = (res i j init join).1 ∧
          (t.core p).now.curd acc.toNat i j = .clear) ∧
        (∀ i j, i < 32 → j < 32 → (t.core p).now.wheySum i j = if join = true ∧ part i j = true then 0 else c.now.wheySum i j) ∧
        (∀ x, (∀ i j, i < 32 → j < 32 → part i j = true → (x < curdAddr acc.toNat i j ∨ curdAddr acc.toNat i j + 16 ≤ x) ∧
            (x < carryAddr acc.toNat i j ∨ carryAddr acc.toNat i j + 4 ≤ x)) →
          Mem.rd (t.core p).now.am x = Mem.rd c.now.am x) ∧
        (t.core p).now.spillCells = c.now.spillCells + BitVec.ofNat 64 spills ∧
        (t.core p).now.spillFolds = c.now.spillFolds + (if spills = 0 then 0 else 1) ∧
        (t.core p).now.foldOvf = c.now.foldOvf +
          BitVec.ofNat 64 (cells.filter (fun n => (res (n / 32) (n % 32) init join).2)).length)) ∧
    (∀ (k : Curd) (w v : W32), k.av = false → k.special = 0 → k.fold w none false = (w, false) ∧ k.fold w none true = (0, false) ∧
      (k.fold w (some v) false).1 = rnq32 ((f32 w).add (f32 v)) ∧ (k.fold w (some v) true).1 = rnq32 (f32 v)) ∧
    (∀ aReg bReg first, tbOk (c.pre.sr aReg).toNat 2048 = true → tbOk (c.pre.sr bReg).toNat 2048 = true →
      (first = false → c.now.wheyBase = some acc.toNat) →
      OverStores (.mwh b aReg bReg acc first) s p c [((c.pre.sr aReg).toNat, 2048), ((c.pre.sr bReg).toNat, 2048)] [] [] [] (fun c =>
      ∃ t, exec (.mwh b aReg bReg acc first) s = .next t ∧ t = s.issued p c (t.core p).now ∧
        (t.core p).now = { c.now with whey := (t.core p).now.whey, wheyBase := some acc.toNat, work := (c.now.count 2 (32 * on.length)).work } ∧
        ∀ i j, i < 32 → j < 32 → (t.core p).now.wheySum i j = if part i j = true then
            wheyAdd (if first then 0 else c.now.wheySum i j) (operandRow c.now.tb 8 (c.pre.sr aReg).toNat i).1
              (operandRow c.now.tb 8 (c.pre.sr bReg).toNat j).1
          else c.now.wheySum i j))

/-- A fault stops the core without issuing its bundle: the registers and stores are those from before the bundle, and once no transfer
is outstanding state is 3 with the code and the completion is posted (R60). A bundle whose word cannot be read stops the core with
E_CORE_ECC, whatever it holds; stores without upset words are read as they are (R37).
The choices made here are log entry 12. -/
def Obligations.FaultStopsTheBundle : Prop :=
  (∀ (s : State) (i : Instr) (b : Slot) (p : Nat) (c : Core), slotOf i = some b → s.physOf b.core = some p →
    (b.first && s.pwr.stopped.contains (dieOfCore b.core)) = false → (s.core p).begin b.first = some c → c.read b.first = none →
    exec i s = .next ((s.setCore p c).coreStop p E_CORE_ECC)) ∧
  (∀ (c : CoreRegs) (tr tw ar aw : List (Nat × Nat)), c.flips = [] → c.guarded tr tw ar aw none some = some c) ∧
  ∀ (s : State) (b : Slot) (p : Nat) (c : Core) (code : Code), s.Issues b p c → code ≠ 0 →
    let t := (s.setCore p c).coreStop p code
    (c.pre.xfers = [] → (t.core p).now = { c.pre with st := .fault, fault := code, stopping := none, late := false, halt := false, wheyBase := none } ∧
      (t.clu (p / 26)).events = (s.clu (p / 26)).events ++ [.complete p code]) ∧
    (c.pre.xfers ≠ [] → (t.core p).now = { c.pre with stopping := some code }) ∧
    (b.first = true → c.pre = (s.core p).now) ∧
    (∀ q, q ≠ p → t.core q = s.core q)

/-- Where the matrix slot and a loop stop the core. An operand that is not aligned or ends past the tile buffer stops it with
E_CORE_OPERAND before any cell changes: the operation has no effect and the rest of its bundle still issues (R48, R60). A tile base out of
range, a whey tile base that is not the recorded one, a count above 32 bits: E_CORE_OPERAND; a K-block of 32 micro-blocks:
E_CORE_KBLOCK; an open K-block of another pair, or CORE_MFMT holding no permitted pair: E_CORE_FMT (R54, R74, R83).
The choices made here are log entries 11 and 12. -/
def Obligations.MatrixAndLoopStops : Prop :=
  ∀ (s : State) (b : Slot) (p : Nat) (c : Core), s.Issues b p c →
    let stops (i : Instr) (code : Code) := exec i s = .next ((s.setCore p c).coreStop p code)
    let late (i : Instr) := exec i s = .next (s.issued p c { c.now with stopping := some E_CORE_OPERAND, late := true })
    let part (i j : Nat) := (c.pre.rowMask b.pm).getLsbD i && (c.pre.colMask b.pm).getLsbD j
    let fa := c.pre.mfmtA.toNat
    let fb := c.pre.mfmtB.toNat
    let rd (acc : BitVec 8) := curdRanges acc.toNat (cellsOn (c.pre.rowMask b.pm) (c.pre.colMask b.pm))
    (∀ aReg bReg acc postInc first, pairOf fa fb = none → stops (.mma b aReg bReg acc postInc first) E_CORE_FMT) ∧
    (∀ aReg bReg acc postInc first, (pairOf fa fb).isSome = true →
      (172 < acc.toNat → stops (.mma b aReg bReg acc postInc first) E_CORE_OPERAND) ∧
      (acc.toNat ≤ 172 → tbOk (c.pre.sr aReg).toNat (operandSize fa) = false ∨ tbOk (c.pre.sr bReg).toNat (operandSize fb) = false →
        late (.mma b aReg bReg acc postInc first)) ∧
      (acc.toNat ≤ 172 → tbOk (c.pre.sr aReg).toNat (operandSize fa) = true → tbOk (c.pre.sr bReg).toNat (operandSize fb) = true →
        c.pre.tileHeld acc.toNat = false →
        OverStores (.mma b aReg bReg acc postInc false) s p c [((c.pre.sr aReg).toNat, operandSize fa), ((c.pre.sr bReg).toNat, operandSize fb)] []
          (rd acc) (rd acc) (fun c' =>
        ((∃ i j, i < 32 ∧ j < 32 ∧ part i j = true ∧ (c'.now.curd acc.toNat i j).mbc = 32) →
          stops (.mma b aReg bReg acc postInc false) E_CORE_KBLOCK) ∧
        ((∀ i j, i < 32 → j < 32 → part i j = true → (c'.now.curd acc.toNat i j).mbc ≠ 32) →
          (∃ i j, i < 32 ∧ j < 32 ∧ part i j = true ∧ (c'.now.curd acc.toNat i j).mbc ≠ 0 ∧
            ∀ P, pairOf fa fb = some P → (c'.now.curd acc.toNat i j).pair ≠ P.code) →
          stops (.mma b aReg bReg acc postInc false) E_CORE_FMT)))) ∧
    (∀ aReg bReg acc first,
      (172 < acc.toNat ∨ (first = false ∧ c.now.wheyBase ≠ some acc.toNat) → stops (.mwh b aReg bReg acc first) E_CORE_OPERAND) ∧
      (acc.toNat ≤ 172 → (first = false → c.now.wheyBase = some acc.toNat) →
        tbOk (c.pre.sr aReg).toNat 2048 = false ∨ tbOk (c.pre.sr bReg).toNat 2048 = false → late (.mwh b aReg bReg acc first))) ∧
    (∀ acc init join, 172 < acc.toNat ∨ (join = true ∧ c.now.wheyBase ≠ some acc.toNat) → stops (.mfold b acc init join) E_CORE_OPERAND) ∧
    (∀ acc, 172 < acc.toNat → stops (.mzero b acc) E_CORE_OPERAND) ∧
    (∀ aReg acc bcast, (172 < acc.toNat → stops (.msetc b aReg acc bcast) E_CORE_OPERAND) ∧
      (acc.toNat ≤ 172 → tbOk (c.pre.sr aReg).toNat (if bcast then 128 else 4096) = false → late (.msetc b aReg acc bcast))) ∧
    (∀ lc sc e, 2 ^ 32 ≤ (c.pre.sr sc).toNat → stops (.sloop b lc sc e) E_CORE_OPERAND)

/-! The transfer slot (02 R57 to R59; 04 R117; 05 R141; 08 R209; 10 R259, R261). -/

/-- A transfer issues (R57, R58): a length that is no multiple of 64 or above 393,216 stops the core with E_CORE_OPERAND; a length of
zero completes at once, whatever its addresses; a check that fails stops the core with its code; a core with 32 transfers outstanding
waits, and so does a transfer of accumulator memory that another one holds (R41); else one transfer more is outstanding, and nothing else
changes.
The choices made here are log entries 12 and 13. -/
def Obligations.TransfersIssue : Prop :=
  ∀ (s : State) (i : Instr) (b : Slot) (p : Nat) (c : Core) (k : XKind) (dst src len tag md : BitVec 4),
    s.Issues b p c → xferOf i = some (b, k, dst, src, len, tag, md) →
    let n := (c.pre.sr len).toNat
    let d := (c.pre.sr dst).toNat
    let a := (c.pre.sr src).toNat
    let code := s.xferCode c.pre k md d a n
    (n % 64 ≠ 0 ∨ 393216 < n → exec i s = .next ((s.setCore p c).coreStop p E_CORE_OPERAND)) ∧
    (n = 0 → exec i s = .next (s.issued p c c.now)) ∧
    (n ≠ 0 → n % 64 = 0 → n ≤ 393216 →
      (code ≠ 0 → exec i s = .next ((s.setCore p c).coreStop p code)) ∧
      (code = 0 → 32 ≤ c.now.xfers.length ∨ c.pre.xaccHeld k d a n = true → exec i s = .next (if b.first then s else s.setCore p ⟨c.pre, c.pre⟩)) ∧
      (code = 0 → c.now.xfers.length < 32 → c.pre.xaccHeld k d a n = false →
        exec i s = .next (s.issued p c { c.now with xfers := c.now.xfers ++ [⟨k, tag, d, a, n, md, 0, false, none⟩] })))

/-- The check of a transfer before any byte moves (R48, R57, R59): between two stores of the cluster without a conversion, both addresses
are multiples of 64 and both ranges lie in their stores; a tile-buffer side of an object transfer likewise; an object address has bits
[63:52] zero; anything else gives E_CORE_OPERAND; then the object's own code, if any. A length or a conversion that breaks the rules of
R209, and a reserved vat code, give their codes before that. -/
def Obligations.TransferChecks : Prop :=
  ∀ (s : State) (c : CoreRegs) (k : XKind) (md : BitVec 4) (d a n : Nat),
    (∀ z, xferStores k = some z → (k = .sld ∨ k = .sst → md = 0) →
      s.xferCode c k md d a n =
        if (a % 64 = 0 ∧ a + n ≤ z.1) ∧ (d % 64 = 0 ∧ d + n ≤ z.2) then 0 else E_CORE_OPERAND) ∧
    (k = .mld ∨ k = .mst → md = 0 →
      let buf := if k = .mld then d else a
      let obj := if k = .mld then a else d
      (¬(buf % 64 = 0 ∧ buf + n ≤ 393216) ∨ 2 ^ 52 ≤ obj → s.xferCode c k md d a n = E_CORE_OPERAND) ∧
      (buf % 64 = 0 ∧ buf + n ≤ 393216 → obj < 2 ^ 52 →
        s.xferCode c k md d a n = s.accessCode c.agent (decide (k = .mst)) obj n)) ∧
    (k = .sld ∨ k = .sst ∨ k = .mld ∨ k = .mst →
      moveMap (md.toNat % 8) (if md.getLsbD 3 then c.xcvt1 else c.xcvt0) n = none → s.xferCode c k md d a n = E_CORE_OPERAND) ∧
    (k = .vat →
      (vatWidth md = 0 → s.xferCode c k md d a n = E_KRN_ENCODING) ∧
      (vatWidth md ≠ 0 → ¬(a % 64 = 0 ∧ a + n ≤ 393216) ∨ d % vatWidth md ≠ 0 ∨ 2 ^ 52 ≤ d →
        s.xferCode c k md d a n = E_CORE_OPERAND) ∧
      (vatWidth md ≠ 0 → a % 64 = 0 ∧ a + n ≤ 393216 → d % vatWidth md = 0 → d < 2 ^ 52 →
        s.xferCode c k md d a n = s.accessCode c.agent true d n))

/-- Halos, waits, pages and fences issue (R57, R58, R141): XHALO toward a neighbour that exists posts its halo, one of length zero too, and
stops the core with E_CORE_OPERAND toward one that does not; XHWAIT waits until its counter is at least s[len] and subtracts that;
XFENCE waits while a transfer of its tag (of any tag, with mod 1) is outstanding; XPAGE takes the next descriptor and writes the bytes
its page lands to s[len], writes 0 once the walk is exhausted, and waits while the queue is empty before that.
The choices made here are log entry 12. -/
def Obligations.HalosPagesAndFences : Prop :=
  ∀ (s : State) (b : Slot) (p : Nat) (c : Core), s.Issues b p c →
    let stop := (s.setCore p c).coreStop p E_CORE_OPERAND
    let wait := if b.first then s else s.setCore p ⟨c.pre, c.pre⟩
    (∀ (dst src len tag : BitVec 4) (dir : BitVec 2),
      let n := (c.pre.sr len).toNat
      let d := (c.pre.sr dst).toNat
      let a := (c.pre.sr src).toNat
      let fits := n = 0 ∨ ((a % 64 = 0 ∧ a + n ≤ 393216) ∧ (d % 64 = 0 ∧ d + n ≤ 393216))
      (n % 64 ≠ 0 ∨ 393216 < n ∨ neighbour b.core dir.toNat = none ∨ ¬fits → exec (.xhalo b dst src len tag dir) s = .next stop) ∧
      (n % 64 = 0 → n ≤ 393216 → neighbour b.core dir.toNat ≠ none → fits → c.now.xfers.length < 32 →
        exec (.xhalo b dst src len tag dir) s = .next (s.issued p c
          { c.now with xfers := c.now.xfers ++ [⟨.halo, tag, d, a, n, dir.zeroExtend 4, 0, false, none⟩] })) ∧
      (n % 64 = 0 → n ≤ 393216 → neighbour b.core dir.toNat ≠ none → fits → 32 ≤ c.now.xfers.length →
        exec (.xhalo b dst src len tag dir) s = .next wait)) ∧
    (∀ (len : BitVec 4) (dir : BitVec 2),
      (c.now.haloCount dir.toNat < (c.pre.sr len).toNat → exec (.xhwait b len dir) s = .next wait) ∧
      ((c.pre.sr len).toNat ≤ c.now.haloCount dir.toNat →
        ∃ t, exec (.xhwait b len dir) s = .next t ∧ t = s.issued p c (t.core p).now ∧
          (t.core p).now = { c.now with halo := (t.core p).now.halo } ∧
          ∀ q, (t.core p).now.haloCount q = c.now.haloCount q - if q = dir.toNat then (c.pre.sr len).toNat else 0)) ∧
    (∀ (tag : BitVec 4) (all : Bool),
      let held := ∃ x ∈ c.now.xfers, x.len ≠ 0 ∧ (all = true ∨ x.tag = tag)
      (held → exec (.xfence b tag all) s = .next wait) ∧ (¬held → exec (.xfence b tag all) s = .next (s.issued p c c.now))) ∧
    (∀ (dst len tag : BitVec 4) (part : BitVec 2),
      (c.now.pageQ = [] → c.now.walkLeft = [] → exec (.xpage b dst len tag part) s = .next (s.issued p c (c.now.sw len 0))) ∧
      (c.now.pageQ = [] → c.now.walkLeft ≠ [] → exec (.xpage b dst len tag part) s = .next wait) ∧
      ∀ d q, c.now.pageQ = d :: q →
        let a := (c.pre.sr dst).toNat
        let n := 64 + (if part = 2 then 2 else 1) * d.landed * 64
        (part = 3 ∨ ¬(a % 64 = 0 ∧ a + n ≤ 393216) → exec (.xpage b dst len tag part) s = .next stop) ∧
        (part ≠ 3 → a % 64 = 0 ∧ a + n ≤ 393216 → 32 ≤ c.now.xfers.length → exec (.xpage b dst len tag part) s = .next wait) ∧
        (part ≠ 3 → a % 64 = 0 ∧ a + n ≤ 393216 → c.now.xfers.length < 32 →
          exec (.xpage b dst len tag part) s = .next (s.issued p c { (c.now.sw len (BitVec.ofNat 64 n)) with
            pageQ := q, xfers := c.now.xfers ++ [⟨.page, tag, a, 0, n, part.zeroExtend 4, 0, false, some d⟩] })))

/-- A transfer within the cluster completes (R57 to R59, R209): its bytes, moved by its conversion, stand in the destination store, and
it is no longer outstanding; no other register, core, cluster or memory changes. The words it reads are corrected where they were upset,
and an uncorrectable one stops the core instead (R37). Without a conversion every byte is the source's byte at the same offset, and every
byte outside the destination range stays.
The choices made here are log entry 13. -/
def Obligations.ClusterTransfersLand : Prop :=
  ∀ (s : State) (core idx p fixed bad : Nat) (x : Xfer) (m : MoveMap),
    s.physOf core = some p → (s.core p).now.xfers[idx]? = some x → (s.core p).now.mapOf x.kind x.mod x.len = some m →
    let drop (g : CoreRegs) : CoreRegs := { g with xfers := g.xfers.eraseIdx idx }
    let move (src dst : Mem) : Mem := scatterStore dst x.dst m.dst (m.apply (gatherStore src x.src m.src))
    let done := exec (.transferComplete core ⟨idx, fixed, bad⟩) s
    let u := (s.xferWords p x m).1
    let code := (s.xferWords p x m).2
    let c := (u.core p).now
    let inside := x.kind = .copy ∨ x.kind = .sld ∨ x.kind = .sst ∨ x.kind = .accTo ∨ x.kind = .accFrom
    (inside → (s.core p).now.flips = [] → (s.clu (p / 26)).flips = [] → code = 0 ∧ c = (s.core p).now ∧ u.clu (p / 26) = s.clu (p / 26)) ∧
    (inside → code ≠ 0 → done = .next (u.modCore p (fun g => (drop g).failWith code))) ∧
    (code = 0 →
      (x.kind = .copy → done = .next (u.modCore p (fun g => drop { g with tb := move c.tb g.tb }))) ∧
      (x.kind = .sld → done = .next (u.modCore p (fun g => drop { g with tb := move (u.clu (p / 26)).staging g.tb }))) ∧
      (x.kind = .sst → done = .next ((u.modClu (p / 26) (fun cl => { cl with staging := move c.tb cl.staging })).modCore p drop)) ∧
      (x.kind = .accTo → done = .next (u.modCore p (fun g => drop { g with am := move c.tb g.am }))) ∧
      (x.kind = .accFrom → done = .next (u.modCore p (fun g => drop { g with tb := move c.am g.tb })))) ∧
    (x.kind = .copy ∨ x.kind = .accTo ∨ x.kind = .accFrom ∨ x.mod.toNat % 8 = 0 → ∀ (f t : Mem) (y : Nat),
      Mem.rd (move f t) y = if x.dst ≤ y ∧ y < x.dst + x.len then Mem.rd f (x.src + (y - x.dst)) else Mem.rd t y)

/-- A conversion moves every element of its map, and no two elements to one place (R209, R210): an element of a converted store, read at
its destination offset, is the element of the source at its source offset. -/
def Obligations.ConversionsMoveEveryElement : Prop :=
  ∀ (kind : Nat) (d : W64) (len : Nat) (m : MoveMap) (f : Mem),
    moveMap kind d len = some m → kind ≠ 0 → len ≠ 0 →
    (∀ e ∈ m.elems, ∀ j, j < m.es → Mem.rd (m.apply f) (e.1 + j) = Mem.rd f (e.2 + j)) ∧
    m.elems.length * m.es = len ∧
    (∀ e ∈ m.elems, ∀ e' ∈ m.elems, e ≠ e' → (e.1 + m.es ≤ e'.1 ∨ e'.1 + m.es ≤ e.1) ∧ (e.2 + m.es ≤ e'.2 ∨ e'.2 + m.es ≤ e.2))

/-- Halos land and are counted (R57, R58, R117): a halo completes only after every earlier halo of its sender in its direction, and only
while the receiver's counter has room for it; then its bytes stand at its destination in the neighbour's tile buffer, and its arrival
waits there to be counted; an uncorrectable word of its source stops the sender instead. HALO_ARRIVAL counts one waiting arrival, never
above 65,535.
The choices made here are log entry 13. -/
def Obligations.HalosLandAndCount : Prop :=
  ∀ (s : State) (core p : Nat), s.physOf core = some p →
    (∀ (idx q k fixed bad : Nat) (x : Xfer), (s.core p).now.xfers[idx]? = some x → x.kind = .halo →
      neighbour core x.mod.toNat = some k → s.physOf k = some q →
      let u := s.modCore p (fun g => g.guarded [(x.src, x.len)] [] [] [] g (fun d => d))
      let c := (s.core p).now
      let d := (x.mod.toNat + 2) % 4
      let r := (s.core q).now
      let ready := (∀ y ∈ c.xfers.take idx, y.kind = .halo → y.mod ≠ x.mod) ∧ r.haloCount d + AMap.getD r.haloHeld 0 d < 65535
      let done := exec (.transferComplete core ⟨idx, fixed, bad⟩) s
      (¬ready → done = .next s) ∧
      (ready → c.guarded [(x.src, x.len)] [] [] [] none some = none →
        done = .next (s.modCore p (fun g => ({ g with xfers := g.xfers.eraseIdx idx }).failWith E_CORE_ECC))) ∧
      (ready → c.guarded [(x.src, x.len)] [] [] [] none some ≠ none → ∃ h : AMap Nat → AMap Nat, (∀ e, AMap.getD (h e) 0 = fun z => AMap.getD e 0 z + if z = d then 1 else 0) ∧
        done = .next ((u.modCore q (fun g => let g := g.guarded [] [(x.dst, x.len)] [] [] g (fun d => d)
          { g with
          tb := if x.len = 0 then g.tb else Mem.wrBytes g.tb x.dst (Mem.rdBytes (u.core p).now.tb x.src x.len)
          haloHeld := h g.haloHeld })).modCore p (fun g => { g with xfers := g.xfers.eraseIdx idx })))) ∧
    (∀ dir : BitVec 2, let n := AMap.getD (s.core p).now.haloHeld 0 dir.toNat
      (n = 0 ∨ 65535 ≤ (s.core p).now.haloCount dir.toNat → exec (.haloArrival core dir) s = .next s) ∧
      (n ≠ 0 → (s.core p).now.haloCount dir.toNat < 65535 → ∃ t, exec (.haloArrival core dir) s = .next t ∧
        t = s.setCore p (t.core p) ∧
        (t.core p).now = { (s.core p).now with halo := (t.core p).now.halo, haloHeld := (t.core p).now.haloHeld } ∧
        ∀ z, (t.core p).now.haloCount z = (s.core p).now.haloCount z + (if z = dir.toNat then 1 else 0) ∧
          AMap.getD (t.core p).now.haloHeld 0 z = AMap.getD (s.core p).now.haloHeld 0 z - if z = dir.toNat then 1 else 0))

/-- A transfer at an object address completes (R57 to R59; 05 R127, R141, R143; 10 R253, R254, R259; 11 R279): XMLD and XPAGE put what they
read into the tile buffer and XMST writes the object, unless a code met on the way stops the core once nothing is outstanding; an XVAT
completes once all its lines were applied or skipped. The words of the link are received again at most three times, every correction
counted; a fourth bad receipt stops the core with E_MEM_UNCORR. An uncorrectable word of the tile buffer stops it with E_CORE_ECC. Bytes
in one fresh block without upset words are read and written where the block lives, and no other byte of the stacks changes.
The choices made here are log entry 13. -/
def Obligations.ObjectTransfersLand : Prop :=
  ∀ (s : State) (core idx p fixed bad : Nat) (x : Xfer), s.physOf core = some p → (s.core p).now.xfers[idx]? = some x →
    let drop (g : CoreRegs) : CoreRegs := { g with xfers := g.xfers.eraseIdx idx }
    let done := exec (.transferComplete core ⟨idx, fixed, bad⟩) s
    let l : State := { s with mem := { s.mem with ceTotal := s.mem.ceTotal + BitVec.ofNat 64 fixed } }
    let object := x.kind = .mld ∨ x.kind = .mst ∨ x.kind = .page ∨ (x.kind = .vat ∧ x.lines = vatLines x)
    (x.kind = .vat → x.lines ≠ vatLines x → done = .next s) ∧
    (object → 4 ≤ bad → done = .next
      ((({ l with mem := { l.mem with ueTotal := l.mem.ueTotal + 1 } }).raise { FRec.mk0 E_MEM_UNCORR 1 (ident 1 (p / 26)) with
        ctx := ((s.core p).now.access p).ctx }).modCore p (fun g => (drop g).failWith E_MEM_UNCORR))) ∧
    (object → bad < 4 → (s.core p).now.mapOf x.kind x.mod x.len = none → done = .next (l.modCore p drop)) ∧
    (object → bad < 4 → ∀ m, (s.core p).now.mapOf x.kind x.mod x.len = some m →
      let u := (l.xferWords p x m).1
      let code := (l.xferWords p x m).2
      let c := (u.core p).now
      ((s.core p).now.flips = [] → code = 0 ∧ c = (s.core p).now ∧ u.mem = l.mem) ∧
      (code ≠ 0 → done = .next (u.modCore p (fun g => (drop g).failWith code))) ∧
      (code = 0 →
        (x.kind = .mld →
          let r := u.gatherObj (c.access p) c.line x.src m.src []
          (r.2.1 = 0 → done = .next (r.1.modCore p (fun g => drop { g with tb := scatterStore g.tb x.dst m.dst (m.apply r.2.2) }))) ∧
          (r.2.1 ≠ 0 → done = .next (r.1.modCore p (fun g => (drop g).failWith r.2.1)))) ∧
        (x.kind = .mst →
          let r := u.scatterObj (c.access p) c.line x.dst (m.apply (gatherStore c.tb x.src m.src)) m.dst
          done = .next (r.1.modCore p (fun g => if r.2 = 0 then drop g else (drop g).failWith r.2))) ∧
        (x.kind = .page → ∀ d, x.page = some d →
          let r := u.landPage (c.access p) c.line (p / 26) c.run d x.mod.toNat
          (r.2.1 = 0 → done = .next (r.1.modCore p (fun g => drop { g with tb := Mem.wrBytes g.tb x.dst r.2.2 }))) ∧
          (r.2.1 ≠ 0 → done = .next (r.1.modCore p (fun g => (drop g).failWith r.2.1)))) ∧
        (x.kind = .vat → done = .next (u.modCore p (fun g => if x.bad then (drop g).failWith E_MEM_UNCORR else drop g))))) ∧
    ∀ (ac : Access) (line a n reg : Nat) (f : Mem),
      AMap.find? s.tier.blocks (a / 262144) = some (.fresh reg) → a % 262144 + n ≤ 262144 → s.mem.flips = [] →
      let base := 262144 * reg + a % 262144
      (let r := s.gatherObj ac line a [(0, n)] []
       r.2.1 = 0 ∧ r.1.mem = s.mem ∧ ∀ j, j < n → Mem.rd r.2.2 j = Mem.rd s.mem.stack (base + j)) ∧
      (let r := s.scatterObj ac line a f [(0, n)]
       r.2 = 0 ∧ ∀ y, Mem.rd r.1.mem.stack y = if base ≤ y ∧ y < base + n then Mem.rd f (y - base) else Mem.rd s.mem.stack y)

/-- Vat operations (R258 to R261). VAT_LINE_APPLY applies the next line of an XVAT, unless an earlier vat transfer of the core still has to
apply that line; a line that meets an uncorrectable word is skipped, and the core stops with E_MEM_UNCORR at the end. VAT_ELEMENT_OP
applies a code to one aligned element of 4 or 8 bytes, if its address may be reached, and answers its requester with the element's prior
value, or with the code that refused it. An applied operation leaves in every element the
result of its code, advances its channel's count by one, and its generator by 8 after code 0x2; no other byte changes.
The choices made here are log entries 13 and 67. -/
def Obligations.VatOperations : Prop :=
  ∀ (s : State) (core idx p : Nat) (x : Xfer) (y : Nat), s.physOf core = some p → (s.core p).now.xfers[idx]? = some x →
    let c := (s.core p).now
    let line := x.dst / 64 + x.lines
    let a := max x.dst (64 * line)
    let n := min (x.dst + x.len) (64 * line + 64) - a
    let waits := ∃ z ∈ c.xfers.take idx, z.kind = .vat ∧ z.dst / 64 + z.lines ≤ line ∧ line < z.dst / 64 + vatLines z
    (x.kind ≠ .vat ∨ vatLines x ≤ x.lines ∨ waits ∨ s.freshAddr a = none → exec (.vatLineApply core idx) s = .next s) ∧
    (x.kind = .vat → x.lines < vatLines x → ¬waits → s.freshAddr a = some y →
      let r := (s.chargeBytesAt (ident 1 (p / 26)) c.line true a n).vatApply (c.access p) x.mod y (Mem.rdBytes c.tb (x.src + (a - x.dst)) n)
      exec (.vatLineApply core idx) s = .next (r.1.modCore p (fun g => { g with
        xfers := g.xfers.modify idx (fun z => { z with lines := z.lines + 1, bad := z.bad || decide (r.2.1 ≠ 0) }) }))) ∧
    (∀ (ctx addr : Nat) (code : BitVec 4) (v : W64),
      let w := vatWidth code
      let ag : Agent := if ctx = 0xFFFF then .umpire else .coach ctx
      let done := exec (.vatElementOp ctx addr code v) s
      let unit := if ctx = 0xFFFF then 131072 else 65536 + ctx
      (w < 4 ∨ addr % w ≠ 0 → done = .next s) ∧
      (4 ≤ w → addr % w = 0 → s.accessCode ag true addr w ≠ 0 → done = .next (s.answerUnit unit (s.accessCode ag true addr w) [])) ∧
      (4 ≤ w → addr % w = 0 → s.accessCode ag true addr w = 0 → ∀ z, s.freshAddr addr = some z →
        let r := s.vatApply ⟨ag, 1, ctx, ident 2 1024⟩ code z (leBytes w v.toNat)
        (r.2.1 ≠ 0 → done = .next (r.1.answerUnit unit r.2.1 [])) ∧
        (r.2.1 = 0 → done = .next (((r.1.chargeBytes 1024 false addr w).chargeBytes 1024 true addr w).answerUnit unit 0 r.2.2)))) ∧
    ∀ (ac : Access) (code : BitVec 4) (z k : Nat) (xs : List Byte), vatWidth code ≠ 0 → xs.length = vatWidth code * k → s.mem.flips = [] →
      let w := vatWidth code
      let h := s.chan (s.chanOf z)
      let r := s.vatApply ac code z xs
      r.2.1 = 0 ∧ r.2.2 = Mem.rdBytes s.mem.stack z (w * k) ∧ r.1 = { s with mem := r.1.mem } ∧
      (∀ j, j < k → Mem.rdLE r.1.mem.stack (z + w * j) w =
        vatElem code (Mem.rdLE s.mem.stack (z + w * j) w) (leNat ((xs.drop (w * j)).take w)) (srBits h.srKey h.srCtr (z % 64 / w + j)) %
          256 ^ w) ∧
      (∀ q, q < z ∨ z + w * k ≤ q → Mem.rd r.1.mem.stack q = Mem.rd s.mem.stack q) ∧
      ∀ ch, r.1.chan ch = if ch = s.chanOf z then
        { h with ops := h.ops + 1, srCtr := if code = 2 then h.srCtr + 8 else h.srCtr } else s.chan ch

/-! Start, halt and stop (02 R60, R61; 04 R119). -/

/-- CORE_RUN and CORE_HALT write CORE_CTRL with their bit set; both bits are write-one-to-set, and start_pc is written beside them. A run
bit that is set starts the core once it does not run: its program counter goes to start_pc, every loop counter is inactive, the recorded
tile base is gone, its fault code and the run bit read 0 and its stores stay; its scalar, vector, loop-count and whey registers are free
values, for every draw (R61). On a core that runs the bit stays set until the core stops. The halt bit asks the core to stop at its next
bundle boundary.
How a core stops (R60; 04 R119). Bundle 2,047 past, with nothing taken the program counter elsewhere, the core will stop with
E_CORE_OPERAND. A running core with a stop or a halt behind it and nothing outstanding stops: state 2 and code 0, or state 3 and its
code, and its completion is posted and served; with a transfer outstanding it does not yet. A halo timeout stops a running core with
E_HALO_TIMEOUT, and its partner where that waits for the halo back, and no other core.
The choices made here are log entries 2, 72 and 75. -/
def Obligations.CoresStartAndStop : Prop :=
  (∀ (s : State) (core p : Nat) (v : W32), s.physOf core = some p →
      let c := (s.core p).now
      let starts (i : Instr) (halt : Bool) := ∃ t, exec i s = .next t ∧ t = { s with cores := t.cores, free := s.free + 1 } ∧
          (∀ q, q ≠ p → t.core q = s.core q) ∧
          (let r := (t.core p).now
           (t.core p).pre = r ∧ r.st = .running ∧ r.nextPc = v.toNat % 2048 ∧ r.fault = 0 ∧ r.stopping = none ∧ r.wheyBase = none ∧
           (∀ n, n < 8 → (r.loop n).active = false) ∧ r.sr 0 = 0 ∧
           (∀ i : BitVec 4, i ≠ 0 → r.sr i = BitVec.ofNat 64 (Config.free s.free i.toNat)) ∧
           r = { c with st := r.st, pc := r.pc, fault := r.fault, nextPc := r.nextPc, stopping := r.stopping, late := false,
                        wheyBase := r.wheyBase, startPc := v.setWidth 11, runReq := false, halt := halt, sregs := r.sregs,
                        vregs := r.vregs, loops := r.loops, whey := r.whey })
      (c.st ≠ .running → starts (.coreRun core v) (c.halt || v.getLsbD 17)) ∧
      (c.st = .running → exec (.coreRun core v) s =
        .next (s.modCore p (fun g => { g with startPc := v.setWidth 11, runReq := true, halt := g.halt || v.getLsbD 17 }))) ∧
      (c.st ≠ .running → v.getLsbD 16 = true ∨ c.runReq = true → starts (.coreHalt core v) true) ∧
      (c.st = .running ∨ (v.getLsbD 16 = false ∧ c.runReq = false) → exec (.coreHalt core v) s =
        .next (s.modCore p (fun g => { g with startPc := v.setWidth 11, runReq := g.runReq || v.getLsbD 16, halt := true })))) ∧
  ∀ (s : State) (core p : Nat), s.physOf core = some p →
    let c := (s.core p).now
    (exec (.pcEndStop core) s = .next (if c.st = .running ∧ c.stopping = none ∧ c.nextPc = 2048 then
      s.modCore p (fun g => { g with stopping := some E_CORE_OPERAND }) else s)) ∧
    (∀ code, c.st = .running → c.xfers = [] → (c.stopping = some code ∨ (c.stopping = none ∧ c.halt = true ∧ code = 0)) → c.run = none →
      c.runReq = false → (∀ e ∈ (s.clu (p / 26)).events, ∀ k, e ≠ .complete p k) →
      ∃ t, exec (.kernelComplete core) s = .next t ∧ t = { s with cores := t.cores, clus := t.clus, led := t.led } ∧
        (∀ q, q ≠ p → t.core q = s.core q) ∧ (∀ n, n ≠ p / 26 → t.clu n = s.clu n) ∧
        (∀ e ∈ (t.clu (p / 26)).events, e.core ≠ p) ∧
        (t.core p).now = { c with st := if code = 0 then .finished else .fault, fault := code, stopping := none, late := false,
                                  halt := false, wheyBase := none, work := [] }) ∧
    (c.st ≠ .running ∨ c.xfers ≠ [] → c.runReq = false ∨ c.st = .running → (∀ e ∈ (s.clu (p / 26)).events, ∀ k, e ≠ .complete p k) →
      exec (.kernelComplete core) s = .next s) ∧
    ∀ dir : BitVec 2,
      (c.st ≠ .running ∨ c.stopping ≠ none → exec (.haloTimeout core dir) s = .next s) ∧
      (c.st = .running → c.stopping = none → ∃ t, exec (.haloTimeout core dir) s = .next t ∧
        t = { s with cores := t.cores, clus := t.clus } ∧
        (∀ q, q ≠ p → (∀ k, s.haloPartner core p dir.toNat = some k → s.physOf k ≠ some q) → t.core q = s.core q) ∧
        (c.xfers = [] → (t.core p).now.st = .fault ∧ (t.core p).now.fault = E_HALO_TIMEOUT) ∧
        (c.xfers ≠ [] → (t.core p).now.stopping = some E_HALO_TIMEOUT) ∧
        ∀ k q, s.haloPartner core p dir.toNat = some k → s.physOf k = some q → q ≠ p →
          let d := (s.core q).now
          (d.awaits ((dir.toNat + 2) % 4) = true → d.xfers = [] → (t.core q).now.st = .fault ∧ (t.core q).now.fault = E_HALO_TIMEOUT) ∧
          (d.awaits ((dir.toNat + 2) % 4) = true → d.xfers ≠ [] → (t.core q).now.stopping = some E_HALO_TIMEOUT) ∧
          (d.awaits ((dir.toNat + 2) % 4) = false → t.core q = s.core q))

/-! Runs and steps (02 R60; 04 R113, R118; 05 R141, R153, R155; 07 R193; 12 R322, R323; 14 R359 to R361, R372 to R375). -/

/-- RUN_DISPATCH and PAGE_DESCRIPTOR_ISSUE. A core that runs, or for which nothing may start, is left alone; an LC run that may start is
chosen before any BE run (R361); a run whose part lies in a corrupt shard ends its step with E_WGT_CORRUPT instead (R323). Otherwise the
core starts the run at bundle 0, with its kernel in the instruction store, its rounding key and counter as R359 gives them and no page
descriptor left over; the run leaves the queue. A walk's next descriptor is issued while fewer than 8 wait, and counted (R141), its page
staged first where the layer has a staging region for pages (05 R143).
The choices made here are log entries 15 and 83. -/
def Obligations.RunsDispatch : Prop :=
  ∀ (s : State) (core p : Nat), s.physOf core = some p →
    let c := (s.core p).now
    (c.st = .running ∨ c.run.isSome = true ∨ s.nextRun core = none → exec (.runDispatch core) s = .next s) ∧
    (∀ r, s.nextRun core = some r → (∃ e ∈ s.eligible core, e.lc = true) → r.lc = true) ∧
    (∀ (r : Run) (t : Step) (b : Playbook) (l : Layer), c.st ≠ .running → c.run = none → s.nextRun core = some r →
      s.sch.steps.find? (fun t => t.same r.ctx r.step) = some t → AMap.find? s.book.books r.playbook = some b →
      b.plan.layers[r.layer]? = some l →
      (s.readsCorrupt r = true → exec (.runDispatch core) s = .next (s.failStep t E_WGT_CORRUPT none (ident 1 (core / 25)))) ∧
      (s.readsCorrupt r = false →
        let n := AMap.getD s.sch.dispatched 0 (dispatchKey r)
        let seed := match s.ctxRec r.ctx with | some x => x.seed | none => 0
        ∃ t', exec (.runDispatch core) s = .next t' ∧ t'.sch.queue = s.sch.queue.erase r ∧
          AMap.getD t'.sch.dispatched 0 (dispatchKey r) = n + 1 ∧ (∀ q, q ≠ p → t'.core q = s.core q) ∧
          (let g := (t'.core p).now
           g.st = .running ∧ g.nextPc = 0 ∧ g.stopping = none ∧ g.run = some { r with start := s.counter.toNat } ∧
           g.srKey = BitVec.ofNat 64 (Nat.xor (Nat.xor seed (r.step * 2 ^ 16 % 2 ^ 64)) r.core) ∧
           g.srCtr = BitVec.ofNat 64 (n * 2 ^ 32) ∧ g.pageQ = [] ∧ g.walkLeft = r.walk ∧ g.am = c.am ∧
           g.istore = Mem.wrBytes c.istore 0 ((match b.plan.kernels[r.kernel]? with | some k => k.bundles | none => []).flatMap
             (fun w : BitVec 128 => leBytes 16 w.toNat))))) ∧
    (c.walkLeft = [] ∨ 8 ≤ c.pageQ.length → exec (.pageDescriptorIssue core) s = .next s) ∧
    let done := exec (.pageDescriptorIssue core) s
    (∀ d rest, c.walkLeft = d :: rest → c.pageQ.length < 8 →
      let s := match c.run with | some r => s.stagePage p r d | none => s
      done = .next ((s.modCore p (fun g => { g with pageQ := g.pageQ ++ [d], walkLeft := rest })).modClu
        (core / 25) (fun k => { k with kvDesc := k.kvDesc + 1 })))

/-- What coaches do for the runs of a step. SHARD_RECALL asks for the recall of a held run's shard, counts it, and ends the step with
E_WGT_RECALL where it is refused (R322); a recall under way serves it. COACH_HALO_DELIVERY copies the source range of a one-way entry into
the neighbour's tile buffer and counts it there, the run's own entries and those of a run that has completed (R118). HUDDLE_GATHER
releases the consumers once the counter equals the contributor count, and not before (R155). MERGE_DISPATCH queues the merge runs of a
split once all its units have completed (R153; 08 R221): within the module at once, over a ring once this module has sent its records and
every record of its share has come.
The choices made here are log entries 15, 28, 72 and 83. -/
def Obligations.CoachesServeSteps : Prop :=
  ∀ (s : State),
    (∀ (core : Nat) (r : Run) (b : Nat) (h : Shard) (t : Step) (o : Obj),
      s.sch.queue.find? (fun r => decide (r.core = core) && r.parts.any (fun p => s.inCave p.1 p.2)) = some r →
      (r.parts.find? (fun p => s.inCave p.1 p.2)).bind (fun p => s.shardAt p.1) = some (b, h) →
      s.sch.steps.find? (fun t => t.same r.ctx r.step) = some t → AMap.find? s.tier.objs b = some o →
      let held (s : State) : State :=
        { s with sch := { s.sch with queue := s.sch.queue.map (fun x => if x = r then { x with recalled := true } else x) } }
      let under := ∃ m, o.move = some m ∧ m.req = none ∧ m.dest = h.recallTier
      let s1 := { s with wgt := { s.wgt with recalls := s.wgt.recalls + 1 } }
      let code := s1.moveCode b o h.recallTier
      (under → exec (.shardRecall core) s = .next (held s)) ∧
      (¬under → code ≠ 0 → exec (.shardRecall core) s = .next (s1.failStep t E_WGT_RECALL none (ident 1 (core / 25)))) ∧
      (¬under → code = 0 → exec (.shardRecall core) s = .next (held (s1.startMove b o h.recallTier none)))) ∧
    (∀ (core p q k : Nat) (r : Run) (w : W32) (b : Playbook) (t : Step) (h : HaloEnt) (l : Layer) (late : Bool),
      s.physOf core = some p →
      (late = false → (s.clu (p / 26)).owed.find? (fun e => decide (e.1 = p)) = none ∧ (s.core p).now.run = some r ∧
        (s.clu (p / 26)).events.find? (fun e => e.isHalo && decide (e.core = p)) = some (.signal p w)) →
      (late = true → (s.clu (p / 26)).owed.find? (fun e => decide (e.1 = p)) = some (p, w, r)) →
      AMap.find? s.book.books r.playbook = some b → s.sch.steps.find? (fun t => t.same r.ctx r.step) = some t →
      b.plan.halos[w.toNat % 2 ^ 16]? = some h → b.plan.layers[r.layer]? = some l → h.layer = l.layer → h.dir.testBit 2 = false →
      haloPeer (s.unitsFor r t b) core (h.dir % 4) = some k → s.physOf k = some q →
      let d := (h.dir % 4 + 2) % 4
      exec (.coachHaloDelivery core) s = .next (if (s.core q).now.haloCount d < 65535 then
        (s.modCore q (fun g => let g := (g.touch 1 [] [(h.dst, h.bytes)]).getD g
          { g.setHalo d (g.haloCount d + 1) with tb := Mem.wrBytes g.tb h.dst (Mem.rdBytes (s.core p).now.tb h.src h.bytes) })).modClu (p / 26)
            (fun c => if late then { c with owed := c.owed.erase (p, w, r) } else { c with events := c.events.erase (.signal p w) })
        else s)) ∧
    (∀ (court ctx step : Nat) (t : Step) (h : Huddle), s.stepAt court ctx step = some t → AMap.find? t.huddles t.layer = some h →
      let r := s.anyRead (umpAccess ctx) h.ctr 8
      let h1 := if h.ring then { h with stage := 1 } else { h with released := true }
      let idle := h.released = true ∨ t.left ≠ 0 ∨ t.status ≠ 0 ∨ (h.ring = true ∧ h.stage ≠ 0)
      (idle → exec (.huddleGather court ctx step) s = .next s) ∧
      (¬idle → r.2.1 ≠ 0 → exec (.huddleGather court ctx step) s = .next (r.1.failStep t r.2.1 none (ident 1 (s.leadCluster court)))) ∧
      (¬idle → r.2.1 = 0 → leNat r.2.2 ≠ h.need → exec (.huddleGather court ctx step) s = .next r.1) ∧
      (¬idle → r.2.1 = 0 → leNat r.2.2 = h.need → exec (.huddleGather court ctx step) s =
        .next ((r.1.putStep { t with huddles := AMap.insert t.huddles t.layer h1 }).advance ctx step (s.layersOf t + 1)).mark)) ∧
    (∀ (court ctx step : Nat) (t : Step) (b : Playbook) (l : Layer) (mg : Merging), s.stepAt court ctx step = some t →
      AMap.find? s.book.books t.playbook = some b → b.plan.layers[t.layer]? = some l → b.plan.merging l = some mg →
      let done := exec (.mergeDispatch court ctx step) s
      let due := t.mergeDue = true ∧ t.left = 0 ∧ t.status = 0
      let own := 16 * t.layer + s.ring.position
      (¬due → done = .next s) ∧
      (due → mg.ring l = false → done = .next (s.mergeNow t b mg)) ∧
      (due → mg.ring l = true → own ∈ t.mergeGot →
        done = .next (if s.recordsHere t b.plan mg l then s.mergeNow t b mg else s)) ∧
      (mg.scan = false → s.mergeRuns t b t.layer ≠ [] →
        let t1 := { t with mergeDue := false, merged := true, left := (s.mergeRuns t b t.layer).length }
        s.mergeNow t b mg = { s.putStep t1 with
          free := s.free + 1
          sch := { (s.putStep t1).sch with queue := s.sch.queue ++ s.mergeRuns t b t.layer } }))

/-- Steps form and end. STEP_FORM_ROSTER forms the step of the lane's context with a candidate whose last step was formed earliest
(R372), and only where the lane is free (R360); the loop of R372 never takes more entries than step_seqs, nor a sum above a maximum.
FIXED_STEP_FORM forms the first queued batch of its context (R375), and answers E_WGT_MIXED where its sequences are no longer bound to
the generation it was accepted with (12 R315). STEP_COMPLETE answers a batch, and every entry of the step takes its
outcome and the step's number: with success its pass advances modulo passes, its frame where the pass wraps, and its stream's number by
one where an update ran; with a fault none of these, and a stream whose update ran is lost (R374; 07 R193).
The choices made here are log entries 15, 31, 32 and 83. -/
def Obligations.StepsFormAndEnd : Prop :=
  ∀ (s : State),
    (∀ (court : Nat) (lc : Bool),
      let ok := s.courtDefined court = true ∧ s.rosterMode court = true ∧ s.awake court = true ∧ s.laneFree court lc = true
      (¬ok ∨ s.pickCtx court lc = none → exec (.stepFormRoster court lc) s = .next s) ∧
      (∀ ctx, ok → s.pickCtx court lc = some ctx →
        exec (.stepFormRoster court lc) s = .next (s.formFor court ctx lc).mark ∧
        s.candidates ctx ≠ [] ∧ s.mayForm court lc ctx = true ∧
        ∀ d, d ∈ s.sch.ctxs.map (·.1) → s.mayForm court lc d = true → s.candidates d ≠ [] →
          (s.ctxSt ctx).lastFormed ≤ (s.ctxSt d).lastFormed)) ∧
    (∀ (p : Plan) (limit : Nat) (es : List (Nat × Seq)) (r : Picked), r.taken.length ≤ limit → p.exceeds r.sv = false →
      (pickLoop p limit es r).taken.length ≤ limit ∧ p.exceeds (pickLoop p limit es r).sv = false ∧
      ∃ more, (pickLoop p limit es r).taken = r.taken ++ more ∧ more.Sublist es) ∧
    (∀ (ctx : Nat) (b : Batch) (rest : List Batch), (s.ctxSt ctx).queue = b :: rest →
      let lc := match s.ctxRec ctx with | some r => r.lc | none => false
      let ready := s.mayForm (s.courtOf ctx) lc ctx = true ∧ s.awake (s.courtOf ctx) = true ∧ s.laneFree (s.courtOf ctx) lc = true ∧
        s.batchReady b = true
      let mixed := ∃ e ∈ b.ents, ∃ q, s.seq e.seq = some q ∧ q.gen ≠ b.gen
      let s1 := s.setCtx ctx { s.ctxSt ctx with queue := rest }
      let ents := b.ents.map (fun e => match s.seq e.seq with
        | some q => { e with sealFlag := e.sealFlag || q.isFuture, sv := q.vector }
        | none => e)
      (¬ready → exec (.fixedStepForm ctx) s = .next s) ∧
      (ready → mixed → exec (.fixedStepForm ctx) s =
        .next ((s1.answer b.req E_WGT_MIXED (leBytes 2 0 ++ leBytes 8 0 ++ leBytes 2 0xFFFF)).disengage ctx).mark) ∧
      (ready → ¬mixed → (∀ e ∈ b.ents, ∀ q, s.seq e.seq = some q → q.playbook = b.playbook) →
        exec (.fixedStepForm ctx) s =
          .next (match s1.formStep (s.courtOf ctx) ctx lc b.playbook b.shape ents b.modes (some b.req) with
            | some t => t.mark
            | none => s))) ∧
    (∀ (court ctx step : Nat) (t : Step), s.stepAt court ctx step = some t →
      (t.done = false → exec (.stepComplete court ctx step) s = .next s) ∧
      (t.done = true → ∃ v : State, v.sch.steps = s.sch.steps.filter (fun x => !x.same ctx step) ∧
        exec (.stepComplete court ctx step) s = .next ((match t.batch with
          | none => v
          | some r => v.answer r t.status (leBytes 2 0 ++ leBytes 8 t.num ++
              leBytes 2 (if t.status = 0 then 0xFFFF else t.failAt.getD 0xFFFF))).disengage ctx).mark)) ∧
    ∀ (t : Step) (e : StepEnt) (q : Seq), s.seq e.seq = some q → ∃ q', (s.endEntry t e).seq e.seq = some q' ∧
      q'.lastStatus = t.status ∧ q'.served = (if t.num % 2 ^ 32 = 0 then 1 else t.num % 2 ^ 32) ∧
      (t.status = 0 → q'.steps = q.steps + 1 ∧
        (q.pass + 1 < q.passes → q'.pass = q.pass + 1 ∧ q'.frame = q.frame) ∧
        (q.passes ≤ q.pass + 1 → q'.pass = 0 ∧ q'.frame = (q.frame + q.chunk) % 2 ^ 32) ∧
        (t.updated.contains e.seq = true → q'.stream = { q.stream with seqNo := q.stream.seqNo + 1 }) ∧
        (t.updated.contains e.seq = false → q'.stream = q.stream)) ∧
      (t.status ≠ 0 → q'.steps = q.steps ∧ q'.pass = q.pass ∧ q'.frame = q.frame ∧
        (t.updated.contains e.seq = true → q'.stream = { q.stream with st := .lost }) ∧
        (t.updated.contains e.seq = false → q'.stream = q.stream))

/-! The fallback monitor, culture tables, replacements and repair (03 R89, R90; 04 R123; 06 R170, R171; 02 R62, R63; 20 R504, R505). -/

/-- FALLBACK_WINDOW_END takes the rate of a complete window in parts per million, 0 without elements, clears the window's counts, and
switches the layer where the monitor is enabled, the mode is primary, at least 65,536 elements were quantised and the rate is above the
threshold; no other layer's record changes (R89). TABLE_BANK_SWAP swaps the banks of a slot whose swap is pending, on that core only
(R170), once its court's clock runs. PLAYBOOK_INSTALL waits for the steps of the playbook it replaces, for that playbook's own
installation and for a replacement accepted before; then the new one is in service under its own identifier, with the set of the old one,
the old one is gone, and a later replacement of the old one replaces the new one (R123). It waits also where a stream that the old one
holds, or a score table, finds no place.
The choices made here are log entries 22, 73 and 81. -/
def Obligations.MonitorTablesAndInstalls : Prop :=
  ∀ (s : State),
    (∀ (court layer : Nat) (r : FbRec), s.fbRec court layer = some r →
      let trig := s.book.fbEnable = true ∧ r.fallback = false ∧ 65536 ≤ r.elems ∧ r.threshold * r.elems < r.sat * 1000000
      (r.policy ≠ 0 ∨ r.steps < s.windowOf r → exec (.fallbackWindowEnd court layer) s = .next s) ∧
      (r.policy = 0 → s.windowOf r ≤ r.steps → ∃ t f, exec (.fallbackWindowEnd court layer) s = .next t ∧
        t = { s with book := { s.book with fb := AMap.insert s.book.fb (4096 * court + layer) f }, ump := t.ump } ∧
        f = { r with fallback := f.fallback, sat := 0, elems := 0, steps := 0, lastRate := f.lastRate, windows := r.windows + 1 } ∧
        f.lastRate = (if r.elems = 0 then 0 else r.sat * 1000000 / r.elems) ∧
        (f.fallback = true ↔ r.fallback = true ∨ trig) ∧ (¬trig → t.ump = s.ump))) ∧
    (∀ (core p : Nat) (slot : BitVec 3), s.physOf core = some p →
      let b := (s.core p).now.tab slot.toNat
      let gated := ∃ k, s.courtOfDie (dieOfCore core) = some k ∧ s.courtGated k = true
      (gated → exec (.tableBankSwap core slot) s = .next s) ∧
      (¬gated → ∃ t, exec (.tableBankSwap core slot) s = .next t ∧ t = { s with cores := t.cores, ump := t.ump, book := t.book } ∧
        (∀ q, q ≠ p → t.core q = s.core q) ∧
        (t.core p).now = { (s.core p).now with tabs := (t.core p).now.tabs } ∧
        (t.core p).now.tab slot.toNat = (if b.pend then ⟨b.shadow, b.act, false, !b.bank⟩ else b) ∧
        (∀ k, k ≠ slot.toNat → (t.core p).now.tab k = (s.core p).now.tab k))) ∧
    (∀ (new : Nat) (b o : Playbook), AMap.find? s.book.books new = some b → AMap.find? s.book.books b.replaces = some o →
      let waits := b.installed = true ∨ o.installed = false ∨ (∃ t ∈ s.sch.steps, t.playbook = b.replaces) ∨
        ∃ e ∈ s.book.books, e.1 < new ∧ e.2.installed = false ∧ e.2.replaces = b.replaces
      let after (t : State) := AMap.find? t.book.books new = some { b with installed := true, replaces := 0, set := o.set } ∧
        AMap.find? t.book.books b.replaces = none ∧
        ∀ k, k ≠ new → k ≠ b.replaces → AMap.find? t.book.books k =
          (AMap.find? s.book.books k).map (fun x => if x.replaces = b.replaces then { x with replaces := new } else x)
      (waits → exec (.playbookInstall new) s = .next s) ∧
      (¬waits → new ≠ b.replaces → b.replaces ≠ 0 → exec (.playbookInstall new) s = .next s ∨
        ∃ t, exec (.playbookInstall new) s = .next t ∧ after t) ∧
      (¬waits → new ≠ b.replaces → b.replaces ≠ 0 → b.plan.scored = false → (∀ e ∈ s.seqsOf b.replaces, e.2.stream.slot = none) →
        ∃ t, exec (.playbookInstall new) s = .next t ∧ after t))

/-- Core failures (02 R62, R63; 20 R504, R505). A core declared failed, by CORE_FAIL_DECLARE or CORE_ANSWER_TIMEOUT, joins its cluster's
failed positions and loses its contents; a second failure of the cluster, other than of the idle spare alone, marks the cluster
degraded. SPARE_REMAP gives the one failed position to the spare, which answers under its logical number from then on; nothing is
remapped otherwise; the spare's instruction store takes the cluster's kernel image from the staging buffer. CORE_STORE_TEST reads every
word of the stores of a core that stopped with E_CORE_ECC: it is declared failed where the test finds an uncorrectable word, and else
keeps its stores corrected. The words upset before the test are the command's own operand.
The choices made here are log entries 27, 71 and 79. -/
def Obligations.CoresFailAndAreReplaced : Prop :=
  ∀ (s : State),
    (∀ (i : Instr) (p : Nat), i = .coreFailDeclare p ∨ i = .coreAnswerTimeout p →
      let c := s.clu (p / 26)
      let pos := p % 26
      let idle := pos = 25 ∧ c.spareUsed = false
      let second := if idle then c.failed ≠ [] else c.spareUsed = true ∨ c.failed ≠ []
      (26000 ≤ p ∨ pos ∈ c.failed → exec i s = .next s.mark) ∧
      (p < 26000 → pos ∉ c.failed → ∃ t, exec i s = .next t ∧ (t.core p) = Core.reset ∧ (∀ q, q ≠ p → t.core q = s.core q) ∧
        (∀ n, n ≠ p / 26 → t.clu n = s.clu n) ∧ (t.clu (p / 26)).failed = c.failed ++ [pos] ∧
        ((t.clu (p / 26)).degraded = true ↔ c.degraded = true ∨ second))) ∧
    (∀ (cluster pos : Nat), (s.clu cluster).failed = [pos] → cluster < 1000 → (s.clu cluster).spareUsed = false → pos < 25 →
      ∃ t, exec (.spareRemap cluster) s = .next t ∧ t.physOf (25 * cluster + pos) = some (26 * cluster + 25) ∧
        t.logicalOf (26 * cluster + 25) = some (25 * cluster + pos) ∧ (∀ q, q ≠ 26 * cluster + 25 → t.core q = s.core q) ∧
        (t.core (26 * cluster + 25)).now.st = .idle ∧
        (∀ k, s.courtOfDie (cluster / 25) = some k → (t.core (26 * cluster + 25)).now.istore = s.imageStore k cluster) ∧ ∀ n, n ≠ cluster → t.clu n = s.clu n) ∧
    (∀ cluster, (∀ pos, (s.clu cluster).failed ≠ [pos]) ∨ (s.clu cluster).spareUsed = true → exec (.spareRemap cluster) s = .next s.mark) ∧
    (∀ (p : Nat) (us : List (Nat × Nat × BitVec 72)), p < 26000 → p % 26 ∉ (s.clu (p / 26)).failed →
      let s1 := s.upsetStores p us
      let c := (s1.core p).now
      let due := c.st = .fault ∧ c.fault = E_CORE_ECC
      (¬due → exec (.coreStoreTest p us) s = .next s1) ∧
      (due → c.readAll = none → exec (.coreStoreTest p us) s = exec (.coreFailDeclare p) s1) ∧
      (∀ d, due → c.readAll = some d → exec (.coreStoreTest p us) s = .next (s1.setCore p ⟨d, d⟩)))

/-! Streams, futures, contexts and update steps (07 R195 to R203; 09 R226 to R240; 12 R312; 13 R339 to R352; 14 R365 to R367, R381). -/

/-- Moves, exports and imports of a stream. SLOT_MOVE copies a resident stream's tiles into a free usable slot of its playbook, which it
holds from then on; no other sequence changes (R196). STATE_EXPORT_EFFECT starts the copy at the sequence's boundary, or answers
E_STATE_LOST (R195). STATE_EXPORT_COMPLETE writes the image at the destination and answers with the state sequence number and the
length: the stream stays, is parked there, or its sequence ends (R203); a stream lost meanwhile answers E_STATE_LOST (R195). STATE_IMPORT_COMPLETE makes the stream resident with the image's
tiles and number, or answers the code of the check that fails and leaves the stream (R199).
The choices made here are log entry 65. -/
def Obligations.StreamCopies : Prop :=
  ∀ (s : State) (i : Nat) (q : Seq) (b : Playbook), s.seq i = some q → s.bookOf q = some b →
    (∀ (k slot : Nat), q.stream.slot = some k →
      let ok := q.stream.st = .resident ∧ s.atBoundary i q = true ∧ s.slotHeld q.playbook slot = false ∧ slot < b.plan.slotCount ∧
        s.slotUsable (s.court b.court) b.plan slot = true
      (¬ok → exec (.slotMove i slot) s = .next s) ∧
      (ok → ∃ t, exec (.slotMove i slot) s = .next t ∧ t = { s with cores := t.cores, sch := { s.sch with seqs := t.sch.seqs } } ∧
        t.cores = (s.writeTiles (s.court b.court) b.plan slot (s.readTiles (s.court b.court) b.plan k)).cores ∧
        t.seq i = some { q with stream := { q.stream with slot := some slot } } ∧ ∀ j, j ≠ i → t.seq j = s.seq j)) ∧
    (∀ (r : Req) (mode dest : Nat) (rest : List Wait), q.waits = .exporting r mode dest :: rest →
      exec (.stateExportEffect i) s = .next (if s.atBoundary i q = false then s
        else if q.stream.st = .lost then ((s.popWait i).refuse r E_STATE_LOST 22).mark
        else s.setSeq i { q with waits := rest, copy := some ⟨true, r, mode, dest, 0, false, 0, false⟩ })) ∧
    (∀ (c : Copy), q.copy = some c → c.isExport = true →
      let d := s.streamTilesOf q b
      let s1 := d.1.modSeq i (fun q => { q with copy := none })
      let img := b.plan.image q.stream.seqNo q.playbook q.gen true d.2.2
      let w := s1.objWrite c.req.access c.addr img
      let u := (w.1.chargeBytes (lineOf q.ctx) true c.addr img.length).answer c.req 0
        (leBytes 6 0 ++ leBytes 8 q.stream.seqNo.toNat ++ leBytes 8 img.length)
      (q.stream.st = .lost → exec (.stateExportComplete i) s = .next (s1.refuse c.req E_STATE_LOST 22).mark) ∧
      (q.stream.st ≠ .lost → d.2.1 ≠ 0 → exec (.stateExportComplete i) s = .next (s1.refuse c.req d.2.1 22).mark) ∧
      (q.stream.st ≠ .lost → d.2.1 = 0 → w.2 ≠ 0 → exec (.stateExportComplete i) s = .next (w.1.refuse c.req w.2 22).mark) ∧
      (q.stream.st ≠ .lost → d.2.1 = 0 → w.2 = 0 →
        (c.mode = 0 → exec (.stateExportComplete i) s = .next u.mark) ∧
        (c.mode = 1 → exec (.stateExportComplete i) s = .next ((u.dropStream i).modSeq i (fun q => { q with
          stream := { q.stream with st := .benched, image := some c.addr }, benchedAt := s.counter.toNat })).mark) ∧
        (c.mode = 2 → exec (.stateExportComplete i) s = .next (u.endSeq i).1.mark))) ∧
    (∀ (c : Copy), q.copy = some c → c.isExport = false →
      let d := s.importCheck c.req q b c.addr c.len c.check c.expect
      let s0 := d.1.modSeq i (fun q => { q with copy := none })
      let s1 := if c.took then s0.modSeq i (fun q => { q with stream := { q.stream with slot := none } }) else s0
      (s.inStep i = true → exec (.stateImportComplete i) s = .next s) ∧
      (s.inStep i = false → d.1.slotFor q = none → exec (.stateImportComplete i) s = .next (s1.refuse c.req E_STATE_NOSLOT 14).mark) ∧
      (∀ k, s.inStep i = false → d.1.slotFor q = some k →
        (d.2.1 ≠ 0 → exec (.stateImportComplete i) s = .next (s1.refuse c.req d.2.1 14).mark) ∧
        (d.2.1 = 0 → ∃ t, exec (.stateImportComplete i) s = .next (t.answer c.req 0 (leBytes 6 0 ++ leBytes 8 d.2.2.2.toNat)).mark ∧
          t = (s1.chargeBytes (lineOf q.ctx) false c.addr c.len).installStream i k b d.2.2.1 d.2.2.2 ∧
          ∀ q', t.seq i = some q' → q'.stream.st = .resident ∧ q'.stream.slot = some k ∧ q'.stream.seqNo = d.2.2.2 ∧
            q'.stateSeq = d.2.2.2 ∧ q'.runs = 0 ∧ q'.stream.image = none ∧ q'.stream.bench = none)))

/-- Rotation (R237). STREAM_PARK gives up the slot of a resident stream at its boundary, once it has run its number of steps or has no
step ready, where another stream of its playbook waits on the bench and no slot is free; its state becomes a bench image, in the cave
where none fits in fresh and the programming budget allows it (R365). STREAM_ROTATE_IMPORT brings back the stream benched longest, the
lower roster index on a tie, a caved image by way of the return buffer (14 R367); an image that cannot be read leaves it benched.
The choices made here are log entry 65. -/
def Obligations.StreamRotation : Prop :=
  ∀ (s : State),
    (∀ (i : Nat) (q : Seq) (b : Playbook), s.seq i = some q → s.bookOf q = some b →
      let park := q.hasStream = true ∧ q.stream.st = .resident ∧ s.atBoundary i q = true ∧ q.quiet = true ∧
        (b.plan.runSteps ≤ q.runs ∨ s.wantsStep i q = false) ∧ s.freeSlot q.playbook = none ∧ ∃ e ∈ s.benchWaiters, e.2.playbook = q.playbook
      (¬park → exec (.streamPark i) s = .next s) ∧
      (∀ t, park → s.benchSeq i = some t → exec (.streamPark i) s = .next t.mark) ∧
      (∀ t, park → s.benchSeq i = none → s.caveSeq i = some t → exec (.streamPark i) s = .next (if s.inBudget t = true then t.mark else s)) ∧
      (park → s.benchSeq i = none → s.caveSeq i = none → exec (.streamPark i) s = .next s)) ∧
    (∀ (court i k : Nat) (q : Seq) (b : Playbook) (l1 l2 : List (Nat × Seq)),
      s.benchWaiters.filter (fun e => decide (e.2.court = court) && (s.freeSlot e.2.playbook).isSome) = l1 ++ (i, q) :: l2 →
      (∀ e ∈ l1, q.benchedAt < e.2.benchedAt) → (∀ e ∈ l2, q.benchedAt ≤ e.2.benchedAt) →
      s.bookOf q = some b → s.freeSlot q.playbook = some k →
      let t := s.importTiles q b
      exec (.streamRotateImport court) s = .next (if t.2.1 ≠ 0 then t.1 else (t.1.installStream i k b t.2.2 q.stream.seqNo).mark))

/-- What takes effect at the boundary of a sequence waits until it is in no step and no copy of its stream runs. A seal seals every page
of the list and no other (R227). A prune ends the future, and orders the prune of every live future below it that no prune is accepted
for where the subtree flag is set (R233, R234). MSG_SEQ_END ends the sequence (R381). A sequence that has ended is no longer live. A repin moves the pin to the
set's current generation, or is refused where that is corrupt or there is none (12 R312).
The choices made here are log entry 65. -/
def Obligations.SequenceBoundaries : Prop :=
  ∀ (s : State) (i : Nat) (q : Seq), s.seq i = some q →
    (∀ x, x = .sealEffect i ∨ x = .pruneEffect i ∨ x = .seqEndEffect i ∨ x = .repinEffect i ∨ x = .branchEffect i →
      s.atBoundary i q = false → exec x s = .next s) ∧
    (s.atBoundary i q = true →
      (∀ (r : Req) (rest : List Wait), q.waits = .sealPages r :: rest →
        ∃ t : State, exec (.sealEffect i) s = .next (t.answer r 0 (leBytes 2 0 ++ leBytes 4 (s.openPages q).length ++
            leBytes 4 (((s.openPages q).map (fun e => 256 - e.2.fill)).sum))).mark ∧
          t = { s with sch := { s.sch with pages := t.sch.pages, seqs := t.sch.seqs } } ∧
          (∀ k, t.page k = if k ∈ q.pageKeys then (s.page k).map (fun p => { p with isSealed := true }) else s.page k) ∧
          t.seq i = some { q with waits := rest } ∧ ∀ j, j ≠ i → t.seq j = s.seq j) ∧
      (∀ (g : Nat) (subtree : Bool) (rest : List Wait), q.waits = .prune g subtree :: rest →
        let ds := if subtree then ((s.descendants q.future).filter (fun e => !e.2.pruning)).map (·.1) else []
        let s1 := ds.foldl (fun s k => s.orderPrune g k true) (s.popWait i)
        let e := ({ s1 with sch := { s1.sch with
          prunes := AMap.adjust s1.sch.prunes g (fun p => { p with left := p.left + ds.length }) } }).endSeq i
        exec (.pruneEffect i) s = .next (e.1.pruneDone g 1 e.2).mark ∧ e.1.seq i = none) ∧
      (∀ (r : Req) (rest : List Wait), q.waits = .fin r :: rest →
        ∃ t : State, exec (.seqEndEffect i) s = .next (t.answer r 0 (leBytes 2 0 ++ leBytes 4 q.tokens)).mark ∧
          t = ((s.popWait i).endSeq i).1 ∧ t.seq i = none) ∧
      (∀ (r : Req) (rest : List Wait), q.waits = .repin r :: rest →
        let cur := s.currentGen (s.setOfSeq q)
        let s1 := s.setSeq i { q with waits := rest }
        exec (.repinEffect i) s = .next (
          if q.gen = cur then (s1.answer r 0 (leBytes 2 0 ++ leBytes 4 q.gen ++ leBytes 4 cur)).mark
          else if cur = 0 then (s1.refuse r E_WGT_STATE 10).mark
          else if s.genCorrupt (s.setOfSeq q) cur = true then (s1.refuse r E_WGT_CORRUPT 10).mark
          else (((s.setSeq i { q with waits := rest, gen := cur }).pinsFell (s.setOfSeq q) q.gen 0).answer r 0
            (leBytes 2 0 ++ leBytes 4 q.gen ++ leBytes 4 cur)).mark)))

/-- A branch at the boundary of its parent (R226 to R230). It is refused whole, its children dropped, where the parent's stream is lost,
then where an open page is left and no seal was asked for. Otherwise the ids of the children are written at the destination, the parent's
pages are sealed where that was asked, one image of a resident parent's stream is made for all its children, and every child takes the
parent's entry: its page list with a reference more for each page, its
generation, adapter, frame and state sequence number, and the parent as its parent, one level deeper.
The choices made here are log entry 65. -/
def Obligations.BranchesBearChildren : Prop :=
  (∀ (s : State) (i : Nat) (q : Seq) (b : Playbook) (r : Req) (sealFlag : Bool) (dest : Nat) (is : List Nat) (rest : List Wait),
    s.seq i = some q → s.bookOf q = some b → q.waits = .branch r sealFlag dest is :: rest → s.atBoundary i q = true →
    let d := if q.hasStream then s.streamTilesOf q b else (s, 0, [])
    let ids := d.1.futureIds is.length d.1.sch.nextFuture
    let w := d.1.objWrite r.access dest ((is.zip ids).flatMap (fun e => leBytes 2 e.1 ++ leBytes 2 0 ++ leBytes 4 e.2))
    let no (s : State) (c : Code) : State := ((((s.popWait i).dropChildren is).settleBranches i).refuse r c 14).mark
    let m := if q.hasStream then w.1.branchImage i q b d.2.2 else some (w.1, none)
    (q.hasStream = true → q.stream.st = .lost → exec (.branchEffect i) s = .next (no s E_STATE_LOST)) ∧
    (¬(q.hasStream = true ∧ q.stream.st = .lost) → sealFlag = false → s.openPages q ≠ [] →
      exec (.branchEffect i) s = .next (no s E_FUTURE_OPEN)) ∧
    (¬(q.hasStream = true ∧ q.stream.st = .lost) → (sealFlag = true ∨ s.openPages q = []) →
      (d.2.1 ≠ 0 → q.stream.image = none → exec (.branchEffect i) s = .next (no d.1 d.2.1)) ∧
      (d.2.1 = 0 ∨ q.stream.image ≠ none →
        (w.2 ≠ 0 → exec (.branchEffect i) s = .next (no w.1 w.2)) ∧
        (w.2 = 0 → m = none → exec (.branchEffect i) s = .next (no w.1 E_OBJ_SPACE)) ∧
        (∀ x, w.2 = 0 → m = some x → exec (.branchEffect i) s =
          .next ((if sealFlag then x.1.sealAll q else x.1).bearAll r i q b is d.2.2 (decide (d.2.1 = 0)) x.2))))) ∧
  (∀ (s : State) (c : Nat) (p x : Seq), s.seq c = some x →
    (∃ k y, AMap.find? (s.bearChild p c).sch.parents k = some p.future ∧ (s.bearChild p c).sch.nextFuture = k + 1 ∧
      (s.bearChild p c).seq c = some y ∧
      (p.pages.Pairwise (fun a b => a.1 < b.1) → ∀ n, AMap.find? y.pages n = ((AMap.find? p.pages n).orElse (fun _ => AMap.find? x.pages n))) ∧
      y = { x with
        st := 2, gen := p.gen, adapter := p.adapter, frame := p.frame, pass := p.pass, contrib := p.contrib, stateSeq := p.stateSeq
        pages := y.pages, leaves := y.leaves, nextSlot := p.nextSlot, chunkSlot := p.chunkSlot, chunkFrame := p.chunkFrame
        isFuture := true, future := k, parent := p.future, family := if p.family = 0 then k else p.family
        depth := min (p.depth + 1) 65535 }) ∧
    (∀ j, j ≠ c → (s.bearChild p c).seq j = s.seq j) ∧
    (p.pageKeys.Nodup → ∀ k, (s.bearChild p c).page k = if k ∈ p.pageKeys then (s.page k).map (fun g => { g with refs := g.refs + 1 }) else s.page k))

/-- Steps of the update engine (13 R339 to R352). At a boundary of its context with its court awake, a waiting step is checked: refused
with the first code of R347, nothing read or written; else its masks are read (a fault there ends it), and it runs. Its completion runs
every layer in the plan's order: without a fault the plan's next step advances; a fault after a write leaves the plan torn, one before any
write leaves it as it was (R348). The counters move by what the step did, and the response follows; a tile frozen whole is neither read
nor written (R344). A core failure while it runs ends it after a free number of its writes (log entry 85).
The choices made here are log entries 38, 39 and 85. -/
def Obligations.UpdateSteps : Prop :=
  (∀ (s : State) (plan : Nat) (p : UpdPlan), AMap.find? s.upd.plans plan = some p →
    (p.waiting = none → exec (.updateStepEffect plan) s = .next s) ∧
    (∀ r, p.waiting = some r →
      let may := s.ctxBusy p.ctx = false ∧ (∀ e ∈ s.upd.plans, e.2.ctx = p.ctx → e.2.running = none) ∧ s.awake p.court = true
      let c := s.updCheck p
      let m := s.readMasks p p.layers
      let ended (s : State) (c : Code) : State :=
        (((s.setPlan plan { p with waiting := none }).answer r c (leBytes 14 0)).settleRelease plan).mark
      (¬may → exec (.updateStepEffect plan) s = .next s) ∧
      (may → c ≠ 0 → exec (.updateStepEffect plan) s = .next (ended s c)) ∧
      (may → c = 0 → m.2.1 ≠ 0 → exec (.updateStepEffect plan) s = .next (ended m.1 m.2.1)) ∧
      (may → c = 0 → m.2.1 = 0 → exec (.updateStepEffect plan) s =
        .next (m.1.setPlan plan { p with waiting := none, running := some (r, s.counter.toNat), masks := m.2.2, failed := none }))) ∧
    (p.running = none → exec (.updateStepComplete plan) s = .next s) ∧
    (∀ (r : Req) (since : Nat), p.running = some (r, since) →
      let x := s.updRun p
      ∃ t : State, t = { x.s with free := t.free, led := t.led, upd := t.upd } ∧
        exec (.updateStepComplete plan) s = .next ((t.answer r x.code
          (leBytes 2 x.refreshed ++ leBytes 4 x.tiles ++ leBytes 4 x.frozen ++ leBytes 4 x.bad)).settleRelease plan).mark ∧
        t.upd.plans = AMap.insert x.s.upd.plans plan { p with
          running := none, next := if x.code = 0 then p.next + 1 else p.next, torn := decide (x.code ≠ 0) && x.wrote
          lastRefresh := if x.refreshed = 0 then p.lastRefresh else some p.next
          residual := if x.refreshed = 0 then p.residual else x.residual } ∧
        t.upd.steps = x.s.upd.steps + (if x.code = 0 then 1 else 0) ∧ t.upd.tiles = x.s.upd.tiles + BitVec.ofNat 64 x.tiles ∧
        t.upd.refreshes = x.s.upd.refreshes + BitVec.ofNat 32 x.refreshed ∧ t.upd.skips = x.s.upd.skips + BitVec.ofNat 32 x.skips ∧
        t.upd.nonfinite = x.s.upd.nonfinite + BitVec.ofNat 64 x.bad ∧
        (p.failed.isSome = true → x.code ≠ 0) ∧
        (p.failed = none → x = (p.layers.zip p.masks).foldl (UpdRun.layer p) ⟨s, 0, false, none, 0, 0, 0, 0, 0, 0⟩))) ∧
  (∀ (p : UpdPlan) (l : UpdLayer) (mask : List Byte) (dir : Option Mat) (x : UpdRun) (t : Nat),
    x.code = 0 → (UpdRun.frozenRows l mask t).all id = true →
    UpdRun.tile p l mask dir x t = { x with frozen := x.frozen + 1 })

/-- Residency (R356, R357, R365 to R367). CONTEXT_ADMIT_SLOT gives the lowest free of the 128 residency slots to the first waiter: a
waiter of class LC before any of class BE, then the one runnable longest. CONTEXT_BENCH and CONTEXT_CAVE take the slot of the context
blocked longest only where no slot is free and a context waits; its streams are parked first, and it is caved, with its bench images and
the blocks of its pages and page lists, where a bench image does not fit and the programming budget allows it. CONTEXT_RETURN brings a
caved context's page blocks back; until then it runs nothing.
The choices made here are log entries 30, 58 and 63. -/
def Obligations.ContextsTakeAndLeaveSlots : Prop :=
  ∀ (s : State),
    (s.firstWaiter = none ∨ s.freeResidency = none → exec .contextAdmitSlot s = .next s) ∧
    (∀ c k, s.firstWaiter = some c → s.freeResidency = some k →
      exec .contextAdmitSlot s = .next (s.setCtx c { s.ctxSt c with
        st := 1, slot := k, returned := (s.ctxSt c).returned && decide ((s.ctxSt c).st ≠ 3), runnableAt := 0 }).mark ∧
      k < 128 ∧ k ∉ s.slotsUsed ∧ (∀ j, j < k → j ∈ s.slotsUsed) ∧
      ∀ e ∈ s.sch.ctxs, 2 ≤ e.2.st → e.2.runnableAt ≠ 0 → (s.ctxLc e.1 = true → s.ctxLc c = true) ∧
        (s.ctxLc e.1 = s.ctxLc c → (s.ctxSt c).runnableAt ≤ (s.ctxSt e.1).runnableAt)) ∧
    (∀ ctx,
      let turn := s.freeResidency = none ∧ s.firstWaiter ≠ none ∧ s.longestBlocked = some ctx ∧ ∀ e ∈ s.seqsIn ctx, e.2.copy = none
      (¬turn → exec (.contextBench ctx) s = .next s ∧ exec (.contextCave ctx) s = .next s) ∧
      (turn → (∀ e ∈ s.sch.ctxs, e.2.st = 1 → e.2.blockedAt ≠ 0 → (s.ctxSt ctx).blockedAt ≤ (s.ctxSt e.1).blockedAt) ∧
        (∀ t, s.benchAll ctx = some t → exec (.contextCave ctx) s = .next s ∧
          exec (.contextBench ctx) s = .next (({ t with sch := { t.sch with benchings := t.sch.benchings + 1 } }).leaveSlot ctx 2)) ∧
        (s.benchAll ctx = none → exec (.contextBench ctx) s = .next s ∧
          (s.parkStreams ctx = none → exec (.contextCave ctx) s = .next s) ∧
          (∀ s1, s.parkStreams ctx = some s1 →
            let s2 := (s1.freshBenches ctx).foldl (fun s b => s.caveBench (lineOf ctx) b) s1
            let s3 := (s2.pageBlocksOf ctx).foldl (fun s b => s.caveBlock (lineOf ctx) b false) s2
            (s.inBudget s3 = false → exec (.contextCave ctx) s = .next s) ∧
            (s.inBudget s3 = true → exec (.contextCave ctx) s =
              .next (({ s3 with sch := { s3.sch with cavings := s3.sch.cavings + 1 } }).leaveSlot ctx 3))))) ∧
      ((s.ctxSt ctx).st ≠ 1 ∨ (s.ctxSt ctx).returned = true → exec (.contextReturn ctx) s = .next s) ∧
      ((s.ctxSt ctx).st = 1 → (s.ctxSt ctx).returned = false →
        let s1 := (s.pageBlocksOf ctx).foldl (fun s b => s.returnBlock (lineOf ctx) b) s
        ∃ back, exec (.contextReturn ctx) s = .next (s1.setCtx ctx { s1.ctxSt ctx with returned := back }).mark ∧
          (back = true ↔ ∀ b ∈ s1.pageBlocksOf ctx, ∀ n img lost, AMap.find? s1.tier.blocks b ≠ some (.cave n img lost))))

/-! Channels, tiers, the cave and digests (10 R256 to R266; 11 R281 to R297; 12 R307, R323). -/

/-- Scrub, counting hours and map-outs. COUNTING_HOUR clears every channel's counts for the trigger (R263). PATROL_SCRUB sweeps the words
of a channel that are not fresh codewords, and counts a sweep when every channel not mapped out has swept (R256, R257). A map-out starts
automatically where a channel passes its limits and no rule refuses it (R263); the channels that met E_MAP_BUSY are all tried again, in
order, when a map-out ends. It then goes through its steps: the addresses vacated, once nothing stands in them and every accepted move and
creation still has its room below them, or the map-out abandoned with E_TIER_NOROOM; each slice moved to the free slot found for it, every other slice staying where it is; each bucket
given as its home the live channel with the fewest homes; the channel mapped out (R264).
The choices made here are log entry 67. -/
def Obligations.ChannelsSweptAndMappedOut : Prop :=
  ∀ (s : State),
    (∃ t, exec .countingHour s = .next t ∧ t = { s with mem := { s.mem with chans := t.mem.chans } } ∧
      ∀ c, t.chan c = { s.chan c with ceHour := 0, ueHour := 0 }) ∧
    (∀ (c : Nat) (ups : List (Nat × BitVec 72)),
      let s1 := s.upsetAll c ups
      (512 ≤ c → exec (.patrolScrub c ups) s = .next s) ∧
      (c < 512 → s1.mem.scrubOn = false ∨ (s1.chan c).st = 3 → exec (.patrolScrub c ups) s = .next s1) ∧
      (c < 512 → s1.mem.scrubOn = true → (s1.chan c).st ≠ 3 →
        let s2 := s1.sweepChan c
        ((∃ k < 512, (s2.chan k).swept = false ∧ (s2.chan k).st ≠ 3) → exec (.patrolScrub c ups) s = .next s2) ∧
        ((∀ k < 512, (s2.chan k).swept = true ∨ (s2.chan k).st = 3) → ∃ t, exec (.patrolScrub c ups) s = .next t ∧
          t = { s2 with mem := t.mem } ∧ t.mem.sweeps = s2.mem.sweeps + 1 ∧ ∀ k, t.chan k = { s2.chan k with swept := false }))) ∧
    (∀ c,
      let due := s.mem.auto = true ∧ c < 512 ∧ (s.chan c).st = 0 ∧ (s.mem.ceLimit.toNat < (s.chan c).ceHour ∨ 16 ≤ (s.chan c).ueHour)
      (¬due → exec (.mapoutAutoTrigger c) s = .next s) ∧ (due → exec (.mapoutAutoTrigger c) s = .next (s.autoMapout c)) ∧
      (c < 512 → (s.chan c).st = 0 → s.mem.mapout = none → max s.mem.floor.toNat 256 ≤ s.liveChannels - 1 →
        s.autoMapout c = s.startMapout c none ∧ ((s.startMapout c none).chan c).st = 1 ∧
        (s.startMapout c none).mem.mapout = some ⟨c, 1, 0, 0, none⟩)) ∧
    (∀ (m : MapOut), s.mem.mapout = some m →
      (m.step = 1 → s.vacatingUnits = 0 → s.fits (s.reserved 0) (s.reserved 1) = true →
        ∃ t, exec .mapoutVacate s = .next t ∧ t = { s with mem := t.mem } ∧ (t.chan m.chan).st = 2 ∧
          t.mem.mapout = some { m with step := 2 } ∧ t.mem.vacated = s.mem.vacated + 1 ∧ t.mem.stack = s.mem.stack) ∧
      (m.step = 1 → s.vacatingUnits = 0 → s.fits (s.reserved 0) (s.reserved 1) = false → exec .mapoutVacate s = .next s) ∧
      (m.step = 1 → s.vacatingUnits ≠ 0 → exec .mapoutVacate s = .next (if 64 * s.freeRegions + s.freeChunks < s.vacatingUnits
        then (s.modChan m.chan (fun x => { x with st := 0 })).endMapout.answerMapout m E_TIER_NOROOM else s)) ∧
      (∀ k e, m.step = 2 → s.sliceOn m.chan = some k → s.freeSlotBut m.chan = some e →
        ∃ t n st, exec .sliceMove s = .next t ∧ t.mem.slots = AMap.insert s.mem.slots k e ∧ t.mem.vacated = s.mem.vacated ∧
          t.mem.mapout = some { m with step := st, slices := m.slices + 1, ueMoved := m.ueMoved + n } ∧
          (∀ b l, 512 * b + l ≠ k → t.slotOf b l = s.slotOf b l) ∧ (∀ b l, 512 * b + l = k → l < 512 - s.mem.vacated → t.slotOf b l = some e) ∧
          (st = 3 ↔ t.sliceOn m.chan = none) ∧ (st = 2 ↔ t.sliceOn m.chan ≠ none) ∧
          ((∀ w ∈ s.mem.flips.map (·.1), 512 * bucketOf (8 * w) + levelOf (8 * w) ≠ k) →
            n = 0 ∧ t.mem.stack = s.mem.stack ∧ t.mem.flips = s.mem.flips ∧ t.flt = s.flt)) ∧
      (∀ b h, m.step = 3 → s.bucketHomedOn m.chan = some b → s.newHome m.chan = some h →
        ∃ t, exec .bucketRehome s = .next t ∧ t = { s with mem := { s.mem with homes := t.mem.homes } } ∧ t.homeOf b = h ∧
          (∀ b', b' ≠ b → t.homeOf b' = s.homeOf b') ∧
          ∀ x, x < 512 → x ≠ m.chan → (s.chan x).st = 0 → s.homesOn h ≤ s.homesOn x) ∧
      (m.step ≠ 3 ∨ s.bucketHomedOn m.chan ≠ none → exec .mapoutComplete s = .next s) ∧
      (m.step = 3 → s.bucketHomedOn m.chan = none →
        let s1 := (s.modChan m.chan (fun x => { x with st := 3 })).raise
          { FRec.mk0 E_MEM_MAPOUT 0 (ident 2 (dieOfChannel m.chan)) with action := 3 }
        exec .mapoutComplete s = .next (({ s1 with mem := { s1.mem with mapout := none } }).answerMapout m 0).endMapout)) ∧
    s.endMapout = s.mem.retry.foldl State.autoMapout { s with mem := { s.mem with mapout := none, retry := [] } }

/-- Tier moves (R281 to R285, R296). A first command puts the next block of a move into the state moving, a second reads it and places it in
the destination tier, where it has its home from then on, and one block more is counted as moved; both wait while a transfer or a relocation
holds the block. A block whose source cannot be read ends the move with that code; the last one ends it. A move into the cave whose image would
pass the programming budget waits, in the order in which the moves were accepted. A fresh block in addresses being vacated is copied to the
region picked for it; tiles written meanwhile are copied again, at most twice; then the block has its home there. A pressed block in such
addresses moves within its tier, or stays where there is no room.
The choices made here are log entries 29, 63 and 84. -/
def Obligations.BlocksMoveBetweenTiers : Prop :=
  ∀ (s : State),
    (∀ (obj k : Nat) (o : Obj) (m : Move) (h : Home) (rest : List (Nat × Home)),
      AMap.find? s.tier.objs obj = some o → o.move = some m → m.freeing = none → s.blocksOutside obj o m.dest = (k, h) :: rest →
      let done (u : State) : State :=
        let c := u.commitBlock obj o m k h
        if c.2 ≠ 0 then c.1.endMove obj c.2 else if rest = [] then c.1.endMove obj 0 else c.1
      let busy := s.inFlight (blockBytes * k) blockBytes = true ∨ ∃ r, h = .fresh r ∧ AMap.find? s.mem.relocs r ≠ none
      let wait := m.dest = 2 ∧ m.moving = true ∧
        ((∃ x ∈ s.tier.budgetWait, s.moveOrder x < s.moveOrder obj) ∨ s.budgetOk (s.nextImage obj o) = false)
      (obj ∈ s.tier.budgetWait → exec (.tierBlockMove obj) s = .next s) ∧
      (obj ∉ s.tier.budgetWait → wait → ∃ w, exec (.tierBlockMove obj) s = .next { s with tier := { s.tier with budgetWait := w } } ∧
        (∀ x, x ∈ w ↔ x = obj ∨ x ∈ s.tier.budgetWait) ∧
        (s.tier.budgetWait.Pairwise (fun a b => s.moveOrder a ≤ s.moveOrder b) → w.Pairwise (fun a b => s.moveOrder a ≤ s.moveOrder b))) ∧
      (obj ∉ s.tier.budgetWait → ¬wait → (busy → exec (.tierBlockMove obj) s = .next s) ∧
        (¬busy → m.moving = false → exec (.tierBlockMove obj) s = .next (s.setObj obj { o with move := some { m with moving := true } })) ∧
        (¬busy → m.moving = true → exec (.tierBlockMove obj) s = .next (done s))) ∧
      (∀ tl, s.tier.budgetWait = obj :: tl → (busy ∨ s.budgetOk (s.nextImage obj o) = false → exec .caveBudgetRelease s = .next s) ∧
        (¬busy → s.budgetOk (s.nextImage obj o) = true → m.moving = true →
          exec .caveBudgetRelease s = .next (done { s with tier := { s.tier with budgetWait := tl } }))) ∧
      (let c := s.commitBlock obj o m k h
       c.2 = 0 → m.dest ≤ 2 → (∃ g, AMap.find? c.1.tier.blocks k = some g ∧ g.tier = m.dest) ∧
        ∃ o', AMap.find? c.1.tier.objs obj = some o' ∧
          o' = { o with move := some { m with moved := m.moved + 1, resv := m.resv - reserveUnits m.dest, moving := false } })) ∧
    (s.tier.budgetWait = [] → exec .caveBudgetRelease s = .next s) ∧
    (∀ block r, AMap.find? s.tier.blocks block = some (.fresh r) → AMap.find? s.mem.relocs r = none →
      (r < s.regionEnd ∨ s.freeRegions = 0 ∨ s.isMoving block = true → exec (.blockRelocation block) s = .next s) ∧
      (s.regionEnd ≤ r → s.freeRegions ≠ 0 → s.isMoving block = false → ∃ t, exec (.blockRelocation block) s = .next t ∧
        t.mem.relocs = AMap.insert s.mem.relocs r ⟨s.pickRegion, 0, []⟩ ∧ t.tier.blocks = s.tier.blocks ∧ t.tier.moves = s.tier.moves)) ∧
    (∀ block r x, AMap.find? s.tier.blocks block = some (.fresh r) → AMap.find? s.mem.relocs r = some x →
      (x.dirty ≠ [] → x.rounds < 2 → ∃ t, exec (.blockRelocation block) s = .next t ∧
        t.mem.relocs = AMap.insert s.mem.relocs r { x with rounds := x.rounds + 1, dirty := [] } ∧ t.tier = s.tier) ∧
      (x.dirty = [] ∨ 2 ≤ x.rounds → ∃ t, exec (.blockRelocation block) s = .next t ∧
        AMap.find? t.tier.blocks block = some (.fresh x.dest) ∧ (∀ b, b ≠ block → AMap.find? t.tier.blocks b = AMap.find? s.tier.blocks b) ∧
        t.tier.moves = s.tier.moves + 1 ∧ t.mem.relocs = AMap.erase s.mem.relocs r)) ∧
    (∀ block n cs, AMap.find? s.tier.blocks block = some (.pressed n cs) →
      let out := cs.filter (fun c => decide (s.regionEnd ≤ c / 64))
      exec (.blockRelocation block) s = .next (if out = [] ∨ (s.freeRegions = 0 ∧ s.freeChunks < out.length) then s
        else (out.foldl State.moveChunk s).countRelocation 1 (4096 * out.length)))

/-- The cave's upkeep, compaction and digests. CAVE_LEVELLING, once the tiles its reads found lost are lost, programs an image anew where
a package's erase counts spread by more than 200 and the budget allows it (R295). FLASH_BLOCK_RETIRE counts the block, and raises E_CAV_RESERVE where the lost space grows past the
reserve of 16 TB (R297). PRESSED_COMPACTION leaves the block data of a machine with at most one pressed region alone. SHARD_HASH_COMPLETE registers a shard
whose digest is right, or answers and unregisters it (12 R307). DIGEST_PASS hashes every registered shard again and counts the pass
(R323). Which image moves, and which pressed region is emptied, are the model's (log entries 2 and 26).
The choices made here are log entries 25, 63 and 84. -/
def Obligations.UpkeepAndDigests : Prop :=
  ∀ (s : State),
    (∀ pkg lost,
      let u := s.losePages pkg lost
      (∀ b k img l, AMap.find? s.tier.blocks b = some (.cave k img l) → ∃ l', AMap.find? u.tier.blocks b = some (.cave k img l') ∧
        ∀ x, x ∈ l' ↔ x ∈ l ∨ (k = pkg ∧ x < 64 ∧ (b, x) ∈ lost)) ∧
      (24 ≤ pkg ∨ (u.pkg pkg).most ≤ (u.pkg pkg).least + 200 → exec (.caveLevelling ⟨pkg, lost⟩) s = .next u) ∧
      ∀ b img, pkg < 24 → (u.pkg pkg).least + 200 < (u.pkg pkg).most → (u.imagesIn pkg)[u.fv 3 % (u.imagesIn pkg).length]? = some (b, img) →
        exec (.caveLevelling ⟨pkg, lost⟩) s = .next (if u.budgetOk img.length = true then u.moveImage b img else u)) ∧
    (∀ pkg bytes, 24 ≤ pkg → exec (.flashBlockRetire pkg bytes) s = .next s) ∧
    (∀ pkg bytes, pkg < 24 → ∃ u t, exec (.flashBlockRetire pkg bytes) s = .next t ∧ (t.pkg pkg).retired = (u.pkg pkg).retired + 1 ∧
      t.tier.retiredBytes = u.tier.retiredBytes + bytes ∧ t.tier.caveLost = u.tier.retiredBytes + bytes - 16000000000000 ∧
      (s.imagesIn pkg = [] → u = s.drawn) ∧
      (t.flt ≠ u.flt → u.tier.caveLost < t.tier.caveLost)) ∧
    (s.pressedRegions.length ≤ 1 → exec .pressedCompaction s = .next s) ∧
    (exec .pressedCompaction s = .next s.compact) ∧
    (∀ obj (h : Shard) (r : Req), AMap.find? s.wgt.shards obj = some h → h.req = some r →
      let d := s.shardDigest obj
      let s1 := d.1.charge (lineOf h.owner) 3 (33 * (s.counter.toNat - h.since))
      (d.2.1 ≠ 0 → exec (.shardHashComplete obj) s = .next ((s1.unregister obj h).answerShard r h d.2.1)) ∧
      (d.2.1 = 0 → d.2.2 = none → exec (.shardHashComplete obj) s = .next ((s1.unregister obj h).answerShard r h E_WGT_DIGEST)) ∧
      (∀ g, d.2.1 = 0 → d.2.2 = some g → exec (.shardHashComplete obj) s =
        .next ((s1.setShard obj { h with registered := true, req := none, digest := g }).answerShard r h 0))) ∧
    (s.wgt.digOn = false → exec .digestPass s = .next s) ∧
    (s.wgt.digOn = true → ∃ t, exec .digestPass s = .next t ∧
      t.wgt.passes = ((s.wgt.shards.filter (fun e => e.2.registered)).foldl (fun s e => s.digestOne e.1 e.2) s).wgt.passes + 1)

/-! The codec engines (15 R394 to R405). -/

/-- CODEC_FRAME_START: a free engine takes the next frame that can start, of class LC before any of class BE (R395): it leaves its queue,
its buffer is busy, and a rate set for the stream takes effect (R392). CODEC_SLICE_EMIT puts a unit whole into the ring, at offset 0 where it
would run past the end (R400), as long as the frame has slices left (R402). CODEC_FRAME_DONE, once an encoded frame has a slice count that the
stream's slices allow, frees the engine, counts the frame, and leaves no buffer of the stream busy; a header outside the profile closes the
stream. CODEC_CLOSE_EFFECT waits for the frame boundary; then the stream is gone. CODEC_ENGINE_FAULT closes every stream of the engine
(R405). RTP_FLOW_CLOSE stops the packetisers of the flow (R404).
The choices made here are log entries 44 and 45. -/
def Obligations.CodecEnginesServeStreams : Prop :=
  ∀ (s : State),
    (∀ eng,
      (16 ≤ eng ∨ (s.engine eng).failed = true ∨ (s.engine eng).run ≠ none ∨ s.nextStream eng = none →
        exec (.codecFrameStart eng) s = .next s) ∧
      (∀ i c f k, eng < 16 → (s.engine eng).failed = false → (s.engine eng).run = none → s.nextStream eng = some (i, c, f) → c.target = some k →
        (s.ctxLc c.ctx = false → ∀ e ∈ s.streamsOf eng, e.2.canStart = true → e.2.queue ≠ [] → s.ctxLc e.2.ctx = false) ∧
        ∃ t c', exec (.codecFrameStart eng) s = .next t ∧ (t.engine eng).run = some ⟨i, f, k, 0, 0, s.counter.toNat, c.isKey f⟩ ∧
          t.cstream i = some c' ∧ c'.queue = c.queue.drop 1 ∧ c'.kbps = c.kbpsSet ∧ c'.fps = c.fpsSet ∧
          (∀ b, AMap.find? c.pool k = some b → ∃ b', AMap.find? c'.pool k = some b' ∧ b'.marks.getLsbD 4 = true ∧ b'.num = f.num ∧ b'.pts = f.pts))) ∧
    (∀ (eng : Nat) (data : List Byte) (run : EngRun) (c : CStream), (s.engine eng).run = some run → s.cstream run.stream = some c →
      let n := data.length
      let p := c.unitAt n
      let ok := c.dir ≠ 1 ∧ n ≠ 0 ∧ run.bytes + n ≤ c.maxFrame ∧ p + n ≤ c.rd + c.outBytes ∧ run.slices < c.sliceCount 64
      (¬ok → exec (.codecSliceEmit eng data) s = .next s) ∧
      (ok → (c.wr ≤ p ∨ c.outBytes = 0) ∧ (n ≤ c.outBytes → p % c.outBytes + n ≤ c.outBytes) ∧
        ∃ t c', exec (.codecSliceEmit eng data) s = .next t ∧
          (t.engine eng).run = some { run with slices := run.slices + 1, bytes := run.bytes + n } ∧
          t.cstream run.stream = some c' ∧ c' = { c with wr := p + n, rd := c'.rd, rtpSeq := c'.rtpSeq } ∧
          c'.rd = (if c.rtpOn = true then p + n else c.rd) ∧ (c.rtpOn = false → c'.rtpSeq = c.rtpSeq))) ∧
    (∀ (eng : Nat) (out : FrameOut) (run : EngRun) (c : CStream) (b : PoolBuf),
      (s.engine eng).run = some run → s.cstream run.stream = some c → AMap.find? c.pool run.target = some b →
      (c.dir = 0 → run.slices ∉ c.sliceCounts → exec (.codecFrameDone eng out) s = .next s) ∧
      (c.dir ≠ 0 ∨ run.slices ∈ c.sliceCounts → ∃ t c', exec (.codecFrameDone eng out) s = .next t ∧ (t.engine eng).run = none ∧
        (t.engine eng).frames = (s.engine eng).frames + 1 ∧ t.cstream run.stream = some c' ∧
        c'.closing = (if out.status = E_CDC_PROFILE then some E_CDC_PROFILE else c.closing) ∧ ∀ p ∈ c'.pool, p.2.marks.getLsbD 4 = false)) ∧
    (∀ (i : Nat) (c : CStream), s.cstream i = some c →
      (c.closing = none ∨ (s.engine c.eng).run ≠ none → exec (.codecCloseEffect i) s = .next s) ∧
      (∀ code, c.closing = some code → (s.engine c.eng).run = none → ∃ t, exec (.codecCloseEffect i) s = .next t ∧ t = s.closeStream i c code ∧
        t.cstream i = none ∧ ∀ j, j ≠ i → t.cstream j = s.cstream j)) ∧
    (∀ eng, (16 ≤ eng ∨ (s.engine eng).failed = true → exec (.codecEngineFault eng) s = .next s) ∧
      (eng < 16 → (s.engine eng).failed = false → ∃ t, exec (.codecEngineFault eng) s = .next t ∧ (t.engine eng).failed = true ∧
        (t.engine eng).run = none ∧ ∀ j c, t.cstream j = some c → c.eng ≠ eng ∧ s.cstream j = some c)) ∧
    (∀ flow, ∃ t, exec (.rtpFlowClose flow) s = .next t ∧ t = { s with cdc := { s.cdc with streams := t.cdc.streams } } ∧
      ∀ i, t.cstream i = (s.cstream i).map (fun c => if c.rtpOn = true ∧ c.flow = flow then { c with rtpOn := false } else c))

/-! Mailboxes, the umpire and its firmware (16 R414 to R424, R432, R438, R440; 19 R491, R494; 20 R503 to R506). -/

/-- Rings. MBX_REQ_TAIL writes the sender's slots, at most the free ones, and a tail that would put more than 256 slots between head and
tail is ignored (R416). MBX_RSP_HEAD frees response slots up to the tail (R417). RESPONSE_DELIVER writes the response that is held, or else
an event, where it fits (R418). REQUEST_INTAKE takes the next message of a served mailbox: an accepted one joins the intake, a refused one
does not; a request that passes check 4 makes its successor the number expected (R421). No command touches another mailbox.
The choices made here are log entry 33. -/
def Obligations.MailboxRings : Prop :=
  ∀ (s : State) (m : Nat),
    (72 ≤ m → ∀ x, (∃ t d, x = .mbxReqTail m t d) ∨ (∃ h, x = .mbxRspHead m h) ∨ x = .responseDeliver m ∨ x = .requestIntake m → exec x s = .next s) ∧
    (m < 72 → ∀ (tail : Nat) (data : List Byte), ∃ t, exec (.mbxReqTail m tail data) s = .next t ∧ (∀ k, k ≠ m → t.mbx k = s.mbx k) ∧
      t = { s with ump := { s.ump with mbxs := t.ump.mbxs } } ∧
      (let b := s.mbx m
       t.mbx m = { b with
         win := ringWrite b.win 0 (64 * b.reqTail.toNat) (data.take (64 * (256 - (b.reqTail - b.reqHead).toNat)))
         reqTail := if (BitVec.ofNat 16 tail - b.reqHead).toNat ≤ 256 then BitVec.ofNat 16 tail else b.reqTail })) ∧
    (m < 72 → ∀ (head : Nat), ∃ t, exec (.mbxRspHead m head) s = .next t ∧ (∀ k, k ≠ m → t.mbx k = s.mbx k) ∧
      t = { s with ump := { s.ump with mbxs := t.ump.mbxs } } ∧
      (let b := s.mbx m
       t.mbx m = { b with
         irq := false
         rspHead := if (BitVec.ofNat 16 head - b.rspHead).toNat ≤ (b.rspTail - b.rspHead).toNat then BitVec.ofNat 16 head else b.rspHead })) ∧
    (m < 72 → ∃ t, exec (.responseDeliver m) s = .next t ∧ (∀ k, k ≠ m → t.mbx k = s.mbx k) ∧ t = { s with ump := { s.ump with mbxs := t.ump.mbxs } } ∧
      (let b := s.mbx m
       (∀ x rest, b.held = x :: rest → t.mbx m = if slotsOf x.length ≤ b.room then { b.put x with held := rest, stalled := !rest.isEmpty } else b) ∧
       (∀ e rest, b.held = [] → b.events = e :: rest →
         t.mbx m = if slotsOf (16 + e.body.length) ≤ b.room then { b.put (b.eventMsg e) with events := rest, dropMark := false } else b) ∧
       (b.held = [] → b.events = [] → t.mbx m = b))) ∧
    (let b := s.mbx m
     let h := ringRead b.win 0 (64 * b.reqHead.toNat) 16
     let r : Req := ⟨m, leAt h 2 2, leAt h 4 2, leAt h 8 4, s.requestLc m (leAt h 4 2), ringRead b.win 0 (64 * b.reqHead.toNat + 16) (leAt h 6 2),
       s.counter.toNat⟩
     let n := slotsOf (16 + leAt h 6 2)
     let takes := m < 72 ∧ s.serving = true ∧ b.closed = false ∧ b.reqTail - b.reqHead ≠ 0 ∧ b.held = [] ∧
       ∀ q ∈ s.ump.intake, q.mbx = m → q.op ≠ 1 ∧ q.op ≠ 2
     (¬takes → exec (.requestIntake m) s = .next s) ∧
     (takes → leAt h 6 2 ≤ 1008 → n ≤ (b.reqTail - b.reqHead).toNat → ¬(r.lc = true ∧ 512 ≤ s.ump.intake.length) →
       let c := s.headerCode b r (BitVec.ofNat 8 (leAt h 0 1)) (BitVec.ofNat 8 (leAt h 1 1)) (leAt h 12 2)
       ∃ t, exec (.requestIntake m) s = .next t ∧ (∀ k, k ≠ m → t.mbx k = s.mbx k) ∧
         t.ump.intake = (if c = 0 then s.ump.intake ++ [r] else s.ump.intake) ∧
         (t.mbx m).reqHead = b.reqHead + BitVec.ofNat 16 n ∧
         (t.mbx m).expect = (if b.session = true ∧ r.op ≠ 1 ∧ BitVec.ofNat 8 (leAt h 0 1) = b.verMajor ∧ BitVec.ofNat 8 (leAt h 1 1) = b.verMinor
           then BitVec.ofNat 32 (r.seq + 1) else b.expect) ∧
         t.ump.busyCount = (if c = E_UMP_BUSY then s.ump.busyCount + 1 else s.ump.busyCount)))

/-- The umpire's pairs, trials and firmware. With a ready standby UMPIRE_FAILOVER makes it the acting umpire, counted, and no standby is left
(R414); the spec gives no behaviour without one: the model's stop. STANDBY_RESTORE lets the restored pair start up only where its self-check
and its bundle pass; a second one makes it the ready standby (20 R506); else the pair is retired. HEALTH_CHECK takes a second from a trial or reverts it; TRIAL_END makes it final once the window
is over (R432). A housekeeping task runs where its turn has come and waits otherwise (R440). An update of the firmware goes through its
phases 1, 3, 4 and 5, control passing at each hand-over, or back to the old firmware at the limit of phase 3 (R438). TLS_CONNECT takes the
lowest free management mailbox; TLS_CLOSE closes it with its session (19 R494).
The choices made here are log entries 34, 35, 36 and 37. -/
def Obligations.UmpirePairsTrialsAndFirmware : Prop :=
  ∀ (s : State),
    (s.ump.standby ≠ 2 → exec .umpireFailover s = .fault .noActingUmpire) ∧
    (s.ump.standby = 2 → ∃ t, exec .umpireFailover s = .next t ∧ t.ump.acting = 1 - s.ump.acting ∧ t.ump.standby = 0 ∧
      t.ump.failovers = s.ump.failovers + 1 ∧ t.ump.slot0 = s.ump.slot0 ∧ t.ump.slot1 = s.ump.slot1 ∧ t.ump.intake = s.ump.intake) ∧
    (∀ pass, exec (.standbyRestore pass) s = .next (
      if s.ump.restoring = false then s
      else if s.ump.standby = 0 ∧ pass = true ∧ s.bundleCode s.currentBank = 0 then { s with ump := { s.ump with standby := 1 } }
      else if s.ump.standby = 1
        then ({ s with ump := { s.ump with standby := 2, restoring := false } }).raise (pairRec (1 - s.ump.acting) 0 5)
      else s.retirePair (1 - s.ump.acting))) ∧
    (∀ h2, (s.ump.trial = none → exec (.healthCheck h2) s = .next s ∧ exec .trialEnd s = .next s) ∧
      (∀ t, s.ump.trial = some t →
        exec .trialEnd s = .next (if t.left = 0 then s.finalTrial else s) ∧
        (s.mismatches ≠ t.mism → exec (.healthCheck h2) s = .next (s.revertTrial t 1 1)) ∧
        (s.mismatches = t.mism → h2 = false → exec (.healthCheck h2) s = .next (s.revertTrial t 1 2)) ∧
        (s.mismatches = t.mism → h2 = true → s.ump.trialFailover = true → exec (.healthCheck h2) s = .next (s.revertTrial t 1 3)) ∧
        (s.mismatches = t.mism → h2 = true → s.ump.trialFailover = false →
          exec (.healthCheck h2) s = .next { s with ump := { s.ump with trial := some { t with left := t.left - 1 } } }))) ∧
    (∀ kind,
      let since := ((s.ump.tasks.find? (fun t => decide (t.1 = kind))).map (·.2)).getD s.counter.toNat
      let others := s.ump.tasks.filter (fun t => decide (t.1 ≠ kind))
      let turn := s.nextOf true s.ump.rrLc = none ∧ (since + 30 * 100000000 ≤ s.counter.toNat ∨ s.nextOf false s.ump.rrBe = none)
      (turn → exec (.housekeepingTask kind) s = .next (({ s with ump := { s.ump with tasks := others } }).keepHouse kind)) ∧
      (¬turn → exec (.housekeepingTask kind) s = .next { s with ump := { s.ump with tasks := others ++ [(kind, since)] } })) ∧
    (∀ (f : FwUpd), s.ump.fw = some f →
      (∀ us, exec (.fwHandover us) s = .next (if f.phase = 1 ∧ s.ump.standby = 2 ∧ us ≤ 50000
        then { s with ump := { s.ump with fw := some { f with phase := 3, pause := us }, acting := 1 - s.ump.acting, standby := 0 } } else s)) ∧
      exec .fwNewFirmwareReady s = .next (if f.phase = 3 then { s with ump := { s.ump with fw := some { f with phase := 4 } } } else s) ∧
      exec .fwPhase3Timeout s = .next (if f.phase = 3
        then ({ s with ump := { s.ump with fw := none, acting := 1 - s.ump.acting, standby := 2 } }).answerFw f.req E_FW_HANDOVER 3 f.pause f.oldVer f.newVer
        else s) ∧
      (∀ us, exec (.fwHandback us) s = .next (if f.phase = 4 ∧ us ≤ 50000
        then { s with ump := { s.ump with fw := some { f with phase := 5, pause := max f.pause us }, acting := 1 - s.ump.acting } } else s)) ∧
      (f.phase ≠ 5 → exec .fwStandbyReady s = .next s) ∧
      (f.phase = 5 → ∃ t : State, exec .fwStandbyReady s = .next (t.answerFw f.req 0 5 f.pause f.oldVer f.newVer) ∧ t.ump.standby = 2 ∧ t.ump.fw = none ∧
        t.sec.bank = !s.sec.bank ∧ t.sec.fwVersion = leAt f.image 8 4 ∧ t.sec.fwDigest = bytesAt f.image 64 64 ∧
        t.fuse (leAt f.image 12 1) = max (s.fuse (leAt f.image 12 1)) (leAt f.image 13 1) ∧
        (∀ k, k ≠ leAt f.image 12 1 → t.fuse k = s.fuse k) ∧ (∀ k ∈ s.sec.fwRevoked, k ∈ t.sec.fwRevoked))) ∧
    (∀ anchor, (s.serving = false ∨ (∀ e ∈ s.sec.anchors, e.2 ≠ anchor) ∨ (∀ m, 64 ≤ m → m < 68 → (s.mbx m).closed = false) →
        exec (.tlsConnect anchor) s = .next s) ∧
      (∀ m, s.serving = true → (∃ e ∈ s.sec.anchors, e.2 = anchor) → 64 ≤ m → m < 68 → (s.mbx m).closed = true →
        (∀ k, 64 ≤ k → k < m → (s.mbx k).closed = false) →
        exec (.tlsConnect anchor) s = .next (s.modMbx m (fun b => { b with closed := false })))) ∧
    (∀ m, exec (.tlsClose m) s = .next (if 64 ≤ m ∧ m < 68 ∧ (s.mbx m).closed = false
      then s.modMbx m (fun b => { b with session := false, verMajor := 0, verMinor := 0, events := [], closed := true }) else s))

/-! The module ring (17 R446 to R460). -/

/-- Rails and flits. FLIT_RECEIVE: a flit that the FEC gave up, whose CRC fails, or that is not the next in order is discarded, and only its
port is marked for a nak; the next in order is taken, its acknowledgements and credits with it (R446 to R448). FLIT_RESEND sends every flit not acknowledged
again and counts it. RAIL_DOWN sends what was not delivered on another rail, or keeps it (R450). RAIL_UP advertises the buffers; a rail
that cannot train is failed: its waiting flits go to the rails left, the members are told, and where no rail is left up or training the
neighbours are lost. BYPASS_POWER_LOSS cuts off every rail (R451). RELAY_FRAME starts a transfer (R459).
The choices made here are log entries 42 and 46. -/
def Obligations.RailsAndFlits : Prop :=
  ∀ (s : State),
    (∀ (port : Nat) (d : List Byte) (bad : Bool),
      let l := s.link port
      let f := flitOf d
      let live := port < 48 ∧ isRailPort port = true ∧ s.roleOf port = 1 ∧ l.st = 2
      let whole := d.length = 256 ∧ crc32c (d.take 252) = leAt d 252 4 ∧ f.ty ≤ 2 ∧ f.vc ≠ 3 ∧ leAt d 15 1 ≤ 236
      (¬live → exec (.flitReceive port d bad) s = .next s) ∧
      (live → bad = true → exec (.flitReceive port d bad) s = .next (s.setLink port { l with fecBad := min 65535 (l.fecBad + 1), nakDue := true })) ∧
      (live → bad = false → ¬whole → exec (.flitReceive port d bad) s = .next (s.setLink port { l with nakDue := true })) ∧
      (live → bad = false → whole → f.ty = 0 →
        exec (.flitReceive port d bad) s = .next ((s.setLink port (l.feedback d).1).countFlits (l.feedback d).2)) ∧
      (live → bad = false → whole → f.ty ≠ 0 → f.seq ≠ l.rxSeq + 1 → exec (.flitReceive port d bad) s = .next (s.setLink port { l with nakDue := true })) ∧
      (live → bad = false → whole → f.ty ≠ 0 → f.seq = l.rxSeq + 1 →
        let r := ({ l with rxSeq := l.rxSeq + 1, nakDue := false }).feedback d
        exec (.flitReceive port d bad) s = .next (((s.setLink port r.1).countFlits r.2).acceptFlit (railOf port) (decide (port % 12 < 4)) f)) ∧
      exec (.flitResend port) s = .next (if l.nakked = true
        then (s.setLink port { l with nakked := false, resent := min 65535 (l.resent + l.replay.length) }).countFlits l.replay.length else s)) ∧
    (∀ rail,
      let u := s.link (upPort rail)
      let d := s.link (downPort rail)
      (16 ≤ rail ∨ (u.st ≠ 2 ∧ d.st ≠ 2) → exec (.railDown rail) s = .next s) ∧
      (rail < 16 → u.st = 2 ∨ d.st = 2 → (∀ k ∈ s.railsUp, k = rail) ∨ s.roleOf (upPort rail) ≠ 1 → ∃ t, exec (.railDown rail) s = .next t ∧
        t = { s with ring := { s.ring with links := t.ring.links } } ∧
        (t.link (upPort rail)).st = 1 ∧ (t.link (upPort rail)).waiting = u.replay ++ u.waiting ∧
        (t.link (downPort rail)).st = 1 ∧ (t.link (downPort rail)).waiting = d.replay ++ d.waiting) ∧
      (rail < 16 → u.st = 2 ∨ d.st = 2 → (∃ k ∈ s.railsUp, k ≠ rail) → s.roleOf (upPort rail) = 1 →
        let down (l : Link) : Link := { l.cut 1 with resent := sat16 (l.resent + l.replay.length) }
        let s1 := (s.setLink (upPort rail) (down u)).setLink (downPort rail) (down d)
        exec (.railDown rail) s = .next ((d.replay ++ d.waiting).foldl (fun s f => s.emit true f)
          ((u.replay ++ u.waiting).foldl (fun s f => s.emit false f) s1))) ∧
      (16 ≤ rail ∨ rail ∉ s.ring.opened ∨ u.st = 2 → exec (.railUp rail) s = .next s) ∧
      (rail < 16 → rail ∈ s.ring.opened → u.st ≠ 2 →
        let s1 := ((s.setLink (upPort rail) u.comeUp.1).setLink (downPort rail) d.comeUp.1).countFlits (u.comeUp.2 + d.comeUp.2)
        exec (.railUp rail) s = .next (if s.roleOf (upPort rail) ≠ 1 then s1
          else if s.ring.member = true then s1.ringEvent 4 s.ring.position rail else s1.joinOn)) ∧
      (16 ≤ rail ∨ u.st ≠ 1 → exec (.railRetrainTimeout rail) s = .next s) ∧
      (rail < 16 → u.st = 1 →
        let s1 := (s.setLink (upPort rail) { u with st := 3, waiting := [] }).setLink (downPort rail) { d with st := 3, waiting := [] }
        let s3 := (d.waiting.foldl (fun s f => s.emit true f) (u.waiting.foldl (fun s f => s.emit false f) s1)).ringEvent 3 s.ring.position rail
        exec (.railRetrainTimeout rail) s = .next (if s.roleOf (upPort rail) ≠ 1 then s1
          else if s.ring.member = false then s1.joinOn
          else if s3.railsFor = [] then (s3.neighbours.foldl State.loseMember s3).mark else s3))) ∧
    (∃ t, exec .bypassPowerLoss s = .next t ∧ t = { s with ring := { s.ring with links := t.ring.links, opened := t.ring.opened } } ∧
      ∀ k, k < 16 → k ∉ t.ring.opened ∧ (t.link (upPort k)).st = 0 ∧ (t.link (downPort k)).st = 0) ∧
    (∀ hub dst data,
      let ok := hub < 4 ∧ s.ring.member = true ∧ s.ring.leaving = none ∧ dst ≠ s.ring.position ∧ AMap.find? s.ring.members dst ≠ none ∧
        data ≠ [] ∧ data.length ≤ 9216
      (¬ok → exec (.relayFrame hub dst data) s = .next s) ∧
      (ok → exec (.relayFrame hub dst data) s = .next (s.startTransfer 2
        (if data.take 4 = [0x02, 0xEF, 0x1D, 0x00] then leAt data 4 1 % 4 else hub) 0 0 dst 2 data)))

/-- Membership, transfers and ring huddles (R449, R453 to R457). DISCOVERY_RETURN gives a joining module the position it asked for, or the
lowest free one, and announces it; a position taken or rails of other roles turn the join down. RING_LEAVE_COMPLETE leaves no member and no
transfer. MEMBER_LOSS drops a member, its transfers ending. A transfer whose flits have all landed is placed and answered by a completion flit. A
stage of a ring huddle sends one part on and adds, or in the all-gather keeps, the part that came; its timeout ends the step.
The choices made here are log entries 42, 47 and 48. -/
def Obligations.RingMembersAndHuddles : Prop :=
  ∀ (s : State),
    (∀ pos, s.ring.member = false ∨ pos = s.ring.position ∨ AMap.find? s.ring.members pos = none → exec (.memberLoss pos) s = .next s) ∧
    (∀ pos, s.ring.member = true → pos ≠ s.ring.position → AMap.find? s.ring.members pos ≠ none →
      exec (.memberLoss pos) s = .next ((s.dropMember pos).ringEvent 2 pos 0xFF).mark) ∧
    (s.ring.joining = none → ∀ ms ok, exec (.discoveryReturn ms ok) s = .next s) ∧
    (∀ (req : Option Req) (want : Nat) (ms : List (Nat × List Byte)) (ok : Bool), s.ring.joining = some (req, want) →
      let settled := ∀ k ∈ s.ringRails, (s.link (upPort k)).st ≠ 1 ∧ k ∈ s.ring.opened
      let gets (p : Nat) := (want = 0xFF ∧ p < 16 ∧ p ∉ ms.map (·.1) ∧ ∀ q < p, q ∈ ms.map (·.1)) ∨ (want ≠ 0xFF ∧ p = want ∧ want ∉ ms.map (·.1))
      (¬settled → exec (.discoveryReturn ms ok) s = .next s) ∧
      (settled → (∀ p, ¬gets p) → exec (.discoveryReturn ms ok) s = .next (s.failJoin req E_RING_POSITION)) ∧
      (∀ p, settled → gets p → ok = false → exec (.discoveryReturn ms ok) s = .next (s.failJoin req E_RING_STATE)) ∧
      (∀ p, settled → gets p → ok = true → ∃ t, exec (.discoveryReturn ms ok) s = .next t ∧ t.ring.member = true ∧ t.ring.position = p ∧
        t.ring.joining = none ∧ AMap.find? t.ring.members p = some (s.railCount, ownDigest))) ∧
    (s.ring.leaving = none → exec .ringLeaveComplete s = .next s) ∧
    (∀ r, s.ring.leaving = some r → ∃ t : State, exec .ringLeaveComplete s = .next ((t.answer r 0 (leBytes 6 0)).ringEvent 1 s.ring.position 0xFF).mark ∧
      t.ring.member = false ∧ t.ring.members = [] ∧ t.ring.transfers = [] ∧ t.ring.leaving = none) ∧
    (∀ (tag : Nat) (x : RTransfer), s.ring.transfers.find? (fun x => !x.sent && decide (x.tag = tag) && decide (x.kind < 4) &&
        decide (x.got.length = ceilDiv x.len 236)) = some x →
      let drop (u : State) : State := { u with ring := { u.ring with transfers := u.ring.transfers.filter (fun y => y.sent || decide (y.src ≠ x.src) || decide (y.tag ≠ tag)) } }
      let fin (u : State) : State := u.emit (u.goesDown x.src) (u.controlFlit x.src tag (controlBody 4 0 0 0 0 []))
      (x.kind = 0 ∨ x.kind = 3 → exec (.ringTransferComplete tag) s = .next (fin (drop s))) ∧
      (x.kind = 2 → exec (.ringTransferComplete tag) s =
        .next (fin (drop { s with ring := { s.ring with relayRx := AMap.insert s.ring.relayRx x.court (Mem.rdBytes x.buf 0 x.len) } })))) ∧
    (∀ (court ctx step : Nat) (t : Step) (h : Huddle), s.stepAt court ctx step = some t → AMap.find? t.huddles t.layer = some h →
      (h.ring = false ∨ h.released = true ∨ h.stage = 0 →
        (∀ d, exec (.ringHuddleStage court ctx step d) s = .next s) ∧ exec (.ringHuddleTimeout court ctx step) s = .next s) ∧
      (h.ring = true → h.released = false → h.stage ≠ 0 →
        exec (.ringHuddleTimeout court ctx step) s = .next (s.failStep t E_RING_LOST none (ident 1 (s.leadCluster court))).mark) ∧
      (∀ (b : Playbook) (l : Layer) (data : List Byte), AMap.find? s.book.books t.playbook = some b → b.plan.layers[t.layer]? = some l →
        let u := splitCount (l.level 4)
        let i := s.ringRank
        h.ring = true → h.released = false → h.stage ≠ 0 → h.stage ≤ 2 * (u - 1) → t.status = 0 → s.ring.leaving = none → u ≤ s.positions.length →
        let gather := u ≤ h.stage
        let snd := huddlePart h u (if gather then (i + 2 * u - (h.stage - (u - 1)) + 1) % u else (i + 2 * u - h.stage) % u)
        let rcv := huddlePart h u (if gather then (i + 2 * u - 1 - (h.stage - (u - 1)) + 1) % u else (i + 2 * u - 1 - h.stage) % u)
        data.length = rcv.2 →
        let ac : Access := ⟨.coach ctx, 1, ctx, ident 2 1024⟩
        let own := s.anyRead ac snd.1 snd.2
        let s1 := own.1.startTransfer 3 court t.layer (snd.1 - (s.huddleArea court).1) ((s.positions[(i + 1) % u]?).getD 0) 1 own.2.2
        let w := if gather then s1.objWrite ac rcv.1 data else s1.vatAdd ac rcv.1 data
        own.2.1 = 0 → w.2 = 0 →
        let h1 : Huddle := { h with stage := h.stage + 1, released := decide (h.stage = 2 * (u - 1)) }
        exec (.ringHuddleStage court ctx step data) s = .next ((w.1.putStep { t with huddles := AMap.insert t.huddles t.layer h1 }).advance ctx step (s.layersOf t + 1)).mark))

/-! Power (18 R464 to R480). -/

/-- Power states (R468 to R474). PS_ENTRY starts an idle court's entry into the next state when its exit time is within the effective
tolerance and the court has been idle ten times that; into PS3 the streams are parked first. PS_ENTRY_COMPLETE: PS1 and PS4 leave the cores as they
were, PS2 takes their tile buffers, PS3 all they hold. PS_WAKE before the last abort point reverses the entry; past it the
exit follows. PS_EXIT_COMPLETE runs again, with the images of PS3 and PS4 restored and a table load that waited taking effect. Both completions first
count the idle time for the ledger, and answer the table loads that waited for no core that is left (06 R171, R172). PS5 is entered from PS4 alone. The choices made here are log entries 2 and 58 (what is lost; when idleness is noticed), 68, 73 and 86. -/
def Obligations.PowerStates : Prop :=
  ∀ (s : State),
    (∀ court,
      let p := s.courtPwr court
      let can := s.courtDefined court = true ∧ p.entering = false ∧ p.waking = false ∧ p.st < 4 ∧ s.pwr.ps5 = false ∧ s.courtIdle court = true
      let due := p.idleSince ≠ 0 ∧ exitUs (p.st + 1) ≤ s.effTol court ∧
        p.idleSince + (if p.st = 0 then 500 else if p.st = 1 then 20000 else if p.st = 2 then 2000000 else 30000000) ≤ s.counter.toNat + 1
      let r := s.parkAll (s.courtStreams court)
      (¬can → exec (.psEntry court) s = .next s) ∧
      (can → p.idleSince = 0 → exec (.psEntry court) s = .next (s.markCourt court)) ∧
      (can → p.idleSince ≠ 0 → ¬due → exec (.psEntry court) s = .next s) ∧
      (can → due → p.st ≠ 2 → exec (.psEntry court) s = .next (s.setCourtPwr court { p with entering := true })) ∧
      (can → due → p.st = 2 → r.2 = true → exec (.psEntry court) s = .next (r.1.setCourtPwr court { p with entering := true })) ∧
      (can → due → p.st = 2 → r.2 = false → exec (.psEntry court) s = .next (r.1.pwrEvent court 2 2 20)) ∧
      (p.entering = false → exec (.psEntryComplete court) s = .next s) ∧
      (p.entering = true →
        let s1 := s.countIdle.setCourtPwr court { p with st := p.st + 1, entering := false }
        (p.st = 0 ∨ p.st = 3 → exec (.psEntryComplete court) s = .next ((s1.tabAnswers court).pwrEvent court 0 (p.st + 1) (exitUs (p.st + 1)))) ∧
        (p.st = 1 ∨ p.st = 2 → ∃ u : State, exec (.psEntryComplete court) s =
            .next ((u.tabAnswers court).pwrEvent court 0 (p.st + 1) (exitUs (p.st + 1))) ∧
          u = { s1 with cores := u.cores, clus := u.clus, free := s.free + 1 } ∧
          (∀ k, k ∉ s.courtCores court → u.core k = s.core k) ∧
          (p.st = 1 → u.clus = s.clus ∧ ∀ k, u.core k = ⟨{ (s.core k).now with tb := (u.core k).now.tb }, { (s.core k).pre with tb := (u.core k).pre.tb }⟩) ∧
          (p.st = 2 → (∀ k ∈ s.courtCores court, (u.core k).now.tabs = []) ∧ ∀ n, u.clu n = { s.clu n with staging := (u.clu n).staging }))) ∧
      (s.courtDefined court = false ∨ p.waking = true ∨ (p.st = 0 ∧ p.entering = false) → ∀ rem, exec (.psWake court rem) s = .next s) ∧
      (s.courtDefined court = true → p.waking = false →
        let wake (us : Nat) : State := s.setCourtPwr court { p with waking := true, exitUs := us, idleSince := 0 }
        (p.st ≠ 0 → p.entering = false → ∀ rem, exec (.psWake court rem) s = .next (wake (exitUs p.st))) ∧
        (p.entering = true → exec (.psWake court 0) s = .next ((s.setCourtPwr court
          { p with entering := false, waking := decide (p.st ≠ 0), exitUs := exitUs p.st, idleSince := 0 }).pwrEvent court 2 p.st (exitUs p.st))) ∧
        (p.entering = true → ∀ rem, rem ≠ 0 → exec (.psWake court rem) s =
          .next (if rem ≤ entryUs (p.st + 1) then wake (rem + exitUs (p.st + 1)) else s))) ∧
      (p.waking = false ∨ p.entering = true → exec (.psExitComplete court) s = .next s) ∧
      (p.waking = true → p.entering = false →
        let s1 := s.countIdle.setCourtPwr court { p with st := 0, waking := false }
        exec (.psExitComplete court) s =
          .next ((if 3 ≤ p.st then s1.restoreClusters court else s1.swapOnWake court).pwrEvent court 1 0 p.exitUs).mark)) ∧
    (
      let deep := (∀ k < 8, s.courtDefined k = true → (s.courtPwr k).st = 4 ∧ (s.courtPwr k).entering = false ∧ (s.courtPwr k).waking = false) ∧
        2000000 ≤ s.pwr.tolModule ∧ s.cdc.streams = [] ∧ ∀ e ∈ s.ump.mbxs, isApp e.1 = true → e.2.session = false
      (s.pwr.ps5 = true ∨ ¬deep → exec .ps5Entry s = .next s) ∧
      (s.pwr.ps5 = false → deep → exec .ps5Entry s = .next (({ s with pwr := { s.pwr with ps5 := true } }).pwrEvent 0xFF 0 5 2000000)) ∧
      (s.pwr.ps5 = false → exec .ps5Wake s = .next s) ∧
      (s.pwr.ps5 = true → exec .ps5Wake s = .next (({ s with pwr := { s.pwr with ps5 := false } }).pwrEvent 0xFF 1 0 2000000)))

/-- Limits, temperatures and the reference clock (R465, R476 to R479). POWER_MEASURE: the instantaneous limiters act above 18 kW until a
measurement below it. GOVERNOR_STEP: over the continuous limit BE dispatch is held, then caps rise a step in the profile's order; below 95 % they are
lifted the other way round. THERMAL_CHECK moves the limit by 500 W. A die at 115 °C stops its cores, with a record. A locked synthesiser
that loses its reference enters holdover, with a record. (Log entry 59: records of severity 0.)
The choices made here are log entry 68. -/
def Obligations.LimitsTemperaturesAndClock : Prop :=
  ∀ (s : State),
    (∀ (watts mean : Nat) (volts : List Byte), ∃ t : State, exec (.powerMeasure watts mean volts) s = .next t ∧
      t = { s with pwr := { s.pwr with now := min watts 65535, mean := min mean 65535, throttle := t.pwr.throttle, limiting := t.pwr.limiting, blades := t.pwr.blades } } ∧
      t.pwr.throttle = s.pwr.throttle + (if s.pwr.limiting = true then 1 else 0) ∧
      (18000 < watts → t.pwr.limiting = true) ∧ (watts < 18000 → t.pwr.limiting = false) ∧ (watts = 18000 → t.pwr.limiting = s.pwr.limiting) ∧
      (∀ b < 5, t.pwr.blades.toNat / 2 ^ (12 * b) % 4096 = min (leAt volts (2 * b) 2) 4095)) ∧
    (let p := s.pwr
      let limit := (if p.profile = 3 then 10000 else 15000) - p.derate
      let even (q : PwrSt) : PwrSt := { q with capA := min 63 (q.capA + 1), capV := min 63 (q.capV + 1) }
      let tell (q : PwrSt) : State := if q = p then s else ({ s with pwr := q }).pwrEvent 0xFF 3 (s.shownPs 0xFF) 0
      (limit < p.mean → p.beHeld = false → exec .governorStep s = .next { s with pwr := { p with beHeld := true } }) ∧
      (limit < p.mean → p.beHeld = true →
        (p.profile ≠ 1 → p.profile ≠ 2 → exec .governorStep s = .next (tell (even p))) ∧
        (p.profile = 1 → exec .governorStep s = .next (tell (if p.capV < 32 then { p with capV := p.capV + 1 } else even p))) ∧
        (p.profile = 2 → exec .governorStep s = .next (tell (if p.capA < 32 then { p with capA := p.capA + 1 } else even p)))) ∧
      (p.mean ≤ limit → 95 * limit ≤ 100 * p.mean → exec .governorStep s = .next s) ∧
      (p.mean ≤ limit → 100 * p.mean < 95 * limit →
        (p.capA = 0 → p.capV = 0 → exec .governorStep s = .next { s with pwr := { p with beHeld := false } }) ∧
        (p.profile = 1 → p.capA = 0 → p.capV ≠ 0 → exec .governorStep s = .next (tell { p with capV := p.capV - 1 })) ∧
        (p.profile = 2 → p.capV = 0 → p.capA ≠ 0 → exec .governorStep s = .next (tell { p with capA := p.capA - 1 })) ∧
        ((p.profile ≠ 1 ∨ p.capA ≠ 0) → (p.profile ≠ 2 ∨ p.capV ≠ 0) → p.capA ≠ 0 ∨ p.capV ≠ 0 →
          exec .governorStep s = .next (tell { p with capA := p.capA - 1, capV := p.capV - 1 })))) ∧
    (∀ hot inlet outlet : Nat,
      let p := s.pwr
      let temp := (BitVec.ofNat 16 hot).toInt
      let top := if p.profile = 3 then 10000 else 15000
      let with_ (h : Bool) (d : Nat) : State :=
        let s1 := { s with pwr := { p with hot := h, derate := d, hottest := hot % 65536, inlet := inlet % 65536, outlet := outlet % 65536 } }
        if d = p.derate then s1 else s1.pwrEvent 0xFF 4 (s.shownPs 0xFF) 0
      (16 * 100 < temp ∨ (16 * 95 < temp ∧ p.hot = true) → exec (.thermalCheck hot inlet outlet) s = .next (with_ true (min top (p.derate + 500)))) ∧
      (temp ≤ 16 * 95 ∨ (temp ≤ 16 * 100 ∧ p.hot = false) → exec (.thermalCheck hot inlet outlet) s = .next (with_ false (p.derate - 500)))) ∧
    (∀ die,
      (40 ≤ die ∨ die ∈ s.pwr.stopped → exec (.thermalStop die) s = .next s) ∧
      (die < 40 → die ∉ s.pwr.stopped → exec (.thermalStop die) s = .next
        ((({ s with pwr := { s.pwr with stopped := s.pwr.stopped ++ [die] } }).raise (FRec.mk0 E_PWR_THERMAL 0 (ident 2 die))).pwrEvent 0xFF 4 (s.shownPs 0xFF) 0)) ∧
      (∃ t, exec (.thermalResume die) s = .next t ∧ t = { s with pwr := { s.pwr with stopped := t.pwr.stopped } } ∧
        ∀ k, k ∈ t.pwr.stopped ↔ k ∈ s.pwr.stopped ∧ k ≠ die)) ∧
    (
      let s1 := { s with pwr := { s.pwr with refGood := false, holdover := s.pwr.locked } }
      (s.pwr.locked = true → s.pwr.holdover = false →
        exec .refclkLoss s = .next ((s1.raise (FRec.mk0 E_CLK_HOLDOVER 0 (ident 2 1024))).pwrEvent 0xFF 5 (s.shownPs 0xFF) 0)) ∧
      (s.pwr.locked = false ∨ s.pwr.holdover = true → exec .refclkLoss s = .next s1) ∧
      exec .refclkRestore s = .next { s with pwr := { s.pwr with refGood := true, holdover := false } })

/-! Start-up, SMBus and the security commands (19 R482 to R498; 21 R521 to R525). -/

/-- Start-up (R482, R484 to R486, R489, R521). A low RESET_N or CAB_PGOOD returns the module to step 1 and loses all but what R485 keeps. The
steps go in order, each only from its own: BOOT_ROM retires a pair that fails, and stops where both do; VERIFY runs the current bundle, else the other,
else recovery begins; TRAIN writes every channel's key; SELFTEST declares cores failed; COURTS applies the committed slot; PLATFORM may close the
application mailboxes; SERVE makes the module ready and opens the field rails. A start-up
that takes too long, from RESET_N and CAB_PGOOD high on, is failed. (Log entries 2 and 60.)
The choices made here are log entry 49. -/
def Obligations.StartUpSteps : Prop :=
  ∀ (s : State),
    let live (n : Nat) : Prop := s.sec.step = n ∧ s.sec.failed = false
    let go (t : State) (n : Nat) : State := { t with sec := { t.sec with step := n } }
    (exec (.resetAssert true true) s = .next { s with sec := { s.sec with resetN := true, pgood := true } }) ∧
    (∀ n p, ¬(n = true ∧ p = true) → ∃ t, exec (.resetAssert n p) s = .next t ∧
      t.sec = { SecSt.reset with resetN := n, pgood := p, bootCount := s.sec.bootCount, bank := s.sec.bank, bankA := s.sec.bankA, bankB := s.sec.bankB, fuses := s.sec.fuses, fwRevoked := s.sec.fwRevoked, dbgRevoked := s.sec.dbgRevoked, anchors := s.sec.anchors } ∧
      t.ump = { Ump.reset with failovers := s.ump.failovers, slot0 := s.ump.slot0, slot1 := s.ump.slot1, committed := s.ump.committed, trialNote := s.ump.trialNote || s.ump.trial.isSome } ∧
      t.flt = { FltSt.reset with log := s.flt.log, count := s.flt.count } ∧
      t.tier = { TierSt.reset with written := s.tier.written, pkgs := s.tier.pkgs, retiredBytes := s.tier.retiredBytes, caveLost := s.tier.caveLost } ∧
      t.ring = { RingSt.reset with roles := s.ring.roles, recorded := s.ring.recorded } ∧
      (t.mem.homes = s.mem.homes ∧ t.mem.slots = s.mem.slots ∧ t.mem.vacated = s.mem.vacated ∧ t.mem.stack = [] ∧ t.mem.flips = []) ∧
      t.counter = 0 ∧ t.cores = [] ∧ t.clus = [] ∧ t.book = .reset ∧ t.sch = .reset ∧ t.wgt = .reset ∧ t.led = .reset ∧ t.upd = .reset ∧ t.cdc = .reset ∧
      t.smb = .reset ∧ t.pending = s.pending) ∧
    (live 1 → s.pwr.refGood = true → exec .resetRelease s = .next { s with
      sec := { s.sec with step := 2, resetN := true, pgood := true, bootCount := s.sec.bootCount + 1 }, pwr := { s.pwr with locked := true } }) ∧
    (¬live 1 ∨ s.pwr.refGood = false → exec .resetRelease s = .next s) ∧
    (live 2 →
      exec (.bootRom true true) s = .next (go { s with ump := { s.ump with acting := 0, standby := 0 } } 3) ∧
      exec (.bootRom true false) s = .next (go { s.retirePair 1 with ump := { (s.retirePair 1).ump with acting := 0, standby := 0 } } 3) ∧
      exec (.bootRom false true) s = .next (go { s.retirePair 0 with ump := { (s.retirePair 0).ump with acting := 1, standby := 0 } } 3) ∧
      exec (.bootRom false false) s = .next (((s.retirePair 0).retirePair 1).bootFail E_UMP_FAULT)) ∧
    (live 3 →
      let run (b : List Byte) (bank : Bool) : State := { s with
        sec := { s.sec with step := 4, bank := bank, fwVersion := leAt b 8 4, fwDigest := bytesAt b 64 64 }
        ump := { s.ump with standby := if s.flt.pairsRetired = 0 then 2 else 0 } }
      (s.bundleCode s.currentBank = 0 → exec .verify s = .next (run s.currentBank s.sec.bank)) ∧
      (s.bundleCode s.currentBank ≠ 0 → s.bundleCode s.otherBank = 0 → exec .verify s = .next (run s.otherBank (!s.sec.bank))) ∧
      (s.bundleCode s.currentBank ≠ 0 → s.bundleCode s.otherBank ≠ 0 → exec .verify s = .next { s with
        sec := { s.sec with step := 9, fault := s.bundleCode s.otherBank }, smb := { s.smb with alert := true } })) ∧
    (live 4 → ∀ bad : List Nat, ∃ u : State, u = { s with mem := { s.mem with chans := u.mem.chans }, free := s.free + 1 } ∧
      (∀ c, u.chan c = if c < 512 then { s.chan c with srKey := BitVec.ofNat 64 (s.fv c) } else s.chan c) ∧
      exec (.train bad) s = .next (go ((bad.filter (· < 512)).foldl State.autoMapout u) 5)) ∧
    (live 5 → ∀ bad : List Nat, exec (.selftest bad) s = .next (go (bad.foldl (fun u p => (u.declareFailed p).remapSpare (p / 26)) s) 6)) ∧
    (live 6 →
      let k := s.ump.committed
      let x := s.slotAt k
      let img : CfgImage := { x.img with courts := (cfgParse x.img.bytes).courts }
      let u0 : State := ({ s with ump := { s.ump with active := k } }).setSlot k { x with img := img }
      let u1 := (List.range 8).foldl img.boot (u0.writeQuotas .empty img)
      let u2 := (u1.areaAny .roster 262144).1
      exec .courts s = .next (go { u2 with sec := { u2.sec with certGen := u2.activeGen } } 7)) ∧
    (live 7 → exec (.platform true) s = .next (go s 8) ∧
      ∃ u : State, exec (.platform false) s = .next (go (u.openRecord (FRec.mk0 0 0 (ident 2 1024))) 8) ∧
        u = { s with ump := { s.ump with mbxs := u.ump.mbxs } } ∧ ∀ m, u.mbx m = { s.mbx m with closed := decide (m < 64) || (s.mbx m).closed }) ∧
    (live 8 → s.sec.ready = false →
      let fields := (List.range 16).filter (fun k => decide (2 ≤ s.roleOf (upPort k)) || decide (2 ≤ s.roleOf (downPort k)))
      let s1 := fields.foldl State.openRail { s with sec := { s.sec with ready := true } }
      (s.ring.recorded = none → exec .serve s = .next s1.mark) ∧
      (∀ p, s.ring.recorded = some p → exec .serve s = .next (({ s1 with ring := { s1.ring with joining := some (none, p) } }).joinOn).mark)) ∧
    (∀ a b bad ok, (¬live 2 → exec (.bootRom a b) s = .next s) ∧ (¬live 3 → exec .verify s = .next s) ∧ (¬live 4 → exec (.train bad) s = .next s) ∧
      (¬live 5 → exec (.selftest bad) s = .next s) ∧ (¬live 6 → exec .courts s = .next s) ∧ (¬live 7 → exec (.platform ok) s = .next s) ∧
      (¬live 8 ∨ s.sec.ready = true → exec .serve s = .next s)) ∧
    (
      let due := (2 ≤ s.sec.step ∨ (s.sec.resetN = true ∧ s.sec.pgood = true)) ∧ s.sec.step ≠ 9 ∧ s.sec.ready = false ∧ s.sec.failed = false
      (due → exec .startupTimeout s = .next { s with sec := { s.sec with failed := true } }) ∧ (¬due → exec .startupTimeout s = .next s))

/-- SMBus, the management session and debug unlock (R489, R494, R495, R498, R525). A transaction without a valid PEC, or before step 2, is
NACKed and changes nothing else; the reads show boot status, blade voltages and temperatures. XFER_END acts on the assembled transfer: a bundle that
passes R488 goes to bank A and start-up begins anew, an anchor change that passes is applied; a failure sets its bit. TLS_CONNECT takes the
lowest free management mailbox. A challenge and an unlock end at their times. (Log entry 61: the alert response is 0xA4.)
The choices made here are log entries 51 and 52. -/
def Obligations.SMBusAndDebug : Prop :=
  ∀ (s : State),
    let up (pec : Bool) : Prop := pec = true ∧ 2 ≤ s.sec.step
    let nack : State := { s with smb := { s.smb with out := [], nack := true } }
    let out (bs : List Byte) : State := { s with smb := { s.smb with out := bs, nack := false } }
    let ack (t : State) : State := { t with smb := { t.smb with out := [], nack := false } }
    (∀ pec, up pec →
      exec (.bootStatus pec) s = .next (out (leBytes 4 s.secBoot ++ leBytes 4 s.sec.bootCount.toNat ++ leBytes 4 s.fltBudget ++
        leBytes 4 (b2n s.smb.anchorRefused + 2 * b2n s.smb.bundleRefused))) ∧
      (∃ bs : List Byte, exec (.bladeVolts pec) s = .next (out bs) ∧ bs.length = 10 ∧ ∀ i < 5, leAt bs (2 * i) 2 = s.pwr.blades.toNat / 2 ^ (12 * i) % 4096) ∧
      exec (.thermal pec) s = .next (out (leBytes 2 s.pwr.hottest ++ leBytes 2 s.pwr.inlet ++ leBytes 2 s.pwr.outlet)) ∧
      (∀ d : List Byte, exec (.mgmtAddr pec d) s = .next (if d.length = 12 ∧ s.sec.step ≠ 9 then ack { s with smb := { s.smb with addr := d } } else nack)) ∧
      exec (.smbAlertResponse pec) s = .next (if s.smb.alert = true then { s with smb := { s.smb with alert := false, out := [0xA4], nack := false } } else nack)) ∧
    (∀ pec (d : List Byte), ¬up pec → exec (.bootStatus pec) s = .next nack ∧ exec (.bladeVolts pec) s = .next nack ∧ exec (.thermal pec) s = .next nack ∧
      exec (.mgmtAddr pec d) s = .next nack ∧ exec (.smbAlertResponse pec) s = .next nack ∧ exec (.xferData pec d) s = .next nack ∧ exec (.xferEnd pec d) s = .next nack) ∧
    (∀ pec (d : List Byte), up pec →
      let kind := leAt d 0 1
      let takes := (s.sec.step = 9 ∧ kind = 0) ∨ (s.sec.step ≠ 9 ∧ kind = 1)
      (6 ≤ d.length → d.length ≤ 255 → takes →
        (∀ m, s.smb.xfer = some (kind, m) →
          exec (.xferData pec d) s = .next (ack { s with smb := { s.smb with xfer := some (kind, Mem.wrBytes m (leAt d 1 4) (d.drop 5)) } })) ∧
        ((∀ m, s.smb.xfer ≠ some (kind, m)) →
          exec (.xferData pec d) s = .next (ack { s with smb := { s.smb with xfer := some (kind, Mem.wrBytes [] (leAt d 1 4) (d.drop 5)) } }))) ∧
      (d.length < 6 ∨ 255 < d.length ∨ ¬takes → exec (.xferData pec d) s = .next nack) ∧
      (d.length ≠ 5 ∨ ¬takes ∨ (∀ m, s.smb.xfer ≠ some (kind, m)) → exec (.xferEnd pec d) s = .next nack) ∧
      (∀ m, s.smb.xfer = some (kind, m) → d.length = 5 → takes →
        let b := Mem.rdBytes m 0 (leAt d 1 4)
        let s1 := { s with smb := { s.smb with xfer := none } }
        (kind = 0 → s.bundleCode b = 0 → exec (.xferEnd pec d) s = .next (ack ({ s1 with sec := { s.sec with bankA := b } }).restart)) ∧
        (kind = 0 → s.bundleCode b ≠ 0 → exec (.xferEnd pec d) s = .next (ack { s1 with smb := { s1.smb with bundleRefused := true } })) ∧
        (kind = 1 → s.anchorOk b = false → exec (.xferEnd pec d) s = .next (ack { s1 with smb := { s1.smb with anchorRefused := true } })) ∧
        (kind = 1 → s.anchorOk b = true → ∃ t, exec (.xferEnd pec d) s = .next t ∧
          t = ack { s1 with smb := { s1.smb with anchorRefused := false }, sec := { s.sec with anchors := t.sec.anchors } } ∧
          ∀ k, AMap.find? t.sec.anchors k = if k = leAt b 0 1 then (if leAt b 1 1 = 0 then some (bytesAt b 4 64) else none) else AMap.find? s.sec.anchors k))) ∧
    (∀ anchor : List Byte,
      let known := s.sec.ready = true ∧ ∃ e ∈ s.sec.anchors, e.2 = anchor
      (¬known ∨ (∀ m, 64 ≤ m → m < 68 → (s.mbx m).closed = false) → exec (.tlsConnect anchor) s = .next s) ∧
      (∀ m, known → 64 ≤ m → m < 68 → (s.mbx m).closed = true → (∀ j, 64 ≤ j → j < m → (s.mbx j).closed = false) →
        ∃ t, exec (.tlsConnect anchor) s = .next t ∧ t = { s with ump := { s.ump with mbxs := t.ump.mbxs } } ∧
          ∀ j, t.mbx j = if j = m then { s.mbx m with closed := false } else s.mbx j)) ∧
    (∀ m, (m < 64 ∨ 68 ≤ m ∨ (s.mbx m).closed = true → exec (.tlsClose m) s = .next s) ∧
      (64 ≤ m → m < 68 → (s.mbx m).closed = false → ∃ t, exec (.tlsClose m) s = .next t ∧ t = { s with ump := { s.ump with mbxs := t.ump.mbxs } } ∧
        ∀ j, t.mbx j = if j = m then { s.mbx m with closed := true, session := false, verMajor := 0, verMinor := 0, events := [] } else s.mbx j)) ∧
    (∀ ch e, s.sec.challenge = some (ch, e) → exec .debugChallengeExpiry s =
      .next (if e ≤ s.counter.toNat then { s with sec := { s.sec with challenge := none, token := none } } else s)) ∧
    (s.sec.challenge = none → exec .debugChallengeExpiry s = .next s) ∧
    (exec .debugUnlockExpiry s = .next (if s.sec.unlocked ≠ none ∧ s.sec.unlockEnd ≤ s.counter.toNat then { s with sec := { s.sec with unlocked := none, unlockEnd := 0 } } else s))

/-! Faults, audits, the ledger, the registers and the accesses of application cores (14 R379; 20 R500 to R512; 21 R516). -/

/-- Fault records, audits and the ledger (R379, R500, R503, R510 to R512). FAULT_RECORD_TAKE_IN gives a unit's first record not yet taken in the
next number, the counter and the boot count, logs it and tells the mailboxes. FAULT_RECORD_ACK takes a record that was taken in out of its unit; where records
were suppressed, an overflow record follows. AUDIT_PASS counts a pass and raises a record for each balance that does not hold, or counts a late
one. LEDGER_FOLD moves the whole units of every accumulator into the line of the context that holds its slot, and what is left stays in the
accumulator (log entries 2 and 86: what is counted as energy, and how).
The choices made here are log entries 56 and 57. -/
def Obligations.FaultsAuditsAndLedger : Prop :=
  ∀ (s : State),
    (∀ unit,
      let q := s.unitQ unit
      ((∀ e ∈ q.recs, e.2 = true) → exec (.faultRecordTakeIn unit) s = .next s) ∧
      (∀ (pre post : List (FRec × Bool)) (r : FRec), q.recs = pre ++ (r, false) :: post → (∀ e ∈ pre, e.2 = true) →
        let r1 : FRec := { r with number := s.flt.count.toNat + 1, counter := s.counter, boot := s.sec.bootCount, source := r.source + 2 ^ 28 * s.ring.position }
        ∃ t, exec (.faultRecordTakeIn unit) s = .next t ∧
          t = { s with flt := { s.flt with units := t.flt.units, log := t.flt.log, count := s.flt.count + 1 }, ump := t.ump, smb := { s.smb with alert := s.smb.alert || decide (r.severity = 2) } } ∧
          t.unitQ unit = { q with recs := pre ++ (r, true) :: post } ∧ (∀ k, k ≠ unit → t.unitQ k = s.unitQ k) ∧
          (s.flt.log.length < 65536 → ∀ k, AMap.find? t.flt.log k = if k = r1.number then some r1 else AMap.find? s.flt.log k)) ∧
      ((∀ r rest, q.recs ≠ (r, true) :: rest) → exec (.faultRecordAck unit) s = .next s) ∧
      (∀ r rest, q.recs = (r, true) :: rest →
        (q.suppressed = 0 → exec (.faultRecordAck unit) s = .next (s.setUnit unit { q with recs := rest })) ∧
        (q.suppressed ≠ 0 → exec (.faultRecordAck unit) s = .next (s.setUnit unit ⟨rest ++
          [({ FRec.mk0 E_FLT_OVERFLOW q.topSeverity unit with d0 := min q.suppressed (2 ^ 32 - 1), d1 := q.firstCode.toNat }, false)], 0, 0, 0⟩)))) ∧
    (∀ k late, 7 ≤ k → exec (.auditPass k late) s = .next s) ∧
    (∀ k, k < 7 → exec (.auditPass k true) s = .next (s.setAud k { s.aud k with late := (s.aud k).late + 1 })) ∧
    (∀ k, k < 7 →
      let bad := (s.balances k).filter (fun b => decide (b.2 ≠ 0))
      exec (.auditPass k false) s = .next (bad.foldl (fun u b => u.raise { FRec.mk0 E_AUD_MISMATCH 2 (ident 2 1024) with
          d0 := k + 256 * (b.1 % 2 ^ 24), d1 := (BitVec.ofInt 32 (max (-2147483647) (min 2147483647 b.2))).toNat })
        (s.setAud k ⟨(s.aud k).passes + 1, (s.aud k).mismatches + bad.length, (s.aud k).late, s.counter⟩))) ∧
    (let u := s.countIdle.countUnstated
     let unit (item : Nat) : Nat := if item ≤ 3 then 3300 else if item = 10 then 844800000000 else 1
     ∃ t, exec .ledgerFold s = .next t ∧ t = { s with led := t.led, free := s.free + 1 } ∧ t.led.folds = s.led.folds + 1 ∧
      (AMap.wf u.led.acc = true → (∀ k, AMap.getD t.led.acc 0 k = AMap.getD u.led.acc 0 k % unit (k % 16)) ∧
        ∀ line item, line < 1025 → item < 16 → AMap.getD t.led.lines 0 (16 * line + item) = AMap.getD s.led.lines 0 (16 * line + item) +
          ((u.led.acc.filter (fun e => decide (u.ledLineOf (e.1 % 65536 / 16) = line) && decide (e.1 % 16 = item))).map
            (fun e => BitVec.ofNat 64 (e.2 / unit item))).foldr (· + ·) 0))

/-- Registers, object accesses and frames (R7, R278, R459, R516). A REGISTER_WRITE of another width, to an instance or an offset without a register,
does nothing, and such an offset reads zero; a value outside a field's range is ignored, and the register of a mailbox, a core or a cluster takes its value,
also while the core runs. A write of CORE_CTRL with bit 16 or 17 is CORE_RUN or CORE_HALT; CORE_MFMT takes a permitted pair only, and another
stops a running core with E_CORE_FMT (02 R47). An application core's access reads, writes or adds at the address under its context, and is
answered with the code and the bytes read (11 R278). A frame at a field port is stamped with its hub's counter.
The choices made here are log entries 53, 54 and 75. -/
def Obligations.RegistersAndAccesses : Prop :=
  ∀ (s : State),
    (∀ blk inst off width (v : W64), instOk blk inst off = false ∨ regWidth blk off = 0 ∨ width ≠ regWidth blk off →
      exec (.registerWrite blk inst off width v) s = .next s) ∧
    (∀ blk inst off, regWidth blk off = 0 → s.readReg blk inst off = 0) ∧
    (∀ (inst : Nat) (v : W64),
      (∀ k p, inst < 25000 → s.physOf inst = some p → k ∈ [1, 2, 3] → ∃ t, exec (.registerWrite 1 inst (0x18 + 8 * k) 64 v) s = .next t ∧
        t = { s with cores := t.cores } ∧ (∀ q, q ≠ p → t.core q = s.core q) ∧
        (t.core p).now = { (s.core p).now with pmask := (t.core p).now.pmask } ∧
        ∀ j, AMap.find? (t.core p).now.pmask j = if j = k then some (v.setWidth 32, (v >>> 32).setWidth 32) else AMap.find? (s.core p).now.pmask j) ∧
      (∀ p, inst < 25000 → s.physOf inst = some p →
        let c := (s.core p).now
        let pair := pairOf (v.toNat % 16) (v.toNat / 16 % 16)
        (v.getLsbD 16 = true → exec (.registerWrite 1 inst 0x08 32 v) s = exec (.coreRun inst (v.setWidth 32)) s) ∧
        (v.getLsbD 17 = true → exec (.registerWrite 1 inst 0x08 32 v) s = exec (.coreHalt inst (v.setWidth 32)) s) ∧
        (pair ≠ none → exec (.registerWrite 1 inst 0x18 32 v) s =
          .next (s.modCore p (fun c => { c with mfmtA := v.setWidth 4, mfmtB := (v >>> 4).setWidth 4 }))) ∧
        (pair = none → c.st = .running → c.stopping = none → exec (.registerWrite 1 inst 0x18 32 v) s = .next (s.stopNow p E_CORE_FMT)) ∧
        (pair = none → c.st ≠ .running ∨ c.stopping ≠ none → exec (.registerWrite 1 inst 0x18 32 v) s = .next s)) ∧
      (inst < 1000 →
        (exec (.registerWrite 2 inst 0 32 v) s = .next (if ∃ e ∈ s.cores, e.1 / 26 = inst ∧ e.2.now.st = .running then s
          else s.modClu inst (fun c => { c with tbReserve := v.setWidth 2, stgReserve := (v >>> 2).setWidth 2 }))) ∧
        (v.setWidth 24 ≠ 0#24 → exec (.registerWrite 2 inst 0x10 32 v) s = .next (s.modClu inst (fun c => { c with haloTmo := v.setWidth 24 }))) ∧
        (v.setWidth 24 = 0#24 → ∃ t, exec (.registerWrite 2 inst 0x10 32 v) s = .next t ∧ ∀ n, t.clu n = s.clu n)) ∧
      (inst < 512 → exec (.registerWrite 5 inst 0 64 v) s = .next (s.modChan inst (fun c => { c with srKey := v })) ∧
        exec (.registerWrite 5 inst 8 64 v) s = .next (s.modChan inst (fun c => { c with srCtr := v })))) ∧
    (∀ (v : W64),
      let win := ((v >>> 8).setWidth 11 : BitVec 11)
      (exec (.registerWrite 3 0 0x1000 32 v) s = .next { s with book := { s.book with fbEnable := v.getLsbD 0, fbWindow := if win ≠ 0 ∧ win.toNat ≤ 1024 then win else s.book.fbWindow } }) ∧
      (exec (.registerWrite 4 0 0x08 32 v) s = .next { s with mem := { s.mem with auto := v.getLsbD 0, floor := (v >>> 8).setWidth 10 } }) ∧
      (exec (.registerWrite 4 0 0x10 32 v) s = .next { s with mem := { s.mem with ceLimit := if v.setWidth 16 = 0#16 then s.mem.ceLimit else v.setWidth 16 } }) ∧
      (exec (.registerWrite 4 0 0x18 32 v) s = .next { s with mem := { s.mem with scrubOn := v.getLsbD 0, scrubPeriod := if 60 ≤ win.toNat ∧ win.toNat ≤ 1440 then win else s.mem.scrubPeriod } }) ∧
      (exec (.registerWrite 7 0 0 32 v) s = .next { s with tier := { s.tier with budget := if v.setWidth 16 ≠ 0#16 ∧ (v.setWidth 16 : BitVec 16).toNat ≤ 750 then v.setWidth 16 else s.tier.budget } }) ∧
      (s.tier.selTier ≠ 3 → ∃ t, exec (.registerWrite 6 0 0x18 64 v) s = .next t ∧ t = { s with tier := { s.tier with limit := t.tier.limit } } ∧
        ∀ k, AMap.getD t.tier.limit 0 k = if k = 4 * s.tier.selClient.toNat + s.tier.selTier.toNat then v.toNat % 2 ^ 36 else AMap.getD s.tier.limit 0 k) ∧
      (exec (.registerWrite 15 0 0x20 32 v) s = .next { s with ring := { s.ring with huddleTmo := if v.setWidth 16 = 0#16 then s.ring.huddleTmo else v.setWidth 16 } }) ∧
      (∀ m, m < 72 → exec (.registerWrite 14 0 (64 * m) 32 v) s = .next (s.modMbx m (fun b => b.setTail (v.setWidth 16))) ∧
        exec (.registerWrite 14 0 (64 * m + 0x18) 32 v) s = .next (s.modMbx m (fun b => { b.setHead (v.setWidth 16) with irq := false })) ∧
        exec (.registerWrite 14 0 (64 * m + 0x20) 64 v) s = .next (s.modMbx m (fun b => { b with irqEn := v.getLsbD 2 })))) ∧
    (∀ core ctx,
      let ac : Access := ⟨.app ctx, 1, ctx, ident 2 (1024 + core / 16)⟩
      let told (u : State) (code : Code) (d : List Byte) : Host.Outcome State Fault Refusal := .next (u.answerUnit (196608 + core) code d)
      (∀ a n, let r := s.objRead ac a n
        (r.2.1 = 0 → exec (.appCoreObjectAccess ⟨core, ctx⟩ (.read a n)) s = told (r.1.chargeBytesAt ac.unit 1024 false a n) 0 r.2.2) ∧
        (r.2.1 ≠ 0 → exec (.appCoreObjectAccess ⟨core, ctx⟩ (.read a n)) s = told r.1 r.2.1 [])) ∧
      (∀ a (d : List Byte), let r := s.objWrite ac a d
        (r.2 = 0 → exec (.appCoreObjectAccess ⟨core, ctx⟩ (.write a d)) s = told (r.1.chargeBytesAt ac.unit 1024 true a d.length) 0 []) ∧
        (r.2 ≠ 0 → exec (.appCoreObjectAccess ⟨core, ctx⟩ (.write a d)) s = told r.1 r.2 [])) ∧
      (∀ a code (x : W64), let w := vatWidth code
        let r := s.objVat ac code a (leBytes w x.toNat)
        (w < 4 ∨ a % w ≠ 0 → exec (.appCoreObjectAccess ⟨core, ctx⟩ (.vat a code x)) s = .next s) ∧
        (4 ≤ w → a % w = 0 → r.2.1 = 0 → exec (.appCoreObjectAccess ⟨core, ctx⟩ (.vat a code x)) s =
          told ((r.1.chargeBytesAt ac.unit 1024 false a w).chargeBytesAt ac.unit 1024 true a w) 0 r.2.2) ∧
        (4 ≤ w → a % w = 0 → r.2.1 ≠ 0 → exec (.appCoreObjectAccess ⟨core, ctx⟩ (.vat a code x)) s = told r.1 r.2.1 []))) ∧
    (∀ port rx (d : List Byte),
      let ok := port < 48 ∧ 2 ≤ s.roleOf port ∧ s.pwr.ps5 = false ∧ d ≠ [] ∧ d.length ≤ 9216
      (¬ok → exec (.fieldPortFrame port rx d) s = .next s) ∧
      (ok → ∃ t, exec (.fieldPortFrame port rx d) s = .next t ∧ t = { s with ring := { s.ring with fields := t.ring.fields }, led := t.led } ∧
        (rx = true → t.led = s.led) ∧
        ∀ k, AMap.getD t.ring.fields .reset k = if k ≠ port then AMap.getD s.ring.fields .reset k
          else if rx = true then { AMap.getD s.ring.fields .reset port with rx := d, rxStamp := s.hubCounter (port / 12), rxOk := frameOk d }
          else { AMap.getD s.ring.fields .reset port with tx := frameSend d, txStamp := s.hubCounter (port / 12) }))

/-! Requests (16 R421 to R438 and the message tables of each chapter). `u` is the state once the request has left the intake. -/

/-- Requests of sessions and configuration (R423, R424, R430 to R436). A message command whose request is not the one served next does nothing.
MSG_HELLO opens a session at version 1.0 where it lies in the range; MSG_BYE's response is the session's last. MSG_CONFIG_WRITE fills the slot not
in force. MSG_CONFIG_COMMIT opens a trial of it, which MSG_CONFIG_CONFIRM commits and MSG_CONFIG_REVERT ends; a failed check is told and changes
nothing else.
The choices made here are log entries 33 and 34. -/
def Obligations.SessionAndConfigurationRequests : Prop :=
  ∀ (s : State),
    (∀ i op m, msgOf i = some (op, m) → (∀ r, ¬s.Serves op m r) → exec i s = .next s) ∧
    (∀ (r : Req) (m : Nat),
      let u := s.takeReq r
      let ran (i : Instr) (op : Nat) (t : State) : Prop := s.Serves op m r → exec i s = .next t
      let lo := 256 * r.fld 0 1 + r.fld 1 1
      let hi := 256 * r.fld 2 1 + r.fld 3 1
      let opened := (u.modMbx m (fun b => { b with session := true, verMajor := 1, verMinor := 0, events := [], expect := BitVec.ofNat 32 (r.seq + 1), evCount := 0, dropMark := false })).answer r 0 (u.helloBody r 1)
      (lo ≤ 256 → 256 ≤ hi → isMgmt m = false ∨ s.ump.trialNote = false → ran (.msgHello m) 0x0001 opened) ∧
      (lo ≤ 256 → 256 ≤ hi → isMgmt m = true → s.ump.trialNote = true →
        let t := opened.event m 0x0106 0xFFFF (configEvent 3 0 s.activeGen)
        ran (.msgHello m) 0x0001 { t with ump := { t.ump with trialNote := false } }) ∧
      (256 < lo ∨ hi < 256 → ran (.msgHello m) 0x0001 ((u.modMbx m Mbx.close).answer r E_UMP_VERSION (u.helloBody r 0))) ∧
      ran (.msgBye m) 0x0002 (((u.modMbx m (fun b => { b with events := [] })).answer r 0 []).modMbx m
        (fun b => { b with session := false, verMajor := 0, verMinor := 0, events := [] })) ∧
      ran (.msgPing m) 0x0003 (u.answer r 0 (r.body.take 1006)) ∧
      ran (.msgUmpQuery m) 0x0004 (u.answer r 0 (leBytes 2 0 ++ leBytes 4 u.umpStatus ++ leBytes 4 u.umpIntake ++ leBytes 4 u.umpDefer)) ∧
      -- configuration
      (let none_ := leBytes 2 0xFFFF
       let w := u.objRead r.access (r.fld 0 8) (r.fld 8 4)
       let gen := max s.ump.slot0.gen s.ump.slot1.gen + 1
       (s.ump.trial ≠ none → ran (.msgConfigWrite m) 0x0100 (u.answer r E_CFG_TRIAL (none_ ++ leBytes 12 0))) ∧
       (s.ump.trial = none → r.fld 8 4 ≤ 4194304 → w.2.1 ≠ 0 → ran (.msgConfigWrite m) 0x0100 (w.1.answer r w.2.1 (none_ ++ leBytes 12 0))) ∧
       (∀ i, s.ump.trial = none → r.fld 8 4 ≤ 4194304 → w.2.1 = 0 → cfgFail w.2.2 = some i → ran (.msgConfigWrite m) 0x0100 (w.1.answer r E_CFG_FORMAT (leBytes 2 i ++ leBytes 12 0))) ∧
       (s.ump.trial = none → r.fld 8 4 ≤ 4194304 → w.2.1 = 0 → cfgFail w.2.2 = none → ran (.msgConfigWrite m) 0x0100
          ((w.1.setSlot (1 - s.ump.active) ⟨cfgParse w.2.2, gen⟩).answer r 0 (none_ ++ leBytes 4 0 ++ leBytes 8 gen)))) ∧
      (let tell (t : State) (code : Code) (check court : Nat) : State := t.answer r code ([BitVec.ofNat 8 check, BitVec.ofNat 8 court] ++ leBytes 4 0 ++ leBytes 8 t.activeGen)
       let k := 1 - s.ump.active
       let secs := r.fld 8 2
       let inTrial (n : Nat) : State :=
          let t := (u.switchTo k).1
          { t with ump := { t.ump with trial := some ⟨r.fld 0 8, n, 1 - k, u.mismatches⟩, trialFailover := false } }
       (s.ump.trial ≠ none → ran (.msgConfigCommit m) 0x0101 (tell u E_CFG_TRIAL 3 0xFF)) ∧
       (s.ump.trial = none → (0 < secs ∧ secs < 10) ∨ 3600 < secs → ran (.msgConfigCommit m) 0x0101 (tell u E_CFG_ARG 1 0xFF)) ∧
       (s.ump.trial = none → secs = 0 ∨ (10 ≤ secs ∧ secs ≤ 3600) →
         (∀ f, u.commitFail k (r.fld 0 8) = some f → ran (.msgConfigCommit m) 0x0101 (tell u f.1 f.2.1 f.2.2)) ∧
         (u.commitFail k (r.fld 0 8) = none → ran (.msgConfigCommit m) 0x0101 (tell (inTrial (if secs = 0 then 60 else secs)) 0 0 0xFF))) ∧
       (s.ump.trial = none →
         (∀ f, u.commitFail k (r.fld 0 8) = some f → ran (.msgConfigRevert m) 0x0103 (tell u f.1 f.2.1 f.2.2)) ∧
         (u.commitFail k (r.fld 0 8) = none → ran (.msgConfigRevert m) 0x0103 (tell (inTrial 60) 0 0 0xFF))) ∧
       (∀ t : Trial, s.ump.trial = some t →
         (r.fld 0 8 = t.gen → ∃ v : State, v = { u with ump := { u.ump with trial := none, trialFailover := false, committed := s.ump.active } } ∧
           ran (.msgConfigConfirm m) 0x0102 ((v.eventMgmt 0x0106 0xFFFF (configEvent 0 0 s.activeGen)).answer r 0 (leBytes 6 0))) ∧
         (r.fld 0 8 ≠ t.gen → ran (.msgConfigConfirm m) 0x0102 (u.answer r E_CFG_GEN (leBytes 6 0))) ∧
         (r.fld 0 8 ≠ (s.slotAt t.prev).gen → ran (.msgConfigRevert m) 0x0103 (tell u E_CFG_GEN 2 0xFF)) ∧
         (r.fld 0 8 = (s.slotAt t.prev).gen →
           let v := (u.switchTo t.prev).1
           let v1 := { v with ump := { v.ump with trial := none, trialFailover := false } }
           ran (.msgConfigRevert m) 0x0103 (tell (v1.eventMgmt 0x0106 0xFFFF (configEvent 2 0 v1.activeGen)) 0 0 0xFF))) ∧
       (s.ump.trial = none → ran (.msgConfigConfirm m) 0x0102 (u.answer r E_CFG_GEN (leBytes 6 0)))) ∧
      ran (.msgConfigQuery m) 0x0104 (u.answer r 0 ([BitVec.ofNat 8 s.ump.active, BitVec.ofNat 8 (b2n s.ump.trial.isSome)] ++
        leBytes 2 (match s.ump.trial with | some t => t.left | none => 0) ++ leBytes 2 0 ++ leBytes 8 s.ump.slot0.gen ++ leBytes 8 s.ump.slot1.gen)) ∧
      (let img := (s.slotAt (r.fld 0 1)).img.bytes
       let w := u.objWrite r.access (r.fld 8 8) img
       (1 < r.fld 0 1 ∨ r.fld 16 8 < img.length → ran (.msgConfigRead m) 0x0105 (u.answer r E_CFG_FORMAT (leBytes 14 0))) ∧
       (r.fld 0 1 ≤ 1 → img.length ≤ r.fld 16 8 → w.2 = 0 → ran (.msgConfigRead m) 0x0105 (w.1.answer r 0 (leBytes 6 0 ++ leBytes 8 img.length))) ∧
       (r.fld 0 1 ≤ 1 → img.length ≤ r.fld 16 8 → w.2 ≠ 0 → ran (.msgConfigRead m) 0x0105 (w.1.answer r w.2 (leBytes 14 0)))))

/-- Requests of the platform: memory, registers, faults, audits, the ledger, power, the ring, security and firmware (R270, R271, R386, R438, R444, R453,
R461, R480, R492, R496 to R498, R513, R515, R516). A query is answered with what it asks for; a request that passes its checks has its effect; one that fails
is answered with its code and has none.
The choices made here are log entry 74. -/
def Obligations.PlatformRequests : Prop :=
  ∀ (s : State) (r : Req) (m : Nat),
    let u := s.takeReq r
    let ran (i : Instr) (op : Nat) (t : State) : Prop := s.Serves op m r → exec i s = .next t
    let z (n : Nat) := leBytes n 0
    -- memory
    (let c := r.fld 0 2
     let body (st homes ce ue : Nat) : List Byte := [BitVec.ofNat 8 st, 0] ++ leBytes 2 s.shownLive ++ leBytes 2 homes ++ leBytes 4 ce ++ leBytes 4 ue ++ leBytes 4 s.mem.sweeps.toNat ++ z 4
     (c < 512 → ran (.msgMemQuery m) 0x0660 (u.answer r 0 (body (s.chan c).st (s.homesOn c) (s.chan c).ceHour (s.chan c).ue))) ∧
     (c = 0xFFFF → ran (.msgMemQuery m) 0x0660 (u.answer r 0 (body 0 0 (s.mem.chans.map (fun e => e.2.ceHour)).sum (s.mem.chans.map (fun e => e.2.ue)).sum))) ∧
     (512 ≤ c → c ≠ 0xFFFF → ran (.msgMemQuery m) 0x0660 (u.answer r E_MAP_STATE (z 22))) ∧
     (u.mapoutCode c = 0 → ran (.msgChanMapout m) 0x0661 (u.startMapout c (some r))) ∧
     (u.mapoutCode c ≠ 0 → ran (.msgChanMapout m) 0x0661 ((u.mapoutRecord c (u.mapoutCode c) 1).answer r (u.mapoutCode c) (leBytes 2 s.shownLive ++ z 12)))) ∧
    -- registers
    (let blk := r.fld 0 1
     let inst := r.fld 2 2
     let off := r.fld 4 4
     (instOk blk inst off = false → ran (.msgRegRead m) 0x0D04 (u.answer r E_REG_ADDR (z 14)) ∧ ran (.msgRegWrite m) 0x0D05 (u.answer r E_REG_ADDR [])) ∧
     (instOk blk inst off = true → regWidth blk off = 0 → ran (.msgRegRead m) 0x0D04 (u.answer r 0 (z 6 ++ z 8)) ∧ ran (.msgRegWrite m) 0x0D05 (u.answer r 0 [])) ∧
     (instOk blk inst off = true → regWidth blk off ≠ 0 → ran (.msgRegRead m) 0x0D04 (u.answer r 0 (z 6 ++ leBytes 8 (u.readReg blk inst off))) ∧
       ran (.msgRegWrite m) 0x0D05 ((u.writeReg blk inst off (BitVec.ofNat 64 (r.fld 8 8))).answer r 0 []))) ∧
    -- faults, audits, the ledger
    (let bad := r.fld 8 4 = 0 ∨ 4096 < r.fld 8 4 ∨ 2 < r.fld 12 1 ∨ r.fld 16 8 % 64 ≠ 0 ∨ r.fld 24 8 < 64 * r.fld 8 4
     let all := u.matching r (r.fld 0 8) (r.fld 12 1)
     let recs := all.take (r.fld 8 4)
     let w := u.objWrite r.access (r.fld 16 8) (recs.flatMap FRec.bytes)
     (bad → ran (.msgFaultRead m) 0x0D01 (u.answer r E_FLT_ARG (z 14))) ∧
     (¬bad → w.2 ≠ 0 → ran (.msgFaultRead m) 0x0D01 (w.1.answer r w.2 (z 14))) ∧
     (¬bad → w.2 = 0 → all.length ≤ r.fld 8 4 → ran (.msgFaultRead m) 0x0D01 (w.1.answer r 0 (z 2 ++ leBytes 4 recs.length ++ leBytes 8 (s.flt.count.toNat + 1)))) ∧
     (∀ x, ¬bad → w.2 = 0 → r.fld 8 4 < all.length → recs.getLast? = some x → ran (.msgFaultRead m) 0x0D01 (w.1.answer r 0 (z 2 ++ leBytes 4 recs.length ++ leBytes 8 (x.number + 1))))) ∧
    (let k := r.fld 0 1
     (6 < k → ran (.msgAuditQuery m) 0x0D03 (u.answer r E_FLT_ARG (z 30))) ∧
     (k ≤ 6 → ran (.msgAuditQuery m) 0x0D03 (u.answer r 0 (z 6 ++ leBytes 8 (s.aud k).passes.toNat ++ leBytes 4 (min (s.aud k).mismatches 65535) ++ leBytes 4 (min (s.aud k).late 65535) ++ leBytes 8 (s.aud k).last.toNat)))) ∧
    (let bad := r.fld 2 2 = 0 ∨ 1026 < r.fld 0 2 + r.fld 2 2 ∨ r.fld 8 8 % 64 ≠ 0
     let v := u.foldLedger
     let w := v.objWrite r.access (r.fld 8 8) ((List.range (r.fld 2 2)).flatMap (fun i => if seesLine r (r.fld 0 2 + i) then v.lineRecord (r.fld 0 2 + i) else z 128))
     (bad → ran (.msgLedgerRead m) 0x0D00 (u.answer r E_SCH_ARG (z 14))) ∧
     (¬bad → w.2 ≠ 0 → ran (.msgLedgerRead m) 0x0D00 (w.1.answer r w.2 (z 14))) ∧
     (¬bad → w.2 = 0 → ran (.msgLedgerRead m) 0x0D00 (w.1.answer r 0 (z 6 ++ leBytes 8 w.1.led.folds.toNat)))) ∧
    -- power
    (let court := r.fld 0 1
     let tol := r.fld 4 4
     let mg := bitOf (r.fld 1 1) 0
     let told (t : State) : State := t.answer r 0 ([BitVec.ofNat 8 (t.shownPs court), 0] ++ leBytes 4 (exitUs (t.shownPs court)))
     (mg = true ∨ court = 0xFF → isMgmt r.mbx = false → ran (.msgPwrTolerance m) 0x0A00 (u.answer r E_PWR_PERM (z 6))) ∧
     (court = 0xFF → isMgmt r.mbx = true →
        ran (.msgPwrTolerance m) 0x0A00 (told (if tol < 2000000 then ({ u with pwr := { u.pwr with tolModule := tol } }).leavePs5 else { u with pwr := { u.pwr with tolModule := tol } }))) ∧
     (court ≠ 0xFF → s.courtDefined court = true → mg = true → isMgmt r.mbx = true →
        ran (.msgPwrTolerance m) 0x0A00 (told (({ u with pwr := { u.pwr with tolCourt := AMap.setD u.pwr.tolCourt 30000 court tol } }).retune court (u.effTol court)))) ∧
     (court ≠ 0xFF → s.courtDefined court = true → mg = false → r.ctx < 1024 →
        ran (.msgPwrTolerance m) 0x0A00 (told (({ u with pwr := { u.pwr with tolCtx := AMap.setD u.pwr.tolCtx 1 (1024 * court + r.ctx) tol } }).retune court (u.effTol court)))) ∧
     (3 < r.fld 0 1 → ran (.msgPwrProfile m) 0x0A01 (u.answer r E_PWR_ARG (leBytes 1 s.pwr.profile ++ z 5))) ∧
     (r.fld 0 1 ≤ 3 → ran (.msgPwrProfile m) 0x0A01 (({ u with pwr := { u.pwr with profile := r.fld 0 1 } }).answer r 0 (leBytes 1 (r.fld 0 1) ++ z 5))) ∧
     (s.courtDefined court = false → ran (.msgPwrQuery m) 0x0A02 (u.answer r E_PWR_ARG (z 16))) ∧
     (s.courtDefined court = true → ran (.msgPwrQuery m) 0x0A02 (u.answer r 0 ([BitVec.ofNat 8 (s.shownPs court), BitVec.ofNat 8 s.pwr.profile] ++ leBytes 4 (s.effTol court) ++
        leBytes 4 s.pwr.now ++ leBytes 4 s.pwr.mean ++ [BitVec.ofNat 8 (max s.pwr.capA s.pwr.capV), 0])))) ∧
    -- the ring
    (∃ bs : List Byte, bs.length = 142 ∧ bs.take 5 = leBytes 1 (b2n s.ring.member) ++ leBytes 1 (if s.ring.member then s.ring.position else 0xFF) ++ leBytes 2 s.memberMask ++ leBytes 1 s.railCount ∧
      ran (.msgRingQuery m) 0x0900 (u.answer r 0 bs)) ∧
    (let p := r.fld 0 1
     (s.ring.member = true ∨ s.ring.joining ≠ none → ran (.msgRingJoin m) 0x0901 (u.answer r E_RING_STATE (z 8))) ∧
     (s.ring.member = false → s.ring.joining = none → 15 < p → p ≠ 0xFF → ran (.msgRingJoin m) 0x0901 (u.answer r E_RING_POSITION (z 8))) ∧
     (s.ring.member = false → s.ring.joining = none → p ≤ 15 ∨ p = 0xFF → ran (.msgRingJoin m) 0x0901 ({ u with ring := { u.ring with joining := some (some r, p) } }).joinOn) ∧
     (s.ring.member = false ∨ s.ring.leaving ≠ none → ran (.msgRingLeave m) 0x0902 (u.answer r E_RING_STATE (z 6))) ∧
     (s.ring.member = true → s.ring.leaving = none → ran (.msgRingLeave m) 0x0902 { u with ring := { u.ring with leaving := some r } })) ∧
    (let port := r.fld 0 1
     let role := r.fld 1 1
     let fits := port < 48 ∧ role ≤ 3 ∧ (role = 1 → isRailPort port = true)
     (¬fits → ran (.msgPortRole m) 0x0904 (u.answer r E_PORT_ROLE (leBytes 1 (if port < 48 then s.roleOf port else 0) ++ z 5))) ∧
     (fits → s.roleOf port = role → ran (.msgPortRole m) 0x0904 (u.answer r 0 (leBytes 1 role ++ z 5))) ∧
     (fits → s.roleOf port ≠ role → isRailPort port = true → s.ring.member = true ∨ s.ring.joining ≠ none → ran (.msgPortRole m) 0x0904 (u.answer r E_RING_STATE (leBytes 1 (s.roleOf port) ++ z 5))) ∧
     (fits → s.roleOf port ≠ role → isRailPort port = false →
        let v := (u.setRole port role).setLink port ((u.link port).cut 0)
        ran (.msgPortRole m) 0x0904 (v.answer r 0 (leBytes 1 (v.roleOf port) ++ z 5)))) ∧
    -- security
    (let bad := 64 ≤ r.fld 32 1 ∨ (7 < r.fld 33 1 ∧ r.fld 33 1 ≠ 0xFF) ∨ 63 < r.fld 34 1 ∨ r.fld 40 8 % 64 ≠ 0
     let es := u.quoteEntries m (r.fld 32 1) (r.fld 33 1) (r.fld 34 1)
     let n := 64 + 80 * es.length + 4627
     let w := u.objWrite r.access (r.fld 40 8) (u.quote (r.body.take 32) es)
     (bad → ran (.msgAttestQuote m) 0x0B00 (u.answer r E_SEC_ARG (z 6))) ∧
     (¬bad → r.fld 48 8 < n → ran (.msgAttestQuote m) 0x0B00 (u.answer r E_SEC_ROOM (z 6))) ∧
     (¬bad → n ≤ r.fld 48 8 → w.2 ≠ 0 → ran (.msgAttestQuote m) 0x0B00 (w.1.answer r w.2 (z 6))) ∧
     (¬bad → n ≤ r.fld 48 8 → w.2 = 0 → ran (.msgAttestQuote m) 0x0B00 (w.1.answer r 0 (leBytes 2 es.length ++ leBytes 4 n)))) ∧
    (let bad := 4 < r.fld 0 1
     let d := u.certs (r.fld 0 1)
     let w := u.objWrite r.access (r.fld 8 8) d
     (bad → ran (.msgIdCert m) 0x0B01 (u.answer r E_SEC_ARG (z 6))) ∧
     (¬bad → r.fld 16 8 < d.length → ran (.msgIdCert m) 0x0B01 (u.answer r E_SEC_ROOM (z 6))) ∧
     (¬bad → d.length ≤ r.fld 16 8 → w.2 ≠ 0 → ran (.msgIdCert m) 0x0B01 (w.1.answer r w.2 (z 6))) ∧
     (¬bad → d.length ≤ r.fld 16 8 → w.2 = 0 → ran (.msgIdCert m) 0x0B01 (w.1.answer r 0 (z 2 ++ leBytes 4 d.length)))) ∧
    (∃ ch : List Byte, ch.length = 64 ∧ ch.drop 56 = leBytes 4 s.sec.bootCount.toNat ++ leBytes 4 s.counter.toNat ∧
      ran (.msgDebugChallenge m) 0x0B02 (({ u with sec := { u.sec with challenge := some (ch, s.counter.toNat + 30000000000), token := none }, free := s.free + 1 }).answer r 0 (z 6 ++ ch))) ∧
    (let part := r.fld 0 1
     let parts := r.fld 1 1
     let n := r.fld 2 2
     let fits := part ≤ 7 ∧ 1 ≤ parts ∧ parts ≤ 8 ∧ 1 ≤ n ∧ n ≤ 992 ∧ 16 + n ≤ r.body.length
     let data := (r.body.drop 16).take n
     (¬fits → ran (.msgDebugUnlock m) 0x0B03 (u.answer r E_SEC_ARG [])) ∧
     (∀ ch e, fits → s.sec.challenge = some (ch, e) → s.counter.toNat < e →
       (s.sec.token = none → part = 0 → 1 < parts → ran (.msgDebugUnlock m) 0x0B03 (({ u with sec := { u.sec with token := some (1, parts, data) } }).answer r 0 [])) ∧
       (∀ before, s.sec.token = some (part, parts, before) →
         (part + 1 < parts → ran (.msgDebugUnlock m) 0x0B03 (({ u with sec := { u.sec with token := some (part + 1, parts, before ++ data) } }).answer r 0 [])) ∧
         (parts ≤ part + 1 → s.tokenOk ch (before ++ data) = false → ran (.msgDebugUnlock m) 0x0B03 (({ u with sec := { u.sec with challenge := none, token := none } }).answer r E_DBG_VERIFY [])) ∧
         (parts ≤ part + 1 → s.tokenOk ch (before ++ data) = true →
           let open_ : SecSt := { u.sec with challenge := none, token := none, unlocked := some (leAt (before ++ data) 64 1), unlockEnd := s.counter.toNat + leAt (before ++ data) 68 4 * 100000000 }
           ran (.msgDebugUnlock m) 0x0B03 ((({ u with sec := open_ }).raise (FRec.mk0 E_DBG_UNLOCKED 0 (ident 2 1024))).answer r 0 [])))) ∧
     (fits → (∀ ch e, s.sec.challenge = some (ch, e) → e ≤ s.counter.toNat) → ran (.msgDebugUnlock m) 0x0B03 (u.answer r E_DBG_STATE []))) ∧
    -- firmware
    (let busy := s.ump.fw ≠ none ∨ s.ump.trial ≠ none ∨ s.mem.mapout ≠ none
     let w := u.objRead r.access (r.fld 0 8) (r.fld 8 8)
     let b := w.2.2
     let no (t : State) (c : Code) (new : Nat) : State := t.answerFw r c 1 0 t.sec.fwVersion new
     (busy → ran (.msgFwUpdate m) 0x0B20 (no u E_FW_BUSY 0)) ∧
     (¬busy → r.fld 8 8 ≤ 268435456 → w.2.1 = 0 → w.1.bundleCode b ≠ 0 → ran (.msgFwUpdate m) 0x0B20 (no w.1 (w.1.bundleCode b) (leAt b 8 4))) ∧
     (¬busy → r.fld 8 8 ≤ 268435456 → w.2.1 = 0 → w.1.bundleCode b = 0 → w.1.versionsOk (256 * leAt b 14 1 + leAt b 15 1) (256 * leAt b 16 1 + leAt b 17 1) = true →
        ran (.msgFwUpdate m) 0x0B20 { w.1.writeBank b with ump := { w.1.ump with fw := some ⟨r, 1, 0, w.1.sec.fwVersion, leAt b 8 4, bytesAt b 64 64, b⟩ } }))

/-- Requests of plans, sequences, the roster, futures, streams and codec streams (R93, R94, R120 to R123, R159, R171, R173, R199, R202 to R205, R230, R239 to R243,
R327, R368, R371, R375, R380 to R384, R405 to R410). A request that passes its checks has its effect at once, or waits at the boundary it names;
one that fails is answered with its code and changes nothing else.
The choices made here are log entries 74 and 83. -/
def Obligations.WorkRequests : Prop :=
  ∀ (s : State) (r : Req) (m : Nat),
    let u := s.takeReq r
    let ran (i : Instr) (op : Nat) (t : State) : Prop := s.Serves op m r → exec i s = .next t
    let z (n : Nat) := leBytes n 0
    let court := r.fld 0 1
    let layer := r.fld 2 2
    let named := u.namedSeq r court (r.fld 2 2)
    -- precision and tables
    (∀ e f, s.courtDefined court = true → layer ≠ 0xFFFF → u.precIn court layer = some e → u.fbRec court layer = some f →
      ran (.msgPrecQuery m) 0x0220 (u.answer r 0 ([BitVec.ofNat 8 (if e.policy = 1 then 3 else if f.fallback = true then (if e.policy = 2 then 2 else 1) else 0), 0] ++
        leBytes 4 f.lastRate ++ leBytes 4 f.threshold ++ leBytes 2 (u.windowOf f) ++ z 2 ++ leBytes 8 f.windows))) ∧
    (s.courtDefined court = false ∨ layer = 0xFFFF ∨ u.precIn court layer = none → ran (.msgPrecQuery m) 0x0220 (u.answer r E_PREC_ARG (z 22))) ∧
    (s.courtDefined court = false ∨ 1 < r.fld 1 1 → ran (.msgFallbackSet m) 0x0221 (u.answer r E_PREC_ARG [])) ∧
    (∀ e, s.courtDefined court = true → r.fld 1 1 ≤ 1 → layer ≠ 0xFFFF → u.precIn court layer = some e →
      (e.policy = 1 → ran (.msgFallbackSet m) 0x0221 (u.answer r E_PREC_NOFB [])) ∧
      (e.policy ≠ 1 → ran (.msgFallbackSet m) 0x0221 ((u.switchLayer court layer (r.fld 1 1 == 1)).answer r 0 []))) ∧
    (s.courtDefined court = true → r.fld 1 1 ≤ 7 →
      let k := 8 * court + r.fld 1 1
      (∀ g t, AMap.find? s.book.tables k = some (g, t) → ran (.msgTableQuery m) 0x0251 (u.answer r 0 ([BitVec.ofNat 8 t.mode, BitVec.ofNat 8 t.flags] ++
        leBytes 2 t.segs ++ z 2 ++ leBytes 4 g ++ leBytes 4 (u.tabPending court (r.fld 1 1))))) ∧
      (AMap.find? s.book.tables k = none → ran (.msgTableQuery m) 0x0251 (u.answer r 0 (z 14))) ∧
      (r.fld 8 8 < 2 ^ 52 → u.tabPending court (r.fld 1 1) ≠ 0 ∨ AMap.find? s.book.tableReq k ≠ none → ran (.msgTableLoad m) 0x0250 (u.answer r E_TAB_BUSY (z 10))) ∧
      (r.fld 8 8 < 2 ^ 52 → u.tabPending court (r.fld 1 1) = 0 → AMap.find? s.book.tableReq k = none →
        let q := u.objRead r.access (r.fld 8 8) (r.fld 16 4)
        let t := tableOf q.2.2
        let v := (q.1.courtCores court).foldl (fun v p => v.modCore p (fun c => c.stageTable (r.fld 1 1) t.1)) q.1
        (q.2.1 ≠ 0 → ran (.msgTableLoad m) 0x0250 (q.1.answer r q.2.1 (z 10))) ∧
        (q.2.1 = 0 → t.2 ≠ 0 → ran (.msgTableLoad m) 0x0250 (q.1.answer r t.2 (z 10))) ∧
        (q.2.1 = 0 → t.2 = 0 → ran (.msgTableLoad m) 0x0250 (({ v with book := { v.book with
            tables := AMap.insert v.book.tables k ((v.tabGen court (r.fld 1 1) + 1) % 2 ^ 32, t.1), tableReq := AMap.insert v.book.tableReq k r } }).tabAnswer court (r.fld 1 1))))) ∧
    -- playbooks
    (u.trialCourt court = true → ran (.msgPlaybookLoad m) 0x0200 (u.answerLoad r (some ⟨E_CFG_TRIAL, 0, noItem, noItem⟩) 0)) ∧
    (u.trialCourt court = false → s.courtDefined court = false ∨ r.fld 1 3 ≠ 0 ∨ r.fld 16 8 = 0 ∨ 2 ^ 32 < r.fld 16 8 ∨ 2 ^ 52 ≤ r.fld 8 8 →
      ran (.msgPlaybookLoad m) 0x0200 (u.answerLoad r (some ⟨E_SCH_ARG, 0, noItem, noItem⟩) 0)) ∧
    (let c := u.court court
     let q := u.readPlan r (r.fld 8 8) (r.fld 16 8)
     u.trialCourt court = false → s.courtDefined court = true → r.fld 1 3 = 0 → r.fld 16 8 ≠ 0 → r.fld 16 8 ≤ 2 ^ 32 → r.fld 8 8 < 2 ^ 52 → (∃ x, s.ctxRec r.ctx = some x ∧ x.court = court) → r.fld 4 4 = 0 →
      (∀ f, q.2.1 = some f → ran (.msgPlaybookLoad m) 0x0200 (q.1.answerLoad r (some f) 0)) ∧
      (∀ f, q.2.1 = none → planFail q.2.2 c.dieList.length u.ringSize c.roster = some f → ran (.msgPlaybookLoad m) 0x0200 (q.1.answerLoad r (some f) 0)) ∧
      (q.2.1 = none → planFail q.2.2 c.dieList.length u.ringSize c.roster = none → q.1.fitFail c court r.ctx q.2.2 0 = none → (q.1.replaceFail q.2.2 0).2 = none →
        let v := (q.1.replaceFail q.2.2 0).1
        let set := match AMap.find? v.book.books 0 with | some b => b.set | none => 0
        let v1 := { v with book := { v.book with books := AMap.insert v.book.books v.book.nextBook ⟨court, r.ctx, m, q.2.2, set, 0, true, 0⟩, nextBook := v.book.nextBook + 1 } }
        ran (.msgPlaybookLoad m) 0x0200 ((((v1.stageKernels court).startFb court v.book.nextBook q.2.2).makeScores v.book.nextBook r.ctx q.2.2).answerLoad r none v.book.nextBook))) ∧
    -- sequences, batches, the roster
    (∀ c, u.admitCheck r = .error c → ran (.msgSeqAdmit m) 0x0400 (u.answer r c (z 14))) ∧
    (∀ (b : Playbook) (i gen : Nat), u.admitCheck r = .ok (b, i, gen) →
      let q : Seq := { Seq.fresh r.ctx b.court (r.fld 4 4) m with st := 2, gen := gen, adapter := r.fld 2 2, passes := if b.plan.isRollout = true then 1 else r.fld 12 1, chunk := r.fld 14 2, contrib := r.words 16, frame := r.fld 32 4, resvPages := b.plan.pageReserve, resvCave := b.plan.caveReserve }
      let v := ((u.setSeq i q).makeList i b.court b.plan).chargeQuota (some r.ctx) 2 b.plan.caveReserve
      let v1 := (((v.addTokens (umpAccess r.ctx) i (r.fld 8 4)).granted (r.fld 8 4)).createStream i b)
      let v2 := (if b.plan.isRollout = true then v1.assignFuture i 0 0 0 else v1).engage r.ctx
      ran (.msgSeqAdmit m) 0x0400 (v2.answer r 0 (leBytes 2 i ++ leBytes 4 (match v2.seq i with | some q => q.future | none => 0) ++ leBytes 4 gen ++ z 4)).mark) ∧
    (named = none → ran (.msgSeqEnd m) 0x0401 (u.answer r E_ROST_STATE (z 6)) ∧ ran (.msgSeqRepin m) 0x0303 (u.answer r E_ROST_STATE (z 10)) ∧
      ran (.msgKvQuery m) 0x0640 (u.answer r E_ROST_STATE (z 22)) ∧ ran (.msgRostSet m) 0x0501 (u.answer r E_ROST_STATE []) ∧ ran (.msgFutureScore m) 0x0563 (u.answer r E_FUTURE_STATE (z 14)) ∧
      ran (.msgFutureQuery m) 0x0564 (u.answer r E_FUTURE_STATE (z 30)) ∧ ran (.msgFutureSeal m) 0x0561 (u.answer r E_FUTURE_STATE (z 10)) ∧ ran (.msgFuturePrune m) 0x0562 (u.answer r E_FUTURE_STATE (z 10)) ∧
      ran (.msgStateQuery m) 0x0700 (u.answer r E_ROST_STATE (z 30)) ∧ ran (.msgStateExport m) 0x0701 (u.answer r E_ROST_STATE (z 22)) ∧ ran (.msgStateImport m) 0x0702 (u.answer r E_ROST_STATE (z 14)) ∧
      ran (.msgStateClear m) 0x0703 (u.answer r E_ROST_STATE [])) ∧
    (∀ q, named = some q →
      let i := r.fld 2 2
      let put (q : Seq) : State := u.setSeq i q
      let waits (w : Wait) : State := put { q with waits := q.waits ++ [w] }
      (q.pruning = true → ran (.msgSeqEnd m) 0x0401 (u.answer r E_ROST_STATE (z 6))) ∧
      (q.pruning = false → ran (.msgSeqEnd m) 0x0401 (put { q with st := 3, waits := q.waits ++ [.fin r] }).mark) ∧
      ran (.msgSeqRepin m) 0x0303 (waits (.repin r)).mark ∧
      (∀ b, u.bookOf q = some b → ran (.msgKvQuery m) 0x0640 (u.answer r 0 (z 2 ++ leBytes 4 (u.openPages q).length ++ leBytes 4 (q.pageKeys.eraseDups.length - (u.openPages q).length) ++
        leBytes 4 q.resvPages ++ leBytes 4 (if b.plan.rowWidth = 0 then 0 else b.plan.rowsUsed q) ++ leBytes 4 q.leavesUsed))) ∧
      (s.courtDefined court = true → u.rosterMode court = true →
        let n := r.fld 4 4
        (n = 0 ∨ 2 ^ 31 ≤ n → ran (.msgRostGrant m) 0x0500 (u.answer r E_SCH_ARG (z 6))) ∧
        (0 < n → n < 2 ^ 31 → 2 ^ 31 ≤ q.tokens + n → ran (.msgRostGrant m) 0x0500 (u.answer r E_ROST_STATE (z 6))) ∧
        (0 < n → n < 2 ^ 31 → q.tokens + n < 2 ^ 31 →
          let v := (u.addTokens (umpAccess q.ctx) i n).granted n
          (∀ q', v.seq i = some q' → q'.tokens = q.tokens + n) ∧ v.sch.tokGranted = s.sch.tokGranted + BitVec.ofNat 64 n ∧
          ran (.msgRostGrant m) 0x0500 (v.answer r 0 (z 2 ++ leBytes 4 (q.tokens + n))).mark)) ∧
      (r.fld 1 1 = 0 → ran (.msgRostSet m) 0x0501 ((put { q with paused := true }).answer r 0 []).mark) ∧
      (r.fld 1 1 = 1 → ran (.msgRostSet m) 0x0501 ((put { q with paused := false }).answer r 0 []).mark) ∧
      (∀ b, r.fld 1 1 = 2 → u.bookOf q = some b →
        (contribOk b.plan (r.words 8) = true → ran (.msgRostSet m) 0x0501 ((put { q with contrib := r.words 8 }).answer r 0 []).mark) ∧
        (contribOk b.plan (r.words 8) = false → ran (.msgRostSet m) 0x0501 (u.answer r E_SCH_ARG []))) ∧
      (2 < r.fld 1 1 → ran (.msgRostSet m) 0x0501 (u.answer r E_SCH_ARG [])) ∧
      -- futures
      (q.isFuture = true → q.pruning = false →
        let sub := (r.fld 1 1).testBit 0
        let out := i :: (if sub = true then (u.descendants q.future).map (·.1) else [])
        let g := u.openPrunes r out.length none
        ran (.msgFutureSeal m) 0x0561 (waits (.sealPages r)).mark ∧
        ran (.msgFuturePrune m) 0x0562 (out.foldl (fun s k => s.orderPrune g.2 k sub) g.1).mark) ∧
      (q.isFuture = false ∨ q.pruning = true → ran (.msgFutureSeal m) 0x0561 (u.answer r E_FUTURE_STATE (z 10)) ∧ ran (.msgFuturePrune m) 0x0562 (u.answer r E_FUTURE_STATE (z 10))) ∧
      (∀ b kids, q.isFuture = true → q.pruning = false → 0 < r.fld 4 2 → r.fld 4 2 ≤ 1024 → destOk (r.fld 8 8) = true → (u.holdChildren q m (r.fld 4 2)).2 = some kids → u.bookOf q = some b →
        (u.canReserve court b.plan q.ctx (r.fld 4 2) = false → ran (.msgFutureBranch m) 0x0560 (u.answer r E_KV_RESERVE (z 14))) ∧
        (u.canReserve court b.plan q.ctx (r.fld 4 2) = true →
          ran (.msgFutureBranch m) 0x0560 ((kids.foldl (fun s c => s.makeList c court b.plan) (u.holdChildren q m (r.fld 4 2)).1).modSeq i
          (fun q => { q with waits := q.waits ++ [.branch r ((r.fld 1 1).testBit 0) (r.fld 8 8) kids] })).mark)) ∧
      (∀ b, u.bookOf q = some b → q.isFuture = true → b.plan.scored = false → ran (.msgFutureScore m) 0x0563 (u.answer r E_FUTURE_STATE (z 14))) ∧
      (∀ b, u.bookOf q = some b → q.isFuture = true → r.fld 1 1 = 0 → destOk (r.fld 16 8) = true → b.plan.scored = true →
        let ms := u.members q.family
        let ranked := rankMembers ms
        let w := u.objWrite r.access (r.fld 16 8) (ranked.flatMap (fun x => leBytes 2 x.seq ++ z 2 ++ leBytes 4 x.score))
        (w.2 = 0 → ran (.msgFutureScore m) 0x0563 (w.1.answer r 0 (leBytes 2 ranked.length ++ leBytes 4 (meanScore ms) ++ leBytes 2 0 ++ z 6))) ∧
        (w.2 ≠ 0 → ran (.msgFutureScore m) 0x0563 (w.1.answer r w.2 (z 14)))) ∧
      (q.isFuture = true →
        let refs := q.pageKeys.filterMap (fun k => (u.page k).map (·.refs))
        ran (.msgFutureQuery m) 0x0564 (u.answer r 0 (leBytes 2 q.depth ++ leBytes 4 q.future ++ leBytes 4 q.parent ++ leBytes 4 q.family ++
          leBytes 4 (refs.filter (fun n => decide (n = 1))).length ++ leBytes 4 (refs.filter (fun n => decide (1 < n))).length ++
          leBytes 8 (match AMap.find? s.sch.scores q.playbook with | some t => blockBytes * t | none => 0)))) ∧
      -- streams
      (∀ b, u.bookOf q = some b → q.hasStream = true →
        ran (.msgStateQuery m) 0x0700 (u.answer r 0 ([BitVec.ofNat 8 q.streamCode] ++ z 5 ++ leBytes 8 q.stream.seqNo.toNat ++ leBytes 4 (match q.stream.slot with | some k => k | none => 0xFFFFFFFF) ++
          leBytes 4 b.plan.streamTiles ++ leBytes 8 b.plan.imageLen)) ∧
        (let ok := r.fld 1 1 ≤ 2 ∧ r.fld 8 8 % 4096 = 0 ∧ r.fld 8 8 < 2 ^ 52
         (¬ok → ran (.msgStateExport m) 0x0701 (u.answer r E_OBJ_ARG (z 22))) ∧
         (ok → r.fld 16 8 < b.plan.imageLen → ran (.msgStateExport m) 0x0701 (u.answer r E_STATE_ROOM (z 22))) ∧
         (ok → b.plan.imageLen ≤ r.fld 16 8 → q.stream.st = .lost → ran (.msgStateExport m) 0x0701 (u.answer r E_STATE_LOST (z 22))) ∧
         (ok → b.plan.imageLen ≤ r.fld 16 8 → q.stream.st ≠ .lost → q.copying = true → ran (.msgStateExport m) 0x0701 (u.answer r E_STATE_BUSY (z 22))) ∧
         (ok → b.plan.imageLen ≤ r.fld 16 8 → q.stream.st ≠ .lost → q.copying = false → ran (.msgStateExport m) 0x0701 (waits (.exporting r (r.fld 1 1) (r.fld 8 8))))) ∧
        (let c := u.importCheck r q b (r.fld 8 8) (r.fld 16 8) ((r.fld 1 1).testBit 0) (r.fld 24 8)
         r.fld 8 8 % 4096 = 0 → r.fld 8 8 < 2 ^ 52 → q.copying = false → 128 ≤ r.fld 16 8 → q.stream.image = none ∨ q.stream.image = some (r.fld 8 8) →
         (c.2.1 ≠ 0 → ran (.msgStateImport m) 0x0702 (c.1.answer r c.2.1 (z 14))) ∧
         (c.2.1 = 0 → ran (.msgStateImport m) 0x0702 (c.1.setSeq i { q with
            copy := some ⟨false, r, 0, r.fld 8 8, r.fld 16 8, (r.fld 1 1).testBit 0, r.fld 24 8, q.stream.slot.isNone⟩
            stream := if q.stream.slot = none then { q.stream with slot := c.1.slotFor q } else q.stream }))) ∧
        (q.copying = true → ran (.msgStateClear m) 0x0703 (u.answer r E_STATE_BUSY [])) ∧
        (q.copying = false → u.slotFor q = none → ran (.msgStateClear m) 0x0703 (u.answer r E_STATE_NOSLOT [])) ∧
        (∀ k, q.copying = false → u.slotFor q = some k → ran (.msgStateClear m) 0x0703
          ((u.installStream i k b (List.replicate (6144 * b.plan.streamTiles) 0) (BitVec.ofNat 64 (r.fld 8 8))).answer r 0 []).mark))) ∧
    (s.courtDefined court = false ∨ u.rosterMode court = true → ran (.msgBatchSubmit m) 0x0402 (u.answerBatch r E_SCH_MODE 0 0xFFFF)) ∧
    (s.courtDefined court = true → u.rosterMode court = false → 1 ≤ r.fld 2 2 → r.fld 2 2 ≤ 4096 → r.fld 8 8 % 64 = 0 →
      let d := u.objRead r.access (r.fld 8 8) (64 + 16 * r.fld 2 2)
      let sv := (List.range 16).map (fun i => leAt d.2.2 (4 * i) 4)
      let es := (List.range (r.fld 2 2)).map (fun i => stepEntOf (bytesAt d.2.2 (64 + 16 * i) 16))
      (d.2.1 ≠ 0 → ran (.msgBatchSubmit m) 0x0402 (d.1.answerBatch r d.2.1 0 0xFFFF)) ∧
      (∀ q b, d.2.1 = 0 → r.ctx ≠ 0xFFFF → es.findSome? (fun e => d.1.seq e.seq) = some q →
        (∀ c k, c ≠ 0 → d.1.batchEntries court r.ctx q.playbook es [] 0 = (c, k) → ran (.msgBatchSubmit m) 0x0402 (d.1.answerBatch r c 0 k)) ∧
        ((d.1.batchEntries court r.ctx q.playbook es [] 0).1 = 0 → AMap.find? d.1.book.books q.playbook = some b →
          let mixed := 1 < (d.1.batchGens es).length ∨ (b.plan.wgt.any (fun w => w.parts.testBit 3) = true ∧ 1 < (d.1.batchAdapters es).length)
          let x := d.1.ctxSt r.ctx
          (b.plan.exceeds sv = true → ran (.msgBatchSubmit m) 0x0402 (d.1.answerBatch r E_SHAPE_OVER 0 0xFFFF)) ∧
          (b.plan.exceeds sv = false → mixed → ran (.msgBatchSubmit m) 0x0402 (d.1.answerBatch r E_WGT_MIXED 0 0xFFFF)) ∧
          (b.plan.exceeds sv = false → ¬mixed → 8 ≤ x.queue.length → ran (.msgBatchSubmit m) 0x0402 (d.1.answerBatch r E_SCH_QUEUE 0 0xFFFF)) ∧
          (b.plan.exceeds sv = false → ¬mixed → x.queue.length < 8 → ran (.msgBatchSubmit m) 0x0402
            ((d.1.setCtx r.ctx { x with queue := x.queue ++ [⟨r, court, q.playbook, sv, es, d.1.modesNow court b.plan, (d.1.batchGens es).headD 0⟩] }).engage r.ctx).mark)))) ∧
    (let c := r.fld 0 2
     (s.ctxRec c = none ∨ u.permits m c = false → ran (.msgCtxQuery m) 0x0403 (u.answer r E_SCH_CONTEXT (z 22))) ∧
     (∀ x, s.ctxRec c = some x → u.permits m c = true →
       let t := s.ctxSt c
       ran (.msgCtxQuery m) 0x0403 (u.answer r 0 ([BitVec.ofNat 8 t.st, BitVec.ofNat 8 (b2n (t.st == 1 && u.blocked c) + 2 * b2n x.lc)] ++ leBytes 2 (u.liveIn c) ++
         [BitVec.ofNat 8 (if t.st = 1 then t.slot else 0xFF), 0] ++ leBytes 8 (u.benchBytes c) ++ leBytes 8 t.steps)))) ∧
    (∀ q, u.seq (r.fld 2 2) = some q →
      (q.court = court → q.ctx = r.ctx ∨ isMgmt m = true → ran (.msgRostQuery m) 0x0502 (u.answer r 0 (z 6 ++ q.entryBytes))) ∧
      (q.court ≠ court ∨ (q.ctx ≠ r.ctx ∧ isMgmt m = false) → ran (.msgRostQuery m) 0x0502 (u.answer r E_ROST_STATE (z 70)))) ∧
    -- codec streams
    (let c := streamOfOpen r
     let load := c.loadAt c.fps
     (c.argOk r = false → ran (.msgCdcOpen m) 0x0800 (u.answer r E_CDC_ARG (z 10))) ∧
     (c.argOk r = true → r.ctx < 1024 → c.kindOk = false ∨ c.sizeOk = false → ran (.msgCdcOpen m) 0x0800 (u.answer r E_CDC_PROFILE (z 10))) ∧
     (c.argOk r = true → r.ctx < 1024 → c.kindOk = true → c.sizeOk = true →
       (u.engineFor c.eng = none → ran (.msgCdcOpen m) 0x0800 (u.answer r E_CDC_ENGINE (z 10))) ∧
       (∀ e, u.engineFor c.eng = some e →
         let full := 1000000 < u.loadOf e + load ∨ 16 ≤ (u.streamsOf e).length
         let code := if c.dir = 0 then u.accessCode r.access.ag true c.ring c.outBytes else 0
         let q := u.createObj (some r.ctx) .made 393216 0 0
         let i := AMap.lowestFree q.1.cdc.streams 256 0
         (full → ran (.msgCdcOpen m) 0x0800 (u.answer r E_CDC_LOAD (z 10))) ∧
         (¬full → code ≠ 0 → ran (.msgCdcOpen m) 0x0800 (u.answer r code (z 10))) ∧
         (¬full → code = 0 → q.2.1 ≠ 0 → ran (.msgCdcOpen m) 0x0800 (q.1.answer r q.2.1 (z 10))) ∧
         (¬full → code = 0 → q.2.1 = 0 → ran (.msgCdcOpen m) 0x0800 ((q.1.setStream i { c with eng := e, load := load, obj := q.2.2 }).answer r 0
           (leBytes 2 i ++ leBytes 1 e ++ z 3 ++ leBytes 4 load)))))) ∧
    (u.streamFor r = none → ran (.msgCdcPool m) 0x0801 (u.answer r E_CDC_STATE (z 1)) ∧ ran (.msgCdcFrame m) 0x0802 (u.answer r E_CDC_STATE (z 4)) ∧
      ran (.msgCdcSet m) 0x0804 (u.answer r E_CDC_STATE []) ∧ ran (.msgCdcClose m) 0x0805 (u.answer r E_CDC_STATE [])) ∧
    (∀ (i : Nat) (c : CStream), u.streamFor r = some (i, c) →
      let k := r.fld 2 1
      let b0 : PoolBuf := ⟨r.fld 8 8, r.fld 16 4, r.fld 20 4, r.fld 24 8, 0, 0, 0⟩
      ran (.msgCdcClose m) 0x0805 ((u.setStream i { c with closing := some 0 }).answer r 0 []) ∧
      (k ≤ 15 →
        (r.fld 3 1 = 0 → AMap.find? c.pool k = none → u.bufOk r.access.ag c b0 = true → ran (.msgCdcPool m) 0x0801 ((u.setStream i { c with pool := AMap.insert c.pool k b0 }).answer r 0 (leBytes 1 0))) ∧
        (∀ b, r.fld 3 1 = 1 → AMap.find? c.pool k = some b → CStream.freeBuf b = true → ran (.msgCdcPool m) 0x0801 ((u.setStream i { c with pool := AMap.erase c.pool k }).answer r 0 (leBytes 1 b.marks.toNat))) ∧
        (∀ b, r.fld 3 1 = 1 → AMap.find? c.pool k = some b → CStream.freeBuf b = false → ran (.msgCdcPool m) 0x0801 (u.answer r E_CDC_POOL (leBytes 1 b.marks.toNat))) ∧
        (∀ b, r.fld 3 1 = 2 → AMap.find? c.pool k = some b → ran (.msgCdcPool m) 0x0801
          ((u.setStream i { c with pool := AMap.insert c.pool k { b with marks := b.marks &&& 0xF7#8 } }).answer r 0 (leBytes 1 (b.marks &&& 0xF7#8).toNat)))) ∧
      (32 ≤ c.queue.length → ran (.msgCdcFrame m) 0x0802 (u.answer r E_CDC_STATE (z 4))) ∧
      (c.queue.length < 32 →
        let frame (n : Nat) : CFrame := ⟨c.nextFrame, k, r.fld 3 1, n, r.fld 8 8, r.fld 16 8, r.fld 24 8, s.cdc.order⟩
        let done (pool : AMap PoolBuf) (n : Nat) : State :=
          let v := u.setStream i { c with queue := c.queue ++ [frame n], nextFrame := c.nextFrame + 1, pool := pool }
          ({ v with cdc := { v.cdc with order := v.cdc.order + 1 } }).answer r 0 (leBytes 4 c.nextFrame)
        (∀ b, c.dir = 0 → k ≤ 1 → r.fld 4 4 = 0 → AMap.find? c.pool (r.fld 3 1) = some b →
          (CStream.freeBuf b = true → ran (.msgCdcFrame m) 0x0802 (done (AMap.adjust c.pool (r.fld 3 1) (fun b => { b with marks := b.marks ||| 1#8, num := c.nextFrame, pts := r.fld 8 8 })) 0)) ∧
          (CStream.freeBuf b = false → ran (.msgCdcFrame m) 0x0802 (u.answer r E_CDC_POOL (z 4)))) ∧
        (c.dir = 1 → k = 0 ∨ k = 2 → r.fld 3 1 = 0 → u.accessCode r.access.ag false (r.fld 16 8) (r.fld 4 4) = 0 → ran (.msgCdcFrame m) 0x0802 (done c.pool (r.fld 4 4)))) ∧
      (
        let v := r.fld 8 8
        let load := c.loadAt v
        let rd := c.rd + (v + c.outBytes - c.rd % max 1 c.outBytes) % max 1 c.outBytes
        (k = 0 → c.dir = 0 → v < 2 ^ 32 → ran (.msgCdcSet m) 0x0804 ((u.setStream i { c with kbpsSet := v }).answer r 0 [])) ∧
        (k = 1 → 1 ≤ v → v ≤ 240000 → 1000000 < u.loadOf c.eng - c.load + load → ran (.msgCdcSet m) 0x0804 (u.answer r E_CDC_LOAD [])) ∧
        (k = 1 → 1 ≤ v → v ≤ 240000 → u.loadOf c.eng - c.load + load ≤ 1000000 → ran (.msgCdcSet m) 0x0804 ((u.setStream i { c with fpsSet := v, load := load }).answer r 0 [])) ∧
        (k = 2 → c.dir = 0 → v < c.outBytes → rd ≤ c.wr → ran (.msgCdcSet m) 0x0804 ((u.setStream i { c with rd := rd }).answer r 0 [])) ∧
        (2 < k → ran (.msgCdcSet m) 0x0804 (u.answer r E_CDC_ARG []))))

/-- Requests of objects, tiers and quotas (R281, R282, R286, R288, R298 to R302), of weight sets, shards and adapters (R307, R310, R316, R317, R320, R321, R325 to R330) and of
update plans (R335, R336, R345, R349 to R352). A registration is answered once its digest is checked, a tier move once the last block has moved, a release once no step runs;
freeing an object waits for the transfers that reach it (log entry 29). Update plans are checked as log entry 40 says.
The choices made here are log entries 64 and 74. -/
def Obligations.ObjectWeightAndUpdateRequests : Prop :=
  ∀ (s : State) (r : Req) (m : Nat),
    let u := s.takeReq r
    let ran (i : Instr) (op : Nat) (t : State) : Prop := s.Serves op m r → exec i s = .next t
    let z (n : Nat) := leBytes n 0
    let addr := r.fld 0 8
    let own := u.ownObj r addr false
    let blk := addr / blockBytes
    -- objects and quotas
    (let size := addr
     let made := u.createObj (some r.ctx) .client size (r.fld 8 1) (r.fld 9 1 % 2)
     (size = 0 ∨ 2 ^ 40 < size ∨ 5 < r.fld 8 1 ∨ 1023 < r.ctx → ran (.msgObjCreate m) 0x0600 (u.answer r E_OBJ_ARG (z 14))) ∧
     (0 < size → size ≤ 2 ^ 40 → r.fld 8 1 ≤ 5 → r.ctx < 1024 → ran (.msgObjCreate m) 0x0600 (made.1.answer r made.2.1 (z 6 ++ leBytes 8 made.2.2)))) ∧
    (∀ o, AMap.find? s.tier.objs blk = some o → s.inFlight addr (blockBytes * o.blocks) = true → s.Serves 0x0601 m r → exec (.msgObjFree m) s = .next s) ∧
    ((∀ o, AMap.find? s.tier.objs blk = some o → s.inFlight addr (blockBytes * o.blocks) = false) →
      (own = none → ran (.msgObjFree m) 0x0601 (u.answer r E_OBJ_ARG [])) ∧
      (∀ b o, own = some (b, o) →
        (AMap.find? s.wgt.shards b ≠ none → ran (.msgObjFree m) 0x0601 (u.answer r E_WGT_STATE [])) ∧
        (AMap.find? s.wgt.shards b = none → u.planNames b o = true → ran (.msgObjFree m) 0x0601 (u.answer r E_UPD_OBJ [])) ∧
        (AMap.find? s.wgt.shards b = none → u.planNames b o = false →
          (o.move = none → ran (.msgObjFree m) 0x0601 (u.freeFor b r)) ∧
          (∀ x, o.move = some x → x.freeing = none → ran (.msgObjFree m) 0x0601 (u.setObj b { o with move := some { x with freeing := some r } }))))) ∧
    (let tier := r.fld 8 1
     (own = none ∨ 2 < tier → ran (.msgTierMove m) 0x0602 (u.answer r E_OBJ_ARG (z 14))) ∧
     (∀ b o, own = some (b, o) → tier ≤ 2 →
       let c := u.moveCode b o tier
       let there := o.move = none ∧ u.blocksOutside b o tier = []
       (there → ran (.msgTierMove m) 0x0602 (u.answer r 0 ([BitVec.ofNat 8 tier, 0] ++ z 4 ++ leBytes 8 (u.objStored b o tier)))) ∧
       (¬there → c ≠ 0 → ran (.msgTierMove m) 0x0602 (u.answer r c (z 14))) ∧
       (¬there → c = 0 → ran (.msgTierMove m) 0x0602 (u.startMove b o tier (some r))))) ∧
    (u.ownObj r addr true = none → ran (.msgTierQuery m) 0x0603 (u.answer r E_OBJ_ARG (z 22))) ∧
    (∀ b o, u.ownObj r addr true = some (b, o) →
      let held := match o.move with | some x => 4096 * x.resv | none => 0
      ran (.msgTierQuery m) 0x0603 (u.answer r 0 ([BitVec.ofNat 8 (u.objTier b o), BitVec.ofNat 8 (b2n o.move.isSome), BitVec.ofNat 8 o.kind, BitVec.ofNat 8 o.flags] ++
        leBytes 2 (match o.owner with | some c => c | none => 0xFFFF) ++ leBytes 8 o.size ++
        leBytes 8 (u.objStored b o 0 + u.objStored b o 1 + u.objStored b o 2 + held)))) ∧
    (let c := r.fld 0 2
     let tier := r.fld 2 1
     let n := r.fld 8 8
     let k := 4 * c + tier
     (1023 < c ∨ 2 < tier ∨ n % 4096 ≠ 0 ∨ 2 ^ 36 - 1 < n / 4096 → ran (.msgQuotaSet m) 0x0604 (u.answer r E_OBJ_ARG (z 14))) ∧
     (c < 1024 → tier ≤ 2 → n % 4096 = 0 → n / 4096 < 2 ^ 36 →
       -- the committed slot holds the limit from then on, and both do while a trial runs
       ran (.msgQuotaSet m) 0x0604 (({ u with
         ump := { u.ump with
           slot0 := if s.ump.trial.isSome = true ∨ s.ump.committed = 0 then u.ump.slot0.setQuota k n else u.ump.slot0
           slot1 := if s.ump.trial.isSome = true ∨ s.ump.committed = 1 then u.ump.slot1.setQuota k n else u.ump.slot1 }
         tier := { u.tier with limit := AMap.setD u.tier.limit 0 k (n / 4096) } }).answer r 0 (z 6 ++ leBytes 8 (4096 * s.usedOf c tier)))) ∧
     (1023 < c ∨ 2 < tier → ran (.msgQuotaQuery m) 0x0605 (u.answer r E_OBJ_ARG (z 22))) ∧
     (c < 1024 → tier ≤ 2 → ran (.msgQuotaQuery m) 0x0605 (u.answer r 0 (z 6 ++ leBytes 8 (4096 * s.limitOf c tier) ++ leBytes 8 (4096 * s.usedOf c tier))))) ∧
    -- shards and adapters
    (let set := r.fld 8 1
     let w := (u.wset set).getD ⟨isMgmt r.mbx, r.ctx, 1, []⟩
     let staged := w.genIn 0
     (u.registerPerm r set (own.map (·.2)) = false → ran (.msgShardRegister m) 0x0300 (u.answer r E_WGT_PERM (z 6))) ∧
     (u.registerPerm r set (own.map (·.2)) = true →
       ((own.isSome = true ∧ AMap.find? s.wgt.shards blk ≠ none) ∨ 1 < r.fld 9 1 → ran (.msgShardRegister m) 0x0300 (u.answer r E_WGT_STATE (z 6))) ∧
       (own.isSome = false ∨ AMap.find? s.wgt.shards blk = none → r.fld 9 1 ≤ 1 →
         (staged = 0 → 8 ≤ w.gens.length → ran (.msgShardRegister m) 0x0300 (u.answer r E_WGT_GENS (z 6))) ∧
         (staged ≠ 0 ∨ w.gens.length < 8 → own = none → ran (.msgShardRegister m) 0x0300 (u.answer r E_OBJ_UNMAPPED (z 6))) ∧
         (∀ b o, staged ≠ 0 ∨ w.gens.length < 8 → own = some (b, o) →
           let h := u.shardHeader blk o
           let gen := if staged = 0 then w.next else staged
           let clash := h.2.2.any (fun q => ((h.1.shardsOf set gen).flatMap (fun e => e.2.parts)).any (fun x => x.same q))
           (h.2.1 ≠ 0 → ran (.msgShardRegister m) 0x0300 (h.1.answer r h.2.1 (z 6))) ∧
           (h.2.1 = 0 → clash = true → ran (.msgShardRegister m) 0x0300 (h.1.answer r E_WGT_FORMAT (z 6))) ∧
           (h.2.1 = 0 → clash = false → ran (.msgShardRegister m) 0x0300
             ((h.1.setWset set (if staged = 0 then { w with next := w.next + 1, gens := AMap.insert w.gens gen ⟨0, false⟩ } else w)).setShard blk
               ⟨set, gen, 0, r.ctx, r.fld 9 1, false, false, h.2.2, some r, h.1.counter.toNat, [], h.1.nextShard⟩))))) ∧
     (own = none → ran (.msgAdapterRegister m) 0x0304 (u.answer r E_OBJ_UNMAPPED (z 2))) ∧
     (∀ b o, own = some (b, o) →
       let full := 256 ≤ (u.wgt.adapters.filter (fun e => decide (e.2.ctx = r.ctx))).length ∨ 4095 ≤ u.wgt.adapters.length
       let h := u.shardHeader blk o
       let id := h.1.freeAdapter
       let t := h.1.setShard blk ⟨set, 0, id, r.ctx, 0, false, false, h.2.2, some r, h.1.counter.toNat, [], h.1.nextShard⟩
       (AMap.find? s.wgt.shards blk ≠ none ∨ set = 0 ∨ 63 < set → ran (.msgAdapterRegister m) 0x0304 (u.answer r E_WGT_STATE (z 2))) ∧
       (AMap.find? s.wgt.shards blk = none → 1 ≤ set → set ≤ 63 →
         (full → ran (.msgAdapterRegister m) 0x0304 (u.answer r E_WGT_LIMIT (z 2))) ∧
         (¬full → h.2.1 ≠ 0 → ran (.msgAdapterRegister m) 0x0304 (h.1.answer r h.2.1 (z 2))) ∧
         (¬full → h.2.1 = 0 → h.2.2.any (fun q => decide (q.part < 3)) = true → ran (.msgAdapterRegister m) 0x0304 (h.1.answer r E_WGT_FORMAT (z 2))) ∧
         (¬full → h.2.1 = 0 → h.2.2.any (fun q => decide (q.part < 3)) = false → ran (.msgAdapterRegister m) 0x0304
           { t with wgt := { t.wgt with adapters := AMap.insert t.wgt.adapters id ⟨blk, r.ctx, set, false⟩ } })))) ∧
    (let id := r.fld 0 2
     (AMap.find? s.wgt.adapters id = none → ran (.msgAdapterRelease m) 0x0305 (u.answer r E_WGT_STATE [])) ∧
     (∀ a, AMap.find? s.wgt.adapters id = some a →
       let registered := match AMap.find? s.wgt.shards a.obj with | some h => h.registered | none => false
       (a.ctx ≠ r.ctx → isMgmt r.mbx = false → ran (.msgAdapterRelease m) 0x0305 (u.answer r E_WGT_PERM [])) ∧
       (a.ctx = r.ctx ∨ isMgmt r.mbx = true →
         (a.released = true ∨ registered = false → ran (.msgAdapterRelease m) 0x0305 (u.answer r E_WGT_STATE [])) ∧
         (a.released = false → registered = true → ran (.msgAdapterRelease m) 0x0305
           ((({ u with wgt := { u.wgt with adapters := AMap.insert u.wgt.adapters id { a with released := true } } }).pinsFell 0 0 id).answer r 0 []))))) ∧
    -- weight sets
    (let set := r.fld 0 1
     let resp (t : State) (c : Code) (check : Nat) : State := t.answer r c ([BitVec.ofNat 8 check, 0] ++ leBytes 4 (t.currentGen set))
     (u.wset set = none → ran (.msgWgtCommit m) 0x0301 (resp u E_WGT_STATE 1) ∧ ran (.msgWgtQuery m) 0x0307 (u.answer r E_WGT_STATE (z 22))) ∧
     (∀ w, u.wset set = some w →
       let gen := w.genIn 0
       let abort := (r.fld 1 1).testBit 1
       let c := u.commitCheck set gen
       (w.mayManage r = false → ran (.msgWgtCommit m) 0x0301 (resp u E_WGT_PERM 0)) ∧
       (w.mayManage r = true →
         (abort = true → gen = 0 → ran (.msgWgtCommit m) 0x0301 (resp u E_WGT_STATE 1)) ∧
         (abort = true → gen ≠ 0 → ran (.msgWgtCommit m) 0x0301 (resp (u.abortGen set gen w) 0 0)) ∧
         (abort = false → c.2.1 ≠ 0 → ran (.msgWgtCommit m) 0x0301 (resp c.1 c.2.1 c.2.2)) ∧
         (abort = false → c.2.1 = 0 → ran (.msgWgtCommit m) 0x0301 (resp (c.1.switchGen set gen ((r.fld 1 1).testBit 0)) 0 0))) ∧
       (let cur := w.genIn 1
         let retiring := ((w.gens.filter (fun e => e.2.st == 2)).map (fun e => u.pins set e.1)).sum
         let held := ((s.wgt.shards.filter (fun e => decide (e.2.set = set) && decide (e.2.gen ≠ 0))).map (fun e =>
           match AMap.find? s.tier.objs e.1 with | some o => o.size | none => 0)).sum
         ran (.msgWgtQuery m) 0x0307 (u.answer r 0 ([BitVec.ofNat 8 w.gens.length,
           BitVec.ofNat 8 (b2n w.shared + 2 * b2n (w.genIn 0 != 0) + 4 * b2n (cur != 0 && u.genCorrupt set cur))] ++
           leBytes 4 cur ++ leBytes 4 (u.pins set cur) ++ leBytes 4 retiring ++ leBytes 8 held))))) ∧
    (let id := r.fld 4 4
     let set := r.fld 1 1
     let bound (t : State) (b : Playbook) : State := { t with book := { t.book with books := AMap.insert t.book.books id { b with set := set } } }
     (AMap.find? s.book.books id = none → ran (.msgWgtBind m) 0x0302 (u.answer r E_SCH_ARG [])) ∧
     (∀ b, AMap.find? s.book.books id = some b →
       (b.court ≠ r.fld 0 1 ∨ b.ctx ≠ r.ctx → ran (.msgWgtBind m) 0x0302 (u.answer r E_SCH_ARG [])) ∧
       (b.court = r.fld 0 1 → b.ctx = r.ctx →
         (set = 0 → u.seqsOf id ≠ [] → ran (.msgWgtBind m) 0x0302 (u.answer r E_WGT_STATE [])) ∧
         (set = 0 → u.seqsOf id = [] → ran (.msgWgtBind m) 0x0302 ((bound u b).answer r 0 [])) ∧
         (set ≠ 0 → u.wset set = none → ran (.msgWgtBind m) 0x0302 (u.answer r E_WGT_STATE [])) ∧
         (∀ w, set ≠ 0 → u.wset set = some w →
           (w.shared = false → w.owner ≠ b.ctx → ran (.msgWgtBind m) 0x0302 (u.answer r E_WGT_PERM [])) ∧
           (w.shared = true ∨ w.owner = b.ctx →
             (u.seqsOf id ≠ [] → ran (.msgWgtBind m) 0x0302 (u.answer r E_WGT_STATE [])) ∧
             (u.seqsOf id = [] → w.genIn 1 = 0 → ran (.msgWgtBind m) 0x0302 ((bound u b).answer r 0 [])) ∧
             (u.seqsOf id = [] → w.genIn 1 ≠ 0 →
               let c := u.genCheck b.plan set (w.genIn 1)
               (c.2.1 ≠ 0 → ran (.msgWgtBind m) 0x0302 (c.1.answer r c.2.1 [])) ∧
               (c.2.1 = 0 → ran (.msgWgtBind m) 0x0302 ((bound c.1 b).answer r 0 [])))))))) ∧
    (let c := r.fld 0 2
     let rest := s.wgt.priv.filter (· ≠ c)
     let now (l : List Nat) : State := ({ u with wgt := { u.wgt with priv := l } }).answer r 0 []
     (1023 < c ∨ 1 < r.fld 2 1 → ran (.msgWgtPriv m) 0x0306 (u.answer r E_WGT_STATE [])) ∧
     (c < 1024 → r.fld 2 1 = 0 → ran (.msgWgtPriv m) 0x0306 (now rest)) ∧
     (c < 1024 → r.fld 2 1 = 1 → 8 ≤ rest.length → ran (.msgWgtPriv m) 0x0306 (u.answer r E_WGT_LIMIT [])) ∧
     (c < 1024 → r.fld 2 1 = 1 → rest.length < 8 → ran (.msgWgtPriv m) 0x0306 (now (rest ++ [c])))) ∧
    -- update plans
    (let court := r.fld 0 1
     let q := u.objRead r.access (r.fld 8 8) (r.fld 16 8)
     let v := q.1
     let no (t : State) (c : Code) (layer : Nat) : State := t.answer r c (leBytes 2 layer ++ leBytes 4 0)
     let named := court ≤ 7 ∧ s.courtDefined court = true ∧ u.courtOf r.ctx = court
     (¬named → ran (.msgUpdPlan m) 0x0C00 (no u E_UPD_PLAN 0xFFFF)) ∧
     (named → q.2.1 ≠ 0 → ran (.msgUpdPlan m) 0x0C00 (no v q.2.1 0xFFFF)) ∧
     (∀ l, named → q.2.1 = 0 → updParse r.ctx court q.2.2 = .inr l → ran (.msgUpdPlan m) 0x0C00 (no v E_UPD_PLAN l)) ∧
     (∀ p, named → q.2.1 = 0 → updParse r.ctx court q.2.2 = .inl p →
       let full := 64 ≤ v.upd.plans.length ∨ 16 ≤ (v.upd.plans.filter (fun e => decide (e.2.ctx = r.ctx))).length
       (p.steps ≤ r.fld 24 4 → ran (.msgUpdPlan m) 0x0C00 (no v E_UPD_PLAN 0xFFFF)) ∧
       (r.fld 24 4 < p.steps →
         (∀ l, p.layers.find? (fun l => !v.updSizesOk l) = some l → ran (.msgUpdPlan m) 0x0C00 (no v E_UPD_PLAN l.layer)) ∧
         ((∀ l ∈ p.layers, v.updSizesOk l = true) →
           (∀ l, p.layers.find? (fun l => !v.updOwnOk r.ctx l) = some l → ran (.msgUpdPlan m) 0x0C00 (no v E_UPD_OBJ l.layer)) ∧
           ((∀ l ∈ p.layers, v.updOwnOk r.ctx l = true) →
             (∀ l, v.updOverlap p.layers = some l → ran (.msgUpdPlan m) 0x0C00 (no v E_UPD_OBJ l)) ∧
             (v.updOverlap p.layers = none → full → ran (.msgUpdPlan m) 0x0C00 (no v E_UPD_LIMIT 0xFFFF)) ∧
             (∀ l, v.updOverlap p.layers = none → ¬full → p.layers.find? (fun l => decide (v.resetCode l (umpAccess r.ctx) ≠ 0)) = some l →
               ran (.msgUpdPlan m) 0x0C00 (no v (v.resetCode l (umpAccess r.ctx)) l.layer)) ∧
             (v.updOverlap p.layers = none → ¬full → (∀ l ∈ p.layers, v.resetCode l (umpAccess r.ctx) = 0) →
               let t := p.layers.foldl (fun t l => t.resetStats l (umpAccess r.ctx)) v
               ran (.msgUpdPlan m) 0x0C00 (({ t with upd := { t.upd with plans := AMap.insert t.upd.plans v.upd.nextId { p with next := r.fld 24 4 }, nextId := v.upd.nextId + 1 } }).answer r 0
                 (leBytes 2 0xFFFF ++ leBytes 4 v.upd.nextId)))))))) ∧
    (u.planOf r = none → ran (.msgUpdStep m) 0x0C01 (u.answer r E_UPD_PLAN (z 14)) ∧ ran (.msgUpdQuery m) 0x0C02 (u.answer r E_UPD_PLAN (z 14)) ∧
      ran (.msgUpdRelease m) 0x0C03 (u.answer r E_UPD_PLAN [])) ∧
    (∀ i p, u.planOf r = some (i, p) →
      let due := r.fld 4 4 = p.next ∧ p.next < p.steps ∧ p.waiting = none ∧ p.running = none
      (p.torn = true → ran (.msgUpdStep m) 0x0C01 (u.answer r E_UPD_TORN (z 14))) ∧
      (p.torn = false → ¬due → ran (.msgUpdStep m) 0x0C01 (u.answer r E_UPD_STEP (z 14))) ∧
      (p.torn = false → due → ran (.msgUpdStep m) 0x0C01 (u.setPlan i { p with waiting := some r }).mark) ∧
      ran (.msgUpdQuery m) 0x0C02 (u.answer r 0 (leBytes 1 (if p.torn then 2 else if p.running.isSome then 1 else 0) ++ z 1 ++ leBytes 4 p.next ++
        leBytes 4 (match p.lastRefresh with | some x => x | none => 0xFFFFFFFF) ++ leBytes 4 p.residual.toNat)) ∧
      (p.release ≠ none → ran (.msgUpdRelease m) 0x0C03 (u.answer r E_UPD_PLAN [])) ∧
      (p.release = none → p.waiting ≠ none ∨ p.running ≠ none → ran (.msgUpdRelease m) 0x0C03 (u.setPlan i { p with release := some r })) ∧
      (p.release = none → p.waiting = none → p.running = none → ran (.msgUpdRelease m) 0x0C03
        (({ u with upd := { u.upd with plans := AMap.erase (AMap.insert u.upd.plans i { p with release := some r }) i } }).answer r 0 [])))

/-! The whole block. -/

/-- What the registers read after the RESET step of start-up: the Reset columns of the register tables of 02 to 20 and the numbering of R16, for every instance
of a block and at every offset. Registers whose Reset column says 'kept', 'fused', 'calibrated' or 'from flash' are left out; nothing waits, and the fields software sets lie in
their ranges.
The choices made here are log entries 1 and 62. -/
def Obligations.ResetRegisters : Prop :=
  let s := State.reset
  (∀ k, k < 25000 → s.readReg 0x01 k 0x00 = k + 2 ^ 20 * (k % 25) ∧
    ∀ off, 0 < off → s.readReg 0x01 k off = if off = 0x20 ∨ off = 0x28 ∨ off = 0x30 then 2 ^ 64 - 1 else 0) ∧
  (∀ n off, s.readReg 0x02 n off = if off = 0x10 then 0x00325B else 0) ∧
  (∀ n off, s.readReg 0x03 n off = if off = 0x1000 then 1 + 2 ^ 8 * 64 else 0) ∧
  (∀ n off, s.readReg 0x04 n off = if off = 0x00 then 512 else if off = 0x08 then 1 else if off = 0x10 then 1000 else if off = 0x18 then 1 + 2 ^ 8 * 360
    else if off = 0x30 then 2 ^ 40 * 8 else 0) ∧
  (∀ n off, s.readReg 0x05 n off = 0 ∧ s.readReg 0x06 n off = 0 ∧ s.readReg 0x09 n off = 0 ∧ s.readReg 0x0B n off = 0 ∧ s.readReg 0x0C n off = 0 ∧ s.readReg 0x10 n off = 0 ∧
    s.readReg 0x14 n off = 0) ∧
  (∀ n, s.readReg 0x07 n 0x00 = 750 ∧ s.readReg 0x07 n 0x10 = 0) ∧
  (∀ n off, s.readReg 0x08 n off = if off = 0x10 then 1 + 2 ^ 8 * 24 else 0) ∧
  (∀ n off, off ≠ 0x28 → s.readReg 0x0A n off = 0) ∧
  (∀ n off, off < 0x20 → s.readReg 0x0D n off = 0) ∧
  (∀ m off, m < 72 → off < 64 → s.readReg 0x0E 0 (64 * m + off) = if off = 0x20 then 4 else 0) ∧
  (∀ n off, off ≠ 0x08 → s.readReg 0x0F n off = if off = 0x20 then 1000 else 0) ∧ (∀ n, s.readReg 0x0F n 0x08 / 4 = 4) ∧
  (∀ n off, s.readReg 0x11 n off = if off = 0x10 then 2 ^ 32 * 30000 else 0) ∧
  (∀ n off, off ≠ 0x08 → off ≠ 0x18 → s.readReg 0x12 n off = if off = 0x00 then 1 else 0) ∧
  s.pending = [] ∧ s.counter = 0 ∧ s.InRange

/-- Every step answers: on an empty queue it counts one tick of the hub 0 counter and changes nothing else (the model's choice, log entry 9); and every command but
UMPIRE_FAILOVER has a next state, whatever the state and its operands.
The choices made here are log entries 11 and 36. -/
def Obligations.EveryStepAnswers : Prop :=
  (∀ s : State, s.pending = [] → step s = .next { s with counter := s.counter + 1 }) ∧
  ∀ (c : Instr) (s : State), c ≠ .umpireFailover → ∃ t, exec c s = .next t

/-- The register tables' ranges hold at every step: an ignored write stays ignored (03 ACC_FB_CTRL, 10 MEM_CE_LIMIT and MEM_SCRUB_CTRL, 11 CAV_BUDGET, 12 WGT_DIGEST_CTRL, 17
RND_HUDDLE_TMO), and whatever a step runs, each of these fields keeps a value of its range. Only a register write, a message that writes a register, a reset and the end of an SMBus transfer (which may start the module anew) change them at all, and no
command changes the queue.
The choices made here are log entry 54. -/
def Obligations.StepKeepsRanges : Prop :=
  (∀ s t : State, s.InRange → step s = .next t → t.InRange) ∧
  (∀ (c : Instr) (s t : State), exec c s = .next t → t.pending = s.pending) ∧
  ∀ (c : Instr) (s t : State), exec c s = .next t → (∀ b n o w v, c ≠ .registerWrite b n o w v) → (∀ m, c ≠ .msgRegWrite m) → (∀ x y, c ≠ .resetAssert x y) → (∀ x d, c ≠ .xferEnd x d) → t.kept = s.kept

end Statements
end

