-- ==== Sys2Proof/Laws/Assoc.lean ====
section
/-! SUPPORT. Association lists and byte stores: a read after a write, what a write leaves alone, and the canonical form, which every
operation of a store keeps. -/
namespace Sys2Proof.Machine
namespace AMap
variable {α : Type}

@[simp] theorem find_nil (k : Nat) : find? ([] : AMap α) k = none := rfl

/-- What an entry just listed reads as, and what the others read as. -/
theorem find_insert (m : AMap α) (k : Nat) (v : α) (j : Nat) : find? (insert m k v) j = if j = k then some v else find? m j := by
  induction m with
  | nil => by_cases h : j = k <;> simp [insert, find?, h, Ne.symm]
  | cons e m ih =>
    obtain ⟨a, w⟩ := e
    by_cases hj : j = k
    · subst hj
      by_cases h1 : j < a
      · simp [insert, h1, find?]
      · by_cases h2 : j = a
        · simp [insert, h2, find?]
        · simp [insert, h1, h2, find?, ih, Ne.symm h2]
    · by_cases h1 : k < a
      · simp [insert, h1, find?, hj, Ne.symm hj]
      · by_cases h2 : k = a
        · subst h2; simp [insert, find?, hj, Ne.symm hj]
        · simp [insert, h1, h2, find?, ih, hj]

@[simp] theorem find_insert_self (m : AMap α) (k : Nat) (v : α) : find? (insert m k v) k = some v := by simp [find_insert]

theorem find_insert_ne (m : AMap α) (v : α) {k j : Nat} (h : j ≠ k) : find? (insert m k v) j = find? m j := by
  simp [find_insert, h]

/-- What the entries of a list read as where some are left out by their keys. -/
theorem find_filter (m : AMap α) (p : Nat → Bool) (j : Nat) :
    find? (m.filter (fun e => p e.1)) j = if p j then find? m j else none := by
  induction m with
  | nil => simp
  | cons e m ih =>
    obtain ⟨a, w⟩ := e
    by_cases h : p a
    · simp only [List.filter_cons, h, if_true, find?, ih]
      by_cases hj : a = j
      · subst hj; simp [h]
      · simp [hj]
    · rw [List.filter_cons_of_neg (by simpa using h), ih]
      by_cases hj : a = j
      · subst hj; simp [h]
      · simp [find?, hj]

theorem find_erase (m : AMap α) (k j : Nat) : find? (erase m k) j = if j = k then none else find? m j := by
  have := find_filter m (fun a => decide (a ≠ k)) j
  simp only [erase]
  rw [this]
  by_cases h : j = k <;> simp [h]

theorem getD_insert (m : AMap α) (d : α) (k : Nat) (v : α) (j : Nat) : getD (insert m k v) d j = if j = k then v else getD m d j := by
  simp only [getD, find_insert]; split <;> simp

@[simp] theorem getD_insert_self (m : AMap α) (d : α) (k : Nat) (v : α) : getD (insert m k v) d k = v := by simp [getD_insert]

theorem getD_insert_ne (m : AMap α) (d : α) (v : α) {k j : Nat} (h : j ≠ k) : getD (insert m k v) d j = getD m d j := by
  simp [getD_insert, h]

theorem getD_setD [DecidableEq α] (m : AMap α) (d : α) (k : Nat) (v : α) (j : Nat) :
    getD (setD m d k v) d j = if j = k then v else getD m d j := by
  simp only [setD]
  split
  · simp only [getD, find_erase]; split <;> simp_all
  · exact getD_insert m d k v j

/-- A list of entries numbered from `a`. -/
theorem find_range (g : Nat → α) (a n k : Nat) :
    find? ((List.range n).map (fun i => (i + a, g i))) k = if a ≤ k ∧ k < a + n then some (g (k - a)) else none := by
  have key : ∀ (m : AMap α) (j : Nat) (v : α), find? (m ++ [(j, v)]) k = (find? m k).or (if j = k then some v else none) := by
    intro m j v
    induction m with
    | nil => simp [find?]
    | cons e m ih => obtain ⟨b, w⟩ := e; simp only [List.cons_append, find?]; split <;> simp [ih]
  induction n with
  | zero => rw [if_neg (by omega)]; rfl
  | succ n ih =>
    rw [List.range_succ, List.map_append, List.map_singleton, key, ih]
    by_cases h : a ≤ k ∧ k < a + n
    · rw [if_pos h, Option.some_or, if_pos (by omega)]
    · rw [if_neg h, Option.none_or]
      by_cases h2 : n + a = k
      · rw [if_pos h2, if_pos (by omega), show k - a = n by omega]
      · rw [if_neg h2, if_neg (by omega)]

/-- An entry written twice holds what was written last. -/
@[simp] theorem insert_insert (m : AMap α) (k : Nat) (v w : α) : insert (insert m k v) k w = insert m k w := by
  induction m with
  | nil => simp [insert]
  | cons e m ih =>
    obtain ⟨a, x⟩ := e
    simp only [insert]
    split
    · simp [insert]
    · split
      · simp [insert]
      · simp [insert, *]

/-! Maps, adjustments and membership. -/

theorem find_map {β : Type} (m : AMap α) (f : α → β) (k : Nat) : AMap.find? (m.map (fun e => (e.1, f e.2))) k = (AMap.find? m k).map f := by
  induction m with
  | nil => rfl
  | cons e m ih =>
    obtain ⟨j, v⟩ := e
    rw [List.map_cons]
    by_cases h : j = k
    · subst h; simp [AMap.find?]
    · simp [AMap.find?, h]; exact ih
theorem find_mem (m : AMap α) (k : Nat) (v : α) (h : AMap.find? m k = some v) : (k, v) ∈ m := by
  induction m with
  | nil => cases h
  | cons e m ih =>
    obtain ⟨j, w⟩ := e
    by_cases hj : j = k
    · subst hj; simp [AMap.find?] at h; subst h; exact List.mem_cons_self ..
    · simp [AMap.find?, hj] at h; exact List.mem_cons_of_mem _ (ih h)
theorem find_adjust (m : AMap α) (i j : Nat) (f : α → α) : AMap.find? (AMap.adjust m i f) j = if j = i then (AMap.find? m i).map f else AMap.find? m j := by
  unfold AMap.adjust
  split
  · rename_i h; rw [h]; by_cases hj : j = i
    · subst hj; rw [if_pos rfl, h]; rfl
    · rw [if_neg hj]
  · rename_i v h; rw [AMap.find_insert, h]; rfl

/-! The canonical form. -/

theorem sortedFrom_some (l : Nat) (m : AMap α) :
    sortedFrom (some l) m = true ↔ (∀ e ∈ m, l < e.1) ∧ m.Pairwise (fun a b => a.1 < b.1) := by
  induction m generalizing l with
  | nil => simp [sortedFrom]
  | cons e m ih =>
    obtain ⟨a, w⟩ := e
    simp only [sortedFrom, Bool.and_eq_true, decide_eq_true_eq, ih, List.mem_cons, forall_eq_or_imp, List.pairwise_cons]
    constructor
    · rintro ⟨h1, h2, h3⟩; exact ⟨⟨h1, fun e he => lt_trans h1 (h2 e he)⟩, h2, h3⟩
    · rintro ⟨⟨h1, _⟩, h2, h3⟩; exact ⟨h1, h2, h3⟩

/-- The canonical form: keys strictly rising. -/
theorem wf_iff (m : AMap α) : wf m = true ↔ m.Pairwise (fun a b => a.1 < b.1) := by
  cases m with
  | nil => simp [wf, sortedFrom]
  | cons e m =>
    obtain ⟨a, w⟩ := e
    simp [wf, sortedFrom, sortedFrom_some]

theorem mem_insert {m : AMap α} {k : Nat} {v : α} {e : Nat × α} (h : e ∈ insert m k v) : e = (k, v) ∨ e ∈ m := by
  induction m with
  | nil => simp only [insert, List.mem_singleton] at h; exact Or.inl h
  | cons x m ih =>
    obtain ⟨a, w⟩ := x
    simp only [insert] at h
    split at h
    · simpa using h
    · split at h
      · simp only [List.mem_cons] at h ⊢; tauto
      · simp only [List.mem_cons] at h ⊢
        rcases h with h | h
        · exact Or.inr (Or.inl h)
        · rcases ih h with h | h
          · exact Or.inl h
          · exact Or.inr (Or.inr h)

theorem wf_insert {m : AMap α} (h : wf m = true) (k : Nat) (v : α) : wf (insert m k v) = true := by
  rw [wf_iff] at *
  induction m with
  | nil => simp [insert]
  | cons e m ih =>
    obtain ⟨a, w⟩ := e
    rw [List.pairwise_cons] at h
    simp only [insert]
    split
    · rename_i hk
      simp only [List.pairwise_cons, List.mem_cons, forall_eq_or_imp]
      exact ⟨⟨hk, fun e he => lt_trans hk (h.1 e he)⟩, h.1, h.2⟩
    · split
      · subst_vars; exact List.pairwise_cons.2 ⟨h.1, h.2⟩
      · refine List.pairwise_cons.2 ⟨fun e he => ?_, ih h.2⟩
        rcases mem_insert he with rfl | he
        · show a < k; omega
        · exact h.1 e he

theorem wf_filter {m : AMap α} (h : wf m = true) (p : Nat × α → Bool) : wf (m.filter p) = true := by
  rw [wf_iff] at *; exact List.Pairwise.filter p h

theorem wf_erase {m : AMap α} (h : wf m = true) (k : Nat) : wf (erase m k) = true := wf_filter h _

end AMap

namespace Mem

/-- A byte just written reads as written; every other byte as before. -/
theorem rd_wr (m : Mem) (a : Nat) (b : Byte) (x : Nat) : rd (wr m a b) x = if x = a then b else rd m x := AMap.getD_setD m 0 a b x

/-- The bytes of a write read as written; every byte outside it as before. -/
theorem rd_wrBytes (m : Mem) (a : Nat) (bs : List Byte) (x : Nat) :
    rd (wrBytes m a bs) x = if a ≤ x ∧ x < a + bs.length then bs.getD (x - a) 0 else rd m x := by
  induction bs generalizing m a with
  | nil => simp [wrBytes]
  | cons b bs ih =>
    simp only [wrBytes, ih, rd_wr, List.length_cons]
    by_cases h : x = a
    · subst h; simp
    · by_cases h2 : a + 1 ≤ x ∧ x < a + 1 + bs.length
      · rw [if_pos h2, if_pos ⟨by omega, by omega⟩]
        obtain ⟨n, rfl⟩ : ∃ n, x = a + 1 + n := ⟨x - (a + 1), by omega⟩
        rw [show a + 1 + n - (a + 1) = n by omega, show a + 1 + n - a = n + 1 by omega]; simp
      · rw [if_neg h2, if_neg h, if_neg (by omega)]

/-- A write leaves every byte outside it alone. -/
theorem rd_wrBytes_out (m : Mem) (a : Nat) (bs : List Byte) (x : Nat) (h : x < a ∨ a + bs.length ≤ x) :
    rd (wrBytes m a bs) x = rd m x := by rw [rd_wrBytes, if_neg (by omega)]

theorem rd_clear (m : Mem) (a n x : Nat) : rd (clear m a n) x = if a ≤ x ∧ x < a + n then 0 else rd m x := by
  have := AMap.find_filter m (fun k => !(decide (a ≤ k) && decide (k < a + n))) x
  simp only [rd, clear, AMap.getD, this]
  by_cases h : a ≤ x ∧ x < a + n
  · simp [h]
  · rw [if_neg h]; rw [if_pos (by simp; omega)]

@[simp] theorem rdBytes_length (m : Mem) (a n : Nat) : (rdBytes m a n).length = n := by
  induction n generalizing a with
  | zero => rfl
  | succ n ih => simp [rdBytes, ih]

theorem rdBytes_getD (m : Mem) (a n i : Nat) (h : i < n) : (rdBytes m a n).getD i 0 = rd m (a + i) := by
  induction n generalizing a i with
  | zero => omega
  | succ n ih =>
    cases i with
    | zero => simp [rdBytes]
    | succ i => simp only [rdBytes, List.getD_cons_succ]; rw [ih _ _ (by omega)]; congr 1; omega

/-! The canonical form of a store. -/

theorem wf_iff (m : Mem) : wf m = true ↔ AMap.wf m = true ∧ ∀ e ∈ m, e.2 ≠ 0 := by
  simp only [wf, Bool.and_eq_true, List.all_eq_true, decide_eq_true_eq]

theorem wf_nil : wf [] = true := rfl

theorem wf_filter {m : Mem} (h : wf m = true) (p : Nat × Byte → Bool) : wf (m.filter p) = true := by
  rw [wf_iff] at *
  exact ⟨AMap.wf_filter h.1 p, fun e he => h.2 e (List.mem_of_mem_filter he)⟩

theorem wf_wr {m : Mem} (h : wf m = true) (a : Nat) (b : Byte) : wf (wr m a b) = true := by
  simp only [wr, AMap.setD]
  split
  · exact wf_filter h _
  · rw [wf_iff] at *
    refine ⟨AMap.wf_insert h.1 a b, fun e he => ?_⟩
    rcases AMap.mem_insert he with rfl | he
    · assumption
    · exact h.2 e he

theorem wf_wrBytes {m : Mem} (h : wf m = true) (a : Nat) (bs : List Byte) : wf (wrBytes m a bs) = true := by
  induction bs generalizing m a with
  | nil => exact h
  | cons b bs ih => exact ih (wf_wr h a b) (a + 1)

theorem wf_wrLE {m : Mem} (h : wf m = true) (a n v : Nat) : wf (wrLE m a n v) = true := wf_wrBytes h a _
theorem wf_slice {m : Mem} (h : wf m = true) (a n : Nat) : wf (slice m a n) = true := wf_filter h _
theorem wf_clear {m : Mem} (h : wf m = true) (a n : Nat) : wf (clear m a n) = true := wf_filter h _

end Mem

@[simp] theorem leBytes_length (n v : Nat) : (leBytes n v).length = n := by
  induction n generalizing v with
  | zero => rfl
  | succ n ih => simp [leBytes, ih]

/-- A number laid out little-endian reads back, as far as its bytes hold it. -/
theorem leNat_leBytes (n v : Nat) : leNat (leBytes n v) = v % 256 ^ n := by
  induction n generalizing v with
  | zero => simp [leBytes, leNat, Nat.mod_one]
  | succ n ih =>
    simp only [leBytes, leNat, ih, BitVec.toNat_ofNat]
    rw [show (2 : Nat) ^ 8 = 256 from rfl, pow_succ, Nat.mul_comm (256 ^ n) 256, Nat.mod_mul]

/-- A number stored reads back. -/
theorem Mem.rdLE_wrLE (m : Mem) (a n v : Nat) : Mem.rdLE (Mem.wrLE m a n v) a n = v % 256 ^ n := by
  have : Mem.rdBytes (Mem.wrLE m a n v) a n = leBytes n v := by
    apply List.ext_getElem
    · simp
    · intro i h1 h2
      have h : i < n := by simpa using h2
      have e := Mem.rdBytes_getD (Mem.wrLE m a n v) a n i h
      rw [List.getD_eq_getElem _ _ h1] at e
      rw [e, Mem.wrLE, Mem.rd_wrBytes, if_pos ⟨by omega, by simpa using h⟩, Nat.add_sub_cancel_left,
        List.getD_eq_getElem _ _ h2]
  rw [Mem.rdLE, this, leNat_leBytes]


/-! Several writes. -/

/-- The bytes of a range that reads alike in two stores are alike. -/
theorem Mem.rdBytes_congr (m m' : Mem) (a n : Nat) (h : ∀ x, a ≤ x → x < a + n → Mem.rd m x = Mem.rd m' x) :
    Mem.rdBytes m a n = Mem.rdBytes m' a n := by
  induction n generalizing a with
  | zero => rfl
  | succ n ih => simp only [rdBytes]; rw [h a (by omega) (by omega), ih (a + 1) (fun x h1 h2 => h x (by omega) (by omega))]

theorem Mem.rdLE_congr (m m' : Mem) (a n : Nat) (h : ∀ x, a ≤ x → x < a + n → Mem.rd m x = Mem.rd m' x) :
    Mem.rdLE m a n = Mem.rdLE m' a n := by rw [Mem.rdLE, Mem.rdLE, Mem.rdBytes_congr m m' a n h]

theorem Mem.rd_wrLE_out (m : Mem) (a n v x : Nat) (h : x < a ∨ a + n ≤ x) : Mem.rd (Mem.wrLE m a n v) x = Mem.rd m x :=
  Mem.rd_wrBytes_out m a _ x (by simpa using h)

/-- Numbers (address, bytes, value) written one after another. -/
def Mem.wrAll (m : Mem) (ws : List (Nat × Nat × Nat)) : Mem := ws.foldl (fun m w => Mem.wrLE m w.1 w.2.1 w.2.2) m

theorem Mem.wrAll_cons (m : Mem) (w : Nat × Nat × Nat) (ws : List (Nat × Nat × Nat)) :
    Mem.wrAll m (w :: ws) = Mem.wrAll (Mem.wrLE m w.1 w.2.1 w.2.2) ws := rfl

/-- A byte outside every write stays. -/
theorem Mem.rd_wrAll_out (m : Mem) (ws : List (Nat × Nat × Nat)) (x : Nat) (h : ∀ w ∈ ws, x < w.1 ∨ w.1 + w.2.1 ≤ x) :
    Mem.rd (Mem.wrAll m ws) x = Mem.rd m x := by
  induction ws generalizing m with
  | nil => rfl
  | cons w ws ih =>
    show Mem.rd (Mem.wrAll (Mem.wrLE m w.1 w.2.1 w.2.2) ws) x = _
    rw [ih _ (fun w' h' => h w' (List.mem_cons_of_mem _ h')), Mem.rd_wrLE_out _ _ _ _ _ (h w List.mem_cons_self)]

/-- A number outside every write stays. -/
theorem Mem.rdLE_wrAll_out (m : Mem) (ws : List (Nat × Nat × Nat)) (a n : Nat)
    (h : ∀ w ∈ ws, a + n ≤ w.1 ∨ w.1 + w.2.1 ≤ a) : Mem.rdLE (Mem.wrAll m ws) a n = Mem.rdLE m a n :=
  Mem.rdLE_congr _ _ _ _ (fun x h1 h2 => Mem.rd_wrAll_out m ws x (fun w hw => by have := h w hw; omega))

/-- Each of several writes that do not overlap reads back. -/
theorem Mem.rdLE_wrAll (m : Mem) (ws : List (Nat × Nat × Nat))
    (hd : ws.Pairwise (fun v w => v.1 + v.2.1 ≤ w.1 ∨ w.1 + w.2.1 ≤ v.1)) (w : Nat × Nat × Nat) (hw : w ∈ ws) :
    Mem.rdLE (Mem.wrAll m ws) w.1 w.2.1 = w.2.2 % 256 ^ w.2.1 := by
  induction ws generalizing m with
  | nil => simp at hw
  | cons v ws ih =>
    rw [List.pairwise_cons] at hd
    show Mem.rdLE (Mem.wrAll (Mem.wrLE m v.1 v.2.1 v.2.2) ws) _ _ = _
    rcases List.mem_cons.1 hw with rfl | h
    · rw [Mem.rdLE_wrAll_out _ _ _ _ (fun u hu => by have := hd.1 u hu; omega), Mem.rdLE_wrLE]
    · exact ih _ hd.2 h

theorem Mem.wf_wrAll {m : Mem} (h : Mem.wf m = true) (ws : List (Nat × Nat × Nat)) : Mem.wf (Mem.wrAll m ws) = true := by
  induction ws generalizing m with
  | nil => exact h
  | cons w ws ih => exact ih (Mem.wf_wrLE h _ _ _)

/-- A part of the bytes written reads back. -/
theorem Mem.rdBytes_wrBytes (m : Mem) (a i n : Nat) (bs : List Byte) (h : i + n ≤ bs.length) :
    Mem.rdBytes (Mem.wrBytes m a bs) (a + i) n = (bs.drop i).take n := by
  refine List.ext_getElem (by simp; omega) (fun j h1 h2 => ?_)
  have hj : j < n := by simpa using h1
  have e := Mem.rdBytes_getD (Mem.wrBytes m a bs) (a + i) n j hj
  rw [List.getD_eq_getElem _ _ h1] at e
  rw [e, Mem.rd_wrBytes, if_pos (by omega), List.getD_eq_getElem _ _ (by omega), List.getElem_take, List.getElem_drop]
  congr 1; omega

/-- A part of the bytes read. -/
theorem Mem.take_drop_rdBytes (m : Mem) (a i n k : Nat) (h : i + n ≤ k) :
    ((Mem.rdBytes m a k).drop i).take n = Mem.rdBytes m (a + i) n := by
  refine List.ext_getElem (by simp; omega) (fun j h1 h2 => ?_)
  have hj : j < n := by simpa using h2
  have e := Mem.rdBytes_getD m (a + i) n j hj
  rw [List.getD_eq_getElem _ _ h2] at e
  rw [e, List.getElem_take, List.getElem_drop]
  have e2 := Mem.rdBytes_getD m a k (i + j) (by omega)
  rw [List.getD_eq_getElem _ _ (by simp; omega)] at e2
  rw [e2]; congr 1; omega

end Sys2Proof.Machine
end

