-- ==== Sys2Proof/Laws/Stack.lean ====
section
/-! SUPPORT. Stack memory without upset words: reads give the bytes and change nothing, writes change their own bytes only; the charge
of moved bytes changes the ledger only. -/
namespace Sys2Proof.Machine

/-- The state with other stack bytes. -/
def State.withStack (s : State) (m : Mem) : State := { s with mem := { s.mem with stack := m } }

theorem State.touchAll_clean (s : State) (sev ctx : Nat) (h : s.mem.flips = []) (w n : Nat) : s.touchAll sev ctx w n = (s, true) := by
  induction n generalizing w with
  | zero => rfl
  | succ n ih => simp only [State.touchAll, State.touch, h, AMap.find_nil, ih, Bool.and_self]

/-- A read of clean memory. -/
theorem State.stackRead_clean (s : State) (sev ctx a n : Nat) (h : s.mem.flips = []) :
    s.stackRead sev ctx a n = (s, true, Mem.rdBytes s.mem.stack a n) := by
  simp only [State.stackRead, State.touchAll_clean s sev ctx h]

/-- A write of bytes of one word of clean memory. -/
theorem State.writeWord_clean (s : State) (sev ctx a : Nat) (bs : List Byte) (h : s.mem.flips = []) :
    s.writeWord sev ctx a bs = (s.withStack (Mem.wrBytes s.mem.stack a bs), true) := by
  unfold State.writeWord
  split
  · refine Prod.ext ?_ rfl
    rw [h, show AMap.erase ([] : AMap (BitVec 72)) (a / 8) = [] from rfl, ← h]; rfl
  · have e : s.touch sev ctx (a / 8) = (s, true) := by simp only [State.touch, h, AMap.find_nil]
    rw [e]; rfl

theorem Mem.wrBytes_append (m : Mem) (a : Nat) (xs ys : List Byte) :
    Mem.wrBytes m a (xs ++ ys) = Mem.wrBytes (Mem.wrBytes m a xs) (a + xs.length) ys := by
  induction xs generalizing m a with
  | nil => rfl
  | cons x xs ih => simp only [List.cons_append, Mem.wrBytes, ih, List.length_cons]; congr 1; omega

theorem State.stackWriteN_clean (sev ctx : Nat) (fuel : Nat) : ∀ (s : State) (a : Nat) (bs : List Byte), s.mem.flips = [] →
    bs.length + a % 8 ≤ 8 * fuel →
    s.stackWriteN sev ctx a bs fuel = (s.withStack (Mem.wrBytes s.mem.stack a bs), true) := by
  induction fuel with
  | zero => intro s a bs h hl; obtain rfl : bs = [] := List.eq_nil_of_length_eq_zero (by omega); rfl
  | succ n ih =>
    intro s a bs h hl
    unfold State.stackWriteN
    split
    · next e => subst e; rfl
    · simp only [State.writeWord_clean s sev ctx a _ h]
      by_cases hb : bs.length ≤ 8 - a % 8
      · rw [List.drop_eq_nil_of_le hb, List.take_of_length_le hb]
        have : ∀ (t : State), t.stackWriteN sev ctx (a + (8 - a % 8)) [] n = (t, true) := by
          intro t; cases n <;> simp [State.stackWriteN]
        rw [this]; rfl
      · have e := ih (s.withStack (Mem.wrBytes s.mem.stack a (bs.take (8 - a % 8)))) (a + (8 - a % 8)) (bs.drop (8 - a % 8)) h
          (by simp; omega)
        rw [e]
        refine Prod.ext ?_ rfl
        change s.withStack (Mem.wrBytes (Mem.wrBytes _ _ _) _ _) = _
        rw [show a + (8 - a % 8) = a + (bs.take (8 - a % 8)).length by simp; omega, ← Mem.wrBytes_append, List.take_append_drop]

/-- A write to clean memory. -/
theorem State.stackWrite_clean (s : State) (sev ctx a : Nat) (bs : List Byte) (h : s.mem.flips = []) :
    s.stackWrite sev ctx a bs = (s.withStack (Mem.wrBytes s.mem.stack a bs), true) :=
  State.stackWriteN_clean sev ctx _ s a bs h (by omega)

/-- A charge changes the ledger only. -/
theorem State.addAcc_frame (s : State) (unit line item n : Nat) :
    s.addAcc unit line item n = { s with led := (s.addAcc unit line item n).led } := rfl
theorem State.chargeAt_frame (s : State) (unit line item n : Nat) :
    s.chargeAt unit line item n = { s with led := (s.chargeAt unit line item n).led } := by
  unfold State.chargeAt
  split
  · rw [State.addAcc_frame]; rfl
  · rfl
theorem State.charge_frame (s : State) (line item n : Nat) : s.charge line item n = { s with led := (s.charge line item n).led } :=
  State.chargeAt_frame ..
theorem State.chargeBytesAt_frame (s : State) (unit line : Nat) (wr : Bool) (a n : Nat) :
    s.chargeBytesAt unit line wr a n = { s with led := (s.chargeBytesAt unit line wr a n).led } := by
  unfold State.chargeBytesAt
  generalize piecesOf a n = ps
  induction ps generalizing s with
  | nil => rfl
  | cons p ps ih =>
    rw [List.foldl_cons]
    split
    · rw [ih, State.chargeAt_frame]
    · rw [ih]
theorem State.chargeBytes_frame (s : State) (line : Nat) (wr : Bool) (a n : Nat) :
    s.chargeBytes line wr a n = { s with led := (s.chargeBytes line wr a n).led } := State.chargeBytesAt_frame ..
@[simp] theorem State.mem_chargeBytesAt (s : State) (unit line : Nat) (wr : Bool) (a n : Nat) :
    (s.chargeBytesAt unit line wr a n).mem = s.mem := by rw [State.chargeBytesAt_frame]
@[simp] theorem State.tier_chargeBytesAt (s : State) (unit line : Nat) (wr : Bool) (a n : Nat) :
    (s.chargeBytesAt unit line wr a n).tier = s.tier := by rw [State.chargeBytesAt_frame]
@[simp] theorem State.mem_chargeBytes (s : State) (line : Nat) (wr : Bool) (a n : Nat) : (s.chargeBytes line wr a n).mem = s.mem := by
  rw [State.chargeBytes_frame]
@[simp] theorem State.tier_chargeBytes (s : State) (line : Nat) (wr : Bool) (a n : Nat) : (s.chargeBytes line wr a n).tier = s.tier := by
  rw [State.chargeBytes_frame]

/-- A range in one block is one piece. -/
theorem piecesOf_one (a n : Nat) (h : a % 262144 + n ≤ 262144) : piecesOf a n = if n = 0 then [] else [(a, n)] := by
  unfold piecesOf
  have h2 : n / blockBytes + 2 = (n / blockBytes + 1) + 1 := rfl
  rw [h2, blockPieces]
  split
  · rfl
  · have hb : blockBytes = 262144 := rfl
    have : min n (blockBytes - a % blockBytes) = n := by rw [hb]; omega
    rw [this]
    dsimp only
    rw [Nat.sub_self]
    cases n / blockBytes + 1 <;> rfl

end Sys2Proof.Machine
end

