-- ==== Sys2Proof/Laws/Frames.lean ====
section
/-! SUPPORT. What the shared operations may change: each lemma names every component of the state that its operation can touch. -/
namespace Sys2Proof.Machine

/-- A relation that holds of equal states and composes holds across a fold of steps that keep it. -/
theorem foldl_rel {α : Type} (R : State → State → Prop) (hr : ∀ s, R s s) (ht : ∀ a b c, R a b → R b c → R a c)
    (f : State → α → State) (hf : ∀ s a, R s (f s a)) (l : List α) (s : State) : R s (l.foldl f s) := by
  induction l generalizing s with
  | nil => exact hr s
  | cons a l ih => exact ht _ _ _ (hf s a) (ih _)

/-- Only the scheduler's state differs. -/
def InSch (s t : State) : Prop := t = { s with sch := t.sch }
/-- Only the scheduler's and the power state differ. -/
def InSchPwr (s t : State) : Prop := t = { s with sch := t.sch, pwr := t.pwr }
/-- Only the scheduler's state and the fault records differ. -/
def InSchFlt (s t : State) : Prop := t = { s with sch := t.sch, flt := t.flt }
/-- Only the umpire's state differs. -/
def InUmp (s t : State) : Prop := t = { s with ump := t.ump }
/-- Only the stacks and the fault records differ. -/
def InMemFlt (s t : State) : Prop := t = { s with mem := t.mem, flt := t.flt }
/-- Only the stacks and the tiers differ. -/
def InMemTier (s t : State) : Prop := t = { s with mem := t.mem, tier := t.tier }

theorem InSch.trans (a b c : State) (h : InSch a b) (k : InSch b c) : InSch a c := by unfold InSch at *; rw [k, h]
theorem InSchPwr.trans (a b c : State) (h : InSchPwr a b) (k : InSchPwr b c) : InSchPwr a c := by unfold InSchPwr at *; rw [k, h]
theorem InSchFlt.trans (a b c : State) (h : InSchFlt a b) (k : InSchFlt b c) : InSchFlt a c := by unfold InSchFlt at *; rw [k, h]
theorem InUmp.trans (a b c : State) (h : InUmp a b) (k : InUmp b c) : InUmp a c := by unfold InUmp at *; rw [k, h]
theorem InMemFlt.trans (a b c : State) (h : InMemFlt a b) (k : InMemFlt b c) : InMemFlt a c := by unfold InMemFlt at *; rw [k, h]
theorem InMemTier.trans (a b c : State) (h : InMemTier a b) (k : InMemTier b c) : InMemTier a c := by unfold InMemTier at *; rw [k, h]

/-! The scheduler's marks. -/

theorem State.markCtx_frame (s : State) (c : Nat) : InSch s (s.markCtx c) := rfl
theorem State.markCourt_frame (s : State) (c : Nat) : InSchPwr s (s.markCourt c) := rfl
theorem State.withhold_frame (s : State) : InSch s s.withhold := by
  unfold State.withhold
  extract_lets b
  split
  · split
    · rfl
    · split <;> rfl
  · rfl
theorem State.mark_frame (s : State) : InSchPwr s s.mark := by
  unfold State.mark
  have up : ∀ {a b : State}, InSch a b → InSchPwr a b := fun {a b} h => by unfold InSch at h; unfold InSchPwr; rw [h]
  refine InSchPwr.trans _ _ _ (up (InSch.trans _ _ _ ?_ (State.withhold_frame _)))
    (foldl_rel InSchPwr (fun _ => rfl) InSchPwr.trans _ State.markCourt_frame _ _)
  exact foldl_rel InSch (fun _ => rfl) InSch.trans _ State.markCtx_frame _ _
theorem State.engage_frame (s : State) (c : Nat) : InSch s (s.engage c) := by
  unfold State.engage; dsimp only; split
  · rfl
  · split <;> rfl
theorem State.disengage_frame (s : State) (c : Nat) : InSch s (s.disengage c) := by
  unfold State.disengage; dsimp only; split <;> rfl

@[simp] theorem State.core_mark (s : State) (p : Nat) : s.mark.core p = s.core p := by
  unfold State.core; rw [show s.mark.cores = s.cores by rw [s.mark_frame]]
@[simp] theorem State.clu_mark (s : State) (n : Nat) : s.mark.clu n = s.clu n := by
  unfold State.clu; rw [show s.mark.clus = s.clus by rw [s.mark_frame]]
@[simp] theorem State.book_mark (s : State) : s.mark.book = s.book := by rw [s.mark_frame]
@[simp] theorem State.ump_mark (s : State) : s.mark.ump = s.ump := by rw [s.mark_frame]

/-! Steps that fail. -/

theorem State.failStep_frame (s : State) (t : Step) (c : Code) (k : Option Nat) (x : Nat) : InSchFlt s (s.failStep t c k x) := by
  unfold State.failStep; split <;> rfl

/-! Messages. -/

theorem State.event_frame (s : State) (m op ctx : Nat) (b : List Byte) : InUmp s (s.event m op ctx b) := rfl
theorem State.eventMgmt_frame (s : State) (op ctx : Nat) (b : List Byte) : InUmp s (s.eventMgmt op ctx b) :=
  foldl_rel InUmp (fun _ => rfl) InUmp.trans (fun s m => s.event m op ctx b) (fun s m => s.event_frame m op ctx b) _ _
theorem State.eventCtx_frame (s : State) (ctx op : Nat) (b : List Byte) : InUmp s (s.eventCtx ctx op b) :=
  foldl_rel InUmp (fun _ => rfl) InUmp.trans (fun s m => s.event m op ctx b) (fun s m => s.event_frame m op ctx b) _ _
theorem State.answer_frame (s : State) (r : Req) (c : Code) (b : List Byte) : InUmp s (s.answer r c b) := rfl
theorem State.seqEvent_frame (s : State) (i r : Nat) (c : Code) : InUmp s (s.seqEvent i r c) := by
  unfold State.seqEvent; split <;> rfl

/-! Stacks and objects. -/

theorem State.touch_frame (s : State) (sev ctx w : Nat) : InMemFlt s (s.touch sev ctx w).1 := by
  unfold State.touch; split
  · rfl
  · dsimp only; split <;> rfl
theorem State.touchAll_frame (s : State) (sev ctx w n : Nat) : InMemFlt s (s.touchAll sev ctx w n).1 := by
  induction n generalizing s w with
  | zero => rfl
  | succ n ih => exact InMemFlt.trans _ _ _ (s.touch_frame sev ctx w) (ih _ _)
theorem State.stackRead_frame (s : State) (sev ctx a n : Nat) : InMemFlt s (s.stackRead sev ctx a n).1 := s.touchAll_frame _ _ _ _
theorem State.writeWord_frame (s : State) (sev ctx a : Nat) (bs : List Byte) : InMemFlt s (s.writeWord sev ctx a bs).1 := by
  unfold State.writeWord; split
  · rfl
  · have h := s.touch_frame sev ctx (a / 8)
    dsimp only; split
    · unfold InMemFlt at h ⊢; dsimp only; rw [h]
    · exact h
theorem State.stackWriteN_frame (fuel : Nat) (s : State) (sev ctx a : Nat) (bs : List Byte) : InMemFlt s (s.stackWriteN sev ctx a bs fuel).1 := by
  induction fuel generalizing s a bs with
  | zero => rfl
  | succ n ih =>
    unfold State.stackWriteN; split
    · rfl
    · exact InMemFlt.trans _ _ _ (s.writeWord_frame sev ctx a _) (ih _ _ _)
theorem State.stackWrite_frame (s : State) (sev ctx a : Nat) (bs : List Byte) : InMemFlt s (s.stackWrite sev ctx a bs).1 :=
  State.stackWriteN_frame _ s sev ctx a bs
theorem State.markDirty_frame (s : State) (x n : Nat) : InMemFlt s (s.markDirty x n) := by
  unfold State.markDirty; split <;> rfl
theorem State.piecesWrite_frame (ac : Access) (ps : List (Nat × Nat)) (s : State) (bs : List Byte) : InMemFlt s (s.piecesWrite ac ps bs).1 := by
  induction ps generalizing s bs with
  | nil => rfl
  | cons p ps ih =>
    unfold State.piecesWrite; split
    · rfl
    · exact InMemFlt.trans _ _ _ (InMemFlt.trans _ _ _ (s.markDirty_frame _ _) (State.stackWrite_frame _ _ _ _ _)) (ih _ _)
theorem State.objWrite_frame (s : State) (ac : Access) (a : Nat) (bs : List Byte) : InMemFlt s (s.objWrite ac a bs).1 := by
  unfold State.objWrite; dsimp only; split
  · rfl
  · exact State.piecesWrite_frame ac _ s bs

theorem State.chargeQuota_frame (s : State) (o : Option Nat) (t n : Nat) : InMemTier s (s.chargeQuota o t n) := by
  unfold State.chargeQuota; split <;> rfl
theorem State.unchargeQuota_frame (s : State) (o : Option Nat) (t n : Nat) : InMemTier s (s.unchargeQuota o t n) := by
  unfold State.unchargeQuota; split <;> rfl
theorem State.freshBlocks_frame (n : Nat) (s : State) (b : Nat) : InMemTier s (s.freshBlocks b n) := by
  induction n generalizing s b with
  | zero => rfl
  | succ n ih =>
    have h : InMemTier s (((s.setRegion s.pickRegion (.fresh b)).setBlock b (.fresh s.pickRegion)).stackClear (blockBytes * s.pickRegion)
      blockBytes) := rfl
    exact InMemTier.trans _ _ _ h (ih _ _)
theorem State.setObj_frame (s : State) (b : Nat) (o : Obj) : InMemTier s (s.setObj b o) := rfl
theorem State.placeObj_frame (s : State) (b : Nat) (o : Obj) : InMemTier s (s.placeObj b o) := by
  unfold State.placeObj
  have h1 := s.setObj_frame b o
  generalize s.setObj b o = s1 at h1
  have h2 := State.freshBlocks_frame o.blocks s1 b
  generalize s1.freshBlocks b o.blocks = s2 at h2
  exact InMemTier.trans _ _ _ (InMemTier.trans _ _ _ h1 h2) (State.chargeQuota_frame _ _ _ _)
theorem State.createObj_frame (s : State) (o : Option Nat) (u : ObjUse) (n k f : Nat) : InMemTier s (s.createObj o u n k f).1 := by
  unfold State.createObj
  extract_lets x m
  split
  · exact rfl
  split
  · exact rfl
  split
  · exact rfl
  · exact s.placeObj_frame _ _
theorem State.freeChunk_frame (s : State) (c : Nat) : InMemTier s (s.freeChunk c) := by
  unfold State.freeChunk; split
  · dsimp only; split <;> rfl
  · rfl
theorem State.dropReloc_frame (s : State) (r : Nat) : InMemTier s ((s.clearRegion r).dropReloc r) := by
  unfold State.dropReloc; split <;> rfl
theorem State.freeHome_frame (s : State) (h : Home) : InMemTier s (s.freeHome h) := by
  cases h with
  | fresh r => exact State.dropReloc_frame ..
  | pressed n cs => exact foldl_rel InMemTier (fun _ => rfl) InMemTier.trans _ State.freeChunk_frame _ _
  | cave a b c => rfl
theorem State.dropObj_frame (s : State) (b : Nat) : InMemTier s (s.dropObj b) := by
  unfold State.dropObj; split
  · rfl
  · dsimp only
    rename_i o _
    have h1 := foldl_rel InMemTier (fun _ => rfl) InMemTier.trans (fun (s : State) (e : Nat × Home) => (s.freeHome e.2).unchargeQuota (o.payer e.2.tier) e.2.tier e.2.units)
      (fun s e => InMemTier.trans _ _ _ (s.freeHome_frame e.2) (State.unchargeQuota_frame _ _ _ _)) (s.homesOf b o) s
    split
    · rename_i m _
      have h2 := InMemTier.trans _ _ _ h1 (State.unchargeQuota_frame _ (o.payer m.dest) m.dest m.resv)
      unfold InMemTier at h2 ⊢; rw [h2]
    · unfold InMemTier at h1 ⊢; rw [h1]

end Sys2Proof.Machine
end

