-- ==== Sys2Proof/Laws/Lanes.lean ====
section
/-! SUPPORT. Lanes and elements of a vector register: what a register built by lanes or by elements reads as, and the small laws of
the registers of a core. -/
namespace Sys2Proof.Machine

/-- A number built of digits in base `B` has those digits. -/
theorem digits_sum (B : Nat) (G : Nat → Nat) (hB : 0 < B) (hG : ∀ j, G j < B) (n : Nat) :
    let t := (List.range n).foldr (fun j acc => acc + G j * B ^ j) 0
    t < B ^ n ∧ ∀ i, t / B ^ i % B = if i < n then G i else 0 := by
  have shift : ∀ (l : List Nat) (a : Nat), l.foldr (fun j acc => acc + G j * B ^ j) a =
      a + l.foldr (fun j acc => acc + G j * B ^ j) 0 := by
    intro l; induction l with
    | nil => simp
    | cons x l ih => intro a; simp only [List.foldr_cons]; rw [ih a]; omega
  induction n with
  | zero => simp [Nat.zero_div]
  | succ n ih =>
    obtain ⟨h1, h2⟩ := ih
    simp only [List.range_succ, List.foldr_append, List.foldr_cons, List.foldr_nil] at h1 h2 ⊢
    rw [shift]
    generalize List.foldr (fun j acc => acc + G j * B ^ j) 0 (List.range n) = t at h1 h2
    have hp : 0 < B ^ n := Nat.pow_pos hB
    refine ⟨?_, fun i => ?_⟩
    · rw [pow_succ]
      have := hG n
      calc 0 + G n * B ^ n + t < G n * B ^ n + B ^ n := by omega
        _ = (G n + 1) * B ^ n := by ring
        _ ≤ B * B ^ n := Nat.mul_le_mul_right _ this
        _ = B ^ n * B := by ring
    · rw [Nat.zero_add]
      by_cases hi : i < n
      · rw [if_pos (by omega)]
        have := h2 i
        rw [if_pos hi] at this
        obtain ⟨k, rfl⟩ : ∃ k, n = i + 1 + k := ⟨n - (i + 1), by omega⟩
        have e : G (i + 1 + k) * B ^ (i + 1 + k) + t = t + B ^ i * (B * (G (i + 1 + k) * B ^ k)) := by ring
        rw [e, Nat.add_mul_div_left _ _ (Nat.pow_pos hB), Nat.add_mul_mod_self_left, this]
      · by_cases hn : i = n
        · subst hn
          rw [if_pos (by omega), Nat.add_comm, Nat.add_mul_div_right _ _ hp, Nat.div_eq_of_lt h1, Nat.zero_add,
            Nat.mod_eq_of_lt (hG i)]
        · rw [if_neg (by omega)]
          have : G n * B ^ n + t < B ^ i := by
            calc G n * B ^ n + t < G n * B ^ n + B ^ n := by omega
              _ = (G n + 1) * B ^ n := by ring
              _ ≤ B * B ^ n := Nat.mul_le_mul_right _ (hG n)
              _ = B ^ (n + 1) := by rw [pow_succ]; ring
              _ ≤ B ^ i := Nat.pow_le_pow_right hB (by omega)
          rw [Nat.div_eq_of_lt this, Nat.zero_mod]

set_option exponentiation.threshold 4096 in
/-- A register built by lanes has those lanes. -/
theorem lane_ofLanes (g : Nat → W32) (j : Nat) (h : j < 128) : lane (ofLanes g) j = g j := by
  have d := digits_sum (2 ^ 32) (fun j => (g j).toNat) (by decide) (fun j => (g j).isLt) 128
  simp only [← pow_mul] at d
  obtain ⟨h1, h2⟩ := d
  apply BitVec.eq_of_toNat_eq
  simp only [lane, ofLanes, BitVec.toNat_ofNat]
  rw [show 32 * 128 = 4096 from rfl] at h1
  rw [Nat.mod_eq_of_lt h1, h2, if_pos h]

set_option exponentiation.threshold 4096 in
/-- A register built by 16-bit elements has those elements. -/
theorem elem16_ofElems16 (g : Nat → BitVec 16) (k : Nat) (h : k < 256) : elem16 (ofElems16 g) k = g k := by
  have d := digits_sum (2 ^ 16) (fun j => (g j).toNat) (by decide) (fun j => (g j).isLt) 256
  simp only [← pow_mul] at d
  obtain ⟨h1, h2⟩ := d
  apply BitVec.eq_of_toNat_eq
  simp only [elem16, ofElems16, BitVec.toNat_ofNat]
  rw [show 16 * 256 = 4096 from rfl] at h1
  rw [Nat.mod_eq_of_lt h1, h2, if_pos h]

/-- The elements of a masked element-wise result: the computed value in an enabled lane, the old one in a disabled lane. -/
theorem elemAt_mapElems (ty : VTy) (col : W32) (old : VReg) (g : Nat → Nat) (k : Nat) (h : k < elemCount ty) :
    elemAt ty (mapElems ty col old g) k = if laneOn col (elemLane ty k) then g k % 2 ^ elemWidth ty else elemAt ty old k := by
  unfold elemAt mapElems elemLane elemWidth
  unfold elemCount at h
  by_cases h16 : VTy.is16 ty = true
  · simp only [h16, if_true] at h ⊢
    rw [elem16_ofElems16 _ _ h]; split <;> simp
  · simp only [h16] at h ⊢
    rw [if_neg (by simp)] at h
    simp only [Bool.false_eq_true, if_false]
    rw [lane_ofLanes _ _ h]; split <;> simp

/-- The lanes of a masked result on 32-bit lanes. -/
theorem lane_mapLanes (col : W32) (old : VReg) (g : Nat → W32) (j : Nat) (h : j < 128) :
    lane (mapLanes col old g) j = if laneOn col j then g j else lane old j := by
  unfold mapLanes; rw [lane_ofLanes _ _ h]

theorem elemAt_lt (ty : VTy) (v : VReg) (k : Nat) : elemAt ty v k < 2 ^ elemWidth ty := by
  unfold elemAt elemWidth; split <;> exact BitVec.isLt _

theorem elemAt_int32 (v : VReg) (k : Nat) : elemAt .int32 v k = (lane v k).toNat := rfl

theorem lane_and (v w : VReg) (j : Nat) : lane (v &&& w) j = lane v j &&& lane w j := by
  apply BitVec.eq_of_getLsbD_eq
  intro i hi
  simp [lane, BitVec.toNat_and, Nat.and_div_two_pow, hi]
theorem lane_or (v w : VReg) (j : Nat) : lane (v ||| w) j = lane v j ||| lane w j := by
  apply BitVec.eq_of_getLsbD_eq
  intro i hi
  simp [lane, BitVec.toNat_or, Nat.or_div_two_pow, hi]
theorem lane_xor (v w : VReg) (j : Nat) : lane (v ^^^ w) j = lane v j ^^^ lane w j := by
  apply BitVec.eq_of_getLsbD_eq
  intro i hi
  simp [lane, BitVec.toNat_xor, Nat.xor_div_two_pow, hi]

/-- The number of a list of bytes, cut at a byte. -/
theorem leNat_append (xs ys : List Byte) : leNat (xs ++ ys) = leNat xs + 256 ^ xs.length * leNat ys := by
  induction xs with
  | nil => simp [leNat]
  | cons x xs ih => simp only [List.cons_append, leNat, ih, List.length_cons, pow_succ]; ring

theorem leNat_lt (xs : List Byte) : leNat xs < 256 ^ xs.length := by
  induction xs with
  | nil => simp [leNat]
  | cons x xs ih =>
    simp only [leNat, List.length_cons, pow_succ]
    have := x.isLt
    omega

theorem Mem.rdBytes_add (m : Mem) (a n k : Nat) : Mem.rdBytes m a (n + k) = Mem.rdBytes m a n ++ Mem.rdBytes m (a + n) k := by
  induction n generalizing a with
  | zero => simp [Mem.rdBytes]
  | succ n ih => rw [show n + 1 + k = (n + k) + 1 by omega]; simp only [Mem.rdBytes, List.cons_append, ih]; congr 3; omega

/-- A number within a number read from a store. -/
theorem Mem.rdLE_part (m : Mem) (a n i k : Nat) (h : i + k ≤ n) :
    Mem.rdLE m a n / 256 ^ i % 256 ^ k = Mem.rdLE m (a + i) k := by
  obtain ⟨r, rfl⟩ : ∃ r, n = i + (k + r) := ⟨n - i - k, by omega⟩
  have l1 := leNat_lt (Mem.rdBytes m a i)
  have l2 := leNat_lt (Mem.rdBytes m (a + i) k)
  rw [Mem.rdBytes_length] at l1 l2
  simp only [Mem.rdLE, Mem.rdBytes_add, leNat_append, Mem.rdBytes_length]
  rw [Nat.add_mul_div_left _ _ (Nat.pow_pos (by omega)), Nat.div_eq_of_lt l1, Nat.zero_add, Nat.add_mul_mod_self_left,
    Nat.mod_eq_of_lt l2]

theorem Mem.rdLE_lt (m : Mem) (a n : Nat) : Mem.rdLE m a n < 256 ^ n := by
  have := leNat_lt (Mem.rdBytes m a n); rwa [Mem.rdBytes_length] at this

set_option exponentiation.threshold 4096 in
/-- The lanes of 512 bytes of a store. -/
theorem lane_loadV (m : Mem) (a j : Nat) (h : j < 128) : (lane (loadV m a) j).toNat = Mem.rdLE m (a + 4 * j) 4 := by
  have e : (2 : Nat) ^ (32 * j) = 256 ^ (4 * j) := by rw [show (256 : Nat) = 2 ^ 8 from rfl, ← pow_mul]; congr 1; omega
  have hl := Mem.rdLE_lt m a 512
  simp only [lane, loadV, BitVec.toNat_ofNat]
  rw [Nat.mod_eq_of_lt (show _ < 2 ^ 4096 by rw [show (256 : Nat) ^ 512 = 2 ^ 4096 by rw [show (256 : Nat) = 2 ^ 8 from rfl, ← pow_mul]] at hl; exact hl),
    e, show (2 : Nat) ^ 32 = 256 ^ 4 from rfl]
  exact Mem.rdLE_part m a 512 (4 * j) 4 (by omega)

/-- The enabled lanes stored, as writes. -/
theorem storeV_eq (m : Mem) (col : W32) (a : Nat) (v : VReg) :
    storeV m col a v = Mem.wrAll m (((List.range 128).filter (laneOn col)).map (fun j => (a + 4 * j, 4, (lane v j).toNat))) := by
  unfold storeV Mem.wrAll
  rw [List.foldl_map, List.foldl_filter]

namespace CoreRegs

/-- A scalar register after a write: s0 stays zero. -/
theorem sr_sw (c : CoreRegs) (i r : BitVec 4) (v : W64) : (c.sw i v).sr r = if r = i ∧ i ≠ 0 then v else c.sr r := by
  unfold sw sr
  have inj : ∀ x y : BitVec 4, (x.toNat = y.toNat) ↔ x = y := fun x y => BitVec.toNat_inj
  by_cases hi : i = 0
  · rw [if_pos hi, if_neg (c := r = i ∧ i ≠ 0) (by tauto)]
  · rw [if_neg hi]
    by_cases hr : r = 0
    · rw [if_pos hr, if_neg (by rintro ⟨rfl, h⟩; exact h hr), if_pos hr]
    · rw [if_neg hr, AMap.getD_insert, if_neg hr]
      by_cases e : r = i
      · rw [if_pos ((inj _ _).2 e), if_pos ⟨e, hi⟩]
      · rw [if_neg (fun x => e ((inj _ _).1 x)), if_neg (by tauto)]

theorem sr_zero (c : CoreRegs) : c.sr 0 = 0 := rfl

theorem vr_vw (c : CoreRegs) (i r : BitVec 6) (v : VReg) : (c.vw i v).vr r = if r = i then v else c.vr r := by
  unfold vw vr
  rw [AMap.getD_insert]
  by_cases e : r = i
  · rw [if_pos (congrArg BitVec.toNat e), if_pos e]
  · rw [if_neg (fun x => e (BitVec.eq_of_toNat_eq x)), if_neg e]

/-- A write of a scalar register changes no other field. -/
theorem sw_frame (c : CoreRegs) (i : BitVec 4) (v : W64) : c.sw i v = { c with sregs := (c.sw i v).sregs } := by
  unfold sw; split <;> rfl

theorem vw_frame (c : CoreRegs) (i : BitVec 6) (v : VReg) : c.vw i v = { c with vregs := (c.vw i v).vregs } := rfl

end CoreRegs
end Sys2Proof.Machine
end

