-- ==== Sys2Proof/Laws/Slot.lean ====
section
/-! SUPPORT. What the issue of a slot can do: one lemma per outcome of a slot operation, and the cores and clusters of a state after an
update of one of them. -/
namespace Sys2Proof.Machine

theorem State.core_setCore (s : State) (p q : Nat) (c : Core) : (s.setCore p c).core q = if q = p then c else s.core q :=
  AMap.getD_insert _ _ _ _ _
@[simp] theorem State.core_setCore_self (s : State) (p : Nat) (c : Core) : (s.setCore p c).core p = c := by
  simp [State.core_setCore]
@[simp] theorem State.setCore_setCore (s : State) (p : Nat) (c d : Core) : (s.setCore p c).setCore p d = s.setCore p d := by
  simp [State.setCore]
@[simp] theorem State.clu_setCore (s : State) (p n : Nat) (c : Core) : (s.setCore p c).clu n = s.clu n := rfl
@[simp] theorem State.core_setClu (s : State) (n p : Nat) (c : Cluster) : (s.setClu n c).core p = s.core p := rfl
theorem State.clu_setClu (s : State) (n m : Nat) (c : Cluster) : (s.setClu n c).clu m = if m = n then c else s.clu m :=
  AMap.getD_insert _ _ _ _ _
@[simp] theorem State.clu_setClu_self (s : State) (n : Nat) (c : Cluster) : (s.setClu n c).clu n = c := by simp [State.clu_setClu]
@[simp] theorem State.core_post (s : State) (p q : Nat) (e : CoachEvent) : (s.post p e).core q = s.core q := rfl
@[simp] theorem State.core_issued (s : State) (p : Nat) (c : Core) (r : CoreRegs) : (s.issued p c r).core p = ⟨r, c.pre⟩ := by
  simp [State.issued]
@[simp] theorem State.physOf_setCore (s : State) (p k : Nat) (c : Core) : (s.setCore p c).physOf k = s.physOf k := rfl

@[simp] theorem State.core_modCore_self (s : State) (p : Nat) (f : CoreRegs → CoreRegs) :
    (s.modCore p f).core p = ⟨f (s.core p).now, f (s.core p).pre⟩ := by simp [State.modCore]
theorem State.core_modCore_ne (s : State) {p q : Nat} (f : CoreRegs → CoreRegs) (h : q ≠ p) : (s.modCore p f).core q = s.core q := by
  rw [State.modCore, State.core_setCore, if_neg h]
theorem State.modCore_modCore (s : State) (p : Nat) (f g : CoreRegs → CoreRegs) :
    (s.modCore p f).modCore p g = s.modCore p (fun r => g (f r)) := by simp [State.modCore]
@[simp] theorem State.clu_modCore (s : State) (p n : Nat) (f : CoreRegs → CoreRegs) : (s.modCore p f).clu n = s.clu n := rfl
@[simp] theorem State.physOf_modCore (s : State) (p k : Nat) (f : CoreRegs → CoreRegs) : (s.modCore p f).physOf k = s.physOf k := rfl

theorem State.Issues.found {s : State} {b : Slot} {p : Nat} {c : Core} (h : s.Issues b p c) :
    s.physOf b.core = some p ∧ (b.first && s.pwr.stopped.contains (dieOfCore b.core)) = false ∧
      ∃ c0, (s.core p).begin b.first = some c0 ∧ c0.read b.first = some c :=
  ⟨h.phys, h.cool, Option.bind_eq_some_iff.mp h.begins⟩

/-- The operation of a slot that issues takes effect. -/
theorem slotOp_ok {s : State} {b : Slot} {p : Nat} {c : Core} {f : CoreRegs → CoreRegs → SlotRes} {r : CoreRegs}
    (h : s.Issues b p c) (hf : f c.pre c.now = .ok r) : slotOp b f s = s.issued p c r := by
  obtain ⟨h1, h2, c0, h3, h4⟩ := h.found
  simp only [slotOp, h1, h2, h3, h4, hf, State.issued]; rfl

/-- The operation of a slot that issues posts a word. -/
theorem slotOp_sig {s : State} {b : Slot} {p : Nat} {c : Core} {f : CoreRegs → CoreRegs → SlotRes} {r : CoreRegs} {w : W32}
    (h : s.Issues b p c) (hf : f c.pre c.now = .sig r w) : slotOp b f s = (s.issued p c r).post p (.signal p w) := by
  obtain ⟨h1, h2, c0, h3, h4⟩ := h.found
  simp only [slotOp, h1, h2, h3, h4, hf, State.issued]; rfl

/-- The operation of a slot that issues stops the core. -/
theorem slotOp_stop {s : State} {b : Slot} {p : Nat} {c : Core} {f : CoreRegs → CoreRegs → SlotRes} {code : Code}
    (h : s.Issues b p c) (hf : f c.pre c.now = .stop code) : slotOp b f s = (s.setCore p c).coreStop p code := by
  obtain ⟨h1, h2, c0, h3, h4⟩ := h.found
  simp only [slotOp, h1, h2, h3, h4, hf]; rfl

/-- A slot that waits holds its whole bundle. -/
theorem slotOp_stall {s : State} {b : Slot} {p : Nat} {c : Core} {f : CoreRegs → CoreRegs → SlotRes}
    (h : s.Issues b p c) (hf : f c.pre c.now = .stall) : slotOp b f s = if b.first then s else s.setCore p ⟨c.pre, c.pre⟩ := by
  obtain ⟨h1, h2, c0, h3, h4⟩ := h.found
  simp only [slotOp, h1, h2, h3, h4, hf]; rfl

/-! The same for a command that is a slot operation. -/

theorem exec_ok {s : State} {b : Slot} {p : Nat} {c : Core} {i : Instr} {f : CoreRegs → CoreRegs → SlotRes} {P : State → Prop}
    (he : exec i s = .next (slotOp b f s)) (r : CoreRegs) (h : s.Issues b p c) (hf : f c.pre c.now = .ok r)
    (hP : ∀ t, t = s.issued p c r → t.core p = ⟨r, c.pre⟩ → P t) : ∃ t, exec i s = .next t ∧ P t :=
  ⟨s.issued p c r, by rw [he, slotOp_ok h hf], hP _ rfl (by simp)⟩

theorem exec_ok_eq {s : State} {b : Slot} {p : Nat} {c : Core} {i : Instr} {f : CoreRegs → CoreRegs → SlotRes}
    (he : exec i s = .next (slotOp b f s)) (r : CoreRegs) (h : s.Issues b p c) (hf : f c.pre c.now = .ok r) :
    exec i s = .next (s.issued p c r) := by rw [he, slotOp_ok h hf]

theorem exec_stop {s : State} {b : Slot} {p : Nat} {c : Core} {i : Instr} {f : CoreRegs → CoreRegs → SlotRes}
    (he : exec i s = .next (slotOp b f s)) (code : Code) (h : s.Issues b p c) (hf : f c.pre c.now = .stop code) :
    exec i s = .next ((s.setCore p c).coreStop p code) := by rw [he, slotOp_stop h hf]

theorem exec_stall {s : State} {b : Slot} {p : Nat} {c : Core} {i : Instr} {f : CoreRegs → CoreRegs → SlotRes}
    (he : exec i s = .next (slotOp b f s)) (h : s.Issues b p c) (hf : f c.pre c.now = .stall) :
    exec i s = .next (if b.first then s else s.setCore p ⟨c.pre, c.pre⟩) := by rw [he, slotOp_stall h hf]

/-- A core that is not running, or that stops, issues nothing. -/
theorem slotOp_idle {s : State} {b : Slot} {p : Nat} (f : CoreRegs → CoreRegs → SlotRes) (h : s.physOf b.core = some p)
    (hn : (s.core p).now.st ≠ .running ∨ (s.core p).now.stopping ≠ none ∧ ((s.core p).now.late = false ∨ b.first = true)) :
    slotOp b f s = s := by
  have : (s.core p).begin b.first = none := by
    unfold Core.begin; rw [if_neg]; rintro ⟨h1, h2⟩
    rcases hn with h | ⟨h, h'⟩
    · exact h h1
    · rcases h2 with h2 | ⟨h2, h3⟩
      · exact h h2
      · rcases h' with h' | h'
        · rw [h'] at h2; cases h2
        · rw [h'] at h3; cases h3
  simp only [slotOp, h, this]; split <;> rfl

/-- A stop: the registers before the bundle, stopped, and the completion posted; or, while transfers are outstanding, the code
remembered. -/
theorem State.coreStop_cases (s : State) (p : Nat) (code : Code) :
    (∃ c, s.coreStop p code = s.setCore p c) ∨ ∃ c e, s.coreStop p code = (s.setCore p c).post p e := by
  by_cases h : (s.core p).pre.xfers = []
  · exact .inr ⟨_, _, if_pos h⟩
  · exact .inl ⟨_, if_neg h⟩

/-- Everything a slot operation can do to the state: to its own core, and to the event queue of that core's cluster. -/
theorem slotOp_cases (b : Slot) (f : CoreRegs → CoreRegs → SlotRes) (s : State) :
    slotOp b f s = s ∨ ∃ p, s.physOf b.core = some p ∧
      ((∃ c, slotOp b f s = s.setCore p c) ∨ ∃ c e, slotOp b f s = (s.setCore p c).post p e) := by
  unfold slotOp
  split
  · exact .inl rfl
  rename_i p hp
  split
  · exact .inl rfl
  split
  · exact .inl rfl
  have stop : ∀ (c0 : Core) (code : Code), (∃ c, (s.setCore p c0).coreStop p code = s.setCore p c) ∨
      ∃ c e, (s.setCore p c0).coreStop p code = (s.setCore p c).post p e := by
    intro c0 code
    rcases State.coreStop_cases (s.setCore p c0) p code with ⟨c, e⟩ | ⟨c, ev, e⟩
    · exact .inl ⟨c, by rw [e, State.setCore_setCore]⟩
    · exact .inr ⟨c, ev, by rw [e, State.setCore_setCore]⟩
  split
  · exact .inr ⟨p, hp, stop _ _⟩
  split
  · exact .inr ⟨p, hp, .inl ⟨_, rfl⟩⟩
  · exact .inr ⟨p, hp, .inl ⟨_, rfl⟩⟩
  · exact .inr ⟨p, hp, .inr ⟨_, _, rfl⟩⟩
  · exact .inr ⟨p, hp, stop _ _⟩
  · split
    · exact .inl rfl
    · exact .inr ⟨p, hp, .inl ⟨_, rfl⟩⟩

end Sys2Proof.Machine
end

