-- ==== Sys2Proof/Laws/State.lean ====
section
/-! SUPPORT. The fields of a state after one of the operations that set a part of it: one lemma per field and operation, so that no proof
unfolds a record update. -/
namespace Sys2Proof.Machine

/-! `State.setFb`. -/
@[simp] theorem State.setFb_pending (s : State) (court layer : Nat) (r : FbRec) : (s.setFb court layer r).pending = s.pending := rfl
@[simp] theorem State.setFb_free (s : State) (court layer : Nat) (r : FbRec) : (s.setFb court layer r).free = s.free := rfl
@[simp] theorem State.setFb_cores (s : State) (court layer : Nat) (r : FbRec) : (s.setFb court layer r).cores = s.cores := rfl
@[simp] theorem State.setFb_clus (s : State) (court layer : Nat) (r : FbRec) : (s.setFb court layer r).clus = s.clus := rfl
@[simp] theorem State.setFb_counter (s : State) (court layer : Nat) (r : FbRec) : (s.setFb court layer r).counter = s.counter := rfl
@[simp] theorem State.setFb_mem (s : State) (court layer : Nat) (r : FbRec) : (s.setFb court layer r).mem = s.mem := rfl
@[simp] theorem State.setFb_tier (s : State) (court layer : Nat) (r : FbRec) : (s.setFb court layer r).tier = s.tier := rfl
@[simp] theorem State.setFb_ump (s : State) (court layer : Nat) (r : FbRec) : (s.setFb court layer r).ump = s.ump := rfl
@[simp] theorem State.setFb_sch (s : State) (court layer : Nat) (r : FbRec) : (s.setFb court layer r).sch = s.sch := rfl
@[simp] theorem State.setFb_wgt (s : State) (court layer : Nat) (r : FbRec) : (s.setFb court layer r).wgt = s.wgt := rfl
@[simp] theorem State.setFb_flt (s : State) (court layer : Nat) (r : FbRec) : (s.setFb court layer r).flt = s.flt := rfl
@[simp] theorem State.setFb_led (s : State) (court layer : Nat) (r : FbRec) : (s.setFb court layer r).led = s.led := rfl
@[simp] theorem State.setFb_sec (s : State) (court layer : Nat) (r : FbRec) : (s.setFb court layer r).sec = s.sec := rfl
@[simp] theorem State.setFb_smb (s : State) (court layer : Nat) (r : FbRec) : (s.setFb court layer r).smb = s.smb := rfl
@[simp] theorem State.setFb_pwr (s : State) (court layer : Nat) (r : FbRec) : (s.setFb court layer r).pwr = s.pwr := rfl
@[simp] theorem State.setFb_upd (s : State) (court layer : Nat) (r : FbRec) : (s.setFb court layer r).upd = s.upd := rfl
@[simp] theorem State.setFb_ring (s : State) (court layer : Nat) (r : FbRec) : (s.setFb court layer r).ring = s.ring := rfl
@[simp] theorem State.setFb_cdc (s : State) (court layer : Nat) (r : FbRec) : (s.setFb court layer r).cdc = s.cdc := rfl

/-! `State.toStep`. -/
@[simp] theorem State.toStep_pending (s : State) (n : Nat) : (s.toStep n).pending = s.pending := rfl
@[simp] theorem State.toStep_free (s : State) (n : Nat) : (s.toStep n).free = s.free := rfl
@[simp] theorem State.toStep_cores (s : State) (n : Nat) : (s.toStep n).cores = s.cores := rfl
@[simp] theorem State.toStep_clus (s : State) (n : Nat) : (s.toStep n).clus = s.clus := rfl
@[simp] theorem State.toStep_counter (s : State) (n : Nat) : (s.toStep n).counter = s.counter := rfl
@[simp] theorem State.toStep_mem (s : State) (n : Nat) : (s.toStep n).mem = s.mem := rfl
@[simp] theorem State.toStep_tier (s : State) (n : Nat) : (s.toStep n).tier = s.tier := rfl
@[simp] theorem State.toStep_ump (s : State) (n : Nat) : (s.toStep n).ump = s.ump := rfl
@[simp] theorem State.toStep_book (s : State) (n : Nat) : (s.toStep n).book = s.book := rfl
@[simp] theorem State.toStep_sch (s : State) (n : Nat) : (s.toStep n).sch = s.sch := rfl
@[simp] theorem State.toStep_wgt (s : State) (n : Nat) : (s.toStep n).wgt = s.wgt := rfl
@[simp] theorem State.toStep_flt (s : State) (n : Nat) : (s.toStep n).flt = s.flt := rfl
@[simp] theorem State.toStep_led (s : State) (n : Nat) : (s.toStep n).led = s.led := rfl
@[simp] theorem State.toStep_smb (s : State) (n : Nat) : (s.toStep n).smb = s.smb := rfl
@[simp] theorem State.toStep_pwr (s : State) (n : Nat) : (s.toStep n).pwr = s.pwr := rfl
@[simp] theorem State.toStep_upd (s : State) (n : Nat) : (s.toStep n).upd = s.upd := rfl
@[simp] theorem State.toStep_ring (s : State) (n : Nat) : (s.toStep n).ring = s.ring := rfl
@[simp] theorem State.toStep_cdc (s : State) (n : Nat) : (s.toStep n).cdc = s.cdc := rfl

/-! `State.setStream`. -/
@[simp] theorem State.setStream_pending (s : State) (i : Nat) (c : CStream) : (s.setStream i c).pending = s.pending := rfl
@[simp] theorem State.setStream_free (s : State) (i : Nat) (c : CStream) : (s.setStream i c).free = s.free := rfl
@[simp] theorem State.setStream_cores (s : State) (i : Nat) (c : CStream) : (s.setStream i c).cores = s.cores := rfl
@[simp] theorem State.setStream_clus (s : State) (i : Nat) (c : CStream) : (s.setStream i c).clus = s.clus := rfl
@[simp] theorem State.setStream_counter (s : State) (i : Nat) (c : CStream) : (s.setStream i c).counter = s.counter := rfl
@[simp] theorem State.setStream_mem (s : State) (i : Nat) (c : CStream) : (s.setStream i c).mem = s.mem := rfl
@[simp] theorem State.setStream_tier (s : State) (i : Nat) (c : CStream) : (s.setStream i c).tier = s.tier := rfl
@[simp] theorem State.setStream_ump (s : State) (i : Nat) (c : CStream) : (s.setStream i c).ump = s.ump := rfl
@[simp] theorem State.setStream_book (s : State) (i : Nat) (c : CStream) : (s.setStream i c).book = s.book := rfl
@[simp] theorem State.setStream_sch (s : State) (i : Nat) (c : CStream) : (s.setStream i c).sch = s.sch := rfl
@[simp] theorem State.setStream_wgt (s : State) (i : Nat) (c : CStream) : (s.setStream i c).wgt = s.wgt := rfl
@[simp] theorem State.setStream_flt (s : State) (i : Nat) (c : CStream) : (s.setStream i c).flt = s.flt := rfl
@[simp] theorem State.setStream_led (s : State) (i : Nat) (c : CStream) : (s.setStream i c).led = s.led := rfl
@[simp] theorem State.setStream_sec (s : State) (i : Nat) (c : CStream) : (s.setStream i c).sec = s.sec := rfl
@[simp] theorem State.setStream_smb (s : State) (i : Nat) (c : CStream) : (s.setStream i c).smb = s.smb := rfl
@[simp] theorem State.setStream_pwr (s : State) (i : Nat) (c : CStream) : (s.setStream i c).pwr = s.pwr := rfl
@[simp] theorem State.setStream_upd (s : State) (i : Nat) (c : CStream) : (s.setStream i c).upd = s.upd := rfl
@[simp] theorem State.setStream_ring (s : State) (i : Nat) (c : CStream) : (s.setStream i c).ring = s.ring := rfl

/-! `State.setEngine`. -/
@[simp] theorem State.setEngine_pending (s : State) (e : Nat) (x : Engine) : (s.setEngine e x).pending = s.pending := rfl
@[simp] theorem State.setEngine_free (s : State) (e : Nat) (x : Engine) : (s.setEngine e x).free = s.free := rfl
@[simp] theorem State.setEngine_cores (s : State) (e : Nat) (x : Engine) : (s.setEngine e x).cores = s.cores := rfl
@[simp] theorem State.setEngine_clus (s : State) (e : Nat) (x : Engine) : (s.setEngine e x).clus = s.clus := rfl
@[simp] theorem State.setEngine_counter (s : State) (e : Nat) (x : Engine) : (s.setEngine e x).counter = s.counter := rfl
@[simp] theorem State.setEngine_mem (s : State) (e : Nat) (x : Engine) : (s.setEngine e x).mem = s.mem := rfl
@[simp] theorem State.setEngine_tier (s : State) (e : Nat) (x : Engine) : (s.setEngine e x).tier = s.tier := rfl
@[simp] theorem State.setEngine_ump (s : State) (e : Nat) (x : Engine) : (s.setEngine e x).ump = s.ump := rfl
@[simp] theorem State.setEngine_book (s : State) (e : Nat) (x : Engine) : (s.setEngine e x).book = s.book := rfl
@[simp] theorem State.setEngine_sch (s : State) (e : Nat) (x : Engine) : (s.setEngine e x).sch = s.sch := rfl
@[simp] theorem State.setEngine_wgt (s : State) (e : Nat) (x : Engine) : (s.setEngine e x).wgt = s.wgt := rfl
@[simp] theorem State.setEngine_flt (s : State) (e : Nat) (x : Engine) : (s.setEngine e x).flt = s.flt := rfl
@[simp] theorem State.setEngine_led (s : State) (e : Nat) (x : Engine) : (s.setEngine e x).led = s.led := rfl
@[simp] theorem State.setEngine_sec (s : State) (e : Nat) (x : Engine) : (s.setEngine e x).sec = s.sec := rfl
@[simp] theorem State.setEngine_smb (s : State) (e : Nat) (x : Engine) : (s.setEngine e x).smb = s.smb := rfl
@[simp] theorem State.setEngine_pwr (s : State) (e : Nat) (x : Engine) : (s.setEngine e x).pwr = s.pwr := rfl
@[simp] theorem State.setEngine_upd (s : State) (e : Nat) (x : Engine) : (s.setEngine e x).upd = s.upd := rfl
@[simp] theorem State.setEngine_ring (s : State) (e : Nat) (x : Engine) : (s.setEngine e x).ring = s.ring := rfl

/-! `State.setUnit`. -/
@[simp] theorem State.setUnit_pending (s : State) (u : Nat) (q : UnitQ) : (s.setUnit u q).pending = s.pending := rfl
@[simp] theorem State.setUnit_free (s : State) (u : Nat) (q : UnitQ) : (s.setUnit u q).free = s.free := rfl
@[simp] theorem State.setUnit_cores (s : State) (u : Nat) (q : UnitQ) : (s.setUnit u q).cores = s.cores := rfl
@[simp] theorem State.setUnit_clus (s : State) (u : Nat) (q : UnitQ) : (s.setUnit u q).clus = s.clus := rfl
@[simp] theorem State.setUnit_counter (s : State) (u : Nat) (q : UnitQ) : (s.setUnit u q).counter = s.counter := rfl
@[simp] theorem State.setUnit_mem (s : State) (u : Nat) (q : UnitQ) : (s.setUnit u q).mem = s.mem := rfl
@[simp] theorem State.setUnit_tier (s : State) (u : Nat) (q : UnitQ) : (s.setUnit u q).tier = s.tier := rfl
@[simp] theorem State.setUnit_ump (s : State) (u : Nat) (q : UnitQ) : (s.setUnit u q).ump = s.ump := rfl
@[simp] theorem State.setUnit_book (s : State) (u : Nat) (q : UnitQ) : (s.setUnit u q).book = s.book := rfl
@[simp] theorem State.setUnit_sch (s : State) (u : Nat) (q : UnitQ) : (s.setUnit u q).sch = s.sch := rfl
@[simp] theorem State.setUnit_wgt (s : State) (u : Nat) (q : UnitQ) : (s.setUnit u q).wgt = s.wgt := rfl
@[simp] theorem State.setUnit_led (s : State) (u : Nat) (q : UnitQ) : (s.setUnit u q).led = s.led := rfl
@[simp] theorem State.setUnit_sec (s : State) (u : Nat) (q : UnitQ) : (s.setUnit u q).sec = s.sec := rfl
@[simp] theorem State.setUnit_smb (s : State) (u : Nat) (q : UnitQ) : (s.setUnit u q).smb = s.smb := rfl
@[simp] theorem State.setUnit_pwr (s : State) (u : Nat) (q : UnitQ) : (s.setUnit u q).pwr = s.pwr := rfl
@[simp] theorem State.setUnit_upd (s : State) (u : Nat) (q : UnitQ) : (s.setUnit u q).upd = s.upd := rfl
@[simp] theorem State.setUnit_ring (s : State) (u : Nat) (q : UnitQ) : (s.setUnit u q).ring = s.ring := rfl
@[simp] theorem State.setUnit_cdc (s : State) (u : Nat) (q : UnitQ) : (s.setUnit u q).cdc = s.cdc := rfl

/-! `State.setAud`. -/
@[simp] theorem State.setAud_pending (s : State) (k : Nat) (a : Aud) : (s.setAud k a).pending = s.pending := rfl
@[simp] theorem State.setAud_free (s : State) (k : Nat) (a : Aud) : (s.setAud k a).free = s.free := rfl
@[simp] theorem State.setAud_cores (s : State) (k : Nat) (a : Aud) : (s.setAud k a).cores = s.cores := rfl
@[simp] theorem State.setAud_clus (s : State) (k : Nat) (a : Aud) : (s.setAud k a).clus = s.clus := rfl
@[simp] theorem State.setAud_counter (s : State) (k : Nat) (a : Aud) : (s.setAud k a).counter = s.counter := rfl
@[simp] theorem State.setAud_mem (s : State) (k : Nat) (a : Aud) : (s.setAud k a).mem = s.mem := rfl
@[simp] theorem State.setAud_tier (s : State) (k : Nat) (a : Aud) : (s.setAud k a).tier = s.tier := rfl
@[simp] theorem State.setAud_ump (s : State) (k : Nat) (a : Aud) : (s.setAud k a).ump = s.ump := rfl
@[simp] theorem State.setAud_book (s : State) (k : Nat) (a : Aud) : (s.setAud k a).book = s.book := rfl
@[simp] theorem State.setAud_sch (s : State) (k : Nat) (a : Aud) : (s.setAud k a).sch = s.sch := rfl
@[simp] theorem State.setAud_wgt (s : State) (k : Nat) (a : Aud) : (s.setAud k a).wgt = s.wgt := rfl
@[simp] theorem State.setAud_led (s : State) (k : Nat) (a : Aud) : (s.setAud k a).led = s.led := rfl
@[simp] theorem State.setAud_sec (s : State) (k : Nat) (a : Aud) : (s.setAud k a).sec = s.sec := rfl
@[simp] theorem State.setAud_smb (s : State) (k : Nat) (a : Aud) : (s.setAud k a).smb = s.smb := rfl
@[simp] theorem State.setAud_pwr (s : State) (k : Nat) (a : Aud) : (s.setAud k a).pwr = s.pwr := rfl
@[simp] theorem State.setAud_upd (s : State) (k : Nat) (a : Aud) : (s.setAud k a).upd = s.upd := rfl
@[simp] theorem State.setAud_ring (s : State) (k : Nat) (a : Aud) : (s.setAud k a).ring = s.ring := rfl
@[simp] theorem State.setAud_cdc (s : State) (k : Nat) (a : Aud) : (s.setAud k a).cdc = s.cdc := rfl

/-! `State.setRole`. -/
@[simp] theorem State.setRole_pending (s : State) (port role : Nat) : (s.setRole port role).pending = s.pending := rfl
@[simp] theorem State.setRole_free (s : State) (port role : Nat) : (s.setRole port role).free = s.free := rfl
@[simp] theorem State.setRole_cores (s : State) (port role : Nat) : (s.setRole port role).cores = s.cores := rfl
@[simp] theorem State.setRole_clus (s : State) (port role : Nat) : (s.setRole port role).clus = s.clus := rfl
@[simp] theorem State.setRole_counter (s : State) (port role : Nat) : (s.setRole port role).counter = s.counter := rfl
@[simp] theorem State.setRole_mem (s : State) (port role : Nat) : (s.setRole port role).mem = s.mem := rfl
@[simp] theorem State.setRole_tier (s : State) (port role : Nat) : (s.setRole port role).tier = s.tier := rfl
@[simp] theorem State.setRole_ump (s : State) (port role : Nat) : (s.setRole port role).ump = s.ump := rfl
@[simp] theorem State.setRole_book (s : State) (port role : Nat) : (s.setRole port role).book = s.book := rfl
@[simp] theorem State.setRole_sch (s : State) (port role : Nat) : (s.setRole port role).sch = s.sch := rfl
@[simp] theorem State.setRole_wgt (s : State) (port role : Nat) : (s.setRole port role).wgt = s.wgt := rfl
@[simp] theorem State.setRole_flt (s : State) (port role : Nat) : (s.setRole port role).flt = s.flt := rfl
@[simp] theorem State.setRole_led (s : State) (port role : Nat) : (s.setRole port role).led = s.led := rfl
@[simp] theorem State.setRole_sec (s : State) (port role : Nat) : (s.setRole port role).sec = s.sec := rfl
@[simp] theorem State.setRole_smb (s : State) (port role : Nat) : (s.setRole port role).smb = s.smb := rfl
@[simp] theorem State.setRole_pwr (s : State) (port role : Nat) : (s.setRole port role).pwr = s.pwr := rfl
@[simp] theorem State.setRole_upd (s : State) (port role : Nat) : (s.setRole port role).upd = s.upd := rfl
@[simp] theorem State.setRole_cdc (s : State) (port role : Nat) : (s.setRole port role).cdc = s.cdc := rfl

/-! `State.setLink`. -/
@[simp] theorem State.setLink_pending (s : State) (port : Nat) (l : Link) : (s.setLink port l).pending = s.pending := rfl
@[simp] theorem State.setLink_free (s : State) (port : Nat) (l : Link) : (s.setLink port l).free = s.free := rfl
@[simp] theorem State.setLink_cores (s : State) (port : Nat) (l : Link) : (s.setLink port l).cores = s.cores := rfl
@[simp] theorem State.setLink_clus (s : State) (port : Nat) (l : Link) : (s.setLink port l).clus = s.clus := rfl
@[simp] theorem State.setLink_counter (s : State) (port : Nat) (l : Link) : (s.setLink port l).counter = s.counter := rfl
@[simp] theorem State.setLink_mem (s : State) (port : Nat) (l : Link) : (s.setLink port l).mem = s.mem := rfl
@[simp] theorem State.setLink_tier (s : State) (port : Nat) (l : Link) : (s.setLink port l).tier = s.tier := rfl
@[simp] theorem State.setLink_ump (s : State) (port : Nat) (l : Link) : (s.setLink port l).ump = s.ump := rfl
@[simp] theorem State.setLink_book (s : State) (port : Nat) (l : Link) : (s.setLink port l).book = s.book := rfl
@[simp] theorem State.setLink_sch (s : State) (port : Nat) (l : Link) : (s.setLink port l).sch = s.sch := rfl
@[simp] theorem State.setLink_wgt (s : State) (port : Nat) (l : Link) : (s.setLink port l).wgt = s.wgt := rfl
@[simp] theorem State.setLink_flt (s : State) (port : Nat) (l : Link) : (s.setLink port l).flt = s.flt := rfl
@[simp] theorem State.setLink_led (s : State) (port : Nat) (l : Link) : (s.setLink port l).led = s.led := rfl
@[simp] theorem State.setLink_sec (s : State) (port : Nat) (l : Link) : (s.setLink port l).sec = s.sec := rfl
@[simp] theorem State.setLink_smb (s : State) (port : Nat) (l : Link) : (s.setLink port l).smb = s.smb := rfl
@[simp] theorem State.setLink_pwr (s : State) (port : Nat) (l : Link) : (s.setLink port l).pwr = s.pwr := rfl
@[simp] theorem State.setLink_upd (s : State) (port : Nat) (l : Link) : (s.setLink port l).upd = s.upd := rfl
@[simp] theorem State.setLink_cdc (s : State) (port : Nat) (l : Link) : (s.setLink port l).cdc = s.cdc := rfl

/-! `State.setRegion`. -/
@[simp] theorem State.setRegion_pending (s : State) (r : Nat) (u : RegUse) : (s.setRegion r u).pending = s.pending := rfl
@[simp] theorem State.setRegion_free (s : State) (r : Nat) (u : RegUse) : (s.setRegion r u).free = s.free := rfl
@[simp] theorem State.setRegion_cores (s : State) (r : Nat) (u : RegUse) : (s.setRegion r u).cores = s.cores := rfl
@[simp] theorem State.setRegion_clus (s : State) (r : Nat) (u : RegUse) : (s.setRegion r u).clus = s.clus := rfl
@[simp] theorem State.setRegion_counter (s : State) (r : Nat) (u : RegUse) : (s.setRegion r u).counter = s.counter := rfl
@[simp] theorem State.setRegion_mem (s : State) (r : Nat) (u : RegUse) : (s.setRegion r u).mem = s.mem := rfl
@[simp] theorem State.setRegion_ump (s : State) (r : Nat) (u : RegUse) : (s.setRegion r u).ump = s.ump := rfl
@[simp] theorem State.setRegion_book (s : State) (r : Nat) (u : RegUse) : (s.setRegion r u).book = s.book := rfl
@[simp] theorem State.setRegion_sch (s : State) (r : Nat) (u : RegUse) : (s.setRegion r u).sch = s.sch := rfl
@[simp] theorem State.setRegion_wgt (s : State) (r : Nat) (u : RegUse) : (s.setRegion r u).wgt = s.wgt := rfl
@[simp] theorem State.setRegion_flt (s : State) (r : Nat) (u : RegUse) : (s.setRegion r u).flt = s.flt := rfl
@[simp] theorem State.setRegion_led (s : State) (r : Nat) (u : RegUse) : (s.setRegion r u).led = s.led := rfl
@[simp] theorem State.setRegion_sec (s : State) (r : Nat) (u : RegUse) : (s.setRegion r u).sec = s.sec := rfl
@[simp] theorem State.setRegion_smb (s : State) (r : Nat) (u : RegUse) : (s.setRegion r u).smb = s.smb := rfl
@[simp] theorem State.setRegion_pwr (s : State) (r : Nat) (u : RegUse) : (s.setRegion r u).pwr = s.pwr := rfl
@[simp] theorem State.setRegion_upd (s : State) (r : Nat) (u : RegUse) : (s.setRegion r u).upd = s.upd := rfl
@[simp] theorem State.setRegion_ring (s : State) (r : Nat) (u : RegUse) : (s.setRegion r u).ring = s.ring := rfl
@[simp] theorem State.setRegion_cdc (s : State) (r : Nat) (u : RegUse) : (s.setRegion r u).cdc = s.cdc := rfl

/-! `State.clearRegion`. -/
@[simp] theorem State.clearRegion_pending (s : State) (r : Nat) : (s.clearRegion r).pending = s.pending := rfl
@[simp] theorem State.clearRegion_free (s : State) (r : Nat) : (s.clearRegion r).free = s.free := rfl
@[simp] theorem State.clearRegion_cores (s : State) (r : Nat) : (s.clearRegion r).cores = s.cores := rfl
@[simp] theorem State.clearRegion_clus (s : State) (r : Nat) : (s.clearRegion r).clus = s.clus := rfl
@[simp] theorem State.clearRegion_counter (s : State) (r : Nat) : (s.clearRegion r).counter = s.counter := rfl
@[simp] theorem State.clearRegion_mem (s : State) (r : Nat) : (s.clearRegion r).mem = s.mem := rfl
@[simp] theorem State.clearRegion_ump (s : State) (r : Nat) : (s.clearRegion r).ump = s.ump := rfl
@[simp] theorem State.clearRegion_book (s : State) (r : Nat) : (s.clearRegion r).book = s.book := rfl
@[simp] theorem State.clearRegion_sch (s : State) (r : Nat) : (s.clearRegion r).sch = s.sch := rfl
@[simp] theorem State.clearRegion_wgt (s : State) (r : Nat) : (s.clearRegion r).wgt = s.wgt := rfl
@[simp] theorem State.clearRegion_flt (s : State) (r : Nat) : (s.clearRegion r).flt = s.flt := rfl
@[simp] theorem State.clearRegion_led (s : State) (r : Nat) : (s.clearRegion r).led = s.led := rfl
@[simp] theorem State.clearRegion_sec (s : State) (r : Nat) : (s.clearRegion r).sec = s.sec := rfl
@[simp] theorem State.clearRegion_smb (s : State) (r : Nat) : (s.clearRegion r).smb = s.smb := rfl
@[simp] theorem State.clearRegion_pwr (s : State) (r : Nat) : (s.clearRegion r).pwr = s.pwr := rfl
@[simp] theorem State.clearRegion_upd (s : State) (r : Nat) : (s.clearRegion r).upd = s.upd := rfl
@[simp] theorem State.clearRegion_ring (s : State) (r : Nat) : (s.clearRegion r).ring = s.ring := rfl
@[simp] theorem State.clearRegion_cdc (s : State) (r : Nat) : (s.clearRegion r).cdc = s.cdc := rfl

/-! `State.setBlock`. -/
@[simp] theorem State.setBlock_pending (s : State) (b : Nat) (h : Home) : (s.setBlock b h).pending = s.pending := rfl
@[simp] theorem State.setBlock_free (s : State) (b : Nat) (h : Home) : (s.setBlock b h).free = s.free := rfl
@[simp] theorem State.setBlock_cores (s : State) (b : Nat) (h : Home) : (s.setBlock b h).cores = s.cores := rfl
@[simp] theorem State.setBlock_clus (s : State) (b : Nat) (h : Home) : (s.setBlock b h).clus = s.clus := rfl
@[simp] theorem State.setBlock_counter (s : State) (b : Nat) (h : Home) : (s.setBlock b h).counter = s.counter := rfl
@[simp] theorem State.setBlock_mem (s : State) (b : Nat) (h : Home) : (s.setBlock b h).mem = s.mem := rfl
@[simp] theorem State.setBlock_ump (s : State) (b : Nat) (h : Home) : (s.setBlock b h).ump = s.ump := rfl
@[simp] theorem State.setBlock_book (s : State) (b : Nat) (h : Home) : (s.setBlock b h).book = s.book := rfl
@[simp] theorem State.setBlock_sch (s : State) (b : Nat) (h : Home) : (s.setBlock b h).sch = s.sch := rfl
@[simp] theorem State.setBlock_wgt (s : State) (b : Nat) (h : Home) : (s.setBlock b h).wgt = s.wgt := rfl
@[simp] theorem State.setBlock_flt (s : State) (b : Nat) (h : Home) : (s.setBlock b h).flt = s.flt := rfl
@[simp] theorem State.setBlock_led (s : State) (b : Nat) (h : Home) : (s.setBlock b h).led = s.led := rfl
@[simp] theorem State.setBlock_sec (s : State) (b : Nat) (h : Home) : (s.setBlock b h).sec = s.sec := rfl
@[simp] theorem State.setBlock_smb (s : State) (b : Nat) (h : Home) : (s.setBlock b h).smb = s.smb := rfl
@[simp] theorem State.setBlock_pwr (s : State) (b : Nat) (h : Home) : (s.setBlock b h).pwr = s.pwr := rfl
@[simp] theorem State.setBlock_upd (s : State) (b : Nat) (h : Home) : (s.setBlock b h).upd = s.upd := rfl
@[simp] theorem State.setBlock_ring (s : State) (b : Nat) (h : Home) : (s.setBlock b h).ring = s.ring := rfl
@[simp] theorem State.setBlock_cdc (s : State) (b : Nat) (h : Home) : (s.setBlock b h).cdc = s.cdc := rfl

/-! `State.setObj`. -/
@[simp] theorem State.setObj_pending (s : State) (b : Nat) (o : Obj) : (s.setObj b o).pending = s.pending := rfl
@[simp] theorem State.setObj_free (s : State) (b : Nat) (o : Obj) : (s.setObj b o).free = s.free := rfl
@[simp] theorem State.setObj_cores (s : State) (b : Nat) (o : Obj) : (s.setObj b o).cores = s.cores := rfl
@[simp] theorem State.setObj_clus (s : State) (b : Nat) (o : Obj) : (s.setObj b o).clus = s.clus := rfl
@[simp] theorem State.setObj_counter (s : State) (b : Nat) (o : Obj) : (s.setObj b o).counter = s.counter := rfl
@[simp] theorem State.setObj_mem (s : State) (b : Nat) (o : Obj) : (s.setObj b o).mem = s.mem := rfl
@[simp] theorem State.setObj_ump (s : State) (b : Nat) (o : Obj) : (s.setObj b o).ump = s.ump := rfl
@[simp] theorem State.setObj_book (s : State) (b : Nat) (o : Obj) : (s.setObj b o).book = s.book := rfl
@[simp] theorem State.setObj_sch (s : State) (b : Nat) (o : Obj) : (s.setObj b o).sch = s.sch := rfl
@[simp] theorem State.setObj_wgt (s : State) (b : Nat) (o : Obj) : (s.setObj b o).wgt = s.wgt := rfl
@[simp] theorem State.setObj_flt (s : State) (b : Nat) (o : Obj) : (s.setObj b o).flt = s.flt := rfl
@[simp] theorem State.setObj_led (s : State) (b : Nat) (o : Obj) : (s.setObj b o).led = s.led := rfl
@[simp] theorem State.setObj_sec (s : State) (b : Nat) (o : Obj) : (s.setObj b o).sec = s.sec := rfl
@[simp] theorem State.setObj_smb (s : State) (b : Nat) (o : Obj) : (s.setObj b o).smb = s.smb := rfl
@[simp] theorem State.setObj_pwr (s : State) (b : Nat) (o : Obj) : (s.setObj b o).pwr = s.pwr := rfl
@[simp] theorem State.setObj_upd (s : State) (b : Nat) (o : Obj) : (s.setObj b o).upd = s.upd := rfl
@[simp] theorem State.setObj_ring (s : State) (b : Nat) (o : Obj) : (s.setObj b o).ring = s.ring := rfl
@[simp] theorem State.setObj_cdc (s : State) (b : Nat) (o : Obj) : (s.setObj b o).cdc = s.cdc := rfl

/-! `State.setCore`. -/
@[simp] theorem State.setCore_pending (s : State) (p : Nat) (c : Core) : (s.setCore p c).pending = s.pending := rfl
@[simp] theorem State.setCore_free (s : State) (p : Nat) (c : Core) : (s.setCore p c).free = s.free := rfl
@[simp] theorem State.setCore_clus (s : State) (p : Nat) (c : Core) : (s.setCore p c).clus = s.clus := rfl
@[simp] theorem State.setCore_counter (s : State) (p : Nat) (c : Core) : (s.setCore p c).counter = s.counter := rfl
@[simp] theorem State.setCore_mem (s : State) (p : Nat) (c : Core) : (s.setCore p c).mem = s.mem := rfl
@[simp] theorem State.setCore_tier (s : State) (p : Nat) (c : Core) : (s.setCore p c).tier = s.tier := rfl
@[simp] theorem State.setCore_ump (s : State) (p : Nat) (c : Core) : (s.setCore p c).ump = s.ump := rfl
@[simp] theorem State.setCore_book (s : State) (p : Nat) (c : Core) : (s.setCore p c).book = s.book := rfl
@[simp] theorem State.setCore_sch (s : State) (p : Nat) (c : Core) : (s.setCore p c).sch = s.sch := rfl
@[simp] theorem State.setCore_wgt (s : State) (p : Nat) (c : Core) : (s.setCore p c).wgt = s.wgt := rfl
@[simp] theorem State.setCore_flt (s : State) (p : Nat) (c : Core) : (s.setCore p c).flt = s.flt := rfl
@[simp] theorem State.setCore_led (s : State) (p : Nat) (c : Core) : (s.setCore p c).led = s.led := rfl
@[simp] theorem State.setCore_sec (s : State) (p : Nat) (c : Core) : (s.setCore p c).sec = s.sec := rfl
@[simp] theorem State.setCore_smb (s : State) (p : Nat) (c : Core) : (s.setCore p c).smb = s.smb := rfl
@[simp] theorem State.setCore_pwr (s : State) (p : Nat) (c : Core) : (s.setCore p c).pwr = s.pwr := rfl
@[simp] theorem State.setCore_upd (s : State) (p : Nat) (c : Core) : (s.setCore p c).upd = s.upd := rfl
@[simp] theorem State.setCore_ring (s : State) (p : Nat) (c : Core) : (s.setCore p c).ring = s.ring := rfl
@[simp] theorem State.setCore_cdc (s : State) (p : Nat) (c : Core) : (s.setCore p c).cdc = s.cdc := rfl

/-! `State.setClu`. -/
@[simp] theorem State.setClu_pending (s : State) (n : Nat) (c : Cluster) : (s.setClu n c).pending = s.pending := rfl
@[simp] theorem State.setClu_free (s : State) (n : Nat) (c : Cluster) : (s.setClu n c).free = s.free := rfl
@[simp] theorem State.setClu_cores (s : State) (n : Nat) (c : Cluster) : (s.setClu n c).cores = s.cores := rfl
@[simp] theorem State.setClu_counter (s : State) (n : Nat) (c : Cluster) : (s.setClu n c).counter = s.counter := rfl
@[simp] theorem State.setClu_mem (s : State) (n : Nat) (c : Cluster) : (s.setClu n c).mem = s.mem := rfl
@[simp] theorem State.setClu_tier (s : State) (n : Nat) (c : Cluster) : (s.setClu n c).tier = s.tier := rfl
@[simp] theorem State.setClu_ump (s : State) (n : Nat) (c : Cluster) : (s.setClu n c).ump = s.ump := rfl
@[simp] theorem State.setClu_book (s : State) (n : Nat) (c : Cluster) : (s.setClu n c).book = s.book := rfl
@[simp] theorem State.setClu_sch (s : State) (n : Nat) (c : Cluster) : (s.setClu n c).sch = s.sch := rfl
@[simp] theorem State.setClu_wgt (s : State) (n : Nat) (c : Cluster) : (s.setClu n c).wgt = s.wgt := rfl
@[simp] theorem State.setClu_flt (s : State) (n : Nat) (c : Cluster) : (s.setClu n c).flt = s.flt := rfl
@[simp] theorem State.setClu_led (s : State) (n : Nat) (c : Cluster) : (s.setClu n c).led = s.led := rfl
@[simp] theorem State.setClu_sec (s : State) (n : Nat) (c : Cluster) : (s.setClu n c).sec = s.sec := rfl
@[simp] theorem State.setClu_smb (s : State) (n : Nat) (c : Cluster) : (s.setClu n c).smb = s.smb := rfl
@[simp] theorem State.setClu_pwr (s : State) (n : Nat) (c : Cluster) : (s.setClu n c).pwr = s.pwr := rfl
@[simp] theorem State.setClu_upd (s : State) (n : Nat) (c : Cluster) : (s.setClu n c).upd = s.upd := rfl
@[simp] theorem State.setClu_ring (s : State) (n : Nat) (c : Cluster) : (s.setClu n c).ring = s.ring := rfl
@[simp] theorem State.setClu_cdc (s : State) (n : Nat) (c : Cluster) : (s.setClu n c).cdc = s.cdc := rfl

/-! `State.drawn`. -/
@[simp] theorem State.drawn_pending (s : State) : s.drawn.pending = s.pending := rfl
@[simp] theorem State.drawn_cores (s : State) : s.drawn.cores = s.cores := rfl
@[simp] theorem State.drawn_clus (s : State) : s.drawn.clus = s.clus := rfl
@[simp] theorem State.drawn_counter (s : State) : s.drawn.counter = s.counter := rfl
@[simp] theorem State.drawn_mem (s : State) : s.drawn.mem = s.mem := rfl
@[simp] theorem State.drawn_tier (s : State) : s.drawn.tier = s.tier := rfl
@[simp] theorem State.drawn_ump (s : State) : s.drawn.ump = s.ump := rfl
@[simp] theorem State.drawn_book (s : State) : s.drawn.book = s.book := rfl
@[simp] theorem State.drawn_sch (s : State) : s.drawn.sch = s.sch := rfl
@[simp] theorem State.drawn_wgt (s : State) : s.drawn.wgt = s.wgt := rfl
@[simp] theorem State.drawn_flt (s : State) : s.drawn.flt = s.flt := rfl
@[simp] theorem State.drawn_led (s : State) : s.drawn.led = s.led := rfl
@[simp] theorem State.drawn_sec (s : State) : s.drawn.sec = s.sec := rfl
@[simp] theorem State.drawn_smb (s : State) : s.drawn.smb = s.smb := rfl
@[simp] theorem State.drawn_pwr (s : State) : s.drawn.pwr = s.pwr := rfl
@[simp] theorem State.drawn_upd (s : State) : s.drawn.upd = s.upd := rfl
@[simp] theorem State.drawn_ring (s : State) : s.drawn.ring = s.ring := rfl
@[simp] theorem State.drawn_cdc (s : State) : s.drawn.cdc = s.cdc := rfl

/-! `State.tick`. -/
@[simp] theorem State.tick_pending (s : State) : s.tick.pending = s.pending := rfl
@[simp] theorem State.tick_free (s : State) : s.tick.free = s.free := rfl
@[simp] theorem State.tick_cores (s : State) : s.tick.cores = s.cores := rfl
@[simp] theorem State.tick_clus (s : State) : s.tick.clus = s.clus := rfl
@[simp] theorem State.tick_mem (s : State) : s.tick.mem = s.mem := rfl
@[simp] theorem State.tick_tier (s : State) : s.tick.tier = s.tier := rfl
@[simp] theorem State.tick_ump (s : State) : s.tick.ump = s.ump := rfl
@[simp] theorem State.tick_book (s : State) : s.tick.book = s.book := rfl
@[simp] theorem State.tick_sch (s : State) : s.tick.sch = s.sch := rfl
@[simp] theorem State.tick_wgt (s : State) : s.tick.wgt = s.wgt := rfl
@[simp] theorem State.tick_flt (s : State) : s.tick.flt = s.flt := rfl
@[simp] theorem State.tick_led (s : State) : s.tick.led = s.led := rfl
@[simp] theorem State.tick_sec (s : State) : s.tick.sec = s.sec := rfl
@[simp] theorem State.tick_smb (s : State) : s.tick.smb = s.smb := rfl
@[simp] theorem State.tick_pwr (s : State) : s.tick.pwr = s.pwr := rfl
@[simp] theorem State.tick_upd (s : State) : s.tick.upd = s.upd := rfl
@[simp] theorem State.tick_ring (s : State) : s.tick.ring = s.ring := rfl
@[simp] theorem State.tick_cdc (s : State) : s.tick.cdc = s.cdc := rfl

/-! `State.setPage`. -/
@[simp] theorem State.setPage_pending (s : State) (key : Nat) (p : Page) : (s.setPage key p).pending = s.pending := rfl
@[simp] theorem State.setPage_free (s : State) (key : Nat) (p : Page) : (s.setPage key p).free = s.free := rfl
@[simp] theorem State.setPage_cores (s : State) (key : Nat) (p : Page) : (s.setPage key p).cores = s.cores := rfl
@[simp] theorem State.setPage_clus (s : State) (key : Nat) (p : Page) : (s.setPage key p).clus = s.clus := rfl
@[simp] theorem State.setPage_counter (s : State) (key : Nat) (p : Page) : (s.setPage key p).counter = s.counter := rfl
@[simp] theorem State.setPage_mem (s : State) (key : Nat) (p : Page) : (s.setPage key p).mem = s.mem := rfl
@[simp] theorem State.setPage_tier (s : State) (key : Nat) (p : Page) : (s.setPage key p).tier = s.tier := rfl
@[simp] theorem State.setPage_ump (s : State) (key : Nat) (p : Page) : (s.setPage key p).ump = s.ump := rfl
@[simp] theorem State.setPage_book (s : State) (key : Nat) (p : Page) : (s.setPage key p).book = s.book := rfl
@[simp] theorem State.setPage_wgt (s : State) (key : Nat) (p : Page) : (s.setPage key p).wgt = s.wgt := rfl
@[simp] theorem State.setPage_flt (s : State) (key : Nat) (p : Page) : (s.setPage key p).flt = s.flt := rfl
@[simp] theorem State.setPage_led (s : State) (key : Nat) (p : Page) : (s.setPage key p).led = s.led := rfl
@[simp] theorem State.setPage_sec (s : State) (key : Nat) (p : Page) : (s.setPage key p).sec = s.sec := rfl
@[simp] theorem State.setPage_smb (s : State) (key : Nat) (p : Page) : (s.setPage key p).smb = s.smb := rfl
@[simp] theorem State.setPage_pwr (s : State) (key : Nat) (p : Page) : (s.setPage key p).pwr = s.pwr := rfl
@[simp] theorem State.setPage_upd (s : State) (key : Nat) (p : Page) : (s.setPage key p).upd = s.upd := rfl
@[simp] theorem State.setPage_ring (s : State) (key : Nat) (p : Page) : (s.setPage key p).ring = s.ring := rfl
@[simp] theorem State.setPage_cdc (s : State) (key : Nat) (p : Page) : (s.setPage key p).cdc = s.cdc := rfl

/-! `State.raise`. -/
@[simp] theorem State.raise_pending (s : State) (r : FRec) : (s.raise r).pending = s.pending := rfl
@[simp] theorem State.raise_free (s : State) (r : FRec) : (s.raise r).free = s.free := rfl
@[simp] theorem State.raise_cores (s : State) (r : FRec) : (s.raise r).cores = s.cores := rfl
@[simp] theorem State.raise_clus (s : State) (r : FRec) : (s.raise r).clus = s.clus := rfl
@[simp] theorem State.raise_counter (s : State) (r : FRec) : (s.raise r).counter = s.counter := rfl
@[simp] theorem State.raise_mem (s : State) (r : FRec) : (s.raise r).mem = s.mem := rfl
@[simp] theorem State.raise_tier (s : State) (r : FRec) : (s.raise r).tier = s.tier := rfl
@[simp] theorem State.raise_ump (s : State) (r : FRec) : (s.raise r).ump = s.ump := rfl
@[simp] theorem State.raise_book (s : State) (r : FRec) : (s.raise r).book = s.book := rfl
@[simp] theorem State.raise_sch (s : State) (r : FRec) : (s.raise r).sch = s.sch := rfl
@[simp] theorem State.raise_wgt (s : State) (r : FRec) : (s.raise r).wgt = s.wgt := rfl
@[simp] theorem State.raise_led (s : State) (r : FRec) : (s.raise r).led = s.led := rfl
@[simp] theorem State.raise_sec (s : State) (r : FRec) : (s.raise r).sec = s.sec := rfl
@[simp] theorem State.raise_smb (s : State) (r : FRec) : (s.raise r).smb = s.smb := rfl
@[simp] theorem State.raise_pwr (s : State) (r : FRec) : (s.raise r).pwr = s.pwr := rfl
@[simp] theorem State.raise_upd (s : State) (r : FRec) : (s.raise r).upd = s.upd := rfl
@[simp] theorem State.raise_ring (s : State) (r : FRec) : (s.raise r).ring = s.ring := rfl
@[simp] theorem State.raise_cdc (s : State) (r : FRec) : (s.raise r).cdc = s.cdc := rfl

/-! `State.setMbx`. -/
@[simp] theorem State.setMbx_pending (s : State) (m : Nat) (b : Mbx) : (s.setMbx m b).pending = s.pending := rfl
@[simp] theorem State.setMbx_free (s : State) (m : Nat) (b : Mbx) : (s.setMbx m b).free = s.free := rfl
@[simp] theorem State.setMbx_cores (s : State) (m : Nat) (b : Mbx) : (s.setMbx m b).cores = s.cores := rfl
@[simp] theorem State.setMbx_clus (s : State) (m : Nat) (b : Mbx) : (s.setMbx m b).clus = s.clus := rfl
@[simp] theorem State.setMbx_counter (s : State) (m : Nat) (b : Mbx) : (s.setMbx m b).counter = s.counter := rfl
@[simp] theorem State.setMbx_mem (s : State) (m : Nat) (b : Mbx) : (s.setMbx m b).mem = s.mem := rfl
@[simp] theorem State.setMbx_tier (s : State) (m : Nat) (b : Mbx) : (s.setMbx m b).tier = s.tier := rfl
@[simp] theorem State.setMbx_book (s : State) (m : Nat) (b : Mbx) : (s.setMbx m b).book = s.book := rfl
@[simp] theorem State.setMbx_sch (s : State) (m : Nat) (b : Mbx) : (s.setMbx m b).sch = s.sch := rfl
@[simp] theorem State.setMbx_wgt (s : State) (m : Nat) (b : Mbx) : (s.setMbx m b).wgt = s.wgt := rfl
@[simp] theorem State.setMbx_flt (s : State) (m : Nat) (b : Mbx) : (s.setMbx m b).flt = s.flt := rfl
@[simp] theorem State.setMbx_led (s : State) (m : Nat) (b : Mbx) : (s.setMbx m b).led = s.led := rfl
@[simp] theorem State.setMbx_sec (s : State) (m : Nat) (b : Mbx) : (s.setMbx m b).sec = s.sec := rfl
@[simp] theorem State.setMbx_smb (s : State) (m : Nat) (b : Mbx) : (s.setMbx m b).smb = s.smb := rfl
@[simp] theorem State.setMbx_pwr (s : State) (m : Nat) (b : Mbx) : (s.setMbx m b).pwr = s.pwr := rfl
@[simp] theorem State.setMbx_upd (s : State) (m : Nat) (b : Mbx) : (s.setMbx m b).upd = s.upd := rfl
@[simp] theorem State.setMbx_ring (s : State) (m : Nat) (b : Mbx) : (s.setMbx m b).ring = s.ring := rfl
@[simp] theorem State.setMbx_cdc (s : State) (m : Nat) (b : Mbx) : (s.setMbx m b).cdc = s.cdc := rfl

/-! `State.setCtx`. -/
@[simp] theorem State.setCtx_pending (s : State) (c : Nat) (x : CtxSt) : (s.setCtx c x).pending = s.pending := rfl
@[simp] theorem State.setCtx_free (s : State) (c : Nat) (x : CtxSt) : (s.setCtx c x).free = s.free := rfl
@[simp] theorem State.setCtx_cores (s : State) (c : Nat) (x : CtxSt) : (s.setCtx c x).cores = s.cores := rfl
@[simp] theorem State.setCtx_clus (s : State) (c : Nat) (x : CtxSt) : (s.setCtx c x).clus = s.clus := rfl
@[simp] theorem State.setCtx_counter (s : State) (c : Nat) (x : CtxSt) : (s.setCtx c x).counter = s.counter := rfl
@[simp] theorem State.setCtx_mem (s : State) (c : Nat) (x : CtxSt) : (s.setCtx c x).mem = s.mem := rfl
@[simp] theorem State.setCtx_tier (s : State) (c : Nat) (x : CtxSt) : (s.setCtx c x).tier = s.tier := rfl
@[simp] theorem State.setCtx_ump (s : State) (c : Nat) (x : CtxSt) : (s.setCtx c x).ump = s.ump := rfl
@[simp] theorem State.setCtx_book (s : State) (c : Nat) (x : CtxSt) : (s.setCtx c x).book = s.book := rfl
@[simp] theorem State.setCtx_wgt (s : State) (c : Nat) (x : CtxSt) : (s.setCtx c x).wgt = s.wgt := rfl
@[simp] theorem State.setCtx_flt (s : State) (c : Nat) (x : CtxSt) : (s.setCtx c x).flt = s.flt := rfl
@[simp] theorem State.setCtx_led (s : State) (c : Nat) (x : CtxSt) : (s.setCtx c x).led = s.led := rfl
@[simp] theorem State.setCtx_sec (s : State) (c : Nat) (x : CtxSt) : (s.setCtx c x).sec = s.sec := rfl
@[simp] theorem State.setCtx_smb (s : State) (c : Nat) (x : CtxSt) : (s.setCtx c x).smb = s.smb := rfl
@[simp] theorem State.setCtx_pwr (s : State) (c : Nat) (x : CtxSt) : (s.setCtx c x).pwr = s.pwr := rfl
@[simp] theorem State.setCtx_upd (s : State) (c : Nat) (x : CtxSt) : (s.setCtx c x).upd = s.upd := rfl
@[simp] theorem State.setCtx_ring (s : State) (c : Nat) (x : CtxSt) : (s.setCtx c x).ring = s.ring := rfl
@[simp] theorem State.setCtx_cdc (s : State) (c : Nat) (x : CtxSt) : (s.setCtx c x).cdc = s.cdc := rfl

/-! `State.setCourtPwr`. -/
@[simp] theorem State.setCourtPwr_pending (s : State) (court : Nat) (p : CourtPwr) : (s.setCourtPwr court p).pending = s.pending := rfl
@[simp] theorem State.setCourtPwr_free (s : State) (court : Nat) (p : CourtPwr) : (s.setCourtPwr court p).free = s.free := rfl
@[simp] theorem State.setCourtPwr_cores (s : State) (court : Nat) (p : CourtPwr) : (s.setCourtPwr court p).cores = s.cores := rfl
@[simp] theorem State.setCourtPwr_clus (s : State) (court : Nat) (p : CourtPwr) : (s.setCourtPwr court p).clus = s.clus := rfl
@[simp] theorem State.setCourtPwr_counter (s : State) (court : Nat) (p : CourtPwr) : (s.setCourtPwr court p).counter = s.counter := rfl
@[simp] theorem State.setCourtPwr_mem (s : State) (court : Nat) (p : CourtPwr) : (s.setCourtPwr court p).mem = s.mem := rfl
@[simp] theorem State.setCourtPwr_tier (s : State) (court : Nat) (p : CourtPwr) : (s.setCourtPwr court p).tier = s.tier := rfl
@[simp] theorem State.setCourtPwr_ump (s : State) (court : Nat) (p : CourtPwr) : (s.setCourtPwr court p).ump = s.ump := rfl
@[simp] theorem State.setCourtPwr_book (s : State) (court : Nat) (p : CourtPwr) : (s.setCourtPwr court p).book = s.book := rfl
@[simp] theorem State.setCourtPwr_sch (s : State) (court : Nat) (p : CourtPwr) : (s.setCourtPwr court p).sch = s.sch := rfl
@[simp] theorem State.setCourtPwr_wgt (s : State) (court : Nat) (p : CourtPwr) : (s.setCourtPwr court p).wgt = s.wgt := rfl
@[simp] theorem State.setCourtPwr_flt (s : State) (court : Nat) (p : CourtPwr) : (s.setCourtPwr court p).flt = s.flt := rfl
@[simp] theorem State.setCourtPwr_led (s : State) (court : Nat) (p : CourtPwr) : (s.setCourtPwr court p).led = s.led := rfl
@[simp] theorem State.setCourtPwr_sec (s : State) (court : Nat) (p : CourtPwr) : (s.setCourtPwr court p).sec = s.sec := rfl
@[simp] theorem State.setCourtPwr_smb (s : State) (court : Nat) (p : CourtPwr) : (s.setCourtPwr court p).smb = s.smb := rfl
@[simp] theorem State.setCourtPwr_upd (s : State) (court : Nat) (p : CourtPwr) : (s.setCourtPwr court p).upd = s.upd := rfl
@[simp] theorem State.setCourtPwr_ring (s : State) (court : Nat) (p : CourtPwr) : (s.setCourtPwr court p).ring = s.ring := rfl
@[simp] theorem State.setCourtPwr_cdc (s : State) (court : Nat) (p : CourtPwr) : (s.setCourtPwr court p).cdc = s.cdc := rfl

/-! `State.putStep`. -/
@[simp] theorem State.putStep_pending (s : State) (t : Step) : (s.putStep t).pending = s.pending := rfl
@[simp] theorem State.putStep_free (s : State) (t : Step) : (s.putStep t).free = s.free := rfl
@[simp] theorem State.putStep_cores (s : State) (t : Step) : (s.putStep t).cores = s.cores := rfl
@[simp] theorem State.putStep_clus (s : State) (t : Step) : (s.putStep t).clus = s.clus := rfl
@[simp] theorem State.putStep_counter (s : State) (t : Step) : (s.putStep t).counter = s.counter := rfl
@[simp] theorem State.putStep_mem (s : State) (t : Step) : (s.putStep t).mem = s.mem := rfl
@[simp] theorem State.putStep_tier (s : State) (t : Step) : (s.putStep t).tier = s.tier := rfl
@[simp] theorem State.putStep_ump (s : State) (t : Step) : (s.putStep t).ump = s.ump := rfl
@[simp] theorem State.putStep_book (s : State) (t : Step) : (s.putStep t).book = s.book := rfl
@[simp] theorem State.putStep_wgt (s : State) (t : Step) : (s.putStep t).wgt = s.wgt := rfl
@[simp] theorem State.putStep_flt (s : State) (t : Step) : (s.putStep t).flt = s.flt := rfl
@[simp] theorem State.putStep_led (s : State) (t : Step) : (s.putStep t).led = s.led := rfl
@[simp] theorem State.putStep_sec (s : State) (t : Step) : (s.putStep t).sec = s.sec := rfl
@[simp] theorem State.putStep_smb (s : State) (t : Step) : (s.putStep t).smb = s.smb := rfl
@[simp] theorem State.putStep_pwr (s : State) (t : Step) : (s.putStep t).pwr = s.pwr := rfl
@[simp] theorem State.putStep_upd (s : State) (t : Step) : (s.putStep t).upd = s.upd := rfl
@[simp] theorem State.putStep_ring (s : State) (t : Step) : (s.putStep t).ring = s.ring := rfl
@[simp] theorem State.putStep_cdc (s : State) (t : Step) : (s.putStep t).cdc = s.cdc := rfl

/-! `State.setSeq`. -/
@[simp] theorem State.setSeq_pending (s : State) (i : Nat) (q : Seq) : (s.setSeq i q).pending = s.pending := rfl
@[simp] theorem State.setSeq_free (s : State) (i : Nat) (q : Seq) : (s.setSeq i q).free = s.free := rfl
@[simp] theorem State.setSeq_cores (s : State) (i : Nat) (q : Seq) : (s.setSeq i q).cores = s.cores := rfl
@[simp] theorem State.setSeq_clus (s : State) (i : Nat) (q : Seq) : (s.setSeq i q).clus = s.clus := rfl
@[simp] theorem State.setSeq_counter (s : State) (i : Nat) (q : Seq) : (s.setSeq i q).counter = s.counter := rfl
@[simp] theorem State.setSeq_mem (s : State) (i : Nat) (q : Seq) : (s.setSeq i q).mem = s.mem := rfl
@[simp] theorem State.setSeq_tier (s : State) (i : Nat) (q : Seq) : (s.setSeq i q).tier = s.tier := rfl
@[simp] theorem State.setSeq_ump (s : State) (i : Nat) (q : Seq) : (s.setSeq i q).ump = s.ump := rfl
@[simp] theorem State.setSeq_book (s : State) (i : Nat) (q : Seq) : (s.setSeq i q).book = s.book := rfl
@[simp] theorem State.setSeq_wgt (s : State) (i : Nat) (q : Seq) : (s.setSeq i q).wgt = s.wgt := rfl
@[simp] theorem State.setSeq_flt (s : State) (i : Nat) (q : Seq) : (s.setSeq i q).flt = s.flt := rfl
@[simp] theorem State.setSeq_led (s : State) (i : Nat) (q : Seq) : (s.setSeq i q).led = s.led := rfl
@[simp] theorem State.setSeq_sec (s : State) (i : Nat) (q : Seq) : (s.setSeq i q).sec = s.sec := rfl
@[simp] theorem State.setSeq_smb (s : State) (i : Nat) (q : Seq) : (s.setSeq i q).smb = s.smb := rfl
@[simp] theorem State.setSeq_pwr (s : State) (i : Nat) (q : Seq) : (s.setSeq i q).pwr = s.pwr := rfl
@[simp] theorem State.setSeq_upd (s : State) (i : Nat) (q : Seq) : (s.setSeq i q).upd = s.upd := rfl
@[simp] theorem State.setSeq_ring (s : State) (i : Nat) (q : Seq) : (s.setSeq i q).ring = s.ring := rfl
@[simp] theorem State.setSeq_cdc (s : State) (i : Nat) (q : Seq) : (s.setSeq i q).cdc = s.cdc := rfl

/-! `State.modSeq`. -/
@[simp] theorem State.modSeq_pending (s : State) (i : Nat) (f : Seq → Seq) : (s.modSeq i f).pending = s.pending := rfl
@[simp] theorem State.modSeq_free (s : State) (i : Nat) (f : Seq → Seq) : (s.modSeq i f).free = s.free := rfl
@[simp] theorem State.modSeq_cores (s : State) (i : Nat) (f : Seq → Seq) : (s.modSeq i f).cores = s.cores := rfl
@[simp] theorem State.modSeq_clus (s : State) (i : Nat) (f : Seq → Seq) : (s.modSeq i f).clus = s.clus := rfl
@[simp] theorem State.modSeq_counter (s : State) (i : Nat) (f : Seq → Seq) : (s.modSeq i f).counter = s.counter := rfl
@[simp] theorem State.modSeq_mem (s : State) (i : Nat) (f : Seq → Seq) : (s.modSeq i f).mem = s.mem := rfl
@[simp] theorem State.modSeq_tier (s : State) (i : Nat) (f : Seq → Seq) : (s.modSeq i f).tier = s.tier := rfl
@[simp] theorem State.modSeq_ump (s : State) (i : Nat) (f : Seq → Seq) : (s.modSeq i f).ump = s.ump := rfl
@[simp] theorem State.modSeq_book (s : State) (i : Nat) (f : Seq → Seq) : (s.modSeq i f).book = s.book := rfl
@[simp] theorem State.modSeq_wgt (s : State) (i : Nat) (f : Seq → Seq) : (s.modSeq i f).wgt = s.wgt := rfl
@[simp] theorem State.modSeq_flt (s : State) (i : Nat) (f : Seq → Seq) : (s.modSeq i f).flt = s.flt := rfl
@[simp] theorem State.modSeq_led (s : State) (i : Nat) (f : Seq → Seq) : (s.modSeq i f).led = s.led := rfl
@[simp] theorem State.modSeq_sec (s : State) (i : Nat) (f : Seq → Seq) : (s.modSeq i f).sec = s.sec := rfl
@[simp] theorem State.modSeq_smb (s : State) (i : Nat) (f : Seq → Seq) : (s.modSeq i f).smb = s.smb := rfl
@[simp] theorem State.modSeq_pwr (s : State) (i : Nat) (f : Seq → Seq) : (s.modSeq i f).pwr = s.pwr := rfl
@[simp] theorem State.modSeq_upd (s : State) (i : Nat) (f : Seq → Seq) : (s.modSeq i f).upd = s.upd := rfl
@[simp] theorem State.modSeq_ring (s : State) (i : Nat) (f : Seq → Seq) : (s.modSeq i f).ring = s.ring := rfl
@[simp] theorem State.modSeq_cdc (s : State) (i : Nat) (f : Seq → Seq) : (s.modSeq i f).cdc = s.cdc := rfl

/-! `State.modChan`. -/
@[simp] theorem State.modChan_pending (s : State) (c : Nat) (f : Channel → Channel) : (s.modChan c f).pending = s.pending := rfl
@[simp] theorem State.modChan_free (s : State) (c : Nat) (f : Channel → Channel) : (s.modChan c f).free = s.free := rfl
@[simp] theorem State.modChan_cores (s : State) (c : Nat) (f : Channel → Channel) : (s.modChan c f).cores = s.cores := rfl
@[simp] theorem State.modChan_clus (s : State) (c : Nat) (f : Channel → Channel) : (s.modChan c f).clus = s.clus := rfl
@[simp] theorem State.modChan_counter (s : State) (c : Nat) (f : Channel → Channel) : (s.modChan c f).counter = s.counter := rfl
@[simp] theorem State.modChan_tier (s : State) (c : Nat) (f : Channel → Channel) : (s.modChan c f).tier = s.tier := rfl
@[simp] theorem State.modChan_ump (s : State) (c : Nat) (f : Channel → Channel) : (s.modChan c f).ump = s.ump := rfl
@[simp] theorem State.modChan_book (s : State) (c : Nat) (f : Channel → Channel) : (s.modChan c f).book = s.book := rfl
@[simp] theorem State.modChan_sch (s : State) (c : Nat) (f : Channel → Channel) : (s.modChan c f).sch = s.sch := rfl
@[simp] theorem State.modChan_wgt (s : State) (c : Nat) (f : Channel → Channel) : (s.modChan c f).wgt = s.wgt := rfl
@[simp] theorem State.modChan_flt (s : State) (c : Nat) (f : Channel → Channel) : (s.modChan c f).flt = s.flt := rfl
@[simp] theorem State.modChan_led (s : State) (c : Nat) (f : Channel → Channel) : (s.modChan c f).led = s.led := rfl
@[simp] theorem State.modChan_sec (s : State) (c : Nat) (f : Channel → Channel) : (s.modChan c f).sec = s.sec := rfl
@[simp] theorem State.modChan_smb (s : State) (c : Nat) (f : Channel → Channel) : (s.modChan c f).smb = s.smb := rfl
@[simp] theorem State.modChan_pwr (s : State) (c : Nat) (f : Channel → Channel) : (s.modChan c f).pwr = s.pwr := rfl
@[simp] theorem State.modChan_upd (s : State) (c : Nat) (f : Channel → Channel) : (s.modChan c f).upd = s.upd := rfl
@[simp] theorem State.modChan_ring (s : State) (c : Nat) (f : Channel → Channel) : (s.modChan c f).ring = s.ring := rfl
@[simp] theorem State.modChan_cdc (s : State) (c : Nat) (f : Channel → Channel) : (s.modChan c f).cdc = s.cdc := rfl

/-! `State.setPkg`. -/
@[simp] theorem State.setPkg_pending (s : State) (k : Nat) (p : Pkg) : (s.setPkg k p).pending = s.pending := rfl
@[simp] theorem State.setPkg_free (s : State) (k : Nat) (p : Pkg) : (s.setPkg k p).free = s.free := rfl
@[simp] theorem State.setPkg_cores (s : State) (k : Nat) (p : Pkg) : (s.setPkg k p).cores = s.cores := rfl
@[simp] theorem State.setPkg_clus (s : State) (k : Nat) (p : Pkg) : (s.setPkg k p).clus = s.clus := rfl
@[simp] theorem State.setPkg_counter (s : State) (k : Nat) (p : Pkg) : (s.setPkg k p).counter = s.counter := rfl
@[simp] theorem State.setPkg_mem (s : State) (k : Nat) (p : Pkg) : (s.setPkg k p).mem = s.mem := rfl
@[simp] theorem State.setPkg_ump (s : State) (k : Nat) (p : Pkg) : (s.setPkg k p).ump = s.ump := rfl
@[simp] theorem State.setPkg_book (s : State) (k : Nat) (p : Pkg) : (s.setPkg k p).book = s.book := rfl
@[simp] theorem State.setPkg_sch (s : State) (k : Nat) (p : Pkg) : (s.setPkg k p).sch = s.sch := rfl
@[simp] theorem State.setPkg_wgt (s : State) (k : Nat) (p : Pkg) : (s.setPkg k p).wgt = s.wgt := rfl
@[simp] theorem State.setPkg_flt (s : State) (k : Nat) (p : Pkg) : (s.setPkg k p).flt = s.flt := rfl
@[simp] theorem State.setPkg_led (s : State) (k : Nat) (p : Pkg) : (s.setPkg k p).led = s.led := rfl
@[simp] theorem State.setPkg_sec (s : State) (k : Nat) (p : Pkg) : (s.setPkg k p).sec = s.sec := rfl
@[simp] theorem State.setPkg_smb (s : State) (k : Nat) (p : Pkg) : (s.setPkg k p).smb = s.smb := rfl
@[simp] theorem State.setPkg_pwr (s : State) (k : Nat) (p : Pkg) : (s.setPkg k p).pwr = s.pwr := rfl
@[simp] theorem State.setPkg_upd (s : State) (k : Nat) (p : Pkg) : (s.setPkg k p).upd = s.upd := rfl
@[simp] theorem State.setPkg_ring (s : State) (k : Nat) (p : Pkg) : (s.setPkg k p).ring = s.ring := rfl
@[simp] theorem State.setPkg_cdc (s : State) (k : Nat) (p : Pkg) : (s.setPkg k p).cdc = s.cdc := rfl

/-! `State.takeReq`. -/
@[simp] theorem State.takeReq_pending (s : State) (r : Req) : (s.takeReq r).pending = s.pending := rfl
@[simp] theorem State.takeReq_free (s : State) (r : Req) : (s.takeReq r).free = s.free := rfl
@[simp] theorem State.takeReq_cores (s : State) (r : Req) : (s.takeReq r).cores = s.cores := rfl
@[simp] theorem State.takeReq_clus (s : State) (r : Req) : (s.takeReq r).clus = s.clus := rfl
@[simp] theorem State.takeReq_counter (s : State) (r : Req) : (s.takeReq r).counter = s.counter := rfl
@[simp] theorem State.takeReq_mem (s : State) (r : Req) : (s.takeReq r).mem = s.mem := rfl
@[simp] theorem State.takeReq_tier (s : State) (r : Req) : (s.takeReq r).tier = s.tier := rfl
@[simp] theorem State.takeReq_book (s : State) (r : Req) : (s.takeReq r).book = s.book := rfl
@[simp] theorem State.takeReq_sch (s : State) (r : Req) : (s.takeReq r).sch = s.sch := rfl
@[simp] theorem State.takeReq_wgt (s : State) (r : Req) : (s.takeReq r).wgt = s.wgt := rfl
@[simp] theorem State.takeReq_flt (s : State) (r : Req) : (s.takeReq r).flt = s.flt := rfl
@[simp] theorem State.takeReq_led (s : State) (r : Req) : (s.takeReq r).led = s.led := rfl
@[simp] theorem State.takeReq_sec (s : State) (r : Req) : (s.takeReq r).sec = s.sec := rfl
@[simp] theorem State.takeReq_smb (s : State) (r : Req) : (s.takeReq r).smb = s.smb := rfl
@[simp] theorem State.takeReq_pwr (s : State) (r : Req) : (s.takeReq r).pwr = s.pwr := rfl
@[simp] theorem State.takeReq_upd (s : State) (r : Req) : (s.takeReq r).upd = s.upd := rfl
@[simp] theorem State.takeReq_ring (s : State) (r : Req) : (s.takeReq r).ring = s.ring := rfl
@[simp] theorem State.takeReq_cdc (s : State) (r : Req) : (s.takeReq r).cdc = s.cdc := rfl

/-! `State.setPlan`. -/
@[simp] theorem State.setPlan_pending (s : State) (i : Nat) (p : UpdPlan) : (s.setPlan i p).pending = s.pending := rfl
@[simp] theorem State.setPlan_free (s : State) (i : Nat) (p : UpdPlan) : (s.setPlan i p).free = s.free := rfl
@[simp] theorem State.setPlan_cores (s : State) (i : Nat) (p : UpdPlan) : (s.setPlan i p).cores = s.cores := rfl
@[simp] theorem State.setPlan_clus (s : State) (i : Nat) (p : UpdPlan) : (s.setPlan i p).clus = s.clus := rfl
@[simp] theorem State.setPlan_counter (s : State) (i : Nat) (p : UpdPlan) : (s.setPlan i p).counter = s.counter := rfl
@[simp] theorem State.setPlan_mem (s : State) (i : Nat) (p : UpdPlan) : (s.setPlan i p).mem = s.mem := rfl
@[simp] theorem State.setPlan_tier (s : State) (i : Nat) (p : UpdPlan) : (s.setPlan i p).tier = s.tier := rfl
@[simp] theorem State.setPlan_ump (s : State) (i : Nat) (p : UpdPlan) : (s.setPlan i p).ump = s.ump := rfl
@[simp] theorem State.setPlan_book (s : State) (i : Nat) (p : UpdPlan) : (s.setPlan i p).book = s.book := rfl
@[simp] theorem State.setPlan_sch (s : State) (i : Nat) (p : UpdPlan) : (s.setPlan i p).sch = s.sch := rfl
@[simp] theorem State.setPlan_wgt (s : State) (i : Nat) (p : UpdPlan) : (s.setPlan i p).wgt = s.wgt := rfl
@[simp] theorem State.setPlan_flt (s : State) (i : Nat) (p : UpdPlan) : (s.setPlan i p).flt = s.flt := rfl
@[simp] theorem State.setPlan_led (s : State) (i : Nat) (p : UpdPlan) : (s.setPlan i p).led = s.led := rfl
@[simp] theorem State.setPlan_sec (s : State) (i : Nat) (p : UpdPlan) : (s.setPlan i p).sec = s.sec := rfl
@[simp] theorem State.setPlan_smb (s : State) (i : Nat) (p : UpdPlan) : (s.setPlan i p).smb = s.smb := rfl
@[simp] theorem State.setPlan_pwr (s : State) (i : Nat) (p : UpdPlan) : (s.setPlan i p).pwr = s.pwr := rfl
@[simp] theorem State.setPlan_ring (s : State) (i : Nat) (p : UpdPlan) : (s.setPlan i p).ring = s.ring := rfl
@[simp] theorem State.setPlan_cdc (s : State) (i : Nat) (p : UpdPlan) : (s.setPlan i p).cdc = s.cdc := rfl

/-! `State.setWset`. -/
@[simp] theorem State.setWset_pending (s : State) (k : Nat) (w : WSet) : (s.setWset k w).pending = s.pending := rfl
@[simp] theorem State.setWset_free (s : State) (k : Nat) (w : WSet) : (s.setWset k w).free = s.free := rfl
@[simp] theorem State.setWset_cores (s : State) (k : Nat) (w : WSet) : (s.setWset k w).cores = s.cores := rfl
@[simp] theorem State.setWset_clus (s : State) (k : Nat) (w : WSet) : (s.setWset k w).clus = s.clus := rfl
@[simp] theorem State.setWset_counter (s : State) (k : Nat) (w : WSet) : (s.setWset k w).counter = s.counter := rfl
@[simp] theorem State.setWset_mem (s : State) (k : Nat) (w : WSet) : (s.setWset k w).mem = s.mem := rfl
@[simp] theorem State.setWset_tier (s : State) (k : Nat) (w : WSet) : (s.setWset k w).tier = s.tier := rfl
@[simp] theorem State.setWset_ump (s : State) (k : Nat) (w : WSet) : (s.setWset k w).ump = s.ump := rfl
@[simp] theorem State.setWset_book (s : State) (k : Nat) (w : WSet) : (s.setWset k w).book = s.book := rfl
@[simp] theorem State.setWset_sch (s : State) (k : Nat) (w : WSet) : (s.setWset k w).sch = s.sch := rfl
@[simp] theorem State.setWset_flt (s : State) (k : Nat) (w : WSet) : (s.setWset k w).flt = s.flt := rfl
@[simp] theorem State.setWset_led (s : State) (k : Nat) (w : WSet) : (s.setWset k w).led = s.led := rfl
@[simp] theorem State.setWset_sec (s : State) (k : Nat) (w : WSet) : (s.setWset k w).sec = s.sec := rfl
@[simp] theorem State.setWset_smb (s : State) (k : Nat) (w : WSet) : (s.setWset k w).smb = s.smb := rfl
@[simp] theorem State.setWset_pwr (s : State) (k : Nat) (w : WSet) : (s.setWset k w).pwr = s.pwr := rfl
@[simp] theorem State.setWset_upd (s : State) (k : Nat) (w : WSet) : (s.setWset k w).upd = s.upd := rfl
@[simp] theorem State.setWset_ring (s : State) (k : Nat) (w : WSet) : (s.setWset k w).ring = s.ring := rfl
@[simp] theorem State.setWset_cdc (s : State) (k : Nat) (w : WSet) : (s.setWset k w).cdc = s.cdc := rfl

/-! `State.setShard`. -/
@[simp] theorem State.setShard_pending (s : State) (b : Nat) (h : Shard) : (s.setShard b h).pending = s.pending := rfl
@[simp] theorem State.setShard_free (s : State) (b : Nat) (h : Shard) : (s.setShard b h).free = s.free := rfl
@[simp] theorem State.setShard_cores (s : State) (b : Nat) (h : Shard) : (s.setShard b h).cores = s.cores := rfl
@[simp] theorem State.setShard_clus (s : State) (b : Nat) (h : Shard) : (s.setShard b h).clus = s.clus := rfl
@[simp] theorem State.setShard_counter (s : State) (b : Nat) (h : Shard) : (s.setShard b h).counter = s.counter := rfl
@[simp] theorem State.setShard_mem (s : State) (b : Nat) (h : Shard) : (s.setShard b h).mem = s.mem := rfl
@[simp] theorem State.setShard_tier (s : State) (b : Nat) (h : Shard) : (s.setShard b h).tier = s.tier := rfl
@[simp] theorem State.setShard_ump (s : State) (b : Nat) (h : Shard) : (s.setShard b h).ump = s.ump := rfl
@[simp] theorem State.setShard_book (s : State) (b : Nat) (h : Shard) : (s.setShard b h).book = s.book := rfl
@[simp] theorem State.setShard_sch (s : State) (b : Nat) (h : Shard) : (s.setShard b h).sch = s.sch := rfl
@[simp] theorem State.setShard_flt (s : State) (b : Nat) (h : Shard) : (s.setShard b h).flt = s.flt := rfl
@[simp] theorem State.setShard_led (s : State) (b : Nat) (h : Shard) : (s.setShard b h).led = s.led := rfl
@[simp] theorem State.setShard_sec (s : State) (b : Nat) (h : Shard) : (s.setShard b h).sec = s.sec := rfl
@[simp] theorem State.setShard_smb (s : State) (b : Nat) (h : Shard) : (s.setShard b h).smb = s.smb := rfl
@[simp] theorem State.setShard_pwr (s : State) (b : Nat) (h : Shard) : (s.setShard b h).pwr = s.pwr := rfl
@[simp] theorem State.setShard_upd (s : State) (b : Nat) (h : Shard) : (s.setShard b h).upd = s.upd := rfl
@[simp] theorem State.setShard_ring (s : State) (b : Nat) (h : Shard) : (s.setShard b h).ring = s.ring := rfl
@[simp] theorem State.setShard_cdc (s : State) (b : Nat) (h : Shard) : (s.setShard b h).cdc = s.cdc := rfl

/-! `State.dropShard`. -/
@[simp] theorem State.dropShard_pending (s : State) (b : Nat) : (s.dropShard b).pending = s.pending := rfl
@[simp] theorem State.dropShard_free (s : State) (b : Nat) : (s.dropShard b).free = s.free := rfl
@[simp] theorem State.dropShard_cores (s : State) (b : Nat) : (s.dropShard b).cores = s.cores := rfl
@[simp] theorem State.dropShard_clus (s : State) (b : Nat) : (s.dropShard b).clus = s.clus := rfl
@[simp] theorem State.dropShard_counter (s : State) (b : Nat) : (s.dropShard b).counter = s.counter := rfl
@[simp] theorem State.dropShard_mem (s : State) (b : Nat) : (s.dropShard b).mem = s.mem := rfl
@[simp] theorem State.dropShard_tier (s : State) (b : Nat) : (s.dropShard b).tier = s.tier := rfl
@[simp] theorem State.dropShard_ump (s : State) (b : Nat) : (s.dropShard b).ump = s.ump := rfl
@[simp] theorem State.dropShard_book (s : State) (b : Nat) : (s.dropShard b).book = s.book := rfl
@[simp] theorem State.dropShard_sch (s : State) (b : Nat) : (s.dropShard b).sch = s.sch := rfl
@[simp] theorem State.dropShard_flt (s : State) (b : Nat) : (s.dropShard b).flt = s.flt := rfl
@[simp] theorem State.dropShard_led (s : State) (b : Nat) : (s.dropShard b).led = s.led := rfl
@[simp] theorem State.dropShard_sec (s : State) (b : Nat) : (s.dropShard b).sec = s.sec := rfl
@[simp] theorem State.dropShard_smb (s : State) (b : Nat) : (s.dropShard b).smb = s.smb := rfl
@[simp] theorem State.dropShard_pwr (s : State) (b : Nat) : (s.dropShard b).pwr = s.pwr := rfl
@[simp] theorem State.dropShard_upd (s : State) (b : Nat) : (s.dropShard b).upd = s.upd := rfl
@[simp] theorem State.dropShard_ring (s : State) (b : Nat) : (s.dropShard b).ring = s.ring := rfl
@[simp] theorem State.dropShard_cdc (s : State) (b : Nat) : (s.dropShard b).cdc = s.cdc := rfl

/-! `State.modCore`. -/
@[simp] theorem State.modCore_pending (s : State) (p : Nat) (f : CoreRegs → CoreRegs) : (s.modCore p f).pending = s.pending := rfl
@[simp] theorem State.modCore_free (s : State) (p : Nat) (f : CoreRegs → CoreRegs) : (s.modCore p f).free = s.free := rfl
@[simp] theorem State.modCore_clus (s : State) (p : Nat) (f : CoreRegs → CoreRegs) : (s.modCore p f).clus = s.clus := rfl
@[simp] theorem State.modCore_counter (s : State) (p : Nat) (f : CoreRegs → CoreRegs) : (s.modCore p f).counter = s.counter := rfl
@[simp] theorem State.modCore_mem (s : State) (p : Nat) (f : CoreRegs → CoreRegs) : (s.modCore p f).mem = s.mem := rfl
@[simp] theorem State.modCore_tier (s : State) (p : Nat) (f : CoreRegs → CoreRegs) : (s.modCore p f).tier = s.tier := rfl
@[simp] theorem State.modCore_ump (s : State) (p : Nat) (f : CoreRegs → CoreRegs) : (s.modCore p f).ump = s.ump := rfl
@[simp] theorem State.modCore_book (s : State) (p : Nat) (f : CoreRegs → CoreRegs) : (s.modCore p f).book = s.book := rfl
@[simp] theorem State.modCore_sch (s : State) (p : Nat) (f : CoreRegs → CoreRegs) : (s.modCore p f).sch = s.sch := rfl
@[simp] theorem State.modCore_wgt (s : State) (p : Nat) (f : CoreRegs → CoreRegs) : (s.modCore p f).wgt = s.wgt := rfl
@[simp] theorem State.modCore_flt (s : State) (p : Nat) (f : CoreRegs → CoreRegs) : (s.modCore p f).flt = s.flt := rfl
@[simp] theorem State.modCore_led (s : State) (p : Nat) (f : CoreRegs → CoreRegs) : (s.modCore p f).led = s.led := rfl
@[simp] theorem State.modCore_sec (s : State) (p : Nat) (f : CoreRegs → CoreRegs) : (s.modCore p f).sec = s.sec := rfl
@[simp] theorem State.modCore_smb (s : State) (p : Nat) (f : CoreRegs → CoreRegs) : (s.modCore p f).smb = s.smb := rfl
@[simp] theorem State.modCore_pwr (s : State) (p : Nat) (f : CoreRegs → CoreRegs) : (s.modCore p f).pwr = s.pwr := rfl
@[simp] theorem State.modCore_upd (s : State) (p : Nat) (f : CoreRegs → CoreRegs) : (s.modCore p f).upd = s.upd := rfl
@[simp] theorem State.modCore_ring (s : State) (p : Nat) (f : CoreRegs → CoreRegs) : (s.modCore p f).ring = s.ring := rfl
@[simp] theorem State.modCore_cdc (s : State) (p : Nat) (f : CoreRegs → CoreRegs) : (s.modCore p f).cdc = s.cdc := rfl

/-! `State.modClu`. -/
@[simp] theorem State.modClu_pending (s : State) (n : Nat) (f : Cluster → Cluster) : (s.modClu n f).pending = s.pending := rfl
@[simp] theorem State.modClu_free (s : State) (n : Nat) (f : Cluster → Cluster) : (s.modClu n f).free = s.free := rfl
@[simp] theorem State.modClu_cores (s : State) (n : Nat) (f : Cluster → Cluster) : (s.modClu n f).cores = s.cores := rfl
@[simp] theorem State.modClu_counter (s : State) (n : Nat) (f : Cluster → Cluster) : (s.modClu n f).counter = s.counter := rfl
@[simp] theorem State.modClu_mem (s : State) (n : Nat) (f : Cluster → Cluster) : (s.modClu n f).mem = s.mem := rfl
@[simp] theorem State.modClu_tier (s : State) (n : Nat) (f : Cluster → Cluster) : (s.modClu n f).tier = s.tier := rfl
@[simp] theorem State.modClu_ump (s : State) (n : Nat) (f : Cluster → Cluster) : (s.modClu n f).ump = s.ump := rfl
@[simp] theorem State.modClu_book (s : State) (n : Nat) (f : Cluster → Cluster) : (s.modClu n f).book = s.book := rfl
@[simp] theorem State.modClu_sch (s : State) (n : Nat) (f : Cluster → Cluster) : (s.modClu n f).sch = s.sch := rfl
@[simp] theorem State.modClu_wgt (s : State) (n : Nat) (f : Cluster → Cluster) : (s.modClu n f).wgt = s.wgt := rfl
@[simp] theorem State.modClu_flt (s : State) (n : Nat) (f : Cluster → Cluster) : (s.modClu n f).flt = s.flt := rfl
@[simp] theorem State.modClu_led (s : State) (n : Nat) (f : Cluster → Cluster) : (s.modClu n f).led = s.led := rfl
@[simp] theorem State.modClu_sec (s : State) (n : Nat) (f : Cluster → Cluster) : (s.modClu n f).sec = s.sec := rfl
@[simp] theorem State.modClu_smb (s : State) (n : Nat) (f : Cluster → Cluster) : (s.modClu n f).smb = s.smb := rfl
@[simp] theorem State.modClu_pwr (s : State) (n : Nat) (f : Cluster → Cluster) : (s.modClu n f).pwr = s.pwr := rfl
@[simp] theorem State.modClu_upd (s : State) (n : Nat) (f : Cluster → Cluster) : (s.modClu n f).upd = s.upd := rfl
@[simp] theorem State.modClu_ring (s : State) (n : Nat) (f : Cluster → Cluster) : (s.modClu n f).ring = s.ring := rfl
@[simp] theorem State.modClu_cdc (s : State) (n : Nat) (f : Cluster → Cluster) : (s.modClu n f).cdc = s.cdc := rfl

/-! `State.modMbx`. -/
@[simp] theorem State.modMbx_pending (s : State) (m : Nat) (f : Mbx → Mbx) : (s.modMbx m f).pending = s.pending := rfl
@[simp] theorem State.modMbx_free (s : State) (m : Nat) (f : Mbx → Mbx) : (s.modMbx m f).free = s.free := rfl
@[simp] theorem State.modMbx_cores (s : State) (m : Nat) (f : Mbx → Mbx) : (s.modMbx m f).cores = s.cores := rfl
@[simp] theorem State.modMbx_clus (s : State) (m : Nat) (f : Mbx → Mbx) : (s.modMbx m f).clus = s.clus := rfl
@[simp] theorem State.modMbx_counter (s : State) (m : Nat) (f : Mbx → Mbx) : (s.modMbx m f).counter = s.counter := rfl
@[simp] theorem State.modMbx_mem (s : State) (m : Nat) (f : Mbx → Mbx) : (s.modMbx m f).mem = s.mem := rfl
@[simp] theorem State.modMbx_tier (s : State) (m : Nat) (f : Mbx → Mbx) : (s.modMbx m f).tier = s.tier := rfl
@[simp] theorem State.modMbx_book (s : State) (m : Nat) (f : Mbx → Mbx) : (s.modMbx m f).book = s.book := rfl
@[simp] theorem State.modMbx_sch (s : State) (m : Nat) (f : Mbx → Mbx) : (s.modMbx m f).sch = s.sch := rfl
@[simp] theorem State.modMbx_wgt (s : State) (m : Nat) (f : Mbx → Mbx) : (s.modMbx m f).wgt = s.wgt := rfl
@[simp] theorem State.modMbx_flt (s : State) (m : Nat) (f : Mbx → Mbx) : (s.modMbx m f).flt = s.flt := rfl
@[simp] theorem State.modMbx_led (s : State) (m : Nat) (f : Mbx → Mbx) : (s.modMbx m f).led = s.led := rfl
@[simp] theorem State.modMbx_sec (s : State) (m : Nat) (f : Mbx → Mbx) : (s.modMbx m f).sec = s.sec := rfl
@[simp] theorem State.modMbx_smb (s : State) (m : Nat) (f : Mbx → Mbx) : (s.modMbx m f).smb = s.smb := rfl
@[simp] theorem State.modMbx_pwr (s : State) (m : Nat) (f : Mbx → Mbx) : (s.modMbx m f).pwr = s.pwr := rfl
@[simp] theorem State.modMbx_upd (s : State) (m : Nat) (f : Mbx → Mbx) : (s.modMbx m f).upd = s.upd := rfl
@[simp] theorem State.modMbx_ring (s : State) (m : Nat) (f : Mbx → Mbx) : (s.modMbx m f).ring = s.ring := rfl
@[simp] theorem State.modMbx_cdc (s : State) (m : Nat) (f : Mbx → Mbx) : (s.modMbx m f).cdc = s.cdc := rfl

/-! `State.post`. -/
@[simp] theorem State.post_pending (s : State) (p : Nat) (e : CoachEvent) : (s.post p e).pending = s.pending := rfl
@[simp] theorem State.post_free (s : State) (p : Nat) (e : CoachEvent) : (s.post p e).free = s.free := rfl
@[simp] theorem State.post_cores (s : State) (p : Nat) (e : CoachEvent) : (s.post p e).cores = s.cores := rfl
@[simp] theorem State.post_counter (s : State) (p : Nat) (e : CoachEvent) : (s.post p e).counter = s.counter := rfl
@[simp] theorem State.post_mem (s : State) (p : Nat) (e : CoachEvent) : (s.post p e).mem = s.mem := rfl
@[simp] theorem State.post_tier (s : State) (p : Nat) (e : CoachEvent) : (s.post p e).tier = s.tier := rfl
@[simp] theorem State.post_ump (s : State) (p : Nat) (e : CoachEvent) : (s.post p e).ump = s.ump := rfl
@[simp] theorem State.post_book (s : State) (p : Nat) (e : CoachEvent) : (s.post p e).book = s.book := rfl
@[simp] theorem State.post_sch (s : State) (p : Nat) (e : CoachEvent) : (s.post p e).sch = s.sch := rfl
@[simp] theorem State.post_wgt (s : State) (p : Nat) (e : CoachEvent) : (s.post p e).wgt = s.wgt := rfl
@[simp] theorem State.post_flt (s : State) (p : Nat) (e : CoachEvent) : (s.post p e).flt = s.flt := rfl
@[simp] theorem State.post_led (s : State) (p : Nat) (e : CoachEvent) : (s.post p e).led = s.led := rfl
@[simp] theorem State.post_sec (s : State) (p : Nat) (e : CoachEvent) : (s.post p e).sec = s.sec := rfl
@[simp] theorem State.post_smb (s : State) (p : Nat) (e : CoachEvent) : (s.post p e).smb = s.smb := rfl
@[simp] theorem State.post_pwr (s : State) (p : Nat) (e : CoachEvent) : (s.post p e).pwr = s.pwr := rfl
@[simp] theorem State.post_upd (s : State) (p : Nat) (e : CoachEvent) : (s.post p e).upd = s.upd := rfl
@[simp] theorem State.post_ring (s : State) (p : Nat) (e : CoachEvent) : (s.post p e).ring = s.ring := rfl
@[simp] theorem State.post_cdc (s : State) (p : Nat) (e : CoachEvent) : (s.post p e).cdc = s.cdc := rfl

/-! Reads after the same write. -/

@[simp] theorem State.setSeq_seqs (s : State) (i : Nat) (q : Seq) : (s.setSeq i q).sch.seqs = AMap.insert s.sch.seqs i q := rfl
@[simp] theorem State.setPlan_plans (s : State) (i : Nat) (p : UpdPlan) : (s.setPlan i p).upd.plans = AMap.insert s.upd.plans i p := rfl
@[simp] theorem State.setObj_objs (s : State) (b : Nat) (o : Obj) : (s.setObj b o).tier.objs = AMap.insert s.tier.objs b o := rfl
@[simp] theorem State.setBlock_blocks (s : State) (b : Nat) (h : Home) : (s.setBlock b h).tier.blocks = AMap.insert s.tier.blocks b h := rfl
@[simp] theorem State.setStream_streams (s : State) (i : Nat) (c : CStream) : (s.setStream i c).cdc.streams = AMap.insert s.cdc.streams i c := rfl
@[simp] theorem State.setShard_shards (s : State) (b : Nat) (h : Shard) : (s.setShard b h).wgt.shards = AMap.insert s.wgt.shards b h := rfl
@[simp] theorem State.setWset_sets (s : State) (k : Nat) (w : WSet) : (s.setWset k w).wgt.sets = AMap.insert s.wgt.sets k w := rfl
@[simp] theorem State.toStep_step (s : State) (n : Nat) : (s.toStep n).sec.step = n := rfl

end Sys2Proof.Machine
end

