-- ==== Sys2Proof/Laws/Serve.lean ====
section
/-! SUPPORT. What a message handler does when its message is served next and when it is not, and what the parts of a state read as after an
operation that sets one of them. -/
namespace Sys2Proof.Machine

/-! Serving (16 R417). -/

/-- A message served next has its handler's effect on the state with the request taken. -/
theorem serve_run {s : State} {op m : Nat} {r : Req} (h : s.Serves op m r) (f : Req → State → State) : serve op m f s = f r (s.takeReq r) := by
  unfold serve; rw [h.next]; dsimp only; rw [if_pos ⟨h.up, h.mbx, h.op⟩]
/-- A message that is not served next has no effect. -/
theorem serve_idle {s : State} {op m : Nat} (h : ∀ r, ¬s.Serves op m r) (f : Req → State → State) : serve op m f s = s := by
  unfold serve
  cases hn : s.nextReq with
  | none => rfl
  | some r => dsimp only; rw [if_neg]; rintro ⟨a, b, c⟩; exact h r ⟨hn, a, b, c⟩

/-! Reads after a set. -/

theorem State.core_modCore (s : State) (p k : Nat) (f : CoreRegs → CoreRegs) :
    (s.modCore p f).core k = if k = p then ⟨f (s.core p).now, f (s.core p).pre⟩ else s.core k := by
  rw [State.modCore, State.core_setCore]
theorem State.mbx_modMbx (s : State) (m k : Nat) (f : Mbx → Mbx) : (s.modMbx m f).mbx k = if k = m then f (s.mbx m) else s.mbx k :=
  AMap.getD_insert _ _ _ _ _
theorem State.mbx_setMbx (s : State) (m k : Nat) (b : Mbx) : (s.setMbx m b).mbx k = if k = m then b else s.mbx k := AMap.getD_insert _ _ _ _ _
theorem State.link_setLink (s : State) (p k : Nat) (l : Link) : (s.setLink p l).link k = if k = p then l else s.link k :=
  AMap.getD_setD _ _ _ _ _
theorem State.engine_setEngine (s : State) (e k : Nat) (x : Engine) : (s.setEngine e x).engine k = if k = e then x else s.engine k :=
  AMap.getD_setD _ _ _ _ _
theorem State.chan_modChan (s : State) (c k : Nat) (f : Channel → Channel) : (s.modChan c f).chan k = if k = c then f (s.chan c) else s.chan k :=
  AMap.getD_insert _ _ _ _ _

end Sys2Proof.Machine
end

