-- ==== Sys2Proof/Laws/Branches.lean ====
section
/-! SUPPORT. Children that share the pages of a parent. -/
namespace Sys2Proof.Machine.Branches

theorem seq_mod (s : State) (i j : Nat) (f : Seq → Seq) : (s.modSeq i f).seq j = if j = i then (s.seq i).map f else s.seq j := AMap.find_adjust _ _ _ _

theorem clearObj_frame (s : State) (a n : Nat) : (s.clearObj a n) = { s with mem := (s.clearObj a n).mem } := by
  unfold State.clearObj
  generalize piecesOf a n = l
  induction l generalizing s with
  | nil => rfl
  | cons x l ih =>
    rw [List.foldl_cons]; refine (ih _).trans ?_
    split <;> rfl

theorem clearScore_frame (s : State) (q : Seq) (i : Nat) : (s.clearScore q i) = { s with mem := (s.clearScore q i).mem } := by
  unfold State.clearScore
  split
  · exact clearObj_frame _ _ _
  · rfl

theorem assign_sch (s : State) (i p f d : Nat) :
    let k := s.freeFuture (s.sch.seqs.length + 1) s.sch.nextFuture
    (s.assignFuture i p f d).sch = { (s.modSeq i (fun q => { q with
      isFuture := true, future := k, parent := p, family := if f = 0 then k else f, depth := min d 65535 })).sch with
      nextFuture := k + 1, parents := AMap.insert s.sch.parents k p } := by
  intro k
  unfold State.assignFuture
  dsimp only
  split
  · rw [clearScore_frame]; rfl
  · rfl
/-- pages of a shared list -/

def bump (s : State) (k : Nat) : State := match s.page k with
    | some p => s.setPage k { p with refs := p.refs + 1 }
    | none => s

theorem bump_page (s : State) (k j : Nat) : (bump s k).page j = if j = k then (s.page k).map (fun p => { p with refs := p.refs + 1 }) else s.page j := by
  unfold bump
  split
  · rename_i p h; unfold State.page State.setPage; dsimp only; rw [AMap.find_insert]; rw [State.page] at h; rw [h]; rfl
  · rename_i h; rw [h]; split
    · rename_i e; rw [e, h]; rfl
    · rfl

theorem bump_frame (s : State) (k : Nat) : bump s k = { s with sch := { s.sch with pages := (bump s k).sch.pages } } := by
  unfold bump; split <;> rfl

theorem bumps_frame (l : List Nat) (s : State) : l.foldl bump s = { s with sch := { s.sch with pages := (l.foldl bump s).sch.pages } } := by
  induction l generalizing s with
  | nil => rfl
  | cons a l ih => rw [List.foldl_cons]; refine (ih _).trans ?_; rw [bump_frame]

theorem bumps_page (l : List Nat) (s : State) (hl : l.Nodup) (k : Nat) :
    (l.foldl bump s).page k = if k ∈ l then (s.page k).map (fun p => { p with refs := p.refs + 1 }) else s.page k := by
  induction l generalizing s with
  | nil => simp
  | cons a l ih =>
    rw [List.nodup_cons] at hl
    rw [List.foldl_cons, ih _ hl.2, bump_page]
    by_cases h : k = a
    · subst h
      rw [if_neg hl.1, if_pos rfl, if_pos (List.mem_cons_self ..)]
    · rw [if_neg h]; simp only [List.mem_cons, h, false_or]

theorem share_eq (s : State) (p : Seq) (c : Nat) : s.shareList p c = (p.pages.foldl (fun s e => s.setEntry c e.1 e.2) (p.pageKeys.foldl bump s)).modSeq c (fun q => { q with
    nextSlot := p.nextSlot, chunkSlot := p.chunkSlot, chunkFrame := p.chunkFrame }) := rfl

end Sys2Proof.Machine.Branches
end

