-- ==== Sys2Proof/Laws/Cells.lean ====
section
/-! SUPPORT. The cells of a curd tile: that a sum kept in a curd is exact where nothing is sticky, that cells do not overlap, and what a fold over the cells leaves. -/
namespace Sys2Proof.Machine.Cells

noncomputable def dval (d : Dy) : ℚ := (d.n : ℚ) * 2 ^ d.e

theorem dval_add (a b : Dy) : dval (a.add b) = dval a + dval b := by
  unfold Dy.add dval
  split
  · simp [*]
  · split
    · simp [*]
    · split
      · rename_i h
        have : b.e = a.e + ((b.e - a.e).toNat : Int) := by omega
        push_cast
        conv_rhs => rw [this, zpow_add₀ (by norm_num), zpow_natCast]
        ring
      · have : a.e = b.e + ((a.e - b.e).toNat : Int) := by omega
        push_cast
        conv_rhs => rw [this, zpow_add₀ (by norm_num), zpow_natCast]
        ring

theorem dval_sub (a b : Dy) : dval (a.sub b) = dval a - dval b := by
  rw [Dy.sub, dval_add]; simp [dval, Dy.neg]; ring

theorem exact_of (d : Dy) (k : Int) (h : Curd.inexactAt d k = false) : (d.truncAt k : ℚ) * 2 ^ k = dval d := by
  simp only [Curd.inexactAt, decide_eq_false_iff_not, ne_eq, not_not] at h
  have := dval_sub d ⟨d.truncAt k, k⟩
  have h0 : dval (d.sub ⟨d.truncAt k, k⟩) = 0 := by simp [dval, h]
  rw [h0] at this
  have e : dval ⟨d.truncAt k, k⟩ = (d.truncAt k : ℚ) * 2 ^ k := rfl
  rw [← e]; linarith

def kval (p : Pair) (c : Curd) : ℚ := (c.acc : ℚ) * 2 ^ (c.anchor + p.lsb)

theorem place_exact (p : Pair) (c : Curd) (v : FV) (ex : Int) (hv : v.isFin = true) (hs : (Curd.place p c v ex).sticky = false)
    (h0 : c.av = false → c.acc = 0) :
    c.sticky = false ∧ ((Curd.place p c v ex).av = false → (Curd.place p c v ex).acc = 0) ∧ kval p (Curd.place p c v ex) = kval p c + dval v.dy := by
  cases v with
  | nan => simp [FV.isFin] at hv
  | inf s => simp [FV.isFin] at hv
  | fin s m e =>
    by_cases hm : m = 0
    · subst hm
      have e1 : Curd.place p c (.fin s 0 e) ex = c := by simp [Curd.place]
      rw [e1] at hs ⊢
      refine ⟨hs, h0, ?_⟩
      simp [dval, FV.dy]
    · -- normalise the register whose av is set
      obtain ⟨c1, hc1, hav, hst, hval, hplace⟩ : ∃ c1 : Curd, c1 = (if c.av then c else { c with anchor := ex, av := true }) ∧ c1.av = true ∧ c1.sticky = c.sticky ∧
          kval p c1 = kval p c ∧ True := by
        refine ⟨_, rfl, ?_, ?_, ?_, trivial⟩
        · split <;> simp_all
        · split <;> rfl
        · split
          · rfl
          · rename_i h
            have := h0 (by simpa using h)
            simp [kval, this]
      simp only [Curd.place, hm, if_false] at hs ⊢
      rw [← hc1] at hs ⊢
      by_cases hlt : c1.anchor < ex
      · simp only [hlt, if_true, Bool.or_eq_false_iff] at hs ⊢
        obtain ⟨⟨h1, h2⟩, h3⟩ := hs
        refine ⟨by rw [← hst]; exact h1, fun h => by rw [hav] at h; contradiction, ?_⟩
        have e2 := exact_of _ _ h2
        have e3 := exact_of _ _ h3
        rw [← hval]
        simp only [kval]
        push_cast
        rw [add_mul, e3]
        congr 1
        have : ex + p.lsb = (ex - c1.anchor) + (c1.anchor + p.lsb) := by ring
        rw [this, zpow_add₀ (by norm_num), ← mul_assoc, e2]
        simp [dval]
      · simp only [hlt, if_false, Bool.or_eq_false_iff] at hs ⊢
        obtain ⟨h1, h3⟩ := hs
        refine ⟨by rw [← hst]; exact h1, fun h => by rw [hav] at h; contradiction, ?_⟩
        have e3 := exact_of _ _ h3
        rw [← hval]
        simp only [kval]
        push_cast
        rw [add_mul, e3]

theorem kexact (p : Pair) (vs : List (FV × Int)) (c0 : Curd) (hv : ∀ v ∈ vs, v.1.isFin = true) (h0 : c0.av = false → c0.acc = 0)
    (hs : (vs.foldl (fun c v => Curd.place p c v.1 v.2) c0).sticky = false) :
    c0.sticky = false ∧ kval p (vs.foldl (fun c v => Curd.place p c v.1 v.2) c0) = kval p c0 + (vs.map (fun v => dval v.1.dy)).sum := by
  induction vs generalizing c0 with
  | nil => exact ⟨hs, by simp⟩
  | cons v vs ih =>
    simp only [List.foldl_cons] at hs ⊢
    -- the register after the first contribution
    have hfirst : ∀ h : (Curd.place p c0 v.1 v.2).sticky = false, _ := fun h => place_exact p c0 v.1 v.2 (hv v List.mem_cons_self) h h0
    have hav : (Curd.place p c0 v.1 v.2).av = false → (Curd.place p c0 v.1 v.2).acc = 0 := by
      have hf := hv v List.mem_cons_self
      cases hv1 : v.1 with
      | nan => rw [hv1] at hf; simp [FV.isFin] at hf
      | inf s => rw [hv1] at hf; simp [FV.isFin] at hf
      | fin s m e =>
        by_cases hm : m = 0
        · subst hm; simpa [Curd.place] using h0
        · simp only [Curd.place, hm, if_false]
          intro h; exfalso; revert h
          split <;> (split <;> simp_all)
    obtain ⟨h1, h2⟩ := ih _ (fun w hw => hv w (List.mem_cons_of_mem _ hw)) hav hs
    obtain ⟨g1, g2, g3⟩ := hfirst h1
    exact ⟨g1, by rw [h2, g3]; simp; ring⟩

theorem mem_cellsOn (row col : W32) (i j : Nat) : (i, j) ∈ cellsOn row col ↔ i < 32 ∧ j < 32 ∧ (row.getLsbD i && col.getLsbD j) = true := by
  simp only [cellsOn, List.mem_flatMap, List.mem_range, Bool.and_eq_true]
  constructor
  · rintro ⟨a, ha, hm⟩
    split at hm
    · rename_i hr
      simp only [List.mem_filterMap, List.mem_range] at hm
      obtain ⟨b, hb, he⟩ := hm
      split at he
      · rename_i hc
        simp only [Option.some.injEq, Prod.mk.injEq] at he
        obtain ⟨rfl, rfl⟩ := he
        exact ⟨ha, hb, hr, hc⟩
      · simp at he
    · simp at hm
  · rintro ⟨h1, h2, h3, h4⟩
    refine ⟨i, h1, ?_⟩
    rw [if_pos h3]
    simp only [List.mem_filterMap, List.mem_range]
    exact ⟨j, h2, by rw [if_pos h4]⟩

theorem cellsOn_eq (row col : W32) : (cellsOn row col).map (fun e => 32 * e.1 + e.2) = (List.range 1024).filter (fun n => row.getLsbD (n / 32) && col.getLsbD (n % 32)) := by
  have h32 : ∀ i, i < 32 → ((if row.getLsbD i then (List.range 32).filterMap (fun j => if col.getLsbD j then some (i, j) else none) else []).map (fun e : Nat × Nat => 32 * e.1 + e.2))
     = ((List.range 32).map (fun j => 32 * i + j)).filter (fun n => row.getLsbD (n / 32) && col.getLsbD (n % 32)) := by
    intro i hi
    rw [List.filter_map]
    by_cases hr : row.getLsbD i = true
    · rw [if_pos hr, List.map_filterMap]
      rw [← List.filterMap_eq_map, ← List.filterMap_eq_filter, List.filterMap_filterMap]
      apply List.filterMap_congr
      intro j hj
      have hj := List.mem_range.1 hj
      have e1 : (32 * i + j) / 32 = i := by omega
      have e2 : (32 * i + j) % 32 = j := by omega
      have e3 : j % 32 = j := by omega
      cases hc : col.getLsbD j <;> simp [Option.guard, e1, e3, hr, hc]
    · rw [if_neg hr]
      symm
      simp only [List.map_nil, List.map_eq_nil_iff, List.filter_eq_nil_iff, List.mem_range]
      intro j hj
      have e1 : (32 * i + j) / 32 = i := by omega
      simp only [Function.comp_apply, e1]; simp [hr]
  have hr : List.range 1024 = (List.range 32).flatMap (fun i => (List.range 32).map (fun j => 32 * i + j)) := by
    have : ∀ m, List.range (32 * m) = (List.range m).flatMap (fun i => (List.range 32).map (fun j => 32 * i + j)) := by
      intro m
      induction m with
      | zero => rfl
      | succ m ih => rw [show 32 * (m + 1) = 32 * m + 32 by omega, List.range_add, ih, List.range_succ (n := m), List.flatMap_append]; simp
    exact this 32
  rw [hr, cellsOn, List.map_flatMap, List.filter_flatMap]
  apply List.flatMap_congr
  intro i hi
  exact h32 i (List.mem_range.1 hi)

theorem cells_nodup (row col : W32) : ((cellsOn row col).map (fun e => 32 * e.1 + e.2)).Nodup := by
  rw [cellsOn_eq]; exact List.Nodup.filter _ List.nodup_range

theorem cells_pw (row col : W32) : (cellsOn row col).Pairwise (fun a b => 32 * a.1 + a.2 ≠ 32 * b.1 + b.2) := by
  have := cells_nodup row col
  rw [List.Nodup, List.pairwise_map] at this; exact this

def CellsOk (cells : List (Nat × Nat)) : Prop := cells.Pairwise (fun a b => 32 * a.1 + a.2 ≠ 32 * b.1 + b.2) ∧ ∀ e ∈ cells, e.1 < 32 ∧ e.2 < 32

theorem cells_ok (row col : W32) : CellsOk (cellsOn row col) := ⟨cells_pw row col, fun e he => by
  have := (mem_cellsOn row col e.1 e.2).1 he; exact ⟨this.1, this.2.1⟩⟩

theorem CellsOk.tail {x : Nat × Nat} {l} (h : CellsOk (x :: l)) : CellsOk l := ⟨(List.pairwise_cons.1 h.1).2, fun e he => h.2 e (List.mem_cons_of_mem _ he)⟩

theorem curd_disj (t i j k l : Nat) (h1 : j < 32) (h2 : l < 32) (h : 32 * i + j ≠ 32 * k + l) :
    curdAddr t i j + 16 ≤ curdAddr t k l ∨ curdAddr t k l + 16 ≤ curdAddr t i j := by unfold curdAddr; omega

theorem carry_disj (t i j k l : Nat) (h1 : j < 32) (h2 : l < 32) (h : 32 * i + j ≠ 32 * k + l) :
    carryAddr t i j + 4 ≤ carryAddr t k l ∨ carryAddr t k l + 4 ≤ carryAddr t i j := by unfold carryAddr; omega

theorem curd_carry (t i j k l : Nat) (h0 : i < 32) (h1 : j < 32) (h2 : l < 32) :
    curdAddr t i j + 16 ≤ carryAddr t k l := by unfold carryAddr curdAddr; omega

/-- a fold over cells whose step writes curd of that cell computed from the cell's old curd -/

theorem fold_curd (t : Nat) (F : Nat × Nat → Curd → Curd) (cells : List (Nat × Nat)) (hc : CellsOk cells) (c : CoreRegs) :
    cells.foldl (fun c ij => c.setCurd t ij.1 ij.2 (F ij (c.curd t ij.1 ij.2))) c =
      { c with am := Mem.wrAll c.am (cells.map (fun ij => (curdAddr t ij.1 ij.2, 16, (F ij (c.curd t ij.1 ij.2)).toNat))) } := by
  induction cells generalizing c with
  | nil => rfl
  | cons x l ih =>
    simp only [List.foldl_cons]
    rw [ih hc.tail]
    have e : ∀ ij ∈ l, (c.setCurd t x.1 x.2 (F x (c.curd t x.1 x.2))).curd t ij.1 ij.2 = c.curd t ij.1 ij.2 := by
      intro ij hij
      have hne := (List.pairwise_cons.1 hc.1).1 ij hij
      have h1 := hc.2 x List.mem_cons_self
      have h2 := hc.2 ij (List.mem_cons_of_mem _ hij)
      simp only [CoreRegs.curd, CoreRegs.setCurd]
      refine congrArg Curd.ofNat (Mem.rdLE_congr _ _ _ _ (fun a ha hb => Mem.rd_wrLE_out _ _ _ _ _ ?_))
      have := curd_disj t x.1 x.2 ij.1 ij.2 h1.2 h2.2 hne
      omega
    have e2 : l.map (fun ij => (curdAddr t ij.1 ij.2, 16, (F ij ((c.setCurd t x.1 x.2 (F x (c.curd t x.1 x.2))).curd t ij.1 ij.2)).toNat)) =
        l.map (fun ij => (curdAddr t ij.1 ij.2, 16, (F ij (c.curd t ij.1 ij.2)).toNat)) := by
      apply List.map_congr_left; intro ij hij; rw [e ij hij]
    rw [e2, List.map_cons, Mem.wrAll_cons]; rfl

theorem curd_pw (t : Nat) (g : Nat × Nat → Nat) (cells : List (Nat × Nat)) (hc : CellsOk cells) :
    (cells.map (fun ij => (curdAddr t ij.1 ij.2, 16, g ij))).Pairwise (fun v w => v.1 + v.2.1 ≤ w.1 ∨ w.1 + w.2.1 ≤ v.1) := by
  rw [List.pairwise_map]
  refine List.Pairwise.imp_of_mem ?_ hc.1
  intro a b ha hb hab
  exact curd_disj t _ _ _ _ (hc.2 a ha).2 (hc.2 b hb).2 hab

theorem setc_fold (t : Nat) (G : Nat × Nat → W32) (cells : List (Nat × Nat)) (c : CoreRegs) :
    cells.foldl (fun c ij => c.setCarry t ij.1 ij.2 (G ij)) c =
      { c with am := Mem.wrAll c.am (cells.map (fun ij => (carryAddr t ij.1 ij.2, 4, (G ij).toNat))) } := by
  induction cells generalizing c with
  | nil => rfl
  | cons x l ih => simp only [List.foldl_cons]; rw [ih, List.map_cons, Mem.wrAll_cons]; rfl

theorem carry_pw (t : Nat) (g : Nat × Nat → Nat) (cells : List (Nat × Nat)) (hc : CellsOk cells) :
    (cells.map (fun ij => (carryAddr t ij.1 ij.2, 4, g ij))).Pairwise (fun v w => v.1 + v.2.1 ≤ w.1 ∨ w.1 + w.2.1 ≤ v.1) := by
  rw [List.pairwise_map]
  refine List.Pairwise.imp_of_mem ?_ hc.1
  intro a b ha hb hab
  exact carry_disj t _ _ _ _ (hc.2 a ha).2 (hc.2 b hb).2 hab

/-- both writes of a cell -/

def both (t : Nat) (A : Nat × Nat → Nat) (B : Nat × Nat → Nat) (ij : Nat × Nat) : List (Nat × Nat × Nat) :=
  [(carryAddr t ij.1 ij.2, 4, A ij), (curdAddr t ij.1 ij.2, 16, B ij)]

theorem both_pw (t : Nat) (A B : Nat × Nat → Nat) (cells : List (Nat × Nat)) (hc : CellsOk cells) :
    (cells.flatMap (both t A B)).Pairwise (fun v w => v.1 + v.2.1 ≤ w.1 ∨ w.1 + w.2.1 ≤ v.1) := by
  rw [List.pairwise_flatMap]
  refine ⟨fun x hx => ?_, ?_⟩
  · have h1 := hc.2 x hx
    have := curd_carry t x.1 x.2 x.1 x.2 h1.1 h1.2 h1.2
    simp only [both, List.pairwise_cons, List.mem_singleton, forall_eq, List.not_mem_nil, false_implies, implies_true, List.Pairwise.nil, and_true]
    omega
  · refine List.Pairwise.imp_of_mem ?_ hc.1
    intro a b ha hb hab x hx y hy
    have h1 := hc.2 a ha; have h2 := hc.2 b hb
    have d1 := curd_disj t a.1 a.2 b.1 b.2 h1.2 h2.2 hab
    have d2 := carry_disj t a.1 a.2 b.1 b.2 h1.2 h2.2 hab
    have d3 := curd_carry t a.1 a.2 b.1 b.2 h1.1 h1.2 h2.2
    have d4 := curd_carry t b.1 b.2 a.1 a.2 h2.1 h2.2 h1.2
    simp only [both, List.mem_cons, List.not_mem_nil, or_false] at hx hy
    rcases hx with rfl | rfl <;> rcases hy with rfl | rfl <;> simp only <;> omega

theorem both_read (t : Nat) (A B : Nat × Nat → Nat) (cells : List (Nat × Nat)) (hc : CellsOk cells) (m : Mem) (ij : Nat × Nat) (h : ij ∈ cells) :
    Mem.rdLE (Mem.wrAll m (cells.flatMap (both t A B))) (carryAddr t ij.1 ij.2) 4 = A ij % 2 ^ 32 ∧
    Mem.rdLE (Mem.wrAll m (cells.flatMap (both t A B))) (curdAddr t ij.1 ij.2) 16 = B ij % 2 ^ 128 := by
  constructor
  · exact Mem.rdLE_wrAll m _ (both_pw t A B cells hc) (carryAddr t ij.1 ij.2, 4, A ij) (List.mem_flatMap.2 ⟨ij, h, by simp [both]⟩)
  · exact Mem.rdLE_wrAll m _ (both_pw t A B cells hc) (curdAddr t ij.1 ij.2, 16, B ij) (List.mem_flatMap.2 ⟨ij, h, by simp [both]⟩)

theorem both_out (t : Nat) (A B : Nat × Nat → Nat) (cells : List (Nat × Nat)) (m : Mem) (x : Nat)
    (h : ∀ ij ∈ cells, (x < curdAddr t ij.1 ij.2 ∨ curdAddr t ij.1 ij.2 + 16 ≤ x) ∧ (x < carryAddr t ij.1 ij.2 ∨ carryAddr t ij.1 ij.2 + 4 ≤ x)) :
    Mem.rd (Mem.wrAll m (cells.flatMap (both t A B))) x = Mem.rd m x := by
  apply Mem.rd_wrAll_out
  intro w hw
  obtain ⟨ij, hij, hw⟩ := List.mem_flatMap.1 hw
  simp only [both, List.mem_cons, List.not_mem_nil, or_false] at hw
  have := h ij hij
  rcases hw with rfl | rfl
  · exact this.2
  · exact this.1

def wheyPut (G : Nat × Nat → W32) (l : List (Nat × Nat)) (w : AMap W32) : AMap W32 := l.foldl (fun w ij => AMap.insert w (32 * ij.1 + ij.2) (G ij)) w

theorem wheyPut_out (G) (l : List (Nat × Nat)) (w : AMap W32) (k : Nat) (h : ∀ e ∈ l, 32 * e.1 + e.2 ≠ k) :
    AMap.getD (wheyPut G l w) 0 k = AMap.getD w 0 k := by
  induction l generalizing w with
  | nil => rfl
  | cons x l ih =>
    show AMap.getD (wheyPut G l _) 0 k = _
    rw [ih _ (fun e he => h e (List.mem_cons_of_mem _ he)), AMap.getD_insert_ne _ _ _ (Ne.symm (h x List.mem_cons_self))]

theorem wheyPut_in (G) (l : List (Nat × Nat)) (hl : CellsOk l) (w : AMap W32) (e : Nat × Nat) (he : e ∈ l) :
    AMap.getD (wheyPut G l w) 0 (32 * e.1 + e.2) = G e := by
  induction l generalizing w with
  | nil => simp at he
  | cons x l ih =>
    show AMap.getD (wheyPut G l _) 0 _ = _
    rcases List.mem_cons.1 he with rfl | h
    · rw [wheyPut_out G l _ _ (fun u hu => Ne.symm ((List.pairwise_cons.1 hl.1).1 u hu)), AMap.getD_insert_self]
    · exact ih hl.tail _ h

abbrev foldRes (c : CoreRegs) (t : Nat) (init join : Bool) (ij : Nat × Nat) : W32 × Bool :=
  (c.curd t ij.1 ij.2).fold (c.carry t ij.1 ij.2) (if join then some (c.wheySum ij.1 ij.2) else none) init

theorem foldCell_am (t : Nat) (init join : Bool) (c : CoreRegs) (i j : Nat) : (foldCell t init join c i j).1.am =
    Mem.wrLE (Mem.wrLE c.am (carryAddr t i j) 4 (foldRes c t init join (i, j)).1.toNat) (curdAddr t i j) 16 Curd.clear.toNat := by
  unfold foldCell
  cases join <;> simp only [CoreRegs.setWhey, CoreRegs.setCurd, CoreRegs.setCarry, foldRes, if_true, Bool.false_eq_true, if_false]

theorem foldCell_whey (t : Nat) (init join : Bool) (c : CoreRegs) (i j : Nat) : (foldCell t init join c i j).1.whey =
    if join then AMap.insert c.whey (32 * i + j) 0 else c.whey := by
  unfold foldCell
  cases join <;> simp only [CoreRegs.setWhey, CoreRegs.setCurd, CoreRegs.setCarry, foldRes, if_true, Bool.false_eq_true, if_false]

theorem foldCell_rest (t : Nat) (init join : Bool) (c : CoreRegs) (i j : Nat) : (foldCell t init join c i j).1 =
    { c with am := (foldCell t init join c i j).1.am, whey := (foldCell t init join c i j).1.whey } := by
  unfold foldCell
  cases join <;> simp only [CoreRegs.setWhey, CoreRegs.setCurd, CoreRegs.setCarry, if_true, Bool.false_eq_true, if_false]

theorem fold_cells (t : Nat) (init join : Bool) (cells : List (Nat × Nat)) (hc : CellsOk cells) (c : CoreRegs) (n m : Nat) :
    cells.foldl (fun r ij =>
        let q := foldCell t init join r.1 ij.1 ij.2
        (q.1, r.2.1 + q.2.1, r.2.2 + q.2.2)) (c, n, m) =
    ({ c with am := Mem.wrAll c.am (cells.flatMap (both t (fun ij => (foldRes c t init join ij).1.toNat) (fun _ => Curd.clear.toNat))),
              whey := if join then wheyPut (fun _ => 0) cells c.whey else c.whey },
      n + (cells.filter (fun ij => (c.curd t ij.1 ij.2).sticky)).length, m + (cells.filter (fun ij => (foldRes c t init join ij).2)).length) := by
  induction cells generalizing c n m with
  | nil => cases join <;> simp [wheyPut, Mem.wrAll]
  | cons x l ih =>
    simp only [List.foldl_cons]
    rw [ih hc.tail]
    have h1 := hc.2 x List.mem_cons_self
    have hcurd : ∀ ij ∈ l, (foldCell t init join c x.1 x.2).1.curd t ij.1 ij.2 = c.curd t ij.1 ij.2 := by
      intro ij hij
      have hne := (List.pairwise_cons.1 hc.1).1 ij hij
      have h2 := hc.2 ij (List.mem_cons_of_mem _ hij)
      have d1 := curd_disj t x.1 x.2 ij.1 ij.2 h1.2 h2.2 hne
      have d3 := curd_carry t ij.1 ij.2 x.1 x.2 h2.1 h2.2 h1.2
      have : ∀ y : CoreRegs, y.am = Mem.wrLE (Mem.wrLE c.am (carryAddr t x.1 x.2) 4 (foldRes c t init join x).1.toNat) (curdAddr t x.1 x.2) 16 Curd.clear.toNat →
          y.curd t ij.1 ij.2 = c.curd t ij.1 ij.2 := by
        intro y hy
        simp only [CoreRegs.curd, hy]
        refine congrArg Curd.ofNat (Mem.rdLE_congr _ _ _ _ (fun a ha hb => ?_))
        rw [Mem.rd_wrLE_out _ _ _ _ _ (by omega), Mem.rd_wrLE_out _ _ _ _ _ (by omega)]
      exact this _ (foldCell_am t init join c x.1 x.2)
    have hcarry : ∀ ij ∈ l, (foldCell t init join c x.1 x.2).1.carry t ij.1 ij.2 = c.carry t ij.1 ij.2 := by
      intro ij hij
      have hne := (List.pairwise_cons.1 hc.1).1 ij hij
      have h2 := hc.2 ij (List.mem_cons_of_mem _ hij)
      have d1 := carry_disj t x.1 x.2 ij.1 ij.2 h1.2 h2.2 hne
      have d3 := curd_carry t x.1 x.2 ij.1 ij.2 h1.1 h1.2 h2.2
      have : ∀ y : CoreRegs, y.am = Mem.wrLE (Mem.wrLE c.am (carryAddr t x.1 x.2) 4 (foldRes c t init join x).1.toNat) (curdAddr t x.1 x.2) 16 Curd.clear.toNat →
          y.carry t ij.1 ij.2 = c.carry t ij.1 ij.2 := by
        intro y hy
        simp only [CoreRegs.carry, hy]
        refine congrArg (BitVec.ofNat 32) (Mem.rdLE_congr _ _ _ _ (fun a ha hb => ?_))
        rw [Mem.rd_wrLE_out _ _ _ _ _ (by omega), Mem.rd_wrLE_out _ _ _ _ _ (by omega)]
      exact this _ (foldCell_am t init join c x.1 x.2)
    have hwhey : ∀ ij ∈ l, (foldCell t init join c x.1 x.2).1.wheySum ij.1 ij.2 = c.wheySum ij.1 ij.2 := by
      intro ij hij
      have hne := (List.pairwise_cons.1 hc.1).1 ij hij
      simp only [CoreRegs.wheySum, foldCell_whey]
      split
      · exact AMap.getD_insert_ne _ _ _ (Ne.symm hne)
      · rfl
    have hres : ∀ ij ∈ l, foldRes (foldCell t init join c x.1 x.2).1 t init join ij = foldRes c t init join ij := by
      intro ij hij; simp only [foldRes, hcurd ij hij, hcarry ij hij, hwhey ij hij]
    have e1 : l.flatMap (both t (fun ij => (foldRes (foldCell t init join c x.1 x.2).1 t init join ij).1.toNat) (fun _ => Curd.clear.toNat)) =
        l.flatMap (both t (fun ij => (foldRes c t init join ij).1.toNat) (fun _ => Curd.clear.toNat)) := by
      apply List.flatMap_congr; intro ij hij; simp only [both, hres ij hij]
    have e2 : l.filter (fun ij => ((foldCell t init join c x.1 x.2).1.curd t ij.1 ij.2).sticky) = l.filter (fun ij => (c.curd t ij.1 ij.2).sticky) := by
      apply List.filter_congr; intro ij hij; rw [hcurd ij hij]
    have e3 : l.filter (fun ij => (foldRes (foldCell t init join c x.1 x.2).1 t init join ij).2) = l.filter (fun ij => (foldRes c t init join ij).2) := by
      apply List.filter_congr; intro ij hij; rw [hres ij hij]
    rw [e1, e2, e3]
    refine Prod.ext ?_ (Prod.ext ?_ ?_)
    · show CoreRegs.mk .. = CoreRegs.mk ..
      have ham := foldCell_am t init join c x.1 x.2
      have hwm := foldCell_whey t init join c x.1 x.2
      have hrest := foldCell_rest t init join c x.1 x.2
      rw [List.flatMap_cons, both, List.cons_append, List.cons_append, List.nil_append, Mem.wrAll_cons, Mem.wrAll_cons]
      rw [hrest]
      simp only [ham, hwm]
      cases join <;> rfl
    · show n + (foldCell t init join c x.1 x.2).2.1 + _ = _
      rw [List.filter_cons]
      show n + b2n (c.curd t x.1 x.2).sticky + _ = _
      cases (c.curd t x.1 x.2).sticky <;> simp [b2n]; omega
    · show m + b2n (foldRes c t init join x).2 + (l.filter (fun ij => (foldRes c t init join ij).2)).length =
        m + ((x :: l).filter (fun ij => (foldRes c t init join ij).2)).length
      by_cases hx : (foldRes c t init join x).2 = true
      · rw [List.filter_cons_of_pos (p := fun ij => (foldRes c t init join ij).2) hx, hx, List.length_cons]; simp only [b2n, if_true]; omega
      · rw [List.filter_cons_of_neg (p := fun ij => (foldRes c t init join ij).2) hx]; simp only [Bool.not_eq_true] at hx; rw [hx]; rfl

theorem curd_clear_read : Curd.ofNat (Curd.clear.toNat % 2 ^ 128) = Curd.clear := by decide

end Sys2Proof.Machine.Cells
end

