-- ==== Sys2Proof/Laws/Channels.lean ====
section
/-! SUPPORT. Channels and stack words after an operation on one of them. -/
namespace Sys2Proof.Machine.Channels

theorem getD_map {α : Type} (m : AMap α) (f : α → α) (d : α) (hd : f d = d) (k : Nat) : AMap.getD (m.map (fun e => (e.1, f e.2))) d k = f (AMap.getD m d k) := by
  unfold AMap.getD; rw [AMap.find_map]; cases AMap.find? m k with
  | none => exact hd.symm
  | some v => rfl

theorem fold_best {α : Type} (f : Option α → α → Option α) (better : α → α → Bool) (hn : ∀ c, f none c = some c)
    (hs : ∀ d c, f (some d) c = if better c d = true then some c else some d)
    (htr : ∀ a b c, better a b = true → better b c = true → better a c = true) 
    (l : List α) (seen : List α) (m : Option α) (hm : ∀ c, m = some c → ∀ d ∈ seen, better d c = false) (h0 : m = none → seen = [])
    (hir : ∀ a, better a a = false)
    (r : α) (hr : l.foldl f m = some r) : ∀ d ∈ seen ++ l, better d r = false := by
  induction l generalizing seen m with
  | nil => rw [List.append_nil]; exact hm r hr
  | cons a l ih =>
    rw [List.foldl_cons] at hr
    have := ih (seen ++ [a]) (f m a) ?_ ?_ hr
    · simpa using this
    · cases m with
      | none =>
        rw [hn, h0 rfl]; intro c hc d hd; cases hc
        simp only [List.nil_append, List.mem_singleton] at hd; rw [hd]; exact hir _
      | some e =>
        rw [hs]
        intro c hc d hd
        rw [List.mem_append, List.mem_singleton] at hd
        split at hc
        · rename_i hb
          cases hc
          rcases hd with hd | rfl
          · cases hx : better d a with
            | false => rfl
            | true => have := htr _ _ _ hx hb; rw [hm e rfl d hd] at this; cases this
          · exact hir _
        · rename_i hb
          cases hc
          rcases hd with hd | rfl
          · exact hm _ rfl d hd
          · simpa using hb
    · cases m with
      | none => rw [hn]; intro h; cases h
      | some e => rw [hs]; split <;> (intro h; cases h)

theorem touch_mem (s : State) (a b w : Nat) : (s.touch a b w).1.mem.slots = s.mem.slots ∧ (s.touch a b w).1.mem.vacated = s.mem.vacated ∧ (s.touch a b w).1.mem.mapout = s.mem.mapout := by
  unfold State.touch; split
  · exact ⟨rfl, rfl, rfl⟩
  · dsimp only; split <;> exact ⟨rfl, rfl, rfl⟩

theorem slice_case (s : State) (m : MapOut) (hm : s.mem.mapout = some m) (k : Nat) (e : SlotEnt) (h1 : m.step = 2) (h2 : s.sliceOn m.chan = some k) (h3 : s.freeSlotBut m.chan = some e) :
        ∃ t n st, exec .sliceMove s = .next t ∧ t.mem.slots = AMap.insert s.mem.slots k e ∧ t.mem.vacated = s.mem.vacated ∧
          t.mem.mapout = some { m with step := st, slices := m.slices + 1, ueMoved := m.ueMoved + n } ∧
          (∀ b l, 512 * b + l ≠ k → t.slotOf b l = s.slotOf b l) ∧ (∀ b l, 512 * b + l = k → l < 512 - s.mem.vacated → t.slotOf b l = some e) ∧
          (st = 3 ↔ t.sliceOn m.chan = none) ∧ (st = 2 ↔ t.sliceOn m.chan ≠ none) ∧
          ((∀ w ∈ s.mem.flips.map (·.1), 512 * bucketOf (8 * w) + levelOf (8 * w) ≠ k) →
            n = 0 ∧ t.mem.stack = s.mem.stack ∧ t.mem.flips = s.mem.flips ∧ t.flt = s.flt) := by
  have e0 : exec .sliceMove s = execSliceMove s := rfl
  rw [e0]; unfold execSliceMove; rw [hm]; dsimp only; rw [if_neg (by omega), h2, h3]
  have hk : (s.readSlice k).1.mem.slots = s.mem.slots ∧ (s.readSlice k).1.mem.vacated = s.mem.vacated := by
    unfold State.readSlice
    generalize (s.mem.flips.map (·.1)).filter (fun w => decide (512 * bucketOf (8 * w) + levelOf (8 * w) = k)) = ws
    have : ∀ (l : List Nat) (q : State × Nat), ((l.foldl (fun (r : State × Nat) w => let t := r.1.touch 0 0xFFFF w; (t.1, r.2 + b2n (!t.2))) q).1.mem.slots = q.1.mem.slots ∧
       (l.foldl (fun (r : State × Nat) w => let t := r.1.touch 0 0xFFFF w; (t.1, r.2 + b2n (!t.2))) q).1.mem.vacated = q.1.mem.vacated) := by
      intro l
      induction l with
      | nil => intro q; exact ⟨rfl, rfl⟩
      | cons a l ih =>
        intro q
        have h := ih ((q.1.touch 0 0xFFFF a).1, q.2 + b2n (!(q.1.touch 0 0xFFFF a).2))
        have h' := touch_mem q.1 0 0xFFFF a
        exact ⟨h.1.trans h'.1, h.2.trans h'.2.1⟩
    exact this ws (s, 0)
  have hz : (∀ w ∈ s.mem.flips.map (·.1), 512 * bucketOf (8 * w) + levelOf (8 * w) ≠ k) → s.readSlice k = (s, 0) := by
    intro h
    unfold State.readSlice
    have : (s.mem.flips.map (·.1)).filter (fun w => decide (512 * bucketOf (8 * w) + levelOf (8 * w) = k)) = [] := by
      rw [List.filter_eq_nil_iff]; intro w hw; simpa using h w hw
    rw [this]; rfl
  dsimp only
  generalize s.readSlice k = r at hk hz ⊢
  refine ⟨_, r.2, (if ((({ r.1 with mem := { r.1.mem with slots := AMap.insert r.1.mem.slots k e } } : State)).sliceOn m.chan).isNone then 3 else 2), rfl, ?_, hk.2, rfl, ?_, ?_, ?_, ?_, ?_⟩
  · change AMap.insert r.1.mem.slots k e = _; rw [hk.1]
  · intro b l hb
    unfold State.slotOf
    change (if 512 - r.1.mem.vacated ≤ l then none else match AMap.find? (AMap.insert r.1.mem.slots k e) (512 * b + l) with | some e => some e | none => some (defaultSlot b l)) = _
    rw [hk.1, hk.2, AMap.find_insert_ne _ _ hb] <;> rfl
  · intro b l hb hl
    unfold State.slotOf
    change (if 512 - r.1.mem.vacated ≤ l then none else match AMap.find? (AMap.insert r.1.mem.slots k e) (512 * b + l) with | some e => some e | none => some (defaultSlot b l)) = _
    rw [hk.1, hk.2, hb, AMap.find_insert_self, if_neg (by omega)]
  · change _ ↔ (({ r.1 with mem := { r.1.mem with slots := AMap.insert r.1.mem.slots k e } } : State)).sliceOn m.chan = none
    generalize (({ r.1 with mem := { r.1.mem with slots := AMap.insert r.1.mem.slots k e } } : State)).sliceOn m.chan = x
    cases x <;> simp
  · change _ ↔ (({ r.1 with mem := { r.1.mem with slots := AMap.insert r.1.mem.slots k e } } : State)).sliceOn m.chan ≠ none
    generalize (({ r.1 with mem := { r.1.mem with slots := AMap.insert r.1.mem.slots k e } } : State)).sliceOn m.chan = x
    cases x <;> simp
  · intro h; rw [hz h]; exact ⟨rfl, rfl, rfl, rfl⟩

end Sys2Proof.Machine.Channels
end

