-- ==== Sys2Proof/Laws/Copies.lean ====
section
/-! SUPPORT. What stream copies leave alone. -/
namespace Sys2Proof.Machine.Copies

theorem five (A : Prop) (x y z : Bool) (n k : Nat) : (¬A ∨ !x ∨ y ∨ n ≤ k ∨ !z) ↔ ¬(A ∧ x = true ∧ y = false ∧ k < n ∧ z = true) := by
  by_cases A <;> by_cases h : k < n <;> cases x <;> cases y <;> cases z <;> simp_all

theorem writeTiles_frame (s : State) (c : CourtRec) (p : Plan) (k : Nat) (bs : List Byte) :
    s.writeTiles c p k bs = { s with cores := (s.writeTiles c p k bs).cores } := by
  unfold State.writeTiles
  generalize s.tilePlaces c p k = l
  induction l generalizing s bs with
  | nil => rfl
  | cons a l ih =>
    rw [List.foldl_cons]
    refine (ih _ _).trans ?_
    dsimp only
    split <;> rfl

theorem releaseObj_seqs (s : State) (b : Nat) : (s.releaseObj b).sch.seqs = s.sch.seqs := by
  unfold State.releaseObj
  split
  · rfl
  · rw [State.dropObj_frame]
    unfold State.answerFreed; split
    · rfl
    · split
      · rfl
      · rw [State.answer_frame]

theorem drop_seq (s : State) (i : Nat) (x : Seq) (h : (s.dropStream i).seq i = some x) : x.stream.image = none ∧ x.stream.bench = none := by
  unfold State.dropStream at h
  dsimp only at h
  generalize s.endBranches i = s at h
  split at h
  · rename_i h0; rw [h0] at h; cases h
  · rename_i q h0
    have key : ∀ u : State, u.sch.seqs = AMap.insert s.sch.seqs i { q with stream := { q.stream with slot := none, bench := none, image := none } } → u.seq i = some x → x.stream.image = none ∧ x.stream.bench = none := by
      intro u hu hx; rw [State.seq, hu, AMap.find_insert_self] at hx; cases hx; exact ⟨rfl, rfl⟩
    have freed : ∀ u : State, ∀ b, u.sch.seqs = AMap.insert s.sch.seqs i { q with stream := { q.stream with slot := none, bench := none, image := none } } → (u.freeBench b).seq i = some x → x.stream.image = none ∧ x.stream.bench = none := by
      intro u b hu hx
      unfold State.freeBench at hx
      rw [State.seq, releaseObj_seqs] at hx
      dsimp only at hx
      rw [AMap.find_map u.sch.seqs (fun q => if q.branchImg = some b then { q with branchImg := none } else q), hu, AMap.find_insert_self] at hx
      cases hx
      dsimp only
      split <;> exact ⟨rfl, rfl⟩
    split at h
    · unfold State.dropHolder at h; split at h
      · exact key _ rfl h
      · dsimp only at h; split at h
        · exact freed _ _ rfl h
        · exact key _ rfl h
    · exact key _ rfl h

theorem inst_seq (s : State) (i k : Nat) (b : Playbook) (tiles : List Byte) (num : W64) (q' : Seq) (h' : (s.installStream i k b tiles num).seq i = some q') :
    q'.stream.st = .resident ∧ q'.stream.slot = some k ∧ q'.stream.seqNo = num ∧ q'.stateSeq = num ∧ q'.runs = 0 ∧ q'.stream.image = none ∧ q'.stream.bench = none := by
  unfold State.installStream State.seq State.modSeq at h'
  dsimp only at h'
  rw [AMap.find_adjust, if_pos rfl] at h'
  rw [show AMap.find? ((State.writeTiles _ _ _ _ _).sch.seqs) i = _ from by rw [writeTiles_frame]] at h'
  cases h1 : (s.dropStream i).seq i with
  | none => rw [State.seq] at h1; rw [h1] at h'; cases h'
  | some x =>
    have h2 := drop_seq _ _ _ h1
    rw [State.seq] at h1; rw [h1] at h'; cases h'
    exact ⟨rfl, rfl, rfl, rfl, rfl, h2⟩

end Sys2Proof.Machine.Copies
end

