-- ==== Sys2Proof/Laws/Emits.lean ====
section
/-! SUPPORT. What a flit sent leaves alone of the ring. -/
namespace Sys2Proof.Machine.Emits

theorem emit_ring (s : State) (d : Bool) (f : Flit) : (s.emit d f).ring.member = s.ring.member ∧ (s.emit d f).ring.position = s.ring.position ∧ (s.emit d f).ring.joining = s.ring.joining ∧ (s.emit d f).ring.members = s.ring.members := by
  unfold State.emit; dsimp only; split
  · exact ⟨rfl, rfl, rfl, rfl⟩
  · unfold State.pushFlit State.countFlits; generalize (s.link _).push _ = r
    dsimp only; split <;> exact ⟨rfl, rfl, rfl, rfl⟩

theorem rev_ring (s : State) (a b c : Nat) : (s.ringEvent a b c).ring = s.ring := rfl

theorem ans_ring (s : State) (r : Req) (c : Code) (l : List Byte) : (s.answer r c l).ring = s.ring := rfl

end Sys2Proof.Machine.Emits
end

