-- ==== Sys2Proof/Laws/Events.lean ====
section
/-! SUPPORT. What the monitor and table events leave alone. -/
namespace Sys2Proof.Machine.Events

theorem fold_eq {α β γ : Type} (g : β → γ) (f : β → α → β) (h : ∀ b a, g (f b a) = g b) (l : List α) (b : β) : g (l.foldl f b) = g b := by
  induction l generalizing b with
  | nil => rfl
  | cons a l ih => rw [List.foldl_cons, ih, h]

theorem fbEvent_frame (s : State) (court reason layer : Nat) (mode : Bool) (rate th : Nat) : InUmp s (s.fbEvent court reason layer mode rate th) := by
  unfold State.fbEvent
  extract_lets body ms s1
  refine InUmp.trans _ s1 _ ?_ (State.eventMgmt_frame _ _ _ _)
  exact foldl_rel InUmp (fun _ => rfl) InUmp.trans _ (fun s m => s.event_frame m 0x0222 0xFFFF body) _ _

theorem tabAnswer_frame (s : State) (court slot : Nat) : s.tabAnswer court slot = { s with ump := (s.tabAnswer court slot).ump, book := (s.tabAnswer court slot).book } := by
  unfold State.tabAnswer; dsimp only; split
  · rfl
  · split <;> rfl

theorem books_bench (s : State) (ctx : Nat) (img : List Byte) (q : W64) (r : State × Nat) (h : s.makeBench ctx img q = some r) : r.1.book = s.book := by
  unfold State.makeBench at h
  extract_lets quota at h
  split at h
  · cases h
  · unfold benchMade at h
    split at h
    · cases h
    · cases h
      have h1 := s.createObj_frame (some ctx) .bench img.length 0 0
      generalize s.createObj (some ctx) .bench img.length 0 0 = x at h1
      have h2 := x.1.objWrite_frame (umpAccess ctx) x.2.2 img
      dsimp only
      rw [State.chargeBytes_frame]
      dsimp only
      rw [h2, h1]

theorem books_carry (s t : State) (i new : Nat) (q : Seq) (p : Plan) (c : CourtRec) (tiles : List Byte) (ht : s.carryOver i new q p c tiles = some t) : t.book = s.book := by
  unfold State.carryOver at ht
  split at ht
  · cases ht
    change (s.writeTiles _ _ _ _).book = _
    unfold State.writeTiles
    exact fold_eq (fun r : State × List Byte => r.1.book) _ (fun b a => by dsimp only; split <;> rfl) _ _
  · split at ht
    · cases ht; rfl
    cases h : s.makeBench q.ctx (p.image q.stream.seqNo new q.gen false tiles) q.stream.seqNo with
    | none => rw [h] at ht; cases ht
    | some r =>
      rw [h] at ht; cases ht
      change (r.1.addHolder r.2).book = _
      exact books_bench _ _ _ _ r h

end Sys2Proof.Machine.Events
end

