-- ==== Sys2Proof/Laws/Fields.lean ====
section
/-! SUPPORT. Bit fields of a register written one after another, and the lanes a mask enables. -/
namespace Sys2Proof.Machine.Fields

theorem vw_ok {s : State} {b : Slot} {p : Nat} {c : Core} {i : Instr} {f : CoreRegs → CoreRegs → SlotRes} {col : W32} {vd : BitVec 6} {ty : VTy} {g : Nat → Nat}
    (he : exec i s = .next (slotOp b f s)) (h : s.Issues b p c) (g' : Nat → Nat)
    (hf : f c.pre c.now = .ok (c.now.vw vd (mapElems ty col (c.now.vr vd) g')))
    (hg : ∀ k, k < elemCount ty → g' k % 2 ^ elemWidth ty = g k % 2 ^ elemWidth ty) : VectorWrites i s p c col vd ty g := by
  refine exec_ok he _ h hf (fun t ht hc => ?_)
  rw [hc]
  refine ⟨ht, CoreRegs.vw_frame _ _ _, fun r hr => ?_, fun k hk => ?_⟩
  · exact (CoreRegs.vr_vw _ _ _ _).trans (if_neg hr)
  · rw [show (⟨c.now.vw vd (mapElems ty col (c.now.vr vd) g'), c.pre⟩ : Core).now = c.now.vw vd (mapElems ty col (c.now.vr vd) g') from rfl,
      CoreRegs.vr_vw, if_pos rfl, elemAt_mapElems _ _ _ _ _ hk, hg k hk]

theorem mapLanes_eq (col : W32) (old : VReg) (g : Nat → W32) : mapLanes col old g = mapElems .int32 col old (fun k => (g k).toNat) := by
  simp [mapLanes, mapElems, VTy.is16]

theorem sign_add (ty : VTy) (x : Nat) (h : x < 2 ^ elemWidth ty) (h2 : ty ≠ .int32) :
   (if signBit ty ≤ x then x - signBit ty else x + signBit ty) % 2 ^ elemWidth ty = (if ty = .fp32 then x + 2 ^ 31 else x + 2 ^ 15) % 2 ^ elemWidth ty := by
  cases ty <;> simp_all [elemWidth, signBit, VTy.is16] <;> split <;> omega

theorem lanesOn_0 (col : W32) : lanesOn col 0 128 = (List.range 128).filter (laneOn col) := by simp [lanesOn]

theorem setBits_eq (A m B lo w x : Nat) (hA : A < 2 ^ lo) (hm : m < 2 ^ w) :
    setBits (A + 2 ^ lo * (m + 2 ^ w * B)) lo w x = A + 2 ^ lo * (x % 2 ^ w + 2 ^ w * B) := by
  unfold setBits
  have e : (A + 2 ^ lo * (m + 2 ^ w * B)) / 2 ^ lo % 2 ^ w = m := by
    rw [Nat.add_mul_div_left _ _ (by positivity), Nat.div_eq_of_lt hA, Nat.zero_add, Nat.add_mul_mod_self_left, Nat.mod_eq_of_lt hm]
  rw [e]
  have : A + 2 ^ lo * (m + 2 ^ w * B) - m * 2 ^ lo = A + 2 ^ lo * (2 ^ w * B) := by
    rw [Nat.mul_add]; rw [Nat.mul_comm m]; omega
  rw [this]; ring

theorem split3 (v lo w : Nat) : ∃ A m B, v = A + 2 ^ lo * (m + 2 ^ w * B) ∧ A < 2 ^ lo ∧ m < 2 ^ w :=
  ⟨v % 2 ^ lo, v / 2 ^ lo % 2 ^ w, v / 2 ^ lo / 2 ^ w, by rw [Nat.mod_add_div, Nat.mod_add_div], Nat.mod_lt _ (by positivity), Nat.mod_lt _ (by positivity)⟩

theorem setBits_self (v lo w x : Nat) : setBits v lo w x / 2 ^ lo % 2 ^ w = x % 2 ^ w := by
  obtain ⟨A, m, B, rfl, hA, hm⟩ := split3 v lo w
  rw [setBits_eq _ _ _ _ _ _ hA hm, Nat.add_mul_div_left _ _ (by positivity), Nat.div_eq_of_lt hA, Nat.zero_add, Nat.add_mul_mod_self_left, Nat.mod_mod]

theorem setBits_out (v lo w x lo' w' : Nat) (h : lo + w ≤ lo' ∨ lo' + w' ≤ lo) :
    setBits v lo w x / 2 ^ lo' % 2 ^ w' = v / 2 ^ lo' % 2 ^ w' := by
  obtain ⟨A, m, B, rfl, hA, hm⟩ := split3 v lo w
  rw [setBits_eq _ _ _ _ _ _ hA hm]
  rcases h with h | h
  · obtain ⟨k, rfl⟩ : ∃ k, lo' = lo + w + k := ⟨lo' - (lo + w), by omega⟩
    have : ∀ y, y < 2 ^ w → (A + 2 ^ lo * (y + 2 ^ w * B)) / 2 ^ (lo + w + k) = B / 2 ^ k := by
      intro y hy
      rw [pow_add, pow_add, ← Nat.div_div_eq_div_mul, ← Nat.div_div_eq_div_mul, Nat.add_mul_div_left _ _ (by positivity), Nat.div_eq_of_lt hA, Nat.zero_add,
        Nat.add_mul_div_left _ _ (by positivity), Nat.div_eq_of_lt hy, Nat.zero_add]
    rw [this _ (Nat.mod_lt _ (by positivity)), this _ hm]
  · obtain ⟨k, rfl⟩ : ∃ k, lo = lo' + w' + k := ⟨lo - (lo' + w'), by omega⟩
    have : ∀ y, (A + 2 ^ (lo' + w' + k) * y) / 2 ^ lo' % 2 ^ w' = A / 2 ^ lo' % 2 ^ w' := by
      intro y
      rw [show A + 2 ^ (lo' + w' + k) * y = A + 2 ^ lo' * (2 ^ w' * (2 ^ k * y)) by rw [pow_add, pow_add]; ring,
        Nat.add_mul_div_left _ _ (by positivity), Nat.add_mul_mod_self_left]
    rw [this, this]

def setAll (v : Nat) (ws : List (Nat × Nat × Nat)) : Nat := ws.foldl (fun v e => setBits v e.1 e.2.1 e.2.2) v

theorem setAll_out (v : Nat) (ws : List (Nat × Nat × Nat)) (lo w : Nat) (h : ∀ e ∈ ws, e.1 + e.2.1 ≤ lo ∨ lo + w ≤ e.1) :
    setAll v ws / 2 ^ lo % 2 ^ w = v / 2 ^ lo % 2 ^ w := by
  induction ws generalizing v with
  | nil => rfl
  | cons e ws ih =>
    show setAll (setBits v e.1 e.2.1 e.2.2) ws / _ % _ = _
    rw [ih _ (fun e' h' => h e' (List.mem_cons_of_mem _ h')), setBits_out _ _ _ _ _ _ (h e List.mem_cons_self)]

theorem setAll_get (v : Nat) (ws : List (Nat × Nat × Nat)) (hd : ws.Pairwise (fun a b => a.1 + a.2.1 ≤ b.1 ∨ b.1 + b.2.1 ≤ a.1))
    (e : Nat × Nat × Nat) (he : e ∈ ws) : setAll v ws / 2 ^ e.1 % 2 ^ e.2.1 = e.2.2 % 2 ^ e.2.1 := by
  induction ws generalizing v with
  | nil => simp at he
  | cons u ws ih =>
    rw [List.pairwise_cons] at hd
    show setAll (setBits v u.1 u.2.1 u.2.2) ws / _ % _ = _
    rcases List.mem_cons.1 he with rfl | h
    · rw [setAll_out _ _ _ _ (fun x hx => by have := hd.1 x hx; omega), setBits_self]
    · exact ih _ hd.2 h

theorem vqntRow_fst (fmt : Nat) (v : VReg) (js : List Nat) : (vqntRow fmt v js).2.1.map (·.1) = js := by
  unfold vqntRow
  simp only
  split
  · simp [Function.comp_def]
  · split
    · simp [Function.comp_def]
    · simp [Function.comp_def]

theorem mod_bits (v n k w : Nat) (h : k + w ≤ n) : v % 2 ^ n / 2 ^ k % 2 ^ w = v / 2 ^ k % 2 ^ w := by
  obtain ⟨r, rfl⟩ : ∃ r, n = k + w + r := ⟨n - (k + w), by omega⟩
  conv_rhs => rw [← Nat.mod_add_div v (2 ^ (k + w + r))]
  rw [show v % 2 ^ (k + w + r) + 2 ^ (k + w + r) * (v / 2 ^ (k + w + r)) = v % 2 ^ (k + w + r) + 2 ^ k * (2 ^ w * (2 ^ r * (v / 2 ^ (k + w + r)))) by rw [pow_add, pow_add]; ring,
    Nat.add_mul_div_left _ _ (by positivity), Nat.add_mul_mod_self_left]

end Sys2Proof.Machine.Fields
end

