-- ==== Sys2Proof/Laws/Folding.lean ====
section
/-! SUPPORT. Records taken in, and the ledger folded. -/
namespace Sys2Proof.Machine.Folding

theorem takeFirst_none (l : List (FRec × Bool)) (h : ∀ e ∈ l, e.2 = true) : UnitQ.takeFirst l = none := by
  induction l with
  | nil => rfl
  | cons a l ih =>
    obtain ⟨r, b⟩ := a
    have hb : b = true := h _ List.mem_cons_self
    subst hb
    unfold UnitQ.takeFirst; rw [ih (fun e he => h e (List.mem_cons_of_mem _ he))]; rfl

theorem takeFirst_some (pre post : List (FRec × Bool)) (r : FRec) (h : ∀ e ∈ pre, e.2 = true) :
    UnitQ.takeFirst (pre ++ (r, false) :: post) = some (r, pre ++ (r, true) :: post) := by
  induction pre with
  | nil => rfl
  | cons a l ih =>
    obtain ⟨q, b⟩ := a
    have hb : b = true := h _ List.mem_cons_self
    subst hb
    rw [List.cons_append]; unfold UnitQ.takeFirst; rw [ih (fun e he => h e (List.mem_cons_of_mem _ he))]; rfl

theorem insert_len {α : Type} (m : AMap α) (k : Nat) (v : α) : (AMap.insert m k v).length ≤ m.length + 1 := by
  induction m with
  | nil => simp [AMap.insert]
  | cons a m ih =>
    obtain ⟨j, w⟩ := a
    unfold AMap.insert; split
    · simp
    · split
      · simp
      · simp only [List.length_cons]; omega

theorem foldOne_acc (l : LedgerSt) (line key acc j : Nat) : AMap.getD (l.foldOne line key acc).acc 0 j = if j = key then acc % foldUnit (key % 16) else AMap.getD l.acc 0 j := by
  unfold LedgerSt.foldOne; dsimp only; rw [AMap.getD_setD]

/-- a fold adds the quotient to its line; the total's line is another -/
theorem foldOne_line (l : LedgerSt) (line key acc j : Nat) (hj : j < 16400) : AMap.getD (l.foldOne line key acc).lines 0 j =
    AMap.getD l.lines 0 j + (if j = lineKey line (key % 16) then BitVec.ofNat 64 (acc / foldUnit (key % 16)) else 0) := by
  have hm : key % 16 < 16 := Nat.mod_lt _ (by decide)
  unfold LedgerSt.foldOne lineKey; dsimp only
  rw [AMap.getD_setD, if_neg (by omega), AMap.getD_setD]
  split
  · next h => subst h; rfl
  · exact (BitVec.add_zero _).symm

theorem foldAll_frame (f : Nat → Nat) (es : List (Nat × Nat)) (l : LedgerSt) : es.foldl (fun l e => l.foldOne (f e.1) e.1 e.2) l =
    { l with acc := (es.foldl (fun l e => l.foldOne (f e.1) e.1 e.2) l).acc, lines := (es.foldl (fun l e => l.foldOne (f e.1) e.1 e.2) l).lines } := by
  induction es generalizing l with
  | nil => rfl
  | cons e es ih => rw [List.foldl_cons, ih]; rfl

/-- the sum a line gains at a fold -/
def gain (f : Nat → Nat) (j : Nat) (es : List (Nat × Nat)) : W64 :=
  es.foldr (fun e n => (if j = lineKey (f e.1) (e.1 % 16) then BitVec.ofNat 64 (e.2 / foldUnit (e.1 % 16)) else 0) + n) 0

theorem foldAll_line (f : Nat → Nat) (es : List (Nat × Nat)) (l : LedgerSt) (j : Nat) (hj : j < 16400) :
    AMap.getD (es.foldl (fun l e => l.foldOne (f e.1) e.1 e.2) l).lines 0 j = AMap.getD l.lines 0 j + gain f j es := by
  induction es generalizing l with
  | nil => exact (BitVec.add_zero _).symm
  | cons e es ih =>
    rw [List.foldl_cons, ih, foldOne_line _ _ _ _ _ hj, BitVec.add_assoc]; rfl

/-- what stays of an accumulator after a fold -/
theorem foldAll_acc (f : Nat → Nat) (es : List (Nat × Nat)) (hw : es.Pairwise (fun a b => a.1 < b.1)) (l : LedgerSt) (j : Nat) :
    AMap.getD (es.foldl (fun l e => l.foldOne (f e.1) e.1 e.2) l).acc 0 j = (match AMap.find? es j with | some a => a % foldUnit (j % 16) | none => AMap.getD l.acc 0 j) := by
  induction es generalizing l with
  | nil => rfl
  | cons e es ih =>
    obtain ⟨k, a⟩ := e
    rw [List.foldl_cons]
    have hw2 := List.pairwise_cons.1 hw
    rw [ih hw2.2]
    have hf : AMap.find? ((k, a) :: es) j = if k = j then some a else AMap.find? es j := rfl
    by_cases h : k = j
    · subst h
      have hn : AMap.find? es k = none := by
        clear ih hf hw
        have h1 := hw2.1
        clear hw2
        induction es with
        | nil => rfl
        | cons b es ih =>
          obtain ⟨x, y⟩ := b
          have := h1 (x, y) List.mem_cons_self
          change (if x = k then some y else AMap.find? es k) = none
          dsimp only at this
          rw [if_neg (by omega)]; exact ih (fun a ha => h1 a (List.mem_cons_of_mem _ ha))
      rw [hf, if_pos rfl, hn]; dsimp only; rw [foldOne_acc, if_pos rfl]
    · rw [hf, if_neg h]; split
      · rfl
      · rw [foldOne_acc, if_neg (fun g => h g.symm)]

end Sys2Proof.Machine.Folding
end

