-- ==== Sys2Proof/Laws/Kept.lean ====
section
/-! SUPPORT. What the shared operations leave alone: the queue of commands and the fields that only a register write or a reset
changes. One lemma per operation. -/
namespace Sys2Proof.Machine

set_option linter.unusedSimpArgs false

theorem State.kept_mk (a b c d e z f g h i j k l m n o p q r u) :
    (State.mk a b c d e z f g h i j k l m n o p q r u).kept =
      ⟨a, i.fbWindow, f.ceLimit, f.scrubPeriod, g.budget, k.digPeriod, r.huddleTmo⟩ := rfl
theorem State.nf1 (s : State) : s.pending = s.kept.pending := rfl
theorem State.nf2 (s : State) : s.book.fbWindow = s.kept.fbWindow := rfl
theorem State.nf3 (s : State) : s.mem.ceLimit = s.kept.ceLimit := rfl
theorem State.nf4 (s : State) : s.mem.scrubPeriod = s.kept.scrubPeriod := rfl
theorem State.nf5 (s : State) : s.tier.budget = s.kept.budget := rfl
theorem State.nf6 (s : State) : s.wgt.digPeriod = s.kept.digPeriod := rfl
theorem State.nf7 (s : State) : s.ring.huddleTmo = s.kept.huddleTmo := rfl

theorem kept_ite {c : Prop} [Decidable c] {a b : State} {k : Kept} (ha : a.kept = k) (hb : b.kept = k) :
    (if c then a else b).kept = k := by split <;> assumption
theorem kept_ite1 {α : Type} {c : Prop} [Decidable c] {a b : State × α} {k : Kept} (ha : a.1.kept = k) (hb : b.1.kept = k) :
    (if c then a else b).1.kept = k := by split <;> assumption

theorem kept_foldp {α β : Type} {g : State × β → α → State × β} (h : ∀ q x, (g q x).1.kept = q.1.kept) (l : List α) (q : State × β) :
    (l.foldl g q).1.kept = q.1.kept := by
  induction l generalizing q with
  | nil => rfl
  | cons x l ih => exact (ih _).trans (h q x)
/-- A fold keeps what each of its steps keeps. -/
theorem kept_foldl {α : Type} {g : State → α → State} (h : ∀ s x, (g s x).kept = s.kept) (l : List α) (s : State) :
    (l.foldl g s).kept = s.kept := by
  induction l generalizing s with
  | nil => rfl
  | cons x l ih => exact (ih _).trans (h s x)


theorem kept_setCore (s : State) (p : Nat) (c : Core) :
    (State.setCore s p c).kept = s.kept := by
  unfold State.setCore
  repeat' first
    | with_reducible rfl
    | with_reducible refine kept_ite ?_ ?_
    | simp only [↓State.kept_mk, ↓State.nf1, ↓State.nf2, ↓State.nf3, ↓State.nf4, ↓State.nf5, ↓State.nf6, ↓State.nf7]
    | dsimp only
    | split

theorem kept_setClu (s : State) (n : Nat) (c : Cluster) :
    (State.setClu s n c).kept = s.kept := by
  unfold State.setClu
  repeat' first
    | with_reducible rfl
    | with_reducible refine kept_ite ?_ ?_
    | simp only [↓State.kept_mk, ↓State.nf1, ↓State.nf2, ↓State.nf3, ↓State.nf4, ↓State.nf5, ↓State.nf6, ↓State.nf7]
    | dsimp only
    | split

theorem kept_modClu (s : State) (n : Nat) (f : Cluster → Cluster) :
    (State.modClu s n f).kept = s.kept := by
  unfold State.modClu
  repeat' first
    | with_reducible rfl
    | with_reducible refine kept_ite ?_ ?_
    | simp only [↓kept_setClu, ↓State.kept_mk, ↓State.nf1, ↓State.nf2, ↓State.nf3, ↓State.nf4, ↓State.nf5, ↓State.nf6, ↓State.nf7]
    | dsimp only
    | split

theorem kept_modCore (s : State) (p : Nat) (f : CoreRegs → CoreRegs) :
    (State.modCore s p f).kept = s.kept := by
  unfold State.modCore
  repeat' first
    | with_reducible rfl
    | with_reducible refine kept_ite ?_ ?_
    | simp only [↓kept_setCore, ↓State.kept_mk, ↓State.nf1, ↓State.nf2, ↓State.nf3, ↓State.nf4, ↓State.nf5, ↓State.nf6, ↓State.nf7]
    | dsimp only
    | split

theorem kept_post (s : State) (p : Nat) (e : CoachEvent) :
    (State.post s p e).kept = s.kept := by
  unfold State.post
  repeat' first
    | with_reducible rfl
    | with_reducible refine kept_ite ?_ ?_
    | simp only [↓kept_modClu, ↓State.kept_mk, ↓State.nf1, ↓State.nf2, ↓State.nf3, ↓State.nf4, ↓State.nf5, ↓State.nf6, ↓State.nf7]
    | dsimp only
    | split

theorem kept_drawn (s : State) :
    (State.drawn s).kept = s.kept := by
  unfold State.drawn
  repeat' first
    | with_reducible rfl
    | with_reducible refine kept_ite ?_ ?_
    | simp only [↓State.kept_mk, ↓State.nf1, ↓State.nf2, ↓State.nf3, ↓State.nf4, ↓State.nf5, ↓State.nf6, ↓State.nf7]
    | dsimp only
    | split

theorem kept_coreStop (s : State) (p : Nat) (code : Code) :
    (State.coreStop s p code).kept = s.kept := by
  unfold State.coreStop
  repeat' first
    | with_reducible rfl
    | with_reducible refine kept_ite ?_ ?_
    | simp only [↓kept_setCore, ↓kept_post, ↓State.kept_mk, ↓State.nf1, ↓State.nf2, ↓State.nf3, ↓State.nf4, ↓State.nf5, ↓State.nf6, ↓State.nf7]
    | dsimp only
    | split

theorem kept_stopNow (s : State) (p : Nat) (code : Code) :
    (State.stopNow s p code).kept = s.kept := by
  unfold State.stopNow
  repeat' first
    | with_reducible rfl
    | with_reducible refine kept_ite ?_ ?_
    | simp only [↓kept_setCore, ↓kept_coreStop, ↓State.kept_mk, ↓State.nf1, ↓State.nf2, ↓State.nf3, ↓State.nf4, ↓State.nf5, ↓State.nf6, ↓State.nf7]
    | dsimp only
    | split

theorem kept_slotOp (b : Slot) (f : CoreRegs → CoreRegs → SlotRes) (s : State) :
    (slotOp b f s).kept = s.kept := by
  unfold slotOp
  repeat' first
    | with_reducible rfl
    | with_reducible refine kept_ite ?_ ?_
    | simp only [↓kept_setCore, ↓kept_post, ↓kept_coreStop, ↓State.kept_mk, ↓State.nf1, ↓State.nf2, ↓State.nf3, ↓State.nf4, ↓State.nf5, ↓State.nf6, ↓State.nf7]
    | dsimp only
    | split

theorem kept_vecOp (b : Slot) (vd : BitVec 6) (g : CoreRegs → W32 → VReg → VReg) (s : State) :
    (vecOp b vd g s).kept = s.kept := by
  unfold vecOp
  repeat' first
    | with_reducible rfl
    | with_reducible refine kept_ite ?_ ?_
    | simp only [↓kept_slotOp, ↓State.kept_mk, ↓State.nf1, ↓State.nf2, ↓State.nf3, ↓State.nf4, ↓State.nf5, ↓State.nf6, ↓State.nf7]
    | dsimp only
    | split

theorem kept_workOp (b : Slot) (vd : BitVec 6) (ev : Nat) (g : CoreRegs → W32 → VReg → VReg) (s : State) :
    (workOp b vd ev g s).kept = s.kept := by
  unfold workOp
  repeat' first
    | with_reducible rfl
    | with_reducible refine kept_ite ?_ ?_
    | simp only [↓kept_slotOp, ↓State.kept_mk, ↓State.nf1, ↓State.nf2, ↓State.nf3, ↓State.nf4, ↓State.nf5, ↓State.nf6, ↓State.nf7]
    | dsimp only
    | split

theorem kept_raise (s : State) (r : FRec) :
    (State.raise s r).kept = s.kept := by
  unfold State.raise
  repeat' first
    | with_reducible rfl
    | with_reducible refine kept_ite ?_ ?_
    | simp only [↓State.kept_mk, ↓State.nf1, ↓State.nf2, ↓State.nf3, ↓State.nf4, ↓State.nf5, ↓State.nf6, ↓State.nf7]
    | dsimp only
    | split

theorem kept_addAcc (s : State) (unit line item n : Nat) :
    (State.addAcc s unit line item n).kept = s.kept := by
  unfold State.addAcc
  repeat' first
    | with_reducible rfl
    | with_reducible refine kept_ite ?_ ?_
    | simp only [↓State.kept_mk, ↓State.nf1, ↓State.nf2, ↓State.nf3, ↓State.nf4, ↓State.nf5, ↓State.nf6, ↓State.nf7]
    | dsimp only
    | split

theorem kept_chargeAt (s : State) (unit line item n : Nat) :
    (State.chargeAt s unit line item n).kept = s.kept := by
  unfold State.chargeAt
  repeat' first
    | with_reducible rfl
    | with_reducible refine kept_ite ?_ ?_
    | simp only [↓kept_addAcc, ↓State.kept_mk, ↓State.nf1, ↓State.nf2, ↓State.nf3, ↓State.nf4, ↓State.nf5, ↓State.nf6, ↓State.nf7]
    | dsimp only
    | split

theorem kept_charge (s : State) (line item n : Nat) :
    (State.charge s line item n).kept = s.kept := by
  unfold State.charge
  repeat' first
    | with_reducible rfl
    | with_reducible refine kept_ite ?_ ?_
    | simp only [↓kept_chargeAt, ↓State.kept_mk, ↓State.nf1, ↓State.nf2, ↓State.nf3, ↓State.nf4, ↓State.nf5, ↓State.nf6, ↓State.nf7]
    | dsimp only
    | split

theorem kept_setMbx (s : State) (m : Nat) (b : Mbx) :
    (State.setMbx s m b).kept = s.kept := by
  unfold State.setMbx
  repeat' first
    | with_reducible rfl
    | with_reducible refine kept_ite ?_ ?_
    | simp only [↓State.kept_mk, ↓State.nf1, ↓State.nf2, ↓State.nf3, ↓State.nf4, ↓State.nf5, ↓State.nf6, ↓State.nf7]
    | dsimp only
    | split

theorem kept_modMbx (s : State) (m : Nat) (f : Mbx → Mbx) :
    (State.modMbx s m f).kept = s.kept := by
  unfold State.modMbx
  repeat' first
    | with_reducible rfl
    | with_reducible refine kept_ite ?_ ?_
    | simp only [↓kept_setMbx, ↓State.kept_mk, ↓State.nf1, ↓State.nf2, ↓State.nf3, ↓State.nf4, ↓State.nf5, ↓State.nf6, ↓State.nf7]
    | dsimp only
    | split

theorem kept_reply (s : State) (r : Req) (body : List Byte) :
    (State.reply s r body).kept = s.kept := by
  unfold State.reply
  repeat' first
    | with_reducible rfl
    | with_reducible refine kept_ite ?_ ?_
    | simp only [↓kept_modMbx, ↓State.kept_mk, ↓State.nf1, ↓State.nf2, ↓State.nf3, ↓State.nf4, ↓State.nf5, ↓State.nf6, ↓State.nf7]
    | dsimp only
    | split

theorem kept_answer (s : State) (r : Req) (status : Code) (rest : List Byte) :
    (State.answer s r status rest).kept = s.kept := by
  unfold State.answer
  repeat' first
    | with_reducible rfl
    | with_reducible refine kept_ite ?_ ?_
    | simp only [↓kept_reply, ↓State.kept_mk, ↓State.nf1, ↓State.nf2, ↓State.nf3, ↓State.nf4, ↓State.nf5, ↓State.nf6, ↓State.nf7]
    | dsimp only
    | split

theorem kept_refuse (s : State) (r : Req) (status : Code) (n : Nat) :
    (State.refuse s r status n).kept = s.kept := by
  unfold State.refuse
  repeat' first
    | with_reducible rfl
    | with_reducible refine kept_ite ?_ ?_
    | simp only [↓kept_answer, ↓State.kept_mk, ↓State.nf1, ↓State.nf2, ↓State.nf3, ↓State.nf4, ↓State.nf5, ↓State.nf6, ↓State.nf7]
    | dsimp only
    | split

theorem kept_event (s : State) (m op ctx : Nat) (body : List Byte) :
    (State.event s m op ctx body).kept = s.kept := by
  unfold State.event
  repeat' first
    | with_reducible rfl
    | with_reducible refine kept_ite ?_ ?_
    | simp only [↓kept_modMbx, ↓State.kept_mk, ↓State.nf1, ↓State.nf2, ↓State.nf3, ↓State.nf4, ↓State.nf5, ↓State.nf6, ↓State.nf7]
    | dsimp only
    | split

theorem kept_eventMgmt (s : State) (op ctx : Nat) (body : List Byte) :
    (State.eventMgmt s op ctx body).kept = s.kept := by
  unfold State.eventMgmt
  repeat' first
    | with_reducible rfl
    | with_reducible refine kept_ite ?_ ?_
    | with_reducible refine (kept_foldl (fun _ _ => ?_) _ _).trans ?_
    | with_reducible refine (kept_foldp (fun _ _ => ?_) _ _).trans ?_
    | simp only [↓kept_event, ↓State.kept_mk, ↓State.nf1, ↓State.nf2, ↓State.nf3, ↓State.nf4, ↓State.nf5, ↓State.nf6, ↓State.nf7]
    | dsimp only
    | split

theorem kept_modChan (s : State) (c : Nat) (f : Channel → Channel) :
    (State.modChan s c f).kept = s.kept := by
  unfold State.modChan
  repeat' first
    | with_reducible rfl
    | with_reducible refine kept_ite ?_ ?_
    | simp only [↓State.kept_mk, ↓State.nf1, ↓State.nf2, ↓State.nf3, ↓State.nf4, ↓State.nf5, ↓State.nf6, ↓State.nf7]
    | dsimp only
    | split

theorem kept_uncorrRecord (s : State) (a severity ctx : Nat) :
    (State.uncorrRecord s a severity ctx).kept = s.kept := by
  unfold State.uncorrRecord
  repeat' first
    | with_reducible rfl
    | with_reducible refine kept_ite ?_ ?_
    | simp only [↓kept_raise, ↓State.kept_mk, ↓State.nf1, ↓State.nf2, ↓State.nf3, ↓State.nf4, ↓State.nf5, ↓State.nf6, ↓State.nf7]
    | dsimp only
    | split

theorem kept_countCe (s : State) (c : Nat) :
    (State.countCe s c).kept = s.kept := by
  unfold State.countCe
  repeat' first
    | with_reducible rfl
    | with_reducible refine kept_ite ?_ ?_
    | simp only [↓kept_modChan, ↓State.kept_mk, ↓State.nf1, ↓State.nf2, ↓State.nf3, ↓State.nf4, ↓State.nf5, ↓State.nf6, ↓State.nf7]
    | dsimp only
    | split

theorem kept_countUe (s : State) (c : Nat) :
    (State.countUe s c).kept = s.kept := by
  unfold State.countUe
  repeat' first
    | with_reducible rfl
    | with_reducible refine kept_ite ?_ ?_
    | simp only [↓kept_modChan, ↓State.kept_mk, ↓State.nf1, ↓State.nf2, ↓State.nf3, ↓State.nf4, ↓State.nf5, ↓State.nf6, ↓State.nf7]
    | dsimp only
    | split

theorem kept_settle (s : State) (w : Nat) (e : BitVec 64) :
    (State.settle s w e).kept = s.kept := by
  unfold State.settle
  repeat' first
    | with_reducible rfl
    | with_reducible refine kept_ite ?_ ?_
    | simp only [↓State.kept_mk, ↓State.nf1, ↓State.nf2, ↓State.nf3, ↓State.nf4, ↓State.nf5, ↓State.nf6, ↓State.nf7]
    | dsimp only
    | split

theorem kept_touch (s : State) (sev ctx w : Nat) :
    (State.touch s sev ctx w).1.kept = s.kept := by
  unfold State.touch
  repeat' first
    | with_reducible rfl
    | with_reducible refine kept_ite1 ?_ ?_
    | simp only [↓kept_uncorrRecord, ↓kept_countCe, ↓kept_countUe, ↓kept_settle, ↓State.kept_mk, ↓State.nf1, ↓State.nf2, ↓State.nf3, ↓State.nf4, ↓State.nf5, ↓State.nf6, ↓State.nf7]
    | dsimp only
    | split

theorem kept_touchAll (s : State) (sev ctx w n : Nat) : (s.touchAll sev ctx w n).1.kept = s.kept := by
  induction n generalizing s w with
  | zero => rfl
  | succ n ih => exact (ih _ _).trans (kept_touch ..)


theorem kept_stackRead (s : State) (sev ctx a n : Nat) :
    (State.stackRead s sev ctx a n).1.kept = s.kept := by
  unfold State.stackRead
  repeat' first
    | with_reducible rfl
    | with_reducible refine kept_ite1 ?_ ?_
    | simp only [↓kept_touchAll, ↓State.kept_mk, ↓State.nf1, ↓State.nf2, ↓State.nf3, ↓State.nf4, ↓State.nf5, ↓State.nf6, ↓State.nf7]
    | dsimp only
    | split

theorem kept_writeWord (s : State) (sev ctx a : Nat) (bs : List Byte) :
    (State.writeWord s sev ctx a bs).1.kept = s.kept := by
  unfold State.writeWord
  repeat' first
    | with_reducible rfl
    | with_reducible refine kept_ite1 ?_ ?_
    | simp only [↓kept_touch, ↓State.kept_mk, ↓State.nf1, ↓State.nf2, ↓State.nf3, ↓State.nf4, ↓State.nf5, ↓State.nf6, ↓State.nf7]
    | dsimp only
    | split

theorem kept_stackWriteN (s : State) (sev ctx a : Nat) (bs : List Byte) (n : Nat) :
    (s.stackWriteN sev ctx a bs n).1.kept = s.kept := by
  induction n generalizing s a bs with
  | zero => rfl
  | succ n ih => exact kept_ite1 rfl ((ih _ _ _).trans (kept_writeWord ..))


theorem kept_stackWrite (s : State) (sev ctx a : Nat) (bs : List Byte) :
    (State.stackWrite s sev ctx a bs).1.kept = s.kept := by
  unfold State.stackWrite
  repeat' first
    | with_reducible rfl
    | with_reducible refine kept_ite1 ?_ ?_
    | simp only [↓kept_stackWriteN, ↓State.kept_mk, ↓State.nf1, ↓State.nf2, ↓State.nf3, ↓State.nf4, ↓State.nf5, ↓State.nf6, ↓State.nf7]
    | dsimp only
    | split

theorem kept_stackClear (s : State) (a n : Nat) :
    (State.stackClear s a n).kept = s.kept := by
  unfold State.stackClear
  repeat' first
    | with_reducible rfl
    | with_reducible refine kept_ite ?_ ?_
    | simp only [↓State.kept_mk, ↓State.nf1, ↓State.nf2, ↓State.nf3, ↓State.nf4, ↓State.nf5, ↓State.nf6, ↓State.nf7]
    | dsimp only
    | split

theorem kept_chargeQuota (s : State) (owner : Option Nat) (tier n : Nat) :
    (State.chargeQuota s owner tier n).kept = s.kept := by
  unfold State.chargeQuota
  repeat' first
    | with_reducible rfl
    | with_reducible refine kept_ite ?_ ?_
    | simp only [↓State.kept_mk, ↓State.nf1, ↓State.nf2, ↓State.nf3, ↓State.nf4, ↓State.nf5, ↓State.nf6, ↓State.nf7]
    | dsimp only
    | split

theorem kept_unchargeQuota (s : State) (owner : Option Nat) (tier n : Nat) :
    (State.unchargeQuota s owner tier n).kept = s.kept := by
  unfold State.unchargeQuota
  repeat' first
    | with_reducible rfl
    | with_reducible refine kept_ite ?_ ?_
    | simp only [↓State.kept_mk, ↓State.nf1, ↓State.nf2, ↓State.nf3, ↓State.nf4, ↓State.nf5, ↓State.nf6, ↓State.nf7]
    | dsimp only
    | split

theorem kept_setRegion (s : State) (r : Nat) (u : RegUse) :
    (State.setRegion s r u).kept = s.kept := by
  unfold State.setRegion
  repeat' first
    | with_reducible rfl
    | with_reducible refine kept_ite ?_ ?_
    | simp only [↓State.kept_mk, ↓State.nf1, ↓State.nf2, ↓State.nf3, ↓State.nf4, ↓State.nf5, ↓State.nf6, ↓State.nf7]
    | dsimp only
    | split

theorem kept_clearRegion (s : State) (r : Nat) :
    (State.clearRegion s r).kept = s.kept := by
  unfold State.clearRegion
  repeat' first
    | with_reducible rfl
    | with_reducible refine kept_ite ?_ ?_
    | simp only [↓State.kept_mk, ↓State.nf1, ↓State.nf2, ↓State.nf3, ↓State.nf4, ↓State.nf5, ↓State.nf6, ↓State.nf7]
    | dsimp only
    | split

theorem kept_setBlock (s : State) (b : Nat) (h : Home) :
    (State.setBlock s b h).kept = s.kept := by
  unfold State.setBlock
  repeat' first
    | with_reducible rfl
    | with_reducible refine kept_ite ?_ ?_
    | simp only [↓State.kept_mk, ↓State.nf1, ↓State.nf2, ↓State.nf3, ↓State.nf4, ↓State.nf5, ↓State.nf6, ↓State.nf7]
    | dsimp only
    | split

theorem kept_setObj (s : State) (b : Nat) (o : Obj) :
    (State.setObj s b o).kept = s.kept := by
  unfold State.setObj
  repeat' first
    | with_reducible rfl
    | with_reducible refine kept_ite ?_ ?_
    | simp only [↓State.kept_mk, ↓State.nf1, ↓State.nf2, ↓State.nf3, ↓State.nf4, ↓State.nf5, ↓State.nf6, ↓State.nf7]
    | dsimp only
    | split

theorem kept_takeChunk (s : State) :
    (State.takeChunk s).1.kept = s.kept := by
  unfold State.takeChunk
  repeat' first
    | with_reducible rfl
    | with_reducible refine kept_ite1 ?_ ?_
    | simp only [↓kept_setRegion, ↓State.kept_mk, ↓State.nf1, ↓State.nf2, ↓State.nf3, ↓State.nf4, ↓State.nf5, ↓State.nf6, ↓State.nf7]
    | dsimp only
    | split

theorem kept_takeChunks (s : State) (n : Nat) : (s.takeChunks n).1.kept = s.kept := by
  induction n generalizing s with
  | zero => rfl
  | succ n ih => exact (ih _).trans (kept_takeChunk ..)


theorem kept_freeChunk (s : State) (c : Nat) :
    (State.freeChunk s c).kept = s.kept := by
  unfold State.freeChunk
  repeat' first
    | with_reducible rfl
    | with_reducible refine kept_ite ?_ ?_
    | simp only [↓kept_setRegion, ↓kept_clearRegion, ↓State.kept_mk, ↓State.nf1, ↓State.nf2, ↓State.nf3, ↓State.nf4, ↓State.nf5, ↓State.nf6, ↓State.nf7]
    | dsimp only
    | split

theorem kept_dropReloc (s : State) (r : Nat) :
    (State.dropReloc s r).kept = s.kept := by
  unfold State.dropReloc
  repeat' first
    | with_reducible rfl
    | with_reducible refine kept_ite ?_ ?_
    | simp only [↓kept_clearRegion, ↓State.kept_mk, ↓State.nf1, ↓State.nf2, ↓State.nf3, ↓State.nf4, ↓State.nf5, ↓State.nf6, ↓State.nf7]
    | dsimp only
    | split

theorem kept_freeHome (s : State) (h : Home) : (s.freeHome h).kept = s.kept := by
  cases h with
  | fresh r => exact (kept_dropReloc ..).trans (kept_clearRegion ..)
  | pressed n cs => exact kept_foldl (fun _ _ => kept_freeChunk ..) _ _
  | cave p i l => rfl


theorem kept_freshBlocks (s : State) (b n : Nat) : (s.freshBlocks b n).kept = s.kept := by
  induction n generalizing s b with
  | zero => rfl
  | succ n ih => exact (ih _ _).trans ((kept_stackClear ..).trans ((kept_setBlock ..).trans (kept_setRegion ..)))


theorem kept_placeObj (s : State) (b : Nat) (o : Obj) :
    (State.placeObj s b o).kept = s.kept := by
  unfold State.placeObj
  repeat' first
    | with_reducible rfl
    | with_reducible refine kept_ite ?_ ?_
    | simp only [↓kept_chargeQuota, ↓kept_setObj, ↓kept_freshBlocks, ↓State.kept_mk, ↓State.nf1, ↓State.nf2, ↓State.nf3, ↓State.nf4, ↓State.nf5, ↓State.nf6, ↓State.nf7]
    | dsimp only
    | split

theorem kept_createObj (s : State) (owner : Option Nat) (use : ObjUse) (size kind flags : Nat) :
    (State.createObj s owner use size kind flags).1.kept = s.kept := by
  unfold State.createObj
  repeat' first
    | with_reducible rfl
    | with_reducible refine kept_ite1 ?_ ?_
    | simp only [↓kept_placeObj, ↓State.kept_mk, ↓State.nf1, ↓State.nf2, ↓State.nf3, ↓State.nf4, ↓State.nf5, ↓State.nf6, ↓State.nf7]
    | dsimp only
    | split

theorem kept_createAt (s : State) (use : ObjUse) (addr size : Nat) :
    (State.createAt s use addr size).1.kept = s.kept := by
  unfold State.createAt
  repeat' first
    | with_reducible rfl
    | with_reducible refine kept_ite1 ?_ ?_
    | simp only [↓kept_placeObj, ↓State.kept_mk, ↓State.nf1, ↓State.nf2, ↓State.nf3, ↓State.nf4, ↓State.nf5, ↓State.nf6, ↓State.nf7]
    | dsimp only
    | split

theorem kept_dropObj (s : State) (b : Nat) :
    (State.dropObj s b).kept = s.kept := by
  unfold State.dropObj
  repeat' first
    | with_reducible rfl
    | with_reducible refine kept_ite ?_ ?_
    | with_reducible refine (kept_foldl (fun _ _ => ?_) _ _).trans ?_
    | with_reducible refine (kept_foldp (fun _ _ => ?_) _ _).trans ?_
    | simp only [↓kept_unchargeQuota, ↓kept_freeHome, ↓State.kept_mk, ↓State.nf1, ↓State.nf2, ↓State.nf3, ↓State.nf4, ↓State.nf5, ↓State.nf6, ↓State.nf7]
    | dsimp only
    | split

theorem kept_chunkRead (s : State) (ac : Access) (cs : List Nat) (fuel off n : Nat) :
    (s.chunkRead ac cs fuel off n).1.kept = s.kept := by
  induction fuel generalizing s off n with
  | zero => rfl
  | succ m ih => exact kept_ite1 rfl ((ih _ _ _).trans (kept_stackRead ..))


theorem kept_corruptRecord (s : State) (ac : Access) (addr : Nat) :
    (State.corruptRecord s ac addr).kept = s.kept := by
  unfold State.corruptRecord
  repeat' first
    | with_reducible rfl
    | with_reducible refine kept_ite ?_ ?_
    | simp only [↓kept_raise, ↓State.kept_mk, ↓State.nf1, ↓State.nf2, ↓State.nf3, ↓State.nf4, ↓State.nf5, ↓State.nf6, ↓State.nf7]
    | dsimp only
    | split

theorem kept_pressedTile (s : State) (ac : Access) (addr len : Nat) (cs : List Nat) (t : Nat) :
    (State.pressedTile s ac addr len cs t).1.kept = s.kept := by
  unfold State.pressedTile
  repeat' first
    | with_reducible rfl
    | with_reducible refine kept_ite1 ?_ ?_
    | simp only [↓kept_chunkRead, ↓kept_corruptRecord, ↓State.kept_mk, ↓State.nf1, ↓State.nf2, ↓State.nf3, ↓State.nf4, ↓State.nf5, ↓State.nf6, ↓State.nf7]
    | dsimp only
    | split

theorem kept_pressedRead (s : State) (ac : Access) (addr len : Nat) (cs : List Nat) (fuel off n : Nat) :
    (s.pressedRead ac addr len cs fuel off n).1.kept = s.kept := by
  induction fuel generalizing s off n with
  | zero => rfl
  | succ m ih => exact kept_ite1 rfl (kept_ite1 (kept_pressedTile ..) ((ih _ _ _).trans (kept_pressedTile ..)))


theorem kept_pieceRead (s : State) (ac : Access) (p : Nat × Nat) :
    (State.pieceRead s ac p).1.kept = s.kept := by
  unfold State.pieceRead
  repeat' first
    | with_reducible rfl
    | with_reducible refine kept_ite1 ?_ ?_
    | simp only [↓kept_stackRead, ↓kept_pressedRead, ↓State.kept_mk, ↓State.nf1, ↓State.nf2, ↓State.nf3, ↓State.nf4, ↓State.nf5, ↓State.nf6, ↓State.nf7]
    | dsimp only
    | split

theorem kept_piecesRead (s : State) (ac : Access) (ps : List (Nat × Nat)) : (s.piecesRead ac ps).1.kept = s.kept := by
  induction ps generalizing s with
  | nil => rfl
  | cons p ps ih => exact (ih _).trans (kept_pieceRead ..)


theorem kept_objRead (s : State) (ac : Access) (a n : Nat) :
    (State.objRead s ac a n).1.kept = s.kept := by
  unfold State.objRead
  repeat' first
    | with_reducible rfl
    | with_reducible refine kept_ite1 ?_ ?_
    | simp only [↓kept_piecesRead, ↓State.kept_mk, ↓State.nf1, ↓State.nf2, ↓State.nf3, ↓State.nf4, ↓State.nf5, ↓State.nf6, ↓State.nf7]
    | dsimp only
    | split

theorem kept_markDirty (s : State) (a n : Nat) :
    (State.markDirty s a n).kept = s.kept := by
  unfold State.markDirty
  repeat' first
    | with_reducible rfl
    | with_reducible refine kept_ite ?_ ?_
    | simp only [↓State.kept_mk, ↓State.nf1, ↓State.nf2, ↓State.nf3, ↓State.nf4, ↓State.nf5, ↓State.nf6, ↓State.nf7]
    | dsimp only
    | split

theorem kept_piecesWrite (s : State) (ac : Access) (ps : List (Nat × Nat)) (bs : List Byte) :
    (s.piecesWrite ac ps bs).1.kept = s.kept := by
  induction ps generalizing s bs with
  | nil => rfl
  | cons p ps ih =>
    unfold State.piecesWrite
    split
    · rfl
    · exact (ih _ _).trans ((kept_stackWrite ..).trans (kept_markDirty ..))


theorem kept_objWrite (s : State) (ac : Access) (a : Nat) (bs : List Byte) :
    (State.objWrite s ac a bs).1.kept = s.kept := by
  unfold State.objWrite
  repeat' first
    | with_reducible rfl
    | with_reducible refine kept_ite1 ?_ ?_
    | simp only [↓kept_piecesWrite, ↓State.kept_mk, ↓State.nf1, ↓State.nf2, ↓State.nf3, ↓State.nf4, ↓State.nf5, ↓State.nf6, ↓State.nf7]
    | dsimp only
    | split

theorem kept_vatApply (s : State) (ac : Access) (code : BitVec 4) (a : Nat) (xs : List Byte) :
    (State.vatApply s ac code a xs).1.kept = s.kept := by
  unfold State.vatApply
  repeat' first
    | with_reducible rfl
    | with_reducible refine kept_ite1 ?_ ?_
    | simp only [↓kept_modChan, ↓kept_stackRead, ↓kept_stackWrite, ↓kept_markDirty, ↓State.kept_mk, ↓State.nf1, ↓State.nf2, ↓State.nf3, ↓State.nf4, ↓State.nf5, ↓State.nf6, ↓State.nf7]
    | dsimp only
    | split

theorem kept_objVat (s : State) (ac : Access) (code : BitVec 4) (a : Nat) (xs : List Byte) :
    (State.objVat s ac code a xs).1.kept = s.kept := by
  unfold State.objVat
  repeat' first
    | with_reducible rfl
    | with_reducible refine kept_ite1 ?_ ?_
    | simp only [↓kept_vatApply, ↓State.kept_mk, ↓State.nf1, ↓State.nf2, ↓State.nf3, ↓State.nf4, ↓State.nf5, ↓State.nf6, ↓State.nf7]
    | dsimp only
    | split

theorem kept_chargeBytesAt (s : State) (unit line : Nat) (wr : Bool) (a n : Nat) :
    (State.chargeBytesAt s unit line wr a n).kept = s.kept := by
  unfold State.chargeBytesAt
  repeat' first
    | with_reducible rfl
    | with_reducible refine kept_ite ?_ ?_
    | with_reducible refine (kept_foldl (fun _ _ => ?_) _ _).trans ?_
    | with_reducible refine (kept_foldp (fun _ _ => ?_) _ _).trans ?_
    | simp only [↓kept_chargeAt, ↓State.kept_mk, ↓State.nf1, ↓State.nf2, ↓State.nf3, ↓State.nf4, ↓State.nf5, ↓State.nf6, ↓State.nf7]
    | dsimp only
    | split

theorem kept_chargeBytes (s : State) (line : Nat) (wr : Bool) (a n : Nat) :
    (State.chargeBytes s line wr a n).kept = s.kept := by
  unfold State.chargeBytes
  repeat' first
    | with_reducible rfl
    | with_reducible refine kept_ite ?_ ?_
    | simp only [↓kept_chargeBytesAt, ↓State.kept_mk, ↓State.nf1, ↓State.nf2, ↓State.nf3, ↓State.nf4, ↓State.nf5, ↓State.nf6, ↓State.nf7]
    | dsimp only
    | split

theorem kept_xferOp (b : Slot) (k : XKind) (dst src len tag md : BitVec 4) (s : State) :
    (xferOp b k dst src len tag md s).kept = s.kept := by
  unfold xferOp
  repeat' first
    | with_reducible rfl
    | with_reducible refine kept_ite ?_ ?_
    | simp only [↓kept_slotOp, ↓State.kept_mk, ↓State.nf1, ↓State.nf2, ↓State.nf3, ↓State.nf4, ↓State.nf5, ↓State.nf6, ↓State.nf7]
    | dsimp only
    | split

theorem kept_gatherObj (s : State) (ac : Access) (line base : Nat) (rs : List (Nat × Nat)) (t : Mem) :
    (s.gatherObj ac line base rs t).1.kept = s.kept := by
  induction rs generalizing s t with
  | nil => rfl
  | cons r rs ih => exact (ih _ _).trans ((kept_piecesRead ..).trans (kept_chargeBytesAt ..))


theorem kept_scatterObj (s : State) (ac : Access) (line base : Nat) (t : Mem) (rs : List (Nat × Nat)) :
    (s.scatterObj ac line base t rs).1.kept = s.kept := by
  induction rs generalizing s with
  | nil => rfl
  | cons r rs ih => exact (ih _).trans ((kept_piecesWrite ..).trans (kept_chargeBytesAt ..))


theorem kept_pagePart (s : State) (ac : Access) (line cl : Nat) (run : Option Run) (addr k n : Nat) :
    (State.pagePart s ac line cl run addr k n).1.kept = s.kept := by
  unfold State.pagePart
  repeat' first
    | with_reducible rfl
    | with_reducible refine kept_ite1 ?_ ?_
    | simp only [↓kept_setClu, ↓kept_touch, ↓kept_piecesRead, ↓kept_chargeBytesAt, ↓State.kept_mk, ↓State.nf1, ↓State.nf2, ↓State.nf3, ↓State.nf4, ↓State.nf5, ↓State.nf6, ↓State.nf7]
    | dsimp only
    | split

theorem kept_landPage (s : State) (ac : Access) (line cl : Nat) (run : Option Run) (d : PageDesc) (part : Nat) :
    (State.landPage s ac line cl run d part).1.kept = s.kept := by
  unfold State.landPage
  repeat' first
    | with_reducible rfl
    | with_reducible refine kept_ite1 ?_ ?_
    | with_reducible refine (kept_foldl (fun _ _ => ?_) _ _).trans ?_
    | with_reducible refine (kept_foldp (fun _ _ => ?_) _ _).trans ?_
    | simp only [↓kept_pagePart, ↓State.kept_mk, ↓State.nf1, ↓State.nf2, ↓State.nf3, ↓State.nf4, ↓State.nf5, ↓State.nf6, ↓State.nf7]
    | dsimp only
    | split

theorem kept_xferWords (s : State) (p : Nat) (x : Xfer) (m : MoveMap) :
    (State.xferWords s p x m).1.kept = s.kept := by
  unfold State.xferWords
  repeat' first
    | with_reducible rfl
    | with_reducible refine kept_ite1 ?_ ?_
    | simp only [↓kept_setClu, ↓kept_modClu, ↓kept_modCore, ↓kept_touch, ↓State.kept_mk, ↓State.nf1, ↓State.nf2, ↓State.nf3, ↓State.nf4, ↓State.nf5, ↓State.nf6, ↓State.nf7]
    | dsimp only
    | split

theorem kept_xferMove (s : State) (p : Nat) (x : Xfer) (q : Option Nat) :
    (State.xferMove s p x q).1.kept = s.kept := by
  unfold State.xferMove
  repeat' first
    | with_reducible rfl
    | with_reducible refine kept_ite1 ?_ ?_
    | simp only [↓kept_modClu, ↓kept_modCore, ↓kept_gatherObj, ↓kept_scatterObj, ↓kept_landPage, ↓State.kept_mk, ↓State.nf1, ↓State.nf2, ↓State.nf3, ↓State.nf4, ↓State.nf5, ↓State.nf6, ↓State.nf7]
    | dsimp only
    | split

theorem kept_xferEffect (s : State) (p : Nat) (x : Xfer) (q : Option Nat) :
    (State.xferEffect s p x q).1.kept = s.kept := by
  unfold State.xferEffect
  repeat' first
    | with_reducible rfl
    | with_reducible refine kept_ite1 ?_ ?_
    | simp only [↓kept_xferWords, ↓kept_xferMove, ↓State.kept_mk, ↓State.nf1, ↓State.nf2, ↓State.nf3, ↓State.nf4, ↓State.nf5, ↓State.nf6, ↓State.nf7]
    | dsimp only
    | split

theorem kept_linkWords (s : State) (p : Nat) (x : Xfer) (fixed bad : Nat) :
    (State.linkWords s p x fixed bad).1.kept = s.kept := by
  unfold State.linkWords
  repeat' first
    | with_reducible rfl
    | with_reducible refine kept_ite1 ?_ ?_
    | simp only [↓kept_raise, ↓State.kept_mk, ↓State.nf1, ↓State.nf2, ↓State.nf3, ↓State.nf4, ↓State.nf5, ↓State.nf6, ↓State.nf7]
    | dsimp only
    | split

theorem kept_answerUnit (s : State) (unit : Nat) (code : Code) (data : List Byte) :
    (State.answerUnit s unit code data).kept = s.kept := by
  unfold State.answerUnit
  repeat' first
    | with_reducible rfl
    | with_reducible refine kept_ite ?_ ?_
    | simp only [↓State.kept_mk, ↓State.nf1, ↓State.nf2, ↓State.nf3, ↓State.nf4, ↓State.nf5, ↓State.nf6, ↓State.nf7]
    | dsimp only
    | split

theorem kept_startCore (s : State) (p pc : Nat) :
    (State.startCore s p pc).kept = s.kept := by
  unfold State.startCore
  repeat' first
    | with_reducible rfl
    | with_reducible refine kept_ite ?_ ?_
    | simp only [↓kept_setCore, ↓kept_drawn, ↓State.kept_mk, ↓State.nf1, ↓State.nf2, ↓State.nf3, ↓State.nf4, ↓State.nf5, ↓State.nf6, ↓State.nf7]
    | dsimp only
    | split

theorem kept_startHeld (s : State) (p : Nat) :
    (State.startHeld s p).kept = s.kept := by
  unfold State.startHeld
  repeat' first
    | with_reducible rfl
    | with_reducible refine kept_ite ?_ ?_
    | simp only [↓kept_startCore, ↓State.kept_mk, ↓State.nf1, ↓State.nf2, ↓State.nf3, ↓State.nf4, ↓State.nf5, ↓State.nf6, ↓State.nf7]
    | dsimp only
    | split

theorem kept_writeCtrl (s : State) (p : Nat) (v : W32) :
    (State.writeCtrl s p v).kept = s.kept := by
  unfold State.writeCtrl
  repeat' first
    | with_reducible rfl
    | with_reducible refine kept_ite ?_ ?_
    | simp only [↓kept_modCore, ↓kept_startHeld, ↓State.kept_mk, ↓State.nf1, ↓State.nf2, ↓State.nf3, ↓State.nf4, ↓State.nf5, ↓State.nf6, ↓State.nf7]
    | dsimp only
    | split

theorem kept_refuseAtRing (s : State) (r : Req) (body : List Byte) :
    (State.refuseAtRing s r body).kept = s.kept := by
  unfold State.refuseAtRing
  repeat' first
    | with_reducible rfl
    | with_reducible refine kept_ite ?_ ?_
    | simp only [↓kept_modMbx, ↓kept_reply, ↓State.kept_mk, ↓State.nf1, ↓State.nf2, ↓State.nf3, ↓State.nf4, ↓State.nf5, ↓State.nf6, ↓State.nf7]
    | dsimp only
    | split

theorem kept_takeReq (s : State) (r : Req) :
    (State.takeReq s r).kept = s.kept := by
  unfold State.takeReq
  repeat' first
    | with_reducible rfl
    | with_reducible refine kept_ite ?_ ?_
    | simp only [↓State.kept_mk, ↓State.nf1, ↓State.nf2, ↓State.nf3, ↓State.nf4, ↓State.nf5, ↓State.nf6, ↓State.nf7]
    | dsimp only
    | split

theorem kept_serve {op m : Nat} {f : Req → State → State} (h : ∀ r s, (f r s).kept = s.kept) (s : State) :
    (serve op m f s).kept = s.kept := by
  unfold serve
  split
  · exact kept_ite ((h _ _).trans (kept_takeReq ..)) rfl
  · rfl


theorem kept_tabAnswer (s : State) (court slot : Nat) :
    (State.tabAnswer s court slot).kept = s.kept := by
  unfold State.tabAnswer
  repeat' first
    | with_reducible rfl
    | with_reducible refine kept_ite ?_ ?_
    | simp only [↓kept_answer, ↓State.kept_mk, ↓State.nf1, ↓State.nf2, ↓State.nf3, ↓State.nf4, ↓State.nf5, ↓State.nf6, ↓State.nf7]
    | dsimp only
    | split

theorem kept_tabAnswers (s : State) (court : Nat) :
    (State.tabAnswers s court).kept = s.kept := by
  unfold State.tabAnswers
  repeat' first
    | with_reducible rfl
    | with_reducible refine kept_ite ?_ ?_
    | with_reducible refine (kept_foldl (fun _ _ => ?_) _ _).trans ?_
    | with_reducible refine (kept_foldp (fun _ _ => ?_) _ _).trans ?_
    | simp only [↓kept_tabAnswer, ↓State.kept_mk, ↓State.nf1, ↓State.nf2, ↓State.nf3, ↓State.nf4, ↓State.nf5, ↓State.nf6, ↓State.nf7]
    | dsimp only
    | split

theorem kept_swapOnWake (s : State) (court : Nat) :
    (State.swapOnWake s court).kept = s.kept := by
  unfold State.swapOnWake
  repeat' first
    | with_reducible rfl
    | with_reducible refine kept_ite ?_ ?_
    | with_reducible refine (kept_foldl (fun _ _ => ?_) _ _).trans ?_
    | with_reducible refine (kept_foldp (fun _ _ => ?_) _ _).trans ?_
    | simp only [↓kept_modCore, ↓kept_tabAnswers, ↓State.kept_mk, ↓State.nf1, ↓State.nf2, ↓State.nf3, ↓State.nf4, ↓State.nf5, ↓State.nf6, ↓State.nf7]
    | dsimp only
    | split

theorem kept_pieceAny (s : State) (ac : Access) (p : Nat × Nat) :
    (State.pieceAny s ac p).1.kept = s.kept := by
  unfold State.pieceAny
  repeat' first
    | with_reducible rfl
    | with_reducible refine kept_ite1 ?_ ?_
    | simp only [↓kept_corruptRecord, ↓kept_pieceRead, ↓State.kept_mk, ↓State.nf1, ↓State.nf2, ↓State.nf3, ↓State.nf4, ↓State.nf5, ↓State.nf6, ↓State.nf7]
    | dsimp only
    | split

theorem kept_piecesAny (s : State) (ac : Access) (ps : List (Nat × Nat)) : (s.piecesAny ac ps).1.kept = s.kept := by
  induction ps generalizing s with
  | nil => rfl
  | cons p ps ih => exact kept_ite1 (kept_pieceAny ..) ((ih _).trans (kept_pieceAny ..))


theorem kept_anyRead (s : State) (ac : Access) (a n : Nat) :
    (State.anyRead s ac a n).1.kept = s.kept := by
  unfold State.anyRead
  repeat' first
    | with_reducible rfl
    | with_reducible refine kept_ite1 ?_ ?_
    | simp only [↓kept_piecesAny, ↓State.kept_mk, ↓State.nf1, ↓State.nf2, ↓State.nf3, ↓State.nf4, ↓State.nf5, ↓State.nf6, ↓State.nf7]
    | dsimp only
    | split

theorem kept_answerFreed (s : State) (b : Nat) (o : Obj) :
    (State.answerFreed s b o).kept = s.kept := by
  unfold State.answerFreed
  repeat' first
    | with_reducible rfl
    | with_reducible refine kept_ite ?_ ?_
    | simp only [↓kept_answer, ↓State.kept_mk, ↓State.nf1, ↓State.nf2, ↓State.nf3, ↓State.nf4, ↓State.nf5, ↓State.nf6, ↓State.nf7]
    | dsimp only
    | split

theorem kept_releaseObj (s : State) (b : Nat) :
    (State.releaseObj s b).kept = s.kept := by
  unfold State.releaseObj
  repeat' first
    | with_reducible rfl
    | with_reducible refine kept_ite ?_ ?_
    | simp only [↓kept_dropObj, ↓kept_answerFreed, ↓State.kept_mk, ↓State.nf1, ↓State.nf2, ↓State.nf3, ↓State.nf4, ↓State.nf5, ↓State.nf6, ↓State.nf7]
    | dsimp only
    | split

theorem kept_eventCtx (s : State) (ctx op : Nat) (body : List Byte) :
    (State.eventCtx s ctx op body).kept = s.kept := by
  unfold State.eventCtx
  repeat' first
    | with_reducible rfl
    | with_reducible refine kept_ite ?_ ?_
    | with_reducible refine (kept_foldl (fun _ _ => ?_) _ _).trans ?_
    | with_reducible refine (kept_foldp (fun _ _ => ?_) _ _).trans ?_
    | simp only [↓kept_event, ↓State.kept_mk, ↓State.nf1, ↓State.nf2, ↓State.nf3, ↓State.nf4, ↓State.nf5, ↓State.nf6, ↓State.nf7]
    | dsimp only
    | split

theorem kept_setWset (s : State) (k : Nat) (w : WSet) :
    (State.setWset s k w).kept = s.kept := by
  unfold State.setWset
  repeat' first
    | with_reducible rfl
    | with_reducible refine kept_ite ?_ ?_
    | simp only [↓State.kept_mk, ↓State.nf1, ↓State.nf2, ↓State.nf3, ↓State.nf4, ↓State.nf5, ↓State.nf6, ↓State.nf7]
    | dsimp only
    | split

theorem kept_setShard (s : State) (b : Nat) (h : Shard) :
    (State.setShard s b h).kept = s.kept := by
  unfold State.setShard
  repeat' first
    | with_reducible rfl
    | with_reducible refine kept_ite ?_ ?_
    | simp only [↓State.kept_mk, ↓State.nf1, ↓State.nf2, ↓State.nf3, ↓State.nf4, ↓State.nf5, ↓State.nf6, ↓State.nf7]
    | dsimp only
    | split

theorem kept_dropShard (s : State) (b : Nat) :
    (State.dropShard s b).kept = s.kept := by
  unfold State.dropShard
  repeat' first
    | with_reducible rfl
    | with_reducible refine kept_ite ?_ ?_
    | simp only [↓State.kept_mk, ↓State.nf1, ↓State.nf2, ↓State.nf3, ↓State.nf4, ↓State.nf5, ↓State.nf6, ↓State.nf7]
    | dsimp only
    | split

theorem kept_wgtEvent (s : State) (owner : Option Nat) (set reason adapter gen obj : Nat) :
    (State.wgtEvent s owner set reason adapter gen obj).kept = s.kept := by
  unfold State.wgtEvent
  repeat' first
    | with_reducible rfl
    | with_reducible refine kept_ite ?_ ?_
    | simp only [↓kept_eventMgmt, ↓kept_eventCtx, ↓State.kept_mk, ↓State.nf1, ↓State.nf2, ↓State.nf3, ↓State.nf4, ↓State.nf5, ↓State.nf6, ↓State.nf7]
    | dsimp only
    | split

theorem kept_releaseGen (s : State) (set gen : Nat) (keep : Bool) :
    (State.releaseGen s set gen keep).kept = s.kept := by
  unfold State.releaseGen
  repeat' first
    | with_reducible rfl
    | with_reducible refine kept_ite ?_ ?_
    | with_reducible refine (kept_foldl (fun _ _ => ?_) _ _).trans ?_
    | with_reducible refine (kept_foldp (fun _ _ => ?_) _ _).trans ?_
    | simp only [↓kept_releaseObj, ↓kept_dropShard, ↓State.kept_mk, ↓State.nf1, ↓State.nf2, ↓State.nf3, ↓State.nf4, ↓State.nf5, ↓State.nf6, ↓State.nf7]
    | dsimp only
    | split

theorem kept_retireGen (s : State) (set gen : Nat) :
    (State.retireGen s set gen).kept = s.kept := by
  unfold State.retireGen
  repeat' first
    | with_reducible rfl
    | with_reducible refine kept_ite ?_ ?_
    | simp only [↓kept_setWset, ↓kept_wgtEvent, ↓kept_releaseGen, ↓State.kept_mk, ↓State.nf1, ↓State.nf2, ↓State.nf3, ↓State.nf4, ↓State.nf5, ↓State.nf6, ↓State.nf7]
    | dsimp only
    | split

theorem kept_pinsFell (s : State) (set gen adapter : Nat) :
    (State.pinsFell s set gen adapter).kept = s.kept := by
  unfold State.pinsFell
  repeat' first
    | with_reducible rfl
    | with_reducible refine kept_ite ?_ ?_
    | simp only [↓kept_releaseObj, ↓kept_dropShard, ↓kept_wgtEvent, ↓kept_retireGen, ↓State.kept_mk, ↓State.nf1, ↓State.nf2, ↓State.nf3, ↓State.nf4, ↓State.nf5, ↓State.nf6, ↓State.nf7]
    | dsimp only
    | split

theorem kept_partsZeros (s : State) (p : Plan) (set gen : Nat) :
    (State.partsZeros s p set gen).1.kept = s.kept := by
  unfold State.partsZeros
  repeat' first
    | with_reducible rfl
    | with_reducible refine kept_ite1 ?_ ?_
    | with_reducible refine (kept_foldl (fun _ _ => ?_) _ _).trans ?_
    | with_reducible refine (kept_foldp (fun _ _ => ?_) _ _).trans ?_
    | simp only [↓kept_anyRead, ↓State.kept_mk, ↓State.nf1, ↓State.nf2, ↓State.nf3, ↓State.nf4, ↓State.nf5, ↓State.nf6, ↓State.nf7]
    | dsimp only
    | split

theorem kept_genCheck (s : State) (p : Plan) (set gen : Nat) :
    (State.genCheck s p set gen).1.kept = s.kept := by
  unfold State.genCheck
  repeat' first
    | with_reducible rfl
    | with_reducible refine kept_ite1 ?_ ?_
    | simp only [↓kept_partsZeros, ↓State.kept_mk, ↓State.nf1, ↓State.nf2, ↓State.nf3, ↓State.nf4, ↓State.nf5, ↓State.nf6, ↓State.nf7]
    | dsimp only
    | split

theorem kept_shardHeader (s : State) (b : Nat) (o : Obj) :
    (State.shardHeader s b o).1.kept = s.kept := by
  unfold State.shardHeader
  repeat' first
    | with_reducible rfl
    | with_reducible refine kept_ite1 ?_ ?_
    | simp only [↓kept_anyRead, ↓State.kept_mk, ↓State.nf1, ↓State.nf2, ↓State.nf3, ↓State.nf4, ↓State.nf5, ↓State.nf6, ↓State.nf7]
    | dsimp only
    | split

theorem kept_shardDigest (s : State) (b : Nat) :
    (State.shardDigest s b).1.kept = s.kept := by
  unfold State.shardDigest
  repeat' first
    | with_reducible rfl
    | with_reducible refine kept_ite1 ?_ ?_
    | simp only [↓kept_anyRead, ↓State.kept_mk, ↓State.nf1, ↓State.nf2, ↓State.nf3, ↓State.nf4, ↓State.nf5, ↓State.nf6, ↓State.nf7]
    | dsimp only
    | split

theorem kept_unregister (s : State) (b : Nat) (h : Shard) :
    (State.unregister s b h).kept = s.kept := by
  unfold State.unregister
  repeat' first
    | with_reducible rfl
    | with_reducible refine kept_ite ?_ ?_
    | simp only [↓kept_setWset, ↓kept_dropShard, ↓State.kept_mk, ↓State.nf1, ↓State.nf2, ↓State.nf3, ↓State.nf4, ↓State.nf5, ↓State.nf6, ↓State.nf7]
    | dsimp only
    | split

theorem kept_answerShard (s : State) (r : Req) (h : Shard) (code : Code) :
    (State.answerShard s r h code).kept = s.kept := by
  unfold State.answerShard
  repeat' first
    | with_reducible rfl
    | with_reducible refine kept_ite ?_ ?_
    | simp only [↓kept_answer, ↓State.kept_mk, ↓State.nf1, ↓State.nf2, ↓State.nf3, ↓State.nf4, ↓State.nf5, ↓State.nf6, ↓State.nf7]
    | dsimp only
    | split

theorem kept_abortGen (s : State) (set gen : Nat) (w : WSet) :
    (State.abortGen s set gen w).kept = s.kept := by
  unfold State.abortGen
  repeat' first
    | with_reducible rfl
    | with_reducible refine kept_ite ?_ ?_
    | with_reducible refine (kept_foldl (fun _ _ => ?_) _ _).trans ?_
    | with_reducible refine (kept_foldp (fun _ _ => ?_) _ _).trans ?_
    | simp only [↓kept_setWset, ↓kept_dropShard, ↓kept_releaseGen, ↓kept_answerShard, ↓State.kept_mk, ↓State.nf1, ↓State.nf2, ↓State.nf3, ↓State.nf4, ↓State.nf5, ↓State.nf6, ↓State.nf7]
    | dsimp only
    | split

theorem kept_commitCheck (s : State) (set gen : Nat) :
    (State.commitCheck s set gen).1.kept = s.kept := by
  unfold State.commitCheck
  repeat' first
    | with_reducible rfl
    | with_reducible refine kept_ite1 ?_ ?_
    | with_reducible refine (kept_foldl (fun _ _ => ?_) _ _).trans ?_
    | with_reducible refine (kept_foldp (fun _ _ => ?_) _ _).trans ?_
    | simp only [↓kept_partsZeros, ↓State.kept_mk, ↓State.nf1, ↓State.nf2, ↓State.nf3, ↓State.nf4, ↓State.nf5, ↓State.nf6, ↓State.nf7]
    | dsimp only
    | split

theorem kept_switchGen (s : State) (set gen : Nat) (keep : Bool) :
    (State.switchGen s set gen keep).kept = s.kept := by
  unfold State.switchGen
  repeat' first
    | with_reducible rfl
    | with_reducible refine kept_ite ?_ ?_
    | simp only [↓kept_setWset, ↓kept_retireGen, ↓State.kept_mk, ↓State.nf1, ↓State.nf2, ↓State.nf3, ↓State.nf4, ↓State.nf5, ↓State.nf6, ↓State.nf7]
    | dsimp only
    | split

theorem kept_digestOne (s : State) (b : Nat) (h : Shard) :
    (State.digestOne s b h).kept = s.kept := by
  unfold State.digestOne
  repeat' first
    | with_reducible rfl
    | with_reducible refine kept_ite ?_ ?_
    | simp only [↓kept_raise, ↓kept_setShard, ↓kept_wgtEvent, ↓kept_shardDigest, ↓State.kept_mk, ↓State.nf1, ↓State.nf2, ↓State.nf3, ↓State.nf4, ↓State.nf5, ↓State.nf6, ↓State.nf7]
    | dsimp only
    | split

theorem kept_writeTiles (s : State) (c : CourtRec) (p : Plan) (k : Nat) (bs : List Byte) :
    (State.writeTiles s c p k bs).kept = s.kept := by
  unfold State.writeTiles
  repeat' first
    | with_reducible rfl
    | with_reducible refine kept_ite ?_ ?_
    | with_reducible refine (kept_foldl (fun _ _ => ?_) _ _).trans ?_
    | with_reducible refine (kept_foldp (fun _ _ => ?_) _ _).trans ?_
    | simp only [↓kept_modCore, ↓State.kept_mk, ↓State.nf1, ↓State.nf2, ↓State.nf3, ↓State.nf4, ↓State.nf5, ↓State.nf6, ↓State.nf7]
    | dsimp only
    | split

theorem kept_clearTiles (s : State) (c : CourtRec) (p : Plan) (k : Nat) :
    (State.clearTiles s c p k).kept = s.kept := by
  unfold State.clearTiles
  repeat' first
    | with_reducible rfl
    | with_reducible refine kept_ite ?_ ?_
    | with_reducible refine (kept_foldl (fun _ _ => ?_) _ _).trans ?_
    | with_reducible refine (kept_foldp (fun _ _ => ?_) _ _).trans ?_
    | simp only [↓kept_modCore, ↓State.kept_mk, ↓State.nf1, ↓State.nf2, ↓State.nf3, ↓State.nf4, ↓State.nf5, ↓State.nf6, ↓State.nf7]
    | dsimp only
    | split

theorem kept_benchMade {c : State × Code × Nat} {ctx : Nat} {img : List Byte} {n : W64} {r : State × Nat}
    (h : benchMade c ctx img n = some r) : r.1.kept = c.1.kept := by
  unfold benchMade at h
  split at h
  · cases h
  · obtain rfl := Option.some.inj h
    simp only [↓kept_chargeBytes, ↓State.kept_mk, ↓State.nf1, ↓State.nf2, ↓State.nf3, ↓State.nf4, ↓State.nf5, ↓State.nf6, ↓State.nf7, ↓kept_objWrite]


theorem kept_makeBench {s : State} {ctx : Nat} {img : List Byte} {n : W64} {r : State × Nat}
    (h : s.makeBench ctx img n = some r) : r.1.kept = s.kept := by
  unfold State.makeBench at h
  exact (kept_benchMade (Option.ite_none_left_eq_some.mp h).2).trans (kept_createObj ..)


theorem kept_addHolder (s : State) (b : Nat) :
    (State.addHolder s b).kept = s.kept := by
  unfold State.addHolder
  repeat' first
    | with_reducible rfl
    | with_reducible refine kept_ite ?_ ?_
    | simp only [↓State.kept_mk, ↓State.nf1, ↓State.nf2, ↓State.nf3, ↓State.nf4, ↓State.nf5, ↓State.nf6, ↓State.nf7]
    | dsimp only
    | split

theorem kept_freeBench (s : State) (b : Nat) :
    (State.freeBench s b).kept = s.kept := by
  unfold State.freeBench
  repeat' first
    | with_reducible rfl
    | with_reducible refine kept_ite ?_ ?_
    | simp only [↓kept_releaseObj, ↓State.kept_mk, ↓State.nf1, ↓State.nf2, ↓State.nf3, ↓State.nf4, ↓State.nf5, ↓State.nf6, ↓State.nf7]
    | dsimp only
    | split

theorem kept_dropHolder (s : State) (b : Nat) :
    (State.dropHolder s b).kept = s.kept := by
  unfold State.dropHolder
  repeat' first
    | with_reducible rfl
    | with_reducible refine kept_ite ?_ ?_
    | simp only [↓kept_freeBench, ↓State.kept_mk, ↓State.nf1, ↓State.nf2, ↓State.nf3, ↓State.nf4, ↓State.nf5, ↓State.nf6, ↓State.nf7]
    | dsimp only
    | split

theorem kept_setSeq (s : State) (i : Nat) (q : Seq) :
    (State.setSeq s i q).kept = s.kept := by
  unfold State.setSeq
  repeat' first
    | with_reducible rfl
    | with_reducible refine kept_ite ?_ ?_
    | simp only [↓State.kept_mk, ↓State.nf1, ↓State.nf2, ↓State.nf3, ↓State.nf4, ↓State.nf5, ↓State.nf6, ↓State.nf7]
    | dsimp only
    | split

theorem kept_modSeq (s : State) (i : Nat) (f : Seq → Seq) :
    (State.modSeq s i f).kept = s.kept := by
  unfold State.modSeq
  repeat' first
    | with_reducible rfl
    | with_reducible refine kept_ite ?_ ?_
    | simp only [↓State.kept_mk, ↓State.nf1, ↓State.nf2, ↓State.nf3, ↓State.nf4, ↓State.nf5, ↓State.nf6, ↓State.nf7]
    | dsimp only
    | split

theorem kept_benchInto (r : State × Nat) (i tick : Nat) : (benchInto r i tick).kept = r.1.kept :=
  (kept_modSeq ..).trans (kept_addHolder ..)


theorem kept_benchFrom {s t : State} {i : Nat} {q : Seq} {b : Playbook} {k : Nat} (h : s.benchFrom i q b k = some t) :
    t.kept = s.kept := by
  obtain ⟨r, hr, rfl⟩ := Option.map_eq_some_iff.mp h
  exact (kept_benchInto ..).trans (kept_makeBench hr)


theorem kept_benchSeq {s t : State} {i : Nat} (h : s.benchSeq i = some t) : t.kept = s.kept := by
  unfold State.benchSeq at h
  split at h
  · cases h
  · split at h
    · exact kept_benchFrom h
    · cases h


theorem kept_stageKernels (s : State) (court : Nat) :
    (State.stageKernels s court).kept = s.kept := by
  unfold State.stageKernels
  repeat' first
    | with_reducible rfl
    | with_reducible refine kept_ite ?_ ?_
    | with_reducible refine (kept_foldl (fun _ _ => ?_) _ _).trans ?_
    | with_reducible refine (kept_foldp (fun _ _ => ?_) _ _).trans ?_
    | simp only [↓kept_modClu, ↓State.kept_mk, ↓State.nf1, ↓State.nf2, ↓State.nf3, ↓State.nf4, ↓State.nf5, ↓State.nf6, ↓State.nf7]
    | dsimp only
    | split

theorem kept_setFb (s : State) (court layer : Nat) (r : FbRec) :
    (State.setFb s court layer r).kept = s.kept := by
  unfold State.setFb
  repeat' first
    | with_reducible rfl
    | with_reducible refine kept_ite ?_ ?_
    | simp only [↓State.kept_mk, ↓State.nf1, ↓State.nf2, ↓State.nf3, ↓State.nf4, ↓State.nf5, ↓State.nf6, ↓State.nf7]
    | dsimp only
    | split

theorem kept_startFb (s : State) (court id : Nat) (p : Plan) :
    (State.startFb s court id p).kept = s.kept := by
  unfold State.startFb
  repeat' first
    | with_reducible rfl
    | with_reducible refine kept_ite ?_ ?_
    | with_reducible refine (kept_foldl (fun _ _ => ?_) _ _).trans ?_
    | with_reducible refine (kept_foldp (fun _ _ => ?_) _ _).trans ?_
    | simp only [↓kept_setFb, ↓State.kept_mk, ↓State.nf1, ↓State.nf2, ↓State.nf3, ↓State.nf4, ↓State.nf5, ↓State.nf6, ↓State.nf7]
    | dsimp only
    | split

theorem kept_fbEvent (s : State) (court reason layer : Nat) (mode : Bool) (rate threshold : Nat) :
    (State.fbEvent s court reason layer mode rate threshold).kept = s.kept := by
  unfold State.fbEvent
  repeat' first
    | with_reducible rfl
    | with_reducible refine kept_ite ?_ ?_
    | with_reducible refine (kept_foldl (fun _ _ => ?_) _ _).trans ?_
    | with_reducible refine (kept_foldp (fun _ _ => ?_) _ _).trans ?_
    | simp only [↓kept_event, ↓kept_eventMgmt, ↓State.kept_mk, ↓State.nf1, ↓State.nf2, ↓State.nf3, ↓State.nf4, ↓State.nf5, ↓State.nf6, ↓State.nf7]
    | dsimp only
    | split

theorem kept_fbStep (s : State) (court layer sat elems : Nat) :
    (State.fbStep s court layer sat elems).kept = s.kept := by
  unfold State.fbStep
  repeat' first
    | with_reducible rfl
    | with_reducible refine kept_ite ?_ ?_
    | simp only [↓kept_setFb, ↓State.kept_mk, ↓State.nf1, ↓State.nf2, ↓State.nf3, ↓State.nf4, ↓State.nf5, ↓State.nf6, ↓State.nf7]
    | dsimp only
    | split

theorem kept_switchLayer (s : State) (court layer : Nat) (fb : Bool) :
    (State.switchLayer s court layer fb).kept = s.kept := by
  unfold State.switchLayer
  repeat' first
    | with_reducible rfl
    | with_reducible refine kept_ite ?_ ?_
    | simp only [↓kept_setFb, ↓kept_fbEvent, ↓State.kept_mk, ↓State.nf1, ↓State.nf2, ↓State.nf3, ↓State.nf4, ↓State.nf5, ↓State.nf6, ↓State.nf7]
    | dsimp only
    | split

theorem kept_replaceFail (s : State) (p : Plan) (old : Nat) :
    (State.replaceFail s p old).1.kept = s.kept := by
  unfold State.replaceFail
  repeat' first
    | with_reducible rfl
    | with_reducible refine kept_ite1 ?_ ?_
    | with_reducible refine (kept_foldl (fun _ _ => ?_) _ _).trans ?_
    | with_reducible refine (kept_foldp (fun _ _ => ?_) _ _).trans ?_
    | simp only [↓kept_genCheck, ↓State.kept_mk, ↓State.nf1, ↓State.nf2, ↓State.nf3, ↓State.nf4, ↓State.nf5, ↓State.nf6, ↓State.nf7]
    | dsimp only
    | split

theorem kept_imageRead (s : State) (r : Req) (addr n check : Nat) :
    (State.imageRead s r addr n check).1.kept = s.kept := by
  unfold State.imageRead
  repeat' first
    | with_reducible rfl
    | with_reducible refine kept_ite1 ?_ ?_
    | simp only [↓kept_objRead, ↓State.kept_mk, ↓State.nf1, ↓State.nf2, ↓State.nf3, ↓State.nf4, ↓State.nf5, ↓State.nf6, ↓State.nf7]
    | dsimp only
    | split

theorem kept_readPlan (s : State) (r : Req) (addr len : Nat) :
    (State.readPlan s r addr len).1.kept = s.kept := by
  unfold State.readPlan
  repeat' first
    | with_reducible rfl
    | with_reducible refine kept_ite1 ?_ ?_
    | simp only [↓kept_imageRead, ↓State.kept_mk, ↓State.nf1, ↓State.nf2, ↓State.nf3, ↓State.nf4, ↓State.nf5, ↓State.nf6, ↓State.nf7]
    | dsimp only
    | split

theorem kept_makeScores (s : State) (id ctx : Nat) (p : Plan) :
    (State.makeScores s id ctx p).kept = s.kept := by
  unfold State.makeScores
  repeat' first
    | with_reducible rfl
    | with_reducible refine kept_ite ?_ ?_
    | simp only [↓kept_createObj, ↓State.kept_mk, ↓State.nf1, ↓State.nf2, ↓State.nf3, ↓State.nf4, ↓State.nf5, ↓State.nf6, ↓State.nf7]
    | dsimp only
    | split

theorem kept_answerLoad (s : State) (r : Req) (f : Option PlanFail) (id : Nat) :
    (State.answerLoad s r f id).kept = s.kept := by
  unfold State.answerLoad
  repeat' first
    | with_reducible rfl
    | with_reducible refine kept_ite ?_ ?_
    | simp only [↓kept_answer, ↓State.kept_mk, ↓State.nf1, ↓State.nf2, ↓State.nf3, ↓State.nf4, ↓State.nf5, ↓State.nf6, ↓State.nf7]
    | dsimp only
    | split

theorem kept_getD {o : Option State} {d : State} {k : Kept} (h : ∀ t, o = some t → t.kept = k) (hd : d.kept = k) :
    (o.getD d).kept = k := by
  cases o with
  | none => exact hd
  | some t => exact h t rfl
theorem kept_carryOver {s t : State} {i new : Nat} {q : Seq} {p : Plan} {c : CourtRec} {tiles : List Byte}
    (h : State.carryOver s i new q p c tiles = some t) : t.kept = s.kept := by
  unfold State.carryOver at h
  split at h
  · cases h; exact (kept_setSeq ..).trans (kept_writeTiles ..)
  · split at h
    · cases h; exact kept_setSeq ..
    · obtain ⟨r, hr, rfl⟩ := Option.map_eq_some_iff.mp h
      exact (kept_setSeq ..).trans ((kept_addHolder ..).trans (kept_makeBench hr))


/-- A fold that may fail keeps what each of its steps keeps. -/
theorem kept_bindFold {α : Type} {g : State → α → Option State} (hg : ∀ s x t, g s x = some t → t.kept = s.kept) (l : List α)
    (o : Option State) (k : Kept) (h : ∀ t, o = some t → t.kept = k) :
    ∀ t, l.foldl (fun (o : Option State) x => o.bind (fun s => g s x)) o = some t → t.kept = k := by
  induction l generalizing o with
  | nil => exact h
  | cons x l ih =>
    refine ih _ ?_
    intro t ht
    obtain ⟨s, hs, hst⟩ := Option.bind_eq_some_iff.mp ht
    exact (hg _ _ _ hst).trans (h s hs)
theorem kept_carryAll {s t : State} {new : Nat} {p : Plan} {c : CourtRec} {held : List (Nat × List Byte)}
    (h : s.carryAll new p c held = some t) : t.kept = s.kept := by
  refine kept_bindFold (fun s x u hu => ?_) held (some s) s.kept (fun _ e => by cases e; rfl) t h
  split at hu
  · exact kept_carryOver hu
  · cases hu; rfl


theorem kept_settleScores (s : State) (new old : Nat) (b : Playbook) :
    (State.settleScores s new old b).kept = s.kept := by
  unfold State.settleScores
  repeat' first
    | with_reducible rfl
    | with_reducible refine kept_ite ?_ ?_
    | simp only [↓kept_releaseObj, ↓kept_makeScores, ↓State.kept_mk, ↓State.nf1, ↓State.nf2, ↓State.nf3, ↓State.nf4, ↓State.nf5, ↓State.nf6, ↓State.nf7]
    | dsimp only
    | split

theorem kept_listWrite (s : State) (q : Seq) (off : Nat) (bs : List Byte) :
    (State.listWrite s q off bs).kept = s.kept := by
  unfold State.listWrite
  repeat' first
    | with_reducible rfl
    | with_reducible refine kept_ite ?_ ?_
    | simp only [↓kept_objWrite, ↓State.kept_mk, ↓State.nf1, ↓State.nf2, ↓State.nf3, ↓State.nf4, ↓State.nf5, ↓State.nf6, ↓State.nf7]
    | dsimp only
    | split

theorem kept_makeList (s : State) (i court : Nat) (p : Plan) :
    (State.makeList s i court p).kept = s.kept := by
  unfold State.makeList
  repeat' first
    | with_reducible rfl
    | with_reducible refine kept_ite ?_ ?_
    | simp only [↓kept_createObj, ↓kept_modSeq, ↓State.kept_mk, ↓State.nf1, ↓State.nf2, ↓State.nf3, ↓State.nf4, ↓State.nf5, ↓State.nf6, ↓State.nf7]
    | dsimp only
    | split

theorem kept_uncave (s : State) (b : Nat) :
    (State.uncave s b).kept = s.kept := by
  unfold State.uncave
  repeat' first
    | with_reducible rfl
    | with_reducible refine kept_ite ?_ ?_
    | simp only [↓kept_setBlock, ↓State.kept_mk, ↓State.nf1, ↓State.nf2, ↓State.nf3, ↓State.nf4, ↓State.nf5, ↓State.nf6, ↓State.nf7]
    | dsimp only
    | split

theorem kept_dropList (s : State) (i : Nat) :
    (State.dropList s i).kept = s.kept := by
  unfold State.dropList
  repeat' first
    | with_reducible rfl
    | with_reducible refine kept_ite ?_ ?_
    | with_reducible refine (kept_foldl (fun _ _ => ?_) _ _).trans ?_
    | with_reducible refine (kept_foldp (fun _ _ => ?_) _ _).trans ?_
    | simp only [↓kept_dropObj, ↓kept_modSeq, ↓kept_uncave, ↓State.kept_mk, ↓State.nf1, ↓State.nf2, ↓State.nf3, ↓State.nf4, ↓State.nf5, ↓State.nf6, ↓State.nf7]
    | dsimp only
    | split

theorem kept_setEntry (s : State) (i n id : Nat) :
    (State.setEntry s i n id).kept = s.kept := by
  unfold State.setEntry
  repeat' first
    | with_reducible rfl
    | with_reducible refine kept_ite ?_ ?_
    | simp only [↓kept_setSeq, ↓kept_listWrite, ↓State.kept_mk, ↓State.nf1, ↓State.nf2, ↓State.nf3, ↓State.nf4, ↓State.nf5, ↓State.nf6, ↓State.nf7]
    | dsimp only
    | split

theorem kept_clearEntry (s : State) (i n : Nat) :
    (State.clearEntry s i n).kept = s.kept := by
  unfold State.clearEntry
  repeat' first
    | with_reducible rfl
    | with_reducible refine kept_ite ?_ ?_
    | simp only [↓kept_setSeq, ↓kept_listWrite, ↓State.kept_mk, ↓State.nf1, ↓State.nf2, ↓State.nf3, ↓State.nf4, ↓State.nf5, ↓State.nf6, ↓State.nf7]
    | dsimp only
    | split

theorem kept_setPage (s : State) (key : Nat) (p : Page) :
    (State.setPage s key p).kept = s.kept := by
  unfold State.setPage
  repeat' first
    | with_reducible rfl
    | with_reducible refine kept_ite ?_ ?_
    | simp only [↓State.kept_mk, ↓State.nf1, ↓State.nf2, ↓State.nf3, ↓State.nf4, ↓State.nf5, ↓State.nf6, ↓State.nf7]
    | dsimp only
    | split

theorem kept_unref (s : State) (key : Nat) :
    (State.unref s key).kept = s.kept := by
  unfold State.unref
  repeat' first
    | with_reducible rfl
    | with_reducible refine kept_ite ?_ ?_
    | simp only [↓kept_setPage, ↓State.kept_mk, ↓State.nf1, ↓State.nf2, ↓State.nf3, ↓State.nf4, ↓State.nf5, ↓State.nf6, ↓State.nf7]
    | dsimp only
    | split

theorem kept_openPage (s : State) (i : Nat) (p : Plan) (a : AttEnt) (g k slot tokens : Nat) :
    (State.openPage s i p a g k slot tokens).1.kept = s.kept := by
  unfold State.openPage
  repeat' first
    | with_reducible rfl
    | with_reducible refine kept_ite1 ?_ ?_
    | simp only [↓kept_setEntry, ↓kept_setPage, ↓kept_unref, ↓State.kept_mk, ↓State.nf1, ↓State.nf2, ↓State.nf3, ↓State.nf4, ↓State.nf5, ↓State.nf6, ↓State.nf7]
    | dsimp only
    | split

theorem kept_takeSlots (s : State) (i tokens : Nat) :
    (State.takeSlots s i tokens).kept = s.kept := by
  unfold State.takeSlots
  repeat' first
    | with_reducible rfl
    | with_reducible refine kept_ite ?_ ?_
    | simp only [↓kept_modSeq, ↓State.kept_mk, ↓State.nf1, ↓State.nf2, ↓State.nf3, ↓State.nf4, ↓State.nf5, ↓State.nf6, ↓State.nf7]
    | dsimp only
    | split

theorem kept_writePages (s : State) (p : Plan) (a : AttEnt) (tokens : Nat → Nat) (cells : List (Nat × Nat × Nat)) :
    (State.writePages s p a tokens cells).1.kept = s.kept := by
  unfold State.writePages
  repeat' first
    | with_reducible rfl
    | with_reducible refine kept_ite1 ?_ ?_
    | with_reducible refine (kept_foldl (fun _ _ => ?_) _ _).trans ?_
    | with_reducible refine (kept_foldp (fun _ _ => ?_) _ _).trans ?_
    | simp only [↓kept_openPage, ↓State.kept_mk, ↓State.nf1, ↓State.nf2, ↓State.nf3, ↓State.nf4, ↓State.nf5, ↓State.nf6, ↓State.nf7]
    | dsimp only
    | split

theorem kept_sealPage (s : State) (key : Nat) :
    (State.sealPage s key).kept = s.kept := by
  unfold State.sealPage
  repeat' first
    | with_reducible rfl
    | with_reducible refine kept_ite ?_ ?_
    | simp only [↓kept_setPage, ↓State.kept_mk, ↓State.nf1, ↓State.nf2, ↓State.nf3, ↓State.nf4, ↓State.nf5, ↓State.nf6, ↓State.nf7]
    | dsimp only
    | split

theorem kept_sealAll (s : State) (q : Seq) :
    (State.sealAll s q).kept = s.kept := by
  unfold State.sealAll
  repeat' first
    | with_reducible rfl
    | with_reducible refine kept_ite ?_ ?_
    | with_reducible refine (kept_foldl (fun _ _ => ?_) _ _).trans ?_
    | with_reducible refine (kept_foldp (fun _ _ => ?_) _ _).trans ?_
    | simp only [↓kept_sealPage, ↓State.kept_mk, ↓State.nf1, ↓State.nf2, ↓State.nf3, ↓State.nf4, ↓State.nf5, ↓State.nf6, ↓State.nf7]
    | dsimp only
    | split

theorem kept_retain (s : State) (i : Nat) :
    (State.retain s i).kept = s.kept := by
  unfold State.retain
  repeat' first
    | with_reducible rfl
    | with_reducible refine kept_ite ?_ ?_
    | with_reducible refine (kept_foldl (fun _ _ => ?_) _ _).trans ?_
    | with_reducible refine (kept_foldp (fun _ _ => ?_) _ _).trans ?_
    | simp only [↓kept_clearEntry, ↓kept_unref, ↓State.kept_mk, ↓State.nf1, ↓State.nf2, ↓State.nf3, ↓State.nf4, ↓State.nf5, ↓State.nf6, ↓State.nf7]
    | dsimp only
    | split

theorem kept_releasePages (s : State) (i : Nat) :
    (State.releasePages s i).1.kept = s.kept := by
  unfold State.releasePages
  repeat' first
    | with_reducible rfl
    | with_reducible refine kept_ite1 ?_ ?_
    | with_reducible refine (kept_foldl (fun _ _ => ?_) _ _).trans ?_
    | with_reducible refine (kept_foldp (fun _ _ => ?_) _ _).trans ?_
    | simp only [↓kept_modSeq, ↓kept_dropList, ↓kept_unref, ↓State.kept_mk, ↓State.nf1, ↓State.nf2, ↓State.nf3, ↓State.nf4, ↓State.nf5, ↓State.nf6, ↓State.nf7]
    | dsimp only
    | split

theorem kept_shareList (s : State) (parent : Seq) (child : Nat) :
    (State.shareList s parent child).kept = s.kept := by
  unfold State.shareList
  repeat' first
    | with_reducible rfl
    | with_reducible refine kept_ite ?_ ?_
    | with_reducible refine (kept_foldl (fun _ _ => ?_) _ _).trans ?_
    | with_reducible refine (kept_foldp (fun _ _ => ?_) _ _).trans ?_
    | simp only [↓kept_modSeq, ↓kept_setEntry, ↓kept_setPage, ↓State.kept_mk, ↓State.nf1, ↓State.nf2, ↓State.nf3, ↓State.nf4, ↓State.nf5, ↓State.nf6, ↓State.nf7]
    | dsimp only
    | split

theorem kept_startMove (s : State) (b : Nat) (o : Obj) (tier : Nat) (req : Option Req) :
    (State.startMove s b o tier req).kept = s.kept := by
  unfold State.startMove
  repeat' first
    | with_reducible rfl
    | with_reducible refine kept_ite ?_ ?_
    | simp only [↓kept_chargeQuota, ↓kept_setObj, ↓State.kept_mk, ↓State.nf1, ↓State.nf2, ↓State.nf3, ↓State.nf4, ↓State.nf5, ↓State.nf6, ↓State.nf7]
    | dsimp only
    | split

theorem kept_setPkg (s : State) (k : Nat) (p : Pkg) :
    (State.setPkg s k p).kept = s.kept := by
  unfold State.setPkg
  repeat' first
    | with_reducible rfl
    | with_reducible refine kept_ite ?_ ?_
    | simp only [↓State.kept_mk, ↓State.nf1, ↓State.nf2, ↓State.nf3, ↓State.nf4, ↓State.nf5, ↓State.nf6, ↓State.nf7]
    | dsimp only
    | split

theorem kept_wear (s : State) (k : Nat) :
    (State.wear s k).kept = s.kept := by
  unfold State.wear
  repeat' first
    | with_reducible rfl
    | with_reducible refine kept_ite ?_ ?_
    | simp only [↓kept_drawn, ↓kept_setPkg, ↓State.kept_mk, ↓State.nf1, ↓State.nf2, ↓State.nf3, ↓State.nf4, ↓State.nf5, ↓State.nf6, ↓State.nf7]
    | dsimp only
    | split

theorem kept_program (s : State) (img : List Byte) :
    (State.program s img).1.kept = s.kept := by
  unfold State.program
  repeat' first
    | with_reducible rfl
    | with_reducible refine kept_ite1 ?_ ?_
    | simp only [↓kept_wear, ↓State.kept_mk, ↓State.nf1, ↓State.nf2, ↓State.nf3, ↓State.nf4, ↓State.nf5, ↓State.nf6, ↓State.nf7]
    | dsimp only
    | split

theorem kept_writeChunks (s : State) (cs : List Nat) (img : List Byte) :
    (State.writeChunks s cs img).kept = s.kept := by
  unfold State.writeChunks
  repeat' first
    | with_reducible rfl
    | with_reducible refine kept_ite ?_ ?_
    | with_reducible refine (kept_foldl (fun _ _ => ?_) _ _).trans ?_
    | with_reducible refine (kept_foldp (fun _ _ => ?_) _ _).trans ?_
    | simp only [↓kept_stackWrite, ↓State.kept_mk, ↓State.nf1, ↓State.nf2, ↓State.nf3, ↓State.nf4, ↓State.nf5, ↓State.nf6, ↓State.nf7]
    | dsimp only
    | split

theorem kept_placeBlock (s : State) (b kind tier : Nat) (data : List Byte) :
    (State.placeBlock s b kind tier data).1.kept = s.kept := by
  unfold State.placeBlock
  repeat' first
    | with_reducible rfl
    | with_reducible refine kept_ite1 ?_ ?_
    | simp only [↓kept_stackWrite, ↓kept_setRegion, ↓kept_takeChunks, ↓kept_program, ↓kept_writeChunks, ↓State.kept_mk, ↓State.nf1, ↓State.nf2, ↓State.nf3, ↓State.nf4, ↓State.nf5, ↓State.nf6, ↓State.nf7]
    | dsimp only
    | split

theorem kept_commitBlock (s : State) (b : Nat) (o : Obj) (m : Move) (k : Nat) (h : Home) :
    (State.commitBlock s b o m k h).1.kept = s.kept := by
  unfold State.commitBlock
  repeat' first
    | with_reducible rfl
    | with_reducible refine kept_ite1 ?_ ?_
    | simp only [↓kept_charge, ↓kept_chargeQuota, ↓kept_unchargeQuota, ↓kept_setBlock, ↓kept_setObj, ↓kept_freeHome, ↓kept_pieceAny, ↓kept_placeBlock, ↓State.kept_mk, ↓State.nf1, ↓State.nf2, ↓State.nf3, ↓State.nf4, ↓State.nf5, ↓State.nf6, ↓State.nf7]
    | dsimp only
    | split

theorem kept_endMove (s : State) (b : Nat) (code : Code) :
    (State.endMove s b code).kept = s.kept := by
  unfold State.endMove
  repeat' first
    | with_reducible rfl
    | with_reducible refine kept_ite ?_ ?_
    | simp only [↓kept_answer, ↓kept_unchargeQuota, ↓kept_setObj, ↓State.kept_mk, ↓State.nf1, ↓State.nf2, ↓State.nf3, ↓State.nf4, ↓State.nf5, ↓State.nf6, ↓State.nf7]
    | dsimp only
    | split

theorem kept_freeFor (s : State) (b : Nat) (r : Req) :
    (State.freeFor s b r).kept = s.kept := by
  unfold State.freeFor
  repeat' first
    | with_reducible rfl
    | with_reducible refine kept_ite ?_ ?_
    | simp only [↓kept_answer, ↓kept_releaseObj, ↓State.kept_mk, ↓State.nf1, ↓State.nf2, ↓State.nf3, ↓State.nf4, ↓State.nf5, ↓State.nf6, ↓State.nf7]
    | dsimp only
    | split

theorem kept_moveNext (s : State) (obj : Nat) (o : Obj) (m : Move) :
    (State.moveNext s obj o m).kept = s.kept := by
  unfold State.moveNext
  repeat' first
    | with_reducible rfl
    | with_reducible refine kept_ite ?_ ?_
    | simp only [↓kept_commitBlock, ↓kept_endMove, ↓kept_freeFor, ↓State.kept_mk, ↓State.nf1, ↓State.nf2, ↓State.nf3, ↓State.nf4, ↓State.nf5, ↓State.nf6, ↓State.nf7]
    | dsimp only
    | split

theorem kept_moveOn (s : State) (obj : Nat) (o : Obj) (m : Move) :
    (State.moveOn s obj o m).kept = s.kept := by
  unfold State.moveOn
  repeat' first
    | with_reducible rfl
    | with_reducible refine kept_ite ?_ ?_
    | simp only [↓kept_setObj, ↓kept_moveNext, ↓State.kept_mk, ↓State.nf1, ↓State.nf2, ↓State.nf3, ↓State.nf4, ↓State.nf5, ↓State.nf6, ↓State.nf7]
    | dsimp only
    | split

theorem kept_awaitBudget (s : State) (obj : Nat) :
    (State.awaitBudget s obj).kept = s.kept := by
  unfold State.awaitBudget
  repeat' first
    | with_reducible rfl
    | with_reducible refine kept_ite ?_ ?_
    | simp only [↓State.kept_mk, ↓State.nf1, ↓State.nf2, ↓State.nf3, ↓State.nf4, ↓State.nf5, ↓State.nf6, ↓State.nf7]
    | dsimp only
    | split

theorem kept_copyRaw (s : State) (src dst n : Nat) :
    (State.copyRaw s src dst n).kept = s.kept := by
  unfold State.copyRaw
  repeat' first
    | with_reducible rfl
    | with_reducible refine kept_ite ?_ ?_
    | with_reducible refine (kept_foldl (fun _ _ => ?_) _ _).trans ?_
    | with_reducible refine (kept_foldp (fun _ _ => ?_) _ _).trans ?_
    | simp only [↓kept_touch, ↓kept_stackClear, ↓State.kept_mk, ↓State.nf1, ↓State.nf2, ↓State.nf3, ↓State.nf4, ↓State.nf5, ↓State.nf6, ↓State.nf7]
    | dsimp only
    | split

theorem kept_moveChunk (s : State) (c : Nat) :
    (State.moveChunk s c).kept = s.kept := by
  unfold State.moveChunk
  repeat' first
    | with_reducible rfl
    | with_reducible refine kept_ite ?_ ?_
    | simp only [↓kept_takeChunk, ↓kept_freeChunk, ↓kept_copyRaw, ↓State.kept_mk, ↓State.nf1, ↓State.nf2, ↓State.nf3, ↓State.nf4, ↓State.nf5, ↓State.nf6, ↓State.nf7]
    | dsimp only
    | split

theorem kept_countRelocation (s : State) (tier n : Nat) :
    (State.countRelocation s tier n).kept = s.kept := by
  unfold State.countRelocation
  repeat' first
    | with_reducible rfl
    | with_reducible refine kept_ite ?_ ?_
    | simp only [↓kept_charge, ↓State.kept_mk, ↓State.nf1, ↓State.nf2, ↓State.nf3, ↓State.nf4, ↓State.nf5, ↓State.nf6, ↓State.nf7]
    | dsimp only
    | split

theorem kept_startReloc (s : State) (block r : Nat) :
    (State.startReloc s block r).kept = s.kept := by
  unfold State.startReloc
  repeat' first
    | with_reducible rfl
    | with_reducible refine kept_ite ?_ ?_
    | simp only [↓kept_setRegion, ↓kept_copyRaw, ↓State.kept_mk, ↓State.nf1, ↓State.nf2, ↓State.nf3, ↓State.nf4, ↓State.nf5, ↓State.nf6, ↓State.nf7]
    | dsimp only
    | split

theorem kept_recopy (s : State) (r : Nat) (x : Reloc) :
    (State.recopy s r x).kept = s.kept := by
  unfold State.recopy
  repeat' first
    | with_reducible rfl
    | with_reducible refine kept_ite ?_ ?_
    | with_reducible refine (kept_foldl (fun _ _ => ?_) _ _).trans ?_
    | with_reducible refine (kept_foldp (fun _ _ => ?_) _ _).trans ?_
    | simp only [↓kept_copyRaw, ↓State.kept_mk, ↓State.nf1, ↓State.nf2, ↓State.nf3, ↓State.nf4, ↓State.nf5, ↓State.nf6, ↓State.nf7]
    | dsimp only
    | split

theorem kept_commitReloc (s : State) (block r : Nat) (x : Reloc) :
    (State.commitReloc s block r x).kept = s.kept := by
  unfold State.commitReloc
  repeat' first
    | with_reducible rfl
    | with_reducible refine kept_ite ?_ ?_
    | simp only [↓kept_stackClear, ↓kept_clearRegion, ↓kept_setBlock, ↓kept_countRelocation, ↓State.kept_mk, ↓State.nf1, ↓State.nf2, ↓State.nf3, ↓State.nf4, ↓State.nf5, ↓State.nf6, ↓State.nf7]
    | dsimp only
    | split

theorem kept_stepReloc (s : State) (block r : Nat) (x : Reloc) :
    (State.stepReloc s block r x).kept = s.kept := by
  unfold State.stepReloc
  repeat' first
    | with_reducible rfl
    | with_reducible refine kept_ite ?_ ?_
    | simp only [↓kept_recopy, ↓kept_commitReloc, ↓State.kept_mk, ↓State.nf1, ↓State.nf2, ↓State.nf3, ↓State.nf4, ↓State.nf5, ↓State.nf6, ↓State.nf7]
    | dsimp only
    | split

theorem kept_compact (s : State) :
    (State.compact s).kept = s.kept := by
  unfold State.compact
  repeat' first
    | with_reducible rfl
    | with_reducible refine kept_ite ?_ ?_
    | with_reducible refine (kept_foldl (fun _ _ => ?_) _ _).trans ?_
    | with_reducible refine (kept_foldp (fun _ _ => ?_) _ _).trans ?_
    | simp only [↓kept_moveChunk, ↓kept_countRelocation, ↓State.kept_mk, ↓State.nf1, ↓State.nf2, ↓State.nf3, ↓State.nf4, ↓State.nf5, ↓State.nf6, ↓State.nf7]
    | dsimp only
    | split

theorem kept_moveImage (s : State) (b : Nat) (img : List Byte) :
    (State.moveImage s b img).kept = s.kept := by
  unfold State.moveImage
  repeat' first
    | with_reducible rfl
    | with_reducible refine kept_ite ?_ ?_
    | simp only [↓kept_setBlock, ↓kept_corruptRecord, ↓kept_program, ↓kept_countRelocation, ↓State.kept_mk, ↓State.nf1, ↓State.nf2, ↓State.nf3, ↓State.nf4, ↓State.nf5, ↓State.nf6, ↓State.nf7]
    | dsimp only
    | split

theorem kept_losePages (s : State) (pkg : Nat) (lost : List (Nat × Nat)) :
    (State.losePages s pkg lost).kept = s.kept := by
  unfold State.losePages
  repeat' first
    | with_reducible rfl
    | with_reducible refine kept_ite ?_ ?_
    | with_reducible refine (kept_foldl (fun _ _ => ?_) _ _).trans ?_
    | with_reducible refine (kept_foldp (fun _ _ => ?_) _ _).trans ?_
    | simp only [↓kept_setBlock, ↓State.kept_mk, ↓State.nf1, ↓State.nf2, ↓State.nf3, ↓State.nf4, ↓State.nf5, ↓State.nf6, ↓State.nf7]
    | dsimp only
    | split

theorem kept_level (s : State) (pkg : Nat) :
    (State.level s pkg).kept = s.kept := by
  unfold State.level
  repeat' first
    | with_reducible rfl
    | with_reducible refine kept_ite ?_ ?_
    | simp only [↓kept_moveImage, ↓State.kept_mk, ↓State.nf1, ↓State.nf2, ↓State.nf3, ↓State.nf4, ↓State.nf5, ↓State.nf6, ↓State.nf7]
    | dsimp only
    | split

theorem kept_setCtx (s : State) (c : Nat) (x : CtxSt) :
    (State.setCtx s c x).kept = s.kept := by
  unfold State.setCtx
  repeat' first
    | with_reducible rfl
    | with_reducible refine kept_ite ?_ ?_
    | simp only [↓State.kept_mk, ↓State.nf1, ↓State.nf2, ↓State.nf3, ↓State.nf4, ↓State.nf5, ↓State.nf6, ↓State.nf7]
    | dsimp only
    | split

theorem kept_markCtx (s : State) (ctx : Nat) :
    (State.markCtx s ctx).kept = s.kept := by
  unfold State.markCtx
  repeat' first
    | with_reducible rfl
    | with_reducible refine kept_ite ?_ ?_
    | simp only [↓kept_setCtx, ↓State.kept_mk, ↓State.nf1, ↓State.nf2, ↓State.nf3, ↓State.nf4, ↓State.nf5, ↓State.nf6, ↓State.nf7]
    | dsimp only
    | split

theorem kept_withhold (s : State) :
    (State.withhold s).kept = s.kept := by
  unfold State.withhold
  repeat' first
    | with_reducible rfl
    | with_reducible refine kept_ite ?_ ?_
    | simp only [↓kept_setCtx, ↓kept_markCtx, ↓State.kept_mk, ↓State.nf1, ↓State.nf2, ↓State.nf3, ↓State.nf4, ↓State.nf5, ↓State.nf6, ↓State.nf7]
    | dsimp only
    | split

theorem kept_setCourtPwr (s : State) (court : Nat) (p : CourtPwr) :
    (State.setCourtPwr s court p).kept = s.kept := by
  unfold State.setCourtPwr
  repeat' first
    | with_reducible rfl
    | with_reducible refine kept_ite ?_ ?_
    | simp only [↓State.kept_mk, ↓State.nf1, ↓State.nf2, ↓State.nf3, ↓State.nf4, ↓State.nf5, ↓State.nf6, ↓State.nf7]
    | dsimp only
    | split

theorem kept_markCourt (s : State) (court : Nat) :
    (State.markCourt s court).kept = s.kept := by
  unfold State.markCourt
  repeat' first
    | with_reducible rfl
    | with_reducible refine kept_ite ?_ ?_
    | simp only [↓kept_setCourtPwr, ↓State.kept_mk, ↓State.nf1, ↓State.nf2, ↓State.nf3, ↓State.nf4, ↓State.nf5, ↓State.nf6, ↓State.nf7]
    | dsimp only
    | split

theorem kept_mark (s : State) :
    (State.mark s).kept = s.kept := by
  unfold State.mark
  repeat' first
    | with_reducible rfl
    | with_reducible refine kept_ite ?_ ?_
    | with_reducible refine (kept_foldl (fun _ _ => ?_) _ _).trans ?_
    | with_reducible refine (kept_foldp (fun _ _ => ?_) _ _).trans ?_
    | simp only [↓kept_markCtx, ↓kept_withhold, ↓kept_markCourt, ↓State.kept_mk, ↓State.nf1, ↓State.nf2, ↓State.nf3, ↓State.nf4, ↓State.nf5, ↓State.nf6, ↓State.nf7]
    | dsimp only
    | split

theorem kept_engage (s : State) (ctx : Nat) :
    (State.engage s ctx).kept = s.kept := by
  unfold State.engage
  repeat' first
    | with_reducible rfl
    | with_reducible refine kept_ite ?_ ?_
    | simp only [↓kept_setCtx, ↓State.kept_mk, ↓State.nf1, ↓State.nf2, ↓State.nf3, ↓State.nf4, ↓State.nf5, ↓State.nf6, ↓State.nf7]
    | dsimp only
    | split

theorem kept_disengage (s : State) (ctx : Nat) :
    (State.disengage s ctx).kept = s.kept := by
  unfold State.disengage
  repeat' first
    | with_reducible rfl
    | with_reducible refine kept_ite ?_ ?_
    | simp only [↓kept_setCtx, ↓State.kept_mk, ↓State.nf1, ↓State.nf2, ↓State.nf3, ↓State.nf4, ↓State.nf5, ↓State.nf6, ↓State.nf7]
    | dsimp only
    | split

theorem kept_putStep (s : State) (t : Step) :
    (State.putStep s t).kept = s.kept := by
  unfold State.putStep
  repeat' first
    | with_reducible rfl
    | with_reducible refine kept_ite ?_ ?_
    | simp only [↓State.kept_mk, ↓State.nf1, ↓State.nf2, ↓State.nf3, ↓State.nf4, ↓State.nf5, ↓State.nf6, ↓State.nf7]
    | dsimp only
    | split

theorem kept_failStep (s : State) (t : Step) (code : Code) (failAt : Option Nat) (source : Nat) :
    (State.failStep s t code failAt source).kept = s.kept := by
  unfold State.failStep
  repeat' first
    | with_reducible rfl
    | with_reducible refine kept_ite ?_ ?_
    | simp only [↓kept_raise, ↓kept_putStep, ↓State.kept_mk, ↓State.nf1, ↓State.nf2, ↓State.nf3, ↓State.nf4, ↓State.nf5, ↓State.nf6, ↓State.nf7]
    | dsimp only
    | split

theorem kept_clearObj (s : State) (a n : Nat) :
    (State.clearObj s a n).kept = s.kept := by
  unfold State.clearObj
  repeat' first
    | with_reducible rfl
    | with_reducible refine kept_ite ?_ ?_
    | with_reducible refine (kept_foldl (fun _ _ => ?_) _ _).trans ?_
    | with_reducible refine (kept_foldp (fun _ _ => ?_) _ _).trans ?_
    | simp only [↓kept_stackClear, ↓State.kept_mk, ↓State.nf1, ↓State.nf2, ↓State.nf3, ↓State.nf4, ↓State.nf5, ↓State.nf6, ↓State.nf7]
    | dsimp only
    | split

theorem kept_openLayer (s : State) (t : Step) (b : Playbook) (i : Nat) (l : Layer) (a : AttEnt) :
    (State.openLayer s t b i l a).1.kept = s.kept := by
  unfold State.openLayer
  repeat' first
    | with_reducible rfl
    | with_reducible refine kept_ite1 ?_ ?_
    | with_reducible refine (kept_foldl (fun _ _ => ?_) _ _).trans ?_
    | with_reducible refine (kept_foldp (fun _ _ => ?_) _ _).trans ?_
    | simp only [↓kept_takeSlots, ↓kept_writePages, ↓State.kept_mk, ↓State.nf1, ↓State.nf2, ↓State.nf3, ↓State.nf4, ↓State.nf5, ↓State.nf6, ↓State.nf7]
    | dsimp only
    | split

theorem kept_countSkips (s : State) (rs : List (Run × Nat)) :
    (State.countSkips s rs).kept = s.kept := by
  unfold State.countSkips
  repeat' first
    | with_reducible rfl
    | with_reducible refine kept_ite ?_ ?_
    | with_reducible refine (kept_foldl (fun _ _ => ?_) _ _).trans ?_
    | with_reducible refine (kept_foldp (fun _ _ => ?_) _ _).trans ?_
    | simp only [↓kept_modClu, ↓State.kept_mk, ↓State.nf1, ↓State.nf2, ↓State.nf3, ↓State.nf4, ↓State.nf5, ↓State.nf6, ↓State.nf7]
    | dsimp only
    | split

theorem kept_startLayer (s : State) (t : Step) (b : Playbook) (i : Nat) :
    (State.startLayer s t b i).kept = s.kept := by
  unfold State.startLayer
  repeat' first
    | with_reducible rfl
    | with_reducible refine kept_ite ?_ ?_
    | simp only [↓kept_drawn, ↓kept_putStep, ↓kept_failStep, ↓kept_openLayer, ↓kept_countSkips, ↓State.kept_mk, ↓State.nf1, ↓State.nf2, ↓State.nf3, ↓State.nf4, ↓State.nf5, ↓State.nf6, ↓State.nf7]
    | dsimp only
    | split

theorem kept_advance (s : State) (ctx num : Nat) (fuel : Nat) : (s.advance ctx num fuel).kept = s.kept := by
  induction fuel generalizing s with
  | zero => rfl
  | succ n ih =>
    unfold State.advance
    split
    · rfl
    · refine kept_ite rfl (kept_ite (kept_putStep ..) (kept_ite rfl ?_))
      split
      · exact kept_putStep ..
      · split
        · exact kept_putStep ..
        · exact (ih _).trans (kept_startLayer ..)


theorem kept_formStep {s t : State} {court ctx : Nat} {lc : Bool} {book : Nat} {sv : List Nat} {ents : List StepEnt}
    {modes : AMap Bool} {req : Option Req} (h : s.formStep court ctx lc book sv ents modes req = some t) : t.kept = s.kept := by
  unfold State.formStep at h
  split at h
  · cases h
  · dsimp only at h
    split at h
    · cases h
    · obtain rfl := Option.some.inj h
      clear h
      have h3 : ∀ (c : Prop) [Decidable c] (u : State) (a n : Nat), u.kept = s.kept → (if c then u else u.clearObj a n).kept = s.kept :=
        fun _ _ _ _ _ hu => kept_ite hu ((kept_clearObj ..).trans hu)
      have h2 : ∀ (x : CtxSt) (st : List Step) (o e), ({ s.setCtx ctx x with
          sch := { (s.setCtx ctx x).sch with steps := st, order := o }, wgt := { (s.setCtx ctx x).wgt with extra := e } } : State).kept = s.kept :=
        fun _ _ _ _ => rfl
      refine kept_ite ((kept_failStep ..).trans (h3 _ _ _ _ (h2 ..))) ?_
      have h4 : ∀ (u : State), u.kept = s.kept → (ents.foldl (fun s e => (s.retain e.seq).modSeq e.seq (fun q => { q with branchImg := none })) u).kept = s.kept :=
        fun u hu => (kept_foldl (fun _ _ => (kept_modSeq ..).trans (kept_retain ..)) _ _).trans hu
      split
      · exact (kept_putStep ..).trans (h4 _ (h3 _ _ _ _ (h2 ..)))
      · exact (kept_advance ..).trans ((kept_startLayer ..).trans (h4 _ (h3 _ _ _ _ (h2 ..))))


theorem kept_addTokens (s : State) (ac : Access) (i : Nat) (n : Int) :
    (State.addTokens s ac i n).kept = s.kept := by
  unfold State.addTokens
  repeat' first
    | with_reducible rfl
    | with_reducible refine kept_ite ?_ ?_
    | simp only [↓kept_objVat, ↓kept_modSeq, ↓State.kept_mk, ↓State.nf1, ↓State.nf2, ↓State.nf3, ↓State.nf4, ↓State.nf5, ↓State.nf6, ↓State.nf7]
    | dsimp only
    | split

theorem kept_takeToken (s : State) (i : Nat) :
    (State.takeToken s i).kept = s.kept := by
  unfold State.takeToken
  repeat' first
    | with_reducible rfl
    | with_reducible refine kept_ite ?_ ?_
    | simp only [↓kept_addTokens, ↓State.kept_mk, ↓State.nf1, ↓State.nf2, ↓State.nf3, ↓State.nf4, ↓State.nf5, ↓State.nf6, ↓State.nf7]
    | dsimp only
    | split

theorem kept_seqEvent (s : State) (i : Nat) (reason : Nat) (status : Code) :
    (State.seqEvent s i reason status).kept = s.kept := by
  unfold State.seqEvent
  repeat' first
    | with_reducible rfl
    | with_reducible refine kept_ite ?_ ?_
    | simp only [↓kept_event, ↓State.kept_mk, ↓State.nf1, ↓State.nf2, ↓State.nf3, ↓State.nf4, ↓State.nf5, ↓State.nf6, ↓State.nf7]
    | dsimp only
    | split

theorem kept_rejectOver (s : State) (lead i : Nat) :
    (State.rejectOver s lead i).kept = s.kept := by
  unfold State.rejectOver
  repeat' first
    | with_reducible rfl
    | with_reducible refine kept_ite ?_ ?_
    | simp only [↓kept_modClu, ↓kept_modSeq, ↓kept_takeToken, ↓kept_seqEvent, ↓State.kept_mk, ↓State.nf1, ↓State.nf2, ↓State.nf3, ↓State.nf4, ↓State.nf5, ↓State.nf6, ↓State.nf7]
    | dsimp only
    | split

theorem kept_formFor (s : State) (court ctx : Nat) (lc : Bool) :
    (State.formFor s court ctx lc).kept = s.kept := by
  unfold State.formFor
  repeat' first
    | with_reducible rfl
    | with_reducible refine kept_ite ?_ ?_
    | with_reducible refine (kept_foldl (fun _ _ => ?_) _ _).trans ?_
    | with_reducible refine (kept_foldp (fun _ _ => ?_) _ _).trans ?_
    | with_reducible exact kept_formStep (by assumption)
    | with_reducible refine (kept_formStep (by assumption)).trans ?_
    | simp only [↓kept_modClu, ↓kept_modSeq, ↓kept_takeToken, ↓kept_rejectOver, ↓State.kept_mk, ↓State.nf1, ↓State.nf2, ↓State.nf3, ↓State.nf4, ↓State.nf5, ↓State.nf6, ↓State.nf7]
    | dsimp only
    | split

theorem kept_setRole (s : State) (port role : Nat) :
    (State.setRole s port role).kept = s.kept := by
  unfold State.setRole
  repeat' first
    | with_reducible rfl
    | with_reducible refine kept_ite ?_ ?_
    | simp only [↓State.kept_mk, ↓State.nf1, ↓State.nf2, ↓State.nf3, ↓State.nf4, ↓State.nf5, ↓State.nf6, ↓State.nf7]
    | dsimp only
    | split

theorem kept_setLink (s : State) (port : Nat) (l : Link) :
    (State.setLink s port l).kept = s.kept := by
  unfold State.setLink
  repeat' first
    | with_reducible rfl
    | with_reducible refine kept_ite ?_ ?_
    | simp only [↓State.kept_mk, ↓State.nf1, ↓State.nf2, ↓State.nf3, ↓State.nf4, ↓State.nf5, ↓State.nf6, ↓State.nf7]
    | dsimp only
    | split

theorem kept_countFlits (s : State) (n : Nat) :
    (State.countFlits s n).kept = s.kept := by
  unfold State.countFlits
  repeat' first
    | with_reducible rfl
    | with_reducible refine kept_ite ?_ ?_
    | simp only [↓kept_addAcc, ↓State.kept_mk, ↓State.nf1, ↓State.nf2, ↓State.nf3, ↓State.nf4, ↓State.nf5, ↓State.nf6, ↓State.nf7]
    | dsimp only
    | split

theorem kept_pushFlit (s : State) (port : Nat) (f : Flit) :
    (State.pushFlit s port f).kept = s.kept := by
  unfold State.pushFlit
  repeat' first
    | with_reducible rfl
    | with_reducible refine kept_ite ?_ ?_
    | simp only [↓kept_setLink, ↓kept_countFlits, ↓State.kept_mk, ↓State.nf1, ↓State.nf2, ↓State.nf3, ↓State.nf4, ↓State.nf5, ↓State.nf6, ↓State.nf7]
    | dsimp only
    | split

theorem kept_emit (s : State) (down : Bool) (f : Flit) :
    (State.emit s down f).kept = s.kept := by
  unfold State.emit
  repeat' first
    | with_reducible rfl
    | with_reducible refine kept_ite ?_ ?_
    | simp only [↓kept_pushFlit, ↓State.kept_mk, ↓State.nf1, ↓State.nf2, ↓State.nf3, ↓State.nf4, ↓State.nf5, ↓State.nf6, ↓State.nf7]
    | dsimp only
    | split

theorem kept_startTransfer (s : State) (kind unit layer addr dst vc : Nat) (data : List Byte) :
    (State.startTransfer s kind unit layer addr dst vc data).kept = s.kept := by
  unfold State.startTransfer
  repeat' first
    | with_reducible rfl
    | with_reducible refine kept_ite ?_ ?_
    | with_reducible refine (kept_foldl (fun _ _ => ?_) _ _).trans ?_
    | with_reducible refine (kept_foldp (fun _ _ => ?_) _ _).trans ?_
    | simp only [↓kept_emit, ↓State.kept_mk, ↓State.nf1, ↓State.nf2, ↓State.nf3, ↓State.nf4, ↓State.nf5, ↓State.nf6, ↓State.nf7]
    | dsimp only
    | split

theorem kept_sendRecords (s : State) (t : Step) (p : Plan) (m : Merging) (l : Layer) :
    (State.sendRecords s t p m l).1.kept = s.kept := by
  unfold State.sendRecords
  repeat' first
    | with_reducible rfl
    | with_reducible refine kept_ite1 ?_ ?_
    | with_reducible refine (kept_foldl (fun _ _ => ?_) _ _).trans ?_
    | with_reducible refine (kept_foldp (fun _ _ => ?_) _ _).trans ?_
    | simp only [↓kept_anyRead, ↓kept_startTransfer, ↓State.kept_mk, ↓State.nf1, ↓State.nf2, ↓State.nf3, ↓State.nf4, ↓State.nf5, ↓State.nf6, ↓State.nf7]
    | dsimp only
    | split

theorem kept_startRun (s : State) (p : Nat) (b : Playbook) (l : Layer) (r0 : Run) :
    (State.startRun s p b l r0).kept = s.kept := by
  unfold State.startRun
  repeat' first
    | with_reducible rfl
    | with_reducible refine kept_ite ?_ ?_
    | simp only [↓kept_modClu, ↓kept_modCore, ↓kept_startCore, ↓kept_putStep, ↓State.kept_mk, ↓State.nf1, ↓State.nf2, ↓State.nf3, ↓State.nf4, ↓State.nf5, ↓State.nf6, ↓State.nf7]
    | dsimp only
    | split

theorem kept_stagePage (s : State) (p : Nat) (r : Run) (d : PageDesc) :
    (State.stagePage s p r d).kept = s.kept := by
  unfold State.stagePage
  repeat' first
    | with_reducible rfl
    | with_reducible refine kept_ite ?_ ?_
    | simp only [↓kept_modClu, ↓kept_touch, ↓kept_objRead, ↓kept_chargeBytesAt, ↓State.kept_mk, ↓State.nf1, ↓State.nf2, ↓State.nf3, ↓State.nf4, ↓State.nf5, ↓State.nf6, ↓State.nf7]
    | dsimp only
    | split

theorem kept_postScore (s : State) (r : Run) (b : Playbook) (l : Layer) :
    (State.postScore s r b l).kept = s.kept := by
  unfold State.postScore
  repeat' first
    | with_reducible rfl
    | with_reducible refine kept_ite ?_ ?_
    | simp only [↓kept_objWrite, ↓State.kept_mk, ↓State.nf1, ↓State.nf2, ↓State.nf3, ↓State.nf4, ↓State.nf5, ↓State.nf6, ↓State.nf7]
    | dsimp only
    | split

theorem kept_countHuddle (s : State) (r : Run) (t : Step) :
    (State.countHuddle s r t).kept = s.kept := by
  unfold State.countHuddle
  repeat' first
    | with_reducible rfl
    | with_reducible refine kept_ite ?_ ?_
    | simp only [↓kept_objVat, ↓State.kept_mk, ↓State.nf1, ↓State.nf2, ↓State.nf3, ↓State.nf4, ↓State.nf5, ↓State.nf6, ↓State.nf7]
    | dsimp only
    | split

theorem kept_chargeWork (s : State) (p line : Nat) :
    (State.chargeWork s p line).kept = s.kept := by
  unfold State.chargeWork
  repeat' first
    | with_reducible rfl
    | with_reducible refine kept_ite ?_ ?_
    | with_reducible refine (kept_foldl (fun _ _ => ?_) _ _).trans ?_
    | with_reducible refine (kept_foldp (fun _ _ => ?_) _ _).trans ?_
    | simp only [↓kept_modCore, ↓kept_addAcc, ↓State.kept_mk, ↓State.nf1, ↓State.nf2, ↓State.nf3, ↓State.nf4, ↓State.nf5, ↓State.nf6, ↓State.nf7]
    | dsimp only
    | split

theorem kept_chargeRun (s : State) (p : Nat) (r : Run) :
    (State.chargeRun s p r).kept = s.kept := by
  unfold State.chargeRun
  repeat' first
    | with_reducible rfl
    | with_reducible refine kept_ite ?_ ?_
    | simp only [↓kept_chargeAt, ↓kept_chargeWork, ↓State.kept_mk, ↓State.nf1, ↓State.nf2, ↓State.nf3, ↓State.nf4, ↓State.nf5, ↓State.nf6, ↓State.nf7]
    | dsimp only
    | split

theorem kept_finishRun (s : State) (p : Nat) (c : CoreRegs) (r : Run) (code : Code) :
    (State.finishRun s p c r code).kept = s.kept := by
  unfold State.finishRun
  repeat' first
    | with_reducible rfl
    | with_reducible refine kept_ite ?_ ?_
    | simp only [↓kept_modCore, ↓kept_putStep, ↓kept_failStep, ↓kept_advance, ↓kept_postScore, ↓kept_countHuddle, ↓kept_chargeRun, ↓State.kept_mk, ↓State.nf1, ↓State.nf2, ↓State.nf3, ↓State.nf4, ↓State.nf5, ↓State.nf6, ↓State.nf7]
    | dsimp only
    | split

theorem kept_settleCore (s : State) (p : Nat) :
    (State.settleCore s p).kept = s.kept := by
  unfold State.settleCore
  repeat' first
    | with_reducible rfl
    | with_reducible refine kept_ite ?_ ?_
    | simp only [↓kept_stopNow, ↓State.kept_mk, ↓State.nf1, ↓State.nf2, ↓State.nf3, ↓State.nf4, ↓State.nf5, ↓State.nf6, ↓State.nf7]
    | dsimp only
    | split

theorem kept_haloCopy (s : State) (b : Nat) (h : HaloEnt) (dir : Nat) (data : List Byte) :
    (State.haloCopy s b h dir data).kept = s.kept := by
  unfold State.haloCopy
  repeat' first
    | with_reducible rfl
    | with_reducible refine kept_ite ?_ ?_
    | simp only [↓kept_modCore, ↓kept_touch, ↓State.kept_mk, ↓State.nf1, ↓State.nf2, ↓State.nf3, ↓State.nf4, ↓State.nf5, ↓State.nf6, ↓State.nf7]
    | dsimp only
    | split

theorem kept_haloSide {s t : State} {us : List WorkUnit} {a i : Nat} {h : HaloEnt} {dir : Nat} {two : Bool}
    (e : s.haloSide us a i h dir two = some t) : t.kept = s.kept := by
  unfold State.haloSide at e
  dsimp only at e
  repeat' split at e
  all_goals cases e
  all_goals first
    | rfl
    | exact kept_haloCopy ..
    | exact kept_modClu ..
    | exact (kept_modClu ..).trans ((kept_haloCopy ..).trans (kept_haloCopy ..))


theorem kept_haloPost {s t : State} {core : Nat} {w : W32} {r : Run} (h : s.haloPost core w r = some t) : t.kept = s.kept := by
  unfold State.haloPost at h
  dsimp only at h
  split at h
  · split at h
    · split at h
      · cases h; rfl
      · obtain ⟨u, hu, ht⟩ := Option.bind_eq_some_iff.mp h
        split at ht
        · exact (kept_haloSide ht).trans (kept_haloSide hu)
        · cases ht; exact kept_haloSide hu
    · cases h; rfl
  · cases h; rfl


theorem kept_mergeScan (s : State) (t : Step) (b : Playbook) (mg : Merging) :
    (State.mergeScan s t b mg).1.kept = s.kept := by
  unfold State.mergeScan
  repeat' first
    | with_reducible rfl
    | with_reducible refine kept_ite1 ?_ ?_
    | with_reducible refine (kept_foldl (fun _ _ => ?_) _ _).trans ?_
    | with_reducible refine (kept_foldp (fun _ _ => ?_) _ _).trans ?_
    | simp only [↓kept_drawn, ↓kept_objWrite, ↓kept_anyRead, ↓State.kept_mk, ↓State.nf1, ↓State.nf2, ↓State.nf3, ↓State.nf4, ↓State.nf5, ↓State.nf6, ↓State.nf7]
    | dsimp only
    | split

theorem kept_mergeNow (s : State) (t : Step) (b : Playbook) (mg : Merging) : (State.mergeNow s t b mg).kept = s.kept := by
  unfold State.mergeNow
  dsimp only
  refine kept_ite (kept_ite ((kept_failStep ..).trans (kept_mergeScan ..))
    ((kept_advance ..).trans ((kept_putStep ..).trans (kept_mergeScan ..)))) ?_
  have h : ∀ (u : Step) (q : List Run), ({ (s.putStep u).drawn with sch := { (s.putStep u).drawn.sch with queue := q } } : State).kept = s.kept :=
    fun u _ => (kept_drawn (s.putStep u)).trans (kept_putStep s u)
  exact kept_ite ((kept_advance ..).trans (h ..)) (h ..)


theorem kept_endEntry (s : State) (t : Step) (e : StepEnt) :
    (State.endEntry s t e).kept = s.kept := by
  unfold State.endEntry
  repeat' first
    | with_reducible rfl
    | with_reducible refine kept_ite ?_ ?_
    | with_reducible refine (kept_foldl (fun _ _ => ?_) _ _).trans ?_
    | with_reducible refine (kept_foldp (fun _ _ => ?_) _ _).trans ?_
    | simp only [↓kept_charge, ↓kept_setSeq, ↓kept_sealPage, ↓kept_seqEvent, ↓State.kept_mk, ↓State.nf1, ↓State.nf2, ↓State.nf3, ↓State.nf4, ↓State.nf5, ↓State.nf6, ↓State.nf7]
    | dsimp only
    | split

theorem kept_endCounts (s : State) (t : Step) :
    (State.endCounts s t).kept = s.kept := by
  unfold State.endCounts
  repeat' first
    | with_reducible rfl
    | with_reducible refine kept_ite ?_ ?_
    | with_reducible refine (kept_foldl (fun _ _ => ?_) _ _).trans ?_
    | with_reducible refine (kept_foldp (fun _ _ => ?_) _ _).trans ?_
    | simp only [↓kept_fbStep, ↓State.kept_mk, ↓State.nf1, ↓State.nf2, ↓State.nf3, ↓State.nf4, ↓State.nf5, ↓State.nf6, ↓State.nf7]
    | dsimp only
    | split

theorem kept_countIdle (s : State) :
    (State.countIdle s).kept = s.kept := by
  unfold State.countIdle
  repeat' first
    | with_reducible rfl
    | with_reducible refine kept_ite ?_ ?_
    | simp only [↓kept_addAcc, ↓State.kept_mk, ↓State.nf1, ↓State.nf2, ↓State.nf3, ↓State.nf4, ↓State.nf5, ↓State.nf6, ↓State.nf7]
    | dsimp only
    | split

theorem kept_countUnstated (s : State) :
    (State.countUnstated s).kept = s.kept := by
  unfold State.countUnstated
  repeat' first
    | with_reducible rfl
    | with_reducible refine kept_ite ?_ ?_
    | with_reducible refine (kept_foldl (fun _ _ => ?_) _ _).trans ?_
    | with_reducible refine (kept_foldp (fun _ _ => ?_) _ _).trans ?_
    | simp only [↓kept_drawn, ↓State.kept_mk, ↓State.nf1, ↓State.nf2, ↓State.nf3, ↓State.nf4, ↓State.nf5, ↓State.nf6, ↓State.nf7]
    | dsimp only
    | split

theorem kept_foldLedger (s : State) :
    (State.foldLedger s).kept = s.kept := by
  unfold State.foldLedger
  repeat' first
    | with_reducible rfl
    | with_reducible refine kept_ite ?_ ?_
    | with_reducible refine (kept_foldl (fun _ _ => ?_) _ _).trans ?_
    | with_reducible refine (kept_foldp (fun _ _ => ?_) _ _).trans ?_
    | simp only [↓kept_countIdle, ↓kept_countUnstated, ↓State.kept_mk, ↓State.nf1, ↓State.nf2, ↓State.nf3, ↓State.nf4, ↓State.nf5, ↓State.nf6, ↓State.nf7]
    | dsimp only
    | split

theorem kept_streamTilesOf (s : State) (q : Seq) (b : Playbook) :
    (State.streamTilesOf s q b).1.kept = s.kept := by
  unfold State.streamTilesOf
  repeat' first
    | with_reducible rfl
    | with_reducible refine kept_ite1 ?_ ?_
    | simp only [↓kept_objRead, ↓kept_chargeBytes, ↓kept_anyRead, ↓State.kept_mk, ↓State.nf1, ↓State.nf2, ↓State.nf3, ↓State.nf4, ↓State.nf5, ↓State.nf6, ↓State.nf7]
    | dsimp only
    | split

theorem kept_endBranches (s : State) (i : Nat) :
    (State.endBranches s i).kept = s.kept := by
  unfold State.endBranches
  repeat' first
    | with_reducible rfl
    | with_reducible refine kept_ite ?_ ?_
    | simp only [↓kept_freeBench, ↓kept_modSeq, ↓State.kept_mk, ↓State.nf1, ↓State.nf2, ↓State.nf3, ↓State.nf4, ↓State.nf5, ↓State.nf6, ↓State.nf7]
    | dsimp only
    | split

theorem kept_dropStream (s : State) (i : Nat) :
    (State.dropStream s i).kept = s.kept := by
  unfold State.dropStream
  repeat' first
    | with_reducible rfl
    | with_reducible refine kept_ite ?_ ?_
    | simp only [↓kept_dropHolder, ↓kept_setSeq, ↓kept_endBranches, ↓State.kept_mk, ↓State.nf1, ↓State.nf2, ↓State.nf3, ↓State.nf4, ↓State.nf5, ↓State.nf6, ↓State.nf7]
    | dsimp only
    | split

theorem kept_installStream (s : State) (i k : Nat) (b : Playbook) (tiles : List Byte) (num : W64) :
    (State.installStream s i k b tiles num).kept = s.kept := by
  unfold State.installStream
  repeat' first
    | with_reducible rfl
    | with_reducible refine kept_ite ?_ ?_
    | simp only [↓kept_writeTiles, ↓kept_modSeq, ↓kept_dropStream, ↓State.kept_mk, ↓State.nf1, ↓State.nf2, ↓State.nf3, ↓State.nf4, ↓State.nf5, ↓State.nf6, ↓State.nf7]
    | dsimp only
    | split

theorem kept_programBlocks (s : State) (b : Nat) (ks : List Nat) (img : List Byte) : (s.programBlocks b ks img).kept = s.kept := by
  induction ks generalizing s img with
  | nil => rfl
  | cons k ks ih =>
    refine (ih _ _).trans ?_
    simp only [↓State.kept_mk, ↓State.nf1, ↓State.nf2, ↓State.nf3, ↓State.nf4, ↓State.nf5, ↓State.nf6, ↓State.nf7, ↓kept_setBlock, ↓kept_program]


theorem kept_caveImageAt (s : State) (ctx : Nat) (img : List Byte) (seqNo : W64) (o : Obj) (b : Nat) :
    (State.caveImageAt s ctx img seqNo o b).kept = s.kept := by
  unfold State.caveImageAt
  repeat' first
    | with_reducible rfl
    | with_reducible refine kept_ite ?_ ?_
    | simp only [↓kept_charge, ↓kept_setObj, ↓kept_programBlocks, ↓State.kept_mk, ↓State.nf1, ↓State.nf2, ↓State.nf3, ↓State.nf4, ↓State.nf5, ↓State.nf6, ↓State.nf7]
    | dsimp only
    | split

theorem kept_makeCaveImage {s : State} {ctx : Nat} {img : List Byte} {n : W64} {r : State × Nat}
    (h : s.makeCaveImage ctx img n = some r) : r.1.kept = s.kept := by
  unfold State.makeCaveImage at h
  dsimp only at h
  split at h
  · cases h
  · cases h; exact kept_caveImageAt ..


theorem kept_caveSeq {s t : State} {i : Nat} (h : s.caveSeq i = some t) : t.kept = s.kept := by
  unfold State.caveSeq at h
  split at h
  · cases h
  · split at h
    · obtain ⟨r, hr, rfl⟩ := Option.map_eq_some_iff.mp h
      exact (kept_modSeq ..).trans ((kept_addHolder ..).trans ((kept_endBranches ..).trans (kept_makeCaveImage hr)))
    · cases h


theorem kept_freeCaved (s : State) :
    (State.freeCaved s).kept = s.kept := by
  unfold State.freeCaved
  repeat' first
    | with_reducible rfl
    | with_reducible refine kept_ite ?_ ?_
    | with_reducible refine (kept_foldl (fun _ _ => ?_) _ _).trans ?_
    | with_reducible refine (kept_foldp (fun _ _ => ?_) _ _).trans ?_
    | simp only [↓kept_uncave, ↓State.kept_mk, ↓State.nf1, ↓State.nf2, ↓State.nf3, ↓State.nf4, ↓State.nf5, ↓State.nf6, ↓State.nf7]
    | dsimp only
    | split

theorem kept_pruneDone (s : State) (g futures pages : Nat) :
    (State.pruneDone s g futures pages).kept = s.kept := by
  unfold State.pruneDone
  repeat' first
    | with_reducible rfl
    | with_reducible refine kept_ite ?_ ?_
    | simp only [↓kept_answer, ↓State.kept_mk, ↓State.nf1, ↓State.nf2, ↓State.nf3, ↓State.nf4, ↓State.nf5, ↓State.nf6, ↓State.nf7]
    | dsimp only
    | split

theorem kept_dropChildren (s : State) (is : List Nat) :
    (State.dropChildren s is).kept = s.kept := by
  unfold State.dropChildren
  repeat' first
    | with_reducible rfl
    | with_reducible refine kept_ite ?_ ?_
    | with_reducible refine (kept_foldl (fun _ _ => ?_) _ _).trans ?_
    | with_reducible refine (kept_foldp (fun _ _ => ?_) _ _).trans ?_
    | simp only [↓kept_dropList, ↓State.kept_mk, ↓State.nf1, ↓State.nf2, ↓State.nf3, ↓State.nf4, ↓State.nf5, ↓State.nf6, ↓State.nf7]
    | dsimp only
    | split

theorem kept_abandon (s : State) (w : Wait) :
    (State.abandon s w).kept = s.kept := by
  unfold State.abandon
  repeat' first
    | with_reducible rfl
    | with_reducible refine kept_ite ?_ ?_
    | simp only [↓kept_refuse, ↓kept_pruneDone, ↓kept_dropChildren, ↓State.kept_mk, ↓State.nf1, ↓State.nf2, ↓State.nf3, ↓State.nf4, ↓State.nf5, ↓State.nf6, ↓State.nf7]
    | dsimp only
    | split

theorem kept_clearScore (s : State) (q : Seq) (i : Nat) :
    (State.clearScore s q i).kept = s.kept := by
  unfold State.clearScore
  repeat' first
    | with_reducible rfl
    | with_reducible refine kept_ite ?_ ?_
    | simp only [↓kept_clearObj, ↓State.kept_mk, ↓State.nf1, ↓State.nf2, ↓State.nf3, ↓State.nf4, ↓State.nf5, ↓State.nf6, ↓State.nf7]
    | dsimp only
    | split

theorem kept_endSeq (s : State) (i : Nat) :
    (State.endSeq s i).1.kept = s.kept := by
  unfold State.endSeq
  repeat' first
    | with_reducible rfl
    | with_reducible refine kept_ite1 ?_ ?_
    | with_reducible refine (kept_foldl (fun _ _ => ?_) _ _).trans ?_
    | with_reducible refine (kept_foldp (fun _ _ => ?_) _ _).trans ?_
    | simp only [↓kept_unchargeQuota, ↓kept_pinsFell, ↓kept_releasePages, ↓kept_disengage, ↓kept_addTokens, ↓kept_seqEvent, ↓kept_dropStream, ↓kept_freeCaved, ↓kept_abandon, ↓kept_clearScore, ↓State.kept_mk, ↓State.nf1, ↓State.nf2, ↓State.nf3, ↓State.nf4, ↓State.nf5, ↓State.nf6, ↓State.nf7]
    | dsimp only
    | split

theorem kept_popWait (s : State) (i : Nat) :
    (State.popWait s i).kept = s.kept := by
  unfold State.popWait
  repeat' first
    | with_reducible rfl
    | with_reducible refine kept_ite ?_ ?_
    | simp only [↓kept_modSeq, ↓State.kept_mk, ↓State.nf1, ↓State.nf2, ↓State.nf3, ↓State.nf4, ↓State.nf5, ↓State.nf6, ↓State.nf7]
    | dsimp only
    | split

theorem kept_importCheck (s : State) (r : Req) (q : Seq) (b : Playbook) (src len : Nat) (check : Bool) (expect : Nat) :
    (State.importCheck s r q b src len check expect).1.kept = s.kept := by
  unfold State.importCheck
  repeat' first
    | with_reducible rfl
    | with_reducible refine kept_ite1 ?_ ?_
    | simp only [↓kept_objRead, ↓State.kept_mk, ↓State.nf1, ↓State.nf2, ↓State.nf3, ↓State.nf4, ↓State.nf5, ↓State.nf6, ↓State.nf7]
    | dsimp only
    | split

theorem kept_viaBuffer (s : State) (q : Seq) (b : Playbook) (o : Nat) :
    (State.viaBuffer s q b o).1.kept = s.kept := by
  unfold State.viaBuffer
  repeat' first
    | with_reducible rfl
    | with_reducible refine kept_ite1 ?_ ?_
    | simp only [↓kept_objRead, ↓kept_objWrite, ↓kept_chargeBytes, ↓kept_anyRead, ↓State.kept_mk, ↓State.nf1, ↓State.nf2, ↓State.nf3, ↓State.nf4, ↓State.nf5, ↓State.nf6, ↓State.nf7]
    | dsimp only
    | split

theorem kept_importTiles (s : State) (q : Seq) (b : Playbook) :
    (State.importTiles s q b).1.kept = s.kept := by
  unfold State.importTiles
  repeat' first
    | with_reducible rfl
    | with_reducible refine kept_ite1 ?_ ?_
    | simp only [↓kept_streamTilesOf, ↓kept_viaBuffer, ↓State.kept_mk, ↓State.nf1, ↓State.nf2, ↓State.nf3, ↓State.nf4, ↓State.nf5, ↓State.nf6, ↓State.nf7]
    | dsimp only
    | split

theorem kept_assignFuture (s : State) (i parent family depth : Nat) :
    (State.assignFuture s i parent family depth).kept = s.kept := by
  unfold State.assignFuture
  repeat' first
    | with_reducible rfl
    | with_reducible refine kept_ite ?_ ?_
    | simp only [↓kept_modSeq, ↓kept_clearScore, ↓State.kept_mk, ↓State.nf1, ↓State.nf2, ↓State.nf3, ↓State.nf4, ↓State.nf5, ↓State.nf6, ↓State.nf7]
    | dsimp only
    | split

theorem kept_createStream (s : State) (i : Nat) (b : Playbook) :
    (State.createStream s i b).kept = s.kept := by
  unfold State.createStream
  repeat' first
    | with_reducible rfl
    | with_reducible refine kept_ite ?_ ?_
    | simp only [↓kept_clearTiles, ↓kept_modSeq, ↓State.kept_mk, ↓State.nf1, ↓State.nf2, ↓State.nf3, ↓State.nf4, ↓State.nf5, ↓State.nf6, ↓State.nf7]
    | dsimp only
    | split

theorem kept_granted (s : State) (n : Nat) :
    (State.granted s n).kept = s.kept := by
  unfold State.granted
  repeat' first
    | with_reducible rfl
    | with_reducible refine kept_ite ?_ ?_
    | simp only [↓State.kept_mk, ↓State.nf1, ↓State.nf2, ↓State.nf3, ↓State.nf4, ↓State.nf5, ↓State.nf6, ↓State.nf7]
    | dsimp only
    | split

theorem kept_answerBatch (s : State) (r : Req) (code : Code) (num idx : Nat) :
    (State.answerBatch s r code num idx).kept = s.kept := by
  unfold State.answerBatch
  repeat' first
    | with_reducible rfl
    | with_reducible refine kept_ite ?_ ?_
    | simp only [↓kept_answer, ↓State.kept_mk, ↓State.nf1, ↓State.nf2, ↓State.nf3, ↓State.nf4, ↓State.nf5, ↓State.nf6, ↓State.nf7]
    | dsimp only
    | split

theorem kept_holdChildren (s : State) (q : Seq) (mbx n : Nat) : (s.holdChildren q mbx n).1.kept = s.kept := by
  induction n generalizing s with
  | zero => rfl
  | succ n ih =>
    unfold State.holdChildren
    split
    · rfl
    · exact (ih _).trans (kept_setSeq ..)


theorem kept_orElse {α : Type} {o : Option (State × α)} {f : Unit → Option (State × α)} {k : Kept}
    (ho : ∀ r, o = some r → r.1.kept = k) (hf : ∀ r, f () = some r → r.1.kept = k) : ∀ r, o.orElse f = some r → r.1.kept = k := by
  cases o with
  | none => exact hf
  | some x => exact ho
theorem kept_branchImage {s : State} {i : Nat} {q : Seq} {b : Playbook} {tiles : List Byte} {r : State × Option Nat}
    (h : s.branchImage i q b tiles = some r) : r.1.kept = s.kept := by
  unfold State.branchImage at h
  split at h
  · cases h; rfl
  · split at h
    · cases h; rfl
    · obtain ⟨m, hm, rfl⟩ := Option.map_eq_some_iff.mp h
      exact (kept_modSeq ..).trans (kept_orElse (fun _ e => kept_makeBench e) (fun _ e => kept_makeCaveImage e) _ hm)


theorem kept_placeChild (s : State) (i : Nat) (b : Playbook) (tiles : List Byte) (readable : Bool) (parent : Seq) (img : Option Nat) :
    (State.placeChild s i b tiles readable parent img).1.kept = s.kept := by
  unfold State.placeChild
  repeat' first
    | with_reducible rfl
    | with_reducible refine kept_ite1 ?_ ?_
    | simp only [↓kept_chargeBytes, ↓kept_addHolder, ↓kept_modSeq, ↓kept_installStream, ↓State.kept_mk, ↓State.nf1, ↓State.nf2, ↓State.nf3, ↓State.nf4, ↓State.nf5, ↓State.nf6, ↓State.nf7]
    | dsimp only
    | split

theorem kept_placeChildren (s : State) (b : Playbook) (tiles : List Byte) (readable : Bool) (parent : Seq) (img : Option Nat)
    (is : List Nat) (n : Nat) : (s.placeChildren b tiles readable parent img is n).1.kept = s.kept := by
  induction is generalizing s n with
  | nil => rfl
  | cons i is ih => exact (ih _ _).trans (kept_placeChild ..)


theorem kept_bearChild (s : State) (parent : Seq) (i : Nat) :
    (State.bearChild s parent i).kept = s.kept := by
  unfold State.bearChild
  repeat' first
    | with_reducible rfl
    | with_reducible refine kept_ite ?_ ?_
    | simp only [↓kept_modSeq, ↓kept_shareList, ↓kept_assignFuture, ↓State.kept_mk, ↓State.nf1, ↓State.nf2, ↓State.nf3, ↓State.nf4, ↓State.nf5, ↓State.nf6, ↓State.nf7]
    | dsimp only
    | split

theorem kept_settleBranches (s : State) (i : Nat) :
    (State.settleBranches s i).kept = s.kept := by
  unfold State.settleBranches
  repeat' first
    | with_reducible rfl
    | with_reducible refine kept_ite ?_ ?_
    | simp only [↓kept_freeBench, ↓State.kept_mk, ↓State.nf1, ↓State.nf2, ↓State.nf3, ↓State.nf4, ↓State.nf5, ↓State.nf6, ↓State.nf7]
    | dsimp only
    | split

theorem kept_bearAll (s : State) (r : Req) (i : Nat) (q : Seq) (b : Playbook) (is : List Nat) (tiles : List Byte) (readable : Bool)
    (img : Option Nat) : (State.bearAll s r i q b is tiles readable img).kept = s.kept := by
  unfold State.bearAll
  refine (kept_mark ..).trans ((kept_answer ..).trans ((kept_settleBranches ..).trans ((kept_popWait ..).trans ?_)))
  refine (kept_ite1 (kept_placeChildren ..) rfl).trans ?_
  exact kept_foldl (fun _ _ => kept_bearChild ..) _ _


theorem kept_orderPrune (s : State) (g i : Nat) (subtree : Bool) :
    (State.orderPrune s g i subtree).kept = s.kept := by
  unfold State.orderPrune
  repeat' first
    | with_reducible rfl
    | with_reducible refine kept_ite ?_ ?_
    | simp only [↓kept_modSeq, ↓State.kept_mk, ↓State.nf1, ↓State.nf2, ↓State.nf3, ↓State.nf4, ↓State.nf5, ↓State.nf6, ↓State.nf7]
    | dsimp only
    | split

theorem kept_openPrunes (s : State) (r : Req) (left : Nat) (body : Option (List Byte)) :
    (State.openPrunes s r left body).1.kept = s.kept := by
  unfold State.openPrunes
  repeat' first
    | with_reducible rfl
    | with_reducible refine kept_ite1 ?_ ?_
    | simp only [↓State.kept_mk, ↓State.nf1, ↓State.nf2, ↓State.nf3, ↓State.nf4, ↓State.nf5, ↓State.nf6, ↓State.nf7]
    | dsimp only
    | split

theorem kept_benchFold (l : List Nat) (o : Option State) (k : Kept) (h : ∀ t, o = some t → t.kept = k) :
    ∀ t, l.foldl (fun (o : Option State) i => match o with | none => none | some t => t.benchSeq i) o = some t → t.kept = k := by
  induction l generalizing o with
  | nil => exact h
  | cons i l ih =>
    refine ih _ ?_
    intro t ht
    cases o with
    | none => cases ht
    | some u => exact (kept_benchSeq ht).trans (h u rfl)
theorem kept_benchAll {s t : State} {ctx : Nat} (h : s.benchAll ctx = some t) : t.kept = s.kept :=
  kept_benchFold _ (some s) _ (fun _ e => by cases e; rfl) t h


theorem kept_leaveSlot (s : State) (ctx st : Nat) :
    (State.leaveSlot s ctx st).kept = s.kept := by
  unfold State.leaveSlot
  repeat' first
    | with_reducible rfl
    | with_reducible refine kept_ite ?_ ?_
    | simp only [↓kept_setCtx, ↓kept_mark, ↓kept_foldLedger, ↓State.kept_mk, ↓State.nf1, ↓State.nf2, ↓State.nf3, ↓State.nf4, ↓State.nf5, ↓State.nf6, ↓State.nf7]
    | dsimp only
    | split

theorem kept_caveBlock (s : State) (line b : Nat) (free : Bool) :
    (State.caveBlock s line b free).kept = s.kept := by
  unfold State.caveBlock
  repeat' first
    | with_reducible rfl
    | with_reducible refine kept_ite ?_ ?_
    | simp only [↓kept_charge, ↓kept_setBlock, ↓kept_dropReloc, ↓kept_freeHome, ↓kept_pieceAny, ↓kept_program, ↓State.kept_mk, ↓State.nf1, ↓State.nf2, ↓State.nf3, ↓State.nf4, ↓State.nf5, ↓State.nf6, ↓State.nf7]
    | dsimp only
    | split

theorem kept_caveBench (s : State) (line b : Nat) :
    (State.caveBench s line b).kept = s.kept := by
  unfold State.caveBench
  repeat' first
    | with_reducible rfl
    | with_reducible refine kept_ite ?_ ?_
    | with_reducible refine (kept_foldl (fun _ _ => ?_) _ _).trans ?_
    | with_reducible refine (kept_foldp (fun _ _ => ?_) _ _).trans ?_
    | simp only [↓kept_unchargeQuota, ↓kept_caveBlock, ↓State.kept_mk, ↓State.nf1, ↓State.nf2, ↓State.nf3, ↓State.nf4, ↓State.nf5, ↓State.nf6, ↓State.nf7]
    | dsimp only
    | split

theorem kept_parkStreams {s t : State} {ctx : Nat} (h : s.parkStreams ctx = some t) : t.kept = s.kept := by
  refine kept_bindFold (fun s x u hu => ?_) _ (some s) s.kept (fun _ e => by cases e; rfl) t h
  cases hb : s.benchSeq x with
  | some v => rw [hb] at hu; cases hu; exact kept_benchSeq hb
  | none => rw [hb] at hu; exact kept_caveSeq hu


theorem kept_caveAll {s t : State} {ctx : Nat} (h : s.caveAll ctx = some t) : t.kept = s.kept := by
  obtain ⟨u, hu, rfl⟩ := Option.map_eq_some_iff.mp h
  exact (kept_foldl (fun _ _ => kept_caveBlock ..) _ _).trans ((kept_foldl (fun _ _ => kept_caveBench ..) _ _).trans (kept_parkStreams hu))


theorem kept_returnBlock (s : State) (line b : Nat) :
    (State.returnBlock s line b).kept = s.kept := by
  unfold State.returnBlock
  repeat' first
    | with_reducible rfl
    | with_reducible refine kept_ite ?_ ?_
    | simp only [↓kept_charge, ↓kept_stackWrite, ↓kept_setBlock, ↓kept_pieceAny, ↓State.kept_mk, ↓State.nf1, ↓State.nf2, ↓State.nf3, ↓State.nf4, ↓State.nf5, ↓State.nf6, ↓State.nf7]
    | dsimp only
    | split

theorem kept_takeIn (s : State) (r0 : FRec) :
    (State.takeIn s r0).kept = s.kept := by
  unfold State.takeIn
  repeat' first
    | with_reducible rfl
    | with_reducible refine kept_ite ?_ ?_
    | simp only [↓kept_eventMgmt, ↓kept_eventCtx, ↓State.kept_mk, ↓State.nf1, ↓State.nf2, ↓State.nf3, ↓State.nf4, ↓State.nf5, ↓State.nf6, ↓State.nf7]
    | dsimp only
    | split

theorem kept_setUnit (s : State) (u : Nat) (q : UnitQ) :
    (State.setUnit s u q).kept = s.kept := by
  unfold State.setUnit
  repeat' first
    | with_reducible rfl
    | with_reducible refine kept_ite ?_ ?_
    | simp only [↓State.kept_mk, ↓State.nf1, ↓State.nf2, ↓State.nf3, ↓State.nf4, ↓State.nf5, ↓State.nf6, ↓State.nf7]
    | dsimp only
    | split

theorem kept_takeUnit {s t : State} {u : Nat} (h : s.takeUnit u = some t) : t.kept = s.kept := by
  unfold State.takeUnit at h
  split at h
  · cases h
  · cases h
    exact (kept_takeIn ..).trans (kept_setUnit ..)


theorem kept_setAud (s : State) (k : Nat) (a : Aud) :
    (State.setAud s k a).kept = s.kept := by
  unfold State.setAud
  repeat' first
    | with_reducible rfl
    | with_reducible refine kept_ite ?_ ?_
    | simp only [↓State.kept_mk, ↓State.nf1, ↓State.nf2, ↓State.nf3, ↓State.nf4, ↓State.nf5, ↓State.nf6, ↓State.nf7]
    | dsimp only
    | split

theorem kept_setSlot (s : State) (k : Nat) (c : CfgSlot) :
    (State.setSlot s k c).kept = s.kept := by
  unfold State.setSlot
  repeat' first
    | with_reducible rfl
    | with_reducible refine kept_ite ?_ ?_
    | simp only [↓State.kept_mk, ↓State.nf1, ↓State.nf2, ↓State.nf3, ↓State.nf4, ↓State.nf5, ↓State.nf6, ↓State.nf7]
    | dsimp only
    | split

theorem kept_dropAreas (s : State) (court : Nat) :
    (State.dropAreas s court).kept = s.kept := by
  unfold State.dropAreas
  repeat' first
    | with_reducible rfl
    | with_reducible refine kept_ite ?_ ?_
    | with_reducible refine (kept_foldl (fun _ _ => ?_) _ _).trans ?_
    | with_reducible refine (kept_foldp (fun _ _ => ?_) _ _).trans ?_
    | simp only [↓kept_dropObj, ↓State.kept_mk, ↓State.nf1, ↓State.nf2, ↓State.nf3, ↓State.nf4, ↓State.nf5, ↓State.nf6, ↓State.nf7]
    | dsimp only
    | split

theorem noAddr_fst (c : State × Code × Nat) : (noAddr c).1 = c.1 := rfl


theorem kept_areaAny (s : State) (use : ObjUse) (size : Nat) : (State.areaAny s use size).1.kept = s.kept := by
  unfold State.areaAny
  refine kept_ite1 rfl (kept_ite1 rfl ?_)
  rw [noAddr_fst]
  exact kept_createObj ..


theorem kept_makeAreas (s : State) (court : Nat) (c : CourtRec) :
    (State.makeAreas s court c).1.kept = s.kept := by
  unfold State.makeAreas
  repeat' first
    | with_reducible rfl
    | with_reducible refine kept_ite1 ?_ ?_
    | with_reducible refine (kept_foldl (fun _ _ => ?_) _ _).trans ?_
    | with_reducible refine (kept_foldp (fun _ _ => ?_) _ _).trans ?_
    | simp only [↓kept_createAt, ↓kept_areaAny, ↓State.kept_mk, ↓State.nf1, ↓State.nf2, ↓State.nf3, ↓State.nf4, ↓State.nf5, ↓State.nf6, ↓State.nf7]
    | dsimp only
    | split

theorem kept_writeCluCfg (s : State) (c : CourtRec) :
    (State.writeCluCfg s c).kept = s.kept := by
  unfold State.writeCluCfg
  repeat' first
    | with_reducible rfl
    | with_reducible refine kept_ite ?_ ?_
    | with_reducible refine (kept_foldl (fun _ _ => ?_) _ _).trans ?_
    | with_reducible refine (kept_foldp (fun _ _ => ?_) _ _).trans ?_
    | simp only [↓kept_modClu, ↓State.kept_mk, ↓State.nf1, ↓State.nf2, ↓State.nf3, ↓State.nf4, ↓State.nf5, ↓State.nf6, ↓State.nf7]
    | dsimp only
    | split

theorem kept_writeQuotas (s : State) (a b : CfgImage) :
    (State.writeQuotas s a b).kept = s.kept := by
  unfold State.writeQuotas
  repeat' first
    | with_reducible rfl
    | with_reducible refine kept_ite ?_ ?_
    | with_reducible refine (kept_foldl (fun _ _ => ?_) _ _).trans ?_
    | with_reducible refine (kept_foldp (fun _ _ => ?_) _ _).trans ?_
    | simp only [↓State.kept_mk, ↓State.nf1, ↓State.nf2, ↓State.nf3, ↓State.nf4, ↓State.nf5, ↓State.nf6, ↓State.nf7]
    | dsimp only
    | split

theorem kept_switchTo (s : State) (k : Nat) :
    (State.switchTo s k).1.kept = s.kept := by
  unfold State.switchTo
  repeat' first
    | with_reducible rfl
    | with_reducible refine kept_ite1 ?_ ?_
    | with_reducible refine (kept_foldl (fun _ _ => ?_) _ _).trans ?_
    | with_reducible refine (kept_foldp (fun _ _ => ?_) _ _).trans ?_
    | simp only [↓kept_dropAreas, ↓kept_makeAreas, ↓kept_writeCluCfg, ↓kept_writeQuotas, ↓State.kept_mk, ↓State.nf1, ↓State.nf2, ↓State.nf3, ↓State.nf4, ↓State.nf5, ↓State.nf6, ↓State.nf7]
    | dsimp only
    | split

theorem kept_answerCommit (s : State) (r : Req) (code : Code) (check court : Nat) :
    (State.answerCommit s r code check court).kept = s.kept := by
  unfold State.answerCommit
  repeat' first
    | with_reducible rfl
    | with_reducible refine kept_ite ?_ ?_
    | simp only [↓kept_answer, ↓State.kept_mk, ↓State.nf1, ↓State.nf2, ↓State.nf3, ↓State.nf4, ↓State.nf5, ↓State.nf6, ↓State.nf7]
    | dsimp only
    | split

theorem kept_commit (s : State) (r : Req) (gen secs : Nat) :
    (State.commit s r gen secs).kept = s.kept := by
  unfold State.commit
  repeat' first
    | with_reducible rfl
    | with_reducible refine kept_ite ?_ ?_
    | simp only [↓kept_switchTo, ↓kept_answerCommit, ↓State.kept_mk, ↓State.nf1, ↓State.nf2, ↓State.nf3, ↓State.nf4, ↓State.nf5, ↓State.nf6, ↓State.nf7]
    | dsimp only
    | split

theorem kept_finalTrial (s : State) :
    (State.finalTrial s).kept = s.kept := by
  unfold State.finalTrial
  repeat' first
    | with_reducible rfl
    | with_reducible refine kept_ite ?_ ?_
    | simp only [↓kept_eventMgmt, ↓State.kept_mk, ↓State.nf1, ↓State.nf2, ↓State.nf3, ↓State.nf4, ↓State.nf5, ↓State.nf6, ↓State.nf7]
    | dsimp only
    | split

theorem kept_revertTrial (s : State) (t : Trial) (reason check : Nat) :
    (State.revertTrial s t reason check).kept = s.kept := by
  unfold State.revertTrial
  repeat' first
    | with_reducible rfl
    | with_reducible refine kept_ite ?_ ?_
    | simp only [↓kept_eventMgmt, ↓kept_switchTo, ↓State.kept_mk, ↓State.nf1, ↓State.nf2, ↓State.nf3, ↓State.nf4, ↓State.nf5, ↓State.nf6, ↓State.nf7]
    | dsimp only
    | split

theorem kept_writeBank (s : State) (b : List Byte) :
    (State.writeBank s b).kept = s.kept := by
  unfold State.writeBank
  repeat' first
    | with_reducible rfl
    | with_reducible refine kept_ite ?_ ?_
    | simp only [↓State.kept_mk, ↓State.nf1, ↓State.nf2, ↓State.nf3, ↓State.nf4, ↓State.nf5, ↓State.nf6, ↓State.nf7]
    | dsimp only
    | split

theorem kept_runBundle (s : State) (b : List Byte) :
    (State.runBundle s b).kept = s.kept := by
  unfold State.runBundle
  repeat' first
    | with_reducible rfl
    | with_reducible refine kept_ite ?_ ?_
    | simp only [↓State.kept_mk, ↓State.nf1, ↓State.nf2, ↓State.nf3, ↓State.nf4, ↓State.nf5, ↓State.nf6, ↓State.nf7]
    | dsimp only
    | split

theorem kept_answerFw (s : State) (r : Req) (code : Code) (phase pause old new : Nat) :
    (State.answerFw s r code phase pause old new).kept = s.kept := by
  unfold State.answerFw
  repeat' first
    | with_reducible rfl
    | with_reducible refine kept_ite ?_ ?_
    | simp only [↓kept_answer, ↓State.kept_mk, ↓State.nf1, ↓State.nf2, ↓State.nf3, ↓State.nf4, ↓State.nf5, ↓State.nf6, ↓State.nf7]
    | dsimp only
    | split

theorem kept_retirePair (s : State) (p : Nat) :
    (State.retirePair s p).kept = s.kept := by
  unfold State.retirePair
  repeat' first
    | with_reducible rfl
    | with_reducible refine kept_ite ?_ ?_
    | simp only [↓kept_raise, ↓State.kept_mk, ↓State.nf1, ↓State.nf2, ↓State.nf3, ↓State.nf4, ↓State.nf5, ↓State.nf6, ↓State.nf7]
    | dsimp only
    | split

theorem kept_takeAll (s : State) (u n : Nat) : (s.takeAll u n).kept = s.kept := by
  induction n generalizing s with
  | zero => rfl
  | succ n ih =>
    unfold State.takeAll
    split
    · rfl
    · next h => exact (ih _).trans (kept_takeUnit h)


theorem kept_takeUnits (s : State) :
    (State.takeUnits s).kept = s.kept := by
  unfold State.takeUnits
  repeat' first
    | with_reducible rfl
    | with_reducible refine kept_ite ?_ ?_
    | with_reducible refine (kept_foldl (fun _ _ => ?_) _ _).trans ?_
    | with_reducible refine (kept_foldp (fun _ _ => ?_) _ _).trans ?_
    | simp only [↓kept_takeAll, ↓State.kept_mk, ↓State.nf1, ↓State.nf2, ↓State.nf3, ↓State.nf4, ↓State.nf5, ↓State.nf6, ↓State.nf7]
    | dsimp only
    | split

theorem kept_promote (s : State) :
    (State.promote s).kept = s.kept := by
  unfold State.promote
  repeat' first
    | with_reducible rfl
    | with_reducible refine kept_ite ?_ ?_
    | simp only [↓State.kept_mk, ↓State.nf1, ↓State.nf2, ↓State.nf3, ↓State.nf4, ↓State.nf5, ↓State.nf6, ↓State.nf7]
    | dsimp only
    | split

theorem kept_keepHouse (s : State) (k : HkKind) :
    (State.keepHouse s k).kept = s.kept := by
  unfold State.keepHouse
  repeat' first
    | with_reducible rfl
    | with_reducible refine kept_ite ?_ ?_
    | with_reducible refine (kept_foldl (fun _ _ => ?_) _ _).trans ?_
    | with_reducible refine (kept_foldp (fun _ _ => ?_) _ _).trans ?_
    | simp only [↓kept_compact, ↓kept_level, ↓State.kept_mk, ↓State.nf1, ↓State.nf2, ↓State.nf3, ↓State.nf4, ↓State.nf5, ↓State.nf6, ↓State.nf7]
    | dsimp only
    | split

theorem kept_upset (s : State) (w : Nat) (f : BitVec 72) :
    (State.upset s w f).kept = s.kept := by
  unfold State.upset
  repeat' first
    | with_reducible rfl
    | with_reducible refine kept_ite ?_ ?_
    | simp only [↓State.kept_mk, ↓State.nf1, ↓State.nf2, ↓State.nf3, ↓State.nf4, ↓State.nf5, ↓State.nf6, ↓State.nf7]
    | dsimp only
    | split

theorem kept_sweepChan (s : State) (c : Nat) :
    (State.sweepChan s c).kept = s.kept := by
  unfold State.sweepChan
  repeat' first
    | with_reducible rfl
    | with_reducible refine kept_ite ?_ ?_
    | with_reducible refine (kept_foldl (fun _ _ => ?_) _ _).trans ?_
    | with_reducible refine (kept_foldp (fun _ _ => ?_) _ _).trans ?_
    | simp only [↓kept_modChan, ↓kept_touch, ↓State.kept_mk, ↓State.nf1, ↓State.nf2, ↓State.nf3, ↓State.nf4, ↓State.nf5, ↓State.nf6, ↓State.nf7]
    | dsimp only
    | split

theorem kept_countSweep (s : State) :
    (State.countSweep s).kept = s.kept := by
  unfold State.countSweep
  repeat' first
    | with_reducible rfl
    | with_reducible refine kept_ite ?_ ?_
    | simp only [↓State.kept_mk, ↓State.nf1, ↓State.nf2, ↓State.nf3, ↓State.nf4, ↓State.nf5, ↓State.nf6, ↓State.nf7]
    | dsimp only
    | split

theorem kept_upsetAll (s : State) (c : Nat) (upsets : List (Nat × BitVec 72)) :
    (State.upsetAll s c upsets).kept = s.kept := by
  unfold State.upsetAll
  repeat' first
    | with_reducible rfl
    | with_reducible refine kept_ite ?_ ?_
    | with_reducible refine (kept_foldl (fun _ _ => ?_) _ _).trans ?_
    | with_reducible refine (kept_foldp (fun _ _ => ?_) _ _).trans ?_
    | simp only [↓kept_upset, ↓State.kept_mk, ↓State.nf1, ↓State.nf2, ↓State.nf3, ↓State.nf4, ↓State.nf5, ↓State.nf6, ↓State.nf7]
    | dsimp only
    | split

theorem kept_mapoutRecord (s : State) (c : Nat) (code : Code) (sev : Nat) :
    (State.mapoutRecord s c code sev).kept = s.kept := by
  unfold State.mapoutRecord
  repeat' first
    | with_reducible rfl
    | with_reducible refine kept_ite ?_ ?_
    | simp only [↓kept_raise, ↓State.kept_mk, ↓State.nf1, ↓State.nf2, ↓State.nf3, ↓State.nf4, ↓State.nf5, ↓State.nf6, ↓State.nf7]
    | dsimp only
    | split

theorem kept_startMapout (s : State) (c : Nat) (req : Option Req) :
    (State.startMapout s c req).kept = s.kept := by
  unfold State.startMapout
  repeat' first
    | with_reducible rfl
    | with_reducible refine kept_ite ?_ ?_
    | simp only [↓kept_modChan, ↓State.kept_mk, ↓State.nf1, ↓State.nf2, ↓State.nf3, ↓State.nf4, ↓State.nf5, ↓State.nf6, ↓State.nf7]
    | dsimp only
    | split

theorem kept_autoMapout (s : State) (c : Nat) :
    (State.autoMapout s c).kept = s.kept := by
  unfold State.autoMapout
  repeat' first
    | with_reducible rfl
    | with_reducible refine kept_ite ?_ ?_
    | simp only [↓kept_mapoutRecord, ↓kept_startMapout, ↓State.kept_mk, ↓State.nf1, ↓State.nf2, ↓State.nf3, ↓State.nf4, ↓State.nf5, ↓State.nf6, ↓State.nf7]
    | dsimp only
    | split

theorem kept_answerMapout (s : State) (m : MapOut) (code : Code) :
    (State.answerMapout s m code).kept = s.kept := by
  unfold State.answerMapout
  repeat' first
    | with_reducible rfl
    | with_reducible refine kept_ite ?_ ?_
    | simp only [↓kept_answer, ↓State.kept_mk, ↓State.nf1, ↓State.nf2, ↓State.nf3, ↓State.nf4, ↓State.nf5, ↓State.nf6, ↓State.nf7]
    | dsimp only
    | split

theorem kept_endMapout (s : State) :
    (State.endMapout s).kept = s.kept := by
  unfold State.endMapout
  repeat' first
    | with_reducible rfl
    | with_reducible refine kept_ite ?_ ?_
    | with_reducible refine (kept_foldl (fun _ _ => ?_) _ _).trans ?_
    | with_reducible refine (kept_foldp (fun _ _ => ?_) _ _).trans ?_
    | simp only [↓kept_autoMapout, ↓State.kept_mk, ↓State.nf1, ↓State.nf2, ↓State.nf3, ↓State.nf4, ↓State.nf5, ↓State.nf6, ↓State.nf7]
    | dsimp only
    | split

theorem kept_readSlice (s : State) (k : Nat) :
    (State.readSlice s k).1.kept = s.kept := by
  unfold State.readSlice
  repeat' first
    | with_reducible rfl
    | with_reducible refine kept_ite1 ?_ ?_
    | with_reducible refine (kept_foldl (fun _ _ => ?_) _ _).trans ?_
    | with_reducible refine (kept_foldp (fun _ _ => ?_) _ _).trans ?_
    | simp only [↓kept_touch, ↓State.kept_mk, ↓State.nf1, ↓State.nf2, ↓State.nf3, ↓State.nf4, ↓State.nf5, ↓State.nf6, ↓State.nf7]
    | dsimp only
    | split

theorem kept_loseStreams (s : State) (core : Nat) :
    (State.loseStreams s core).kept = s.kept := by
  unfold State.loseStreams
  repeat' first
    | with_reducible rfl
    | with_reducible refine kept_ite ?_ ?_
    | simp only [↓State.kept_mk, ↓State.nf1, ↓State.nf2, ↓State.nf3, ↓State.nf4, ↓State.nf5, ↓State.nf6, ↓State.nf7]
    | dsimp only
    | split

theorem kept_failSteps (s : State) (cl : Nat) (queued : Bool) :
    (State.failSteps s cl queued).kept = s.kept := by
  unfold State.failSteps
  repeat' first
    | with_reducible rfl
    | with_reducible refine kept_ite ?_ ?_
    | with_reducible refine (kept_foldl (fun _ _ => ?_) _ _).trans ?_
    | with_reducible refine (kept_foldp (fun _ _ => ?_) _ _).trans ?_
    | simp only [↓kept_failStep, ↓State.kept_mk, ↓State.nf1, ↓State.nf2, ↓State.nf3, ↓State.nf4, ↓State.nf5, ↓State.nf6, ↓State.nf7]
    | dsimp only
    | split

theorem kept_dropCore (s : State) (p : Nat) :
    (State.dropCore s p).kept = s.kept := by
  unfold State.dropCore
  repeat' first
    | with_reducible rfl
    | with_reducible refine kept_ite ?_ ?_
    | simp only [↓kept_putStep, ↓kept_chargeWork, ↓kept_chargeRun, ↓State.kept_mk, ↓State.nf1, ↓State.nf2, ↓State.nf3, ↓State.nf4, ↓State.nf5, ↓State.nf6, ↓State.nf7]
    | dsimp only
    | split

theorem kept_tearPlans (s : State) (die : Nat) :
    (State.tearPlans s die).kept = s.kept := by
  unfold State.tearPlans
  repeat' first
    | with_reducible rfl
    | with_reducible refine kept_ite ?_ ?_
    | simp only [↓kept_drawn, ↓State.kept_mk, ↓State.nf1, ↓State.nf2, ↓State.nf3, ↓State.nf4, ↓State.nf5, ↓State.nf6, ↓State.nf7]
    | dsimp only
    | split

theorem kept_answerTables (s : State) (die : Nat) :
    (State.answerTables s die).kept = s.kept := by
  unfold State.answerTables
  repeat' first
    | with_reducible rfl
    | with_reducible refine kept_ite ?_ ?_
    | simp only [↓kept_tabAnswers, ↓State.kept_mk, ↓State.nf1, ↓State.nf2, ↓State.nf3, ↓State.nf4, ↓State.nf5, ↓State.nf6, ↓State.nf7]
    | dsimp only
    | split

theorem kept_declareFailed (s : State) (p : Nat) :
    (State.declareFailed s p).kept = s.kept := by
  unfold State.declareFailed
  repeat' first
    | with_reducible rfl
    | with_reducible refine kept_ite ?_ ?_
    | simp only [↓kept_modClu, ↓kept_raise, ↓kept_loseStreams, ↓kept_failSteps, ↓kept_dropCore, ↓kept_tearPlans, ↓kept_answerTables, ↓State.kept_mk, ↓State.nf1, ↓State.nf2, ↓State.nf3, ↓State.nf4, ↓State.nf5, ↓State.nf6, ↓State.nf7]
    | dsimp only
    | split

theorem kept_upsetStores (s : State) (p : Nat) (us : List (Nat × Nat × BitVec 72)) :
    (State.upsetStores s p us).kept = s.kept := by
  unfold State.upsetStores
  repeat' first
    | with_reducible rfl
    | with_reducible refine kept_ite ?_ ?_
    | with_reducible refine (kept_foldl (fun _ _ => ?_) _ _).trans ?_
    | with_reducible refine (kept_foldp (fun _ _ => ?_) _ _).trans ?_
    | simp only [↓kept_modClu, ↓kept_modCore, ↓kept_upset, ↓State.kept_mk, ↓State.nf1, ↓State.nf2, ↓State.nf3, ↓State.nf4, ↓State.nf5, ↓State.nf6, ↓State.nf7]
    | dsimp only
    | split

theorem kept_remapSpare (s : State) (cluster : Nat) :
    (State.remapSpare s cluster).kept = s.kept := by
  unfold State.remapSpare
  repeat' first
    | with_reducible rfl
    | with_reducible refine kept_ite ?_ ?_
    | simp only [↓kept_setCore, ↓kept_modClu, ↓kept_raise, ↓State.kept_mk, ↓State.nf1, ↓State.nf2, ↓State.nf3, ↓State.nf4, ↓State.nf5, ↓State.nf6, ↓State.nf7]
    | dsimp only
    | split

theorem kept_ringEvent (s : State) (reason pos rail : Nat) :
    (State.ringEvent s reason pos rail).kept = s.kept := by
  unfold State.ringEvent
  repeat' first
    | with_reducible rfl
    | with_reducible refine kept_ite ?_ ?_
    | simp only [↓kept_eventMgmt, ↓State.kept_mk, ↓State.nf1, ↓State.nf2, ↓State.nf3, ↓State.nf4, ↓State.nf5, ↓State.nf6, ↓State.nf7]
    | dsimp only
    | split

theorem kept_openRail (s : State) (k : Nat) :
    (State.openRail s k).kept = s.kept := by
  unfold State.openRail
  repeat' first
    | with_reducible rfl
    | with_reducible refine kept_ite ?_ ?_
    | simp only [↓kept_setLink, ↓State.kept_mk, ↓State.nf1, ↓State.nf2, ↓State.nf3, ↓State.nf4, ↓State.nf5, ↓State.nf6, ↓State.nf7]
    | dsimp only
    | split

theorem kept_closeRail (s : State) (k : Nat) :
    (State.closeRail s k).kept = s.kept := by
  unfold State.closeRail
  repeat' first
    | with_reducible rfl
    | with_reducible refine kept_ite ?_ ?_
    | simp only [↓kept_setLink, ↓State.kept_mk, ↓State.nf1, ↓State.nf2, ↓State.nf3, ↓State.nf4, ↓State.nf5, ↓State.nf6, ↓State.nf7]
    | dsimp only
    | split

theorem kept_closeRing (s : State) :
    (State.closeRing s).kept = s.kept := by
  unfold State.closeRing
  repeat' first
    | with_reducible rfl
    | with_reducible refine kept_ite ?_ ?_
    | with_reducible refine (kept_foldl (fun _ _ => ?_) _ _).trans ?_
    | with_reducible refine (kept_foldp (fun _ _ => ?_) _ _).trans ?_
    | simp only [↓kept_closeRail, ↓State.kept_mk, ↓State.nf1, ↓State.nf2, ↓State.nf3, ↓State.nf4, ↓State.nf5, ↓State.nf6, ↓State.nf7]
    | dsimp only
    | split

theorem kept_retrainAll (s : State) (p : Nat) :
    (State.retrainAll s p).kept = s.kept := by
  unfold State.retrainAll
  repeat' first
    | with_reducible rfl
    | with_reducible refine kept_ite ?_ ?_
    | with_reducible refine (kept_foldl (fun _ _ => ?_) _ _).trans ?_
    | with_reducible refine (kept_foldp (fun _ _ => ?_) _ _).trans ?_
    | simp only [↓kept_setLink, ↓State.kept_mk, ↓State.nf1, ↓State.nf2, ↓State.nf3, ↓State.nf4, ↓State.nf5, ↓State.nf6, ↓State.nf7]
    | dsimp only
    | split

theorem kept_dropMember (s : State) (p : Nat) :
    (State.dropMember s p).kept = s.kept := by
  unfold State.dropMember
  repeat' first
    | with_reducible rfl
    | with_reducible refine kept_ite ?_ ?_
    | with_reducible refine (kept_foldl (fun _ _ => ?_) _ _).trans ?_
    | with_reducible refine (kept_foldp (fun _ _ => ?_) _ _).trans ?_
    | simp only [↓kept_raise, ↓kept_failStep, ↓kept_retrainAll, ↓State.kept_mk, ↓State.nf1, ↓State.nf2, ↓State.nf3, ↓State.nf4, ↓State.nf5, ↓State.nf6, ↓State.nf7]
    | dsimp only
    | split

theorem kept_loseMember (s : State) (p : Nat) :
    (State.loseMember s p).kept = s.kept := by
  unfold State.loseMember
  repeat' first
    | with_reducible rfl
    | with_reducible refine kept_ite ?_ ?_
    | simp only [↓kept_ringEvent, ↓kept_dropMember, ↓State.kept_mk, ↓State.nf1, ↓State.nf2, ↓State.nf3, ↓State.nf4, ↓State.nf5, ↓State.nf6, ↓State.nf7]
    | dsimp only
    | split

theorem kept_landFlit (s : State) (x : RTransfer) (i : Nat) (data : List Byte) :
    (State.landFlit s x i data).1.kept = s.kept := by
  unfold State.landFlit
  repeat' first
    | with_reducible rfl
    | with_reducible refine kept_ite1 ?_ ?_
    | simp only [↓kept_objWrite, ↓State.kept_mk, ↓State.nf1, ↓State.nf2, ↓State.nf3, ↓State.nf4, ↓State.nf5, ↓State.nf6, ↓State.nf7]
    | dsimp only
    | split

theorem kept_putInbound (s : State) (y : RTransfer) :
    (State.putInbound s y).kept = s.kept := by
  unfold State.putInbound
  repeat' first
    | with_reducible rfl
    | with_reducible refine kept_ite ?_ ?_
    | simp only [↓State.kept_mk, ↓State.nf1, ↓State.nf2, ↓State.nf3, ↓State.nf4, ↓State.nf5, ↓State.nf6, ↓State.nf7]
    | dsimp only
    | split

theorem kept_landData (s : State) (f : Flit) :
    (State.landData s f).kept = s.kept := by
  unfold State.landData
  repeat' first
    | with_reducible rfl
    | with_reducible refine kept_ite ?_ ?_
    | simp only [↓kept_landFlit, ↓kept_putInbound, ↓State.kept_mk, ↓State.nf1, ↓State.nf2, ↓State.nf3, ↓State.nf4, ↓State.nf5, ↓State.nf6, ↓State.nf7]
    | dsimp only
    | split

theorem kept_setUp (s : State) (f : Flit) (kind : Nat) :
    (State.setUp s f kind).kept = s.kept := by
  unfold State.setUp
  repeat' first
    | with_reducible rfl
    | with_reducible refine kept_ite ?_ ?_
    | with_reducible refine (kept_foldl (fun _ _ => ?_) _ _).trans ?_
    | with_reducible refine (kept_foldp (fun _ _ => ?_) _ _).trans ?_
    | simp only [↓kept_landFlit, ↓kept_putInbound, ↓State.kept_mk, ↓State.nf1, ↓State.nf2, ↓State.nf3, ↓State.nf4, ↓State.nf5, ↓State.nf6, ↓State.nf7]
    | dsimp only
    | split

theorem kept_forward (s : State) (rail : Nat) (down : Bool) (f : Flit) :
    (State.forward s rail down f).kept = s.kept := by
  unfold State.forward
  repeat' first
    | with_reducible rfl
    | with_reducible refine kept_ite ?_ ?_
    | simp only [↓kept_pushFlit, ↓kept_emit, ↓State.kept_mk, ↓State.nf1, ↓State.nf2, ↓State.nf3, ↓State.nf4, ↓State.nf5, ↓State.nf6, ↓State.nf7]
    | dsimp only
    | split

theorem kept_hear (s : State) (rail : Nat) (down : Bool) (f : Flit) (kind : Nat) :
    (State.hear s rail down f kind).kept = s.kept := by
  unfold State.hear
  repeat' first
    | with_reducible rfl
    | with_reducible refine kept_ite ?_ ?_
    | simp only [↓kept_ringEvent, ↓kept_dropMember, ↓kept_forward, ↓State.kept_mk, ↓State.nf1, ↓State.nf2, ↓State.nf3, ↓State.nf4, ↓State.nf5, ↓State.nf6, ↓State.nf7]
    | dsimp only
    | split

theorem kept_acceptFlit (s : State) (rail : Nat) (down : Bool) (f : Flit) :
    (State.acceptFlit s rail down f).kept = s.kept := by
  unfold State.acceptFlit
  repeat' first
    | with_reducible rfl
    | with_reducible refine kept_ite ?_ ?_
    | simp only [↓kept_landData, ↓kept_setUp, ↓kept_forward, ↓kept_hear, ↓State.kept_mk, ↓State.nf1, ↓State.nf2, ↓State.nf3, ↓State.nf4, ↓State.nf5, ↓State.nf6, ↓State.nf7]
    | dsimp only
    | split

theorem kept_joinOn (s : State) :
    (State.joinOn s).kept = s.kept := by
  unfold State.joinOn
  repeat' first
    | with_reducible rfl
    | with_reducible refine kept_ite ?_ ?_
    | simp only [↓kept_pushFlit, ↓kept_openRail, ↓State.kept_mk, ↓State.nf1, ↓State.nf2, ↓State.nf3, ↓State.nf4, ↓State.nf5, ↓State.nf6, ↓State.nf7]
    | dsimp only
    | split

theorem kept_failJoin (s : State) (req : Option Req) (code : Code) :
    (State.failJoin s req code).kept = s.kept := by
  unfold State.failJoin
  repeat' first
    | with_reducible rfl
    | with_reducible refine kept_ite ?_ ?_
    | simp only [↓kept_refuse, ↓kept_closeRing, ↓State.kept_mk, ↓State.nf1, ↓State.nf2, ↓State.nf3, ↓State.nf4, ↓State.nf5, ↓State.nf6, ↓State.nf7]
    | dsimp only
    | split

theorem kept_vatAdd (s : State) (ac : Access) (a : Nat) (bs : List Byte) :
    (State.vatAdd s ac a bs).1.kept = s.kept := by
  unfold State.vatAdd
  repeat' first
    | with_reducible rfl
    | with_reducible refine kept_ite1 ?_ ?_
    | with_reducible refine (kept_foldl (fun _ _ => ?_) _ _).trans ?_
    | with_reducible refine (kept_foldp (fun _ _ => ?_) _ _).trans ?_
    | simp only [↓kept_objVat, ↓State.kept_mk, ↓State.nf1, ↓State.nf2, ↓State.nf3, ↓State.nf4, ↓State.nf5, ↓State.nf6, ↓State.nf7]
    | dsimp only
    | split

theorem kept_toStep (s : State) (n : Nat) :
    (State.toStep s n).kept = s.kept := by
  unfold State.toStep
  repeat' first
    | with_reducible rfl
    | with_reducible refine kept_ite ?_ ?_
    | simp only [↓State.kept_mk, ↓State.nf1, ↓State.nf2, ↓State.nf3, ↓State.nf4, ↓State.nf5, ↓State.nf6, ↓State.nf7]
    | dsimp only
    | split

theorem kept_bootFail (s : State) (code : Code) :
    (State.bootFail s code).kept = s.kept := by
  unfold State.bootFail
  repeat' first
    | with_reducible rfl
    | with_reducible refine kept_ite ?_ ?_
    | simp only [↓State.kept_mk, ↓State.nf1, ↓State.nf2, ↓State.nf3, ↓State.nf4, ↓State.nf5, ↓State.nf6, ↓State.nf7]
    | dsimp only
    | split

theorem kept_openRecord (s : State) (r : FRec) :
    (State.openRecord s r).kept = s.kept := by
  unfold State.openRecord
  repeat' first
    | with_reducible rfl
    | with_reducible refine kept_ite ?_ ?_
    | simp only [↓kept_drawn, ↓kept_raise, ↓State.kept_mk, ↓State.nf1, ↓State.nf2, ↓State.nf3, ↓State.nf4, ↓State.nf5, ↓State.nf6, ↓State.nf7]
    | dsimp only
    | split

theorem kept_bootCourt (s : State) (k : Nat) (c : CourtRec) :
    (State.bootCourt s k c).kept = s.kept := by
  unfold State.bootCourt
  repeat' first
    | with_reducible rfl
    | with_reducible refine kept_ite ?_ ?_
    | simp only [↓kept_setSlot, ↓kept_dropAreas, ↓kept_makeAreas, ↓kept_writeCluCfg, ↓kept_openRecord, ↓State.kept_mk, ↓State.nf1, ↓State.nf2, ↓State.nf3, ↓State.nf4, ↓State.nf5, ↓State.nf6, ↓State.nf7]
    | dsimp only
    | split

theorem kept_CfgImage_boot (img : CfgImage) (s : State) (c : Nat) :
    (CfgImage.boot img s c).kept = s.kept := by
  unfold CfgImage.boot
  repeat' first
    | with_reducible rfl
    | with_reducible refine kept_ite ?_ ?_
    | simp only [↓kept_bootCourt, ↓State.kept_mk, ↓State.nf1, ↓State.nf2, ↓State.nf3, ↓State.nf4, ↓State.nf5, ↓State.nf6, ↓State.nf7]
    | dsimp only
    | split

theorem kept_setStream (s : State) (i : Nat) (c : CStream) :
    (State.setStream s i c).kept = s.kept := by
  unfold State.setStream
  repeat' first
    | with_reducible rfl
    | with_reducible refine kept_ite ?_ ?_
    | simp only [↓State.kept_mk, ↓State.nf1, ↓State.nf2, ↓State.nf3, ↓State.nf4, ↓State.nf5, ↓State.nf6, ↓State.nf7]
    | dsimp only
    | split

theorem kept_setEngine (s : State) (e : Nat) (x : Engine) :
    (State.setEngine s e x).kept = s.kept := by
  unfold State.setEngine
  repeat' first
    | with_reducible rfl
    | with_reducible refine kept_ite ?_ ?_
    | simp only [↓State.kept_mk, ↓State.nf1, ↓State.nf2, ↓State.nf3, ↓State.nf4, ↓State.nf5, ↓State.nf6, ↓State.nf7]
    | dsimp only
    | split

theorem kept_cdcEvent (s : State) (i : Nat) (c : CStream) (reason index : Nat) (status : Code) (slice frame off n pts : Nat) :
    (State.cdcEvent s i c reason index status slice frame off n pts).kept = s.kept := by
  unfold State.cdcEvent
  repeat' first
    | with_reducible rfl
    | with_reducible refine kept_ite ?_ ?_
    | simp only [↓kept_event, ↓State.kept_mk, ↓State.nf1, ↓State.nf2, ↓State.nf3, ↓State.nf4, ↓State.nf5, ↓State.nf6, ↓State.nf7]
    | dsimp only
    | split

theorem kept_switchStream (s : State) (e i : Nat) :
    (State.switchStream s e i).kept = s.kept := by
  unfold State.switchStream
  repeat' first
    | with_reducible rfl
    | with_reducible refine kept_ite ?_ ?_
    | simp only [↓kept_drawn, ↓kept_piecesWrite, ↓kept_chargeBytes, ↓kept_setEngine, ↓State.kept_mk, ↓State.nf1, ↓State.nf2, ↓State.nf3, ↓State.nf4, ↓State.nf5, ↓State.nf6, ↓State.nf7]
    | dsimp only
    | split

theorem kept_planeWrite (s : State) (c : CStream) (p : Nat × Nat × Nat × Nat) (ref : Option (Nat × Nat)) (data : List Byte) (rows : Nat) :
    (State.planeWrite s c p ref data rows).kept = s.kept := by
  unfold State.planeWrite
  repeat' first
    | with_reducible rfl
    | with_reducible refine kept_ite ?_ ?_
    | with_reducible refine (kept_foldl (fun _ _ => ?_) _ _).trans ?_
    | with_reducible refine (kept_foldp (fun _ _ => ?_) _ _).trans ?_
    | simp only [↓kept_piecesRead, ↓kept_piecesWrite, ↓kept_chargeBytes, ↓State.kept_mk, ↓State.nf1, ↓State.nf2, ↓State.nf3, ↓State.nf4, ↓State.nf5, ↓State.nf6, ↓State.nf7]
    | dsimp only
    | split

theorem kept_pictureWrite (s : State) (c : CStream) (b : PoolBuf) (ref : Option PoolBuf) (picture : List Byte) (rows : Nat) :
    (State.pictureWrite s c b ref picture rows).kept = s.kept := by
  unfold State.pictureWrite
  repeat' first
    | with_reducible rfl
    | with_reducible refine kept_ite ?_ ?_
    | with_reducible refine (kept_foldl (fun _ _ => ?_) _ _).trans ?_
    | with_reducible refine (kept_foldp (fun _ _ => ?_) _ _).trans ?_
    | simp only [↓kept_planeWrite, ↓State.kept_mk, ↓State.nf1, ↓State.nf2, ↓State.nf3, ↓State.nf4, ↓State.nf5, ↓State.nf6, ↓State.nf7]
    | dsimp only
    | split

theorem kept_closeStream (s : State) (i : Nat) (c : CStream) (code : Code) :
    (State.closeStream s i c code).kept = s.kept := by
  unfold State.closeStream
  repeat' first
    | with_reducible rfl
    | with_reducible refine kept_ite ?_ ?_
    | with_reducible refine (kept_foldl (fun _ _ => ?_) _ _).trans ?_
    | with_reducible refine (kept_foldp (fun _ _ => ?_) _ _).trans ?_
    | simp only [↓kept_dropObj, ↓kept_setEngine, ↓kept_cdcEvent, ↓State.kept_mk, ↓State.nf1, ↓State.nf2, ↓State.nf3, ↓State.nf4, ↓State.nf5, ↓State.nf6, ↓State.nf7]
    | dsimp only
    | split

theorem kept_pwrEvent (s : State) (court reason state exit : Nat) :
    (State.pwrEvent s court reason state exit).kept = s.kept := by
  unfold State.pwrEvent
  repeat' first
    | with_reducible rfl
    | with_reducible refine kept_ite ?_ ?_
    | simp only [↓kept_eventMgmt, ↓State.kept_mk, ↓State.nf1, ↓State.nf2, ↓State.nf3, ↓State.nf4, ↓State.nf5, ↓State.nf6, ↓State.nf7]
    | dsimp only
    | split

theorem kept_loseStores (s : State) (court : Nat) (deep : Bool) :
    (State.loseStores s court deep).kept = s.kept := by
  unfold State.loseStores
  repeat' first
    | with_reducible rfl
    | with_reducible refine kept_ite ?_ ?_
    | with_reducible refine (kept_foldl (fun _ _ => ?_) _ _).trans ?_
    | with_reducible refine (kept_foldp (fun _ _ => ?_) _ _).trans ?_
    | simp only [↓kept_modClu, ↓kept_modCore, ↓kept_drawn, ↓State.kept_mk, ↓State.nf1, ↓State.nf2, ↓State.nf3, ↓State.nf4, ↓State.nf5, ↓State.nf6, ↓State.nf7]
    | dsimp only
    | split

theorem kept_restoreClusters (s : State) (court : Nat) :
    (State.restoreClusters s court).kept = s.kept := by
  unfold State.restoreClusters
  repeat' first
    | with_reducible rfl
    | with_reducible refine kept_ite ?_ ?_
    | with_reducible refine (kept_foldl (fun _ _ => ?_) _ _).trans ?_
    | with_reducible refine (kept_foldp (fun _ _ => ?_) _ _).trans ?_
    | simp only [↓kept_modCore, ↓kept_tabAnswers, ↓kept_stageKernels, ↓State.kept_mk, ↓State.nf1, ↓State.nf2, ↓State.nf3, ↓State.nf4, ↓State.nf5, ↓State.nf6, ↓State.nf7]
    | dsimp only
    | split

theorem kept_parkAll (s : State) (is : List Nat) : (s.parkAll is).1.kept = s.kept := by
  induction is generalizing s with
  | nil => rfl
  | cons i is ih =>
    unfold State.parkAll
    split
    · rfl
    · next h => exact (ih _).trans (kept_benchSeq h)


theorem kept_leavePs5 (s : State) :
    (State.leavePs5 s).kept = s.kept := by
  unfold State.leavePs5
  repeat' first
    | with_reducible rfl
    | with_reducible refine kept_ite ?_ ?_
    | simp only [↓kept_pwrEvent, ↓State.kept_mk, ↓State.nf1, ↓State.nf2, ↓State.nf3, ↓State.nf4, ↓State.nf5, ↓State.nf6, ↓State.nf7]
    | dsimp only
    | split

theorem kept_retune (s : State) (court before : Nat) :
    (State.retune s court before).kept = s.kept := by
  unfold State.retune
  repeat' first
    | with_reducible rfl
    | with_reducible refine kept_ite ?_ ?_
    | simp only [↓kept_setCourtPwr, ↓kept_markCourt, ↓State.kept_mk, ↓State.nf1, ↓State.nf2, ↓State.nf3, ↓State.nf4, ↓State.nf5, ↓State.nf6, ↓State.nf7]
    | dsimp only
    | split

theorem kept_smbOut (s : State) (bs : List Byte) :
    (State.smbOut s bs).kept = s.kept := by
  unfold State.smbOut
  repeat' first
    | with_reducible rfl
    | with_reducible refine kept_ite ?_ ?_
    | simp only [↓State.kept_mk, ↓State.nf1, ↓State.nf2, ↓State.nf3, ↓State.nf4, ↓State.nf5, ↓State.nf6, ↓State.nf7]
    | dsimp only
    | split

theorem kept_smbAck (s : State) :
    (State.smbAck s).kept = s.kept := by
  unfold State.smbAck
  repeat' first
    | with_reducible rfl
    | with_reducible refine kept_ite ?_ ?_
    | simp only [↓kept_smbOut, ↓State.kept_mk, ↓State.nf1, ↓State.nf2, ↓State.nf3, ↓State.nf4, ↓State.nf5, ↓State.nf6, ↓State.nf7]
    | dsimp only
    | split

theorem kept_smbNack (s : State) :
    (State.smbNack s).kept = s.kept := by
  unfold State.smbNack
  repeat' first
    | with_reducible rfl
    | with_reducible refine kept_ite ?_ ?_
    | simp only [↓State.kept_mk, ↓State.nf1, ↓State.nf2, ↓State.nf3, ↓State.nf4, ↓State.nf5, ↓State.nf6, ↓State.nf7]
    | dsimp only
    | split

theorem kept_smbRead (s : State) (pec : Bool) (bs : List Byte) :
    (State.smbRead s pec bs).kept = s.kept := by
  unfold State.smbRead
  repeat' first
    | with_reducible rfl
    | with_reducible refine kept_ite ?_ ?_
    | simp only [↓kept_smbOut, ↓kept_smbNack, ↓State.kept_mk, ↓State.nf1, ↓State.nf2, ↓State.nf3, ↓State.nf4, ↓State.nf5, ↓State.nf6, ↓State.nf7]
    | dsimp only
    | split

theorem kept_resetStats (s : State) (l : UpdLayer) (ac : Access) :
    (State.resetStats s l ac).kept = s.kept := by
  unfold State.resetStats
  repeat' first
    | with_reducible rfl
    | with_reducible refine kept_ite ?_ ?_
    | simp only [↓kept_objWrite, ↓State.kept_mk, ↓State.nf1, ↓State.nf2, ↓State.nf3, ↓State.nf4, ↓State.nf5, ↓State.nf6, ↓State.nf7]
    | dsimp only
    | split

theorem kept_setPlan (s : State) (i : Nat) (p : UpdPlan) :
    (State.setPlan s i p).kept = s.kept := by
  unfold State.setPlan
  repeat' first
    | with_reducible rfl
    | with_reducible refine kept_ite ?_ ?_
    | simp only [↓State.kept_mk, ↓State.nf1, ↓State.nf2, ↓State.nf3, ↓State.nf4, ↓State.nf5, ↓State.nf6, ↓State.nf7]
    | dsimp only
    | split

theorem kept_answerUpd (s : State) (r : Req) (code : Code) (refreshed tiles frozen bad : Nat) :
    (State.answerUpd s r code refreshed tiles frozen bad).kept = s.kept := by
  unfold State.answerUpd
  repeat' first
    | with_reducible rfl
    | with_reducible refine kept_ite ?_ ?_
    | simp only [↓kept_answer, ↓State.kept_mk, ↓State.nf1, ↓State.nf2, ↓State.nf3, ↓State.nf4, ↓State.nf5, ↓State.nf6, ↓State.nf7]
    | dsimp only
    | split

theorem kept_settleRelease (s : State) (i : Nat) :
    (State.settleRelease s i).kept = s.kept := by
  unfold State.settleRelease
  repeat' first
    | with_reducible rfl
    | with_reducible refine kept_ite ?_ ?_
    | simp only [↓kept_answer, ↓State.kept_mk, ↓State.nf1, ↓State.nf2, ↓State.nf3, ↓State.nf4, ↓State.nf5, ↓State.nf6, ↓State.nf7]
    | dsimp only
    | split

theorem kept_readMasks (s : State) (p : UpdPlan) (ls : List UpdLayer) : (s.readMasks p ls).1.kept = s.kept := by
  induction ls generalizing s with
  | nil => rfl
  | cons l ls ih =>
    have h : ∀ (t : State), t.kept = s.kept → ((if l.maskMode = 0 then (s, 0, []) else
        ((s.objRead (s.updAccess p) l.mask l.maskBytes).1.chargeBytesAt (s.updAccess p).unit p.ctx false l.mask l.maskBytes,
         (s.objRead (s.updAccess p) l.mask l.maskBytes).2.1, (s.objRead (s.updAccess p) l.mask l.maskBytes).2.2) :
           State × Code × List Byte)).1.kept = s.kept :=
      fun _ _ => kept_ite1 rfl ((kept_chargeBytesAt ..).trans (kept_objRead ..))
    unfold State.readMasks
    dsimp only
    exact kept_ite1 (h s rfl) ((ih _).trans (h s rfl))


theorem kept_updDone (s : State) (plan : Nat) (r : Req) (p : UpdPlan) (time : Nat) (code : Code) (x : UpdRun) :
    (State.updDone s plan r p time code x).kept = s.kept := by
  unfold State.updDone
  repeat' first
    | with_reducible rfl
    | with_reducible refine kept_ite ?_ ?_
    | simp only [↓kept_drawn, ↓kept_addAcc, ↓kept_chargeAt, ↓kept_mark, ↓kept_setPlan, ↓kept_answerUpd, ↓kept_settleRelease, ↓State.kept_mk, ↓State.nf1, ↓State.nf2, ↓State.nf3, ↓State.nf4, ↓State.nf5, ↓State.nf6, ↓State.nf7]
    | dsimp only
    | split

theorem kept_writeMfmt (s : State) (p : Nat) (v : W64) :
    (State.writeMfmt s p v).kept = s.kept := by
  unfold State.writeMfmt
  repeat' first
    | with_reducible rfl
    | with_reducible refine kept_ite ?_ ?_
    | simp only [↓kept_modCore, ↓kept_stopNow, ↓State.kept_mk, ↓State.nf1, ↓State.nf2, ↓State.nf3, ↓State.nf4, ↓State.nf5, ↓State.nf6, ↓State.nf7]
    | dsimp only
    | split

theorem kept_writeCore (s : State) (p off : Nat) (v : W64) :
    (State.writeCore s p off v).kept = s.kept := by
  unfold State.writeCore
  repeat' first
    | with_reducible rfl
    | with_reducible refine kept_ite ?_ ?_
    | simp only [↓kept_modCore, ↓kept_writeCtrl, ↓kept_writeMfmt, ↓State.kept_mk, ↓State.nf1, ↓State.nf2, ↓State.nf3, ↓State.nf4, ↓State.nf5, ↓State.nf6, ↓State.nf7]
    | dsimp only
    | split

theorem kept_writeClu (s : State) (n off : Nat) (v : W64) :
    (State.writeClu s n off v).kept = s.kept := by
  unfold State.writeClu
  repeat' first
    | with_reducible rfl
    | with_reducible refine kept_ite ?_ ?_
    | simp only [↓kept_modClu, ↓State.kept_mk, ↓State.nf1, ↓State.nf2, ↓State.nf3, ↓State.nf4, ↓State.nf5, ↓State.nf6, ↓State.nf7]
    | dsimp only
    | split

theorem kept_scalarOp (b : Slot) (sd : BitVec 4) (f : CoreRegs → W64) (s : State) :
    (scalarOp b sd f s).kept = s.kept := by
  unfold scalarOp
  repeat' first
    | with_reducible rfl
    | with_reducible refine kept_ite ?_ ?_
    | simp only [↓kept_slotOp, ↓State.kept_mk, ↓State.nf1, ↓State.nf2, ↓State.nf3, ↓State.nf4, ↓State.nf5, ↓State.nf6, ↓State.nf7]
    | dsimp only
    | split

theorem kept_branchOp (b : Slot) (imm : BitVec 11) (t : CoreRegs → Bool) (s : State) :
    (branchOp b imm t s).kept = s.kept := by
  unfold branchOp
  repeat' first
    | with_reducible rfl
    | with_reducible refine kept_ite ?_ ?_
    | simp only [↓kept_slotOp, ↓State.kept_mk, ↓State.nf1, ↓State.nf2, ↓State.nf3, ↓State.nf4, ↓State.nf5, ↓State.nf6, ↓State.nf7]
    | dsimp only
    | split

/-! A step of the update engine as it runs. -/

theorem kept_iteU {c : Prop} [Decidable c] {a b : UpdRun} {k : Kept} (ha : a.s.kept = k) (hb : b.s.kept = k) :
    (if c then a else b).s.kept = k := by split <;> assumption
theorem kept_iteV {α : Type} {c : Prop} [Decidable c] {a b : UpdRun × α} {k : Kept} (ha : a.1.s.kept = k) (hb : b.1.s.kept = k) :
    (if c then a else b).1.s.kept = k := by split <;> assumption
theorem kept_foldU {α : Type} {g : UpdRun → α → UpdRun} (h : ∀ x e, (g x e).s.kept = x.s.kept) (l : List α) (x : UpdRun) :
    (l.foldl g x).s.kept = x.s.kept := by
  induction l generalizing x with
  | nil => rfl
  | cons e l ih => exact (ih _).trans (h x e)
theorem kept_foldV {α β : Type} {g : UpdRun × β → α → UpdRun × β} (h : ∀ x e, (g x e).1.s.kept = x.1.s.kept) (l : List α)
    (x : UpdRun × β) : (l.foldl g x).1.s.kept = x.1.s.kept := by
  induction l generalizing x with
  | nil => rfl
  | cons e l ih => exact (ih _).trans (h x e)

theorem kept_updRead (x : UpdRun) (p : UpdPlan) (a n : Nat) : (x.read p a n).1.s.kept = x.s.kept := by
  unfold UpdRun.read
  exact kept_iteV rfl ((kept_chargeBytesAt ..).trans (kept_objRead ..))

theorem kept_updWrite (x : UpdRun) (p : UpdPlan) (a : Nat) (bs : List Byte) : (x.write p a bs).s.kept = x.s.kept := by
  unfold UpdRun.write
  exact kept_iteU rfl (kept_iteU rfl ((kept_chargeBytesAt ..).trans (kept_objWrite ..)))

theorem kept_updTile (p : UpdPlan) (l : UpdLayer) (mask : List Byte) (dir : Option Mat) (x : UpdRun) (t : Nat) : (UpdRun.tile p l mask dir x t).s.kept = x.s.kept := by
  unfold UpdRun.tile
  repeat' first
    | with_reducible rfl
    | with_reducible refine kept_iteU ?_ ?_
    | with_reducible refine kept_iteV ?_ ?_
    | with_reducible refine (kept_foldU (fun _ _ => ?_) _ _).trans ?_
    | simp only [↓kept_updRead, ↓kept_updWrite, ↓State.kept_mk, ↓State.nf1, ↓State.nf2, ↓State.nf3, ↓State.nf4, ↓State.nf5, ↓State.nf6, ↓State.nf7]
    | dsimp only
    | split

theorem kept_updRefresh (p : UpdPlan) (l : UpdLayer) (n a : Nat) (x : UpdRun) (st root : Mat) :
    (UpdRun.refresh p l n a x st root).1.s.kept = x.s.kept := by
  unfold UpdRun.refresh
  refine kept_iteV rfl ?_
  split
  · rfl
  · exact kept_iteV (kept_updWrite ..) (kept_updWrite ..)
theorem kept_updRefreshAll (p : UpdPlan) (l : UpdLayer) (n a : Nat) (x : UpdRun) (es : List (Mat × Mat)) :
    (UpdRun.refreshAll p l n a x es).1.s.kept = x.s.kept := by
  induction es generalizing a x with
  | nil => rfl
  | cons e es ih => exact (ih _ _).trans (kept_updRefresh ..)

theorem kept_updFpc (p : UpdPlan) (l : UpdLayer) (x : UpdRun) : (UpdRun.fpc p l x).1.s.kept = x.s.kept := by
  unfold UpdRun.fpc
  dsimp only
  have h3 : ∀ (a b c d e f : Nat), ((((x.read p a b).1.read p c d).1.read p e f).1).s.kept = x.s.kept := fun _ _ _ _ _ _ =>
    (kept_updRead ..).trans ((kept_updRead ..).trans (kept_updRead ..))
  refine kept_iteV (h3 ..) ((kept_updRead ..).trans ?_)
  refine (kept_iteV (kept_updRefreshAll ..) rfl).trans ?_
  exact (kept_iteV (kept_updRefreshAll ..) rfl).trans ((kept_updWrite ..).trans (h3 ..))

theorem kept_updLayer (p : UpdPlan) (x : UpdRun) (e : UpdLayer × List Byte) : (UpdRun.layer p x e).s.kept = x.s.kept := by
  unfold UpdRun.layer
  refine kept_iteU rfl ((kept_foldU (fun _ _ => kept_updTile ..) _ _).trans ?_)
  exact kept_iteV (kept_updFpc ..) rfl

theorem kept_updRun (s : State) (p : UpdPlan) : (s.updRun p).s.kept = s.kept := by
  unfold State.updRun
  have h : ∀ (es : List (UpdLayer × List Byte)) (y : UpdRun), (es.foldl (UpdRun.layer p) y).s.kept = y.s.kept :=
    fun es y => kept_foldU (fun _ _ => kept_updLayer ..) es y
  exact kept_iteU (h ..) (h ..)


end Sys2Proof.Machine
end

