-- ==== Sys2Proof/Laws/KeptExec.lean ====
section
/-! SUPPORT. What each command leaves alone: the queue, and the fields that only a register write or a reset changes. One lemma per
meaning; a register write and a reset keep the ranges. -/
set_option linter.unusedSimpArgs false
set_option linter.unusedVariables false
namespace Sys2Proof.Machine

theorem kept_execXnop (b : Slot) (s : State) (t : State) (h : execXnop b s = .next t) : t.kept = s.kept := by
  unfold execXnop at h
  obtain rfl := Host.Outcome.next.inj h
  clear h
  repeat' first
    | with_reducible rfl
    | with_reducible refine kept_ite ?_ ?_
    | simp only [↓kept_slotOp, ↓State.kept_mk, ↓State.nf1, ↓State.nf2, ↓State.nf3, ↓State.nf4, ↓State.nf5, ↓State.nf6, ↓State.nf7]
    | dsimp only
    | split

theorem kept_execXcopy (b : Slot) (dst src len tag : BitVec 4) (s : State) (t : State) (h : execXcopy b dst src len tag s = .next t) : t.kept = s.kept := by
  unfold execXcopy at h
  obtain rfl := Host.Outcome.next.inj h
  clear h
  repeat' first
    | with_reducible rfl
    | with_reducible refine kept_ite ?_ ?_
    | simp only [↓kept_xferOp, ↓State.kept_mk, ↓State.nf1, ↓State.nf2, ↓State.nf3, ↓State.nf4, ↓State.nf5, ↓State.nf6, ↓State.nf7]
    | dsimp only
    | split

theorem kept_execXsld (b : Slot) (dst src len tag mod : BitVec 4) (s : State) (t : State) (h : execXsld b dst src len tag mod s = .next t) : t.kept = s.kept := by
  unfold execXsld at h
  obtain rfl := Host.Outcome.next.inj h
  clear h
  repeat' first
    | with_reducible rfl
    | with_reducible refine kept_ite ?_ ?_
    | simp only [↓kept_xferOp, ↓State.kept_mk, ↓State.nf1, ↓State.nf2, ↓State.nf3, ↓State.nf4, ↓State.nf5, ↓State.nf6, ↓State.nf7]
    | dsimp only
    | split

theorem kept_execXsst (b : Slot) (dst src len tag mod : BitVec 4) (s : State) (t : State) (h : execXsst b dst src len tag mod s = .next t) : t.kept = s.kept := by
  unfold execXsst at h
  obtain rfl := Host.Outcome.next.inj h
  clear h
  repeat' first
    | with_reducible rfl
    | with_reducible refine kept_ite ?_ ?_
    | simp only [↓kept_xferOp, ↓State.kept_mk, ↓State.nf1, ↓State.nf2, ↓State.nf3, ↓State.nf4, ↓State.nf5, ↓State.nf6, ↓State.nf7]
    | dsimp only
    | split

theorem kept_execXmld (b : Slot) (dst src len tag mod : BitVec 4) (s : State) (t : State) (h : execXmld b dst src len tag mod s = .next t) : t.kept = s.kept := by
  unfold execXmld at h
  obtain rfl := Host.Outcome.next.inj h
  clear h
  repeat' first
    | with_reducible rfl
    | with_reducible refine kept_ite ?_ ?_
    | simp only [↓kept_xferOp, ↓State.kept_mk, ↓State.nf1, ↓State.nf2, ↓State.nf3, ↓State.nf4, ↓State.nf5, ↓State.nf6, ↓State.nf7]
    | dsimp only
    | split

theorem kept_execXmst (b : Slot) (dst src len tag mod : BitVec 4) (s : State) (t : State) (h : execXmst b dst src len tag mod s = .next t) : t.kept = s.kept := by
  unfold execXmst at h
  obtain rfl := Host.Outcome.next.inj h
  clear h
  repeat' first
    | with_reducible rfl
    | with_reducible refine kept_ite ?_ ?_
    | simp only [↓kept_xferOp, ↓State.kept_mk, ↓State.nf1, ↓State.nf2, ↓State.nf3, ↓State.nf4, ↓State.nf5, ↓State.nf6, ↓State.nf7]
    | dsimp only
    | split

theorem kept_execXvat (b : Slot) (dst src len tag code : BitVec 4) (s : State) (t : State) (h : execXvat b dst src len tag code s = .next t) : t.kept = s.kept := by
  unfold execXvat at h
  obtain rfl := Host.Outcome.next.inj h
  clear h
  repeat' first
    | with_reducible rfl
    | with_reducible refine kept_ite ?_ ?_
    | simp only [↓kept_xferOp, ↓State.kept_mk, ↓State.nf1, ↓State.nf2, ↓State.nf3, ↓State.nf4, ↓State.nf5, ↓State.nf6, ↓State.nf7]
    | dsimp only
    | split

theorem kept_execXacc (b : Slot) (dst src len tag : BitVec 4) (fromAcc : Bool) (s : State) (t : State) (h : execXacc b dst src len tag fromAcc s = .next t) : t.kept = s.kept := by
  unfold execXacc at h
  obtain rfl := Host.Outcome.next.inj h
  clear h
  repeat' first
    | with_reducible rfl
    | with_reducible refine kept_ite ?_ ?_
    | simp only [↓kept_xferOp, ↓State.kept_mk, ↓State.nf1, ↓State.nf2, ↓State.nf3, ↓State.nf4, ↓State.nf5, ↓State.nf6, ↓State.nf7]
    | dsimp only
    | split

theorem kept_execXhalo (b : Slot) (dst src len tag : BitVec 4) (dir : BitVec 2) (s : State) (t : State) (h : execXhalo b dst src len tag dir s = .next t) : t.kept = s.kept := by
  unfold execXhalo at h
  obtain rfl := Host.Outcome.next.inj h
  clear h
  repeat' first
    | with_reducible rfl
    | with_reducible refine kept_ite ?_ ?_
    | simp only [↓kept_slotOp, ↓State.kept_mk, ↓State.nf1, ↓State.nf2, ↓State.nf3, ↓State.nf4, ↓State.nf5, ↓State.nf6, ↓State.nf7]
    | dsimp only
    | split

theorem kept_execXhwait (b : Slot) (len : BitVec 4) (dir : BitVec 2) (s : State) (t : State) (h : execXhwait b len dir s = .next t) : t.kept = s.kept := by
  unfold execXhwait at h
  obtain rfl := Host.Outcome.next.inj h
  clear h
  repeat' first
    | with_reducible rfl
    | with_reducible refine kept_ite ?_ ?_
    | simp only [↓kept_slotOp, ↓State.kept_mk, ↓State.nf1, ↓State.nf2, ↓State.nf3, ↓State.nf4, ↓State.nf5, ↓State.nf6, ↓State.nf7]
    | dsimp only
    | split

theorem kept_execXfence (b : Slot) (tag : BitVec 4) (all : Bool) (s : State) (t : State) (h : execXfence b tag all s = .next t) : t.kept = s.kept := by
  unfold execXfence at h
  obtain rfl := Host.Outcome.next.inj h
  clear h
  repeat' first
    | with_reducible rfl
    | with_reducible refine kept_ite ?_ ?_
    | simp only [↓kept_slotOp, ↓State.kept_mk, ↓State.nf1, ↓State.nf2, ↓State.nf3, ↓State.nf4, ↓State.nf5, ↓State.nf6, ↓State.nf7]
    | dsimp only
    | split

theorem kept_execXpage (b : Slot) (dst len tag : BitVec 4) (part : BitVec 2) (s : State) (t : State) (h : execXpage b dst len tag part s = .next t) : t.kept = s.kept := by
  unfold execXpage at h
  obtain rfl := Host.Outcome.next.inj h
  clear h
  repeat' first
    | with_reducible rfl
    | with_reducible refine kept_ite ?_ ?_
    | simp only [↓kept_slotOp, ↓State.kept_mk, ↓State.nf1, ↓State.nf2, ↓State.nf3, ↓State.nf4, ↓State.nf5, ↓State.nf6, ↓State.nf7]
    | dsimp only
    | split

theorem kept_execTransferComplete (core : Nat) (x : XferEnd) (s : State) (t : State) (h : execTransferComplete core x s = .next t) : t.kept = s.kept := by
  unfold execTransferComplete at h
  obtain rfl := Host.Outcome.next.inj h
  clear h
  repeat' first
    | with_reducible rfl
    | with_reducible refine kept_ite ?_ ?_
    | simp only [↓kept_modCore, ↓kept_xferEffect, ↓kept_linkWords, ↓State.kept_mk, ↓State.nf1, ↓State.nf2, ↓State.nf3, ↓State.nf4, ↓State.nf5, ↓State.nf6, ↓State.nf7]
    | dsimp only
    | split

theorem kept_execHaloArrival (core : Nat) (dir : BitVec 2) (s : State) (t : State) (h : execHaloArrival core dir s = .next t) : t.kept = s.kept := by
  unfold execHaloArrival at h
  obtain rfl := Host.Outcome.next.inj h
  clear h
  repeat' first
    | with_reducible rfl
    | with_reducible refine kept_ite ?_ ?_
    | with_reducible refine kept_getD (fun _ _ => ?_) ?_
    | simp only [↓kept_modCore, ↓State.kept_mk, ↓State.nf1, ↓State.nf2, ↓State.nf3, ↓State.nf4, ↓State.nf5, ↓State.nf6, ↓State.nf7]
    | dsimp only
    | split

theorem kept_execVatLineApply (core idx : Nat) (s : State) (t : State) (h : execVatLineApply core idx s = .next t) : t.kept = s.kept := by
  unfold execVatLineApply at h
  obtain rfl := Host.Outcome.next.inj h
  clear h
  repeat' first
    | with_reducible rfl
    | with_reducible refine kept_ite ?_ ?_
    | simp only [↓kept_modCore, ↓kept_vatApply, ↓kept_chargeBytesAt, ↓State.kept_mk, ↓State.nf1, ↓State.nf2, ↓State.nf3, ↓State.nf4, ↓State.nf5, ↓State.nf6, ↓State.nf7]
    | dsimp only
    | split

theorem kept_execVatElementOp (ctx addr : Nat) (code : BitVec 4) (x : W64) (s : State) (t : State) (h : execVatElementOp ctx addr code x s = .next t) : t.kept = s.kept := by
  unfold execVatElementOp at h
  obtain rfl := Host.Outcome.next.inj h
  clear h
  repeat' first
    | with_reducible rfl
    | with_reducible refine kept_ite ?_ ?_
    | simp only [↓kept_objVat, ↓kept_chargeBytes, ↓kept_answerUnit, ↓State.kept_mk, ↓State.nf1, ↓State.nf2, ↓State.nf3, ↓State.nf4, ↓State.nf5, ↓State.nf6, ↓State.nf7]
    | dsimp only
    | split

theorem kept_execCoreRun (core : Nat) (v : W32) (s : State) (t : State) (h : execCoreRun core v s = .next t) : t.kept = s.kept := by
  unfold execCoreRun at h
  obtain rfl := Host.Outcome.next.inj h
  clear h
  repeat' first
    | with_reducible rfl
    | with_reducible refine kept_ite ?_ ?_
    | simp only [↓kept_writeCtrl, ↓State.kept_mk, ↓State.nf1, ↓State.nf2, ↓State.nf3, ↓State.nf4, ↓State.nf5, ↓State.nf6, ↓State.nf7]
    | dsimp only
    | split

theorem kept_execCoreHalt (core : Nat) (v : W32) (s : State) (t : State) (h : execCoreHalt core v s = .next t) : t.kept = s.kept := by
  unfold execCoreHalt at h
  obtain rfl := Host.Outcome.next.inj h
  clear h
  repeat' first
    | with_reducible rfl
    | with_reducible refine kept_ite ?_ ?_
    | simp only [↓kept_writeCtrl, ↓State.kept_mk, ↓State.nf1, ↓State.nf2, ↓State.nf3, ↓State.nf4, ↓State.nf5, ↓State.nf6, ↓State.nf7]
    | dsimp only
    | split

theorem kept_execPcEndStop (core : Nat) (s : State) (t : State) (h : execPcEndStop core s = .next t) : t.kept = s.kept := by
  unfold execPcEndStop at h
  obtain rfl := Host.Outcome.next.inj h
  clear h
  repeat' first
    | with_reducible rfl
    | with_reducible refine kept_ite ?_ ?_
    | simp only [↓kept_modCore, ↓State.kept_mk, ↓State.nf1, ↓State.nf2, ↓State.nf3, ↓State.nf4, ↓State.nf5, ↓State.nf6, ↓State.nf7]
    | dsimp only
    | split

theorem kept_execHaloTimeout (core : Nat) (dir : BitVec 2) (s : State) (t : State) (h : execHaloTimeout core dir s = .next t) : t.kept = s.kept := by
  unfold execHaloTimeout at h
  obtain rfl := Host.Outcome.next.inj h
  clear h
  repeat' first
    | with_reducible rfl
    | with_reducible refine kept_ite ?_ ?_
    | simp only [↓kept_stopNow, ↓State.kept_mk, ↓State.nf1, ↓State.nf2, ↓State.nf3, ↓State.nf4, ↓State.nf5, ↓State.nf6, ↓State.nf7]
    | dsimp only
    | split

theorem kept_execRequestIntake (mbx : Nat) (s : State) (t : State) (h : execRequestIntake mbx s = .next t) : t.kept = s.kept := by
  unfold execRequestIntake at h
  obtain rfl := Host.Outcome.next.inj h
  clear h
  repeat' first
    | with_reducible rfl
    | with_reducible refine kept_ite ?_ ?_
    | simp only [↓kept_drawn, ↓kept_modMbx, ↓kept_refuseAtRing, ↓State.kept_mk, ↓State.nf1, ↓State.nf2, ↓State.nf3, ↓State.nf4, ↓State.nf5, ↓State.nf6, ↓State.nf7]
    | dsimp only
    | split

theorem kept_execMbxReqTail (mbx tail : Nat) (data : List Byte) (s : State) (t : State) (h : execMbxReqTail mbx tail data s = .next t) : t.kept = s.kept := by
  unfold execMbxReqTail at h
  obtain rfl := Host.Outcome.next.inj h
  clear h
  repeat' first
    | with_reducible rfl
    | with_reducible refine kept_ite ?_ ?_
    | simp only [↓kept_setMbx, ↓State.kept_mk, ↓State.nf1, ↓State.nf2, ↓State.nf3, ↓State.nf4, ↓State.nf5, ↓State.nf6, ↓State.nf7]
    | dsimp only
    | split

theorem kept_execMbxRspHead (mbx head : Nat) (s : State) (t : State) (h : execMbxRspHead mbx head s = .next t) : t.kept = s.kept := by
  unfold execMbxRspHead at h
  obtain rfl := Host.Outcome.next.inj h
  clear h
  repeat' first
    | with_reducible rfl
    | with_reducible refine kept_ite ?_ ?_
    | simp only [↓kept_modMbx, ↓State.kept_mk, ↓State.nf1, ↓State.nf2, ↓State.nf3, ↓State.nf4, ↓State.nf5, ↓State.nf6, ↓State.nf7]
    | dsimp only
    | split

theorem kept_execResponseDeliver (mbx : Nat) (s : State) (t : State) (h : execResponseDeliver mbx s = .next t) : t.kept = s.kept := by
  unfold execResponseDeliver at h
  obtain rfl := Host.Outcome.next.inj h
  clear h
  repeat' first
    | with_reducible rfl
    | with_reducible refine kept_ite ?_ ?_
    | simp only [↓kept_modMbx, ↓State.kept_mk, ↓State.nf1, ↓State.nf2, ↓State.nf3, ↓State.nf4, ↓State.nf5, ↓State.nf6, ↓State.nf7]
    | dsimp only
    | split

theorem kept_execMsgHello (mbx : Nat) (s : State) (t : State) (h : execMsgHello mbx s = .next t) : t.kept = s.kept := by
  unfold execMsgHello at h
  obtain rfl := Host.Outcome.next.inj h
  clear h
  repeat' first
    | with_reducible rfl
    | with_reducible refine kept_ite ?_ ?_
    | with_reducible refine kept_serve (fun _ _ => ?_) _
    | simp only [↓kept_modMbx, ↓kept_answer, ↓kept_event, ↓State.kept_mk, ↓State.nf1, ↓State.nf2, ↓State.nf3, ↓State.nf4, ↓State.nf5, ↓State.nf6, ↓State.nf7]
    | dsimp only
    | split

theorem kept_execMsgBye (mbx : Nat) (s : State) (t : State) (h : execMsgBye mbx s = .next t) : t.kept = s.kept := by
  unfold execMsgBye at h
  obtain rfl := Host.Outcome.next.inj h
  clear h
  repeat' first
    | with_reducible rfl
    | with_reducible refine kept_ite ?_ ?_
    | with_reducible refine kept_serve (fun _ _ => ?_) _
    | simp only [↓kept_modMbx, ↓kept_answer, ↓State.kept_mk, ↓State.nf1, ↓State.nf2, ↓State.nf3, ↓State.nf4, ↓State.nf5, ↓State.nf6, ↓State.nf7]
    | dsimp only
    | split

theorem kept_execMsgPing (mbx : Nat) (s : State) (t : State) (h : execMsgPing mbx s = .next t) : t.kept = s.kept := by
  unfold execMsgPing at h
  obtain rfl := Host.Outcome.next.inj h
  clear h
  repeat' first
    | with_reducible rfl
    | with_reducible refine kept_ite ?_ ?_
    | with_reducible refine kept_serve (fun _ _ => ?_) _
    | simp only [↓kept_answer, ↓State.kept_mk, ↓State.nf1, ↓State.nf2, ↓State.nf3, ↓State.nf4, ↓State.nf5, ↓State.nf6, ↓State.nf7]
    | dsimp only
    | split

theorem kept_execMsgUmpQuery (mbx : Nat) (s : State) (t : State) (h : execMsgUmpQuery mbx s = .next t) : t.kept = s.kept := by
  unfold execMsgUmpQuery at h
  obtain rfl := Host.Outcome.next.inj h
  clear h
  repeat' first
    | with_reducible rfl
    | with_reducible refine kept_ite ?_ ?_
    | with_reducible refine kept_serve (fun _ _ => ?_) _
    | simp only [↓kept_answer, ↓State.kept_mk, ↓State.nf1, ↓State.nf2, ↓State.nf3, ↓State.nf4, ↓State.nf5, ↓State.nf6, ↓State.nf7]
    | dsimp only
    | split

theorem kept_execTableBankSwap (core : Nat) (slot : BitVec 3) (s : State) (t : State) (h : execTableBankSwap core slot s = .next t) : t.kept = s.kept := by
  unfold execTableBankSwap at h
  obtain rfl := Host.Outcome.next.inj h
  clear h
  repeat' first
    | with_reducible rfl
    | with_reducible refine kept_ite ?_ ?_
    | simp only [↓kept_modCore, ↓kept_tabAnswer, ↓State.kept_mk, ↓State.nf1, ↓State.nf2, ↓State.nf3, ↓State.nf4, ↓State.nf5, ↓State.nf6, ↓State.nf7]
    | dsimp only
    | split

theorem kept_execMsgTableLoad (mbx : Nat) (s : State) (t : State) (h : execMsgTableLoad mbx s = .next t) : t.kept = s.kept := by
  unfold execMsgTableLoad at h
  obtain rfl := Host.Outcome.next.inj h
  clear h
  repeat' first
    | with_reducible rfl
    | with_reducible refine kept_ite ?_ ?_
    | with_reducible refine kept_serve (fun _ _ => ?_) _
    | with_reducible refine (kept_foldl (fun _ _ => ?_) _ _).trans ?_
    | with_reducible refine (kept_foldp (fun _ _ => ?_) _ _).trans ?_
    | simp only [↓kept_modCore, ↓kept_refuse, ↓kept_objRead, ↓kept_tabAnswer, ↓State.kept_mk, ↓State.nf1, ↓State.nf2, ↓State.nf3, ↓State.nf4, ↓State.nf5, ↓State.nf6, ↓State.nf7]
    | dsimp only
    | split

theorem kept_execMsgTableQuery (mbx : Nat) (s : State) (t : State) (h : execMsgTableQuery mbx s = .next t) : t.kept = s.kept := by
  unfold execMsgTableQuery at h
  obtain rfl := Host.Outcome.next.inj h
  clear h
  repeat' first
    | with_reducible rfl
    | with_reducible refine kept_ite ?_ ?_
    | with_reducible refine kept_serve (fun _ _ => ?_) _
    | simp only [↓kept_answer, ↓kept_refuse, ↓State.kept_mk, ↓State.nf1, ↓State.nf2, ↓State.nf3, ↓State.nf4, ↓State.nf5, ↓State.nf6, ↓State.nf7]
    | dsimp only
    | split

theorem kept_execMsgShardRegister (mbx : Nat) (s : State) (t : State) (h : execMsgShardRegister mbx s = .next t) : t.kept = s.kept := by
  unfold execMsgShardRegister at h
  obtain rfl := Host.Outcome.next.inj h
  clear h
  repeat' first
    | with_reducible rfl
    | with_reducible refine kept_ite ?_ ?_
    | with_reducible refine kept_serve (fun _ _ => ?_) _
    | with_reducible refine kept_getD (fun _ _ => ?_) ?_
    | simp only [↓kept_refuse, ↓kept_setWset, ↓kept_setShard, ↓kept_shardHeader, ↓State.kept_mk, ↓State.nf1, ↓State.nf2, ↓State.nf3, ↓State.nf4, ↓State.nf5, ↓State.nf6, ↓State.nf7]
    | dsimp only
    | split

theorem kept_execMsgAdapterRegister (mbx : Nat) (s : State) (t : State) (h : execMsgAdapterRegister mbx s = .next t) : t.kept = s.kept := by
  unfold execMsgAdapterRegister at h
  obtain rfl := Host.Outcome.next.inj h
  clear h
  repeat' first
    | with_reducible rfl
    | with_reducible refine kept_ite ?_ ?_
    | with_reducible refine kept_serve (fun _ _ => ?_) _
    | simp only [↓kept_refuse, ↓kept_setShard, ↓kept_shardHeader, ↓State.kept_mk, ↓State.nf1, ↓State.nf2, ↓State.nf3, ↓State.nf4, ↓State.nf5, ↓State.nf6, ↓State.nf7]
    | dsimp only
    | split

theorem kept_execShardHashComplete (obj : Nat) (s : State) (t : State) (h : execShardHashComplete obj s = .next t) : t.kept = s.kept := by
  unfold execShardHashComplete at h
  obtain rfl := Host.Outcome.next.inj h
  clear h
  repeat' first
    | with_reducible rfl
    | with_reducible refine kept_ite ?_ ?_
    | simp only [↓kept_charge, ↓kept_setShard, ↓kept_shardDigest, ↓kept_unregister, ↓kept_answerShard, ↓State.kept_mk, ↓State.nf1, ↓State.nf2, ↓State.nf3, ↓State.nf4, ↓State.nf5, ↓State.nf6, ↓State.nf7]
    | dsimp only
    | split

theorem kept_execMsgWgtCommit (mbx : Nat) (s : State) (t : State) (h : execMsgWgtCommit mbx s = .next t) : t.kept = s.kept := by
  unfold execMsgWgtCommit at h
  obtain rfl := Host.Outcome.next.inj h
  clear h
  repeat' first
    | with_reducible rfl
    | with_reducible refine kept_ite ?_ ?_
    | with_reducible refine kept_serve (fun _ _ => ?_) _
    | simp only [↓kept_answer, ↓kept_abortGen, ↓kept_commitCheck, ↓kept_switchGen, ↓State.kept_mk, ↓State.nf1, ↓State.nf2, ↓State.nf3, ↓State.nf4, ↓State.nf5, ↓State.nf6, ↓State.nf7]
    | dsimp only
    | split

theorem kept_execMsgWgtBind (mbx : Nat) (s : State) (t : State) (h : execMsgWgtBind mbx s = .next t) : t.kept = s.kept := by
  unfold execMsgWgtBind at h
  obtain rfl := Host.Outcome.next.inj h
  clear h
  repeat' first
    | with_reducible rfl
    | with_reducible refine kept_ite ?_ ?_
    | with_reducible refine kept_serve (fun _ _ => ?_) _
    | simp only [↓kept_answer, ↓kept_refuse, ↓kept_genCheck, ↓State.kept_mk, ↓State.nf1, ↓State.nf2, ↓State.nf3, ↓State.nf4, ↓State.nf5, ↓State.nf6, ↓State.nf7]
    | dsimp only
    | split

theorem kept_execMsgAdapterRelease (mbx : Nat) (s : State) (t : State) (h : execMsgAdapterRelease mbx s = .next t) : t.kept = s.kept := by
  unfold execMsgAdapterRelease at h
  obtain rfl := Host.Outcome.next.inj h
  clear h
  repeat' first
    | with_reducible rfl
    | with_reducible refine kept_ite ?_ ?_
    | with_reducible refine kept_serve (fun _ _ => ?_) _
    | simp only [↓kept_answer, ↓kept_refuse, ↓kept_pinsFell, ↓State.kept_mk, ↓State.nf1, ↓State.nf2, ↓State.nf3, ↓State.nf4, ↓State.nf5, ↓State.nf6, ↓State.nf7]
    | dsimp only
    | split

theorem kept_execMsgWgtPriv (mbx : Nat) (s : State) (t : State) (h : execMsgWgtPriv mbx s = .next t) : t.kept = s.kept := by
  unfold execMsgWgtPriv at h
  obtain rfl := Host.Outcome.next.inj h
  clear h
  repeat' first
    | with_reducible rfl
    | with_reducible refine kept_ite ?_ ?_
    | with_reducible refine kept_serve (fun _ _ => ?_) _
    | simp only [↓kept_answer, ↓kept_refuse, ↓State.kept_mk, ↓State.nf1, ↓State.nf2, ↓State.nf3, ↓State.nf4, ↓State.nf5, ↓State.nf6, ↓State.nf7]
    | dsimp only
    | split

theorem kept_execMsgWgtQuery (mbx : Nat) (s : State) (t : State) (h : execMsgWgtQuery mbx s = .next t) : t.kept = s.kept := by
  unfold execMsgWgtQuery at h
  obtain rfl := Host.Outcome.next.inj h
  clear h
  repeat' first
    | with_reducible rfl
    | with_reducible refine kept_ite ?_ ?_
    | with_reducible refine kept_serve (fun _ _ => ?_) _
    | simp only [↓kept_answer, ↓kept_refuse, ↓State.kept_mk, ↓State.nf1, ↓State.nf2, ↓State.nf3, ↓State.nf4, ↓State.nf5, ↓State.nf6, ↓State.nf7]
    | dsimp only
    | split

theorem kept_execDigestPass (s : State) (t : State) (h : execDigestPass s = .next t) : t.kept = s.kept := by
  unfold execDigestPass at h
  obtain rfl := Host.Outcome.next.inj h
  clear h
  repeat' first
    | with_reducible rfl
    | with_reducible refine kept_ite ?_ ?_
    | with_reducible refine (kept_foldl (fun _ _ => ?_) _ _).trans ?_
    | with_reducible refine (kept_foldp (fun _ _ => ?_) _ _).trans ?_
    | simp only [↓kept_digestOne, ↓State.kept_mk, ↓State.nf1, ↓State.nf2, ↓State.nf3, ↓State.nf4, ↓State.nf5, ↓State.nf6, ↓State.nf7]
    | dsimp only
    | split

theorem kept_execFallbackWindowEnd (court layer : Nat) (s : State) (t : State) (h : execFallbackWindowEnd court layer s = .next t) : t.kept = s.kept := by
  unfold execFallbackWindowEnd at h
  obtain rfl := Host.Outcome.next.inj h
  clear h
  repeat' first
    | with_reducible rfl
    | with_reducible refine kept_ite ?_ ?_
    | simp only [↓kept_setFb, ↓kept_fbEvent, ↓State.kept_mk, ↓State.nf1, ↓State.nf2, ↓State.nf3, ↓State.nf4, ↓State.nf5, ↓State.nf6, ↓State.nf7]
    | dsimp only
    | split

theorem kept_execMsgPrecQuery (mbx : Nat) (s : State) (t : State) (h : execMsgPrecQuery mbx s = .next t) : t.kept = s.kept := by
  unfold execMsgPrecQuery at h
  obtain rfl := Host.Outcome.next.inj h
  clear h
  repeat' first
    | with_reducible rfl
    | with_reducible refine kept_ite ?_ ?_
    | with_reducible refine kept_serve (fun _ _ => ?_) _
    | simp only [↓kept_answer, ↓kept_refuse, ↓State.kept_mk, ↓State.nf1, ↓State.nf2, ↓State.nf3, ↓State.nf4, ↓State.nf5, ↓State.nf6, ↓State.nf7]
    | dsimp only
    | split

theorem kept_execMsgFallbackSet (mbx : Nat) (s : State) (t : State) (h : execMsgFallbackSet mbx s = .next t) : t.kept = s.kept := by
  unfold execMsgFallbackSet at h
  obtain rfl := Host.Outcome.next.inj h
  clear h
  repeat' first
    | with_reducible rfl
    | with_reducible refine kept_ite ?_ ?_
    | with_reducible refine kept_serve (fun _ _ => ?_) _
    | with_reducible refine (kept_foldl (fun _ _ => ?_) _ _).trans ?_
    | with_reducible refine (kept_foldp (fun _ _ => ?_) _ _).trans ?_
    | simp only [↓kept_answer, ↓kept_refuse, ↓kept_switchLayer, ↓State.kept_mk, ↓State.nf1, ↓State.nf2, ↓State.nf3, ↓State.nf4, ↓State.nf5, ↓State.nf6, ↓State.nf7]
    | dsimp only
    | split

theorem kept_execMsgPlaybookLoad (mbx : Nat) (s : State) (t : State) (h : execMsgPlaybookLoad mbx s = .next t) : t.kept = s.kept := by
  unfold execMsgPlaybookLoad at h
  obtain rfl := Host.Outcome.next.inj h
  clear h
  repeat' first
    | with_reducible rfl
    | with_reducible refine kept_ite ?_ ?_
    | with_reducible refine kept_serve (fun _ _ => ?_) _
    | simp only [↓kept_refuse, ↓kept_stageKernels, ↓kept_startFb, ↓kept_replaceFail, ↓kept_readPlan, ↓kept_makeScores, ↓kept_answerLoad, ↓State.kept_mk, ↓State.nf1, ↓State.nf2, ↓State.nf3, ↓State.nf4, ↓State.nf5, ↓State.nf6, ↓State.nf7]
    | dsimp only
    | split

theorem kept_execPlaybookInstall (new : Nat) (s : State) (t : State) (h : execPlaybookInstall new s = .next t) : t.kept = s.kept := by
  unfold execPlaybookInstall at h
  obtain rfl := Host.Outcome.next.inj h
  clear h
  repeat' first
    | with_reducible rfl
    | with_reducible refine kept_ite ?_ ?_
    | with_reducible refine (kept_foldl (fun _ _ => ?_) _ _).trans ?_
    | with_reducible refine (kept_foldp (fun _ _ => ?_) _ _).trans ?_
    | with_reducible exact kept_carryAll (by assumption)
    | with_reducible refine (kept_carryAll (by assumption)).trans ?_
    | simp only [↓kept_setSeq, ↓kept_stageKernels, ↓kept_startFb, ↓kept_settleScores, ↓State.kept_mk, ↓State.nf1, ↓State.nf2, ↓State.nf3, ↓State.nf4, ↓State.nf5, ↓State.nf6, ↓State.nf7]
    | dsimp only
    | split

theorem kept_execMsgKvQuery (mbx : Nat) (s : State) (t : State) (h : execMsgKvQuery mbx s = .next t) : t.kept = s.kept := by
  unfold execMsgKvQuery at h
  obtain rfl := Host.Outcome.next.inj h
  clear h
  repeat' first
    | with_reducible rfl
    | with_reducible refine kept_ite ?_ ?_
    | with_reducible refine kept_serve (fun _ _ => ?_) _
    | simp only [↓kept_answer, ↓kept_refuse, ↓State.kept_mk, ↓State.nf1, ↓State.nf2, ↓State.nf3, ↓State.nf4, ↓State.nf5, ↓State.nf6, ↓State.nf7]
    | dsimp only
    | split

theorem kept_execTierBlockMove (obj : Nat) (s : State) (t : State) (h : execTierBlockMove obj s = .next t) : t.kept = s.kept := by
  unfold execTierBlockMove at h
  obtain rfl := Host.Outcome.next.inj h
  clear h
  repeat' first
    | with_reducible rfl
    | with_reducible refine kept_ite ?_ ?_
    | simp only [↓kept_moveOn, ↓kept_awaitBudget, ↓State.kept_mk, ↓State.nf1, ↓State.nf2, ↓State.nf3, ↓State.nf4, ↓State.nf5, ↓State.nf6, ↓State.nf7]
    | dsimp only
    | split

theorem kept_execCaveBudgetRelease (s : State) (t : State) (h : execCaveBudgetRelease s = .next t) : t.kept = s.kept := by
  unfold execCaveBudgetRelease at h
  obtain rfl := Host.Outcome.next.inj h
  clear h
  repeat' first
    | with_reducible rfl
    | with_reducible refine kept_ite ?_ ?_
    | simp only [↓kept_moveOn, ↓State.kept_mk, ↓State.nf1, ↓State.nf2, ↓State.nf3, ↓State.nf4, ↓State.nf5, ↓State.nf6, ↓State.nf7]
    | dsimp only
    | split

theorem kept_execBlockRelocation (block : Nat) (s : State) (t : State) (h : execBlockRelocation block s = .next t) : t.kept = s.kept := by
  unfold execBlockRelocation at h
  obtain rfl := Host.Outcome.next.inj h
  clear h
  repeat' first
    | with_reducible rfl
    | with_reducible refine kept_ite ?_ ?_
    | with_reducible refine (kept_foldl (fun _ _ => ?_) _ _).trans ?_
    | with_reducible refine (kept_foldp (fun _ _ => ?_) _ _).trans ?_
    | simp only [↓kept_setRegion, ↓kept_clearRegion, ↓kept_moveChunk, ↓kept_countRelocation, ↓kept_startReloc, ↓kept_stepReloc, ↓State.kept_mk, ↓State.nf1, ↓State.nf2, ↓State.nf3, ↓State.nf4, ↓State.nf5, ↓State.nf6, ↓State.nf7]
    | dsimp only
    | split

theorem kept_execPressedCompaction (s : State) (t : State) (h : execPressedCompaction s = .next t) : t.kept = s.kept := by
  unfold execPressedCompaction at h
  obtain rfl := Host.Outcome.next.inj h
  clear h
  repeat' first
    | with_reducible rfl
    | with_reducible refine kept_ite ?_ ?_
    | simp only [↓kept_compact, ↓State.kept_mk, ↓State.nf1, ↓State.nf2, ↓State.nf3, ↓State.nf4, ↓State.nf5, ↓State.nf6, ↓State.nf7]
    | dsimp only
    | split

theorem kept_execCaveLevelling (x : CaveReport) (s : State) (t : State) (h : execCaveLevelling x s = .next t) : t.kept = s.kept := by
  unfold execCaveLevelling at h
  obtain rfl := Host.Outcome.next.inj h
  clear h
  repeat' first
    | with_reducible rfl
    | with_reducible refine kept_ite ?_ ?_
    | simp only [↓kept_losePages, ↓kept_level, ↓State.kept_mk, ↓State.nf1, ↓State.nf2, ↓State.nf3, ↓State.nf4, ↓State.nf5, ↓State.nf6, ↓State.nf7]
    | dsimp only
    | split

theorem kept_execFlashBlockRetire (pkg bytes : Nat) (s : State) (t : State) (h : execFlashBlockRetire pkg bytes s = .next t) : t.kept = s.kept := by
  unfold execFlashBlockRetire at h
  obtain rfl := Host.Outcome.next.inj h
  clear h
  repeat' first
    | with_reducible rfl
    | with_reducible refine kept_ite ?_ ?_
    | with_reducible refine (kept_foldl (fun _ _ => ?_) _ _).trans ?_
    | with_reducible refine (kept_foldp (fun _ _ => ?_) _ _).trans ?_
    | simp only [↓kept_drawn, ↓kept_raise, ↓kept_setPkg, ↓kept_moveImage, ↓State.kept_mk, ↓State.nf1, ↓State.nf2, ↓State.nf3, ↓State.nf4, ↓State.nf5, ↓State.nf6, ↓State.nf7]
    | dsimp only
    | split

theorem kept_execMsgObjCreate (mbx : Nat) (s : State) (t : State) (h : execMsgObjCreate mbx s = .next t) : t.kept = s.kept := by
  unfold execMsgObjCreate at h
  obtain rfl := Host.Outcome.next.inj h
  clear h
  repeat' first
    | with_reducible rfl
    | with_reducible refine kept_ite ?_ ?_
    | with_reducible refine kept_serve (fun _ _ => ?_) _
    | simp only [↓kept_answer, ↓kept_refuse, ↓kept_createObj, ↓State.kept_mk, ↓State.nf1, ↓State.nf2, ↓State.nf3, ↓State.nf4, ↓State.nf5, ↓State.nf6, ↓State.nf7]
    | dsimp only
    | split

theorem kept_execMsgObjFree (mbx : Nat) (s : State) (t : State) (h : execMsgObjFree mbx s = .next t) : t.kept = s.kept := by
  unfold execMsgObjFree at h
  obtain rfl := Host.Outcome.next.inj h
  clear h
  repeat' first
    | with_reducible rfl
    | with_reducible refine kept_ite ?_ ?_
    | with_reducible refine kept_serve (fun _ _ => ?_) _
    | simp only [↓kept_refuse, ↓kept_setObj, ↓kept_freeFor, ↓State.kept_mk, ↓State.nf1, ↓State.nf2, ↓State.nf3, ↓State.nf4, ↓State.nf5, ↓State.nf6, ↓State.nf7]
    | dsimp only
    | split

theorem kept_execMsgTierMove (mbx : Nat) (s : State) (t : State) (h : execMsgTierMove mbx s = .next t) : t.kept = s.kept := by
  unfold execMsgTierMove at h
  obtain rfl := Host.Outcome.next.inj h
  clear h
  repeat' first
    | with_reducible rfl
    | with_reducible refine kept_ite ?_ ?_
    | with_reducible refine kept_serve (fun _ _ => ?_) _
    | simp only [↓kept_answer, ↓kept_refuse, ↓kept_startMove, ↓State.kept_mk, ↓State.nf1, ↓State.nf2, ↓State.nf3, ↓State.nf4, ↓State.nf5, ↓State.nf6, ↓State.nf7]
    | dsimp only
    | split

theorem kept_execMsgTierQuery (mbx : Nat) (s : State) (t : State) (h : execMsgTierQuery mbx s = .next t) : t.kept = s.kept := by
  unfold execMsgTierQuery at h
  obtain rfl := Host.Outcome.next.inj h
  clear h
  repeat' first
    | with_reducible rfl
    | with_reducible refine kept_ite ?_ ?_
    | with_reducible refine kept_serve (fun _ _ => ?_) _
    | simp only [↓kept_answer, ↓kept_refuse, ↓State.kept_mk, ↓State.nf1, ↓State.nf2, ↓State.nf3, ↓State.nf4, ↓State.nf5, ↓State.nf6, ↓State.nf7]
    | dsimp only
    | split

theorem kept_execMsgQuotaSet (mbx : Nat) (s : State) (t : State) (h : execMsgQuotaSet mbx s = .next t) : t.kept = s.kept := by
  unfold execMsgQuotaSet at h
  obtain rfl := Host.Outcome.next.inj h
  clear h
  repeat' first
    | with_reducible rfl
    | with_reducible refine kept_ite ?_ ?_
    | with_reducible refine kept_serve (fun _ _ => ?_) _
    | simp only [↓kept_answer, ↓kept_refuse, ↓State.kept_mk, ↓State.nf1, ↓State.nf2, ↓State.nf3, ↓State.nf4, ↓State.nf5, ↓State.nf6, ↓State.nf7]
    | dsimp only
    | split

theorem kept_execMsgQuotaQuery (mbx : Nat) (s : State) (t : State) (h : execMsgQuotaQuery mbx s = .next t) : t.kept = s.kept := by
  unfold execMsgQuotaQuery at h
  obtain rfl := Host.Outcome.next.inj h
  clear h
  repeat' first
    | with_reducible rfl
    | with_reducible refine kept_ite ?_ ?_
    | with_reducible refine kept_serve (fun _ _ => ?_) _
    | simp only [↓kept_answer, ↓kept_refuse, ↓State.kept_mk, ↓State.nf1, ↓State.nf2, ↓State.nf3, ↓State.nf4, ↓State.nf5, ↓State.nf6, ↓State.nf7]
    | dsimp only
    | split

theorem kept_execAppCoreObjectAccess (x : AppCore) (acc : ObjAccess) (s : State) (t : State) (h : execAppCoreObjectAccess x acc s = .next t) : t.kept = s.kept := by
  unfold execAppCoreObjectAccess at h
  obtain rfl := Host.Outcome.next.inj h
  clear h
  repeat' first
    | with_reducible rfl
    | with_reducible refine kept_ite ?_ ?_
    | simp only [↓kept_objRead, ↓kept_objWrite, ↓kept_objVat, ↓kept_chargeBytesAt, ↓kept_answerUnit, ↓State.kept_mk, ↓State.nf1, ↓State.nf2, ↓State.nf3, ↓State.nf4, ↓State.nf5, ↓State.nf6, ↓State.nf7]
    | dsimp only
    | split

theorem kept_execStepFormRoster (court : Nat) (lc : Bool) (s : State) (t : State) (h : execStepFormRoster court lc s = .next t) : t.kept = s.kept := by
  unfold execStepFormRoster at h
  obtain rfl := Host.Outcome.next.inj h
  clear h
  repeat' first
    | with_reducible rfl
    | with_reducible refine kept_ite ?_ ?_
    | simp only [↓kept_mark, ↓kept_formFor, ↓State.kept_mk, ↓State.nf1, ↓State.nf2, ↓State.nf3, ↓State.nf4, ↓State.nf5, ↓State.nf6, ↓State.nf7]
    | dsimp only
    | split

theorem kept_execFixedStepForm (ctx : Nat) (s : State) (t : State) (h : execFixedStepForm ctx s = .next t) : t.kept = s.kept := by
  unfold execFixedStepForm at h
  obtain rfl := Host.Outcome.next.inj h
  clear h
  repeat' first
    | with_reducible rfl
    | with_reducible refine kept_ite ?_ ?_
    | with_reducible refine kept_getD (fun _ _ => ?_) ?_
    | with_reducible exact kept_formStep (by assumption)
    | with_reducible refine (kept_formStep (by assumption)).trans ?_
    | simp only [↓kept_answer, ↓kept_setCtx, ↓kept_mark, ↓kept_disengage, ↓State.kept_mk, ↓State.nf1, ↓State.nf2, ↓State.nf3, ↓State.nf4, ↓State.nf5, ↓State.nf6, ↓State.nf7]
    | dsimp only
    | split

theorem kept_execRunDispatch (core : Nat) (s : State) (t : State) (h : execRunDispatch core s = .next t) : t.kept = s.kept := by
  unfold execRunDispatch at h
  obtain rfl := Host.Outcome.next.inj h
  clear h
  repeat' first
    | with_reducible rfl
    | with_reducible refine kept_ite ?_ ?_
    | simp only [↓kept_failStep, ↓kept_startRun, ↓State.kept_mk, ↓State.nf1, ↓State.nf2, ↓State.nf3, ↓State.nf4, ↓State.nf5, ↓State.nf6, ↓State.nf7]
    | dsimp only
    | split

theorem kept_execPageDescriptorIssue (core : Nat) (s : State) (t : State) (h : execPageDescriptorIssue core s = .next t) : t.kept = s.kept := by
  unfold execPageDescriptorIssue at h
  obtain rfl := Host.Outcome.next.inj h
  clear h
  repeat' first
    | with_reducible rfl
    | with_reducible refine kept_ite ?_ ?_
    | simp only [↓kept_modClu, ↓kept_modCore, ↓kept_stagePage, ↓State.kept_mk, ↓State.nf1, ↓State.nf2, ↓State.nf3, ↓State.nf4, ↓State.nf5, ↓State.nf6, ↓State.nf7]
    | dsimp only
    | split

theorem kept_execKernelComplete (core : Nat) (s : State) (t : State) (h : execKernelComplete core s = .next t) : t.kept = s.kept := by
  unfold execKernelComplete at h
  obtain rfl := Host.Outcome.next.inj h
  clear h
  repeat' first
    | with_reducible rfl
    | with_reducible refine kept_ite ?_ ?_
    | simp only [↓kept_modClu, ↓kept_startHeld, ↓kept_mark, ↓kept_chargeWork, ↓kept_finishRun, ↓kept_settleCore, ↓State.kept_mk, ↓State.nf1, ↓State.nf2, ↓State.nf3, ↓State.nf4, ↓State.nf5, ↓State.nf6, ↓State.nf7]
    | dsimp only
    | split

theorem kept_execCoachHaloDelivery (core : Nat) (s : State) (t : State) (h : execCoachHaloDelivery core s = .next t) : t.kept = s.kept := by
  unfold execCoachHaloDelivery at h
  obtain rfl := Host.Outcome.next.inj h
  clear h
  repeat' first
    | with_reducible rfl
    | with_reducible refine kept_ite ?_ ?_
    | with_reducible exact kept_haloPost (by assumption)
    | with_reducible refine (kept_haloPost (by assumption)).trans ?_
    | simp only [↓kept_modClu, ↓State.kept_mk, ↓State.nf1, ↓State.nf2, ↓State.nf3, ↓State.nf4, ↓State.nf5, ↓State.nf6, ↓State.nf7]
    | dsimp only
    | split

theorem kept_execHuddleGather (court ctx step : Nat) (s : State) (t : State) (h : execHuddleGather court ctx step s = .next t) : t.kept = s.kept := by
  unfold execHuddleGather at h
  obtain rfl := Host.Outcome.next.inj h
  clear h
  repeat' first
    | with_reducible rfl
    | with_reducible refine kept_ite ?_ ?_
    | simp only [↓kept_anyRead, ↓kept_mark, ↓kept_putStep, ↓kept_failStep, ↓kept_advance, ↓State.kept_mk, ↓State.nf1, ↓State.nf2, ↓State.nf3, ↓State.nf4, ↓State.nf5, ↓State.nf6, ↓State.nf7]
    | dsimp only
    | split

theorem kept_execMergeDispatch (court ctx step : Nat) (s : State) (t : State) (h : execMergeDispatch court ctx step s = .next t) : t.kept = s.kept := by
  unfold execMergeDispatch at h
  obtain rfl := Host.Outcome.next.inj h
  clear h
  repeat' first
    | with_reducible rfl
    | with_reducible refine kept_ite ?_ ?_
    | simp only [↓kept_putStep, ↓kept_failStep, ↓kept_sendRecords, ↓kept_mergeNow, ↓State.kept_mk, ↓State.nf1, ↓State.nf2, ↓State.nf3, ↓State.nf4, ↓State.nf5, ↓State.nf6, ↓State.nf7]
    | dsimp only
    | split

theorem kept_execStepComplete (court ctx step : Nat) (s : State) (t : State) (h : execStepComplete court ctx step s = .next t) : t.kept = s.kept := by
  unfold execStepComplete at h
  obtain rfl := Host.Outcome.next.inj h
  clear h
  repeat' first
    | with_reducible rfl
    | with_reducible refine kept_ite ?_ ?_
    | with_reducible refine (kept_foldl (fun _ _ => ?_) _ _).trans ?_
    | with_reducible refine (kept_foldp (fun _ _ => ?_) _ _).trans ?_
    | with_reducible refine kept_getD (fun _ _ => ?_) ?_
    | simp only [↓kept_answer, ↓kept_mark, ↓kept_disengage, ↓kept_endEntry, ↓kept_endCounts, ↓State.kept_mk, ↓State.nf1, ↓State.nf2, ↓State.nf3, ↓State.nf4, ↓State.nf5, ↓State.nf6, ↓State.nf7]
    | dsimp only
    | split

theorem kept_execLedgerFold (s : State) (t : State) (h : execLedgerFold s = .next t) : t.kept = s.kept := by
  unfold execLedgerFold at h
  obtain rfl := Host.Outcome.next.inj h
  clear h
  repeat' first
    | with_reducible rfl
    | with_reducible refine kept_ite ?_ ?_
    | with_reducible refine (kept_foldl (fun _ _ => ?_) _ _).trans ?_
    | with_reducible refine (kept_foldp (fun _ _ => ?_) _ _).trans ?_
    | simp only [↓kept_foldLedger, ↓State.kept_mk, ↓State.nf1, ↓State.nf2, ↓State.nf3, ↓State.nf4, ↓State.nf5, ↓State.nf6, ↓State.nf7]
    | dsimp only
    | split

theorem kept_execMsgLedgerRead (mbx : Nat) (s : State) (t : State) (h : execMsgLedgerRead mbx s = .next t) : t.kept = s.kept := by
  unfold execMsgLedgerRead at h
  obtain rfl := Host.Outcome.next.inj h
  clear h
  repeat' first
    | with_reducible rfl
    | with_reducible refine kept_ite ?_ ?_
    | with_reducible refine kept_serve (fun _ _ => ?_) _
    | with_reducible refine (kept_foldl (fun _ _ => ?_) _ _).trans ?_
    | with_reducible refine (kept_foldp (fun _ _ => ?_) _ _).trans ?_
    | simp only [↓kept_answer, ↓kept_refuse, ↓kept_objWrite, ↓kept_foldLedger, ↓State.kept_mk, ↓State.nf1, ↓State.nf2, ↓State.nf3, ↓State.nf4, ↓State.nf5, ↓State.nf6, ↓State.nf7]
    | dsimp only
    | split

theorem kept_execSeqEndEffect (seq : Nat) (s : State) (t : State) (h : execSeqEndEffect seq s = .next t) : t.kept = s.kept := by
  unfold execSeqEndEffect at h
  obtain rfl := Host.Outcome.next.inj h
  clear h
  repeat' first
    | with_reducible rfl
    | with_reducible refine kept_ite ?_ ?_
    | simp only [↓kept_answer, ↓kept_mark, ↓kept_endSeq, ↓kept_popWait, ↓State.kept_mk, ↓State.nf1, ↓State.nf2, ↓State.nf3, ↓State.nf4, ↓State.nf5, ↓State.nf6, ↓State.nf7]
    | dsimp only
    | split

theorem kept_execMsgStateQuery (mbx : Nat) (s : State) (t : State) (h : execMsgStateQuery mbx s = .next t) : t.kept = s.kept := by
  unfold execMsgStateQuery at h
  obtain rfl := Host.Outcome.next.inj h
  clear h
  repeat' first
    | with_reducible rfl
    | with_reducible refine kept_ite ?_ ?_
    | with_reducible refine kept_serve (fun _ _ => ?_) _
    | simp only [↓kept_answer, ↓kept_refuse, ↓State.kept_mk, ↓State.nf1, ↓State.nf2, ↓State.nf3, ↓State.nf4, ↓State.nf5, ↓State.nf6, ↓State.nf7]
    | dsimp only
    | split

theorem kept_execMsgStateExport (mbx : Nat) (s : State) (t : State) (h : execMsgStateExport mbx s = .next t) : t.kept = s.kept := by
  unfold execMsgStateExport at h
  obtain rfl := Host.Outcome.next.inj h
  clear h
  repeat' first
    | with_reducible rfl
    | with_reducible refine kept_ite ?_ ?_
    | with_reducible refine kept_serve (fun _ _ => ?_) _
    | simp only [↓kept_refuse, ↓kept_setSeq, ↓State.kept_mk, ↓State.nf1, ↓State.nf2, ↓State.nf3, ↓State.nf4, ↓State.nf5, ↓State.nf6, ↓State.nf7]
    | dsimp only
    | split

theorem kept_execStateExportEffect (seq : Nat) (s : State) (t : State) (h : execStateExportEffect seq s = .next t) : t.kept = s.kept := by
  unfold execStateExportEffect at h
  obtain rfl := Host.Outcome.next.inj h
  clear h
  repeat' first
    | with_reducible rfl
    | with_reducible refine kept_ite ?_ ?_
    | simp only [↓kept_refuse, ↓kept_setSeq, ↓kept_mark, ↓kept_popWait, ↓State.kept_mk, ↓State.nf1, ↓State.nf2, ↓State.nf3, ↓State.nf4, ↓State.nf5, ↓State.nf6, ↓State.nf7]
    | dsimp only
    | split

theorem kept_execStateExportComplete (seq : Nat) (s : State) (t : State) (h : execStateExportComplete seq s = .next t) : t.kept = s.kept := by
  unfold execStateExportComplete at h
  obtain rfl := Host.Outcome.next.inj h
  clear h
  repeat' first
    | with_reducible rfl
    | with_reducible refine kept_ite ?_ ?_
    | simp only [↓kept_answer, ↓kept_refuse, ↓kept_objWrite, ↓kept_chargeBytes, ↓kept_modSeq, ↓kept_mark, ↓kept_streamTilesOf, ↓kept_dropStream, ↓kept_endSeq, ↓State.kept_mk, ↓State.nf1, ↓State.nf2, ↓State.nf3, ↓State.nf4, ↓State.nf5, ↓State.nf6, ↓State.nf7]
    | dsimp only
    | split

theorem kept_execMsgStateImport (mbx : Nat) (s : State) (t : State) (h : execMsgStateImport mbx s = .next t) : t.kept = s.kept := by
  unfold execMsgStateImport at h
  obtain rfl := Host.Outcome.next.inj h
  clear h
  repeat' first
    | with_reducible rfl
    | with_reducible refine kept_ite ?_ ?_
    | with_reducible refine kept_serve (fun _ _ => ?_) _
    | simp only [↓kept_refuse, ↓kept_setSeq, ↓kept_importCheck, ↓State.kept_mk, ↓State.nf1, ↓State.nf2, ↓State.nf3, ↓State.nf4, ↓State.nf5, ↓State.nf6, ↓State.nf7]
    | dsimp only
    | split

theorem kept_execStateImportComplete (seq : Nat) (s : State) (t : State) (h : execStateImportComplete seq s = .next t) : t.kept = s.kept := by
  unfold execStateImportComplete at h
  obtain rfl := Host.Outcome.next.inj h
  clear h
  repeat' first
    | with_reducible rfl
    | with_reducible refine kept_ite ?_ ?_
    | simp only [↓kept_answer, ↓kept_refuse, ↓kept_chargeBytes, ↓kept_modSeq, ↓kept_mark, ↓kept_installStream, ↓kept_importCheck, ↓State.kept_mk, ↓State.nf1, ↓State.nf2, ↓State.nf3, ↓State.nf4, ↓State.nf5, ↓State.nf6, ↓State.nf7]
    | dsimp only
    | split

theorem kept_execMsgStateClear (mbx : Nat) (s : State) (t : State) (h : execMsgStateClear mbx s = .next t) : t.kept = s.kept := by
  unfold execMsgStateClear at h
  obtain rfl := Host.Outcome.next.inj h
  clear h
  repeat' first
    | with_reducible rfl
    | with_reducible refine kept_ite ?_ ?_
    | with_reducible refine kept_serve (fun _ _ => ?_) _
    | simp only [↓kept_answer, ↓kept_refuse, ↓kept_mark, ↓kept_installStream, ↓State.kept_mk, ↓State.nf1, ↓State.nf2, ↓State.nf3, ↓State.nf4, ↓State.nf5, ↓State.nf6, ↓State.nf7]
    | dsimp only
    | split

theorem kept_execSlotMove (seq slot : Nat) (s : State) (t : State) (h : execSlotMove seq slot s = .next t) : t.kept = s.kept := by
  unfold execSlotMove at h
  obtain rfl := Host.Outcome.next.inj h
  clear h
  repeat' first
    | with_reducible rfl
    | with_reducible refine kept_ite ?_ ?_
    | simp only [↓kept_writeTiles, ↓kept_setSeq, ↓State.kept_mk, ↓State.nf1, ↓State.nf2, ↓State.nf3, ↓State.nf4, ↓State.nf5, ↓State.nf6, ↓State.nf7]
    | dsimp only
    | split

theorem kept_execStreamPark (seq : Nat) (s : State) (t : State) (h : execStreamPark seq s = .next t) : t.kept = s.kept := by
  unfold execStreamPark at h
  obtain rfl := Host.Outcome.next.inj h
  clear h
  repeat' first
    | with_reducible rfl
    | with_reducible refine kept_ite ?_ ?_
    | with_reducible exact kept_benchSeq (by assumption)
    | with_reducible refine (kept_benchSeq (by assumption)).trans ?_
    | with_reducible exact kept_caveSeq (by assumption)
    | with_reducible refine (kept_caveSeq (by assumption)).trans ?_
    | simp only [↓kept_mark, ↓State.kept_mk, ↓State.nf1, ↓State.nf2, ↓State.nf3, ↓State.nf4, ↓State.nf5, ↓State.nf6, ↓State.nf7]
    | dsimp only
    | split

theorem kept_execStreamRotateImport (court : Nat) (s : State) (t : State) (h : execStreamRotateImport court s = .next t) : t.kept = s.kept := by
  unfold execStreamRotateImport at h
  obtain rfl := Host.Outcome.next.inj h
  clear h
  repeat' first
    | with_reducible rfl
    | with_reducible refine kept_ite ?_ ?_
    | with_reducible refine (kept_foldl (fun _ _ => ?_) _ _).trans ?_
    | with_reducible refine (kept_foldp (fun _ _ => ?_) _ _).trans ?_
    | simp only [↓kept_mark, ↓kept_installStream, ↓kept_importTiles, ↓State.kept_mk, ↓State.nf1, ↓State.nf2, ↓State.nf3, ↓State.nf4, ↓State.nf5, ↓State.nf6, ↓State.nf7]
    | dsimp only
    | split

theorem kept_execMsgSeqAdmit (mbx : Nat) (s : State) (t : State) (h : execMsgSeqAdmit mbx s = .next t) : t.kept = s.kept := by
  unfold execMsgSeqAdmit at h
  obtain rfl := Host.Outcome.next.inj h
  clear h
  repeat' first
    | with_reducible rfl
    | with_reducible refine kept_ite ?_ ?_
    | with_reducible refine kept_serve (fun _ _ => ?_) _
    | simp only [↓kept_answer, ↓kept_refuse, ↓kept_chargeQuota, ↓kept_setSeq, ↓kept_makeList, ↓kept_mark, ↓kept_engage, ↓kept_addTokens, ↓kept_assignFuture, ↓kept_createStream, ↓kept_granted, ↓State.kept_mk, ↓State.nf1, ↓State.nf2, ↓State.nf3, ↓State.nf4, ↓State.nf5, ↓State.nf6, ↓State.nf7]
    | dsimp only
    | split

theorem kept_execMsgSeqEnd (mbx : Nat) (s : State) (t : State) (h : execMsgSeqEnd mbx s = .next t) : t.kept = s.kept := by
  unfold execMsgSeqEnd at h
  obtain rfl := Host.Outcome.next.inj h
  clear h
  repeat' first
    | with_reducible rfl
    | with_reducible refine kept_ite ?_ ?_
    | with_reducible refine kept_serve (fun _ _ => ?_) _
    | simp only [↓kept_refuse, ↓kept_setSeq, ↓kept_mark, ↓State.kept_mk, ↓State.nf1, ↓State.nf2, ↓State.nf3, ↓State.nf4, ↓State.nf5, ↓State.nf6, ↓State.nf7]
    | dsimp only
    | split

theorem kept_execMsgSeqRepin (mbx : Nat) (s : State) (t : State) (h : execMsgSeqRepin mbx s = .next t) : t.kept = s.kept := by
  unfold execMsgSeqRepin at h
  obtain rfl := Host.Outcome.next.inj h
  clear h
  repeat' first
    | with_reducible rfl
    | with_reducible refine kept_ite ?_ ?_
    | with_reducible refine kept_serve (fun _ _ => ?_) _
    | simp only [↓kept_refuse, ↓kept_setSeq, ↓kept_mark, ↓State.kept_mk, ↓State.nf1, ↓State.nf2, ↓State.nf3, ↓State.nf4, ↓State.nf5, ↓State.nf6, ↓State.nf7]
    | dsimp only
    | split

theorem kept_execRepinEffect (seq : Nat) (s : State) (t : State) (h : execRepinEffect seq s = .next t) : t.kept = s.kept := by
  unfold execRepinEffect at h
  obtain rfl := Host.Outcome.next.inj h
  clear h
  repeat' first
    | with_reducible rfl
    | with_reducible refine kept_ite ?_ ?_
    | simp only [↓kept_answer, ↓kept_refuse, ↓kept_pinsFell, ↓kept_setSeq, ↓kept_mark, ↓State.kept_mk, ↓State.nf1, ↓State.nf2, ↓State.nf3, ↓State.nf4, ↓State.nf5, ↓State.nf6, ↓State.nf7]
    | dsimp only
    | split

theorem kept_execMsgBatchSubmit (mbx : Nat) (s : State) (t : State) (h : execMsgBatchSubmit mbx s = .next t) : t.kept = s.kept := by
  unfold execMsgBatchSubmit at h
  obtain rfl := Host.Outcome.next.inj h
  clear h
  repeat' first
    | with_reducible rfl
    | with_reducible refine kept_ite ?_ ?_
    | with_reducible refine kept_serve (fun _ _ => ?_) _
    | simp only [↓kept_objRead, ↓kept_setCtx, ↓kept_mark, ↓kept_engage, ↓kept_answerBatch, ↓State.kept_mk, ↓State.nf1, ↓State.nf2, ↓State.nf3, ↓State.nf4, ↓State.nf5, ↓State.nf6, ↓State.nf7]
    | dsimp only
    | split

theorem kept_execMsgCtxQuery (mbx : Nat) (s : State) (t : State) (h : execMsgCtxQuery mbx s = .next t) : t.kept = s.kept := by
  unfold execMsgCtxQuery at h
  obtain rfl := Host.Outcome.next.inj h
  clear h
  repeat' first
    | with_reducible rfl
    | with_reducible refine kept_ite ?_ ?_
    | with_reducible refine kept_serve (fun _ _ => ?_) _
    | simp only [↓kept_answer, ↓kept_refuse, ↓State.kept_mk, ↓State.nf1, ↓State.nf2, ↓State.nf3, ↓State.nf4, ↓State.nf5, ↓State.nf6, ↓State.nf7]
    | dsimp only
    | split

theorem kept_execMsgRostGrant (mbx : Nat) (s : State) (t : State) (h : execMsgRostGrant mbx s = .next t) : t.kept = s.kept := by
  unfold execMsgRostGrant at h
  obtain rfl := Host.Outcome.next.inj h
  clear h
  repeat' first
    | with_reducible rfl
    | with_reducible refine kept_ite ?_ ?_
    | with_reducible refine kept_serve (fun _ _ => ?_) _
    | simp only [↓kept_answer, ↓kept_refuse, ↓kept_mark, ↓kept_addTokens, ↓kept_granted, ↓State.kept_mk, ↓State.nf1, ↓State.nf2, ↓State.nf3, ↓State.nf4, ↓State.nf5, ↓State.nf6, ↓State.nf7]
    | dsimp only
    | split

theorem kept_execMsgRostSet (mbx : Nat) (s : State) (t : State) (h : execMsgRostSet mbx s = .next t) : t.kept = s.kept := by
  unfold execMsgRostSet at h
  obtain rfl := Host.Outcome.next.inj h
  clear h
  repeat' first
    | with_reducible rfl
    | with_reducible refine kept_ite ?_ ?_
    | with_reducible refine kept_serve (fun _ _ => ?_) _
    | simp only [↓kept_answer, ↓kept_refuse, ↓kept_setSeq, ↓kept_mark, ↓State.kept_mk, ↓State.nf1, ↓State.nf2, ↓State.nf3, ↓State.nf4, ↓State.nf5, ↓State.nf6, ↓State.nf7]
    | dsimp only
    | split

theorem kept_execMsgRostQuery (mbx : Nat) (s : State) (t : State) (h : execMsgRostQuery mbx s = .next t) : t.kept = s.kept := by
  unfold execMsgRostQuery at h
  obtain rfl := Host.Outcome.next.inj h
  clear h
  repeat' first
    | with_reducible rfl
    | with_reducible refine kept_ite ?_ ?_
    | with_reducible refine kept_serve (fun _ _ => ?_) _
    | simp only [↓kept_answer, ↓kept_refuse, ↓State.kept_mk, ↓State.nf1, ↓State.nf2, ↓State.nf3, ↓State.nf4, ↓State.nf5, ↓State.nf6, ↓State.nf7]
    | dsimp only
    | split

theorem kept_execMsgFutureBranch (mbx : Nat) (s : State) (t : State) (h : execMsgFutureBranch mbx s = .next t) : t.kept = s.kept := by
  unfold execMsgFutureBranch at h
  obtain rfl := Host.Outcome.next.inj h
  clear h
  repeat' first
    | with_reducible rfl
    | with_reducible refine kept_ite ?_ ?_
    | with_reducible refine kept_serve (fun _ _ => ?_) _
    | with_reducible refine (kept_foldl (fun _ _ => ?_) _ _).trans ?_
    | with_reducible refine (kept_foldp (fun _ _ => ?_) _ _).trans ?_
    | simp only [↓kept_refuse, ↓kept_modSeq, ↓kept_makeList, ↓kept_mark, ↓kept_holdChildren, ↓State.kept_mk, ↓State.nf1, ↓State.nf2, ↓State.nf3, ↓State.nf4, ↓State.nf5, ↓State.nf6, ↓State.nf7]
    | dsimp only
    | split

theorem kept_execBranchEffect (seq : Nat) (s : State) (t : State) (h : execBranchEffect seq s = .next t) : t.kept = s.kept := by
  unfold execBranchEffect at h
  obtain rfl := Host.Outcome.next.inj h
  clear h
  split
  · rfl
  · rename_i q _
    split
    · rename_i r sealFlag dest is _ b _ _
      have no : ∀ (u : State) (c : Code), u.kept = s.kept →
          (((((u.popWait seq).dropChildren is).settleBranches seq).refuse r c 14).mark).kept = s.kept := fun u c hu =>
        (kept_mark ..).trans ((kept_refuse ..).trans ((kept_settleBranches ..).trans ((kept_dropChildren ..).trans ((kept_popWait ..).trans hu))))
      have tiles : ((if q.hasStream = true then s.streamTilesOf q b else (s, 0, []) : State × Code × List Byte)).1.kept = s.kept :=
        kept_ite1 (kept_streamTilesOf ..) rfl
      refine kept_ite rfl (kept_ite (no _ _ rfl) (kept_ite (no _ _ rfl) (kept_ite (no _ _ tiles) ?_)))
      refine kept_ite (no _ _ ((kept_objWrite ..).trans tiles)) ?_
      split
      · exact no _ _ ((kept_objWrite ..).trans tiles)
      · rename_i m hm
        have hm' : m.1.kept = s.kept := by
          split at hm
          · exact (kept_branchImage hm).trans ((kept_objWrite ..).trans (kept_streamTilesOf ..))
          · cases hm; exact kept_objWrite ..
        exact (kept_bearAll ..).trans (kept_ite ((kept_sealAll ..).trans hm') hm')
    · rfl

theorem kept_execMsgFutureSeal (mbx : Nat) (s : State) (t : State) (h : execMsgFutureSeal mbx s = .next t) : t.kept = s.kept := by
  unfold execMsgFutureSeal at h
  obtain rfl := Host.Outcome.next.inj h
  clear h
  repeat' first
    | with_reducible rfl
    | with_reducible refine kept_ite ?_ ?_
    | with_reducible refine kept_serve (fun _ _ => ?_) _
    | simp only [↓kept_refuse, ↓kept_setSeq, ↓kept_mark, ↓State.kept_mk, ↓State.nf1, ↓State.nf2, ↓State.nf3, ↓State.nf4, ↓State.nf5, ↓State.nf6, ↓State.nf7]
    | dsimp only
    | split

theorem kept_execSealEffect (seq : Nat) (s : State) (t : State) (h : execSealEffect seq s = .next t) : t.kept = s.kept := by
  unfold execSealEffect at h
  obtain rfl := Host.Outcome.next.inj h
  clear h
  repeat' first
    | with_reducible rfl
    | with_reducible refine kept_ite ?_ ?_
    | simp only [↓kept_answer, ↓kept_sealAll, ↓kept_mark, ↓kept_popWait, ↓State.kept_mk, ↓State.nf1, ↓State.nf2, ↓State.nf3, ↓State.nf4, ↓State.nf5, ↓State.nf6, ↓State.nf7]
    | dsimp only
    | split

theorem kept_execMsgFuturePrune (mbx : Nat) (s : State) (t : State) (h : execMsgFuturePrune mbx s = .next t) : t.kept = s.kept := by
  unfold execMsgFuturePrune at h
  obtain rfl := Host.Outcome.next.inj h
  clear h
  repeat' first
    | with_reducible rfl
    | with_reducible refine kept_ite ?_ ?_
    | with_reducible refine kept_serve (fun _ _ => ?_) _
    | with_reducible refine (kept_foldl (fun _ _ => ?_) _ _).trans ?_
    | with_reducible refine (kept_foldp (fun _ _ => ?_) _ _).trans ?_
    | simp only [↓kept_refuse, ↓kept_mark, ↓kept_orderPrune, ↓kept_openPrunes, ↓State.kept_mk, ↓State.nf1, ↓State.nf2, ↓State.nf3, ↓State.nf4, ↓State.nf5, ↓State.nf6, ↓State.nf7]
    | dsimp only
    | split

theorem kept_execPruneEffect (seq : Nat) (s : State) (t : State) (h : execPruneEffect seq s = .next t) : t.kept = s.kept := by
  unfold execPruneEffect at h
  obtain rfl := Host.Outcome.next.inj h
  clear h
  repeat' first
    | with_reducible rfl
    | with_reducible refine kept_ite ?_ ?_
    | with_reducible refine (kept_foldl (fun _ _ => ?_) _ _).trans ?_
    | with_reducible refine (kept_foldp (fun _ _ => ?_) _ _).trans ?_
    | simp only [↓kept_mark, ↓kept_pruneDone, ↓kept_endSeq, ↓kept_popWait, ↓kept_orderPrune, ↓State.kept_mk, ↓State.nf1, ↓State.nf2, ↓State.nf3, ↓State.nf4, ↓State.nf5, ↓State.nf6, ↓State.nf7]
    | dsimp only
    | split

theorem kept_execMsgFutureScore (mbx : Nat) (s : State) (t : State) (h : execMsgFutureScore mbx s = .next t) : t.kept = s.kept := by
  unfold execMsgFutureScore at h
  obtain rfl := Host.Outcome.next.inj h
  clear h
  repeat' first
    | with_reducible rfl
    | with_reducible refine kept_ite ?_ ?_
    | with_reducible refine kept_serve (fun _ _ => ?_) _
    | with_reducible refine (kept_foldl (fun _ _ => ?_) _ _).trans ?_
    | with_reducible refine (kept_foldp (fun _ _ => ?_) _ _).trans ?_
    | simp only [↓kept_answer, ↓kept_refuse, ↓kept_objWrite, ↓kept_mark, ↓kept_orderPrune, ↓kept_openPrunes, ↓State.kept_mk, ↓State.nf1, ↓State.nf2, ↓State.nf3, ↓State.nf4, ↓State.nf5, ↓State.nf6, ↓State.nf7]
    | dsimp only
    | split

theorem kept_execMsgFutureQuery (mbx : Nat) (s : State) (t : State) (h : execMsgFutureQuery mbx s = .next t) : t.kept = s.kept := by
  unfold execMsgFutureQuery at h
  obtain rfl := Host.Outcome.next.inj h
  clear h
  repeat' first
    | with_reducible rfl
    | with_reducible refine kept_ite ?_ ?_
    | with_reducible refine kept_serve (fun _ _ => ?_) _
    | simp only [↓kept_answer, ↓kept_refuse, ↓State.kept_mk, ↓State.nf1, ↓State.nf2, ↓State.nf3, ↓State.nf4, ↓State.nf5, ↓State.nf6, ↓State.nf7]
    | dsimp only
    | split

theorem kept_execContextBench (ctx : Nat) (s : State) (t : State) (h : execContextBench ctx s = .next t) : t.kept = s.kept := by
  unfold execContextBench at h
  obtain rfl := Host.Outcome.next.inj h
  clear h
  repeat' first
    | with_reducible rfl
    | with_reducible refine kept_ite ?_ ?_
    | with_reducible exact kept_benchAll (by assumption)
    | with_reducible refine (kept_benchAll (by assumption)).trans ?_
    | simp only [↓kept_leaveSlot, ↓State.kept_mk, ↓State.nf1, ↓State.nf2, ↓State.nf3, ↓State.nf4, ↓State.nf5, ↓State.nf6, ↓State.nf7]
    | dsimp only
    | split

theorem kept_execContextCave (ctx : Nat) (s : State) (t : State) (h : execContextCave ctx s = .next t) : t.kept = s.kept := by
  unfold execContextCave at h
  obtain rfl := Host.Outcome.next.inj h
  clear h
  repeat' first
    | with_reducible rfl
    | with_reducible refine kept_ite ?_ ?_
    | with_reducible exact kept_benchAll (by assumption)
    | with_reducible refine (kept_benchAll (by assumption)).trans ?_
    | with_reducible exact kept_caveAll (by assumption)
    | with_reducible refine (kept_caveAll (by assumption)).trans ?_
    | simp only [↓kept_leaveSlot, ↓State.kept_mk, ↓State.nf1, ↓State.nf2, ↓State.nf3, ↓State.nf4, ↓State.nf5, ↓State.nf6, ↓State.nf7]
    | dsimp only
    | split

theorem kept_execContextAdmitSlot (s : State) (t : State) (h : execContextAdmitSlot s = .next t) : t.kept = s.kept := by
  unfold execContextAdmitSlot at h
  obtain rfl := Host.Outcome.next.inj h
  clear h
  repeat' first
    | with_reducible rfl
    | with_reducible refine kept_ite ?_ ?_
    | simp only [↓kept_setCtx, ↓kept_mark, ↓State.kept_mk, ↓State.nf1, ↓State.nf2, ↓State.nf3, ↓State.nf4, ↓State.nf5, ↓State.nf6, ↓State.nf7]
    | dsimp only
    | split

theorem kept_execContextReturn (ctx : Nat) (s : State) (t : State) (h : execContextReturn ctx s = .next t) : t.kept = s.kept := by
  unfold execContextReturn at h
  obtain rfl := Host.Outcome.next.inj h
  clear h
  repeat' first
    | with_reducible rfl
    | with_reducible refine kept_ite ?_ ?_
    | with_reducible refine (kept_foldl (fun _ _ => ?_) _ _).trans ?_
    | with_reducible refine (kept_foldp (fun _ _ => ?_) _ _).trans ?_
    | simp only [↓kept_setCtx, ↓kept_mark, ↓kept_returnBlock, ↓State.kept_mk, ↓State.nf1, ↓State.nf2, ↓State.nf3, ↓State.nf4, ↓State.nf5, ↓State.nf6, ↓State.nf7]
    | dsimp only
    | split

theorem kept_execFaultRecordTakeIn (unit : Nat) (s : State) (t : State) (h : execFaultRecordTakeIn unit s = .next t) : t.kept = s.kept := by
  unfold execFaultRecordTakeIn at h
  obtain rfl := Host.Outcome.next.inj h
  clear h
  repeat' first
    | with_reducible rfl
    | with_reducible refine kept_ite ?_ ?_
    | with_reducible refine kept_getD (fun _ _ => ?_) ?_
    | with_reducible exact kept_takeUnit (by assumption)
    | with_reducible refine (kept_takeUnit (by assumption)).trans ?_
    | simp only [↓State.kept_mk, ↓State.nf1, ↓State.nf2, ↓State.nf3, ↓State.nf4, ↓State.nf5, ↓State.nf6, ↓State.nf7]
    | dsimp only
    | split

theorem kept_execFaultRecordAck (unit : Nat) (s : State) (t : State) (h : execFaultRecordAck unit s = .next t) : t.kept = s.kept := by
  unfold execFaultRecordAck at h
  obtain rfl := Host.Outcome.next.inj h
  clear h
  repeat' first
    | with_reducible rfl
    | with_reducible refine kept_ite ?_ ?_
    | simp only [↓kept_setUnit, ↓State.kept_mk, ↓State.nf1, ↓State.nf2, ↓State.nf3, ↓State.nf4, ↓State.nf5, ↓State.nf6, ↓State.nf7]
    | dsimp only
    | split

theorem kept_execAuditPass (audit : Nat) (late : Bool) (s : State) (t : State) (h : execAuditPass audit late s = .next t) : t.kept = s.kept := by
  unfold execAuditPass at h
  obtain rfl := Host.Outcome.next.inj h
  clear h
  repeat' first
    | with_reducible rfl
    | with_reducible refine kept_ite ?_ ?_
    | with_reducible refine (kept_foldl (fun _ _ => ?_) _ _).trans ?_
    | with_reducible refine (kept_foldp (fun _ _ => ?_) _ _).trans ?_
    | simp only [↓kept_raise, ↓kept_setAud, ↓State.kept_mk, ↓State.nf1, ↓State.nf2, ↓State.nf3, ↓State.nf4, ↓State.nf5, ↓State.nf6, ↓State.nf7]
    | dsimp only
    | split

theorem kept_execMsgFaultRead (mbx : Nat) (s : State) (t : State) (h : execMsgFaultRead mbx s = .next t) : t.kept = s.kept := by
  unfold execMsgFaultRead at h
  obtain rfl := Host.Outcome.next.inj h
  clear h
  repeat' first
    | with_reducible rfl
    | with_reducible refine kept_ite ?_ ?_
    | with_reducible refine kept_serve (fun _ _ => ?_) _
    | simp only [↓kept_answer, ↓kept_refuse, ↓kept_objWrite, ↓State.kept_mk, ↓State.nf1, ↓State.nf2, ↓State.nf3, ↓State.nf4, ↓State.nf5, ↓State.nf6, ↓State.nf7]
    | dsimp only
    | split

theorem kept_execMsgAuditQuery (mbx : Nat) (s : State) (t : State) (h : execMsgAuditQuery mbx s = .next t) : t.kept = s.kept := by
  unfold execMsgAuditQuery at h
  obtain rfl := Host.Outcome.next.inj h
  clear h
  repeat' first
    | with_reducible rfl
    | with_reducible refine kept_ite ?_ ?_
    | with_reducible refine kept_serve (fun _ _ => ?_) _
    | simp only [↓kept_answer, ↓kept_refuse, ↓State.kept_mk, ↓State.nf1, ↓State.nf2, ↓State.nf3, ↓State.nf4, ↓State.nf5, ↓State.nf6, ↓State.nf7]
    | dsimp only
    | split

theorem kept_execMsgConfigWrite (mbx : Nat) (s : State) (t : State) (h : execMsgConfigWrite mbx s = .next t) : t.kept = s.kept := by
  unfold execMsgConfigWrite at h
  obtain rfl := Host.Outcome.next.inj h
  clear h
  repeat' first
    | with_reducible rfl
    | with_reducible refine kept_ite ?_ ?_
    | with_reducible refine kept_serve (fun _ _ => ?_) _
    | simp only [↓kept_answer, ↓kept_objRead, ↓kept_setSlot, ↓State.kept_mk, ↓State.nf1, ↓State.nf2, ↓State.nf3, ↓State.nf4, ↓State.nf5, ↓State.nf6, ↓State.nf7]
    | dsimp only
    | split

theorem kept_execMsgConfigCommit (mbx : Nat) (s : State) (t : State) (h : execMsgConfigCommit mbx s = .next t) : t.kept = s.kept := by
  unfold execMsgConfigCommit at h
  obtain rfl := Host.Outcome.next.inj h
  clear h
  repeat' first
    | with_reducible rfl
    | with_reducible refine kept_ite ?_ ?_
    | with_reducible refine kept_serve (fun _ _ => ?_) _
    | simp only [↓kept_answerCommit, ↓kept_commit, ↓State.kept_mk, ↓State.nf1, ↓State.nf2, ↓State.nf3, ↓State.nf4, ↓State.nf5, ↓State.nf6, ↓State.nf7]
    | dsimp only
    | split

theorem kept_execMsgConfigConfirm (mbx : Nat) (s : State) (t : State) (h : execMsgConfigConfirm mbx s = .next t) : t.kept = s.kept := by
  unfold execMsgConfigConfirm at h
  obtain rfl := Host.Outcome.next.inj h
  clear h
  repeat' first
    | with_reducible rfl
    | with_reducible refine kept_ite ?_ ?_
    | with_reducible refine kept_serve (fun _ _ => ?_) _
    | simp only [↓kept_refuse, ↓kept_finalTrial, ↓State.kept_mk, ↓State.nf1, ↓State.nf2, ↓State.nf3, ↓State.nf4, ↓State.nf5, ↓State.nf6, ↓State.nf7]
    | dsimp only
    | split

theorem kept_execMsgConfigRevert (mbx : Nat) (s : State) (t : State) (h : execMsgConfigRevert mbx s = .next t) : t.kept = s.kept := by
  unfold execMsgConfigRevert at h
  obtain rfl := Host.Outcome.next.inj h
  clear h
  repeat' first
    | with_reducible rfl
    | with_reducible refine kept_ite ?_ ?_
    | with_reducible refine kept_serve (fun _ _ => ?_) _
    | simp only [↓kept_answerCommit, ↓kept_commit, ↓kept_revertTrial, ↓State.kept_mk, ↓State.nf1, ↓State.nf2, ↓State.nf3, ↓State.nf4, ↓State.nf5, ↓State.nf6, ↓State.nf7]
    | dsimp only
    | split

theorem kept_execMsgConfigQuery (mbx : Nat) (s : State) (t : State) (h : execMsgConfigQuery mbx s = .next t) : t.kept = s.kept := by
  unfold execMsgConfigQuery at h
  obtain rfl := Host.Outcome.next.inj h
  clear h
  repeat' first
    | with_reducible rfl
    | with_reducible refine kept_ite ?_ ?_
    | with_reducible refine kept_serve (fun _ _ => ?_) _
    | simp only [↓kept_answer, ↓State.kept_mk, ↓State.nf1, ↓State.nf2, ↓State.nf3, ↓State.nf4, ↓State.nf5, ↓State.nf6, ↓State.nf7]
    | dsimp only
    | split

theorem kept_execMsgConfigRead (mbx : Nat) (s : State) (t : State) (h : execMsgConfigRead mbx s = .next t) : t.kept = s.kept := by
  unfold execMsgConfigRead at h
  obtain rfl := Host.Outcome.next.inj h
  clear h
  repeat' first
    | with_reducible rfl
    | with_reducible refine kept_ite ?_ ?_
    | with_reducible refine kept_serve (fun _ _ => ?_) _
    | simp only [↓kept_answer, ↓kept_refuse, ↓kept_objWrite, ↓State.kept_mk, ↓State.nf1, ↓State.nf2, ↓State.nf3, ↓State.nf4, ↓State.nf5, ↓State.nf6, ↓State.nf7]
    | dsimp only
    | split

theorem kept_execHealthCheck (h2 : Bool) (s : State) (t : State) (h : execHealthCheck h2 s = .next t) : t.kept = s.kept := by
  unfold execHealthCheck at h
  obtain rfl := Host.Outcome.next.inj h
  clear h
  repeat' first
    | with_reducible rfl
    | with_reducible refine kept_ite ?_ ?_
    | simp only [↓kept_revertTrial, ↓State.kept_mk, ↓State.nf1, ↓State.nf2, ↓State.nf3, ↓State.nf4, ↓State.nf5, ↓State.nf6, ↓State.nf7]
    | dsimp only
    | split

theorem kept_execTrialEnd (s : State) (t : State) (h : execTrialEnd s = .next t) : t.kept = s.kept := by
  unfold execTrialEnd at h
  obtain rfl := Host.Outcome.next.inj h
  clear h
  repeat' first
    | with_reducible rfl
    | with_reducible refine kept_ite ?_ ?_
    | simp only [↓kept_finalTrial, ↓State.kept_mk, ↓State.nf1, ↓State.nf2, ↓State.nf3, ↓State.nf4, ↓State.nf5, ↓State.nf6, ↓State.nf7]
    | dsimp only
    | split

theorem kept_execMsgFwUpdate (mbx : Nat) (s : State) (t : State) (h : execMsgFwUpdate mbx s = .next t) : t.kept = s.kept := by
  unfold execMsgFwUpdate at h
  obtain rfl := Host.Outcome.next.inj h
  clear h
  repeat' first
    | with_reducible rfl
    | with_reducible refine kept_ite ?_ ?_
    | with_reducible refine kept_serve (fun _ _ => ?_) _
    | simp only [↓kept_refuse, ↓kept_objRead, ↓kept_writeBank, ↓kept_answerFw, ↓State.kept_mk, ↓State.nf1, ↓State.nf2, ↓State.nf3, ↓State.nf4, ↓State.nf5, ↓State.nf6, ↓State.nf7]
    | dsimp only
    | split

theorem kept_execFwHandover (pauseUs : Nat) (s : State) (t : State) (h : execFwHandover pauseUs s = .next t) : t.kept = s.kept := by
  unfold execFwHandover at h
  obtain rfl := Host.Outcome.next.inj h
  clear h
  repeat' first
    | with_reducible rfl
    | with_reducible refine kept_ite ?_ ?_
    | simp only [↓State.kept_mk, ↓State.nf1, ↓State.nf2, ↓State.nf3, ↓State.nf4, ↓State.nf5, ↓State.nf6, ↓State.nf7]
    | dsimp only
    | split

theorem kept_execFwNewFirmwareReady (s : State) (t : State) (h : execFwNewFirmwareReady s = .next t) : t.kept = s.kept := by
  unfold execFwNewFirmwareReady at h
  obtain rfl := Host.Outcome.next.inj h
  clear h
  repeat' first
    | with_reducible rfl
    | with_reducible refine kept_ite ?_ ?_
    | simp only [↓State.kept_mk, ↓State.nf1, ↓State.nf2, ↓State.nf3, ↓State.nf4, ↓State.nf5, ↓State.nf6, ↓State.nf7]
    | dsimp only
    | split

theorem kept_execFwHandback (pauseUs : Nat) (s : State) (t : State) (h : execFwHandback pauseUs s = .next t) : t.kept = s.kept := by
  unfold execFwHandback at h
  obtain rfl := Host.Outcome.next.inj h
  clear h
  repeat' first
    | with_reducible rfl
    | with_reducible refine kept_ite ?_ ?_
    | simp only [↓State.kept_mk, ↓State.nf1, ↓State.nf2, ↓State.nf3, ↓State.nf4, ↓State.nf5, ↓State.nf6, ↓State.nf7]
    | dsimp only
    | split

theorem kept_execFwPhase3Timeout (s : State) (t : State) (h : execFwPhase3Timeout s = .next t) : t.kept = s.kept := by
  unfold execFwPhase3Timeout at h
  obtain rfl := Host.Outcome.next.inj h
  clear h
  repeat' first
    | with_reducible rfl
    | with_reducible refine kept_ite ?_ ?_
    | simp only [↓kept_answerFw, ↓State.kept_mk, ↓State.nf1, ↓State.nf2, ↓State.nf3, ↓State.nf4, ↓State.nf5, ↓State.nf6, ↓State.nf7]
    | dsimp only
    | split

theorem kept_execFwStandbyReady (s : State) (t : State) (h : execFwStandbyReady s = .next t) : t.kept = s.kept := by
  unfold execFwStandbyReady at h
  obtain rfl := Host.Outcome.next.inj h
  clear h
  repeat' first
    | with_reducible rfl
    | with_reducible refine kept_ite ?_ ?_
    | simp only [↓kept_drawn, ↓kept_runBundle, ↓kept_answerFw, ↓State.kept_mk, ↓State.nf1, ↓State.nf2, ↓State.nf3, ↓State.nf4, ↓State.nf5, ↓State.nf6, ↓State.nf7]
    | dsimp only
    | split

theorem kept_execStandbyRestore (pass : Bool) (s : State) (t : State) (h : execStandbyRestore pass s = .next t) : t.kept = s.kept := by
  unfold execStandbyRestore at h
  obtain rfl := Host.Outcome.next.inj h
  clear h
  repeat' first
    | with_reducible rfl
    | with_reducible refine kept_ite ?_ ?_
    | simp only [↓kept_raise, ↓kept_retirePair, ↓State.kept_mk, ↓State.nf1, ↓State.nf2, ↓State.nf3, ↓State.nf4, ↓State.nf5, ↓State.nf6, ↓State.nf7]
    | dsimp only
    | split

theorem kept_execHousekeepingTask (kind : HkKind) (s : State) (t : State) (h : execHousekeepingTask kind s = .next t) : t.kept = s.kept := by
  unfold execHousekeepingTask at h
  obtain rfl := Host.Outcome.next.inj h
  clear h
  repeat' first
    | with_reducible rfl
    | with_reducible refine kept_ite ?_ ?_
    | with_reducible refine kept_getD (fun _ _ => ?_) ?_
    | simp only [↓kept_keepHouse, ↓State.kept_mk, ↓State.nf1, ↓State.nf2, ↓State.nf3, ↓State.nf4, ↓State.nf5, ↓State.nf6, ↓State.nf7]
    | dsimp only
    | split

theorem kept_execPatrolScrub (chan : Nat) (upsets : List (Nat × BitVec 72)) (s : State) (t : State) (h : execPatrolScrub chan upsets s = .next t) : t.kept = s.kept := by
  unfold execPatrolScrub at h
  obtain rfl := Host.Outcome.next.inj h
  clear h
  repeat' first
    | with_reducible rfl
    | with_reducible refine kept_ite ?_ ?_
    | simp only [↓kept_sweepChan, ↓kept_countSweep, ↓kept_upsetAll, ↓State.kept_mk, ↓State.nf1, ↓State.nf2, ↓State.nf3, ↓State.nf4, ↓State.nf5, ↓State.nf6, ↓State.nf7]
    | dsimp only
    | split

theorem kept_execCountingHour (s : State) (t : State) (h : execCountingHour s = .next t) : t.kept = s.kept := by
  unfold execCountingHour at h
  obtain rfl := Host.Outcome.next.inj h
  clear h
  repeat' first
    | with_reducible rfl
    | with_reducible refine kept_ite ?_ ?_
    | simp only [↓State.kept_mk, ↓State.nf1, ↓State.nf2, ↓State.nf3, ↓State.nf4, ↓State.nf5, ↓State.nf6, ↓State.nf7]
    | dsimp only
    | split

theorem kept_execMapoutAutoTrigger (chan : Nat) (s : State) (t : State) (h : execMapoutAutoTrigger chan s = .next t) : t.kept = s.kept := by
  unfold execMapoutAutoTrigger at h
  obtain rfl := Host.Outcome.next.inj h
  clear h
  repeat' first
    | with_reducible rfl
    | with_reducible refine kept_ite ?_ ?_
    | simp only [↓kept_autoMapout, ↓State.kept_mk, ↓State.nf1, ↓State.nf2, ↓State.nf3, ↓State.nf4, ↓State.nf5, ↓State.nf6, ↓State.nf7]
    | dsimp only
    | split

theorem kept_execMapoutVacate (s : State) (t : State) (h : execMapoutVacate s = .next t) : t.kept = s.kept := by
  unfold execMapoutVacate at h
  obtain rfl := Host.Outcome.next.inj h
  clear h
  repeat' first
    | with_reducible rfl
    | with_reducible refine kept_ite ?_ ?_
    | simp only [↓kept_modChan, ↓kept_answerMapout, ↓kept_endMapout, ↓State.kept_mk, ↓State.nf1, ↓State.nf2, ↓State.nf3, ↓State.nf4, ↓State.nf5, ↓State.nf6, ↓State.nf7]
    | dsimp only
    | split

theorem kept_execSliceMove (s : State) (t : State) (h : execSliceMove s = .next t) : t.kept = s.kept := by
  unfold execSliceMove at h
  obtain rfl := Host.Outcome.next.inj h
  clear h
  repeat' first
    | with_reducible rfl
    | with_reducible refine kept_ite ?_ ?_
    | simp only [↓kept_readSlice, ↓State.kept_mk, ↓State.nf1, ↓State.nf2, ↓State.nf3, ↓State.nf4, ↓State.nf5, ↓State.nf6, ↓State.nf7]
    | dsimp only
    | split

theorem kept_execBucketRehome (s : State) (t : State) (h : execBucketRehome s = .next t) : t.kept = s.kept := by
  unfold execBucketRehome at h
  obtain rfl := Host.Outcome.next.inj h
  clear h
  repeat' first
    | with_reducible rfl
    | with_reducible refine kept_ite ?_ ?_
    | simp only [↓State.kept_mk, ↓State.nf1, ↓State.nf2, ↓State.nf3, ↓State.nf4, ↓State.nf5, ↓State.nf6, ↓State.nf7]
    | dsimp only
    | split

theorem kept_execMapoutComplete (s : State) (t : State) (h : execMapoutComplete s = .next t) : t.kept = s.kept := by
  unfold execMapoutComplete at h
  obtain rfl := Host.Outcome.next.inj h
  clear h
  repeat' first
    | with_reducible rfl
    | with_reducible refine kept_ite ?_ ?_
    | simp only [↓kept_raise, ↓kept_modChan, ↓kept_answerMapout, ↓kept_endMapout, ↓State.kept_mk, ↓State.nf1, ↓State.nf2, ↓State.nf3, ↓State.nf4, ↓State.nf5, ↓State.nf6, ↓State.nf7]
    | dsimp only
    | split

theorem kept_execMsgMemQuery (mbx : Nat) (s : State) (t : State) (h : execMsgMemQuery mbx s = .next t) : t.kept = s.kept := by
  unfold execMsgMemQuery at h
  obtain rfl := Host.Outcome.next.inj h
  clear h
  repeat' first
    | with_reducible rfl
    | with_reducible refine kept_ite ?_ ?_
    | with_reducible refine kept_serve (fun _ _ => ?_) _
    | simp only [↓kept_answer, ↓kept_refuse, ↓State.kept_mk, ↓State.nf1, ↓State.nf2, ↓State.nf3, ↓State.nf4, ↓State.nf5, ↓State.nf6, ↓State.nf7]
    | dsimp only
    | split

theorem kept_execMsgChanMapout (mbx : Nat) (s : State) (t : State) (h : execMsgChanMapout mbx s = .next t) : t.kept = s.kept := by
  unfold execMsgChanMapout at h
  obtain rfl := Host.Outcome.next.inj h
  clear h
  repeat' first
    | with_reducible rfl
    | with_reducible refine kept_ite ?_ ?_
    | with_reducible refine kept_serve (fun _ _ => ?_) _
    | simp only [↓kept_answer, ↓kept_mapoutRecord, ↓kept_startMapout, ↓State.kept_mk, ↓State.nf1, ↓State.nf2, ↓State.nf3, ↓State.nf4, ↓State.nf5, ↓State.nf6, ↓State.nf7]
    | dsimp only
    | split

theorem kept_execCoreFailDeclare (phys : Nat) (s : State) (t : State) (h : execCoreFailDeclare phys s = .next t) : t.kept = s.kept := by
  unfold execCoreFailDeclare at h
  obtain rfl := Host.Outcome.next.inj h
  clear h
  repeat' first
    | with_reducible rfl
    | with_reducible refine kept_ite ?_ ?_
    | simp only [↓kept_mark, ↓kept_declareFailed, ↓State.kept_mk, ↓State.nf1, ↓State.nf2, ↓State.nf3, ↓State.nf4, ↓State.nf5, ↓State.nf6, ↓State.nf7]
    | dsimp only
    | split

theorem kept_execCoreAnswerTimeout (phys : Nat) (s : State) (t : State) (h : execCoreAnswerTimeout phys s = .next t) : t.kept = s.kept := by
  unfold execCoreAnswerTimeout at h
  obtain rfl := Host.Outcome.next.inj h
  clear h
  repeat' first
    | with_reducible rfl
    | with_reducible refine kept_ite ?_ ?_
    | simp only [↓kept_mark, ↓kept_declareFailed, ↓State.kept_mk, ↓State.nf1, ↓State.nf2, ↓State.nf3, ↓State.nf4, ↓State.nf5, ↓State.nf6, ↓State.nf7]
    | dsimp only
    | split

theorem kept_execCoreStoreTest (phys : Nat) (upsets : List (Nat × Nat × BitVec 72)) (s : State) (t : State) (h : execCoreStoreTest phys upsets s = .next t) : t.kept = s.kept := by
  unfold execCoreStoreTest at h
  obtain rfl := Host.Outcome.next.inj h
  clear h
  repeat' first
    | with_reducible rfl
    | with_reducible refine kept_ite ?_ ?_
    | simp only [↓kept_setCore, ↓kept_mark, ↓kept_declareFailed, ↓kept_upsetStores, ↓State.kept_mk, ↓State.nf1, ↓State.nf2, ↓State.nf3, ↓State.nf4, ↓State.nf5, ↓State.nf6, ↓State.nf7]
    | dsimp only
    | split

theorem kept_execSpareRemap (cluster : Nat) (s : State) (t : State) (h : execSpareRemap cluster s = .next t) : t.kept = s.kept := by
  unfold execSpareRemap at h
  obtain rfl := Host.Outcome.next.inj h
  clear h
  repeat' first
    | with_reducible rfl
    | with_reducible refine kept_ite ?_ ?_
    | simp only [↓kept_mark, ↓kept_remapSpare, ↓State.kept_mk, ↓State.nf1, ↓State.nf2, ↓State.nf3, ↓State.nf4, ↓State.nf5, ↓State.nf6, ↓State.nf7]
    | dsimp only
    | split

theorem kept_execMsgRingQuery (mbx : Nat) (s : State) (t : State) (h : execMsgRingQuery mbx s = .next t) : t.kept = s.kept := by
  unfold execMsgRingQuery at h
  obtain rfl := Host.Outcome.next.inj h
  clear h
  repeat' first
    | with_reducible rfl
    | with_reducible refine kept_ite ?_ ?_
    | with_reducible refine kept_serve (fun _ _ => ?_) _
    | simp only [↓kept_answer, ↓State.kept_mk, ↓State.nf1, ↓State.nf2, ↓State.nf3, ↓State.nf4, ↓State.nf5, ↓State.nf6, ↓State.nf7]
    | dsimp only
    | split

theorem kept_execBypassPowerLoss (s : State) (t : State) (h : execBypassPowerLoss s = .next t) : t.kept = s.kept := by
  unfold execBypassPowerLoss at h
  obtain rfl := Host.Outcome.next.inj h
  clear h
  repeat' first
    | with_reducible rfl
    | with_reducible refine kept_ite ?_ ?_
    | with_reducible refine (kept_foldl (fun _ _ => ?_) _ _).trans ?_
    | with_reducible refine (kept_foldp (fun _ _ => ?_) _ _).trans ?_
    | simp only [↓kept_closeRail, ↓State.kept_mk, ↓State.nf1, ↓State.nf2, ↓State.nf3, ↓State.nf4, ↓State.nf5, ↓State.nf6, ↓State.nf7]
    | dsimp only
    | split

theorem kept_execMsgPortRole (mbx : Nat) (s : State) (t : State) (h : execMsgPortRole mbx s = .next t) : t.kept = s.kept := by
  unfold execMsgPortRole at h
  obtain rfl := Host.Outcome.next.inj h
  clear h
  repeat' first
    | with_reducible rfl
    | with_reducible refine kept_ite ?_ ?_
    | with_reducible refine kept_serve (fun _ _ => ?_) _
    | with_reducible refine (kept_foldl (fun _ _ => ?_) _ _).trans ?_
    | with_reducible refine (kept_foldp (fun _ _ => ?_) _ _).trans ?_
    | simp only [↓kept_answer, ↓kept_setRole, ↓kept_setLink, ↓State.kept_mk, ↓State.nf1, ↓State.nf2, ↓State.nf3, ↓State.nf4, ↓State.nf5, ↓State.nf6, ↓State.nf7]
    | dsimp only
    | split

theorem kept_execMemberLoss (pos : Nat) (s : State) (t : State) (h : execMemberLoss pos s = .next t) : t.kept = s.kept := by
  unfold execMemberLoss at h
  obtain rfl := Host.Outcome.next.inj h
  clear h
  repeat' first
    | with_reducible rfl
    | with_reducible refine kept_ite ?_ ?_
    | simp only [↓kept_mark, ↓kept_loseMember, ↓State.kept_mk, ↓State.nf1, ↓State.nf2, ↓State.nf3, ↓State.nf4, ↓State.nf5, ↓State.nf6, ↓State.nf7]
    | dsimp only
    | split

theorem kept_execFlitReceive (port : Nat) (flit : List Byte) (fecBad : Bool) (s : State) (t : State) (h : execFlitReceive port flit fecBad s = .next t) : t.kept = s.kept := by
  unfold execFlitReceive at h
  obtain rfl := Host.Outcome.next.inj h
  clear h
  repeat' first
    | with_reducible rfl
    | with_reducible refine kept_ite ?_ ?_
    | simp only [↓kept_setLink, ↓kept_countFlits, ↓kept_acceptFlit, ↓State.kept_mk, ↓State.nf1, ↓State.nf2, ↓State.nf3, ↓State.nf4, ↓State.nf5, ↓State.nf6, ↓State.nf7]
    | dsimp only
    | split

theorem kept_execFlitResend (port : Nat) (s : State) (t : State) (h : execFlitResend port s = .next t) : t.kept = s.kept := by
  unfold execFlitResend at h
  obtain rfl := Host.Outcome.next.inj h
  clear h
  repeat' first
    | with_reducible rfl
    | with_reducible refine kept_ite ?_ ?_
    | simp only [↓kept_setLink, ↓kept_countFlits, ↓State.kept_mk, ↓State.nf1, ↓State.nf2, ↓State.nf3, ↓State.nf4, ↓State.nf5, ↓State.nf6, ↓State.nf7]
    | dsimp only
    | split

theorem kept_execRailDown (rail : Nat) (s : State) (t : State) (h : execRailDown rail s = .next t) : t.kept = s.kept := by
  unfold execRailDown at h
  obtain rfl := Host.Outcome.next.inj h
  clear h
  repeat' first
    | with_reducible rfl
    | with_reducible refine kept_ite ?_ ?_
    | with_reducible refine (kept_foldl (fun _ _ => ?_) _ _).trans ?_
    | with_reducible refine (kept_foldp (fun _ _ => ?_) _ _).trans ?_
    | simp only [↓kept_setLink, ↓kept_emit, ↓State.kept_mk, ↓State.nf1, ↓State.nf2, ↓State.nf3, ↓State.nf4, ↓State.nf5, ↓State.nf6, ↓State.nf7]
    | dsimp only
    | split

theorem kept_execRailUp (rail : Nat) (s : State) (t : State) (h : execRailUp rail s = .next t) : t.kept = s.kept := by
  unfold execRailUp at h
  obtain rfl := Host.Outcome.next.inj h
  clear h
  repeat' first
    | with_reducible rfl
    | with_reducible refine kept_ite ?_ ?_
    | simp only [↓kept_setLink, ↓kept_countFlits, ↓kept_ringEvent, ↓kept_joinOn, ↓State.kept_mk, ↓State.nf1, ↓State.nf2, ↓State.nf3, ↓State.nf4, ↓State.nf5, ↓State.nf6, ↓State.nf7]
    | dsimp only
    | split

theorem kept_execRailRetrainTimeout (rail : Nat) (s : State) (t : State) (h : execRailRetrainTimeout rail s = .next t) : t.kept = s.kept := by
  unfold execRailRetrainTimeout at h
  obtain rfl := Host.Outcome.next.inj h
  clear h
  repeat' first
    | with_reducible rfl
    | with_reducible refine kept_ite ?_ ?_
    | with_reducible refine (kept_foldl (fun _ _ => ?_) _ _).trans ?_
    | with_reducible refine (kept_foldp (fun _ _ => ?_) _ _).trans ?_
    | simp only [↓kept_mark, ↓kept_setLink, ↓kept_emit, ↓kept_ringEvent, ↓kept_loseMember, ↓kept_joinOn, ↓State.kept_mk, ↓State.nf1, ↓State.nf2, ↓State.nf3, ↓State.nf4, ↓State.nf5, ↓State.nf6, ↓State.nf7]
    | dsimp only
    | split

theorem kept_execMsgRingJoin (mbx : Nat) (s : State) (t : State) (h : execMsgRingJoin mbx s = .next t) : t.kept = s.kept := by
  unfold execMsgRingJoin at h
  obtain rfl := Host.Outcome.next.inj h
  clear h
  repeat' first
    | with_reducible rfl
    | with_reducible refine kept_ite ?_ ?_
    | with_reducible refine kept_serve (fun _ _ => ?_) _
    | simp only [↓kept_refuse, ↓kept_joinOn, ↓State.kept_mk, ↓State.nf1, ↓State.nf2, ↓State.nf3, ↓State.nf4, ↓State.nf5, ↓State.nf6, ↓State.nf7]
    | dsimp only
    | split

theorem kept_execDiscoveryReturn (members : List (Nat × List Byte)) (rolesOk : Bool) (s : State) (t : State) (h : execDiscoveryReturn members rolesOk s = .next t) : t.kept = s.kept := by
  unfold execDiscoveryReturn at h
  obtain rfl := Host.Outcome.next.inj h
  clear h
  repeat' first
    | with_reducible rfl
    | with_reducible refine kept_ite ?_ ?_
    | with_reducible refine (kept_foldl (fun _ _ => ?_) _ _).trans ?_
    | with_reducible refine (kept_foldp (fun _ _ => ?_) _ _).trans ?_
    | simp only [↓kept_answer, ↓kept_emit, ↓kept_ringEvent, ↓kept_failJoin, ↓State.kept_mk, ↓State.nf1, ↓State.nf2, ↓State.nf3, ↓State.nf4, ↓State.nf5, ↓State.nf6, ↓State.nf7]
    | dsimp only
    | split

theorem kept_execMsgRingLeave (mbx : Nat) (s : State) (t : State) (h : execMsgRingLeave mbx s = .next t) : t.kept = s.kept := by
  unfold execMsgRingLeave at h
  obtain rfl := Host.Outcome.next.inj h
  clear h
  repeat' first
    | with_reducible rfl
    | with_reducible refine kept_ite ?_ ?_
    | with_reducible refine kept_serve (fun _ _ => ?_) _
    | simp only [↓kept_refuse, ↓State.kept_mk, ↓State.nf1, ↓State.nf2, ↓State.nf3, ↓State.nf4, ↓State.nf5, ↓State.nf6, ↓State.nf7]
    | dsimp only
    | split

theorem kept_execRingLeaveComplete (s : State) (t : State) (h : execRingLeaveComplete s = .next t) : t.kept = s.kept := by
  unfold execRingLeaveComplete at h
  obtain rfl := Host.Outcome.next.inj h
  clear h
  repeat' first
    | with_reducible rfl
    | with_reducible refine kept_ite ?_ ?_
    | with_reducible refine (kept_foldl (fun _ _ => ?_) _ _).trans ?_
    | with_reducible refine (kept_foldp (fun _ _ => ?_) _ _).trans ?_
    | simp only [↓kept_raise, ↓kept_answer, ↓kept_mark, ↓kept_failStep, ↓kept_emit, ↓kept_ringEvent, ↓kept_closeRing, ↓State.kept_mk, ↓State.nf1, ↓State.nf2, ↓State.nf3, ↓State.nf4, ↓State.nf5, ↓State.nf6, ↓State.nf7]
    | dsimp only
    | split

theorem kept_execRingHuddleStage (court ctx step : Nat) (data : List Byte) (s : State) (t : State) (h : execRingHuddleStage court ctx step data s = .next t) : t.kept = s.kept := by
  unfold execRingHuddleStage at h
  obtain rfl := Host.Outcome.next.inj h
  clear h
  repeat' first
    | with_reducible rfl
    | with_reducible refine kept_ite ?_ ?_
    | with_reducible refine kept_getD (fun _ _ => ?_) ?_
    | simp only [↓kept_objWrite, ↓kept_anyRead, ↓kept_level, ↓kept_mark, ↓kept_putStep, ↓kept_failStep, ↓kept_advance, ↓kept_startTransfer, ↓kept_vatAdd, ↓State.kept_mk, ↓State.nf1, ↓State.nf2, ↓State.nf3, ↓State.nf4, ↓State.nf5, ↓State.nf6, ↓State.nf7]
    | dsimp only
    | split

theorem kept_execRingHuddleTimeout (court ctx step : Nat) (s : State) (t : State) (h : execRingHuddleTimeout court ctx step s = .next t) : t.kept = s.kept := by
  unfold execRingHuddleTimeout at h
  obtain rfl := Host.Outcome.next.inj h
  clear h
  repeat' first
    | with_reducible rfl
    | with_reducible refine kept_ite ?_ ?_
    | simp only [↓kept_mark, ↓kept_failStep, ↓State.kept_mk, ↓State.nf1, ↓State.nf2, ↓State.nf3, ↓State.nf4, ↓State.nf5, ↓State.nf6, ↓State.nf7]
    | dsimp only
    | split

theorem kept_execRelayFrame (hub dst : Nat) (data : List Byte) (s : State) (t : State) (h : execRelayFrame hub dst data s = .next t) : t.kept = s.kept := by
  unfold execRelayFrame at h
  obtain rfl := Host.Outcome.next.inj h
  clear h
  repeat' first
    | with_reducible rfl
    | with_reducible refine kept_ite ?_ ?_
    | simp only [↓kept_startTransfer, ↓State.kept_mk, ↓State.nf1, ↓State.nf2, ↓State.nf3, ↓State.nf4, ↓State.nf5, ↓State.nf6, ↓State.nf7]
    | dsimp only
    | split

theorem kept_execFieldPortFrame (port : Nat) (rx : Bool) (data : List Byte) (s : State) (t : State) (h : execFieldPortFrame port rx data s = .next t) : t.kept = s.kept := by
  unfold execFieldPortFrame at h
  obtain rfl := Host.Outcome.next.inj h
  clear h
  repeat' first
    | with_reducible rfl
    | with_reducible refine kept_ite ?_ ?_
    | with_reducible refine kept_getD (fun _ _ => ?_) ?_
    | simp only [↓kept_addAcc, ↓State.kept_mk, ↓State.nf1, ↓State.nf2, ↓State.nf3, ↓State.nf4, ↓State.nf5, ↓State.nf6, ↓State.nf7]
    | dsimp only
    | split

theorem kept_execResetRelease (s : State) (t : State) (h : execResetRelease s = .next t) : t.kept = s.kept := by
  unfold execResetRelease at h
  obtain rfl := Host.Outcome.next.inj h
  clear h
  repeat' first
    | with_reducible rfl
    | with_reducible refine kept_ite ?_ ?_
    | simp only [↓kept_toStep, ↓State.kept_mk, ↓State.nf1, ↓State.nf2, ↓State.nf3, ↓State.nf4, ↓State.nf5, ↓State.nf6, ↓State.nf7]
    | dsimp only
    | split

theorem kept_execBootRom (ok0 ok2 : Bool) (s : State) (t : State) (h : execBootRom ok0 ok2 s = .next t) : t.kept = s.kept := by
  unfold execBootRom at h
  obtain rfl := Host.Outcome.next.inj h
  clear h
  repeat' first
    | with_reducible rfl
    | with_reducible refine kept_ite ?_ ?_
    | simp only [↓kept_retirePair, ↓kept_toStep, ↓kept_bootFail, ↓State.kept_mk, ↓State.nf1, ↓State.nf2, ↓State.nf3, ↓State.nf4, ↓State.nf5, ↓State.nf6, ↓State.nf7]
    | dsimp only
    | split

theorem kept_execVerify (s : State) (t : State) (h : execVerify s = .next t) : t.kept = s.kept := by
  unfold execVerify at h
  obtain rfl := Host.Outcome.next.inj h
  clear h
  repeat' first
    | with_reducible rfl
    | with_reducible refine kept_ite ?_ ?_
    | simp only [↓kept_runBundle, ↓kept_toStep, ↓State.kept_mk, ↓State.nf1, ↓State.nf2, ↓State.nf3, ↓State.nf4, ↓State.nf5, ↓State.nf6, ↓State.nf7]
    | dsimp only
    | split

theorem kept_execTrain (bad : List Nat) (s : State) (t : State) (h : execTrain bad s = .next t) : t.kept = s.kept := by
  unfold execTrain at h
  obtain rfl := Host.Outcome.next.inj h
  clear h
  repeat' first
    | with_reducible rfl
    | with_reducible refine kept_ite ?_ ?_
    | with_reducible refine (kept_foldl (fun _ _ => ?_) _ _).trans ?_
    | with_reducible refine (kept_foldp (fun _ _ => ?_) _ _).trans ?_
    | simp only [↓kept_drawn, ↓kept_modChan, ↓kept_autoMapout, ↓kept_toStep, ↓State.kept_mk, ↓State.nf1, ↓State.nf2, ↓State.nf3, ↓State.nf4, ↓State.nf5, ↓State.nf6, ↓State.nf7]
    | dsimp only
    | split

theorem kept_execSelftest (bad : List Nat) (s : State) (t : State) (h : execSelftest bad s = .next t) : t.kept = s.kept := by
  unfold execSelftest at h
  obtain rfl := Host.Outcome.next.inj h
  clear h
  repeat' first
    | with_reducible rfl
    | with_reducible refine kept_ite ?_ ?_
    | with_reducible refine (kept_foldl (fun _ _ => ?_) _ _).trans ?_
    | with_reducible refine (kept_foldp (fun _ _ => ?_) _ _).trans ?_
    | simp only [↓kept_declareFailed, ↓kept_remapSpare, ↓kept_toStep, ↓State.kept_mk, ↓State.nf1, ↓State.nf2, ↓State.nf3, ↓State.nf4, ↓State.nf5, ↓State.nf6, ↓State.nf7]
    | dsimp only
    | split

theorem kept_execPlatform (ok : Bool) (s : State) (t : State) (h : execPlatform ok s = .next t) : t.kept = s.kept := by
  unfold execPlatform at h
  obtain rfl := Host.Outcome.next.inj h
  clear h
  repeat' first
    | with_reducible rfl
    | with_reducible refine kept_ite ?_ ?_
    | with_reducible refine (kept_foldl (fun _ _ => ?_) _ _).trans ?_
    | with_reducible refine (kept_foldp (fun _ _ => ?_) _ _).trans ?_
    | simp only [↓kept_modMbx, ↓kept_toStep, ↓kept_openRecord, ↓State.kept_mk, ↓State.nf1, ↓State.nf2, ↓State.nf3, ↓State.nf4, ↓State.nf5, ↓State.nf6, ↓State.nf7]
    | dsimp only
    | split

theorem kept_execServe (s : State) (t : State) (h : execServe s = .next t) : t.kept = s.kept := by
  unfold execServe at h
  obtain rfl := Host.Outcome.next.inj h
  clear h
  repeat' first
    | with_reducible rfl
    | with_reducible refine kept_ite ?_ ?_
    | with_reducible refine (kept_foldl (fun _ _ => ?_) _ _).trans ?_
    | with_reducible refine (kept_foldp (fun _ _ => ?_) _ _).trans ?_
    | simp only [↓kept_mark, ↓kept_openRail, ↓kept_joinOn, ↓State.kept_mk, ↓State.nf1, ↓State.nf2, ↓State.nf3, ↓State.nf4, ↓State.nf5, ↓State.nf6, ↓State.nf7]
    | dsimp only
    | split

theorem kept_execStartupTimeout (s : State) (t : State) (h : execStartupTimeout s = .next t) : t.kept = s.kept := by
  unfold execStartupTimeout at h
  obtain rfl := Host.Outcome.next.inj h
  clear h
  repeat' first
    | with_reducible rfl
    | with_reducible refine kept_ite ?_ ?_
    | simp only [↓kept_bootFail, ↓State.kept_mk, ↓State.nf1, ↓State.nf2, ↓State.nf3, ↓State.nf4, ↓State.nf5, ↓State.nf6, ↓State.nf7]
    | dsimp only
    | split

theorem kept_execMsgCdcOpen (mbx : Nat) (s : State) (t : State) (h : execMsgCdcOpen mbx s = .next t) : t.kept = s.kept := by
  unfold execMsgCdcOpen at h
  obtain rfl := Host.Outcome.next.inj h
  clear h
  repeat' first
    | with_reducible rfl
    | with_reducible refine kept_ite ?_ ?_
    | with_reducible refine kept_serve (fun _ _ => ?_) _
    | simp only [↓kept_answer, ↓kept_refuse, ↓kept_createObj, ↓kept_setStream, ↓State.kept_mk, ↓State.nf1, ↓State.nf2, ↓State.nf3, ↓State.nf4, ↓State.nf5, ↓State.nf6, ↓State.nf7]
    | dsimp only
    | split

theorem kept_execMsgCdcPool (mbx : Nat) (s : State) (t : State) (h : execMsgCdcPool mbx s = .next t) : t.kept = s.kept := by
  unfold execMsgCdcPool at h
  obtain rfl := Host.Outcome.next.inj h
  clear h
  repeat' first
    | with_reducible rfl
    | with_reducible refine kept_ite ?_ ?_
    | with_reducible refine kept_serve (fun _ _ => ?_) _
    | simp only [↓kept_answer, ↓kept_refuse, ↓kept_setStream, ↓State.kept_mk, ↓State.nf1, ↓State.nf2, ↓State.nf3, ↓State.nf4, ↓State.nf5, ↓State.nf6, ↓State.nf7]
    | dsimp only
    | split

theorem kept_execMsgCdcFrame (mbx : Nat) (s : State) (t : State) (h : execMsgCdcFrame mbx s = .next t) : t.kept = s.kept := by
  unfold execMsgCdcFrame at h
  obtain rfl := Host.Outcome.next.inj h
  clear h
  repeat' first
    | with_reducible rfl
    | with_reducible refine kept_ite ?_ ?_
    | with_reducible refine kept_serve (fun _ _ => ?_) _
    | simp only [↓kept_answer, ↓kept_refuse, ↓kept_setStream, ↓State.kept_mk, ↓State.nf1, ↓State.nf2, ↓State.nf3, ↓State.nf4, ↓State.nf5, ↓State.nf6, ↓State.nf7]
    | dsimp only
    | split

theorem kept_execMsgCdcSet (mbx : Nat) (s : State) (t : State) (h : execMsgCdcSet mbx s = .next t) : t.kept = s.kept := by
  unfold execMsgCdcSet at h
  obtain rfl := Host.Outcome.next.inj h
  clear h
  repeat' first
    | with_reducible rfl
    | with_reducible refine kept_ite ?_ ?_
    | with_reducible refine kept_serve (fun _ _ => ?_) _
    | simp only [↓kept_answer, ↓kept_refuse, ↓kept_setStream, ↓State.kept_mk, ↓State.nf1, ↓State.nf2, ↓State.nf3, ↓State.nf4, ↓State.nf5, ↓State.nf6, ↓State.nf7]
    | dsimp only
    | split

theorem kept_execMsgCdcClose (mbx : Nat) (s : State) (t : State) (h : execMsgCdcClose mbx s = .next t) : t.kept = s.kept := by
  unfold execMsgCdcClose at h
  obtain rfl := Host.Outcome.next.inj h
  clear h
  repeat' first
    | with_reducible rfl
    | with_reducible refine kept_ite ?_ ?_
    | with_reducible refine kept_serve (fun _ _ => ?_) _
    | simp only [↓kept_answer, ↓kept_refuse, ↓kept_setStream, ↓State.kept_mk, ↓State.nf1, ↓State.nf2, ↓State.nf3, ↓State.nf4, ↓State.nf5, ↓State.nf6, ↓State.nf7]
    | dsimp only
    | split

theorem kept_execCodecFrameStart (eng : Nat) (s : State) (t : State) (h : execCodecFrameStart eng s = .next t) : t.kept = s.kept := by
  unfold execCodecFrameStart at h
  obtain rfl := Host.Outcome.next.inj h
  clear h
  repeat' first
    | with_reducible rfl
    | with_reducible refine kept_ite ?_ ?_
    | simp only [↓kept_mark, ↓kept_setStream, ↓kept_setEngine, ↓kept_switchStream, ↓State.kept_mk, ↓State.nf1, ↓State.nf2, ↓State.nf3, ↓State.nf4, ↓State.nf5, ↓State.nf6, ↓State.nf7]
    | dsimp only
    | split

theorem kept_execCodecSliceEmit (eng : Nat) (data : List Byte) (s : State) (t : State) (h : execCodecSliceEmit eng data s = .next t) : t.kept = s.kept := by
  unfold execCodecSliceEmit at h
  obtain rfl := Host.Outcome.next.inj h
  clear h
  repeat' first
    | with_reducible rfl
    | with_reducible refine kept_ite ?_ ?_
    | simp only [↓kept_drawn, ↓kept_objWrite, ↓kept_chargeBytes, ↓kept_setStream, ↓kept_setEngine, ↓kept_cdcEvent, ↓State.kept_mk, ↓State.nf1, ↓State.nf2, ↓State.nf3, ↓State.nf4, ↓State.nf5, ↓State.nf6, ↓State.nf7]
    | dsimp only
    | split

theorem kept_execCodecFrameDone (eng : Nat) (out : FrameOut) (s : State) (t : State) (h : execCodecFrameDone eng out s = .next t) : t.kept = s.kept := by
  unfold execCodecFrameDone at h
  obtain rfl := Host.Outcome.next.inj h
  clear h
  repeat' first
    | with_reducible rfl
    | with_reducible refine kept_ite ?_ ?_
    | simp only [↓kept_charge, ↓kept_chargeBytes, ↓kept_mark, ↓kept_setStream, ↓kept_setEngine, ↓kept_cdcEvent, ↓kept_pictureWrite, ↓State.kept_mk, ↓State.nf1, ↓State.nf2, ↓State.nf3, ↓State.nf4, ↓State.nf5, ↓State.nf6, ↓State.nf7]
    | dsimp only
    | split

theorem kept_execCodecCloseEffect (stream : Nat) (s : State) (t : State) (h : execCodecCloseEffect stream s = .next t) : t.kept = s.kept := by
  unfold execCodecCloseEffect at h
  obtain rfl := Host.Outcome.next.inj h
  clear h
  repeat' first
    | with_reducible rfl
    | with_reducible refine kept_ite ?_ ?_
    | simp only [↓kept_closeStream, ↓State.kept_mk, ↓State.nf1, ↓State.nf2, ↓State.nf3, ↓State.nf4, ↓State.nf5, ↓State.nf6, ↓State.nf7]
    | dsimp only
    | split

theorem kept_execCodecEngineFault (eng : Nat) (s : State) (t : State) (h : execCodecEngineFault eng s = .next t) : t.kept = s.kept := by
  unfold execCodecEngineFault at h
  obtain rfl := Host.Outcome.next.inj h
  clear h
  repeat' first
    | with_reducible rfl
    | with_reducible refine kept_ite ?_ ?_
    | with_reducible refine (kept_foldl (fun _ _ => ?_) _ _).trans ?_
    | with_reducible refine (kept_foldp (fun _ _ => ?_) _ _).trans ?_
    | simp only [↓kept_raise, ↓kept_charge, ↓kept_setEngine, ↓kept_cdcEvent, ↓kept_closeStream, ↓State.kept_mk, ↓State.nf1, ↓State.nf2, ↓State.nf3, ↓State.nf4, ↓State.nf5, ↓State.nf6, ↓State.nf7]
    | dsimp only
    | split

theorem kept_execRtpFlowClose (flow : Nat) (s : State) (t : State) (h : execRtpFlowClose flow s = .next t) : t.kept = s.kept := by
  unfold execRtpFlowClose at h
  obtain rfl := Host.Outcome.next.inj h
  clear h
  repeat' first
    | with_reducible rfl
    | with_reducible refine kept_ite ?_ ?_
    | simp only [↓State.kept_mk, ↓State.nf1, ↓State.nf2, ↓State.nf3, ↓State.nf4, ↓State.nf5, ↓State.nf6, ↓State.nf7]
    | dsimp only
    | split

theorem kept_execVexp (b : Slot) (vd va : BitVec 6) (refine : Bool) (ty : VTy) (s : State) (t : State) (h : execVexp b vd va refine ty s = .next t) : t.kept = s.kept := by
  unfold execVexp at h
  obtain rfl := Host.Outcome.next.inj h
  clear h
  repeat' first
    | with_reducible rfl
    | with_reducible refine kept_ite ?_ ?_
    | simp only [↓kept_workOp, ↓State.kept_mk, ↓State.nf1, ↓State.nf2, ↓State.nf3, ↓State.nf4, ↓State.nf5, ↓State.nf6, ↓State.nf7]
    | dsimp only
    | split

theorem kept_execVlog (b : Slot) (vd va : BitVec 6) (refine : Bool) (ty : VTy) (s : State) (t : State) (h : execVlog b vd va refine ty s = .next t) : t.kept = s.kept := by
  unfold execVlog at h
  obtain rfl := Host.Outcome.next.inj h
  clear h
  repeat' first
    | with_reducible rfl
    | with_reducible refine kept_ite ?_ ?_
    | simp only [↓kept_workOp, ↓State.kept_mk, ↓State.nf1, ↓State.nf2, ↓State.nf3, ↓State.nf4, ↓State.nf5, ↓State.nf6, ↓State.nf7]
    | dsimp only
    | split

theorem kept_execVrcp (b : Slot) (vd va : BitVec 6) (refine : Bool) (ty : VTy) (s : State) (t : State) (h : execVrcp b vd va refine ty s = .next t) : t.kept = s.kept := by
  unfold execVrcp at h
  obtain rfl := Host.Outcome.next.inj h
  clear h
  repeat' first
    | with_reducible rfl
    | with_reducible refine kept_ite ?_ ?_
    | simp only [↓kept_workOp, ↓State.kept_mk, ↓State.nf1, ↓State.nf2, ↓State.nf3, ↓State.nf4, ↓State.nf5, ↓State.nf6, ↓State.nf7]
    | dsimp only
    | split

theorem kept_execVrsq (b : Slot) (vd va : BitVec 6) (refine : Bool) (ty : VTy) (s : State) (t : State) (h : execVrsq b vd va refine ty s = .next t) : t.kept = s.kept := by
  unfold execVrsq at h
  obtain rfl := Host.Outcome.next.inj h
  clear h
  repeat' first
    | with_reducible rfl
    | with_reducible refine kept_ite ?_ ?_
    | simp only [↓kept_workOp, ↓State.kept_mk, ↓State.nf1, ↓State.nf2, ↓State.nf3, ↓State.nf4, ↓State.nf5, ↓State.nf6, ↓State.nf7]
    | dsimp only
    | split

theorem kept_execVtab (b : Slot) (vd va : BitVec 6) (slot : BitVec 3) (ty : VTy) (s : State) (t : State) (h : execVtab b vd va slot ty s = .next t) : t.kept = s.kept := by
  unfold execVtab at h
  obtain rfl := Host.Outcome.next.inj h
  clear h
  repeat' first
    | with_reducible rfl
    | with_reducible refine kept_ite ?_ ?_
    | simp only [↓kept_slotOp, ↓State.kept_mk, ↓State.nf1, ↓State.nf2, ↓State.nf3, ↓State.nf4, ↓State.nf5, ↓State.nf6, ↓State.nf7]
    | dsimp only
    | split

theorem kept_execVdw (b : Slot) (vd va : BitVec 6) (sb : BitVec 4) (vc : BitVec 6) (ty : VTy) (s : State) (t : State) (h : execVdw b vd va sb vc ty s = .next t) : t.kept = s.kept := by
  unfold execVdw at h
  obtain rfl := Host.Outcome.next.inj h
  clear h
  repeat' first
    | with_reducible rfl
    | with_reducible refine kept_ite ?_ ?_
    | simp only [↓kept_slotOp, ↓State.kept_mk, ↓State.nf1, ↓State.nf2, ↓State.nf3, ↓State.nf4, ↓State.nf5, ↓State.nf6, ↓State.nf7]
    | dsimp only
    | split

theorem kept_execVwel (b : Slot) (vd va : BitVec 6) (sb : BitVec 4) (vc : BitVec 6) (s : State) (t : State) (h : execVwel b vd va sb vc s = .next t) : t.kept = s.kept := by
  unfold execVwel at h
  obtain rfl := Host.Outcome.next.inj h
  clear h
  repeat' first
    | with_reducible rfl
    | with_reducible refine kept_ite ?_ ?_
    | simp only [↓kept_slotOp, ↓State.kept_mk, ↓State.nf1, ↓State.nf2, ↓State.nf3, ↓State.nf4, ↓State.nf5, ↓State.nf6, ↓State.nf7]
    | dsimp only
    | split

theorem kept_execVamax (b : Slot) (vd va : BitVec 6) (sb : BitVec 4) (vc : BitVec 6) (ty : VTy) (s : State) (t : State) (h : execVamax b vd va sb vc ty s = .next t) : t.kept = s.kept := by
  unfold execVamax at h
  obtain rfl := Host.Outcome.next.inj h
  clear h
  repeat' first
    | with_reducible rfl
    | with_reducible refine kept_ite ?_ ?_
    | simp only [↓kept_slotOp, ↓State.kept_mk, ↓State.nf1, ↓State.nf2, ↓State.nf3, ↓State.nf4, ↓State.nf5, ↓State.nf6, ↓State.nf7]
    | dsimp only
    | split

theorem kept_execVesu (b : Slot) (vd : BitVec 6) (sa : BitVec 4) (vb vc : BitVec 6) (s : State) (t : State) (h : execVesu b vd sa vb vc s = .next t) : t.kept = s.kept := by
  unfold execVesu at h
  obtain rfl := Host.Outcome.next.inj h
  clear h
  repeat' first
    | with_reducible rfl
    | with_reducible refine kept_ite ?_ ?_
    | with_reducible refine (kept_foldl (fun _ _ => ?_) _ _).trans ?_
    | with_reducible refine (kept_foldp (fun _ _ => ?_) _ _).trans ?_
    | simp only [↓kept_slotOp, ↓State.kept_mk, ↓State.nf1, ↓State.nf2, ↓State.nf3, ↓State.nf4, ↓State.nf5, ↓State.nf6, ↓State.nf7]
    | dsimp only
    | split

theorem kept_execMnop (b : Slot) (s : State) (t : State) (h : execMnop b s = .next t) : t.kept = s.kept := by
  unfold execMnop at h
  obtain rfl := Host.Outcome.next.inj h
  clear h
  repeat' first
    | with_reducible rfl
    | with_reducible refine kept_ite ?_ ?_
    | simp only [↓kept_slotOp, ↓State.kept_mk, ↓State.nf1, ↓State.nf2, ↓State.nf3, ↓State.nf4, ↓State.nf5, ↓State.nf6, ↓State.nf7]
    | dsimp only
    | split

theorem kept_execMma (b : Slot) (aReg bReg : BitVec 4) (acc : BitVec 8) (postInc first : Bool) (s : State) (t : State) (h : execMma b aReg bReg acc postInc first s = .next t) : t.kept = s.kept := by
  unfold execMma at h
  obtain rfl := Host.Outcome.next.inj h
  clear h
  repeat' first
    | with_reducible rfl
    | with_reducible refine kept_ite ?_ ?_
    | simp only [↓kept_slotOp, ↓State.kept_mk, ↓State.nf1, ↓State.nf2, ↓State.nf3, ↓State.nf4, ↓State.nf5, ↓State.nf6, ↓State.nf7]
    | dsimp only
    | split

theorem kept_execMwh (b : Slot) (aReg bReg : BitVec 4) (acc : BitVec 8) (first : Bool) (s : State) (t : State) (h : execMwh b aReg bReg acc first s = .next t) : t.kept = s.kept := by
  unfold execMwh at h
  obtain rfl := Host.Outcome.next.inj h
  clear h
  repeat' first
    | with_reducible rfl
    | with_reducible refine kept_ite ?_ ?_
    | with_reducible refine (kept_foldl (fun _ _ => ?_) _ _).trans ?_
    | with_reducible refine (kept_foldp (fun _ _ => ?_) _ _).trans ?_
    | simp only [↓kept_slotOp, ↓State.kept_mk, ↓State.nf1, ↓State.nf2, ↓State.nf3, ↓State.nf4, ↓State.nf5, ↓State.nf6, ↓State.nf7]
    | dsimp only
    | split

theorem kept_execMfold (b : Slot) (acc : BitVec 8) (init join : Bool) (s : State) (t : State) (h : execMfold b acc init join s = .next t) : t.kept = s.kept := by
  unfold execMfold at h
  obtain rfl := Host.Outcome.next.inj h
  clear h
  repeat' first
    | with_reducible rfl
    | with_reducible refine kept_ite ?_ ?_
    | with_reducible refine (kept_foldl (fun _ _ => ?_) _ _).trans ?_
    | with_reducible refine (kept_foldp (fun _ _ => ?_) _ _).trans ?_
    | simp only [↓kept_slotOp, ↓State.kept_mk, ↓State.nf1, ↓State.nf2, ↓State.nf3, ↓State.nf4, ↓State.nf5, ↓State.nf6, ↓State.nf7]
    | dsimp only
    | split

theorem kept_execMsetc (b : Slot) (aReg : BitVec 4) (acc : BitVec 8) (bcast : Bool) (s : State) (t : State) (h : execMsetc b aReg acc bcast s = .next t) : t.kept = s.kept := by
  unfold execMsetc at h
  obtain rfl := Host.Outcome.next.inj h
  clear h
  repeat' first
    | with_reducible rfl
    | with_reducible refine kept_ite ?_ ?_
    | with_reducible refine (kept_foldl (fun _ _ => ?_) _ _).trans ?_
    | with_reducible refine (kept_foldp (fun _ _ => ?_) _ _).trans ?_
    | simp only [↓kept_slotOp, ↓State.kept_mk, ↓State.nf1, ↓State.nf2, ↓State.nf3, ↓State.nf4, ↓State.nf5, ↓State.nf6, ↓State.nf7]
    | dsimp only
    | split

theorem kept_execMzero (b : Slot) (acc : BitVec 8) (s : State) (t : State) (h : execMzero b acc s = .next t) : t.kept = s.kept := by
  unfold execMzero at h
  obtain rfl := Host.Outcome.next.inj h
  clear h
  repeat' first
    | with_reducible rfl
    | with_reducible refine kept_ite ?_ ?_
    | with_reducible refine (kept_foldl (fun _ _ => ?_) _ _).trans ?_
    | with_reducible refine (kept_foldp (fun _ _ => ?_) _ _).trans ?_
    | simp only [↓kept_slotOp, ↓State.kept_mk, ↓State.nf1, ↓State.nf2, ↓State.nf3, ↓State.nf4, ↓State.nf5, ↓State.nf6, ↓State.nf7]
    | dsimp only
    | split

theorem kept_execPsEntry (court : Nat) (s : State) (t : State) (h : execPsEntry court s = .next t) : t.kept = s.kept := by
  unfold execPsEntry at h
  obtain rfl := Host.Outcome.next.inj h
  clear h
  repeat' first
    | with_reducible rfl
    | with_reducible refine kept_ite ?_ ?_
    | simp only [↓kept_setCourtPwr, ↓kept_markCourt, ↓kept_pwrEvent, ↓kept_parkAll, ↓State.kept_mk, ↓State.nf1, ↓State.nf2, ↓State.nf3, ↓State.nf4, ↓State.nf5, ↓State.nf6, ↓State.nf7]
    | dsimp only
    | split

theorem kept_execPsEntryComplete (court : Nat) (s : State) (t : State) (h : execPsEntryComplete court s = .next t) : t.kept = s.kept := by
  unfold execPsEntryComplete at h
  obtain rfl := Host.Outcome.next.inj h
  clear h
  repeat' first
    | with_reducible rfl
    | with_reducible refine kept_ite ?_ ?_
    | simp only [↓kept_tabAnswers, ↓kept_setCourtPwr, ↓kept_countIdle, ↓kept_pwrEvent, ↓kept_loseStores, ↓State.kept_mk, ↓State.nf1, ↓State.nf2, ↓State.nf3, ↓State.nf4, ↓State.nf5, ↓State.nf6, ↓State.nf7]
    | dsimp only
    | split

theorem kept_execPsWake (court remUs : Nat) (s : State) (t : State) (h : execPsWake court remUs s = .next t) : t.kept = s.kept := by
  unfold execPsWake at h
  obtain rfl := Host.Outcome.next.inj h
  clear h
  repeat' first
    | with_reducible rfl
    | with_reducible refine kept_ite ?_ ?_
    | simp only [↓kept_setCourtPwr, ↓kept_pwrEvent, ↓State.kept_mk, ↓State.nf1, ↓State.nf2, ↓State.nf3, ↓State.nf4, ↓State.nf5, ↓State.nf6, ↓State.nf7]
    | dsimp only
    | split

theorem kept_execPsExitComplete (court : Nat) (s : State) (t : State) (h : execPsExitComplete court s = .next t) : t.kept = s.kept := by
  unfold execPsExitComplete at h
  obtain rfl := Host.Outcome.next.inj h
  clear h
  repeat' first
    | with_reducible rfl
    | with_reducible refine kept_ite ?_ ?_
    | simp only [↓kept_swapOnWake, ↓kept_setCourtPwr, ↓kept_mark, ↓kept_countIdle, ↓kept_pwrEvent, ↓kept_restoreClusters, ↓State.kept_mk, ↓State.nf1, ↓State.nf2, ↓State.nf3, ↓State.nf4, ↓State.nf5, ↓State.nf6, ↓State.nf7]
    | dsimp only
    | split

theorem kept_execPs5Entry (s : State) (t : State) (h : execPs5Entry s = .next t) : t.kept = s.kept := by
  unfold execPs5Entry at h
  obtain rfl := Host.Outcome.next.inj h
  clear h
  repeat' first
    | with_reducible rfl
    | with_reducible refine kept_ite ?_ ?_
    | simp only [↓kept_pwrEvent, ↓State.kept_mk, ↓State.nf1, ↓State.nf2, ↓State.nf3, ↓State.nf4, ↓State.nf5, ↓State.nf6, ↓State.nf7]
    | dsimp only
    | split

theorem kept_execPs5Wake (s : State) (t : State) (h : execPs5Wake s = .next t) : t.kept = s.kept := by
  unfold execPs5Wake at h
  obtain rfl := Host.Outcome.next.inj h
  clear h
  repeat' first
    | with_reducible rfl
    | with_reducible refine kept_ite ?_ ?_
    | simp only [↓kept_leavePs5, ↓State.kept_mk, ↓State.nf1, ↓State.nf2, ↓State.nf3, ↓State.nf4, ↓State.nf5, ↓State.nf6, ↓State.nf7]
    | dsimp only
    | split

theorem kept_execMsgPwrTolerance (mbx : Nat) (s : State) (t : State) (h : execMsgPwrTolerance mbx s = .next t) : t.kept = s.kept := by
  unfold execMsgPwrTolerance at h
  obtain rfl := Host.Outcome.next.inj h
  clear h
  repeat' first
    | with_reducible rfl
    | with_reducible refine kept_ite ?_ ?_
    | with_reducible refine kept_serve (fun _ _ => ?_) _
    | simp only [↓kept_answer, ↓kept_refuse, ↓kept_leavePs5, ↓kept_retune, ↓State.kept_mk, ↓State.nf1, ↓State.nf2, ↓State.nf3, ↓State.nf4, ↓State.nf5, ↓State.nf6, ↓State.nf7]
    | dsimp only
    | split

theorem kept_execMsgPwrProfile (mbx : Nat) (s : State) (t : State) (h : execMsgPwrProfile mbx s = .next t) : t.kept = s.kept := by
  unfold execMsgPwrProfile at h
  obtain rfl := Host.Outcome.next.inj h
  clear h
  repeat' first
    | with_reducible rfl
    | with_reducible refine kept_ite ?_ ?_
    | with_reducible refine kept_serve (fun _ _ => ?_) _
    | simp only [↓kept_answer, ↓State.kept_mk, ↓State.nf1, ↓State.nf2, ↓State.nf3, ↓State.nf4, ↓State.nf5, ↓State.nf6, ↓State.nf7]
    | dsimp only
    | split

theorem kept_execMsgPwrQuery (mbx : Nat) (s : State) (t : State) (h : execMsgPwrQuery mbx s = .next t) : t.kept = s.kept := by
  unfold execMsgPwrQuery at h
  obtain rfl := Host.Outcome.next.inj h
  clear h
  repeat' first
    | with_reducible rfl
    | with_reducible refine kept_ite ?_ ?_
    | with_reducible refine kept_serve (fun _ _ => ?_) _
    | simp only [↓kept_answer, ↓kept_refuse, ↓State.kept_mk, ↓State.nf1, ↓State.nf2, ↓State.nf3, ↓State.nf4, ↓State.nf5, ↓State.nf6, ↓State.nf7]
    | dsimp only
    | split

theorem kept_execPowerMeasure (watts mean : Nat) (volts : List Byte) (s : State) (t : State) (h : execPowerMeasure watts mean volts s = .next t) : t.kept = s.kept := by
  unfold execPowerMeasure at h
  obtain rfl := Host.Outcome.next.inj h
  clear h
  repeat' first
    | with_reducible rfl
    | with_reducible refine kept_ite ?_ ?_
    | simp only [↓State.kept_mk, ↓State.nf1, ↓State.nf2, ↓State.nf3, ↓State.nf4, ↓State.nf5, ↓State.nf6, ↓State.nf7]
    | dsimp only
    | split

theorem kept_execGovernorStep (s : State) (t : State) (h : execGovernorStep s = .next t) : t.kept = s.kept := by
  unfold execGovernorStep at h
  obtain rfl := Host.Outcome.next.inj h
  clear h
  repeat' first
    | with_reducible rfl
    | with_reducible refine kept_ite ?_ ?_
    | simp only [↓kept_pwrEvent, ↓State.kept_mk, ↓State.nf1, ↓State.nf2, ↓State.nf3, ↓State.nf4, ↓State.nf5, ↓State.nf6, ↓State.nf7]
    | dsimp only
    | split

theorem kept_execThermalCheck (hottest inlet outlet : Nat) (s : State) (t : State) (h : execThermalCheck hottest inlet outlet s = .next t) : t.kept = s.kept := by
  unfold execThermalCheck at h
  obtain rfl := Host.Outcome.next.inj h
  clear h
  repeat' first
    | with_reducible rfl
    | with_reducible refine kept_ite ?_ ?_
    | simp only [↓kept_pwrEvent, ↓State.kept_mk, ↓State.nf1, ↓State.nf2, ↓State.nf3, ↓State.nf4, ↓State.nf5, ↓State.nf6, ↓State.nf7]
    | dsimp only
    | split

theorem kept_execThermalStop (die : Nat) (s : State) (t : State) (h : execThermalStop die s = .next t) : t.kept = s.kept := by
  unfold execThermalStop at h
  obtain rfl := Host.Outcome.next.inj h
  clear h
  repeat' first
    | with_reducible rfl
    | with_reducible refine kept_ite ?_ ?_
    | simp only [↓kept_raise, ↓kept_pwrEvent, ↓State.kept_mk, ↓State.nf1, ↓State.nf2, ↓State.nf3, ↓State.nf4, ↓State.nf5, ↓State.nf6, ↓State.nf7]
    | dsimp only
    | split

theorem kept_execThermalResume (die : Nat) (s : State) (t : State) (h : execThermalResume die s = .next t) : t.kept = s.kept := by
  unfold execThermalResume at h
  obtain rfl := Host.Outcome.next.inj h
  clear h
  repeat' first
    | with_reducible rfl
    | with_reducible refine kept_ite ?_ ?_
    | simp only [↓State.kept_mk, ↓State.nf1, ↓State.nf2, ↓State.nf3, ↓State.nf4, ↓State.nf5, ↓State.nf6, ↓State.nf7]
    | dsimp only
    | split

theorem kept_execRefclkLoss (s : State) (t : State) (h : execRefclkLoss s = .next t) : t.kept = s.kept := by
  unfold execRefclkLoss at h
  obtain rfl := Host.Outcome.next.inj h
  clear h
  repeat' first
    | with_reducible rfl
    | with_reducible refine kept_ite ?_ ?_
    | simp only [↓kept_raise, ↓kept_pwrEvent, ↓State.kept_mk, ↓State.nf1, ↓State.nf2, ↓State.nf3, ↓State.nf4, ↓State.nf5, ↓State.nf6, ↓State.nf7]
    | dsimp only
    | split

theorem kept_execRefclkRestore (s : State) (t : State) (h : execRefclkRestore s = .next t) : t.kept = s.kept := by
  unfold execRefclkRestore at h
  obtain rfl := Host.Outcome.next.inj h
  clear h
  repeat' first
    | with_reducible rfl
    | with_reducible refine kept_ite ?_ ?_
    | simp only [↓State.kept_mk, ↓State.nf1, ↓State.nf2, ↓State.nf3, ↓State.nf4, ↓State.nf5, ↓State.nf6, ↓State.nf7]
    | dsimp only
    | split

theorem kept_execTlsConnect (anchor : List Byte) (s : State) (t : State) (h : execTlsConnect anchor s = .next t) : t.kept = s.kept := by
  unfold execTlsConnect at h
  obtain rfl := Host.Outcome.next.inj h
  clear h
  repeat' first
    | with_reducible rfl
    | with_reducible refine kept_ite ?_ ?_
    | simp only [↓kept_modMbx, ↓State.kept_mk, ↓State.nf1, ↓State.nf2, ↓State.nf3, ↓State.nf4, ↓State.nf5, ↓State.nf6, ↓State.nf7]
    | dsimp only
    | split

theorem kept_execTlsClose (mbx : Nat) (s : State) (t : State) (h : execTlsClose mbx s = .next t) : t.kept = s.kept := by
  unfold execTlsClose at h
  obtain rfl := Host.Outcome.next.inj h
  clear h
  repeat' first
    | with_reducible rfl
    | with_reducible refine kept_ite ?_ ?_
    | simp only [↓kept_modMbx, ↓State.kept_mk, ↓State.nf1, ↓State.nf2, ↓State.nf3, ↓State.nf4, ↓State.nf5, ↓State.nf6, ↓State.nf7]
    | dsimp only
    | split

theorem kept_execMsgAttestQuote (mbx : Nat) (s : State) (t : State) (h : execMsgAttestQuote mbx s = .next t) : t.kept = s.kept := by
  unfold execMsgAttestQuote at h
  obtain rfl := Host.Outcome.next.inj h
  clear h
  repeat' first
    | with_reducible rfl
    | with_reducible refine kept_ite ?_ ?_
    | with_reducible refine kept_serve (fun _ _ => ?_) _
    | simp only [↓kept_answer, ↓kept_refuse, ↓kept_objWrite, ↓State.kept_mk, ↓State.nf1, ↓State.nf2, ↓State.nf3, ↓State.nf4, ↓State.nf5, ↓State.nf6, ↓State.nf7]
    | dsimp only
    | split

theorem kept_execMsgIdCert (mbx : Nat) (s : State) (t : State) (h : execMsgIdCert mbx s = .next t) : t.kept = s.kept := by
  unfold execMsgIdCert at h
  obtain rfl := Host.Outcome.next.inj h
  clear h
  repeat' first
    | with_reducible rfl
    | with_reducible refine kept_ite ?_ ?_
    | with_reducible refine kept_serve (fun _ _ => ?_) _
    | simp only [↓kept_answer, ↓kept_refuse, ↓kept_objWrite, ↓State.kept_mk, ↓State.nf1, ↓State.nf2, ↓State.nf3, ↓State.nf4, ↓State.nf5, ↓State.nf6, ↓State.nf7]
    | dsimp only
    | split

theorem kept_execMsgDebugChallenge (mbx : Nat) (s : State) (t : State) (h : execMsgDebugChallenge mbx s = .next t) : t.kept = s.kept := by
  unfold execMsgDebugChallenge at h
  obtain rfl := Host.Outcome.next.inj h
  clear h
  repeat' first
    | with_reducible rfl
    | with_reducible refine kept_ite ?_ ?_
    | with_reducible refine kept_serve (fun _ _ => ?_) _
    | simp only [↓kept_drawn, ↓kept_answer, ↓State.kept_mk, ↓State.nf1, ↓State.nf2, ↓State.nf3, ↓State.nf4, ↓State.nf5, ↓State.nf6, ↓State.nf7]
    | dsimp only
    | split

theorem kept_execMsgDebugUnlock (mbx : Nat) (s : State) (t : State) (h : execMsgDebugUnlock mbx s = .next t) : t.kept = s.kept := by
  unfold execMsgDebugUnlock at h
  obtain rfl := Host.Outcome.next.inj h
  clear h
  repeat' first
    | with_reducible rfl
    | with_reducible refine kept_ite ?_ ?_
    | with_reducible refine kept_serve (fun _ _ => ?_) _
    | simp only [↓kept_raise, ↓kept_answer, ↓kept_refuse, ↓State.kept_mk, ↓State.nf1, ↓State.nf2, ↓State.nf3, ↓State.nf4, ↓State.nf5, ↓State.nf6, ↓State.nf7]
    | dsimp only
    | split

theorem kept_execDebugChallengeExpiry (s : State) (t : State) (h : execDebugChallengeExpiry s = .next t) : t.kept = s.kept := by
  unfold execDebugChallengeExpiry at h
  obtain rfl := Host.Outcome.next.inj h
  clear h
  repeat' first
    | with_reducible rfl
    | with_reducible refine kept_ite ?_ ?_
    | simp only [↓State.kept_mk, ↓State.nf1, ↓State.nf2, ↓State.nf3, ↓State.nf4, ↓State.nf5, ↓State.nf6, ↓State.nf7]
    | dsimp only
    | split

theorem kept_execDebugUnlockExpiry (s : State) (t : State) (h : execDebugUnlockExpiry s = .next t) : t.kept = s.kept := by
  unfold execDebugUnlockExpiry at h
  obtain rfl := Host.Outcome.next.inj h
  clear h
  repeat' first
    | with_reducible rfl
    | with_reducible refine kept_ite ?_ ?_
    | simp only [↓State.kept_mk, ↓State.nf1, ↓State.nf2, ↓State.nf3, ↓State.nf4, ↓State.nf5, ↓State.nf6, ↓State.nf7]
    | dsimp only
    | split

theorem kept_execBootStatus (pec : Bool) (s : State) (t : State) (h : execBootStatus pec s = .next t) : t.kept = s.kept := by
  unfold execBootStatus at h
  obtain rfl := Host.Outcome.next.inj h
  clear h
  repeat' first
    | with_reducible rfl
    | with_reducible refine kept_ite ?_ ?_
    | simp only [↓kept_smbRead, ↓State.kept_mk, ↓State.nf1, ↓State.nf2, ↓State.nf3, ↓State.nf4, ↓State.nf5, ↓State.nf6, ↓State.nf7]
    | dsimp only
    | split

theorem kept_execBladeVolts (pec : Bool) (s : State) (t : State) (h : execBladeVolts pec s = .next t) : t.kept = s.kept := by
  unfold execBladeVolts at h
  obtain rfl := Host.Outcome.next.inj h
  clear h
  repeat' first
    | with_reducible rfl
    | with_reducible refine kept_ite ?_ ?_
    | simp only [↓kept_smbRead, ↓State.kept_mk, ↓State.nf1, ↓State.nf2, ↓State.nf3, ↓State.nf4, ↓State.nf5, ↓State.nf6, ↓State.nf7]
    | dsimp only
    | split

theorem kept_execThermal (pec : Bool) (s : State) (t : State) (h : execThermal pec s = .next t) : t.kept = s.kept := by
  unfold execThermal at h
  obtain rfl := Host.Outcome.next.inj h
  clear h
  repeat' first
    | with_reducible rfl
    | with_reducible refine kept_ite ?_ ?_
    | simp only [↓kept_smbRead, ↓State.kept_mk, ↓State.nf1, ↓State.nf2, ↓State.nf3, ↓State.nf4, ↓State.nf5, ↓State.nf6, ↓State.nf7]
    | dsimp only
    | split

theorem kept_execMgmtAddr (pec : Bool) (data : List Byte) (s : State) (t : State) (h : execMgmtAddr pec data s = .next t) : t.kept = s.kept := by
  unfold execMgmtAddr at h
  obtain rfl := Host.Outcome.next.inj h
  clear h
  repeat' first
    | with_reducible rfl
    | with_reducible refine kept_ite ?_ ?_
    | simp only [↓kept_smbAck, ↓kept_smbNack, ↓State.kept_mk, ↓State.nf1, ↓State.nf2, ↓State.nf3, ↓State.nf4, ↓State.nf5, ↓State.nf6, ↓State.nf7]
    | dsimp only
    | split

theorem kept_execXferData (pec : Bool) (data : List Byte) (s : State) (t : State) (h : execXferData pec data s = .next t) : t.kept = s.kept := by
  unfold execXferData at h
  obtain rfl := Host.Outcome.next.inj h
  clear h
  repeat' first
    | with_reducible rfl
    | with_reducible refine kept_ite ?_ ?_
    | simp only [↓kept_smbAck, ↓kept_smbNack, ↓State.kept_mk, ↓State.nf1, ↓State.nf2, ↓State.nf3, ↓State.nf4, ↓State.nf5, ↓State.nf6, ↓State.nf7]
    | dsimp only
    | split

theorem kept_execSmbAlertResponse (pec : Bool) (s : State) (t : State) (h : execSmbAlertResponse pec s = .next t) : t.kept = s.kept := by
  unfold execSmbAlertResponse at h
  obtain rfl := Host.Outcome.next.inj h
  clear h
  repeat' first
    | with_reducible rfl
    | with_reducible refine kept_ite ?_ ?_
    | simp only [↓kept_smbOut, ↓kept_smbNack, ↓State.kept_mk, ↓State.nf1, ↓State.nf2, ↓State.nf3, ↓State.nf4, ↓State.nf5, ↓State.nf6, ↓State.nf7]
    | dsimp only
    | split

theorem kept_execVnop (b : Slot) (s : State) (t : State) (h : execVnop b s = .next t) : t.kept = s.kept := by
  unfold execVnop at h
  obtain rfl := Host.Outcome.next.inj h
  clear h
  repeat' first
    | with_reducible rfl
    | with_reducible refine kept_ite ?_ ?_
    | simp only [↓kept_slotOp, ↓State.kept_mk, ↓State.nf1, ↓State.nf2, ↓State.nf3, ↓State.nf4, ↓State.nf5, ↓State.nf6, ↓State.nf7]
    | dsimp only
    | split

theorem kept_execVadd (b : Slot) (vd va vb : BitVec 6) (ty : VTy) (s : State) (t : State) (h : execVadd b vd va vb ty s = .next t) : t.kept = s.kept := by
  unfold execVadd at h
  obtain rfl := Host.Outcome.next.inj h
  clear h
  repeat' first
    | with_reducible rfl
    | with_reducible refine kept_ite ?_ ?_
    | simp only [↓kept_vecOp, ↓State.kept_mk, ↓State.nf1, ↓State.nf2, ↓State.nf3, ↓State.nf4, ↓State.nf5, ↓State.nf6, ↓State.nf7]
    | dsimp only
    | split

theorem kept_execVsub (b : Slot) (vd va vb : BitVec 6) (ty : VTy) (s : State) (t : State) (h : execVsub b vd va vb ty s = .next t) : t.kept = s.kept := by
  unfold execVsub at h
  obtain rfl := Host.Outcome.next.inj h
  clear h
  repeat' first
    | with_reducible rfl
    | with_reducible refine kept_ite ?_ ?_
    | simp only [↓kept_vecOp, ↓State.kept_mk, ↓State.nf1, ↓State.nf2, ↓State.nf3, ↓State.nf4, ↓State.nf5, ↓State.nf6, ↓State.nf7]
    | dsimp only
    | split

theorem kept_execVmul (b : Slot) (vd va vb : BitVec 6) (ty : VTy) (s : State) (t : State) (h : execVmul b vd va vb ty s = .next t) : t.kept = s.kept := by
  unfold execVmul at h
  obtain rfl := Host.Outcome.next.inj h
  clear h
  repeat' first
    | with_reducible rfl
    | with_reducible refine kept_ite ?_ ?_
    | simp only [↓kept_vecOp, ↓State.kept_mk, ↓State.nf1, ↓State.nf2, ↓State.nf3, ↓State.nf4, ↓State.nf5, ↓State.nf6, ↓State.nf7]
    | dsimp only
    | split

theorem kept_execVfma (b : Slot) (vd va vb vc : BitVec 6) (ty : VTy) (s : State) (t : State) (h : execVfma b vd va vb vc ty s = .next t) : t.kept = s.kept := by
  unfold execVfma at h
  obtain rfl := Host.Outcome.next.inj h
  clear h
  repeat' first
    | with_reducible rfl
    | with_reducible refine kept_ite ?_ ?_
    | simp only [↓kept_workOp, ↓State.kept_mk, ↓State.nf1, ↓State.nf2, ↓State.nf3, ↓State.nf4, ↓State.nf5, ↓State.nf6, ↓State.nf7]
    | dsimp only
    | split

theorem kept_execVmax (b : Slot) (vd va vb : BitVec 6) (ty : VTy) (s : State) (t : State) (h : execVmax b vd va vb ty s = .next t) : t.kept = s.kept := by
  unfold execVmax at h
  obtain rfl := Host.Outcome.next.inj h
  clear h
  repeat' first
    | with_reducible rfl
    | with_reducible refine kept_ite ?_ ?_
    | simp only [↓kept_vecOp, ↓State.kept_mk, ↓State.nf1, ↓State.nf2, ↓State.nf3, ↓State.nf4, ↓State.nf5, ↓State.nf6, ↓State.nf7]
    | dsimp only
    | split

theorem kept_execVmin (b : Slot) (vd va vb : BitVec 6) (ty : VTy) (s : State) (t : State) (h : execVmin b vd va vb ty s = .next t) : t.kept = s.kept := by
  unfold execVmin at h
  obtain rfl := Host.Outcome.next.inj h
  clear h
  repeat' first
    | with_reducible rfl
    | with_reducible refine kept_ite ?_ ?_
    | simp only [↓kept_vecOp, ↓State.kept_mk, ↓State.nf1, ↓State.nf2, ↓State.nf3, ↓State.nf4, ↓State.nf5, ↓State.nf6, ↓State.nf7]
    | dsimp only
    | split

theorem kept_execVabs (b : Slot) (vd va : BitVec 6) (ty : VTy) (s : State) (t : State) (h : execVabs b vd va ty s = .next t) : t.kept = s.kept := by
  unfold execVabs at h
  obtain rfl := Host.Outcome.next.inj h
  clear h
  repeat' first
    | with_reducible rfl
    | with_reducible refine kept_ite ?_ ?_
    | simp only [↓kept_vecOp, ↓State.kept_mk, ↓State.nf1, ↓State.nf2, ↓State.nf3, ↓State.nf4, ↓State.nf5, ↓State.nf6, ↓State.nf7]
    | dsimp only
    | split

theorem kept_execVneg (b : Slot) (vd va : BitVec 6) (ty : VTy) (s : State) (t : State) (h : execVneg b vd va ty s = .next t) : t.kept = s.kept := by
  unfold execVneg at h
  obtain rfl := Host.Outcome.next.inj h
  clear h
  repeat' first
    | with_reducible rfl
    | with_reducible refine kept_ite ?_ ?_
    | simp only [↓kept_vecOp, ↓State.kept_mk, ↓State.nf1, ↓State.nf2, ↓State.nf3, ↓State.nf4, ↓State.nf5, ↓State.nf6, ↓State.nf7]
    | dsimp only
    | split

theorem kept_execVcmp (b : Slot) (vd va vb : BitVec 6) (cond : BitVec 2) (ty : VTy) (s : State) (t : State) (h : execVcmp b vd va vb cond ty s = .next t) : t.kept = s.kept := by
  unfold execVcmp at h
  obtain rfl := Host.Outcome.next.inj h
  clear h
  repeat' first
    | with_reducible rfl
    | with_reducible refine kept_ite ?_ ?_
    | simp only [↓kept_vecOp, ↓State.kept_mk, ↓State.nf1, ↓State.nf2, ↓State.nf3, ↓State.nf4, ↓State.nf5, ↓State.nf6, ↓State.nf7]
    | dsimp only
    | split

theorem kept_execVsel (b : Slot) (vd va vb vc : BitVec 6) (ty : VTy) (s : State) (t : State) (h : execVsel b vd va vb vc ty s = .next t) : t.kept = s.kept := by
  unfold execVsel at h
  obtain rfl := Host.Outcome.next.inj h
  clear h
  repeat' first
    | with_reducible rfl
    | with_reducible refine kept_ite ?_ ?_
    | simp only [↓kept_vecOp, ↓State.kept_mk, ↓State.nf1, ↓State.nf2, ↓State.nf3, ↓State.nf4, ↓State.nf5, ↓State.nf6, ↓State.nf7]
    | dsimp only
    | split

theorem kept_execVand (b : Slot) (vd va vb : BitVec 6) (s : State) (t : State) (h : execVand b vd va vb s = .next t) : t.kept = s.kept := by
  unfold execVand at h
  obtain rfl := Host.Outcome.next.inj h
  clear h
  repeat' first
    | with_reducible rfl
    | with_reducible refine kept_ite ?_ ?_
    | simp only [↓kept_vecOp, ↓State.kept_mk, ↓State.nf1, ↓State.nf2, ↓State.nf3, ↓State.nf4, ↓State.nf5, ↓State.nf6, ↓State.nf7]
    | dsimp only
    | split

theorem kept_execVor (b : Slot) (vd va vb : BitVec 6) (s : State) (t : State) (h : execVor b vd va vb s = .next t) : t.kept = s.kept := by
  unfold execVor at h
  obtain rfl := Host.Outcome.next.inj h
  clear h
  repeat' first
    | with_reducible rfl
    | with_reducible refine kept_ite ?_ ?_
    | simp only [↓kept_vecOp, ↓State.kept_mk, ↓State.nf1, ↓State.nf2, ↓State.nf3, ↓State.nf4, ↓State.nf5, ↓State.nf6, ↓State.nf7]
    | dsimp only
    | split

theorem kept_execVxor (b : Slot) (vd va vb : BitVec 6) (s : State) (t : State) (h : execVxor b vd va vb s = .next t) : t.kept = s.kept := by
  unfold execVxor at h
  obtain rfl := Host.Outcome.next.inj h
  clear h
  repeat' first
    | with_reducible rfl
    | with_reducible refine kept_ite ?_ ?_
    | simp only [↓kept_vecOp, ↓State.kept_mk, ↓State.nf1, ↓State.nf2, ↓State.nf3, ↓State.nf4, ↓State.nf5, ↓State.nf6, ↓State.nf7]
    | dsimp only
    | split

theorem kept_execVshf (b : Slot) (vd va vb : BitVec 6) (s : State) (t : State) (h : execVshf b vd va vb s = .next t) : t.kept = s.kept := by
  unfold execVshf at h
  obtain rfl := Host.Outcome.next.inj h
  clear h
  repeat' first
    | with_reducible rfl
    | with_reducible refine kept_ite ?_ ?_
    | simp only [↓kept_vecOp, ↓State.kept_mk, ↓State.nf1, ↓State.nf2, ↓State.nf3, ↓State.nf4, ↓State.nf5, ↓State.nf6, ↓State.nf7]
    | dsimp only
    | split

theorem kept_execVspl (b : Slot) (vd : BitVec 6) (sa : BitVec 4) (s : State) (t : State) (h : execVspl b vd sa s = .next t) : t.kept = s.kept := by
  unfold execVspl at h
  obtain rfl := Host.Outcome.next.inj h
  clear h
  repeat' first
    | with_reducible rfl
    | with_reducible refine kept_ite ?_ ?_
    | simp only [↓kept_vecOp, ↓State.kept_mk, ↓State.nf1, ↓State.nf2, ↓State.nf3, ↓State.nf4, ↓State.nf5, ↓State.nf6, ↓State.nf7]
    | dsimp only
    | split

theorem kept_execVget (b : Slot) (sd : BitVec 4) (va vb : BitVec 6) (half : Bool) (s : State) (t : State) (h : execVget b sd va vb half s = .next t) : t.kept = s.kept := by
  unfold execVget at h
  obtain rfl := Host.Outcome.next.inj h
  clear h
  repeat' first
    | with_reducible rfl
    | with_reducible refine kept_ite ?_ ?_
    | simp only [↓kept_slotOp, ↓State.kept_mk, ↓State.nf1, ↓State.nf2, ↓State.nf3, ↓State.nf4, ↓State.nf5, ↓State.nf6, ↓State.nf7]
    | dsimp only
    | split

theorem kept_execVcvt (b : Slot) (vd va : BitVec 6) (src : VTy) (mode : BitVec 2) (ty : VTy) (s : State) (t : State) (h : execVcvt b vd va src mode ty s = .next t) : t.kept = s.kept := by
  unfold execVcvt at h
  obtain rfl := Host.Outcome.next.inj h
  clear h
  repeat' first
    | with_reducible rfl
    | with_reducible refine kept_ite ?_ ?_
    | simp only [↓kept_slotOp, ↓State.kept_mk, ↓State.nf1, ↓State.nf2, ↓State.nf3, ↓State.nf4, ↓State.nf5, ↓State.nf6, ↓State.nf7]
    | dsimp only
    | split

theorem kept_execVqnt (b : Slot) (vd va : BitVec 6) (fmt : BitVec 4) (s : State) (t : State) (h : execVqnt b vd va fmt s = .next t) : t.kept = s.kept := by
  unfold execVqnt at h
  obtain rfl := Host.Outcome.next.inj h
  clear h
  repeat' first
    | with_reducible rfl
    | with_reducible refine kept_ite ?_ ?_
    | with_reducible refine (kept_foldl (fun _ _ => ?_) _ _).trans ?_
    | with_reducible refine (kept_foldp (fun _ _ => ?_) _ _).trans ?_
    | simp only [↓kept_slotOp, ↓State.kept_mk, ↓State.nf1, ↓State.nf2, ↓State.nf3, ↓State.nf4, ↓State.nf5, ↓State.nf6, ↓State.nf7]
    | dsimp only
    | split

theorem kept_execVrsum (b : Slot) (vd va : BitVec 6) (whole : Bool) (ty : VTy) (s : State) (t : State) (h : execVrsum b vd va whole ty s = .next t) : t.kept = s.kept := by
  unfold execVrsum at h
  obtain rfl := Host.Outcome.next.inj h
  clear h
  repeat' first
    | with_reducible rfl
    | with_reducible refine kept_ite ?_ ?_
    | simp only [↓kept_vecOp, ↓State.kept_mk, ↓State.nf1, ↓State.nf2, ↓State.nf3, ↓State.nf4, ↓State.nf5, ↓State.nf6, ↓State.nf7]
    | dsimp only
    | split

theorem kept_execVrmax (b : Slot) (vd va : BitVec 6) (whole : Bool) (ty : VTy) (s : State) (t : State) (h : execVrmax b vd va whole ty s = .next t) : t.kept = s.kept := by
  unfold execVrmax at h
  obtain rfl := Host.Outcome.next.inj h
  clear h
  repeat' first
    | with_reducible rfl
    | with_reducible refine kept_ite ?_ ?_
    | simp only [↓kept_vecOp, ↓State.kept_mk, ↓State.nf1, ↓State.nf2, ↓State.nf3, ↓State.nf4, ↓State.nf5, ↓State.nf6, ↓State.nf7]
    | dsimp only
    | split

theorem kept_execVld (b : Slot) (vd : BitVec 6) (sa : BitVec 4) (off : BitVec 6) (s : State) (t : State) (h : execVld b vd sa off s = .next t) : t.kept = s.kept := by
  unfold execVld at h
  obtain rfl := Host.Outcome.next.inj h
  clear h
  repeat' first
    | with_reducible rfl
    | with_reducible refine kept_ite ?_ ?_
    | simp only [↓kept_slotOp, ↓State.kept_mk, ↓State.nf1, ↓State.nf2, ↓State.nf3, ↓State.nf4, ↓State.nf5, ↓State.nf6, ↓State.nf7]
    | dsimp only
    | split

theorem kept_execVst (b : Slot) (vd : BitVec 6) (sa : BitVec 4) (off : BitVec 6) (s : State) (t : State) (h : execVst b vd sa off s = .next t) : t.kept = s.kept := by
  unfold execVst at h
  obtain rfl := Host.Outcome.next.inj h
  clear h
  repeat' first
    | with_reducible rfl
    | with_reducible refine kept_ite ?_ ?_
    | simp only [↓kept_slotOp, ↓State.kept_mk, ↓State.nf1, ↓State.nf2, ↓State.nf3, ↓State.nf4, ↓State.nf5, ↓State.nf6, ↓State.nf7]
    | dsimp only
    | split

theorem kept_execVlda (b : Slot) (vd : BitVec 6) (sa : BitVec 4) (off : BitVec 6) (s : State) (t : State) (h : execVlda b vd sa off s = .next t) : t.kept = s.kept := by
  unfold execVlda at h
  obtain rfl := Host.Outcome.next.inj h
  clear h
  repeat' first
    | with_reducible rfl
    | with_reducible refine kept_ite ?_ ?_
    | simp only [↓kept_slotOp, ↓State.kept_mk, ↓State.nf1, ↓State.nf2, ↓State.nf3, ↓State.nf4, ↓State.nf5, ↓State.nf6, ↓State.nf7]
    | dsimp only
    | split

theorem kept_execVsta (b : Slot) (vd : BitVec 6) (sa : BitVec 4) (off : BitVec 6) (s : State) (t : State) (h : execVsta b vd sa off s = .next t) : t.kept = s.kept := by
  unfold execVsta at h
  obtain rfl := Host.Outcome.next.inj h
  clear h
  repeat' first
    | with_reducible rfl
    | with_reducible refine kept_ite ?_ ?_
    | simp only [↓kept_slotOp, ↓State.kept_mk, ↓State.nf1, ↓State.nf2, ↓State.nf3, ↓State.nf4, ↓State.nf5, ↓State.nf6, ↓State.nf7]
    | dsimp only
    | split

theorem kept_execMsgUpdPlan (mbx : Nat) (s : State) (t : State) (h : execMsgUpdPlan mbx s = .next t) : t.kept = s.kept := by
  unfold execMsgUpdPlan at h
  obtain rfl := Host.Outcome.next.inj h
  clear h
  repeat' first
    | with_reducible rfl
    | with_reducible refine kept_ite ?_ ?_
    | with_reducible refine kept_serve (fun _ _ => ?_) _
    | with_reducible refine (kept_foldl (fun _ _ => ?_) _ _).trans ?_
    | with_reducible refine (kept_foldp (fun _ _ => ?_) _ _).trans ?_
    | simp only [↓kept_answer, ↓kept_objRead, ↓kept_resetStats, ↓State.kept_mk, ↓State.nf1, ↓State.nf2, ↓State.nf3, ↓State.nf4, ↓State.nf5, ↓State.nf6, ↓State.nf7]
    | dsimp only
    | split

theorem kept_execMsgUpdStep (mbx : Nat) (s : State) (t : State) (h : execMsgUpdStep mbx s = .next t) : t.kept = s.kept := by
  unfold execMsgUpdStep at h
  obtain rfl := Host.Outcome.next.inj h
  clear h
  repeat' first
    | with_reducible rfl
    | with_reducible refine kept_ite ?_ ?_
    | with_reducible refine kept_serve (fun _ _ => ?_) _
    | simp only [↓kept_refuse, ↓kept_mark, ↓kept_setPlan, ↓State.kept_mk, ↓State.nf1, ↓State.nf2, ↓State.nf3, ↓State.nf4, ↓State.nf5, ↓State.nf6, ↓State.nf7]
    | dsimp only
    | split

theorem kept_execUpdateStepEffect (plan : Nat) (s : State) (t : State) (h : execUpdateStepEffect plan s = .next t) : t.kept = s.kept := by
  unfold execUpdateStepEffect at h
  obtain rfl := Host.Outcome.next.inj h
  clear h
  repeat' first
    | with_reducible rfl
    | with_reducible refine kept_ite ?_ ?_
    | simp only [↓kept_mark, ↓kept_setPlan, ↓kept_answerUpd, ↓kept_settleRelease, ↓kept_readMasks, ↓State.kept_mk, ↓State.nf1, ↓State.nf2, ↓State.nf3, ↓State.nf4, ↓State.nf5, ↓State.nf6, ↓State.nf7]
    | dsimp only
    | split

theorem kept_execMsgUpdQuery (mbx : Nat) (s : State) (t : State) (h : execMsgUpdQuery mbx s = .next t) : t.kept = s.kept := by
  unfold execMsgUpdQuery at h
  obtain rfl := Host.Outcome.next.inj h
  clear h
  repeat' first
    | with_reducible rfl
    | with_reducible refine kept_ite ?_ ?_
    | with_reducible refine kept_serve (fun _ _ => ?_) _
    | simp only [↓kept_answer, ↓kept_refuse, ↓State.kept_mk, ↓State.nf1, ↓State.nf2, ↓State.nf3, ↓State.nf4, ↓State.nf5, ↓State.nf6, ↓State.nf7]
    | dsimp only
    | split

theorem kept_execMsgUpdRelease (mbx : Nat) (s : State) (t : State) (h : execMsgUpdRelease mbx s = .next t) : t.kept = s.kept := by
  unfold execMsgUpdRelease at h
  obtain rfl := Host.Outcome.next.inj h
  clear h
  repeat' first
    | with_reducible rfl
    | with_reducible refine kept_ite ?_ ?_
    | with_reducible refine kept_serve (fun _ _ => ?_) _
    | simp only [↓kept_refuse, ↓kept_setPlan, ↓kept_settleRelease, ↓State.kept_mk, ↓State.nf1, ↓State.nf2, ↓State.nf3, ↓State.nf4, ↓State.nf5, ↓State.nf6, ↓State.nf7]
    | dsimp only
    | split

theorem kept_execMsgRegRead (mbx : Nat) (s : State) (t : State) (h : execMsgRegRead mbx s = .next t) : t.kept = s.kept := by
  unfold execMsgRegRead at h
  obtain rfl := Host.Outcome.next.inj h
  clear h
  repeat' first
    | with_reducible rfl
    | with_reducible refine kept_ite ?_ ?_
    | with_reducible refine kept_serve (fun _ _ => ?_) _
    | simp only [↓kept_answer, ↓kept_refuse, ↓State.kept_mk, ↓State.nf1, ↓State.nf2, ↓State.nf3, ↓State.nf4, ↓State.nf5, ↓State.nf6, ↓State.nf7]
    | dsimp only
    | split

theorem kept_execSnop (b : Slot) (s : State) (t : State) (h : execSnop b s = .next t) : t.kept = s.kept := by
  unfold execSnop at h
  obtain rfl := Host.Outcome.next.inj h
  clear h
  repeat' first
    | with_reducible rfl
    | with_reducible refine kept_ite ?_ ?_
    | simp only [↓kept_slotOp, ↓State.kept_mk, ↓State.nf1, ↓State.nf2, ↓State.nf3, ↓State.nf4, ↓State.nf5, ↓State.nf6, ↓State.nf7]
    | dsimp only
    | split

theorem kept_execSadd (b : Slot) (sd sa sb : BitVec 4) (s : State) (t : State) (h : execSadd b sd sa sb s = .next t) : t.kept = s.kept := by
  unfold execSadd at h
  obtain rfl := Host.Outcome.next.inj h
  clear h
  repeat' first
    | with_reducible rfl
    | with_reducible refine kept_ite ?_ ?_
    | simp only [↓kept_scalarOp, ↓State.kept_mk, ↓State.nf1, ↓State.nf2, ↓State.nf3, ↓State.nf4, ↓State.nf5, ↓State.nf6, ↓State.nf7]
    | dsimp only
    | split

theorem kept_execSsub (b : Slot) (sd sa sb : BitVec 4) (s : State) (t : State) (h : execSsub b sd sa sb s = .next t) : t.kept = s.kept := by
  unfold execSsub at h
  obtain rfl := Host.Outcome.next.inj h
  clear h
  repeat' first
    | with_reducible rfl
    | with_reducible refine kept_ite ?_ ?_
    | simp only [↓kept_scalarOp, ↓State.kept_mk, ↓State.nf1, ↓State.nf2, ↓State.nf3, ↓State.nf4, ↓State.nf5, ↓State.nf6, ↓State.nf7]
    | dsimp only
    | split

theorem kept_execSaddi (b : Slot) (sd sa : BitVec 4) (imm : BitVec 7) (s : State) (t : State) (h : execSaddi b sd sa imm s = .next t) : t.kept = s.kept := by
  unfold execSaddi at h
  obtain rfl := Host.Outcome.next.inj h
  clear h
  repeat' first
    | with_reducible rfl
    | with_reducible refine kept_ite ?_ ?_
    | simp only [↓kept_scalarOp, ↓State.kept_mk, ↓State.nf1, ↓State.nf2, ↓State.nf3, ↓State.nf4, ↓State.nf5, ↓State.nf6, ↓State.nf7]
    | dsimp only
    | split

theorem kept_execSand (b : Slot) (sd sa sb : BitVec 4) (s : State) (t : State) (h : execSand b sd sa sb s = .next t) : t.kept = s.kept := by
  unfold execSand at h
  obtain rfl := Host.Outcome.next.inj h
  clear h
  repeat' first
    | with_reducible rfl
    | with_reducible refine kept_ite ?_ ?_
    | simp only [↓kept_scalarOp, ↓State.kept_mk, ↓State.nf1, ↓State.nf2, ↓State.nf3, ↓State.nf4, ↓State.nf5, ↓State.nf6, ↓State.nf7]
    | dsimp only
    | split

theorem kept_execSor (b : Slot) (sd sa sb : BitVec 4) (s : State) (t : State) (h : execSor b sd sa sb s = .next t) : t.kept = s.kept := by
  unfold execSor at h
  obtain rfl := Host.Outcome.next.inj h
  clear h
  repeat' first
    | with_reducible rfl
    | with_reducible refine kept_ite ?_ ?_
    | simp only [↓kept_scalarOp, ↓State.kept_mk, ↓State.nf1, ↓State.nf2, ↓State.nf3, ↓State.nf4, ↓State.nf5, ↓State.nf6, ↓State.nf7]
    | dsimp only
    | split

theorem kept_execSxor (b : Slot) (sd sa sb : BitVec 4) (s : State) (t : State) (h : execSxor b sd sa sb s = .next t) : t.kept = s.kept := by
  unfold execSxor at h
  obtain rfl := Host.Outcome.next.inj h
  clear h
  repeat' first
    | with_reducible rfl
    | with_reducible refine kept_ite ?_ ?_
    | simp only [↓kept_scalarOp, ↓State.kept_mk, ↓State.nf1, ↓State.nf2, ↓State.nf3, ↓State.nf4, ↓State.nf5, ↓State.nf6, ↓State.nf7]
    | dsimp only
    | split

theorem kept_execSshl (b : Slot) (sd sa sb : BitVec 4) (s : State) (t : State) (h : execSshl b sd sa sb s = .next t) : t.kept = s.kept := by
  unfold execSshl at h
  obtain rfl := Host.Outcome.next.inj h
  clear h
  repeat' first
    | with_reducible rfl
    | with_reducible refine kept_ite ?_ ?_
    | simp only [↓kept_scalarOp, ↓State.kept_mk, ↓State.nf1, ↓State.nf2, ↓State.nf3, ↓State.nf4, ↓State.nf5, ↓State.nf6, ↓State.nf7]
    | dsimp only
    | split

theorem kept_execSshr (b : Slot) (sd sa sb : BitVec 4) (s : State) (t : State) (h : execSshr b sd sa sb s = .next t) : t.kept = s.kept := by
  unfold execSshr at h
  obtain rfl := Host.Outcome.next.inj h
  clear h
  repeat' first
    | with_reducible rfl
    | with_reducible refine kept_ite ?_ ?_
    | simp only [↓kept_scalarOp, ↓State.kept_mk, ↓State.nf1, ↓State.nf2, ↓State.nf3, ↓State.nf4, ↓State.nf5, ↓State.nf6, ↓State.nf7]
    | dsimp only
    | split

theorem kept_execSsra (b : Slot) (sd sa sb : BitVec 4) (s : State) (t : State) (h : execSsra b sd sa sb s = .next t) : t.kept = s.kept := by
  unfold execSsra at h
  obtain rfl := Host.Outcome.next.inj h
  clear h
  repeat' first
    | with_reducible rfl
    | with_reducible refine kept_ite ?_ ?_
    | simp only [↓kept_scalarOp, ↓State.kept_mk, ↓State.nf1, ↓State.nf2, ↓State.nf3, ↓State.nf4, ↓State.nf5, ↓State.nf6, ↓State.nf7]
    | dsimp only
    | split

theorem kept_execSshli (b : Slot) (sd sa : BitVec 4) (imm : BitVec 7) (s : State) (t : State) (h : execSshli b sd sa imm s = .next t) : t.kept = s.kept := by
  unfold execSshli at h
  obtain rfl := Host.Outcome.next.inj h
  clear h
  repeat' first
    | with_reducible rfl
    | with_reducible refine kept_ite ?_ ?_
    | simp only [↓kept_scalarOp, ↓State.kept_mk, ↓State.nf1, ↓State.nf2, ↓State.nf3, ↓State.nf4, ↓State.nf5, ↓State.nf6, ↓State.nf7]
    | dsimp only
    | split

theorem kept_execSmul (b : Slot) (sd sa sb : BitVec 4) (s : State) (t : State) (h : execSmul b sd sa sb s = .next t) : t.kept = s.kept := by
  unfold execSmul at h
  obtain rfl := Host.Outcome.next.inj h
  clear h
  repeat' first
    | with_reducible rfl
    | with_reducible refine kept_ite ?_ ?_
    | simp only [↓kept_scalarOp, ↓State.kept_mk, ↓State.nf1, ↓State.nf2, ↓State.nf3, ↓State.nf4, ↓State.nf5, ↓State.nf6, ↓State.nf7]
    | dsimp only
    | split

theorem kept_execSmin (b : Slot) (sd sa sb : BitVec 4) (s : State) (t : State) (h : execSmin b sd sa sb s = .next t) : t.kept = s.kept := by
  unfold execSmin at h
  obtain rfl := Host.Outcome.next.inj h
  clear h
  repeat' first
    | with_reducible rfl
    | with_reducible refine kept_ite ?_ ?_
    | simp only [↓kept_scalarOp, ↓State.kept_mk, ↓State.nf1, ↓State.nf2, ↓State.nf3, ↓State.nf4, ↓State.nf5, ↓State.nf6, ↓State.nf7]
    | dsimp only
    | split

theorem kept_execSmax (b : Slot) (sd sa sb : BitVec 4) (s : State) (t : State) (h : execSmax b sd sa sb s = .next t) : t.kept = s.kept := by
  unfold execSmax at h
  obtain rfl := Host.Outcome.next.inj h
  clear h
  repeat' first
    | with_reducible rfl
    | with_reducible refine kept_ite ?_ ?_
    | simp only [↓kept_scalarOp, ↓State.kept_mk, ↓State.nf1, ↓State.nf2, ↓State.nf3, ↓State.nf4, ↓State.nf5, ↓State.nf6, ↓State.nf7]
    | dsimp only
    | split

theorem kept_execSslt (b : Slot) (sd sa sb : BitVec 4) (s : State) (t : State) (h : execSslt b sd sa sb s = .next t) : t.kept = s.kept := by
  unfold execSslt at h
  obtain rfl := Host.Outcome.next.inj h
  clear h
  repeat' first
    | with_reducible rfl
    | with_reducible refine kept_ite ?_ ?_
    | simp only [↓kept_scalarOp, ↓State.kept_mk, ↓State.nf1, ↓State.nf2, ↓State.nf3, ↓State.nf4, ↓State.nf5, ↓State.nf6, ↓State.nf7]
    | dsimp only
    | split

theorem kept_execSli (b : Slot) (sd : BitVec 4) (imm : BitVec 11) (s : State) (t : State) (h : execSli b sd imm s = .next t) : t.kept = s.kept := by
  unfold execSli at h
  obtain rfl := Host.Outcome.next.inj h
  clear h
  repeat' first
    | with_reducible rfl
    | with_reducible refine kept_ite ?_ ?_
    | simp only [↓kept_scalarOp, ↓State.kept_mk, ↓State.nf1, ↓State.nf2, ↓State.nf3, ↓State.nf4, ↓State.nf5, ↓State.nf6, ↓State.nf7]
    | dsimp only
    | split

theorem kept_execSlis (b : Slot) (sd : BitVec 4) (imm : BitVec 11) (s : State) (t : State) (h : execSlis b sd imm s = .next t) : t.kept = s.kept := by
  unfold execSlis at h
  obtain rfl := Host.Outcome.next.inj h
  clear h
  repeat' first
    | with_reducible rfl
    | with_reducible refine kept_ite ?_ ?_
    | simp only [↓kept_scalarOp, ↓State.kept_mk, ↓State.nf1, ↓State.nf2, ↓State.nf3, ↓State.nf4, ↓State.nf5, ↓State.nf6, ↓State.nf7]
    | dsimp only
    | split

theorem kept_execSbrz (b : Slot) (sr : BitVec 4) (imm : BitVec 11) (s : State) (t : State) (h : execSbrz b sr imm s = .next t) : t.kept = s.kept := by
  unfold execSbrz at h
  obtain rfl := Host.Outcome.next.inj h
  clear h
  repeat' first
    | with_reducible rfl
    | with_reducible refine kept_ite ?_ ?_
    | simp only [↓kept_branchOp, ↓State.kept_mk, ↓State.nf1, ↓State.nf2, ↓State.nf3, ↓State.nf4, ↓State.nf5, ↓State.nf6, ↓State.nf7]
    | dsimp only
    | split

theorem kept_execSbrnz (b : Slot) (sr : BitVec 4) (imm : BitVec 11) (s : State) (t : State) (h : execSbrnz b sr imm s = .next t) : t.kept = s.kept := by
  unfold execSbrnz at h
  obtain rfl := Host.Outcome.next.inj h
  clear h
  repeat' first
    | with_reducible rfl
    | with_reducible refine kept_ite ?_ ?_
    | simp only [↓kept_branchOp, ↓State.kept_mk, ↓State.nf1, ↓State.nf2, ↓State.nf3, ↓State.nf4, ↓State.nf5, ↓State.nf6, ↓State.nf7]
    | dsimp only
    | split

theorem kept_execSjmp (b : Slot) (imm : BitVec 11) (s : State) (t : State) (h : execSjmp b imm s = .next t) : t.kept = s.kept := by
  unfold execSjmp at h
  obtain rfl := Host.Outcome.next.inj h
  clear h
  repeat' first
    | with_reducible rfl
    | with_reducible refine kept_ite ?_ ?_
    | simp only [↓kept_branchOp, ↓State.kept_mk, ↓State.nf1, ↓State.nf2, ↓State.nf3, ↓State.nf4, ↓State.nf5, ↓State.nf6, ↓State.nf7]
    | dsimp only
    | split

theorem kept_execSloop (b : Slot) (lc : BitVec 3) (sc : BitVec 4) (e : BitVec 8) (s : State) (t : State) (h : execSloop b lc sc e s = .next t) : t.kept = s.kept := by
  unfold execSloop at h
  obtain rfl := Host.Outcome.next.inj h
  clear h
  repeat' first
    | with_reducible rfl
    | with_reducible refine kept_ite ?_ ?_
    | simp only [↓kept_slotOp, ↓State.kept_mk, ↓State.nf1, ↓State.nf2, ↓State.nf3, ↓State.nf4, ↓State.nf5, ↓State.nf6, ↓State.nf7]
    | dsimp only
    | split

theorem kept_execSrd (b : Slot) (sd : BitVec 4) (src : BitVec 7) (s : State) (t : State) (h : execSrd b sd src s = .next t) : t.kept = s.kept := by
  unfold execSrd at h
  obtain rfl := Host.Outcome.next.inj h
  clear h
  repeat' first
    | with_reducible rfl
    | with_reducible refine kept_ite ?_ ?_
    | simp only [↓kept_scalarOp, ↓State.kept_mk, ↓State.nf1, ↓State.nf2, ↓State.nf3, ↓State.nf4, ↓State.nf5, ↓State.nf6, ↓State.nf7]
    | dsimp only
    | split

theorem kept_execScsr (b : Slot) (reg : BitVec 7) (sa : BitVec 4) (s : State) (t : State) (h : execScsr b reg sa s = .next t) : t.kept = s.kept := by
  unfold execScsr at h
  obtain rfl := Host.Outcome.next.inj h
  clear h
  repeat' first
    | with_reducible rfl
    | with_reducible refine kept_ite ?_ ?_
    | simp only [↓kept_slotOp, ↓State.kept_mk, ↓State.nf1, ↓State.nf2, ↓State.nf3, ↓State.nf4, ↓State.nf5, ↓State.nf6, ↓State.nf7]
    | dsimp only
    | split

theorem kept_execSsig (b : Slot) (sa : BitVec 4) (s : State) (t : State) (h : execSsig b sa s = .next t) : t.kept = s.kept := by
  unfold execSsig at h
  obtain rfl := Host.Outcome.next.inj h
  clear h
  repeat' first
    | with_reducible rfl
    | with_reducible refine kept_ite ?_ ?_
    | simp only [↓kept_slotOp, ↓State.kept_mk, ↓State.nf1, ↓State.nf2, ↓State.nf3, ↓State.nf4, ↓State.nf5, ↓State.nf6, ↓State.nf7]
    | dsimp only
    | split

theorem kept_execLoopEnd (b : Slot) (lc : BitVec 3) (s : State) (t : State) (h : execLoopEnd b lc s = .next t) : t.kept = s.kept := by
  unfold execLoopEnd at h
  obtain rfl := Host.Outcome.next.inj h
  clear h
  repeat' first
    | with_reducible rfl
    | with_reducible refine kept_ite ?_ ?_
    | simp only [↓kept_slotOp, ↓State.kept_mk, ↓State.nf1, ↓State.nf2, ↓State.nf3, ↓State.nf4, ↓State.nf5, ↓State.nf6, ↓State.nf7]
    | dsimp only
    | split

theorem kept_execBundleStop (b : Slot) (s : State) (t : State) (h : execBundleStop b s = .next t) : t.kept = s.kept := by
  unfold execBundleStop at h
  obtain rfl := Host.Outcome.next.inj h
  clear h
  repeat' first
    | with_reducible rfl
    | with_reducible refine kept_ite ?_ ?_
    | with_reducible refine kept_getD (fun _ _ => ?_) ?_
    | simp only [↓kept_slotOp, ↓State.kept_mk, ↓State.nf1, ↓State.nf2, ↓State.nf3, ↓State.nf4, ↓State.nf5, ↓State.nf6, ↓State.nf7]
    | dsimp only
    | split

theorem kept_execShardRecall (core : Nat) (s : State) (t : State) (h : execShardRecall core s = .next t) : t.kept = s.kept := by
  unfold execShardRecall at h
  obtain rfl := Host.Outcome.next.inj h
  clear h
  repeat' first
    | with_reducible rfl
    | with_reducible refine kept_ite ?_ ?_
    | simp only [↓kept_startMove, ↓kept_failStep, ↓State.kept_mk, ↓State.nf1, ↓State.nf2, ↓State.nf3, ↓State.nf4, ↓State.nf5, ↓State.nf6, ↓State.nf7]
    | dsimp only
    | split

theorem kept_execRingTransferComplete (tag : Nat) (s : State) (t : State) (h : execRingTransferComplete tag s = .next t) : t.kept = s.kept := by
  unfold execRingTransferComplete at h
  obtain rfl := Host.Outcome.next.inj h
  clear h
  split
  · rfl
  · dsimp only
    split
    · rfl
    · rename_i s1 hp
      rw [kept_emit]
      refine Eq.trans (b := s1.kept) rfl ?_
      split at hp
      · split at hp
        · cases hp
        · cases hp; rw [kept_putStep, kept_objWrite]
      · split at hp <;> cases hp <;> rfl
theorem kept_execCourts (s : State) (t : State) (h : execCourts s = .next t) : t.kept = s.kept := by
  unfold execCourts at h
  obtain rfl := Host.Outcome.next.inj h
  clear h
  dsimp only
  refine kept_ite rfl ?_
  rw [kept_toStep]
  refine Eq.trans (b := (State.areaAny _ _ _).1.kept) rfl ?_
  rw [kept_areaAny]
  refine (kept_foldl (fun _ _ => kept_CfgImage_boot ..) _ _).trans ?_
  rw [kept_writeQuotas, kept_setSlot]; rfl
theorem kept_execUpdateStepComplete (plan : Nat) (s : State) (t : State) (h : execUpdateStepComplete plan s = .next t) : t.kept = s.kept := by
  unfold execUpdateStepComplete at h
  obtain rfl := Host.Outcome.next.inj h
  clear h
  split
  · rfl
  · split
    · rfl
    · exact (kept_updDone ..).trans (kept_updRun ..)

theorem inRange_restart (s : State) : s.restart.kept.inRange := by
  have : s.restart.kept = { State.reset.kept with pending := s.pending } := rfl
  have k : State.reset.InRange := by unfold State.InRange Kept.inRange; decide
  rw [this]; exact k
theorem kept_execXferEnd (pec : Bool) (data : List Byte) (s t : State) (h : execXferEnd pec data s = .next t) : t.kept = s.kept ∨ t.InRange ∧ t.pending = s.pending := by
  unfold execXferEnd at h
  obtain rfl := Host.Outcome.next.inj h
  clear h
  dsimp only
  split
  · left; exact kept_smbNack ..
  · split
    · left; exact kept_smbNack ..
    · split
      · split
        · right
          constructor
          · unfold State.InRange; rw [kept_smbAck]; refine inRange_restart _
          · rfl
        · left; rw [kept_smbAck]; rfl
      · split
        · left; rw [kept_smbAck]; rfl
        · left; rw [kept_smbAck]; rfl
theorem kept_execUmpireFailover (s t : State) (h : execUmpireFailover s = .next t) : t.kept = s.kept := by
  unfold execUmpireFailover at h
  split at h
  · cases h
  · obtain rfl := Host.Outcome.next.inj h
    clear h
    refine kept_ite ?_ ?_
    · rw [kept_retirePair, kept_raise, kept_takeUnits, kept_promote]
    · rw [kept_raise, kept_takeUnits, kept_promote]
theorem kept_execResetAssert (a b : Bool) (s t : State) (h : execResetAssert a b s = .next t) : t.kept = s.kept ∨ t.InRange ∧ t.pending = s.pending := by
  unfold execResetAssert at h
  obtain rfl := Host.Outcome.next.inj h
  clear h
  dsimp only
  split
  · left; rfl
  · right
    constructor
    · exact inRange_restart _
    · rfl
theorem inRange_writeReg (s : State) (blk inst off : Nat) (v : W64) (h : s.InRange) : (s.writeReg blk inst off v).InRange := by
  unfold State.InRange at *
  have key : ∀ t : State, t.kept = s.kept → t.kept.inRange := fun t ht => by rw [ht]; exact h
  obtain ⟨h1, h2, h3, h4, h5, h6⟩ := h
  unfold State.writeReg
  split
  · split
    · apply key; unfold State.writeCore; split <;> first | rfl | exact kept_modCore .. | exact kept_writeCtrl .. | exact kept_writeMfmt ..
    · exact key _ rfl
  · apply key; unfold State.writeClu; split <;> first | rfl | exact kept_modClu .. | skip
    split <;> first | rfl | exact kept_modClu ..
  · split
    · split
      · exact key _ (kept_modCore ..)
      · exact key _ rfl
    · unfold BookSt.writeMonitor
      split
      · refine ⟨?_, h2, h3, h4, h5, h6⟩
        dsimp only [State.kept]
        split
        · exact h1
        · rename_i hh; rw [not_or] at hh; exact ⟨hh.1, by omega⟩
      · exact key _ rfl
      · exact key _ rfl
  · unfold MemSt.write
    split
    · exact key _ rfl
    · split
      · exact key _ rfl
      · rename_i hh; exact ⟨h1, hh, h3, h4, h5, h6⟩
    · refine ⟨h1, h2, ?_, h4, h5, h6⟩
      dsimp only [State.kept]
      split
      · exact h3
      · omega
    · exact key _ rfl
    · exact key _ rfl
  · exact key _ (kept_modChan ..)
  · unfold TierSt.write
    split
    · exact key _ rfl
    · split <;> exact key _ rfl
    · exact key _ rfl
  · unfold TierSt.writeCave
    split
    · dsimp only
      split
      · exact key _ rfl
      · rename_i hh; rw [not_or] at hh; exact ⟨h1, h2, h3, ⟨hh.1, by simp only [State.kept]; omega⟩, h5, h6⟩
    · exact key _ rfl
    · exact key _ rfl
  · unfold WgtSt.write
    split
    · exact key _ rfl
    · refine ⟨h1, h2, h3, h4, ?_, h6⟩
      dsimp only [State.kept]
      split
      · exact h5
      · rename_i hh; rw [not_or] at hh; exact ⟨hh.1, by omega⟩
    · exact key _ rfl
  · apply key; unfold SchSt.write; split <;> rfl
  · split <;> exact key _ rfl
  · split
    · exact key _ (kept_modMbx ..)
    · exact key _ rfl
  · unfold RingSt.write
    split
    · exact key _ rfl
    · split
      · exact key _ rfl
      · rename_i hh; exact ⟨h1, h2, h3, h4, h5, hh⟩
    · exact key _ rfl
  · split <;> exact key _ rfl
  · split <;> exact key _ rfl
  · split <;> exact key _ rfl
  · exact key _ rfl
theorem pending_writeReg (s : State) (blk inst off : Nat) (v : W64) : (s.writeReg blk inst off v).pending = s.pending := by
  have key : ∀ t : State, t.kept = s.kept → t.pending = s.pending := fun t ht => congrArg Kept.pending ht
  unfold State.writeReg
  split
  · split
    · apply key; unfold State.writeCore; split <;> first | rfl | exact kept_modCore .. | exact kept_writeCtrl .. | exact kept_writeMfmt ..
    · rfl
  · apply key; unfold State.writeClu; split <;> first | rfl | exact kept_modClu .. | skip
    split <;> first | rfl | exact kept_modClu ..
  · split
    · split
      · exact key _ (kept_modCore ..)
      · rfl
    · rfl
  · rfl
  · exact key _ (kept_modChan ..)
  · rfl
  · rfl
  · rfl
  · rfl
  · split <;> rfl
  · split
    · exact key _ (kept_modMbx ..)
    · rfl
  · rfl
  · split <;> rfl
  · split <;> rfl
  · split <;> rfl
  · rfl

end Sys2Proof.Machine
end

