-- ==== Sys2Proof/Laws/Landing.lean ====
section
/-! SUPPORT. What the completion of a transfer does. -/
namespace Sys2Proof.Machine.Landing

/-- the completion of a core's own transfer, with the resends and the bad receipts of the link it crossed -/
theorem tc_exec {s : State} {core idx fixed bad p : Nat} {x : Xfer} (h1 : s.physOf core = some p) (h2 : (s.core p).now.xfers[idx]? = some x) (hk : x.kind ≠ .halo) :
    exec (.transferComplete core ⟨idx, fixed, bad⟩) s = .next (if (!s.xferReady (s.core p).now idx x none) = true then s else
        let l := s.linkWords p x fixed bad
        let r := if l.2 ≠ 0 then l else l.1.xferEffect p x none
        r.1.modCore p (fun g => if r.2 ≠ 0 then (g.dropXfer idx).failWith r.2 else g.dropXfer idx)) := by
  change execTransferComplete core ⟨idx, fixed, bad⟩ s = _
  unfold execTransferComplete
  simp only [h1, h2]

/-- a transfer that crosses no link has no resend -/
theorem links_none {s : State} {p fixed bad : Nat} {x : Xfer} (h : x.kind.onMesh = false) : s.linkWords p x fixed bad = (s, 0) := by
  unfold State.linkWords; rw [h]; rfl

theorem merge {s : State} {p : Nat} (f g : CoreRegs → CoreRegs) : (s.modCore p f).modCore p g = s.modCore p (fun r => g (f r)) := by
  simp [State.modCore]

end Sys2Proof.Machine.Landing
end

