-- ==== Sys2Proof/Laws/Layouts.lean ====
section
/-! SUPPORT. The element layouts of the format converter are permutations of what they cover. -/
namespace Sys2Proof.Machine.Layouts

theorem disj_offs (P es A B A' B' : Nat) (h : B * es + es ≤ P) (h' : B' * es + es ≤ P) (hn : ¬(A = A' ∧ B = B')) :
    A * P + B * es + es ≤ A' * P + B' * es ∨ A' * P + B' * es + es ≤ A * P + B * es := by
  have aux : ∀ {A A' B B' : Nat}, B * es + es ≤ P → A < A' → A * P + B * es + es ≤ A' * P + B' * es := by
    intro A A' B B' hB hA
    have : (A + 1) * P ≤ A' * P := Nat.mul_le_mul_right _ hA
    have : (A + 1) * P = A * P + P := by ring
    omega
  rcases Nat.lt_trichotomy A A' with g | g | g
  · exact .inl (aux h g)
  · subst g
    have hb : B ≠ B' := fun x => hn ⟨rfl, x⟩
    have aux2 : ∀ {B B' : Nat}, B < B' → B * es + es ≤ B' * es := by
      intro B B' hB
      have : (B + 1) * es ≤ B' * es := Nat.mul_le_mul_right _ hB
      have : (B + 1) * es = B * es + es := by ring
      omega
    rcases Nat.lt_or_gt_of_ne hb with g | g
    · have := aux2 g; omega
    · have := aux2 g; omega
  · exact .inr (aux h' g)

theorem fold_elems (f : Mem) (es : Nat) (l : List (Nat × Nat))
    (hd : ∀ e ∈ l, ∀ e' ∈ l, e ≠ e' → e.1 + es ≤ e'.1 ∨ e'.1 + es ≤ e.1) (e : Nat × Nat) (he : e ∈ l) (j : Nat) (hj : j < es) :
    Mem.rd (l.foldl (fun d e => Mem.wrBytes d e.1 (Mem.rdBytes f e.2 es)) []) (e.1 + j) = Mem.rd f (e.2 + j) := by
  induction l using List.reverseRecOn with
  | nil => cases he
  | append_singleton l x ih =>
    rw [List.foldl_append]
    simp only [List.foldl_cons, List.foldl_nil]
    rw [Mem.rd_wrBytes]
    simp only [Mem.rdBytes_length]
    by_cases hx : e = x
    · subst hx
      rw [if_pos (by omega), Mem.rdBytes_getD _ _ _ _ (by omega)]; congr 1; omega
    · have hl : e ∈ l := by simp at he; tauto
      rw [if_neg]
      · exact ih (fun a ha b hb => hd a (by simp [ha]) b (by simp [hb])) hl
      · have := hd e he x (by simp) hx; omega

theorem flat_len {α : Type} (n c : Nat) (g : Nat → List α) (hg : ∀ i, (g i).length = c) : ((List.range n).flatMap g).length = n * c := by
  induction n with
  | zero => simp
  | succ n ih => rw [List.range_succ]; simp [ih, hg]; ring

/-- what is needed of the element list -/

def Good (es len : Nat) (l : List (Nat × Nat)) : Prop :=
  l.length * es = len ∧ ∀ e ∈ l, ∀ e' ∈ l, e ≠ e' → (e.1 + es ≤ e'.1 ∨ e'.1 + es ≤ e.1) ∧ (e.2 + es ≤ e'.2 ∨ e'.2 + es ≤ e.2)

theorem Good.swap {es len : Nat} {l : List (Nat × Nat)} (h : Good es len l) : Good es len (l.map (fun e => (e.2, e.1))) := by
  refine ⟨by simpa using h.1, ?_⟩
  simp only [List.mem_map]
  rintro _ ⟨a, ha, rfl⟩ _ ⟨b, hb, rfl⟩ hn
  have := h.2 a ha b hb (fun x => hn (by rw [x]))
  exact ⟨this.2, this.1⟩

theorem good_interleave (c p es pitch : Nat) (hp : p * es ≤ pitch) (hes : 0 < es) : Good es (p * c * es) (interleavePairs c p es pitch) := by
  refine ⟨?_, ?_⟩
  · unfold interleavePairs; rw [flat_len p c _ (by intro i; simp)]
  · unfold interleavePairs
    simp only [List.mem_flatMap, List.mem_range, List.mem_map]
    rintro _ ⟨q, hq, k, hk, rfl⟩ _ ⟨q', hq', k', hk', rfl⟩ hn
    have hn' : ¬(k = k' ∧ q = q') := by rintro ⟨rfl, rfl⟩; exact hn rfl
    have b1 : q * es + es ≤ pitch := by
      have : (q + 1) * es ≤ p * es := Nat.mul_le_mul_right _ hq
      nlinarith
    have b2 : q' * es + es ≤ pitch := by
      have : (q' + 1) * es ≤ p * es := Nat.mul_le_mul_right _ hq'
      nlinarith
    refine ⟨disj_offs pitch es k q k' q' b1 b2 hn', ?_⟩
    have := disj_offs es es (q * c + k) 0 (q' * c + k') 0 (by omega) (by omega) ?_
    · simpa using this
    · rintro ⟨e, -⟩
      apply hn'
      have h1 : (q * c + k) % c = k := by rw [Nat.mul_comm, Nat.mul_add_mod]; exact Nat.mod_eq_of_lt hk
      have h2 : (q' * c + k') % c = k' := by rw [Nat.mul_comm, Nat.mul_add_mod]; exact Nat.mod_eq_of_lt hk'
      have hk2 : k = k' := by rw [← h1, ← h2, e]
      subst hk2
      refine ⟨rfl, ?_⟩
      have : q * c = q' * c := by omega
      exact Nat.eq_of_mul_eq_mul_right (by omega) this

theorem digits2 {b x y x' y' : Nat} (hy : y < b) (hy' : y' < b) (h : x * b + y = x' * b + y') : x = x' ∧ y = y' := by
  have h1 : (x * b + y) % b = y := by rw [Nat.mul_comm, Nat.mul_add_mod]; exact Nat.mod_eq_of_lt hy
  have h2 : (x' * b + y') % b = y' := by rw [Nat.mul_comm, Nat.mul_add_mod]; exact Nat.mod_eq_of_lt hy'
  have : y = y' := by rw [← h1, ← h2, h]
  subst this
  exact ⟨Nat.eq_of_mul_eq_mul_right (by omega) (by omega : x * b = x' * b), rfl⟩

theorem good_depth (c X R f es pitch : Nat) (hf : 0 < f) (hp : f * R * (f * X) * es ≤ pitch) (hes : 0 < es) :
    Good es (c * (f * R) * (f * X) * es) (depthPairs c (f * X) (f * R) f es pitch) := by
  refine ⟨?_, ?_⟩
  · unfold depthPairs
    rw [flat_len c (f * R * (f * X)) _ (by intro i; rw [flat_len (f * R) (f * X) _ (by intro i; simp)])]; ring
  · unfold depthPairs
    simp only [List.mem_flatMap, List.mem_range, List.mem_map]
    rintro _ ⟨k, hk, y, hy, i, hi, rfl⟩ _ ⟨k', hk', y', hy', i', hi', rfl⟩ hn
    have hn' : ¬(k = k' ∧ y = y' ∧ i = i') := by rintro ⟨rfl, rfl, rfl⟩; exact hn rfl
    have fX : f * X / f = X := Nat.mul_div_cancel_left _ hf
    have room : R * X * es ≤ pitch / (f * f) := by
      rw [Nat.le_div_iff_mul_le (by positivity)]
      calc R * X * es * (f * f) = f * R * (f * X) * es := by ring
        _ ≤ pitch := hp
    have inb : ∀ {y i : Nat}, y < f * R → i < f * X → (y / f * X + i / f) * es + es ≤ pitch / (f * f) := by
      intro y i hy hi
      have h1 : y / f < R := by rw [Nat.div_lt_iff_lt_mul hf]; rwa [Nat.mul_comm]
      have h2 : i / f < X := by rw [Nat.div_lt_iff_lt_mul hf]; rwa [Nat.mul_comm]
      have h3 : y / f * X + i / f + 1 ≤ R * X := by
        have : (y / f + 1) * X ≤ R * X := Nat.mul_le_mul_right _ h1
        nlinarith
      have : (y / f * X + i / f + 1) * es ≤ R * X * es := Nat.mul_le_mul_right _ h3
      nlinarith
    have inw : ∀ {y i : Nat}, y < f * R → i < f * X → (y * (f * X) + i) * es + es ≤ pitch := by
      intro y i hy hi
      have h3 : y * (f * X) + i + 1 ≤ f * R * (f * X) := by
        have : (y + 1) * (f * X) ≤ f * R * (f * X) := Nat.mul_le_mul_right _ hy
        nlinarith
      have : (y * (f * X) + i + 1) * es ≤ f * R * (f * X) * es := Nat.mul_le_mul_right _ h3
      nlinarith
    simp only [fX]
    refine ⟨disj_offs _ es _ _ _ _ (inb hy hi) (inb hy' hi') ?_, disj_offs _ es _ _ _ _ (inw hy hi) (inw hy' hi') ?_⟩
    · rintro ⟨e1, e2⟩
      apply hn'
      have m : ∀ z, z % f < f := fun z => Nat.mod_lt _ hf
      have d2 : ∀ {i : Nat}, i < f * X → i / f < X := by
        intro i hi; rw [Nat.div_lt_iff_lt_mul hf]; rwa [Nat.mul_comm]
      have e1' : (k * f + y % f) * f + i % f = (k' * f + y' % f) * f + i' % f := by
        calc _ = k * f * f + y % f * f + i % f := by ring
          _ = _ := e1
          _ = _ := by ring
      obtain ⟨g1, g2⟩ := digits2 (m i) (m i') e1'
      obtain ⟨g3, g4⟩ := digits2 (m y) (m y') g1
      obtain ⟨g5, g6⟩ := digits2 (d2 hi) (d2 hi') e2
      refine ⟨g3, ?_, ?_⟩
      · rw [← Nat.div_add_mod y f, ← Nat.div_add_mod y' f, g4, g5]
      · rw [← Nat.div_add_mod i f, ← Nat.div_add_mod i' f, g2, g6]
    · rintro ⟨e1, e2⟩
      obtain ⟨g1, g2⟩ := digits2 hi hi' e2
      exact hn' ⟨e1, g1, g2⟩

end Sys2Proof.Machine.Layouts
end

