-- ==== Sys2Proof/Laws/Losses.lean ====
section
/-! SUPPORT. What a lost core leaves alone. -/
namespace Sys2Proof.Machine.Losses

theorem failSteps_frame (s : State) (cl : Nat) (q : Bool) : InSchFlt s (s.failSteps cl q) := by
  unfold State.failSteps
  refine foldl_rel InSchFlt (fun _ => rfl) InSchFlt.trans _ (fun s t => ?_) _ _
  split
  · exact s.failStep_frame _ _ _ _
  · rfl

theorem addAccs_frame (l : List (Nat × Nat)) (f : Nat × Nat → Nat × Nat × Nat × Nat) (s : State) :
    l.foldl (fun s e => s.addAcc (f e).1 (f e).2.1 (f e).2.2.1 (f e).2.2.2) s =
      { s with led := (l.foldl (fun s e => s.addAcc (f e).1 (f e).2.1 (f e).2.2.1 (f e).2.2.2) s).led } := by
  induction l generalizing s with
  | nil => rfl
  | cons a l ih => rw [List.foldl_cons]; refine (ih _).trans ?_; rw [State.addAcc_frame]

/-- charging a core's work changes the ledger and that core -/
theorem chargeWork_frame (s : State) (p line : Nat) : s.chargeWork p line =
    { s with led := (s.chargeWork p line).led, cores := AMap.insert s.cores p ⟨{ (s.core p).now with work := [] }, { (s.core p).pre with work := [] }⟩ } := by
  unfold State.chargeWork
  dsimp only
  rw [addAccs_frame _ (fun e => (ident 1 (p / 26), line, 10, eventEnergy e.1 e.2))]
  rfl

theorem chargeRun_frame (s : State) (p : Nat) (r : Run) : s.chargeRun p r =
    { s with led := (s.chargeRun p r).led, cores := AMap.insert s.cores p ⟨{ (s.core p).now with work := [] }, { (s.core p).pre with work := [] }⟩ } := by
  unfold State.chargeRun
  dsimp only
  rw [State.chargeAt_frame, chargeWork_frame]

/-- a core taken out: the ledger, that core and the steps change -/
theorem dropCore_frame (s : State) (p : Nat) : s.dropCore p =
    { s with led := (s.dropCore p).led, cores := AMap.erase (AMap.insert s.cores p ⟨{ (s.core p).now with work := [] }, { (s.core p).pre with work := [] }⟩) p, sch := (s.dropCore p).sch } := by
  unfold State.dropCore
  extract_lets s0 s1
  have h : s0 = { s with led := s0.led, cores := AMap.insert s.cores p ⟨{ (s.core p).now with work := [] }, { (s.core p).pre with work := [] }⟩ } := by
    unfold s0; split
    · exact chargeRun_frame _ _ _
    · exact chargeWork_frame _ _ _
  have h1 : s1 = { s with led := s0.led, cores := AMap.erase (AMap.insert s.cores p ⟨{ (s.core p).now with work := [] }, { (s.core p).pre with work := [] }⟩) p } := by
    unfold s1; rw [h]
  rw [h1]
  split
  · rfl
  · split <;> rfl

theorem getD_erase {α : Type} (m : AMap α) (d : α) (k j : Nat) : AMap.getD (AMap.erase m k) d j = if j = k then d else AMap.getD m d j := by
  unfold AMap.getD; rw [AMap.find_erase]; split <;> rfl

theorem logical_eq (s : State) (cl pos : Nat) (h1 : (s.clu cl).spareUsed = true) (h2 : (s.clu cl).sparePos = pos) (h3 : (s.clu cl).failed = [pos]) (h4 : cl < 1000) (h5 : pos < 25) :
    s.physOf (25 * cl + pos) = some (26 * cl + 25) ∧ s.logicalOf (26 * cl + 25) = some (25 * cl + pos) := by
  have a1 : (25 * cl + pos) / 25 = cl := by omega
  have a2 : (25 * cl + pos) % 25 = pos := by omega
  have a3 : (26 * cl + 25) / 26 = cl := by omega
  have a4 : (26 * cl + 25) % 26 = 25 := by omega
  constructor
  · unfold State.physOf
    rw [if_pos (by unfold Config.cores; omega)]
    simp only [a1, a2, h1, h2, h3, beq_self_eq_true, Bool.and_self, if_true]
    rw [if_neg]; simp; omega
  · unfold State.logicalOf
    simp only [a3, a4, h1, h2, if_true]

end Sys2Proof.Machine.Losses
end

