-- ==== Sys2Proof/Laws/Packing.lean ====
section
/-! SUPPORT. Fields packed twelve bits each. -/
namespace Sys2Proof.Machine.Packing

theorem pack (a b c d e k : Nat) (ha : a < 4096) (hb : b < 4096) (hc : c < 4096) (hd : d < 4096) (he : e < 4096) (hk : k < 5) :
    (a + (b * 4096 + (c * 16777216 + (d * 68719476736 + e * 281474976710656)))) % 1152921504606846976 / 2 ^ (12 * k) % 4096 =
     (if k = 0 then a else if k = 1 then b else if k = 2 then c else if k = 3 then d else e) := by
  interval_cases k <;> norm_num <;> omega

theorem s1 (g : Nat → Nat) : ((List.range 5).map g).sum = g 0 + (g 1 + (g 2 + (g 3 + g 4))) := by
  simp [List.range_succ]

theorem sum5 (f : Nat → Nat) : ((List.range 5).map (fun b => f b * 2 ^ (12 * b))).sum = f 0 + (f 1 * 4096 + (f 2 * 16777216 + (f 3 * 68719476736 + f 4 * 281474976710656))) := by
  rw [s1]
  simp

theorem minlt (v : Nat) : min v 4095 < 4096 := by omega

theorem volts_at (volts : List Byte) (b : Nat) (hb : b < 5) :
    (BitVec.ofNat 60 (((List.range 5).map (fun b => min (leAt volts (2 * b) 2) 4095 * 2 ^ (12 * b))).sum)).toNat / 2 ^ (12 * b) % 4096 = min (leAt volts (2 * b) 2) 4095 := by
  have g : ∃ f : Nat → Nat, f = fun b => min (leAt volts (2 * b) 2) 4095 := ⟨_, rfl⟩
  obtain ⟨f, hf⟩ := g
  have hl : ∀ k, f k < 4096 := fun k => by rw [hf]; exact minlt _
  have hm : ∀ k, min (leAt volts (2 * k) 2) 4095 = f k := fun k => by rw [hf]
  simp only [hm]
  rw [sum5 f, BitVec.toNat_ofNat]
  have e2 : (2:Nat)^60 = 1152921504606846976 := by norm_num
  rw [e2, pack _ _ _ _ _ b (hl 0) (hl 1) (hl 2) (hl 3) (hl 4) hb]
  interval_cases b <;> rfl

end Sys2Proof.Machine.Packing
end

