-- ==== Sys2Proof/Laws/Picks.lean ====
section
/-! SUPPORT. A fold that keeps the best of a list. -/
namespace Sys2Proof.Machine.Picks

theorem fold_best {α : Type} (f : Option α → α → Option α) (better : α → α → Bool) (hn : ∀ c, f none c = some c)
    (hs : ∀ d c, f (some d) c = if better c d = true then some c else some d)
    (htr : ∀ a b c, better a b = true → better b c = true → better a c = true) 
    (l : List α) (seen : List α) (m : Option α) (hm : ∀ c, m = some c → ∀ d ∈ seen, better d c = false) (h0 : m = none → seen = [])
    (hir : ∀ a, better a a = false)
    (r : α) (hr : l.foldl f m = some r) : ∀ d ∈ seen ++ l, better d r = false := by
  induction l generalizing seen m with
  | nil => rw [List.append_nil]; exact hm r hr
  | cons a l ih =>
    rw [List.foldl_cons] at hr
    have := ih (seen ++ [a]) (f m a) ?_ ?_ hr
    · simpa using this
    · cases m with
      | none =>
        rw [hn, h0 rfl]; intro c hc d hd; cases hc
        simp only [List.nil_append, List.mem_singleton] at hd; rw [hd]; exact hir _
      | some e =>
        rw [hs]
        intro c hc d hd
        rw [List.mem_append, List.mem_singleton] at hd
        split at hc
        · rename_i hb
          cases hc
          rcases hd with hd | rfl
          · cases hx : better d a with
            | false => rfl
            | true => have := htr _ _ _ hx hb; rw [hm e rfl d hd] at this; cases this
          · exact hir _
        · rename_i hb
          cases hc
          rcases hd with hd | rfl
          · exact hm _ rfl d hd
          · simpa using hb
    · cases m with
      | none => rw [hn]; intro h; cases h
      | some e => rw [hs]; split <;> (intro h; cases h)

theorem waiter_best (s : State) (c : Nat) (h : s.firstWaiter = some c) : ∀ e ∈ s.sch.ctxs, 2 ≤ e.2.st → e.2.runnableAt ≠ 0 → (s.ctxLc e.1 = true → s.ctxLc c = true) ∧
        (s.ctxLc e.1 = s.ctxLc c → (s.ctxSt c).runnableAt ≤ (s.ctxSt e.1).runnableAt) := by
  intro e he h2 h3
  unfold State.firstWaiter at h
  have := fold_best _ (fun c d => (s.ctxLc c && !s.ctxLc d) ||
          ((s.ctxLc c == s.ctxLc d) && decide ((s.ctxSt c).runnableAt < (s.ctxSt d).runnableAt))) (fun _ => rfl) (fun _ _ => rfl) ?_ _ [] none (fun c hc => by cases hc) (fun _ => rfl) ?_ c h e.1 ?_
  · cases hx : s.ctxLc e.1 <;> cases hy : s.ctxLc c <;> simp [hx, hy] at this ⊢
    · exact this
    · exact this
  · intro a b c
    cases s.ctxLc a <;> cases s.ctxLc b <;> cases s.ctxLc c <;> simp <;> omega
  · intro a; cases s.ctxLc a <;> simp
  · rw [List.nil_append, List.mem_map]
    exact ⟨e, List.mem_filter.2 ⟨he, by simp [h2, h3]⟩, rfl⟩

theorem blocked_best (s : State) (c : Nat) (h : s.longestBlocked = some c) : ∀ e ∈ s.sch.ctxs, e.2.st = 1 → e.2.blockedAt ≠ 0 → (s.ctxSt c).blockedAt ≤ (s.ctxSt e.1).blockedAt := by
  intro e he h2 h3
  unfold State.longestBlocked at h
  have := fold_best _ (fun c d => decide ((s.ctxSt c).blockedAt < (s.ctxSt d).blockedAt)) (fun _ => rfl) (fun d c => by by_cases h : (s.ctxSt c).blockedAt < (s.ctxSt d).blockedAt <;> simp [h]) ?_ _ [] none (fun c hc => by cases hc) (fun _ => rfl) ?_ c h e.1 ?_
  · simpa using this
  · intro a b c; simp; omega
  · intro a; simp
  · rw [List.nil_append, List.mem_map]
    exact ⟨e, List.mem_filter.2 ⟨he, by simp [h2, h3]⟩, rfl⟩

end Sys2Proof.Machine.Picks
end

