-- ==== Sys2Proof/Laws/Pictures.lean ====
section
/-! SUPPORT. What the codec engines leave alone, and the pool of a stream. -/
namespace Sys2Proof.Machine.Pictures

theorem fold_best {α : Type} (f : Option α → α → Option α) (better : α → α → Bool) (hn : ∀ c, f none c = some c)
    (hs : ∀ d c, f (some d) c = if better c d = true then some c else some d)
    (htr : ∀ a b c, better a b = true → better b c = true → better a c = true) 
    (l : List α) (seen : List α) (m : Option α) (hm : ∀ c, m = some c → ∀ d ∈ seen, better d c = false) (h0 : m = none → seen = [])
    (hir : ∀ a, better a a = false)
    (r : α) (hr : l.foldl f m = some r) : ∀ d ∈ seen ++ l, better d r = false := by
  induction l generalizing seen m with
  | nil => rw [List.append_nil]; exact hm r hr
  | cons a l ih =>
    rw [List.foldl_cons] at hr
    have := ih (seen ++ [a]) (f m a) ?_ ?_ hr
    · simpa using this
    · cases m with
      | none =>
        rw [hn, h0 rfl]; intro c hc d hd; cases hc
        simp only [List.nil_append, List.mem_singleton] at hd; rw [hd]; exact hir _
      | some e =>
        rw [hs]
        intro c hc d hd
        rw [List.mem_append, List.mem_singleton] at hd
        split at hc
        · rename_i hb
          cases hc
          rcases hd with hd | rfl
          · cases hx : better d a with
            | false => rfl
            | true => have := htr _ _ _ hx hb; rw [hm e rfl d hd] at this; cases this
          · exact hir _
        · rename_i hb
          cases hc
          rcases hd with hd | rfl
          · exact hm _ rfl d hd
          · simpa using hb
    · cases m with
      | none => rw [hn]; intro h; cases h
      | some e => rw [hs]; split <;> (intro h; cases h)

def CdcSame (a b : State) : Prop := b.cdc = a.cdc

theorem CdcSame.trans (a b c : State) (h : CdcSame a b) (k : CdcSame b c) : CdcSame a c := by unfold CdcSame at *; rw [k, h]

theorem of_mf {a b : State} (h : InMemFlt a b) : CdcSame a b := by unfold CdcSame; unfold InMemFlt at h; rw [h]

theorem of_mt {a b : State} (h : InMemTier a b) : CdcSame a b := by unfold CdcSame; unfold InMemTier at h; rw [h]

theorem cb_cdc (s : State) (a : Nat) (w : Bool) (b c : Nat) : CdcSame s (s.chargeBytes a w b c) := by unfold CdcSame; rw [State.chargeBytes_frame]

theorem plane_cdc (s : State) (c : CStream) (p) (r) (d) (n) : CdcSame s (s.planeWrite c p r d n) := by
  unfold State.planeWrite
  refine foldl_rel CdcSame (fun _ => rfl) CdcSame.trans _ (fun s i => ?_) _ _
  dsimp only
  exact CdcSame.trans _ _ _ (of_mf (State.piecesWrite_frame _ _ _ _)) (cb_cdc _ _ _ _ _)

theorem pic_cdc (s : State) (c : CStream) (b r d n) : CdcSame s (s.pictureWrite c b r d n) := by
  unfold State.pictureWrite
  dsimp only
  generalize List.zip _ _ = l
  generalize hq : (s, 0) = q
  have : CdcSame s q.1 := by rw [← hq]; rfl
  clear hq
  induction l generalizing q with
  | nil => exact this
  | cons a l ih => rw [List.foldl_cons]; exact ih _ (CdcSame.trans _ _ _ this (plane_cdc _ _ _ _ _ _))

theorem mark_find (c : CStream) (k : Nat) (a b : Byte) (j : Nat) : AMap.find? (c.mark k a b).pool j = if j = k then (AMap.find? c.pool k).map (fun x => { x with marks := (x.marks &&& ~~~b) ||| a }) else AMap.find? c.pool j := AMap.find_adjust _ _ _ _

theorem close_str (s : State) (i : Nat) (c : CStream) (code : Code) (j : Nat) : (s.closeStream i c code).cstream j = if j = i then none else s.cstream j := by
  unfold State.closeStream
  extract_lets s1 s2 x s3
  have h1 : CdcSame s s1 := by
    refine foldl_rel CdcSame (fun _ => rfl) CdcSame.trans _ (fun s f => ?_) _ _
    rfl
  have h2 : CdcSame s s2 := CdcSame.trans _ _ _ h1 (of_mt (State.dropObj_frame _ _))
  change AMap.find? (AMap.erase s2.cdc.streams i) j = _
  rw [h2, AMap.find_erase]; rfl

theorem close_eng (s : State) (i : Nat) (c : CStream) (code : Code) (j : Nat) : ((s.closeStream i c code).engine j).failed = (s.engine j).failed ∧ ((s.closeStream i c code).engine j).run = (s.engine j).run := by
  unfold State.closeStream
  extract_lets s1 s2 x s3
  have h1 : CdcSame s s1 := by
    refine foldl_rel CdcSame (fun _ => rfl) CdcSame.trans _ (fun s f => ?_) _ _
    rfl
  have h2 : CdcSame s s2 := CdcSame.trans _ _ _ h1 (of_mt (State.dropObj_frame _ _))
  have h3 : s2.engine j = s.engine j := by unfold State.engine; rw [h2]
  change (s3.engine j).failed = _ ∧ (s3.engine j).run = _
  unfold s3
  rw [State.engine_setEngine]
  split
  · rename_i h; subst h; unfold x; rw [h3]; exact ⟨rfl, rfl⟩
  · rw [h3]; exact ⟨rfl, rfl⟩

theorem bit4 (m : Byte) (a b c : Prop) [Decidable a] [Decidable b] [Decidable c] :
    (if c then (if b then (m &&& (if a then 0xE8#8 else 0xE9#8)) ||| 2#8 else (m &&& (if a then 0xE8#8 else 0xE9#8))) ||| 4#8 else
      (if b then (m &&& (if a then 0xE8#8 else 0xE9#8)) ||| 2#8 else (m &&& (if a then 0xE8#8 else 0xE9#8)))).getLsbD 4 = false := by
  by_cases a <;> by_cases b <;> by_cases c <;> simp [*] <;> decide

theorem bit4b (m : Byte) (b : Bool) (h : m.getLsbD 4 = false) : ((m &&& ~~~0) ||| (if b = true then 0x28#8 else 0x08)).getLsbD 4 = false := by
  cases b <;> simp <;> simpa using h

end Sys2Proof.Machine.Pictures
end

