-- ==== Sys2Proof/Laws/Placing.lean ====
section
/-! SUPPORT. What placing a block leaves alone. -/
namespace Sys2Proof.Machine.Placing

theorem quota_tier (s : State) (o : Option Nat) (t n : Nat) : (s.chargeQuota o t n).tier.blocks = s.tier.blocks ∧ (s.chargeQuota o t n).tier.objs = s.tier.objs := by
  unfold State.chargeQuota; split <;> exact ⟨rfl, rfl⟩

theorem unquota_tier (s : State) (o : Option Nat) (t n : Nat) : (s.unchargeQuota o t n).tier.blocks = s.tier.blocks ∧ (s.unchargeQuota o t n).tier.objs = s.tier.objs := by
  unfold State.unchargeQuota; split <;> exact ⟨rfl, rfl⟩

theorem place_tier (s : State) (b kind tier : Nat) (d : List Byte) (h : tier ≤ 2) : (s.placeBlock b kind tier d).2.tier = tier := by
  unfold State.placeBlock
  split
  · rename_i h; subst h; rfl
  · dsimp only; split
    · rename_i h; subst h; rfl
    · change 2 = tier; omega

theorem commit_ok (s : State) (b : Nat) (o : Obj) (m : Move) (k : Nat) (h : Home) (hd : m.dest ≤ 2) (hc : (s.commitBlock b o m k h).2 = 0) :
    (∃ g, AMap.find? (s.commitBlock b o m k h).1.tier.blocks k = some g ∧ g.tier = m.dest) ∧
    AMap.find? (s.commitBlock b o m k h).1.tier.objs b = some { o with move := some { m with moved := m.moved + 1, resv := m.resv - reserveUnits m.dest, moving := false } } := by
  unfold State.commitBlock at hc ⊢
  extract_lets r at hc ⊢
  by_cases hr : r.2.1 ≠ 0
  · rw [if_pos hr] at hc; exact absurd hc hr
  · rw [if_neg hr]
    rename_i p s1 s2 src s3
    have hb : AMap.find? s1.tier.blocks k = some p.2 := by
      unfold s1
      rw [(unquota_tier _ _ _ _).1, (unquota_tier _ _ _ _).1]
      exact AMap.find_insert_self _ _ _
    refine ⟨⟨p.2, ?_, place_tier _ _ _ _ _ hd⟩, ?_⟩
    · dsimp only
      rw [State.charge_frame, State.charge_frame]
      change AMap.find? ((s1.chargeQuota (o.payer m.dest) m.dest p.2.units).tier.blocks) k = _
      rw [(quota_tier _ _ _ _).1]; exact hb
    · dsimp only
      rw [State.charge_frame, State.charge_frame]
      exact AMap.find_insert_self _ _ _

end Sys2Proof.Machine.Placing
end

