-- ==== Sys2Proof/Laws/Rails.lean ====
section
/-! SUPPORT. Closing rails. -/
namespace Sys2Proof.Machine.Rails

def LinkOnly (a b : State) : Prop := b = { a with ring := { a.ring with links := b.ring.links, opened := b.ring.opened } }

theorem LinkOnly.trans (a b c : State) (h : LinkOnly a b) (k : LinkOnly b c) : LinkOnly a c := by unfold LinkOnly at *; rw [k, h]

theorem close_frame (s : State) (k : Nat) : LinkOnly s (s.closeRail k) := rfl

theorem close_keeps (s : State) (k q : Nat) (h : (s.link q).st = 0) : ((s.closeRail k).link q).st = 0 := by
  unfold State.closeRail; dsimp only; rw [State.link_setLink]; split
  · rfl
  · rw [State.link_setLink]; split
    · rfl
    · exact h

theorem close_self (s : State) (k : Nat) : k ∉ (s.closeRail k).ring.opened ∧ ((s.closeRail k).link (upPort k)).st = 0 ∧ ((s.closeRail k).link (downPort k)).st = 0 := by
  refine ⟨?_, ?_, ?_⟩
  · change k ∉ s.ring.opened.filter _; simp
  · unfold State.closeRail; dsimp only; rw [State.link_setLink]; split
    · rfl
    · rw [State.link_setLink, if_pos rfl]; rfl
  · unfold State.closeRail; dsimp only; rw [State.link_setLink, if_pos rfl]; rfl

theorem close_op (s : State) (k j : Nat) (h : j ∉ s.ring.opened) : j ∉ (s.closeRail k).ring.opened := by
  change j ∉ s.ring.opened.filter _; simp; intro g; exact absurd g h

theorem close_all (l : List Nat) (s : State) (k : Nat) : (k ∈ l ∨ (k ∉ s.ring.opened ∧ (s.link (upPort k)).st = 0 ∧ (s.link (downPort k)).st = 0)) →
    k ∉ (l.foldl State.closeRail s).ring.opened ∧ ((l.foldl State.closeRail s).link (upPort k)).st = 0 ∧ ((l.foldl State.closeRail s).link (downPort k)).st = 0 := by
  induction l generalizing s with
  | nil => rintro (h | h); cases h; exact h
  | cons a l ih =>
    intro h
    rw [List.foldl_cons]
    apply ih
    rcases h with h | h
    · rcases List.mem_cons.1 h with rfl | h
      · exact Or.inr (close_self _ _)
      · exact Or.inl h
    · exact Or.inr ⟨close_op _ _ _ h.1, close_keeps _ _ _ h.2.1, close_keeps _ _ _ h.2.2⟩

end Sys2Proof.Machine.Rails
end

