-- ==== Sys2Proof/Laws/RegisterWrites.lean ====
section
/-! SUPPORT. A register write, taken apart. -/
namespace Sys2Proof.Machine.RegisterWrites

theorem regs_eq (blk inst off width : Nat) (v : W64) (s : State) (h : instOk blk inst off = true) (h2 : regWidth blk off = width) (h3 : width ≠ 0) :
   exec (.registerWrite blk inst off width v) s = .next (s.writeReg blk inst off v) := by
  change execRegisterWrite _ _ _ _ _ _ = _; unfold execRegisterWrite; rw [if_pos ⟨h, by rw [h2]; exact h3, h2.symm⟩]

theorem masks (s : State) (inst : Nat) (v : W64) (p k : Nat) (h : s.physOf inst = some p) (hk : k ∈ [1, 2, 3]) :
    s.writeReg 1 inst (0x18 + 8 * k) v = s.modCore p (fun c => c.writeMask k v) := by
  unfold State.writeReg; rw [h]
  rcases List.mem_cons.1 hk with rfl | hk
  · rfl
  rcases List.mem_cons.1 hk with rfl | hk
  · rfl
  rcases List.mem_cons.1 hk with rfl | hk
  · rfl
  cases hk

theorem mw (m k : Nat) (hm : m < 72) (hk : k = 0 ∨ k = 0x18 ∨ k = 0x20) : regWidth 14 (64 * m + k) = if k = 0x20 then 64 else 32 := by
  unfold regWidth; rw [if_pos rfl, if_neg (by omega), show (64 * m + k) % 64 = k by omega]
  rcases hk with rfl | rfl | rfl <;> rfl

theorem mr (s : State) (m k : Nat) (v : W64) (hm : m < 72) (hk : k < 64) : s.writeReg 14 0 (64 * m + k) v = s.modMbx m (fun b => b.write k v) := by
  change (if (64 * m + k) / 64 < 72 then s.modMbx ((64 * m + k) / 64) (fun b => b.write ((64 * m + k) % 64) v) else s) = _
  rw [show (64 * m + k) / 64 = m by omega, show (64 * m + k) % 64 = k by omega, if_pos hm]

end Sys2Proof.Machine.RegisterWrites
end

