-- ==== Sys2Proof/Laws/Replies.lean ====
section
/-! SUPPORT. What a reply changes of a mailbox. -/
namespace Sys2Proof.Machine.Replies

theorem respond_keep (b : Mbx) (x : List Byte) : (b.respond x).reqHead = b.reqHead ∧ (b.respond x).expect = b.expect := by
  unfold Mbx.respond; split <;> exact ⟨rfl, rfl⟩

theorem reply_mbx (s : State) (r : Req) (x : List Byte) : (∀ k, k ≠ r.mbx → (s.reply r x).mbx k = s.mbx k) ∧ ((s.reply r x).mbx r.mbx).reqHead = (s.mbx r.mbx).reqHead ∧
    ((s.reply r x).mbx r.mbx).expect = (s.mbx r.mbx).expect ∧ (s.reply r x).ump.intake = s.ump.intake ∧ (s.reply r x).ump.busyCount = s.ump.busyCount := by
  unfold State.reply
  refine ⟨fun k hk => by rw [State.mbx_modMbx, if_neg hk], ?_, ?_, rfl, rfl⟩
  · rw [State.mbx_modMbx, if_pos rfl]; exact (respond_keep _ _).1
  · rw [State.mbx_modMbx, if_pos rfl]; exact (respond_keep _ _).2

theorem ring_mbx (s : State) (r : Req) (x : List Byte) : (∀ k, k ≠ r.mbx → (s.refuseAtRing r x).mbx k = s.mbx k) ∧ ((s.refuseAtRing r x).mbx r.mbx).reqHead = (s.mbx r.mbx).reqHead ∧
    ((s.refuseAtRing r x).mbx r.mbx).expect = (s.mbx r.mbx).expect ∧ (s.refuseAtRing r x).ump.intake = s.ump.intake ∧ (s.refuseAtRing r x).ump.busyCount = s.ump.busyCount := by
  unfold State.refuseAtRing
  have h := reply_mbx (s.modMbx r.mbx (fun b => { b with due := b.due + 1 })) r x
  refine ⟨fun k hk => by rw [h.1 k hk, State.mbx_modMbx, if_neg hk], ?_, ?_, h.2.2.2.1, h.2.2.2.2⟩
  · rw [h.2.1, State.mbx_modMbx, if_pos rfl]
  · rw [h.2.2.1, State.mbx_modMbx, if_pos rfl]

end Sys2Proof.Machine.Replies
end

