-- ==== Sys2Proof/Laws/RunStart.lean ====
section
/-! SUPPORT. The choice of a run and its start. -/
namespace Sys2Proof.Machine.RunStart

theorem find_lc {es : List Run} (h : ∃ e ∈ es, e.lc = true) : ∃ r, es.find? (fun r => r.lc) = some r ∧ r.lc = true := by
  cases hf : es.find? (fun r => r.lc) with
  | none => rw [List.find?_eq_none] at hf; obtain ⟨e, he, hl⟩ := h; exact absurd hl (hf e he)
  | some r => exact ⟨r, rfl, List.find?_some hf⟩

theorem startRun_split (s : State) (p : Nat) (b : Playbook) (l : Layer) (r : Run) : ∃ s4 : State,
    s.startRun p b l r = s4.startCore p 0 ∧ s4.counter = s.counter ∧
    (∀ q, s4.core q = (s.modCore p (fun c => c.loadRun b.plan l (match s.ctxRec r.ctx with | some x => x.seed | none => 0)
      (AMap.getD s.sch.dispatched 0 (dispatchKey r)) { r with start := s.counter.toNat })).core q) ∧
    s4.sch.queue = s.sch.queue.erase r ∧ s4.sch.dispatched = AMap.insert s.sch.dispatched (dispatchKey r) (AMap.getD s.sch.dispatched 0 (dispatchKey r) + 1) := by
  unfold State.startRun
  dsimp only
  refine ⟨_, rfl, ?_, ?_, ?_, ?_⟩
  · split <;> rfl
  · intro q; split <;> rfl
  · split <;> rfl
  · split <;> rfl

end Sys2Proof.Machine.RunStart
end

