-- ==== Sys2Proof/Laws/Scalar.lean ====
section
/-! SUPPORT. What the scalar operations compute, and a loop counter after another is set. -/
namespace Sys2Proof.Machine.Scalar

theorem scalarOp_res {s : State} {b : Slot} {p : Nat} {c : Core} (h : s.Issues b p c) (sd : BitVec 4) (f : CoreRegs → W64) :
    ∃ t, (.next (scalarOp b sd f s) : Host.Outcome State Fault Refusal) = .next t ∧ t = s.issued p c (t.core p).now ∧
      (t.core p).now = { c.now with sregs := (t.core p).now.sregs } ∧
      ∀ r, (t.core p).now.sr r = if r = sd ∧ sd ≠ 0 then f c.pre else c.now.sr r := by
  refine ⟨s.issued p c (c.now.sw sd (f c.pre)), ?_, ?_, ?_, ?_⟩
  · rw [scalarOp, slotOp_ok h rfl]
  · simp
  · simp only [State.core_issued]; exact CoreRegs.sw_frame _ _ _
  · intro r; simp only [State.core_issued]; exact CoreRegs.sr_sw _ _ _ _

theorem ssra_val (x : W64) (k : Nat) : x.sshiftRight k = BitVec.ofInt 64 (x.toInt / 2 ^ k) := by
  apply BitVec.eq_of_toInt_eq
  rw [BitVec.toInt_sshiftRight, BitVec.toInt_ofInt, Int.shiftRight_eq_div_pow]; symm
  have h1 := BitVec.toInt_lt (x := x); have h2 := BitVec.le_toInt (x := x)
  norm_num at h1 h2
  have e : (((2 : Nat) ^ k : Nat) : Int) = 2 ^ k := by norm_cast
  rw [e]
  have hp : (0 : Int) < 2 ^ k := by positivity
  have hp1 : (1 : Int) ≤ 2 ^ k := by omega
  apply Int.bmod_eq_of_le
  · have : -(2 ^ 63 : Int) ≤ x.toInt / 2 ^ k := by
      rw [Int.le_ediv_iff_mul_le hp]
      nlinarith
    simpa using this
  · have : x.toInt / 2 ^ k < 2 ^ 63 := by
      rw [Int.ediv_lt_iff_lt_mul hp]
      nlinarith
    simpa using this

theorem slis_val (x : W64) (im : BitVec 11) : (x <<< 11) ||| im.zeroExtend 64 = BitVec.ofNat 64 (x.toNat * 2 ^ 11 + im.toNat) := by
  apply BitVec.eq_of_toNat_eq
  have h1 : im.toNat < 2 ^ 11 := im.isLt
  simp only [BitVec.toNat_or, BitVec.toNat_shiftLeft, BitVec.toNat_setWidth, BitVec.toNat_ofNat, BitVec.zeroExtend, Nat.shiftLeft_eq]
  rw [Nat.mod_eq_of_lt (a := im.toNat) (by omega)]
  have e : x.toNat * 2 ^ 11 % 2 ^ 64 = (x.toNat % 2 ^ 53) <<< 11 := by
    rw [Nat.shiftLeft_eq, show (2 : Nat) ^ 64 = 2 ^ 53 * 2 ^ 11 from rfl, Nat.mul_mod_mul_right]
  rw [e, ← Nat.shiftLeft_add_eq_or_of_lt h1, Nat.shiftLeft_eq]
  omega

theorem srd_val (s : State) (b : Slot) (c : CoreRegs) (src : BitVec 7) :
  (if src.toNat < 8 then BitVec.ofNat 64 (c.loop src.toNat).count
    else if src = 8 then BitVec.ofNat 64 b.core
    else if src = 9 then s.dieCounter (dieOfCore b.core)
    else c.tagMask) = (if src.toNat < 8 then BitVec.ofNat 64 (c.loop src.toNat).count
      else if src.toNat = 8 then BitVec.ofNat 64 b.core
      else if src.toNat = 9 then s.counter + Config.dieSkew (b.core / 625)
      else c.tagMask) := by
  have e8 : src = 8 ↔ src.toNat = 8 := by rw [← BitVec.toNat_inj]; rfl
  have e9 : src = 9 ↔ src.toNat = 9 := by rw [← BitVec.toNat_inj]; rfl
  simp only [e8, e9]; rfl

theorem loop_setLoop (c : CoreRegs) (n : Nat) (l : Loop) (m : Nat) : (c.setLoop n l).loop m = if m = n then l else c.loop m :=
  AMap.getD_insert _ _ _ _ _

end Sys2Proof.Machine.Scalar
end

