-- ==== Sys2Proof/Laws/Sealing.lean ====
section
/-! SUPPORT. Sealing pages, and what ending a sequence leaves alone. -/
namespace Sys2Proof.Machine.Sealing

theorem seq_mod (s : State) (i j : Nat) (f : Seq → Seq) : (s.modSeq i f).seq j = if j = i then (s.seq i).map f else s.seq j := AMap.find_adjust _ _ _ _

/-- pages sealed -/

theorem seal_frame (s : State) (k : Nat) : s.sealPage k = { s with sch := { s.sch with pages := (s.sealPage k).sch.pages } } := by
  unfold State.sealPage; split <;> rfl

theorem seal_page (s : State) (k j : Nat) : (s.sealPage k).page j = if j = k then (s.page k).map (fun p => { p with isSealed := true }) else s.page j := by
  unfold State.sealPage
  split
  · rename_i p h; unfold State.page State.setPage; dsimp only; rw [AMap.find_insert]; rw [State.page] at h; rw [h]; rfl
  · rename_i h; rw [h]; split
    · rename_i e; rw [e, h]; rfl
    · rfl

theorem sealAll_frame (s : State) (q : Seq) : s.sealAll q = { s with sch := { s.sch with pages := (s.sealAll q).sch.pages } } := by
  unfold State.sealAll
  generalize s.openPages q = l
  induction l generalizing s with
  | nil => rfl
  | cons a l ih => rw [List.foldl_cons]; refine (ih _).trans ?_; rw [seal_frame]

theorem sealFold_page (l : List (Nat × Page)) (s : State) (k : Nat) :
    (l.foldl (fun s e => s.sealPage e.1) s).page k = if k ∈ l.map (·.1) then (s.page k).map (fun p => { p with isSealed := true }) else s.page k := by
  induction l generalizing s with
  | nil => simp
  | cons a l ih =>
    rw [List.foldl_cons, ih, seal_page]
    by_cases h : k = a.1
    · subst h
      simp only [if_true, List.map_cons, List.mem_cons, true_or, Option.map_map]
      split <;> rfl
    · rw [if_neg h]; simp only [List.map_cons, List.mem_cons, h, false_or]

theorem sealAll_page (s : State) (q : Seq) (k : Nat) :
    (s.sealAll q).page k = if k ∈ q.pageKeys then (s.page k).map (fun p => { p with isSealed := true }) else s.page k := by
  unfold State.sealAll
  rw [sealFold_page]
  have : k ∈ (s.openPages q).map (·.1) ↔ k ∈ q.pageKeys ∧ ∃ p, s.page k = some p ∧ p.isSealed = false := by
    unfold State.openPages
    simp only [List.mem_map, List.mem_filterMap, List.mem_eraseDups]
    constructor
    · rintro ⟨e, ⟨a, ha, he⟩, rfl⟩
      cases hp : s.page a with
      | none => rw [hp] at he; cases he
      | some p =>
        rw [hp] at he; dsimp only at he
        split at he
        · cases he
        · cases he; rename_i hs; exact ⟨ha, p, hp, by simpa using hs⟩
    · rintro ⟨hk, p, hp, hs⟩
      exact ⟨(k, p), ⟨k, hk, by rw [hp]; dsimp only; rw [hs]; rfl⟩, rfl⟩
  by_cases h1 : k ∈ q.pageKeys
  · rw [if_pos h1]
    by_cases h2 : ∃ p, s.page k = some p ∧ p.isSealed = false
    · rw [if_pos (this.2 ⟨h1, h2⟩)]
    · rw [if_neg (fun h => h2 (this.1 h).2)]
      cases hp : s.page k with
      | none => rfl
      | some p =>
        have : p.isSealed = true := by
          cases hs : p.isSealed with
          | true => rfl
          | false => exact absurd ⟨p, hp, hs⟩ h2
        obtain ⟨a, b, c, d, e, f, g, h⟩ := p
        subst this; rfl
  · rw [if_neg h1, if_neg (fun h => h1 (this.1 h).1)]

/-- seqs kept -/

theorem fold_eq {α β γ : Type} (g : β → γ) (f : β → α → β) (h : ∀ b a, g (f b a) = g b) (l : List α) (b : β) : g (l.foldl f b) = g b := by
  induction l generalizing b with
  | nil => rfl
  | cons a l ih => rw [List.foldl_cons, ih, h]

def SeqsIn (a b : State) : Prop := b.sch.seqs = a.sch.seqs

theorem SeqsIn.trans (a b c : State) (h : SeqsIn a b) (k : SeqsIn b c) : SeqsIn a c := by unfold SeqsIn at *; rw [k, h]

theorem of_ump {a b : State} (h : InUmp a b) : SeqsIn a b := by unfold SeqsIn; unfold InUmp at h; rw [h]

theorem of_mt {a b : State} (h : InMemTier a b) : SeqsIn a b := by unfold SeqsIn; unfold InMemTier at h; rw [h]

theorem releaseObj_seqs (s : State) (b : Nat) : SeqsIn s (s.releaseObj b) := by
  unfold State.releaseObj
  split
  · rfl
  · refine SeqsIn.trans _ _ _ ?_ (of_mt (State.dropObj_frame _ _))
    unfold State.answerFreed; split
    · rfl
    · split
      · rfl
      · exact of_ump (State.answer_frame _ _ _ _)

theorem wgtEvent_seqs (s : State) (o : Option Nat) (a b c d e : Nat) : SeqsIn s (s.wgtEvent o a b c d e) := by
  unfold State.wgtEvent; dsimp only; split
  · exact of_ump (State.eventMgmt_frame _ _ _ _)
  · exact of_ump (InUmp.trans _ _ _ (State.eventMgmt_frame _ _ _ _) (State.eventCtx_frame _ _ _ _))

theorem retire_seqs (s : State) (a b : Nat) : SeqsIn s (s.retireGen a b) := by
  unfold State.retireGen; split
  · rfl
  · split
    · rfl
    · dsimp only
      refine SeqsIn.trans _ _ _ ?_ (wgtEvent_seqs _ _ _ _ _ _ _)
      change SeqsIn s (s.releaseGen _ _ _)
      unfold State.releaseGen
      refine foldl_rel SeqsIn (fun _ => rfl) SeqsIn.trans _ (fun s e => ?_) _ _
      dsimp only; split
      · rfl
      · exact releaseObj_seqs _ _

theorem pins_seqs (s : State) (a b c : Nat) : SeqsIn s (s.pinsFell a b c) := by
  unfold State.pinsFell
  extract_lets s1
  have h1 : SeqsIn s s1 := by
    unfold s1; split
    · rfl
    · split
      · split
        · exact retire_seqs _ _ _
        · rfl
      · rfl
  split
  · exact h1
  · split
    · dsimp only
      refine SeqsIn.trans _ _ _ h1 (SeqsIn.trans _ _ _ ?_ (wgtEvent_seqs _ _ _ _ _ _ _))
      exact releaseObj_seqs (s1.dropShard _) _
    · exact h1

theorem prune_seqs (s : State) (a b c : Nat) : SeqsIn s (s.pruneDone a b c) := by
  unfold State.pruneDone; split
  · rfl
  · dsimp only; split
    · rfl
    · rfl

theorem dropList_none (s : State) (i j : Nat) (h : s.seq i = none) : (s.dropList j).seq i = none := by
  unfold State.dropList; split
  · exact h
  · split
    · exact h
    · dsimp only
      have hu : ∀ (l : List Nat) (u : State) (b : Nat), SeqsIn u (l.foldl (fun s k => s.uncave (b + k)) u) := fun l u b =>
        foldl_rel SeqsIn (fun _ => rfl) SeqsIn.trans _ (fun s k => by unfold State.uncave; split <;> rfl) _ _
      rw [seq_mod]
      split
      · rename_i he
        subst he
        rename_i hq
        rw [h] at hq; cases hq
      · rw [State.seq, SeqsIn.trans _ _ _ (hu _ _ _) (of_mt (State.dropObj_frame _ _))]; exact h

theorem dropLists_none (l : List Nat) (s : State) (i : Nat) (h : s.seq i = none) : (l.foldl (fun s i => s.dropList i) s).seq i = none := by
  induction l generalizing s with
  | nil => exact h
  | cons a l ih => rw [List.foldl_cons]; exact ih _ (dropList_none _ _ _ h)

theorem abandon_none (w : Wait) (i : Nat) (s : State) (h : s.seq i = none) : (s.abandon w).seq i = none := by
  have up : ∀ t : State, SeqsIn s t → t.seq i = none := by intro t ht; rw [State.seq, ht]; exact h
  cases w with
  | branch r f d cs =>
    change (State.dropChildren s cs).seq i = none
    unfold State.dropChildren State.seq; dsimp only
    rw [AMap.find_filter _ (fun k => !cs.contains k)]
    split
    · exact dropLists_none _ _ _ h
    · rfl
  | sealPages r => exact up _ rfl
  | prune g x => exact up _ (prune_seqs _ _ _ _)
  | fin r => exact up _ rfl
  | repin r => exact up _ rfl
  | exporting r m d => exact up _ rfl

theorem end_none (s : State) (i : Nat) : (s.endSeq i).1.seq i = none := by
  unfold State.endSeq; split
  · assumption
  · rename_i q hq
    extract_lets r s1 set src s2 s3
    have h2 : s2.seq i = none := by
      change AMap.find? (AMap.erase s1.sch.seqs i) i = none
      rw [AMap.find_erase, if_pos rfl]
    have h3 : s3.seq i = none := by
      unfold s3
      have h4 : (s2.pinsFell set q.gen q.adapter).seq i = none := by rw [State.seq, pins_seqs]; exact h2
      generalize s2.pinsFell set q.gen q.adapter = u at h4
      generalize q.waits = l
      induction l generalizing u with
      | nil => exact h4
      | cons a l ih => rw [List.foldl_cons]; exact ih _ (abandon_none _ _ _ h4)
    dsimp only
    rw [State.seq, show ∀ (u : State) (c : Nat), (u.disengage c).sch.seqs = u.sch.seqs from fun u c => by unfold State.disengage; dsimp only; split <;> rfl]; exact h3

end Sys2Proof.Machine.Sealing
end

