-- ==== Sys2Proof/Laws/Sides.lean ====
section
/-! SUPPORT. When the sides of a transfer are valid. -/
namespace Sys2Proof.Machine.Sides

theorem xfer_exec {i : Instr} {b : Slot} {k : XKind} {dst src len tag md : BitVec 4}
    (h : xferOf i = some (b, k, dst, src, len, tag, md)) (s : State) : exec i s = .next (xferOp b k dst src len tag md s) := by
  unfold xferOf at h
  split at h <;> first | (simp only [Option.some.injEq, Prod.mk.injEq] at h; obtain ⟨rfl, rfl, rfl, rfl, rfl, rfl, rfl⟩ := h; rfl) | cases h

theorem side_iff (base size n : Nat) : sideOk base size [(0, n)] = true ↔ base % 64 = 0 ∧ base + n ≤ size := by
  simp [sideOk]

theorem accessCode_vals (s : State) (ag : Agent) (wr : Bool) (a n : Nat) :
    s.accessCode ag wr a n = E_OBJ_UNMAPPED ∨ s.accessCode ag wr a n = E_OBJ_CAVE ∨ s.accessCode ag wr a n = E_OBJ_RO ∨ s.accessCode ag wr a n = 0 := by
  unfold State.accessCode; dsimp only; split_ifs <;> simp

theorem sideCode_one (s : State) (ag : Agent) (wr : Bool) (a n : Nat) (h : a < 2 ^ 52) :
    s.sideCode ag wr a [(0, n)] = s.accessCode ag wr a n := by
  unfold State.sideCode
  rw [if_neg (by omega)]
  simp only [List.map_cons, List.map_nil, Nat.add_zero]
  rcases accessCode_vals s ag wr a n with h | h | h | h <;> rw [h] <;> decide

theorem tbOk_iff (a n : Nat) : tbOk a n = true ↔ a % 64 = 0 ∧ a + n ≤ 393216 := by unfold tbOk Config.tileBufferBytes; simp only [Bool.and_eq_true, decide_eq_true_eq]

end Sys2Proof.Machine.Sides
end

