-- ==== Sys2Proof/Laws/StartUp.lean ====
section
/-! SUPPORT. The steps of start-up, taken apart. -/
namespace Sys2Proof.Machine.StartUp

theorem mbx_fold (l : List Nat) (s : State) : ∃ u : State, l.foldl (fun s m => s.modMbx m (fun b => { b with closed := true })) s = u ∧ u = { s with ump := { s.ump with mbxs := u.ump.mbxs } } ∧
   ∀ m, u.mbx m = { s.mbx m with closed := decide (m ∈ l) || (s.mbx m).closed } := by
  induction l generalizing s with
  | nil => exact ⟨_, rfl, rfl, fun m => by simp⟩
  | cons a l ih =>
    obtain ⟨u, h1, h2, h3⟩ := ih (s.modMbx a (fun b => { b with closed := true }))
    refine ⟨u, h1, h2, fun m => ?_⟩
    rw [h3]
    have : (s.modMbx a (fun b => { b with closed := true })).mbx m = if m = a then { s.mbx a with closed := true } else s.mbx m := AMap.getD_insert _ _ _ _ _
    rw [this]
    by_cases h : m = a
    · subst h; simp
    · simp [h]

theorem sr_fold (t0 : State) (l : List Nat) (s : State) (hf : s.free = t0.free) : ∃ u : State, l.foldl (fun s c => s.modChan c (fun x => { x with srKey := BitVec.ofNat 64 (s.fv c) })) s = u ∧ u = { s with mem := { s.mem with chans := u.mem.chans } } ∧
   ∀ c, u.chan c = if c ∈ l then { s.chan c with srKey := BitVec.ofNat 64 (t0.fv c) } else s.chan c := by
  induction l generalizing s with
  | nil => exact ⟨_, rfl, rfl, fun m => by simp⟩
  | cons a l ih =>
    obtain ⟨u, h1, h2, h3⟩ := ih (s.modChan a (fun x => { x with srKey := BitVec.ofNat 64 (s.fv a) })) hf
    refine ⟨u, h1, h2, fun m => ?_⟩
    rw [h3]
    have : (s.modChan a (fun x => { x with srKey := BitVec.ofNat 64 (s.fv a) })).chan m = if m = a then { s.chan a with srKey := BitVec.ofNat 64 (s.fv a) } else s.chan m := AMap.getD_insert _ _ _ _ _
    rw [this]
    have hv : s.fv a = t0.fv a := by unfold State.fv; rw [hf]
    by_cases h : m = a
    · subst h; simp [hv]
    · simp [h]

theorem at_iff (s : State) (n : Nat) : s.atStep n = true ↔ s.sec.step = n ∧ s.sec.failed = false := by unfold State.atStep; simp

theorem nat_iff (s : State) (n : Nat) : (!s.atStep n) = true ↔ ¬(s.sec.step = n ∧ s.sec.failed = false) := by rw [← at_iff]; simp

theorem slot_set (s : State) (k : Nat) (c : CfgSlot) : (s.setSlot k c).slotAt k = c := by
  unfold State.setSlot State.slotAt; dsimp only; split <;> rfl

def courtStep (img : CfgImage) (s : State) (c : Nat) : State := match img.court c with | none => s | some r => s.bootCourt c r

def finC (s2 : State) : State :=
  let s3 := (s2.areaAny .roster 262144).1
  ({ s3 with sec := { s3.sec with certGen := s3.activeGen } }).toStep 7

def tailC (img : CfgImage) (s1 : State) : State :=
  finC ((List.range 8).foldl (courtStep img) (s1.writeQuotas .empty img))

theorem courts_a (s : State) : execCourts s = .next (if !s.atStep 6 then s else
   let k := s.ump.committed
   let s0 := { s with ump := { s.ump with active := k } }
   let x := s0.slotAt k
   let s1 := s0.setSlot k { x with img := { x.img with courts := (cfgParse x.img.bytes).courts } }
   tailC (s1.slotAt k).img s1) := by
  unfold execCourts tailC courtStep finC; rfl

theorem courts_eq (s : State) (h : s.sec.step = 6 ∧ s.sec.failed = false) : 
      let k := s.ump.committed
      let x := s.slotAt k
      let img : CfgImage := { x.img with courts := (cfgParse x.img.bytes).courts }
      let u0 : State := ({ s with ump := { s.ump with active := k } }).setSlot k { x with img := img }
      execCourts s = .next (tailC img u0) := by
  rw [courts_a, if_neg (by rw [nat_iff]; exact not_not.2 h)]
  dsimp only
  rw [slot_set]
  rfl

end Sys2Proof.Machine.StartUp
end

