-- ==== Sys2Proof/Laws/StepForm.lean ====
section
/-! SUPPORT. What forming and ending a step leave alone. -/
namespace Sys2Proof.Machine.StepForm

theorem pick_fold (s : State) (f : Option Nat → Nat → Option Nat) (f1 : ∀ c, f none c = some c)
    (f2 : ∀ d c, f (some d) c = if (s.ctxSt c).lastFormed < (s.ctxSt d).lastFormed then some c else some d) (l : List Nat) (m : Option Nat) :
    match l.foldl f m with
    | none => m = none ∧ l = []
    | some x => (some x = m ∨ x ∈ l) ∧ (∀ a, m = some a → (s.ctxSt x).lastFormed ≤ (s.ctxSt a).lastFormed) ∧
        ∀ d ∈ l, (s.ctxSt x).lastFormed ≤ (s.ctxSt d).lastFormed := by
  induction l generalizing m with
  | nil => cases m <;> simp
  | cons c l ih =>
    rw [List.foldl_cons]
    cases m with
    | none =>
      rw [f1]
      have := ih (some c)
      revert this
      generalize l.foldl f (some c) = r
      cases r with
      | none => rintro ⟨h, -⟩; cases h
      | some x =>
        rintro ⟨h1, h2, h3⟩
        refine ⟨.inr ?_, (fun a h => by cases h), fun d hd => ?_⟩
        · rcases h1 with h | h
          · obtain rfl := Option.some.inj h; simp
          · simp [h]
        · rcases List.mem_cons.1 hd with rfl | hd
          · exact h2 _ rfl
          · exact h3 d hd
    | some d0 =>
      rw [f2]
      by_cases g : (s.ctxSt c).lastFormed < (s.ctxSt d0).lastFormed
      · rw [if_pos g]
        have := ih (some c)
        revert this
        generalize l.foldl f (some c) = r
        cases r with
        | none => rintro ⟨h, -⟩; cases h
        | some x =>
          rintro ⟨h1, h2, h3⟩
          have hc := h2 c rfl
          refine ⟨.inr ?_, fun a h => ?_, fun d hd => ?_⟩
          · rcases h1 with h | h
            · obtain rfl := Option.some.inj h; simp
            · simp [h]
          · obtain rfl := Option.some.inj h; omega
          · rcases List.mem_cons.1 hd with rfl | hd
            · exact hc
            · exact h3 d hd
      · rw [if_neg g]
        have := ih (some d0)
        revert this
        generalize l.foldl f (some d0) = r
        cases r with
        | none => rintro ⟨h, -⟩; cases h
        | some x =>
          rintro ⟨h1, h2, h3⟩
          have hc := h2 d0 rfl
          refine ⟨?_, fun a h => ?_, fun d hd => ?_⟩
          · rcases h1 with h | h
            · exact .inl h
            · right; simp [h]
          · obtain rfl := Option.some.inj h; exact hc
          · rcases List.mem_cons.1 hd with rfl | hd
            · omega
            · exact h3 d hd

theorem pick_some (s : State) (f : Option Nat → Nat → Option Nat) (f1 : ∀ c, f none c = some c)
    (f2 : ∀ d c, f (some d) c = if (s.ctxSt c).lastFormed < (s.ctxSt d).lastFormed then some c else some d) (l : List Nat) (x : Nat)
    (h : l.foldl f none = some x) : x ∈ l ∧ ∀ d ∈ l, (s.ctxSt x).lastFormed ≤ (s.ctxSt d).lastFormed := by
  have := pick_fold s f f1 f2 l none
  rw [h] at this
  refine ⟨?_, this.2.2⟩
  rcases this.1 with h | h
  · cases h
  · exact h

theorem pickLoop_ok (p : Plan) (limit : Nat) (es : List (Nat × Seq)) (r : Picked) (h1 : r.taken.length ≤ limit) (h2 : p.exceeds r.sv = false) :
    (pickLoop p limit es r).taken.length ≤ limit ∧ p.exceeds (pickLoop p limit es r).sv = false ∧
      ∃ more, (pickLoop p limit es r).taken = r.taken ++ more ∧ more.Sublist es := by
  induction es generalizing r with
  | nil => exact ⟨h1, h2, [], by simp [pickLoop], List.nil_sublist _⟩
  | cons e es ih =>
    unfold pickLoop
    split
    · exact ⟨h1, h2, [], by simp, List.nil_sublist _⟩
    · dsimp only
      split
      · obtain ⟨a, b, m, e1, e2⟩ := ih { r with tooMuch := r.tooMuch ++ [e.1] } h1 h2
        exact ⟨a, b, m, e1, e2.cons _⟩
      · split
        · obtain ⟨a, b, m, e1, e2⟩ := ih { r with deferred := r.deferred + 1 } h1 h2
          exact ⟨a, b, m, e1, e2.cons _⟩
        · obtain ⟨a, b, m, e1, e2⟩ := ih { r with sv := svAdd r.sv e.2.vector, taken := r.taken ++ [e] } (by simp; omega) (by simpa using ‹¬ p.exceeds (svAdd r.sv e.2.vector) = true›)
          exact ⟨a, b, e :: m, by rw [e1]; simp, e2.cons₂ _⟩

/-! frames -/

theorem foldl_inv {α β : Type} (P : β → Prop) (f : β → α → β) (hf : ∀ b a, P b → P (f b a)) (l : List α) (b : β) (h : P b) : P (l.foldl f b) := by
  induction l generalizing b with
  | nil => exact h
  | cons a l ih => exact ih _ (hf _ _ h)

theorem sealPage_seq (s : State) (k i : Nat) : (s.sealPage k).seq i = s.seq i ∧ (s.sealPage k).sch.steps = s.sch.steps := by
  unfold State.sealPage; split <;> exact ⟨rfl, rfl⟩

theorem sealFold_seq (l : List Nat) (s : State) (i : Nat) : (l.foldl State.sealPage s).seq i = s.seq i ∧ (l.foldl State.sealPage s).sch.steps = s.sch.steps :=
  foldl_inv (fun t : State => t.seq i = s.seq i ∧ t.sch.steps = s.sch.steps) _ (fun b a h => by
    have := sealPage_seq b a i; rw [this.1, this.2]; exact h) l s ⟨rfl, rfl⟩

theorem seqEvent_sch (s : State) (i r : Nat) (c : Code) : (s.seqEvent i r c).sch = s.sch := by
  unfold State.seqEvent; split <;> rfl

theorem seq_congr {s t : State} (h : s.sch = t.sch) (i : Nat) : s.seq i = t.seq i := by unfold State.seq; rw [h]

theorem endEntry_seq (s : State) (t : Step) (e : StepEnt) (q : Seq) (h : s.seq e.seq = some q) :
    ∃ q2 : Seq, (s.endEntry t e).seq e.seq = some q2 ∧
      q2 = { q.after t with
        stream := q.stream.after (t.updated.contains e.seq) (!decide (t.status = 0))
        stateSeq := if q.hasStream then (q.stream.after (t.updated.contains e.seq) (!decide (t.status = 0))).seqNo else q.stateSeq } := by
  refine ⟨_, ?_, rfl⟩
  unfold State.endEntry
  rw [h]; dsimp only
  have key : ∀ (u v : State), u.sch = v.sch → ∀ x, v.seq e.seq = x → u.seq e.seq = x := fun u v hh x hx => by rw [seq_congr hh, hx]
  have base : ∀ u : State, ∀ q', (u.setSeq e.seq q').seq e.seq = some q' := fun u q' => by simp [State.setSeq, State.seq]
  split
  · refine key _ _ (seqEvent_sch _ _ _ _) _ ?_
    split
    · exact base _ _
    · exact key _ _ (seqEvent_sch _ _ _ _) _ (base _ _)
  · split
    · exact base _ _
    · exact key _ _ (seqEvent_sch _ _ _ _) _ (base _ _)

theorem endEntry_steps (s : State) (t : Step) (e : StepEnt) : (s.endEntry t e).sch.steps = s.sch.steps := by
  unfold State.endEntry
  split
  · rfl
  · dsimp only
    have base : ∀ (u : State) (q' : Seq), u.sch.steps = s.sch.steps → (u.setSeq e.seq q').sch.steps = s.sch.steps := fun u q' h => h
    have u0 : (if (decide (t.status = 0) && e.sealFlag) = true then
        (t.wrote.filter (fun k => match s.page k with | some p => decide (p.owner = e.seq) | none => false)).foldl State.sealPage s else s).sch.steps = s.sch.steps := by
      split
      · exact (sealFold_seq _ s 0).2
      · rfl
    split
    · rw [seqEvent_sch]; split
      · exact base _ _ u0
      · rw [seqEvent_sch]; exact base _ _ u0
    · split
      · exact base _ _ u0
      · rw [seqEvent_sch]; exact base _ _ u0

end Sys2Proof.Machine.StepForm
end

