-- ==== Sys2Proof/Laws/Stopping.lean ====
section
/-! SUPPORT. How a core stops, with and without transfers outstanding. -/
namespace Sys2Proof.Machine.Stopping

theorem stopNow_nil (s : State) (p : Nat) (code : Code) (h : (s.core p).now.xfers = []) :
    s.stopNow p code = (s.setCore p ⟨(s.core p).now.stopped code, (s.core p).now.stopped code⟩).post p (.complete p code) := by
  unfold State.stopNow State.coreStop
  simp only [State.core_setCore_self, h, if_true, State.setCore_setCore]

theorem stopNow_busy (s : State) (p : Nat) (code : Code) (h : (s.core p).now.xfers ≠ []) :
    s.stopNow p code = s.setCore p ⟨{ (s.core p).now with stopping := some code }, { (s.core p).now with stopping := some code }⟩ := by
  unfold State.stopNow State.coreStop
  simp only [State.core_setCore_self, h, if_false, State.setCore_setCore]

theorem stopNow_facts (s : State) (p : Nat) (code : Code) :
    s.stopNow p code = { s with cores := (s.stopNow p code).cores, clus := (s.stopNow p code).clus } ∧
    (∀ q, q ≠ p → (s.stopNow p code).core q = s.core q) ∧ (∀ k, (s.stopNow p code).physOf k = s.physOf k) ∧
    ((s.core p).now.xfers = [] → ((s.stopNow p code).core p).now = (s.core p).now.stopped code) ∧
    ((s.core p).now.xfers ≠ [] → ((s.stopNow p code).core p).now = { (s.core p).now with stopping := some code }) := by
  by_cases h : (s.core p).now.xfers = []
  · rw [stopNow_nil s p code h]
    refine ⟨rfl, fun q hq => ?_, fun k => ?_, fun _ => ?_, fun x => absurd h x⟩
    · rw [State.core_post, State.core_setCore, if_neg hq]
    · unfold State.physOf State.post State.modClu
      simp only [State.clu_setClu, State.clu_setCore]
      by_cases g : k / 25 = p / 26
      · simp only [g, if_true]
      · simp only [g, if_false]
    · rw [State.core_post, State.core_setCore_self]
  · rw [stopNow_busy s p code h]
    refine ⟨rfl, fun q hq => ?_, fun k => rfl, fun x => absurd x h, fun _ => ?_⟩
    · rw [State.core_setCore, if_neg hq]
    · rw [State.core_setCore_self]

theorem posted_none {cl : Cluster} {p : Nat} (h : ∀ e ∈ cl.events, ∀ k, e ≠ .complete p k) : cl.posted p = none := by
  unfold Cluster.posted
  rw [List.findSome?_eq_none_iff]
  intro e he
  cases e with
  | signal q w => rfl
  | complete q k =>
    have := h _ he k
    dsimp only
    rw [if_neg]; rintro rfl; exact this rfl

end Sys2Proof.Machine.Stopping
end

