-- ==== Sys2Proof/Laws/Stores.lean ====
section
/-! SUPPORT. Folds over cores and clusters: what they change and what they leave alone; the stores a power state loses. -/
namespace Sys2Proof.Machine.Stores

def LosesTb (a b : State) : Prop := b = { a with cores := b.cores } ∧ ∀ k, b.core k = ⟨{ (a.core k).now with tb := (b.core k).now.tb }, { (a.core k).pre with tb := (b.core k).pre.tb }⟩

theorem fold_frame (g : State → Nat → CoreRegs → CoreRegs) (l : List Nat) (s : State) :
    (l.foldl (fun s p => s.modCore p (g s p)) s) = { s with cores := (l.foldl (fun s p => s.modCore p (g s p)) s).cores } := by
  induction l generalizing s with
  | nil => rfl
  | cons a l ih => rw [List.foldl_cons, ih]; rfl

theorem fold_out (g : State → Nat → CoreRegs → CoreRegs) (l : List Nat) (s : State) (k : Nat) (h : k ∉ l) :
    (l.foldl (fun s p => s.modCore p (g s p)) s).core k = s.core k := by
  induction l generalizing s with
  | nil => rfl
  | cons a l ih =>
    rw [List.foldl_cons, ih _ (fun h2 => h (List.mem_cons_of_mem _ h2)), State.core_modCore, if_neg]
    intro h2; exact h (by rw [h2]; exact List.mem_cons_self)

theorem fold_P (P : Nat → Core → Prop) (g : State → Nat → CoreRegs → CoreRegs) (hg : ∀ s p c, P p c → P p ⟨g s p c.now, g s p c.pre⟩) (l : List Nat) (s : State) (h : ∀ k, P k (s.core k)) :
    ∀ k, P k ((l.foldl (fun s p => s.modCore p (g s p)) s).core k) := by
  induction l generalizing s with
  | nil => exact h
  | cons a l ih =>
    rw [List.foldl_cons]; apply ih
    intro k; rw [State.core_modCore]; split
    · next e => rw [e]; exact hg _ _ _ (h a)
    · exact h k

theorem fold_in (P : Core → Prop) (g : State → Nat → CoreRegs → CoreRegs) (hg : ∀ s p (c : Core), P ⟨g s p c.now, g s p c.pre⟩) (l : List Nat) (s : State) (k : Nat) (h : k ∈ l ∨ P (s.core k)) :
    P ((l.foldl (fun s p => s.modCore p (g s p)) s).core k) := by
  induction l generalizing s with
  | nil => rcases h with h | h; cases h; exact h
  | cons a l ih =>
    rw [List.foldl_cons]; apply ih
    rcases h with h | h
    · rcases List.mem_cons.1 h with rfl | h
      · right; rw [State.core_modCore, if_pos rfl]; exact hg _ _ _
      · exact Or.inl h
    · right; rw [State.core_modCore]; split
      · exact hg _ _ _
      · exact h

theorem clu_fold (g : Nat → Cluster → Cluster) (l : List Nat) (s : State) :
    (l.foldl (fun t n => t.modClu n (g n)) s) = { s with clus := (l.foldl (fun t n => t.modClu n (g n)) s).clus } := by
  induction l generalizing s with
  | nil => rfl
  | cons a l ih => rw [List.foldl_cons, ih]; rfl

theorem clu_fold_P (P : Nat → Cluster → Prop) (g : Nat → Cluster → Cluster) (hg : ∀ n c, P n c → P n (g n c)) (l : List Nat) (s : State) (h : ∀ n, P n (s.clu n)) :
    ∀ n, P n ((l.foldl (fun t n => t.modClu n (g n)) s).clu n) := by
  induction l generalizing s with
  | nil => exact h
  | cons a l ih =>
    rw [List.foldl_cons]; apply ih
    intro k
    have : (s.modClu a (g a)).clu k = if k = a then g a (s.clu a) else s.clu k := by
      unfold State.modClu; unfold State.clu State.setClu; exact AMap.getD_insert _ _ _ _ _
    rw [this]; split
    · next e => rw [e]; exact hg _ _ (h a)
    · exact h k

theorem shallow (s : State) (court : Nat) : ∃ u : State, s.loseStores court false = u ∧ u = { s with cores := u.cores, free := s.free + 1 } ∧
   (∀ k, k ∉ s.courtCores court → u.core k = s.core k) ∧ ∀ k, u.core k = ⟨{ (s.core k).now with tb := (u.core k).now.tb }, { (s.core k).pre with tb := (u.core k).pre.tb }⟩ := by
  refine ⟨_, rfl, ?_, ?_, ?_⟩
  · have h := fold_frame (fun s p c => { c with tb := s.lostStore (2 ^ 21 * p) Config.tileBufferBytes }) (s.courtCores court) s
    exact congrArg State.drawn h
  · intro k h
    exact fold_out (fun s p c => { c with tb := s.lostStore (2 ^ 21 * p) Config.tileBufferBytes }) (s.courtCores court) s k h
  · exact fold_P (fun k c => c = ⟨{ (s.core k).now with tb := c.now.tb }, { (s.core k).pre with tb := c.pre.tb }⟩) (fun s p c => { c with tb := s.lostStore (2 ^ 21 * p) Config.tileBufferBytes })
      (by intro _ _ c h; rw [h]) (s.courtCores court) s (fun _ => rfl)

theorem deepen (s : State) (court : Nat) : ∃ u : State, s.loseStores court true = u ∧ u = { s with cores := u.cores, clus := u.clus, free := s.free + 1 } ∧
   (∀ k, k ∉ s.courtCores court → u.core k = s.core k) ∧ (∀ k ∈ s.courtCores court, (u.core k).now.tabs = []) ∧ ∀ n, u.clu n = { s.clu n with staging := (u.clu n).staging } := by
  let g (s : State) (p : Nat) (c : CoreRegs) : CoreRegs := { c with tb := s.lostStore (2 ^ 21 * p) Config.tileBufferBytes, am := s.lostStore (2 ^ 21 * p + 2 ^ 19) Config.accBytes, istore := s.lostStore (2 ^ 21 * p + 2 ^ 20) 32768, tabs := [] }
  let q (n : Nat) (c : Cluster) : Cluster := { c with staging := s.lostStore (2 ^ 40 + 2 ^ 23 * n) Config.stagingBytes }
  let a := (s.courtCores court).foldl (fun s p => s.modCore p (g s p)) s
  let L := ((s.courtDies court).flatMap (fun d => (List.range 25).map (25 * d + ·)))
  let b := L.foldl (fun t n => t.modClu n (q n)) a
  have e : s.loseStores court true = b.drawn := rfl
  have fa : a = { s with cores := a.cores } := fold_frame g _ _
  have fb : b = { a with clus := b.clus } := clu_fold q _ _
  have oa : ∀ k, k ∉ s.courtCores court → a.core k = s.core k := fun k h => fold_out g _ _ k h
  have ia : ∀ k ∈ s.courtCores court, (a.core k).now.tabs = [] := fun k h => fold_in (fun c => c.now.tabs = []) g (fun _ _ _ => rfl) _ _ k (Or.inl h)
  have cb : ∀ n, b.clu n = { a.clu n with staging := (b.clu n).staging } :=
    clu_fold_P (fun n c => c = { a.clu n with staging := c.staging }) q (by intro n c h; rw [h]) L a (fun _ => rfl)
  clear_value b a
  have kb : ∀ k, b.core k = a.core k := by intro k; rw [fb]; rfl
  have ka : ∀ n, a.clu n = s.clu n := by intro n; rw [fa]; rfl
  refine ⟨_, e, ?_, fun k h => (kb k).trans (oa k h), fun k h => (congrArg (fun c : Core => c.now.tabs) (kb k)).trans (ia k h), fun n => ?_⟩
  · have e9 : b = { s with cores := b.cores, clus := b.clus } := by rw [fb, fa]
    exact (congrArg State.drawn e9).trans rfl
  · exact (cb n).trans (congrArg (fun c : Cluster => { c with staging := (b.clu n).staging }) (ka n))

theorem idle_eq (st : Nat) (h : st < 4) : idleTicks (st + 1) = if st = 0 then 500 else if st = 1 then 20000 else if st = 2 then 2000000 else 30000000 := by
  interval_cases st <;> rfl

end Sys2Proof.Machine.Stores
end

