-- ==== Sys2Proof/Laws/Umpire.lean ====
section
/-! SUPPORT. What events and records leave alone of the umpire. -/
namespace Sys2Proof.Machine.Umpire

def UmpKeep (a b : State) : Prop := b.ump.acting = a.ump.acting ∧ b.ump.standby = a.ump.standby ∧ b.ump.failovers = a.ump.failovers ∧ b.ump.slot0 = a.ump.slot0 ∧
  b.ump.slot1 = a.ump.slot1 ∧ b.ump.intake = a.ump.intake

theorem UmpKeep.refl (a : State) : UmpKeep a a := ⟨rfl, rfl, rfl, rfl, rfl, rfl⟩

theorem UmpKeep.trans (a b c : State) (h : UmpKeep a b) (k : UmpKeep b c) : UmpKeep a c := by
  obtain ⟨h1, h2, h3, h4, h5, h6⟩ := h
  obtain ⟨k1, k2, k3, k4, k5, k6⟩ := k
  exact ⟨k1.trans h1, k2.trans h2, k3.trans h3, k4.trans h4, k5.trans h5, k6.trans h6⟩

theorem event_keep (s : State) (m op c : Nat) (b : List Byte) : UmpKeep s (s.event m op c b) := ⟨rfl, rfl, rfl, rfl, rfl, rfl⟩

theorem mgmt_keep (s : State) (op c : Nat) (b : List Byte) : UmpKeep s (s.eventMgmt op c b) :=
  foldl_rel UmpKeep UmpKeep.refl UmpKeep.trans (fun s m => s.event m op c b) (fun s m => event_keep s m op c b) _ _

theorem ctx_keep (s : State) (x op : Nat) (b : List Byte) : UmpKeep s (s.eventCtx x op b) :=
  foldl_rel UmpKeep UmpKeep.refl UmpKeep.trans (fun s m => s.event m op x b) (fun s m => event_keep s m op x b) _ _

theorem takeIn_keep (s : State) (r : FRec) : UmpKeep s (s.takeIn r) := by
  unfold State.takeIn
  extract_lets r1 src s1 s2
  have h1 : UmpKeep s s1 := ⟨rfl, rfl, rfl, rfl, rfl, rfl⟩
  have h2 : UmpKeep s s2 := UmpKeep.trans _ _ _ h1 (mgmt_keep _ _ _ _)
  split
  · exact UmpKeep.trans _ _ _ h2 (ctx_keep _ _ _ _)
  · exact h2

theorem takeAll_keep (n : Nat) (s : State) (u : Nat) : UmpKeep s (s.takeAll u n) := by
  induction n generalizing s with
  | zero => exact UmpKeep.refl _
  | succ n ih =>
    unfold State.takeAll; split
    · exact UmpKeep.refl _
    · rename_i t h
      unfold State.takeUnit at h
      split at h
      · cases h
      · cases h
        rename_i r recs _
        have h0 : UmpKeep s (s.setUnit u { s.unitQ u with recs := recs }) := ⟨rfl, rfl, rfl, rfl, rfl, rfl⟩
        exact UmpKeep.trans _ _ _ (UmpKeep.trans _ _ _ h0 (takeIn_keep _ _)) (ih _)

theorem takeUnits_keep (s : State) : UmpKeep s s.takeUnits :=
  foldl_rel UmpKeep UmpKeep.refl UmpKeep.trans (fun s u => s.takeAll u 64) (fun s u => takeAll_keep 64 s u) _ _

end Sys2Proof.Machine.Umpire
end

