-- ==== Sys2Proof/Laws/VatLines.lean ====
section
/-! SUPPORT. The lines of a vat operation, element by element. -/
namespace Sys2Proof.Machine.VatLines

theorem vatLine_len (code : BitVec 4) (w : Nat) (key ctr : W64) (k : Nat) : ∀ (j0 : Nat) (ms xs : List Byte),
    (vatLine code w key ctr k j0 ms xs).length = w * k := by
  induction k with
  | zero => intros; rfl
  | succ k ih => intro j0 ms xs; simp only [vatLine, List.length_append, leBytes_length, ih]; ring

theorem vatLine_elem (code : BitVec 4) (w : Nat) (key ctr : W64) (k : Nat) : ∀ (j0 j : Nat) (ms xs : List Byte), j < k →
    leNat (((vatLine code w key ctr k j0 ms xs).drop (w * j)).take w) =
      vatElem code (leNat ((ms.drop (w * j)).take w)) (leNat ((xs.drop (w * j)).take w)) (srBits key ctr (j0 + j)) % 256 ^ w := by
  induction k with
  | zero => intro j0 j ms xs h; omega
  | succ k ih =>
    intro j0 j ms xs h
    cases j with
    | zero => simp only [vatLine, Nat.mul_zero, List.drop_zero, Nat.add_zero]; rw [List.take_append_of_le_length (by simp), List.take_of_length_le (by simp), leNat_leBytes]
    | succ j =>
      simp only [vatLine]
      have e : w * (j + 1) = w + w * j := by ring
      rw [e, ← List.drop_drop, List.drop_left' (leBytes_length _ _), ih _ _ _ _ (by omega)]
      rw [List.drop_drop, List.drop_drop, show j0 + 1 + j = j0 + (j + 1) by omega]

theorem vat_eq (s : State) (ac : Access) (code : BitVec 4) (z k : Nat) (xs : List Byte) (hw : vatWidth code ≠ 0)
    (hx : xs.length = vatWidth code * k) (hf : s.mem.flips = []) :
    s.vatApply ac code z xs = (((s.markDirty z xs.length).withStack (Mem.wrBytes s.mem.stack z (vatLine code (vatWidth code) (s.chan (s.chanOf z)).srKey
      (s.chan (s.chanOf z)).srCtr k (z % 64 / vatWidth code) (Mem.rdBytes s.mem.stack z (vatWidth code * k)) xs))).modChan (s.chanOf z)
      (fun ch => { ch with ops := ch.ops + 1, srCtr := if code = 2 then ch.srCtr + 8 else ch.srCtr }), 0, Mem.rdBytes s.mem.stack z (vatWidth code * k)) := by
  have hk : xs.length / vatWidth code = k := by rw [hx]; exact Nat.mul_div_cancel_left _ (Nat.pos_of_ne_zero hw)
  unfold State.vatApply
  simp only [State.stackRead_clean s _ _ _ _ hf, if_neg hw, hk]
  rw [if_neg (by decide)]
  have e : (s.markDirty z (vatWidth code * k)).mem.flips = [] ∧ (s.markDirty z (vatWidth code * k)).mem.stack = s.mem.stack := by
    unfold State.markDirty; split <;> exact ⟨hf, rfl⟩
  simp only [hx, State.stackWrite_clean _ _ _ _ _ e.1, e.2]

end Sys2Proof.Machine.VatLines
end

