-- ==== Sys2Proof/Tests/Slice0.lean ====
section
/-! SUPPORT. Tests: ill-formed commands are refused; single commands against the spec's own figures; and for every statement of the
certificate that has hypotheses, states and operands that meet them, the clauses of one input at the boundaries of their ranges. -/

namespace Sys2Proof.Tests
open Sys2Proof Sys2Proof.Machine

-- One theorem after another: each test waits for the kernel.
set_option Elab.async false

/-! Helpers. -/

/-- The registers of a core that runs, changed by `f`. -/
def running (f : CoreRegs → CoreRegs) : CoreRegs := f { CoreRegs.reset with st := .running }
/-- A core in the middle of a bundle. -/
def busy (f : CoreRegs → CoreRegs) : Core := ⟨running f, running f⟩
/-- The block after reset, with core 0 so. -/
def onCore (f : CoreRegs → CoreRegs) : State := State.reset.setCore 0 (busy f)
/-- The second slot of a bundle of core 0. -/
def bun : Slot := ⟨0, false, 0⟩

theorem of_issues {s : State} {b : Slot} {p : Nat} {c : Core}
    (h : (decide (s.physOf b.core = some p) && !(b.first && s.pwr.stopped.contains (dieOfCore b.core)) &&
      decide (((s.core p).begin b.first).bind (fun x => x.read b.first) = some c)) = true) : s.Issues b p c := by
  simp only [Bool.and_eq_true, decide_eq_true_eq, Bool.not_eq_true'] at h
  exact ⟨h.1.1, h.1.2, h.2⟩

/-- A block at SERVE that has taken in request `r`. -/
def served (s : State) (r : Req) : State :=
  { s with sec := { s.sec with step := 8, ready := true }, ump := { s.ump with intake := [r] } }

theorem of_serves {s : State} {op m : Nat} {r : Req}
    (h : (decide (s.nextReq = some r) && s.sec.ready && decide (r.mbx = m) && decide (r.op = op)) = true) : s.Serves op m r := by
  simp only [Bool.and_eq_true, decide_eq_true_eq] at h
  exact ⟨h.1.1.1, h.1.1.2, h.1.2, h.2⟩

/-! Ill-formed commands. -/

theorem test_wf_units :
    [Instr.mnop ⟨25000, true, 0⟩, .coreFailDeclare 26000, .spareRemap 1000, .patrolScrub 512 [], .caveLevelling ⟨24, []⟩,
      .codecFrameStart 16, .railDown 16, .flitReceive 48 [] false, .memberLoss 16, .relayFrame 4 0 [], .thermalStop 40, .train [512],
      .selftest [26000], .auditPass 7 false].all (fun i => !i.wf) = true := by decide +kernel
theorem test_wf_courts :
    [Instr.msgPing 72, .mbxReqTail 0 65536 [], .mbxRspHead 72 0, .stepFormRoster 8 true, .contextBench 1024, .stepComplete 0 1024 1,
      .fallbackWindowEnd 0 4096, .thermalCheck 65536 0 0, .vatElementOp 1024 0 1 0, .vatElementOp 0 0 13 0, .registerWrite 1 65536 0 32 0,
      .registerWrite 1 0 0 65 0].all (fun i => !i.wf) = true := by decide +kernel
theorem test_wf_slots :
    [Instr.mma bun 0 0 173 false false, .mwh bun 0 0 173 false, .mfold bun 173 false false, .msetc bun 0 173 false, .mzero bun 173,
      .vfma bun 0 0 0 0 .int32, .vrsum bun 0 0 false .bf16, .vrmax bun 0 0 false .fp16, .vexp bun 0 0 false .int32, .vtab bun 0 0 0 .fp16,
      .vdw bun 0 0 0 0 .fp16, .vamax bun 0 0 0 0 .int32, .sshli bun 0 0 64, .sloop bun 0 0 0, .srd bun 0 11, .scsr bun 4 0,
      .xsld bun 0 0 0 0 5, .xmst bun 0 0 0 0 13, .xpage bun 0 0 0 3, .xvat bun 0 0 0 0 13].all (fun i => !i.wf) = true := by decide +kernel
theorem test_wf_accepts :
    [Instr.mnop ⟨24999, true, 3⟩, .mma bun 15 15 172 true true, .sshli bun 1 1 63, .sloop bun 7 1 255, .srd bun 1 10, .scsr bun 3 1,
      .xsld bun 0 0 0 0 12, .xpage bun 0 0 0 2, .xvat bun 0 0 0 0 12, .msgPing 71, .coreFailDeclare 25999, .vatElementOp 0xFFFF 0 12 0,
      .registerWrite 1 65535 0 64 0, .fallbackWindowEnd 7 4095].all (fun i => i.wf) = true := by decide +kernel

/-! Scalar slots (02 R52 to R61). -/

/-- s1 = 2^64 - 1, s2 = 1 (02 R53: modulo 2^64). -/
def regs12 (c : CoreRegs) : CoreRegs := { c with sregs := [(1, 0xFFFFFFFFFFFFFFFF), (2, 1), (3, 0xFFFFFFFF), (4, 0x100000000)] }

theorem test_sadd_wraps : scalarWrite (onCore regs12) (busy regs12).pre (.sadd bun 5 1 2) = some (bun, 5, 0) := by decide +kernel
theorem test_ssra_sign : scalarWrite (onCore regs12) (busy regs12).pre (.ssra bun 5 1 2) = some (bun, 5, 0xFFFFFFFFFFFFFFFF) := by
  decide +kernel
theorem test_saddi_negative : scalarWrite (onCore regs12) (busy regs12).pre (.saddi bun 5 2 0x7F) = some (bun, 5, 0) := by decide +kernel
theorem test_sslt_signed : scalarWrite (onCore regs12) (busy regs12).pre (.sslt bun 5 1 2) = some (bun, 5, 1) := by decide +kernel
/-- s0 reads zero and discards what is written (R36). -/
theorem test_s0 : (match exec (.sadd bun 0 1 2) (onCore regs12) with | .next t => decide (t = onCore regs12) | _ => false) = true := by
  decide +kernel

theorem witness_ScalarResults : (onCore regs12).Issues bun 0 (busy regs12) ∧
    scalarWrite (onCore regs12) (busy regs12).pre (.sadd bun 15 1 2) = some (bun, 15, 0) ∧
    scalarWrite (onCore regs12) (busy regs12).pre (.sadd bun 0 1 2) = some (bun, 0, 0) ∧
    scalarWrite (onCore regs12) (busy regs12).pre (.sshl bun 5 2 1) = some (bun, 5, 0x8000000000000000) :=
  ⟨of_issues (by decide +kernel), by decide +kernel⟩

/-- The first slot of a bundle: the program counter moves to the bundle. -/
theorem witness_BranchesAndNops : (onCore regs12).Issues bun 0 (busy regs12) ∧ (busy regs12).pre.sr 0 = 0 ∧ (busy regs12).pre.sr 1 ≠ 0 ∧
    (onCore (fun c => { c with nextPc := 2047 })).Issues ⟨0, true, 0⟩ 0
      ⟨running (fun c => { c with pc := 2047, nextPc := 2048 }), running (fun c => { c with nextPc := 2047 })⟩ :=
  ⟨of_issues (by decide +kernel), by decide +kernel, by decide +kernel, of_issues (by decide +kernel)⟩

/-- Loops 0 to 2: active with one pass left, active with two, and inactive. -/
def loops3 (c : CoreRegs) : CoreRegs := { regs12 c with loops := [(0, ⟨true, 1, 1, 5⟩), (1, ⟨true, 2, 1, 5⟩)] }

theorem witness_LoopRules : (onCore loops3).Issues bun 0 (busy loops3) ∧
    (((busy loops3).pre.sr 3).toNat < 2 ^ 32 ∧ (busy loops3).pre.sr 3 ≠ 0 ∧ (busy loops3).pre.sr 0 = 0 ∧ 2 ^ 32 ≤ ((busy loops3).pre.sr 4).toNat ∧
      ((busy loops3).now.loop 0).active = true ∧ ((busy loops3).now.loop 0).count ≤ 1 ∧
      ((busy loops3).now.loop 1).active = true ∧ 1 < ((busy loops3).now.loop 1).count ∧ ((busy loops3).now.loop 2).active = false) ∧
    (onCore loops3).physOf 1 = some 1 ∧ (0x10000 : W32).getLsbD 17 = false ∧ ((onCore loops3).core 1).now.st ≠ .running ∧
    ∃ t, exec (.coreRun 1 0x10000) (onCore loops3) = .next t :=
  ⟨of_issues (by decide +kernel), by decide +kernel, by decide +kernel, by decide, by decide +kernel, ⟨_, rfl⟩⟩

/-- s1 holds the pair 8, 8; s2 the pair 0, 8, which R47 does not permit. -/
def pairs (c : CoreRegs) : CoreRegs := { c with sregs := [(1, 0x88), (2, 0x80)] }

theorem witness_ControlRegistersAndPosts : (onCore pairs).Issues bun 0 (busy pairs) ∧
    (pairOf (((busy pairs).pre.sr 1).toNat % 16) (((busy pairs).pre.sr 1).toNat / 16 % 16)).isSome = true ∧
    pairOf (((busy pairs).pre.sr 2).toNat % 16) (((busy pairs).pre.sr 2).toNat / 16 % 16) = none ∧
    1 ≤ (1 : BitVec 7).toNat ∧ (3 : BitVec 7).toNat ≤ 3 :=
  ⟨of_issues (by decide +kernel), by decide +kernel⟩

theorem witness_StoppedCoreIssuesNothing : slotOf (.vnop bun) = some bun ∧ State.reset.physOf bun.core = some 0 ∧
    (State.reset.core 0).now.st ≠ .running ∧ ((onCore (fun c => { c with stopping := some 0 })).core 0).now.stopping ≠ none := by
  decide +kernel

theorem witness_SlotsKeepToTheirCore : slotOf (.ssig bun 1) = some bun ∧ (∃ t, exec (.ssig bun 1) (onCore pairs) = .next t) ∧
    (onCore pairs).physOf bun.core ≠ some 1 :=
  ⟨rfl, ⟨_, rfl⟩, by decide +kernel⟩

/-! The vector slot (02 R49 to R51; 03 R68; 06; 07; 08). -/

/-- v1 holds 1.0 in every lane, v2 the quiet NaN; s1 = 195,840, s2 = 195,968, s3 = 392,704 (the last 512 bytes of the tile buffer), s4 =
2^24 - 1, s5 = 2^24, s6 a weight with offset 128, s7 one with offset 129, s8 = 2^41, s9 = 196,096 (the last 512 bytes of accumulator
memory). -/
def vecs (c : CoreRegs) : CoreRegs := { c with
  vregs := [(1, ofLanes (fun _ => 0x3F800000)), (2, ofLanes (fun _ => 0x7FC00000))]
  sregs := [(1, 195840), (2, 195968), (3, 392704), (4, 0xFFFFFF), (5, 0x1000000), (6, 128 * 2 ^ 32), (7, 129 * 2 ^ 32), (8, 2 ^ 41), (9, 196096)]
  tabs := [(0, ⟨some ⟨0, 0, 1, 0, 1, 0, 0x3F800000, [0, 0]⟩, none, false, false⟩), (1, ⟨none, none, true, false⟩)] }

/-- Lane `k` of register `vd` after a vector command. -/
def laneAfter (i : Instr) (vd : BitVec 6) (k : Nat) : Option W32 :=
  match exec i (onCore vecs) with | .next t => some (lane ((t.core 0).now.vr vd) k) | _ => none

/-- 1 + 1 = 2 and 1 × 1 + 1 = 2 in FP32. -/
theorem test_vadd : laneAfter (.vadd bun 3 1 1 .fp32) 3 127 = some 0x40000000 := by decide +kernel
theorem test_vfma : laneAfter (.vfma bun 3 1 1 1 .fp32) 3 0 = some 0x40000000 := by decide +kernel
/-- The maximum with a NaN is the quiet NaN (R531). -/
theorem test_vmax_nan : laneAfter (.vmax bun 3 1 2 .fp32) 3 5 = some 0x7FC00000 := by decide +kernel
theorem test_vneg : laneAfter (.vneg bun 3 1 .fp32) 3 5 = some 0xBF800000 := by decide +kernel
theorem test_vcmp_le : laneAfter (.vcmp bun 3 1 1 3 .fp32) 3 9 = some 1 := by decide +kernel
theorem test_vcvt_int : laneAfter (.vcvt bun 3 1 .fp32 0 .int32) 3 9 = some 1 := by decide +kernel
/-- 32 ones sum to 32 in a row's lane 0 (R531). -/
theorem test_vrsum : laneAfter (.vrsum bun 3 1 false .fp32) 3 96 = some 0x42000000 := by decide +kernel

theorem witness_VectorElementResults : (onCore vecs).Issues bun 0 (busy vecs) ∧
    (∃ g, vecElem (busy vecs).pre (.vadd bun 3 1 2 .fp32) = some (bun, 3, .fp32, g)) ∧
    (∃ g, vecElem (busy vecs).pre (.vfma bun 3 1 1 2 .bf16) = some (bun, 3, .bf16, g)) ∧ 127 < elemCount .fp32 ∧ 255 < elemCount .bf16 :=
  ⟨of_issues (by decide +kernel), ⟨_, rfl⟩, ⟨_, rfl⟩, by decide +kernel⟩

theorem witness_ReductionsMovesAndConversion : (onCore vecs).Issues bun 0 (busy vecs) := of_issues (by decide +kernel)

theorem witness_QuantisedRows : (onCore vecs).Issues bun 0 (busy vecs) ∧ (5 : BitVec 4).toNat ≤ 5 ∧ 5 < (6 : BitVec 4).toNat :=
  ⟨of_issues (by decide +kernel), by decide +kernel⟩

theorem witness_VectorMemory : (onCore vecs).Issues bun 0 (busy vecs) ∧
    vaddrOk (vaddr (busy vecs).pre 3 0) Config.tileBufferBytes = true ∧ vaddrOk (vaddr (busy vecs).pre 3 1) Config.tileBufferBytes = false ∧
    vaddrOk (vaddr (busy vecs).pre 9 0) Config.accBytes = true ∧ vaddrOk (vaddr (busy vecs).pre 9 1) Config.accBytes = false ∧
    vaddrOk (vaddr (busy vecs).pre 0 (-1)) Config.accBytes = false :=
  ⟨of_issues (by decide +kernel), by decide +kernel⟩

theorem witness_TablesTapsAndArgMax : (onCore vecs).Issues bun 0 (busy vecs) ∧ VTy.fmt? .fp32 = some .fp32 ∧
    (((busy vecs).now.tab 0).pend = false ∧ ((busy vecs).now.tab 0).act ≠ none) ∧
    (((busy vecs).now.tab 2).pend = false ∧ ((busy vecs).now.tab 2).act = none) ∧ ((busy vecs).now.tab 1).pend = true ∧
    (((busy vecs).pre.sr 6).toNat < 2 ^ 41 ∧ ((busy vecs).pre.sr 6).toNat / 2 ^ 32 % 512 ≤ elemCount .fp32) ∧
    elemCount .fp32 < ((busy vecs).pre.sr 7).toNat / 2 ^ 32 % 512 ∧ 2 ^ 41 ≤ ((busy vecs).pre.sr 8).toNat ∧ (2 : BitVec 6) ≠ 1 :=
  ⟨of_issues (by decide +kernel), rfl, by decide +kernel⟩

theorem witness_WelfordAndStateUpdate : (onCore vecs).Issues bun 0 (busy vecs) ∧ (2 : BitVec 6) ≠ 1 ∧
    ((busy vecs).pre.sr 4).toNat % 2 ^ 32 < 2 ^ 24 ∧ 2 ^ 24 ≤ ((busy vecs).pre.sr 5).toNat % 2 ^ 32 ∧
    ((busy vecs).pre.sr 1).toNat % 256 = 0 ∧ ((busy vecs).pre.sr 1).toNat ≤ 195840 ∧
    ((busy vecs).pre.sr 2).toNat % 256 ≠ 0 ∧ 195840 < ((busy vecs).pre.sr 9).toNat :=
  ⟨of_issues (by decide +kernel), by decide +kernel⟩

/-! The matrix slot (02 R44 to R48; 03 R71 to R83). -/

/-- FP16 operands: s1 the last address of an operand, s2 one line further; s3 and s4 the same for a carry tile and a whey operand's
row; a whey base of 172. -/
def mats (c : CoreRegs) : CoreRegs := { c with
  mfmtA := 9, mfmtB := 9, wheyBase := some 172
  sregs := [(1, 391168), (2, 391232), (3, 393088), (4, 393152), (5, 389120), (6, 389184), (7, 0x100000000)] }
/-- The curd register of cell (0, 0) of tile 172 full, of a K-block of pair 22. -/
def full (c : CoreRegs) : CoreRegs := { mats c with am := Mem.wrLE [] (curdAddr 172 0 0) 16 (Curd.toNat ⟨0, 0, 32, 22, 0, false, false⟩) }
/-- The same cell open, of a K-block of pair 21. -/
def open21 (c : CoreRegs) : CoreRegs := { mats c with am := Mem.wrLE [] (curdAddr 172 0 0) 16 (Curd.toNat ⟨0, 0, 1, 21, 0, false, false⟩) }

/-- Pair 22 (FP16 by FP16) has a window of 103 bits (R71). -/
theorem test_pair_window : (pairOf 9 9).map (fun p => p.lsb) = some (-91) := by decide +kernel
/-- An operand of FP16 is 2,048 bytes, one of FP4 512 + 64 (R46). -/
theorem test_operand_sizes : operandSize 9 = 2048 ∧ operandSize 0 = 576 := by decide +kernel
/-- 1.0 × 2.0 placed and folded from a clear register gives 2.0 (R73, R77). -/
theorem test_fold_two : (Curd.fold ((Curd.place ⟨22, 70, -91, true⟩ .clear (.fin false 1 1) 1 : Curd)) 0 none true).2 = false := by decide +kernel

/-- The core of `mats` with a transfer to accumulator memory outstanding that holds the KiB at 0, and its first curd tile. -/
def holdingAm (c : CoreRegs) : CoreRegs := { mats c with xfers := [⟨.accTo, 1, 0, 0, 1024, 0, 0, false, none⟩] }
/-- The same without the transfer; the word of the tile buffer at 389,120 holds one upset bit, or two. -/
def upsetTb (two : Bool) (c : CoreRegs) : CoreRegs := (mats c).upset 1 48640 (if two then 3 else 1)
/-- What statements of the matrix and the vector slot ask of the stores: nothing held and every word readable; a KiB held; a word
corrected; a word uncorrectable. -/
theorem witness_StoresHeldAndUpset :
    (∀ wr, (busy mats).pre.amHeld wr [(0, 512)] = false) ∧ (busy mats).pre.tileHeld 172 = false ∧ (busy mats).pre.xaccHeld .accTo 0 0 1024 = false ∧
    ((∀ wr, (busy holdingAm).pre.amHeld wr [(0, 512)] = true) ∧ (busy holdingAm).pre.amHeld false [(1024, 512)] = false ∧ (busy holdingAm).pre.tileHeld 0 = true ∧
      (busy holdingAm).pre.xaccHeld .accTo 0 0 1024 = true) ∧
    (((busy mats).now.guarded [(389120, 2048)] [] [(0, 16)] [(0, 16)] none some).isSome = true ∧
      ((busy (upsetTb false)).now.guarded [(389120, 2048)] [] [] [] none some).map (fun c => (c.eccCount, c.flips)) = some (1, []) ∧
      (busy (upsetTb true)).now.guarded [(389120, 2048)] [] [] [] none some = none ∧
      ((busy (upsetTb true)).now.guarded [] [(389120, 2048)] [] [] none some).map (fun c => (c.eccCount, c.flips)) = some (0, [])) ∧
    (onCore holdingAm).Issues bun 0 (busy holdingAm) ∧ (onCore (upsetTb true)).Issues bun 0 (busy (upsetTb true)) :=
  ⟨by decide +kernel, by decide +kernel, by decide +kernel, by decide +kernel, by decide +kernel, of_issues (by decide +kernel), of_issues (by decide +kernel)⟩
/-- A bundle whose own word is uncorrectable. -/
def upsetStore (c : CoreRegs) : CoreRegs := ({ mats c with pc := 3, nextPc := 3 }).upset 0 6 3
theorem witness_FaultStopsTheBundle_store : (∃ c, ((onCore upsetStore).core 0).begin true = some c ∧ c.read true = none) ∧
    slotOf (.vnop ⟨0, true, 0⟩) = some ⟨0, true, 0⟩ ∧ (onCore upsetStore).physOf 0 = some 0 ∧ (onCore upsetStore).pwr.stopped = [] :=
  ⟨⟨_, rfl, by decide +kernel⟩, by decide +kernel⟩

theorem witness_UnspilledKBlockIsExact :
    (∀ v ∈ [((.fin false 1 1 : FV), (1 : Int)), (.fin true 3 0, 1)], v.1.isFin = true) ∧
    ([((.fin false 1 1 : FV), (1 : Int)), (.fin true 3 0, 1)].foldl (fun c v => Curd.place ⟨22, 70, -91, true⟩ c v.1 v.2) Curd.clear).sticky = false := by
  decide +kernel

theorem witness_MultiplyAccumulate : (onCore mats).Issues bun 0 (busy mats) ∧ (pairOf (busy mats).pre.mfmtA.toNat (busy mats).pre.mfmtB.toNat).isSome = true ∧
    (172 : BitVec 8).toNat ≤ 172 ∧ tbOk ((busy mats).pre.sr 1).toNat (operandSize 9) = true ∧
    ∀ i, i < 32 → ∀ j, j < 32 → ((busy mats).now.curd 172 i j).mbc ≠ 32 ∧ ((busy mats).now.curd 172 i j).mbc = 0 :=
  ⟨of_issues (by decide +kernel), by decide +kernel, by decide, by decide +kernel, by decide +kernel⟩

theorem witness_CarriesSetAndCellsCleared : (onCore mats).Issues bun 0 (busy mats) ∧ (172 : BitVec 8).toNat ≤ 172 ∧
    tbOk ((busy mats).pre.sr 3).toNat 128 = true ∧ tbOk ((busy mats).pre.sr 5).toNat 4096 = true :=
  ⟨of_issues (by decide +kernel), by decide +kernel⟩

theorem witness_FoldAndWhey : (onCore mats).Issues bun 0 (busy mats) ∧ (172 : BitVec 8).toNat ≤ 172 ∧ (busy mats).now.wheyBase = some 172 ∧
    tbOk ((busy mats).pre.sr 1).toNat 2048 = true ∧ Curd.clear.av = false ∧ Curd.clear.special = 0 :=
  ⟨of_issues (by decide +kernel), by decide +kernel⟩

/-- A core with a transfer outstanding. -/
def moving (c : CoreRegs) : CoreRegs := { c with xfers := [⟨.copy, 1, 0, 64, 64, 0, 0, false, none⟩] }

theorem witness_FaultStopsTheBundle : (onCore mats).Issues bun 0 (busy mats) ∧ E_CORE_OPERAND ≠ 0 ∧ (busy mats).pre.xfers = [] ∧
    (onCore moving).Issues bun 0 (busy moving) ∧ (busy moving).pre.xfers ≠ [] ∧
    (onCore mats).Issues ⟨0, true, 0⟩ 0 ⟨running (fun c => { mats c with nextPc := 1 }), running mats⟩ :=
  ⟨of_issues (by decide +kernel), by decide, by decide +kernel, of_issues (by decide +kernel), by decide +kernel, of_issues (by decide +kernel)⟩

theorem witness_MatrixAndLoopStops : (onCore full).Issues bun 0 (busy full) ∧ (onCore open21).Issues bun 0 (busy open21) ∧
    ((pairOf (busy full).pre.mfmtA.toNat (busy full).pre.mfmtB.toNat).isSome = true ∧ tbOk ((busy full).pre.sr 2).toNat (operandSize 9) = false ∧
      (172 : BitVec 8).toNat ≤ 172 ∧ tbOk ((busy full).pre.sr 1).toNat (operandSize 9) = true) ∧
    (((busy full).pre.rowMask 0).getLsbD 0 = true ∧ ((busy full).pre.colMask 0).getLsbD 0 = true ∧ ((busy full).now.curd 172 0 0).mbc = 32) ∧
    ((∀ i, i < 32 → ∀ j, j < 32 → ((busy open21).now.curd 172 i j).mbc ≠ 32) ∧ ((busy open21).now.curd 172 0 0).mbc ≠ 0 ∧
      (pairOf 9 9).map (·.code) ≠ some ((busy open21).now.curd 172 0 0).pair) ∧
    (tbOk ((busy full).pre.sr 2).toNat 2048 = false ∧ (busy full).now.wheyBase ≠ some (171 : BitVec 8).toNat) ∧
    (tbOk ((busy full).pre.sr 4).toNat 128 = false ∧ tbOk ((busy full).pre.sr 6).toNat 4096 = false) ∧ 2 ^ 32 ≤ ((busy full).pre.sr 7).toNat :=
  ⟨of_issues (by decide +kernel), of_issues (by decide +kernel), by decide +kernel, by decide +kernel,
    ⟨by decide +kernel, by decide +kernel, by decide +kernel⟩, by decide +kernel, by decide +kernel, by decide +kernel⟩

/-! The transfer slot (02 R57 to R59; 04 R117; 08 R209; 10 R259). -/

/-- A request for nothing. -/
def noReq : Req := ⟨64, 0, 0, 0, false, [], 0⟩
/-- A run of context 0 on core 0. -/
def aRun : Run := ⟨0, 0, 1, false, 1, 0, .plain, 0, none, 0, false, [], [], false, false, false, 0, false, 0, 0, 0, [], none, 0, false⟩
/-- A page descriptor of one micro-block, at the client object. -/
def aDesc : PageDesc := ⟨4 * 262144, 0, 0, 0, true, false, 1, 0, 1, 0, 1, 1, 0, 0, 0, 8, 0, 1⟩
/-- s1 = 64; s2 = 393,216; s3 = 65; s4 = 393,280; s5 a client object's address; s6 = 2^52; s7 = 32; the first descriptor of a plain
planar conversion in CORE_XCVT0 (one channel, one position, pitch 64 per 64 bytes) and a pitch of 1 in CORE_XCVT1. -/
def regsX (c : CoreRegs) : CoreRegs := { c with
  run := some aRun, sregs := [(1, 64), (2, 393216), (3, 65), (4, 393280), (5, 4 * 262144), (6, 2 ^ 52), (7, 32)]
  xcvt0 := 64 * 2 ^ 32, xcvt1 := 2 ^ 32, halo := [(1, 64)], pageQ := [aDesc] }
def fullX (c : CoreRegs) : CoreRegs := { regsX c with xfers := List.replicate 32 ⟨.copy, 1, 0, 64, 64, 0, 0, false, none⟩ }
/-- `s` with one client object of context 0, in block 4, fresh in region 32,768, the first (10 R270). -/
def withObj (s : State) : State := { s with tier := { s.tier with
  objs := [(4, ⟨262144, 0, 0, some 0, .client, none⟩)], blocks := [(4, .fresh 32768)], regs := [(32768, .fresh 4)] } }
def onX : State := withObj (onCore regsX)

theorem witness_TransfersIssue : onX.Issues bun 0 (busy regsX) ∧ (withObj (onCore fullX)).Issues bun 0 (busy fullX) ∧
    xferOf (.xcopy bun 1 0 2 3) = some (bun, .copy, 1, 0, 2, 3, 0) ∧
    (((busy regsX).pre.sr 3).toNat % 64 ≠ 0 ∧ 393216 < ((busy regsX).pre.sr 4).toNat ∧ ((busy regsX).pre.sr 0).toNat = 0) ∧
    (((busy regsX).pre.sr 2).toNat ≠ 0 ∧ ((busy regsX).pre.sr 2).toNat % 64 = 0 ∧ ((busy regsX).pre.sr 2).toNat ≤ 393216) ∧
    onX.xferCode (busy regsX).pre .copy 0 64 0 393216 ≠ 0 ∧ onX.xferCode (busy regsX).pre .copy 0 0 0 393216 = 0 ∧
    (busy regsX).now.xfers.length < 32 ∧ 32 ≤ (busy fullX).now.xfers.length :=
  ⟨of_issues (by decide +kernel), of_issues (by decide +kernel), rfl, by decide +kernel⟩

theorem witness_TransferChecks :
    (xferStores .accFrom = some (196608, 393216) ∧ xferStores .sld = some (4194304, 393216)) ∧
    ((64 % 64 = 0 ∧ 64 + 196544 ≤ 196608) ∧ ¬(64 + 196608 ≤ 196608)) ∧ (¬(2 ^ 52 ≤ 2 ^ 52 - 64) ∧ 2 ^ 52 ≤ 2 ^ 52) ∧
    moveMap ((1 : BitVec 4).toNat % 8) (running regsX).xcvt1 64 = none ∧ (9 : BitVec 4).getLsbD 3 = true ∧
    (moveMap ((1 : BitVec 4).toNat % 8) (running regsX).xcvt0 64).isSome = true ∧
    (vatWidth 13 = 0 ∧ vatWidth 12 = 8 ∧ 4 % vatWidth 12 ≠ 0 ∧ 8 % vatWidth 12 = 0) ∧
    onX.accessCode (running regsX).agent true (4 * 262144) 64 = 0 ∧ onX.accessCode (running regsX).agent true (5 * 262144) 64 ≠ 0 := by
  decide +kernel

theorem witness_HalosPagesAndFences : onX.Issues bun 0 (busy regsX) ∧ (withObj (onCore fullX)).Issues bun 0 (busy fullX) ∧
    (neighbour bun.core 0 = none ∧ neighbour bun.core 1 = some 1 ∧ ((busy regsX).pre.sr 2).toNat % 64 = 0 ∧ ((busy regsX).pre.sr 2).toNat ≤ 393216 ∧
      0 % 64 = 0 ∧ 0 + 393216 ≤ 393216 ∧ ¬(64 + 393216 ≤ 393216)) ∧
    ((busy regsX).now.haloCount 1 = ((busy regsX).pre.sr 1).toNat ∧ (busy regsX).now.haloCount 1 < ((busy regsX).pre.sr 3).toNat) ∧
    ((∃ x ∈ (busy fullX).now.xfers, x.len ≠ 0 ∧ x.tag = 1) ∧ ¬∃ x ∈ (busy fullX).now.xfers, x.len ≠ 0 ∧ x.tag = 2) ∧
    ((running id).pageQ = [] ∧ (running id).walkLeft = [] ∧ (running (fun c => { c with walkLeft := [aDesc] })).walkLeft ≠ [] ∧
      (busy regsX).now.pageQ = aDesc :: [] ∧ (2 : BitVec 2) ≠ 3 ∧ 0 % 64 = 0 ∧ 0 + (64 + 2 * aDesc.landed * 64) ≤ 393216) :=
  ⟨of_issues (by decide +kernel), of_issues (by decide +kernel), by decide +kernel, by decide +kernel, by decide +kernel, by decide +kernel⟩

/-- Core 0 with transfers of every kind within its cluster outstanding, at the ends of their stores. -/
def inside (c : CoreRegs) : CoreRegs := { c with xfers := [⟨.copy, 1, 393152, 0, 64, 0, 0, false, none⟩, ⟨.sld, 1, 0, 4194240, 64, 8, 0, false, none⟩,
  ⟨.sst, 1, 0, 64, 64, 0, 0, false, none⟩, ⟨.accTo, 1, 196544, 0, 64, 0, 0, false, none⟩, ⟨.accFrom, 1, 0, 196544, 64, 0, 0, false, none⟩] }

theorem witness_ClusterTransfersLand : (onCore inside).physOf 0 = some 0 ∧
    (((onCore inside).core 0).now.xfers.map (·.kind)) = [.copy, .sld, .sst, .accTo, .accFrom] ∧
    ∀ x ∈ ((onCore inside).core 0).now.xfers, (((onCore inside).core 0).now.mapOf x.kind x.mod x.len).isSome = true := by decide +kernel
/-- Word 0 of the tile buffer, which the first of them reads, is uncorrectable; without it nothing stops one. -/
theorem witness_ClusterTransfersLand_upset :
    (∃ x ∈ (((onCore inside).core 0).now.xfers[0]?), ∃ m ∈ ((onCore inside).core 0).now.mapOf x.kind x.mod x.len,
      ((onCore inside).xferWords 0 x m).2 = 0 ∧ ((onCore (fun c => (inside c).upset 1 0 3)).xferWords 0 x m).2 ≠ 0) ∧
    (busy (fun c => (inside c).upset 1 0 3)).now.guarded [(0, 64)] [] [] [] none some = none ∧ (busy inside).now.flips = [] := by decide +kernel

/-- One channel of 16-bit elements at a pitch of 64 bytes; a factor of two over two positions. -/
theorem witness_ConversionsMoveEveryElement :
    (moveMap 1 (1 + 64 * 2 ^ 32) 64).isSome = true ∧ (moveMap 2 (1 + 64 * 2 ^ 32) 64).isSome = true ∧
    (moveMap 3 (2 ^ 14 + 2 ^ 28 + 64 * 2 ^ 32) 64).isSome = true ∧ (moveMap 4 (2 ^ 14 + 2 ^ 28 + 64 * 2 ^ 32) 64).isSome = true ∧ (64 : Nat) ≠ 0 := by
  decide +kernel

/-- Core 0 sends two halos east; core 1 has one more place in its counter from the west, and one arrival that waits. -/
def halos : State := (onCore (fun c => { c with xfers := [⟨.halo, 1, 0, 0, 64, 1, 0, false, none⟩, ⟨.halo, 1, 0, 0, 0, 1, 0, false, none⟩] })).setCore 1
  (busy (fun c => { c with halo := [(0, 65535), (3, 65533)], haloHeld := [(0, 1), (3, 1)] }))

theorem witness_HalosLandAndCount : halos.physOf 0 = some 0 ∧ neighbour 0 1 = some 1 ∧ halos.physOf 1 = some 1 ∧
    ((halos.core 1).now.haloCount 3 + AMap.getD (halos.core 1).now.haloHeld 0 3 < 65535) ∧
    ((∀ y ∈ (halos.core 0).now.xfers.take 0, y.kind = .halo → y.mod ≠ 1) ∧ ¬∀ y ∈ (halos.core 0).now.xfers.take 1, y.kind = .halo → y.mod ≠ 1) ∧
    (AMap.getD (halos.core 1).now.haloHeld 0 2 = 0 ∧ AMap.getD (halos.core 1).now.haloHeld 0 3 ≠ 0 ∧ (halos.core 1).now.haloCount 3 < 65535 ∧
      65535 ≤ (halos.core 1).now.haloCount 0) := by decide +kernel

/-- Core 0 with transfers at the client object: a load, a store, a page, and a vat transfer over two lines of which one is applied. -/
def atObj (c : CoreRegs) : CoreRegs := { c with
  run := some aRun
  xfers := [⟨.mld, 1, 0, 4 * 262144, 64, 0, 0, false, none⟩, ⟨.mst, 1, 4 * 262144 + 262080, 0, 64, 0, 0, false, none⟩, ⟨.page, 1, 0, 0, 576, 0, 0, false, some aDesc⟩,
    ⟨.vat, 1, 4 * 262144 + 32, 0, 64, 0, 2, true, none⟩, ⟨.vat, 1, 4 * 262144 + 32, 0, 64, 0, 1, false, none⟩, ⟨.vat, 2, 4 * 262144 + 64, 0, 64, 0, 0, false, none⟩] }
def objs : State := withObj (onCore atObj)
/-- The code of a state and something else. -/
def codeOf {α : Type} (r : State × Code × α) : Code := r.2.1

theorem witness_ObjectTransfersLand : objs.physOf 0 = some 0 ∧ ((objs.core 0).now.xfers.map (·.kind)) = [.mld, .mst, .page, .vat, .vat, .vat] ∧
    (∀ x ∈ (objs.core 0).now.xfers, ((objs.core 0).now.mapOf x.kind x.mod x.len).isSome = true) ∧
    codeOf (objs.gatherObj ((objs.core 0).now.access 0) 0 (4 * 262144) [(0, 64)] []) = 0 ∧
    (objs.scatterObj ((objs.core 0).now.access 0) 0 (4 * 262144 + 262080) [] [(0, 64)]).2 = 0 ∧
    codeOf (objs.landPage ((objs.core 0).now.access 0) 0 0 none aDesc 0) = 0 ∧
    codeOf (objs.landPage ((objs.core 0).now.access 0) 0 0 none { aDesc with addr := 5 * 262144 } 0) ≠ 0 ∧
    (AMap.find? objs.tier.blocks (4 * 262144 / 262144) = some (.fresh 32768) ∧ (4 * 262144 + 262080) % 262144 + 64 ≤ 262144 ∧ objs.mem.flips = []) := by
  decide +kernel

theorem witness_VatOperations : objs.physOf 0 = some 0 ∧
    (∀ x ∈ ((objs.core 0).now.xfers.drop 3).take 1, x.kind = .vat ∧ vatLines x ≤ x.lines) ∧
    (∀ x ∈ ((objs.core 0).now.xfers.drop 4).take 1, x.kind = .vat ∧ x.lines < vatLines x ∧
      ¬∃ z ∈ (objs.core 0).now.xfers.take 4, z.kind = .vat ∧ z.dst / 64 + z.lines ≤ x.dst / 64 + x.lines ∧ x.dst / 64 + x.lines < z.dst / 64 + vatLines z) ∧
    (∃ z ∈ (objs.core 0).now.xfers.take 5, z.kind = .vat ∧ z.dst / 64 + z.lines ≤ 16385 ∧ 16385 < z.dst / 64 + vatLines z) ∧
    objs.freshAddr (4 * 262144 + 64) = some (32768 * 262144 + 64) ∧
    (vatWidth 7 < 4 ∧ 4 ≤ vatWidth 0 ∧ 4 * 262144 % vatWidth 0 = 0 ∧ objs.accessCode (.coach 0) true (4 * 262144) 4 = 0 ∧
      objs.accessCode .umpire true (4 * 262144) 4 = 0 ∧ objs.accessCode (.coach 1) true (4 * 262144) 4 ≠ 0) ∧
    (vatWidth 2 ≠ 0 ∧ ([1, 0, 2, 0] : List Byte).length = vatWidth 2 * 2 ∧ objs.mem.flips = []) := by decide +kernel

/-- The next bundle waits in its XHWAIT for five halos from the west (02 R58), which have not come. -/
def waitsWest (c : CoreRegs) : CoreRegs := { c with sregs := [(1, 5)], istore := Mem.wrLE [] 0 16 (256 * (7 * 2 ^ 20 + 256 + 3)) }
/-- Core 0: running, halted with nothing outstanding; core 1: running with a transfer; core 5: stopping with a code; core 6 idle. -/
def stops : State := (((onCore (fun c => { c with halt := true, nextPc := 2048 })).setCore 1 (busy moving)).setCore 5
  (busy (fun c => { c with stopping := some E_CORE_OPERAND })))

theorem witness_CoresStartAndStop : stops.physOf 0 = some 0 ∧ stops.physOf 6 = some 6 ∧ (stops.core 6).now.st ≠ .running ∧ (stops.core 0).now.st = .running ∧
    ((0x00010000 : W32).getLsbD 17 = false ∧ (0x00020000 : W32).getLsbD 16 = false) ∧
    ((stops.core 0).now.stopping = none ∧ (stops.core 0).now.nextPc = 2048 ∧ (stops.core 0).now.halt = true ∧ (stops.core 0).now.xfers = [] ∧
      (stops.core 0).now.run = none ∧ (stops.clu 0).events = []) ∧
    ((stops.core 5).now.stopping = some E_CORE_OPERAND ∧ (stops.core 1).now.xfers ≠ []) ∧
    ((stops.core 6).now.runReq = false ∧ ({ CoreRegs.reset with runReq := true } : CoreRegs).runReq = true) ∧
    (stops.haloPartner 0 0 1 = some 1 ∧ stops.physOf 1 = some 1 ∧ (stops.core 1).now.awaits 3 = false ∧
      (running waitsWest).awaits 3 = true ∧ (running waitsWest).xfers = [] ∧ (running (fun c => moving (waitsWest c))).awaits 3 = true ∧
      (stops.core 2).now.st ≠ .running) := by decide +kernel

/-! A configured block: court 0 on die 0 in roster mode with contexts 0 (BE) and 1 (LC), court 1 on die 1 in fixed mode with context 2; a
playbook of one layer for each; sequences. -/

def aKernel : Kernel := ⟨[0], [7]⟩
/-- A layer whose columns X are split over two clusters. -/
def aLayer : Layer := ⟨0, 1, 1, 32, 32, 32, 1, 32, 32, [⟨6, 2, 2, 0⟩], 0, 0, 1, 0, 1, false⟩
/-- Eight read rows of one head, one micro-block each. -/
def anAtt : AttEnt := ⟨0, 2, 0, 0, 0, 1, 1, 1, 1, 0, 1, 1, 0, 0, 0, 0, 0, 0, 0, false⟩
/-- One state tile a stream: 64 channels of 16 numbers; four slots. -/
def aRec : RecEnt := ⟨0, 0, 64, 4, 1, 0, 4, false⟩
def aPlan : Plan where
  minDies := 1
  digest := []
  kernels := [aKernel]
  bundleCounts := [1]
  shapeMax := List.replicate 16 4
  layers := [aLayer]
  halos := [⟨1, 0, 0, 0, 64, 64⟩]
  bufsets := []
  regions := []
  prec := [⟨0, 0, 0, 1, 0, 1000, 0, 0, 0, 0, 0, false⟩]
  wheyBase := 0
  whey := []
  tensors := []
  att := []
  recs := []
  conv := []
  roll := []
  wgt := []
def aBook (court ctx : Nat) : Playbook := ⟨court, ctx, 64, aPlan, 0, 0, true, 0⟩
def stateBook : Playbook := { aBook 0 0 with plan := { aPlan with recs := [aRec] } }
def rollBook : Playbook := { aBook 0 0 with plan := { aPlan with recs := [aRec], roll := [⟨0, 1, false⟩] } }
/-- A live sequence of context `ctx` under playbook `book`, with a token. -/
def aSeq (ctx court book : Nat) : Seq := { Seq.fresh ctx court book 64 with st := 2, tokens := 1 }
def aStep (ctx court num : Nat) (lc : Bool) (book : Nat) (seqs : List Nat) : Step :=
  ⟨court, ctx, num, lc, book, List.replicate 16 1, seqs.map (fun i => ⟨i, false, 0, true, List.replicate 16 1⟩), [], 0, 0, 0, none, [], [], [], [], false, false, [], false, 1, [], none⟩
def resident (k : Nat) : CtxSt := ⟨1, k, 0, 0, 0, 0, [], false, true⟩
def aCfg : CfgImage := { CfgImage.empty with
  courts := [(0, ⟨true, 0, 0, 1, 0, true, 4, 0, []⟩), (1, ⟨true, 0, 0, 2, 0, false, 4, 0, []⟩)]
  ctxs := [(0, ⟨0, false, 8, 0, 0⟩), (1, ⟨0, true, 8, 0, 0⟩), (2, ⟨1, false, 8, 0, 0⟩)]
  mbxs := [(0, ⟨true, 7⟩)] }
def aBatch : Batch := ⟨noReq, 1, 2, List.replicate 16 1, [⟨2, false, 0, true, List.replicate 16 1⟩], [], 0⟩
/-- The block, with its memory object and an object for the huddle area of court 0 in block 6. -/
def world : State :=
  let s := withObj State.reset
  { s with
    ump := { s.ump with slot0 := ⟨aCfg, 1⟩ }
    tier := { s.tier with
      objs := [(4, ⟨262144, 0, 0, some 0, .client, none⟩), (6, ⟨262144, 0, 0, none, .huddle 0, none⟩)]
      blocks := [(4, .fresh 32768), (6, .fresh 32769)], regs := [(32768, .fresh 4), (32769, .fresh 6)], limit := [(0, 1000), (1, 1000), (2, 1000)] }
    book := { s.book with books := [(1, aBook 0 0), (2, aBook 1 2), (3, stateBook), (4, rollBook), (5, aBook 0 1)], nextBook := 6 }
    sch := { s.sch with
      ctxs := [(0, resident 0), (1, resident 1), (2, { resident 2 with queue := [aBatch] })]
      seqs := [(0, aSeq 0 0 1), (1, aSeq 1 0 5), (2, aSeq 2 1 2)] } }
/-- `world` with steps and runs queued. -/
def withWork (steps : List Step) (queue : List Run) : State := { world with sch := { world.sch with steps := steps, queue := queue } }

/-! Runs and steps (04; 05; 07; 12; 14). -/

def lcRun : Run := { aRun with ctx := 1, step := 1, lc := true, playbook := 5 }
/-- A BE run of context 0 before an LC run of context 1, both for core 0. -/
def dispatching : State := withWork [aStep 0 0 1 false 1 [0], aStep 1 0 1 true 5 [1]] [aRun, lcRun]
def aShard : Shard := ⟨1, 1, 0, 0, 0, true, false, [], none, 0, [], 1⟩
/-- The same with a run whose part lies in a corrupt shard. -/
def corruptRun : State :=
  let s := withWork [aStep 0 0 1 false 1 [0]] [{ aRun with parts := [(4 * 262144, 64)] }]
  { s with wgt := { s.wgt with shards := [(4, { aShard with corrupt := true })] } }

theorem witness_RunsDispatch : dispatching.physOf 0 = some 0 ∧ dispatching.nextRun 0 = some lcRun ∧ (dispatching.eligible 0).any (·.lc) = true ∧
    (dispatching.core 0).now.st ≠ .running ∧ (dispatching.core 0).now.run = none ∧
    dispatching.sch.steps.find? (fun t => t.same 1 1) = some (aStep 1 0 1 true 5 [1]) ∧ AMap.find? dispatching.book.books 5 = some (aBook 0 1) ∧
    (aBook 0 1).plan.layers[0]? = some aLayer ∧ dispatching.readsCorrupt lcRun = false ∧
    ((corruptRun.nextRun 0).isSome = true ∧ corruptRun.readsCorrupt { aRun with parts := [(4 * 262144, 64)] } = true) ∧
    (world.nextRun 0 = none ∧ ((onCore id).core 0).now.st = .running) ∧
    ((running (fun c => { c with walkLeft := [aDesc], pageQ := List.replicate 7 aDesc })).pageQ.length < 8 ∧
      8 ≤ (running (fun c => { c with walkLeft := [aDesc], pageQ := List.replicate 8 aDesc })).pageQ.length) := by decide +kernel

/-- A run held for its part, which lies in the cave, of a shard that is not on the move. -/
def heldRun : Run := { aRun with core := 1, parts := [(5 * 262144, 64)] }
def holding : State :=
  let s := withWork [aStep 0 0 1 false 1 [0]] [heldRun]
  { s with tier := { s.tier with objs := [(5, ⟨262144, 0, 0, some 0, .client, none⟩)], blocks := [(5, .cave 0 [] [])] }
           wgt := { s.wgt with shards := [(5, aShard)] } }
/-- A unit's halo posted to its coach; core 25, the first of cluster 1, has room in its counter for it, and none from the north. -/
def posted : State :=
  let s := withWork [aStep 0 0 1 false 1 [0]] []
  ((s.setCore 0 (busy (fun c => { c with run := some aRun }))).modClu 0 (fun c => { c with events := [.signal 0 0xA1000000] })).setCore 26
    (busy (fun c => { c with halo := [(3, 65534), (0, 65535)] }))
/-- A step whose layer ends in a huddle: the counter reads 0, of `need`. -/
def gathering (need : Nat) : State :=
  withWork [{ aStep 0 0 1 false 1 [0] with huddles := [(0, ⟨6 * 262144 + 64, 64, 6 * 262144, need, false, false, 0⟩)] }] []
/-- A step whose key split is due for its merge. -/
def mergeBook : Playbook := { aBook 0 0 with plan := { aPlan with att := [{ anAtt with role := 1 }], layers := [{ aLayer with flags := 0, loops := [⟨3, 1, 2, 0⟩] }] } }
/-- A convolution whose arg-max records are split over two cores; the same over a ring of two. -/
def scanBook (level : Nat) : Playbook := { aBook 0 0 with plan := { aPlan with
  conv := [⟨0, 0, 2, 1, 1, 1, 1, 1, 1, 0, 1, 0, 0, 0, 0, 32, 64, 1, 1, 1, false⟩], layers := [{ aLayer with flags := 0, loops := [⟨2, level, 2, 0⟩] }] } }
def merging : State :=
  let s := withWork [{ aStep 0 0 1 false 1 [0] with mergeDue := true, merges := [(0, (6 * 262144, 4096))] }] []
  { s with book := { s.book with books := [(1, mergeBook)] } }

theorem witness_CoachesServeSteps :
    (holding.sch.queue.find? (fun r => decide (r.core = 1) && !r.recalled && holding.isHeld r) = some heldRun ∧
      (heldRun.parts.find? (fun p => holding.inCave p.1 p.2)).bind (fun p => holding.shardAt p.1) = some (5, aShard) ∧
      (holding.sch.steps.find? (fun t => t.same 0 1)).isSome = true ∧ (AMap.find? holding.tier.objs 5).isSome = true ∧
      holding.moveCode 5 ⟨262144, 0, 0, some 0, .client, none⟩ 0 = 0 ∧ holding.moveCode 5 ⟨262144, 0, 0, some 1, .client, none⟩ 0 ≠ 0) ∧
    (posted.physOf 0 = some 0 ∧ (posted.core 0).now.run = some aRun ∧
      (posted.clu 0).events.find? (fun e => e.isHalo && decide (e.core = 0)) = some (.signal 0 0xA1000000) ∧
      aPlan.halos[(0xA1000000 : W32).toNat % 2 ^ 16]? = some ⟨1, 0, 0, 0, 64, 64⟩ ∧ (1 : Nat).testBit 2 = false ∧
      haloPeer (posted.unitsFor aRun (aStep 0 0 1 false 1 [0]) (aBook 0 0)) 0 1 = some 25 ∧ posted.physOf 25 = some 26 ∧
      (posted.core 26).now.haloCount 3 < 65535 ∧ ¬(posted.core 26).now.haloCount 0 < 65535 ∧ (posted.clu 0).owed = [] ∧
      ((posted.modClu 0 (fun c => { c with owed := [(0, 0xA1000000, aRun)] })).clu 0).owed.find? (fun e => decide (e.1 = 0)) = some (0, 0xA1000000, aRun)) ∧
    (⟨262144, 0, 0, some 0, .client, some ⟨aShard.recallTier, 0, 64, none, none, 0, false⟩⟩ : Obj).move.map (fun m => (m.req, m.dest)) =
      some (none, aShard.recallTier) := by
  decide +kernel
theorem witness_CoachesServeSteps_gather :
    (((gathering 0).stepAt 0 0 1).isSome = true ∧ ((gathering 1).anyRead (umpAccess 0) (6 * 262144) 8).2.1 = 0 ∧
      leNat ((gathering 1).anyRead (umpAccess 0) (6 * 262144) 8).2.2 ≠ 1 ∧ leNat ((gathering 0).anyRead (umpAccess 0) (6 * 262144) 8).2.2 = 0) ∧
    ((merging.stepAt 0 0 1).isSome = true ∧ (mergeBook.plan.layers.all (fun l => (mergeBook.plan.merging l).any (fun mg => !mg.ring l && !mg.scan))) = true ∧
      (match merging.sch.steps with | t :: _ => !(merging.mergeRuns t mergeBook 0).isEmpty | [] => false) = true) ∧
    ((scanBook 1).plan.layers.map (fun l => ((scanBook 1).plan.merging l).map (fun mg => (mg.scan, mg.ring l))) = [some (true, false)] ∧
      (scanBook 4).plan.layers.map (fun l => ((scanBook 4).plan.merging l).map (fun mg => (mg.scan, mg.ring l))) = [some (true, true)] ∧
      ({ aStep 0 0 1 false 1 [0] with mergeGot := [0] } : Step).mergeGot.contains (16 * 0 + merging.ring.position) = true) := by decide +kernel

/-- The two entries of a step of context 0: one at its last pass, one before it. -/
def doneStep : Step := { aStep 0 0 1 false 1 [0, 3] with done := true, updated := [0] }

theorem witness_StepsFormAndEnd :
    (world.courtDefined 0 = true ∧ world.rosterMode 0 = true ∧ world.awake 0 = true ∧ world.laneFree 0 true = true ∧ world.pickCtx 0 true = some 1 ∧
      world.pickCtx 0 false = some 0 ∧ (withWork [aStep 1 0 1 true 5 [1]] []).pickCtx 0 true = none) ∧
    ((⟨svZero, [], [], 0⟩ : Picked).taken.length ≤ 4 ∧ aPlan.exceeds svZero = false) ∧
    ((world.ctxSt 2).queue = aBatch :: [] ∧ world.mayForm 1 false 2 = true ∧ world.awake (world.courtOf 2) = true ∧ world.laneFree 1 false = true ∧
      world.batchReady aBatch = true ∧ (aBatch.ents.findSome? (fun e => (world.seq e.seq).map (·.playbook))).getD 2 = 2 ∧
      ((world.setCtx 2 { world.ctxSt 2 with queue := [] }).formStep (world.courtOf 2) 2 false 2 aBatch.shape aBatch.ents aBatch.modes (some noReq)).isSome = true) ∧
    (((withWork [doneStep] []).stepAt 0 0 1).map (·.done) = some true ∧ (dispatching.stepAt 0 0 1).map (·.done) = some false) ∧
    ((aSeq 0 0 1).passes ≤ (aSeq 0 0 1).pass + 1 ∧ ({ aSeq 0 0 1 with passes := 2 } : Seq).pass + 1 < 2 ∧ doneStep.updated.contains 0 = true ∧
      doneStep.updated.contains 3 = false ∧ doneStep.status = 0 ∧ ({ doneStep with status := E_CORE_FAILED } : Step).status ≠ 0 ∧ world.seq 0 = some (aSeq 0 0 1)) ∧
    ((∃ q ∈ world.seq 2, q.gen = aBatch.gen ∧ q.playbook = aBatch.playbook) ∧ ∃ q ∈ world.seq 2, q.gen ≠ ({ aBatch with gen := 1 } : Batch).gen) := by
  decide +kernel

/-! The monitor, tables, replacements and repair (03; 06; 04; 20). -/

/-- A record at the thresholds: 65,536 elements quantised, of which 66 saturated, above 1,000 parts per million. -/
def aFb : FbRec := ⟨false, 0, 1000, 4, 66, 65536, 4, 0, 0⟩
def monitored (r : FbRec) : State := { world with book := { world.book with fb := [(0, r)] } }
/-- Playbook 6 replaces playbook 1. -/
def slept (k : Nat) : State := { world with pwr := { world.pwr with courts := [(k, { CourtPwr.reset with st := 2 })] } }
def replacing : State := { world with book := { world.book with books := world.book.books ++ [(6, { aBook 0 0 with replaces := 1, installed := false })] } }

theorem test_fallback_switches : (match exec (.fallbackWindowEnd 0 0) (monitored aFb) with
    | .next t => (t.fbRec 0 0).map (fun r => (r.fallback, r.lastRate, r.windows)) | _ => none) = some (true, 1007, 1) := by decide +kernel
theorem test_fallback_few_elements : (match exec (.fallbackWindowEnd 0 0) (monitored { aFb with elems := 65535 }) with
    | .next t => (t.fbRec 0 0).map (fun r => (r.fallback, r.lastRate)) | _ => none) = some (false, 1007) := by decide +kernel

theorem witness_MonitorTablesAndInstalls :
    ((monitored aFb).fbRec 0 0 = some aFb ∧ aFb.policy = 0 ∧ (monitored aFb).windowOf aFb ≤ aFb.steps ∧
      ({ aFb with steps := 3 } : FbRec).steps < (monitored aFb).windowOf aFb ∧ (monitored aFb).book.fbEnable = true ∧ 65536 ≤ aFb.elems ∧
      aFb.threshold * aFb.elems < aFb.sat * 1000000 ∧ ¬(1000 * 65536 < 65 * 1000000)) ∧
    (world.physOf 0 = some 0) ∧
    ((AMap.find? replacing.book.books 6).isSome = true ∧ (AMap.find? replacing.book.books 1).isSome = true ∧
      (∀ t ∈ replacing.sch.steps, t.playbook ≠ 1) ∧ (6 : Nat) ≠ 1 ∧ (∃ t ∈ dispatching.sch.steps, t.playbook = 1) ∧
      (aBook 0 0).installed = true ∧ (aBook 0 0).plan.scored = false ∧ rollBook.plan.scored = true ∧ (∀ e ∈ replacing.seqsOf 1, e.2.stream.slot = none)) ∧
    (world.courtOfDie 0 = some 0 ∧ world.courtGated 0 = false ∧ (slept 0).courtGated 0 = true) := by decide +kernel

/-- Cluster 999 has its last position failed; cluster 1 its spare in use. -/
def failing : State := (onCore id).modClu 999 (fun c => { c with failed := [24] }) |>.modClu 1 (fun c => { c with failed := [3], spareUsed := true, sparePos := 3 })

theorem witness_CoresFailAndAreReplaced :
    (25999 < 26000 ∧ ¬(25999 % 26 ∈ (failing.clu (25999 / 26)).failed) ∧ 26000 ≤ 26000 ∧ 25998 % 26 ∈ (failing.clu (25998 / 26)).failed) ∧
    ((failing.clu 999).failed = [24] ∧ (failing.clu 999).spareUsed = false ∧ 24 < 25 ∧ 999 < 1000 ∧ (failing.clu 1).spareUsed = true ∧
      ∀ pos, (failing.clu 0).failed ≠ [pos]) ∧
    (0 % 26 ∉ (failing.clu 0).failed ∧ (failing.core 0).now.st ≠ .fault ∧
      (let s := State.reset.setCore 0 ⟨{ CoreRegs.reset with st := .fault, fault := E_CORE_ECC }, CoreRegs.reset⟩
       ((s.upsetStores 0 []).core 0).now.st = .fault ∧ ((s.upsetStores 0 []).core 0).now.fault = E_CORE_ECC ∧
       ((s.upsetStores 0 [(1, 5, 1)]).core 0).now.readAll.isSome = true ∧ ((s.upsetStores 0 [(1, 5, 3)]).core 0).now.readAll = none)) := by
  refine ⟨by decide +kernel, ⟨by decide +kernel, by decide +kernel, by decide, by decide, by decide +kernel, fun pos h => ?_⟩, by decide +kernel⟩
  exact absurd h (by simp [failing, onCore, State.clu, State.modClu, State.setClu, State.setCore, State.reset, AMap.getD, AMap.find?, AMap.insert, Cluster.reset])

/-! Streams, futures, contexts and update steps (07; 09; 12; 13; 14). -/

def aStream (st : StreamSt) (slot : Option Nat) : Stream := ⟨st, 7, slot, none, none⟩
/-- A sequence with a stream under playbook 3. -/
def streamSeq (st : StreamSt) (slot : Option Nat) : Seq := { aSeq 0 0 3 with hasStream := true, stream := aStream st slot, stateSeq := 7, runs := 2 }
/-- The sequences of `world` and more, sequence 9 first among them. -/
def withSeqs (qs : List (Nat × Seq)) : State := { world with sch := { world.sch with seqs := world.sch.seqs ++ qs } }
def withSeq (q : Seq) : State := withSeqs [(9, q)]
def moved : Seq := streamSeq .resident (some 0)
def copyOf (out : Bool) (mode addr : Nat) : Copy := ⟨out, noReq, mode, addr, 6336, false, 0, false⟩

theorem witness_StreamCopies :
    ((withSeq moved).seq 9 = some moved ∧ (withSeq moved).bookOf moved = some stateBook ∧ moved.stream.slot = some 0) ∧
    (moved.stream.st = .resident ∧ (withSeq moved).atBoundary 9 moved = true ∧ (withSeq moved).slotHeld 3 3 = false ∧ 3 < stateBook.plan.slotCount ∧
      (withSeq moved).slotUsable ((withSeq moved).court 0) stateBook.plan 3 = true ∧ ¬4 < stateBook.plan.slotCount ∧ (withSeq moved).slotHeld 3 0 = true) ∧
    (({ moved with waits := [.exporting noReq 0 0] } : Seq).waits = .exporting noReq 0 0 :: [] ∧ (streamSeq .lost none).stream.st = .lost) ∧
    ((copyOf true 0 0).isExport = true ∧ (copyOf true 1 0).mode = 1 ∧ (copyOf true 2 0).mode = 2 ∧
      ((withSeq moved).streamTilesOf moved stateBook).2.1 = 0 ∧
      ((withSeq { moved with stream := { aStream .benched none with image := some 0 } }).streamTilesOf
        { moved with stream := { aStream .benched none with image := some 0 } } stateBook).2.1 ≠ 0) ∧
    ((let img := stateBook.plan.image 7 3 0 true ((withSeq moved).streamTilesOf moved stateBook).2.2
      ((withSeq moved).objWrite noReq.access (4 * 262144) img).2 = 0 ∧ ((withSeq moved).objWrite noReq.access (5 * 262144) img).2 ≠ 0) ∧
      (copyOf false 0 0).isExport = false ∧ (withSeq moved).inStep 9 = false ∧ ((withWork [aStep 0 0 1 false 3 [9]] []).inStep 9) = true ∧
      (withSeq moved).slotFor moved = some 0 ∧ ((withSeq moved).importCheck noReq moved stateBook (4 * 262144) 6336 false 0).2.1 ≠ 0) := by
  decide +kernel
/-- No slot is free for a fifth stream. -/
def crowd (n : Nat) (waiters : List Nat) : State :=
  withSeqs ((List.range n).map (fun k => (10 + k, streamSeq .resident (some k))) ++ waiters.map (fun k => (20 + k, { streamSeq .benched none with benchedAt := 5 })))
theorem witness_StreamCopies_no_slot : (crowd 4 [0]).slotFor (streamSeq .benched none) = none := by decide +kernel

/-- `crowd` with a bench quota for context 0. -/
def quota (s : State) : State := { s with ump := { s.ump with slot0 := ⟨{ aCfg with ctxs := [(0, ⟨0, false, 8, 0, 2 ^ 30⟩), (1, ⟨0, true, 8, 0, 0⟩)] }, 1⟩ } }

/-- All 2^29 blocks of the object address space are taken. -/
def crammed (s : State) : State := { s with tier := { s.tier with objs := s.tier.objs ++ [(32768, ⟨2 ^ 47, 0, 0, some 0, .client, none⟩)] } }

theorem witness_StreamRotation :
    ((crowd 4 [0]).seq 10 = some moved ∧ (crowd 4 [0]).bookOf moved = some stateBook ∧ moved.hasStream = true ∧ moved.stream.st = .resident ∧
      (crowd 4 [0]).atBoundary 10 moved = true ∧ moved.quiet = true ∧ stateBook.plan.runSteps ≤ moved.runs ∧ (crowd 4 [0]).freeSlot 3 = none ∧
      ∃ e ∈ (crowd 4 [0]).benchWaiters, e.2.playbook = 3) ∧
    (((quota (crowd 4 [0])).benchSeq 10).isSome = true ∧ ((crowd 4 [0]).benchSeq 10).isNone = true ∧
      ((crowd 4 [0]).caveSeq 10).isSome = true ∧ ((crammed (crowd 4 [0])).benchSeq 10).isNone = true ∧ ((crammed (crowd 4 [0])).caveSeq 10).isNone = true) ∧
    ((crowd 3 [0, 1]).benchWaiters.filter (fun e => decide (e.2.court = 0) && ((crowd 3 [0, 1]).freeSlot e.2.playbook).isSome) =
        [] ++ (20, { streamSeq .benched none with benchedAt := 5 }) :: [(21, { streamSeq .benched none with benchedAt := 5 })] ∧
      (crowd 3 [0, 1]).freeSlot 3 = some 3) := by decide +kernel

/-- A sequence that waits at its boundary, with one open page; the same in a step. -/
def waiting (w : Wait) : State :=
  let s := withSeq { aSeq 0 0 1 with waits := [w], pages := [(0, 5)], isFuture := true, future := 3 }
  { s with sch := { s.sch with pages := [(pageKey 0 5, ⟨1, false, 200, 9, 0, 0, 0, 0, 0, 0⟩)], prunes := [(0, ⟨noReq, 1, 0, 0, none⟩)], parents := [(3, 0)] } }

theorem witness_SequenceBoundaries :
    (∀ w ∈ [Wait.sealPages noReq, .prune 0 true, .fin noReq, .repin noReq], (((waiting w).seq 9).map (fun q => (waiting w).atBoundary 9 q && q.waits == [w])) = some true) ∧
    (((waiting (.fin noReq)).seq 9).map (fun q => ({ waiting (.fin noReq) with sch := { (waiting (.fin noReq)).sch with steps := [aStep 0 0 1 false 1 [9]] } }).atBoundary 9 q)
      = some false) := by decide +kernel

theorem test_seal : (match exec (.sealEffect 9) (waiting (.sealPages noReq)) with | .next t => (t.page (pageKey 0 5)).map (·.isSealed) | _ => none) = some true := by
  decide +kernel
theorem test_seq_end : (match exec (.seqEndEffect 9) (waiting (.fin noReq)) with | .next t => (t.seq 9).isNone && (t.page (pageKey 0 5)).isNone | _ => false) = true := by
  decide +kernel

theorem witness_BranchesBearChildren :
    (let s := waiting (.branch noReq true (4 * 262144) [])
     let q : Seq := { aSeq 0 0 1 with waits := [.branch noReq true (4 * 262144) []], pages := [(0, 5)], isFuture := true, future := 3 }
     s.seq 9 = some q ∧ s.bookOf q = some (aBook 0 0) ∧ q.waits = .branch noReq true (4 * 262144) [] :: [] ∧ s.atBoundary 9 q = true ∧ q.hasStream = false ∧
       s.openPages q ≠ [] ∧ (s.objWrite noReq.access (4 * 262144) []).2 = 0 ∧ (s.objWrite noReq.access (5 * 262144) [1]).2 ≠ 0) ∧
    ((streamSeq .lost none).hasStream = true ∧ (streamSeq .lost none).stream.st = .lost ∧ (streamSeq .resident (some 0)).stream.image = none ∧
      ((withSeq moved).streamTilesOf moved stateBook).2.1 = 0 ∧ ((quota (withSeq moved)).branchImage 9 moved stateBook []).isSome = true ∧
      ((crammed (withSeq moved)).branchImage 9 moved stateBook []).isNone = true) ∧
    (world.seq 0 = some (aSeq 0 0 1) ∧ ({ aSeq 0 0 1 with pages := [(0, 5)] } : Seq).pageKeys.Nodup) := by decide +kernel

def aPlanLayer : UpdLayer := ⟨0, 0, false, 1, 0, 0, 0, 0, 32, 32, 0, 0, 0, 4 * 262144, 4 * 262144 + 8192, 0, 0, 0, 0, 4 * 262144 + 16384⟩
def anUpd (w : Option Req) (run : Option (Req × Nat)) (torn : Bool) : UpdPlan := ⟨0, 0, 1, 4, 0, [], [], 0, torn, w, run, none, 0, none, [], none⟩
def updating (p : UpdPlan) : State := { world with upd := { world.upd with plans := [(1, p)], nextId := 2 } }

theorem witness_UpdateSteps :
    (AMap.find? (updating (anUpd (some noReq) none false)).upd.plans 1 = some (anUpd (some noReq) none false) ∧ (updating (anUpd (some noReq) none false)).ctxBusy 0 = false ∧
      (∀ e ∈ (updating (anUpd (some noReq) none false)).upd.plans, e.2.ctx = 0 → e.2.running = none) ∧ (updating (anUpd (some noReq) none false)).awake 0 = true ∧
      dispatching.ctxBusy 0 = true) ∧
    ((anUpd none none false).waiting = none ∧ (anUpd none none false).running = none ∧ (anUpd none (some (noReq, 0)) false).torn = false ∧
      (anUpd none (some (noReq, 0)) true).torn = true ∧ (anUpd none (some (noReq, 0)) true).running = some (noReq, 0)) ∧
    ((⟨world, 0, false, none, 0, 0, 0, 0, 0, 0⟩ : UpdRun).code = 0 ∧ (UpdRun.frozenRows aPlanLayer [1] 0).all id = true ∧
      (UpdRun.frozenRows aPlanLayer [0] 0).all id = false) ∧
    ((updating (anUpd none none false)).updCheck (anUpd none none false) = 0 ∧
      (updating (anUpd none none false)).updCheck { anUpd none none false with layers := [{ aPlanLayer with w := 5 * 262144 }] } ≠ 0 ∧
      (world.readMasks (anUpd none none false) []).2.1 = 0 ∧
      (world.readMasks (anUpd none none false) [{ aPlanLayer with maskMode := 1, mask := 5 * 262144 }]).2.1 ≠ 0) := by decide +kernel

/-- The marks of contexts: 1 waits since tick 4 (LC), 3 since tick 4 (BE). -/
def waiters : State := { world with sch := { world.sch with ctxs :=
  [(0, { resident 0 with returned := false }), (1, { CtxSt.idle with st := 2, runnableAt := 5 }), (3, { CtxSt.idle with st := 3, runnableAt := 5 })] } }
/-- All 128 slots in use; context 0 is blocked since tick 4, context 1 waits. -/
def noSlot : State := { world with sch := { world.sch with ctxs :=
  (0, { resident 0 with blockedAt := 5 }) :: (1, { CtxSt.idle with st := 2, runnableAt := 5 }) :: (List.range 127).map (fun k => (k + 3, resident (k + 1))) } }

theorem test_admit_lc_first : (match exec .contextAdmitSlot waiters with | .next t => ((t.ctxSt 1).st, (t.ctxSt 1).slot, (t.ctxSt 3).st) | _ => (9, 9, 9)) = (1, 1, 3) := by
  decide +kernel

theorem witness_ContextsTakeAndLeaveSlots :
    (world.firstWaiter = none ∧ waiters.firstWaiter = some 1 ∧ waiters.freeResidency = some 1 ∧ noSlot.freeResidency = none) ∧
    (noSlot.firstWaiter ≠ none ∧ noSlot.longestBlocked = some 0 ∧ (∀ e ∈ noSlot.seqsIn 0, e.2.copy = none) ∧ (noSlot.benchAll 0).isSome = true ∧ noSlot.longestBlocked ≠ some 3) ∧
    ((let s := { noSlot with sch := { noSlot.sch with seqs := [(9, moved)] } }
      (s.benchAll 0).isNone ∧ (s.parkStreams 0).isSome ∧ ((crammed s).benchAll 0).isNone ∧ ((crammed s).parkStreams 0).isNone) ∧
      ({ noSlot with tier := { noSlot.tier with budgetWait := [4] } } : State).inBudget world = false ∧ noSlot.inBudget world = true) ∧
    ((waiters.ctxSt 0).st = 1 ∧ (waiters.ctxSt 0).returned = false ∧ (world.ctxSt 0).returned = true ∧ (waiters.ctxSt 1).st ≠ 1) := by decide +kernel

/-- The image of a block of raw bytes is at most 144 + 64 × 4,112 bytes long (11 R291). -/
theorem encTile_le (i : Nat) (t : List Byte) (h : t.length ≤ 4096) : (encTile 0 i t).length ≤ 4112 := by
  have e : ceilDiv t.length 16 ≤ 256 := by unfold ceilDiv; omega
  unfold encTile
  split
  · simp [tileImage, ceilDiv]
  · simp [pressParams, tileImage]; omega
theorem encTiles_le (n i : Nat) (bs : List Byte) : (encTiles 0 n i bs).flatten.length ≤ 4112 * n ∧ (encTiles 0 n i bs).length = n := by
  induction n generalizing i bs with
  | zero => simp [encTiles]
  | succ n ih =>
    have h := encTile_le i (bs.take tileBytes) (by simp [tileBytes])
    have := ih (i + 1) (bs.drop tileBytes)
    simp only [encTiles, List.flatten_cons, List.length_append, List.length_cons]
    omega
theorem encBlock_le (bs : List Byte) : (encBlock 0 bs).length ≤ 263312 := by
  have h := encTiles_le 64 0 bs
  have e : ∀ ts : List (List Byte), (ts.map (fun t => leBytes 2 (t.length / 16))).flatten.length = 2 * ts.length := by
    intro ts; induction ts with
    | nil => rfl
    | cons a l ih => simp [ih]; omega
  unfold encBlock
  generalize encTiles 0 64 0 bs = ts at h
  simp only [List.length_append, leBytes_length, e, List.length_cons, List.length_nil]
  omega
/-- A bench image of one block in the cave is one program of the package. -/
theorem cave_frame (s : State) (ctx : Nat) (img : List Byte) (n : W64) (o : Obj) (b : Nat) (h : o.blocks = 1) (hl : s.tier.progLog = []) :
    (s.caveImageAt ctx img n o b).tier.progLog = [(s.counter.toNat, (encBlock 0 (bytesAt img 0 blockBytes)).length)] ∧
    (s.caveImageAt ctx img n o b).tier.budget = s.tier.budget ∧ (s.caveImageAt ctx img n o b).sch.seqs = s.sch.seqs := by
  have e : ∀ u : State, (u.charge (lineOf ctx) 9 img.length).tier = u.tier ∧ (u.charge (lineOf ctx) 9 img.length).sch = u.sch :=
    fun u => by unfold State.charge State.chargeAt; exact ⟨rfl, rfl⟩
  have hr : List.range o.blocks = [0] := by rw [h]; rfl
  have hp : ∀ (u : State) (x : List Byte), u.tier.progLog = [] → (u.program x).1.tier.progLog = [(u.counter.toNat, x.length)] ∧
      (u.program x).1.tier.budget = u.tier.budget ∧ (u.program x).1.sch.seqs = u.sch.seqs := by
    intro u x hu
    unfold State.program
    generalize (fun e : Nat × Nat => decide (u.counter.toNat < e.1 + 8640000000000)) = f
    exact ⟨by rw [hu]; rfl, rfl, rfl⟩
  rw [State.caveImageAt, (e _).1, (e _).2]
  rw [hr]
  unfold State.programBlocks State.programBlocks
  generalize encBlock 0 (bytesAt img 0 blockBytes) = x
  exact hp (s.setObj b o) x hl
theorem cave_in_budget (s t : State) (hw : s.tier.budgetWait = []) (k n : Nat) (hl : t.tier.progLog = [(k, n)]) (hn : n ≤ 263312)
    (hb : t.tier.budget.toNat = 750) : s.inBudget t = true := by
  have h2 : t.programmed ≤ n := by
    unfold State.programmed
    rw [hl]
    generalize (fun e : Nat × Nat => decide (t.counter.toNat < e.1 + 8640000000000)) = f
    cases h : f (k, n) <;> simp [h]
  have h3 : t.budgetOk 0 = true := by
    rw [State.budgetOk, hb, decide_eq_true_eq]
    omega
  rw [State.inBudget, hw, h3]; rfl
/-- A context blocked, without a quota for its stream's bench image. -/
def caving : State := { noSlot with sch := { noSlot.sch with seqs := [(9, moved)] } }
theorem caving_parks : caving.benchAll 0 = none ∧ (∃ t, caving.parkStreams 0 = some t) ∧ ∀ t, caving.parkStreams 0 = some t →
    ∃ k n, t.tier.progLog = [(k, n)] ∧ n ≤ 263312 ∧ t.tier.budget.toNat = 750 := by
  have h1 : caving.residentStreams 0 = [9] := by decide +kernel
  have h2 : caving.benchSeq 9 = none := Option.isNone_iff_eq_none.mp (by decide +kernel)
  have h3 : caving.seq 9 = some moved := by decide +kernel
  have h4 : caving.bookOf moved = some stateBook := by decide +kernel
  have hk : caving.parkStreams 0 = caving.caveSeq 9 := by
    simp only [State.parkStreams, h1, List.foldl, Option.bind, h2, Option.orElse]
  have hi : (stateBook.plan.image moved.stream.seqNo moved.playbook moved.gen false (caving.readTiles (caving.court stateBook.court) stateBook.plan 0)).length = 6336 := by
    decide +kernel
  have hc : caving.caveSeq 9 = (caving.makeCaveImage 0 (stateBook.plan.image moved.stream.seqNo moved.playbook moved.gen false
      (caving.readTiles (caving.court stateBook.court) stateBook.plan 0)) moved.stream.seqNo).map (fun r =>
        ((r.1.endBranches 9).addHolder r.2).modSeq 9 (fun q => { q with
          stream := { q.stream with st := .benched, slot := none, image := none, bench := some r.2 }
          benchedAt := caving.counter.toNat })) := by
    rw [State.caveSeq, h3]
    simp only [h4]
    rfl
  rw [hk, hc]
  generalize (stateBook.plan.image moved.stream.seqNo moved.playbook moved.gen false (caving.readTiles (caving.court stateBook.court) stateBook.plan 0)) = img at hi
  refine ⟨by simp [State.benchAll, h1, h2], ?_, ?_⟩
  all_goals
    rw [State.makeCaveImage, hi, if_neg (by decide +kernel)]
  · exact ⟨_, rfl⟩
  · intro t ht
    have f := cave_frame caving 0 img moved.stream.seqNo ⟨6336, 0, 0, some 0, .bench, none⟩ (findRun 1 1 caving.tier.objs) rfl (by decide +kernel)
    simp only [Option.map_some, Option.some.injEq] at ht
    have hq : ((caving.caveImageAt 0 img moved.stream.seqNo ⟨6336, 0, 0, some 0, .bench, none⟩ (findRun 1 1 caving.tier.objs)).seq 9) = some moved := by
      rw [State.seq, f.2.2]; exact h3
    have he : ((caving.caveImageAt 0 img moved.stream.seqNo ⟨6336, 0, 0, some 0, .bench, none⟩ (findRun 1 1 caving.tier.objs)).endBranches 9) =
        caving.caveImageAt 0 img moved.stream.seqNo ⟨6336, 0, 0, some 0, .bench, none⟩ (findRun 1 1 caving.tier.objs) := by
      rw [State.endBranches, hq]; rfl
    refine ⟨caving.counter.toNat, (encBlock 0 (bytesAt img 0 blockBytes)).length, ?_, encBlock_le _, ?_⟩
    · rw [← ht]; exact (congrArg (fun s : State => s.tier.progLog) he).trans f.1
    · rw [← ht]; exact (congrArg (fun s : State => s.tier.budget.toNat) he).trans ((congrArg BitVec.toNat f.2.1).trans (by decide +kernel))
theorem caving_areas : (caving.parkStreams 0).map (fun t => (t.freshBenches 0, t.pageBlocksOf 0)) = some ([], []) := by decide +kernel
theorem witness_ContextsTakeAndLeaveSlots_cave : ∃ t, caving.benchAll 0 = none ∧ caving.parkStreams 0 = some t ∧ caving.inBudget
    ((t.pageBlocksOf 0).foldl (fun s b => s.caveBlock (lineOf 0) b false) ((t.freshBenches 0).foldl (fun s b => s.caveBench (lineOf 0) b) t)) = true := by
  obtain ⟨h1, ⟨t, ht⟩, h⟩ := caving_parks
  obtain ⟨k, n, hl, hn, hb⟩ := h t ht
  have ha := caving_areas
  rw [ht] at ha
  simp only [Option.map_some, Option.some.injEq, Prod.mk.injEq] at ha
  refine ⟨t, h1, ht, ?_⟩
  rw [ha.1, ha.2]
  exact cave_in_budget _ _ rfl k n hl hn hb

/-! Channels, tiers, the cave and digests (10; 11; 12). -/

/-- A map-out of channel 511 at a step; what lies in the addresses being vacated is one block of region 16,384 × 511. -/
def mapping (step : Nat) (full : Bool) : State :=
  let s := (world.modChan 511 (fun c => { c with st := if step = 1 then 1 else 2 }))
  { s with mem := { s.mem with mapout := some ⟨511, step, 0, 0, none⟩, vacated := if step = 1 then 0 else 1 }
           tier := { s.tier with
             blocks := s.tier.blocks ++ (if full then [(7, .fresh (16384 * 511))] else []), regs := s.tier.regs ++ (if full then [(16384 * 511, .fresh 7)] else []) } }
/-- Every channel has swept in this period. -/
def swept : State := { world with mem := { world.mem with chans := (List.range' 0 512).map (fun k => (k, { Channel.reset with swept := true })) } }
theorem find_range {α : Type} (v : α) (n a k : Nat) (h : a ≤ k ∧ k < a + n) : AMap.find? ((List.range' a n).map (fun i => (i, v))) k = some v := by
  induction n generalizing a with
  | zero => omega
  | succ n ih =>
    rw [List.range'_succ, List.map_cons, AMap.find?]
    split
    · rfl
    · exact ih _ (by omega)
theorem swept_all (k : Nat) (h : k < 512) : (((swept.upsetAll 0 []).sweepChan 0).chan k).swept = true := by
  have e : (swept.upsetAll 0 []).sweepChan 0 = swept.modChan 0 (fun x => { x with swept := true }) := rfl
  rw [e]
  simp only [State.modChan, State.chan, AMap.getD_insert]
  split
  · rfl
  · simp only [AMap.getD, swept, find_range _ 512 0 k ⟨by omega, by omega⟩, Option.getD_some]
def counted (ce ue : Nat) : State := world.modChan 3 (fun c => { c with ceHour := ce, ueHour := ue })

theorem witness_ChannelsSweptAndMappedOut :
    (511 < 512 ∧ (world.upsetAll 511 []).mem.scrubOn = true ∧ ((world.upsetAll 511 []).chan 511).st ≠ 3 ∧
      ({ world with mem := { world.mem with scrubOn := false } } : State).mem.scrubOn = false ∧ (((world.sweepChan 0).chan 1).swept = false ∧ ((world.sweepChan 0).chan 1).st ≠ 3)) ∧
    ((counted 1001 0).mem.auto = true ∧ ((counted 1001 0).chan 3).st = 0 ∧ (counted 1001 0).mem.ceLimit.toNat < ((counted 1001 0).chan 3).ceHour ∧
      ¬(counted 1000 15).mem.ceLimit.toNat < ((counted 1000 15).chan 3).ceHour ∧ ¬16 ≤ ((counted 1000 15).chan 3).ueHour ∧ 16 ≤ ((counted 0 16).chan 3).ueHour) ∧
    (world.mem.mapout = none ∧ max world.mem.floor.toNat 256 ≤ world.liveChannels - 1) ∧
    ((mapping 1 false).vacatingUnits = 0 ∧ (mapping 1 true).vacatingUnits ≠ 0 ∧ ¬64 * (mapping 1 true).freeRegions + (mapping 1 true).freeChunks < (mapping 1 true).vacatingUnits ∧
      (mapping 1 false).fits ((mapping 1 false).reserved 0) ((mapping 1 false).reserved 1) = true ∧
      (let s := { mapping 1 false with tier := { (mapping 1 false).tier with objs := [(9, ⟨262144, 0, 0, some 0, .client, some ⟨0, 0, 2 ^ 30, none, none, 0, false⟩⟩)] } }
       s.vacatingUnits = 0 ∧ s.fits (s.reserved 0) (s.reserved 1) = false)) ∧
    (∀ k, k < 512 → (((swept.upsetAll 0 []).sweepChan 0).chan k).swept = true ∨ (((swept.upsetAll 0 []).sweepChan 0).chan k).st = 3) :=
  ⟨by decide +kernel, by decide +kernel, by decide +kernel, by decide +kernel, fun k h => .inl (swept_all k h)⟩
theorem witness_ChannelsSweptAndMappedOut_steps :
    ((mapping 2 false).sliceOn 511).isSome = true ∧ ((mapping 2 false).freeSlotBut 511).isSome = true ∧
    ((mapping 3 false).bucketHomedOn 511).isSome = true ∧ ((mapping 3 false).newHome 511).isSome = true ∧
    (let s := mapping 3 false
     ({ s with mem := { s.mem with homes := (List.range 8).map (fun f => (511 + 512 * f, 0)) } } : State).bucketHomedOn 511) = none := by decide +kernel

/-- Object 4 on its way to a tier; `flying`: with a load of it outstanding. -/
def moveTo (dest : Nat) : Obj := ⟨262144, 0, 0, some 0, .client, some ⟨dest, 0, 64, none, none, 0, false⟩⟩
def tiering (dest : Nat) : State := { world with tier := { world.tier with objs := [(4, moveTo dest)], blocks := [(4, if dest = 0 then .cave 0 [] [] else .fresh 32768)] } }
def flying : State := (tiering 1).setCore 0 (busy (fun c => { c with xfers := [⟨.mld, 1, 0, 5 * 262144 - 64, 64, 0, 0, false, none⟩] }))

theorem witness_BlocksMoveBetweenTiers :
    (AMap.find? (tiering 1).tier.objs 4 = some (moveTo 1) ∧ (moveTo 1).move = some ⟨1, 0, 64, none, none, 0, false⟩ ∧
      (tiering 1).blocksOutside 4 (moveTo 1) 1 = (4, .fresh 32768) :: [] ∧ (tiering 2).blocksOutside 4 (moveTo 2) 2 = (4, .fresh 32768) :: [] ∧
      (tiering 1).inFlight (4 * 262144) 262144 = false ∧ flying.inFlight (4 * 262144) 262144 = true ∧ 4 ∉ (tiering 1).tier.budgetWait ∧
      (tiering 2).tier.budgetWait = [] ∧
      ({ tiering 2 with tier := { (tiering 2).tier with budgetWait := [4] } } : State).tier.budgetWait = 4 :: []) ∧
    (AMap.find? (tiering 1).mem.relocs 32768 = none ∧ ({ moveTo 1 with move := some ⟨1, 0, 64, none, none, 0, true⟩ } : Obj).move.map (·.moving) = some true ∧
      (let s (x : Reloc) : State := { world with mem := { world.mem with relocs := [(32768, x)] } }
       AMap.find? world.tier.blocks 4 = some (.fresh 32768) ∧ AMap.find? (s ⟨5, 1, [0]⟩).mem.relocs 32768 = some ⟨5, 1, [0]⟩ ∧
       AMap.find? (s ⟨5, 2, [0]⟩).mem.relocs 32768 = some ⟨5, 2, [0]⟩ ∧ AMap.find? (s ⟨5, 0, []⟩).mem.relocs 32768 = some ⟨5, 0, []⟩)) ∧
    (AMap.find? ({ world with tier := { world.tier with blocks := [(7, .pressed 64 [64 * 16384 * 512])] } } : State).tier.blocks 7 = some (.pressed 64 [64 * 16384 * 512]) ∧
      world.regionEnd ≤ 64 * 16384 * 512 / 64) ∧
    (AMap.find? (mapping 1 true).tier.blocks 7 = some (.fresh (16384 * 511)) ∧ (mapping 1 true).regionEnd ≤ 16384 * 511 ∧ (mapping 1 true).freeRegions ≠ 0 ∧
      32768 < (mapping 1 true).regionEnd ∧ AMap.find? (mapping 1 true).mem.relocs (16384 * 511) = none ∧ (mapping 1 true).isMoving 7 = false) ∧
    ((⟨262144, 0, 0, some 0, .client, some ⟨1, 0, 64, none, none, 0, false⟩⟩ : Obj).move.map (·.freeing) = some none) := by decide +kernel
/-- A block in the fresh tier of a stack without flipped bits commits. -/
theorem commit_ok (s : State) (b : Nat) (o : Obj) (m : Move) (k r : Nat) (h : Home) (hb : AMap.find? s.tier.blocks k = some (.fresh r)) (hf : s.mem.flips = []) :
    (s.commitBlock b o m k h).2 = 0 := by
  have hp (ac : Access) : (s.pieceAny ac (blockBytes * k, blockBytes)).2.1 = 0 := by
    have hk : blockBytes * k / blockBytes = k := Nat.mul_div_cancel_left k (by simp [blockBytes])
    simp only [State.pieceAny, State.pieceRead, hk, hb, State.stackRead_clean _ _ _ _ _ hf, if_true]
  have hn (ac : Access) : ¬(s.pieceAny ac (blockBytes * k, blockBytes)).2.1 ≠ 0 := fun x => x (hp ac)
  rw [State.commitBlock, if_neg (hn _)]
theorem nextImage_le (s : State) (obj : Nat) (o : Obj) (h : o.kind = 0) : s.nextImage obj o ≤ 263312 := by
  unfold State.nextImage
  split
  · omega
  · dsimp only
    split
    · omega
    · rw [h]; exact encBlock_le _
/-- A move whose next block is moving; `spent` bytes were programmed at tick 0, and the moves of `w` wait for the budget. -/
def movingObj : Obj := { moveTo 2 with move := some ⟨2, 0, 64, none, none, 0, true⟩ }
def budgeted (spent : Nat) (w : List Nat) : State := { tiering 2 with tier := { (tiering 2).tier with
  objs := [(4, movingObj)], progLog := [(0, spent)], budgetWait := w } }
/-- Programs that used the budget of the last 24 hours leave nothing for the next image; the first image of a day has room. -/
theorem witness_BlocksMoveBetweenTiers_budget :
    ((budgeted 64800000000001 []).budgetOk ((budgeted 64800000000001 []).nextImage 4 movingObj) = false ∧
      (budgeted 64800000000001 [4]).budgetOk ((budgeted 64800000000001 [4]).nextImage 4 movingObj) = false) ∧
    (budgeted 0 [4]).budgetOk ((budgeted 0 [4]).nextImage 4 movingObj) = true ∧
    (AMap.find? (budgeted 0 [4]).tier.objs 4 = some movingObj ∧ (budgeted 0 [4]).blocksOutside 4 movingObj 2 = (4, .fresh 32768) :: [] ∧
      (budgeted 0 [4]).inFlight (4 * 262144) 262144 = false ∧ AMap.find? (budgeted 0 [4]).mem.relocs 32768 = none) := by
  have no (w : List Nat) (h1 : (budgeted 64800000000001 w).programmed = 64800000000001) (h2 : (budgeted 64800000000001 w).tier.budget.toNat = 750) :
      (budgeted 64800000000001 w).budgetOk ((budgeted 64800000000001 w).nextImage 4 movingObj) = false := by
    rw [State.budgetOk, h1, h2, decide_eq_false_iff_not]
    omega
  have yes (h1 : (budgeted 0 [4]).programmed = 0) (h2 : (budgeted 0 [4]).tier.budget.toNat = 750) :
      (budgeted 0 [4]).budgetOk ((budgeted 0 [4]).nextImage 4 movingObj) = true := by
    have := nextImage_le (budgeted 0 [4]) 4 movingObj rfl
    rw [State.budgetOk, h1, h2, decide_eq_true_eq]
    omega
  exact ⟨⟨no [] (by decide +kernel) (by decide +kernel), no [4] (by decide +kernel) (by decide +kernel)⟩, yes (by decide +kernel) (by decide +kernel),
    by decide +kernel⟩
theorem witness_BlocksMoveBetweenTiers_commit : ((tiering 2).commitBlock 4 (moveTo 2) ⟨2, 0, 64, none, none, 0, false⟩ 4 (.fresh 32768)).2 = 0 :=
  commit_ok _ _ _ _ _ 32768 _ (by decide +kernel) (by decide +kernel)

def levelling (most : Nat) : State := { world with tier := { world.tier with
  pkgs := [(23, ⟨100, most, 100, 0⟩)], blocks := world.tier.blocks ++ [(8, .cave 23 [1] [])] } }
/-- The SHA3-512 digest of the empty message (FIPS 202). -/
def sha3Empty : List Byte :=
  [0xa6, 0x9f, 0x73, 0xcc, 0xa2, 0x3a, 0x9a, 0xc5, 0xc8, 0xb5, 0x67, 0xdc, 0x18, 0x5a, 0x75, 0x6e, 0x97, 0xc9, 0x82, 0x16, 0x4f, 0xe2, 0x58, 0x59, 0xe0, 0xd1, 0xdc, 0xc1,
   0x47, 0x5c, 0x80, 0xa6, 0x15, 0xb2, 0x12, 0x3a, 0xf1, 0xf5, 0xf9, 0x4c, 0x11, 0xe3, 0xe9, 0x40, 0x2c, 0x3a, 0xc5, 0x58, 0xf5, 0x00, 0x19, 0x9d, 0x95, 0xb6, 0xd3, 0xe3,
   0x01, 0x75, 0x85, 0x86, 0x28, 0x1d, 0xcd, 0x26]
/-- A shard of no bytes in object 4 whose registration waits, with its digest and without it. -/
def hashing (good : Bool) : State := { world with
  mem := { world.mem with stack := if good then Mem.wrBytes [] (32768 * 262144 + 64) sha3Empty else [] }
  wgt := { world.wgt with shards := [(4, { aShard with registered := false, req := some noReq })] } }

theorem witness_UpkeepAndDigests :
    (((levelling 300).pkg 23).most ≤ ((levelling 300).pkg 23).least + 200 ∧ ((levelling 301).pkg 23).least + 200 < ((levelling 301).pkg 23).most ∧
      (levelling 301).imagesIn 23 = [(8, [1])] ∧ 23 < 24) ∧
    (world.imagesIn 23 = [] ∧ world.pressedRegions.length ≤ 1) ∧
    ((hashing true).wgt.digOn = true ∧ ({ world.wgt with digOn := false } : WgtSt).digOn = false) := by decide +kernel
theorem witness_UpkeepAndDigests_image : (levelling 301 |>.imagesIn 23)[(levelling 301).fv 3 % ((levelling 301).imagesIn 23).length]? = some (8, [1]) := by
  have h : (levelling 301).imagesIn 23 = [(8, [1])] := by decide +kernel
  simp [h, Nat.mod_one]
theorem witness_UpkeepAndDigests_good : (AMap.find? (hashing true).wgt.shards 4).map (·.req) = some (some noReq) ∧
    ((hashing true).shardDigest 4).2.1 = 0 ∧ ((hashing true).shardDigest 4).2.2 = some sha3Empty := by decide +kernel
theorem witness_UpkeepAndDigests_bad : ((hashing false).shardDigest 4).2.1 = 0 ∧ ((hashing false).shardDigest 4).2.2 = none ∧ ((hashing false).shardDigest 5).2.1 ≠ 0 := by
  decide +kernel

/-! Codec engines (15). -/

def aFrame : CFrame := ⟨0, 0, 0, 0, 0, 0, 0, 0⟩
/-- An encoding stream of context `ctx` on engine 15, with one free buffer to write and one frame queued. -/
def aCodec (ctx order : Nat) : CStream := ⟨ctx, 64, 15, 0, 0, 0, 0, 0, 8, 1, 64, 64, 30000, 0, 30, 1, 1, 1000, 4096, 512, 4 * 262144, 4096, 1, 9, 1, 1000, 4,
  [(0, ⟨4 * 262144, 64, 64, 4096, 0, 0, 0⟩), (1, ⟨4 * 262144 + 8192, 64, 64, 4096, 0x01, 0, 0⟩)], [{ aFrame with order := order }], 1, 0, 0, true, 0, none, 1000, 30000, 0⟩
def anEngRun : EngRun := ⟨0, aFrame, 0, 1, 0, 0, false⟩
def codecs (ss : List (Nat × CStream)) (run : Option EngRun) : State :=
  { world with cdc := { world.cdc with streams := ss, engs := [(14, { Engine.reset with failed := true }), (15, { Engine.reset with run := run })] } }
def outOf (code : Code) : FrameOut := ⟨code, 0, [], [], [], [], 0, false⟩

theorem witness_CodecEnginesServeStreams :
    ((codecs [(0, aCodec 0 1), (1, aCodec 1 2)] none).nextStream 15).map (·.1) = some 1 ∧
    ((codecs [(0, aCodec 0 2), (1, aCodec 0 1)] none).nextStream 15).map (·.1) = some 1 ∧ (aCodec 1 2).target.isSome = true ∧
    ((codecs [] none).engine 14).failed = true ∧ ((codecs [] none).engine 15).failed = false ∧ (codecs [] none).nextStream 15 = none ∧
    (((codecs [(0, aCodec 0 1)] (some anEngRun)).engine 15).run = some anEngRun ∧ (codecs [(0, aCodec 0 1)] (some anEngRun)).cstream 0 = some (aCodec 0 1) ∧
      (aCodec 0 1).dir ≠ 1 ∧ 512 ≠ 0 ∧ anEngRun.bytes + 512 ≤ (aCodec 0 1).maxFrame ∧ (aCodec 0 1).unitAt 512 + 512 ≤ (aCodec 0 1).rd + (aCodec 0 1).outBytes ∧
      (aCodec 0 1).flags.testBit 0 = true ∧ ¬anEngRun.bytes + 513 ≤ (aCodec 0 1).maxFrame) ∧
    ((AMap.find? (aCodec 0 1).pool anEngRun.target).isSome = true ∧ anEngRun.slices ≠ 0 ∧ ({ anEngRun with slices := 0 } : EngRun).slices = 0 ∧ (aCodec 0 1).dir = 0) ∧
    (({ aCodec 0 1 with closing := some E_CDC_ENGINE } : CStream).closing = some E_CDC_ENGINE ∧ (aCodec 0 1).closing = none ∧ 15 < 16) := by decide +kernel

/-! Mailboxes, the umpire and its firmware (16; 19; 20). -/

/-- A session at version 1.0 on mailbox 64 that waits for request number 1: a MSG_PING in its request ring. -/
def pinging : State :=
  let s := { world with sec := { world.sec with step := 8, ready := true } }
  s.setMbx 64 { Mbx.reset with session := true, verMajor := 1, expect := 1, reqTail := 1, win := Mem.wrBytes [] 0 (msgHeader 1 0 0x0003 0xFFFF 4 1 0 ++ [1, 2, 3, 4]) }

theorem test_intake_ping : (match exec (.requestIntake 64) pinging with
    | .next t => (t.ump.intake.map (fun r => (r.mbx, r.op, r.seq, r.body)), (t.mbx 64).reqHead, (t.mbx 64).expect)
    | _ => ([], 0, 0)) = ([(64, 0x0003, 1, [1, 2, 3, 4])], 1, 2) := by decide +kernel

theorem witness_MailboxRings : (72 ≤ 72 ∧ 71 < 72) ∧
    ((256 - (world.mbx 0).reqHead).toNat ≤ 256 ∧ ¬((BitVec.ofNat 16 257 - (world.mbx 0).reqHead).toNat ≤ 256)) ∧
    (({ Mbx.reset with held := [[1]] } : Mbx).held = [1] :: [] ∧ ({ Mbx.reset with events := [⟨0x0106, 0xFFFF, 0, []⟩] } : Mbx).held = [] ∧ Mbx.reset.events = [] ∧
      slotsOf 16 ≤ Mbx.reset.room ∧ ¬(slotsOf 16 ≤ ({ Mbx.reset with rspTail := 256 } : Mbx).room)) ∧
    (pinging.serving = true ∧ (pinging.mbx 64).closed = false ∧ (pinging.mbx 64).reqTail - (pinging.mbx 64).reqHead ≠ 0 ∧ (pinging.mbx 64).held = [] ∧ pinging.ump.intake = [] ∧
      leAt (ringRead (pinging.mbx 64).win 0 0 16) 6 2 = 4 ∧ slotsOf 20 ≤ ((pinging.mbx 64).reqTail - (pinging.mbx 64).reqHead).toNat) ∧
    (pinging.headerCode (pinging.mbx 64) ⟨64, 0x0003, 0xFFFF, 1, true, [1, 2, 3, 4], 0⟩ 1 0 0 = 0 ∧
      pinging.headerCode (pinging.mbx 64) ⟨64, 0x0003, 0xFFFF, 2, true, [1, 2, 3, 4], 0⟩ 1 0 0 = E_UMP_SEQ ∧ world.serving = false) := by decide +kernel

/-- A bundle of five empty components (R487), with its digest. -/
def bundleTable : List Byte := (List.range 5).flatMap (fun k => leBytes 2 k ++ leBytes 2 0 ++ leBytes 4 7440 ++ leBytes 8 0)
def bundleDigest : List Byte :=
  [0x21, 0xa8, 0xe8, 0xfb, 0x6a, 0x3e, 0xeb, 0xbc, 0x02, 0x61, 0xb3, 0xd5, 0x86, 0x79, 0xd9, 0xdb, 0x38, 0xc2, 0xee, 0xca, 0x21, 0x43,
   0xa4, 0x55, 0xb1, 0xbb, 0xc1, 0x2c, 0xf7, 0x6b, 0x7b, 0x71, 0xcb, 0x01, 0x5b, 0xd7, 0xbb, 0xa9, 0x65, 0x9b, 0x7c, 0x04, 0x1f, 0x0a,
   0x55, 0x06, 0x20, 0x16, 0x0d, 0xce, 0x12, 0x2a, 0x23, 0xca, 0x98, 0x79, 0x33, 0xae, 0x09, 0xf9, 0x99, 0x64, 0x54, 0xc0]
def aBundle : List Byte :=
  leBytes 4 0x4D524946 ++ [1, 1] ++ leBytes 2 5 ++ leBytes 4 7 ++ [2, 3, 1, 0, 1, 0, 0, 0] ++ leBytes 4 7440 ++ leBytes 40 0 ++ bundleDigest ++ leBytes 7232 0 ++ bundleTable
/-- A bundle passes R488 wherever its key is the fused one and its signature verifies: those two are open (log entry 5). -/
theorem bundle_passes (s : State) (hr : s.sec.fwRevoked = []) (hf : s.sec.fuses = [(2, 3)]) (hk : sha3 (bytesAt aBundle 128 2592) = Config.fwKeyDigest 0)
    (hv : Config.mldsaVerify (bytesAt aBundle 128 2592) (aBundle.take 128) (bytesAt aBundle 2720 4627) = true) : s.bundleCode aBundle = 0 := by
  have h1 : bundleFormatOk aBundle = true := by decide +kernel
  have h2 : leAt aBundle 18 1 = 0 ∧ leAt aBundle 13 1 = 3 ∧ leAt aBundle 12 1 = 2 := by decide +kernel
  have h3 : sha3 (aBundle.drop 7360) = bytesAt aBundle 64 64 := by decide +kernel
  simp [State.bundleCode, h1, h2, hr, hk, hv, h3, State.fuse, hf, AMap.getD, AMap.find?]
theorem test_bundle_rejects : (world.bundleCode [] ≠ 0 ∧ bundleFormatOk (aBundle.set 4 2) = false) := by decide +kernel

def trying (left : Nat) : State := { world with ump := { world.ump with trial := some ⟨2, left, 0, 0⟩ } }
/-- A firmware update in a phase. -/
def updatingFw (phase standby : Nat) : State := { world with ump := { world.ump with standby := standby, fw := some ⟨noReq, phase, 0, 7, 8, bundleDigest, aBundle⟩ } }
/-- A trust anchor in slot 0, the module serving, the management mailboxes closed but for 64. -/
def anchored : State :=
  let s := { world with sec := { world.sec with step := 8, ready := true, anchors := [(0, [1])] } }
  s.modMbx 64 (fun b => { b with closed := false })

theorem witness_UmpirePairsTrialsAndFirmware :
    (world.ump.standby ≠ 2 ∧ (updatingFw 1 2).ump.standby = 2 ∧ world.ump.trial = none ∧ (trying 0).ump.trial = some ⟨2, 0, 0, 0⟩ ∧ (trying 0).mismatches = 0 ∧
      (trying 0).mismatches ≠ (⟨2, 0, 0, 1⟩ : Trial).mism ∧ (trying 1).ump.trialFailover = false ∧
      ({ (trying 1).ump with trialFailover := true } : Ump).trialFailover = true) ∧
    (world.nextOf true world.ump.rrLc = none ∧ world.nextOf false world.ump.rrBe = none ∧
      (({ served world { noReq with op := 3, lc := true } with ump := { (served world { noReq with op := 3, lc := true }).ump with rrLc := 0 } } : State).nextOf true 0).isSome = true) ∧
    ((updatingFw 5 0).ump.fw.map (·.phase) = some 5 ∧ (updatingFw 1 2).ump.fw.map (·.phase) = some 1 ∧ (updatingFw 4 0).ump.fw.map (·.phase) = some 4) ∧
    (anchored.serving = true ∧ (∃ e ∈ anchored.sec.anchors, e.2 = [1]) ∧ (∀ e ∈ anchored.sec.anchors, e.2 ≠ [2]) ∧ 64 ≤ 65 ∧ 65 < 68 ∧ (anchored.mbx 65).closed = true ∧
      (∀ k, k < 65 → 64 ≤ k → (anchored.mbx k).closed = false) ∧ world.serving = false) := by decide +kernel

/-! The module ring (17). -/

/-- Rail 0 of the module up, with its bypass open; a member at position 0 of a ring of two. -/
def linked : State := { world with ring := { world.ring with
  links := [(0, { Link.reset with st := 2 }), (4, { Link.reset with st := 2 }), (1, { Link.reset with st := 1 })], opened := [0, 1]
  member := true, position := 0, members := [(0, (1, [])), (1, (1, []))] } }
/-- A flit of 252 bytes with its CRC (R446): an idle flit, and a data flit. -/
def sealed (d : List Byte) : List Byte := d ++ leBytes 4 (crc32c d)
def dataHead (seq : Nat) : List Byte := leBytes 8 (1 + 2 ^ 14 * seq) ++ leBytes 244 0
theorem sealed_crc (d : List Byte) (h : d.length = 252) : (sealed d).length = 256 ∧ crc32c ((sealed d).take 252) = leAt (sealed d) 252 4 := by
  refine ⟨by simp [sealed, h], ?_⟩
  have h1 : (d ++ leBytes 4 (crc32c d)).take 252 = d := by rw [← h]; exact List.take_left
  have h2 : (d ++ leBytes 4 (crc32c d)).drop 252 = leBytes 4 (crc32c d) := by rw [← h]; exact List.drop_left
  have h3 : (leBytes 4 (crc32c d)).take 4 = leBytes 4 (crc32c d) := List.take_of_length_le (by simp)
  rw [sealed, h1, leAt, h2, h3, leNat_leBytes, Nat.mod_eq_of_lt]
  exact BitVec.isLt _
theorem witness_RailsAndFlits :
    (0 < 48 ∧ isRailPort 0 = true ∧ linked.roleOf 0 = 1 ∧ (linked.link 0).st = 2 ∧ (linked.link 2).st ≠ 2) ∧
    (15 < 16 ∧ upPort 0 = 0 ∧ downPort 0 = 4 ∧ (∀ k ∈ linked.railsUp, k = 0) ∧ linked.railsUp ≠ [] ∧ linked.roleOf (upPort 0) = 1) ∧
    ((linked.link (upPort 1)).st = 1 ∧ 1 ∈ linked.ring.opened ∧ (linked.link (upPort 1)).st ≠ 2 ∧ 2 ∉ linked.ring.opened) ∧
    (3 < 4 ∧ linked.ring.leaving = none ∧ 1 ≠ linked.ring.position ∧ (AMap.find? linked.ring.members 1).isSome = true ∧ [(1 : Byte)].length ≤ 9216) := by decide +kernel
theorem witness_RailsAndFlits_idle : ((sealed (leBytes 252 0)).length = 256 ∧ crc32c ((sealed (leBytes 252 0)).take 252) = leAt (sealed (leBytes 252 0)) 252 4) ∧
    (flitOf (sealed (leBytes 252 0))).ty = 0 ∧ (flitOf (sealed (leBytes 252 0))).vc ≠ 3 ∧ leAt (sealed (leBytes 252 0)) 15 1 ≤ 236 :=
  ⟨sealed_crc _ (by simp), by decide +kernel⟩
theorem witness_RailsAndFlits_data : ((sealed (dataHead 0)).length = 256 ∧ crc32c ((sealed (dataHead 0)).take 252) = leAt (sealed (dataHead 0)) 252 4) ∧
    (flitOf (sealed (dataHead 0))).ty ≠ 0 ∧ (flitOf (sealed (dataHead 0))).ty ≤ 2 ∧ (flitOf (sealed (dataHead 0))).seq = (linked.link 0).rxSeq + 1 ∧
      (flitOf (sealed (dataHead 1))).seq ≠ (linked.link 0).rxSeq + 1 ∧ leAt (sealed (dataHead 0)) 15 1 ≤ 236 :=
  ⟨sealed_crc _ (by simp [dataHead]), by decide +kernel⟩
/-- Two rails up. -/
def linked2 : State := { linked with ring := { linked.ring with links := [(0, { Link.reset with st := 2 }), (1, { Link.reset with st := 2 }), (4, { Link.reset with st := 2 }),
  (5, { Link.reset with st := 2 })] } }
theorem witness_RailsAndFlits_two : ∃ k ∈ linked2.railsUp, k ≠ 0 := by decide +kernel

/-- A join in progress on one rail, which is up. -/
def joining (want : Nat) : State := { linked with ring := { linked.ring with
  links := [(0, { Link.reset with st := 2 }), (4, { Link.reset with st := 2 })], opened := List.range 16, member := false, members := [], joining := some (none, want) } }
/-- A step of a ring huddle over two members, in stage `st`: 128 bytes at the start of the huddle area. -/
def ringLayer : Layer := { aLayer with flags := 0, loops := [⟨3, 4, 2, 0⟩] }
def huddling (st : Nat) : State :=
  let s := { linked with book := { linked.book with books := [(1, { aBook 0 0 with plan := { aPlan with layers := [ringLayer] } })] } }
  { s with sch := { s.sch with steps := [{ aStep 0 0 1 false 1 [0] with huddles := [(0, ⟨6 * 262144, 128, 6 * 262144 + 128, 1, false, true, st⟩)] }] } }
def landed : RTransfer := ⟨false, 9, 1, 0, 2, 3, 0, 0, 236, [0], []⟩

theorem witness_RingMembersAndHuddles :
    (linked.ring.member = true ∧ 1 ≠ linked.ring.position ∧ AMap.find? linked.ring.members 1 ≠ none ∧ AMap.find? linked.ring.members 2 = none) ∧
    ((joining 0xFF).ring.joining = some (none, 0xFF) ∧ (∀ k ∈ (joining 0xFF).ringRails, ((joining 0xFF).link (upPort k)).st ≠ 1 ∧ k ∈ (joining 0xFF).ring.opened) ∧
      ¬(∀ k ∈ linked.ringRails, (linked.link (upPort k)).st ≠ 1 ∧ k ∈ linked.ring.opened)) ∧
    ((2 < 16 ∧ 2 ∉ [((0 : Nat), ([] : List Byte)), (1, [])].map (·.1) ∧ ∀ q, q < 2 → q ∈ [((0 : Nat), ([] : List Byte)), (1, [])].map (·.1)) ∧ (15 : Nat) ≠ 0xFF ∧
      ∀ q, q < 16 → q ∈ ((List.range 16).map (fun k => (k, ([] : List Byte)))).map (·.1)) ∧
    (({ linked.ring with leaving := some noReq } : RingSt).leaving = some noReq ∧
      ({ linked with ring := { linked.ring with transfers := [landed] } } : State).ring.transfers.find? (fun x => !x.sent && decide (x.tag = 9) && decide (x.kind < 4) &&
        decide (x.got.length = ceilDiv x.len 236)) = some landed) := by decide +kernel
theorem witness_RingMembersAndHuddles_stages :
    ∀ st, st ∈ [1, 2] → ((huddling st).stepAt 0 0 1).isSome = true ∧ st ≠ 0 ∧ st ≤ 2 * (splitCount (ringLayer.level 4) - 1) ∧ (huddling st).ring.leaving = none ∧
      splitCount (ringLayer.level 4) ≤ (huddling st).positions.length ∧ (huddlePart ⟨6 * 262144, 128, 6 * 262144 + 128, 1, false, true, st⟩ 2 1).2 = 64 ∧
      ((huddling st).anyRead ⟨.coach 0, 1, 0, ident 2 1024⟩ (6 * 262144) 64).2.1 = 0 ∧
      ((huddling st).objWrite ⟨.coach 0, 1, 0, ident 2 1024⟩ (6 * 262144 + 64) (leBytes 64 0)).2 = 0 ∧
      ((huddling st).vatAdd ⟨.coach 0, 1, 0, ident 2 1024⟩ (6 * 262144 + 64) (leBytes 64 0)).2 = 0 := by decide +kernel

/-! Power, start-up, SMBus, faults, registers (18; 19; 20; 21). -/

/-- A block at rest: court 0 in power state `p`, its tolerance `tol` µs, the counter at `cnt`. -/
def resting (p : CourtPwr) (tol cnt : Nat) : State :=
  { world with counter := BitVec.ofNat 64 cnt, sch := { world.sch with ctxs := [], seqs := [] }
               pwr := { world.pwr with courts := [(0, p)], tolCourt := [(0, tol)], tolModule := tol } }
/-- A court idle since tick 0 in state `st`. -/
def idle (st : Nat) : CourtPwr := ⟨st, false, false, 0, 1⟩
/-- A stream that holds a slot but has no playbook: it cannot be parked. -/
def unparkable : State :=
  let s := resting (idle 2) 2000 2000000
  { s with sch := { s.sch with seqs := [(0, { aSeq 0 0 99 with tokens := 0, hasStream := true, stream := { (aSeq 0 0 99).stream with st := .resident, slot := some 0 } })] } }

/-- The exit times and ten times those, PS1 to PS4, each at the bound and one short of it (R468 to R470). -/
theorem witness_PowerStates_due : ∀ x ∈ [(0, 1, 500), (1, 20, 20000), (2, 2000, 2000000), (3, 30000, 30000000)],
    let s := resting (idle x.1) x.2.1 x.2.2
    (s.courtDefined 0 = true ∧ (s.courtPwr 0).entering = false ∧ (s.courtPwr 0).waking = false ∧ (s.courtPwr 0).st < 4 ∧ s.pwr.ps5 = false ∧ s.courtIdle 0 = true) ∧
    exitUs ((s.courtPwr 0).st + 1) ≤ s.effTol 0 ∧ (s.courtPwr 0).idleSince + x.2.2 ≤ s.counter.toNat + 1 ∧
    ¬exitUs (x.1 + 1) ≤ (resting (idle x.1) (x.2.1 - 1) x.2.2).effTol 0 ∧ ¬1 + x.2.2 ≤ (resting (idle x.1) x.2.1 (x.2.2 - 1)).counter.toNat + 1 := by decide +kernel
theorem witness_PowerStates :
    ((resting (idle 4) 0 0).courtPwr 0).st = 4 ∧ ((resting (idle 2) 2000 2000000).parkAll ((resting (idle 2) 2000 2000000).courtStreams 0)).2 = true ∧
    (unparkable.courtStreams 0 = [0] ∧ (unparkable.parkAll [0]).2 = false ∧ unparkable.courtIdle 0 = true ∧ unparkable.effTol 0 = 2000) ∧
    (world.courtIdle 0 = false ∧ world.courtDefined 7 = false ∧ (world.courtPwr 0).idleSince = 0) ∧
    (let deep (s : State) : Prop := ((∀ k < 8, s.courtDefined k = true → (s.courtPwr k).st = 4 ∧ (s.courtPwr k).entering = false ∧ (s.courtPwr k).waking = false) ∧
        2000000 ≤ s.pwr.tolModule ∧ s.cdc.streams = [] ∧ ∀ e ∈ s.ump.mbxs, isApp e.1 = true → e.2.session = false)
     let s := resting (idle 4) 2000000 0
     deep { s with pwr := { s.pwr with courts := [(0, idle 4), (1, idle 4)] } } ∧ ¬deep s) := by decide +kernel
theorem witness_PowerStates_wake : ∀ st ∈ [0, 1, 2, 3],
    ((resting ⟨st, true, false, 0, 1⟩ 0 0).courtPwr 0).entering = true ∧ ((resting ⟨st + 1, false, false, 0, 1⟩ 0 0).courtPwr 0).waking = false ∧
    ((resting ⟨st + 1, false, true, 0, 1⟩ 0 0).courtPwr 0).waking = true ∧ 0 < entryUs (st + 1) ∧ ¬entryUs (st + 1) + 1 ≤ entryUs (st + 1) := by decide +kernel

def powered (f : PwrSt → PwrSt) : State := { world with pwr := f world.pwr }
theorem witness_LimitsTemperaturesAndClock :
    ((18000 : Nat) < 18001 ∧ (17999 : Nat) < 18000) ∧
    (∀ x ∈ [(0, 15000), (1, 15000), (2, 15000), (3, 10000)],
      let s (mean : Nat) (held : Bool) := powered (fun p => { p with profile := x.1, mean := mean, beHeld := held, capA := 0, capV := 32 })
      let limit := (if (s 0 true).pwr.profile = 3 then 10000 else 15000) - (s 0 true).pwr.derate
      limit = x.2 ∧ limit < (s (x.2 + 1) false).pwr.mean ∧ (s x.2 true).pwr.mean ≤ limit ∧ 95 * limit ≤ 100 * (s (x.2 / 100 * 95) true).pwr.mean ∧
        100 * (s (x.2 / 100 * 95 - 1) true).pwr.mean < 95 * limit) ∧
    ((powered (fun p => { p with capV := 31 })).pwr.capV < 32 ∧ (powered (fun p => { p with capA := 63, capV := 63 })).pwr.capA ≠ 0) ∧
    (16 * 100 < (BitVec.ofNat 16 1601).toInt ∧ ¬16 * 100 < (BitVec.ofNat 16 1600).toInt ∧ 16 * 95 < (BitVec.ofNat 16 1521).toInt ∧ (BitVec.ofNat 16 1520).toInt ≤ 16 * 95 ∧
      (BitVec.ofNat 16 0xFFF0).toInt ≤ 16 * 95) ∧
    (39 < 40 ∧ 39 ∉ world.pwr.stopped ∧ 39 ∈ (powered (fun p => { p with stopped := [39] })).pwr.stopped) ∧
    ((powered (fun p => { p with locked := true })).pwr.locked = true ∧ world.pwr.holdover = false ∧ world.pwr.locked = false ∧
      (powered (fun p => { p with locked := true, holdover := true })).pwr.holdover = true) := by decide +kernel

/-- The block in step `n` of start-up. -/
def atStep (n : Nat) : State := { world with sec := { world.sec with step := n } }
theorem witness_StartUpSteps :
    (∀ n ∈ [1, 2, 3, 4, 5, 6, 7, 8], (atStep n).sec.step = n ∧ (atStep n).sec.failed = false) ∧ (atStep 1).pwr.refGood = true ∧
    ({ atStep 1 with pwr := { world.pwr with refGood := false } } : State).pwr.refGood = false ∧ ¬(true = true ∧ false = true) ∧
    ((atStep 3).bundleCode (atStep 3).currentBank ≠ 0 ∧ (atStep 3).bundleCode (atStep 3).otherBank ≠ 0) ∧
    (511 ∈ [511, 512].filter (· < 512) ∧ 512 ∉ [511, 512].filter (· < 512)) ∧
    ((atStep 8).sec.ready = false ∧ (atStep 8).ring.recorded = none ∧ ({ atStep 8 with ring := { world.ring with recorded := some 15 } } : State).ring.recorded = some 15) ∧
    (2 ≤ (atStep 2).sec.step ∧ (atStep 8).sec.step ≠ 9 ∧ (atStep 2).sec.ready = false ∧ (atStep 2).sec.failed = false ∧ ¬2 ≤ (atStep 1).sec.step ∧ (atStep 9).sec.step = 9 ∧
      (∃ q ∈ [({ (atStep 1).sec with resetN := true, pgood := true } : SecSt)], q.resetN = true ∧ q.pgood = true ∧ q.step = 1) ∧
      ¬((atStep 1).sec.resetN = true ∧ (atStep 1).sec.pgood = true)) := by decide +kernel
/-- A bundle passes in the current bank, or in the other alone, wherever its key and its signature are good (`bundle_passes`). -/
theorem witness_StartUpSteps_verify (hk : sha3 (bytesAt aBundle 128 2592) = Config.fwKeyDigest 0)
    (hv : Config.mldsaVerify (bytesAt aBundle 128 2592) (aBundle.take 128) (bytesAt aBundle 2720 4627) = true) (other : Bool) :
    let s : State := { atStep 3 with sec := { (atStep 3).sec with bankA := if other then [] else aBundle, bankB := if other then aBundle else [], fuses := [(2, 3)] } }
    (other = false → s.bundleCode s.currentBank = 0) ∧ (other = true → s.bundleCode s.currentBank ≠ 0 ∧ s.bundleCode s.otherBank = 0) := by
  refine ⟨fun h => ?_, fun h => ?_⟩ <;> subst h
  · exact bundle_passes _ rfl rfl hk hv
  · exact ⟨by decide +kernel, bundle_passes _ rfl rfl hk hv⟩

def smbus (step : Nat) (x : Option (Nat × Mem)) : State := { atStep step with smb := { world.smb with xfer := x } }
/-- A first anchor: slot 3, operation 0, its key digest (R495). -/
def anAnchor : List Byte := [3, 0, 0, 0] ++ List.replicate 64 1
theorem witness_SMBusAndDebug :
    ((true = true ∧ 2 ≤ (smbus 2 none).sec.step) ∧ ¬2 ≤ (smbus 1 none).sec.step) ∧
    ((List.replicate 12 (0 : Byte)).length = 12 ∧ (smbus 9 none).sec.step = 9 ∧ ({ world.smb with alert := true } : SmbSt).alert = true) ∧
    (∀ n ∈ [6, 255], 6 ≤ (0 :: List.replicate (n - 1) (0 : Byte)).length ∧ (0 :: List.replicate (n - 1) (0 : Byte)).length ≤ 255 ∧
      (smbus 9 none).sec.step = 9 ∧ leAt (0 :: List.replicate (n - 1) (0 : Byte)) 0 1 = 0 ∧ (smbus 8 none).sec.step ≠ 9 ∧ leAt (1 :: List.replicate (n - 1) (0 : Byte)) 0 1 = 1) ∧
    ((List.replicate 5 (0 : Byte)).length < 6 ∧ 255 < (List.replicate 256 (0 : Byte)).length) ∧
    ((smbus 8 (some (1, Mem.wrBytes [] 0 anAnchor))).smb.xfer = some (1, Mem.wrBytes [] 0 anAnchor) ∧ [1, 68, 0, 0, 0].length = 5 ∧
      Mem.rdBytes (Mem.wrBytes [] 0 anAnchor) 0 (leAt [1, 68, 0, 0, 0] 1 4) = anAnchor ∧ (smbus 8 none).anchorOk anAnchor = true ∧ (smbus 8 none).anchorOk [] = false ∧
      (smbus 9 (some (0, []))).bundleCode [] ≠ 0) ∧
    ((world.mbx 67).closed = true ∧ 67 < 68 ∧ (anchored.mbx 64).closed = false) ∧
    (({ world.sec with challenge := some ([], 5) } : SecSt).challenge = some ([], 5) ∧ world.sec.challenge = none ∧
      ({ world.sec with unlocked := some 2, unlockEnd := 0 } : SecSt).unlocked ≠ none) := by decide +kernel

def aRec0 : FRec := FRec.mk0 E_PWR_THERMAL 0 (ident 2 39)
/-- A unit with these records, and `n` suppressed. -/
def unitWith (recs : List (FRec × Bool)) (n : Nat) : State := world.setUnit 5 ⟨recs, n, E_PWR_THERMAL, 2⟩
theorem witness_FaultsAuditsAndLedger :
    ((world.unitQ 5).recs = [] ∧ (unitWith [(aRec0, true), (aRec0, false)] 0).unitQ 5 = ⟨[(aRec0, true)] ++ (aRec0, false) :: [], 0, E_PWR_THERMAL, 2⟩ ∧
      (∀ e ∈ [(aRec0, true)], e.2 = true) ∧ (unitWith [(aRec0, true)] 0).flt.log.length < 65536) ∧
    (((unitWith [(aRec0, true)] 0).unitQ 5).suppressed = 0 ∧ ((unitWith [(aRec0, true)] 3).unitQ 5).suppressed ≠ 0 ∧ ((unitWith [(aRec0, true)] 3).unitQ 5).recs = (aRec0, true) :: []) ∧
    (6 < 7 ∧ 7 ≤ 7 ∧ world.balances 6 ≠ []) ∧
    (1024 < 1025 ∧ 15 < 16 ∧ world.led.acc = []) := by decide +kernel
theorem witness_FaultsAuditsAndLedger_acc : AMap.wf world.countIdle.countUnstated.led.acc = true := by decide +kernel

/-- Port 47 in role 2 (a field port) and port 46 in role 1. -/
def fielded : State := { world with ring := { world.ring with roles := [(47, 2), (46, 1)] } }
theorem witness_RegistersAndAccesses :
    (instOk 1 25000 0 = false ∧ instOk 1 24999 0 = true ∧ instOk 2 1000 0 = false ∧ instOk 5 512 0 = false ∧ instOk 0x15 0 0 = false ∧ instOk 0x14 1 0 = false ∧
      regWidth 1 0xFFF8 = 0 ∧ (32 : Nat) ≠ regWidth 1 0x20 ∧ regWidth 0x0E (64 * 72) = 0) ∧
    (24999 < 25000 ∧ (world.physOf 24999).isSome = true ∧ 3 ∈ [1, 2, 3] ∧ (busy id).now.st = .running ∧ (busy id).now.stopping = none ∧
      CoreRegs.reset.st ≠ .running ∧ (BitVec.ofNat 64 0x10000).getLsbD 16 = true ∧ (BitVec.ofNat 64 0x20000).getLsbD 17 = true ∧
      pairOf (0x88 % 16) (0x88 / 16 % 16) ≠ none ∧ pairOf (0x80 % 16) (0x80 / 16 % 16) = none) ∧
    ((BitVec.ofNat 64 1).setWidth 24 ≠ 0#24 ∧ (BitVec.ofNat 64 (2 ^ 24)).setWidth 24 = 0#24) ∧ world.tier.selTier ≠ 3 ∧
    ((∀ code ∈ [0, 12], code ≤ 12) ∧ 4 ≤ vatWidth 0 ∧ 64 % vatWidth 0 = 0 ∧ vatWidth 7 < 4 ∧ 2 % vatWidth 0 ≠ 0) ∧
    (let ac : Access := ⟨.app 0, 1, 0, ident 2 1024⟩
     (world.objRead ac (4 * 262144) 64).2.1 = 0 ∧ (world.objRead ac (5 * 262144) 64).2.1 ≠ 0 ∧
     (world.objWrite ac (4 * 262144) [1]).2 = 0 ∧ (world.objWrite ac (5 * 262144) [1]).2 ≠ 0 ∧
     (world.objVat ac 0 (4 * 262144) (leBytes 4 1)).2.1 = 0 ∧ (world.objVat ac 0 (5 * 262144) (leBytes 4 1)).2.1 ≠ 0) ∧
    (47 < 48 ∧ 2 ≤ fielded.roleOf 47 ∧ fielded.pwr.ps5 = false ∧ ¬2 ≤ fielded.roleOf 46 ∧ [(1 : Byte)].length ≤ 9216) := by decide +kernel

/-! Requests (16 and the message tables of each chapter). -/

/-- The one request taken in is served, a MSG_HELLO or MSG_BYE when no other of its mailbox is due. -/
theorem served_serves (s : State) (r : Req) (ht : s.ump.tasks = []) (hm : r.mbx < 72) (hd : r.op = 1 ∨ r.op = 2 → (s.mbx r.mbx).due = 1) :
    (served s r).Serves r.op r.mbx r := by
  have hone : ∀ l k, (served s r).firstOf l k = if r.lc = l ∧ r.mbx = k then some r else none := by
    intro l k
    by_cases hk : r.lc = l ∧ r.mbx = k
    · have hf : (served s r).ump.intake.find? (fun q => q.lc == l && q.mbx == k) = some r := by
        have : (r.lc == l && r.mbx == k) = true := by simp [hk.1, hk.2]
        simp [served, this]
      have ho : (served s r).overdue = none := by simp [State.overdue, served, ht]
      have hg : ¬((r.op = 1 ∨ r.op = 2) ∧ ((served s r).mbx k).due ≠ 1 ∨ (served s r).afterTask r = true) := by
        rintro (h | h)
        · exact h.2 (hk.2 ▸ hd h.1)
        · simp [State.afterTask, ho] at h
      rw [State.firstOf, hf, if_pos hk]
      exact if_neg hg
    · have : (r.lc == l && r.mbx == k) = false := by simpa using hk
      simp [State.firstOf, served, List.find?, this, hk]
  have hnext : ∀ l last, (served s r).nextOf l last = if r.lc = l then some r else none := by
    intro l last
    simp only [State.nextOf, hone]
    split
    · next hl =>
      cases hf : (List.range 72).findSome? (fun i => if r.lc = l ∧ r.mbx = (last + 1 + i) % 72 then some r else none) with
      | none =>
        have := List.findSome?_eq_none_iff.mp hf ((r.mbx + 72 - (last + 1) % 72) % 72) (by simp; omega)
        have h2 : r.mbx = (last + 1 + (r.mbx + 72 - (last + 1) % 72) % 72) % 72 := by omega
        simp [hl, ← h2] at this
      | some x =>
        obtain ⟨i, _, hi⟩ := List.exists_of_findSome?_eq_some hf
        split at hi
        · exact hi.symm
        · cases hi
    · next hl => simp [hl]
  refine ⟨?_, rfl, rfl, rfl⟩
  simp only [State.nextReq, hnext]
  have ht2 : (served s r).ump.tasks = [] := ht
  have ho : (served s r).overdue = none := by simp [State.overdue, ht2]
  cases r.lc <;> simp [ho]

def ask (m op : Nat) (body : List Byte) : Req := ⟨m, op, 0, 1, false, body, 0⟩
/-- The block that serves this request. -/
def atDesk (s : State) (r : Req) : State := (served s r).takeReq r
/-- `world` with bytes stored at the start of object 4, as context 0's own. -/
def stored (bs : List Byte) : State := (world.objWrite (ask 0 0 []).access (4 * 262144) bs).1

/-- An image of one empty section of mailbox records (R427 to R429). -/
def anImage : List Byte :=
  leBytes 4 0x47494643 ++ [1, 0, 1, 0] ++ leBytes 4 80 ++ leBytes 2 1 ++ leBytes 50 0 ++ (leBytes 4 6 ++ leBytes 4 0 ++ leBytes 4 80 ++ leBytes 4 0)
def slotted : State := { world with ump := { world.ump with slot1 := ⟨aCfg, 2⟩ } }
def inTrial : State := { slotted with ump := { slotted.ump with trial := some ⟨2, 60, 0, 0⟩, active := 1 } }
theorem ask_serves (s : State) (m op : Nat) (body : List Byte) (ht : s.ump.tasks = []) (hm : m < 72) (hd : op ≠ 1 ∧ op ≠ 2 ∨ (s.mbx m).due = 1) :
    (served s (ask m op body)).Serves op m (ask m op body) :=
  served_serves s (ask m op body) ht hm (fun h => by
    rcases hd with hd | hd
    · rcases h with h | h
      · exact absurd h hd.1
      · exact absurd h hd.2
    · exact hd)
/-- Mailbox `m` with one accepted request due, as a MSG_HELLO or a MSG_BYE has it (R422). -/
def greeting (m : Nat) : State := world.modMbx m (fun b => { b with due := 1 })

/-- Requests of every other opcode, at the first and the last mailbox of each kind; a MSG_HELLO and a MSG_BYE. -/
theorem witness_requests_served (op : Nat) (body : List Byte) (h : op ≠ 1 ∧ op ≠ 2) :
    ∀ m ∈ [0, 63, 64, 67, 68, 71], (served world (ask m op body)).Serves op m (ask m op body) := by
  intro m hm
  exact ask_serves world m op body rfl (by fin_cases hm <;> decide) (.inl h)
theorem witness_requests_greet (body : List Byte) :
    ∀ m ∈ [0, 71], (served (greeting m) (ask m 1 body)).Serves 1 m (ask m 1 body) ∧ (served (greeting m) (ask m 2 body)).Serves 2 m (ask m 2 body) := by
  intro m hm
  have hd : ((greeting m).mbx m).due = 1 := by fin_cases hm <;> decide +kernel
  have hl : m < 72 := by fin_cases hm <;> decide
  exact ⟨ask_serves _ m 1 body rfl hl (.inr hd), ask_serves _ m 2 body rfl hl (.inr hd)⟩
theorem witness_requests_idle (r : Req) : ¬world.Serves 0x0003 0 r := fun h => by
  have : world.nextReq = none := by decide +kernel
  rw [h.next] at this
  cases this

theorem witness_SessionAndConfigurationRequests :
    (let lo (r : Req) : Nat := 256 * r.fld 0 1 + r.fld 1 1
     let hi (r : Req) : Nat := 256 * r.fld 2 1 + r.fld 3 1
     (lo (ask 0 1 [1, 0, 1, 0]) ≤ 256 ∧ 256 ≤ hi (ask 0 1 [1, 0, 1, 0])) ∧ 256 < lo (ask 0 1 [1, 1, 1, 1]) ∧ hi (ask 0 1 [0, 0, 0, 255]) < 256) ∧
    (isMgmt 63 = false ∧ isMgmt 64 = true ∧ isMgmt 67 = true ∧ isMgmt 68 = false ∧ world.ump.trialNote = false ∧ ({ world.ump with trialNote := true } : Ump).trialNote = true) ∧
    (let r := ask 0 0x0100 (leBytes 8 (4 * 262144) ++ leBytes 4 80)
     let u := atDesk (stored anImage) r
     (stored anImage).ump.trial = none ∧ r.fld 8 4 ≤ 4194304 ∧ (u.objRead r.access (r.fld 0 8) (r.fld 8 4)).2.1 = 0 ∧ cfgFail (u.objRead r.access (r.fld 0 8) (r.fld 8 4)).2.2 = none ∧
       ((atDesk world r).objRead r.access (r.fld 0 8) (r.fld 8 4)).2.1 = 0 ∧ cfgFail ((atDesk world r).objRead r.access (r.fld 0 8) (r.fld 8 4)).2.2 = some 0xFFFF ∧
       (u.objRead r.access (5 * 262144) 80).2.1 ≠ 0 ∧ inTrial.ump.trial ≠ none) ∧
    (∀ x ∈ [0, 10, 3600], (let r := ask 64 0x0101 (leBytes 8 2 ++ leBytes 2 x)
       slotted.ump.trial = none ∧ (r.fld 8 2 = 0 ∨ (10 ≤ r.fld 8 2 ∧ r.fld 8 2 ≤ 3600)) ∧ (atDesk slotted r).commitFail 1 (r.fld 0 8) = none)) ∧
    (∀ x ∈ [1, 9, 3601], (let r := ask 64 0x0101 (leBytes 8 2 ++ leBytes 2 x)
       (0 < r.fld 8 2 ∧ r.fld 8 2 < 10) ∨ 3600 < r.fld 8 2)) ∧
    ((atDesk slotted (ask 64 0x0101 (leBytes 8 3))).commitFail 1 3 = some (E_CFG_GEN, 2, 0xFF)) ∧
    (inTrial.ump.trial = some ⟨2, 60, 0, 0⟩ ∧ (ask 64 0x0102 (leBytes 8 2)).fld 0 8 = (⟨2, 60, 0, 0⟩ : Trial).gen ∧
      (ask 64 0x0103 (leBytes 8 1)).fld 0 8 = (inTrial.slotAt 0).gen ∧ (ask 64 0x0103 (leBytes 8 2)).fld 0 8 ≠ (inTrial.slotAt 0).gen) ∧
    (let r := ask 64 0x0105 ([1] ++ leBytes 7 0 ++ leBytes 8 (4 * 262144) ++ leBytes 8 0)
     r.fld 0 1 ≤ 1 ∧ (slotted.slotAt (r.fld 0 1)).img.bytes.length ≤ r.fld 16 8 ∧ ((atDesk slotted r).objWrite r.access (r.fld 8 8) []).2 = 0 ∧ 1 < (ask 64 0x0105 [2]).fld 0 1) :=
  ⟨by decide +kernel, by decide +kernel, by decide +kernel, by decide +kernel, by decide +kernel, by decide +kernel, by decide +kernel, by decide +kernel⟩

/-! Requests of the platform (10; 16; 17; 18; 19; 20; 21). -/

/-- A write within one fresh block of a stack without flipped bits goes through, whatever its bytes. -/
theorem write_ok (s : State) (ac : Access) (a x : Nat) (bs : List Byte) (hf : s.mem.flips = []) (hc : s.accessCode ac.ag true a bs.length = 0)
    (hp : piecesOf a bs.length = [(a, bs.length)]) (hx : s.freshAddr a = some x) : (s.objWrite ac a bs).2 = 0 := by
  have hd : (s.markDirty x bs.length).mem.flips = [] := by rw [State.markDirty]; split <;> exact hf
  simp [State.objWrite, hc, hp, State.piecesWrite, hx, State.stackWrite_clean _ _ _ _ _ hd]

def ruined : State := { world with flt := { world.flt with log := [(1, { FRec.mk0 E_PWR_THERMAL 2 0 with number := 1 }), (2, { FRec.mk0 E_PWR_THERMAL 2 0 with number := 2 })], count := 2 } }
theorem witness_PlatformRequests_memory :
    (511 < 512 ∧ ¬(512 < 512) ∧ (ask 0 0x0660 [0xFF, 0xFF]).fld 0 2 = 0xFFFF ∧ (atDesk world (ask 64 0x0661 [0xFF, 1])).mapoutCode 511 = 0 ∧
      (atDesk world (ask 64 0x0661 [0, 2])).mapoutCode 512 ≠ 0) ∧
    (instOk 0 0 0 = false ∧ (instOk 1 24999 0xFFF8 = true ∧ regWidth 1 0xFFF8 = 0) ∧ (instOk 5 511 8 = true ∧ regWidth 5 8 ≠ 0)) ∧
    (let bad (r : Req) : Prop := r.fld 8 4 = 0 ∨ 4096 < r.fld 8 4 ∨ 2 < r.fld 12 1 ∨ r.fld 16 8 % 64 ≠ 0 ∨ r.fld 24 8 < 64 * r.fld 8 4
     let q (n sev dest : Nat) : Req := ask 64 0x0D01 (leBytes 8 0 ++ leBytes 4 n ++ leBytes 4 sev ++ leBytes 8 dest ++ leBytes 8 (64 * n))
     bad (q 0 2 0) ∧ bad (q 4097 2 0) ∧ bad (q 1 3 0) ∧ bad (q 1 2 1) ∧ ¬bad (q 4096 2 (4 * 262144)) ∧ ¬bad (q 1 2 (4 * 262144)) ∧
     ((atDesk ruined (q 4096 2 0)).matching (q 4096 2 0) 0 2).length ≤ 4096 ∧ 1 < ((atDesk ruined (q 1 2 0)).matching (q 1 2 0) 0 2).length ∧
     (((atDesk ruined (q 1 2 0)).matching (q 1 2 0) 0 2).take 1).getLast? = some { FRec.mk0 E_PWR_THERMAL 2 0 with number := 1 } ∧
     ((atDesk ruined (q 1 2 (4 * 262144))).objWrite (q 1 2 0).access (4 * 262144) ({ FRec.mk0 E_PWR_THERMAL 2 0 with number := 1 } : FRec).bytes).2 = 0 ∧
     ((atDesk ruined (q 1 2 (5 * 262144))).objWrite (q 1 2 0).access (5 * 262144) ({ FRec.mk0 E_PWR_THERMAL 2 0 with number := 1 } : FRec).bytes).2 ≠ 0) ∧
    (6 ≤ 6 ∧ 6 < (ask 64 0x0D03 [7]).fld 0 1) ∧
    (let bad (r : Req) : Prop := r.fld 2 2 = 0 ∨ 1026 < r.fld 0 2 + r.fld 2 2 ∨ r.fld 8 8 % 64 ≠ 0
     let q (first n dest : Nat) : Req := ask 64 0x0D00 (leBytes 2 first ++ leBytes 2 n ++ leBytes 4 0 ++ leBytes 8 dest)
     bad (q 0 0 0) ∧ bad (q 1026 1 0) ∧ bad (q 1025 1 1) ∧ ¬bad (q 1025 1 (4 * 262144)) ∧ ¬bad (q 0 1026 0) ∧
     ((atDesk world (q 1025 1 (5 * 262144))).foldLedger.objWrite (q 1025 1 0).access (5 * 262144) (leBytes 128 0)).2 ≠ 0) :=
  ⟨by decide +kernel, by decide +kernel, by decide +kernel, by decide +kernel, by decide +kernel⟩
theorem witness_PlatformRequests_ledger (bs : List Byte) (h : bs.length = 128) :
    ((atDesk world (ask 64 0x0D00 [])).foldLedger.objWrite (ask 64 0 []).access (4 * 262144) bs).2 = 0 :=
  write_ok _ _ _ (32768 * 262144) bs (by decide +kernel) (by rw [h]; decide +kernel) (by rw [h]; decide +kernel) (by decide +kernel)

theorem witness_PlatformRequests_power :
    (let q (m court flags tol : Nat) : Req := ask m 0x0A00 (leBytes 1 court ++ leBytes 1 flags ++ leBytes 2 0 ++ leBytes 4 tol)
     (isMgmt (q 64 0xFF 0 1999999).mbx = true ∧ (q 64 0xFF 0 1999999).fld 0 1 = 0xFF ∧ (q 64 0xFF 0 1999999).fld 4 4 < 2000000 ∧ ¬(q 64 0xFF 0 2000000).fld 4 4 < 2000000) ∧
     ((q 64 1 1 5).fld 0 1 ≠ 0xFF ∧ world.courtDefined 1 = true ∧ bitOf ((q 64 1 1 5).fld 1 1) 0 = true) ∧
     ((q 63 0 0 5).ctx < 1024 ∧ bitOf ((q 63 0 0 5).fld 1 1) 0 = false ∧ isMgmt 63 = false) ∧ world.courtDefined 7 = false) ∧
    ((ask 64 0x0A01 [3]).fld 0 1 ≤ 3 ∧ 3 < (ask 64 0x0A01 [4]).fld 0 1) := by decide +kernel
def unjoined : State := { linked with ring := { linked.ring with member := false, members := [] } }
theorem witness_PlatformRequests_ring :
    (linked.ring.member = true ∧ linked.ring.joining = none ∧ unjoined.ring.member = false ∧ unjoined.ring.joining = none ∧ linked.ring.leaving = none ∧
      (15 : Nat) ≤ 15 ∧ (16 : Nat) ≠ 0xFF ∧ (joining 3).ring.joining ≠ none) ∧
    (let fits (port role : Nat) : Prop := port < 48 ∧ role ≤ 3 ∧ (role = 1 → isRailPort port = true)
     fits 47 3 ∧ ¬fits 48 3 ∧ ¬fits 47 4 ∧ ¬fits 47 1 ∧ fits 0 1 ∧ world.roleOf 47 ≠ 3 ∧ world.roleOf 47 = 2 ∧ isRailPort 47 = false ∧
       world.roleOf 0 ≠ 3 ∧ isRailPort 0 = true ∧ linked.ring.member = true) := by decide +kernel

def quoting (kinds court set dest n : Nat) : Req := ask 64 0x0B00 (leBytes 32 0 ++ [BitVec.ofNat 8 kinds, BitVec.ofNat 8 court, BitVec.ofNat 8 set] ++ leBytes 5 0 ++ leBytes 8 dest ++ leBytes 8 n)
theorem witness_PlatformRequests_security :
    (let bad (r : Req) : Prop := 64 ≤ r.fld 32 1 ∨ (7 < r.fld 33 1 ∧ r.fld 33 1 ≠ 0xFF) ∨ 63 < r.fld 34 1 ∨ r.fld 40 8 % 64 ≠ 0
     bad (quoting 64 0 0 0 0) ∧ bad (quoting 0 8 0 0 0) ∧ bad (quoting 0 0 64 0 0) ∧ bad (quoting 0 0 0 1 0) ∧ ¬bad (quoting 63 7 63 0 0) ∧ ¬bad (quoting 0 0xFF 0 (4 * 262144) 4691)) ∧
    ((atDesk world (quoting 0 0xFF 0 0 0)).quoteEntries 64 0 0xFF 0 = [] ∧ (quoting 0 0xFF 0 0 4690).fld 48 8 < 64 + 80 * 0 + 4627 ∧ 64 + 80 * 0 + 4627 ≤ (quoting 0 0xFF 0 0 4691).fld 48 8) ∧
    (4 < (ask 64 0x0B01 [5]).fld 0 1 ∧ ¬4 < (ask 64 0x0B01 [4]).fld 0 1) ∧
    (let fits (r : Req) : Prop := r.fld 0 1 ≤ 7 ∧ 1 ≤ r.fld 1 1 ∧ r.fld 1 1 ≤ 8 ∧ 1 ≤ r.fld 2 2 ∧ r.fld 2 2 ≤ 992 ∧ 16 + r.fld 2 2 ≤ r.body.length
     let q (part parts n : Nat) : Req := ask 68 0x0B03 ([BitVec.ofNat 8 part, BitVec.ofNat 8 parts] ++ leBytes 2 n ++ leBytes 12 0 ++ leBytes n 0)
     fits (q 7 8 1) ∧ fits (q 0 8 992) ∧ fits (q 0 1 1) ∧ ¬fits (q 8 8 1) ∧ ¬fits (q 0 9 1) ∧ ¬fits (q 0 0 1) ∧ ¬fits (q 0 1 0) ∧ ¬fits (q 0 1 993)) ∧
    (let s : State := { world with sec := { world.sec with challenge := some (leBytes 64 0, 5), token := some (1, 2, [0]) } }
     s.sec.challenge = some (leBytes 64 0, 5) ∧ s.counter.toNat < 5 ∧ s.sec.token = some (1, 2, [0]) ∧ 2 ≤ 1 + 1 ∧ s.tokenOk (leBytes 64 0) ([0] ++ [0]) = false ∧ world.sec.challenge = none ∧
       ({ world.sec with challenge := some ([], 0) } : SecSt).challenge = some ([], 0) ∧ 0 ≤ world.counter.toNat) ∧
    (world.ump.fw = none ∧ world.ump.trial = none ∧ world.mem.mapout = none ∧ (mapping 1 false).mem.mapout ≠ none ∧
      (let r := ask 64 0x0B20 (leBytes 8 (4 * 262144) ++ leBytes 8 64)
       r.fld 8 8 ≤ 268435456 ∧ ((atDesk world r).objRead r.access (r.fld 0 8) (r.fld 8 8)).2.1 = 0 ∧
       ((atDesk world r).objRead r.access (r.fld 0 8) (r.fld 8 8)).1.bundleCode ((atDesk world r).objRead r.access (r.fld 0 8) (r.fld 8 8)).2.2 ≠ 0 ∧
       (atDesk world r).versionsOk 256 256 = true)) :=
  ⟨by decide +kernel, by decide +kernel, by decide +kernel, by decide +kernel, by decide +kernel, by decide +kernel, by decide +kernel⟩
theorem witness_PlatformRequests_quote (bs : List Byte) (h : bs.length = 64 + 80 * 0 + 4627) :
    ((atDesk world (quoting 0 0xFF 0 (4 * 262144) 4691)).objWrite (quoting 0 0xFF 0 (4 * 262144) 4691).access (4 * 262144) bs).2 = 0 ∧
    ((atDesk world (quoting 0 0xFF 0 (5 * 262144) 4691)).objWrite (quoting 0 0xFF 0 (5 * 262144) 4691).access (5 * 262144) bs).2 ≠ 0 :=
  ⟨write_ok _ _ _ (32768 * 262144) bs (by decide +kernel) (by rw [h]; decide +kernel) (by rw [h]; decide +kernel) (by decide +kernel),
   by
    have hc : (atDesk world (quoting 0 0xFF 0 (5 * 262144) 4691)).accessCode (quoting 0 0xFF 0 (5 * 262144) 4691).access.ag true (5 * 262144) bs.length ≠ 0 := by
      rw [h]; decide +kernel
    rw [State.objWrite]
    rw [if_pos hc]
    exact hc⟩
/-- A token of level 2 for a minute (R497), good wherever its key is the fused one and its signature verifies. -/
def aToken : List Byte := leBytes 64 0 ++ [2, 0, 0, 0] ++ leBytes 4 60 ++ leBytes 7227 0
theorem witness_PlatformRequests_unlock (hk : sha3 (bytesAt aToken 80 2592) = Config.dbgKeyDigest 0)
    (hv : Config.mldsaVerify (bytesAt aToken 80 2592) (aToken.take 80) (bytesAt aToken 2672 4627) = true) : world.tokenOk (leBytes 64 0) aToken = true := by
  have h1 : aToken.length = 7299 := by simp [aToken]
  have h2 : aToken.take 64 = leBytes 64 0 ∧ leAt aToken 64 1 = 2 ∧ leAt aToken 65 1 = 0 ∧ leAt aToken 66 1 = 0 ∧ leAt aToken 68 4 = 60 := by decide +kernel
  have h3 : world.fuse 1 = 0 := by decide +kernel
  have h4 : world.sec.dbgRevoked = [] := rfl
  simp [State.tokenOk, h1, h2, h3, h4, hk, hv]

/-! Requests of plans, sequences, streams and codec streams (03; 04; 06; 07; 09; 13; 14; 15). -/

/-- A playbook of one empty kernel section (R97 to R99), with its digest. -/
def planHead : List Byte := leBytes 4 0x4B425950 ++ [1, 0, 1, 0] ++ leBytes 8 144 ++ leBytes 2 1 ++ leBytes 2 1 ++ leBytes 44 0
def planSect : List Byte := leBytes 2 1 ++ leBytes 2 0 ++ leBytes 4 0 ++ leBytes 4 144 ++ leBytes 4 0
def planDigest : List Byte :=
  [0x4a, 0xb9, 0x36, 0x98, 0x6e, 0x03, 0x7d, 0x17, 0x05, 0x61, 0x01, 0x4c, 0x2d, 0xed, 0x79, 0x68, 0xbc, 0x76, 0x47, 0x24, 0xd7, 0x04, 0x3f, 0xe0, 0x21, 0x8b, 0x8a, 0xdd, 0x14, 0x37, 0x94, 0x92,
   0x8b, 0x66, 0xec, 0x9f, 0x9a, 0x21, 0xd7, 0xd1, 0x44, 0xf5, 0xcc, 0x16, 0xfb, 0x9f, 0x6b, 0x04, 0x76, 0x64, 0x3d, 0xee, 0xf8, 0xeb, 0x26, 0x7d, 0x42, 0xd0, 0xd6, 0x2a, 0x7d, 0x05, 0x36, 0x62]
def planBytes : List Byte := planHead ++ planDigest ++ planSect
def loading : Req := ask 0 0x0200 (leBytes 8 0 ++ leBytes 8 (4 * 262144) ++ leBytes 8 144)
/-- A table image of one segment of two zeros, addressed linearly (06 R167). -/
def aTableImg : List Byte := leBytes 2 0 ++ leBytes 2 1 ++ leBytes 36 0
/-- Layer 0 of court 0 counted, its fallback in force. -/
def monitoredFb (s : State) : State := s.setFb 0 0 ⟨true, 2, 1000, 64, 0, 0, 0, 0, 0⟩
def admitting (book tokens : Nat) : Req := ask 0 0x0400 (leBytes 4 0 ++ leBytes 4 book ++ leBytes 4 tokens ++ leBytes 2 1 ++ leBytes 2 1 ++ leBytes 20 0)

theorem witness_WorkRequests_plans :
    (let s := monitoredFb world
     s.courtDefined 0 = true ∧ (s.precIn 0 0).isSome = true ∧ (s.fbRec 0 0).isSome = true ∧ (s.precIn 0 0).map (·.policy) = some 0 ∧ (0 : Nat) ≠ 0xFFFF ∧
       s.precIn 0 4095 = none ∧ s.courtDefined 7 = false ∧
       (∃ e, ({ s with book := { s.book with books := [(1, { aBook 0 0 with plan := { aPlan with prec := aPlan.prec.map (fun e => { e with policy := 1 }) } })] } } : State).precIn 0 0 = some e ∧
         e.policy = 1)) ∧
    (let r := ask 0 0x0250 ([0, 7] ++ leBytes 6 0 ++ leBytes 8 (4 * 262144) ++ leBytes 4 40)
     let u := atDesk (stored aTableImg) r
     r.fld 1 1 ≤ 7 ∧ r.fld 8 8 < 2 ^ 52 ∧ AMap.find? world.book.tables 7 = none ∧ AMap.find? world.book.tableReq 7 = none ∧
       (u.objRead r.access (r.fld 8 8) (r.fld 16 4)).2.1 = 0 ∧ (tableOf (u.objRead r.access (r.fld 8 8) (r.fld 16 4)).2.2).2 = 0 ∧
       (u.objRead r.access (5 * 262144) 40).2.1 ≠ 0 ∧ (tableOf (leBytes 40 0)).2 ≠ 0) ∧
    (inTrial.ump.trial ≠ none ∧ ({ inTrial with ump := { inTrial.ump with slot1 := ⟨.empty, 2⟩ } } : State).trialCourt 0 = true ∧ (atDesk world loading).trialCourt 0 = false) ∧
    (let u := atDesk (stored planBytes) loading
     let q := u.readPlan loading (loading.fld 8 8) (loading.fld 16 8)
     (loading.fld 16 8 ≠ 0 ∧ loading.fld 16 8 ≤ 2 ^ 32 ∧ loading.fld 8 8 < 2 ^ 52 ∧ loading.fld 4 4 = 0 ∧ loading.fld 1 3 = 0 ∧ (ask 0 0x0200 [0, 0, 0, 1]).fld 1 3 ≠ 0 ∧ (u.ctxRec 0).map (·.court) = some 0) ∧
     q.2.1 = none ∧ planFail q.2.2 (u.court 0).dieList.length u.ringSize (u.court 0).roster = none ∧ q.1.fitFail (u.court 0) 0 0 q.2.2 0 = none ∧ (q.1.replaceFail q.2.2 0).2 = none) ∧
    (((atDesk world loading).readPlan loading (4 * 262144) 144).2.1.map (·.code) = some E_PLAN_HEADER ∧ (planFail aPlan 1 1 true).isSome = true) :=
  ⟨by decide +kernel, by decide +kernel, by decide +kernel, by decide +kernel, by decide +kernel⟩
def tabbed : State := world.setCore 0 (busy (fun c => { c with tabs := [(7, ⟨none, none, true, false⟩)] }))
theorem witness_WorkRequests_tables : world.tabPending 0 7 = 0 ∧ tabbed.tabPending 0 7 ≠ 0 ∧
    AMap.find? ({ world.book with tableReq := [(7, noReq)] } : BookSt).tableReq 7 ≠ none := by decide +kernel

/-- A future of `world`, second in the roster, with its score table. -/
def aFuture : Seq := { aSeq 0 0 1 with isFuture := true, future := 3, family := 3 }
def withFuture : State := let s := withSeq aFuture; { s with sch := { s.sch with scores := [(1, 6)] } }
theorem witness_WorkRequests_sequences :
    ((match (atDesk world (admitting 1 (2 ^ 31 - 1))).admitCheck (admitting 1 (2 ^ 31 - 1)) with | .ok x => some x.2.1 | .error _ => none) = some 3 ∧
      (match (atDesk world (admitting 1 (2 ^ 31))).admitCheck (admitting 1 (2 ^ 31)) with | .error c => some c | .ok _ => none) = some E_SCH_ARG) ∧
    (let r (i : Nat) : Req := ask 0 0x0401 (leBytes 2 0 ++ leBytes 2 i)
     (atDesk world (r 0)).namedSeq (r 0) 0 ((r 0).fld 2 2) = some (aSeq 0 0 1) ∧ (atDesk world (r 1)).namedSeq (r 1) 0 ((r 1).fld 2 2) = none ∧
       (aSeq 0 0 1).pruning = false ∧ ({ aSeq 0 0 1 with pruning := true } : Seq).pruning = true ∧ world.bookOf (aSeq 0 0 1) = some (aBook 0 0)) ∧
    (world.courtDefined 0 = true ∧ world.rosterMode 0 = true ∧ (aSeq 0 0 1).tokens + (2 ^ 31 - 2) < 2 ^ 31 ∧ 2 ^ 31 ≤ (aSeq 0 0 1).tokens + (2 ^ 31 - 1)) ∧
    (contribOk aPlan ((ask 0 0x0501 (leBytes 24 0)).words 8) = true ∧ contribOk { aPlan with shapeMax := [] } ((ask 0 0x0501 (leBytes 8 0 ++ leBytes 4 (2 ^ 28 + 1))).words 8) = false) ∧
    (aFuture.isFuture = true ∧ aFuture.pruning = false ∧ destOk (4 * 262144) = true ∧ 1024 ≤ 1024 ∧ ((withFuture.holdChildren aFuture 0 2).2).isSome = true ∧
      withFuture.canReserve 0 aPlan 0 1024 = true ∧ withFuture.canReserve 0 { aPlan with att := [anAtt] } 0 1 = false ∧ rollBook.plan.scored = true ∧ aPlan.scored = false ∧
      (withFuture.objWrite (ask 0 0 []).access (4 * 262144) (leBytes 8 0)).2 = 0 ∧ (withFuture.objWrite (ask 0 0 []).access (5 * 262144) (leBytes 8 0)).2 ≠ 0) :=
  ⟨by decide +kernel, by decide +kernel, by decide +kernel, by decide +kernel, by decide +kernel⟩
theorem witness_WorkRequests_streams :
    ((withSeq moved).bookOf moved = some stateBook ∧ moved.hasStream = true ∧ (4 * 262144) % 4096 = 0 ∧ 4 * 262144 < 2 ^ 52 ∧ stateBook.plan.imageLen ≤ 6336 ∧ ¬stateBook.plan.imageLen ≤ 6335) ∧
    ((streamSeq .lost none).stream.st = .lost ∧ moved.copying = false ∧ ({ moved with copy := some (copyOf true 0 0) } : Seq).copying = true) ∧
    (moved.stream.image = none ∧ ((withSeq moved).importCheck noReq moved stateBook (4 * 262144) 6336 false 0).2.1 ≠ 0 ∧ (128 : Nat) ≤ 128) ∧
    ((withSeq moved).slotFor moved = some 0 ∧ (crowd 4 [0]).slotFor (streamSeq .benched none) = none) := by decide +kernel

/-- A batch of court 1 with one entry, sequence 2; `vals` its shape values. -/
def batching (k : Nat) : Req := { ask 0 0x0402 ([1, 0] ++ leBytes 2 1 ++ leBytes 4 0 ++ leBytes 8 (4 * 262144)) with ctx := k }
def someEnt : List Byte := leBytes 2 2 ++ leBytes 14 0
/-- The descriptor stored in an object that context 2 owns. -/
def batchState (first : List Byte) : State :=
  let s : State := { world with tier := { world.tier with objs := [(4, ⟨262144, 0, 0, some 2, .client, none⟩)] } }
  (s.objWrite (batching 2).access (4 * 262144) (first ++ leBytes 60 1 ++ someEnt)).1
theorem witness_WorkRequests_batches :
    (world.rosterMode 1 = false ∧ world.rosterMode 0 = true ∧ (batching 2).fld 2 2 = 1 ∧ (batching 2).fld 8 8 % 64 = 0 ∧ (1 ≤ 4096 ∧ ¬(4097 ≤ 4096))) ∧
    (let u := atDesk (batchState (leBytes 4 4)) (batching 2)
     let d := u.objRead (batching 2).access (4 * 262144) 80
     let sv := (List.range 16).map (fun i => leAt d.2.2 (4 * i) 4)
     d.2.1 = 0 ∧ (d.1.seq (stepEntOf (bytesAt d.2.2 64 16)).seq) = some (aSeq 2 1 2) ∧ (d.1.batchEntries 1 2 2 [stepEntOf (bytesAt d.2.2 64 16)] [] 0).1 = 0 ∧
       (aBook 1 2).plan.exceeds sv = false ∧ ¬1 < (d.1.batchGens [stepEntOf (bytesAt d.2.2 64 16)]).length ∧ (d.1.ctxSt 2).queue.length < 8) ∧
    (let u := atDesk (batchState (leBytes 4 5)) (batching 2)
     let d := u.objRead (batching 2).access (4 * 262144) 80
     (aBook 1 2).plan.exceeds ((List.range 16).map (fun i => leAt d.2.2 (4 * i) 4)) = true ∧ (d.1.batchEntries 1 2 2 [stepEntOf (bytesAt d.2.2 64 16)] [2] 0).1 ≠ 0 ∧
       (u.objRead (batching 2).access (5 * 262144) 80).2.1 ≠ 0) ∧
    (world.ctxRec 1023 = none ∧ world.permits 64 1 = true ∧ world.permits 63 1 = false ∧ (world.ctxRec 2).isSome = true) ∧
    ((aSeq 0 0 1).court = 0 ∧ (aSeq 0 0 1).ctx = (ask 0 0 []).ctx ∧ (aSeq 2 1 2).ctx ≠ (ask 0 0 []).ctx ∧ isMgmt 0 = false) :=
  ⟨by decide +kernel, by decide +kernel, by decide +kernel, by decide +kernel, by decide +kernel⟩

/-- An encoding stream of `w` by 128 in 8 bits at 30 frames a second, its ring at address `ring` (R393, R394, R406). -/
def opening (w eng ring fps : Nat) : Req := ask 0 0x0800 ([0, 0, 1, 30, 0, 8, 0, BitVec.ofNat 8 eng] ++ leBytes 2 w ++ leBytes 2 128 ++ leBytes 4 fps ++
  [0, 30, 1, 0] ++ leBytes 4 1000 ++ leBytes 4 4096 ++ leBytes 4 4096 ++ leBytes 8 ring ++ leBytes 4 8192 ++ leBytes 2 1 ++ [6, 0] ++ leBytes 16 0)
def toCodec (op : Nat) (head : List Byte) (arg : Nat) : Req := ask 0 op (leBytes 2 0 ++ head ++ leBytes 8 arg)
def decoding : CStream := { aCodec 0 1 with dir := 1 }
theorem witness_WorkRequests_open :
    (let c := streamOfOpen (opening 128 255 (4 * 262144) 30000)
     c.argOk (opening 128 255 (4 * 262144) 30000) = true ∧ c.kindOk = true ∧ c.sizeOk = true ∧ world.engineFor c.eng = some 0 ∧ c.dir = 0 ∧
       ¬(1000000 < world.loadOf 0 + c.loadAt c.fps ∨ 16 ≤ (world.streamsOf 0).length) ∧ world.accessCode (opening 0 0 0 0).access.ag true c.ring c.outBytes = 0 ∧
       (world.createObj (some 0) .made 393216 0 0).2.1 = 0) ∧
    ((streamOfOpen (opening 128 16 0 30000)).argOk (opening 128 16 0 30000) = false ∧ (streamOfOpen (opening 128 15 0 240000)).argOk (opening 128 15 0 240000) = true ∧
      (streamOfOpen (opening 128 15 0 240001)).argOk (opening 128 15 0 240001) = false ∧ (streamOfOpen (opening 120 15 0 30000)).sizeOk = false) ∧
    ((codecs [] none).engineFor 14 = none ∧ 16 ≤ ((codecs ((List.range 16).map (fun k => (k, aCodec 0 k))) none).streamsOf 15).length ∧
      world.accessCode (opening 0 0 0 0).access.ag true (5 * 262144) 8192 ≠ 0 ∧ (({ world with tier := { world.tier with limit := [] } } : State).createObj (some 0) .made 393216 0 0).2.1 ≠ 0) := by
  decide +kernel
theorem witness_WorkRequests_codec :
    (let s := codecs [(0, aCodec 0 1)] none
     (s.streamFor (toCodec 0x0805 [] 0)).map (·.1) = some 0 ∧ world.streamFor (toCodec 0x0805 [] 0) = none ∧ (toCodec 0x0801 [15, 0, 0, 0, 0, 0] 0).zeros 4 4 = true ∧ 15 ≤ 15 ∧
       AMap.find? (aCodec 0 1).pool 15 = none ∧ (codecs [(0, { aCodec 0 1 with pool := [] })] none).bufOk (toCodec 0 [] 0).access.ag { aCodec 0 1 with pool := [] } ⟨4 * 262144, 64, 64, 4096, 0, 0, 0⟩ = true ∧
       ((AMap.find? (aCodec 0 1).pool 0).map CStream.freeBuf) = some true ∧ ((AMap.find? (aCodec 0 1).pool 1).map CStream.freeBuf) = some false) ∧
    ((aCodec 0 1).queue.length < 32 ∧ 32 ≤ ({ aCodec 0 1 with queue := List.replicate 32 aFrame } : CStream).queue.length ∧ (aCodec 0 1).dir = 0 ∧ decoding.dir = 1 ∧
      (codecs [(0, decoding)] none).accessCode (toCodec 0 [] 0).access.ag false (4 * 262144) 64 = 0) ∧
    ((toCodec 0x0804 [2, 0, 0, 0, 0, 0] 0).zeros 3 5 = true ∧ (2 : Nat) < 3 ∧ (2 ^ 32 - 1 < 2 ^ 32) ∧ 240000 ≤ 240000 ∧ (aCodec 0 1).rd ≤ (aCodec 0 1).wr ∧
      (let s := codecs [(0, aCodec 0 1)] none
       s.loadOf 15 - (aCodec 0 1).load + (aCodec 0 1).loadAt 240000 ≤ 1000000 ∧
       1000000 < s.loadOf 15 - (aCodec 0 1).load + ({ aCodec 0 1 with width := 7680, height := 4320 } : CStream).loadAt 240000)) := by decide +kernel

/-! Requests of objects, weights and update plans (11; 12; 13). -/

def atObject (op : Nat) (tail : List Byte) : Req := ask 0 op (leBytes 8 (4 * 262144) ++ tail)
theorem witness_ObjectWeightAndUpdateRequests_objects :
    (let r (size comp ctx : Nat) : Req := { ask 0 0x0600 (leBytes 8 size ++ [BitVec.ofNat 8 comp, 0]) with ctx := ctx }
     (0 < (r 1 5 1023).fld 0 8 ∧ (r (2 ^ 40) 5 1023).fld 0 8 ≤ 2 ^ 40 ∧ (r 1 5 1023).fld 8 1 ≤ 5 ∧ (r 1 5 1023).ctx < 1024) ∧ (r 0 0 0).fld 0 8 = 0 ∧ 2 ^ 40 < (r (2 ^ 40 + 1) 0 0).fld 0 8 ∧
       5 < (r 1 6 0).fld 8 1 ∧ 1023 < (r 1 0 1024).ctx) ∧
    ((AMap.find? flying.tier.objs 4).isSome = true ∧ flying.inFlight (4 * 262144) 262144 = true ∧ world.inFlight (4 * 262144) 262144 = false) ∧
    (let own (s : State) (r : Req) := (atDesk s r).ownObj r (r.fld 0 8) false
     (own world (atObject 0x0601 [])).map (·.1) = some 4 ∧ own world (ask 0 0x0601 (leBytes 8 (4 * 262144 + 64))) = none ∧
       AMap.find? ({ world with wgt := { world.wgt with shards := [(4, aShard)] } } : State).wgt.shards 4 ≠ none ∧ AMap.find? world.wgt.shards 4 = none ∧
       (own world (atObject 0x0601 [])).map (fun e => e.2.move) = some none ∧ (own world (atObject 0x0602 [])).map (fun e => world.blocksOutside e.1 e.2 0) = some [] ∧
       (own (tiering 1) (atObject 0x0602 [])).map (fun e => decide ((tiering 1).moveCode e.1 e.2 1 ≠ 0)) = some true ∧
       (own (tiering 1) (atObject 0x0601 [])).map (fun e => e.2.move.map (·.freeing)) = some (some none) ∧
       (own world (atObject 0x0601 [])).map (fun e => world.planNames e.1 e.2) = some false ∧
       (let s := updating { anUpd none none false with layers := [aPlanLayer] }
        (own s (atObject 0x0601 [])).map (fun e => s.planNames e.1 e.2) = some true)) ∧
    (let o : Obj := ⟨262144, 0, 0, some 0, .client, none⟩
     world.moveCode 4 o 2 = 0 ∧ world.blocksOutside 4 o 0 = [] ∧ world.blocksOutside 4 o 2 ≠ [] ∧ world.moveCode 4 (moveTo 1) 1 ≠ 0 ∧ 2 ≤ 2 ∧ 2 < (atObject 0x0602 [3]).fld 8 1) ∧
    ((atDesk world (atObject 0x0603 [])).ownObj (atObject 0x0603 []) ((atObject 0x0603 []).fld 0 8) true |>.isSome) = true ∧
    (let r (c tier n : Nat) : Req := ask 64 0x0604 (leBytes 2 c ++ leBytes 2 tier ++ leBytes 4 0 ++ leBytes 8 n)
     ((r 1023 2 (4096 * (2 ^ 36 - 1))).fld 0 2 < 1024 ∧ (r 1023 2 0).fld 2 1 ≤ 2 ∧ (r 1023 2 (4096 * (2 ^ 36 - 1))).fld 8 8 % 4096 = 0 ∧ (r 1023 2 (4096 * (2 ^ 36 - 1))).fld 8 8 / 4096 < 2 ^ 36) ∧
       1023 < (r 1024 0 0).fld 0 2 ∧ 2 < (r 0 3 0).fld 2 1 ∧ (r 0 0 1).fld 8 8 % 4096 ≠ 0 ∧ 2 ^ 36 - 1 < (r 0 0 (4096 * 2 ^ 36)).fld 8 8 / 4096 ∧ world.ump.trial = none ∧ inTrial.ump.trial ≠ none) :=
  ⟨by decide +kernel, by decide +kernel, by decide +kernel, by decide +kernel, by decide +kernel, by decide +kernel⟩

/-- A shard of one part: `part` of layer 0, 32 by 32 in format `fmt` (R305, R306). -/
def shardImg (part fmt bytes : Nat) : List Byte :=
  leBytes 4 0x44524853 ++ [1, 0] ++ leBytes 2 1 ++ leBytes 8 8192 ++ leBytes 112 0 ++
  (leBytes 2 0 ++ [BitVec.ofNat 8 part, BitVec.ofNat 8 fmt] ++ leBytes 2 0 ++ leBytes 2 0 ++ leBytes 4 32 ++ leBytes 4 32 ++ leBytes 8 192 ++ leBytes 8 bytes)
/-- `stored`, with context 0 privileged, and these weight sets. -/
def weighty (img : List Byte) (sets : List (Nat × WSet)) : State :=
  let s := stored img
  { s with wgt := { s.wgt with priv := [0], sets := sets } }
def aSet (st : Nat) : WSet := ⟨false, 0, 2, [(1, ⟨st, false⟩)]⟩
def ownObject : Obj := ⟨262144, 0, 0, some 0, .client, none⟩
def registering (set tier : Nat) : Req := atObject 0x0300 [BitVec.ofNat 8 set, BitVec.ofNat 8 tier]
theorem witness_ObjectWeightAndUpdateRequests_shards :
    (∀ set ∈ [1, 63], (let r := registering set 1
      let u := atDesk (weighty (shardImg 0 0 576) []) r
      u.registerPerm r (r.fld 8 1) ((u.ownObj r (r.fld 0 8) false).map (·.2)) = true ∧ r.fld 9 1 ≤ 1 ∧ u.wset set = none)) ∧
    ((atDesk world (registering 0 0)).registerPerm (registering 0 0) 0 none = false ∧ (atDesk world (registering 64 0)).registerPerm (registering 64 0) 64 none = false ∧
      1 < (registering 1 2).fld 9 1) ∧
    ((aSet 0).genIn 0 = 1 ∧ (aSet 1).genIn 0 = 0 ∧ 8 ≤ ({ aSet 1 with gens := (List.range 8).map (fun k => (k + 1, ⟨1, false⟩)) } : WSet).gens.length) ∧
    (let h := (weighty (shardImg 0 0 576) []).shardHeader 4 ownObject
     h.2.1 = 0 ∧ h.2.2.any (fun q => ((h.1.shardsOf 1 1).flatMap (fun e => e.2.parts)).any (fun x => x.same q)) = false ∧
       h.2.2.any (fun q => (List.flatMap (fun e : Nat × Shard => e.2.parts) [(9, { aShard with set := 1, gen := 1, parts := h.2.2 })]).any (fun x => x.same q)) = true ∧
       h.2.2.any (fun q => decide (q.part < 3)) = true) ∧
    ((world.shardHeader 4 ownObject).2.1 ≠ 0 ∧ ((weighty (shardImg 3 8 2048) []).shardHeader 4 ownObject).2.1 = 0 ∧
      ((weighty (shardImg 3 8 2048) []).shardHeader 4 ownObject).2.2.any (fun q => decide (q.part < 3)) = false) :=
  ⟨by decide +kernel, by decide +kernel, by decide +kernel, by decide +kernel, by decide +kernel⟩

def adapted (a : Adapter) (h : Shard) : State := { world with wgt := { world.wgt with adapters := [(1, a)], shards := [(4, h)] } }
theorem witness_ObjectWeightAndUpdateRequests_adapters :
    (AMap.find? (adapted ⟨4, 0, 1, false⟩ aShard).wgt.adapters 1 = some ⟨4, 0, 1, false⟩ ∧ AMap.find? world.wgt.adapters 1 = none ∧ (ask 0 0x0305 []).ctx = 0 ∧ isMgmt 0 = false ∧
      (⟨4, 2, 1, true⟩ : Adapter).ctx ≠ (ask 0 0x0305 []).ctx ∧ ({ aShard with registered := true } : Shard).registered = true ∧ (⟨4, 0, 1, true⟩ : Adapter).released = true) ∧
    (256 ≤ (((List.range 256).map (fun k => (k + 1, (⟨4, 0, 1, false⟩ : Adapter)))).filter (fun e => decide (e.2.ctx = 0))).length ∧
      ¬256 ≤ (((List.range 255).map (fun k => (k + 1, (⟨4, 0, 1, false⟩ : Adapter)))).filter (fun e => decide (e.2.ctx = 0))).length) := by decide +kernel

def setting (w : WSet) (shards : List (Nat × Shard)) : State := { world with wgt := { world.wgt with sets := [(1, w)], shards := shards } }
theorem witness_ObjectWeightAndUpdateRequests_sets :
    (let s := setting (aSet 0) [(4, { aShard with set := 1, gen := 1, registered := true })]
     s.wset 1 = some (aSet 0) ∧ world.wset 1 = none ∧ (aSet 0).mayManage (ask 0 0x0301 [1]) = true ∧ ({ aSet 0 with shared := true } : WSet).mayManage (ask 0 0x0301 [1]) = false ∧
       ((ask 0 0x0301 [1, 2]).fld 1 1).testBit 1 = true ∧ ((ask 0 0x0301 [1, 0]).fld 1 1).testBit 1 = false ∧ (aSet 0).genIn 0 ≠ 0 ∧ (aSet 1).genIn 0 = 0 ∧
       (s.commitCheck 1 1).2.1 = 0 ∧ ((setting (aSet 0) []).commitCheck 1 1).2.1 ≠ 0) ∧
    ((aSet 0).shared = false ∧ isMgmt 0 = false ∧ ({ aSet 0 with owner := 2 } : WSet).owner ≠ 0) ∧
    (let bind (set book court : Nat) : Req := ask 0 0x0302 ([BitVec.ofNat 8 court, BitVec.ofNat 8 set] ++ leBytes 2 0 ++ leBytes 4 book)
     (bind 1 3 0).fld 4 4 = 3 ∧ AMap.find? world.book.books 3 = some stateBook ∧ AMap.find? world.book.books 99 = none ∧ stateBook.court = (bind 1 3 0).fld 0 1 ∧ stateBook.ctx = (bind 1 3 0).ctx ∧
       stateBook.court ≠ (bind 1 3 1).fld 0 1 ∧ world.seqsOf 3 = [] ∧ world.seqsOf 1 ≠ [] ∧ (bind 0 3 0).fld 1 1 = 0 ∧ (aSet 0).genIn 1 = 0 ∧ (aSet 1).genIn 1 ≠ 0 ∧
       ((setting (aSet 1) []).genCheck stateBook.plan 1 1).2.1 = 0 ∧
       ((setting (aSet 1) []).genCheck { stateBook.plan with wgt := [⟨0, 1, 0, 32, 32, true⟩] } 1 1).2.1 ≠ 0) ∧
    (let r (c v : Nat) : Req := ask 64 0x0306 (leBytes 2 c ++ [BitVec.ofNat 8 v])
     (r 1023 1).fld 0 2 < 1024 ∧ (r 1023 1).fld 2 1 = 1 ∧ (r 1023 0).fld 2 1 = 0 ∧ 1023 < (r 1024 0).fld 0 2 ∧ 1 < (r 0 2).fld 2 1 ∧
       ((List.range 8).filter (· ≠ 1023)).length = 8 ∧ ((List.range 7).filter (· ≠ 1023)).length < 8) := by decide +kernel

/-- A plan of one layer of 32 by 32 under rule 0 (R335, R336), its tensors within object 4. -/
def planImg (layer : Nat) : List Byte :=
  leBytes 4 0x4E414C50 ++ [1, 1] ++ leBytes 2 1 ++ leBytes 4 4 ++ leBytes 4 0 ++ leBytes 8 0 ++ leBytes 8 64 ++ leBytes 8 192 ++ leBytes 24 0 ++
  (leBytes 2 layer ++ leBytes 6 0 ++ leBytes 4 32 ++ leBytes 4 32 ++ leBytes 8 0 ++ leBytes 8 (4 * 262144 + 65536) ++ leBytes 8 (4 * 262144 + 131072) ++ leBytes 8 (4 * 262144 + 196608) ++ leBytes 40 0) ++
  leBytes 32 0 ++ leBytes 128 0
def planning (at_ : Nat) (next : Nat) : Req := ask 0 0x0C00 (leBytes 8 0 ++ leBytes 8 at_ ++ leBytes 8 320 ++ leBytes 4 next ++ leBytes 4 0)
theorem witness_ObjectWeightAndUpdateRequests_plan :
    (let r := planning (4 * 262144) 3
     let u := atDesk (stored (planImg 7)) r
     let q := u.objRead r.access (r.fld 8 8) (r.fld 16 8)
     (r.fld 0 1 ≤ 7 ∧ u.courtDefined 0 = true ∧ u.courtOf r.ctx = 0) ∧ q.2.1 = 0 ∧
       (updParse 0 0 q.2.2).elim (fun p => decide (r.fld 24 4 < p.steps) && decide (p.steps ≤ 4) && p.layers.all (fun l => q.1.updSizesOk l && q.1.updOwnOk 0 l) &&
         decide (q.1.updOverlap p.layers = none) && decide (p.layers.length = 1) &&
         p.layers.all (fun l => decide (q.1.resetCode l (umpAccess r.ctx) = 0))) (fun _ => false) = true ∧
       (u.objRead r.access (5 * 262144) 320).2.1 ≠ 0 ∧ (updParse 0 0 (leBytes 320 0)).elim (fun _ => 0) id = 0xFFFF) ∧
    ((let l : UpdLayer := { aPlanLayer with w := 4 * 262144 }
      world.updSizesOk l = false) ∧ world.resetCode { aPlanLayer with rule := 2, blk := 32, stats := 5 * 262144 } (umpAccess 0) ≠ 0 ∧ world.updOwnOk 2 aPlanLayer = false ∧ (updating { anUpd none none false with layers := [aPlanLayer] }).updOverlap [aPlanLayer] ≠ none) := by decide +kernel
theorem witness_ObjectWeightAndUpdateRequests_step :
    (let r (step : Nat) : Req := ask 0 0x0C01 (leBytes 4 1 ++ leBytes 4 step)
     let p := anUpd none none false
     (atDesk (updating p) (r 0)).planOf (r 0) = some (1, p) ∧ (atDesk world (r 0)).planOf (r 0) = none ∧ ((r 0).fld 4 4 = p.next ∧ p.next < p.steps ∧ p.waiting = none ∧ p.running = none) ∧
       (r 1).fld 4 4 ≠ p.next ∧ (anUpd none none true).torn = true ∧ p.torn = false ∧ p.release = none ∧ (anUpd (some noReq) none false).waiting ≠ none ∧
       ({ p with release := some noReq } : UpdPlan).release ≠ none) := by decide +kernel

/-! The step (statements over every command and state). -/

/-- The block after reset with two commands waiting. -/
def queued : State := { State.reset with pending := [.umpireFailover, .ledgerFold] }
theorem witness_StepKeepsRanges : State.reset.InRange ∧ (∃ t, step State.reset = .next t) ∧ (∃ t, exec .governorStep State.reset = .next t) ∧
    (∀ b n o w v, Instr.governorStep ≠ .registerWrite b n o w v) ∧ (∀ m, Instr.governorStep ≠ .msgRegWrite m) :=
  ⟨⟨by decide +kernel, by decide +kernel, by decide +kernel, by decide +kernel, by decide +kernel, by decide +kernel⟩, ⟨_, rfl⟩, ⟨_, rfl⟩, by intros; simp, by intros; simp⟩
theorem witness_EveryStepAnswers : State.reset.pending = [] ∧ Instr.ledgerFold ≠ .umpireFailover ∧ State.reset.ump.standby ≠ 2 := by decide +kernel
theorem test_step_front : step queued = exec .umpireFailover { queued with pending := [.ledgerFold] } := rfl
theorem test_step_idle : step State.reset = .next { State.reset with counter := 1 } := rfl
theorem test_decode_none (n w : Nat) : decodeTableWord n w = none ∧ State.reset.withFetchWord n w = State.reset := ⟨rfl, rfl⟩

/-! Single commands against the spec's figures. -/

/-- The check value of CRC-32C over the digits 1 to 9 (11 R291 names the code). -/
theorem test_crc32c : crc32c [0x31, 0x32, 0x33, 0x34, 0x35, 0x36, 0x37, 0x38, 0x39] = 0xE3069283 := by decide +kernel
/-- FIPS 202's digest of the empty message. -/
theorem test_sha3_empty : sha3 [] = sha3Empty := by decide +kernel
/-- A playbook that passes every check is installed under the next identifier (04 R120 to R122). -/
theorem test_playbook_load : (match exec (.msgPlaybookLoad 0) (served (stored planBytes) loading) with
    | .next t => ((AMap.find? t.book.books 6).map (fun b => (b.court, b.ctx, b.plan.digest == planDigest)), t.book.nextBook) | _ => (none, 0)) = (some (0, 0, true), 7) := by
  decide +kernel
/-- 18 kW is the instantaneous limit (18 R476), and its throttle counts measurements. -/
theorem test_power_limit : (match exec (.powerMeasure 18001 15000 []) world with | .next t => (t.pwr.limiting, t.pwr.now, t.pwr.mean) | _ => (false, 0, 0)) = (true, 18001, 15000) := by
  decide +kernel
/-- 115 °C stops the cores of die 39 and raises a record (18 R478). -/
theorem test_thermal_stop : (match exec (.thermalStop 39) world with | .next t => (t.pwr.stopped, t.flt.units.length) | _ => ([], 0)) = ([39], 1) := by decide +kernel
/-- RESET_N and CAB_PGOOD high: the module enters step 2 and counts a boot (19 R482). -/
theorem test_reset_release : (match exec .resetRelease State.reset with | .next t => (t.sec.step, t.sec.bootCount, t.pwr.locked) | _ => (0, 0, false)) = (2, 1, true) := by decide +kernel
/-- A map-out of channel 511 starts: the channel vacates (10 R263). -/
theorem test_mapout : (match exec (.msgChanMapout 64) (served world (ask 64 0x0661 [0xFF, 1])) with | .next t => ((t.chan 511).st, t.mem.mapout.map (·.chan)) | _ => (0, none)) = (1, some 511) := by
  decide +kernel

end Sys2Proof.Tests
end

/-! SUPPORT. What a register write sets, block by block; what an offset without a register reads as; what an application core's access and a
frame at a field port do. -/
namespace Sys2Proof.Machine.RegisterAccesses
open RegisterWrites (regs_eq masks mw mr)

/-! Offsets without a register (00 R7, R10). -/

theorem registerWrite_ignored (blk inst off width : Nat) (v : W64) (s : State)
    (h : instOk blk inst off = false ∨ regWidth blk off = 0 ∨ width ≠ regWidth blk off) :
    exec (.registerWrite blk inst off width v) s = .next s := by
  change Host.Outcome.next (ite _ _ _) = _
  rw [if_neg]
  rintro ⟨hinst, hwidth, heq⟩
  rcases h with h | h | h
  · simp [h] at hinst
  · exact hwidth h
  · exact h heq

/-- Outside the mailboxes an offset has no register only where neither list of its block names it. -/
theorem offset_unlisted {blk off : Nat} (hblk : blk ≠ 0x0E) (h : regWidth blk off = 0) : off ∉ regs32 blk ∧ off ∉ regs64 blk := by
  simp only [regWidth, if_neg hblk, List.contains_iff_mem] at h
  grind

theorem mbxOffset_unlisted {off : Nat} (hbox : off / 64 < 72) (h : regWidth 0x0E off = 0) : off % 64 ∉ [0x00, 0x08, 0x10, 0x18, 0x20] := by
  simp only [regWidth, if_true, if_neg (Nat.not_le.2 hbox), List.contains_iff_mem] at h
  grind

theorem mbxRead_unlisted (b : Mbx) {off : Nat} (h : off ∉ [0x00, 0x08, 0x10, 0x18, 0x20]) : b.read off = 0 := by
  simp only [List.mem_cons, List.not_mem_nil, not_or] at h
  simp [Mbx.read, h]

/-- The registers a block shows lie at the offsets of its two lists. -/
theorem readReg_unlisted (s : State) {blk off : Nat} (inst : Nat) (hblk : blk ≠ 0x0E) (h32 : off ∉ regs32 blk) (h64 : off ∉ regs64 blk) :
    s.readReg blk inst off = 0 := by
  unfold State.readReg
  split
  case h_14 => exact absurd rfl hblk
  all_goals simp only [regs32, regs64, List.mem_cons, List.not_mem_nil, not_or] at h32 h64
  case h_1 => cases s.physOf inst <;> simp [CoreRegs.readCore, h32, h64]
  case h_3 => cases s.physOf inst <;> simp [CoreRegs.readAcc, State.readMonitor, h32, h64]
  all_goals simp [Cluster.read, State.readMem, Channel.read, State.readTier, State.readCave, State.readWgt, State.readUpd, State.readSch,
    State.readRost, State.readCdc, State.readUmp, State.readRnd, State.readClk, State.readPwr, State.readSec, State.readFlt, State.readAud, h32, h64]

theorem readReg_eq_zero (s : State) {blk off : Nat} (inst : Nat) (h : regWidth blk off = 0) : s.readReg blk inst off = 0 := by
  by_cases hblk : blk = 0x0E
  · subst hblk
    change (if off / 64 < 72 then (s.mbx (off / 64)).read (off % 64) else 0) = 0
    split
    · next hbox => exact mbxRead_unlisted _ (mbxOffset_unlisted hbox h)
    · rfl
  · obtain ⟨h32, h64⟩ := offset_unlisted hblk h
    exact readReg_unlisted s inst hblk h32 h64

/-! The registers of a core (02). -/

theorem or_twoPow_of_getLsbD {n : Nat} (w : BitVec n) {i : Nat} (h : w.getLsbD i = true) : w ||| BitVec.twoPow n i = w := by
  apply BitVec.eq_of_getLsbD_eq
  intro j hj
  by_cases hij : i = j
  · subst hij
    simp [h]
  · simp [BitVec.getLsbD_twoPow, hij]

section Core
variable {s : State} {inst p : Nat} (hi : inst < 25000) (hp : s.physOf inst = some p) (v : W64)
include hi hp

theorem registerWrite_core {off width : Nat} (hw : regWidth 1 off = width) (h0 : width ≠ 0) :
    exec (.registerWrite 1 inst off width v) s = .next (s.writeCore p off v) := by
  rw [regs_eq 1 inst off width v s (decide_eq_true hi) hw h0]
  simp only [State.writeReg, hp]

theorem registerWrite_mask {k : Nat} (hk : k ∈ [1, 2, 3]) :
    exec (.registerWrite 1 inst (0x18 + 8 * k) 64 v) s = .next (s.modCore p (fun c => c.writeMask k v)) := by
  have hw : regWidth 1 (0x18 + 8 * k) = 64 := by
    revert k
    decide
  rw [regs_eq 1 inst _ 64 v s (decide_eq_true hi) hw (by decide), masks s inst v p k hp hk]

/-- Each bit of CORE_CTRL is set by a write of one, so a bit that the value has already adds nothing. -/
theorem registerWrite_run (h : v.getLsbD 16 = true) :
    exec (.registerWrite 1 inst 0x08 32 v) s = exec (.coreRun inst (v.setWidth 32)) s := by
  have hbit : v.setWidth 32 ||| 0x10000 = v.setWidth 32 := or_twoPow_of_getLsbD (i := 16) _ (by simpa using h)
  rw [registerWrite_core hi hp v (width := 32) rfl (by decide)]
  change _ = execCoreRun inst (v.setWidth 32) s
  simp only [execCoreRun, hp, hbit, State.writeCore]

theorem registerWrite_halt (h : v.getLsbD 17 = true) :
    exec (.registerWrite 1 inst 0x08 32 v) s = exec (.coreHalt inst (v.setWidth 32)) s := by
  have hbit : v.setWidth 32 ||| 0x20000 = v.setWidth 32 := or_twoPow_of_getLsbD (i := 17) _ (by simpa using h)
  rw [registerWrite_core hi hp v (width := 32) rfl (by decide)]
  change _ = execCoreHalt inst (v.setWidth 32) s
  simp only [execCoreHalt, hp, hbit, State.writeCore]

theorem registerWrite_mfmt : exec (.registerWrite 1 inst 0x18 32 v) s = .next (s.writeMfmt p v) :=
  registerWrite_core hi hp v (width := 32) rfl (by decide)

end Core

/-- CORE_MFMT takes a pair that R47 permits. -/
theorem writeMfmt_permitted (s : State) (p : Nat) (v : W64) (h : pairOf (v.toNat % 16) (v.toNat / 16 % 16) ≠ none) :
    s.writeMfmt p v = s.modCore p (fun c => { c with mfmtA := v.setWidth 4, mfmtB := (v >>> 4).setWidth 4 }) :=
  if_pos (Option.isSome_iff_ne_none.2 h)

theorem writeMfmt_refused (s : State) (p : Nat) (v : W64) (h : pairOf (v.toNat % 16) (v.toNat / 16 % 16) = none) :
    s.writeMfmt p v = if (s.core p).now.st = .running ∧ (s.core p).now.stopping = none then s.stopNow p E_CORE_FMT else s :=
  if_neg (by simp [h])

/-- A mask pair written is the only change, and the other pairs stay. -/
theorem modCore_writeMask (s : State) (p k : Nat) (v : W64) :
    let t := s.modCore p (fun c => c.writeMask k v)
    t = { s with cores := t.cores } ∧ (∀ q, q ≠ p → t.core q = s.core q) ∧
      (t.core p).now = { (s.core p).now with pmask := (t.core p).now.pmask } ∧
      ∀ j, AMap.find? (t.core p).now.pmask j = if j = k then some (v.setWidth 32, (v >>> 32).setWidth 32) else AMap.find? (s.core p).now.pmask j := by
  refine ⟨rfl, fun q hq => State.core_modCore_ne s _ hq, ?_, fun j => ?_⟩
  · rw [State.core_modCore_self]; rfl
  · rw [State.core_modCore_self]; exact AMap.find_insert _ _ _ _

/-! The registers of a cluster and of a channel (04, 10). -/

section Cluster
variable (s : State) {inst : Nat} (hi : inst < 1000) (v : W64)
include hi

theorem registerWrite_clu {off : Nat} (hw : regWidth 2 off = 32) :
    exec (.registerWrite 2 inst off 32 v) s = .next (s.writeClu inst off v) :=
  regs_eq 2 inst off 32 v s (decide_eq_true hi) hw (by decide)

/-- CLU_CFG stays while a core of the cluster runs. -/
theorem registerWrite_cluCfg : exec (.registerWrite 2 inst 0 32 v) s = .next (if ∃ e ∈ s.cores, e.1 / 26 = inst ∧ e.2.now.st = .running then s
    else s.modClu inst (fun c => { c with tbReserve := v.setWidth 2, stgReserve := (v >>> 2).setWidth 2 })) := by
  rw [registerWrite_clu s hi v rfl]
  exact congrArg _ (if_congr (by simp) rfl rfl)

theorem registerWrite_haloTmo (h : v.setWidth 24 ≠ 0#24) :
    exec (.registerWrite 2 inst 0x10 32 v) s = .next (s.modClu inst (fun c => { c with haloTmo := v.setWidth 24 })) := by
  rw [registerWrite_clu s hi v rfl]
  simp only [State.writeClu, if_neg h]

/-- A limit of zero leaves every cluster as it reads. -/
theorem registerWrite_haloTmo_zero (h : v.setWidth 24 = 0#24) :
    ∃ t, exec (.registerWrite 2 inst 0x10 32 v) s = .next t ∧ ∀ n, t.clu n = s.clu n := by
  refine ⟨_, registerWrite_clu s hi v rfl, fun n => ?_⟩
  simp only [State.writeClu, if_pos h]
  rw [State.modClu, State.clu_setClu]
  split
  · next hn => rw [hn]
  · rfl

end Cluster

theorem registerWrite_chan (s : State) {inst off : Nat} (hi : inst < 512) (v : W64) (hw : regWidth 5 off = 64) :
    exec (.registerWrite 5 inst off 64 v) s = .next (s.modChan inst (fun c => c.write off v)) :=
  regs_eq 5 inst off 64 v s (decide_eq_true hi) hw (by decide)

/-! Fields with a range (00 R8): a value outside it leaves the field. -/

/-- A field kept outside its range takes the value within it. -/
theorem ite_eq_of_iff_not {α : Type} {out within : Prop} [Decidable out] [Decidable within] (h : out ↔ ¬within) (x y : α) :
    (if out then x else y) = if within then y else x :=
  (if_congr h rfl rfl).trans (ite_not ..)

theorem registerWrite_fbWindow (s : State) (v : W64) :
    let win := ((v >>> 8).setWidth 11 : BitVec 11)
    exec (.registerWrite 3 0 0x1000 32 v) s =
      .next { s with book := { s.book with fbEnable := v.getLsbD 0, fbWindow := if win ≠ 0 ∧ win.toNat ≤ 1024 then win else s.book.fbWindow } } := by
  intro win
  have hrange : win = 0 ∨ 1024 < win.toNat ↔ ¬(win ≠ 0 ∧ win.toNat ≤ 1024) := by rw [not_and_or, not_not, not_le]
  rw [← ite_eq_of_iff_not hrange]
  exact regs_eq 3 0 0x1000 32 v s rfl rfl (by decide)

theorem registerWrite_mem (s : State) (v : W64) {off : Nat} (hw : regWidth 4 off = 32) :
    exec (.registerWrite 4 0 off 32 v) s = .next { s with mem := s.mem.write off v } :=
  regs_eq 4 0 off 32 v s rfl hw (by decide)

theorem registerWrite_cave (s : State) (v : W64) {off : Nat} (hw : regWidth 7 off = 32) :
    exec (.registerWrite 7 0 off 32 v) s = .next { s with tier := s.tier.writeCave off v } :=
  regs_eq 7 0 off 32 v s rfl hw (by decide)

theorem registerWrite_ring (s : State) (v : W64) {off : Nat} (hw : regWidth 15 off = 32) :
    exec (.registerWrite 15 0 off 32 v) s = .next { s with ring := s.ring.write off v } :=
  regs_eq 15 0 off 32 v s rfl hw (by decide)

theorem memWrite_ceLimit (m : MemSt) (v : W64) :
    m.write 0x10 v = { m with ceLimit := if v.setWidth 16 = 0#16 then m.ceLimit else v.setWidth 16 } := by
  simp only [MemSt.write]
  split <;> rfl

theorem memWrite_scrub (m : MemSt) (v : W64) :
    let win := ((v >>> 8).setWidth 11 : BitVec 11)
    m.write 0x18 v = { m with scrubOn := v.getLsbD 0, scrubPeriod := if 60 ≤ win.toNat ∧ win.toNat ≤ 1440 then win else m.scrubPeriod } := by
  intro win
  have hrange : win.toNat < 60 ∨ 1440 < win.toNat ↔ ¬(60 ≤ win.toNat ∧ win.toNat ≤ 1440) := by omega
  rw [← ite_eq_of_iff_not hrange]
  rfl

theorem caveWrite_budget (t : TierSt) (v : W64) :
    let budget := (v.setWidth 16 : BitVec 16)
    t.writeCave 0 v = { t with budget := if budget ≠ 0#16 ∧ budget.toNat ≤ 750 then budget else t.budget } := by
  intro budget
  have hrange : budget = 0#16 ∨ 750 < budget.toNat ↔ ¬(budget ≠ 0#16 ∧ budget.toNat ≤ 750) := by rw [not_and_or, not_not, not_le]
  rw [← ite_eq_of_iff_not hrange]
  change (if budget = 0#16 ∨ 750 < budget.toNat then t else { t with budget := budget }) = _
  split <;> rfl

/-- TIER_LIMIT written where the tier selected is one: that limit alone changes. -/
theorem registerWrite_limit (s : State) (v : W64) (h : s.tier.selTier ≠ 3) :
    ∃ t, exec (.registerWrite 6 0 0x18 64 v) s = .next t ∧ t = { s with tier := { s.tier with limit := t.tier.limit } } ∧
      ∀ k, AMap.getD t.tier.limit 0 k = if k = 4 * s.tier.selClient.toNat + s.tier.selTier.toNat then v.toNat % 2 ^ 36 else AMap.getD s.tier.limit 0 k := by
  refine ⟨_, regs_eq 6 0 0x18 64 v s rfl rfl (by decide), ?_⟩
  simp only [State.writeReg, TierSt.write, if_neg h, true_and]
  exact fun k => AMap.getD_setD _ _ _ _ _

theorem ringWrite_huddleTmo (r : RingSt) (v : W64) :
    r.write 0x20 v = { r with huddleTmo := if v.setWidth 16 = 0#16 then r.huddleTmo else v.setWidth 16 } := by
  simp only [RingSt.write]
  split <;> rfl

/-- The registers of mailbox `m` (16). -/
theorem registerWrite_mbx (s : State) (v : W64) {m k width : Nat} (hm : m < 72) (hk : k = 0 ∨ k = 0x18 ∨ k = 0x20) (hwidth : width = if k = 0x20 then 64 else 32) :
    exec (.registerWrite 14 0 (64 * m + k) width v) s = .next (s.modMbx m (fun b => b.write k v)) := by
  rw [regs_eq 14 0 _ width v s rfl (hwidth ▸ mw m k hm hk) (by split at hwidth <;> omega), mr s m k v hm (by omega)]

/-! Accesses of application cores (11 R278). -/

/-- What an application core is told: the answer of an access with its bytes and charge where it is granted, else the code alone. -/
def accessTold (core : Nat) (r : State × Code × List Byte) (charged : State → State) : State :=
  (if r.2.1 = 0 then charged r.1 else r.1).answerUnit (196608 + core) r.2.1 (if r.2.1 = 0 then r.2.2 else [])

theorem accessTold_granted (core : Nat) {r : State × Code × List Byte} (charged : State → State) (h : r.2.1 = 0) :
    accessTold core r charged = (charged r.1).answerUnit (196608 + core) 0 r.2.2 := by
  simp only [accessTold, h, if_true]

theorem accessTold_refused (core : Nat) {r : State × Code × List Byte} (charged : State → State) (h : r.2.1 ≠ 0) :
    accessTold core r charged = r.1.answerUnit (196608 + core) r.2.1 [] := by
  simp only [accessTold, h, if_false]

/-- How an application core of a context reaches objects: through its hub. -/
def appAccess (core ctx : Nat) : Access := ⟨.app ctx, 1, ctx, ident 2 (1024 + core / 16)⟩

section Access
variable (s : State) (core ctx a : Nat)

theorem appRead_eq (n : Nat) : exec (.appCoreObjectAccess ⟨core, ctx⟩ (.read a n)) s =
    .next (accessTold core (s.objRead (appAccess core ctx) a n) (fun u => u.chargeBytesAt (appAccess core ctx).unit 1024 false a n)) := rfl

theorem appWrite_eq (d : List Byte) : exec (.appCoreObjectAccess ⟨core, ctx⟩ (.write a d)) s =
    .next (accessTold core ((s.objWrite (appAccess core ctx) a d).1, (s.objWrite (appAccess core ctx) a d).2, [])
      (fun u => u.chargeBytesAt (appAccess core ctx).unit 1024 true a d.length)) := rfl

/-- A vat operation of a reserved code or off its element's alignment does nothing. -/
theorem appVat_ignored (code : BitVec 4) (x : W64) (h : vatWidth code < 4 ∨ a % vatWidth code ≠ 0) :
    exec (.appCoreObjectAccess ⟨core, ctx⟩ (.vat a code x)) s = .next s :=
  congrArg _ (if_pos h)

theorem appVat_eq (code : BitVec 4) (x : W64) (hw : 4 ≤ vatWidth code) (ha : a % vatWidth code = 0) :
    exec (.appCoreObjectAccess ⟨core, ctx⟩ (.vat a code x)) s =
      .next (accessTold core (s.objVat (appAccess core ctx) code a (leBytes (vatWidth code) x.toNat))
        (fun u => (u.chargeBytesAt (appAccess core ctx).unit 1024 false a (vatWidth code)).chargeBytesAt (appAccess core ctx).unit 1024 true a (vatWidth code))) :=
  congrArg _ (if_neg (by omega))

end Access

/-! Frames at field ports (17 R459). -/

section Field
variable (s : State) (port : Nat) (rx : Bool) (d : List Byte)

/-- Where a frame passes: a port of a field role, powered, and a frame of 1 to 9,216 bytes. -/
def FramePasses : Prop := port < 48 ∧ 2 ≤ s.roleOf port ∧ s.pwr.ps5 = false ∧ d ≠ [] ∧ d.length ≤ 9216

/-- The port once a frame is received or sent, stamped with its hub's counter. -/
def stampedField : FieldPort :=
  if rx then { AMap.getD s.ring.fields .reset port with rx := d, rxStamp := s.hubCounter (port / 12), rxOk := frameOk d }
  else { AMap.getD s.ring.fields .reset port with tx := frameSend d, txStamp := s.hubCounter (port / 12) }

theorem not_framePasses_iff : ¬FramePasses s port d ↔ 48 ≤ port ∨ s.roleOf port < 2 ∨ s.pwr.ps5 ∨ d = [] ∨ 9216 < d.length := by
  simp only [FramePasses, not_and_or, Nat.not_lt, Nat.not_le, Bool.not_eq_false, ne_eq, not_not]

theorem fieldPortFrame_ignored (h : ¬FramePasses s port d) : exec (.fieldPortFrame port rx d) s = .next s :=
  congrArg _ (if_pos ((not_framePasses_iff s port d).1 h))

/-- A frame that passes changes its port, and where it is sent the ledger. -/
theorem fieldPortFrame_passes (h : FramePasses s port d) :
    ∃ t, exec (.fieldPortFrame port rx d) s = .next t ∧ t = { s with ring := { s.ring with fields := t.ring.fields }, led := t.led } ∧
      (rx = true → t.led = s.led) ∧ t.ring.fields = AMap.insert s.ring.fields port (stampedField s port rx d) := by
  refine ⟨_, congrArg Host.Outcome.next (if_neg (fun hn => (not_framePasses_iff s port d).2 hn h)), ?_⟩
  cases rx
  · exact ⟨rfl, nofun, rfl⟩
  · exact ⟨rfl, fun _ => rfl, rfl⟩

end Field

/-- Settles O53: it holds, block by block; each clause is the rule of its register, of an access or of a frame. -/
theorem registersAndAccesses : Obligations.RegistersAndAccesses := by
  unfold Obligations.RegistersAndAccesses
  intro s
  refine ⟨?ignored, ?unlisted, fun inst v => ⟨?masks, ?core, ?cluster, ?channel⟩,
    fun v => ⟨registerWrite_fbWindow s v, registerWrite_mem s v rfl, ?ceLimit, ?scrub, ?budget, registerWrite_limit s v, ?huddle, ?mailbox⟩,
    fun core ctx => ⟨?read, ?write, ?vat⟩, ?frame⟩
  case ignored => exact fun blk inst off width v h => registerWrite_ignored blk inst off width v s h
  case unlisted => exact fun blk inst off h => readReg_eq_zero s inst h
  case masks => exact fun k p hi hp hk => ⟨_, registerWrite_mask hi hp v hk, modCore_writeMask s p k v⟩
  case core =>
    intro p hi hp
    refine ⟨registerWrite_run hi hp v, registerWrite_halt hi hp v, fun h => ?_, fun h hrun hstop => ?_, fun h hidle => ?_⟩
    · rw [registerWrite_mfmt hi hp, writeMfmt_permitted s p v h]
    · rw [registerWrite_mfmt hi hp, writeMfmt_refused s p v h, if_pos ⟨hrun, hstop⟩]
    · rw [registerWrite_mfmt hi hp, writeMfmt_refused s p v h, if_neg (not_and_or.2 hidle)]
  case cluster => exact fun hi => ⟨registerWrite_cluCfg s hi v, registerWrite_haloTmo s hi v, registerWrite_haloTmo_zero s hi v⟩
  case channel => exact fun hi => ⟨registerWrite_chan s hi v rfl, registerWrite_chan s hi v rfl⟩
  case ceLimit => rw [registerWrite_mem s v rfl, memWrite_ceLimit]
  case scrub => rw [registerWrite_mem s v rfl, memWrite_scrub]
  case budget => rw [registerWrite_cave s v rfl, caveWrite_budget]
  case huddle => rw [registerWrite_ring s v rfl, ringWrite_huddleTmo]
  case mailbox =>
    exact fun m hm => ⟨registerWrite_mbx s v hm (.inl rfl) rfl, registerWrite_mbx s v hm (.inr (.inl rfl)) rfl,
      registerWrite_mbx s v hm (.inr (.inr rfl)) rfl⟩
  case read =>
    intro a n
    rw [appRead_eq]
    exact ⟨fun h => congrArg _ (accessTold_granted core _ h), fun h => congrArg _ (accessTold_refused core _ h)⟩
  case write =>
    intro a d
    rw [appWrite_eq]
    exact ⟨fun h => congrArg _ (accessTold_granted core _ h), fun h => congrArg _ (accessTold_refused core _ h)⟩
  case vat =>
    refine fun a code x => ⟨appVat_ignored s core ctx a code x, fun hw ha h => ?_, fun hw ha h => ?_⟩
    · rw [appVat_eq s core ctx a code x hw ha]
      exact congrArg _ (accessTold_granted core _ h)
    · rw [appVat_eq s core ctx a code x hw ha]
      exact congrArg _ (accessTold_refused core _ h)
  case frame =>
    refine fun port rx d => ⟨fieldPortFrame_ignored s port rx d, fun h => ?_⟩
    obtain ⟨t, ht, hframe, hled, hfields⟩ := fieldPortFrame_passes s port rx d h
    refine ⟨t, ht, hframe, hled, fun k => ?_⟩
    rw [hfields, AMap.getD_insert, ite_not]
    rfl

end Sys2Proof.Machine.RegisterAccesses

/-! SUPPORT. A slot operation guarded by its reads; what MFOLD and MWH leave of a core, cell by cell. -/
namespace Sys2Proof.Machine.FoldAndWhey
open Cells (CellsOk cells_ok mem_cellsOn cellsOn_eq both both_read both_out foldRes fold_cells curd_clear_read wheyPut wheyPut_in wheyPut_out)

/-! Guarded slot operations (02 R37). -/

theorem guarded_of_none {α : Type} {c : CoreRegs} {tr tw ar aw : List (Nat × Nat)} (h : c.guarded tr tw ar aw none some = none)
    (bad : α) (k : CoreRegs → α) : c.guarded tr tw ar aw bad k = bad := by
  unfold CoreRegs.guarded at h ⊢
  split at h
  · rfl
  · cases h

theorem guarded_of_some {α : Type} {c r : CoreRegs} {tr tw ar aw : List (Nat × Nat)} (h : c.guarded tr tw ar aw none some = some r)
    (bad : α) (k : CoreRegs → α) : c.guarded tr tw ar aw bad k = k r := by
  unfold CoreRegs.guarded at h ⊢
  split at h
  · cases h
  · cases h
    rfl

/-- A command that issues, reads and writes under guard, and then takes effect: the stop and the effect of `OverStores`. -/
theorem overStores_ok {s : State} {b : Slot} {p : Nat} {c : Core} {i : Instr} {f : CoreRegs → CoreRegs → SlotRes}
    {tr tw ar aw : List (Nat × Nat)} {P : Core → State → Prop} (he : exec i s = .next (slotOp b f s)) (h : s.Issues b p c)
    (res : CoreRegs → CoreRegs) (hf : f c.pre c.now = c.now.guarded tr tw ar aw (.stop E_CORE_ECC) (fun r => .ok (res r)))
    (hP : ∀ r t, t = s.issued p c (res r) → t.core p = ⟨res r, c.pre⟩ → P ⟨r, c.pre⟩ t) :
    OverStores i s p c tr tw ar aw (fun c => ∃ t, exec i s = .next t ∧ P c t) :=
  ⟨fun hbad => exec_stop he E_CORE_ECC h (hf.trans (guarded_of_none hbad _ _)),
    fun r hr => exec_ok he (res r) h (hf.trans (guarded_of_some hr _ _)) (hP r)⟩

/-! The cells of a tile. -/

theorem length_filter_cellsOn (row col : W32) (q : Nat → Nat → Bool) :
    ((cellsOn row col).filter (fun e => q e.1 e.2)).length =
      (((List.range 1024).filter (fun n => row.getLsbD (n / 32) && col.getLsbD (n % 32))).filter (fun n => q (n / 32) (n % 32))).length := by
  rw [← cellsOn_eq, List.filter_map, List.length_map]
  congr 1
  refine List.filter_congr fun e he => ?_
  obtain ⟨-, hj, -⟩ := (mem_cellsOn row col e.1 e.2).1 he
  have hdiv : (32 * e.1 + e.2) / 32 = e.1 := by omega
  have hmod : (32 * e.1 + e.2) % 32 = e.2 := by omega
  simp only [Function.comp_apply, hdiv, hmod]

theorem getD_wheyPut_cellsOn (G : Nat × Nat → W32) (row col : W32) (w : AMap W32) {i j : Nat} (hi : i < 32) (hj : j < 32) :
    AMap.getD (wheyPut G (cellsOn row col) w) 0 (32 * i + j) =
      if (row.getLsbD i && col.getLsbD j) = true then G (i, j) else AMap.getD w 0 (32 * i + j) := by
  split
  · next hpart => exact wheyPut_in G _ (cells_ok row col) w (i, j) ((mem_cellsOn row col i j).2 ⟨hi, hj, hpart⟩)
  · next hpart =>
    refine wheyPut_out G _ w _ fun e he heq => hpart ?_
    obtain ⟨-, hlt, hon⟩ := (mem_cellsOn row col e.1 e.2).1 he
    obtain ⟨rfl, rfl⟩ : e.1 = i ∧ e.2 = j := by omega
    exact hon

/-! The fold (03 R77 to R79, R83). -/

/-- The registers after a fold of `cells` of the tile at `t`, with its counts: what MFOLD computes once its words are read. -/
def foldTile (t : Nat) (init join : Bool) (cells : List (Nat × Nat)) (c : CoreRegs) : CoreRegs :=
  let r := cells.foldl (fun r ij =>
    let q := foldCell t init join r.1 ij.1 ij.2
    (q.1, r.2.1 + q.2.1, r.2.2 + q.2.2)) (c, 0, 0)
  r.1.countFold r.2.1 r.2.2

theorem execMfold_eq (b : Slot) (acc : BitVec 8) (init join : Bool) (s : State) :
    exec (.mfold b acc init join) s = .next (slotOp b (fun pre now =>
      let cells := cellsOn (pre.rowMask b.pm) (pre.colMask b.pm)
      if !tileOk acc || (join && now.wheyBase != some acc.toNat) then .stop E_CORE_OPERAND
      else if pre.tileHeld acc.toNat then .stall
      else now.guarded [] [] (curdRanges acc.toNat cells ++ (if init then [] else carryRanges acc.toNat cells))
        (carryRanges acc.toNat cells) (.stop E_CORE_ECC) (fun now => .ok (foldTile acc.toNat init join cells now))) s) := rfl

section FoldTile
variable (t : Nat) (init join : Bool) {cells : List (Nat × Nat)} (hc : CellsOk cells) (c : CoreRegs)
include hc

/-- The fold of a tile in closed form: one write of carry and register per cell, of values computed before the fold. -/
theorem foldTile_eq : foldTile t init join cells c =
    ({ c with
        am := Mem.wrAll c.am (cells.flatMap (both t (fun ij => (foldRes c t init join ij).1.toNat) (fun _ => Curd.clear.toNat)))
        whey := if join then wheyPut (fun _ => 0) cells c.whey else c.whey } : CoreRegs).countFold
      (cells.filter (fun ij => (c.curd t ij.1 ij.2).sticky)).length (cells.filter (fun ij => (foldRes c t init join ij).2)).length := by
  unfold foldTile
  rw [fold_cells t init join cells hc, Nat.zero_add, Nat.zero_add]

theorem foldTile_frame : foldTile t init join cells c =
    { c with
      am := (foldTile t init join cells c).am, whey := (foldTile t init join cells c).whey
      spillCells := (foldTile t init join cells c).spillCells, spillFolds := (foldTile t init join cells c).spillFolds
      foldOvf := (foldTile t init join cells c).foldOvf } := by
  rw [foldTile_eq t init join hc]
  rfl

theorem foldTile_cell {i j : Nat} (h : (i, j) ∈ cells) :
    (foldTile t init join cells c).carry t i j = (foldRes c t init join (i, j)).1 ∧ (foldTile t init join cells c).curd t i j = .clear := by
  obtain ⟨hcarry, hcurd⟩ := both_read t (fun ij => (foldRes c t init join ij).1.toNat) (fun _ => Curd.clear.toNat) cells hc c.am (i, j) h
  rw [foldTile_eq t init join hc]
  constructor
  · refine (congrArg (BitVec.ofNat 32) hcarry).trans ?_
    rw [Nat.mod_eq_of_lt (BitVec.isLt _), BitVec.ofNat_toNat, BitVec.setWidth_eq]
  · exact (congrArg Curd.ofNat hcurd).trans curd_clear_read

theorem rd_foldTile_out {x : Nat} (h : ∀ ij ∈ cells, (x < curdAddr t ij.1 ij.2 ∨ curdAddr t ij.1 ij.2 + 16 ≤ x) ∧
    (x < carryAddr t ij.1 ij.2 ∨ carryAddr t ij.1 ij.2 + 4 ≤ x)) : Mem.rd (foldTile t init join cells c).am x = Mem.rd c.am x := by
  rw [foldTile_eq t init join hc]
  exact both_out t _ _ cells c.am x h

end FoldTile

theorem foldTile_wheySum (t : Nat) (init join : Bool) (row col : W32) (c : CoreRegs) {i j : Nat} (hi : i < 32) (hj : j < 32) :
    (foldTile t init join (cellsOn row col) c).wheySum i j =
      if join = true ∧ (row.getLsbD i && col.getLsbD j) = true then 0 else c.wheySum i j := by
  rw [foldTile_eq t init join (cells_ok row col)]
  cases join
  case false => rfl
  case true =>
    simp only [true_and]
    exact getD_wheyPut_cellsOn (fun _ => 0) row col c.whey hi hj

theorem foldTile_counts (t : Nat) (init join : Bool) (row col : W32) (c : CoreRegs) :
    let cells := (List.range 1024).filter (fun n => row.getLsbD (n / 32) && col.getLsbD (n % 32))
    let spills := (cells.filter (fun n => (c.curd t (n / 32) (n % 32)).sticky)).length
    (foldTile t init join (cellsOn row col) c).spillCells = c.spillCells + BitVec.ofNat 64 spills ∧
      (foldTile t init join (cellsOn row col) c).spillFolds = c.spillFolds + (if spills = 0 then 0 else 1) ∧
      (foldTile t init join (cellsOn row col) c).foldOvf = c.foldOvf +
        BitVec.ofNat 64 (cells.filter (fun n => (foldRes c t init join (n / 32, n % 32)).2)).length := by
  rw [foldTile_eq t init join (cells_ok row col), length_filter_cellsOn row col (fun i j => (c.curd t i j).sticky),
    length_filter_cellsOn row col (fun i j => (foldRes c t init join (i, j)).2)]
  exact ⟨rfl, rfl, rfl⟩

/-! A cell without a contribution (03 R78). -/

theorem fold_of_empty {k : Curd} (hav : k.av = false) (hsp : k.special = 0) (w : W32) (init : Bool) :
    k.fold w none init = (if init then 0 else w, false) := by
  simp [Curd.fold, hav, hsp]

/-- With a whey sum the fold still rounds once, of the carry and the whey sum alone. -/
theorem fold_whey_of_empty {k : Curd} (hav : k.av = false) (hsp : k.special = 0) (w v : W32) (init : Bool) :
    (k.fold w (some v) init).1 = rnq32 (if init then f32 v else (f32 w).add (f32 v)) := by
  cases init <;> simp [Curd.fold, hav, hsp]

/-! The whey path (03 R82, R83). -/

/-- The registers after MWH of `cells`, its operands at `a` and `bb`, once its words are read. -/
def wheyTile (t a bb : Nat) (first : Bool) (cells : List (Nat × Nat)) (c : CoreRegs) : CoreRegs :=
  (cells.foldl (fun (r : CoreRegs) ij => r.setWhey ij.1 ij.2 (wheyAdd (if first then 0 else c.wheySum ij.1 ij.2)
    (operandRow c.tb 8 a ij.1).1 (operandRow c.tb 8 bb ij.2).1)) { c with wheyBase := some t }).count 2 (32 * cells.length)

theorem execMwh_eq (b : Slot) (aReg bReg : BitVec 4) (acc : BitVec 8) (first : Bool) (s : State) :
    exec (.mwh b aReg bReg acc first) s = .next (slotOp b (fun pre now =>
      if !tileOk acc || (!first && now.wheyBase != some acc.toNat) then .stop E_CORE_OPERAND
      else if !(tbOk (pre.sr aReg).toNat 2048 && tbOk (pre.sr bReg).toNat 2048) then .late E_CORE_OPERAND
      else now.guarded [((pre.sr aReg).toNat, 2048), ((pre.sr bReg).toNat, 2048)] [] [] [] (.stop E_CORE_ECC)
        (fun now => .ok (wheyTile acc.toNat (pre.sr aReg).toNat (pre.sr bReg).toNat first
          (cellsOn (pre.rowMask b.pm) (pre.colMask b.pm)) now))) s) := rfl

theorem foldl_setWhey (G : Nat × Nat → W32) (cells : List (Nat × Nat)) (c : CoreRegs) :
    cells.foldl (fun c ij => c.setWhey ij.1 ij.2 (G ij)) c = { c with whey := wheyPut G cells c.whey } := by
  induction cells generalizing c with
  | nil => rfl
  | cons x l ih =>
    rw [List.foldl_cons, ih]
    rfl

section WheyTile
variable (t a bb : Nat) (first : Bool) (c : CoreRegs)

theorem wheyTile_eq (cells : List (Nat × Nat)) : wheyTile t a bb first cells c =
    { c with
      whey := wheyPut (fun ij => wheyAdd (if first then 0 else c.wheySum ij.1 ij.2) (operandRow c.tb 8 a ij.1).1
        (operandRow c.tb 8 bb ij.2).1) cells c.whey
      wheyBase := some t
      work := (c.count 2 (32 * cells.length)).work } :=
  congrArg (CoreRegs.count · 2 (32 * cells.length)) (foldl_setWhey _ cells _)

theorem wheyTile_frame (cells : List (Nat × Nat)) : wheyTile t a bb first cells c =
    { c with
      whey := (wheyTile t a bb first cells c).whey, wheyBase := some t, work := (c.count 2 (32 * cells.length)).work } := by
  rw [wheyTile_eq]

theorem wheyTile_wheySum (row col : W32) {i j : Nat} (hi : i < 32) (hj : j < 32) :
    (wheyTile t a bb first (cellsOn row col) c).wheySum i j = if (row.getLsbD i && col.getLsbD j) = true then
      wheyAdd (if first then 0 else c.wheySum i j) (operandRow c.tb 8 a i).1 (operandRow c.tb 8 bb j).1 else c.wheySum i j := by
  rw [wheyTile_eq]
  exact getD_wheyPut_cellsOn _ row col c.whey hi hj

end WheyTile

/-! The checks of R83 passed. -/

theorem tileOk_of_le {acc : BitVec 8} (h : acc.toNat ≤ 172) : tileOk acc = true := decide_eq_true h

theorem tileChecks_pass {acc : BitVec 8} {base : Option Nat} (need : Bool) (hacc : acc.toNat ≤ 172)
    (h : need = true → base = some acc.toNat) : (!tileOk acc || (need && base != some acc.toNat)) = false := by
  rw [tileOk_of_le hacc]
  cases need
  case false => rfl
  case true => simp [h rfl]

/-- Settles O17: it holds; each clause is the closed form of a fold or of the whey products of a tile, read cell by cell. -/
theorem foldAndWhey : Obligations.FoldAndWhey := by
  unfold Obligations.FoldAndWhey
  intro s b p c acc hi hacc
  have hon := cells_ok (c.pre.rowMask b.pm) (c.pre.colMask b.pm)
  refine ⟨fun init join hbase hheld => ?wait, fun init join hbase hheld => ?fold, fun k w v hav hsp => ?empty,
    fun aReg bReg first ha hb hbase => ?whey⟩
  case wait =>
    refine exec_stall (execMfold_eq b acc init join s) hi ?_
    simp only [tileChecks_pass join hacc hbase, hheld, Bool.false_eq_true, if_false, if_true]
  case fold =>
    refine overStores_ok (execMfold_eq b acc init join s) hi
      (foldTile acc.toNat init join (cellsOn (c.pre.rowMask b.pm) (c.pre.colMask b.pm))) ?_ fun r t ht hcore => ?_
    · simp only [tileChecks_pass join hacc hbase, hheld, Bool.false_eq_true, if_false]
    rw [hcore]
    obtain ⟨hspills, hfolds, hovf⟩ := foldTile_counts acc.toNat init join (c.pre.rowMask b.pm) (c.pre.colMask b.pm) r
    exact ⟨ht, foldTile_frame acc.toNat init join hon r,
      fun i j hi hj hpart => foldTile_cell acc.toNat init join hon r ((mem_cellsOn _ _ i j).2 ⟨hi, hj, hpart⟩),
      fun i j hi hj => foldTile_wheySum acc.toNat init join _ _ r hi hj,
      fun x hx => rd_foldTile_out acc.toNat init join hon r fun ij hij => by
        obtain ⟨hi, hj, hpart⟩ := (mem_cellsOn _ _ ij.1 ij.2).1 hij
        exact hx ij.1 ij.2 hi hj hpart,
      hspills, hfolds, hovf⟩
  case empty =>
    exact ⟨fold_of_empty hav hsp w false, fold_of_empty hav hsp w true, fold_whey_of_empty hav hsp w v false,
      fold_whey_of_empty hav hsp w v true⟩
  case whey =>
    refine overStores_ok (execMwh_eq b aReg bReg acc first s) hi
      (wheyTile acc.toNat (c.pre.sr aReg).toNat (c.pre.sr bReg).toNat first (cellsOn (c.pre.rowMask b.pm) (c.pre.colMask b.pm)))
      ?_ fun r t ht hcore => ?_
    · simp only [tileChecks_pass (!first) hacc (by simpa using hbase), ha, hb, Bool.and_self, Bool.not_true, Bool.false_eq_true,
        if_false]
    rw [hcore]
    exact ⟨ht, wheyTile_frame _ _ _ _ _ _, fun i j hi hj => wheyTile_wheySum _ _ _ _ _ _ _ hi hj⟩

end Sys2Proof.Machine.FoldAndWhey

/-! SUPPORT. What the coach puts into a core and leaves alone of it at the dispatch of a run; the outcomes of RUN_DISPATCH and
PAGE_DESCRIPTOR_ISSUE. -/
namespace Sys2Proof.Machine.RunDispatching
open RunStart (find_lc startRun_split)

/-! Codewords written whole (10 R254). -/

/-- A fold of partial steps succeeds, and keeps what each of its steps keeps where it succeeds. -/
theorem foldl_bind_keeps {σ β : Type} {f : σ → β → Option σ} {P : σ → Prop} {ws : List β}
    (hf : ∀ q, P q → ∀ w ∈ ws, ∃ r, f q w = some r ∧ P r) {q : σ} (hq : P q) :
    ∃ r, ws.foldl (fun o w => o.bind (fun q => f q w)) (some q) = some r ∧ P r := by
  induction ws generalizing q with
  | nil => exact ⟨q, rfl, hq⟩
  | cons w ws ih =>
    obtain ⟨r, hr, hPr⟩ := hf q hq w List.mem_cons_self
    rw [List.foldl_cons, Option.bind_some, hr]
    exact ih (fun q hq v hv => hf q hq v (List.mem_cons_of_mem w hv)) hPr

/-- A word that begins before the end of a whole number of words ends there too. -/
theorem inside_of_mem_wordsIn {ks : List Nat} {n w : Nat} (h : w ∈ wordsIn ks (0, 8 * n)) : 0 ≤ 8 * w ∧ 8 * w + 8 ≤ 0 + 8 * n := by
  unfold wordsIn at h
  split at h
  · cases h
  · obtain ⟨-, hw⟩ := List.mem_filter.1 h
    simp only [Bool.and_eq_true, decide_eq_true_eq] at hw
    omega

theorem access_whole_keeps_data (q : EccStore) (n : Nat) : ∃ r, EccStore.access q [] [(0, 8 * n)] = some r ∧ r.1 = q.1 := by
  unfold EccStore.access
  split
  · exact ⟨q, rfl, rfl⟩
  · simp only [EccStore.words, List.flatMap_nil, List.foldl_cons, List.foldl_nil, Option.bind_some]
    refine foldl_bind_keeps (P := fun r : EccStore => r.1 = q.1) (fun r hr w hw => ?_) rfl
    exact ⟨_, if_pos (inside_of_mem_wordsIn hw), hr⟩

/-! What a write of codewords leaves of a core. -/

/-- The bundles of a kernel fill whole words of the instruction store, so nothing is read there first. -/
theorem touch_istore_whole (c : CoreRegs) (n : Nat) :
    ∃ f k, (c.touch 0 [] [(0, 8 * n)]).getD c = { c with flips := f, eccCount := k } := by
  unfold CoreRegs.touch
  split
  · exact ⟨_, _, rfl⟩
  · obtain ⟨r, hr, hdata⟩ := access_whole_keeps_data (c.istore, c.flipsOf 0, 0) n
    simp only [if_true, hr, Option.map_some, Option.getD_some, hdata]
    exact ⟨_, _, rfl⟩

theorem touch_tb_frame (c : CoreRegs) (rd wr : List (Nat × Nat)) :
    ∃ m f k, (c.touch 1 rd wr).getD c = { c with tb := m, flips := f, eccCount := k } := by
  unfold CoreRegs.touch
  split
  · exact ⟨_, _, _, rfl⟩
  · simp only [one_ne_zero, if_false, if_true]
    cases EccStore.access (c.tb, c.flipsOf 1, 0) rd wr with
    | none => exact ⟨_, _, _, rfl⟩
    | some r => exact ⟨_, _, _, rfl⟩

/-! What a run finds in its core (04 R113; 14 R359). -/

/-- The bytes of a kernel's bundles; none where the playbook has no such kernel. -/
def kernelBytes (p : Plan) (r : Run) : List Byte :=
  (match p.kernels[r.kernel]? with | some k => k.bundles | none => []).flatMap (fun w : BitVec 128 => leBytes 16 w.toNat)

section LoadRun
variable (c : CoreRegs) (p : Plan) (l : Layer) (seed n : Nat) (r : Run)

/-- Of the fields that a run's load does not set, it changes the tile buffer, the conversion descriptors and the marks of codewords only. -/
theorem loadRun_eq : ∃ tb f k x0 x1, c.loadRun p l seed n r =
    { c with
      istore := Mem.wrBytes c.istore 0 (kernelBytes p r), tb := tb, flips := f, eccCount := k, xcvt0 := x0, xcvt1 := x1
      srKey := BitVec.ofNat 64 (Nat.xor (Nat.xor seed (r.step * 2 ^ 16 % 2 ^ 64)) r.core), srCtr := BitVec.ofNat 64 (n * 2 ^ 32)
      pageQ := [], walkLeft := r.walk, startPc := 0, qntElems0 := c.qntElems, qntSat0 := c.qntSat, run := some r } := by
  unfold CoreRegs.loadRun
  extract_lets bundles argsAt c1 c2
  obtain ⟨f1, k1, h1⟩ : ∃ f k, c1 = { c with flips := f, eccCount := k } := by
    have hbytes : 16 * bundles.length = 8 * (2 * bundles.length) := by omega
    unfold c1
    rw [hbytes]
    exact touch_istore_whole c _
  obtain ⟨m2, f2, k2, h2⟩ : ∃ m f k, c2 = { c1 with tb := m, flips := f, eccCount := k } := touch_tb_frame c1 _ _
  rw [h2, h1]
  exact ⟨_, _, _, _, _, rfl⟩

@[simp] theorem loadRun_st : (c.loadRun p l seed n r).st = c.st := by
  obtain ⟨tb, f, k, x0, x1, h⟩ := loadRun_eq c p l seed n r
  rw [h]

end LoadRun

/-! The start of a core that does not run (02 R60, R61). -/

section StartCore
variable {s : State} {p : Nat} (pc : Nat)

theorem startCore_idle (h : (s.core p).now.st ≠ .running) :
    s.startCore p pc = (s.setCore p ⟨(s.core p).now.started s.fv pc, (s.core p).now.started s.fv pc⟩).drawn := by
  unfold State.startCore
  exact if_neg h

theorem core_startCore_self (h : (s.core p).now.st ≠ .running) : ((s.startCore p pc).core p).now = (s.core p).now.started s.fv pc := by
  rw [startCore_idle pc h]
  exact congrArg Core.now (s.core_setCore_self p _)

theorem core_startCore_ne {q : Nat} (h : (s.core p).now.st ≠ .running) (hq : q ≠ p) : (s.startCore p pc).core q = s.core q := by
  rw [startCore_idle pc h]
  exact (s.core_setCore p q _).trans (if_neg hq)

theorem sch_startCore (h : (s.core p).now.st ≠ .running) : (s.startCore p pc).sch = s.sch := by
  rw [startCore_idle pc h]
  rfl

end StartCore

/-! The start of a run. -/

section StartRun
variable {s : State} {p : Nat} (b : Playbook) (l : Layer) (r : Run)

/-- The rounding seed of a run's context; 0 where the context has no record. -/
def runSeed (s : State) (r : Run) : Nat := match s.ctxRec r.ctx with | some x => x.seed | none => 0

/-- The core that a run finds: loaded for the run as it starts now, its rounding key and counter by R359. -/
def loadedFor (s : State) (p : Nat) (b : Playbook) (l : Layer) (r : Run) : CoreRegs :=
  (s.core p).now.loadRun b.plan l (runSeed s r) (AMap.getD s.sch.dispatched 0 (dispatchKey r)) { r with start := s.counter.toNat }

/-- A run that starts leaves the queue and is counted; its core starts at bundle 0 as the run's load left it, and no other core changes. -/
theorem startRun_idle (h : (s.core p).now.st ≠ .running) :
    (s.startRun p b l r).sch.queue = s.sch.queue.erase r ∧
    AMap.getD (s.startRun p b l r).sch.dispatched 0 (dispatchKey r) = AMap.getD s.sch.dispatched 0 (dispatchKey r) + 1 ∧
    (∀ q, q ≠ p → (s.startRun p b l r).core q = s.core q) ∧
    ∃ fv, ((s.startRun p b l r).core p).now = (loadedFor s p b l r).started fv 0 := by
  obtain ⟨s4, hstart, -, hcore, hqueue, hcount⟩ := startRun_split s p b l r
  have hself : (s4.core p).now = loadedFor s p b l r := by
    rw [hcore, State.core_modCore_self]
    rfl
  have hidle : (s4.core p).now.st ≠ .running := by
    rw [hself, loadedFor, loadRun_st]
    exact h
  rw [hstart, sch_startCore 0 hidle]
  refine ⟨hqueue, ?count, fun q hq => ?other, s4.fv, ?loaded⟩
  case count => rw [hcount, AMap.getD_insert_self]
  case other => rw [core_startCore_ne 0 hidle hq, hcore, State.core_modCore_ne s _ hq]
  case loaded => rw [core_startCore_self 0 hidle, hself]

end StartRun

/-! The choice of a run (14 R361). -/

theorem nextRun_lc {s : State} {core : Nat} {r : Run} (hr : s.nextRun core = some r) (h : ∃ e ∈ s.eligible core, e.lc = true) :
    r.lc = true := by
  obtain ⟨x, hfind, hlc⟩ := find_lc h
  unfold State.nextRun at hr
  dsimp only at hr
  rw [hfind] at hr
  cases hr
  exact hlc

/-! The outcomes of the two commands. -/

theorem exec_runDispatch_eq (core : Nat) (s : State) : exec (.runDispatch core) s = execRunDispatch core s := rfl

theorem exec_pageDescriptorIssue_eq (core : Nat) (s : State) :
    exec (.pageDescriptorIssue core) s = execPageDescriptorIssue core s := rfl

section Outcomes
variable {s : State} {core p : Nat}

theorem exec_runDispatch_unchanged (hp : s.physOf core = some p)
    (h : (s.core p).now.st = .running ∨ (s.core p).now.run.isSome = true ∨ s.nextRun core = none) :
    exec (.runDispatch core) s = .next s := by
  rw [exec_runDispatch_eq, execRunDispatch, hp]
  dsimp only
  split
  case isTrue => rfl
  case isFalse hbusy =>
    obtain hrun | hrun | hnone := h
    · exact absurd (Or.inl hrun) hbusy
    · exact absurd (Or.inr hrun) hbusy
    · rw [hnone]

theorem exec_runDispatch_found {r : Run} {t : Step} {b : Playbook} {l : Layer} (hp : s.physOf core = some p)
    (hst : (s.core p).now.st ≠ .running) (hrun : (s.core p).now.run = none) (hr : s.nextRun core = some r)
    (ht : s.sch.steps.find? (fun t => t.same r.ctx r.step) = some t) (hb : AMap.find? s.book.books r.playbook = some b)
    (hl : b.plan.layers[r.layer]? = some l) :
    exec (.runDispatch core) s =
      .next (if s.readsCorrupt r then s.failStep t E_WGT_CORRUPT none (ident 1 (core / 25)) else s.startRun p b l r) := by
  have hidle : ¬((s.core p).now.st = .running ∨ (s.core p).now.run.isSome = true) := by simp [hst, hrun]
  rw [exec_runDispatch_eq, execRunDispatch, hp]
  dsimp only
  rw [if_neg hidle, hr]
  dsimp only
  rw [ht, hb]
  dsimp only
  rw [hl]

theorem exec_pageDescriptorIssue_unchanged (hp : s.physOf core = some p)
    (h : (s.core p).now.walkLeft = [] ∨ 8 ≤ (s.core p).now.pageQ.length) : exec (.pageDescriptorIssue core) s = .next s := by
  rw [exec_pageDescriptorIssue_eq, execPageDescriptorIssue, hp]
  dsimp only
  cases hwalk : (s.core p).now.walkLeft with
  | nil => rfl
  | cons d rest =>
    have hfull : 8 ≤ (s.core p).now.pageQ.length := h.resolve_left (by simp [hwalk])
    exact congrArg Host.Outcome.next (if_pos hfull)

/-- The state in which a descriptor is issued: its page staged where a run reads it. -/
def staged (s : State) (p : Nat) (d : PageDesc) : State :=
  match (s.core p).now.run with | some r => s.stagePage p r d | none => s

theorem exec_pageDescriptorIssue_issues {d : PageDesc} {rest : List PageDesc} (hp : s.physOf core = some p)
    (hwalk : (s.core p).now.walkLeft = d :: rest) (hroom : (s.core p).now.pageQ.length < 8) :
    exec (.pageDescriptorIssue core) s =
      .next (((staged s p d).modCore p (fun g => { g with pageQ := g.pageQ ++ [d], walkLeft := rest })).modClu (core / 25)
        (fun k => { k with kvDesc := k.kvDesc + 1 })) := by
  have hnotFull : ¬8 ≤ (s.core p).now.pageQ.length := by omega
  rw [exec_pageDescriptorIssue_eq, execPageDescriptorIssue, hp]
  dsimp only
  rw [hwalk]
  exact congrArg Host.Outcome.next (if_neg hnotFull)

end Outcomes

/-- Settles O29: it holds; a run's load sets the registers the statement names, whatever the codewords of the core's stores, and the start
of the core keeps them. -/
theorem runsDispatch : Obligations.RunsDispatch := by
  unfold Obligations.RunsDispatch
  intro s core p hp
  refine ⟨exec_runDispatch_unchanged hp, fun r => nextRun_lc, fun r t b l hst hrun hr ht hb hl => ?dispatch,
    exec_pageDescriptorIssue_unchanged hp, fun d rest => exec_pageDescriptorIssue_issues hp⟩
  case dispatch =>
    have hexec := exec_runDispatch_found hp hst hrun hr ht hb hl
    refine ⟨fun hbad => hexec.trans (by rw [if_pos hbad]), fun hgood => ?_⟩
    rw [hgood, if_neg Bool.false_ne_true] at hexec
    obtain ⟨hqueue, hcount, hother, fv, hcore⟩ := startRun_idle b l r hst
    refine ⟨_, hexec, hqueue, hcount, hother, ?_⟩
    obtain ⟨tb, f, k, x0, x1, hload⟩ := loadRun_eq (s.core p).now b.plan l (runSeed s r)
      (AMap.getD s.sch.dispatched 0 (dispatchKey r)) { r with start := s.counter.toNat }
    rw [hcore, loadedFor, hload]
    exact ⟨rfl, rfl, rfl, rfl, rfl, rfl, rfl, rfl, rfl, rfl⟩

end Sys2Proof.Machine.RunDispatching

/-! SUPPORT. Every command keeps the queue and the ranges of the fields that software sets. -/
namespace Sys2Proof.Machine.StepRanges

/-! What a command does to the queue and to the fields with a range (log entry 54). -/

/-- From `s` to `t` the queue stays, and the fields with a range stay in their ranges. -/
def KeepsRanges (s t : State) : Prop := t.pending = s.pending ∧ (s.InRange → t.InRange)

theorem keepsRanges_of_kept {s t : State} (h : t.kept = s.kept) : KeepsRanges s t :=
  ⟨congrArg Kept.pending h, fun hs => (congrArg Kept.inRange h).mpr hs⟩

theorem keepsRanges_of_restart {s t : State} (h : t.kept = s.kept ∨ t.InRange ∧ t.pending = s.pending) : KeepsRanges s t := by
  obtain hkept | ⟨hrange, hqueue⟩ := h
  · exact keepsRanges_of_kept hkept
  · exact ⟨hqueue, fun _ => hrange⟩

theorem writeReg_keepsRanges (s : State) (blk inst off : Nat) (v : W64) : KeepsRanges s (s.writeReg blk inst off v) :=
  ⟨pending_writeReg s blk inst off v, inRange_writeReg s blk inst off v⟩

theorem KeepsRanges.trans {s t u : State} (hst : KeepsRanges s t) (htu : KeepsRanges t u) : KeepsRanges s u :=
  ⟨htu.1.trans hst.1, fun hs => htu.2 (hst.2 hs)⟩

theorem execRegisterWrite_keepsRanges {blk inst off width : Nat} {v : W64} {s t : State}
    (h : execRegisterWrite blk inst off width v s = .next t) : KeepsRanges s t := by
  obtain rfl := Host.Outcome.next.inj h
  split
  · exact writeReg_keepsRanges s blk inst off v
  · exact keepsRanges_of_kept rfl

theorem execMsgRegWrite_keepsRanges {mbx : Nat} {s t : State} (h : execMsgRegWrite mbx s = .next t) : KeepsRanges s t := by
  obtain rfl := Host.Outcome.next.inj h
  by_cases hserve : ∃ r, s.Serves 0x0D05 mbx r
  case neg => exact keepsRanges_of_kept (congrArg State.kept (serve_idle (not_exists.1 hserve) _))
  case pos =>
    obtain ⟨r, hr⟩ := hserve
    rw [serve_run hr]
    refine (keepsRanges_of_kept (kept_takeReq s r)).trans ?_
    dsimp only
    split
    · exact keepsRanges_of_kept (kept_refuse ..)
    · refine KeepsRanges.trans ?_ (keepsRanges_of_kept (kept_answer ..))
      split
      · exact keepsRanges_of_kept rfl
      · exact writeReg_keepsRanges ..

/-- Every command but the four that may write a register keeps the queue and the fields with a range as they are. -/
theorem exec_kept {c : Instr} {s t : State} (h : exec c s = .next t) (hreg : ∀ b n o w v, c ≠ .registerWrite b n o w v)
    (hmsg : ∀ m, c ≠ .msgRegWrite m) (hreset : ∀ x y, c ≠ .resetAssert x y) (hend : ∀ x d, c ≠ .xferEnd x d) : t.kept = s.kept := by
  cases c with
  | mnop => exact kept_execMnop (h := h) ..
  | mma => exact kept_execMma (h := h) ..
  | mwh => exact kept_execMwh (h := h) ..
  | mfold => exact kept_execMfold (h := h) ..
  | msetc => exact kept_execMsetc (h := h) ..
  | mzero => exact kept_execMzero (h := h) ..
  | vnop => exact kept_execVnop (h := h) ..
  | vadd => exact kept_execVadd (h := h) ..
  | vsub => exact kept_execVsub (h := h) ..
  | vmul => exact kept_execVmul (h := h) ..
  | vfma => exact kept_execVfma (h := h) ..
  | vmax => exact kept_execVmax (h := h) ..
  | vmin => exact kept_execVmin (h := h) ..
  | vabs => exact kept_execVabs (h := h) ..
  | vneg => exact kept_execVneg (h := h) ..
  | vcmp => exact kept_execVcmp (h := h) ..
  | vsel => exact kept_execVsel (h := h) ..
  | vand => exact kept_execVand (h := h) ..
  | vor => exact kept_execVor (h := h) ..
  | vxor => exact kept_execVxor (h := h) ..
  | vshf => exact kept_execVshf (h := h) ..
  | vspl => exact kept_execVspl (h := h) ..
  | vget => exact kept_execVget (h := h) ..
  | vcvt => exact kept_execVcvt (h := h) ..
  | vqnt => exact kept_execVqnt (h := h) ..
  | vrsum => exact kept_execVrsum (h := h) ..
  | vrmax => exact kept_execVrmax (h := h) ..
  | vld => exact kept_execVld (h := h) ..
  | vst => exact kept_execVst (h := h) ..
  | vlda => exact kept_execVlda (h := h) ..
  | vsta => exact kept_execVsta (h := h) ..
  | vexp => exact kept_execVexp (h := h) ..
  | vlog => exact kept_execVlog (h := h) ..
  | vrcp => exact kept_execVrcp (h := h) ..
  | vrsq => exact kept_execVrsq (h := h) ..
  | vtab => exact kept_execVtab (h := h) ..
  | vdw => exact kept_execVdw (h := h) ..
  | vwel => exact kept_execVwel (h := h) ..
  | vamax => exact kept_execVamax (h := h) ..
  | vesu => exact kept_execVesu (h := h) ..
  | snop => exact kept_execSnop (h := h) ..
  | sadd => exact kept_execSadd (h := h) ..
  | ssub => exact kept_execSsub (h := h) ..
  | saddi => exact kept_execSaddi (h := h) ..
  | sand => exact kept_execSand (h := h) ..
  | sor => exact kept_execSor (h := h) ..
  | sxor => exact kept_execSxor (h := h) ..
  | sshl => exact kept_execSshl (h := h) ..
  | sshr => exact kept_execSshr (h := h) ..
  | ssra => exact kept_execSsra (h := h) ..
  | sshli => exact kept_execSshli (h := h) ..
  | smul => exact kept_execSmul (h := h) ..
  | smin => exact kept_execSmin (h := h) ..
  | smax => exact kept_execSmax (h := h) ..
  | sslt => exact kept_execSslt (h := h) ..
  | sli => exact kept_execSli (h := h) ..
  | slis => exact kept_execSlis (h := h) ..
  | sbrz => exact kept_execSbrz (h := h) ..
  | sbrnz => exact kept_execSbrnz (h := h) ..
  | sjmp => exact kept_execSjmp (h := h) ..
  | sloop => exact kept_execSloop (h := h) ..
  | srd => exact kept_execSrd (h := h) ..
  | scsr => exact kept_execScsr (h := h) ..
  | ssig => exact kept_execSsig (h := h) ..
  | loopEnd => exact kept_execLoopEnd (h := h) ..
  | bundleStop => exact kept_execBundleStop (h := h) ..
  | xnop => exact kept_execXnop (h := h) ..
  | xcopy => exact kept_execXcopy (h := h) ..
  | xsld => exact kept_execXsld (h := h) ..
  | xsst => exact kept_execXsst (h := h) ..
  | xmld => exact kept_execXmld (h := h) ..
  | xmst => exact kept_execXmst (h := h) ..
  | xhalo => exact kept_execXhalo (h := h) ..
  | xhwait => exact kept_execXhwait (h := h) ..
  | xpage => exact kept_execXpage (h := h) ..
  | xvat => exact kept_execXvat (h := h) ..
  | xacc => exact kept_execXacc (h := h) ..
  | xfence => exact kept_execXfence (h := h) ..
  | transferComplete => exact kept_execTransferComplete (h := h) ..
  | haloArrival => exact kept_execHaloArrival (h := h) ..
  | kernelComplete => exact kept_execKernelComplete (h := h) ..
  | pcEndStop => exact kept_execPcEndStop (h := h) ..
  | coreRun => exact kept_execCoreRun (h := h) ..
  | coreHalt => exact kept_execCoreHalt (h := h) ..
  | registerWrite => exact absurd rfl (hreg _ _ _ _ _)
  | pageDescriptorIssue => exact kept_execPageDescriptorIssue (h := h) ..
  | coachHaloDelivery => exact kept_execCoachHaloDelivery (h := h) ..
  | haloTimeout => exact kept_execHaloTimeout (h := h) ..
  | vatLineApply => exact kept_execVatLineApply (h := h) ..
  | vatElementOp => exact kept_execVatElementOp (h := h) ..
  | runDispatch => exact kept_execRunDispatch (h := h) ..
  | huddleGather => exact kept_execHuddleGather (h := h) ..
  | mergeDispatch => exact kept_execMergeDispatch (h := h) ..
  | stepFormRoster => exact kept_execStepFormRoster (h := h) ..
  | fixedStepForm => exact kept_execFixedStepForm (h := h) ..
  | stepComplete => exact kept_execStepComplete (h := h) ..
  | fallbackWindowEnd => exact kept_execFallbackWindowEnd (h := h) ..
  | playbookInstall => exact kept_execPlaybookInstall (h := h) ..
  | tableBankSwap => exact kept_execTableBankSwap (h := h) ..
  | coreFailDeclare => exact kept_execCoreFailDeclare (h := h) ..
  | coreAnswerTimeout => exact kept_execCoreAnswerTimeout (h := h) ..
  | coreStoreTest => exact kept_execCoreStoreTest (h := h) ..
  | spareRemap => exact kept_execSpareRemap (h := h) ..
  | slotMove => exact kept_execSlotMove (h := h) ..
  | stateExportEffect => exact kept_execStateExportEffect (h := h) ..
  | stateExportComplete => exact kept_execStateExportComplete (h := h) ..
  | stateImportComplete => exact kept_execStateImportComplete (h := h) ..
  | branchEffect => exact kept_execBranchEffect (h := h) ..
  | sealEffect => exact kept_execSealEffect (h := h) ..
  | pruneEffect => exact kept_execPruneEffect (h := h) ..
  | seqEndEffect => exact kept_execSeqEndEffect (h := h) ..
  | repinEffect => exact kept_execRepinEffect (h := h) ..
  | updateStepEffect => exact kept_execUpdateStepEffect (h := h) ..
  | updateStepComplete => exact kept_execUpdateStepComplete (h := h) ..
  | streamPark => exact kept_execStreamPark (h := h) ..
  | streamRotateImport => exact kept_execStreamRotateImport (h := h) ..
  | contextBench => exact kept_execContextBench (h := h) ..
  | contextCave => exact kept_execContextCave (h := h) ..
  | contextAdmitSlot => exact kept_execContextAdmitSlot (h := h) ..
  | contextReturn => exact kept_execContextReturn (h := h) ..
  | ledgerFold => exact kept_execLedgerFold (h := h) ..
  | patrolScrub => exact kept_execPatrolScrub (h := h) ..
  | countingHour => exact kept_execCountingHour (h := h) ..
  | mapoutAutoTrigger => exact kept_execMapoutAutoTrigger (h := h) ..
  | mapoutVacate => exact kept_execMapoutVacate (h := h) ..
  | sliceMove => exact kept_execSliceMove (h := h) ..
  | bucketRehome => exact kept_execBucketRehome (h := h) ..
  | mapoutComplete => exact kept_execMapoutComplete (h := h) ..
  | tierBlockMove => exact kept_execTierBlockMove (h := h) ..
  | blockRelocation => exact kept_execBlockRelocation (h := h) ..
  | pressedCompaction => exact kept_execPressedCompaction (h := h) ..
  | caveLevelling => exact kept_execCaveLevelling (h := h) ..
  | flashBlockRetire => exact kept_execFlashBlockRetire (h := h) ..
  | caveBudgetRelease => exact kept_execCaveBudgetRelease (h := h) ..
  | shardHashComplete => exact kept_execShardHashComplete (h := h) ..
  | digestPass => exact kept_execDigestPass (h := h) ..
  | shardRecall => exact kept_execShardRecall (h := h) ..
  | codecFrameStart => exact kept_execCodecFrameStart (h := h) ..
  | codecSliceEmit => exact kept_execCodecSliceEmit (h := h) ..
  | codecFrameDone => exact kept_execCodecFrameDone (h := h) ..
  | codecCloseEffect => exact kept_execCodecCloseEffect (h := h) ..
  | codecEngineFault => exact kept_execCodecEngineFault (h := h) ..
  | rtpFlowClose => exact kept_execRtpFlowClose (h := h) ..
  | mbxReqTail => exact kept_execMbxReqTail (h := h) ..
  | mbxRspHead => exact kept_execMbxRspHead (h := h) ..
  | requestIntake => exact kept_execRequestIntake (h := h) ..
  | responseDeliver => exact kept_execResponseDeliver (h := h) ..
  | umpireFailover => exact kept_execUmpireFailover (h := h) ..
  | standbyRestore => exact kept_execStandbyRestore (h := h) ..
  | housekeepingTask => exact kept_execHousekeepingTask (h := h) ..
  | healthCheck => exact kept_execHealthCheck (h := h) ..
  | trialEnd => exact kept_execTrialEnd (h := h) ..
  | fwHandover => exact kept_execFwHandover (h := h) ..
  | fwNewFirmwareReady => exact kept_execFwNewFirmwareReady (h := h) ..
  | fwPhase3Timeout => exact kept_execFwPhase3Timeout (h := h) ..
  | fwHandback => exact kept_execFwHandback (h := h) ..
  | fwStandbyReady => exact kept_execFwStandbyReady (h := h) ..
  | tlsConnect => exact kept_execTlsConnect (h := h) ..
  | tlsClose => exact kept_execTlsClose (h := h) ..
  | railDown => exact kept_execRailDown (h := h) ..
  | railRetrainTimeout => exact kept_execRailRetrainTimeout (h := h) ..
  | railUp => exact kept_execRailUp (h := h) ..
  | flitReceive => exact kept_execFlitReceive (h := h) ..
  | flitResend => exact kept_execFlitResend (h := h) ..
  | ringTransferComplete => exact kept_execRingTransferComplete (h := h) ..
  | discoveryReturn => exact kept_execDiscoveryReturn (h := h) ..
  | ringLeaveComplete => exact kept_execRingLeaveComplete (h := h) ..
  | memberLoss => exact kept_execMemberLoss (h := h) ..
  | ringHuddleStage => exact kept_execRingHuddleStage (h := h) ..
  | ringHuddleTimeout => exact kept_execRingHuddleTimeout (h := h) ..
  | relayFrame => exact kept_execRelayFrame (h := h) ..
  | bypassPowerLoss => exact kept_execBypassPowerLoss (h := h) ..
  | refclkLoss => exact kept_execRefclkLoss (h := h) ..
  | refclkRestore => exact kept_execRefclkRestore (h := h) ..
  | powerMeasure => exact kept_execPowerMeasure (h := h) ..
  | governorStep => exact kept_execGovernorStep (h := h) ..
  | thermalCheck => exact kept_execThermalCheck (h := h) ..
  | thermalStop => exact kept_execThermalStop (h := h) ..
  | thermalResume => exact kept_execThermalResume (h := h) ..
  | psEntry => exact kept_execPsEntry (h := h) ..
  | psEntryComplete => exact kept_execPsEntryComplete (h := h) ..
  | psWake => exact kept_execPsWake (h := h) ..
  | psExitComplete => exact kept_execPsExitComplete (h := h) ..
  | ps5Entry => exact kept_execPs5Entry (h := h) ..
  | ps5Wake => exact kept_execPs5Wake (h := h) ..
  | resetAssert => exact absurd rfl (hreset _ _)
  | resetRelease => exact kept_execResetRelease (h := h) ..
  | bootRom => exact kept_execBootRom (h := h) ..
  | verify => exact kept_execVerify (h := h) ..
  | train => exact kept_execTrain (h := h) ..
  | selftest => exact kept_execSelftest (h := h) ..
  | courts => exact kept_execCourts (h := h) ..
  | platform => exact kept_execPlatform (h := h) ..
  | serve => exact kept_execServe (h := h) ..
  | startupTimeout => exact kept_execStartupTimeout (h := h) ..
  | bootStatus => exact kept_execBootStatus (h := h) ..
  | bladeVolts => exact kept_execBladeVolts (h := h) ..
  | thermal => exact kept_execThermal (h := h) ..
  | mgmtAddr => exact kept_execMgmtAddr (h := h) ..
  | xferData => exact kept_execXferData (h := h) ..
  | xferEnd => exact absurd rfl (hend _ _)
  | smbAlertResponse => exact kept_execSmbAlertResponse (h := h) ..
  | debugChallengeExpiry => exact kept_execDebugChallengeExpiry (h := h) ..
  | debugUnlockExpiry => exact kept_execDebugUnlockExpiry (h := h) ..
  | faultRecordTakeIn => exact kept_execFaultRecordTakeIn (h := h) ..
  | faultRecordAck => exact kept_execFaultRecordAck (h := h) ..
  | auditPass => exact kept_execAuditPass (h := h) ..
  | msgHello => exact kept_execMsgHello (h := h) ..
  | msgBye => exact kept_execMsgBye (h := h) ..
  | msgPing => exact kept_execMsgPing (h := h) ..
  | msgUmpQuery => exact kept_execMsgUmpQuery (h := h) ..
  | msgConfigWrite => exact kept_execMsgConfigWrite (h := h) ..
  | msgConfigCommit => exact kept_execMsgConfigCommit (h := h) ..
  | msgConfigConfirm => exact kept_execMsgConfigConfirm (h := h) ..
  | msgConfigRevert => exact kept_execMsgConfigRevert (h := h) ..
  | msgConfigQuery => exact kept_execMsgConfigQuery (h := h) ..
  | msgConfigRead => exact kept_execMsgConfigRead (h := h) ..
  | msgPlaybookLoad => exact kept_execMsgPlaybookLoad (h := h) ..
  | msgPrecQuery => exact kept_execMsgPrecQuery (h := h) ..
  | msgFallbackSet => exact kept_execMsgFallbackSet (h := h) ..
  | msgTableLoad => exact kept_execMsgTableLoad (h := h) ..
  | msgTableQuery => exact kept_execMsgTableQuery (h := h) ..
  | msgShardRegister => exact kept_execMsgShardRegister (h := h) ..
  | msgWgtCommit => exact kept_execMsgWgtCommit (h := h) ..
  | msgWgtBind => exact kept_execMsgWgtBind (h := h) ..
  | msgSeqRepin => exact kept_execMsgSeqRepin (h := h) ..
  | msgAdapterRegister => exact kept_execMsgAdapterRegister (h := h) ..
  | msgAdapterRelease => exact kept_execMsgAdapterRelease (h := h) ..
  | msgWgtPriv => exact kept_execMsgWgtPriv (h := h) ..
  | msgWgtQuery => exact kept_execMsgWgtQuery (h := h) ..
  | msgSeqAdmit => exact kept_execMsgSeqAdmit (h := h) ..
  | msgSeqEnd => exact kept_execMsgSeqEnd (h := h) ..
  | msgBatchSubmit => exact kept_execMsgBatchSubmit (h := h) ..
  | msgCtxQuery => exact kept_execMsgCtxQuery (h := h) ..
  | msgRostGrant => exact kept_execMsgRostGrant (h := h) ..
  | msgRostSet => exact kept_execMsgRostSet (h := h) ..
  | msgRostQuery => exact kept_execMsgRostQuery (h := h) ..
  | msgFutureBranch => exact kept_execMsgFutureBranch (h := h) ..
  | msgFutureSeal => exact kept_execMsgFutureSeal (h := h) ..
  | msgFuturePrune => exact kept_execMsgFuturePrune (h := h) ..
  | msgFutureScore => exact kept_execMsgFutureScore (h := h) ..
  | msgFutureQuery => exact kept_execMsgFutureQuery (h := h) ..
  | msgObjCreate => exact kept_execMsgObjCreate (h := h) ..
  | msgObjFree => exact kept_execMsgObjFree (h := h) ..
  | msgTierMove => exact kept_execMsgTierMove (h := h) ..
  | msgTierQuery => exact kept_execMsgTierQuery (h := h) ..
  | msgQuotaSet => exact kept_execMsgQuotaSet (h := h) ..
  | msgQuotaQuery => exact kept_execMsgQuotaQuery (h := h) ..
  | msgKvQuery => exact kept_execMsgKvQuery (h := h) ..
  | msgMemQuery => exact kept_execMsgMemQuery (h := h) ..
  | msgChanMapout => exact kept_execMsgChanMapout (h := h) ..
  | msgStateQuery => exact kept_execMsgStateQuery (h := h) ..
  | msgStateExport => exact kept_execMsgStateExport (h := h) ..
  | msgStateImport => exact kept_execMsgStateImport (h := h) ..
  | msgStateClear => exact kept_execMsgStateClear (h := h) ..
  | msgCdcOpen => exact kept_execMsgCdcOpen (h := h) ..
  | msgCdcPool => exact kept_execMsgCdcPool (h := h) ..
  | msgCdcFrame => exact kept_execMsgCdcFrame (h := h) ..
  | msgCdcSet => exact kept_execMsgCdcSet (h := h) ..
  | msgCdcClose => exact kept_execMsgCdcClose (h := h) ..
  | msgRingQuery => exact kept_execMsgRingQuery (h := h) ..
  | msgRingJoin => exact kept_execMsgRingJoin (h := h) ..
  | msgRingLeave => exact kept_execMsgRingLeave (h := h) ..
  | msgPortRole => exact kept_execMsgPortRole (h := h) ..
  | msgPwrTolerance => exact kept_execMsgPwrTolerance (h := h) ..
  | msgPwrProfile => exact kept_execMsgPwrProfile (h := h) ..
  | msgPwrQuery => exact kept_execMsgPwrQuery (h := h) ..
  | msgAttestQuote => exact kept_execMsgAttestQuote (h := h) ..
  | msgIdCert => exact kept_execMsgIdCert (h := h) ..
  | msgDebugChallenge => exact kept_execMsgDebugChallenge (h := h) ..
  | msgDebugUnlock => exact kept_execMsgDebugUnlock (h := h) ..
  | msgFwUpdate => exact kept_execMsgFwUpdate (h := h) ..
  | msgUpdPlan => exact kept_execMsgUpdPlan (h := h) ..
  | msgUpdStep => exact kept_execMsgUpdStep (h := h) ..
  | msgUpdQuery => exact kept_execMsgUpdQuery (h := h) ..
  | msgUpdRelease => exact kept_execMsgUpdRelease (h := h) ..
  | msgLedgerRead => exact kept_execMsgLedgerRead (h := h) ..
  | msgFaultRead => exact kept_execMsgFaultRead (h := h) ..
  | msgAuditQuery => exact kept_execMsgAuditQuery (h := h) ..
  | msgRegRead => exact kept_execMsgRegRead (h := h) ..
  | msgRegWrite => exact absurd rfl (hmsg _)
  | appCoreObjectAccess => exact kept_execAppCoreObjectAccess (h := h) ..
  | fieldPortFrame => exact kept_execFieldPortFrame (h := h) ..

theorem exec_keepsRanges {c : Instr} {s t : State} (h : exec c s = .next t) : KeepsRanges s t := by
  by_cases hreg : ∃ b n o w v, c = .registerWrite b n o w v
  · obtain ⟨b, n, o, w, v, rfl⟩ := hreg
    exact execRegisterWrite_keepsRanges h
  by_cases hmsg : ∃ m, c = .msgRegWrite m
  · obtain ⟨m, rfl⟩ := hmsg
    exact execMsgRegWrite_keepsRanges h
  by_cases hreset : ∃ x y, c = .resetAssert x y
  · obtain ⟨x, y, rfl⟩ := hreset
    exact keepsRanges_of_restart (kept_execResetAssert x y s t h)
  by_cases hend : ∃ x d, c = .xferEnd x d
  · obtain ⟨x, d, rfl⟩ := hend
    exact keepsRanges_of_restart (kept_execXferEnd x d s t h)
  push Not at hreg hmsg hreset hend
  exact keepsRanges_of_kept (exec_kept h hreg hmsg hreset hend)

/-- Settles O60: it holds; a step is a tick or the command in front, and a command keeps the ranges whether it writes a register, starts the
module anew or does neither. -/
theorem stepKeepsRanges : Obligations.StepKeepsRanges := by
  unfold Obligations.StepKeepsRanges
  refine ⟨fun s t hs h => ?step, fun c s t h => (exec_keepsRanges h).1, fun c s t => exec_kept⟩
  case step =>
    unfold step at h
    split at h
    · obtain rfl := Host.Outcome.next.inj h
      exact hs
    · exact (exec_keepsRanges h).2 hs

end Sys2Proof.Machine.StepRanges

/-! SUPPORT. The sum that a curd register holds. -/
namespace Sys2Proof.Machine.UnspilledKBlock
open Cells (kval dval kexact)

theorem kval_clear (p : Pair) : kval p Curd.clear = 0 := by
  simp [kval, Curd.clear]

/-- Settles O14, by `kexact`: where nothing was discarded, placing a contribution adds its value to the value of the register, from the
cleared register on. -/
theorem unspilledKBlockIsExact : Obligations.UnspilledKBlockIsExact := by
  unfold Obligations.UnspilledKBlockIsExact
  intro p vs hfin c hsticky
  obtain ⟨-, hsum⟩ := kexact p vs Curd.clear hfin (fun _ => rfl) hsticky
  rw [kval_clear, zero_add] at hsum
  exact hsum

end Sys2Proof.Machine.UnspilledKBlock

/-! SUPPORT. The scalar slots: what the operations of R53 compute, loops, control registers and posts. -/
namespace Sys2Proof.Machine.ScalarSlots
open Scalar (scalarOp_res ssra_val slis_val srd_val loop_setLoop)

/-- Settles O1: it holds, by the definition of a step. -/
theorem stepTakesFront : Obligations.StepTakesFront := by
  unfold Obligations.StepTakesFront
  exact fun c s => rfl

/-! The values of R53. -/

/-- A command that is a scalar operation writes the value of that operation. -/
theorem scalar_writes {s : State} {i : Instr} {b : Slot} {p : Nat} {c : Core} {sd : BitVec 4} {v : W64} {f : CoreRegs → W64}
    (h : s.Issues b p c) (he : exec i s = .next (scalarOp b sd f s)) (hv : f c.pre = v) :
    ∃ t, exec i s = .next t ∧ t = s.issued p c (t.core p).now ∧ (t.core p).now = { c.now with sregs := (t.core p).now.sregs } ∧
      ∀ r, (t.core p).now.sr r = if r = sd ∧ sd ≠ 0 then v else c.now.sr r := by
  rw [he, ← hv]
  exact scalarOp_res h sd f

theorem add_val (x y : W64) : x + y = BitVec.ofNat 64 (x.toNat + y.toNat) := by
  rw [BitVec.ofNat_add, BitVec.ofNat_toNat, BitVec.ofNat_toNat, BitVec.setWidth_eq, BitVec.setWidth_eq]

theorem sub_val (x y : W64) : x - y = BitVec.ofInt 64 (x.toInt - y.toInt) := by
  apply BitVec.eq_of_toInt_eq
  rw [BitVec.toInt_sub, BitVec.toInt_ofInt]

theorem addi_val (x : W64) (imm : BitVec 7) : x + imm.signExtend 64 = BitVec.ofInt 64 (x.toInt + imm.toInt) := by
  rw [BitVec.ofInt_add, BitVec.ofInt_toInt, BitVec.signExtend]

theorem shl_val (x : W64) (k : Nat) : x <<< k = BitVec.ofNat 64 (x.toNat * 2 ^ k) := by
  apply BitVec.eq_of_toNat_eq
  rw [BitVec.toNat_shiftLeft, BitVec.toNat_ofNat, Nat.shiftLeft_eq]

theorem shr_val (x : W64) (k : Nat) : x >>> k = BitVec.ofNat 64 (x.toNat / 2 ^ k) := by
  apply BitVec.eq_of_toNat_eq
  rw [BitVec.toNat_ushiftRight, BitVec.toNat_ofNat, Nat.shiftRight_eq_div_pow, Nat.mod_eq_of_lt]
  exact (Nat.div_le_self _ _).trans_lt x.isLt

theorem mul_val (x y : W64) : x * y = BitVec.ofNat 64 (x.toNat * y.toNat) := by
  rw [BitVec.ofNat_mul, BitVec.ofNat_toNat, BitVec.ofNat_toNat, BitVec.setWidth_eq, BitVec.setWidth_eq]

theorem min_val (x y : W64) : (if y.slt x then y else x) = BitVec.ofInt 64 (min x.toInt y.toInt) := by
  by_cases hlt : y.toInt < x.toInt
  · rw [if_pos (BitVec.slt_iff_toInt_lt.2 hlt), min_eq_right hlt.le, BitVec.ofInt_toInt]
  · rw [if_neg (fun h => hlt (BitVec.slt_iff_toInt_lt.1 h)), min_eq_left (not_lt.1 hlt), BitVec.ofInt_toInt]

theorem max_val (x y : W64) : (if x.slt y then y else x) = BitVec.ofInt 64 (max x.toInt y.toInt) := by
  by_cases hlt : x.toInt < y.toInt
  · rw [if_pos (BitVec.slt_iff_toInt_lt.2 hlt), max_eq_right hlt.le, BitVec.ofInt_toInt]
  · rw [if_neg (fun h => hlt (BitVec.slt_iff_toInt_lt.1 h)), max_eq_left (not_lt.1 hlt), BitVec.ofInt_toInt]

/-- Settles O2: it holds, operation by operation. -/
theorem scalarResults : Obligations.ScalarResults := by
  unfold Obligations.ScalarResults
  intro s i b sd v p c h hw
  unfold scalarWrite at hw
  dsimp only at hw
  split at hw <;> cases hw
  case h_1 => exact scalar_writes h rfl (add_val _ _)
  case h_2 => exact scalar_writes h rfl (sub_val _ _)
  case h_3 => exact scalar_writes h rfl (addi_val _ _)
  case h_4 => exact scalar_writes h rfl rfl
  case h_5 => exact scalar_writes h rfl rfl
  case h_6 => exact scalar_writes h rfl rfl
  case h_7 => exact scalar_writes h rfl (shl_val _ _)
  case h_8 => exact scalar_writes h rfl (shr_val _ _)
  case h_9 => exact scalar_writes h rfl (ssra_val _ _)
  case h_10 => exact scalar_writes h rfl (shl_val _ _)
  case h_11 => exact scalar_writes h rfl (mul_val _ _)
  case h_12 => exact scalar_writes h rfl (min_val _ _)
  case h_13 => exact scalar_writes h rfl (max_val _ _)
  case h_14 => exact scalar_writes h rfl (if_congr BitVec.slt_iff_toInt_lt rfl rfl)
  case h_15 => exact scalar_writes h rfl rfl
  case h_16 => exact scalar_writes h rfl (slis_val _ _)
  case h_17 => exact scalar_writes h rfl (srd_val s b c.pre _)

/-! Branches and no-operations. -/

section Branch
variable {s : State} {i : Instr} {b : Slot} {p : Nat} {c : Core} {imm : BitVec 11} {t : CoreRegs → Bool} (h : s.Issues b p c)
  (he : exec i s = .next (branchOp b imm t s))
include h he

theorem branch_taken (ht : t c.pre = true) :
    exec i s = .next (s.issued p c { c.now with nextPc := ((c.now.pc : Int) + imm.toInt).toNat }) :=
  exec_ok_eq he _ h (congrArg SlotRes.ok (if_pos ht))

theorem branch_passed (ht : t c.pre = false) : exec i s = .next (s.issued p c c.now) :=
  exec_ok_eq he _ h (congrArg SlotRes.ok (if_neg (by simp [ht])))

end Branch

/-- Settles O3: it holds; a branch that is not taken leaves the next bundle as the issue set it. -/
theorem branchesAndNops : Obligations.BranchesAndNops := by
  unfold Obligations.BranchesAndNops
  intro s b p c h go on
  refine ⟨fun r imm => ?zero, fun r imm => ?nonzero, fun imm => branch_taken (t := fun _ => true) h rfl rfl, exec_ok_eq rfl _ h rfl,
    exec_ok_eq rfl _ h rfl, exec_ok_eq rfl _ h rfl, exec_ok_eq rfl _ h rfl⟩
  case zero =>
    split
    · next hr => exact branch_taken h rfl (beq_iff_eq.2 hr)
    · next hr => exact branch_passed h rfl (beq_eq_false_iff_ne.2 hr)
  case nonzero =>
    split
    · next hr => exact branch_passed h rfl (bne_eq_false_iff_eq.2 hr)
    · next hr => exact branch_taken h rfl (bne_iff_ne.2 hr)

/-! Loops (R54). -/

theorem toNat_eq_zero_iff (x : W64) : x.toNat = 0 ↔ x = 0 := by
  rw [← BitVec.toNat_inj]
  rfl

/-- Every loop counter of a core that starts is inactive (R61). -/
theorem started_loop_inactive (c : CoreRegs) (fv : Nat → Nat) (pc n : Nat) : ((c.started fv pc).loop n).active = false := by
  have hfind := AMap.find_range (fun i => (⟨false, fv (200 + i), 0, 0⟩ : Loop)) 0 8 n
  simp only [Nat.add_zero] at hfind
  simp only [CoreRegs.loop, AMap.getD, CoreRegs.started, hfind]
  split <;> rfl

/-- CORE_CTRL as a write of it leaves it (02 CORE_CTRL; 00 R8). -/
def ctrlSet (v : W32) (c : CoreRegs) : CoreRegs :=
  { c with startPc := v.setWidth 11, runReq := c.runReq || v.getLsbD 16, halt := c.halt || v.getLsbD 17 }

theorem writeCtrl_eq (s : State) (p : Nat) (v : W32) : s.writeCtrl p v = (s.modCore p (ctrlSet v)).startHeld p := rfl

/-- A run request starts a core that does not run, at start_pc (R61). -/
theorem writeCtrl_starts {s : State} {p : Nat} (v : W32) (hst : (s.core p).now.st ≠ .running)
    (hreq : ((s.core p).now.runReq || v.getLsbD 16) = true) :
    let r := (ctrlSet v (s.core p).now).started s.fv (v.setWidth 11 : BitVec 11).toNat
    s.writeCtrl p v = (s.setCore p ⟨r, r⟩).drawn := by
  intro r
  have hself : ((s.modCore p (ctrlSet v)).core p).now = ctrlSet v (s.core p).now := by rw [State.core_modCore_self]
  rw [writeCtrl_eq, State.startHeld, hself]
  rw [if_pos (show (ctrlSet v (s.core p).now).runReq = true from hreq),
    RunDispatching.startCore_idle _ (by rw [hself]; exact hst), hself, State.modCore, State.setCore_setCore]
  rfl

theorem exec_coreRun {s : State} {k q : Nat} (v : W32) (hq : s.physOf k = some q) :
    exec (.coreRun k v) s = .next (s.writeCtrl q (v ||| 0x10000)) := by
  change execCoreRun k v s = _
  simp only [execCoreRun, hq]

section Loops
variable (c : CoreRegs) (n : Nat)

/-- The registers after a loop's end (R54). -/
def loopEnded : CoreRegs :=
  if (c.loop n).active = false then c
  else if 1 < (c.loop n).count then
    { c.setLoop n { c.loop n with count := (c.loop n).count - 1 } with nextPc := (c.loop n).bodyStart }
  else c.setLoop n { c.loop n with active := false, count := 0 }

theorem exec_loopEnd {s : State} {b : Slot} {p : Nat} {c : Core} (lc : BitVec 3) (h : s.Issues b p c) :
    exec (.loopEnd b lc) s = .next (s.issued p c (loopEnded c.now lc.toNat)) := by
  refine exec_ok_eq rfl _ h ?_
  unfold loopEnded
  dsimp only
  split
  · rfl
  · split <;> rfl

theorem loopEnded_inactive (h : (c.loop n).active = false) : loopEnded c n = c := if_pos h

theorem loopEnded_again (h : (c.loop n).active = true) (hn : 1 < (c.loop n).count) :
    loopEnded c n = { c.setLoop n { c.loop n with count := (c.loop n).count - 1 } with nextPc := (c.loop n).bodyStart } := by
  rw [loopEnded, if_neg (by simp [h]), if_pos hn]

theorem loopEnded_done (h : (c.loop n).active = true) (hn : ¬1 < (c.loop n).count) :
    loopEnded c n = c.setLoop n { c.loop n with active := false, count := 0 } := by
  rw [loopEnded, if_neg (by simp [h]), if_neg hn]

theorem loopEnded_cases : loopEnded c n = c ∨ ∃ l pc, loopEnded c n = { c.setLoop n l with nextPc := pc } := by
  unfold loopEnded
  split
  · exact .inl rfl
  · split
    · exact .inr ⟨_, _, rfl⟩
    · exact .inr ⟨_, c.nextPc, rfl⟩

theorem loopEnded_frame : loopEnded c n = { c with loops := (loopEnded c n).loops, nextPc := (loopEnded c n).nextPc } := by
  obtain h | ⟨l, pc, h⟩ := loopEnded_cases c n <;> rw [h]
  rfl

theorem loopEnded_other {m : Nat} (hm : m ≠ n) : (loopEnded c n).loop m = c.loop m := by
  obtain h | ⟨l, pc, h⟩ := loopEnded_cases c n <;> rw [h]
  exact (loop_setLoop c n l m).trans (if_neg hm)

theorem setLoop_self (l : Loop) : (c.setLoop n l).loop n = l := (loop_setLoop c n l n).trans (if_pos rfl)

end Loops

/-- Settles O4: it holds. -/
theorem loopRules : Obligations.LoopRules := by
  unfold Obligations.LoopRules
  intro s b p c lc h
  refine ⟨fun sc e hsc => ?count, ⟨_, exec_loopEnd lc h, ?ended⟩, fun sc e hsc => exec_stop rfl _ h (if_pos hsc),
    fun k q v hq hst => ⟨_, exec_coreRun v hq, ?run⟩⟩
  case count =>
    by_cases hzero : c.pre.sr sc = 0
    · refine exec_ok rfl ({ c.now.setLoop lc.toNat { c.now.loop lc.toNat with active := false } with nextPc := c.now.pc + e.toNat + 1 }) h
        ((if_neg (by omega)).trans (if_pos ((toNat_eq_zero_iff _).2 hzero))) fun t ht hcore => ?_
      rw [hcore]
      refine ⟨ht, rfl, fun n hn => (loop_setLoop _ _ _ _).trans (if_neg hn), fun _ => ⟨rfl, ?_⟩, fun hnz => absurd hzero hnz⟩
      exact congrArg Loop.active (setLoop_self _ _ _)
    · refine exec_ok rfl (c.now.setLoop lc.toNat ⟨true, (c.pre.sr sc).toNat, c.now.pc + 1, c.now.pc + e.toNat⟩) h
        ((if_neg (by omega)).trans (if_neg (mt (toNat_eq_zero_iff _).1 hzero))) fun t ht hcore => ?_
      rw [hcore]
      exact ⟨ht, rfl, fun n hn => (loop_setLoop _ _ _ _).trans (if_neg hn), fun hz => absurd hz hzero, fun _ => ⟨rfl, setLoop_self _ _ _⟩⟩
  case ended =>
    rw [State.core_issued]
    refine ⟨rfl, loopEnded_frame _ _, fun n => loopEnded_other _ _, loopEnded_inactive _ _, fun hact => ?_, fun hact hn => ?_,
      fun hact hn => ?_⟩
    · by_cases hn : 1 < (c.now.loop lc.toNat).count
      · rw [loopEnded_again _ _ hact hn]
        exact congrArg Loop.count (setLoop_self _ _ _)
      · rw [loopEnded_done _ _ hact hn]
        refine (congrArg Loop.count (setLoop_self _ _ _)).trans ?_
        dsimp only
        omega
    · rw [loopEnded_again _ _ hact hn]
      exact ⟨rfl, (congrArg Loop.active (setLoop_self _ _ _)).trans hact⟩
    · rw [loopEnded_done _ _ hact (by omega)]
      exact ⟨rfl, congrArg Loop.active (setLoop_self _ _ _)⟩
  case run =>
    have hbit : (v ||| 0x10000).getLsbD 16 = true := by simp
    rw [writeCtrl_starts _ hst (by rw [hbit, Bool.or_true])]
    exact ⟨congrArg (·.now.st) (State.core_setCore_self ..), (congrArg (fun r : Core => (r.now.loop lc.toNat).active)
      (State.core_setCore_self ..)).trans (started_loop_inactive _ _ _ _)⟩

end Sys2Proof.Machine.ScalarSlots

/-! SUPPORT. What every slot command has in common: it is a slot operation, so a core that stops issues nothing and no other core is reached. -/
namespace Sys2Proof.Machine.SlotCommands

/-! Control registers and posts (R47, R53, R56). -/

theorem masks_pmask_insert (c : CoreRegs) (reg : Nat) (w : W32 × W32) (h : 1 ≤ reg) (pm : BitVec 2) :
    ({ c with pmask := AMap.insert c.pmask reg w } : CoreRegs).masks pm = if pm.toNat = reg then w else c.masks pm := by
  unfold CoreRegs.masks
  rw [AMap.getD_insert]
  by_cases hpm : pm = 0
  · subst hpm
    rw [if_pos rfl, if_pos rfl, if_neg (by simp; omega)]
  · rw [if_neg hpm, if_neg hpm]

theorem ofNat_toNat_word (v : W64) : BitVec.ofNat 32 v.toNat = v.setWidth 32 := by
  rw [← BitVec.setWidth_ofNat_of_le (by decide : 32 ≤ 64), BitVec.ofNat_toNat, BitVec.setWidth_eq]

theorem ofNat_high_word (v : W64) : BitVec.ofNat 32 (v.toNat / 2 ^ 32) = (v >>> 32).setWidth 32 := by
  rw [← Nat.shiftRight_eq_div_pow, ← BitVec.toNat_ushiftRight, ofNat_toNat_word]

theorem reg_ne_zero {reg : BitVec 7} (h : 1 ≤ reg.toNat) : reg ≠ 0 := by
  rintro rfl
  exact absurd h (by decide)

/-- Settles O5: it holds. -/
theorem controlRegistersAndPosts : Obligations.ControlRegistersAndPosts := by
  unfold Obligations.ControlRegistersAndPosts
  intro s b p c h
  refine ⟨fun sa fa fb ha hb => ⟨fun hpair => ?permitted, fun hpair => ?refused⟩, fun reg sa hlo hhi => ?mask, fun sa => ?post, ?stop⟩
  case permitted =>
    subst ha hb
    exact exec_ok_eq rfl _ h ((if_pos rfl).trans (if_pos hpair))
  case refused =>
    subst ha hb
    exact exec_stop rfl _ h ((if_pos rfl).trans (if_neg (by simp [hpair])))
  case mask =>
    refine exec_ok rfl _ h ((if_neg (reg_ne_zero hlo)).trans (if_pos hhi)) fun t ht hcore => ?_
    rw [hcore]
    refine ⟨ht, rfl, fun pm => ?_⟩
    rw [masks_pmask_insert _ _ _ hlo, ofNat_toNat_word, ofNat_high_word]
  case post =>
    change Host.Outcome.next (slotOp b _ s) = _
    rw [slotOp_sig h rfl, ofNat_toNat_word]
  case stop =>
    refine ⟨exec_ok_eq rfl _ h rfl, fun f => slotOp_idle (p := p) f h.phys (.inr ⟨?_, .inr rfl⟩)⟩
    rw [State.core_issued]
    exact Option.some_ne_none _

/-! Every slot command is a slot operation of its slot. -/

theorem exec_slot {i : Instr} {b : Slot} (h : slotOf i = some b) (s : State) : ∃ f, exec i s = .next (slotOp b f s) := by
  unfold slotOf at h
  split at h <;> cases h <;> exact ⟨_, rfl⟩

/-- Settles O6: it holds; a slot operation of a core that is not running or that stops has no effect. -/
theorem stoppedCoreIssuesNothing : Obligations.StoppedCoreIssuesNothing := by
  unfold Obligations.StoppedCoreIssuesNothing
  intro s i b p hi hp hidle
  obtain ⟨f, hf⟩ := exec_slot hi s
  rw [hf, slotOp_idle f hp hidle]

/-! What a slot operation reaches. -/

theorem setCore_reaches (s : State) (p : Nat) (c : Core) :
    let t := s.setCore p c
    t = { s with cores := t.cores, clus := t.clus } ∧ (∀ q, q ≠ p → t.core q = s.core q) ∧ t.clu = s.clu :=
  ⟨rfl, fun q hq => (State.core_setCore s p q c).trans (if_neg hq), rfl⟩

theorem clu_post (s : State) (p n : Nat) (e : CoachEvent) :
    (s.post p e).clu n = if n = p / 26 then { s.clu n with events := (s.clu n).events ++ [e] } else s.clu n := by
  rw [State.post, State.modClu, State.clu_setClu]
  split
  · next hn => rw [hn]
  · rfl

/-- Settles O7: it holds; a slot operation sets its own core, and posts to the coach of that core's cluster at most. -/
theorem slotsKeepToTheirCore : Obligations.SlotsKeepToTheirCore := by
  unfold Obligations.SlotsKeepToTheirCore
  intro s t i b hi ht
  obtain ⟨f, hf⟩ := exec_slot hi s
  rw [hf] at ht
  obtain rfl := Host.Outcome.next.inj ht
  obtain hnone | ⟨p, hp, ⟨c, hset⟩ | ⟨c, e, hpost⟩⟩ := slotOp_cases b f s
  · rw [hnone]
    exact ⟨rfl, fun q hq => rfl, fun n => rfl, fun n hn => rfl⟩
  · obtain ⟨hframe, hcore, -⟩ := setCore_reaches s p c
    rw [hset]
    exact ⟨hframe, fun q hq => hcore q (fun hqp => hq (hqp ▸ hp)), fun n => rfl, fun n hn => rfl⟩
  · obtain ⟨-, hcore, -⟩ := setCore_reaches s p c
    rw [hpost]
    refine ⟨rfl, fun q hq => hcore q (fun hqp => hq (hqp ▸ hp)), fun n => ?_, fun n hn => ?_⟩
    · rw [clu_post]
      split <;> rfl
    · rw [clu_post, if_neg (hn p hp)]
      rfl

end Sys2Proof.Machine.SlotCommands

/-! SUPPORT. The vector slot: element-wise operations, reductions and conversion, quantised rows, loads and stores. -/
namespace Sys2Proof.Machine.VectorSlot
open Fields (mapLanes_eq sign_add lanesOn_0 setBits_self setBits_out setAll setAll_get setAll_out vqntRow_fst mod_bits)
open FoldAndWhey (guarded_of_none guarded_of_some overStores_ok)

/-! Registers written under a column mask (R51). -/

/-- A command whose core takes masked elements into vd, and counts work at most, writes a vector. -/
theorem vectorWrites_of_next {s : State} {i : Instr} {p : Nat} {c : Core} {col : W32} {vd : BitVec 6} {ty : VTy} {g g' : Nat → Nat} {w : AMap Nat}
    (he : exec i s = .next (s.issued p c { c.now.vw vd (mapElems ty col (c.now.vr vd) g') with work := w }))
    (hg : ∀ k, k < elemCount ty → g' k % 2 ^ elemWidth ty = g k % 2 ^ elemWidth ty) : VectorWrites i s p c col vd ty g := by
  refine ⟨_, he, ?_⟩
  rw [State.core_issued]
  refine ⟨rfl, rfl, fun r hr => (CoreRegs.vr_vw c.now vd r _).trans (if_neg hr), fun k hk => ?_⟩
  have hself : ({ c.now.vw vd (mapElems ty col (c.now.vr vd) g') with work := w } : CoreRegs).vr vd = mapElems ty col (c.now.vr vd) g' :=
    (CoreRegs.vr_vw c.now vd vd _).trans (if_pos rfl)
  rw [hself, elemAt_mapElems _ _ _ _ _ hk, hg k hk]

section Element
variable {s : State} {i : Instr} {b : Slot} {p : Nat} {c : Core} {vd : BitVec 6} {ty : VTy} {g : Nat → Nat} (h : s.Issues b p c)
include h

theorem elems_write {f : CoreRegs → CoreRegs → SlotRes} (g' : Nat → Nat) (w : AMap Nat) (he : exec i s = .next (slotOp b f s))
    (hf : f c.pre c.now = .ok { c.now.vw vd (mapElems ty (c.pre.colMask b.pm) (c.now.vr vd) g') with work := w })
    (hg : ∀ k, k < elemCount ty → g' k % 2 ^ elemWidth ty = g k % 2 ^ elemWidth ty) :
    VectorWrites i s p c (c.pre.colMask b.pm) vd ty g :=
  vectorWrites_of_next (exec_ok_eq he _ h hf) hg

/-- A command that is a vector operation of elements. -/
theorem elems_write_vecOp (g' : CoreRegs → Nat → Nat)
    (he : exec i s = .next (vecOp b vd (fun c col old => mapElems ty col old (g' c)) s))
    (hg : ∀ k, k < elemCount ty → g' c.pre k % 2 ^ elemWidth ty = g k % 2 ^ elemWidth ty) :
    VectorWrites i s p c (c.pre.colMask b.pm) vd ty g :=
  elems_write h (g' c.pre) c.now.work he rfl hg

/-- The same for one that counts its work (14 R378). -/
theorem elems_write_workOp (g' : CoreRegs → Nat → Nat) (ev : Nat)
    (he : exec i s = .next (workOp b vd ev (fun c col old => mapElems ty col old (g' c)) s))
    (hg : ∀ k, k < elemCount ty → g' c.pre k % 2 ^ elemWidth ty = g k % 2 ^ elemWidth ty) :
    VectorWrites i s p c (c.pre.colMask b.pm) vd ty g :=
  elems_write h (g' c.pre) _ he rfl hg

/-- The same for an operation on 32-bit lanes. -/
theorem lanes_write_vecOp (l : CoreRegs → Nat → W32) (he : exec i s = .next (vecOp b vd (fun c col old => mapLanes col old (l c)) s))
    (hg : ∀ j, (l c.pre j).toNat % 2 ^ 32 = g j % 2 ^ 32) : VectorWrites i s p c (c.pre.colMask b.pm) vd .int32 g := by
  simp only [mapLanes_eq] at he
  exact elems_write_vecOp h (fun c j => (l c j).toNat) he fun k _ => hg k

end Element

/-! The elements of R50 and R531. -/

theorem abs_elem (ty : VTy) (x : Nat) : (match ty with | .int32 => intTo (seedOf 9 x 0 0) (sint32 x).natAbs | _ => x % signBit ty) =
    if ty = .int32 then intTo (seedOf 9 x 0 0) ((sint32 x).natAbs : Int) else if ty = .fp32 then x % 2 ^ 31 else x % 2 ^ 15 := by
  cases ty <;> rfl

theorem neg_elem (ty : VTy) (x : Nat) : x < 2 ^ elemWidth ty →
    (match ty with | .int32 => intTo (seedOf 10 x 0 0) (-(sint32 x)) | _ => if signBit ty ≤ x then x - signBit ty else x + signBit ty)
      % 2 ^ elemWidth ty =
    (if ty = .int32 then intTo (seedOf 10 x 0 0) (-(sint32 x)) else if ty = .fp32 then x + 2 ^ 31 else x + 2 ^ 15) % 2 ^ elemWidth ty := by
  intro hx
  by_cases hty : ty = .int32
  · subst hty
    rfl
  · rw [if_neg hty, ← sign_add ty x hx hty]
    cases ty <;> first | rfl | exact absurd rfl hty

/-- Settles O8: it holds, operation by operation. -/
theorem vectorElementResults : Obligations.VectorElementResults := by
  unfold Obligations.VectorElementResults
  intro s i b vd ty g p c h hw
  unfold vecElem at hw
  dsimp only at hw
  split at hw
  case h_4 d va vb vc t =>
    split at hw <;> cases hw
    next f hf =>
      refine elems_write h _ (c.now.count 3 (lanesOn (c.pre.colMask b.pm) 0 128).length).work rfl ?_ fun k _ => rfl
      dsimp only
      rw [hf]
      rfl
  all_goals cases hw
  case h_1 => exact elems_write_vecOp h _ rfl fun k _ => rfl
  case h_2 => exact elems_write_vecOp h _ rfl fun k _ => rfl
  case h_3 => exact elems_write_vecOp h _ rfl fun k _ => rfl
  case h_5 => exact elems_write_vecOp h _ rfl fun k _ => rfl
  case h_6 => exact elems_write_vecOp h _ rfl fun k _ => rfl
  case h_7 => exact elems_write_vecOp h _ rfl fun k _ => congrArg (· % _) (abs_elem ..)
  case h_8 => exact elems_write_vecOp h _ rfl fun k _ => neg_elem _ _ (elemAt_lt ..)
  case h_9 => exact elems_write_vecOp h _ rfl fun k _ => rfl
  case h_10 => exact elems_write_vecOp h _ rfl fun k _ => congrArg (· % _) (ite_not ..)
  case h_11 => exact lanes_write_vecOp h _ rfl fun j => congrArg (·.toNat % _) (lane_and ..)
  case h_12 => exact lanes_write_vecOp h _ rfl fun j => congrArg (·.toNat % _) (lane_or ..)
  case h_13 => exact lanes_write_vecOp h _ rfl fun j => congrArg (·.toNat % _) (lane_xor ..)
  case h_14 => exact lanes_write_vecOp h _ rfl fun j => rfl
  case h_15 => exact lanes_write_vecOp h _ rfl fun j => by rw [BitVec.toNat_ofNat, Nat.mod_mod]
  case h_16 => exact elems_write_workOp h _ 4 rfl fun k _ => rfl
  case h_17 => exact elems_write_workOp h _ 4 rfl fun k _ => rfl
  case h_18 => exact elems_write_workOp h _ 4 rfl fun k _ => rfl
  case h_19 => exact elems_write_workOp h _ 4 rfl fun k _ => rfl

/-! Reductions, moves and conversion (R51, R86, R531). -/

theorem lanesOn_eq (col : W32) (j : Nat) : lanesOn col j 32 = ((List.range 32).map (· + j)).filter (laneOn col) := rfl

theorem lane_reduce (col : W32) (old : VReg) (whole : Bool) (f : List Nat → W32) {j : Nat} (hj : j < 128) :
    lane (reduce col old whole f) j =
      if whole = true ∧ j = 0 ∧ laneOn col 0 = true then f ((List.range 128).filter (laneOn col))
      else if whole = false ∧ j % 32 = 0 ∧ laneOn col j = true then f (((List.range 32).map (· + j)).filter (laneOn col))
      else lane old j := by
  unfold reduce
  rw [lane_ofLanes _ _ hj, lanesOn_0, lanesOn_eq]
  cases whole <;> simp

/-- What a command that sets vd alone leaves of the registers. -/
theorem vw_vr_ne (c : CoreRegs) {vd r : BitVec 6} (v : VReg) (hr : r ≠ vd) : (c.vw vd v).vr r = c.vr r :=
  (CoreRegs.vr_vw c vd r v).trans (if_neg hr)

theorem vw_vr_self (c : CoreRegs) (vd : BitVec 6) (v : VReg) : (c.vw vd v).vr vd = v :=
  (CoreRegs.vr_vw c vd vd v).trans (if_pos rfl)

section Reduction
variable {s : State} {i : Instr} {b : Slot} {p : Nat} {c : Core} {vd : BitVec 6} {whole : Bool} {f : CoreRegs → List Nat → W32}

theorem reduction_result (h : s.Issues b p c) (he : exec i s = .next (vecOp b vd (fun c col old => reduce col old whole (f c)) s)) :
    ∃ t, exec i s = .next t ∧ (t = s.issued p c (t.core p).now ∧ (∀ r, r ≠ vd → (t.core p).now.vr r = c.now.vr r)) ∧
      (t.core p).now = { c.now with vregs := (t.core p).now.vregs } ∧
      ∀ j, j < 128 → lane ((t.core p).now.vr vd) j =
        if whole = true ∧ j = 0 ∧ laneOn (c.pre.colMask b.pm) 0 = true then f c.pre ((List.range 128).filter (laneOn (c.pre.colMask b.pm)))
        else if whole = false ∧ j % 32 = 0 ∧ laneOn (c.pre.colMask b.pm) j = true then
          f c.pre (((List.range 32).map (· + j)).filter (laneOn (c.pre.colMask b.pm)))
        else lane (c.now.vr vd) j := by
  refine exec_ok he _ h rfl fun t ht hcore => ?_
  rw [hcore]
  refine ⟨⟨ht, fun r hr => vw_vr_ne _ _ hr⟩, CoreRegs.vw_frame _ _ _, fun j hj => ?_⟩
  rw [vw_vr_self, lane_reduce _ _ _ _ hj]

end Reduction

/-- The registers after VCVT (R51, R86, R531). -/
def converted (pre now : CoreRegs) (col : W32) (vd va : BitVec 6) (src : VTy) (mode : BitVec 2) (ty : VTy) : CoreRegs :=
  let c := now.vw vd (mapElems ty col (now.vr vd) (fun k =>
    if (VTy.is16 ty && !VTy.is16 src) && decide (128 ≤ k) then (elem16 (now.vr vd) k).toNat
    else cvtElem src ty (cvtMode mode pre.srKey pre.srCtr k) (elemAt src (pre.vr va) k)))
  if mode = 1 then c.srAdvance else c

section Conversion
variable (pre now : CoreRegs) (col : W32) (vd va : BitVec 6) (src : VTy) (mode : BitVec 2) (ty : VTy)

theorem converted_eq : converted pre now col vd va src mode ty =
    { now with
      vregs := (converted pre now col vd va src mode ty).vregs, srCtr := if mode = 1 then now.srCtr + 64 else now.srCtr } := by
  unfold converted
  split <;> rfl

theorem converted_vr (r : BitVec 6) : (converted pre now col vd va src mode ty).vr r =
    (now.vw vd (mapElems ty col (now.vr vd) (fun k =>
      if (VTy.is16 ty && !VTy.is16 src) && decide (128 ≤ k) then (elem16 (now.vr vd) k).toNat
      else cvtElem src ty (cvtMode mode pre.srKey pre.srCtr k) (elemAt src (pre.vr va) k)))).vr r := by
  unfold converted
  split <;> rfl

/-- Elements 128 to 255 of a narrowing conversion are those that its source does not have. -/
theorem narrow_iff {k : Nat} (hk : k < elemCount ty) :
    ((VTy.is16 ty && !VTy.is16 src) && decide (128 ≤ k)) = true ↔ ¬k < elemCount src := by
  cases ty <;> cases src <;> simp [elemCount, VTy.is16] at hk ⊢ <;> omega

theorem converted_elem {k : Nat} (hk : k < elemCount ty) : elemAt ty ((converted pre now col vd va src mode ty).vr vd) k =
    if laneOn col (elemLane ty k) = true ∧ k < elemCount src then
      cvtElem src ty (cvtMode mode pre.srKey pre.srCtr k) (elemAt src (pre.vr va) k) % 2 ^ elemWidth ty
    else elemAt ty (now.vr vd) k := by
  rw [converted_vr, vw_vr_self, elemAt_mapElems _ _ _ _ _ hk]
  by_cases hon : laneOn col (elemLane ty k) = true
  case neg => rw [if_neg hon, if_neg (fun h => hon h.1)]
  by_cases hsrc : k < elemCount src
  case pos => rw [if_pos hon, if_neg (mt (narrow_iff src ty hk).1 (not_not.2 hsrc)), if_pos ⟨hon, hsrc⟩]
  case neg =>
    have hnarrow := (narrow_iff src ty hk).2 hsrc
    have h16 : VTy.is16 ty = true := by
      simp only [Bool.and_eq_true] at hnarrow
      exact hnarrow.1.1
    rw [if_pos hon, if_pos hnarrow, if_neg (fun h => hsrc h.2)]
    unfold elemAt elemWidth
    rw [if_pos h16, if_pos h16]
    exact Nat.mod_eq_of_lt (BitVec.isLt _)

end Conversion

/-- Settles O9: it holds. -/
theorem reductionsMovesAndConversion : Obligations.ReductionsMovesAndConversion := by
  unfold Obligations.ReductionsMovesAndConversion
  intro s b p c h col kept only red
  refine ⟨fun vd va whole ty => reduction_result (f := fun c => sumLanes ty (c.vr va)) h rfl,
    fun vd va whole ty => reduction_result (f := fun c => maxLanes ty (c.vr va)) h rfl, fun sd va vb half => ?get,
    fun vd va src mode ty => ?convert⟩
  case get => exact exec_ok_eq rfl _ h (congrArg (fun v => SlotRes.ok (c.now.sw sd v)) (BitVec.ofNat_toNat ..))
  case convert =>
    refine exec_ok rfl (converted c.pre c.now col vd va src mode ty) h rfl fun t ht hcore => ?_
    have hframe := converted_eq c.pre c.now col vd va src mode ty
    have hctr : (converted c.pre c.now col vd va src mode ty).srCtr = if mode = 1 then c.now.srCtr + 64 else c.now.srCtr := by rw [hframe]
    simp only [kept, hcore]
    refine ⟨⟨ht, fun r hr => (converted_vr ..).trans (vw_vr_ne _ _ hr)⟩, ?_, hctr, fun k hk => converted_elem _ _ _ _ _ _ _ _ hk⟩
    rw [hctr]
    exact hframe

/-! Quantised rows (03 R68, R69). -/

section Quantise
variable (w : Nat) (row : Nat → Nat × List (Nat × Nat) × Nat)

/-- The bit fields that row `r` sets: the codes of its lanes, then its scale. -/
def rowFields (r : Nat) : List (Nat × Nat × Nat) :=
  (row r).2.1.map (fun jc => (256 * r + w * (jc.1 - 32 * r), w, jc.2)) ++ [(8 * (384 + r), 8, (row r).1)]

theorem foldl_rows_eq (rs : List Nat) (v : Nat) :
    (rs.map (fun r => (r, row r))).foldl (fun (v : Nat) rr =>
      let v1 := rr.2.2.1.foldl (fun (v : Nat) jc => setBits v (256 * rr.1 + w * (jc.1 - 32 * rr.1)) w jc.2) v
      setBits v1 (8 * (384 + rr.1)) 8 rr.2.1) v = setAll v (rs.flatMap (rowFields w row)) := by
  induction rs generalizing v with
  | nil => rfl
  | cons r rs ih =>
    rw [List.map_cons, List.foldl_cons, ih, List.flatMap_cons, setAll, setAll, List.foldl_append]
    simp only [rowFields, List.foldl_append, List.foldl_map, List.foldl_cons, List.foldl_nil]

variable {w row} (hw : w ≤ 8) (hlanes : ∀ r, ∃ js : List Nat, js.Nodup ∧ (row r).2.1.map (·.1) = js ∧ ∀ j ∈ js, 32 * r ≤ j ∧ j < 32 * r + 32)
include hw hlanes

theorem code_in_row {r : Nat} {jc : Nat × Nat} (hjc : jc ∈ (row r).2.1) :
    256 * r + w * (jc.1 - 32 * r) + w ≤ 256 * r + 256 := by
  obtain ⟨js, -, hjs, hin⟩ := hlanes r
  obtain ⟨hlo, hhi⟩ := hin jc.1 (hjs ▸ List.mem_map_of_mem hjc)
  calc 256 * r + w * (jc.1 - 32 * r) + w = 256 * r + w * (jc.1 - 32 * r + 1) := by ring
    _ ≤ 256 * r + 8 * 32 := Nat.add_le_add_left (Nat.mul_le_mul hw (by omega)) _

/-- A field of a row lies in the row's 256 bits, or it is the row's scale. -/
theorem mem_rowFields {r : Nat} {e : Nat × Nat × Nat} (he : e ∈ rowFields w row r) :
    (256 * r ≤ e.1 ∧ e.1 + e.2.1 ≤ 256 * r + 256) ∨ (e.1 = 3072 + 8 * r ∧ e.2.1 = 8) := by
  simp only [rowFields, List.mem_append, List.mem_map, List.mem_singleton] at he
  obtain ⟨jc, hjc, rfl⟩ | rfl := he
  · exact .inl ⟨Nat.le_add_right _ _, code_in_row hw hlanes hjc⟩
  · exact .inr ⟨by dsimp only; omega, rfl⟩

theorem rowFields_disjoint {r : Nat} (hr : r < 4) :
    (rowFields w row r).Pairwise (fun a b => a.1 + a.2.1 ≤ b.1 ∨ b.1 + b.2.1 ≤ a.1) := by
  obtain ⟨js, hnodup, hjs, hin⟩ := hlanes r
  rw [rowFields, List.pairwise_append]
  refine ⟨?codes, List.pairwise_singleton _ _, fun a ha b hb => ?scale⟩
  case codes =>
    rw [List.pairwise_map]
    have hne : (row r).2.1.Pairwise (fun a b => a.1 ≠ b.1) := List.pairwise_map.1 (hjs ▸ hnodup)
    refine hne.imp_of_mem fun {a b} ha hb hab => ?_
    obtain ⟨ha, -⟩ := hin a.1 (hjs ▸ List.mem_map_of_mem ha)
    obtain ⟨hb, -⟩ := hin b.1 (hjs ▸ List.mem_map_of_mem hb)
    dsimp only
    obtain hlt | hlt := lt_or_gt_of_ne hab
    · left
      calc 256 * r + w * (a.1 - 32 * r) + w = 256 * r + w * (a.1 - 32 * r + 1) := by ring
        _ ≤ 256 * r + w * (b.1 - 32 * r) := Nat.add_le_add_left (Nat.mul_le_mul_left _ (by omega)) _
    · right
      calc 256 * r + w * (b.1 - 32 * r) + w = 256 * r + w * (b.1 - 32 * r + 1) := by ring
        _ ≤ 256 * r + w * (a.1 - 32 * r) := Nat.add_le_add_left (Nat.mul_le_mul_left _ (by omega)) _
  case scale =>
    obtain ⟨jc, hjc, rfl⟩ := List.mem_map.1 ha
    obtain rfl := List.mem_singleton.1 hb
    have hcode := code_in_row hw hlanes hjc
    dsimp only
    omega

theorem fields_disjoint : ((List.range 4).flatMap (rowFields w row)).Pairwise (fun a b => a.1 + a.2.1 ≤ b.1 ∨ b.1 + b.2.1 ≤ a.1) := by
  rw [List.pairwise_flatMap]
  refine ⟨fun r hr => rowFields_disjoint hw hlanes (List.mem_range.1 hr), ?_⟩
  refine List.pairwise_lt_range.imp_of_mem fun {r r'} hr hr' hlt a ha b hb => ?_
  have hr := List.mem_range.1 hr
  have hr' := List.mem_range.1 hr'
  have ha := mem_rowFields hw hlanes ha
  have hb := mem_rowFields hw hlanes hb
  omega

end Quantise

theorem elemBits_le (fmt : Nat) (h : fmt ≤ 5) : elemBits fmt ≤ 8 := by
  unfold elemBits
  split
  · rfl
  · split <;> omega

/-- The enabled lanes of a row. -/
theorem mem_rowLanes {col : W32} {r j : Nat} (hj : j ∈ lanesOn col (32 * r) 32) : 32 * r ≤ j ∧ j < 32 * r + 32 := by
  obtain ⟨hj, -⟩ := List.mem_filter.1 hj
  obtain ⟨k, hk, rfl⟩ := List.mem_map.1 hj
  have hk := List.mem_range.1 hk
  omega

theorem rowLanes_nodup (col : W32) (r : Nat) : (lanesOn col (32 * r) 32).Nodup :=
  (List.nodup_range.map (add_left_injective _)).filter _

/-- A mask enables the same lanes of every row. -/
theorem length_rowLanes (col : W32) (r : Nat) : (lanesOn col (32 * r) 32).length = ((List.range 32).filter (laneOn col)).length := by
  have hlane : laneOn col ∘ (· + 32 * r) = laneOn col := by
    funext k
    simp only [Function.comp_apply, laneOn, Nat.add_mul_mod_self_left]
  rw [lanesOn, List.filter_map, List.length_map, hlane]

/-- The rows that VQNT writes (R68). -/
def quantRow (pre : CoreRegs) (col : W32) (va : BitVec 6) (fmt r : Nat) : Nat × List (Nat × Nat) × Nat :=
  vqntRow fmt (pre.vr va) (lanesOn col (32 * r) 32)

section Rows
variable (pre : CoreRegs) (col : W32) (va : BitVec 6) (fmt : Nat)

theorem quantRow_lanes (r : Nat) : ∃ js : List Nat, js.Nodup ∧ (quantRow pre col va fmt r).2.1.map (·.1) = js ∧
    ∀ j ∈ js, 32 * r ≤ j ∧ j < 32 * r + 32 :=
  ⟨_, rowLanes_nodup col r, vqntRow_fst _ _ _, fun _ => mem_rowLanes⟩

theorem length_quantRow (r : Nat) : (quantRow pre col va fmt r).2.1.length = ((List.range 32).filter (laneOn col)).length := by
  rw [← length_rowLanes col r, ← vqntRow_fst fmt (pre.vr va) (lanesOn col (32 * r) 32), List.length_map]
  rfl

/-- The register with the rows written. -/
def quantised (old : VReg) : VReg :=
  BitVec.ofNat 4096 (setAll old.toNat ((List.range 4).flatMap (rowFields (elemBits fmt) (quantRow pre col va fmt))))

set_option exponentiation.threshold 4096 in
/-- A field that a row sets reads as what was set. -/
theorem quantised_field (old : VReg) (hfmt : fmt ≤ 5) {r : Nat} (hr : r < 4) {e : Nat × Nat × Nat}
    (he : e ∈ rowFields (elemBits fmt) (quantRow pre col va fmt) r) :
    (quantised pre col va fmt old).toNat / 2 ^ e.1 % 2 ^ e.2.1 = e.2.2 % 2 ^ e.2.1 := by
  have hw := elemBits_le fmt hfmt
  have hin := mem_rowFields hw (quantRow_lanes pre col va fmt) he
  have hle : e.1 + e.2.1 ≤ 4096 := by omega
  rw [quantised, BitVec.toNat_ofNat, mod_bits _ _ _ _ hle]
  exact setAll_get _ _ (fields_disjoint hw (quantRow_lanes pre col va fmt)) e (List.mem_flatMap.2 ⟨r, List.mem_range.2 hr, he⟩)

end Rows

/-- The counts of the four rows (R69). -/
theorem rows_elems (pre : CoreRegs) (col : W32) (va : BitVec 6) (fmt : Nat) :
    (((List.range 4).map (fun r => (r, quantRow pre col va fmt r))).map (fun rr => rr.2.2.1.length)).foldl (· + ·) 0 =
      4 * ((List.range 32).filter (laneOn col)).length := by
  simp only [List.map_map, Function.comp_def, length_quantRow, List.map_const', List.length_range, List.replicate, List.foldl_cons,
    List.foldl_nil]
  omega

theorem rows_saturated (row : Nat → Nat × List (Nat × Nat) × Nat) :
    (((List.range 4).map (fun r => (r, row r))).map (fun rr => rr.2.2.2)).foldl (· + ·) 0 =
      (row 0).2.2 + (row 1).2.2 + (row 2).2.2 + (row 3).2.2 := by
  simp [List.range_succ]

/-- The registers after VQNT. -/
def quantRegs (pre now : CoreRegs) (col : W32) (vd va : BitVec 6) (fmt : Nat) : CoreRegs :=
  let row := quantRow pre col va fmt
  (now.vw vd (quantised pre col va fmt (now.vr vd))).countQnt (4 * ((List.range 32).filter (laneOn col)).length)
    ((row 0).2.2 + (row 1).2.2 + (row 2).2.2 + (row 3).2.2)

theorem exec_vqnt {s : State} {b : Slot} {p : Nat} {c : Core} (vd va : BitVec 6) {fmt : BitVec 4} (h : s.Issues b p c) (hfmt : fmt.toNat ≤ 5) :
    exec (.vqnt b vd va fmt) s = .next (s.issued p c (quantRegs c.pre c.now (c.pre.colMask b.pm) vd va fmt.toNat)) := by
  refine (exec_ok_eq rfl _ h (if_neg (not_lt.2 hfmt))).trans ?_
  have hrows := foldl_rows_eq (elemBits fmt.toNat) (quantRow c.pre (c.pre.colMask b.pm) va fmt.toNat) (List.range 4) (c.now.vr vd).toNat
  have helems := rows_elems c.pre (c.pre.colMask b.pm) va fmt.toNat
  have hsat := rows_saturated (quantRow c.pre (c.pre.colMask b.pm) va fmt.toNat)
  unfold quantRow at hrows helems hsat
  dsimp only at hrows helems hsat ⊢
  rw [hrows, helems, hsat]
  rfl

/-- Settles O10: it holds; the codes and the scales that the rows set are bit fields that do not overlap. -/
theorem quantisedRows : Obligations.QuantisedRows := by
  unfold Obligations.QuantisedRows
  intro s b p c vd va fmt h
  refine ⟨fun hbad => exec_stop rfl _ h (if_pos hbad), fun hfmt => ⟨_, exec_vqnt vd va h hfmt, ?_⟩⟩
  rw [State.core_issued]
  have hself : (quantRegs c.pre c.now (c.pre.colMask b.pm) vd va fmt.toNat).vr vd =
      quantised c.pre (c.pre.colMask b.pm) va fmt.toNat (c.now.vr vd) := vw_vr_self c.now vd _
  refine ⟨rfl, rfl, fun r hr => vw_vr_ne c.now _ hr, fun r hr => ?fields, rfl, rfl⟩
  case fields =>
    rw [hself]
    exact ⟨quantised_field c.pre _ va _ _ hfmt hr (List.mem_append_right _ (List.mem_singleton_self _)),
      fun e he => quantised_field c.pre _ va _ _ hfmt hr (List.mem_append_left _ (List.mem_map_of_mem he))⟩

/-! Loads and stores (R37, R41, R50, R51). -/

section Stored
variable (m : Mem) (col : W32) (a : Nat) (v : VReg)

/-- The writes of the enabled lanes. -/
def laneWrites : List (Nat × Nat × Nat) := ((List.range 128).filter (laneOn col)).map (fun j => (a + 4 * j, 4, (lane v j).toNat))

theorem mem_laneWrites {w : Nat × Nat × Nat} (hw : w ∈ laneWrites col a v) :
    ∃ j, j < 128 ∧ laneOn col j = true ∧ w = (a + 4 * j, 4, (lane v j).toNat) := by
  obtain ⟨j, hj, rfl⟩ := List.mem_map.1 hw
  obtain ⟨hj, hon⟩ := List.mem_filter.1 hj
  exact ⟨j, List.mem_range.1 hj, hon, rfl⟩

theorem laneWrites_disjoint : (laneWrites col a v).Pairwise (fun v w => v.1 + v.2.1 ≤ w.1 ∨ w.1 + w.2.1 ≤ v.1) := by
  rw [laneWrites, List.pairwise_map]
  refine (List.Pairwise.filter _ List.pairwise_lt_range).imp fun {i j} hij => ?_
  dsimp only
  omega

theorem rdLE_storeV {j : Nat} (hj : j < 128) : Mem.rdLE (storeV m col a v) (a + 4 * j) 4 =
    if laneOn col j then (lane v j).toNat else Mem.rdLE m (a + 4 * j) 4 := by
  rw [storeV_eq]
  change Mem.rdLE (Mem.wrAll m (laneWrites col a v)) _ _ = _
  split
  · next hon =>
    have hmem : (a + 4 * j, 4, (lane v j).toNat) ∈ laneWrites col a v :=
      List.mem_map.2 ⟨j, List.mem_filter.2 ⟨List.mem_range.2 hj, hon⟩, rfl⟩
    exact (Mem.rdLE_wrAll m _ (laneWrites_disjoint col a v) _ hmem).trans (Nat.mod_eq_of_lt (lane v j).isLt)
  · next hoff =>
    refine Mem.rdLE_wrAll_out _ _ _ _ fun w hw => ?_
    obtain ⟨k, -, hon, rfl⟩ := mem_laneWrites col a v hw
    have hkj : k ≠ j := fun h => hoff (h ▸ hon)
    dsimp only
    omega

theorem rd_storeV_out {x : Nat} (hx : x < a ∨ a + 512 ≤ x) : Mem.rd (storeV m col a v) x = Mem.rd m x := by
  rw [storeV_eq]
  refine Mem.rd_wrAll_out _ _ _ fun w hw => ?_
  obtain ⟨k, hk, -, rfl⟩ := mem_laneWrites col a v hw
  dsimp only
  omega

end Stored

section Loads
variable {s : State} {i : Instr} {b : Slot} {p : Nat} {c : Core} {f : CoreRegs → CoreRegs → SlotRes} {tr tw ar aw : List (Nat × Nat)}
  (h : s.Issues b p c) (he : exec i s = .next (slotOp b f s))
include h he

/-- A command that reads under guard and takes 512 bytes of a store into the enabled lanes of vd. -/
theorem load_ok (store : CoreRegs → Mem) (a : Nat) (col : W32) (vd : BitVec 6)
    (hf : f c.pre c.now = c.now.guarded tr tw ar aw (.stop E_CORE_ECC) (fun r =>
      .ok (r.vw vd (mapLanes col (r.vr vd) (lane (loadV (store r) a)))))) :
    OverStores i s p c tr tw ar aw (fun c => VectorWrites i s p c col vd .int32 (fun j => Mem.rdLE (store c.now) (a + 4 * j) 4)) := by
  refine ⟨fun hbad => exec_stop he E_CORE_ECC h (hf.trans (guarded_of_none hbad _ _)), fun r hr => ?_⟩
  have hok := exec_ok_eq he _ h (hf.trans (guarded_of_some hr _ _))
  rw [mapLanes_eq] at hok
  exact vectorWrites_of_next (c := ⟨r, c.pre⟩) (w := r.work) hok fun k hk => congrArg (· % _) (lane_loadV _ _ _ hk)

end Loads

/-- Settles O11: it holds. -/
theorem vectorMemory : Obligations.VectorMemory := by
  unfold Obligations.VectorMemory
  intro s b p c vd sa off h a col wait rs stored
  have hstored : ∀ m, stored m (storeV m col a.toNat (c.pre.vr vd)) := fun m =>
    ⟨fun j hj => rdLE_storeV m col a.toNat _ hj, fun x hx => rd_storeV_out m col a.toNat _ hx⟩
  refine ⟨fun hok => ⟨?vld, ?vst⟩, fun hok => ?acc, fun hbad => ⟨exec_stop rfl _ h (if_neg (ne_true_of_eq_false hbad)),
    exec_stop rfl _ h (if_neg (ne_true_of_eq_false hbad))⟩, fun hbad => ⟨exec_stop rfl _ h (if_pos (by simpa using hbad)),
    exec_stop rfl _ h (if_pos (by simpa using hbad))⟩⟩
  case vld => exact load_ok h rfl (fun r => r.tb) _ _ _ (if_pos hok)
  case vst =>
    refine overStores_ok rfl h (fun r => { r with tb := storeV r.tb col a.toNat (c.pre.vr vd) }) (if_pos hok) fun r t ht hcore => ?_
    rw [hcore]
    exact ⟨ht, rfl, hstored r.tb⟩
  case acc =>
    have hnot : ¬(!vaddrOk a Config.accBytes) = true := by simp [hok]
    refine ⟨fun hheld => exec_stall rfl h ((if_neg hnot).trans (if_pos hheld)), fun hfree => ?vlda,
      fun hheld => exec_stall rfl h ((if_neg hnot).trans (if_pos hheld)), fun hfree => ?vsta⟩
    case vlda => exact load_ok h rfl (fun r => r.am) _ _ _ ((if_neg hnot).trans (if_neg (ne_true_of_eq_false hfree)))
    case vsta =>
      refine overStores_ok rfl h (fun r => { r with am := storeV r.am col a.toNat (c.pre.vr vd) })
        ((if_neg hnot).trans (if_neg (ne_true_of_eq_false hfree))) fun r t ht hcore => ?_
      rw [hcore]
      exact ⟨ht, rfl, hstored r.am⟩

end Sys2Proof.Machine.VectorSlot

/-! SUPPORT. The vector slot: culture tables, taps, the arg-max, the Welford step and the fused state update. -/
namespace Sys2Proof.Machine.VectorFunctions
open Fields (mapLanes_eq lanesOn_0)
open FoldAndWhey (guarded_of_none guarded_of_some overStores_ok)
open VectorSlot (elems_write vw_vr_self vw_vr_ne)

/-! Two registers written one after the other: where they are one, the second stands. -/

section Two
variable (c : CoreRegs) (vd vc : BitVec 6) (v w : VReg)

theorem vw_vw_fst : ((c.vw vd v).vw vc w).vr vd = if vc = vd then w else v := by
  rw [CoreRegs.vr_vw, vw_vr_self]
  exact if_congr eq_comm rfl rfl

theorem vw_vw_snd : ((c.vw vd v).vw vc w).vr vc = w := vw_vr_self _ _ _

theorem vw_vw_ne {r : BitVec 6} (hd : r ≠ vd) (hc : r ≠ vc) : ((c.vw vd v).vw vc w).vr r = c.vr r := by
  rw [vw_vr_ne _ _ hc, vw_vr_ne _ _ hd]

end Two

/-- A masked element whose value fits its type. -/
theorem elemAt_masked (ty : VTy) (col : W32) (old : VReg) (g : Nat → Nat) {k : Nat} (hk : k < elemCount ty) (hg : g k < 2 ^ elemWidth ty) :
    elemAt ty (mapElems ty col old g) k = if laneOn col (elemLane ty k) = false then elemAt ty old k else g k := by
  rw [elemAt_mapElems _ _ _ _ _ hk, Nat.mod_eq_of_lt hg]
  cases laneOn col (elemLane ty k) <;> rfl

theorem channel_fits (ty : VTy) (n : Nat) : n % 65536 < 2 ^ elemWidth ty := by
  have hn : n % 65536 < 65536 := Nat.mod_lt _ (by decide)
  unfold elemWidth
  split <;> omega

/-- Settles O12: it holds. -/
theorem tablesTapsAndArgMax : Obligations.TablesTapsAndArgMax := by
  unfold Obligations.TablesTapsAndArgMax
  intro s b p c vd va ty f h hf col x
  refine ⟨fun slot => ⟨fun tb hpend hact => ?lookup, fun hpend hact => ?empty, fun hpend => exec_stall rfl h (if_pos hpend)⟩, ?tap, ?amax⟩
  case lookup =>
    refine elems_write h _ (c.now.count 4 (lanesOn col 0 128).length).work rfl ?_ fun k _ => rfl
    dsimp only
    rw [hpend, hact]
    rfl
  case empty =>
    refine exec_stop rfl _ h ?_
    dsimp only
    rw [hpend, hact]
    rfl
  case tap =>
    intro sb vc w o
    refine ⟨fun hw ho => ?step, fun hbad => ?past⟩
    case step =>
      refine elems_write h (fun k => let win := if o + k < elemCount ty then x va (o + k) else x vc (o + k - elemCount ty)
            roundTo f (seedOf 14 (w % 2 ^ 32) win (x vd k)) (((f32 (BitVec.ofNat 32 w)).mul (.ofBits f win)).add (.ofBits f (x vd k))))
        (c.now.count 3 (lanesOn col 0 128).length).work rfl ?_ fun k _ => rfl
      refine (if_neg ?_).trans ?_
      · rintro (hhigh | hpast)
        · exact hhigh (Nat.div_eq_of_lt hw)
        · exact absurd ho (not_le.2 hpast)
      · rw [hf]
        rfl
    case past =>
      refine exec_stop rfl _ h (if_pos (hbad.imp (fun hw => ?_) id))
      exact (Nat.div_pos hw (by positivity)).ne'
  case amax =>
    intro sb vc takes
    refine exec_ok rfl ((c.now.vw vd (mapElems ty col (c.now.vr vd) (fun k => if takes k then x va k else x vd k))).vw vc
        (mapElems ty col (c.now.vr vc) (fun k => if takes k then (c.pre.sr sb).toNat % 65536 else x vc k))) h ?_ fun t ht hcore => ?_
    · dsimp only
      rw [hf]
      rfl
    rw [hcore]
    refine ⟨ht, rfl, fun r hd hc => vw_vw_ne _ _ _ _ _ hd hc, fun k hk => ?_⟩
    have hmax : (if takes k then x va k else x vd k) < 2 ^ elemWidth ty := by split <;> exact elemAt_lt ..
    have hchan : (if takes k then (c.pre.sr sb).toNat % 65536 else x vc k) < 2 ^ elemWidth ty := by
      split
      · exact channel_fits ty _
      · exact elemAt_lt ..
    have hvc := elemAt_masked ty col (c.now.vr vc) (fun k => if takes k then (c.pre.sr sb).toNat % 65536 else x vc k) hk hchan
    dsimp only
    rw [vw_vw_fst, vw_vw_snd]
    refine ⟨?_, hvc⟩
    split
    · next heq =>
      subst heq
      exact hvc
    · exact elemAt_masked ty col (c.now.vr vd) (fun k => if takes k then x va k else x vd k) hk hmax

/-! The Welford step and the fused state update (06 R176; 07 R184 to R186). -/

section Group
variable (a : Nat) (st : Nat → W32 × Int × Bool) (on : Nat → Bool) (m : Mem)

/-- The writes of one element of a group of ES48 values: its hi part, then its compensation. -/
def elementWrites (j : Nat) : List (Nat × Nat × Nat) :=
  [(a + 4 * j, 4, (st j).1.toNat), (a + 512 + 2 * j, 2, ((st j).2.1 % 65536).toNat)]

/-- The writes of the enabled elements. -/
def groupWrites : List (Nat × Nat × Nat) := ((List.range 128).filter on).flatMap (elementWrites a st)

theorem foldl_elements (js : List Nat) (m : Mem) :
    (js.map (fun j => (j, st j))).foldl (fun m q =>
      Mem.wrLE (Mem.wrLE m (a + 4 * q.1) 4 q.2.1.toNat) (a + 512 + 2 * q.1) 2 (q.2.2.1 % 65536).toNat) m =
    Mem.wrAll m (js.flatMap (elementWrites a st)) := by
  induction js generalizing m with
  | nil => rfl
  | cons j js ih =>
    rw [List.map_cons, List.foldl_cons, ih]
    rfl

theorem mem_elementWrites {j : Nat} {w : Nat × Nat × Nat} (hw : w ∈ elementWrites a st j) :
    (w.1 = a + 4 * j ∧ w.2.1 = 4) ∨ (w.1 = a + 512 + 2 * j ∧ w.2.1 = 2) := by
  simp only [elementWrites, List.mem_cons, List.not_mem_nil, or_false] at hw
  obtain rfl | rfl := hw
  · exact .inl ⟨rfl, rfl⟩
  · exact .inr ⟨rfl, rfl⟩

theorem mem_groupWrites {w : Nat × Nat × Nat} (hw : w ∈ groupWrites a st on) :
    ∃ j, j < 128 ∧ on j = true ∧ ((w.1 = a + 4 * j ∧ w.2.1 = 4) ∨ (w.1 = a + 512 + 2 * j ∧ w.2.1 = 2)) := by
  obtain ⟨j, hj, hw⟩ := List.mem_flatMap.1 hw
  obtain ⟨hj, hon⟩ := List.mem_filter.1 hj
  exact ⟨j, List.mem_range.1 hj, hon, mem_elementWrites a st hw⟩

theorem groupWrites_disjoint : (groupWrites a st on).Pairwise (fun v w => v.1 + v.2.1 ≤ w.1 ∨ w.1 + w.2.1 ≤ v.1) := by
  rw [groupWrites, List.pairwise_flatMap]
  constructor
  · intro j hj
    have hj := List.mem_range.1 (List.mem_filter.1 hj).1
    simp only [elementWrites, List.pairwise_cons, List.mem_singleton, forall_eq, List.not_mem_nil, false_implies, implies_true,
      List.Pairwise.nil, and_true]
    omega
  · refine (List.pairwise_lt_range.filter on).imp_of_mem fun {i j} hi hj hij v hv w hw => ?_
    have hi := List.mem_range.1 (List.mem_filter.1 hi).1
    have hj := List.mem_range.1 (List.mem_filter.1 hj).1
    have hv := mem_elementWrites a st hv
    have hw := mem_elementWrites a st hw
    omega

theorem group_hi {j : Nat} (hj : j < 128) (hon : on j = true) : Mem.rdLE (Mem.wrAll m (groupWrites a st on)) (a + 4 * j) 4 = (st j).1.toNat := by
  have hmem : (a + 4 * j, 4, (st j).1.toNat) ∈ groupWrites a st on :=
    List.mem_flatMap.2 ⟨j, List.mem_filter.2 ⟨List.mem_range.2 hj, hon⟩, List.mem_cons_self⟩
  exact (Mem.rdLE_wrAll m _ (groupWrites_disjoint a st on) _ hmem).trans (Nat.mod_eq_of_lt (st j).1.isLt)

theorem group_comp {j : Nat} (hj : j < 128) (hon : on j = true) :
    Mem.rdLE (Mem.wrAll m (groupWrites a st on)) (a + 512 + 2 * j) 2 = ((st j).2.1 % 65536).toNat := by
  have hmem : (a + 512 + 2 * j, 2, ((st j).2.1 % 65536).toNat) ∈ groupWrites a st on :=
    List.mem_flatMap.2 ⟨j, List.mem_filter.2 ⟨List.mem_range.2 hj, hon⟩, List.mem_cons_of_mem _ List.mem_cons_self⟩
  refine (Mem.rdLE_wrAll m _ (groupWrites_disjoint a st on) _ hmem).trans (Nat.mod_eq_of_lt ?_)
  dsimp only
  omega

theorem group_off {j : Nat} (hj : j < 128) (hoff : on j = false) :
    Mem.rdLE (Mem.wrAll m (groupWrites a st on)) (a + 4 * j) 4 = Mem.rdLE m (a + 4 * j) 4 ∧
      Mem.rdLE (Mem.wrAll m (groupWrites a st on)) (a + 512 + 2 * j) 2 = Mem.rdLE m (a + 512 + 2 * j) 2 := by
  constructor <;>
  · refine Mem.rdLE_wrAll_out _ _ _ _ fun w hw => ?_
    obtain ⟨i, hi, hon, hw⟩ := mem_groupWrites a st on hw
    have hij : i ≠ j := fun h => by simp [h, hoff] at hon
    omega

theorem group_out {x : Nat} (hx : x < a ∨ a + 768 ≤ x) : Mem.rd (Mem.wrAll m (groupWrites a st on)) x = Mem.rd m x := by
  refine Mem.rd_wrAll_out _ _ _ fun w hw => ?_
  obtain ⟨i, hi, -, hw⟩ := mem_groupWrites a st on hw
  omega

theorem length_overflows : (((((List.range 128).filter on).map (fun j => (j, st j))).filter (fun q => q.2.2.2)).length) =
    ((List.range 128).filter (fun j => on j && (st j).2.2)).length := by
  rw [List.filter_map, List.length_map, List.filter_filter]
  congr 1
  exact List.filter_congr fun j _ => Bool.and_comm _ _

end Group

/-- The update of element `j` of the group at `a`, of the registers before the bundle and the store as the command reads it (R184). -/
def elementStep (pre now : CoreRegs) (a : Nat) (vb vc : BitVec 6) (j : Nat) : W32 × Int × Bool :=
  es48Step (BitVec.ofNat 32 (Mem.rdLE now.am (a + 4 * j) 4)) (sextN 16 (Mem.rdLE now.am (a + 512 + 2 * j) 2))
    (lane (pre.vr vb) j) (lane (pre.vr vc) j)

/-- The registers after VESU, once its words are read. -/
def stateUpdated (pre now : CoreRegs) (col : W32) (a : Nat) (vd vb vc : BitVec 6) : CoreRegs :=
  let st := elementStep pre now a vb vc
  let am := Mem.wrAll now.am (groupWrites a st (laneOn col))
  ({ now.vw vd (mapLanes col (now.vr vd) (fun j => BitVec.ofNat 32 (Mem.rdLE am (a + 4 * j) 4))) with
      am := am
      stateOvf := now.stateOvf + BitVec.ofNat 64 ((List.range 128).filter (fun j => laneOn col j && (st j).2.2)).length } : CoreRegs).count 3
    ((List.range 128).filter (laneOn col)).length

theorem execVesu_eq (b : Slot) (vd : BitVec 6) (sa : BitVec 4) (vb vc : BitVec 6) (s : State) :
    exec (.vesu b vd sa vb vc) s = .next (slotOp b (fun pre now =>
      let a := (pre.sr sa).toNat
      let js := (List.range 128).filter (laneOn (pre.colMask b.pm))
      if a % 256 ≠ 0 ∨ 195840 < a then .stop E_CORE_OPERAND
      else if pre.amHeld true [(a, 768)] then .stall
      else
        now.guarded [] [] (js.map (fun j => (a + 4 * j, 4)) ++ js.map (fun j => (a + 512 + 2 * j, 2))) [] (.stop E_CORE_ECC) fun now =>
        .ok (stateUpdated pre now (pre.colMask b.pm) a vd vb vc)) s) := by
  refine congrArg (fun f => Host.Outcome.next (slotOp b f s)) (funext fun pre => funext fun now => ?_)
  dsimp only
  rw [lanesOn_0]
  refine if_congr Iff.rfl rfl (if_congr Iff.rfl rfl (congrArg (now.guarded [] [] _ [] _) (funext fun r => congrArg SlotRes.ok ?_)))
  have hfold := foldl_elements (pre.sr sa).toNat (elementStep pre r (pre.sr sa).toNat vb vc) ((List.range 128).filter (laneOn (pre.colMask b.pm))) r.am
  have hcount := length_overflows (elementStep pre r (pre.sr sa).toNat vb vc) (laneOn (pre.colMask b.pm))
  unfold elementStep at hfold hcount
  rw [hfold, hcount]
  rfl

/-- Settles O13: it holds. -/
theorem welfordAndStateUpdate : Obligations.WelfordAndStateUpdate := by
  unfold Obligations.WelfordAndStateUpdate
  intro s b p c h col
  refine ⟨?step, fun vd va sb vc hn => exec_stop rfl _ h (if_pos hn), ?update, fun vd sa vb vc hbad => exec_stop rfl _ h (if_pos hbad)⟩
  case step =>
    intro vd va sb vc hn r
    refine exec_ok rfl ((c.now.vw vd (mapLanes col (c.now.vr vd) (fun j => (r j).1))).vw vc
        (mapLanes col (c.now.vr vc) (fun j => (r j).2))) h (if_neg (not_le.2 hn)) fun t ht hcore => ?_
    rw [hcore]
    refine ⟨ht, rfl, fun r hd hc => vw_vw_ne _ _ _ _ _ hd hc, fun j hj => ?_⟩
    have hvc := lane_mapLanes col (c.now.vr vc) (fun j => (r j).2) j hj
    dsimp only
    rw [vw_vw_fst, vw_vw_snd]
    refine ⟨?_, hvc⟩
    split
    · next heq =>
      subst heq
      exact hvc
    · exact lane_mapLanes col (c.now.vr vd) (fun j => (r j).1) j hj
  case update =>
    intro vd sa vb vc hal hle a js
    have hgroup : ¬(a % 256 ≠ 0 ∨ 195840 < a) := by omega
    refine ⟨fun hheld => exec_stall rfl h ((if_neg hgroup).trans (if_pos hheld)), fun hfree => ?_⟩
    refine overStores_ok (execVesu_eq b vd sa vb vc s) h (fun r => stateUpdated c.pre r col a vd vb vc)
      ((if_neg hgroup).trans (if_neg (ne_true_of_eq_false hfree))) fun r t ht hcore => ?_
    rw [hcore]
    have hlane : ∀ j, j < 128 → lane ((stateUpdated c.pre r col a vd vb vc).vr vd) j = _ := fun j hj =>
      (congrArg (lane · j) (vw_vr_self r vd _)).trans (lane_mapLanes _ _ _ _ hj)
    refine ⟨ht, rfl, fun q hq => vw_vr_ne r _ hq, fun j hj hon => ⟨group_hi _ _ _ _ hj hon, group_comp _ _ _ _ hj hon, ?_⟩,
      fun j hj hoff => ⟨(group_off _ _ _ _ hj hoff).1, (group_off _ _ _ _ hj hoff).2, ?_⟩, fun x => group_out _ _ _ _, rfl⟩
    · rw [hlane j hj, if_pos hon, group_hi _ _ _ _ hj hon, BitVec.ofNat_toNat, BitVec.setWidth_eq]
      rfl
    · rw [hlane j hj, if_neg (ne_true_of_eq_false hoff)]

end Sys2Proof.Machine.VectorFunctions

/-! SUPPORT. The matrix slot: the multiply-accumulate, carries set, cells cleared, and where the matrix slot and a loop stop the core. -/
namespace Sys2Proof.Machine.MatrixSlot
open Cells (CellsOk cells_ok mem_cellsOn both both_read both_out curd_clear_read fold_curd curd_pw setc_fold carry_pw)
open FoldAndWhey (guarded_of_none guarded_of_some overStores_ok tileOk_of_le)

/-- A slot whose matrix operand is out of place: the bundle has issued, and the core will stop (R48, R60). -/
theorem exec_late {s : State} {b : Slot} {p : Nat} {c : Core} {i : Instr} {f : CoreRegs → CoreRegs → SlotRes}
    (he : exec i s = .next (slotOp b f s)) (code : Code) (h : s.Issues b p c) (hf : f c.pre c.now = .late code) :
    exec i s = .next (s.issued p c { c.now with stopping := some code, late := true }) := by
  obtain ⟨hphys, hcool, c0, hbegin, hread⟩ := h.found
  rw [he]
  simp only [slotOp, hphys, hcool, hbegin, hread, hf]
  rfl

theorem not_tileOk {acc : BitVec 8} (h : 172 < acc.toNat) : (!tileOk acc) = true := by
  simpa [tileOk] using h

theorem tile_passes {acc : BitVec 8} (h : acc.toNat ≤ 172) : ¬(!tileOk acc) = true := by
  simp [tileOk_of_le h]

/-! The cells of a tile, written one after another. -/

section Cells
variable (t : Nat) {cells : List (Nat × Nat)} (hc : CellsOk cells) (m : Mem) (g : Nat × Nat → Nat)

/-- The writes of the curd registers of cells, and of their carries. -/
def curdWrites (t : Nat) (g : Nat × Nat → Nat) (cells : List (Nat × Nat)) : List (Nat × Nat × Nat) :=
  cells.map (fun ij => (curdAddr t ij.1 ij.2, 16, g ij))
def carryWrites (t : Nat) (g : Nat × Nat → Nat) (cells : List (Nat × Nat)) : List (Nat × Nat × Nat) :=
  cells.map (fun ij => (carryAddr t ij.1 ij.2, 4, g ij))

theorem rd_curdWrites_out {x : Nat} (h : ∀ ij ∈ cells, x < curdAddr t ij.1 ij.2 ∨ curdAddr t ij.1 ij.2 + 16 ≤ x) :
    Mem.rd (Mem.wrAll m (curdWrites t g cells)) x = Mem.rd m x := by
  refine Mem.rd_wrAll_out _ _ _ fun w hw => ?_
  obtain ⟨ij, hij, rfl⟩ := List.mem_map.1 hw
  exact h ij hij

theorem rd_carryWrites_out {x : Nat} (h : ∀ ij ∈ cells, x < carryAddr t ij.1 ij.2 ∨ carryAddr t ij.1 ij.2 + 4 ≤ x) :
    Mem.rd (Mem.wrAll m (carryWrites t g cells)) x = Mem.rd m x := by
  refine Mem.rd_wrAll_out _ _ _ fun w hw => ?_
  obtain ⟨ij, hij, rfl⟩ := List.mem_map.1 hw
  exact h ij hij

include hc

theorem rdLE_curdWrites {ij : Nat × Nat} (hij : ij ∈ cells) :
    Mem.rdLE (Mem.wrAll m (curdWrites t g cells)) (curdAddr t ij.1 ij.2) 16 = g ij % 2 ^ 128 := by
  have hmem : (curdAddr t ij.1 ij.2, 16, g ij) ∈ curdWrites t g cells := List.mem_map_of_mem (f := fun ij => (curdAddr t ij.1 ij.2, 16, g ij)) hij
  rw [show (2 : Nat) ^ 128 = 256 ^ 16 by norm_num]
  exact Mem.rdLE_wrAll m _ (curd_pw t g cells hc) (curdAddr t ij.1 ij.2, 16, g ij) hmem

theorem rdLE_carryWrites {ij : Nat × Nat} (hij : ij ∈ cells) :
    Mem.rdLE (Mem.wrAll m (carryWrites t g cells)) (carryAddr t ij.1 ij.2) 4 = g ij % 2 ^ 32 := by
  have hmem : (carryAddr t ij.1 ij.2, 4, g ij) ∈ carryWrites t g cells := List.mem_map_of_mem (f := fun ij => (carryAddr t ij.1 ij.2, 4, g ij)) hij
  rw [show (2 : Nat) ^ 32 = 256 ^ 4 by norm_num]
  exact Mem.rdLE_wrAll m _ (carry_pw t g cells hc) (carryAddr t ij.1 ij.2, 4, g ij) hmem

end Cells

/-- What holds of every cell that takes part holds of the cells of a tile's list. -/
theorem forall_cellsOn {row col : W32} {Q : Nat → Nat → Prop} (h : ∀ i j, i < 32 → j < 32 → (row.getLsbD i && col.getLsbD j) = true → Q i j) :
    ∀ ij ∈ cellsOn row col, Q ij.1 ij.2 := by
  intro ij hij
  obtain ⟨hi, hj, hpart⟩ := (mem_cellsOn row col ij.1 ij.2).1 hij
  exact h ij.1 ij.2 hi hj hpart

/-! Multiply-accumulate (R45, R46, R48, R72, R74). -/

section Mma
variable (P : Pair) (tb : Mem) (fa fb a bb t : Nat) (first : Bool)

/-- The register of a cell once its micro-block is added. -/
def blockAdded (c : CoreRegs) (ij : Nat × Nat) : Curd :=
  Curd.addBlock P (if first then .clear else c.curd t ij.1 ij.2) (operandRow c.tb fa a ij.1).1 (operandRow c.tb fb bb ij.2).1
    (operandRow c.tb fa a ij.1).2 (operandRow c.tb fb bb ij.2).2

theorem mmaCells_eq {cells : List (Nat × Nat)} (hc : CellsOk cells) (c : CoreRegs) : mmaCells P c.tb fa fb a bb t first cells c =
    { c with am := Mem.wrAll c.am (curdWrites t (fun ij => (blockAdded P fa fb a bb t first c ij).toNat) cells) } :=
  fold_curd t (fun ij old => Curd.addBlock P (if first then .clear else old) (operandRow c.tb fa a ij.1).1 (operandRow c.tb fb bb ij.2).1
    (operandRow c.tb fa a ij.1).2 (operandRow c.tb fb bb ij.2).2) cells hc c

end Mma

/-- The address registers after a post-increment (R46). -/
def stepAddresses (pre : CoreRegs) (aReg bReg : BitVec 4) (fa fb : Nat) (postInc : Bool) (c : CoreRegs) : CoreRegs :=
  if postInc then (c.sw aReg (pre.sr aReg + BitVec.ofNat 64 (operandSize fa))).sw bReg (pre.sr bReg + BitVec.ofNat 64 (operandSize fb)) else c

section Step
variable (pre : CoreRegs) (aReg bReg : BitVec 4) (fa fb : Nat) (postInc : Bool) (c : CoreRegs)

theorem stepAddresses_frame : stepAddresses pre aReg bReg fa fb postInc c = { c with sregs := (stepAddresses pre aReg bReg fa fb postInc c).sregs } := by
  unfold stepAddresses
  split
  · rw [CoreRegs.sw_frame, CoreRegs.sw_frame c aReg]
  · rfl

theorem stepAddresses_sr (r : BitVec 4) : (stepAddresses pre aReg bReg fa fb postInc c).sr r =
    if postInc = true ∧ r = bReg ∧ bReg ≠ 0 then pre.sr bReg + BitVec.ofNat 64 (operandSize fb)
    else if postInc = true ∧ r = aReg ∧ aReg ≠ 0 then pre.sr aReg + BitVec.ofNat 64 (operandSize fa)
    else c.sr r := by
  unfold stepAddresses
  cases postInc
  · simp
  · simp only [if_true, true_and, CoreRegs.sr_sw]

end Step

/-- The registers after MMA, once its words are read and its checks passed. -/
def mmaRegs (P : Pair) (pre : CoreRegs) (aReg bReg : BitVec 4) (t : Nat) (postInc first : Bool) (cells : List (Nat × Nat)) (c : CoreRegs) : CoreRegs :=
  let fa := pre.mfmtA.toNat
  let fb := pre.mfmtB.toNat
  stepAddresses pre aReg bReg fa fb postInc
    ((mmaCells P c.tb fa fb (pre.sr aReg).toNat (pre.sr bReg).toNat t first cells c).count (macEvent fa fb) (32 * cells.length))

/-- What MMA does with its words read: the checks of R74 on the cells that take part, then the micro-block. -/
def mmaChecked (P : Pair) (pre : CoreRegs) (aReg bReg : BitVec 4) (t : Nat) (postInc first : Bool) (cells : List (Nat × Nat)) (c : CoreRegs) :
    SlotRes :=
  if !first && cells.any (fun ij => (c.curd t ij.1 ij.2).mbc == 32) then .stop E_CORE_KBLOCK
  else if !first && cells.any (fun ij => (c.curd t ij.1 ij.2).mbc != 0 && (c.curd t ij.1 ij.2).pair != P.code) then .stop E_CORE_FMT
  else .ok (mmaRegs P pre aReg bReg t postInc first cells c)

/-- What MMA does, in the order of R74. -/
def mmaRes (pm : BitVec 2) (aReg bReg : BitVec 4) (acc : BitVec 8) (postInc first : Bool) (pre now : CoreRegs) : SlotRes :=
  let fa := pre.mfmtA.toNat
  let fb := pre.mfmtB.toNat
  let cells := cellsOn (pre.rowMask pm) (pre.colMask pm)
  match pairOf fa fb with
  | none => .stop E_CORE_FMT
  | some P =>
    if !tileOk acc then .stop E_CORE_OPERAND
    else if !(tbOk (pre.sr aReg).toNat (operandSize fa) && tbOk (pre.sr bReg).toNat (operandSize fb)) then .late E_CORE_OPERAND
    else if pre.tileHeld acc.toNat then .stall
    else now.guarded [((pre.sr aReg).toNat, operandSize fa), ((pre.sr bReg).toNat, operandSize fb)] []
      (if first then [] else curdRanges acc.toNat cells) (curdRanges acc.toNat cells) (.stop E_CORE_ECC)
      (fun now => mmaChecked P pre aReg bReg acc.toNat postInc first cells now)

theorem execMma_eq (b : Slot) (aReg bReg : BitVec 4) (acc : BitVec 8) (postInc first : Bool) (s : State) :
    exec (.mma b aReg bReg acc postInc first) s = .next (slotOp b (mmaRes b.pm aReg bReg acc postInc first) s) := rfl

section MmaRes
variable {pm : BitVec 2} {aReg bReg : BitVec 4} {acc : BitVec 8} {postInc first : Bool} {pre now : CoreRegs} {P : Pair}

theorem mmaRes_noPair (h : pairOf pre.mfmtA.toNat pre.mfmtB.toNat = none) :
    mmaRes pm aReg bReg acc postInc first pre now = .stop E_CORE_FMT := by
  unfold mmaRes
  dsimp only
  rw [h]

variable (hpair : pairOf pre.mfmtA.toNat pre.mfmtB.toNat = some P)
include hpair

theorem mmaRes_noTile (hacc : 172 < acc.toNat) : mmaRes pm aReg bReg acc postInc first pre now = .stop E_CORE_OPERAND := by
  unfold mmaRes
  dsimp only
  rw [hpair]
  exact if_pos (not_tileOk hacc)

variable (hacc : acc.toNat ≤ 172)
include hacc

theorem mmaRes_operand (h : tbOk (pre.sr aReg).toNat (operandSize pre.mfmtA.toNat) = false ∨
    tbOk (pre.sr bReg).toNat (operandSize pre.mfmtB.toNat) = false) :
    mmaRes pm aReg bReg acc postInc first pre now = .late E_CORE_OPERAND := by
  unfold mmaRes
  dsimp only
  rw [hpair]
  refine (if_neg (tile_passes hacc)).trans (if_pos ?_)
  obtain h | h := h <;> simp [h]

variable (ha : tbOk (pre.sr aReg).toNat (operandSize pre.mfmtA.toNat) = true) (hb : tbOk (pre.sr bReg).toNat (operandSize pre.mfmtB.toNat) = true)
include ha hb

theorem mmaRes_held (h : pre.tileHeld acc.toNat = true) : mmaRes pm aReg bReg acc postInc first pre now = .stall := by
  unfold mmaRes
  dsimp only
  rw [hpair]
  exact (if_neg (tile_passes hacc)).trans ((if_neg (by simp [ha, hb])).trans (if_pos h))

theorem mmaRes_reads (h : pre.tileHeld acc.toNat = false) : mmaRes pm aReg bReg acc postInc first pre now =
    now.guarded [((pre.sr aReg).toNat, operandSize pre.mfmtA.toNat), ((pre.sr bReg).toNat, operandSize pre.mfmtB.toNat)] []
      (if first then [] else curdRanges acc.toNat (cellsOn (pre.rowMask pm) (pre.colMask pm)))
      (curdRanges acc.toNat (cellsOn (pre.rowMask pm) (pre.colMask pm))) (.stop E_CORE_ECC)
      (fun now => mmaChecked P pre aReg bReg acc.toNat postInc first (cellsOn (pre.rowMask pm) (pre.colMask pm)) now) := by
  unfold mmaRes
  dsimp only
  rw [hpair]
  exact (if_neg (tile_passes hacc)).trans ((if_neg (by simp [ha, hb])).trans (if_neg (ne_true_of_eq_false h)))

end MmaRes

section MmaChecked
variable {P : Pair} {pre : CoreRegs} {aReg bReg : BitVec 4} {t : Nat} {postInc first : Bool} {cells : List (Nat × Nat)} {c : CoreRegs}

theorem mmaChecked_ok (h : first = false → ∀ ij ∈ cells, (c.curd t ij.1 ij.2).mbc ≠ 32 ∧
      ((c.curd t ij.1 ij.2).mbc = 0 ∨ (c.curd t ij.1 ij.2).pair = P.code)) :
    mmaChecked P pre aReg bReg t postInc first cells c = .ok (mmaRegs P pre aReg bReg t postInc first cells c) := by
  refine (if_neg ?_).trans (if_neg ?_) <;>
  · simp only [Bool.and_eq_true, Bool.not_eq_true', List.any_eq_true, not_and, not_exists]
    intro hfirst ij hij
    have hcell := h hfirst ij hij
    simp only [beq_iff_eq, bne_iff_ne]
    tauto

/-- A K-block of 32 micro-blocks takes no other (R74). -/
theorem mmaChecked_full (h : ∃ ij ∈ cells, (c.curd t ij.1 ij.2).mbc = 32) :
    mmaChecked P pre aReg bReg t postInc false cells c = .stop E_CORE_KBLOCK := by
  refine if_pos ?_
  simpa using h

/-- An open K-block takes blocks of its own pair only (R74). -/
theorem mmaChecked_pair (hroom : ∀ ij ∈ cells, (c.curd t ij.1 ij.2).mbc ≠ 32)
    (h : ∃ ij ∈ cells, (c.curd t ij.1 ij.2).mbc ≠ 0 ∧ (c.curd t ij.1 ij.2).pair ≠ P.code) :
    mmaChecked P pre aReg bReg t postInc false cells c = .stop E_CORE_FMT := by
  refine (if_neg ?_).trans (if_pos ?_)
  · simpa using hroom
  · simpa using h

end MmaChecked

section MmaRegs
variable {P : Pair} {pre : CoreRegs} {aReg bReg : BitVec 4} {t : Nat} {postInc first : Bool} {row col : W32} {c : CoreRegs}

theorem mmaRegs_am (hc : CellsOk (cellsOn row col)) : (mmaRegs P pre aReg bReg t postInc first (cellsOn row col) c).am =
    Mem.wrAll c.am (curdWrites t (fun ij => (blockAdded P pre.mfmtA.toNat pre.mfmtB.toNat (pre.sr aReg).toNat (pre.sr bReg).toNat t first c ij).toNat)
      (cellsOn row col)) := by
  rw [mmaRegs, stepAddresses_frame, mmaCells_eq _ _ _ _ _ _ _ hc]
  rfl

theorem mmaRegs_frame (hc : CellsOk (cellsOn row col)) : mmaRegs P pre aReg bReg t postInc first (cellsOn row col) c =
    { c with
      am := (mmaRegs P pre aReg bReg t postInc first (cellsOn row col) c).am
      sregs := (mmaRegs P pre aReg bReg t postInc first (cellsOn row col) c).sregs
      work := (c.count (macEvent pre.mfmtA.toNat pre.mfmtB.toNat) (32 * (cellsOn row col).length)).work } := by
  rw [mmaRegs, stepAddresses_frame, mmaCells_eq _ _ _ _ _ _ _ hc]
  rfl

theorem mmaRegs_sr (hc : CellsOk (cellsOn row col)) (r : BitVec 4) : (mmaRegs P pre aReg bReg t postInc first (cellsOn row col) c).sr r =
    if postInc = true ∧ r = bReg ∧ bReg ≠ 0 then pre.sr bReg + BitVec.ofNat 64 (operandSize pre.mfmtB.toNat)
    else if postInc = true ∧ r = aReg ∧ aReg ≠ 0 then pre.sr aReg + BitVec.ofNat 64 (operandSize pre.mfmtA.toNat)
    else c.sr r := by
  rw [mmaRegs, stepAddresses_sr, mmaCells_eq _ _ _ _ _ _ _ hc]
  rfl

theorem mmaRegs_cell (hc : CellsOk (cellsOn row col)) {i j : Nat} (hij : (i, j) ∈ cellsOn row col) :
    Mem.rdLE (mmaRegs P pre aReg bReg t postInc first (cellsOn row col) c).am (curdAddr t i j) 16 =
      (blockAdded P pre.mfmtA.toNat pre.mfmtB.toNat (pre.sr aReg).toNat (pre.sr bReg).toNat t first c (i, j)).toNat % 2 ^ 128 := by
  rw [mmaRegs_am hc]
  have hread := rdLE_curdWrites t hc c.am
    (fun ij => (blockAdded P pre.mfmtA.toNat pre.mfmtB.toNat (pre.sr aReg).toNat (pre.sr bReg).toNat t first c ij).toNat) hij
  exact hread

theorem mmaRegs_out (hc : CellsOk (cellsOn row col)) {x : Nat}
    (hx : ∀ ij ∈ cellsOn row col, x < curdAddr t ij.1 ij.2 ∨ curdAddr t ij.1 ij.2 + 16 ≤ x) :
    Mem.rd (mmaRegs P pre aReg bReg t postInc first (cellsOn row col) c).am x = Mem.rd c.am x := by
  rw [mmaRegs_am hc]
  exact rd_curdWrites_out t c.am _ hx

end MmaRegs

/-- Settles O15: it holds; the micro-blocks are added to cells that do not overlap. -/
theorem multiplyAccumulate : Obligations.MultiplyAccumulate := by
  unfold Obligations.MultiplyAccumulate
  intro s b p c aReg bReg acc postInc first P h hpair fa fb xa xb part hacc ha hb cells
  have hc := cells_ok (c.pre.rowMask b.pm) (c.pre.colMask b.pm)
  refine ⟨fun hheld => exec_stall (execMma_eq b aReg bReg acc postInc first s) h (mmaRes_held hpair hacc ha hb hheld), fun hfree => ?add⟩
  have hreads := mmaRes_reads (pm := b.pm) (postInc := postInc) (first := first) (now := c.now) hpair hacc ha hb hfree
  refine ⟨fun hbad => exec_stop (execMma_eq ..) _ h (hreads.trans (guarded_of_none hbad _ _)), fun r hr hopen => ?_⟩
  have hok := hreads.trans ((guarded_of_some hr _ _).trans (mmaChecked_ok fun hfirst => forall_cellsOn (hopen hfirst)))
  refine exec_ok (execMma_eq ..) _ h hok fun t ht hcore => ?_
  rw [hcore]
  exact ⟨ht, mmaRegs_frame hc, fun i j hi hj hpart => mmaRegs_cell hc ((mem_cellsOn _ _ i j).2 ⟨hi, hj, hpart⟩),
    fun x hx => mmaRegs_out hc (forall_cellsOn hx), fun q => mmaRegs_sr hc q⟩

/-! Carries set and cells cleared (R45, R48). -/

/-- The carries of cells set. -/
def carriesSet (t : Nat) (G : Nat × Nat → W32) (cells : List (Nat × Nat)) (c : CoreRegs) : CoreRegs :=
  { c with am := Mem.wrAll c.am (carryWrites t (fun ij => (G ij).toNat) cells) }

theorem ofNat_mod_word (w : W32) : BitVec.ofNat 32 (w.toNat % 2 ^ 32) = w := by
  rw [Nat.mod_eq_of_lt w.isLt, BitVec.ofNat_toNat, BitVec.setWidth_eq]

theorem carriesSet_carry (t : Nat) (G : Nat × Nat → W32) {cells : List (Nat × Nat)} (hc : CellsOk cells) (c : CoreRegs) {i j : Nat}
    (hij : (i, j) ∈ cells) : (carriesSet t G cells c).carry t i j = G (i, j) := by
  have hread := rdLE_carryWrites t hc c.am (fun ij => (G ij).toNat) hij
  simp only [CoreRegs.carry, carriesSet, hread, ofNat_mod_word]

/-- Where the carry of a cell stands in an operand of MSETC (R45). -/
def carrySource (a : Nat) (bcast : Bool) (i j : Nat) : Nat := a + if bcast then 4 * j else 128 * i + 4 * j

def msetcRes (pm : BitVec 2) (aReg : BitVec 4) (acc : BitVec 8) (bcast : Bool) (pre now : CoreRegs) : SlotRes :=
  let n := if bcast then 128 else 4096
  let cells := cellsOn (pre.rowMask pm) (pre.colMask pm)
  if !tileOk acc then .stop E_CORE_OPERAND
  else if !tbOk (pre.sr aReg).toNat n then .late E_CORE_OPERAND
  else if pre.tileHeld acc.toNat then .stall
  else now.guarded [((pre.sr aReg).toNat, n)] [] [] (carryRanges acc.toNat cells) (.stop E_CORE_ECC) (fun now =>
    .ok (carriesSet acc.toNat (fun ij => BitVec.ofNat 32 (Mem.rdLE now.tb (carrySource (pre.sr aReg).toNat bcast ij.1 ij.2) 4)) cells now))

theorem execMsetc_eq (b : Slot) (aReg : BitVec 4) (acc : BitVec 8) (bcast : Bool) (s : State) :
    exec (.msetc b aReg acc bcast) s = .next (slotOp b (msetcRes b.pm aReg acc bcast) s) := by
  refine congrArg (fun f => Host.Outcome.next (slotOp b f s)) (funext fun pre => funext fun now => ?_)
  unfold msetcRes
  refine if_congr Iff.rfl rfl (if_congr Iff.rfl rfl (if_congr Iff.rfl rfl
    (congrArg (now.guarded _ [] [] _ _) (funext fun r => congrArg SlotRes.ok ?_))))
  have hsource : ∀ ij : Nat × Nat, (pre.sr aReg).toNat + (if bcast = true then 4 * ij.2 else 4 * (32 * ij.1 + ij.2)) =
      carrySource (pre.sr aReg).toNat bcast ij.1 ij.2 := by
    intro ij
    unfold carrySource
    split <;> omega
  simp only [hsource]
  exact setc_fold ..

/-- The cells of a tile cleared: registers and carries. -/
def cellsCleared (t : Nat) (cells : List (Nat × Nat)) (c : CoreRegs) : CoreRegs :=
  { c with am := Mem.wrAll c.am (cells.flatMap (both t (fun _ => (0 : W32).toNat) (fun _ => Curd.clear.toNat))) }

theorem foldl_clear (t : Nat) (cells : List (Nat × Nat)) (c : CoreRegs) :
    cells.foldl (fun c ij => (c.setCarry t ij.1 ij.2 0).setCurd t ij.1 ij.2 .clear) c = cellsCleared t cells c := by
  induction cells generalizing c with
  | nil => rfl
  | cons x l ih =>
    rw [List.foldl_cons, ih]
    simp only [cellsCleared, CoreRegs.setCarry, CoreRegs.setCurd, List.flatMap_cons, both, List.cons_append, List.nil_append, Mem.wrAll_cons]

theorem cellsCleared_cell (t : Nat) {cells : List (Nat × Nat)} (hc : CellsOk cells) (c : CoreRegs) {i j : Nat} (hij : (i, j) ∈ cells) :
    (cellsCleared t cells c).curd t i j = .clear ∧ (cellsCleared t cells c).carry t i j = 0 := by
  obtain ⟨hcarry, hcurd⟩ := both_read t (fun _ => (0 : W32).toNat) (fun _ => Curd.clear.toNat) cells hc c.am (i, j) hij
  dsimp only at hcarry hcurd
  simp only [CoreRegs.curd, CoreRegs.carry, cellsCleared, hcarry, hcurd]
  exact ⟨curd_clear_read, rfl⟩

def mzeroRes (pm : BitVec 2) (acc : BitVec 8) (pre now : CoreRegs) : SlotRes :=
  let cells := cellsOn (pre.rowMask pm) (pre.colMask pm)
  if !tileOk acc then .stop E_CORE_OPERAND
  else if pre.tileHeld acc.toNat then .stall
  else now.guarded [] [] [] (curdRanges acc.toNat cells ++ carryRanges acc.toNat cells) (.stop E_CORE_ECC) (fun now =>
    .ok (cellsCleared acc.toNat cells now))

theorem execMzero_eq (b : Slot) (acc : BitVec 8) (s : State) : exec (.mzero b acc) s = .next (slotOp b (mzeroRes b.pm acc) s) := by
  refine congrArg (fun f => Host.Outcome.next (slotOp b f s)) (funext fun pre => funext fun now => ?_)
  exact if_congr Iff.rfl rfl (if_congr Iff.rfl rfl (congrArg (now.guarded [] [] [] _ _) (funext fun r => congrArg SlotRes.ok (foldl_clear ..))))

/-- Settles O16: it holds. -/
theorem carriesSetAndCellsCleared : Obligations.CarriesSetAndCellsCleared := by
  unfold Obligations.CarriesSetAndCellsCleared
  intro s b p c acc h hacc part cells wait
  have hc := cells_ok (c.pre.rowMask b.pm) (c.pre.colMask b.pm)
  refine ⟨fun aReg bcast ha => ?set, fun hheld => ?waits, fun hfree => ?clear⟩
  case set =>
    have hop : ¬(!tbOk (c.pre.sr aReg).toNat (if bcast then 128 else 4096)) = true := by simp [ha]
    refine ⟨fun hheld => exec_stall (execMsetc_eq ..) h ((if_neg (tile_passes hacc)).trans ((if_neg hop).trans (if_pos hheld))), fun hfree => ?_⟩
    refine overStores_ok (execMsetc_eq ..) h _ ((if_neg (tile_passes hacc)).trans ((if_neg hop).trans (if_neg (ne_true_of_eq_false hfree))))
      fun r t ht hcore => ?_
    rw [hcore]
    exact ⟨ht, rfl, fun i j hi hj hpart => carriesSet_carry acc.toNat _ hc r ((mem_cellsOn _ _ i j).2 ⟨hi, hj, hpart⟩),
      fun x hx => rd_carryWrites_out acc.toNat r.am _ (forall_cellsOn hx)⟩
  case waits => exact exec_stall (execMzero_eq ..) h ((if_neg (tile_passes hacc)).trans (if_pos hheld))
  case clear =>
    refine overStores_ok (execMzero_eq ..) h _ ((if_neg (tile_passes hacc)).trans (if_neg (ne_true_of_eq_false hfree))) fun r t ht hcore => ?_
    rw [hcore]
    exact ⟨ht, rfl, fun i j hi hj hpart => cellsCleared_cell acc.toNat hc r ((mem_cellsOn _ _ i j).2 ⟨hi, hj, hpart⟩),
      fun x hx => both_out _ _ _ _ _ _ (forall_cellsOn hx)⟩

/-! Stops (R48, R54, R60, R74, R83). -/

/-- Settles O19: it holds; the checks come in the order of R74. -/
theorem matrixAndLoopStops : Obligations.MatrixAndLoopStops := by
  unfold Obligations.MatrixAndLoopStops
  intro s b p c h stops late part fa fb rd
  refine ⟨fun aReg bReg acc postInc first hpair => exec_stop (execMma_eq ..) _ h (mmaRes_noPair hpair), fun aReg bReg acc postInc first hsome => ?mma,
    fun aReg bReg acc first => ⟨fun hbad => ?mwhTile, fun hacc hbase hop => ?mwhOperand⟩, fun acc init join hbad => ?mfold,
    fun acc hacc => exec_stop (execMzero_eq ..) _ h (if_pos (not_tileOk hacc)),
    fun aReg acc bcast => ⟨fun hacc => exec_stop (execMsetc_eq ..) _ h (if_pos (not_tileOk hacc)),
      fun hacc hop => exec_late (execMsetc_eq ..) _ h ((if_neg (tile_passes hacc)).trans (if_pos (by simpa using hop)))⟩,
    fun lc sc e hsc => exec_stop rfl _ h (if_pos hsc)⟩
  case mma =>
    obtain ⟨P, hpair⟩ := Option.isSome_iff_exists.1 hsome
    refine ⟨fun hacc => exec_stop (execMma_eq ..) _ h (mmaRes_noTile hpair hacc),
      fun hacc hop => exec_late (execMma_eq ..) _ h (mmaRes_operand hpair hacc hop), fun hacc ha hb hfree => ?_⟩
    have hreads := mmaRes_reads (pm := b.pm) (postInc := postInc) (first := false) (now := c.now) hpair hacc ha hb hfree
    refine ⟨fun hbad => exec_stop (execMma_eq ..) _ h (hreads.trans (guarded_of_none hbad _ _)), fun r hr => ⟨?full, ?pair⟩⟩
    case full =>
      rintro ⟨i, j, hi, hj, hpart, hfull⟩
      exact exec_stop (execMma_eq ..) _ h (hreads.trans ((guarded_of_some hr _ _).trans
        (mmaChecked_full ⟨(i, j), (mem_cellsOn _ _ i j).2 ⟨hi, hj, hpart⟩, hfull⟩)))
    case pair =>
      rintro hroom ⟨i, j, hi, hj, hpart, hopen, hother⟩
      exact exec_stop (execMma_eq ..) _ h (hreads.trans ((guarded_of_some hr _ _).trans
        (mmaChecked_pair (forall_cellsOn hroom) ⟨(i, j), (mem_cellsOn _ _ i j).2 ⟨hi, hj, hpart⟩, hopen, hother P hpair⟩)))
  case mwhTile =>
    refine exec_stop (FoldAndWhey.execMwh_eq ..) _ h (if_pos ?_)
    obtain hacc | ⟨rfl, hbase⟩ := hbad
    · simp [not_tileOk hacc]
    · simp [hbase]
  case mwhOperand =>
    have hpass := FoldAndWhey.tileChecks_pass (!first) hacc (base := c.now.wheyBase) (by simpa using hbase)
    refine exec_late (FoldAndWhey.execMwh_eq ..) _ h ((if_neg (ne_true_of_eq_false hpass)).trans (if_pos ?_))
    obtain hop | hop := hop <;> simp [hop]
  case mfold =>
    refine exec_stop (FoldAndWhey.execMfold_eq ..) _ h (if_pos ?_)
    obtain hacc | ⟨rfl, hbase⟩ := hbad
    · simp [not_tileOk hacc]
    · simp [hbase]

end Sys2Proof.Machine.MatrixSlot

/-! SUPPORT. Starts, halts and stops of cores, and what a fault takes back. -/
namespace Sys2Proof.Machine.StartAndStop
open SlotCommands (exec_slot clu_post)
open Stopping (stopNow_nil stopNow_busy stopNow_facts posted_none)
open ScalarSlots (ctrlSet writeCtrl_eq writeCtrl_starts started_loop_inactive exec_coreRun)

/-! Faults (R37, R60). -/

/-- A bundle whose word cannot be read stops the core. -/
theorem slotOp_unread {s : State} {b : Slot} {p : Nat} {c : Core} (f : CoreRegs → CoreRegs → SlotRes) (hp : s.physOf b.core = some p)
    (hcool : (b.first && s.pwr.stopped.contains (dieOfCore b.core)) = false) (hbegin : (s.core p).begin b.first = some c)
    (hread : c.read b.first = none) : slotOp b f s = (s.setCore p c).coreStop p E_CORE_ECC := by
  simp only [slotOp, hp, hcool, hbegin, hread]
  rfl

theorem touch_clean {c : CoreRegs} (h : c.flips = []) (k : Nat) (rd wr : List (Nat × Nat)) : c.touch k rd wr = some c := if_pos h

theorem guarded_clean {c : CoreRegs} (h : c.flips = []) (tr tw ar aw : List (Nat × Nat)) : c.guarded tr tw ar aw none some = some c := by
  unfold CoreRegs.guarded
  rw [touch_clean h, Option.bind_some, touch_clean h]

section Fault
variable (s : State) (p : Nat) (c : Core) (code : Code)

theorem coreStop_nil (h : c.pre.xfers = []) : (s.setCore p c).coreStop p code =
    (s.setCore p ⟨c.pre.stopped code, c.pre.stopped code⟩).post p (.complete p code) := by
  unfold State.coreStop
  rw [State.core_setCore_self]
  dsimp only
  rw [if_pos h, State.setCore_setCore]

theorem coreStop_busy (h : c.pre.xfers ≠ []) : (s.setCore p c).coreStop p code =
    s.setCore p ⟨{ c.pre with stopping := some code }, { c.pre with stopping := some code }⟩ := by
  unfold State.coreStop
  rw [State.core_setCore_self]
  dsimp only
  rw [if_neg h, State.setCore_setCore]

theorem core_coreStop_ne {q : Nat} (hq : q ≠ p) : ((s.setCore p c).coreStop p code).core q = s.core q := by
  by_cases h : c.pre.xfers = []
  · rw [coreStop_nil s p c code h, State.core_post, State.core_setCore, if_neg hq]
  · rw [coreStop_busy s p c code h, State.core_setCore, if_neg hq]

end Fault

/-- The registers that a bundle begins with are those from before it. -/
theorem Issues_pre_of_first {s : State} {b : Slot} {p : Nat} {c : Core} (h : s.Issues b p c) (hfirst : b.first = true) :
    c.pre = (s.core p).now := by
  obtain ⟨-, -, c0, hbegin, hread⟩ := h.found
  obtain ⟨r, -, rfl⟩ := Option.map_eq_some_iff.1 hread
  rw [hfirst] at hbegin
  unfold Core.begin at hbegin
  split at hbegin
  · simp only [if_true] at hbegin
    split at hbegin
    · cases hbegin
      rfl
    · cases hbegin
  · cases hbegin

/-- Settles O18: it holds. -/
theorem faultStopsTheBundle : Obligations.FaultStopsTheBundle := by
  unfold Obligations.FaultStopsTheBundle
  refine ⟨fun s i b p c hi hp hcool hbegin hread => ?unread, fun c tr tw ar aw h => guarded_clean h tr tw ar aw, fun s b p c code h hcode => ?fault⟩
  case unread =>
    obtain ⟨f, hf⟩ := exec_slot hi s
    rw [hf, slotOp_unread f hp hcool hbegin hread]
  case fault =>
    refine ⟨fun hidle => ?_, fun hbusy => ?_, Issues_pre_of_first h, fun q hq => core_coreStop_ne s p c code hq⟩
    · rw [coreStop_nil s p c code hidle]
      refine ⟨?_, ?_⟩
      · rw [State.core_post, State.core_setCore_self]
        simp only [CoreRegs.stopped, if_neg hcode]
      · rw [clu_post, if_pos rfl]
        rfl
    · rw [coreStop_busy s p c code hbusy, State.core_setCore_self]

/-! CORE_RUN and CORE_HALT (R61). -/

/-- A write of CORE_CTRL without a run request, or on a core that runs, sets the register alone. -/
theorem writeCtrl_sets {s : State} {p : Nat} (v : W32)
    (h : (s.core p).now.st = .running ∨ ((s.core p).now.runReq || v.getLsbD 16) = false) : s.writeCtrl p v = s.modCore p (ctrlSet v) := by
  have hself : ((s.modCore p (ctrlSet v)).core p).now = ctrlSet v (s.core p).now := by rw [State.core_modCore_self]
  rw [writeCtrl_eq, State.startHeld, hself]
  split
  · next hreq =>
    have hrun : (ctrlSet v (s.core p).now).st = .running := h.resolve_right (ne_false_of_eq_true hreq)
    unfold State.startCore
    rw [hself]
    exact if_pos hrun
  · rfl

theorem exec_coreHalt {s : State} {k q : Nat} (v : W32) (hq : s.physOf k = some q) :
    exec (.coreHalt k v) s = .next (s.writeCtrl q (v ||| 0x20000)) := by
  change execCoreHalt k v s = _
  simp only [execCoreHalt, hq]

end Sys2Proof.Machine.StartAndStop

/-! SUPPORT. CORE_RUN and CORE_HALT written to a core; how a core completes and what a halo timeout stops. -/
namespace Sys2Proof.Machine.RunControl
open SlotCommands (clu_post)
open Stopping (stopNow_nil stopNow_facts posted_none)
open ScalarSlots (ctrlSet writeCtrl_starts started_loop_inactive exec_coreRun)
open StartAndStop (writeCtrl_sets exec_coreHalt)

/-! CORE_CTRL (R61). -/

/-- Every scalar register but s0 starts with a free value. -/
theorem started_sr (c : CoreRegs) (fv : Nat → Nat) (pc : Nat) {i : BitVec 4} (hi : i ≠ 0) :
    (c.started fv pc).sr i = BitVec.ofNat 64 (fv i.toNat) := by
  have hpos : 1 ≤ i.toNat := by
    have : i.toNat ≠ 0 := fun h => hi (BitVec.eq_of_toNat_eq h)
    omega
  have hlt := i.isLt
  have hfind := AMap.find_range (fun k => BitVec.ofNat 64 (fv (k + 1))) 1 15 i.toNat
  rw [if_pos (by omega), Nat.sub_add_cancel hpos] at hfind
  simp only [CoreRegs.sr, if_neg hi, AMap.getD, CoreRegs.started, hfind, Option.getD_some]

/-- A write of CORE_CTRL that starts a core: the start of O28, at the written start_pc. -/
theorem start_effect {s : State} {p : Nat} {v w : W32} {i : Instr} {halt : Bool} (hexec : exec i s = .next (s.writeCtrl p w))
    (hpc : (w.setWidth 11 : BitVec 11) = v.setWidth 11) (hhalt : ((s.core p).now.halt || w.getLsbD 17) = halt)
    (hst : (s.core p).now.st ≠ .running) (hreq : ((s.core p).now.runReq || w.getLsbD 16) = true) :
    ∃ t, exec i s = .next t ∧ t = { s with cores := t.cores, free := s.free + 1 } ∧ (∀ q, q ≠ p → t.core q = s.core q) ∧
      (let r := (t.core p).now
       (t.core p).pre = r ∧ r.st = .running ∧ r.nextPc = v.toNat % 2048 ∧ r.fault = 0 ∧ r.stopping = none ∧ r.wheyBase = none ∧
       (∀ n, n < 8 → (r.loop n).active = false) ∧ r.sr 0 = 0 ∧
       (∀ i : BitVec 4, i ≠ 0 → r.sr i = BitVec.ofNat 64 (Config.free s.free i.toNat)) ∧
       r = { (s.core p).now with st := r.st, pc := r.pc, fault := r.fault, nextPc := r.nextPc, stopping := r.stopping, late := false,
                                 wheyBase := r.wheyBase, startPc := v.setWidth 11, runReq := false, halt := halt, sregs := r.sregs,
                                 vregs := r.vregs, loops := r.loops, whey := r.whey }) := by
  refine ⟨_, hexec, ?_⟩
  rw [writeCtrl_starts w hst hreq]
  have hcore : ∀ r : CoreRegs, (s.setCore p ⟨r, r⟩).drawn.core p = ⟨r, r⟩ := fun r => State.core_setCore_self ..
  refine ⟨rfl, fun q hq => (State.core_setCore ..).trans (if_neg hq), ?_⟩
  rw [hcore]
  refine ⟨rfl, rfl, ?_, rfl, rfl, rfl, fun n _ => started_loop_inactive _ _ _ n, rfl, fun k hk => started_sr _ _ _ hk, ?_⟩
  · change (w.setWidth 11 : BitVec 11).toNat = _
    rw [hpc, BitVec.toNat_setWidth]
  · simp only [CoreRegs.started, ctrlSet, hpc, hhalt]

section Bits
variable (v : W32)

theorem run_bits : ((v ||| 0x10000).setWidth 11 : BitVec 11) = v.setWidth 11 ∧ (v ||| 0x10000).getLsbD 16 = true ∧
    (v ||| 0x10000).getLsbD 17 = v.getLsbD 17 :=
  ⟨by simp, by simp, by simp⟩

theorem halt_bits : ((v ||| 0x20000).setWidth 11 : BitVec 11) = v.setWidth 11 ∧ (v ||| 0x20000).getLsbD 16 = v.getLsbD 16 ∧
    (v ||| 0x20000).getLsbD 17 = true :=
  ⟨by simp, by simp, by simp⟩

end Bits

/-! Completion (R60). -/

theorem startHeld_none {s : State} {p : Nat} (h : (s.core p).now.runReq = false) : s.startHeld p = s :=
  if_neg (ne_true_of_eq_false h)

/-- A request that CORE_CTRL holds waits while the core runs. -/
theorem startHeld_running {s : State} {p : Nat} (h : (s.core p).now.st = .running) : s.startHeld p = s := by
  unfold State.startHeld State.startCore
  simp only [h, if_true, ite_self]

theorem settleCore_stays {s : State} {p : Nat} (h : (s.core p).now.st ≠ .running ∨ (s.core p).now.xfers ≠ []) : s.settleCore p = s :=
  if_neg (by tauto)

theorem settleCore_stops {s : State} {p : Nat} {code : Code} (hst : (s.core p).now.st = .running) (hx : (s.core p).now.xfers = [])
    (h : (s.core p).now.stopping = some code ∨ ((s.core p).now.stopping = none ∧ (s.core p).now.halt = true ∧ code = 0)) :
    s.settleCore p = s.stopNow p code := by
  unfold State.settleCore
  rw [if_pos ⟨hst, hx⟩]
  obtain h | ⟨h, hhalt, rfl⟩ := h
  · rw [h]
  · simp only [h, hhalt, if_true]

/-- A completion posted last is the one its coach takes, where none was waiting. -/
theorem posted_append {c : Cluster} {p : Nat} (code : Code) (h : ∀ e ∈ c.events, ∀ k, e ≠ .complete p k) :
    ({ c with events := c.events ++ [.complete p code] } : Cluster).posted p = some code := by
  have hnone := posted_none h
  unfold Cluster.posted at hnone ⊢
  rw [List.findSome?_append, hnone]
  simp

theorem exec_kernelComplete_idle {s : State} {core p : Nat} (hp : s.physOf core = some p)
    (hst : (s.core p).now.st ≠ .running ∨ (s.core p).now.xfers ≠ []) (hreq : (s.core p).now.runReq = false ∨ (s.core p).now.st = .running)
    (hev : ∀ e ∈ (s.clu (p / 26)).events, ∀ k, e ≠ .complete p k) : exec (.kernelComplete core) s = .next s := by
  change execKernelComplete core s = _
  unfold execKernelComplete
  simp only [hp, settleCore_stays hst, posted_none hev]
  obtain h | h := hreq
  · rw [startHeld_none h]
  · rw [startHeld_running h]

section Complete
variable {s : State} {core p : Nat} {code : Code}

/-- The state after a completion of a core without a run: stopped, its post served and its work charged. -/
def completed (s : State) (core p : Nat) (code : Code) : State :=
  ((s.stopNow p code).modClu (p / 26) (fun x => x.clearPosts p core none)).chargeWork p 1024

theorem chargeWork_core (s : State) (p line q : Nat) :
    (s.chargeWork p line).core q = if q = p then ⟨{ (s.core p).now with work := [] }, { (s.core p).pre with work := [] }⟩ else s.core q := by
  rw [Losses.chargeWork_frame]
  exact State.core_setCore s p q _

theorem completed_core_ne {q : Nat} (hq : q ≠ p) : (completed s core p code).core q = s.core q := by
  unfold completed
  rw [chargeWork_core, if_neg hq]
  exact (stopNow_facts s p code).2.1 q hq

theorem completed_frame : completed s core p code =
    { s with cores := (completed s core p code).cores, clus := (completed s core p code).clus, led := (completed s core p code).led } := by
  have h := (stopNow_facts s p code).1
  unfold completed
  rw [Losses.chargeWork_frame, h]
  rfl

theorem completed_clu (n : Nat) : (completed s core p code).clu n =
    if n = p / 26 then ((s.stopNow p code).clu n).clearPosts p core none else (s.stopNow p code).clu n := by
  unfold completed
  rw [Losses.chargeWork_frame]
  refine (State.clu_setClu _ (p / 26) n _).trans ?_
  split
  · next h => rw [h]
  · rfl

variable (hx : (s.core p).now.xfers = [])
include hx

theorem completed_core : ((completed s core p code).core p).now = { (s.core p).now.stopped code with work := [] } := by
  unfold completed
  rw [chargeWork_core, if_pos rfl]
  change { ((s.stopNow p code).core p).now with work := [] } = _
  rw [(stopNow_facts s p code).2.2.2.1 hx]

theorem exec_kernelComplete_stops (hp : s.physOf core = some p) (hst : (s.core p).now.st = .running)
    (h : (s.core p).now.stopping = some code ∨ ((s.core p).now.stopping = none ∧ (s.core p).now.halt = true ∧ code = 0))
    (hrun : (s.core p).now.run = none) (hreq : (s.core p).now.runReq = false)
    (hev : ∀ e ∈ (s.clu (p / 26)).events, ∀ k, e ≠ .complete p k) :
    exec (.kernelComplete core) s = .next (completed s core p code) := by
  have hpost : ((s.stopNow p code).clu (p / 26)).posted p = some code := by
    rw [stopNow_nil s p code hx, clu_post, if_pos rfl]
    exact posted_append code hev
  have hnow := (stopNow_facts s p code).2.2.2.1 hx
  have hrun' : ((s.stopNow p code).core p).now.run = none := by rw [hnow]; exact hrun
  have hheld : (completed s core p code).startHeld p = completed s core p code := startHeld_none (by rw [completed_core hx]; exact hreq)
  change execKernelComplete core s = _
  unfold execKernelComplete
  simp only [hp, settleCore_stops hst hx h, hpost, hrun', Bool.or_true, if_true]
  exact congrArg _ hheld

end Complete

/-! Halo timeouts (04 R119). -/

/-- What a halo timeout leaves of a running core's partner: it stops where it waits for the halo back. -/
theorem exec_haloTimeout_stops {s : State} {core p : Nat} (dir : BitVec 2) (hp : s.physOf core = some p)
    (hst : (s.core p).now.st = .running) (hstop : (s.core p).now.stopping = none) :
    exec (.haloTimeout core dir) s = .next (((s.haloPartner core p dir.toNat).bind s.physOf).elim (s.stopNow p E_HALO_TIMEOUT) (fun q =>
      if ((s.stopNow p E_HALO_TIMEOUT).core q).now.awaits ((dir.toNat + 2) % 4) then (s.stopNow p E_HALO_TIMEOUT).stopNow q E_HALO_TIMEOUT
      else s.stopNow p E_HALO_TIMEOUT)) := by
  have hphys : (s.stopNow p E_HALO_TIMEOUT).physOf = s.physOf := funext (stopNow_facts s p E_HALO_TIMEOUT).2.2.1
  change execHaloTimeout core dir s = _
  unfold execHaloTimeout
  simp only [hp, hst, hstop, ne_eq, not_true, or_self, if_false, hphys]
  cases (s.haloPartner core p dir.toNat).bind s.physOf <;> rfl

/-- A core that stops with an error code: at once where nothing is outstanding, else once that is so. -/
theorem stopNow_stops (s : State) (p : Nat) {code : Code} (hcode : code ≠ 0) :
    ((s.core p).now.xfers = [] → ((s.stopNow p code).core p).now.st = .fault ∧ ((s.stopNow p code).core p).now.fault = code) ∧
    ((s.core p).now.xfers ≠ [] → ((s.stopNow p code).core p).now.stopping = some code) := by
  obtain ⟨-, -, -, hidle, hbusy⟩ := stopNow_facts s p code
  refine ⟨fun h => ?_, fun h => ?_⟩
  · rw [hidle h]
    exact ⟨if_neg hcode, rfl⟩
  · rw [hbusy h]

/-- A core that has stopped, or will, waits for no halo. -/
theorem stopNow_awaits_self (s : State) (p : Nat) {code : Code} (hcode : code ≠ 0) (dir : Nat) :
    ((s.stopNow p code).core p).now.awaits dir = false := by
  obtain ⟨hidle, hbusy⟩ := stopNow_stops s p hcode
  unfold CoreRegs.awaits
  by_cases h : (s.core p).now.xfers = []
  · simp [(hidle h).1]
  · simp [hbusy h]

section Timeout
variable {s : State} {core p : Nat} (dir : BitVec 2) (hp : s.physOf core = some p)
  (hst : (s.core p).now.st = .running) (hstop : (s.core p).now.stopping = none)
include hp hst hstop

theorem haloTimeout_effect : ∃ t, exec (.haloTimeout core dir) s = .next t ∧ t = { s with cores := t.cores, clus := t.clus } ∧
    (∀ q, q ≠ p → (∀ k, s.haloPartner core p dir.toNat = some k → s.physOf k ≠ some q) → t.core q = s.core q) ∧
    ((s.core p).now.xfers = [] → (t.core p).now.st = .fault ∧ (t.core p).now.fault = E_HALO_TIMEOUT) ∧
    ((s.core p).now.xfers ≠ [] → (t.core p).now.stopping = some E_HALO_TIMEOUT) ∧
    ∀ k q, s.haloPartner core p dir.toNat = some k → s.physOf k = some q → q ≠ p →
      let d := (s.core q).now
      (d.awaits ((dir.toNat + 2) % 4) = true → d.xfers = [] → (t.core q).now.st = .fault ∧ (t.core q).now.fault = E_HALO_TIMEOUT) ∧
      (d.awaits ((dir.toNat + 2) % 4) = true → d.xfers ≠ [] → (t.core q).now.stopping = some E_HALO_TIMEOUT) ∧
      (d.awaits ((dir.toNat + 2) % 4) = false → t.core q = s.core q) := by
  have hcode : E_HALO_TIMEOUT ≠ 0 := by decide
  obtain ⟨hframe, hother, -, -, -⟩ := stopNow_facts s p E_HALO_TIMEOUT
  obtain ⟨hidle, hbusy⟩ := stopNow_stops s p hcode
  refine ⟨_, exec_haloTimeout_stops dir hp hst hstop, ?_⟩
  cases hq : (s.haloPartner core p dir.toNat).bind s.physOf with
  | none =>
    refine ⟨hframe, fun q hne _ => hother q hne, hidle, hbusy, fun k q hk hkq => ?_⟩
    rw [hk, Option.bind_some, hkq] at hq
    cases hq
  | some q =>
    have hpartner : ∀ k q', s.haloPartner core p dir.toNat = some k → s.physOf k = some q' → q' = q := fun k q' hk hkq => by
      rw [hk, Option.bind_some, hkq] at hq
      exact Option.some.inj hq
    by_cases hqp : q = p
    · rw [hqp, Option.elim_some, stopNow_awaits_self s p hcode, if_neg Bool.false_ne_true]
      exact ⟨hframe, fun q hne _ => hother q hne, hidle, hbusy, fun k q' hk hkq hne => absurd ((hpartner k q' hk hkq).trans hqp) hne⟩
    · rw [Option.elim_some, hother q hqp]
      cases haw : ((s.core q).now.awaits ((dir.toNat + 2) % 4)) with
      | false =>
        rw [if_neg Bool.false_ne_true]
        refine ⟨hframe, fun q hne _ => hother q hne, hidle, hbusy, fun k q' hk hkq hne => ?_⟩
        rw [hpartner k q' hk hkq]
        exact ⟨fun h => absurd (haw.symm.trans h) Bool.false_ne_true, fun h => absurd (haw.symm.trans h) Bool.false_ne_true,
          fun _ => hother q hqp⟩
      | true =>
        rw [if_pos rfl]
        obtain ⟨hframe2, hother2, -, -, -⟩ := stopNow_facts (s.stopNow p E_HALO_TIMEOUT) q E_HALO_TIMEOUT
        obtain ⟨hidle2, hbusy2⟩ := stopNow_stops (s.stopNow p E_HALO_TIMEOUT) q hcode
        rw [hother q hqp] at hidle2 hbusy2
        refine ⟨hframe2.trans (by rw [hframe]), fun q' hne hk => ?_, ?_, ?_, fun k q' hk hkq hne => ?_⟩
        · obtain ⟨k, hk', hkq⟩ := Option.bind_eq_some_iff.1 hq
          rw [hother2 q' fun h => hk k hk' (h ▸ hkq), hother q' hne]
        · rw [hother2 p (Ne.symm hqp)]
          exact hidle
        · rw [hother2 p (Ne.symm hqp)]
          exact hbusy
        · rw [hpartner k q' hk hkq]
          exact ⟨fun _ => hidle2, fun _ => hbusy2, fun h => absurd (haw.symm.trans h) (Ne.symm Bool.false_ne_true)⟩

end Timeout

/-- Settles O28: it holds. -/
theorem coresStartAndStop : Obligations.CoresStartAndStop := by
  unfold Obligations.CoresStartAndStop
  refine ⟨?ctrl, ?stop⟩
  case ctrl =>
    intro s core p v hp c starts
    obtain ⟨hpc, h16, h17⟩ := run_bits v
    obtain ⟨hpc', h16', h17'⟩ := halt_bits v
    refine ⟨fun hst => start_effect (exec_coreRun v hp) hpc (by rw [h17]) hst (by rw [h16, Bool.or_true]), fun hst => ?_,
      fun hst h => start_effect (exec_coreHalt v hp) hpc' (by rw [h17', Bool.or_true]) hst ?_, fun h => ?_⟩
    · rw [exec_coreRun v hp, writeCtrl_sets _ (.inl hst)]
      refine congrArg (fun f => Host.Outcome.next (s.modCore p f)) (funext fun g => ?_)
      simp only [ctrlSet, hpc, h16, h17, Bool.or_true]
    · rw [h16', Bool.or_eq_true]
      exact h.symm
    · rw [exec_coreHalt v hp, writeCtrl_sets _ (h.imp_right fun ⟨hv, hreq⟩ => by rw [h16', hv, hreq]; rfl)]
      refine congrArg (fun f => Host.Outcome.next (s.modCore p f)) (funext fun g => ?_)
      simp only [ctrlSet, hpc', h16', h17', Bool.or_true]
  case stop =>
    intro s core p hp c
    refine ⟨?_, fun code hst hx h hrun hreq hev => ?_, fun hst hreq hev => exec_kernelComplete_idle hp hst hreq hev, fun dir => ⟨fun h => ?_,
      haloTimeout_effect dir hp⟩⟩
    · change execPcEndStop core s = _
      simp only [execPcEndStop, hp]
      rfl
    · refine ⟨_, exec_kernelComplete_stops hx hp hst h hrun hreq hev, completed_frame, fun q hq => completed_core_ne hq, fun n hn => ?_,
        fun e he => ?_, completed_core hx⟩
      · rw [completed_clu, if_neg hn, stopNow_nil s p code hx, clu_post, if_neg hn]
        rfl
      · rw [completed_clu, if_pos rfl] at he
        exact of_decide_eq_true (List.mem_filter.1 he).2
    · change execHaloTimeout core dir s = _
      unfold execHaloTimeout
      simp only [hp]
      exact congrArg _ (if_pos h)

end Sys2Proof.Machine.RunControl

/-! SUPPORT. The transfer slot: what issues, what is checked, and what a conversion moves. -/
namespace Sys2Proof.Machine.TransferSlot
open Sides (xfer_exec side_iff sideCode_one tbOk_iff)
open Layouts (Good good_interleave good_depth fold_elems)

/-- Settles O20: it holds. -/
theorem transfersIssue : Obligations.TransfersIssue := by
  unfold Obligations.TransfersIssue
  intro s i b p c k dst src len tag md h hi n d a code
  have hexec := xfer_exec hi s
  refine ⟨fun hbad => exec_stop hexec _ h (if_pos hbad), fun hn => ?_, fun hn hmul hle => ?_⟩
  · exact exec_ok_eq hexec _ h ((if_neg (show ¬(n % 64 ≠ 0 ∨ 393216 < n) by omega)).trans (if_pos hn))
  · have hgood : ¬(n % 64 ≠ 0 ∨ 393216 < n) := by omega
    refine ⟨fun hcode => ?_, fun hcode hwait => ?_, fun hcode hroom hheld => ?_⟩
    · exact exec_stop hexec _ h ((if_neg hgood).trans ((if_neg hn).trans (if_pos hcode)))
    · exact exec_stall hexec h ((if_neg hgood).trans ((if_neg hn).trans ((if_neg (not_not.2 hcode)).trans (if_pos hwait))))
    · have hgo : ¬(32 ≤ c.now.xfers.length ∨ c.pre.xaccHeld k d a n = true) := by simp [hheld, hroom]
      exact exec_ok_eq hexec _ h ((if_neg hgood).trans ((if_neg hn).trans ((if_neg (not_not.2 hcode)).trans (if_neg hgo))))

/-! The checks of a transfer (R48, R57, R59). -/

section Checks
variable (s : State) (c : CoreRegs) (md : BitVec 4) (d a n : Nat)

/-- The map of a move without a conversion. -/
def plainMap (n : Nat) : MoveMap := ⟨[(0, n)], [(0, n)], 1, []⟩

theorem moveMap_zero (v : W64) : moveMap 0 v n = some (plainMap n) := rfl

/-- Without a conversion every transfer copies. -/
theorem mapOf_plain {k : XKind} (h : k = .sld ∨ k = .sst ∨ k = .mld ∨ k = .mst → md.toNat % 8 = 0) : c.mapOf k md n = some (plainMap n) := by
  cases k <;> first | rfl | (unfold CoreRegs.mapOf; rw [h (by simp)]; rfl)

theorem both_sides (x y : Nat) : (sideOk a x [(0, n)] && sideOk d y [(0, n)]) = true ↔ (a % 64 = 0 ∧ a + n ≤ x) ∧ (d % 64 = 0 ∧ d + n ≤ y) := by
  rw [Bool.and_eq_true, side_iff, side_iff]

/-- Between two stores of the cluster the check is that both ranges lie in their stores. -/
theorem xferCode_stores {k : XKind} {z : Nat × Nat} (hz : xferStores k = some z) (hmd : k = .sld ∨ k = .sst → md = 0) :
    s.xferCode c k md d a n = if (a % 64 = 0 ∧ a + n ≤ z.1) ∧ (d % 64 = 0 ∧ d + n ≤ z.2) then 0 else E_CORE_OPERAND := by
  have hmap : c.mapOf k md n = some (plainMap n) := mapOf_plain c md n fun h => by
    have : k = .sld ∨ k = .sst := by
      obtain rfl | rfl | rfl | rfl := h
      · exact .inl rfl
      · exact .inr rfl
      · cases hz
      · cases hz
    rw [hmd this]
    rfl
  have hif : ∀ b : Bool, ((b = true) ↔ ((a % 64 = 0 ∧ a + n ≤ z.1) ∧ (d % 64 = 0 ∧ d + n ≤ z.2))) →
      (if b = true then (0 : Code) else E_CORE_OPERAND) =
        if (a % 64 = 0 ∧ a + n ≤ z.1) ∧ (d % 64 = 0 ∧ d + n ≤ z.2) then 0 else E_CORE_OPERAND := fun b hb => by simp only [hb]
  unfold State.xferCode
  rw [hmap]
  cases k <;> cases hz <;> exact hif _ (both_sides d a n _ _)

/-- A side in the tile buffer, then the object's own code. -/
def bufferThenObject (ag : Agent) (wr : Bool) (buf obj : Nat) : Code :=
  if !sideOk buf 393216 [(0, n)] then E_CORE_OPERAND else s.sideCode ag wr obj [(0, n)]

theorem xferCode_object {k : XKind} (hk : k = .mld ∨ k = .mst) : s.xferCode c k 0 d a n =
    bufferThenObject s n c.agent (decide (k = .mst)) (if k = .mld then d else a) (if k = .mld then a else d) := by
  obtain rfl | rfl := hk
  · exact ite_congr (congrArg (· = true) (Bool.or_false _)) (fun _ => rfl) (fun _ => rfl)
  · exact ite_congr (congrArg (· = true) (Bool.or_false _)) (fun _ => rfl) (fun _ => rfl)

theorem bufferThenObject_bad (ag : Agent) (wr : Bool) (buf obj : Nat) (h : ¬(buf % 64 = 0 ∧ buf + n ≤ 393216) ∨ 2 ^ 52 ≤ obj) :
    bufferThenObject s n ag wr buf obj = E_CORE_OPERAND := by
  by_cases hside : sideOk buf 393216 [(0, n)] = true
  · have hobj := h.resolve_left (not_not.2 ((side_iff _ _ _).1 hside))
    rw [bufferThenObject, if_neg (by simp [hside]), State.sideCode, if_pos hobj]
  · exact if_pos (by simpa using hside)

theorem bufferThenObject_good (ag : Agent) (wr : Bool) (buf obj : Nat) (h : buf % 64 = 0 ∧ buf + n ≤ 393216) (hobj : obj < 2 ^ 52) :
    bufferThenObject s n ag wr buf obj = s.accessCode ag wr obj n := by
  rw [bufferThenObject, if_neg (by simp [(side_iff _ _ _).2 h]), sideCode_one s ag wr obj n hobj]

theorem xferCode_vat_encoding (h : vatWidth md = 0) : s.xferCode c .vat md d a n = E_KRN_ENCODING := if_pos h

theorem xferCode_vat_misaligned (h : vatWidth md ≠ 0) (hd : d % vatWidth md ≠ 0) : s.xferCode c .vat md d a n = E_CORE_OPERAND :=
  (if_neg h).trans (if_pos (by rw [Bool.or_eq_true, decide_eq_true_eq]; exact .inr hd))

theorem xferCode_vat_aligned (h : vatWidth md ≠ 0) (hd : d % vatWidth md = 0) :
    s.xferCode c .vat md d a n = bufferThenObject s n c.agent true a d :=
  (if_neg h).trans (ite_congr (congrArg (· = true) (by rw [hd]; exact Bool.or_false _)) (fun _ => rfl) (fun _ => rfl))

end Checks

/-- Settles O21: it holds. -/
theorem transferChecks : Obligations.TransferChecks := by
  unfold Obligations.TransferChecks
  intro s c k md d a n
  refine ⟨fun z hz hmd => xferCode_stores s c md d a n hz hmd, ?object, fun _ hnone => ?broken, ?vat⟩
  case object =>
    rintro hk rfl buf obj
    rw [xferCode_object s c d a n hk]
    exact ⟨bufferThenObject_bad s n _ _ _ _, bufferThenObject_good s n _ _ _ _⟩
  case broken =>
    rename_i hk
    have hmap : c.mapOf k md n = none := by obtain rfl | rfl | rfl | rfl := hk <;> exact hnone
    unfold State.xferCode
    rw [hmap]
  case vat =>
    rintro rfl
    refine ⟨xferCode_vat_encoding s c md d a n, fun hw h => ?_, fun hw ha hd hobj => ?_⟩
    · by_cases hd : d % vatWidth md = 0
      · rw [xferCode_vat_aligned s c md d a n hw hd]
        exact bufferThenObject_bad s n _ _ _ _ (h.imp_right fun h => h.resolve_left (not_not.2 hd))
      · exact xferCode_vat_misaligned s c md d a n hw hd
    · rw [xferCode_vat_aligned s c md d a n hw hd]
      exact bufferThenObject_good s n _ _ _ _ ha hobj

/-! Halos, halo waits, pages and fences. -/

section Pages

/-- The bytes that a page of `m` landed micro-block lines takes, with its header. -/
theorem pageParts_length (part : BitVec 2) : (pageParts part.toNat).length = if part = 2 then 2 else 1 := by
  unfold pageParts
  by_cases h : part = 2
  · rw [h]
    rfl
  · rw [if_neg h, if_neg (show part.toNat ≠ 2 from fun h2 => h (BitVec.eq_of_toNat_eq h2))]
    rfl

theorem haloCount_setHalo (c : CoreRegs) (d n q : Nat) : (c.setHalo d n).haloCount q = if q = d then n else c.haloCount q :=
  AMap.getD_insert c.halo 0 d n q

theorem fence_iff (xs : List Xfer) (tag : BitVec 4) (all : Bool) :
    (xs.any (fun x => decide (x.len ≠ 0) && (all || x.tag == tag))) = true ↔ ∃ x ∈ xs, x.len ≠ 0 ∧ (all = true ∨ x.tag = tag) := by
  simp only [List.any_eq_true, Bool.and_eq_true, decide_eq_true_eq, Bool.or_eq_true, beq_iff_eq]

end Pages

/-- Settles O22: it holds. -/
theorem halosPagesAndFences : Obligations.HalosPagesAndFences := by
  unfold Obligations.HalosPagesAndFences
  intro s b p c h stop wait
  refine ⟨?halo, fun len dir => ⟨fun hlt => exec_stall rfl h (if_pos hlt), fun hle => ?wait⟩, ?fence, ?page⟩
  case halo =>
    intro dst src len tag dir n d a fits
    have hcode : (if n = 0 then 0 else s.xferCode c.pre .halo 0 d a n) = if fits then 0 else E_CORE_OPERAND := by
      rw [xferCode_stores s c.pre 0 d a n (k := .halo) rfl (fun _ => rfl)]
      by_cases hn : n = 0
      · rw [if_pos hn, if_pos (.inl hn)]
      · rw [if_neg hn]
        exact ite_congr (propext ⟨.inr, fun h => h.resolve_left hn⟩) (fun _ => rfl) (fun _ => rfl)
    have hfit : fits → (if n = 0 then 0 else s.xferCode c.pre .halo 0 d a n) = 0 := fun hf => hcode.trans (if_pos hf)
    refine ⟨fun hbad => ?_, fun hmul hle hnb hf hroom => ?_, fun hmul hle hnb hf hfull => ?_⟩
    · by_cases hop : n % 64 ≠ 0 ∨ 393216 < n ∨ neighbour b.core dir.toNat = none
      · exact exec_stop rfl _ h (if_pos hop)
      · have hnf : ¬fits := by tauto
        have hstop : (if n = 0 then 0 else s.xferCode c.pre .halo 0 d a n) = E_CORE_OPERAND := hcode.trans (if_neg hnf)
        refine exec_stop rfl _ h ((if_neg hop).trans ?_)
        dsimp only
        rw [hstop]
        rfl
    · refine exec_ok_eq rfl _ h ((if_neg (show ¬(n % 64 ≠ 0 ∨ 393216 < n ∨ neighbour b.core dir.toNat = none) by
        simp only [hnb, or_false]; omega)).trans ?_)
      exact (if_neg (not_not.2 (hfit hf))).trans (if_neg (by omega))
    · refine exec_stall rfl h ((if_neg (show ¬(n % 64 ≠ 0 ∨ 393216 < n ∨ neighbour b.core dir.toNat = none) by
        simp only [hnb, or_false]; omega)).trans ?_)
      exact (if_neg (not_not.2 (hfit hf))).trans (if_pos hfull)
  case wait =>
    refine exec_ok rfl (c.now.setHalo dir.toNat (c.now.haloCount dir.toNat - (c.pre.sr len).toNat)) h (if_neg (by omega)) fun t ht hcore => ?_
    rw [hcore]
    refine ⟨ht, rfl, fun q => (haloCount_setHalo _ _ _ _).trans ?_⟩
    split
    · next hq => rw [hq]
    · rw [Nat.sub_zero]
  case fence =>
    intro tag all held
    exact ⟨fun hheld => exec_stall rfl h (if_pos ((fence_iff _ _ _).2 hheld)), fun hfree => exec_ok_eq rfl _ h (if_neg (mt (fence_iff _ _ _).1 hfree))⟩
  case page =>
    intro dst len tag part
    refine ⟨fun hq hw => exec_ok_eq rfl _ h ?_, fun hq hw => exec_stall rfl h ?_, ?_⟩
    · simp only [hq, if_pos hw]
    · simp only [hq, if_neg hw]
    · intro d q hq a n
      have hn : 64 + (pageParts part.toNat).length * d.landed * 64 = n := by rw [pageParts_length]
      have htb := tbOk_iff a n
      have good : part ≠ 3 → a % 64 = 0 ∧ a + n ≤ 393216 → ¬(part = 3 ∨ (!tbOk a n) = true) := fun hp ha => by
        rw [htb.2 ha]
        exact fun h => h.elim hp Bool.noConfusion
      refine ⟨fun hbad => exec_stop rfl _ h ?_, fun hp ha hfull => exec_stall rfl h ?_, fun hp ha hroom => exec_ok_eq rfl _ h ?_⟩
      · simp only [hq, hn]
        refine if_pos (hbad.imp_right fun hbad => ?_)
        simpa using mt htb.1 hbad
      · simp only [hq, hn]
        exact (if_neg (good hp ha)).trans (if_pos hfull)
      · simp only [hq, hn]
        exact (if_neg (good hp ha)).trans (if_neg (by omega))

/-! Conversions (08 R209, R210). -/

/-- A map whose elements lie apart moves each of them. -/
theorem apply_elem {m : MoveMap} {len : Nat} (h : Good m.es len m.elems) (hne : m.elems ≠ []) (f : Mem) {e : Nat × Nat} (he : e ∈ m.elems)
    {j : Nat} (hj : j < m.es) : Mem.rd (m.apply f) (e.1 + j) = Mem.rd f (e.2 + j) := by
  rw [MoveMap.apply, if_neg hne]
  exact fold_elems f m.es m.elems (fun e he e' he' hne => (h.2 e he e' he' hne).1) e he j hj

/-- The elements of every conversion cover its length and lie apart on both sides. -/
theorem moveMap_good {kind len : Nat} {d : W64} {m : MoveMap} (h : moveMap kind d len = some m) (hk : kind ≠ 0) : Good m.es len m.elems := by
  unfold moveMap at h
  extract_lets v es c x f pitch swap n ps rows wide deep qs at h
  have hes : 0 < es := Nat.two_pow_pos _
  have hc : 0 < c := Nat.succ_pos _
  have hx : 0 < x := Nat.succ_pos _
  have hf : 0 < f := Nat.two_pow_pos _
  rw [if_neg hk] at h
  split at h
  · cases h
  split at h
  · split at h
    · cases h
    next hbad =>
      obtain ⟨hmul, hpitch⟩ := not_or.1 hbad
      have hdvd : c * es ∣ len := (Dvd.intro_left x (by rw [Nat.mul_assoc])).trans (Nat.dvd_of_mod_eq_zero (not_not.1 hmul))
      have hlen : n * c * es = len := by rw [Nat.mul_assoc]; exact Nat.div_mul_cancel hdvd
      have hgood : Good es len ps := hlen ▸ good_interleave c n es pitch (not_lt.1 hpitch) hes
      split at h
      · cases h
        exact hgood
      · cases h
        exact hgood.swap
  · split at h
    · cases h
    next hbad =>
      obtain ⟨hmul, hbad⟩ := not_or.1 hbad
      obtain ⟨hxf, hpitch⟩ := not_or.1 hbad
      obtain ⟨X, hX⟩ := Nat.dvd_of_mod_eq_zero (not_not.1 hxf)
      obtain ⟨R, hR⟩ := Nat.dvd_of_mod_eq_zero (not_not.1 hmul)
      have hrows : rows = f * R := by
        have : len = (c * x * es) * (f * R) := by rw [hR]; ring
        exact (congrArg (· / (c * x * es)) this).trans (Nat.mul_div_cancel_left _ (by positivity))
      have hlen : c * (f * R) * (f * X) * es = len := by rw [hR, ← hX]; ring
      have hgood : Good es len qs := by
        have := good_depth c X R f es pitch hf (by rw [← hrows, ← hX]; exact not_lt.1 hpitch) hes
        rwa [hlen, ← hX, ← hrows] at this
      split at h
      · cases h
        exact hgood
      · cases h
        exact hgood.swap

/-- Settles O24: it holds. -/
theorem conversionsMoveEveryElement : Obligations.ConversionsMoveEveryElement := by
  unfold Obligations.ConversionsMoveEveryElement
  intro kind d len m f h hk hlen
  have hgood := moveMap_good h hk
  have hne : m.elems ≠ [] := fun hnil => hlen (by rw [← hgood.1, hnil]; simp)
  exact ⟨fun e he j hj => apply_elem hgood hne f he hj, hgood.1, hgood.2⟩

end Sys2Proof.Machine.TransferSlot

/-! SUPPORT. How transfers complete: the codewords they touch, what moves, and what is left of the core. -/
namespace Sys2Proof.Machine.TransferEnds
open Landing (tc_exec links_none merge)
open TransferSlot (plainMap mapOf_plain)
open StartAndStop (guarded_clean)

/-! What reading and writing codewords leaves of a core (02 R37). -/

/-- `d` is `c` but for the stores and the marks of their words. -/
def SameButStores (c d : CoreRegs) : Prop :=
  ∃ i t a f e, d = { c with istore := i, tb := t, am := a, flips := f, eccCount := e }

theorem SameButStores.refl (c : CoreRegs) : SameButStores c c := ⟨_, _, _, _, _, rfl⟩

theorem SameButStores.trans {c d e : CoreRegs} (h : SameButStores c d) (h' : SameButStores d e) : SameButStores c e := by
  obtain ⟨i, t, a, f, n, rfl⟩ := h
  obtain ⟨i, t, a, f, n, rfl⟩ := h'
  exact ⟨_, _, _, _, _, rfl⟩

/-- The map of a transfer does not depend on the stores. -/
theorem SameButStores.mapOf {c d : CoreRegs} (h : SameButStores c d) (k : XKind) (md : BitVec 4) (n : Nat) :
    d.mapOf k md n = c.mapOf k md n := by
  obtain ⟨i, t, a, f, e, rfl⟩ := h
  rfl

theorem touch_same {c d : CoreRegs} {k : Nat} {rd wr : List (Nat × Nat)} (h : c.touch k rd wr = some d) : SameButStores c d := by
  unfold CoreRegs.touch at h
  split at h
  · cases h
    exact .refl c
  · obtain ⟨q, -, rfl⟩ := Option.map_eq_some_iff.1 h
    dsimp only
    split
    · exact ⟨_, _, _, _, _, rfl⟩
    · split <;> exact ⟨_, _, _, _, _, rfl⟩

section Guard
variable (c : CoreRegs) (tr tw ar aw : List (Nat × Nat))

theorem guarded_same : SameButStores c (c.guarded tr tw ar aw c (fun d => d)) := by
  unfold CoreRegs.guarded
  split
  · exact .refl c
  · next d hd =>
    obtain ⟨e, he, hd⟩ := Option.bind_eq_some_iff.1 hd
    exact (touch_same he).trans (touch_same hd)

theorem guarded_clean_self (h : c.flips = []) : c.guarded tr tw ar aw c (fun d => d) = c :=
  FoldAndWhey.guarded_of_some (guarded_clean h tr tw ar aw) c _

end Guard

section Words
variable (s : State) (p : Nat) (tr tw ar aw : List (Nat × Nat))

/-- The core's own codewords read and written. -/
def ownWords : State × Code :=
  if ((s.core p).now.guarded tr tw ar aw none some).isNone then (s, E_CORE_ECC)
  else (s.modCore p (fun c => c.guarded tr tw ar aw c (fun d => d)), 0)

theorem ownWords_same : SameButStores (s.core p).now ((ownWords s p tr tw ar aw).1.core p).now := by
  unfold ownWords
  split
  · exact .refl _
  · rw [State.core_modCore_self]
    exact guarded_same _ _ _ _ _

theorem ownWords_clean (h : (s.core p).now.flips = []) :
    (ownWords s p tr tw ar aw).2 = 0 ∧ ((ownWords s p tr tw ar aw).1.core p).now = (s.core p).now := by
  unfold ownWords
  rw [guarded_clean h, if_neg (by simp)]
  exact ⟨rfl, (congrArg Core.now (State.core_modCore_self ..)).trans (guarded_clean_self _ _ _ _ _ h)⟩

theorem ownWords_frame : (ownWords s p tr tw ar aw).1 = { s with cores := (ownWords s p tr tw ar aw).1.cores } := by
  unfold ownWords
  split <;> rfl

end Words

section Kinds
variable (s : State) (p : Nat) (x : Xfer) (m : MoveMap)

/-- The words of a transfer out of the staging buffer: those of the buffer, then the core's own. -/
theorem xferWords_sld (hk : x.kind = .sld) : s.xferWords p x m = match (s.clu (p / 26)).touch (basedAt x.src m.src) [] with
    | none => (s, E_MEM_UNCORR)
    | some c => ownWords (s.setClu (p / 26) c) p [] (basedAt x.dst m.dst) [] [] := by
  unfold State.xferWords
  simp only [hk]
  rfl

theorem xferWords_sst (hk : x.kind = .sst) : s.xferWords p x m =
    if (ownWords s p (basedAt x.src m.src) [] [] []).2 ≠ 0 then ownWords s p (basedAt x.src m.src) [] [] []
    else ((ownWords s p (basedAt x.src m.src) [] [] []).1.modClu (p / 26) (fun c => (c.touch [] (basedAt x.dst m.dst)).getD c), 0) := by
  unfold State.xferWords
  simp only [hk]
  rfl

/-- Every other transfer touches words of its core alone. -/
theorem xferWords_own (h1 : x.kind ≠ .sld) (h2 : x.kind ≠ .sst) : ∃ tr tw ar aw, s.xferWords p x m = ownWords s p tr tw ar aw := by
  unfold State.xferWords
  cases hk : x.kind
  case sld => exact absurd hk h1
  case sst => exact absurd hk h2
  all_goals exact ⟨_, _, _, _, rfl⟩

theorem xferWords_same : SameButStores (s.core p).now ((s.xferWords p x m).1.core p).now := by
  by_cases h1 : x.kind = .sld
  · rw [xferWords_sld s p x m h1]
    split
    · exact .refl _
    · exact ownWords_same (s.setClu (p / 26) _) p _ _ _ _
  by_cases h2 : x.kind = .sst
  · rw [xferWords_sst s p x m h2]
    split
    · exact ownWords_same s p _ _ _ _
    · exact ownWords_same s p _ _ _ _
  · obtain ⟨tr, tw, ar, aw, h⟩ := xferWords_own s p x m h1 h2
    rw [h]
    exact ownWords_same s p _ _ _ _

/-- Stores without upset words are read as they are. -/
theorem xferWords_clean (h : (s.core p).now.flips = []) (hc : (s.clu (p / 26)).flips = []) :
    (s.xferWords p x m).2 = 0 ∧ ((s.xferWords p x m).1.core p).now = (s.core p).now ∧
      (s.xferWords p x m).1.clu (p / 26) = s.clu (p / 26) := by
  have htouch : ∀ rd wr, (s.clu (p / 26)).touch rd wr = some (s.clu (p / 26)) := fun rd wr => if_pos hc
  have hclu : ∀ (t : State) tr tw ar aw, (ownWords t p tr tw ar aw).1.clu (p / 26) = t.clu (p / 26) := fun t tr tw ar aw => by
    rw [ownWords_frame]
    rfl
  by_cases h1 : x.kind = .sld
  · rw [xferWords_sld s p x m h1, htouch]
    obtain ⟨h0, hcore⟩ := ownWords_clean (s.setClu (p / 26) (s.clu (p / 26))) p [] (basedAt x.dst m.dst) [] [] h
    exact ⟨h0, hcore, (hclu _ _ _ _ _).trans (State.clu_setClu_self ..)⟩
  by_cases h2 : x.kind = .sst
  · obtain ⟨h0, hcore⟩ := ownWords_clean s p (basedAt x.src m.src) [] [] [] h
    rw [xferWords_sst s p x m h2, if_neg (not_not.2 h0)]
    refine ⟨rfl, hcore, (State.clu_setClu_self ..).trans ?_⟩
    rw [hclu]
    change ((s.clu (p / 26)).touch [] (basedAt x.dst m.dst)).getD (s.clu (p / 26)) = _
    rw [htouch]
    rfl
  · obtain ⟨tr, tw, ar, aw, hown⟩ := xferWords_own s p x m h1 h2
    obtain ⟨h0, hcore⟩ := ownWords_clean s p tr tw ar aw h
    rw [hown]
    exact ⟨h0, hcore, hclu _ _ _ _ _⟩

end Kinds

/-! What moves, by the kind of the transfer. -/

section Moves
variable {s : State} {p : Nat} {x : Xfer} {m : MoveMap} {q : Option Nat} (hm : (s.core p).now.mapOf x.kind x.mod x.len = some m)
include hm

theorem xferMove_copy (hk : x.kind = .copy) : s.xferMove p x q = (s.modCore p (fun r =>
    { r with tb := scatterStore r.tb x.dst m.dst (m.apply (gatherStore (s.core p).now.tb x.src m.src)) }), 0) := by
  unfold State.xferMove
  dsimp only
  rw [hm]
  simp only [hk]

theorem xferMove_sld (hk : x.kind = .sld) : s.xferMove p x q = (s.modCore p (fun r =>
    { r with tb := scatterStore r.tb x.dst m.dst (m.apply (gatherStore (s.clu (p / 26)).staging x.src m.src)) }), 0) := by
  unfold State.xferMove
  dsimp only
  rw [hm]
  simp only [hk]

theorem xferMove_sst (hk : x.kind = .sst) : s.xferMove p x q = (s.modClu (p / 26) (fun cl =>
    { cl with staging := scatterStore cl.staging x.dst m.dst (m.apply (gatherStore (s.core p).now.tb x.src m.src)) }), 0) := by
  unfold State.xferMove
  dsimp only
  rw [hm]
  simp only [hk]

theorem xferMove_accTo (hk : x.kind = .accTo) : s.xferMove p x q = (s.modCore p (fun r =>
    { r with am := scatterStore r.am x.dst m.dst (m.apply (gatherStore (s.core p).now.tb x.src m.src)) }), 0) := by
  unfold State.xferMove
  dsimp only
  rw [hm]
  simp only [hk]

theorem xferMove_accFrom (hk : x.kind = .accFrom) : s.xferMove p x q = (s.modCore p (fun r =>
    { r with tb := scatterStore r.tb x.dst m.dst (m.apply (gatherStore (s.core p).now.am x.src m.src)) }), 0) := by
  unfold State.xferMove
  dsimp only
  rw [hm]
  simp only [hk]

end Moves

/-! Completion (02 R57). -/

/-- The registers after a transfer has left its list, with the code that fails it. -/
def ended (idx : Nat) (code : Code) (g : CoreRegs) : CoreRegs := if code ≠ 0 then (g.dropXfer idx).failWith code else g.dropXfer idx

section Complete
variable {s : State} {core idx fixed bad p : Nat} {x : Xfer} (hp : s.physOf core = some p) (hx : (s.core p).now.xfers[idx]? = some x)
  (hk : x.kind ≠ .halo) (hready : x.kind = .vat → x.lines = vatLines x)
include hp hx hk hready

/-- A transfer whose words the link delivered has its effect and leaves the list. -/
theorem complete_delivered {l : State} (hl : s.linkWords p x fixed bad = (l, 0)) : exec (.transferComplete core ⟨idx, fixed, bad⟩) s =
    .next ((l.xferEffect p x none).1.modCore p (ended idx (l.xferEffect p x none).2)) := by
  have hr : s.xferReady (s.core p).now idx x none = true := by
    unfold State.xferReady
    cases hkind : x.kind
    case halo => exact absurd hkind hk
    case vat => exact decide_eq_true (hready hkind)
    all_goals rfl
  rw [tc_exec hp hx hk, hr, hl]
  rfl

/-- With a word that stayed uncorrectable nothing moves. -/
theorem complete_failed {l : State} {m : MoveMap} (hl : s.linkWords p x fixed bad = (l, 0)) (hm : (l.core p).now.mapOf x.kind x.mod x.len = some m)
    (hcode : (l.xferWords p x m).2 ≠ 0) : exec (.transferComplete core ⟨idx, fixed, bad⟩) s =
      .next ((l.xferWords p x m).1.modCore p (fun g => (g.dropXfer idx).failWith (l.xferWords p x m).2)) := by
  have heff : l.xferEffect p x none = l.xferWords p x m := by
    unfold State.xferEffect
    rw [hm]
    exact if_pos hcode
  rw [complete_delivered hp hx hk hready hl, heff]
  exact congrArg (fun f => Host.Outcome.next ((l.xferWords p x m).1.modCore p f)) (funext fun g => if_pos hcode)

/-- With its words read it moves. -/
theorem complete_moved {l : State} {m : MoveMap} (hl : s.linkWords p x fixed bad = (l, 0)) (hm : (l.core p).now.mapOf x.kind x.mod x.len = some m)
    (hcode : (l.xferWords p x m).2 = 0) {r : State × Code} (hr : (l.xferWords p x m).1.xferMove p x none = r) :
    exec (.transferComplete core ⟨idx, fixed, bad⟩) s = .next (r.1.modCore p (ended idx r.2)) := by
  have heff : l.xferEffect p x none = r := by
    unfold State.xferEffect
    rw [hm]
    exact (if_neg (not_not.2 hcode)).trans hr
  rw [complete_delivered hp hx hk hready hl, heff]

end Complete

/-! The bytes of a plain copy. -/

section Plain
variable (f t : Mem) (src dst n : Nat)

theorem rd_gather_plain {j : Nat} (hj : j < n) : Mem.rd (gatherStore f src [(0, n)]) j = Mem.rd f (src + j) := by
  change Mem.rd (Mem.wrBytes [] 0 (Mem.rdBytes f (src + 0) n)) j = _
  rw [Mem.rd_wrBytes, Mem.rdBytes_length, if_pos (by omega), Nat.sub_zero, Nat.add_zero, Mem.rdBytes_getD _ _ _ _ hj]

/-- Every byte of a plain copy is the source's byte at the same offset, and the others stay. -/
theorem rd_plain_move (y : Nat) : Mem.rd (scatterStore t dst (plainMap n).dst ((plainMap n).apply (gatherStore f src (plainMap n).src))) y =
    if dst ≤ y ∧ y < dst + n then Mem.rd f (src + (y - dst)) else Mem.rd t y := by
  change Mem.rd (Mem.wrBytes t (dst + 0) (Mem.rdBytes (gatherStore f src [(0, n)]) 0 n)) y = _
  rw [Mem.rd_wrBytes, Mem.rdBytes_length, Nat.add_zero]
  split
  · rw [Mem.rdBytes_getD _ _ _ _ (by omega), Nat.zero_add, rd_gather_plain f src n (by omega)]
  · rfl

end Plain

/-- Settles O23: it holds. -/
theorem clusterTransfersLand : Obligations.ClusterTransfersLand := by
  unfold Obligations.ClusterTransfersLand
  intro s core idx p fixed bad x m hp hx hm drop move done u code c inside
  have hkinds : inside → x.kind ≠ .halo ∧ x.kind ≠ .vat ∧ x.kind.onMesh = false := by
    rintro (h | h | h | h | h) <;> rw [h] <;> exact ⟨nofun, nofun, rfl⟩
  have hmap : c.mapOf x.kind x.mod x.len = some m := ((xferWords_same s p x m).mapOf _ _ _).trans hm
  have moved : inside → code = 0 → ∀ {t : State}, u.xferMove p x none = (t, 0) → done = .next (t.modCore p drop) := fun hin h0 t ht => by
    obtain ⟨hhalo, hvat, hmesh⟩ := hkinds hin
    exact complete_moved hp hx hhalo (fun h => absurd h hvat) (links_none hmesh) hm h0 ht
  refine ⟨fun _ hflips hclu => xferWords_clean s p x m hflips hclu, fun hin hcode => ?_, fun h0 => ⟨fun hk => ?_, fun hk => ?_, fun hk => ?_,
    fun hk => ?_, fun hk => ?_⟩, fun hk f t y => ?_⟩
  · obtain ⟨hhalo, hvat, hmesh⟩ := hkinds hin
    exact complete_failed hp hx hhalo (fun h => absurd h hvat) (links_none hmesh) hm hcode
  · exact (moved (.inl hk) h0 (xferMove_copy hmap hk)).trans (congrArg _ (merge _ _))
  · exact (moved (.inr (.inl hk)) h0 (xferMove_sld hmap hk)).trans (congrArg _ (merge _ _))
  · exact moved (.inr (.inr (.inl hk))) h0 (xferMove_sst hmap hk)
  · exact (moved (.inr (.inr (.inr (.inl hk)))) h0 (xferMove_accTo hmap hk)).trans (congrArg _ (merge _ _))
  · exact (moved (.inr (.inr (.inr (.inr hk)))) h0 (xferMove_accFrom hmap hk)).trans (congrArg _ (merge _ _))
  · have hplain : m = plainMap x.len := by
      refine Option.some.inj (hm.symm.trans (mapOf_plain _ _ _ fun h => ?_))
      obtain hc | hc | hc | hmod := hk
      · rw [hc] at h
        simp at h
      · rw [hc] at h
        simp at h
      · rw [hc] at h
        simp at h
      · exact hmod
    subst hplain
    exact rd_plain_move f t x.src x.dst x.len y

/-! Halos (04 R117). -/

/-- The halo's codewords and bytes, and its arrival kept to be counted, at the core that receives it. -/
def haloLanded (x : Xfer) (src : Mem) (g : CoreRegs) : CoreRegs :=
  let g := g.guarded [] [(x.dst, x.len)] [] [] g (fun d => d)
  { g with
    tb := if x.len = 0 then g.tb else Mem.wrBytes g.tb x.dst (Mem.rdBytes src x.src x.len)
    haloHeld := AMap.insert g.haloHeld ((x.mod.toNat + 2) % 4) (AMap.getD g.haloHeld 0 ((x.mod.toNat + 2) % 4) + 1) }

theorem scatter_plain (f t : Mem) (src dst n : Nat) :
    scatterStore t dst (plainMap n).dst ((plainMap n).apply (gatherStore f src (plainMap n).src)) = Mem.wrBytes t dst (Mem.rdBytes f src n) := by
  have hread : Mem.rdBytes (Mem.wrBytes [] 0 (Mem.rdBytes f src n)) (0 + 0) n = Mem.rdBytes f src n := by
    rw [Mem.rdBytes_wrBytes [] 0 0 n _ (by simp), List.drop_zero, List.take_of_length_le (by simp)]
  exact congrArg (Mem.wrBytes t dst) hread

theorem xferMove_halo {s : State} {p q : Nat} {x : Xfer} (hk : x.kind = .halo) :
    s.xferMove p x (some q) = (s.modCore q (haloLanded x (s.core p).now.tb), 0) := by
  have hm : (s.core p).now.mapOf x.kind x.mod x.len = some (plainMap x.len) := mapOf_plain _ _ _ (by rw [hk]; simp)
  unfold State.xferMove
  dsimp only
  rw [hm]
  simp only [hk, scatter_plain]
  rfl

section Halo
variable {s : State} {core idx fixed bad p q k : Nat} {x : Xfer} (hp : s.physOf core = some p) (hx : (s.core p).now.xfers[idx]? = some x)
  (hk : x.kind = .halo) (hn : neighbour core x.mod.toNat = some k) (hq : s.physOf k = some q)
include hp hx hk hn hq

/-- The completion of a halo to a core that is there. -/
theorem exec_halo : exec (.transferComplete core ⟨idx, fixed, bad⟩) s = .next (
    if (!s.xferReady (s.core p).now idx x (some q)) = true then s
    else (s.xferEffect p x (some q)).1.modCore p (ended idx (s.xferEffect p x (some q)).2)) := by
  have hl : s.linkWords p x fixed bad = (s, 0) := links_none (by rw [hk]; rfl)
  change execTransferComplete core ⟨idx, fixed, bad⟩ s = _
  unfold execTransferComplete
  simp only [hp, hx, hk, hn, hq, hl]
  rfl

end Halo

theorem haloReady_iff (s : State) (c : CoreRegs) (idx q : Nat) {x : Xfer} (hk : x.kind = .halo) : s.xferReady c idx x (some q) = true ↔
    (∀ y ∈ c.xfers.take idx, y.kind = .halo → y.mod ≠ x.mod) ∧
      (s.core q).now.haloCount ((x.mod.toNat + 2) % 4) + AMap.getD (s.core q).now.haloHeld 0 ((x.mod.toNat + 2) % 4) < 65535 := by
  unfold State.xferReady
  rw [hk]
  simp only [Bool.and_eq_true, Bool.not_eq_true', List.any_eq_false, Bool.and_eq_true, beq_iff_eq, not_and, decide_eq_true_eq, ne_eq]

/-- Settles O25: it holds. -/
theorem halosLandAndCount : Obligations.HalosLandAndCount := by
  unfold Obligations.HalosLandAndCount
  intro s core p hp
  refine ⟨?lands, ?counts⟩
  case lands =>
    intro idx q k fixed bad x hx hk hn hq u c d r ready done
    have hready : s.xferReady c idx x (some q) = true ↔ ready := haloReady_iff s c idx q hk
    have hdone := exec_halo (fixed := fixed) (bad := bad) hp hx hk hn hq
    have hm : c.mapOf x.kind x.mod x.len = some (plainMap x.len) := mapOf_plain _ _ _ (by rw [hk]; simp)
    have hwords : s.xferWords p x (plainMap x.len) = ownWords s p [(x.src, x.len)] [] [] [] := by
      unfold State.xferWords
      rw [hk]
      rfl
    have heff : s.xferEffect p x (some q) = if (ownWords s p [(x.src, x.len)] [] [] []).2 ≠ 0 then ownWords s p [(x.src, x.len)] [] [] []
        else (ownWords s p [(x.src, x.len)] [] [] []).1.xferMove p x (some q) := by
      unfold State.xferEffect
      simp only [show (s.core p).now.mapOf x.kind x.mod x.len = some (plainMap x.len) from hm, hwords]
    refine ⟨fun hnot => hdone.trans (congrArg _ (if_pos ?_)), fun hr hbad => ?_, fun hr hgood => ?_⟩
    · rw [Bool.not_eq_true']
      exact eq_false_of_ne_true (mt hready.1 hnot)
    · have hown : ownWords s p [(x.src, x.len)] [] [] [] = (s, E_CORE_ECC) := if_pos (Option.isNone_iff_eq_none.2 hbad)
      have heff' : s.xferEffect p x (some q) = (s, E_CORE_ECC) := by
        rw [heff, hown]
        exact if_pos (show E_CORE_ECC ≠ 0 by decide)
      refine hdone.trans (congrArg _ ((if_neg (by rw [hready.2 hr]; exact Bool.noConfusion)).trans ?_))
      rw [heff']
      rfl
    · have hown : ownWords s p [(x.src, x.len)] [] [] [] = (u, 0) := if_neg (by rwa [Option.isNone_iff_eq_none])
      have heff' : s.xferEffect p x (some q) = (u.modCore q (haloLanded x (u.core p).now.tb), 0) := by
        rw [heff, hown, if_neg (by simp)]
        exact xferMove_halo hk
      refine ⟨fun e => AMap.insert e d (AMap.getD e 0 d + 1), fun e => ?_, hdone.trans (congrArg _ ((if_neg (by
        rw [hready.2 hr]; exact Bool.noConfusion)).trans ?_))⟩
      · funext z
        rw [AMap.getD_insert]
        split
        · next h => rw [h]
        · rfl
      · rw [heff']
        rfl
  case counts =>
    intro dir n
    have hdone : exec (.haloArrival core dir) s = .next (if n = 0 ∨ 65535 ≤ (s.core p).now.haloCount dir.toNat then s
        else s.modCore p (fun g => { g.setHalo dir.toNat (g.haloCount dir.toNat + 1) with haloHeld := AMap.setD g.haloHeld 0 dir.toNat (n - 1) })) := by
      change execHaloArrival core dir s = _
      unfold execHaloArrival
      simp only [hp]
      rfl
    refine ⟨fun h => hdone.trans (congrArg _ (if_pos h)), fun hn hroom => ⟨_, hdone.trans (congrArg _ (if_neg (by omega))), ?_, ?_⟩⟩
    · rw [State.core_modCore_self]
      rfl
    · rw [State.core_modCore_self]
      refine ⟨rfl, fun z => ⟨(TransferSlot.haloCount_setHalo _ _ _ _).trans ?_, (AMap.getD_setD _ _ _ _ _).trans ?_⟩⟩
      · split
        · next h => rw [h]
        · rfl
      · split
        · next h => rw [h]
        · rfl

end Sys2Proof.Machine.TransferEnds

/-! SUPPORT. Transfers at object addresses, and vat operations on lines and elements. -/
namespace Sys2Proof.Machine.ObjectEnds
open Landing (tc_exec merge)
open TransferEnds (ownWords ownWords_frame ownWords_clean ended complete_delivered complete_failed complete_moved xferWords_own xferWords_same)

/-! Bytes in one fresh block without upset words (11 R279). -/

section Fresh
variable {s : State} (ac : Access) {a n reg : Nat} (hblock : AMap.find? s.tier.blocks (a / 262144) = some (.fresh reg))
  (hin : a % 262144 + n ≤ 262144) (hclean : s.mem.flips = [])

theorem markDirty_mem (s : State) (a n : Nat) : (s.markDirty a n).mem.flips = s.mem.flips ∧ (s.markDirty a n).mem.stack = s.mem.stack := by
  unfold State.markDirty
  split <;> exact ⟨rfl, rfl⟩

include hblock hin hclean

theorem piecesRead_fresh : s.piecesRead ac (piecesOf a n) = (s, 0, Mem.rdBytes s.mem.stack (262144 * reg + a % 262144) n) := by
  rw [piecesOf_one a n hin]
  split
  · next h =>
    rw [h]
    rfl
  · have hpiece : s.pieceRead ac (a, n) = (s, 0, Mem.rdBytes s.mem.stack (262144 * reg + a % 262144) n) := by
      unfold State.pieceRead
      rw [show AMap.find? s.tier.blocks ((a, n).1 / blockBytes) = _ from hblock]
      dsimp only
      rw [State.stackRead_clean s _ _ _ _ hclean]
      rfl
    rw [State.piecesRead, hpiece]
    exact congrArg (fun bs => (s, (0 : Code), bs)) (List.append_nil _)

theorem piecesWrite_fresh {bs : List Byte} (hlen : bs.length = n) : (s.piecesWrite ac (piecesOf a n) bs).2 = 0 ∧
    (s.piecesWrite ac (piecesOf a n) bs).1.mem.stack = Mem.wrBytes s.mem.stack (262144 * reg + a % 262144) bs := by
  rw [piecesOf_one a n hin]
  split
  · next h =>
    rw [List.eq_nil_of_length_eq_zero (hlen.trans h)]
    exact ⟨rfl, rfl⟩
  · have haddr : s.freshAddr a = some (262144 * reg + a % 262144) := by
      unfold State.freshAddr
      rw [show AMap.find? s.tier.blocks (a / blockBytes) = _ from hblock]
      rfl
    obtain ⟨hflips, hstack⟩ := markDirty_mem s (262144 * reg + a % 262144) n
    simp only [State.piecesWrite, haddr, State.stackWrite_clean _ _ _ _ _ (hflips.trans hclean), hstack,
      List.take_of_length_le (le_of_eq hlen), if_true]
    exact ⟨trivial, rfl⟩

end Fresh

section Ranges
variable {s : State} (ac : Access) (line : Nat) {a n reg : Nat} (hblock : AMap.find? s.tier.blocks (a / 262144) = some (.fresh reg))
  (hin : a % 262144 + n ≤ 262144) (hclean : s.mem.flips = [])
include hblock hin hclean

theorem gatherObj_fresh : let r := s.gatherObj ac line a [(0, n)] []
    r.2.1 = 0 ∧ r.1.mem = s.mem ∧ ∀ j, j < n → Mem.rd r.2.2 j = Mem.rd s.mem.stack (262144 * reg + a % 262144 + j) := by
  have hread := piecesRead_fresh (s := s.chargeBytesAt ac.unit line false a n) ac (by rwa [State.tier_chargeBytesAt]) hin
    (by rwa [State.mem_chargeBytesAt])
  rw [State.mem_chargeBytesAt] at hread
  have hgather : s.gatherObj ac line a [(0, n)] [] = (s.chargeBytesAt ac.unit line false a n, 0,
      Mem.wrBytes [] 0 (Mem.rdBytes s.mem.stack (262144 * reg + a % 262144) n)) := by
    simp only [State.gatherObj, Nat.add_zero, hread, ne_eq, not_true, if_false]
  rw [hgather]
  refine ⟨rfl, State.mem_chargeBytesAt .., fun j hj => ?_⟩
  rw [Mem.rd_wrBytes, Mem.rdBytes_length, if_pos (by omega), Nat.sub_zero, Mem.rdBytes_getD _ _ _ _ hj]

theorem scatterObj_fresh (f : Mem) : let r := s.scatterObj ac line a f [(0, n)]
    r.2 = 0 ∧ ∀ y, Mem.rd r.1.mem.stack y = if 262144 * reg + a % 262144 ≤ y ∧ y < 262144 * reg + a % 262144 + n
      then Mem.rd f (y - (262144 * reg + a % 262144)) else Mem.rd s.mem.stack y := by
  obtain ⟨hcode, hstack⟩ := piecesWrite_fresh (s := s.chargeBytesAt ac.unit line true a n) ac (by rwa [State.tier_chargeBytesAt]) hin
    (by rwa [State.mem_chargeBytesAt]) (Mem.rdBytes_length f 0 n)
  rw [State.mem_chargeBytesAt] at hstack
  simp only [State.scatterObj, Nat.add_zero, hcode, ne_eq, not_true, if_false, hstack, true_and]
  intro y
  rw [Mem.rd_wrBytes, Mem.rdBytes_length]
  split
  · rw [Mem.rdBytes_getD _ _ _ _ (by omega), Nat.zero_add]
  · rfl

end Ranges

/-! The link that a transfer crossed (10 R253, R254). -/

section Links
variable (s : State) (p fixed bad : Nat) {x : Xfer} (hmesh : x.kind.onMesh = true)

/-- The corrections of the link counted. -/
def corrected (s : State) (fixed : Nat) : State := { s with mem := { s.mem with ceTotal := s.mem.ceTotal + BitVec.ofNat 64 fixed } }

/-- A line that stayed uncorrectable: counted and recorded. -/
def lineLost (s : State) (p : Nat) : State :=
  ({ s with mem := { s.mem with ueTotal := s.mem.ueTotal + 1 } }).raise
    { FRec.mk0 E_MEM_UNCORR 1 (ident 1 (p / 26)) with ctx := ((s.core p).now.access p).ctx }

include hmesh

theorem linkWords_good (h : bad < 4) : s.linkWords p x fixed bad = (corrected s fixed, 0) := by
  unfold State.linkWords
  rw [hmesh]
  exact if_pos h

theorem linkWords_lost (h : 4 ≤ bad) : s.linkWords p x fixed bad = (lineLost (corrected s fixed) p, E_MEM_UNCORR) := by
  unfold State.linkWords
  rw [hmesh]
  exact if_neg (not_lt.2 h)

end Links

/-! What moves at an object address. -/

section Moves
variable {s : State} {p : Nat} {x : Xfer} {q : Option Nat}

theorem xferMove_mld {m : MoveMap} (hm : (s.core p).now.mapOf x.kind x.mod x.len = some m) (hk : x.kind = .mld) :
    let r := s.gatherObj ((s.core p).now.access p) (s.core p).now.line x.src m.src []
    s.xferMove p x q = if r.2.1 ≠ 0 then (r.1, r.2.1)
      else (r.1.modCore p (fun g => { g with tb := scatterStore g.tb x.dst m.dst (m.apply r.2.2) }), 0) := by
  unfold State.xferMove
  dsimp only
  rw [hm]
  simp only [hk]

theorem xferMove_mst {m : MoveMap} (hm : (s.core p).now.mapOf x.kind x.mod x.len = some m) (hk : x.kind = .mst) :
    s.xferMove p x q = s.scatterObj ((s.core p).now.access p) (s.core p).now.line x.dst (m.apply (gatherStore (s.core p).now.tb x.src m.src)) m.dst := by
  unfold State.xferMove
  dsimp only
  rw [hm]
  simp only [hk]

theorem xferMove_page {d : PageDesc} (hk : x.kind = .page) (hd : x.page = some d) :
    let r := s.landPage ((s.core p).now.access p) (s.core p).now.line (p / 26) (s.core p).now.run d x.mod.toNat
    s.xferMove p x q = if r.2.1 ≠ 0 then (r.1, r.2.1) else (r.1.modCore p (fun g => { g with tb := Mem.wrBytes g.tb x.dst r.2.2 }), 0) := by
  unfold State.xferMove
  simp only [hk, hd]

theorem xferMove_vat {m : MoveMap} (hm : (s.core p).now.mapOf x.kind x.mod x.len = some m) (hk : x.kind = .vat) :
    s.xferMove p x q = (s, if x.bad then E_MEM_UNCORR else 0) := by
  unfold State.xferMove
  dsimp only
  rw [hm]
  simp only [hk]

end Moves

/-- Settles O26: it holds. -/
theorem objectTransfersLand : Obligations.ObjectTransfersLand := by
  unfold Obligations.ObjectTransfersLand
  intro s core idx p fixed bad x hp hx drop done l object
  have hkinds : object → x.kind ≠ .halo ∧ x.kind.onMesh = true ∧ (x.kind = .vat → x.lines = vatLines x) ∧ x.kind ≠ .sld ∧ x.kind ≠ .sst := by
    rintro (h | h | h | ⟨h, hl⟩) <;> rw [h]
    case inr.inr.inr => exact ⟨nofun, rfl, fun _ => hl, nofun, nofun⟩
    all_goals exact ⟨nofun, rfl, nofun, nofun, nofun⟩
  refine ⟨fun hk hlines => ?early, fun hobj hbad => ?lost, fun hobj hbad hm => ?unmapped, fun hobj hbad m hm => ?moves,
    fun ac line a n reg f hblock hin hclean => ⟨gatherObj_fresh ac line hblock hin hclean, scatterObj_fresh ac line hblock hin hclean f⟩⟩
  case early =>
    have hready : s.xferReady (s.core p).now idx x none = false := by
      unfold State.xferReady
      rw [hk]
      exact decide_eq_false hlines
    exact (tc_exec hp hx (by rw [hk]; nofun)).trans (congrArg _ (if_pos (by rw [hready]; rfl)))
  case lost =>
    obtain ⟨hhalo, hmesh, hlines, -, -⟩ := hkinds hobj
    have hready : s.xferReady (s.core p).now idx x none = true := by
      unfold State.xferReady
      obtain h | h | h | ⟨h, hl⟩ := hobj
      case inr.inr.inr =>
        rw [h]
        exact decide_eq_true hl
      all_goals rw [h]
    refine (tc_exec hp hx hhalo).trans (congrArg _ ((if_neg (by rw [hready]; exact Bool.noConfusion)).trans ?_))
    rw [linkWords_lost s p fixed bad hmesh hbad]
    rfl
  case unmapped =>
    obtain ⟨hhalo, hmesh, hlines, -, -⟩ := hkinds hobj
    have heff : l.xferEffect p x none = (l, 0) := by
      unfold State.xferEffect
      rw [show (l.core p).now.mapOf x.kind x.mod x.len = none from hm]
    refine (complete_delivered hp hx hhalo hlines (linkWords_good s p fixed bad hmesh hbad)).trans ?_
    change Host.Outcome.next ((l.xferEffect p x none).1.modCore p (ended idx (l.xferEffect p x none).2)) = _
    rw [heff]
    rfl
  case moves =>
    intro u code c
    obtain ⟨hhalo, hmesh, hlines, hsld, hsst⟩ := hkinds hobj
    have hlink := linkWords_good s p fixed bad hmesh hbad
    have hmap : c.mapOf x.kind x.mod x.len = some m := ((xferWords_same l p x m).mapOf _ _ _).trans hm
    have moved : code = 0 → ∀ {r : State × Code}, u.xferMove p x none = r → done = .next (r.1.modCore p (ended idx r.2)) :=
      fun h0 r hr => complete_moved hp hx hhalo hlines hlink hm h0 hr
    refine ⟨fun hflips => ?_, fun hcode => complete_failed hp hx hhalo hlines hlink hm hcode, fun h0 => ⟨fun hk => ?_, fun hk => ?_,
      fun hk d hd => ?_, fun hk => ?_⟩⟩
    · obtain ⟨tr, tw, ar, aw, hown⟩ := xferWords_own l p x m hsld hsst
      obtain ⟨hcode, hcore⟩ := ownWords_clean l p tr tw ar aw hflips
      refine ⟨(congrArg Prod.snd hown).trans hcode, (congrArg (fun r : State × Code => (r.1.core p).now) hown).trans hcore, ?_⟩
      exact (congrArg (fun r : State × Code => r.1.mem) hown).trans (by rw [ownWords_frame])
    · intro r
      have hmove := xferMove_mld (q := none) hmap hk
      refine ⟨fun hr => ?_, fun hr => ?_⟩
      · exact (moved h0 (hmove.trans (if_neg (not_not.2 hr)))).trans (congrArg _ (merge _ _))
      · exact (moved h0 (hmove.trans (if_pos hr))).trans (congrArg (fun f => Host.Outcome.next (r.1.modCore p f)) (funext fun g => if_pos hr))
    · intro r
      refine (moved h0 (xferMove_mst hmap hk)).trans (congrArg (fun f => Host.Outcome.next (r.1.modCore p f)) (funext fun g => ?_))
      unfold ended
      rw [ite_not]
      rfl
    · intro r
      have hmove := xferMove_page (q := none) hk hd (s := u) (p := p)
      refine ⟨fun hr => ?_, fun hr => ?_⟩
      · exact (moved h0 (hmove.trans (if_neg (not_not.2 hr)))).trans (congrArg _ (merge _ _))
      · exact (moved h0 (hmove.trans (if_pos hr))).trans (congrArg (fun f => Host.Outcome.next (r.1.modCore p f)) (funext fun g => if_pos hr))
    · refine (moved h0 (xferMove_vat hmap hk)).trans (congrArg (fun f => Host.Outcome.next (u.modCore p f)) (funext fun g => ?_))
      unfold ended
      cases x.bad <;> rfl

/-! Vat operations (10 R258 to R261). -/

section Vat
variable (s : State) (ac : Access) (code : BitVec 4) (z k : Nat) (xs : List Byte)

/-- The values that an operation leaves on a line. -/
def vatOut : List Byte :=
  vatLine code (vatWidth code) (s.chan (s.chanOf z)).srKey (s.chan (s.chanOf z)).srCtr k (z % 64 / vatWidth code)
    (Mem.rdBytes s.mem.stack z (vatWidth code * k)) xs

/-- What an applied operation leaves of the channels and the stack. -/
theorem vatApply_clean (hw : vatWidth code ≠ 0) (hx : xs.length = vatWidth code * k) (hf : s.mem.flips = []) :
    s.vatApply ac code z xs = (((s.markDirty z xs.length).withStack (Mem.wrBytes s.mem.stack z (vatOut s code z k xs))).modChan (s.chanOf z)
      (fun ch => { ch with ops := ch.ops + 1, srCtr := if code = 2 then ch.srCtr + 8 else ch.srCtr }), 0,
      Mem.rdBytes s.mem.stack z (vatWidth code * k)) :=
  VatLines.vat_eq s ac code z k xs hw hx hf

theorem markDirty_eq (a n : Nat) : ∃ r, s.markDirty a n = { s with mem := { s.mem with relocs := r } } := by
  unfold State.markDirty
  split
  · exact ⟨_, rfl⟩
  · exact ⟨_, rfl⟩

theorem rdLE_wrBytes_part (m : Mem) (a i w : Nat) (bs : List Byte) (h : i + w ≤ bs.length) :
    Mem.rdLE (Mem.wrBytes m a bs) (a + i) w = leNat ((bs.drop i).take w) := by
  rw [Mem.rdLE, Mem.rdBytes_wrBytes m a i w bs h]

theorem leNat_part_rdBytes (m : Mem) (a i w n : Nat) (h : i + w ≤ n) :
    leNat (((Mem.rdBytes m a n).drop i).take w) = Mem.rdLE m (a + i) w := by
  rw [Mem.rdLE, Mem.take_drop_rdBytes m a i w n h]

end Vat

section Lines
variable {s : State} {core idx p : Nat} {x : Xfer} (hp : s.physOf core = some p) (hx : (s.core p).now.xfers[idx]? = some x)

/-- Whether an earlier vat transfer of the core still has to apply the next line of `x`. -/
def lineWaits (c : CoreRegs) (idx : Nat) (x : Xfer) : Bool :=
  (c.xfers.take idx).any (fun y => y.kind == .vat && decide (y.dst / 64 + y.lines ≤ x.dst / 64 + x.lines) &&
    decide (x.dst / 64 + x.lines < y.dst / 64 + vatLines y))

theorem lineWaits_iff (c : CoreRegs) (idx : Nat) (x : Xfer) : lineWaits c idx x = true ↔ ∃ z ∈ c.xfers.take idx, z.kind = .vat ∧
    z.dst / 64 + z.lines ≤ x.dst / 64 + x.lines ∧ x.dst / 64 + x.lines < z.dst / 64 + vatLines z := by
  simp only [lineWaits, List.any_eq_true, Bool.and_eq_true, beq_iff_eq, decide_eq_true_eq, and_assoc]

include hp hx

theorem exec_vatLineApply_waits (h : x.kind ≠ .vat ∨ vatLines x ≤ x.lines ∨ lineWaits (s.core p).now idx x = true) :
    exec (.vatLineApply core idx) s = .next s := by
  change execVatLineApply core idx s = _
  unfold execVatLineApply
  simp only [hp, hx]
  exact congrArg _ (if_pos h)

theorem exec_vatLineApply_unmapped (h : s.freshAddr (max x.dst (64 * (x.dst / 64 + x.lines))) = none) :
    exec (.vatLineApply core idx) s = .next s := by
  change execVatLineApply core idx s = _
  unfold execVatLineApply
  simp only [hp, hx, h, ite_self]

theorem exec_vatLineApply_applies (h : ¬(x.kind ≠ .vat ∨ vatLines x ≤ x.lines ∨ lineWaits (s.core p).now idx x = true)) {y : Nat}
    (hy : s.freshAddr (max x.dst (64 * (x.dst / 64 + x.lines))) = some y) :
    let c := (s.core p).now
    let line := x.dst / 64 + x.lines
    let a := max x.dst (64 * line)
    let n := min (x.dst + x.len) (64 * line + 64) - a
    let r := (s.chargeBytesAt (ident 1 (p / 26)) c.line true a n).vatApply (c.access p) x.mod y (Mem.rdBytes c.tb (x.src + (a - x.dst)) n)
    exec (.vatLineApply core idx) s = .next (r.1.modCore p (fun g => { g with
      xfers := g.xfers.modify idx (fun z => { z with lines := z.lines + 1, bad := z.bad || decide (r.2.1 ≠ 0) }) })) := by
  change execVatLineApply core idx s = _
  unfold execVatLineApply
  simp only [hp, hx, hy]
  exact congrArg _ (if_neg h)

end Lines

section Elements
variable (s : State) (ctx addr : Nat) (code : BitVec 4) (v : W64)

/-- How a coach or the umpire reaches an element. -/
def elementAccess (ctx : Nat) : Access := ⟨if ctx = 0xFFFF then .umpire else .coach ctx, 1, ctx, ident 2 1024⟩

/-- The unit that is answered. -/
def elementUnit (ctx : Nat) : Nat := if ctx = 0xFFFF then 131072 else 65536 + ctx

/-- The answer to a vat operation on an element. -/
def elementAnswered (ctx addr w : Nat) (r : State × Code × List Byte) : State :=
  (if r.2.1 = 0 then (r.1.chargeBytes 1024 false addr w).chargeBytes 1024 true addr w else r.1).answerUnit (elementUnit ctx) r.2.1
    (if r.2.1 = 0 then r.2.2 else [])

theorem exec_vatElementOp_ill (h : vatWidth code < 4 ∨ addr % vatWidth code ≠ 0) : exec (.vatElementOp ctx addr code v) s = .next s :=
  congrArg _ (if_pos h)

theorem exec_vatElementOp (h : ¬(vatWidth code < 4 ∨ addr % vatWidth code ≠ 0)) : exec (.vatElementOp ctx addr code v) s =
    .next (elementAnswered ctx addr (vatWidth code) (s.objVat (elementAccess ctx) code addr (leBytes (vatWidth code) v.toNat))) :=
  congrArg _ (if_neg h)

theorem elementAnswered_refused (ctx addr w : Nat) {r : State × Code × List Byte} (h : r.2.1 ≠ 0) :
    elementAnswered ctx addr w r = r.1.answerUnit (elementUnit ctx) r.2.1 [] := by
  rw [elementAnswered, if_neg h, if_neg h]

theorem elementAnswered_done (ctx addr w : Nat) {r : State × Code × List Byte} (h : r.2.1 = 0) :
    elementAnswered ctx addr w r = ((r.1.chargeBytes 1024 false addr w).chargeBytes 1024 true addr w).answerUnit (elementUnit ctx) 0 r.2.2 := by
  rw [elementAnswered, if_pos h, if_pos h, h]

section Object
variable {s} (ac : Access) {xs : List Byte}

theorem objVat_refused {a : Nat} (h : s.accessCode ac.ag true a xs.length ≠ 0) :
    s.objVat ac code a xs = (s, s.accessCode ac.ag true a xs.length, []) := if_pos h

theorem objVat_granted {a z : Nat} (h : s.accessCode ac.ag true a xs.length = 0) (hz : s.freshAddr a = some z) :
    s.objVat ac code a xs = s.vatApply ac code z xs := by
  refine (if_neg (not_not.2 h)).trans ?_
  rw [hz]

end Object

end Elements

section Applied
variable (s : State) (ac : Access) (code : BitVec 4) (z k : Nat) (xs : List Byte) (hw : vatWidth code ≠ 0)
  (hx : xs.length = vatWidth code * k) (hf : s.mem.flips = [])
include hw hx hf

/-- The stack after an applied operation: the line's values, and nothing else changed. -/
theorem vatApply_stack : (s.vatApply ac code z xs).1.mem.stack = Mem.wrBytes s.mem.stack z (vatOut s code z k xs) := by
  rw [vatApply_clean s ac code z k xs hw hx hf]
  rfl

/-- An applied operation changes the memory's unit only. -/
theorem vatApply_frame : (s.vatApply ac code z xs).1 = { s with mem := (s.vatApply ac code z xs).1.mem } := by
  obtain ⟨r, hr⟩ := markDirty_eq s z xs.length
  rw [vatApply_clean s ac code z k xs hw hx hf, hr]
  rfl

theorem vatApply_chan (ch : Nat) : (s.vatApply ac code z xs).1.chan ch = if ch = s.chanOf z then
    { s.chan (s.chanOf z) with ops := (s.chan (s.chanOf z)).ops + 1,
                               srCtr := if code = 2 then (s.chan (s.chanOf z)).srCtr + 8 else (s.chan (s.chanOf z)).srCtr }
    else s.chan ch := by
  obtain ⟨r, hr⟩ := markDirty_eq s z xs.length
  rw [vatApply_clean s ac code z k xs hw hx hf, hr, State.chan_modChan]
  rfl

/-- Every element holds the result of the code. -/
theorem vatApply_elem {j : Nat} (hj : j < k) :
    Mem.rdLE (s.vatApply ac code z xs).1.mem.stack (z + vatWidth code * j) (vatWidth code) =
      vatElem code (Mem.rdLE s.mem.stack (z + vatWidth code * j) (vatWidth code)) (leNat ((xs.drop (vatWidth code * j)).take (vatWidth code)))
        (srBits (s.chan (s.chanOf z)).srKey (s.chan (s.chanOf z)).srCtr (z % 64 / vatWidth code + j)) % 256 ^ vatWidth code := by
  have hin : vatWidth code * j + vatWidth code ≤ vatWidth code * k := by
    rw [← Nat.mul_succ]
    exact Nat.mul_le_mul_left _ hj
  have hlen : (vatOut s code z k xs).length = vatWidth code * k := VatLines.vatLine_len _ _ _ _ _ _ _ _
  rw [vatApply_stack s ac code z k xs hw hx hf, rdLE_wrBytes_part _ _ _ _ _ (by rwa [hlen]), vatOut, VatLines.vatLine_elem _ _ _ _ _ _ _ _ _ hj,
    leNat_part_rdBytes _ _ _ _ _ hin]

theorem vatApply_other {q : Nat} (hq : q < z ∨ z + vatWidth code * k ≤ q) :
    Mem.rd (s.vatApply ac code z xs).1.mem.stack q = Mem.rd s.mem.stack q := by
  have hlen : (vatOut s code z k xs).length = vatWidth code * k := VatLines.vatLine_len _ _ _ _ _ _ _ _
  rw [vatApply_stack s ac code z k xs hw hx hf, Mem.rd_wrBytes_out _ _ _ _ (by rwa [hlen])]

end Applied

/-- Settles O27: it holds. -/
theorem vatOperations : Obligations.VatOperations := by
  unfold Obligations.VatOperations
  intro s core idx p x y hp hx c line a n waits
  have hwaits : lineWaits c idx x = true ↔ waits := lineWaits_iff c idx x
  refine ⟨fun h => ?_, fun hk hl hnw hfresh => ?_, ?element, ?applied⟩
  · by_cases hu : s.freshAddr a = none
    · exact exec_vatLineApply_unmapped hp hx hu
    · exact exec_vatLineApply_waits hp hx (by rw [hwaits]; tauto)
  · refine exec_vatLineApply_applies hp hx ?_ hfresh
    rw [hwaits]
    simp only [not_or, not_not, not_le]
    exact ⟨hk, hl, hnw⟩
  case element =>
    intro ctx addr code v w ag done unit
    have hlen : (leBytes w v.toNat).length = w := leBytes_length ..
    refine ⟨exec_vatElementOp_ill s ctx addr code v, fun hw hal hcode => ?_, ?granted⟩
    · have hobj : s.objVat (elementAccess ctx) code addr (leBytes w v.toNat) = (s, s.accessCode ag true addr w, []) := by
        rw [objVat_refused code _ (by rwa [hlen]), hlen]
        rfl
      refine (exec_vatElementOp s ctx addr code v (not_or.2 ⟨not_lt.2 hw, not_not.2 hal⟩)).trans (congrArg _ ?_)
      rw [hobj]
      exact elementAnswered_refused ctx addr _ hcode
    · intro hw hal hcode z hz r
      have hobj : s.objVat (elementAccess ctx) code addr (leBytes w v.toNat) = r := objVat_granted code _ (by rwa [hlen]) hz
      have hdone : done = .next (elementAnswered ctx addr w r) := (exec_vatElementOp s ctx addr code v (not_or.2 ⟨not_lt.2 hw, not_not.2 hal⟩)).trans (by rw [hobj])
      exact ⟨fun hr => hdone.trans (congrArg _ (elementAnswered_refused ctx addr w hr)),
        fun hr => hdone.trans (congrArg _ (elementAnswered_done ctx addr w hr))⟩
  case applied =>
    intro ac code z k xs hw hx hf w h r
    refine ⟨?_, ?_, vatApply_frame s ac code z k xs hw hx hf, fun j hj => vatApply_elem s ac code z k xs hw hx hf hj,
      fun q hq => vatApply_other s ac code z k xs hw hx hf hq, vatApply_chan s ac code z k xs hw hx hf⟩
    · exact congrArg (fun r : State × Code × List Byte => r.2.1) (vatApply_clean s ac code z k xs hw hx hf)
    · exact congrArg (fun r : State × Code × List Byte => r.2.2) (vatApply_clean s ac code z k xs hw hx hf)

end Sys2Proof.Machine.ObjectEnds

/-! SUPPORT. What coaches do for the runs of a step, and how steps form and end. -/
namespace Sys2Proof.Machine.CoachWork
open StepForm (pick_some pickLoop_ok foldl_inv endEntry_seq endEntry_steps)

/-! Recalls (12 R322). -/

section Recall
variable {s : State} {core b : Nat} {r : Run} {h : Shard} {t : Step} {o : Obj}

/-- A run held for the recall of its shard, marked so. -/
def heldFor (r : Run) (s : State) : State :=
  { s with sch := { s.sch with queue := s.sch.queue.map (fun x => if x = r then { x with recalled := true } else x) } }

/-- Whether a move of the object that no request asked for goes to a tier already. -/
def recallUnder (o : Obj) (tier : Nat) : Bool :=
  match o.move with | some m => m.req.isNone && decide (m.dest = tier) | none => false

theorem recallUnder_iff (o : Obj) (tier : Nat) : recallUnder o tier = true ↔ ∃ m, o.move = some m ∧ m.req = none ∧ m.dest = tier := by
  unfold recallUnder
  cases o.move with
  | none => simp
  | some m => simp

variable (hrun : s.sch.queue.find? (fun r => decide (r.core = core) && r.parts.any (fun p => s.inCave p.1 p.2)) = some r)
  (hshard : (r.parts.find? (fun p => s.inCave p.1 p.2)).bind (fun p => s.shardAt p.1) = some (b, h))
  (hstep : s.sch.steps.find? (fun t => t.same r.ctx r.step) = some t) (hobj : AMap.find? s.tier.objs b = some o)
include hrun hshard hstep hobj

theorem exec_shardRecall : exec (.shardRecall core) s = .next (
    if recallUnder o h.recallTier then heldFor r s
    else
      let s1 := { s with wgt := { s.wgt with recalls := s.wgt.recalls + 1 } }
      if s1.moveCode b o h.recallTier ≠ 0 then s1.failStep t E_WGT_RECALL none (ident 1 (core / 25))
      else heldFor r (s1.startMove b o h.recallTier none)) := by
  change execShardRecall core s = _
  unfold execShardRecall
  simp only [hrun, hshard, hstep, hobj]
  rfl

end Recall

/-! Halo deliveries (04 R118). -/

section Delivery
variable {s : State} {core p q k : Nat} {r : Run} {w : W32} {b : Playbook} {t : Step} {h : HaloEnt} {l : Layer}

/-- The bytes of a halo written and counted at the core that receives them. -/
theorem haloCopy_rdBytes (s : State) (q : Nat) (h : HaloEnt) (dir : Nat) (m : Mem) :
    s.haloCopy q h dir (Mem.rdBytes m h.src h.bytes) = s.modCore q (fun g =>
      { ((g.touch 1 [] [(h.dst, h.bytes)]).getD g).setHalo ((dir + 2) % 4) (((g.touch 1 [] [(h.dst, h.bytes)]).getD g).haloCount ((dir + 2) % 4) + 1)
        with tb := Mem.wrBytes ((g.touch 1 [] [(h.dst, h.bytes)]).getD g).tb h.dst (Mem.rdBytes m h.src h.bytes) }) := by
  unfold State.haloCopy
  rw [Mem.rdBytes_length]

/-- A one-way post delivered: none while the receiver's counter is full. -/
def delivered (s : State) (p q : Nat) (h : HaloEnt) : Option State :=
  if s.haloRoom q (h.dir % 4) then some (s.haloCopy q h (h.dir % 4) (Mem.rdBytes (s.core p).now.tb h.src h.bytes)) else none

theorem haloPost_oneWay (hp : s.physOf core = some p) (hbook : AMap.find? s.book.books r.playbook = some b)
    (hstep : s.sch.steps.find? (fun t => t.same r.ctx r.step) = some t) (hent : b.plan.halos[w.toNat % 2 ^ 16]? = some h)
    (hlayer : b.plan.layers[r.layer]? = some l) (hsame : h.layer = l.layer) (hway : h.dir.testBit 2 = false)
    (hpeer : haloPeer (s.unitsFor r t b) core (h.dir % 4) = some k) (hq : s.physOf k = some q) : s.haloPost core w r = delivered s p q h := by
  unfold State.haloPost
  simp only [hbook, hstep, hent, hlayer, hsame, ne_eq, not_true, if_false, hway, Bool.false_eq_true]
  have hside : s.haloSide (s.unitsFor r t b) core (w.toNat % 2 ^ 16) h (h.dir % 4) false = delivered s p q h := by
    unfold State.haloSide
    simp only [hpeer, hp, hq]
    rfl
  rw [hside]
  cases delivered s p q h <;> rfl

theorem exec_delivery_late (hp : s.physOf core = some p)
    (howed : (s.clu (p / 26)).owed.find? (fun e => decide (e.1 = p)) = some (p, w, r)) :
    exec (.coachHaloDelivery core) s = .next ((s.haloPost core w r).elim s
      (fun s1 => s1.modClu (p / 26) (fun c => { c with owed := c.owed.erase (p, w, r) }))) := by
  change execCoachHaloDelivery core s = _
  unfold execCoachHaloDelivery
  simp only [hp, howed]
  cases s.haloPost core w r <;> rfl

theorem exec_delivery_now (hp : s.physOf core = some p) (howed : (s.clu (p / 26)).owed.find? (fun e => decide (e.1 = p)) = none)
    (hrun : (s.core p).now.run = some r) (hev : (s.clu (p / 26)).events.find? (fun e => e.isHalo && decide (e.core = p)) = some (.signal p w)) :
    exec (.coachHaloDelivery core) s = .next ((s.haloPost core w r).elim s
      (fun s1 => s1.modClu (p / 26) (fun c => { c with events := c.events.erase (.signal p w) }))) := by
  change execCoachHaloDelivery core s = _
  unfold execCoachHaloDelivery
  simp only [hp, howed, hrun, hev]
  cases s.haloPost core w r <;> rfl

end Delivery

/-! Merges (05 R153; 08 R221). -/

section Merge
variable {s : State} {court ctx step : Nat} {t : Step} {b : Playbook} {l : Layer} {mg : Merging}

theorem exec_mergeDispatch_undue (hstep : s.stepAt court ctx step = some t) (h : t.mergeDue = false ∨ t.left ≠ 0 ∨ t.status ≠ 0) :
    exec (.mergeDispatch court ctx step) s = .next s := by
  change execMergeDispatch court ctx step s = _
  unfold execMergeDispatch
  simp only [hstep]
  exact congrArg _ (if_pos (h.imp_left fun h => by rw [h]; rfl))

/-- A merge that is due: at once within the module, and over the ring once this module's records are out. -/
theorem exec_mergeDispatch_due (hstep : s.stepAt court ctx step = some t) (hbook : AMap.find? s.book.books t.playbook = some b)
    (hlayer : b.plan.layers[t.layer]? = some l) (hmg : b.plan.merging l = some mg) (hdue : t.mergeDue = true ∧ t.left = 0 ∧ t.status = 0) :
    exec (.mergeDispatch court ctx step) s = .next (if !mg.ring l then s.mergeNow t b mg
      else if t.mergeGot.contains (16 * t.layer + s.ring.position) then (if s.recordsHere t b.plan mg l then s.mergeNow t b mg else s)
      else if s.ring.leaving.isSome then s
      else
        let t1 := { t with mergeGot := t.mergeGot ++ [16 * t.layer + s.ring.position] }
        let r := s.sendRecords t b.plan mg l
        if r.2 ≠ 0 then r.1.failStep t r.2 none (ident 1 (s.leadCluster court))
        else if (r.1.putStep t1).recordsHere t1 b.plan mg l then (r.1.putStep t1).mergeNow t1 b mg else r.1.putStep t1) := by
  obtain ⟨hd, hl, hs⟩ := hdue
  change execMergeDispatch court ctx step s = _
  unfold execMergeDispatch
  simp only [hstep, hbook, hlayer, hmg, Option.bind_some, Option.map_some]
  exact congrArg _ (if_neg (by simp [hd, hl, hs]))

theorem mergeNow_runs (s : State) (t : Step) (b : Playbook) (hscan : mg.scan = false) (hruns : s.mergeRuns t b t.layer ≠ []) :
    let t1 := { t with mergeDue := false, merged := true, left := (s.mergeRuns t b t.layer).length }
    s.mergeNow t b mg = { s.putStep t1 with
      free := s.free + 1
      sch := { (s.putStep t1).sch with queue := s.sch.queue ++ s.mergeRuns t b t.layer } } := by
  unfold State.mergeNow
  rw [hscan]
  exact (if_neg Bool.false_ne_true).trans (if_neg hruns)

end Merge

/-- Settles O30: it holds. -/
theorem coachesServeSteps : Obligations.CoachesServeSteps := by
  unfold Obligations.CoachesServeSteps
  intro s
  refine ⟨?asks, ?deliver, ?gather, ?merge⟩
  case asks =>
    intro core r b h t o hrun hshard hstep hobj held under s1 code
    have hdone := exec_shardRecall hrun hshard hstep hobj
    have hunder := recallUnder_iff o h.recallTier
    refine ⟨fun hu => hdone.trans (congrArg _ (if_pos (hunder.2 hu))), fun hu hc => ?_, fun hu hc => ?_⟩
    · exact hdone.trans (congrArg _ ((if_neg (mt hunder.1 hu)).trans (if_pos hc)))
    · exact hdone.trans (congrArg _ ((if_neg (mt hunder.1 hu)).trans (if_neg (not_not.2 hc))))
  case deliver =>
    intro core p q k r w b t h l late hp hnow hlate hbook hstep hent hlayer hsame hway hpeer hq d
    have hpost := haloPost_oneWay hp hbook hstep hent hlayer hsame hway hpeer hq
    have hroom : s.haloRoom q (h.dir % 4) = true ↔ (s.core q).now.haloCount d < 65535 := decide_eq_true_iff
    have hcopy : ∀ f : Cluster → Cluster, ((delivered s p q h).elim s fun s1 => s1.modClu (p / 26) f) =
        if (s.core q).now.haloCount d < 65535 then
          (s.haloCopy q h (h.dir % 4) (Mem.rdBytes (s.core p).now.tb h.src h.bytes)).modClu (p / 26) f else s := fun f => by
      unfold delivered
      by_cases hr : (s.core q).now.haloCount d < 65535
      · rw [if_pos (hroom.2 hr), if_pos hr, Option.elim_some]
      · rw [if_neg (mt hroom.1 hr), if_neg hr, Option.elim_none]
    cases late with
    | false =>
      obtain ⟨howed, hrun, hev⟩ := hnow rfl
      rw [exec_delivery_now hp howed hrun hev, hpost, hcopy, haloCopy_rdBytes]
      rfl
    | true =>
      rw [exec_delivery_late hp (hlate rfl), hpost, hcopy, haloCopy_rdBytes]
      rfl
  case gather =>
    intro court ctx step t h hstep hh r h1 idle
    have hdone : exec (.huddleGather court ctx step) s = .next (if idle then s else if r.2.1 ≠ 0 then
        r.1.failStep t r.2.1 none (ident 1 (s.leadCluster court)) else if leNat r.2.2 ≠ h.need then r.1
        else ((r.1.putStep { t with huddles := AMap.insert t.huddles t.layer h1 }).advance ctx step (s.layersOf t + 1)).mark) := by
      change execHuddleGather court ctx step s = _
      unfold execHuddleGather
      simp only [hstep, hh]
      rfl
    refine ⟨fun hi => hdone.trans (congrArg _ (if_pos hi)), fun hi hc => ?_, fun hi hc hn => ?_, fun hi hc hn => ?_⟩
    · exact hdone.trans (congrArg _ ((if_neg hi).trans (if_pos hc)))
    · exact hdone.trans (congrArg _ ((if_neg hi).trans ((if_neg (not_not.2 hc)).trans (if_pos hn))))
    · exact hdone.trans (congrArg _ ((if_neg hi).trans ((if_neg (not_not.2 hc)).trans (if_neg (not_not.2 hn)))))
  case merge =>
    intro court ctx step t b l mg hstep hbook hlayer hmg done due own
    refine ⟨fun hnot => ?_, fun hdue hring => ?_, fun hdue hring hown => ?_, fun hscan hruns => ?_⟩
    · refine exec_mergeDispatch_undue hstep ?_
      simpa only [due, not_and_or, Bool.not_eq_true, Bool.not_eq_true'] using hnot
    · exact (exec_mergeDispatch_due hstep hbook hlayer hmg hdue).trans (congrArg _ (if_pos (by rw [hring]; rfl)))
    · refine (exec_mergeDispatch_due hstep hbook hlayer hmg hdue).trans (congrArg _ ((if_neg (by rw [hring]; exact Bool.noConfusion)).trans ?_))
      exact if_pos (List.contains_iff_mem.2 hown)
    · exact mergeNow_runs s t b hscan hruns

/-! Forming steps (14 R360, R372, R375). -/

section Forming
variable (s : State) (court : Nat) (lc : Bool)

/-- Whether a lane of a court may form a step from its roster. -/
def MayForm : Prop := s.courtDefined court = true ∧ s.rosterMode court = true ∧ s.awake court = true ∧ s.laneFree court lc = true

theorem mayForm_iff : (¬MayForm s court lc) ↔
    ((!s.courtDefined court) = true ∨ (!s.rosterMode court) = true ∨ (!s.awake court) = true ∨ (!s.laneFree court lc) = true) := by
  simp only [MayForm, not_and_or, Bool.not_eq_true, Bool.not_eq_true']

theorem exec_stepFormRoster_waits (h : ¬MayForm s court lc ∨ s.pickCtx court lc = none) : exec (.stepFormRoster court lc) s = .next s := by
  change execStepFormRoster court lc s = _
  unfold execStepFormRoster
  by_cases hok : MayForm s court lc
  · rw [h.resolve_left (not_not.2 hok)]
    simp only [ite_self]
  · exact congrArg _ (if_pos ((mayForm_iff s court lc).1 hok))

theorem exec_stepFormRoster {ctx : Nat} (hok : MayForm s court lc) (h : s.pickCtx court lc = some ctx) :
    exec (.stepFormRoster court lc) s = .next (s.formFor court ctx lc).mark := by
  change execStepFormRoster court lc s = _
  unfold execStepFormRoster
  rw [h]
  exact congrArg _ (if_neg (mt (mayForm_iff s court lc).2 (not_not.2 hok)))

/-- The context picked has a candidate, may form, and among such contexts formed its last step earliest. -/
theorem pickCtx_least {ctx : Nat} (h : s.pickCtx court lc = some ctx) : (s.mayForm court lc ctx = true ∧ s.candidates ctx ≠ []) ∧
    ∀ d, d ∈ s.sch.ctxs.map (·.1) → s.mayForm court lc d = true → s.candidates d ≠ [] →
      (s.ctxSt ctx).lastFormed ≤ (s.ctxSt d).lastFormed := by
  have hgood : ∀ c, (s.mayForm court lc c && !(s.candidates c).isEmpty) = true ↔ s.mayForm court lc c = true ∧ s.candidates c ≠ [] :=
    fun c => by rw [Bool.and_eq_true, Bool.not_eq_true', List.isEmpty_eq_false_iff]
  obtain ⟨hmem, hleast⟩ := pick_some s _ (fun _ => rfl) (fun _ _ => rfl) _ ctx h
  exact ⟨(hgood ctx).1 (List.mem_filter.1 hmem).2, fun d hd hf hc => hleast d (List.mem_filter.2 ⟨hd, (hgood d).2 ⟨hf, hc⟩⟩)⟩

end Forming

/-! Ending steps (14 R374). -/

theorem fbStep_sch (s : State) (court layer sat elems : Nat) : (s.fbStep court layer sat elems).sch = s.sch := by
  unfold State.fbStep
  split
  · rfl
  · split <;> rfl

theorem endCounts_steps (s : State) (t : Step) : (s.endCounts t).sch.steps = s.sch.steps :=
  foldl_inv (fun u : State => u.sch.steps = s.sch.steps) _ (fun u _ h => (congrArg (·.steps) (fbStep_sch u _ _ _ _)).trans h) _ _ rfl

theorem endEntries_steps (t : Step) (es : List StepEnt) (s : State) : (es.foldl (fun s e => s.endEntry t e) s).sch.steps = s.sch.steps :=
  foldl_inv (fun u : State => u.sch.steps = s.sch.steps) _ (fun u e h => (endEntry_steps u t e).trans h) _ _ rfl

/-- The state without a step, its dispatch counters and the pages staged for it. -/
def withoutStep (s : State) (ctx step : Nat) : State :=
  { s with
    sch := { s.sch with
      steps := s.sch.steps.filter (fun x => !x.same ctx step)
      dispatched := s.sch.dispatched.filter (fun e => decide (e.1 / 32768 ≠ 2 ^ 48 * ctx + step)) }
    clus := s.clus.map (fun (e : Nat × Cluster) =>
      (e.1, { e.2 with cache := e.2.cache.filter (fun p => !(decide (p.ctx = ctx) && decide (p.step = step))) })) }

/-- The state once every entry of a step has its outcome and the monitor its counts. -/
def stepEnded (s : State) (ctx step : Nat) (t : Step) : State :=
  (t.ents.foldl (fun s e => s.endEntry t e) (withoutStep s ctx step)).endCounts t

theorem stepEnded_steps (s : State) (ctx step : Nat) (t : Step) :
    (stepEnded s ctx step t).sch.steps = s.sch.steps.filter (fun x => !x.same ctx step) := by
  rw [stepEnded, endCounts_steps, endEntries_steps]
  rfl

section Complete
variable {s : State} {court ctx step : Nat} {t : Step} (hstep : s.stepAt court ctx step = some t)
include hstep

theorem exec_stepComplete_early (h : t.done = false) : exec (.stepComplete court ctx step) s = .next s := by
  change execStepComplete court ctx step s = _
  unfold execStepComplete
  simp only [hstep, h, Bool.not_false, if_true]

/-- A step done leaves the steps, and a batch is answered. -/
theorem exec_stepComplete_done (h : t.done = true) : exec (.stepComplete court ctx step) s = .next (((t.batch.elim (stepEnded s ctx step t)
    (fun r => (stepEnded s ctx step t).answer r t.status (leBytes 2 0 ++ leBytes 8 t.num ++
      leBytes 2 (if t.status = 0 then 0xFFFF else t.failAt.getD 0xFFFF)))).disengage ctx).mark) := by
  change execStepComplete court ctx step s = _
  unfold execStepComplete
  simp only [hstep, h, Bool.not_true, Bool.false_eq_true, if_false]
  cases t.batch <;> rfl

end Complete

/-! What a step leaves of a roster entry (14 R374). -/

section Roster
variable (q : Seq) (t : Step)

theorem seqAfter_success (h : t.status = 0) : q.after t =
    { q with
      served := if t.num % 2 ^ 32 = 0 then 1 else t.num % 2 ^ 32
      lastStatus := t.status
      pass := if decide (q.passes ≤ q.pass + 1) then 0 else q.pass + 1
      frame := if decide (q.passes ≤ q.pass + 1) then (q.frame + q.chunk) % 2 ^ 32 else q.frame
      steps := q.steps + 1
      runs := q.runs + 1 } := if_pos (decide_eq_true h)

theorem seqAfter_fault (h : t.status ≠ 0) : q.after t =
    { q with served := if t.num % 2 ^ 32 = 0 then 1 else t.num % 2 ^ 32, lastStatus := t.status } :=
  if_neg (ne_true_of_eq_false (decide_eq_false h))

theorem stream_after_idle (x : Stream) (failed : Bool) : x.after false failed = x := rfl
theorem stream_after_ran (x : Stream) : x.after true false = { x with seqNo := x.seqNo + 1 } := rfl
theorem stream_after_failed (x : Stream) : x.after true true = { x with st := .lost } := rfl

theorem seqAfter_status : (q.after t).lastStatus = t.status := by
  by_cases h : t.status = 0
  · rw [seqAfter_success q t h]
  · rw [seqAfter_fault q t h]

theorem seqAfter_served : (q.after t).served = if t.num % 2 ^ 32 = 0 then 1 else t.num % 2 ^ 32 := by
  by_cases h : t.status = 0
  · rw [seqAfter_success q t h]
  · rw [seqAfter_fault q t h]

end Roster

/-! Batches (14 R375; 12 R315). -/

section Batches
variable {s : State} {ctx : Nat} {b : Batch} {rest : List Batch}

/-- Whether a sequence of a batch is bound to another generation than the batch was accepted with. -/
def mixedGen (s : State) (b : Batch) : Bool :=
  b.ents.any (fun e => match s.seq e.seq with | some q => decide (q.gen ≠ b.gen) | none => false)

theorem mixedGen_iff (s : State) (b : Batch) : mixedGen s b = true ↔ ∃ e ∈ b.ents, ∃ q, s.seq e.seq = some q ∧ q.gen ≠ b.gen := by
  rw [mixedGen, List.any_eq_true]
  refine exists_congr fun e => and_congr_right fun _ => ?_
  cases s.seq e.seq with
  | none => simp
  | some q => simp

/-- The playbook that a batch is formed with, and the modes of its layers. -/
def batchBook (s : State) (b : Batch) : Nat := (b.ents.findSome? (fun e => (s.seq e.seq).map (·.playbook))).getD b.playbook

def batchModes (s : State) (ctx : Nat) (b : Batch) (book : Nat) : AMap Bool :=
  if book = b.playbook then b.modes else
    match AMap.find? s.book.books book with | some k => s.modesNow (s.courtOf ctx) k.plan | none => []

theorem batchBook_same (h : ∀ e ∈ b.ents, ∀ q, s.seq e.seq = some q → q.playbook = b.playbook) : batchBook s b = b.playbook := by
  unfold batchBook
  cases hfind : b.ents.findSome? (fun e => (s.seq e.seq).map (·.playbook)) with
  | none => rfl
  | some k =>
    obtain ⟨e, he, hk⟩ := List.exists_of_findSome?_eq_some hfind
    obtain ⟨q, hq, rfl⟩ := Option.map_eq_some_iff.1 hk
    exact h e he q hq

/-- The first queued batch of a context: it waits, is refused as mixed, or is formed. -/
theorem exec_fixedStepForm (hq : (s.ctxSt ctx).queue = b :: rest) :
    let lc := match s.ctxRec ctx with | some r => r.lc | none => false
    let s1 := s.setCtx ctx { s.ctxSt ctx with queue := rest }
    let ents := b.ents.map (fun e => match s.seq e.seq with
      | some q => { e with sealFlag := e.sealFlag || q.isFuture, sv := q.vector }
      | none => e)
    exec (.fixedStepForm ctx) s = .next (
      if !s.mayForm (s.courtOf ctx) lc ctx ∨ !s.awake (s.courtOf ctx) ∨ !s.laneFree (s.courtOf ctx) lc ∨ !s.batchReady b then s
      else if mixedGen s b then ((s1.answer b.req E_WGT_MIXED (leBytes 2 0 ++ leBytes 8 0 ++ leBytes 2 0xFFFF)).disengage ctx).mark
      else (s1.formStep (s.courtOf ctx) ctx lc (batchBook s b) b.shape ents (batchModes s ctx b (batchBook s b)) (some b.req)).elim s
        State.mark) := by
  intro lc s1 ents
  have hdone : exec (.fixedStepForm ctx) s = execFixedStepForm ctx s := rfl
  unfold execFixedStepForm at hdone
  rw [hdone]
  simp only [hq]
  refine congrArg _ (if_congr Iff.rfl rfl (if_congr Iff.rfl rfl ?_))
  have formed : ∀ o : Option State, (match o with | none => s | some t => t.mark) = o.elim s State.mark := fun o => by cases o <;> rfl
  exact formed _

end Batches

/-- Settles O31: it holds. -/
theorem stepsFormAndEnd : Obligations.StepsFormAndEnd := by
  unfold Obligations.StepsFormAndEnd
  intro s
  refine ⟨?roster, pickLoop_ok, ?fixed, ?complete, ?entry⟩
  case roster =>
    intro court lc ok
    refine ⟨exec_stepFormRoster_waits s court lc, fun ctx hok hpick => ?_⟩
    obtain ⟨⟨hmay, hcand⟩, hleast⟩ := pickCtx_least s court lc hpick
    exact ⟨exec_stepFormRoster s court lc hok hpick, hcand, hmay, hleast⟩
  case fixed =>
    intro ctx b rest hq lc ready mixed s1 ents
    have hready : ¬ready ↔ ((!s.mayForm (s.courtOf ctx) lc ctx) = true ∨ (!s.awake (s.courtOf ctx)) = true ∨
        (!s.laneFree (s.courtOf ctx) lc) = true ∨ (!s.batchReady b) = true) := by
      simp only [ready, not_and_or, Bool.not_eq_true, Bool.not_eq_true']
    have hmixed : mixedGen s b = true ↔ mixed := mixedGen_iff s b
    refine ⟨fun h => ?_, fun h hm => ?_, fun h hm hbook => ?_⟩
    · rw [exec_fixedStepForm hq]
      exact congrArg _ (if_pos (hready.1 h))
    · rw [exec_fixedStepForm hq]
      exact congrArg _ ((if_neg (mt hready.2 (not_not.2 h))).trans (if_pos (hmixed.2 hm)))
    · rw [exec_fixedStepForm hq]
      refine congrArg _ ((if_neg (mt hready.2 (not_not.2 h))).trans ((if_neg (mt hmixed.1 hm)).trans ?_))
      rw [batchBook_same hbook, batchModes, if_pos rfl]
      cases s1.formStep (s.courtOf ctx) ctx lc b.playbook b.shape ents b.modes (some b.req) <;> rfl
  case complete =>
    intro court ctx step t hstep
    refine ⟨exec_stepComplete_early hstep, fun h => ⟨stepEnded s ctx step t, stepEnded_steps s ctx step t, ?_⟩⟩
    rw [exec_stepComplete_done hstep h]
    cases t.batch <;> rfl
  case entry =>
    intro t e q hq
    obtain ⟨q2, hq2, rfl⟩ := endEntry_seq s t e q hq
    refine ⟨_, hq2, seqAfter_status q t, seqAfter_served q t, fun h => ?_, fun h => ?_⟩
    · have hq' := seqAfter_success q t h
      refine ⟨congrArg Seq.steps hq', fun hp => ⟨?_, ?_⟩, fun hp => ⟨?_, ?_⟩, fun hu => ?_, fun hu => ?_⟩
      · exact (congrArg Seq.pass hq').trans (if_neg (by simpa using hp))
      · exact (congrArg Seq.frame hq').trans (if_neg (by simpa using hp))
      · exact (congrArg Seq.pass hq').trans (if_pos (decide_eq_true hp))
      · exact (congrArg Seq.frame hq').trans (if_pos (decide_eq_true hp))
      · exact (congrArg₂ (Stream.after q.stream) hu (by rw [decide_eq_true h]; rfl)).trans (stream_after_ran _)
      · exact (congrArg (fun r => Stream.after q.stream r _) hu).trans (stream_after_idle _ _)
    · have hq' := seqAfter_fault q t h
      refine ⟨(congrArg Seq.steps hq' :), (congrArg Seq.pass hq' :), (congrArg Seq.frame hq' :), fun hu => ?_, fun hu => ?_⟩
      · exact (congrArg₂ (Stream.after q.stream) hu (by rw [decide_eq_false h]; rfl)).trans (stream_after_failed _)
      · exact (congrArg (fun r => Stream.after q.stream r _) hu).trans (stream_after_idle _ _)

end Sys2Proof.Machine.CoachWork

/-! SUPPORT. The end of a fallback window, the swap of a table's banks, and what the installation of a playbook leaves in the books. -/
namespace Sys2Proof.Machine.BookEvents
open Events (fold_eq fbEvent_frame tabAnswer_frame books_carry)

/-! Fallback windows (03 R89). -/

section Windows
variable {s : State} {court layer : Nat} {r : FbRec} (h : s.fbRec court layer = some r)

/-- Whether the layer switches at the end of its window. -/
def windowTrips (s : State) (r : FbRec) : Bool :=
  s.book.fbEnable && !r.fallback && decide (65536 ≤ r.elems) && decide (r.threshold * r.elems < r.sat * 1000000)

theorem windowTrips_iff (s : State) (r : FbRec) : windowTrips s r = true ↔
    s.book.fbEnable = true ∧ r.fallback = false ∧ 65536 ≤ r.elems ∧ r.threshold * r.elems < r.sat * 1000000 := by
  simp only [windowTrips, Bool.and_eq_true, Bool.not_eq_true', decide_eq_true_eq, and_assoc]

/-- The record of a layer whose window has ended. -/
def windowEnded (s : State) (r : FbRec) : FbRec :=
  { r with
    fallback := r.fallback || windowTrips s r, sat := 0, elems := 0, steps := 0
    lastRate := if r.elems = 0 then 0 else r.sat * 1000000 / r.elems, windows := r.windows + 1 }

include h

theorem exec_fallbackWindowEnd_waits (hw : r.policy ≠ 0 ∨ r.steps < s.windowOf r) : exec (.fallbackWindowEnd court layer) s = .next s := by
  change execFallbackWindowEnd court layer s = _
  unfold execFallbackWindowEnd
  rw [h]
  exact congrArg _ (if_pos hw)

theorem exec_fallbackWindowEnd (hp : r.policy = 0) (hn : s.windowOf r ≤ r.steps) : exec (.fallbackWindowEnd court layer) s = .next (
    if windowTrips s r then (s.setFb court layer (windowEnded s r)).fbEvent court 0 layer true (windowEnded s r).lastRate r.threshold
    else s.setFb court layer (windowEnded s r)) := by
  change execFallbackWindowEnd court layer s = _
  unfold execFallbackWindowEnd
  rw [h]
  exact congrArg _ (if_neg (by omega))

end Windows

/-! Table swaps (06 R170). -/

section Tables
variable (c : CoreRegs) (n : Nat)

theorem swapTable_frame : c.swapTable n = { c with tabs := (c.swapTable n).tabs } := by
  unfold CoreRegs.swapTable
  dsimp only
  split <;> rfl

theorem swapTable_self : (c.swapTable n).tab n = if (c.tab n).pend then ⟨(c.tab n).shadow, (c.tab n).act, false, !(c.tab n).bank⟩ else c.tab n := by
  unfold CoreRegs.swapTable
  dsimp only
  split
  · next h =>
    rw [CoreRegs.tab, AMap.getD_insert_self]
  · next h => rfl

theorem swapTable_other {k : Nat} (hk : k ≠ n) : (c.swapTable n).tab k = c.tab k := by
  unfold CoreRegs.swapTable
  dsimp only
  split
  · exact AMap.getD_insert_ne _ _ _ hk
  · rfl

end Tables

/-- The swap of a slot on a core of a court, or of none. -/
theorem exec_tableBankSwap {s : State} {core p : Nat} {slot : BitVec 3} (hp : s.physOf core = some p) :
    exec (.tableBankSwap core slot) s = .next ((s.courtOfDie (dieOfCore core)).elim (s.modCore p (fun c => c.swapTable slot.toNat)) (fun court =>
      if s.courtGated court then s else (s.modCore p (fun c => c.swapTable slot.toNat)).tabAnswer court slot.toNat)) := by
  change execTableBankSwap core slot s = _
  unfold execTableBankSwap
  simp only [hp]
  cases s.courtOfDie (dieOfCore core) <;> rfl

/-! Installations (04 R123). -/

section Kept
variable (s : State)

theorem releaseObj_book (b : Nat) : (s.releaseObj b).book = s.book := by
  unfold State.releaseObj
  split
  · rfl
  · rw [State.dropObj_frame]
    unfold State.answerFreed
    split
    · rfl
    · split <;> rfl

theorem makeScores_book (id ctx : Nat) (p : Plan) : (s.makeScores id ctx p).book = s.book := by
  unfold State.makeScores
  have hmade := s.createObj_frame (some ctx) .made 65536 0 0
  split
  · dsimp only
    split
    · change (s.createObj (some ctx) .made 65536 0 0).1.book = _
      rw [hmade]
    · rfl
  · rfl

theorem settleScores_book (new old : Nat) (b : Playbook) : (s.settleScores new old b).book = s.book := by
  unfold State.settleScores
  extract_lets gone src s1 s2
  have freed : ∀ (g : Option Nat) (u : State), u.book = s.book →
      (match g with | some t => if AMap.find? u.sch.scores new = some t then u else u.releaseObj t | none => u).book = s.book := fun g u hu => by
    cases g with
    | none => exact hu
    | some t =>
      dsimp only
      split
      · exact hu
      · rw [releaseObj_book, hu]
  have h2 : s2.book = s.book := freed gone s1 rfl
  split
  · rw [makeScores_book, h2]
  · exact h2

theorem startFb_books (court id : Nat) (p : Plan) : (s.startFb court id p).book.books = s.book.books := by
  unfold State.startFb
  refine fold_eq (fun t : State => t.book.books) _ (fun t e => ?_) _ _
  split <;> rfl

theorem stageKernels_book (court : Nat) : (s.stageKernels court).book = s.book := by
  unfold State.stageKernels
  extract_lets img top
  refine fold_eq (fun t : State => t.book) _ (fun t e => ?_) _ _
  rfl

end Kept

theorem foldl_bind_none {α β : Type} (f : β → α → Option β) (l : List α) : l.foldl (fun o a => o.bind (fun b => f b a)) none = none := by
  induction l with
  | nil => rfl
  | cons a l ih => exact ih

/-- Steps that may refuse keep what each of them keeps. -/
theorem foldl_bind_kept {α β : Type} (g : State → β) {f : State → α → Option State} (hf : ∀ s a t, f s a = some t → g t = g s) {l : List α}
    {s t : State} (h : l.foldl (fun o a => o.bind (fun s => f s a)) (some s) = some t) : g t = g s := by
  induction l generalizing s with
  | nil =>
    cases h
    rfl
  | cons a l ih =>
    rw [List.foldl_cons, Option.bind_some] at h
    cases hstep : f s a with
    | none =>
      rw [hstep, foldl_bind_none] at h
      cases h
    | some u =>
      rw [hstep] at h
      rw [ih h, hf s a u hstep]

theorem carryAll_book {s t : State} {new : Nat} {p : Plan} {c : CourtRec} {held : List (Nat × List Byte)}
    (h : s.carryAll new p c held = some t) : t.book = s.book := by
  refine foldl_bind_kept State.book (fun s e u hu => ?_) h
  split at hu
  · exact books_carry _ _ _ _ _ _ _ _ hu
  · cases hu
    rfl

section Install
variable (s : State) (new : Nat) (b o : Playbook)

/-- The books after an installation. -/
def installedBooks : AMap Playbook :=
  (AMap.erase (AMap.insert s.book.books new { b with installed := true, replaces := 0, set := o.set }) b.replaces).map
    (fun e => (e.1, if e.2.replaces = b.replaces then { e.2 with replaces := new } else e.2))

theorem find_installedBooks (k : Nat) : AMap.find? (installedBooks s new b o) k =
    (if k = b.replaces then none else if k = new then some { b with installed := true, replaces := 0, set := o.set }
      else AMap.find? s.book.books k).map (fun x => if x.replaces = b.replaces then { x with replaces := new } else x) := by
  rw [installedBooks, AMap.find_map _ (fun x : Playbook => if x.replaces = b.replaces then { x with replaces := new } else x), AMap.find_erase,
    AMap.find_insert]

/-- The tiles of the streams that hold a slot. -/
def heldTiles : List (Nat × List Byte) :=
  (s.seqsOf b.replaces).filterMap (fun e => e.2.stream.slot.map (fun k =>
    (e.1, if e.2.stream.st = .benched then [] else s.readTiles (s.court b.court) o.plan k)))

/-- The sequences moved to the new playbook, and the books and score tables as it takes the old one's place. -/
def takenOver : State :=
  let s1 := (s.seqsOf b.replaces).foldl (fun s e => s.setSeq e.1 { e.2 with
    playbook := new, stream := { e.2.stream with slot := none } }) s
  { s1 with
    book := { s1.book with books := installedBooks s1 new b o }
    sch := { s1.sch with scores := (match AMap.find? s1.sch.scores b.replaces, (AMap.find? s1.sch.scores new).isNone && b.plan.scored with
      | some t, true => AMap.insert s1.sch.scores new t
      | _, _ => s1.sch.scores) } }

theorem takenOver_books : (takenOver s new b o).book.books = installedBooks s new b o := by
  have hfold : ((s.seqsOf b.replaces).foldl (fun s e => s.setSeq e.1 { e.2 with
      playbook := new, stream := { e.2.stream with slot := none } }) s).book = s.book := by
    refine fold_eq (fun t : State => t.book) _ (fun t e => ?_) _ _
    rfl
  exact congrArg (fun k : BookSt => (AMap.erase (AMap.insert k.books new { b with installed := true, replaces := 0, set := o.set }) b.replaces).map
    (fun e => (e.1, if e.2.replaces = b.replaces then { e.2 with replaces := new } else e.2))) hfold

/-- What an installation waits for. -/
def installWaits : Prop :=
  b.installed = true ∨ o.installed = false ∨ (∃ t ∈ s.sch.steps, t.playbook = b.replaces) ∨
    ∃ e ∈ s.book.books, e.1 < new ∧ e.2.installed = false ∧ e.2.replaces = b.replaces

theorem installWaits_iff : (b.installed = true ∨ (!o.installed) = true ∨ (s.sch.steps.any (fun t => decide (t.playbook = b.replaces))) = true ∨
    (s.book.books.any (fun e => decide (e.1 < new) && !e.2.installed && decide (e.2.replaces = b.replaces))) = true) ↔ installWaits s new b o := by
  simp only [installWaits, Bool.not_eq_true', List.any_eq_true, decide_eq_true_eq, Bool.and_eq_true, and_assoc]

variable {s new b o} (hb : AMap.find? s.book.books new = some b) (ho : AMap.find? s.book.books b.replaces = some o)

include hb ho

theorem exec_playbookInstall_waits (h : installWaits s new b o) : exec (.playbookInstall new) s = .next s := by
  change execPlaybookInstall new s = _
  unfold execPlaybookInstall
  simp only [hb, ho]
  exact congrArg _ (if_pos ((installWaits_iff s new b o).2 h))

theorem exec_playbookInstall (h : ¬installWaits s new b o) : exec (.playbookInstall new) s = .next (
    (((takenOver s new b o).settleScores new b.replaces b).carryAll new b.plan (s.court b.court) (heldTiles s b o)).elim s (fun t =>
      if b.plan.scored ∧ (AMap.find? t.sch.scores new).isNone then s else (t.startFb b.court new b.plan).stageKernels b.court)) := by
  change execPlaybookInstall new s = _
  unfold execPlaybookInstall
  simp only [hb, ho]
  refine congrArg _ ((if_neg (mt (installWaits_iff s new b o).1 h)).trans ?_)
  have carried : ∀ (r : Option State) (f : State → State), (match r with | none => s | some t => f t) = r.elim s f := fun r f => by
    cases r <;> rfl
  exact carried _ _

omit hb ho in
/-- What the books hold once the new playbook is in service. -/
theorem installed_after (hne : new ≠ b.replaces) (hold : b.replaces ≠ 0) {t : State}
    (ht : ((takenOver s new b o).settleScores new b.replaces b).carryAll new b.plan (s.court b.court) (heldTiles s b o) = some t) :
    let u := (t.startFb b.court new b.plan).stageKernels b.court
    AMap.find? u.book.books new = some { b with installed := true, replaces := 0, set := o.set } ∧ AMap.find? u.book.books b.replaces = none ∧
      ∀ k, k ≠ new → k ≠ b.replaces → AMap.find? u.book.books k =
        (AMap.find? s.book.books k).map (fun x => if x.replaces = b.replaces then { x with replaces := new } else x) := by
  intro u
  have hbooks : u.book.books = installedBooks s new b o := by
    have hu : u.book.books = t.book.books := (congrArg (·.books) (stageKernels_book _ _)).trans (startFb_books _ _ _ _)
    rw [hu, carryAll_book ht, settleScores_book, takenOver_books]
  rw [hbooks]
  refine ⟨?_, ?_, fun k hnew hrep => ?_⟩
  · rw [find_installedBooks, if_neg hne, if_pos rfl, Option.map_some]
    exact congrArg some (if_neg (Ne.symm hold))
  · rw [find_installedBooks, if_pos rfl, Option.map_none]
  · rw [find_installedBooks, if_neg hrep, if_neg hnew]

end Install

/-- Settles O32: it holds. -/
theorem monitorTablesAndInstalls : Obligations.MonitorTablesAndInstalls := by
  unfold Obligations.MonitorTablesAndInstalls
  intro s
  refine ⟨?window, ?swap, ?install⟩
  case window =>
    intro court layer r h trig
    have htrig : windowTrips s r = true ↔ trig := windowTrips_iff s r
    refine ⟨exec_fallbackWindowEnd_waits h, fun hp hn => ⟨_, windowEnded s r, exec_fallbackWindowEnd h hp hn, ?_, rfl, rfl, ?_, fun hno => ?_⟩⟩
    · split
      · rw [fbEvent_frame]
        rfl
      · rfl
    · rw [← htrig]
      exact Iff.of_eq (Bool.or_eq_true _ _)
    · rw [if_neg (mt htrig.1 hno)]
      rfl
  case swap =>
    intro core p slot hp b gated
    refine ⟨fun ⟨k, hk, hg⟩ => ?_, fun hng => ⟨_, exec_tableBankSwap hp, ?_⟩⟩
    · rw [exec_tableBankSwap hp, hk]
      exact congrArg _ (if_pos hg)
    · have hswapped : ∀ t : State, t.cores = (s.modCore p (fun c => c.swapTable slot.toNat)).cores →
          (∀ q, q ≠ p → t.core q = s.core q) ∧ (t.core p).now = { (s.core p).now with tabs := (t.core p).now.tabs } ∧
          (t.core p).now.tab slot.toNat = (if b.pend then ⟨b.shadow, b.act, false, !b.bank⟩ else b) ∧
          (∀ k, k ≠ slot.toNat → (t.core p).now.tab k = (s.core p).now.tab k) := fun t ht => by
        have hcore : ∀ q, t.core q = (s.modCore p (fun c => c.swapTable slot.toNat)).core q := fun q => by
          unfold State.core
          rw [ht]
        rw [hcore p, State.core_modCore_self]
        exact ⟨fun q hq => (hcore q).trans ((State.core_modCore _ _ _ _).trans (if_neg hq)), swapTable_frame _ _, swapTable_self _ _,
          fun k hk => swapTable_other _ _ hk⟩
      cases hc : s.courtOfDie (dieOfCore core) with
      | none => exact ⟨rfl, hswapped _ rfl⟩
      | some court =>
        have hopen : s.courtGated court ≠ true := fun h => hng ⟨court, hc, h⟩
        rw [Option.elim_some, if_neg hopen]
        have hframe := tabAnswer_frame (s.modCore p (fun c => c.swapTable slot.toNat)) court slot.toNat
        exact ⟨by rw [hframe]; rfl, hswapped _ (by rw [hframe])⟩
  case install =>
    intro new b o hb ho waits after
    refine ⟨exec_playbookInstall_waits hb ho, fun hgo hne hold => ?_, fun hgo hne hold hscore hslots => ?_⟩
    · rw [exec_playbookInstall hb ho hgo]
      cases hcarry : ((takenOver s new b o).settleScores new b.replaces b).carryAll new b.plan (s.court b.court) (heldTiles s b o) with
      | none => exact .inl rfl
      | some t =>
        rw [Option.elim_some]
        split
        · exact .inl rfl
        · exact .inr ⟨_, rfl, installed_after hne hold hcarry⟩
    · have hheld : heldTiles s b o = [] := List.filterMap_eq_nil_iff.2 fun e he => by rw [hslots e he]; rfl
      have hcarry : ((takenOver s new b o).settleScores new b.replaces b).carryAll new b.plan (s.court b.court) (heldTiles s b o) =
          some ((takenOver s new b o).settleScores new b.replaces b) := by rw [hheld]; rfl
      refine ⟨_, ?_, installed_after hne hold hcarry⟩
      rw [exec_playbookInstall hb ho hgo, hcarry, Option.elim_some, if_neg (by simp [hscore])]

end Sys2Proof.Machine.BookEvents

/-! SUPPORT. What a core declared failed, a spare put in its place, and a store test leave of the cores and clusters. -/
namespace Sys2Proof.Machine.CoreRepair
open Losses (failSteps_frame dropCore_frame getD_erase logical_eq)
open Events (tabAnswer_frame)

/-- The cores and clusters are the same. -/
def SameUnits (a b : State) : Prop := b.cores = a.cores ∧ b.clus = a.clus

theorem SameUnits.trans {a b c : State} (h : SameUnits a b) (k : SameUnits b c) : SameUnits a c := ⟨k.1.trans h.1, k.2.trans h.2⟩

section Same
variable (s : State)

theorem raise_same (f : FRec) : SameUnits s (s.raise f) := ⟨rfl, rfl⟩

theorem failSteps_same (cl : Nat) (q : Bool) : SameUnits s (s.failSteps cl q) := by
  rw [failSteps_frame s cl q]
  exact ⟨rfl, rfl⟩

theorem tabAnswers_same (court : Nat) : SameUnits s (s.tabAnswers court) := by
  unfold State.tabAnswers
  refine foldl_rel SameUnits (fun _ => ⟨rfl, rfl⟩) (fun _ _ _ => SameUnits.trans) _ (fun s k => ?_) _ s
  rw [tabAnswer_frame]
  exact ⟨rfl, rfl⟩

theorem answerTables_same (die : Nat) : SameUnits s (s.answerTables die) := by
  unfold State.answerTables
  split
  · exact tabAnswers_same s _
  · exact ⟨rfl, rfl⟩

theorem mark_same : SameUnits s s.mark := by
  rw [s.mark_frame]
  exact ⟨rfl, rfl⟩

end Same

section Declare
variable (s : State) (p : Nat)

/-- Whether the failure is not the first that its cluster must bear. -/
def secondFailure (s : State) (p : Nat) : Prop :=
  if p % 26 = 25 ∧ (s.clu (p / 26)).spareUsed = false then (s.clu (p / 26)).failed ≠ []
  else (s.clu (p / 26)).spareUsed = true ∨ (s.clu (p / 26)).failed ≠ []

theorem declareFailed_none (h : 26000 ≤ p ∨ p % 26 ∈ (s.clu (p / 26)).failed) : s.declareFailed p = s :=
  if_pos (h.imp_right List.contains_iff_mem.2)

/-- The cores without the contents of the core at `p`. -/
theorem dropCore_cores : (s.dropCore p).cores =
    AMap.erase (AMap.insert s.cores p ⟨{ (s.core p).now with work := [] }, { (s.core p).pre with work := [] }⟩) p := by
  rw [dropCore_frame]

theorem dropCore_clus : (s.dropCore p).clus = s.clus := by
  rw [dropCore_frame]

theorem core_dropCore (q : Nat) : (s.dropCore p).core q = if q = p then Core.reset else s.core q := by
  unfold State.core
  rw [dropCore_cores, getD_erase]
  split
  · rfl
  · next h => exact AMap.getD_insert_ne _ _ _ h

variable {s p}

theorem dropCore_same {t : State} (h : SameUnits s t) : SameUnits (s.dropCore p) (t.dropCore p) := by
  have hcore : t.core p = s.core p := by
    unfold State.core
    rw [h.1]
  exact ⟨by rw [dropCore_cores, dropCore_cores, hcore, h.1], by rw [dropCore_clus, dropCore_clus, h.2]⟩

/-- The failed position joins its cluster's, the contents of its core are gone, and no other core or cluster changes. -/
theorem declareFailed_units (h : ¬(26000 ≤ p ∨ p % 26 ∈ (s.clu (p / 26)).failed)) : ∃ deg : Bool, (deg = true ↔ secondFailure s p) ∧
    SameUnits ((s.modClu (p / 26) (fun c => { c with failed := c.failed ++ [p % 26], degraded := c.degraded || deg })).dropCore p)
      (s.declareFailed p) := by
  unfold State.declareFailed
  extract_lets cl pos c idle second lost s1 s2 s3 s4
  rw [if_neg (mt (Or.imp_right List.contains_iff_mem.1) h)]
  refine ⟨decide second, ?_, ?_⟩
  · have hidle : idle = true ↔ (p % 26 = 25 ∧ (s.clu (p / 26)).spareUsed = false) := by
      simp only [idle, Bool.and_eq_true, decide_eq_true_eq, Bool.not_eq_true']
      rfl
    rw [decide_eq_true_iff]
    unfold secondFailure
    by_cases hi : idle = true
    · rw [if_pos (hidle.1 hi)]
      exact Iff.of_eq (if_pos hi)
    · rw [if_neg (mt hidle.2 hi)]
      refine (Iff.of_eq (if_neg hi)).trans ⟨?_, .inr⟩
      rintro (hc | hc)
      · exact .inr (List.ne_nil_of_mem (List.contains_iff_mem.1 hc))
      · exact hc
  · have h2 : SameUnits s1 s2 := by
      unfold s2
      split
      · exact ⟨rfl, rfl⟩
      · exact failSteps_same s1 _ _
    have h4 : SameUnits s3 s4 := by
      have torn : ∀ k : Option Nat, SameUnits s3 (match k with
          | some k => ((s3.loseStreams k).tearPlans (k / 625)).answerTables (k / 625) | none => s3) := fun k => by
        cases k with
        | none => exact ⟨rfl, rfl⟩
        | some k => exact SameUnits.trans ⟨rfl, rfl⟩ (answerTables_same ((s3.loseStreams k).tearPlans (k / 625)) (k / 625))
      exact torn lost
    refine SameUnits.trans (dropCore_same h2) (SameUnits.trans h4 ?_)
    split
    · exact raise_same _ _
    · split
      · exact raise_same _ _
      · exact ⟨rfl, rfl⟩

end Declare

section Told
variable {s t : State} (h : SameUnits s t)
include h

theorem SameUnits.core (q : Nat) : t.core q = s.core q := by
  unfold State.core
  rw [h.1]

theorem SameUnits.clu (n : Nat) : t.clu n = s.clu n := by
  unfold State.clu
  rw [h.2]

end Told

/-! The spare (02 R62). -/

/-- The registers a spare starts with at its remap. -/
def spareRegs (s : State) (cluster : Nat) : CoreRegs :=
  match s.courtOfDie (cluster / 25) with
  | some k => { CoreRegs.reset with tabs := s.courtTables k, istore := s.imageStore k cluster }
  | none => CoreRegs.reset

theorem spareRegs_idle (s : State) (cluster : Nat) : (spareRegs s cluster).st = .idle := by
  unfold spareRegs
  split <;> rfl

theorem spareRegs_istore {s : State} {cluster k : Nat} (h : s.courtOfDie (cluster / 25) = some k) :
    (spareRegs s cluster).istore = s.imageStore k cluster := by
  unfold spareRegs
  rw [h]

section Remap
variable {s : State} {cluster pos : Nat}

theorem remapSpare_none (h : (∀ pos, (s.clu cluster).failed ≠ [pos]) ∨ (s.clu cluster).spareUsed = true) : s.remapSpare cluster = s := by
  unfold State.remapSpare
  dsimp only
  split
  · next pos hpos => exact if_pos (.inr (.inl (h.resolve_left fun hn => hn pos hpos)))
  · rfl

theorem remapSpare_units (hf : (s.clu cluster).failed = [pos]) (hc : cluster < 1000) (hu : (s.clu cluster).spareUsed = false) (hp : pos < 25) :
    SameUnits ((s.setCore (26 * cluster + 25) ⟨spareRegs s cluster, spareRegs s cluster⟩).modClu cluster
      (fun c => { c with spareUsed := true, sparePos := pos })) (s.remapSpare cluster) := by
  unfold State.remapSpare
  have hgo : ¬(1000 ≤ cluster ∨ (s.clu cluster).spareUsed = true ∨ pos = 25) := by
    rw [hu]
    simp only [Bool.false_eq_true, false_or]
    omega
  simp only [hf]
  rw [if_neg hgo]
  exact raise_same _ _

end Remap

/-- Settles O33: it holds. -/
theorem coresFailAndAreReplaced : Obligations.CoresFailAndAreReplaced := by
  unfold Obligations.CoresFailAndAreReplaced
  intro s
  refine ⟨?declare, ?remap, fun cluster h => ?_, ?test⟩
  case declare =>
    intro i p hi c pos idle second
    have hexec : exec i s = .next (s.declareFailed p).mark := by rcases hi with rfl | rfl <;> rfl
    refine ⟨fun h => by rw [hexec, declareFailed_none s p h], fun hp hpos => ⟨_, hexec, ?_⟩⟩
    obtain ⟨deg, hdeg, hdrop⟩ := declareFailed_units (s := s) (p := p) (not_or.2 ⟨not_le.2 hp, hpos⟩)
    have hunits := hdrop.trans (mark_same _)
    have hclu : ∀ n, (s.declareFailed p).mark.clu n = (s.modClu (p / 26) (fun c =>
        { c with failed := c.failed ++ [p % 26], degraded := c.degraded || deg })).clu n := fun n => by
      rw [hunits.clu]
      unfold State.clu
      rw [dropCore_clus]
    refine ⟨?_, fun q hq => ?_, fun n hn => ?_, ?_, ?_⟩
    · rw [hunits.core, core_dropCore, if_pos rfl]
    · rw [hunits.core, core_dropCore, if_neg hq]
      rfl
    · rw [hclu, State.modClu, State.clu_setClu, if_neg hn]
    · rw [hclu, State.modClu, State.clu_setClu, if_pos rfl]
    · rw [hclu, State.modClu, State.clu_setClu, if_pos rfl]
      exact (Iff.of_eq (Bool.or_eq_true _ _)).trans (or_congr Iff.rfl hdeg)
  case remap =>
    intro cluster pos hf hc hu hp
    have hunits := (remapSpare_units hf hc hu hp).trans (mark_same _)
    have hclu : (s.remapSpare cluster).mark.clu cluster = { s.clu cluster with spareUsed := true, sparePos := pos } := by
      rw [hunits.clu, State.modClu, State.clu_setClu_self]
      rfl
    have hcore : (s.remapSpare cluster).mark.core (26 * cluster + 25) = ⟨spareRegs s cluster, spareRegs s cluster⟩ := by
      rw [hunits.core]
      exact State.core_setCore_self ..
    obtain ⟨hphys, hlog⟩ := logical_eq (s.remapSpare cluster).mark cluster pos (by rw [hclu]) (by rw [hclu]) (by rw [hclu]; exact hf) hc hp
    refine ⟨_, rfl, hphys, hlog, fun q hq => ?_, ?_, fun k hk => ?_, fun n hn => ?_⟩
    · rw [hunits.core]
      exact (State.core_setCore ..).trans (if_neg hq)
    · rw [hcore]
      exact spareRegs_idle s cluster
    · rw [hcore]
      exact spareRegs_istore hk
    · rw [hunits.clu, State.modClu, State.clu_setClu, if_neg hn]
      rfl
  · change Host.Outcome.next (s.remapSpare cluster).mark = _
    rw [remapSpare_none h]
  case test =>
    intro p us hp hpos s1 c due
    have hgo : ¬(26000 ≤ p ∨ (s.clu (p / 26)).failed.contains (p % 26) = true) :=
      not_or.2 ⟨not_le.2 hp, mt List.contains_iff_mem.1 hpos⟩
    have hexec : exec (.coreStoreTest p us) s = .next (if due then c.readAll.elim (s1.declareFailed p).mark (fun d => s1.setCore p ⟨d, d⟩) else s1) := by
      change execCoreStoreTest p us s = _
      unfold execCoreStoreTest
      rw [if_neg hgo]
      refine congrArg _ (if_congr Iff.rfl ?_ rfl)
      have read : ∀ o : Option CoreRegs, (match o with | none => (s1.declareFailed p).mark | some d => s1.setCore p ⟨d, d⟩) =
          o.elim (s1.declareFailed p).mark (fun d => s1.setCore p ⟨d, d⟩) := fun o => by cases o <;> rfl
      exact read _
    refine ⟨fun h => ?_, fun h hread => ?_, fun d h hread => ?_⟩
    · rw [hexec, if_neg h]
    · rw [hexec, if_pos h, hread]
      rfl
    · rw [hexec, if_pos h, hread]
      rfl

end Sys2Proof.Machine.CoreRepair

/-! SUPPORT. What copies of a stream and its rotation do, each as one equation. -/
namespace Sys2Proof.Machine.StreamMoves
open Copies (five writeTiles_frame inst_seq)

section Copy
variable {s : State} {i : Nat} {q : Seq} {b : Playbook} (hq : s.seq i = some q)
include hq

theorem exec_stateExportEffect {r : Req} {mode dest : Nat} {rest : List Wait} (hw : q.waits = .exporting r mode dest :: rest) :
    exec (.stateExportEffect i) s = .next (if !s.atBoundary i q then s
      else if q.stream.st = .lost then ((s.popWait i).refuse r E_STATE_LOST 22).mark
      else s.setSeq i { q with waits := rest, copy := some ⟨true, r, mode, dest, 0, false, 0, false⟩ }) := by
  change execStateExportEffect i s = _
  unfold execStateExportEffect
  simp only [hq, hw]

variable (hb : s.bookOf q = some b)
include hb

theorem exec_slotMove {k slot : Nat} (hk : q.stream.slot = some k) : exec (.slotMove i slot) s = .next (
    if q.stream.st ≠ .resident ∨ !s.atBoundary i q ∨ s.slotHeld q.playbook slot ∨ b.plan.slotCount ≤ slot ∨
      !s.slotUsable (s.court b.court) b.plan slot then s
    else (s.writeTiles (s.court b.court) b.plan slot (s.readTiles (s.court b.court) b.plan k)).setSeq i { q with
      stream := { q.stream with slot := some slot } }) := by
  change execSlotMove i slot s = _
  unfold execSlotMove
  simp only [hq, hb, hk]

/-- The state after a copy out whose image is written: the stream stays, is parked, or its sequence ends. -/
def exported (s u : State) (i mode addr : Nat) : State :=
  if mode = 1 then (u.dropStream i).modSeq i (fun q => { q with
    stream := { q.stream with st := .benched, image := some addr }, benchedAt := s.counter.toNat })
  else if mode = 2 then (u.endSeq i).1
  else u

theorem exec_stateExportComplete {c : Copy} (hc : q.copy = some c) (he : c.isExport = true) :
    let d := s.streamTilesOf q b
    let s1 := d.1.modSeq i (fun q => { q with copy := none })
    let img := b.plan.image q.stream.seqNo q.playbook q.gen true d.2.2
    let w := s1.objWrite c.req.access c.addr img
    let u := (w.1.chargeBytes (lineOf q.ctx) true c.addr img.length).answer c.req 0
      (leBytes 6 0 ++ leBytes 8 q.stream.seqNo.toNat ++ leBytes 8 img.length)
    exec (.stateExportComplete i) s = .next (if q.stream.st = .lost then (s1.refuse c.req E_STATE_LOST 22).mark
      else if d.2.1 ≠ 0 then (s1.refuse c.req d.2.1 22).mark
      else if w.2 ≠ 0 then (w.1.refuse c.req w.2 22).mark
      else (exported s u i c.mode c.addr).mark) := by
  intro d s1 img w u
  change execStateExportComplete i s = _
  unfold execStateExportComplete
  simp only [hq, hb, hc, he, Bool.not_true, Bool.false_eq_true, if_false]
  rfl

theorem exec_stateImportComplete {c : Copy} (hc : q.copy = some c) (he : c.isExport = false) :
    let d := s.importCheck c.req q b c.addr c.len c.check c.expect
    let s0 := d.1.modSeq i (fun q => { q with copy := none })
    let s1 := if c.took then s0.modSeq i (fun q => { q with stream := { q.stream with slot := none } }) else s0
    exec (.stateImportComplete i) s = .next (if s.inStep i then s
      else (d.1.slotFor q).elim (s1.refuse c.req E_STATE_NOSLOT 14).mark (fun k =>
        if d.2.1 ≠ 0 then (s1.refuse c.req d.2.1 14).mark
        else (((s1.chargeBytes (lineOf q.ctx) false c.addr c.len).installStream i k b d.2.2.1 d.2.2.2).answer c.req 0
          (leBytes 6 0 ++ leBytes 8 d.2.2.2.toNat)).mark)) := by
  intro d s0 s1
  change execStateImportComplete i s = _
  unfold execStateImportComplete
  simp only [hq, hb, hc, he, Bool.false_or]
  have slot : ∀ (o : Option Nat) (f : Nat → State) (x : State), (match o with | none => x | some k => f k) = o.elim x f := fun o f x => by
    cases o <;> rfl
  exact congrArg _ (if_congr Iff.rfl rfl (slot _ _ _))

end Copy

/-- Settles O34: it holds. -/
theorem streamCopies : Obligations.StreamCopies := by
  unfold Obligations.StreamCopies
  intro s i q b hq hb
  refine ⟨?move, ?start, ?leave, ?arrive⟩
  case move =>
    intro k slot hk ok
    have hok := five (q.stream.st = .resident) (s.atBoundary i q) (s.slotHeld q.playbook slot) (s.slotUsable (s.court b.court) b.plan slot)
      b.plan.slotCount slot
    have hexec := exec_slotMove hq hb (slot := slot) hk
    refine ⟨fun h => hexec.trans (congrArg _ (if_pos (hok.2 h))), fun h => ⟨_, hexec.trans (congrArg _ (if_neg (mt hok.1 (not_not.2 h)))), ?_, rfl, ?_,
      fun j hj => ?_⟩⟩
    · rw [writeTiles_frame]
      rfl
    · exact AMap.find_insert_self ..
    · refine (AMap.find_insert_ne _ _ hj).trans ?_
      rw [writeTiles_frame]
      rfl
  case start =>
    intro r mode dest rest hw
    rw [exec_stateExportEffect hq hw]
    exact congrArg _ (if_congr (by rw [Bool.not_eq_true']) rfl rfl)
  case leave =>
    intro c hc he d s1 img w u
    have hexec := exec_stateExportComplete hq hb hc he
    refine ⟨fun h => hexec.trans (congrArg _ (if_pos h)), fun h hd => hexec.trans (congrArg _ ((if_neg h).trans (if_pos hd))),
      fun h hd hw => hexec.trans (congrArg _ ((if_neg h).trans ((if_neg (not_not.2 hd)).trans (if_pos hw)))), fun h hd hw => ?_⟩
    have hdone : exec (.stateExportComplete i) s = .next (exported s u i c.mode c.addr).mark :=
      hexec.trans (congrArg _ ((if_neg h).trans ((if_neg (not_not.2 hd)).trans (if_neg (not_not.2 hw)))))
    refine ⟨fun hm => ?_, fun hm => ?_, fun hm => ?_⟩
    · rw [hdone, hm]
      rfl
    · rw [hdone, hm]
      rfl
    · rw [hdone, hm]
      rfl
  case arrive =>
    intro c hc he d s0 s1
    have hexec := exec_stateImportComplete hq hb hc he
    have hdone : s.inStep i = false → exec (.stateImportComplete i) s = .next _ := fun h => hexec.trans (congrArg _ (if_neg (ne_true_of_eq_false h)))
    refine ⟨fun h => hexec.trans (congrArg _ (if_pos h)), fun h hslot => ?_, fun k h hslot => ⟨fun hd => ?_, fun hd => ?_⟩⟩
    · rw [hdone h, hslot]
      rfl
    · rw [hdone h, hslot]
      exact congrArg _ (if_pos hd)
    · refine ⟨_, ?_, rfl, fun q' hq' => inst_seq _ _ _ _ _ _ _ hq'⟩
      rw [hdone h, hslot]
      exact congrArg _ (if_neg (not_not.2 hd))

/-! Rotation (09 R237). -/

section Rotation
variable {s : State}

/-- When a resident stream gives up its slot. -/
def Parks (s : State) (i : Nat) (q : Seq) (b : Playbook) : Prop :=
  q.hasStream = true ∧ q.stream.st = .resident ∧ s.atBoundary i q = true ∧ q.quiet = true ∧
    (b.plan.runSteps ≤ q.runs ∨ s.wantsStep i q = false) ∧ s.freeSlot q.playbook = none ∧ ∃ e ∈ s.benchWaiters, e.2.playbook = q.playbook

theorem parks_iff (s : State) (i : Nat) (q : Seq) (b : Playbook) : ¬Parks s i q b ↔
    ((!q.hasStream) = true ∨ q.stream.st ≠ .resident ∨ (!s.atBoundary i q) = true ∨ (!q.quiet) = true ∨
      (q.runs < b.plan.runSteps ∧ s.wantsStep i q = true) ∨ (s.freeSlot q.playbook).isSome = true ∨
      (!s.benchWaiters.any (fun e => decide (e.2.playbook = q.playbook))) = true) := by
  have hany : (∃ e ∈ s.benchWaiters, e.2.playbook = q.playbook) ↔ s.benchWaiters.any (fun e => decide (e.2.playbook = q.playbook)) = true := by
    simp only [List.any_eq_true, decide_eq_true_eq]
  unfold Parks
  rw [hany]
  simp only [not_and_or, not_or, not_le, Bool.not_eq_true, Bool.not_eq_false, Bool.not_eq_true', ← Option.isNone_iff_eq_none, Option.isNone_eq_false_iff]

theorem exec_streamPark {i : Nat} {q : Seq} {b : Playbook} (hq : s.seq i = some q) (hb : s.bookOf q = some b) :
    (¬Parks s i q b → exec (.streamPark i) s = .next s) ∧
    (Parks s i q b → exec (.streamPark i) s = .next ((s.benchSeq i).elim ((s.caveSeq i).elim s (fun t => if s.inBudget t then t.mark else s)) State.mark)) := by
  have hexec : exec (.streamPark i) s = execStreamPark i s := rfl
  unfold execStreamPark at hexec
  simp only [hq, hb] at hexec
  refine ⟨fun h => hexec.trans (congrArg _ (if_pos ((parks_iff s i q b).1 h))),
    fun h => hexec.trans (congrArg _ ((if_neg (mt (parks_iff s i q b).2 (not_not.2 h))).trans ?_))⟩
  cases s.benchSeq i with
  | some t => rfl
  | none => cases s.caveSeq i <;> rfl

/-- The stream benched longest, the first in the roster on a tie. -/
theorem fold_longest (f : Option (Nat × Seq) → Nat × Seq → Option (Nat × Seq)) (h0 : ∀ e, f none e = some e)
    (h1 : ∀ d e, f (some d) e = if e.2.benchedAt < d.2.benchedAt then some e else some d) {l1 l2 : List (Nat × Seq)} {x : Nat × Seq}
    (hl1 : ∀ e ∈ l1, x.2.benchedAt < e.2.benchedAt) (hl2 : ∀ e ∈ l2, x.2.benchedAt ≤ e.2.benchedAt) :
    (l1 ++ x :: l2).foldl f none = some x := by
  have later : ∀ l : List (Nat × Seq), (∀ e ∈ l, x.2.benchedAt ≤ e.2.benchedAt) → l.foldl f (some x) = some x := fun l hl => by
    induction l with
    | nil => rfl
    | cons e l ih =>
      rw [List.foldl_cons, h1, if_neg (not_lt.2 (hl e List.mem_cons_self))]
      exact ih fun d hd => hl d (List.mem_cons_of_mem e hd)
  have earlier : ∀ (l : List (Nat × Seq)) (m : Option (Nat × Seq)), (∀ d, m = some d → x.2.benchedAt < d.2.benchedAt) →
      (∀ e ∈ l, x.2.benchedAt < e.2.benchedAt) → ∀ d, l.foldl f m = some d → x.2.benchedAt < d.2.benchedAt := fun l => by
    induction l with
    | nil => exact fun m hm _ d hd => hm d hd
    | cons e l ih =>
      intro m hm hl
      refine ih (f m e) (fun d hd => ?_) fun d hd => hl d (List.mem_cons_of_mem e hd)
      cases m with
      | none =>
        rw [h0] at hd
        cases hd
        exact hl _ List.mem_cons_self
      | some d' =>
        rw [h1] at hd
        split at hd
        · cases hd
          exact hl _ List.mem_cons_self
        · cases hd
          exact hm d rfl
  rw [List.foldl_append, List.foldl_cons]
  cases hm : l1.foldl f none with
  | none => rw [h0, later l2 hl2]
  | some d => rw [h1, if_pos (earlier l1 none (fun _ hd => absurd hd (Option.some_ne_none _).symm) hl1 d hm), later l2 hl2]

/-- Of two streams the one that has waited longer; the earlier of them on a tie. -/
def longestOf (m : Option (Nat × Seq)) (e : Nat × Seq) : Option (Nat × Seq) :=
  match m with
  | none => some e
  | some d => if e.2.benchedAt < d.2.benchedAt then some e else some d

/-- The state once a stream has come back, if one waits for a slot that is free. -/
def rotated (s : State) (first : Option (Nat × Seq)) : State :=
  match first with
  | none => s
  | some (i, q) => match s.bookOf q, s.freeSlot q.playbook with
    | some b, some k =>
      let t := s.importTiles q b
      if t.2.1 ≠ 0 then t.1 else (t.1.installStream i k b t.2.2 q.stream.seqNo).mark
    | _, _ => s

theorem exec_streamRotateImport (s : State) (court : Nat) : exec (.streamRotateImport court) s = .next (rotated s
    ((s.benchWaiters.filter (fun e => decide (e.2.court = court) && (s.freeSlot e.2.playbook).isSome)).foldl (longestOf) none)) := rfl

theorem rotated_some {i k : Nat} {q : Seq} {b : Playbook} (hb : s.bookOf q = some b) (hk : s.freeSlot q.playbook = some k) :
    rotated s (some (i, q)) = if (s.importTiles q b).2.1 ≠ 0 then (s.importTiles q b).1
      else ((s.importTiles q b).1.installStream i k b (s.importTiles q b).2.2 q.stream.seqNo).mark := by
  simp only [rotated, hb, hk]

end Rotation

/-- Settles O35: it holds. -/
theorem streamRotation : Obligations.StreamRotation := by
  unfold Obligations.StreamRotation
  intro s
  refine ⟨?park, ?rotate⟩
  case park =>
    intro i q b hq hb park
    obtain ⟨hstay, hgo⟩ := exec_streamPark hq hb
    refine ⟨hstay, fun t h hbench => ?_, fun t h hbench hcave => ?_, fun h hbench hcave => ?_⟩
    · rw [hgo h, hbench]
      rfl
    · rw [hgo h, hbench, hcave]
      rfl
    · rw [hgo h, hbench, hcave]
      rfl
  case rotate =>
    intro court i k q b l1 l2 hws hl1 hl2 hb hk t
    have hfirst := fold_longest longestOf (fun _ => rfl) (fun _ _ => rfl) (x := (i, q)) hl1 hl2
    rw [exec_streamRotateImport, hws, hfirst, rotated_some hb hk]

end Sys2Proof.Machine.StreamMoves

/-! SUPPORT. What takes effect at the boundary of a sequence: seals, prunes, ends, repins, and branches with what a child is given. -/
namespace Sys2Proof.Machine.Boundaries
open Sealing (seq_mod sealAll_frame sealAll_page end_none)
open Branches (assign_sch share_eq bumps_frame bumps_page bump)

section Effects
variable {s : State} {i : Nat} {q : Seq} (hq : s.seq i = some q)
include hq

/-- Away from its boundary a sequence keeps what waits there. -/
theorem exec_effect_waits (hb : s.atBoundary i q = false) {x : Instr}
    (hx : x = .sealEffect i ∨ x = .pruneEffect i ∨ x = .seqEndEffect i ∨ x = .repinEffect i ∨ x = .branchEffect i) : exec x s = .next s := by
  obtain rfl | rfl | rfl | rfl | rfl := hx
  · change execSealEffect i s = _
    unfold execSealEffect
    simp only [hq, hb, Bool.not_false, if_true]
    split <;> rfl
  · change execPruneEffect i s = _
    unfold execPruneEffect
    simp only [hq, hb, Bool.not_false, if_true]
    split <;> rfl
  · change execSeqEndEffect i s = _
    unfold execSeqEndEffect
    simp only [hq, hb, Bool.not_false, if_true]
    split <;> rfl
  · change execRepinEffect i s = _
    unfold execRepinEffect
    simp only [hq, hb, Bool.not_false, if_true]
    split <;> rfl
  · change execBranchEffect i s = _
    unfold execBranchEffect
    simp only [hq, hb, Bool.not_false, if_true]
    split <;> rfl

variable (hb : s.atBoundary i q = true)
include hb

theorem exec_sealEffect {r : Req} {rest : List Wait} (hw : q.waits = .sealPages r :: rest) : exec (.sealEffect i) s =
    .next (((s.popWait i).sealAll q).answer r 0 (leBytes 2 0 ++ leBytes 4 (s.openPages q).length ++
      leBytes 4 (((s.openPages q).map (fun e => 256 - e.2.fill)).sum))).mark := by
  change execSealEffect i s = _
  unfold execSealEffect
  simp only [hq, hw, hb, Bool.not_true, Bool.false_eq_true, if_false]

theorem exec_seqEndEffect {r : Req} {rest : List Wait} (hw : q.waits = .fin r :: rest) : exec (.seqEndEffect i) s =
    .next ((((s.popWait i).endSeq i).1).answer r 0 (leBytes 2 0 ++ leBytes 4 q.tokens)).mark := by
  change execSeqEndEffect i s = _
  unfold execSeqEndEffect
  simp only [hq, hw, hb, Bool.not_true, Bool.false_eq_true, if_false]

theorem exec_pruneEffect {g : Nat} {subtree : Bool} {rest : List Wait} (hw : q.waits = .prune g subtree :: rest) :
    let ds := if subtree then ((s.descendants q.future).filter (fun e => !e.2.pruning)).map (·.1) else []
    let s1 := ds.foldl (fun s k => s.orderPrune g k true) (s.popWait i)
    let e := ({ s1 with sch := { s1.sch with
      prunes := AMap.adjust s1.sch.prunes g (fun p => { p with left := p.left + ds.length }) } }).endSeq i
    exec (.pruneEffect i) s = .next (e.1.pruneDone g 1 e.2).mark := by
  intro ds s1 e
  change execPruneEffect i s = _
  unfold execPruneEffect
  simp only [hq, hw, hb, Bool.not_true, Bool.false_eq_true, if_false]
  rfl

theorem exec_repinEffect {r : Req} {rest : List Wait} (hw : q.waits = .repin r :: rest) :
    let cur := s.currentGen (s.setOfSeq q)
    let s1 := s.setSeq i { q with waits := rest }
    exec (.repinEffect i) s = .next (
      if q.gen = cur then (s1.answer r 0 (leBytes 2 0 ++ leBytes 4 q.gen ++ leBytes 4 cur)).mark
      else if cur = 0 then (s1.refuse r E_WGT_STATE 10).mark
      else if s.genCorrupt (s.setOfSeq q) cur then (s1.refuse r E_WGT_CORRUPT 10).mark
      else (((s1.setSeq i { q with waits := rest, gen := cur }).pinsFell (s.setOfSeq q) q.gen 0).answer r 0
        (leBytes 2 0 ++ leBytes 4 q.gen ++ leBytes 4 cur)).mark) := by
  intro cur s1
  change execRepinEffect i s = _
  unfold execRepinEffect
  simp only [hq, hw, hb, Bool.not_true, Bool.false_eq_true, if_false]
  rfl

end Effects

theorem setSeq_setSeq (s : State) (i : Nat) (q q' : Seq) : (s.setSeq i q).setSeq i q' = s.setSeq i q' := by
  simp only [State.setSeq, AMap.insert_insert]

theorem popWait_seq (s : State) (i j : Nat) : (s.popWait i).seq j =
    if j = i then (s.seq i).map (fun q => { q with waits := q.waits.drop 1 }) else s.seq j := seq_mod s i j _

/-- Settles O36: it holds. -/
theorem sequenceBoundaries : Obligations.SequenceBoundaries := by
  unfold Obligations.SequenceBoundaries
  intro s i q hq
  refine ⟨fun x hx hb => exec_effect_waits hq hb hx, fun hb => ⟨fun r rest hw => ?seals, ?prune, fun r rest hw => ?ends, fun r rest hw => ?repin⟩⟩
  case seals =>
    have hseq : ∀ j, ((s.popWait i).sealAll q).seq j = (s.popWait i).seq j := fun j => by
      rw [sealAll_frame]
      rfl
    refine ⟨_, exec_sealEffect hq hb hw, ?_, fun k => sealAll_page (s.popWait i) q k, ?_, fun j hj => ?_⟩
    · rw [sealAll_frame]
      rfl
    · rw [hseq, popWait_seq, if_pos rfl, hq, Option.map_some, hw]
      rfl
    · rw [hseq, popWait_seq, if_neg hj]
  case prune =>
    intro g subtree rest hw ds s1 e
    exact ⟨exec_pruneEffect hq hb hw, end_none _ i⟩
  case ends => exact ⟨_, exec_seqEndEffect hq hb hw, rfl, end_none _ i⟩
  case repin =>
    rw [exec_repinEffect hq hb hw]
    simp only [setSeq_setSeq]

/-! Branches (09 R226 to R230). -/

section Branch
variable {s : State} {i : Nat} {q : Seq} {b : Playbook} {r : Req} {sealFlag : Bool} {dest : Nat} {is : List Nat} {rest : List Wait}

/-- A branch refused whole: its children dropped and the request answered. -/
def branchRefused (i : Nat) (is : List Nat) (r : Req) (s : State) (c : Code) : State :=
  ((((s.popWait i).dropChildren is).settleBranches i).refuse r c 14).mark

theorem exec_branchEffect (hq : s.seq i = some q) (hb : s.bookOf q = some b) (hw : q.waits = .branch r sealFlag dest is :: rest)
    (hbound : s.atBoundary i q = true) :
    let d := if q.hasStream then s.streamTilesOf q b else (s, 0, [])
    let ids := d.1.futureIds is.length d.1.sch.nextFuture
    let w := d.1.objWrite r.access dest ((is.zip ids).flatMap (fun e => leBytes 2 e.1 ++ leBytes 2 0 ++ leBytes 4 e.2))
    let m := if q.hasStream then w.1.branchImage i q b d.2.2 else some (w.1, none)
    exec (.branchEffect i) s = .next (
      if q.hasStream ∧ q.stream.st = .lost then branchRefused i is r s E_STATE_LOST
      else if !sealFlag ∧ s.openPages q ≠ [] then branchRefused i is r s E_FUTURE_OPEN
      else if d.2.1 ≠ (0 : Code) ∧ q.stream.image.isNone then branchRefused i is r d.1 d.2.1
      else if w.2 ≠ 0 then branchRefused i is r w.1 w.2
      else m.elim (branchRefused i is r w.1 E_OBJ_SPACE) (fun x =>
        (if sealFlag then x.1.sealAll q else x.1).bearAll r i q b is d.2.2 (decide (d.2.1 = 0)) x.2)) := by
  intro d ids w m
  change execBranchEffect i s = _
  unfold execBranchEffect
  simp only [hq, hw, hb, hbound, Bool.not_true, Bool.false_eq_true, if_false]
  have image : ∀ (o : Option (State × Option Nat)) (x : State) (f : State × Option Nat → State),
      (match o with | none => x | some m => f m) = o.elim x f := fun o x f => by cases o <;> rfl
  exact congrArg _ (if_congr Iff.rfl rfl (if_congr Iff.rfl rfl (if_congr Iff.rfl rfl (if_congr Iff.rfl rfl (image _ _ _)))))

end Branch

/-! What a child is given (09 R226, R228). -/

section Entries
variable {s : State} {c : Nat} {x : Seq}

theorem listWrite_sch (s : State) (q : Seq) (off : Nat) (bs : List Byte) : (s.listWrite q off bs).sch = s.sch := by
  unfold State.listWrite
  split
  · rw [State.objWrite_frame]
  · rfl

theorem setSeq_sch {t : State} (h : t.sch = s.sch) (c : Nat) (x : Seq) :
    (t.setSeq c x).sch = { s.sch with seqs := AMap.insert s.sch.seqs c x } := by
  simp only [State.setSeq, h]

/-- An entry set in a list: it and the leaves of its own sequence change, and nothing else of the scheduler. -/
theorem setEntry_sch (hx : s.seq c = some x) (n id : Nat) : ∃ l, (s.setEntry c n id).sch =
    { s.sch with seqs := AMap.insert s.sch.seqs c { x with pages := AMap.insert x.pages n id, leaves := l } } := by
  unfold State.setEntry
  rw [hx]
  refine ⟨_, setSeq_sch ?_ c _⟩
  rw [listWrite_sch]
  split
  · rfl
  · rw [listWrite_sch]

/-- Entries set one after another. -/
theorem setEntries_sch (l : List (Nat × Nat)) : ∀ {s : State} {x : Seq}, s.seq c = some x → ∃ m v,
    (l.foldl (fun s e => s.setEntry c e.1 e.2) s).sch = { s.sch with seqs := m } ∧
    AMap.find? m c = some { x with pages := l.foldl (fun m e => AMap.insert m e.1 e.2) x.pages, leaves := v } ∧
    ∀ j, j ≠ c → AMap.find? m j = AMap.find? s.sch.seqs j := by
  induction l with
  | nil => exact fun {s} {x} hx => ⟨s.sch.seqs, x.leaves, rfl, hx, fun _ _ => rfl⟩
  | cons e l ih =>
    intro s x hx
    obtain ⟨v, hv⟩ := setEntry_sch hx e.1 e.2
    obtain ⟨m, u, hm, hc, hj⟩ := ih (s := s.setEntry c e.1 e.2) (by rw [State.seq, hv]; exact AMap.find_insert_self ..)
    refine ⟨m, u, ?_, hc, fun j hne => ?_⟩
    · rw [List.foldl_cons, hm, hv]
    · rw [hj j hne, hv]
      exact AMap.find_insert_ne _ _ hne

theorem find_none_of_lt {α : Type} {l : AMap α} {n : Nat} (h : ∀ d ∈ l, n < d.1) : AMap.find? l n = none := by
  induction l with
  | nil => rfl
  | cons e l ih =>
    rw [AMap.find?, if_neg (by have := h e List.mem_cons_self; omega)]
    exact ih fun d hd => h d (List.mem_cons_of_mem e hd)

/-- Entries with ascending numbers inserted one after another: what each number reads. -/
theorem find_insertAll {α : Type} {l : AMap α} (hl : l.Pairwise (fun a b => a.1 < b.1)) (m : AMap α) (n : Nat) :
    AMap.find? (l.foldl (fun m e => AMap.insert m e.1 e.2) m) n = (AMap.find? l n).orElse (fun _ => AMap.find? m n) := by
  induction l generalizing m with
  | nil => rfl
  | cons e l ih =>
    obtain ⟨hlt, hl⟩ := List.pairwise_cons.1 hl
    rw [List.foldl_cons, ih hl]
    obtain ⟨k, v⟩ := e
    by_cases hn : k = n
    · have hnone : AMap.find? l n = none := find_none_of_lt fun d hd => hn ▸ hlt d hd
      rw [hnone, hn, AMap.find_insert_self, AMap.find?, if_pos rfl]
      rfl
    · rw [AMap.find_insert_ne _ _ (Ne.symm hn), AMap.find?, if_neg hn]

end Entries

section Child
variable (s : State) (p : Seq) (c : Nat)

/-- A child with its parent's position, generation, adapter and number. -/
def positioned (p x : Seq) : Seq :=
  { x with st := 2, gen := p.gen, adapter := p.adapter, frame := p.frame, pass := p.pass, contrib := p.contrib, stateSeq := p.stateSeq }

/-- The list of a parent shared with a child: a reference more for each page, and the entries in the child's list. -/
theorem shareList_sch {x : Seq} (hx : s.seq c = some x) : ∃ m v,
    (s.shareList p c).sch = { s.sch with seqs := m, pages := (p.pageKeys.foldl bump s).sch.pages } ∧
    AMap.find? m c = some { x with
      pages := p.pages.foldl (fun m e => AMap.insert m e.1 e.2) x.pages, leaves := v, nextSlot := p.nextSlot, chunkSlot := p.chunkSlot
      chunkFrame := p.chunkFrame } ∧
    ∀ j, j ≠ c → AMap.find? m j = AMap.find? s.sch.seqs j := by
  have hbump := bumps_frame p.pageKeys s
  obtain ⟨m, v, hm, hc, hj⟩ := setEntries_sch (c := c) p.pages (s := p.pageKeys.foldl bump s) (x := x) (by rw [hbump]; exact hx)
  refine ⟨AMap.adjust m c (fun q => { q with nextSlot := p.nextSlot, chunkSlot := p.chunkSlot, chunkFrame := p.chunkFrame }), v, ?_, ?_,
    fun j hne => ?_⟩
  · rw [share_eq]
    simp only [State.modSeq, hm]
    rw [hbump]
  · rw [AMap.find_adjust, if_pos rfl, hc, Option.map_some]
  · rw [AMap.find_adjust, if_neg hne, hj j hne, hbump]

/-- A sequence made a future, with the next number that is free. -/
theorem assignFuture_sch {x : Seq} (hx : s.seq c = some x) (a f d : Nat) : ∃ m k,
    (s.assignFuture c a f d).sch = { s.sch with seqs := m, nextFuture := k + 1, parents := AMap.insert s.sch.parents k a } ∧
    AMap.find? m c = some { x with isFuture := true, future := k, parent := a, family := if f = 0 then k else f, depth := min d 65535 } ∧
    ∀ j, j ≠ c → AMap.find? m j = AMap.find? s.sch.seqs j := by
  refine ⟨_, _, assign_sch s c a f d, ?_, fun j hne => ?_⟩
  · refine (AMap.find_adjust _ _ _ _).trans ?_
    rw [if_pos rfl, show AMap.find? s.sch.seqs c = some x from hx, Option.map_some]
  · exact (AMap.find_adjust _ _ _ _).trans (if_neg hne)

/-- The scheduler once a child is borne: the pages of the parent's list have a reference more, the child its entry and its future. -/
theorem bearChild_sch {x : Seq} (hx : s.seq c = some x) : ∃ m v k,
    (s.bearChild p c).sch = { s.sch with
      seqs := m, pages := (p.pageKeys.foldl bump (s.modSeq c (positioned p))).sch.pages, nextFuture := k + 1
      parents := AMap.insert s.sch.parents k p.future } ∧
    AMap.find? m c = some { positioned p x with
      pages := p.pages.foldl (fun m e => AMap.insert m e.1 e.2) x.pages, leaves := v, nextSlot := p.nextSlot, chunkSlot := p.chunkSlot
      chunkFrame := p.chunkFrame, isFuture := true, future := k, parent := p.future, family := if p.family = 0 then k else p.family
      depth := min (p.depth + 1) 65535 } ∧
    ∀ j, j ≠ c → AMap.find? m j = AMap.find? s.sch.seqs j := by
  have hx0 : (s.modSeq c (positioned p)).seq c = some (positioned p x) := by rw [seq_mod, if_pos rfl, hx, Option.map_some]
  obtain ⟨m, v, hm, hc, hj⟩ := shareList_sch (s.modSeq c (positioned p)) p c hx0
  obtain ⟨m', k, hm', hc', hj'⟩ := assignFuture_sch ((s.modSeq c (positioned p)).shareList p c) c (by rw [State.seq, hm]; exact hc)
    p.future p.family (p.depth + 1)
  refine ⟨m', v, k, ?_, hc', fun j hne => ?_⟩
  · change (((s.modSeq c (positioned p)).shareList p c).assignFuture c p.future p.family (p.depth + 1)).sch = _
    rw [hm', hm]
    rfl
  · rw [hj' j hne, hm]
    exact (hj j hne).trans ((seq_mod s c j (positioned p)).trans (if_neg hne))

end Child

/-- Settles O37: it holds. -/
theorem branchesBearChildren : Obligations.BranchesBearChildren := by
  unfold Obligations.BranchesBearChildren
  refine ⟨?branch, ?child⟩
  case branch =>
    intro s i q b r sealFlag dest is rest hq hb hw hbound d ids w no m
    have hexec := exec_branchEffect hq hb hw hbound
    refine ⟨fun hs hl => hexec.trans (congrArg _ (if_pos ⟨hs, hl⟩)), fun hlost hflag hopen => ?_, fun hlost hpages => ⟨fun hd himg => ?_, fun hread => ?_⟩⟩
    · exact hexec.trans (congrArg _ ((if_neg hlost).trans (if_pos ⟨by rw [hflag]; rfl, hopen⟩)))
    · refine hexec.trans (congrArg _ ((if_neg hlost).trans ((if_neg ?_).trans (if_pos ⟨hd, by rw [himg]; rfl⟩))))
      exact fun ⟨hf, ho⟩ => hpages.elim (fun h => by rw [h] at hf; cases hf) ho
    · have hgo : exec (.branchEffect i) s = .next (if w.2 ≠ 0 then no w.1 w.2 else m.elim (no w.1 E_OBJ_SPACE) (fun x =>
          (if sealFlag then x.1.sealAll q else x.1).bearAll r i q b is d.2.2 (decide (d.2.1 = 0)) x.2)) := by
        refine hexec.trans (congrArg _ ((if_neg hlost).trans ((if_neg ?_).trans (if_neg ?_))))
        · exact fun ⟨hf, ho⟩ => hpages.elim (fun h => by rw [h] at hf; cases hf) ho
        · exact fun ⟨hd, hi⟩ => hread.elim hd fun h => h (Option.isNone_iff_eq_none.1 hi)
      refine ⟨fun hw' => hgo.trans (congrArg _ (if_pos hw')), fun hw' hm => ?_, fun x hw' hm => ?_⟩
      · rw [hgo, if_neg (not_not.2 hw'), hm]
        rfl
      · rw [hgo, if_neg (not_not.2 hw'), hm]
        rfl
  case child =>
    intro s c p x hx
    obtain ⟨m, v, k, hm, hc, hj⟩ := bearChild_sch s p c hx
    refine ⟨⟨k, _, ?_, ?_, Eq.trans (by rw [State.seq, hm]) hc, fun hsorted n => find_insertAll hsorted _ n, rfl⟩, fun j hne => ?_, fun hnodup n => ?_⟩
    · rw [hm]
      exact AMap.find_insert_self ..
    · rw [hm]
    · rw [State.seq, hm]
      exact hj j hne
    · have hpage : (s.bearChild p c).page n = (p.pageKeys.foldl bump (s.modSeq c (positioned p))).page n := by
        unfold State.page
        rw [hm]
      rw [hpage, bumps_page _ _ hnodup]
      rfl

end Sys2Proof.Machine.Boundaries

/-! SUPPORT. Steps of the update engine: when a waiting step starts, and what a completed one leaves in the counters and in its plan. -/
namespace Sys2Proof.Machine.UpdateEngine

theorem setPlan_upd (s : State) (i : Nat) (p : UpdPlan) : (s.setPlan i p).upd.plans = AMap.insert s.upd.plans i p := rfl

section Effect
variable {s : State} {plan : Nat} {p : UpdPlan}

theorem exec_effect_idle (hf : AMap.find? s.upd.plans plan = some p) (hw : p.waiting = none) : exec (.updateStepEffect plan) s = .next s := by
  change execUpdateStepEffect plan s = _
  unfold execUpdateStepEffect
  simp only [hf, hw]

/-- What reading the masks of a step gives, where its check passes. -/
def masksOf (s : State) (p : UpdPlan) : State × Code × List (List Byte) :=
  if s.updCheck p ≠ 0 then (s, s.updCheck p, []) else s.readMasks p p.layers

theorem masksOf_refused (hc : s.updCheck p ≠ 0) : masksOf s p = (s, s.updCheck p, []) := if_pos hc
theorem masksOf_read (hc : s.updCheck p = 0) : masksOf s p = s.readMasks p p.layers := if_neg (not_not.2 hc)

/-- The step of a plan that waits, at the command that may start it. -/
def started (s : State) (plan : Nat) (p : UpdPlan) (r : Req) (m : State × Code × List (List Byte)) : State :=
  if m.2.1 ≠ 0 then (((m.1.setPlan plan { p with waiting := none }).answerUpd r m.2.1 0 0 0 0).settleRelease plan).mark
  else m.1.setPlan plan { p with waiting := none, running := some (r, s.counter.toNat), masks := m.2.2, failed := none }

/-- No step of the plan's context is busy, none of its plans runs, and its court is awake (R346). -/
def May (s : State) (p : UpdPlan) : Prop :=
  s.ctxBusy p.ctx = false ∧ (∀ e ∈ s.upd.plans, e.2.ctx = p.ctx → e.2.running = none) ∧ s.awake p.court = true

theorem not_may_iff : ((s.ctxBusy p.ctx || s.upd.plans.any (fun e => decide (e.2.ctx = p.ctx) && e.2.running.isSome)) = true ∨ (!s.awake p.court) = true) ↔
    ¬May s p := by
  unfold May
  cases s.ctxBusy p.ctx <;> cases s.awake p.court <;>
    simp [Option.isSome_iff_ne_none]

theorem exec_effect_waits {r : Req} (hf : AMap.find? s.upd.plans plan = some p) (hw : p.waiting = some r) (h : ¬May s p) :
    exec (.updateStepEffect plan) s = .next s := by
  change execUpdateStepEffect plan s = _
  unfold execUpdateStepEffect
  simp only [hf, hw]
  exact congrArg _ (if_pos (not_may_iff.2 h))

theorem exec_effect {r : Req} (hf : AMap.find? s.upd.plans plan = some p) (hw : p.waiting = some r) (h : May s p) :
    exec (.updateStepEffect plan) s = .next (started s plan p r (masksOf s p)) := by
  change execUpdateStepEffect plan s = _
  unfold execUpdateStepEffect
  simp only [hf, hw]
  exact congrArg _ (if_neg (fun k => not_may_iff.1 k h))

end Effect

section Complete
variable {s : State} {plan : Nat} {p : UpdPlan}

theorem exec_complete_idle (hf : AMap.find? s.upd.plans plan = some p) (hr : p.running = none) : exec (.updateStepComplete plan) s = .next s := by
  change execUpdateStepComplete plan s = _
  unfold execUpdateStepComplete
  simp only [hf, hr]

/-- A state whose step has run, its counters moved (R353). -/
def counted (x : UpdRun) : State := { x.s with upd := x.s.upd.counted x }
/-- Its time and its events charged, and its plan stored. -/
def charged (s : State) (plan : Nat) (p : UpdPlan) (x : UpdRun) : State :=
  let a := counted x
  let u := (a.updAccess (p.ran x)).unit
  (((a.chargeAt u p.ctx 1 (s.updTime p)).addAcc u p.ctx 10 (eventEnergy 3 (a.fv 1) + eventEnergy 4 (a.fv 2))).drawn).setPlan plan (p.ran x)

theorem exec_complete {r : Req} {since : Nat} (hf : AMap.find? s.upd.plans plan = some p) (hr : p.running = some (r, since)) :
    exec (.updateStepComplete plan) s = .next ((((charged s plan p (s.updRun p)).answerUpd r (s.updRun p).code (s.updRun p).refreshed
      (s.updRun p).tiles (s.updRun p).frozen (s.updRun p).bad).settleRelease plan).mark) := by
  change execUpdateStepComplete plan s = _
  unfold execUpdateStepComplete
  simp only [hf, hr]
  rfl

theorem charged_upd (s : State) (plan : Nat) (p : UpdPlan) (x : UpdRun) : (charged s plan p x).upd =
    { x.s.upd.counted x with plans := AMap.insert x.s.upd.plans plan (p.ran x) } := rfl

theorem charged_frame (s : State) (plan : Nat) (p : UpdPlan) (x : UpdRun) : charged s plan p x =
    { x.s with free := (charged s plan p x).free, led := (charged s plan p x).led, upd := (charged s plan p x).upd } := by
  unfold charged
  extract_lets a u
  have h := State.chargeAt_frame a u p.ctx 1 (s.updTime p)
  generalize a.chargeAt u p.ctx 1 (s.updTime p) = b at h ⊢
  rw [h]
  rfl

theorem updRun_eq (hn : p.failed = none) :
    s.updRun p = (p.layers.zip p.masks).foldl (UpdRun.layer p) ⟨s, 0, false, none, 0, 0, 0, 0, 0, 0⟩ := by
  unfold State.updRun
  rw [hn]
  exact if_neg (fun h => nomatch h.1)

/-- A core failure during a step leaves it a code (R348). -/
theorem updRun_failed (hs : p.failed.isSome = true) : (s.updRun p).code ≠ 0 := by
  unfold State.updRun
  extract_lets x
  by_cases h : x.code = 0
  · rw [if_pos ⟨hs, h⟩]
    exact fun k => absurd k (by decide : E_CORE_FAILED ≠ 0)
  · rwa [if_neg (fun k => h k.2)]

end Complete

theorem b2n_decide (q : Prop) [Decidable q] : b2n (decide q) = if q then 1 else 0 := by
  by_cases h : q
  · rw [decide_eq_true h, if_pos h]; rfl
  · rw [decide_eq_false h, if_neg h]; rfl

theorem counted_steps (u : UpdSt) (x : UpdRun) : (u.counted x).steps = u.steps + (if x.code = 0 then 1 else 0) := by
  unfold UpdSt.counted
  rw [b2n_decide]
  by_cases h : x.code = 0
  · simp only [if_pos h]; rfl
  · simp only [if_neg h]; rfl

/-- A tile frozen whole is neither read nor written (R344). -/
theorem tile_frozen (p : UpdPlan) (l : UpdLayer) (mask : List Byte) (dir : Option Mat) (x : UpdRun) (t : Nat) (hc : x.code = 0)
    (hz : (UpdRun.frozenRows l mask t).all id = true) : UpdRun.tile p l mask dir x t = { x with frozen := x.frozen + 1 } := by
  unfold UpdRun.tile
  rw [if_neg (not_not.2 hc)]
  exact if_pos hz

/-- Settles O38: it holds. -/
theorem updateSteps : Obligations.UpdateSteps := by
  unfold Obligations.UpdateSteps
  refine ⟨?step, tile_frozen⟩
  intro s plan p hf
  refine ⟨exec_effect_idle hf, ?effect, exec_complete_idle hf, ?complete⟩
  case effect =>
    intro r hw may c m ended
    refine ⟨exec_effect_waits hf hw, fun h hc => ?refused, fun h hc hm => ?unread, fun h hc hm => ?runs⟩
    case refused =>
      refine (exec_effect hf hw h).trans (congrArg _ ?_)
      rw [masksOf_refused hc]
      exact if_pos hc
    case unread =>
      refine (exec_effect hf hw h).trans (congrArg _ ?_)
      rw [masksOf_read hc]
      exact if_pos hm
    case runs =>
      refine (exec_effect hf hw h).trans (congrArg _ ?_)
      rw [masksOf_read hc]
      exact if_neg (not_not.2 hm)
  case complete =>
    intro r since hr x
    exact ⟨charged s plan p x, charged_frame s plan p x, exec_complete hf hr, rfl, counted_steps _ x, rfl, rfl, rfl, rfl, updRun_failed, updRun_eq⟩

end Sys2Proof.Machine.UpdateEngine

/-! SUPPORT. Residency slots: who is given one, who leaves one, and how a caved context comes back. -/
namespace Sys2Proof.Machine.Residency

section Admit
variable {s : State}

theorem exec_admit (s : State) : exec .contextAdmitSlot s = execContextAdmitSlot s := rfl

theorem admit_none (h : s.firstWaiter = none ∨ s.freeResidency = none) : exec .contextAdmitSlot s = .next s := by
  rw [exec_admit]
  unfold execContextAdmitSlot
  rcases h with h | h
  · rw [h]
  · rw [h]
    cases s.firstWaiter <;> rfl

theorem admit_some {c k : Nat} (hc : s.firstWaiter = some c) (hk : s.freeResidency = some k) : exec .contextAdmitSlot s =
    .next (s.setCtx c { s.ctxSt c with
      st := 1, slot := k, returned := (s.ctxSt c).returned && decide ((s.ctxSt c).st ≠ 3), runnableAt := 0 }).mark := by
  rw [exec_admit]
  unfold execContextAdmitSlot
  rw [hc, hk]

/-- The slot given is the lowest that no resident context holds. -/
theorem freeResidency_least {k : Nat} (hk : s.freeResidency = some k) : k < 128 ∧ k ∉ s.slotsUsed ∧ ∀ j, j < k → j ∈ s.slotsUsed := by
  unfold State.freeResidency at hk
  obtain ⟨hp, hmem, hlow⟩ := List.find?_range_eq_some.1 hk
  simp only [Bool.not_eq_true', List.contains_eq_mem, decide_eq_false_iff_not, List.mem_range, Bool.not_not, decide_eq_true_eq] at hp hmem hlow
  exact ⟨hmem, hp, hlow⟩

end Admit

section Leave
variable {s : State} {ctx : Nat}

/-- A context leaves its slot where none is free, another waits, it is the one blocked longest, and no copy of its streams runs (R366). -/
theorem benchTurn_iff : s.benchTurn ctx = true ↔
    s.freeResidency = none ∧ s.firstWaiter ≠ none ∧ s.longestBlocked = some ctx ∧ ∀ e ∈ s.seqsIn ctx, e.2.copy = none := by
  unfold State.benchTurn
  simp only [Bool.and_eq_true, Option.isNone_iff_eq_none, Option.isSome_iff_ne_none, decide_eq_true_eq, List.all_eq_true, and_assoc]

theorem bench_notTurn (h : s.benchTurn ctx ≠ true) : exec (.contextBench ctx) s = .next s := by
  change execContextBench ctx s = _
  unfold execContextBench
  rw [if_pos (by simpa using h)]

theorem cave_notTurn (h : s.benchTurn ctx ≠ true) : exec (.contextCave ctx) s = .next s := by
  change execContextCave ctx s = _
  unfold execContextCave
  rw [if_pos (Or.inl (by simpa using h))]

theorem bench_turn (h : s.benchTurn ctx = true) : exec (.contextBench ctx) s =
    .next ((s.benchAll ctx).elim s (fun t => ({ t with sch := { t.sch with benchings := t.sch.benchings + 1 } }).leaveSlot ctx 2)) := by
  change execContextBench ctx s = _
  unfold execContextBench
  rw [if_neg (by simp [h])]
  cases s.benchAll ctx <;> rfl

theorem cave_fits (h : (s.benchAll ctx).isSome = true) : exec (.contextCave ctx) s = .next s := by
  change execContextCave ctx s = _
  unfold execContextCave
  rw [if_pos (Or.inr h)]

theorem cave_turn (h : s.benchTurn ctx = true) (hb : s.benchAll ctx = none) : exec (.contextCave ctx) s =
    .next ((s.caveAll ctx).elim s (fun t =>
      if s.inBudget t then ({ t with sch := { t.sch with cavings := t.sch.cavings + 1 } }).leaveSlot ctx 3 else s)) := by
  change execContextCave ctx s = _
  unfold execContextCave
  rw [if_neg (by simp [h, hb])]
  cases s.caveAll ctx <;> rfl

theorem caveAll_none (h : s.parkStreams ctx = none) : s.caveAll ctx = none := by unfold State.caveAll; rw [h]; rfl

theorem caveAll_some {s1 : State} (h : s.parkStreams ctx = some s1) :
    let s2 := (s1.freshBenches ctx).foldl (fun s b => s.caveBench (lineOf ctx) b) s1
    s.caveAll ctx = some ((s2.pageBlocksOf ctx).foldl (fun s b => s.caveBlock (lineOf ctx) b false) s2) := by
  unfold State.caveAll
  rw [h]
  rfl

end Leave

section Return
variable {s : State} {ctx : Nat}

theorem return_idle (h : (s.ctxSt ctx).st ≠ 1 ∨ (s.ctxSt ctx).returned = true) : exec (.contextReturn ctx) s = .next s := by
  change execContextReturn ctx s = _
  unfold execContextReturn
  exact congrArg _ (if_pos h)

/-- Whether a block does not live in the cave. -/
def outOfCave : Option Home → Bool
  | some (.cave _ _ _) => false
  | _ => true

theorem outOfCave_iff (o : Option Home) : outOfCave o = true ↔ ∀ n img lost, o ≠ some (.cave n img lost) := by
  rcases o with _ | (_ | _ | ⟨n, img, lost⟩)
  · exact ⟨fun _ _ _ _ h => (nomatch h), fun _ => rfl⟩
  · exact ⟨fun _ _ _ _ h => (nomatch h), fun _ => rfl⟩
  · exact ⟨fun _ _ _ _ h => (nomatch h), fun _ => rfl⟩
  · exact ⟨fun h => (nomatch h), fun h => absurd rfl (h n img lost)⟩

theorem return_blocks (hst : (s.ctxSt ctx).st = 1) (hr : (s.ctxSt ctx).returned = false) :
    let s1 := (s.pageBlocksOf ctx).foldl (fun s b => s.returnBlock (lineOf ctx) b) s
    exec (.contextReturn ctx) s = .next (s1.setCtx ctx { s1.ctxSt ctx with
      returned := (s1.pageBlocksOf ctx).all (fun b => outOfCave (AMap.find? s1.tier.blocks b)) }).mark := by
  intro s1
  change execContextReturn ctx s = _
  unfold execContextReturn
  refine congrArg _ ((if_neg (not_or.2 ⟨not_not.2 hst, ne_true_of_eq_false hr⟩)).trans ?_)
  have same : ∀ o : Option Home, (match o with | some (.cave _ _ _) => false | _ => true) = outOfCave o := fun o => by
    rcases o with _ | (_ | _ | _) <;> rfl
  refine congrArg State.mark (congrArg (State.setCtx s1 ctx) (congrArg (fun b => { s1.ctxSt ctx with returned := b }) ?_))
  exact congrArg (fun f => (s1.pageBlocksOf ctx).all f) (funext fun b => same _)

end Return

/-- Settles O39: it holds. -/
theorem contextsTakeAndLeaveSlots : Obligations.ContextsTakeAndLeaveSlots := by
  unfold Obligations.ContextsTakeAndLeaveSlots
  intro s
  refine ⟨admit_none, ?admitted, ?leaves⟩
  case admitted =>
    intro c k hc hk
    obtain ⟨hlt, hfree, hlow⟩ := freeResidency_least hk
    exact ⟨admit_some hc hk, hlt, hfree, hlow, Picks.waiter_best s c hc⟩
  case leaves =>
    intro ctx turn
    refine ⟨fun h => ?held, fun h => ?turn, return_idle, fun hst hr => ?back⟩
    case held =>
      have hn : s.benchTurn ctx ≠ true := fun k => h (benchTurn_iff.1 k)
      exact ⟨bench_notTurn hn, cave_notTurn hn⟩
    case turn =>
      have ht : s.benchTurn ctx = true := benchTurn_iff.2 h
      refine ⟨Picks.blocked_best s ctx h.2.2.1, fun t hb => ?benched, fun hb => ⟨?stays, fun hp => ?noRoom, ?caved⟩⟩
      case benched => exact ⟨cave_fits (by rw [hb]; rfl), (bench_turn ht).trans (by rw [hb]; rfl)⟩
      case stays => exact (bench_turn ht).trans (by rw [hb]; rfl)
      case noRoom => exact (cave_turn ht hb).trans (by rw [caveAll_none hp]; rfl)
      case caved =>
        intro s1 hp s2 s3
        have hx := (cave_turn ht hb).trans (congrArg (fun o : Option State => Host.Outcome.next (o.elim s fun t =>
          if s.inBudget t then ({ t with sch := { t.sch with cavings := t.sch.cavings + 1 } }).leaveSlot ctx 3 else s)) (caveAll_some hp))
        exact ⟨fun hi => hx.trans (congrArg _ (if_neg (ne_true_of_eq_false hi))), fun hi => hx.trans (congrArg _ (if_pos hi))⟩
    case back =>
      intro s1
      refine ⟨_, return_blocks hst hr, ?_⟩
      simp only [List.all_eq_true, outOfCave_iff]
      exact Iff.rfl

end Sys2Proof.Machine.Residency

/-! SUPPORT. Scrub sweeps and the steps of a map-out. -/
namespace Sys2Proof.Machine.MapOuts

section Counts

/-- A hour's counts of every channel cleared. -/
theorem countingHour_chan (s : State) (c : Nat) :
    ({ s with mem := { s.mem with chans := s.mem.chans.map (fun e => (e.1, { e.2 with ceHour := 0, ueHour := 0 })) } } : State).chan c =
      { s.chan c with ceHour := 0, ueHour := 0 } :=
  Channels.getD_map s.mem.chans (fun x => { x with ceHour := 0, ueHour := 0 }) .reset rfl c

/-- A sweep of every channel counted: the channels are ready for the next. -/
def sweepCounted (s : State) : State := { s with mem := { s.mem with
  sweeps := s.mem.sweeps + 1, chans := s.mem.chans.map (fun e => (e.1, { e.2 with swept := false })) } }

theorem sweepCounted_chan (s : State) (k : Nat) : (sweepCounted s).chan k = { s.chan k with swept := false } :=
  Channels.getD_map s.mem.chans (fun x => { x with swept := false }) .reset rfl k

theorem countSweep_eq (s : State) (h : ∀ k < 512, (s.chan k).swept = true ∨ (s.chan k).st = 3) : s.countSweep = sweepCounted s := by
  unfold State.countSweep
  rw [if_pos]
  · rfl
  · simpa [List.all_eq_true] using h

theorem countSweep_waits (s : State) (h : ∃ k < 512, (s.chan k).swept = false ∧ (s.chan k).st ≠ 3) : s.countSweep = s := by
  unfold State.countSweep
  rw [if_neg]
  obtain ⟨k, hk, hs, ht⟩ := h
  simp only [List.all_eq_true, List.mem_range, Bool.or_eq_true, decide_eq_true_eq, not_forall]
  exact ⟨k, hk, by simp [hs, ht]⟩

variable {s : State} {c : Nat} {ups : List (Nat × BitVec 72)}

theorem scrub_out (h : 512 ≤ c) : exec (.patrolScrub c ups) s = .next s := by
  change execPatrolScrub c ups s = _
  unfold execPatrolScrub
  rw [if_pos h]

theorem scrub_off (h : c < 512) (ho : (s.upsetAll c ups).mem.scrubOn = false ∨ ((s.upsetAll c ups).chan c).st = 3) :
    exec (.patrolScrub c ups) s = .next (s.upsetAll c ups) := by
  change execPatrolScrub c ups s = _
  unfold execPatrolScrub
  rw [if_neg (not_le.2 h)]
  exact congrArg _ (if_pos (by simpa using ho))

theorem scrub_on (h : c < 512) (ho : (s.upsetAll c ups).mem.scrubOn = true) (hs : ((s.upsetAll c ups).chan c).st ≠ 3) :
    exec (.patrolScrub c ups) s = .next ((s.upsetAll c ups).sweepChan c).countSweep := by
  change execPatrolScrub c ups s = _
  unfold execPatrolScrub
  rw [if_neg (not_le.2 h)]
  exact congrArg _ (if_neg (by simp [ho, hs]))

end Counts

section Trigger
variable {s : State} {c : Nat}

/-- Whether a channel's counts of the hour start a map-out (R263). -/
def Due (s : State) (c : Nat) : Prop :=
  s.mem.auto = true ∧ c < 512 ∧ (s.chan c).st = 0 ∧ (s.mem.ceLimit.toNat < (s.chan c).ceHour ∨ 16 ≤ (s.chan c).ueHour)

theorem not_due_iff : (((!s.mem.auto) = true) ∨ 512 ≤ c ∨ (s.chan c).st ≠ 0 ∨ ((s.chan c).ceHour ≤ s.mem.ceLimit.toNat ∧ (s.chan c).ueHour < 16)) ↔
    ¬Due s c := by
  unfold Due
  cases s.mem.auto
  · simp
  · simp only [Bool.not_true, Bool.false_eq_true, false_or, true_and]
    omega

theorem trigger_idle (h : ¬Due s c) : exec (.mapoutAutoTrigger c) s = .next s := by
  change execMapoutAutoTrigger c s = _
  unfold execMapoutAutoTrigger
  exact congrArg _ (if_pos (not_due_iff.2 h))

theorem trigger_due (h : Due s c) : exec (.mapoutAutoTrigger c) s = .next (s.autoMapout c) := by
  change execMapoutAutoTrigger c s = _
  unfold execMapoutAutoTrigger
  exact congrArg _ (if_neg (fun k => not_due_iff.1 k h))

theorem autoMapout_starts (hc : c < 512) (hs : (s.chan c).st = 0) (hm : s.mem.mapout = none)
    (hl : max s.mem.floor.toNat 256 ≤ s.liveChannels - 1) : s.autoMapout c = s.startMapout c none := by
  have h0 : s.mapoutCode c = 0 := by
    unfold State.mapoutCode
    rw [if_neg (by omega), if_neg (by rw [hm]; exact Bool.false_ne_true), if_neg (not_lt.2 hl)]
  unfold State.autoMapout
  exact if_pos h0

theorem startMapout_chan (s : State) (c : Nat) (r : Option Req) : ((s.startMapout c r).chan c).st = 1 := by
  change ((s.modChan c (fun x => { x with st := 1 })).chan c).st = 1
  rw [State.chan_modChan, if_pos rfl]

end Trigger

section Steps
variable {s : State} {m : MapOut}

/-- The addresses of a map-out's level given up, its channel moving. -/
def vacated (s : State) (m : MapOut) : State :=
  let s1 := s.modChan m.chan (fun x => { x with st := 2 })
  { s1 with mem := { s1.mem with
    mapout := some { m with step := 2 }
    vacated := s1.mem.vacated + 1
    slots := s1.mem.slots.filter (fun e => decide (e.1 % 512 < 511 - s1.mem.vacated)) } }

theorem vacated_chan (s : State) (m : MapOut) : ((vacated s m).chan m.chan).st = 2 := by
  change ((s.modChan m.chan (fun x => { x with st := 2 })).chan m.chan).st = 2
  rw [State.chan_modChan, if_pos rfl]

theorem vacate_empty (hm : s.mem.mapout = some m) (h1 : m.step = 1) (hu : s.vacatingUnits = 0) :
    exec .mapoutVacate s = .next (if s.fits (s.reserved 0) (s.reserved 1) = false then s else vacated s m) := by
  change execMapoutVacate s = _
  unfold execMapoutVacate
  simp only [hm]
  refine congrArg _ ((if_neg (not_not.2 h1)).trans ((if_pos hu).trans ?_))
  cases s.fits (s.reserved 0) (s.reserved 1) <;> rfl

theorem vacate_full (hm : s.mem.mapout = some m) (h1 : m.step = 1) (hu : s.vacatingUnits ≠ 0) :
    exec .mapoutVacate s = .next (if 64 * s.freeRegions + s.freeChunks < s.vacatingUnits
      then (s.modChan m.chan (fun x => { x with st := 0 })).endMapout.answerMapout m E_TIER_NOROOM else s) := by
  change execMapoutVacate s = _
  unfold execMapoutVacate
  simp only [hm]
  exact congrArg _ ((if_neg (not_not.2 h1)).trans (if_neg hu))

theorem rehome {b h : Nat} (hm : s.mem.mapout = some m) (h3 : m.step = 3) (hb : s.bucketHomedOn m.chan = some b) (hh : s.newHome m.chan = some h) :
    exec .bucketRehome s = .next { s with mem := { s.mem with homes := AMap.setD s.mem.homes (b % 512) b h } } := by
  change execBucketRehome s = _
  unfold execBucketRehome
  simp only [hm, hb, hh]
  exact congrArg _ (if_neg (not_not.2 h3))

theorem homeOf_rehomed (s : State) (b h b' : Nat) :
    ({ s with mem := { s.mem with homes := AMap.setD s.mem.homes (b % 512) b h } } : State).homeOf b' = if b' = b then h else s.homeOf b' := by
  change AMap.getD (AMap.setD s.mem.homes (b % 512) b h) (b' % 512) b' = if b' = b then h else AMap.getD s.mem.homes (b' % 512) b'
  by_cases hb : b' = b
  · rw [hb, AMap.getD_setD, if_pos rfl]
  · rw [if_neg hb]
    unfold AMap.setD AMap.getD
    split
    · rw [AMap.find_erase, if_neg hb]
    · rw [AMap.find_insert_ne _ _ hb]

/-- The new home is the live channel with the fewest homes. -/
theorem newHome_fewest {c h : Nat} (hh : s.newHome c = some h) (x : Nat) (hx : x < 512) (hc : x ≠ c) (hs : (s.chan x).st = 0) :
    s.homesOn h ≤ s.homesOn x := by
  unfold State.newHome at hh
  have best := Channels.fold_best _ (fun a b => decide (s.homesOn a < s.homesOn b)) (fun _ => rfl)
    (fun d c => by by_cases k : s.homesOn c < s.homesOn d <;> simp [k]) (fun a b c ha hb => by simp at ha hb ⊢; omega) _ [] none
    (fun _ k => nomatch k) (fun _ => rfl) (fun a => by simp) h hh x
    (List.mem_append_right _ (List.mem_filter.2 ⟨List.mem_range.2 hx, by simp [hc, hs]⟩))
  simpa using best

theorem complete_waits (hm : s.mem.mapout = some m) (h : m.step ≠ 3 ∨ s.bucketHomedOn m.chan ≠ none) : exec .mapoutComplete s = .next s := by
  change execMapoutComplete s = _
  unfold execMapoutComplete
  simp only [hm]
  exact congrArg _ (if_pos (h.imp_right Option.isSome_iff_ne_none.2))

theorem complete_done (hm : s.mem.mapout = some m) (h3 : m.step = 3) (hb : s.bucketHomedOn m.chan = none) :
    let s1 := (s.modChan m.chan (fun x => { x with st := 3 })).raise
      { FRec.mk0 E_MEM_MAPOUT 0 (ident 2 (dieOfChannel m.chan)) with action := 3 }
    exec .mapoutComplete s = .next (({ s1 with mem := { s1.mem with mapout := none } }).answerMapout m 0).endMapout := by
  intro s1
  change execMapoutComplete s = _
  unfold execMapoutComplete
  simp only [hm]
  exact congrArg _ (if_neg (not_or.2 ⟨not_not.2 h3, by rw [hb]; exact Bool.false_ne_true⟩))

end Steps

/-- Settles O40: it holds. -/
theorem channelsSweptAndMappedOut : Obligations.ChannelsSweptAndMappedOut := by
  unfold Obligations.ChannelsSweptAndMappedOut
  intro s
  refine ⟨⟨_, rfl, rfl, countingHour_chan s⟩, ?scrub, ?trigger, ?mapout, rfl⟩
  case scrub =>
    intro c ups s1
    refine ⟨scrub_out, scrub_off, fun h ho hs => ?_⟩
    intro s2
    refine ⟨fun hw => (scrub_on h ho hs).trans (congrArg _ (countSweep_waits _ hw)), fun hd => ⟨_, scrub_on h ho hs, ?_⟩⟩
    rw [countSweep_eq _ hd]
    exact ⟨rfl, rfl, sweepCounted_chan _⟩
  case trigger =>
    intro c due
    exact ⟨trigger_idle, trigger_due, fun hc hs hm hl => ⟨autoMapout_starts hc hs hm hl, startMapout_chan s c none, rfl⟩⟩
  case mapout =>
    intro m hm
    refine ⟨fun h1 hu hf => ⟨vacated s m, ?_, rfl, vacated_chan s m, rfl, rfl, rfl⟩, fun h1 hu hf => ?_, vacate_full hm,
      fun k e h2 hk he => Channels.slice_case s m hm k e h2 hk he, fun b h h3 hb hh => ⟨_, rehome hm h3 hb hh, rfl, ?_, fun b' hn => ?_, newHome_fewest hh⟩,
      complete_waits hm, complete_done hm⟩
    · exact (vacate_empty hm h1 hu).trans (congrArg _ (if_neg (by rw [hf]; exact Bool.noConfusion)))
    · exact (vacate_empty hm h1 hu).trans (congrArg _ (if_pos hf))
    · exact homeOf_rehomed s b h b |>.trans (if_pos rfl)
    · exact homeOf_rehomed s b h b' |>.trans (if_neg hn)

end Sys2Proof.Machine.MapOuts

/-! SUPPORT. Blocks that move between tiers, and relocations. -/
namespace Sys2Proof.Machine.TierMoves

section Relocations
variable {s : State} {block r : Nat}

theorem touch_kept (s : State) (a b w : Nat) : (s.touch a b w).1.mem.relocs = s.mem.relocs ∧ (s.touch a b w).1.tier = s.tier := by
  unfold State.touch
  split
  · exact ⟨rfl, rfl⟩
  · dsimp only
    split <;> exact ⟨rfl, rfl⟩

/-- A raw copy changes neither a relocation nor a home. -/
theorem copyRaw_kept (s : State) (src dst n : Nat) : (s.copyRaw src dst n).mem.relocs = s.mem.relocs ∧ (s.copyRaw src dst n).tier = s.tier :=
  StepForm.foldl_inv (fun t : State => t.mem.relocs = s.mem.relocs ∧ t.tier = s.tier) _
    (fun t w h => ⟨(touch_kept t 0 0xFFFF w).1.trans h.1, (touch_kept t 0 0xFFFF w).2.trans h.2⟩) _ _ ⟨rfl, rfl⟩

theorem recopy_kept (s : State) (r : Nat) (x : Reloc) : (s.recopy r x).mem.relocs = s.mem.relocs ∧ (s.recopy r x).tier = s.tier :=
  StepForm.foldl_inv (fun t : State => t.mem.relocs = s.mem.relocs ∧ t.tier = s.tier) _
    (fun t _ h => ⟨(copyRaw_kept t _ _ _).1.trans h.1, (copyRaw_kept t _ _ _).2.trans h.2⟩) _ _ ⟨rfl, rfl⟩

theorem startReloc_kept (s : State) (block r : Nat) :
    (s.startReloc block r).mem.relocs = AMap.insert s.mem.relocs r ⟨s.pickRegion, 0, []⟩ ∧ (s.startReloc block r).tier.blocks = s.tier.blocks ∧
      (s.startReloc block r).tier.moves = s.tier.moves := by
  obtain ⟨hr, ht⟩ := copyRaw_kept (s.setRegion s.pickRegion (.fresh block)) (blockBytes * r) (blockBytes * s.pickRegion) blockBytes
  exact ⟨congrArg (fun m => AMap.insert m r (⟨s.pickRegion, 0, []⟩ : Reloc)) hr, congrArg (·.blocks) ht, congrArg (·.moves) ht⟩

theorem countRelocation_eq (s : State) (tier n : Nat) : s.countRelocation tier n =
    { s with tier := { s.tier with moves := s.tier.moves + 1 }, led := (s.countRelocation tier n).led } := by
  unfold State.countRelocation
  rw [State.charge_frame, State.charge_frame]

/-- A commit makes the copy the block's home, and of no other block (R284). -/
theorem commitReloc_kept (s : State) (block r : Nat) (x : Reloc) :
    AMap.find? (s.commitReloc block r x).tier.blocks block = some (.fresh x.dest) ∧
    (∀ b, b ≠ block → AMap.find? (s.commitReloc block r x).tier.blocks b = AMap.find? s.tier.blocks b) ∧
    (s.commitReloc block r x).tier.moves = s.tier.moves + 1 ∧ (s.commitReloc block r x).mem.relocs = AMap.erase s.mem.relocs r := by
  unfold State.commitReloc
  rw [countRelocation_eq]
  exact ⟨AMap.find_insert_self _ _ _, fun b hb => AMap.find_insert_ne _ _ hb, rfl, rfl⟩

theorem exec_reloc_fresh (hb : AMap.find? s.tier.blocks block = some (.fresh r)) (hr : AMap.find? s.mem.relocs r = none) :
    exec (.blockRelocation block) s =
      .next (if r < s.regionEnd ∨ s.freeRegions = 0 ∨ s.isMoving block then s else s.startReloc block r) := by
  change execBlockRelocation block s = _
  unfold execBlockRelocation
  simp only [hb, hr]

theorem exec_reloc_step {x : Reloc} (hb : AMap.find? s.tier.blocks block = some (.fresh r)) (hr : AMap.find? s.mem.relocs r = some x) :
    exec (.blockRelocation block) s = .next (s.stepReloc block r x) := by
  change execBlockRelocation block s = _
  unfold execBlockRelocation
  simp only [hb, hr]

theorem exec_reloc_pressed {n : Nat} {cs : List Nat} (hb : AMap.find? s.tier.blocks block = some (.pressed n cs)) :
    let out := cs.filter (fun c => decide (s.regionEnd ≤ c / 64))
    exec (.blockRelocation block) s = .next (if out = [] ∨ (s.freeRegions = 0 ∧ s.freeChunks < out.length) then s
      else (out.foldl State.moveChunk s).countRelocation 1 (4096 * out.length)) := by
  intro out
  change execBlockRelocation block s = _
  unfold execBlockRelocation
  simp only [hb]
  rfl

theorem stepReloc_recopies {x : Reloc} (hd : x.dirty ≠ []) (hr : x.rounds < 2) :
    (s.stepReloc block r x).mem.relocs = AMap.insert s.mem.relocs r { x with rounds := x.rounds + 1, dirty := [] } ∧
      (s.stepReloc block r x).tier = s.tier := by
  unfold State.stepReloc
  rw [if_neg hd, if_pos hr]
  exact ⟨congrArg (fun m => AMap.insert m r { x with rounds := x.rounds + 1, dirty := [] }) (recopy_kept s r x).1, (recopy_kept s r x).2⟩

theorem stepReloc_commits {x : Reloc} (h : x.dirty = [] ∨ 2 ≤ x.rounds) :
    AMap.find? (s.stepReloc block r x).tier.blocks block = some (.fresh x.dest) ∧
    (∀ b, b ≠ block → AMap.find? (s.stepReloc block r x).tier.blocks b = AMap.find? s.tier.blocks b) ∧
    (s.stepReloc block r x).tier.moves = s.tier.moves + 1 ∧ (s.stepReloc block r x).mem.relocs = AMap.erase s.mem.relocs r := by
  unfold State.stepReloc
  by_cases hd : x.dirty = []
  · rw [if_pos hd]
    exact commitReloc_kept s block r x
  · rw [if_neg hd, if_neg (not_lt.2 (h.resolve_left hd))]
    have hk := commitReloc_kept (s.recopy r x) block r x
    rwa [(recopy_kept s r x).1, (recopy_kept s r x).2] at hk

end Relocations

section Moves
variable {s : State} {obj k : Nat} {o : Obj} {m : Move} {h : Home} {rest : List (Nat × Home)}

/-- A move's next block committed, the move ended where that was the last or could not be read. -/
def committed (u : State) (obj : Nat) (o : Obj) (m : Move) (k : Nat) (h : Home) (rest : List (Nat × Home)) : State :=
  let c := u.commitBlock obj o m k h
  if c.2 ≠ 0 then c.1.endMove obj c.2 else if rest = [] then c.1.endMove obj 0 else c.1

/-- A transfer reaches the block, or a relocation holds it (R283). -/
def Busy (s : State) (k : Nat) (h : Home) : Prop :=
  s.inFlight (blockBytes * k) blockBytes = true ∨ ∃ r, h = .fresh r ∧ AMap.find? s.mem.relocs r ≠ none

theorem moveBusy_iff (hb : s.blocksOutside obj o m.dest = (k, h) :: rest) : s.moveBusy obj o m = true ↔ Busy s k h := by
  unfold State.moveBusy Busy
  simp only [hb]
  refine (Iff.of_eq (Bool.or_eq_true _ _)).trans (or_congr Iff.rfl ?_)
  cases h with
  | fresh r => exact Option.isSome_iff_ne_none.trans ⟨fun hr => ⟨r, rfl, hr⟩, fun ⟨_, he, hr⟩ => Home.fresh.inj he ▸ hr⟩
  | pressed n cs => exact ⟨fun hf => absurd hf Bool.false_ne_true, fun ⟨_, he, _⟩ => Home.noConfusion he⟩
  | cave a b c => exact ⟨fun hf => absurd hf Bool.false_ne_true, fun ⟨_, he, _⟩ => Home.noConfusion he⟩

theorem moveOn_busy (hb : s.blocksOutside obj o m.dest = (k, h) :: rest) (hy : Busy s k h) : s.moveOn obj o m = s := by
  unfold State.moveOn
  exact if_pos ((moveBusy_iff hb).2 hy)

theorem moveOn_enters (hb : s.blocksOutside obj o m.dest = (k, h) :: rest) (hf : m.freeing = none) (hy : ¬Busy s k h) (hm : m.moving = false) :
    s.moveOn obj o m = s.setObj obj { o with move := some { m with moving := true } } := by
  unfold State.moveOn
  rw [if_neg (fun hk => hy ((moveBusy_iff hb).1 hk)), if_pos]
  rw [hm, hf, hb]
  exact ⟨rfl, rfl, List.cons_ne_nil _ _⟩

theorem moveOn_commits (hb : s.blocksOutside obj o m.dest = (k, h) :: rest) (hf : m.freeing = none) (hy : ¬Busy s k h) (hm : m.moving = true) :
    s.moveOn obj o m = committed s obj o m k h rest := by
  unfold State.moveOn
  rw [if_neg (fun hk => hy ((moveBusy_iff hb).1 hk)), if_neg (by rw [hm]; exact fun hk => absurd hk.1 Bool.false_ne_true)]
  unfold State.moveNext
  simp only [hb, hf]
  rfl

/-- A move into the cave waits for one accepted earlier, or for the programming budget (R296). -/
def Wait (s : State) (obj : Nat) (o : Obj) (m : Move) : Prop :=
  m.dest = 2 ∧ m.moving = true ∧ ((∃ x ∈ s.tier.budgetWait, s.moveOrder x < s.moveOrder obj) ∨ s.budgetOk (s.nextImage obj o) = false)

theorem wait_iff : (m.dest = 2 ∧ m.moving = true ∧ (s.budgetBefore obj = true ∨ (!s.budgetOk (s.nextImage obj o)) = true)) ↔ Wait s obj o m := by
  unfold Wait State.budgetBefore
  simp only [List.any_eq_true, decide_eq_true_eq, Bool.not_eq_true']

theorem exec_move (ho : AMap.find? s.tier.objs obj = some o) (hm : o.move = some m) : exec (.tierBlockMove obj) s =
    .next (if s.tier.budgetWait.contains obj then s
      else if m.dest = 2 ∧ m.moving ∧ (s.budgetBefore obj ∨ !s.budgetOk (s.nextImage obj o)) then s.awaitBudget obj
      else s.moveOn obj o m) := by
  change execTierBlockMove obj s = _
  unfold execTierBlockMove
  simp only [ho, hm]

theorem exec_move_waiting (ho : AMap.find? s.tier.objs obj = some o) (hm : o.move = some m) (hw : obj ∈ s.tier.budgetWait) :
    exec (.tierBlockMove obj) s = .next s := (exec_move ho hm).trans (congrArg _ (if_pos (List.contains_iff_mem.2 hw)))

theorem exec_move_awaits (ho : AMap.find? s.tier.objs obj = some o) (hm : o.move = some m) (hn : obj ∉ s.tier.budgetWait) (hw : Wait s obj o m) :
    exec (.tierBlockMove obj) s = .next (s.awaitBudget obj) :=
  (exec_move ho hm).trans (congrArg _ ((if_neg (mt List.contains_iff_mem.1 hn)).trans (if_pos (wait_iff.2 hw))))

theorem exec_move_on (ho : AMap.find? s.tier.objs obj = some o) (hm : o.move = some m) (hn : obj ∉ s.tier.budgetWait) (hw : ¬Wait s obj o m) :
    exec (.tierBlockMove obj) s = .next (s.moveOn obj o m) :=
  (exec_move ho hm).trans (congrArg _ ((if_neg (mt List.contains_iff_mem.1 hn)).trans (if_neg (mt wait_iff.1 hw))))

/-- The line of the waiting moves with one more, put before those accepted after it. -/
def lined (s : State) (obj : Nat) : List Nat :=
  let before (x : Nat) : Bool := decide (s.moveOrder x < s.moveOrder obj)
  s.tier.budgetWait.filter before ++ [obj] ++ s.tier.budgetWait.filter (fun x => !before x)

theorem mem_lined (s : State) (obj x : Nat) : x ∈ lined s obj ↔ x = obj ∨ x ∈ s.tier.budgetWait := by
  unfold lined
  simp only [List.mem_append, List.mem_filter, List.mem_singleton, decide_eq_true_eq, Bool.not_eq_true', decide_eq_false_iff_not]
  tauto

theorem lined_sorted (s : State) (obj : Nat) (h : s.tier.budgetWait.Pairwise (fun a b => s.moveOrder a ≤ s.moveOrder b)) :
    (lined s obj).Pairwise (fun a b => s.moveOrder a ≤ s.moveOrder b) := by
  unfold lined
  simp only [List.pairwise_append, List.pairwise_singleton, List.mem_append, List.mem_filter, List.mem_singleton, decide_eq_true_eq,
    Bool.not_eq_true', decide_eq_false_iff_not, not_lt]
  refine ⟨⟨h.filter _, trivial, fun a ha b hb => hb ▸ le_of_lt ha.2⟩, h.filter _, fun a ha b hb => ?_⟩
  rcases ha with ha | rfl
  · exact le_of_lt (lt_of_lt_of_le ha.2 hb.2)
  · exact hb.2

theorem exec_release {tl : List Nat} (hw : s.tier.budgetWait = obj :: tl) (ho : AMap.find? s.tier.objs obj = some o) (hm : o.move = some m) :
    exec .caveBudgetRelease s = .next (if s.moveBusy obj o m ∨ !s.budgetOk (s.nextImage obj o) then s
      else ({ s with tier := { s.tier with budgetWait := tl } }).moveOn obj o m) := by
  change execCaveBudgetRelease s = _
  unfold execCaveBudgetRelease
  simp only [hw, ho, hm]

theorem release_stays {tl : List Nat} (hw : s.tier.budgetWait = obj :: tl) (ho : AMap.find? s.tier.objs obj = some o) (hm : o.move = some m)
    (hb : s.blocksOutside obj o m.dest = (k, h) :: rest) (hy : Busy s k h ∨ s.budgetOk (s.nextImage obj o) = false) :
    exec .caveBudgetRelease s = .next s :=
  (exec_release hw ho hm).trans (congrArg _ (if_pos (hy.imp (moveBusy_iff hb).2 (fun hk => by rw [hk]; rfl))))

theorem release_moves {tl : List Nat} (hw : s.tier.budgetWait = obj :: tl) (ho : AMap.find? s.tier.objs obj = some o) (hm : o.move = some m)
    (hf : m.freeing = none) (hb : s.blocksOutside obj o m.dest = (k, h) :: rest) (hy : ¬Busy s k h) (hk : s.budgetOk (s.nextImage obj o) = true)
    (hv : m.moving = true) :
    exec .caveBudgetRelease s = .next (committed { s with tier := { s.tier with budgetWait := tl } } obj o m k h rest) := by
  refine (exec_release hw ho hm).trans (congrArg _ ((if_neg ?_).trans (moveOn_commits (s := { s with tier := { s.tier with budgetWait := tl } }) hb hf hy hv)))
  rw [hk, moveBusy_iff hb]
  exact not_or.2 ⟨hy, Bool.false_ne_true⟩

theorem release_none (hw : s.tier.budgetWait = []) : exec .caveBudgetRelease s = .next s := by
  change execCaveBudgetRelease s = _
  unfold execCaveBudgetRelease
  rw [hw]

end Moves

/-- Settles O41: it holds. -/
theorem blocksMoveBetweenTiers : Obligations.BlocksMoveBetweenTiers := by
  unfold Obligations.BlocksMoveBetweenTiers
  intro s
  refine ⟨?moves, release_none, ?starts, ?steps, fun block n cs hb => exec_reloc_pressed hb⟩
  case moves =>
    intro obj k o m h rest ho hm hf hb done busy wait
    refine ⟨exec_move_waiting ho hm, fun hn hw => ⟨lined s obj, exec_move_awaits ho hm hn hw, mem_lined s obj, lined_sorted s obj⟩,
      fun hn hw => ⟨fun hy => ?_, fun hy hv => ?_, fun hy hv => ?_⟩, fun tl hw => ⟨release_stays hw ho hm hb, release_moves hw ho hm hf hb⟩, ?_⟩
    · exact (exec_move_on ho hm hn hw).trans (congrArg _ (moveOn_busy hb hy))
    · exact (exec_move_on ho hm hn hw).trans (congrArg _ (moveOn_enters hb hf hy hv))
    · exact (exec_move_on ho hm hn hw).trans (congrArg _ (moveOn_commits hb hf hy hv))
    · intro c hc hd
      obtain ⟨hg, ho'⟩ := Placing.commit_ok s obj o m k h hd hc
      exact ⟨hg, _, ho', rfl⟩
  case starts =>
    intro block r hb hr
    refine ⟨fun h => (exec_reloc_fresh hb hr).trans (congrArg _ (if_pos h)), fun he hf hm => ⟨_, exec_reloc_fresh hb hr, ?_⟩⟩
    rw [if_neg (not_or.2 ⟨not_lt.2 he, not_or.2 ⟨hf, ne_true_of_eq_false hm⟩⟩)]
    exact startReloc_kept s block r
  case steps =>
    intro block r x hb hr
    exact ⟨fun hd hn => ⟨_, exec_reloc_step hb hr, stepReloc_recopies hd hn⟩, fun h => ⟨_, exec_reloc_step hb hr, stepReloc_commits h⟩⟩

end Sys2Proof.Machine.TierMoves

/-! SUPPORT. The cave's upkeep, compaction and digests. -/
namespace Sys2Proof.Machine.Upkeep

section Lost

/-- One tile of a package's image lost. -/
def loseTile (pkg : Nat) (s : State) (e : Nat × Nat) : State :=
  match AMap.find? s.tier.blocks e.1 with
  | some (.cave k img l) => if k = pkg ∧ e.2 < 64 then s.setBlock e.1 (.cave k img (l ++ [e.2]).eraseDups) else s
  | _ => s

theorem losePages_eq (s : State) (pkg : Nat) (lost : List (Nat × Nat)) : s.losePages pkg lost = lost.foldl (loseTile pkg) s := rfl

theorem loseTile_cave {s : State} {pkg : Nat} {e : Nat × Nat} {k : Nat} {img : List Byte} {l : List Nat}
    (h : AMap.find? s.tier.blocks e.1 = some (.cave k img l)) :
    loseTile pkg s e = if k = pkg ∧ e.2 < 64 then s.setBlock e.1 (.cave k img (l ++ [e.2]).eraseDups) else s := by
  unfold loseTile
  rw [h]

/-- A lost tile of one block leaves every other block. -/
theorem loseTile_other {s : State} {pkg : Nat} {e : Nat × Nat} {b : Nat} (hb : b ≠ e.1) :
    AMap.find? (loseTile pkg s e).tier.blocks b = AMap.find? s.tier.blocks b := by
  unfold loseTile
  split
  · split
    · exact AMap.find_insert_ne _ _ hb
    · rfl
  · rfl

theorem loseTile_find {s : State} {pkg : Nat} {e : Nat × Nat} {b k : Nat} {img : List Byte} {l : List Nat}
    (h : AMap.find? s.tier.blocks b = some (.cave k img l)) :
    ∃ l', AMap.find? (loseTile pkg s e).tier.blocks b = some (.cave k img l') ∧ ∀ x, x ∈ l' ↔ x ∈ l ∨ (k = pkg ∧ x < 64 ∧ (b, x) = e) := by
  by_cases hb : b = e.1
  · subst hb
    rw [loseTile_cave h]
    by_cases hk : k = pkg ∧ e.2 < 64
    · rw [if_pos hk]
      refine ⟨_, AMap.find_insert_self _ _ _, fun x => ?_⟩
      rw [List.mem_eraseDups, List.mem_append, List.mem_singleton]
      refine or_congr Iff.rfl ⟨fun hx => ⟨hk.1, hx ▸ hk.2, hx ▸ rfl⟩, fun hx => congrArg Prod.snd hx.2.2⟩
    · rw [if_neg hk]
      refine ⟨l, h, fun x => ⟨Or.inl, fun hx => hx.resolve_right fun hy => hk ⟨hy.1, ?_⟩⟩⟩
      rw [← hy.2.2]
      exact hy.2.1
  · rw [loseTile_other hb]
    exact ⟨l, h, fun x => ⟨Or.inl, fun hx => hx.resolve_right fun hy => hb (congrArg Prod.fst hy.2.2)⟩⟩

theorem losePages_find (pkg : Nat) (lost : List (Nat × Nat)) (s : State) {b k : Nat} {img : List Byte} {l : List Nat}
    (h : AMap.find? s.tier.blocks b = some (.cave k img l)) :
    ∃ l', AMap.find? (s.losePages pkg lost).tier.blocks b = some (.cave k img l') ∧
      ∀ x, x ∈ l' ↔ x ∈ l ∨ (k = pkg ∧ x < 64 ∧ (b, x) ∈ lost) := by
  rw [losePages_eq]
  induction lost generalizing s l with
  | nil => exact ⟨l, h, fun x => ⟨Or.inl, fun hx => hx.resolve_right fun hy => List.not_mem_nil hy.2.2⟩⟩
  | cons e es ih =>
    obtain ⟨l1, h1, hm1⟩ := loseTile_find (pkg := pkg) (e := e) h
    obtain ⟨l2, h2, hm2⟩ := ih _ h1
    refine ⟨l2, h2, fun x => ?_⟩
    rw [hm2, hm1, List.mem_cons]
    tauto

theorem level_rests {u : State} {pkg : Nat} (h : 24 ≤ pkg ∨ (u.pkg pkg).most ≤ (u.pkg pkg).least + 200) : u.level pkg = u := by
  unfold State.level
  exact if_pos h

theorem level_moves {u : State} {pkg b : Nat} {img : List Byte} (hp : pkg < 24) (hw : (u.pkg pkg).least + 200 < (u.pkg pkg).most)
    (hi : (u.imagesIn pkg)[u.fv 3 % (u.imagesIn pkg).length]? = some (b, img)) :
    u.level pkg = if u.budgetOk img.length = true then u.moveImage b img else u := by
  unfold State.level
  extract_lets p is
  rw [if_neg (not_or.2 ⟨not_le.2 hp, not_le.2 hw⟩), show is[u.fv 3 % is.length]? = some (b, img) from hi]

end Lost

section Retire
variable {s : State} {pkg bytes : Nat}

/-- The images of a retired block programmed anew. -/
def moved (s : State) (pkg : Nat) : State :=
  (((List.range (s.imagesIn pkg).length).zip (s.imagesIn pkg)).filter (fun e => decide (s.fv (10 + e.1) % 2 = 1))).foldl
    (fun s e => s.moveImage e.2.1 e.2.2) s.drawn

theorem moved_none (h : s.imagesIn pkg = []) : moved s pkg = s.drawn := by
  unfold moved
  rw [h]
  rfl

/-- A block of a package counted as retired, its bytes lost. -/
def retired (u : State) (pkg bytes : Nat) : State :=
  let s2 := u.setPkg pkg { u.pkg pkg with retired := (u.pkg pkg).retired + 1 }
  { s2 with tier := { s2.tier with
    retiredBytes := s2.tier.retiredBytes + bytes, caveLost := s2.tier.retiredBytes + bytes - 16000000000000 } }

/-- The record of a reserve that is used up. -/
def told (u : State) (pkg bytes : Nat) : State :=
  if u.tier.caveLost < u.tier.retiredBytes + bytes - 16000000000000
  then (retired u pkg bytes).raise (FRec.mk0 E_CAV_RESERVE 2 (ident 2 (1024 + pkg / 6))) else retired u pkg bytes

theorem exec_retire (h : pkg < 24) : exec (.flashBlockRetire pkg bytes) s = .next (told (moved s pkg) pkg bytes) := by
  change execFlashBlockRetire pkg bytes s = _
  unfold execFlashBlockRetire
  rw [if_neg (not_le.2 h)]
  rfl

theorem exec_retire_out (h : 24 ≤ pkg) : exec (.flashBlockRetire pkg bytes) s = .next s := by
  change execFlashBlockRetire pkg bytes s = _
  unfold execFlashBlockRetire
  rw [if_pos h]

theorem told_tier (u : State) (pkg bytes : Nat) : (told u pkg bytes).tier = (retired u pkg bytes).tier := by
  unfold told
  split <;> rfl

theorem retired_pkg (u : State) (pkg bytes : Nat) : ((retired u pkg bytes).pkg pkg).retired = (u.pkg pkg).retired + 1 :=
  congrArg Pkg.retired ((AMap.getD_insert _ _ _ _ _).trans (if_pos rfl))

theorem told_pkg (u : State) (pkg bytes : Nat) : ((told u pkg bytes).pkg pkg).retired = (u.pkg pkg).retired + 1 := by
  have h : (told u pkg bytes).pkg pkg = (retired u pkg bytes).pkg pkg := congrArg (fun t : TierSt => AMap.getD t.pkgs .new pkg) (told_tier u pkg bytes)
  rw [h]
  exact retired_pkg u pkg bytes

/-- A record is raised only where more is lost than before. -/
theorem told_flt (u : State) (pkg bytes : Nat) (h : (told u pkg bytes).flt ≠ u.flt) : u.tier.caveLost < (told u pkg bytes).tier.caveLost := by
  rw [told_tier]
  by_cases hl : u.tier.caveLost < u.tier.retiredBytes + bytes - 16000000000000
  · exact hl
  · exact absurd (congrArg State.flt (if_neg hl : told u pkg bytes = retired u pkg bytes)) h

end Retire

/-- With one pressed region at most there is none to empty into (R298). -/
theorem compact_single {s : State} (h : s.pressedRegions.length ≤ 1) : s.compact = s := by
  unfold State.compact
  extract_lets ps total
  have hn : (ps.reverse).find? (fun e => decide (e.2.length ≤ total - (64 - e.2.length)) && decide (1 < ps.length)) = none := by
    rw [List.find?_eq_none]
    intro e _
    rw [decide_eq_false (not_lt.2 h), Bool.and_false]
    exact Bool.false_ne_true
  rw [hn]

section Hash
variable {s : State} {obj : Nat} {h : Shard} {r : Req}

/-- The hash of a shard done and charged: it is registered, or answered with its code and unregistered. -/
def hashed (s : State) (obj : Nat) (h : Shard) (r : Req) : State :=
  let d := s.shardDigest obj
  let s1 := d.1.charge (lineOf h.owner) 3 (33 * (s.counter.toNat - h.since))
  if d.2.1 ≠ 0 then (s1.unregister obj h).answerShard r h d.2.1
  else d.2.2.elim ((s1.unregister obj h).answerShard r h E_WGT_DIGEST)
    (fun g => (s1.setShard obj { h with registered := true, req := none, digest := g }).answerShard r h 0)

theorem exec_hash (ho : AMap.find? s.wgt.shards obj = some h) (hr : h.req = some r) :
    exec (.shardHashComplete obj) s = .next (hashed s obj h r) := by
  change execShardHashComplete obj s = _
  unfold execShardHashComplete
  simp only [ho, hr]
  have key : ∀ (o : Option (List Byte)) (x : State) (f : List Byte → State), (match o with | some g => f g | none => x) = o.elim x f :=
    fun o x f => by cases o <;> rfl
  exact congrArg _ (if_congr Iff.rfl rfl (key _ _ _))

theorem hashed_unread (hc : (s.shardDigest obj).2.1 ≠ 0) : hashed s obj h r =
    (((s.shardDigest obj).1.charge (lineOf h.owner) 3 (33 * (s.counter.toNat - h.since))).unregister obj h).answerShard r h
      (s.shardDigest obj).2.1 := by
  unfold hashed
  exact if_pos hc

theorem hashed_read (hc : (s.shardDigest obj).2.1 = 0) : hashed s obj h r =
    (s.shardDigest obj).2.2.elim
      ((((s.shardDigest obj).1.charge (lineOf h.owner) 3 (33 * (s.counter.toNat - h.since))).unregister obj h).answerShard r h E_WGT_DIGEST)
      (fun g => (((s.shardDigest obj).1.charge (lineOf h.owner) 3 (33 * (s.counter.toNat - h.since))).setShard obj
        { h with registered := true, req := none, digest := g }).answerShard r h 0) := by
  unfold hashed
  exact if_neg (not_not.2 hc)

end Hash

section Pass
variable {s : State}

theorem pass_off (h : s.wgt.digOn = false) : exec .digestPass s = .next s := by
  change execDigestPass s = _
  unfold execDigestPass
  rw [h]
  rfl

/-- A pass counted. -/
def passed (s : State) : State := { s with wgt := { s.wgt with passes := s.wgt.passes + 1 } }

theorem pass_on (h : s.wgt.digOn = true) : exec .digestPass s =
    .next (passed ((s.wgt.shards.filter (fun e => e.2.registered)).foldl (fun s e => s.digestOne e.1 e.2) s)) := by
  change execDigestPass s = _
  unfold execDigestPass
  rw [h]
  rfl

end Pass

/-- Settles O42: it holds. -/
theorem upkeepAndDigests : Obligations.UpkeepAndDigests := by
  unfold Obligations.UpkeepAndDigests
  intro s
  refine ⟨?levelling, fun pkg bytes => exec_retire_out, ?retire, fun h => congrArg _ (compact_single h), rfl, ?hash, pass_off,
    fun h => ⟨_, pass_on h, rfl⟩⟩
  case levelling =>
    intro pkg lost u
    exact ⟨fun b k img l h => losePages_find pkg lost s h, fun h => congrArg _ (level_rests h),
      fun b img hp hw hi => congrArg _ (level_moves hp hw hi)⟩
  case retire =>
    intro pkg bytes h
    refine ⟨moved s pkg, told (moved s pkg) pkg bytes, exec_retire h, told_pkg _ _ _, ?_, ?_, moved_none, told_flt _ _ _⟩
    · rw [told_tier]
      rfl
    · rw [told_tier]
      rfl
  case hash =>
    intro obj h r ho hr d s1
    refine ⟨fun hc => ?_, fun hc hn => ?_, fun g hc hg => ?_⟩
    · exact (exec_hash ho hr).trans (congrArg _ (hashed_unread hc))
    · exact (exec_hash ho hr).trans (congrArg _ ((hashed_read hc).trans (congrArg (Option.elim · _ _) hn)))
    · exact (exec_hash ho hr).trans (congrArg _ ((hashed_read hc).trans (congrArg (Option.elim · _ _) hg)))

end Sys2Proof.Machine.Upkeep

/-! SUPPORT. The codec engines: frames that start and end, units put into a ring, and streams that close. -/
namespace Sys2Proof.Machine.CodecEvents

/-! Streams and engines after an operation of an engine. -/

theorem cstream_setStream_self (s : State) (i : Nat) (c : CStream) : (s.setStream i c).cstream i = some c := AMap.find_insert_self _ _ _
theorem cstream_setEngine (s : State) (e i : Nat) (x : Engine) : (s.setEngine e x).cstream i = s.cstream i := rfl
theorem engine_setEngine_self (s : State) (e : Nat) (x : Engine) : (s.setEngine e x).engine e = x := by rw [State.engine_setEngine, if_pos rfl]

section Start
variable {s : State} {eng : Nat}

theorem start_idle (h : 16 ≤ eng ∨ (s.engine eng).failed = true ∨ (s.engine eng).run ≠ none ∨ s.nextStream eng = none) :
    exec (.codecFrameStart eng) s = .next s := by
  change execCodecFrameStart eng s = _
  unfold execCodecFrameStart
  by_cases hb : 16 ≤ eng ∨ (s.engine eng).failed = true ∨ (s.engine eng).run.isSome = true
  · exact congrArg _ (if_pos hb)
  · refine congrArg _ ((if_neg hb).trans ?_)
    have hn : s.nextStream eng = none := by
      simp only [Option.isSome_iff_ne_none] at hb
      tauto
    simp only [hn]

/-- The stream of a frame that starts: its buffer busy, its frame out of its queue, its rate in effect (R392, R395). -/
def begun (c : CStream) (f : CFrame) (k : Nat) : CStream :=
  let c1 := (if c.dir = 0 then c.mark f.index 16 0 else c).mark k 16 32
  { c1.began f with queue := c.queue.drop 1, pool := AMap.adjust c1.pool k (fun b => { b with num := f.num, pts := f.pts }) }

theorem begun_rates (c : CStream) (f : CFrame) (k : Nat) : (begun c f k).kbps = c.kbpsSet ∧ (begun c f k).fps = c.fpsSet := by
  unfold begun
  by_cases h : c.dir = 0
  · rw [if_pos h]; exact ⟨rfl, rfl⟩
  · rw [if_neg h]; exact ⟨rfl, rfl⟩

theorem busy_bit (m : Byte) : ((m &&& ~~~32#8) ||| 16#8).getLsbD 4 = true := by
  simp

theorem begun_pool {c : CStream} {f : CFrame} {k : Nat} {b : PoolBuf} (h : AMap.find? c.pool k = some b) :
    ∃ b', AMap.find? (begun c f k).pool k = some b' ∧ b'.marks.getLsbD 4 = true ∧ b'.num = f.num ∧ b'.pts = f.pts := by
  have hin : ∃ b1, AMap.find? (if c.dir = 0 then c.mark f.index 16 0 else c).pool k = some b1 := by
    by_cases hd : c.dir = 0
    · rw [if_pos hd, Pictures.mark_find]
      by_cases hk : k = f.index
      · rw [if_pos hk, ← hk, h]; exact ⟨_, rfl⟩
      · rw [if_neg hk]; exact ⟨b, h⟩
    · rw [if_neg hd]; exact ⟨b, h⟩
  obtain ⟨b1, hb1⟩ := hin
  refine ⟨{ b1 with marks := (b1.marks &&& ~~~32) ||| 16, num := f.num, pts := f.pts }, ?_, busy_bit _, rfl, rfl⟩
  unfold begun
  refine (AMap.find_adjust _ _ _ _).trans ((if_pos rfl).trans ?_)
  rw [Pictures.mark_find, if_pos rfl, hb1]
  rfl

/-- An engine that has started a frame of a stream (R395). -/
def startedOn (s : State) (eng i : Nat) (c : CStream) (f : CFrame) (k : Nat) : State :=
  let skip := decide (c.dir = 0) && decide (f.hints ≠ 0) && !s.hintsFit c f
  let s1 := s.switchStream eng i
  (s1.setStream i (begun c f k)).setEngine eng { s1.engine eng with
    run := some ⟨i, f, k, 0, 0, s.counter.toNat, c.isKey f⟩
    hintSkip := (s1.engine eng).hintSkip + BitVec.ofNat 64 (b2n skip) }

theorem start_next {i : Nat} {c : CStream} {f : CFrame} {k : Nat} (he : eng < 16) (hf : (s.engine eng).failed = false)
    (hr : (s.engine eng).run = none) (hn : s.nextStream eng = some (i, c, f)) (hk : c.target = some k) :
    exec (.codecFrameStart eng) s = .next (startedOn s eng i c f k) := by
  change execCodecFrameStart eng s = _
  unfold execCodecFrameStart
  refine congrArg _ ((if_neg ?_).trans ?_)
  · rw [hf, hr]
    exact not_or.2 ⟨not_le.2 he, fun h => h.elim Bool.false_ne_true Bool.false_ne_true⟩
  · simp only [hn, hk]
    rfl

/-- Of class LC before any of class BE (R395). -/
theorem nextStream_class {i : Nat} {c : CStream} {f : CFrame} (hn : s.nextStream eng = some (i, c, f)) (hc : s.ctxLc c.ctx = false)
    (e : Nat × CStream) (he : e ∈ s.streamsOf eng) (hs : e.2.canStart = true) (hq : e.2.queue ≠ []) : s.ctxLc e.2.ctx = false := by
  unfold State.nextStream at hn
  obtain ⟨g, gs, hg⟩ := List.exists_cons_of_ne_nil hq
  have best := Pictures.fold_best _ (fun x y : Nat × CStream × CFrame => (s.ctxLc x.2.1.ctx && !s.ctxLc y.2.1.ctx) ||
      ((s.ctxLc x.2.1.ctx == s.ctxLc y.2.1.ctx) && decide (x.2.2.order < y.2.2.order))) (fun _ => rfl) (fun _ _ => rfl)
    (fun a b c hab hbc => by
      revert hab hbc
      cases s.ctxLc a.2.1.ctx <;> cases s.ctxLc b.2.1.ctx <;> cases s.ctxLc c.2.1.ctx <;> simp <;> omega)
    _ [] none (fun _ k => nomatch k) (fun _ => rfl) (fun a => by cases s.ctxLc a.2.1.ctx <;> simp) _ hn (e.1, e.2, g)
    (List.mem_append_right _ (List.mem_filterMap.2 ⟨e, he, by rw [hg]; exact if_pos hs⟩))
  rw [Bool.or_eq_false_iff, hc, Bool.not_false, Bool.and_true] at best
  exact best.1

end Start

section Emit
variable {s : State} {eng : Nat} {data : List Byte} {run : EngRun} {c : CStream}

/-- Whether a unit of `n` bytes may be put into the ring (R400, R402). -/
def Fits (c : CStream) (run : EngRun) (n : Nat) : Prop :=
  c.dir ≠ 1 ∧ n ≠ 0 ∧ run.bytes + n ≤ c.maxFrame ∧ c.unitAt n + n ≤ c.rd + c.outBytes ∧ run.slices < c.sliceCount 64

theorem not_fits_iff (n : Nat) : (c.dir = 1 ∨ n = 0 ∨ c.maxFrame < run.bytes + n ∨ c.rd + c.outBytes < c.unitAt n + n ∨ c.sliceCount 64 ≤ run.slices) ↔
    ¬Fits c run n := by
  unfold Fits
  omega

theorem emit_refused (hr : (s.engine eng).run = some run) (hc : s.cstream run.stream = some c) (h : ¬Fits c run data.length) :
    exec (.codecSliceEmit eng data) s = .next s := by
  change execCodecSliceEmit eng data s = _
  unfold execCodecSliceEmit
  simp only [hr, hc]
  exact congrArg _ (if_pos ((not_fits_iff _).2 h))

/-- The stream with a unit of `n` bytes more in its ring (R400, R404). -/
def unitIn (s : State) (c : CStream) (n : Nat) : CStream := { c with
  wr := c.unitAt n + n
  rd := if c.rtpOn then c.unitAt n + n else c.rd
  rtpSeq := if c.rtpOn then (c.rtpSeq + 1 + s.fv 0) % 65536 else c.rtpSeq }

/-- The engine's state with a unit put into the ring and reported. -/
def unitOut (s : State) (eng : Nat) (data : List Byte) (run : EngRun) (c : CStream) : State :=
  let n := data.length
  let off := c.unitAt n % c.outBytes
  let w := s.objWrite c.access (c.ring + off) data
  let s1 := w.1.chargeBytes (lineOf c.ctx) true (c.ring + off) n
  let s2 := if c.rtpOn then s1.drawn else s1
  ((s2.setStream run.stream (unitIn s c n)).setEngine eng { s.engine eng with
    run := some { run with slices := run.slices + 1, bytes := run.bytes + n } }).cdcEvent
    run.stream (unitIn s c n) 0 run.frame.index w.2 run.slices run.frame.num off n run.frame.pts

theorem emit_unit (hr : (s.engine eng).run = some run) (hc : s.cstream run.stream = some c) (h : Fits c run data.length) :
    exec (.codecSliceEmit eng data) s = .next (unitOut s eng data run c) := by
  change execCodecSliceEmit eng data s = _
  unfold execCodecSliceEmit
  simp only [hr, hc]
  exact congrArg _ (if_neg (fun k => (not_fits_iff _).1 k h))

theorem unitOut_run (s : State) (eng : Nat) (data : List Byte) (run : EngRun) (c : CStream) :
    ((unitOut s eng data run c).engine eng).run = some { run with slices := run.slices + 1, bytes := run.bytes + data.length } :=
  congrArg Engine.run (engine_setEngine_self _ eng _)
theorem unitOut_stream (s : State) (eng : Nat) (data : List Byte) (run : EngRun) (c : CStream) :
    (unitOut s eng data run c).cstream run.stream = some (unitIn s c data.length) := cstream_setStream_self _ run.stream _

/-- A unit never lies before the write position, and never runs past the ring's end (R400). -/
theorem unitAt_bounds (c : CStream) (n : Nat) : (c.wr ≤ c.unitAt n ∨ c.outBytes = 0) ∧ (n ≤ c.outBytes → c.unitAt n % c.outBytes + n ≤ c.outBytes) := by
  unfold CStream.unitAt
  by_cases h : c.outBytes < c.wr % c.outBytes + n
  · rw [if_pos h, Nat.mul_mod_left]
    refine ⟨?_, fun hn => by omega⟩
    rcases Nat.eq_zero_or_pos c.outBytes with h0 | h0
    · exact Or.inr h0
    · exact Or.inl (le_of_lt (by rw [mul_comm]; exact Nat.lt_mul_div_succ c.wr h0))
  · rw [if_neg h]
    exact ⟨Or.inl le_rfl, fun _ => not_lt.1 h⟩

end Emit

section Done
variable {s : State} {eng : Nat} {out : FrameOut} {run : EngRun} {c : CStream} {b : PoolBuf}

theorem done_waits (hr : (s.engine eng).run = some run) (hc : s.cstream run.stream = some c) (hb : AMap.find? c.pool run.target = some b)
    (hd : c.dir = 0) (hs : run.slices ∉ c.sliceCounts) : exec (.codecFrameDone eng out) s = .next s := by
  change execCodecFrameDone eng out s = _
  unfold execCodecFrameDone
  simp only [hr, hc, hb]
  exact congrArg _ (if_pos ⟨hd, hs⟩)

/-- A picture is delivered: of a decoded frame whose header is in the profile. -/
def shown (c : CStream) (out : FrameOut) : Bool :=
  decide (c.dir = 1) && decide (out.status ≠ E_CDC_PROFILE) && (decide (out.picture ≠ []) || decide (out.status ≠ 0))
/-- It is marked damaged: its own bits were, or a reference it used is. -/
def damaged (c : CStream) (out : FrameOut) : Bool :=
  decide (out.status = E_CDC_BITSTREAM) || (!out.key && out.used.any (fun k => match AMap.find? c.pool k with
    | some u => bitOf u.marks.toNat 5
    | none => false))
/-- The stream at the end of a frame: its marks, and a header outside the profile closes it (R389, R396). -/
def finished (c : CStream) (run : EngRun) (out : FrameOut) : CStream :=
  let c2 := if shown c out then (c.endMarks run out).mark run.target (if damaged c out then 0x28 else 0x08) 0 else c.endMarks run out
  if out.status = E_CDC_PROFILE then { c2 with closing := some E_CDC_PROFILE } else c2

/-- The engine's state at the end of a frame, the picture of its buffer written, before its events. -/
def frameOver (s : State) (eng : Nat) (out : FrameOut) (run : EngRun) (c : CStream) (b : PoolBuf) : State :=
  let s1 := s.chargeBytes (lineOf c.ctx) false run.frame.src (if c.dir = 1 then run.frame.len else 0)
  let s2 := if shown c out ∨ (c.dir = 0 ∧ out.picture ≠ []) then s1.pictureWrite c b (c.lastRef run.target) out.picture out.rows else s1
  let s3 := (s2.charge (lineOf c.ctx) 2 (33 * (s.counter.toNat - run.start))).setStream run.stream (finished c run out)
  s3.setEngine eng { s3.engine eng with
    run := none
    frames := (s.engine eng).frames + 1
    hintWin := (s.engine eng).hintWin + BitVec.ofNat 64 (if c.dir = 0 ∧ run.frame.hints ≠ 0 then out.hintWins else 0) }

/-- The events of a frame that ends. -/
def frameTold (s : State) (out : FrameOut) (run : EngRun) (c c3 : CStream) : State :=
  let f := run.frame
  let s5 := if shown c out then s.cdcEvent run.stream c3 2 run.target out.status 0 f.num 0 0 f.pts else s
  s5.cdcEvent run.stream c3 1 (if c.dir = 0 then f.index else if shown c out then run.target else 0xFF) out.status run.slices f.num 0 run.bytes f.pts

theorem frameTold_cdc (s : State) (out : FrameOut) (run : EngRun) (c c3 : CStream) : (frameTold s out run c c3).cdc = s.cdc := by
  unfold frameTold
  cases shown c out <;> rfl

theorem done_frame (hr : (s.engine eng).run = some run) (hc : s.cstream run.stream = some c) (hb : AMap.find? c.pool run.target = some b)
    (h : c.dir ≠ 0 ∨ run.slices ∈ c.sliceCounts) :
    exec (.codecFrameDone eng out) s = .next (frameTold (frameOver s eng out run c b) out run c (finished c run out)) := by
  change execCodecFrameDone eng out s = _
  unfold execCodecFrameDone
  simp only [hr, hc, hb]
  exact congrArg _ (if_neg (fun k => h.elim (fun hd => hd k.1) k.2))

theorem frameOver_engine (s : State) (eng : Nat) (out : FrameOut) (run : EngRun) (c : CStream) (b : PoolBuf) :
    ((frameOver s eng out run c b).engine eng).run = none ∧ ((frameOver s eng out run c b).engine eng).frames = (s.engine eng).frames + 1 := by
  unfold frameOver
  exact ⟨congrArg Engine.run (engine_setEngine_self _ eng _), congrArg Engine.frames (engine_setEngine_self _ eng _)⟩

theorem frameOver_stream (s : State) (eng : Nat) (out : FrameOut) (run : EngRun) (c : CStream) (b : PoolBuf) :
    (frameOver s eng out run c b).cstream run.stream = some (finished c run out) := cstream_setStream_self _ run.stream _

theorem frameTold_engine (s : State) (out : FrameOut) (run : EngRun) (c c3 : CStream) (e : Nat) :
    (frameTold s out run c c3).engine e = s.engine e := congrArg (fun x : CdcSt => AMap.getD x.engs .reset e) (frameTold_cdc s out run c c3)
theorem frameTold_stream (s : State) (out : FrameOut) (run : EngRun) (c c3 : CStream) (i : Nat) :
    (frameTold s out run c c3).cstream i = s.cstream i := congrArg (fun x : CdcSt => AMap.find? x.streams i) (frameTold_cdc s out run c c3)

theorem endMarks_free (c : CStream) (run : EngRun) (out : FrameOut) : ∀ p ∈ (c.endMarks run out).pool, p.2.marks.getLsbD 4 = false := by
  intro p hp
  obtain ⟨q, _, rfl⟩ := List.mem_map.1 hp
  simp only [List.contains_iff_mem]
  exact Pictures.bit4 q.2.marks _ _ _

theorem mark_free {c : CStream} (k : Nat) (d : Bool) (h : ∀ p ∈ c.pool, p.2.marks.getLsbD 4 = false) :
    ∀ p ∈ (c.mark k (if d then 0x28 else 0x08) 0).pool, p.2.marks.getLsbD 4 = false := by
  intro p hp
  unfold CStream.mark AMap.adjust at hp
  dsimp only at hp
  split at hp
  · exact h p hp
  · rename_i b hb
    rcases AMap.mem_insert hp with rfl | hm
    · exact Pictures.bit4b _ d (h _ (AMap.find_mem _ _ _ hb))
    · exact h p hm

theorem finished_free (c : CStream) (run : EngRun) (out : FrameOut) : ∀ p ∈ (finished c run out).pool, p.2.marks.getLsbD 4 = false := by
  have hc := endMarks_free c run out
  unfold finished
  cases shown c out <;> by_cases hp : out.status = E_CDC_PROFILE
  · rw [if_pos hp]; exact hc
  · rw [if_neg hp]; exact hc
  · rw [if_pos hp]; exact mark_free _ _ hc
  · rw [if_neg hp]; exact mark_free _ _ hc

theorem finished_closing (c : CStream) (run : EngRun) (out : FrameOut) :
    (finished c run out).closing = if out.status = E_CDC_PROFILE then some E_CDC_PROFILE else c.closing := by
  unfold finished
  cases shown c out <;> by_cases hp : out.status = E_CDC_PROFILE
  · rw [if_pos hp, if_pos hp]
  · rw [if_neg hp, if_neg hp]; rfl
  · rw [if_pos hp, if_pos hp]
  · rw [if_neg hp, if_neg hp]; rfl

end Done

section Close
variable {s : State} {i : Nat} {c : CStream}

theorem close_waits (hc : s.cstream i = some c) (h : c.closing = none ∨ (s.engine c.eng).run ≠ none) : exec (.codecCloseEffect i) s = .next s := by
  change execCodecCloseEffect i s = _
  unfold execCodecCloseEffect
  simp only [hc]
  rcases h with h | h
  · rw [h]
  · cases c.closing with
    | none => rfl
    | some code => exact congrArg _ (if_pos (Option.isSome_iff_ne_none.2 h))

theorem close_effect {code : Code} (hc : s.cstream i = some c) (hk : c.closing = some code) (hr : (s.engine c.eng).run = none) :
    exec (.codecCloseEffect i) s = .next (s.closeStream i c code) := by
  change execCodecCloseEffect i s = _
  unfold execCodecCloseEffect
  simp only [hc, hk]
  exact congrArg _ (if_neg (by rw [hr]; exact Bool.false_ne_true))

end Close

section Fault
variable {s : State} {eng : Nat}

theorem fault_idle (h : 16 ≤ eng ∨ (s.engine eng).failed = true) : exec (.codecEngineFault eng) s = .next s := by
  change execCodecEngineFault eng s = _
  unfold execCodecEngineFault
  exact congrArg _ (if_pos h)

/-- The frame of a failed engine charged and told. -/
def toldLost (s : State) (eng : Nat) : State :=
  match (s.engine eng).run with
  | none => s
  | some run => match s.cstream run.stream with
    | none => s
    | some c => (s.charge (lineOf c.ctx) 2 (33 * (s.counter.toNat - run.start))).cdcEvent run.stream c 1
        (if c.dir = 0 then run.frame.index else 0xFF) E_CDC_ENGINE run.slices run.frame.num 0 run.bytes run.frame.pts

/-- An engine failed, before its streams close. -/
def failedEngine (s : State) (eng : Nat) : State :=
  (toldLost s eng).setEngine eng { s.engine eng with failed := true, run := none, last := none }
/-- All streams of a list closed. -/
def closedAll (l : AMap CStream) (u : State) : State := l.foldl (fun s e => s.closeStream e.1 e.2 E_CDC_ENGINE) u

theorem fault_closes (he : eng < 16) (hf : (s.engine eng).failed = false) : exec (.codecEngineFault eng) s =
    .next ((closedAll ((failedEngine s eng).streamsOf eng) (failedEngine s eng)).raise
      { FRec.mk0 E_CDC_ENGINE 1 (ident 2 (1024 + eng / 4)) with action := 7 }) := by
  change execCodecEngineFault eng s = _
  unfold execCodecEngineFault
  refine congrArg _ ((if_neg ?_).trans ?_)
  · rw [hf]
    exact not_or.2 ⟨not_le.2 he, Bool.false_ne_true⟩
  · rfl

theorem toldLost_cdc (s : State) (eng : Nat) : (toldLost s eng).cdc = s.cdc := by
  unfold toldLost
  split
  · rfl
  · split
    · rfl
    · change (State.charge _ _ _ _).cdc = _
      rw [State.charge_frame]

theorem failedEngine_cstream (s : State) (eng i : Nat) : (failedEngine s eng).cstream i = s.cstream i :=
  (cstream_setEngine _ _ i _).trans <| congrArg (fun x : CdcSt => AMap.find? x.streams i) (toldLost_cdc s eng)

theorem closedAll_engine (l : AMap CStream) (u : State) (j : Nat) :
    ((closedAll l u).engine j).failed = (u.engine j).failed ∧ ((closedAll l u).engine j).run = (u.engine j).run :=
  StepForm.foldl_inv (fun t : State => (t.engine j).failed = (u.engine j).failed ∧ (t.engine j).run = (u.engine j).run) _
    (fun t e h => ⟨(Pictures.close_eng t e.1 e.2 _ j).1.trans h.1, (Pictures.close_eng t e.1 e.2 _ j).2.trans h.2⟩) _ _ ⟨rfl, rfl⟩

theorem closedAll_cstream (l : AMap CStream) (u : State) (j : Nat) (c : CStream) (h : (closedAll l u).cstream j = some c) :
    u.cstream j = some c ∧ ∀ e ∈ l, e.1 ≠ j := by
  induction l generalizing u with
  | nil => exact ⟨h, fun _ k => nomatch k⟩
  | cons a l ih =>
    obtain ⟨hu, hl⟩ := ih _ h
    rw [Pictures.close_str] at hu
    by_cases ha : j = a.1
    · rw [if_pos ha] at hu
      exact nomatch hu
    · rw [if_neg ha] at hu
      exact ⟨hu, fun e he => (List.mem_cons.1 he).elim (fun k => k ▸ Ne.symm ha) (hl e)⟩

/-- What is left after a fault belongs to other engines. -/
theorem fault_others {j : Nat} {c : CStream} (h : (closedAll ((failedEngine s eng).streamsOf eng) (failedEngine s eng)).cstream j = some c) :
    c.eng ≠ eng ∧ s.cstream j = some c := by
  obtain ⟨hu, hl⟩ := closedAll_cstream _ _ j c h
  exact ⟨fun he => hl (j, c) (List.mem_filter.2 ⟨AMap.find_mem _ _ _ hu, decide_eq_true he⟩) rfl, (failedEngine_cstream s eng j).symm.trans hu⟩

end Fault

/-- A stream whose packetiser has stopped where it served a flow (R404). -/
def unpacked (flow : Nat) (c : CStream) : CStream := if c.rtpOn = true ∧ c.flow = flow then { c with rtpOn := false } else c

/-- Settles O43: it holds. -/
theorem codecEnginesServeStreams : Obligations.CodecEnginesServeStreams := by
  unfold Obligations.CodecEnginesServeStreams
  intro s
  refine ⟨fun eng => ⟨start_idle, ?start⟩, ?emit, ?done, ?close, fun eng => ⟨fault_idle, ?fault⟩, ?flow⟩
  case start =>
    intro i c f k he hf hr hn hk
    exact ⟨nextStream_class hn, startedOn s eng i c f k, begun c f k, start_next he hf hr hn hk, congrArg Engine.run (engine_setEngine_self _ eng _),
      cstream_setStream_self _ i _, rfl, (begun_rates c f k).1, (begun_rates c f k).2, fun b hb => begun_pool hb⟩
  case emit =>
    intro eng data run c hr hc n p ok
    exact ⟨emit_refused hr hc, fun h => ⟨(unitAt_bounds c n).1, (unitAt_bounds c n).2, unitOut s eng data run c, unitIn s c n, emit_unit hr hc h,
      unitOut_run .., unitOut_stream .., rfl, rfl, fun ho => if_neg (ne_true_of_eq_false ho)⟩⟩
  case done =>
    intro eng out run c b hr hc hb
    refine ⟨done_waits hr hc hb, fun h => ⟨_, finished c run out, done_frame hr hc hb h, ?_, ?_, ?_, finished_closing c run out,
      finished_free c run out⟩⟩
    · rw [frameTold_engine, (frameOver_engine s eng out run c b).1]
    · rw [frameTold_engine, (frameOver_engine s eng out run c b).2]
    · rw [frameTold_stream, frameOver_stream]
  case close =>
    intro i c hc
    refine ⟨close_waits hc, fun code hk hr => ⟨_, close_effect hc hk hr, rfl, ?_, fun j hj => ?_⟩⟩
    · exact (Pictures.close_str s i c code i).trans (if_pos rfl)
    · exact (Pictures.close_str s i c code j).trans (if_neg hj)
  case fault =>
    intro he hf
    refine ⟨_, fault_closes he hf, ?_, ?_, fun j c hj => fault_others hj⟩
    · exact (closedAll_engine _ (failedEngine s eng) eng).1.trans (congrArg Engine.failed (engine_setEngine_self _ eng _))
    · exact (closedAll_engine _ (failedEngine s eng) eng).2.trans (congrArg Engine.run (engine_setEngine_self _ eng _))
  case flow =>
    intro flow
    exact ⟨_, rfl, rfl, fun i => AMap.find_map s.cdc.streams (unpacked flow) i⟩

end Sys2Proof.Machine.CodecEvents

/-! SUPPORT. Mailbox rings: what a sender and a receiver move, deliveries, and the intake of a request. -/
namespace Sys2Proof.Machine.MailboxRings

section Rings
variable {s : State} {m : Nat}

theorem modMbx_self (s : State) (m : Nat) (f : Mbx → Mbx) : (s.modMbx m f).mbx m = f (s.mbx m) := by rw [State.mbx_modMbx, if_pos rfl]
theorem modMbx_other {s : State} {m : Nat} (f : Mbx → Mbx) {k : Nat} (h : k ≠ m) : (s.modMbx m f).mbx k = s.mbx k := by
  rw [State.mbx_modMbx, if_neg h]

/-- What a sender's slots and its tail leave of the mailbox (R416). -/
def sent (b : Mbx) (tail : Nat) (data : List Byte) : Mbx :=
  ({ b with win := ringWrite b.win 0 (64 * b.reqTail.toNat) (data.take (64 * (256 - (b.reqTail - b.reqHead).toNat))) } : Mbx).setTail
    (BitVec.ofNat 16 tail)

theorem sent_eq (b : Mbx) (tail : Nat) (data : List Byte) : sent b tail data = { b with
    win := ringWrite b.win 0 (64 * b.reqTail.toNat) (data.take (64 * (256 - (b.reqTail - b.reqHead).toNat)))
    reqTail := if (BitVec.ofNat 16 tail - b.reqHead).toNat ≤ 256 then BitVec.ofNat 16 tail else b.reqTail } := by
  unfold sent Mbx.setTail
  split <;> rfl

theorem reqTail_eq (h : m < 72) (tail : Nat) (data : List Byte) :
    exec (.mbxReqTail m tail data) s = .next (s.modMbx m (fun b => sent b tail data)) := by
  change execMbxReqTail m tail data s = _
  unfold execMbxReqTail
  exact congrArg _ (if_neg (not_le.2 h))

theorem setHead_eq (b : Mbx) (head : Nat) : ({ b.setHead (BitVec.ofNat 16 head) with irq := false } : Mbx) = { b with
    irq := false
    rspHead := if (BitVec.ofNat 16 head - b.rspHead).toNat ≤ (b.rspTail - b.rspHead).toNat then BitVec.ofNat 16 head else b.rspHead } := by
  unfold Mbx.setHead
  split <;> rfl

theorem rspHead_eq (h : m < 72) (head : Nat) :
    exec (.mbxRspHead m head) s = .next (s.modMbx m (fun b => { b.setHead (BitVec.ofNat 16 head) with irq := false })) := by
  change execMbxRspHead m head s = _
  unfold execMbxRspHead
  exact congrArg _ (if_neg (not_le.2 h))

theorem deliver_eq (h : m < 72) : exec (.responseDeliver m) s = .next (s.modMbx m Mbx.deliver) := by
  change execResponseDeliver m s = _
  unfold execResponseDeliver
  exact congrArg _ (if_neg (not_le.2 h))

end Rings

section Intake
variable {s : State} {m : Nat}

/-- The header at the head of a request ring, its length, and the message it starts. -/
def head (b : Mbx) : List Byte := ringRead b.win 0 (64 * b.reqHead.toNat) 16
/-- The request at the head of a mailbox's ring. -/
def front (s : State) (m : Nat) : Req :=
  let h := head (s.mbx m)
  ⟨m, leAt h 2 2, leAt h 4 2, leAt h 8 4, s.requestLc m (leAt h 4 2), ringRead (s.mbx m).win 0 (64 * (s.mbx m).reqHead.toNat + 16) (leAt h 6 2),
    s.counter.toNat⟩
/-- What its header is refused with. -/
def frontCode (s : State) (m : Nat) : Code :=
  let h := head (s.mbx m)
  s.headerCode (s.mbx m) (front s m) (BitVec.ofNat 8 (leAt h 0 1)) (BitVec.ofNat 8 (leAt h 1 1)) (leAt h 12 2)

/-- A mailbox's next message is taken now (R417, R418, R424). -/
def Takes (s : State) (m : Nat) : Prop :=
  m < 72 ∧ s.serving = true ∧ (s.mbx m).closed = false ∧ (s.mbx m).reqTail - (s.mbx m).reqHead ≠ 0 ∧ (s.mbx m).held = [] ∧
    ∀ q ∈ s.ump.intake, q.mbx = m → q.op ≠ 1 ∧ q.op ≠ 2

theorem not_takes_iff : (72 ≤ m ∨ (!s.serving) = true ∨ (s.mbx m).closed = true ∨ ((s.mbx m).reqTail - (s.mbx m).reqHead).toNat = 0 ∨
      (s.mbx m).held ≠ [] ∨ s.ump.intake.any (fun q => decide (q.mbx = m) && (decide (q.op = 1) || decide (q.op = 2))) = true) ↔ ¬Takes s m := by
  have hz : ((s.mbx m).reqTail - (s.mbx m).reqHead).toNat = 0 ↔ (s.mbx m).reqTail - (s.mbx m).reqHead = 0 :=
    ⟨fun h => BitVec.eq_of_toNat_eq h, fun h => by rw [h]; rfl⟩
  have ha : s.ump.intake.any (fun q => decide (q.mbx = m) && (decide (q.op = 1) || decide (q.op = 2))) = true ↔
      ¬∀ q ∈ s.ump.intake, q.mbx = m → q.op ≠ 1 ∧ q.op ≠ 2 := by
    simp only [List.any_eq_true, Bool.and_eq_true, Bool.or_eq_true, decide_eq_true_eq, not_forall, ne_eq, exists_prop, not_and_or, not_not]
  unfold Takes
  rw [hz, ha, Bool.not_eq_true', ← not_lt]
  simp only [not_and_or, Bool.not_eq_true, Bool.not_eq_false, ne_eq, not_not]

theorem intake_idle (h : ¬Takes s m) : exec (.requestIntake m) s = .next s := by
  change execRequestIntake m s = _
  unfold execRequestIntake
  exact congrArg _ (if_pos (not_takes_iff.2 h))

/-- A mailbox with its front message read (R421). -/
def passed (s : State) (m : Nat) (b : Mbx) : Mbx :=
  let h := head (s.mbx m)
  { b with
    reqHead := b.reqHead + BitVec.ofNat 16 (slotsOf (16 + leAt h 6 2))
    expect := if reachedSeq b (front s m) (BitVec.ofNat 8 (leAt h 0 1)) (BitVec.ofNat 8 (leAt h 1 1)) then BitVec.ofNat 32 ((front s m).seq + 1)
      else b.expect }

/-- A message taken: into the intake, or answered with the code of the check it failed. -/
def taken (s : State) (m : Nat) : State :=
  let c := frontCode s m
  let s1 := s.modMbx m (passed s m)
  if c = 0 then
    let s2 := s1.modMbx m (fun b => { b with due := b.due + 1 })
    { s2 with ump := { s2.ump with intake := s2.ump.intake ++ [front s m] } }
  else if c = E_UMP_BUSY then
    let s2 := { s1 with ump := { s1.ump with busyCount := s1.ump.busyCount + 1 } }
    (s2.refuseAtRing (front s m) (leBytes 2 c.toNat ++ leBytes 2 0 ++ leBytes 4 (1 + s2.fv 0 % 1000))).drawn
  else s1.refuseAtRing (front s m) (leBytes 2 c.toNat)

theorem intake_takes (h : Takes s m) (hl : leAt (head (s.mbx m)) 6 2 ≤ 1008)
    (hn : slotsOf (16 + leAt (head (s.mbx m)) 6 2) ≤ ((s.mbx m).reqTail - (s.mbx m).reqHead).toNat)
    (hc : ¬((front s m).lc = true ∧ 512 ≤ s.ump.intake.length)) : exec (.requestIntake m) s = .next (taken s m) := by
  change execRequestIntake m s = _
  unfold execRequestIntake
  refine congrArg _ ((if_neg (fun k => not_takes_iff.1 k h)).trans ((if_neg ?_).trans (if_neg hc)))
  exact not_or.2 ⟨not_lt.2 hl, not_lt.2 hn⟩

/-- What a taken message leaves: no other mailbox changes, the head moves on, and its successor is expected where check 4 is reached. -/
theorem taken_kept (s : State) (m : Nat) : (∀ k, k ≠ m → (taken s m).mbx k = s.mbx k) ∧
    (taken s m).ump.intake = (if frontCode s m = 0 then s.ump.intake ++ [front s m] else s.ump.intake) ∧
    ((taken s m).mbx m).reqHead = (passed s m (s.mbx m)).reqHead ∧ ((taken s m).mbx m).expect = (passed s m (s.mbx m)).expect ∧
    (taken s m).ump.busyCount = (if frontCode s m = E_UMP_BUSY then s.ump.busyCount + 1 else s.ump.busyCount) := by
  have hm : (front s m).mbx = m := rfl
  unfold taken
  extract_lets c s1 s2 src src2 s3
  have h1 : s1.mbx m = passed s m (s.mbx m) := modMbx_self s m _
  have hk1 : ∀ k, k ≠ m → s1.mbx k = s.mbx k := fun k hk => modMbx_other _ hk
  change _ ∧ _ = (if c = 0 then _ else _) ∧ _ ∧ _ ∧ _ = (if c = E_UMP_BUSY then _ else _)
  by_cases h0 : c = 0
  · have hb : c ≠ E_UMP_BUSY := fun k => absurd (k.symm.trans h0) (by decide)
    rw [if_pos h0, if_pos h0, if_neg hb]
    have h2 : s2.mbx m = { passed s m (s.mbx m) with due := (passed s m (s.mbx m)).due + 1 } := (modMbx_self s1 m _).trans (by rw [h1])
    exact ⟨fun k hk => (modMbx_other _ hk : s2.mbx k = s1.mbx k).trans (hk1 k hk), rfl,
      (congrArg Mbx.reqHead h2 :), (congrArg Mbx.expect h2 :), rfl⟩
  · rw [if_neg h0, if_neg h0]
    by_cases hb : c = E_UMP_BUSY
    · rw [if_pos hb, if_pos hb]
      obtain ⟨hk, hh, he, hi, hc⟩ := Replies.ring_mbx s3 (front s m) (leBytes 2 c.toNat ++ leBytes 2 0 ++ leBytes 4 (1 + s3.fv 0 % 1000))
      exact ⟨fun k hn => (hk k hn).trans (hk1 k hn), hi, hh.trans (congrArg Mbx.reqHead h1), he.trans (congrArg Mbx.expect h1), hc⟩
    · rw [if_neg hb, if_neg hb]
      obtain ⟨hk, hh, he, hi, hc⟩ := Replies.ring_mbx s1 (front s m) (leBytes 2 c.toNat)
      exact ⟨fun k hn => (hk k hn).trans (hk1 k hn), hi, hh.trans (congrArg Mbx.reqHead h1), he.trans (congrArg Mbx.expect h1), hc⟩

theorem reachedSeq_iff (b : Mbx) (r : Req) (x y : Byte) :
    reachedSeq b r x y = true ↔ b.session = true ∧ r.op ≠ 1 ∧ x = b.verMajor ∧ y = b.verMinor := by
  unfold reachedSeq
  simp only [Bool.and_eq_true, decide_eq_true_eq, and_assoc]

end Intake

theorem exec_out {s : State} {m : Nat} (h : 72 ≤ m) (x : Instr)
    (hx : (∃ t d, x = .mbxReqTail m t d) ∨ (∃ h, x = .mbxRspHead m h) ∨ x = .responseDeliver m ∨ x = .requestIntake m) : exec x s = .next s := by
  rcases hx with ⟨t, d, rfl⟩ | ⟨n, rfl⟩ | rfl | rfl
  · change execMbxReqTail m t d s = _
    unfold execMbxReqTail
    rw [if_pos h]
  · change execMbxRspHead m n s = _
    unfold execMbxRspHead
    rw [if_pos h]
  · change execResponseDeliver m s = _
    unfold execResponseDeliver
    rw [if_pos h]
  · exact intake_idle (fun k => absurd k.1 (not_lt.2 h))

/-- Settles O44: it holds. -/
theorem mailboxRings : Obligations.MailboxRings := by
  unfold Obligations.MailboxRings
  intro s m
  refine ⟨exec_out, ?tail, ?head, ?deliver, ?intake⟩
  case tail =>
    intro h tail data
    exact ⟨_, reqTail_eq h tail data, fun k hk => modMbx_other _ hk, rfl, (modMbx_self s m _).trans (sent_eq _ _ _)⟩
  case head =>
    intro h head
    exact ⟨_, rspHead_eq h head, fun k hk => modMbx_other _ hk, rfl, (modMbx_self s m _).trans (setHead_eq _ _)⟩
  case deliver =>
    intro h
    refine ⟨_, deliver_eq h, fun k hk => modMbx_other _ hk, rfl, ?_⟩
    intro b
    rw [modMbx_self]
    unfold Mbx.deliver
    refine ⟨fun x rest hb => ?_, fun e rest hb he => ?_, fun hb he => ?_⟩
    · simp only [show (s.mbx m).held = x :: rest from hb]; rfl
    · simp only [show (s.mbx m).held = [] from hb, show (s.mbx m).events = e :: rest from he]; rfl
    · simp only [show (s.mbx m).held = [] from hb, show (s.mbx m).events = [] from he]; rfl
  case intake =>
    intro b h r n takes
    refine ⟨intake_idle, fun ht hl hn hc => ?_⟩
    intro c
    obtain ⟨hk, hi, hh, he, hb⟩ := taken_kept s m
    exact ⟨_, intake_takes ht hl hn hc, hk, hi, hh, he.trans (if_congr (reachedSeq_iff _ _ _ _) rfl rfl), hb⟩

end Sys2Proof.Machine.MailboxRings

/-! SUPPORT. The umpire's pairs, its trials, its tasks, the update of its firmware, and management connections. -/
namespace Sys2Proof.Machine.UmpirePairs

section Pairs
variable {s : State}

theorem failover_none (h : s.ump.standby ≠ 2) : exec .umpireFailover s = .fault .noActingUmpire := by
  change execUmpireFailover s = _
  unfold execUmpireFailover
  rw [if_pos h]

/-- The standby acting, the failed pair restored or retired (R414, R506). -/
def failedOver (s : State) : State :=
  let s1 := s.promote.takeUnits.raise (pairRec s.ump.acting 2 4)
  if s.failedBefore then s1.retirePair s.ump.acting else s1

theorem failover_ready (h : s.ump.standby = 2) : exec .umpireFailover s = .next (failedOver s) := by
  change execUmpireFailover s = _
  unfold execUmpireFailover
  rw [if_neg (not_not.2 h)]
  rfl

theorem failedOver_keep (s : State) : Umpire.UmpKeep s.promote (failedOver s) := by
  have h1 := Umpire.takeUnits_keep s.promote
  unfold failedOver
  cases s.failedBefore
  · exact h1
  · exact h1

theorem restore_eq (pass : Bool) : exec (.standbyRestore pass) s = .next (
      if s.ump.restoring = false then s
      else if s.ump.standby = 0 ∧ pass = true ∧ s.bundleCode s.currentBank = 0 then { s with ump := { s.ump with standby := 1 } }
      else if s.ump.standby = 1
        then ({ s with ump := { s.ump with standby := 2, restoring := false } }).raise (pairRec (1 - s.ump.acting) 0 5)
      else s.retirePair (1 - s.ump.acting)) := by
  change execStandbyRestore pass s = _
  unfold execStandbyRestore
  exact congrArg _ (if_congr (Iff.of_eq (Bool.not_eq_true' _)) rfl rfl)

end Pairs

section Trials
variable {s : State}

theorem health_none (h2 : Bool) (h : s.ump.trial = none) : exec (.healthCheck h2) s = .next s := by
  change execHealthCheck h2 s = _
  unfold execHealthCheck
  rw [h]

theorem trialEnd_none (h : s.ump.trial = none) : exec .trialEnd s = .next s := by
  change execTrialEnd s = _
  unfold execTrialEnd
  rw [h]

theorem trialEnd_some {t : Trial} (h : s.ump.trial = some t) : exec .trialEnd s = .next (if t.left = 0 then s.finalTrial else s) := by
  change execTrialEnd s = _
  unfold execTrialEnd
  rw [h]

theorem health_some {t : Trial} (h2 : Bool) (h : s.ump.trial = some t) : exec (.healthCheck h2) s = .next (
    if s.mismatches ≠ t.mism then s.revertTrial t 1 1
    else if !h2 then s.revertTrial t 1 2
    else if s.ump.trialFailover then s.revertTrial t 1 3
    else { s with ump := { s.ump with trial := some { t with left := t.left - 1 } } }) := by
  change execHealthCheck h2 s = _
  unfold execHealthCheck
  simp only [h]

end Trials

section Tasks
variable {s : State} {kind : HkKind}

/-- Since when a task is pending. -/
def since (s : State) (kind : HkKind) : Nat := ((s.ump.tasks.find? (fun t => decide (t.1 = kind))).map (·.2)).getD s.counter.toNat

theorem taskTurn_iff (n : Nat) : s.taskTurn n = true ↔
    s.nextOf true s.ump.rrLc = none ∧ (n + 30 * 100000000 ≤ s.counter.toNat ∨ s.nextOf false s.ump.rrBe = none) := by
  unfold State.taskTurn
  simp only [Bool.and_eq_true, Bool.or_eq_true, Option.isNone_iff_eq_none, decide_eq_true_eq]
  exact Iff.rfl

theorem task_runs (h : s.taskTurn (since s kind) = true) : exec (.housekeepingTask kind) s =
    .next (({ s with ump := { s.ump with tasks := s.ump.tasks.filter (fun t => decide (t.1 ≠ kind)) } }).keepHouse kind) := by
  change execHousekeepingTask kind s = _
  unfold execHousekeepingTask
  exact congrArg _ (if_pos h)

theorem task_waits (h : ¬s.taskTurn (since s kind) = true) : exec (.housekeepingTask kind) s =
    .next { s with ump := { s.ump with tasks := s.ump.tasks.filter (fun t => decide (t.1 ≠ kind)) ++ [(kind, since s kind)] } } := by
  change execHousekeepingTask kind s = _
  unfold execHousekeepingTask
  exact congrArg _ (if_neg h)

end Tasks

section Firmware
variable {s : State} {f : FwUpd}

/-- An outcome that a condition selects, from the one its negation selects. -/
theorem ite_swap {α : Type} {p q : Prop} [Decidable p] [Decidable q] (h : p ↔ ¬q) (a b : α) : (if p then a else b) = if q then b else a := by
  by_cases hq : q
  · rw [if_pos hq, if_neg (fun hp => h.1 hp hq)]
  · rw [if_neg hq, if_pos (h.2 hq)]

theorem handover_eq (hf : s.ump.fw = some f) (us : Nat) : exec (.fwHandover us) s = .next (if f.phase = 1 ∧ s.ump.standby = 2 ∧ us ≤ 50000
    then { s with ump := { s.ump with fw := some { f with phase := 3, pause := us }, acting := 1 - s.ump.acting, standby := 0 } } else s) := by
  change execFwHandover us s = _
  unfold execFwHandover
  simp only [hf]
  exact congrArg _ (ite_swap (by rw [not_and_or, not_and_or, not_le]) _ _)

theorem ready_eq (hf : s.ump.fw = some f) : exec .fwNewFirmwareReady s =
    .next (if f.phase = 3 then { s with ump := { s.ump with fw := some { f with phase := 4 } } } else s) := by
  change execFwNewFirmwareReady s = _
  unfold execFwNewFirmwareReady
  simp only [hf]

theorem timeout_eq (hf : s.ump.fw = some f) : exec .fwPhase3Timeout s = .next (if f.phase = 3
    then ({ s with ump := { s.ump with fw := none, acting := 1 - s.ump.acting, standby := 2 } }).answerFw f.req E_FW_HANDOVER 3 f.pause f.oldVer f.newVer
    else s) := by
  change execFwPhase3Timeout s = _
  unfold execFwPhase3Timeout
  simp only [hf]
  exact congrArg _ (ite_swap Iff.rfl _ _)

theorem handback_eq (hf : s.ump.fw = some f) (us : Nat) : exec (.fwHandback us) s = .next (if f.phase = 4 ∧ us ≤ 50000
    then { s with ump := { s.ump with fw := some { f with phase := 5, pause := max f.pause us }, acting := 1 - s.ump.acting } } else s) := by
  change execFwHandback us s = _
  unfold execFwHandback
  simp only [hf]
  exact congrArg _ (ite_swap (by rw [not_and_or, not_le]) _ _)

theorem standbyReady_waits (hf : s.ump.fw = some f) (h : f.phase ≠ 5) : exec .fwStandbyReady s = .next s := by
  change execFwStandbyReady s = _
  unfold execFwStandbyReady
  simp only [hf]
  exact congrArg _ (if_pos h)

/-- The new firmware in service: the bank, the fuses and the revoked keys of its bundle (19 R490, R491, R493). -/
def updated (s : State) (f : FwUpd) : State :=
  let k := leAt f.image 12 1
  let s1 := { s with
    ump := { s.ump with fw := none, standby := 2 }
    sec := { s.sec with
      bank := !s.sec.bank
      fuses := AMap.setD s.sec.fuses 0 k (max (s.fuse k) (leAt f.image 13 1))
      fwRevoked := (s.sec.fwRevoked ++ s.revokes f.image 0).eraseDups
      dbgRevoked := (s.sec.dbgRevoked ++ s.revokes f.image 1).eraseDups } }
  s1.drawn.runBundle f.image

theorem standbyReady_done (hf : s.ump.fw = some f) (h : f.phase = 5) :
    exec .fwStandbyReady s = .next ((updated s f).answerFw f.req 0 5 f.pause f.oldVer f.newVer) := by
  change execFwStandbyReady s = _
  unfold execFwStandbyReady
  simp only [hf]
  exact congrArg _ (if_neg (not_not.2 h))

theorem updated_fuse (s : State) (f : FwUpd) (k : Nat) : (updated s f).fuse k =
    if k = leAt f.image 12 1 then max (s.fuse (leAt f.image 12 1)) (leAt f.image 13 1) else s.fuse k := AMap.getD_setD _ _ _ _ _

theorem updated_revoked (s : State) (f : FwUpd) (k : Nat) (h : k ∈ s.sec.fwRevoked) : k ∈ (updated s f).sec.fwRevoked :=
  List.mem_eraseDups.2 (List.mem_append_left _ h)

end Firmware

section Connections
variable {s : State} {anchor : List Byte}

theorem anchor_iff : s.sec.anchors.any (fun e => decide (e.2 = anchor)) = true ↔ ∃ e ∈ s.sec.anchors, e.2 = anchor := by
  simp only [List.any_eq_true, decide_eq_true_eq]

/-- The lowest management mailbox whose connection is closed. -/
def freeMgmt (s : State) : Option Nat := [64, 65, 66, 67].find? (fun m => (s.mbx m).closed)

theorem mgmt_range (m : Nat) : m ∈ [64, 65, 66, 67] ↔ 64 ≤ m ∧ m < 68 := by
  simp only [List.mem_cons, List.not_mem_nil, or_false]
  omega

theorem freeMgmt_none (h : ∀ m, 64 ≤ m → m < 68 → (s.mbx m).closed = false) : freeMgmt s = none :=
  List.find?_eq_none.2 (fun m hm => ne_true_of_eq_false (h m ((mgmt_range m).1 hm).1 ((mgmt_range m).1 hm).2))

theorem freeMgmt_some {m : Nat} (h1 : 64 ≤ m) (h2 : m < 68) (hc : (s.mbx m).closed = true) (hl : ∀ k, 64 ≤ k → k < m → (s.mbx k).closed = false) :
    freeMgmt s = some m := by
  obtain rfl | rfl | rfl | rfl : m = 64 ∨ m = 65 ∨ m = 66 ∨ m = 67 := by omega
  all_goals simp only [freeMgmt, List.find?_cons, hc]
  · simp only [hl 64 (by decide) (by decide)]
  · simp only [hl 64 (by decide) (by decide), hl 65 (by decide) (by decide)]
  · simp only [hl 64 (by decide) (by decide), hl 65 (by decide) (by decide), hl 66 (by decide) (by decide)]

theorem connect_refused (h : s.serving = false ∨ ∀ e ∈ s.sec.anchors, e.2 ≠ anchor) : exec (.tlsConnect anchor) s = .next s := by
  change execTlsConnect anchor s = _
  unfold execTlsConnect
  refine congrArg _ (if_pos (h.imp (fun hs => by rw [hs]; rfl) (fun ha => ?_)))
  rw [Bool.not_eq_true', Bool.eq_false_iff]
  exact fun k => by obtain ⟨e, he, hx⟩ := anchor_iff.1 k; exact ha e he hx

theorem connect_known (hs : s.serving = true) (ha : ∃ e ∈ s.sec.anchors, e.2 = anchor) :
    exec (.tlsConnect anchor) s = .next ((freeMgmt s).elim s (fun m => s.modMbx m (fun b => { b with closed := false }))) := by
  change execTlsConnect anchor s = _
  unfold execTlsConnect
  refine congrArg _ ((if_neg ?_).trans ?_)
  · rw [hs, anchor_iff.2 ha]
    exact fun h => h.elim Bool.false_ne_true Bool.false_ne_true
  · change (match freeMgmt s with | none => s | some m => s.modMbx m (fun b => { b with closed := false })) = _
    cases freeMgmt s <;> rfl

theorem connect_full (h : ∀ m, 64 ≤ m → m < 68 → (s.mbx m).closed = false) : exec (.tlsConnect anchor) s = .next s := by
  by_cases hs : s.serving = false ∨ ∀ e ∈ s.sec.anchors, e.2 ≠ anchor
  · exact connect_refused hs
  · simp only [not_or, Bool.not_eq_false, not_forall, not_not, exists_prop] at hs
    refine (connect_known hs.1 hs.2).trans ?_
    rw [freeMgmt_none h]
    rfl

theorem close_eq (m : Nat) : exec (.tlsClose m) s = .next (if 64 ≤ m ∧ m < 68 ∧ (s.mbx m).closed = false
    then s.modMbx m (fun b => { b with session := false, verMajor := 0, verMinor := 0, events := [], closed := true }) else s) := by
  change execTlsClose m s = _
  unfold execTlsClose isMgmt
  exact congrArg _ (if_congr (by simp only [Bool.and_eq_true, decide_eq_true_eq, Bool.not_eq_true', and_assoc]) rfl rfl)

end Connections

/-- Settles O45: it holds. -/
theorem umpirePairsTrialsAndFirmware : Obligations.UmpirePairsTrialsAndFirmware := by
  unfold Obligations.UmpirePairsTrialsAndFirmware
  intro s
  refine ⟨failover_none, ?failover, restore_eq, ?trials, ?tasks, ?firmware, ?connect, close_eq⟩
  case failover =>
    intro h
    exact ⟨_, failover_ready h, failedOver_keep s⟩
  case trials =>
    intro h2
    refine ⟨fun h => ⟨health_none h2 h, trialEnd_none h⟩, fun t h => ⟨trialEnd_some h, ?_, ?_, ?_, ?_⟩⟩
    · exact fun hm => (health_some h2 h).trans (congrArg _ (if_pos hm))
    · rintro hm rfl
      exact (health_some _ h).trans (congrArg _ ((if_neg (not_not.2 hm)).trans (if_pos rfl)))
    · rintro hm rfl hv
      exact (health_some _ h).trans (congrArg _ ((if_neg (not_not.2 hm)).trans ((if_neg Bool.false_ne_true).trans (if_pos hv))))
    · rintro hm rfl hv
      exact (health_some _ h).trans (congrArg _ ((if_neg (not_not.2 hm)).trans ((if_neg Bool.false_ne_true).trans (if_neg (ne_true_of_eq_false hv)))))
  case tasks =>
    intro kind n others turn
    exact ⟨fun h => task_runs ((taskTurn_iff n).2 h), fun h => task_waits (fun k => h ((taskTurn_iff n).1 k))⟩
  case firmware =>
    intro f hf
    exact ⟨handover_eq hf, ready_eq hf, timeout_eq hf, handback_eq hf, standbyReady_waits hf, fun h => ⟨updated s f, standbyReady_done hf h, rfl, rfl, rfl,
      rfl, rfl, (updated_fuse s f _).trans (if_pos rfl), fun k hk => (updated_fuse s f k).trans (if_neg hk), updated_revoked s f⟩⟩
  case connect =>
    intro anchor
    refine ⟨fun h => ?_, fun m hs ha h1 h2 hc hl => (connect_known hs ha).trans (by rw [freeMgmt_some h1 h2 hc hl]; rfl)⟩
    rcases h with h | h | h
    · exact connect_refused (Or.inl h)
    · exact connect_refused (Or.inr h)
    · exact connect_full h

end Sys2Proof.Machine.UmpirePairs

/-! SUPPORT. Flits received and sent again, rails that go down and come up, and relay frames. -/
namespace Sys2Proof.Machine.RailEvents

section Flits
variable {s : State} {port : Nat} {d : List Byte} {bad : Bool}

/-- A rail's port whose link is up. -/
def Live (s : State) (port : Nat) : Prop := port < 48 ∧ isRailPort port = true ∧ s.roleOf port = 1 ∧ (s.link port).st = 2
/-- A flit that is whole: its length, its CRC, its type, VC and length field (R446). -/
def Whole (d : List Byte) : Prop :=
  d.length = 256 ∧ crc32c (d.take 252) = leAt d 252 4 ∧ (flitOf d).ty ≤ 2 ∧ (flitOf d).vc ≠ 3 ∧ leAt d 15 1 ≤ 236

theorem not_live_iff : (48 ≤ port ∨ (!isRailPort port) = true ∨ s.roleOf port ≠ 1 ∨ (s.link port).st ≠ 2) ↔ ¬Live s port := by
  unfold Live
  rw [Bool.not_eq_true', ← not_lt]
  simp only [not_and_or, Bool.not_eq_true, ne_eq]
theorem not_whole_iff : (d.length ≠ 256 ∨ crc32c (d.take 252) ≠ leAt d 252 4 ∨ 2 < (flitOf d).ty ∨ (flitOf d).vc = 3 ∨ 236 < leAt d 15 1) ↔
    ¬Whole d := by
  unfold Whole
  rw [← not_le, ← not_le]
  simp only [not_and_or, ne_eq, not_not]

/-- A flit at a port whose link is up. -/
def received (s : State) (port : Nat) (d : List Byte) (bad : Bool) : State :=
  let l := s.link port
  let f := flitOf d
  let drop (l : Link) : State := s.setLink port { l with nakDue := true }
  if bad then drop { l with fecBad := sat16 (l.fecBad + 1) }
  else if d.length ≠ 256 ∨ crc32c (d.take 252) ≠ leAt d 252 4 ∨ 2 < f.ty ∨ f.vc = 3 ∨ 236 < leAt d 15 1 then drop l
  else if f.ty = 0 then (s.setLink port (l.feedback d).1).countFlits (l.feedback d).2
  else if f.seq ≠ l.rxSeq + 1 then drop l
  else
    let r := ({ l with rxSeq := f.seq, nakDue := false }).feedback d
    ((s.setLink port r.1).countFlits r.2).acceptFlit (railOf port) (decide (port % 12 < 4)) f

theorem receive_dead (h : ¬Live s port) : exec (.flitReceive port d bad) s = .next s := by
  change execFlitReceive port d bad s = _
  unfold execFlitReceive
  exact congrArg _ (if_pos (not_live_iff.2 h))

theorem receive_live (h : Live s port) : exec (.flitReceive port d bad) s = .next (received s port d bad) := by
  change execFlitReceive port d bad s = _
  unfold execFlitReceive
  exact congrArg _ (if_neg (fun k => not_live_iff.1 k h))

theorem received_bad (h : bad = true) : received s port d bad =
    s.setLink port { s.link port with fecBad := min 65535 ((s.link port).fecBad + 1), nakDue := true } := if_pos h

theorem received_broken (hb : bad = false) (h : ¬Whole d) : received s port d bad = s.setLink port { s.link port with nakDue := true } :=
  (if_neg (ne_true_of_eq_false hb)).trans (if_pos (not_whole_iff.2 h))

/-- What becomes of a whole flit (R446 to R448). -/
theorem received_whole (hb : bad = false) (h : Whole d) : received s port d bad =
    if (flitOf d).ty = 0 then (s.setLink port ((s.link port).feedback d).1).countFlits ((s.link port).feedback d).2
    else if (flitOf d).seq ≠ (s.link port).rxSeq + 1 then s.setLink port { s.link port with nakDue := true }
    else
      let r := ({ s.link port with rxSeq := (flitOf d).seq, nakDue := false }).feedback d
      ((s.setLink port r.1).countFlits r.2).acceptFlit (railOf port) (decide (port % 12 < 4)) (flitOf d) :=
  (if_neg (ne_true_of_eq_false hb)).trans (if_neg (fun k => not_whole_iff.1 k h))

theorem received_next (hb : bad = false) (h : Whole d) (ht : (flitOf d).ty ≠ 0) (hs : (flitOf d).seq = (s.link port).rxSeq + 1) :
    let r := ({ s.link port with rxSeq := (s.link port).rxSeq + 1, nakDue := false }).feedback d
    received s port d bad = ((s.setLink port r.1).countFlits r.2).acceptFlit (railOf port) (decide (port % 12 < 4)) (flitOf d) := by
  intro r
  refine (received_whole hb h).trans ((if_neg ht).trans ((if_neg (not_not.2 hs)).trans ?_))
  exact congrArg (fun q : BitVec 12 => (((s.setLink port (({ s.link port with rxSeq := q, nakDue := false }).feedback d).1).countFlits
    (({ s.link port with rxSeq := q, nakDue := false }).feedback d).2).acceptFlit (railOf port) (decide (port % 12 < 4)) (flitOf d))) hs

theorem resend_eq (s : State) (port : Nat) : exec (.flitResend port) s = .next (if (s.link port).nakked = true
    then (s.setLink port { s.link port with nakked := false, resent := min 65535 ((s.link port).resent + (s.link port).replay.length) }).countFlits
      (s.link port).replay.length else s) := by
  change execFlitResend port s = _
  unfold execFlitResend
  cases h : (s.link port).nakked <;> simp only [h] <;> rfl

end Flits

section RailState
variable {s : State} {rail : Nat}

theorem downPort_ne (rail : Nat) : upPort rail ≠ downPort rail := by
  unfold downPort
  omega

theorem down_idle (h : 16 ≤ rail ∨ ((s.link (upPort rail)).st ≠ 2 ∧ (s.link (downPort rail)).st ≠ 2)) : exec (.railDown rail) s = .next s := by
  change execRailDown rail s = _
  unfold execRailDown
  exact congrArg _ (if_pos h)

theorem running_not_idle (hr : rail < 16) (hu : (s.link (upPort rail)).st = 2 ∨ (s.link (downPort rail)).st = 2) :
    ¬(16 ≤ rail ∨ ((s.link (upPort rail)).st ≠ 2 ∧ (s.link (downPort rail)).st ≠ 2)) :=
  not_or.2 ⟨not_le.2 hr, fun h => hu.elim h.1 h.2⟩

theorem others_iff : s.railsUp.any (fun k => decide (k ≠ rail)) = true ↔ ∃ k ∈ s.railsUp, k ≠ rail := by
  simp only [List.any_eq_true, decide_eq_true_eq]

theorem down_alone (hr : rail < 16) (hu : (s.link (upPort rail)).st = 2 ∨ (s.link (downPort rail)).st = 2)
    (h : (∀ k ∈ s.railsUp, k = rail) ∨ s.roleOf (upPort rail) ≠ 1) : exec (.railDown rail) s =
    .next ((s.setLink (upPort rail) (s.link (upPort rail)).retrain).setLink (downPort rail) (s.link (downPort rail)).retrain) := by
  change execRailDown rail s = _
  unfold execRailDown
  refine congrArg _ ((if_neg (running_not_idle hr hu)).trans (if_neg ?_))
  rw [others_iff]
  rintro ⟨⟨k, hk, hn⟩, ho⟩
  exact h.elim (fun ha => hn (ha k hk)) (fun hro => hro ho)

theorem down_moves (hr : rail < 16) (hu : (s.link (upPort rail)).st = 2 ∨ (s.link (downPort rail)).st = 2)
    (h : ∃ k ∈ s.railsUp, k ≠ rail) (ho : s.roleOf (upPort rail) = 1) :
    let u := s.link (upPort rail)
    let d := s.link (downPort rail)
    let down (l : Link) : Link := { l.cut 1 with resent := sat16 (l.resent + l.replay.length) }
    exec (.railDown rail) s = .next ((d.replay ++ d.waiting).foldl (fun s f => s.emit true f) ((u.replay ++ u.waiting).foldl (fun s f => s.emit false f)
      ((s.setLink (upPort rail) (down u)).setLink (downPort rail) (down d)))) := by
  intro u d down
  change execRailDown rail s = _
  unfold execRailDown
  exact congrArg _ ((if_neg (running_not_idle hr hu)).trans (if_pos ⟨others_iff.2 h, ho⟩))

/-- The links of a rail after both are set. -/
theorem links_set (s : State) (rail : Nat) (u d : Link) : ((s.setLink (upPort rail) u).setLink (downPort rail) d).link (upPort rail) = u ∧
    ((s.setLink (upPort rail) u).setLink (downPort rail) d).link (downPort rail) = d := by
  refine ⟨?_, by rw [State.link_setLink, if_pos rfl]⟩
  rw [State.link_setLink, if_neg (downPort_ne rail), State.link_setLink, if_pos rfl]

theorem up_idle (h : 16 ≤ rail ∨ rail ∉ s.ring.opened ∨ (s.link (upPort rail)).st = 2) : exec (.railUp rail) s = .next s := by
  change execRailUp rail s = _
  unfold execRailUp
  refine congrArg _ (if_pos (h.imp_right (Or.imp_left fun hn => ?_)))
  rw [Bool.not_eq_true', Bool.eq_false_iff]
  exact mt List.contains_iff_mem.1 hn

theorem up_trained (hr : rail < 16) (ho : rail ∈ s.ring.opened) (hu : (s.link (upPort rail)).st ≠ 2) :
    let u := s.link (upPort rail)
    let d := s.link (downPort rail)
    let s1 := ((s.setLink (upPort rail) u.comeUp.1).setLink (downPort rail) d.comeUp.1).countFlits (u.comeUp.2 + d.comeUp.2)
    exec (.railUp rail) s = .next (if s.roleOf (upPort rail) ≠ 1 then s1
      else if s.ring.member = true then s1.ringEvent 4 s.ring.position rail else s1.joinOn) := by
  intro u d s1
  change execRailUp rail s = _
  unfold execRailUp
  refine congrArg _ (if_neg ?_)
  rw [List.contains_iff_mem.2 ho]
  exact not_or.2 ⟨not_le.2 hr, not_or.2 ⟨Bool.false_ne_true, hu⟩⟩

theorem timeout_idle (h : 16 ≤ rail ∨ (s.link (upPort rail)).st ≠ 1) : exec (.railRetrainTimeout rail) s = .next s := by
  change execRailRetrainTimeout rail s = _
  unfold execRailRetrainTimeout
  exact congrArg _ (if_pos h)

theorem timeout_failed (hr : rail < 16) (hu : (s.link (upPort rail)).st = 1) :
    let u := s.link (upPort rail)
    let d := s.link (downPort rail)
    let s1 := (s.setLink (upPort rail) { u with st := 3, waiting := [] }).setLink (downPort rail) { d with st := 3, waiting := [] }
    let s3 := (d.waiting.foldl (fun s f => s.emit true f) (u.waiting.foldl (fun s f => s.emit false f) s1)).ringEvent 3 s.ring.position rail
    exec (.railRetrainTimeout rail) s = .next (if s.roleOf (upPort rail) ≠ 1 then s1
      else if s.ring.member = false then s1.joinOn
      else if s3.railsFor = [] then (s3.neighbours.foldl State.loseMember s3).mark else s3) := by
  intro u d s1 s3
  change execRailRetrainTimeout rail s = _
  unfold execRailRetrainTimeout
  refine congrArg _ ((if_neg (not_or.2 ⟨not_le.2 hr, not_not.2 hu⟩)).trans ?_)
  exact if_congr Iff.rfl rfl (if_congr (Iff.of_eq (Bool.not_eq_true' _)) rfl rfl)

end RailState

section Relay
variable {s : State} {hub dst : Nat} {data : List Byte}

/-- A relay frame that may go out (R459). -/
def Relayed (s : State) (hub dst : Nat) (data : List Byte) : Prop :=
  hub < 4 ∧ s.ring.member = true ∧ s.ring.leaving = none ∧ dst ≠ s.ring.position ∧ AMap.find? s.ring.members dst ≠ none ∧
    data ≠ [] ∧ data.length ≤ 9216

theorem not_relayed_iff : (4 ≤ hub ∨ (!s.ring.member) = true ∨ s.ring.leaving.isSome = true ∨ dst = s.ring.position ∨
    (AMap.find? s.ring.members dst).isNone = true ∨ data = [] ∨ 9216 < data.length) ↔ ¬Relayed s hub dst data := by
  unfold Relayed
  rw [Bool.not_eq_true', Option.isSome_iff_ne_none, Option.isNone_iff_eq_none]
  simp only [not_and_or, Bool.not_eq_true, ne_eq, not_not, not_lt, not_le]

theorem relay_dropped (h : ¬Relayed s hub dst data) : exec (.relayFrame hub dst data) s = .next s := by
  change execRelayFrame hub dst data s = _
  unfold execRelayFrame
  exact congrArg _ (if_pos (not_relayed_iff.2 h))

theorem relay_sent (h : Relayed s hub dst data) : exec (.relayFrame hub dst data) s = .next (s.startTransfer 2
    (if data.take 4 = [0x02, 0xEF, 0x1D, 0x00] then leAt data 4 1 % 4 else hub) 0 0 dst 2 data) := by
  change execRelayFrame hub dst data s = _
  unfold execRelayFrame
  exact congrArg _ (if_neg (fun k => not_relayed_iff.1 k h))

end Relay

/-- Settles O46: it holds. -/
theorem railsAndFlits : Obligations.RailsAndFlits := by
  unfold Obligations.RailsAndFlits
  intro s
  refine ⟨?flits, ?rails, ?bypass, fun hub dst data => ⟨relay_dropped, relay_sent⟩⟩
  case flits =>
    intro port d bad l f live whole
    refine ⟨receive_dead, fun h hb => ?_, fun h hb hw => ?_, fun h hb hw ht => ?_, fun h hb hw ht hs => ?_, fun h hb hw ht hs => ?_, resend_eq s port⟩
    · exact (receive_live h).trans (congrArg _ (received_bad hb))
    · exact (receive_live h).trans (congrArg _ (received_broken hb hw))
    · exact (receive_live h).trans (congrArg _ ((received_whole hb hw).trans (if_pos ht)))
    · exact (receive_live h).trans (congrArg _ ((received_whole hb hw).trans ((if_neg ht).trans (if_pos hs))))
    · exact (receive_live h).trans (congrArg _ (received_next hb hw ht hs))
  case rails =>
    intro rail u d
    refine ⟨down_idle, fun hr hu h => ⟨_, down_alone hr hu h, rfl, ?_, ?_, ?_, ?_⟩, down_moves, up_idle, up_trained, timeout_idle, timeout_failed⟩
    · rw [(links_set s rail _ _).1]; rfl
    · rw [(links_set s rail _ _).1]; rfl
    · rw [(links_set s rail _ _).2]; rfl
    · rw [(links_set s rail _ _).2]; rfl
  case bypass =>
    refine ⟨(List.range 16).foldl State.closeRail s, rfl, ?_, fun k hk => Rails.close_all _ s k (Or.inl (List.mem_range.2 hk))⟩
    exact foldl_rel Rails.LinkOnly (fun _ => rfl) Rails.LinkOnly.trans _ Rails.close_frame _ _

end Sys2Proof.Machine.RailEvents

/-! SUPPORT. Members that join, leave and are lost, transfers that have landed, and the stages of a ring huddle. -/
namespace Sys2Proof.Machine.RingMembers

section Members
variable {s : State} {pos : Nat}

theorem loss_iff : ((!s.ring.member) = true ∨ pos = s.ring.position ∨ (AMap.find? s.ring.members pos).isNone = true) ↔
    (s.ring.member = false ∨ pos = s.ring.position ∨ AMap.find? s.ring.members pos = none) := by
  rw [Bool.not_eq_true', Option.isNone_iff_eq_none]

theorem loss_idle (h : s.ring.member = false ∨ pos = s.ring.position ∨ AMap.find? s.ring.members pos = none) :
    exec (.memberLoss pos) s = .next s := by
  change execMemberLoss pos s = _
  unfold execMemberLoss
  rw [if_pos (loss_iff.2 h)]

theorem loss_drops (hm : s.ring.member = true) (hp : pos ≠ s.ring.position) (hf : AMap.find? s.ring.members pos ≠ none) :
    exec (.memberLoss pos) s = .next ((s.dropMember pos).ringEvent 2 pos 0xFF).mark := by
  change execMemberLoss pos s = _
  unfold execMemberLoss
  rw [if_neg (fun k => by rcases loss_iff.1 k with k | k | k; exacts [absurd hm (ne_true_of_eq_false k), hp k, hf k])]
  rfl

theorem leave_idle (h : s.ring.leaving = none) : exec .ringLeaveComplete s = .next s := by
  change execRingLeaveComplete s = _
  unfold execRingLeaveComplete
  rw [h]

/-- A module that has left the ring: its departure announced, its steps over the ring and its transfers ended (R455). -/
def departed (s : State) : State :=
  let s1 := s.emit true (s.controlFlit s.ring.position 0 (controlBody 7 s.ring.position 0 0 0 []))
  let hurt := s1.sch.steps.filter (fun t => decide (1 < s1.stepUnits t))
  let lost := decide (s1.ring.transfers ≠ [])
  let s2 := hurt.foldl (fun s t => s.failStep t E_RING_LOST none (ident 2 1024)) s1
  let s3 := if lost then s2.raise { FRec.mk0 E_RING_LOST 1 (ident 2 1024) with action := 8 } else s2
  let s4 := s3.closeRing
  { s4 with ring := { s4.ring with member := false, position := 0, recorded := none, members := [], leaving := none, transfers := [] } }

theorem leave_done {r : Req} (h : s.ring.leaving = some r) :
    exec .ringLeaveComplete s = .next (((departed s).answer r 0 (leBytes 6 0)).ringEvent 1 s.ring.position 0xFF).mark := by
  change execRingLeaveComplete s = _
  unfold execRingLeaveComplete
  simp only [h]
  rfl

end Members

section Joining
variable {s : State} {req : Option Req} {want : Nat} {ms : List (Nat × List Byte)} {ok : Bool}

theorem join_none (h : s.ring.joining = none) : exec (.discoveryReturn ms ok) s = .next s := by
  change execDiscoveryReturn ms ok s = _
  unfold execDiscoveryReturn
  rw [h]

/-- Every rail of the ring is open, and none still trains. -/
def Settled (s : State) : Prop := ∀ k ∈ s.ringRails, (s.link (upPort k)).st ≠ 1 ∧ k ∈ s.ring.opened

theorem not_settled_iff : s.ringRails.any (fun k => decide ((s.link (upPort k)).st = 1) || !s.ring.opened.contains k) = true ↔ ¬Settled s := by
  unfold Settled
  simp only [List.any_eq_true, Bool.or_eq_true, decide_eq_true_eq, Bool.not_eq_true', Bool.eq_false_iff, ne_eq, List.contains_iff_mem,
    not_forall, not_and_or, not_not, exists_prop]

/-- The position that a joining module takes. -/
def place (want : Nat) (taken : List Nat) : Option Nat :=
  if want = 0xFF then (List.range 16).find? (fun p => !taken.contains p) else if taken.contains want then none else some want

/-- The position it asked for where that is free, or the lowest free one (R453). -/
def Gets (want : Nat) (ms : List (Nat × List Byte)) (p : Nat) : Prop :=
  (want = 0xFF ∧ p < 16 ∧ p ∉ ms.map (·.1) ∧ ∀ q < p, q ∈ ms.map (·.1)) ∨ (want ≠ 0xFF ∧ p = want ∧ want ∉ ms.map (·.1))

theorem place_iff (p : Nat) : place want (ms.map (·.1)) = some p ↔ Gets want ms p := by
  unfold place Gets
  by_cases hw : want = 0xFF
  · rw [if_pos hw, List.find?_range_eq_some]
    simp only [Bool.not_eq_true', Bool.eq_false_iff, ne_eq, List.contains_iff_mem, List.mem_range, Bool.not_not, hw, not_true, false_and, or_false,
      true_and]
    tauto
  · rw [if_neg hw]
    by_cases hc : want ∈ ms.map (·.1)
    · rw [if_pos (List.contains_iff_mem.2 hc)]
      exact ⟨fun h => (nomatch h), fun h => h.elim (fun k => absurd k.1 hw) (fun k => absurd hc k.2.2)⟩
    · rw [if_neg (mt List.contains_iff_mem.1 hc)]
      exact ⟨fun h => Or.inr ⟨hw, (Option.some.inj h).symm, hc⟩, fun h => h.elim (fun k => absurd k.1 hw) (fun k => by rw [k.2.1])⟩

theorem place_none (h : ∀ p, ¬Gets want ms p) : place want (ms.map (·.1)) = none := by
  cases hp : place want (ms.map (·.1)) with
  | none => rfl
  | some p => exact absurd ((place_iff p).1 hp) (h p)

/-- A module that is a member at a position and has announced itself there. -/
def joined (s : State) (req : Option Req) (ms : List (Nat × List Byte)) (p : Nat) : State :=
  let ms := (ms.filter (fun m => decide (m.1 < 16))).foldl (fun (m : AMap (Nat × List Byte)) e =>
    AMap.insert m e.1 (s.railCount, bytesAt e.2 0 4)) []
  let s1 := { s with ring := { s.ring with
    member := true, position := p, recorded := some p, joining := none, members := AMap.insert ms p (s.railCount, ownDigest) } }
  let s2 := s1.emit true (s1.controlFlit p 0 (controlBody 6 p s1.railCount 0 0 [(p, ownDigest)]))
  (req.elim s2 (fun r => s2.answer r 0 (leBytes 1 p ++ leBytes 1 0 ++ leBytes 2 s2.memberMask ++ leBytes 1 s2.railCount ++ leBytes 3 0))).ringEvent
    0 p 0xFF

theorem joined_ring (s : State) (req : Option Req) (ms : List (Nat × List Byte)) (p : Nat) : (joined s req ms p).ring.member = true ∧
    (joined s req ms p).ring.position = p ∧ (joined s req ms p).ring.joining = none ∧
    AMap.find? (joined s req ms p).ring.members p = some (s.railCount, ownDigest) := by
  unfold joined
  extract_lets l src s1 s2
  obtain ⟨hm, hp, hj, hf⟩ := Emits.emit_ring s1 true (s1.controlFlit p 0 (controlBody 6 p s1.railCount 0 0 [(p, ownDigest)]))
  cases req with
  | none => exact ⟨hm, hp, hj, (congrArg (AMap.find? · p) hf).trans (AMap.find_insert_self _ _ _)⟩
  | some r => exact ⟨hm, hp, hj, (congrArg (AMap.find? · p) hf).trans (AMap.find_insert_self _ _ _)⟩

theorem join_waits (hj : s.ring.joining = some (req, want)) (h : ¬Settled s) : exec (.discoveryReturn ms ok) s = .next s := by
  change execDiscoveryReturn ms ok s = _
  unfold execDiscoveryReturn
  simp only [hj]
  exact congrArg _ (if_pos (not_settled_iff.2 h))

theorem join_settled (hj : s.ring.joining = some (req, want)) (h : Settled s) : exec (.discoveryReturn ms ok) s =
    .next ((place want (ms.map (·.1))).elim (s.failJoin req E_RING_POSITION)
      (fun p => if ok = false then s.failJoin req E_RING_STATE else joined s req ms p)) := by
  change execDiscoveryReturn ms ok s = _
  unfold execDiscoveryReturn
  simp only [hj]
  refine congrArg _ ((if_neg (fun k => not_settled_iff.1 k h)).trans ?_)
  have key : ∀ (o : Option Nat) (x : State) (f : Nat → State), (match o with | none => x | some p => f p) = o.elim x f :=
    fun o x f => by cases o <;> rfl
  refine (key (place want (ms.map (·.1))) _ _).trans (congrArg (Option.elim _ _) (funext fun p => ?_))
  refine if_congr (Iff.of_eq (Bool.not_eq_true' _)) rfl ?_
  unfold joined
  cases req <;> rfl

end Joining

section Transfers
variable {s : State} {tag : Nat} {x : RTransfer}

/-- A transfer taken from its list. -/
def dropped (u : State) (x : RTransfer) (tag : Nat) : State :=
  { u with ring := { u.ring with transfers := u.ring.transfers.filter (fun y => y.sent || decide (y.src ≠ x.src) || decide (y.tag ≠ tag)) } }
/-- The completion flit of a transfer sent to its source. -/
def completed (u : State) (x : RTransfer) (tag : Nat) : State :=
  u.emit (u.goesDown x.src) (u.controlFlit x.src tag (controlBody 4 0 0 0 0 []))

/-- The transfer of a tag whose flits have all landed. -/
def landed (s : State) (tag : Nat) : Option RTransfer :=
  s.ring.transfers.find? (fun x => !x.sent && decide (x.tag = tag) && decide (x.kind < 4) && decide (x.got.length = ceilDiv x.len 236))

theorem transfer_plain (hx : landed s tag = some x) (hk : x.kind = 0 ∨ x.kind = 3) :
    exec (.ringTransferComplete tag) s = .next (completed (dropped s x tag) x tag) := by
  have h1 : x.kind ≠ 1 := by omega
  have h2 : x.kind ≠ 2 := by omega
  change execRingTransferComplete tag s = _
  unfold execRingTransferComplete
  simp only [show s.ring.transfers.find? _ = some x from hx, if_neg h1, if_neg h2]
  rfl

theorem transfer_relay (hx : landed s tag = some x) (h2 : x.kind = 2) : exec (.ringTransferComplete tag) s =
    .next (completed (dropped { s with ring := { s.ring with relayRx := AMap.insert s.ring.relayRx x.court (Mem.rdBytes x.buf 0 x.len) } } x tag) x
      tag) := by
  have h1 : x.kind ≠ 1 := by omega
  change execRingTransferComplete tag s = _
  unfold execRingTransferComplete
  simp only [show s.ring.transfers.find? _ = some x from hx, if_neg h1, if_pos h2]
  rfl

end Transfers

section Huddles
variable {s : State} {court ctx step : Nat} {t : Step} {h : Huddle} {b : Playbook} {l : Layer} {data : List Byte}

theorem timeout_idle (ht : s.stepAt court ctx step = some t) (hh : AMap.find? t.huddles t.layer = some h)
    (hi : h.ring = false ∨ h.released = true ∨ h.stage = 0) : exec (.ringHuddleTimeout court ctx step) s = .next s := by
  change execRingHuddleTimeout court ctx step s = _
  unfold execRingHuddleTimeout
  simp only [ht, hh]
  exact congrArg _ (if_pos (hi.imp_left (fun k => by rw [k]; rfl)))

theorem timeout_fails (ht : s.stepAt court ctx step = some t) (hh : AMap.find? t.huddles t.layer = some h)
    (hr : h.ring = true) (hl : h.released = false) (hs : h.stage ≠ 0) : exec (.ringHuddleTimeout court ctx step) s =
    .next (s.failStep t E_RING_LOST none (ident 1 (s.leadCluster court))).mark := by
  change execRingHuddleTimeout court ctx step s = _
  unfold execRingHuddleTimeout
  simp only [ht, hh]
  refine congrArg _ (if_neg ?_)
  rw [hr, hl]
  exact not_or.2 ⟨Bool.false_ne_true, not_or.2 ⟨Bool.false_ne_true, hs⟩⟩

theorem stage_idle (ht : s.stepAt court ctx step = some t) (hh : AMap.find? t.huddles t.layer = some h)
    (hi : h.ring = false ∨ h.released = true ∨ h.stage = 0) (d : List Byte) : exec (.ringHuddleStage court ctx step d) s = .next s := by
  change execRingHuddleStage court ctx step d s = _
  unfold execRingHuddleStage
  simp only [ht, hh]
  refine congrArg _ (if_pos ?_)
  rcases hi with k | k | k
  · exact Or.inl (by rw [k]; rfl)
  · exact Or.inr (Or.inl k)
  · exact Or.inr (Or.inr (Or.inl k))

/-- The part that a member sends in a stage, and the part that comes (R456). -/
def sentPart (s : State) (h : Huddle) (u : Nat) : Nat × Nat :=
  huddlePart h u ((s.ringRank + 2 * u - (if u ≤ h.stage then h.stage - (u - 1) else h.stage) + b2n (decide (u ≤ h.stage))) % u)
def gotPart (s : State) (h : Huddle) (u : Nat) : Nat × Nat :=
  huddlePart h u ((s.ringRank + 2 * u - 1 - (if u ≤ h.stage then h.stage - (u - 1) else h.stage) + b2n (decide (u ≤ h.stage))) % u)

theorem sentPart_eq (s : State) (h : Huddle) (u : Nat) : sentPart s h u = huddlePart h u
    (if u ≤ h.stage then (s.ringRank + 2 * u - (h.stage - (u - 1)) + 1) % u else (s.ringRank + 2 * u - h.stage) % u) := by
  unfold sentPart
  by_cases hg : u ≤ h.stage
  · rw [decide_eq_true hg, if_pos hg, if_pos hg]; rfl
  · rw [decide_eq_false hg, if_neg hg, if_neg hg]; rfl
theorem gotPart_eq (s : State) (h : Huddle) (u : Nat) : gotPart s h u = huddlePart h u
    (if u ≤ h.stage then (s.ringRank + 2 * u - 1 - (h.stage - (u - 1)) + 1) % u else (s.ringRank + 2 * u - 1 - h.stage) % u) := by
  unfold gotPart
  by_cases hg : u ≤ h.stage
  · rw [decide_eq_true hg, if_pos hg, if_pos hg]; rfl
  · rw [decide_eq_false hg, if_neg hg, if_neg hg]; rfl

/-- How the coach of a context's huddle reaches its bytes. -/
def coachAccess (ctx : Nat) : Access := ⟨.coach ctx, 1, ctx, ident 2 1024⟩
/-- The member's own part `snd` of a stage sent on, and the part `rcv` that came added, or kept in the all-gather (R456). -/
def stageMoved (s : State) (court ctx : Nat) (t : Step) (h : Huddle) (u : Nat) (snd rcv : Nat × Nat) (data : List Byte) : State × Code :=
  let own := s.anyRead (coachAccess ctx) snd.1 snd.2
  let s1 := own.1.startTransfer 3 court t.layer (snd.1 - (s.huddleArea court).1) ((s.positions[(s.ringRank + 1) % u]?).getD 0) 1 own.2.2
  if u ≤ h.stage then s1.objWrite (coachAccess ctx) rcv.1 data else s1.vatAdd (coachAccess ctx) rcv.1 data
/-- A huddle one stage on, its runs released after the last. -/
def nextStage (h : Huddle) (u : Nat) : Huddle := { h with stage := h.stage + 1, released := decide (h.stage = 2 * (u - 1)) }

theorem stage_done (ht : s.stepAt court ctx step = some t) (hh : AMap.find? t.huddles t.layer = some h)
    (hb : AMap.find? s.book.books t.playbook = some b) (hy : b.plan.layers[t.layer]? = some l) {u : Nat} (hu : splitCount (l.level 4) = u)
    (hr : h.ring = true) (hl : h.released = false) (hs : h.stage ≠ 0) (hn : h.stage ≤ 2 * (u - 1)) (h0 : t.status = 0)
    (hv : s.ring.leaving = none) (hp : u ≤ s.positions.length) {snd rcv : Nat × Nat} (hsnd : sentPart s h u = snd) (hrcv : gotPart s h u = rcv)
    (hd : data.length = rcv.2) (hc : (s.anyRead (coachAccess ctx) snd.1 snd.2).2.1 = 0)
    (hw : (stageMoved s court ctx t h u snd rcv data).2 = 0) : exec (.ringHuddleStage court ctx step data) s =
    .next (((stageMoved s court ctx t h u snd rcv data).1.putStep
      { t with huddles := AMap.insert t.huddles t.layer (nextStage h u) }).advance ctx step (s.layersOf t + 1)).mark := by
  subst hu hsnd hrcv
  change execRingHuddleStage court ctx step data s = _
  unfold execRingHuddleStage
  simp only [ht, hh, hb, hy, decide_eq_true_eq]
  refine congrArg _ ((if_neg ?_).trans ((if_neg (not_not.2 ?_)).trans ?_))
  · rw [hr, hl, hv]
    simp only [Bool.not_true, Bool.false_eq_true, Option.isSome_none, false_or, not_or, not_not, not_lt]
    exact ⟨hs, hn, h0, hp⟩
  · exact hd
  · exact if_neg (not_not.2 ((if_neg (not_not.2 hc)).trans hw))

end Huddles

/-- Settles O47: it holds. -/
theorem ringMembersAndHuddles : Obligations.RingMembersAndHuddles := by
  unfold Obligations.RingMembersAndHuddles
  intro s
  refine ⟨fun _ => loss_idle, fun _ => loss_drops, fun h ms ok => join_none h, ?joining, leave_idle, fun r h => ⟨departed s, leave_done h, rfl, rfl, rfl, rfl⟩,
    ?transfers, ?huddles⟩
  case joining =>
    intro req want ms ok hj settled gets
    refine ⟨join_waits hj, fun h hn => ?_, fun p h hg ho => ?_, fun p h hg ho => ⟨joined s req ms p, ?_, joined_ring s req ms p⟩⟩
    · exact (join_settled hj h).trans (by rw [place_none hn]; rfl)
    · exact (join_settled hj h).trans (by rw [(place_iff p).2 hg]; exact congrArg _ (if_pos ho))
    · exact (join_settled hj h).trans (by rw [(place_iff p).2 hg]; exact congrArg _ (if_neg (by rw [ho]; exact Bool.noConfusion)))
  case transfers =>
    intro tag x hx drop fin
    exact ⟨transfer_plain hx, transfer_relay hx⟩
  case huddles =>
    intro court ctx step t h ht hh
    refine ⟨fun hi => ⟨stage_idle ht hh hi, timeout_idle ht hh hi⟩, timeout_fails ht hh, ?_⟩
    intro b l data hb hy u i hr hl hs hn h0 hv hp gather snd rcv hd ac own s1 w hc hw h1
    exact stage_done ht hh hb hy rfl hr hl hs hn h0 hv hp (sentPart_eq s h u) (gotPart_eq s h u) hd hc hw

end Sys2Proof.Machine.RingMembers

/-! SUPPORT. Power states of courts and of the module: entries, aborts, wakes and exits. -/
namespace Sys2Proof.Machine.PowerChanges

section Entry
variable {s : State} {court : Nat}

/-- A court that may enter its next power state (R470). -/
def Can (s : State) (court : Nat) : Prop :=
  s.courtDefined court = true ∧ (s.courtPwr court).entering = false ∧ (s.courtPwr court).waking = false ∧ (s.courtPwr court).st < 4 ∧
    s.pwr.ps5 = false ∧ s.courtIdle court = true

theorem not_can_iff : ((!s.courtDefined court) = true ∨ (s.courtPwr court).entering = true ∨ (s.courtPwr court).waking = true ∨
    4 ≤ (s.courtPwr court).st ∨ s.pwr.ps5 = true ∨ (!s.courtIdle court) = true) ↔ ¬Can s court := by
  unfold Can
  rw [Bool.not_eq_true', Bool.not_eq_true']
  simp only [not_and_or, Bool.not_eq_true, Bool.not_eq_false, not_lt]

/-- It has been idle ten times the exit time, which its tolerance permits (R470). -/
def Due (s : State) (court : Nat) : Prop :=
  (s.courtPwr court).idleSince ≠ 0 ∧ exitUs ((s.courtPwr court).st + 1) ≤ s.effTol court ∧
    (s.courtPwr court).idleSince + (if (s.courtPwr court).st = 0 then 500 else if (s.courtPwr court).st = 1 then 20000
      else if (s.courtPwr court).st = 2 then 2000000 else 30000000) ≤ s.counter.toNat + 1

theorem not_due_iff (hc : Can s court) (hi : (s.courtPwr court).idleSince ≠ 0) :
    ((!permitsState (s.effTol court) ((s.courtPwr court).st + 1)) = true ∨
      s.counter.toNat + 1 < (s.courtPwr court).idleSince + idleTicks ((s.courtPwr court).st + 1)) ↔ ¬Due s court := by
  obtain ⟨_, _, _, h4, _, _⟩ := hc
  unfold Due permitsState
  rw [Stores.idle_eq _ h4, ← not_le, Bool.not_eq_true', decide_eq_false_iff_not, ← not_and_or]
  exact not_congr ⟨fun h => ⟨hi, h⟩, fun h => h.2⟩

/-- What an entry does once the court is idle. -/
def entered (s : State) (court : Nat) : State :=
  let p := s.courtPwr court
  if p.idleSince = 0 then s.markCourt court
  else if !permitsState (s.effTol court) (p.st + 1) ∨ s.counter.toNat + 1 < p.idleSince + idleTicks (p.st + 1) then s
  else if p.st + 1 = 3 then
    let r := s.parkAll (s.courtStreams court)
    if r.2 then r.1.setCourtPwr court { p with entering := true } else r.1.pwrEvent court 2 2 (exitUs 2)
  else s.setCourtPwr court { p with entering := true }

theorem entry_idle (h : ¬Can s court) : exec (.psEntry court) s = .next s := by
  change execPsEntry court s = _
  unfold execPsEntry
  exact congrArg _ (if_pos (not_can_iff.2 h))

theorem entry_can (h : Can s court) : exec (.psEntry court) s = .next (entered s court) := by
  change execPsEntry court s = _
  unfold execPsEntry
  exact congrArg _ (if_neg (fun k => not_can_iff.1 k h))

theorem entered_marks (hi : (s.courtPwr court).idleSince = 0) : entered s court = s.markCourt court := if_pos hi

theorem entered_early (hc : Can s court) (hi : (s.courtPwr court).idleSince ≠ 0) (hd : ¬Due s court) : entered s court = s :=
  (if_neg hi).trans (if_pos ((not_due_iff hc hi).2 hd))

theorem entered_due (hc : Can s court) (hd : Due s court) : entered s court = if (s.courtPwr court).st + 1 = 3 then
    (if (s.parkAll (s.courtStreams court)).2 then (s.parkAll (s.courtStreams court)).1.setCourtPwr court { s.courtPwr court with entering := true }
      else (s.parkAll (s.courtStreams court)).1.pwrEvent court 2 2 (exitUs 2))
    else s.setCourtPwr court { s.courtPwr court with entering := true } :=
  (if_neg hd.1).trans (if_neg (fun k => (not_due_iff hc hd.1).1 k hd))

theorem entered_shallow (hc : Can s court) (hd : Due s court) (h2 : (s.courtPwr court).st ≠ 2) :
    entered s court = s.setCourtPwr court { s.courtPwr court with entering := true } := (entered_due hc hd).trans (if_neg (by omega))

theorem entered_parked (hc : Can s court) (hd : Due s court) (h2 : (s.courtPwr court).st = 2) (hr : (s.parkAll (s.courtStreams court)).2 = true) :
    entered s court = (s.parkAll (s.courtStreams court)).1.setCourtPwr court { s.courtPwr court with entering := true } :=
  (entered_due hc hd).trans ((if_pos (by omega)).trans (if_pos hr))

theorem entered_full (hc : Can s court) (hd : Due s court) (h2 : (s.courtPwr court).st = 2) (hr : (s.parkAll (s.courtStreams court)).2 = false) :
    entered s court = (s.parkAll (s.courtStreams court)).1.pwrEvent court 2 2 20 :=
  (entered_due hc hd).trans ((if_pos (by omega)).trans (if_neg (ne_true_of_eq_false hr)))

end Entry

section Complete
variable {s : State} {court : Nat}

/-- The court counted as in its next state, before any store is lost. -/
def inNext (s : State) (court : Nat) : State :=
  s.countIdle.setCourtPwr court { s.courtPwr court with st := (s.courtPwr court).st + 1, entering := false }

theorem complete_idle (h : (s.courtPwr court).entering = false) : exec (.psEntryComplete court) s = .next s := by
  change execPsEntryComplete court s = _
  unfold execPsEntryComplete
  exact congrArg _ (if_pos (by rw [h]; rfl))

theorem complete_eq (h : (s.courtPwr court).entering = true) : exec (.psEntryComplete court) s =
    .next (((if (s.courtPwr court).st + 1 = 2 then (inNext s court).loseStores court false
      else if (s.courtPwr court).st + 1 = 3 then (inNext s court).loseStores court true else inNext s court).tabAnswers court).pwrEvent court 0
        ((s.courtPwr court).st + 1) (exitUs ((s.courtPwr court).st + 1))) := by
  change execPsEntryComplete court s = _
  unfold execPsEntryComplete
  exact congrArg _ (if_neg (by rw [h]; exact Bool.false_ne_true))

theorem complete_keeps (h : (s.courtPwr court).entering = true) (hs : (s.courtPwr court).st = 0 ∨ (s.courtPwr court).st = 3) :
    exec (.psEntryComplete court) s = .next (((inNext s court).tabAnswers court).pwrEvent court 0
      ((s.courtPwr court).st + 1) (exitUs ((s.courtPwr court).st + 1))) := by
  rw [complete_eq h, if_neg (by omega), if_neg (by omega)]

theorem complete_buffers (h : (s.courtPwr court).entering = true) (hs : (s.courtPwr court).st = 1) :
    exec (.psEntryComplete court) s = .next ((((inNext s court).loseStores court false).tabAnswers court).pwrEvent court 0
      ((s.courtPwr court).st + 1) (exitUs ((s.courtPwr court).st + 1))) := by
  rw [complete_eq h, if_pos (by omega)]

theorem complete_deep (h : (s.courtPwr court).entering = true) (hs : (s.courtPwr court).st = 2) :
    exec (.psEntryComplete court) s = .next ((((inNext s court).loseStores court true).tabAnswers court).pwrEvent court 0
      ((s.courtPwr court).st + 1) (exitUs ((s.courtPwr court).st + 1))) := by
  rw [complete_eq h, if_neg (by omega), if_pos (by omega)]

/-- What PS2 takes: the tile buffers of the court's cores. -/
theorem buffers_lost (s : State) (court : Nat) : ∃ u : State, (inNext s court).loseStores court false = u ∧
    u = { inNext s court with cores := u.cores, clus := u.clus, free := s.free + 1 } ∧ (∀ k, k ∉ s.courtCores court → u.core k = s.core k) ∧
    u.clus = s.clus ∧ ∀ k, u.core k = ⟨{ (s.core k).now with tb := (u.core k).now.tb }, { (s.core k).pre with tb := (u.core k).pre.tb }⟩ := by
  obtain ⟨u, hu, hf, ho, hk⟩ := Stores.shallow (inNext s court) court
  have hc : u.clus = s.clus := by rw [hf]; rfl
  refine ⟨u, hu, ?_, ho, hc, hk⟩
  rw [hc]
  exact hf

/-- What PS3 takes: all that the court's cores hold, and its staging buffers. -/
theorem contents_lost (s : State) (court : Nat) : ∃ u : State, (inNext s court).loseStores court true = u ∧
    u = { inNext s court with cores := u.cores, clus := u.clus, free := s.free + 1 } ∧ (∀ k, k ∉ s.courtCores court → u.core k = s.core k) ∧
    (∀ k ∈ s.courtCores court, (u.core k).now.tabs = []) ∧ ∀ n, u.clu n = { s.clu n with staging := (u.clu n).staging } :=
  Stores.deepen (inNext s court) court

end Complete

section Wake
variable {s : State} {court : Nat}

theorem wake_idle (h : s.courtDefined court = false ∨ (s.courtPwr court).waking = true ∨
    ((s.courtPwr court).st = 0 ∧ (s.courtPwr court).entering = false)) (rem : Nat) : exec (.psWake court rem) s = .next s := by
  change execPsWake court rem s = _
  unfold execPsWake
  refine congrArg _ (if_pos ?_)
  rcases h with h | h | ⟨h, k⟩
  · exact Or.inl (by rw [h]; rfl)
  · exact Or.inr (Or.inl h)
  · exact Or.inr (Or.inr ⟨h, by rw [k]; rfl⟩)

/-- A court that wakes, its exit taking `us` microseconds. -/
def woken (s : State) (court us : Nat) : State := s.setCourtPwr court { s.courtPwr court with waking := true, exitUs := us, idleSince := 0 }

theorem not_wake_idle (hd : s.courtDefined court = true) (hw : (s.courtPwr court).waking = false)
    (h : (s.courtPwr court).st ≠ 0 ∨ (s.courtPwr court).entering = true) : ¬((!s.courtDefined court) = true ∨ (s.courtPwr court).waking = true ∨
      ((s.courtPwr court).st = 0 ∧ (!(s.courtPwr court).entering) = true)) := by
  rw [hd, hw]
  refine not_or.2 ⟨Bool.false_ne_true, not_or.2 ⟨Bool.false_ne_true, fun k => h.elim (fun hs => hs k.1) (fun he => ?_)⟩⟩
  rw [he] at k
  exact Bool.false_ne_true k.2

theorem wake_from (hd : s.courtDefined court = true) (hw : (s.courtPwr court).waking = false) (hs : (s.courtPwr court).st ≠ 0)
    (he : (s.courtPwr court).entering = false) (rem : Nat) : exec (.psWake court rem) s = .next (woken s court (exitUs (s.courtPwr court).st)) := by
  change execPsWake court rem s = _
  unfold execPsWake
  exact congrArg _ ((if_neg (not_wake_idle hd hw (Or.inl hs))).trans (if_pos (by rw [he]; rfl)))

theorem wake_entering (hd : s.courtDefined court = true) (hw : (s.courtPwr court).waking = false) (he : (s.courtPwr court).entering = true)
    (rem : Nat) : exec (.psWake court rem) s = .next (if rem = 0 then (s.setCourtPwr court { s.courtPwr court with
      entering := false, waking := decide ((s.courtPwr court).st ≠ 0), exitUs := exitUs (s.courtPwr court).st, idleSince := 0 }).pwrEvent court 2
        (s.courtPwr court).st (exitUs (s.courtPwr court).st)
    else if entryUs ((s.courtPwr court).st + 1) < rem then s else woken s court (rem + exitUs ((s.courtPwr court).st + 1))) := by
  change execPsWake court rem s = _
  unfold execPsWake
  exact congrArg _ ((if_neg (not_wake_idle hd hw (Or.inr he))).trans (if_neg (by rw [he]; exact Bool.false_ne_true)))

theorem exit_idle (h : (s.courtPwr court).waking = false ∨ (s.courtPwr court).entering = true) : exec (.psExitComplete court) s = .next s := by
  change execPsExitComplete court s = _
  unfold execPsExitComplete
  exact congrArg _ (if_pos (h.imp_left (fun k => by rw [k]; rfl)))

theorem exit_done (hw : (s.courtPwr court).waking = true) (he : (s.courtPwr court).entering = false) :
    let s1 := s.countIdle.setCourtPwr court { s.courtPwr court with st := 0, waking := false }
    exec (.psExitComplete court) s = .next ((if 3 ≤ (s.courtPwr court).st then s1.restoreClusters court else s1.swapOnWake court).pwrEvent court 1 0
      (s.courtPwr court).exitUs).mark := by
  intro s1
  change execPsExitComplete court s = _
  unfold execPsExitComplete
  exact congrArg _ (if_neg (by rw [hw, he]; exact fun h => h.elim Bool.false_ne_true Bool.false_ne_true))

end Wake

section Module
variable {s : State}

/-- The module may enter PS5: every court in PS4, the tolerance wide, no stream and no session of an application (R474). -/
def Deep (s : State) : Prop :=
  (∀ k < 8, s.courtDefined k = true → (s.courtPwr k).st = 4 ∧ (s.courtPwr k).entering = false ∧ (s.courtPwr k).waking = false) ∧
    2000000 ≤ s.pwr.tolModule ∧ s.cdc.streams = [] ∧ ∀ e ∈ s.ump.mbxs, isApp e.1 = true → e.2.session = false

theorem courts_deep_iff : ((List.range 8).filter s.courtDefined).all (fun k => decide ((s.courtPwr k).st = 4) && !(s.courtPwr k).entering &&
      !(s.courtPwr k).waking) = true ↔
    ∀ k < 8, s.courtDefined k = true → (s.courtPwr k).st = 4 ∧ (s.courtPwr k).entering = false ∧ (s.courtPwr k).waking = false := by
  simp only [List.all_eq_true, List.mem_filter, List.mem_range, Bool.and_eq_true, decide_eq_true_eq, Bool.not_eq_true', and_imp, and_assoc]

theorem no_session_iff : s.ump.mbxs.any (fun e => isApp e.1 && e.2.session) = true ↔ ¬∀ e ∈ s.ump.mbxs, isApp e.1 = true → e.2.session = false := by
  simp only [List.any_eq_true, Bool.and_eq_true, not_forall, Bool.not_eq_false, exists_prop]

theorem not_deep_iff : (s.pwr.ps5 = true ∨ (!((List.range 8).filter s.courtDefined).all (fun k => decide ((s.courtPwr k).st = 4) &&
      !(s.courtPwr k).entering && !(s.courtPwr k).waking)) = true ∨ s.pwr.tolModule < 2000000 ∨ s.cdc.streams ≠ [] ∨
      s.ump.mbxs.any (fun e => isApp e.1 && e.2.session) = true) ↔ (s.pwr.ps5 = true ∨ ¬Deep s) := by
  unfold Deep
  rw [no_session_iff, Bool.not_eq_true', Bool.eq_false_iff, ne_eq, courts_deep_iff, ← not_le]
  simp only [not_and_or, ne_eq]

theorem ps5_idle (h : s.pwr.ps5 = true ∨ ¬Deep s) : exec .ps5Entry s = .next s := by
  change execPs5Entry s = _
  unfold execPs5Entry
  exact congrArg _ (if_pos (not_deep_iff.2 h))

theorem ps5_entered (h : s.pwr.ps5 = false) (hd : Deep s) :
    exec .ps5Entry s = .next (({ s with pwr := { s.pwr with ps5 := true } }).pwrEvent 0xFF 0 5 2000000) := by
  change execPs5Entry s = _
  unfold execPs5Entry
  exact congrArg _ (if_neg (fun k => (not_deep_iff.1 k).elim (ne_true_of_eq_false h) (fun n => n hd)))

theorem ps5_stays (h : s.pwr.ps5 = false) : exec .ps5Wake s = .next s := by
  change execPs5Wake s = _
  unfold execPs5Wake State.leavePs5
  rw [h]
  rfl

theorem ps5_left (h : s.pwr.ps5 = true) :
    exec .ps5Wake s = .next (({ s with pwr := { s.pwr with ps5 := false } }).pwrEvent 0xFF 1 0 2000000) := by
  change execPs5Wake s = _
  unfold execPs5Wake State.leavePs5
  rw [h]
  rfl

end Module

/-- Settles O48: it holds. -/
theorem powerStates : Obligations.PowerStates := by
  unfold Obligations.PowerStates
  intro s
  refine ⟨?courts, fun h => ps5_idle h, ps5_entered, ps5_stays, ps5_left⟩
  intro court p can due r
  refine ⟨entry_idle, fun hc hi => ?_, fun hc hi hd => ?_, fun hc hd h2 => ?_, fun hc hd h2 hr => ?_, fun hc hd h2 hr => ?_, complete_idle, ?complete,
    wake_idle, ?wake, exit_idle, exit_done⟩
  · exact (entry_can hc).trans (congrArg _ (entered_marks hi))
  · exact (entry_can hc).trans (congrArg _ (entered_early hc hi hd))
  · exact (entry_can hc).trans (congrArg _ (entered_shallow hc hd h2))
  · exact (entry_can hc).trans (congrArg _ (entered_parked hc hd h2 hr))
  · exact (entry_can hc).trans (congrArg _ (entered_full hc hd h2 hr))
  case complete =>
    intro he s1
    refine ⟨complete_keeps he, fun hs => ?_⟩
    rcases hs with hs | hs
    · obtain ⟨u, hu, hf, ho, hc, hk⟩ := buffers_lost s court
      exact ⟨u, by rw [complete_buffers he hs, hu], hf, ho, fun _ => ⟨hc, hk⟩, fun h2 => absurd (hs.symm.trans h2) (by decide)⟩
    · obtain ⟨u, hu, hf, ho, ht, hn⟩ := contents_lost s court
      exact ⟨u, by rw [complete_deep he hs, hu], hf, ho, fun h1 => absurd (hs.symm.trans h1) (by decide), fun _ => ⟨ht, hn⟩⟩
  case wake =>
    intro hd hw wake
    refine ⟨wake_from hd hw, fun he => (wake_entering hd hw he 0).trans (congrArg _ (if_pos rfl)), fun he rem hr => ?_⟩
    refine (wake_entering hd hw he rem).trans (congrArg _ ((if_neg hr).trans ?_))
    by_cases hl : rem ≤ entryUs (p.st + 1)
    · rw [if_pos hl]
      exact if_neg (not_lt.2 hl)
    · rw [if_neg hl]
      exact if_pos (not_le.1 hl)

end Sys2Proof.Machine.PowerChanges

/-! SUPPORT. Power limiters, the governor's caps, temperatures, and the reference clock. -/
namespace Sys2Proof.Machine.PowerLimits

section Measure

/-- What a measurement leaves in the power state (R476, R479). -/
def measured (p : PwrSt) (watts mean : Nat) (volts : List Byte) : PwrSt := { p with
  now := min watts 65535
  mean := min mean 65535
  throttle := if p.limiting then p.throttle + 1 else p.throttle
  limiting := if 18000 < watts then true else if watts < 18000 then false else p.limiting
  blades := BitVec.ofNat 60 (((List.range 5).map (fun b => min (leAt volts (2 * b) 2) 4095 * 2 ^ (12 * b))).sum) }

theorem measured_throttle (p : PwrSt) (watts mean : Nat) (volts : List Byte) :
    (measured p watts mean volts).throttle = p.throttle + (if p.limiting = true then 1 else 0) := by
  unfold measured
  cases p.limiting
  · exact (add_zero _).symm
  · rfl

theorem measured_limiting (p : PwrSt) (watts mean : Nat) (volts : List Byte) :
    (18000 < watts → (measured p watts mean volts).limiting = true) ∧ (watts < 18000 → (measured p watts mean volts).limiting = false) ∧
      (watts = 18000 → (measured p watts mean volts).limiting = p.limiting) :=
  ⟨fun h => if_pos h, fun h => (if_neg (by omega)).trans (if_pos h), fun h => (if_neg (by omega)).trans (if_neg (by omega))⟩

end Measure

section Governor
variable {s : State}

/-- A change of the caps, told where there is one. -/
def told (s : State) (q : PwrSt) : State := if q = s.pwr then s else ({ s with pwr := q }).pwrEvent 0xFF 3 (s.shownPs 0xFF) 0

theorem governor_eq (s : State) : exec .governorStep s = .next (
    if s.pwr.limit < s.pwr.mean then
      if !s.pwr.beHeld then { s with pwr := { s.pwr with beHeld := true } } else told s s.pwr.capUp
    else if 100 * s.pwr.mean < 95 * s.pwr.limit then
      if s.pwr.capA = 0 ∧ s.pwr.capV = 0 then { s with pwr := { s.pwr with beHeld := false } } else told s s.pwr.capDown
    else s) := rfl

theorem governor_holds (h : s.pwr.limit < s.pwr.mean) (hb : s.pwr.beHeld = false) :
    exec .governorStep s = .next { s with pwr := { s.pwr with beHeld := true } } := by
  rw [governor_eq, if_pos h, if_pos (by rw [hb]; rfl)]

theorem governor_caps (h : s.pwr.limit < s.pwr.mean) (hb : s.pwr.beHeld = true) : exec .governorStep s = .next (told s s.pwr.capUp) := by
  rw [governor_eq, if_pos h, if_neg (by rw [hb]; exact Bool.false_ne_true)]

theorem governor_rests (h : s.pwr.mean ≤ s.pwr.limit) (hm : 95 * s.pwr.limit ≤ 100 * s.pwr.mean) : exec .governorStep s = .next s := by
  rw [governor_eq, if_neg (not_lt.2 h), if_neg (not_lt.2 hm)]

theorem governor_frees (h : s.pwr.mean ≤ s.pwr.limit) (hm : 100 * s.pwr.mean < 95 * s.pwr.limit) (ha : s.pwr.capA = 0) (hv : s.pwr.capV = 0) :
    exec .governorStep s = .next { s with pwr := { s.pwr with beHeld := false } } := by
  rw [governor_eq, if_neg (not_lt.2 h), if_pos hm, if_pos ⟨ha, hv⟩]

theorem governor_lifts (h : s.pwr.mean ≤ s.pwr.limit) (hm : 100 * s.pwr.mean < 95 * s.pwr.limit) (hc : s.pwr.capA ≠ 0 ∨ s.pwr.capV ≠ 0) :
    exec .governorStep s = .next (told s s.pwr.capDown) := by
  rw [governor_eq, if_neg (not_lt.2 h), if_pos hm, if_neg (not_and_or.2 hc)]

/-- Both caps a step up. -/
def even (q : PwrSt) : PwrSt := { q with capA := min 63 (q.capA + 1), capV := min 63 (q.capV + 1) }

theorem capUp_even (p : PwrSt) (h1 : p.profile ≠ 1) (h2 : p.profile ≠ 2) : p.capUp = even p :=
  (if_neg (fun h => h1 h.1)).trans (if_neg (fun h => h2 h.1))
theorem capUp_vector (p : PwrSt) (h : p.profile = 1) : p.capUp = if p.capV < 32 then { p with capV := p.capV + 1 } else even p := by
  unfold PwrSt.capUp
  by_cases hv : p.capV < 32
  · rw [if_pos ⟨h, hv⟩, if_pos hv]
  · rw [if_neg (fun k => hv k.2), if_neg hv, if_neg (fun k => by omega)]
    rfl
theorem capUp_matrix (p : PwrSt) (h : p.profile = 2) : p.capUp = if p.capA < 32 then { p with capA := p.capA + 1 } else even p := by
  unfold PwrSt.capUp
  rw [if_neg (fun k => by omega)]
  by_cases ha : p.capA < 32
  · rw [if_pos ⟨h, ha⟩, if_pos ha]
  · rw [if_neg (fun k => ha k.2), if_neg ha]
    rfl
theorem capDown_vector (p : PwrSt) (h : p.profile = 1) (ha : p.capA = 0) : p.capDown = { p with capV := p.capV - 1 } := if_pos ⟨h, ha⟩
theorem capDown_matrix (p : PwrSt) (h : p.profile = 2) (hv : p.capV = 0) : p.capDown = { p with capA := p.capA - 1 } :=
  (if_neg (fun k => by omega)).trans (if_pos ⟨h, hv⟩)
theorem capDown_even (p : PwrSt) (h1 : p.profile ≠ 1 ∨ p.capA ≠ 0) (h2 : p.profile ≠ 2 ∨ p.capV ≠ 0) :
    p.capDown = { p with capA := p.capA - 1, capV := p.capV - 1 } := (if_neg (not_and_or.2 h1)).trans (if_neg (not_and_or.2 h2))

end Governor

section Temperatures
variable {s : State} {hot inlet outlet : Nat}

/-- The limit moved by a check that leaves the module hot or not (R478). -/
def checked (s : State) (hot inlet outlet : Nat) (h : Bool) (d : Nat) : State :=
  let s1 := { s with pwr := { s.pwr with hot := h, derate := d, hottest := hot % 65536, inlet := inlet % 65536, outlet := outlet % 65536 } }
  if d = s.pwr.derate then s1 else s1.pwrEvent 0xFF 4 (s.shownPs 0xFF) 0

/-- Whether the module is hot after a check: above 100 °C, until the hottest die is at 95 °C. -/
def isHot (s : State) (hot : Nat) : Bool := if 1600 < tempOf hot then true else if tempOf hot ≤ 1520 then false else s.pwr.hot

theorem thermal_eq (s : State) (hot inlet outlet : Nat) : exec (.thermalCheck hot inlet outlet) s = .next (checked s hot inlet outlet (isHot s hot)
    (if isHot s hot then min (if s.pwr.profile = 3 then 10000 else 15000) (s.pwr.derate + 500) else s.pwr.derate - 500)) := rfl

theorem isHot_true (h : 1600 < tempOf hot ∨ (1520 < tempOf hot ∧ s.pwr.hot = true)) : isHot s hot = true := by
  unfold isHot
  by_cases h1 : 1600 < tempOf hot
  · exact if_pos h1
  · obtain ⟨h2, hh⟩ := h.resolve_left h1
    rw [if_neg h1, if_neg (not_le.2 h2), hh]

theorem isHot_false (h : tempOf hot ≤ 1520 ∨ (tempOf hot ≤ 1600 ∧ s.pwr.hot = false)) : isHot s hot = false := by
  unfold isHot
  by_cases h2 : tempOf hot ≤ 1520
  · rw [if_neg (by omega), if_pos h2]
  · obtain ⟨h1, hh⟩ := h.resolve_left h2
    rw [if_neg (not_lt.2 h1), if_neg h2, hh]

theorem thermal_hot (h : 1600 < tempOf hot ∨ (1520 < tempOf hot ∧ s.pwr.hot = true)) : exec (.thermalCheck hot inlet outlet) s =
    .next (checked s hot inlet outlet true (min (if s.pwr.profile = 3 then 10000 else 15000) (s.pwr.derate + 500))) := by
  rw [thermal_eq, isHot_true h, if_pos rfl]

theorem thermal_cool (h : tempOf hot ≤ 1520 ∨ (tempOf hot ≤ 1600 ∧ s.pwr.hot = false)) : exec (.thermalCheck hot inlet outlet) s =
    .next (checked s hot inlet outlet false (s.pwr.derate - 500)) := by
  rw [thermal_eq, isHot_false h, if_neg Bool.false_ne_true]

theorem stop_idle {die : Nat} (h : 40 ≤ die ∨ die ∈ s.pwr.stopped) : exec (.thermalStop die) s = .next s := by
  change execThermalStop die s = _
  unfold execThermalStop
  rw [if_pos (h.imp_right List.contains_iff_mem.2)]

theorem stop_die {die : Nat} (h : die < 40) (hn : die ∉ s.pwr.stopped) : exec (.thermalStop die) s = .next
    ((({ s with pwr := { s.pwr with stopped := s.pwr.stopped ++ [die] } }).raise (FRec.mk0 E_PWR_THERMAL 0 (ident 2 die))).pwrEvent 0xFF 4
      (s.shownPs 0xFF) 0) := by
  change execThermalStop die s = _
  unfold execThermalStop
  rw [if_neg (not_or.2 ⟨not_le.2 h, mt List.contains_iff_mem.1 hn⟩)]

theorem mem_resumed (die k : Nat) : k ∈ s.pwr.stopped.filter (· ≠ die) ↔ k ∈ s.pwr.stopped ∧ k ≠ die := by
  rw [List.mem_filter, decide_eq_true_iff]

end Temperatures

section Clock
variable {s : State}

/-- The module without its reference clock. -/
def unclocked (s : State) : State := { s with pwr := { s.pwr with refGood := false, holdover := s.pwr.locked } }

theorem loss_eq (s : State) : exec .refclkLoss s = .next (if s.pwr.locked && !s.pwr.holdover
    then ((unclocked s).raise (FRec.mk0 E_CLK_HOLDOVER 0 (ident 2 1024))).pwrEvent 0xFF 5 (s.shownPs 0xFF) 0 else unclocked s) := rfl

theorem loss_locked (h : s.pwr.locked = true) (hh : s.pwr.holdover = false) : exec .refclkLoss s =
    .next (((unclocked s).raise (FRec.mk0 E_CLK_HOLDOVER 0 (ident 2 1024))).pwrEvent 0xFF 5 (s.shownPs 0xFF) 0) := by
  rw [loss_eq, h, hh]
  rfl

theorem loss_silent (h : s.pwr.locked = false ∨ s.pwr.holdover = true) : exec .refclkLoss s = .next (unclocked s) := by
  rw [loss_eq, if_neg]
  rcases h with h | h
  · rw [h, Bool.false_and]; exact Bool.false_ne_true
  · rw [h, Bool.not_true, Bool.and_false]; exact Bool.false_ne_true

end Clock

/-- Settles O49: it holds. -/
theorem limitsTemperaturesAndClock : Obligations.LimitsTemperaturesAndClock := by
  unfold Obligations.LimitsTemperaturesAndClock
  intro s
  refine ⟨?measure, ?governor, ?thermal, ?dies, loss_locked, loss_silent, rfl⟩
  case measure =>
    intro watts mean volts
    obtain ⟨h1, h2, h3⟩ := measured_limiting s.pwr watts mean volts
    exact ⟨{ s with pwr := measured s.pwr watts mean volts }, rfl, rfl, measured_throttle .., h1, h2, h3, fun b hb => Packing.volts_at volts b hb⟩
  case governor =>
    intro p limit ev tell
    refine ⟨governor_holds, fun h hb => ⟨fun h1 h2 => ?_, fun h1 => ?_, fun h2 => ?_⟩, governor_rests, fun h hm =>
      ⟨governor_frees h hm, fun h1 ha hv => ?_, fun h2 hv ha => ?_, fun h1 h2 hc => ?_⟩⟩
    · exact (governor_caps h hb).trans (congrArg _ (congrArg (told s) (capUp_even p h1 h2)))
    · exact (governor_caps h hb).trans (congrArg _ (congrArg (told s) (capUp_vector p h1)))
    · exact (governor_caps h hb).trans (congrArg _ (congrArg (told s) (capUp_matrix p h2)))
    · exact (governor_lifts h hm (Or.inr hv)).trans (congrArg _ (congrArg (told s) (capDown_vector p h1 ha)))
    · exact (governor_lifts h hm (Or.inl ha)).trans (congrArg _ (congrArg (told s) (capDown_matrix p h2 hv)))
    · exact (governor_lifts h hm hc).trans (congrArg _ (congrArg (told s) (capDown_even p h1 h2)))
  case thermal =>
    intro hot inlet outlet p temp top with_
    exact ⟨thermal_hot, thermal_cool⟩
  case dies =>
    intro die
    exact ⟨stop_idle, stop_die, _, rfl, rfl, mem_resumed die⟩

end Sys2Proof.Machine.PowerLimits

/-! SUPPORT. Reset, and each step of start-up in its turn. -/
namespace Sys2Proof.Machine.StartUpOrder

/-- Start-up stands at a step and has not failed. -/
def Live (s : State) (n : Nat) : Prop := s.sec.step = n ∧ s.sec.failed = false

section Waits
variable {s : State}

theorem waits {n : Nat} {s : State} (h : ¬Live s n) : (!s.atStep n) = true := (StartUp.nat_iff s n).2 h
theorem goes {n : Nat} {s : State} (h : Live s n) : ¬(!s.atStep n) = true := fun k => (StartUp.nat_iff s n).1 k h

theorem bootRom_waits (a b : Bool) (h : ¬Live s 2) : exec (.bootRom a b) s = .next s := congrArg _ (if_pos (waits h))
theorem verify_waits (h : ¬Live s 3) : exec .verify s = .next s := congrArg _ (if_pos (waits h))
theorem train_waits (bad : List Nat) (h : ¬Live s 4) : exec (.train bad) s = .next s := congrArg _ (if_pos (waits h))
theorem selftest_waits (bad : List Nat) (h : ¬Live s 5) : exec (.selftest bad) s = .next s := congrArg _ (if_pos (waits h))
theorem courts_waits (h : ¬Live s 6) : exec .courts s = .next s := congrArg _ (if_pos (waits h))
theorem platform_waits (ok : Bool) (h : ¬Live s 7) : exec (.platform ok) s = .next s := congrArg _ (if_pos (waits h))
theorem serve_waits (h : ¬Live s 8 ∨ s.sec.ready = true) : exec .serve s = .next s := congrArg _ (if_pos (h.imp_left waits))

theorem release_waits (h : ¬Live s 1 ∨ s.pwr.refGood = false) : exec .resetRelease s = .next s :=
  congrArg _ (if_pos (h.imp waits (fun k => by rw [k]; rfl)))

end Waits

section Reset
variable {s : State}

theorem assert_high (s : State) : exec (.resetAssert true true) s = .next { s with sec := { s.sec with resetN := true, pgood := true } } := rfl

/-- The module at step 1 after a low input. -/
def lowered (s : State) (n p : Bool) : State := ({ s with sec := { s.sec with resetN := n, pgood := p } }).restart

theorem assert_low {n p : Bool} (h : ¬(n = true ∧ p = true)) : exec (.resetAssert n p) s = .next (lowered s n p) := by
  cases n <;> cases p
  · rfl
  · rfl
  · rfl
  · exact absurd ⟨rfl, rfl⟩ h

theorem release_starts (h : Live s 1) (hr : s.pwr.refGood = true) : exec .resetRelease s = .next { s with
    sec := { s.sec with step := 2, resetN := true, pgood := true, bootCount := s.sec.bootCount + 1 }, pwr := { s.pwr with locked := true } } :=
  congrArg _ (if_neg (not_or.2 ⟨goes h, by rw [hr]; exact Bool.false_ne_true⟩))

end Reset

section Early
variable {s : State}

/-- A bundle runs from a bank, the other pair ready where none is retired. -/
def booted (s : State) (b : List Byte) (bank : Bool) : State := { s with
  sec := { s.sec with step := 4, bank := bank, fwVersion := leAt b 8 4, fwDigest := bytesAt b 64 64 }
  ump := { s.ump with standby := if s.flt.pairsRetired = 0 then 2 else 0 } }

theorem bootRom_eq (h : Live s 2) (a b : Bool) : exec (.bootRom a b) s = .next (
    let s1 := if a then s else s.retirePair 0
    let s2 := if b then s1 else s1.retirePair 1
    if !a && !b then s2.bootFail E_UMP_FAULT else ({ s2 with ump := { s2.ump with acting := b2n (!a), standby := 0 } }).toStep 3) :=
  congrArg _ (if_neg (goes h))

theorem verify_current (h : Live s 3) (hc : s.bundleCode s.currentBank = 0) :
    exec .verify s = .next (booted s s.currentBank s.sec.bank) := congrArg _ ((if_neg (goes h)).trans (if_pos hc))
theorem verify_other (h : Live s 3) (hc : s.bundleCode s.currentBank ≠ 0) (ho : s.bundleCode s.otherBank = 0) :
    exec .verify s = .next (booted s s.otherBank (!s.sec.bank)) := congrArg _ ((if_neg (goes h)).trans ((if_neg hc).trans (if_pos ho)))
theorem verify_recovers (h : Live s 3) (hc : s.bundleCode s.currentBank ≠ 0) (ho : s.bundleCode s.otherBank ≠ 0) : exec .verify s = .next { s with
    sec := { s.sec with step := 9, fault := s.bundleCode s.otherBank }, smb := { s.smb with alert := true } } :=
  congrArg _ ((if_neg (goes h)).trans ((if_neg hc).trans (if_neg ho)))

/-- Every channel's key written. -/
def keyed (s : State) : State :=
  ((List.range 512).foldl (fun s c => s.modChan c (fun x => { x with srKey := BitVec.ofNat 64 (s.fv c) })) s).drawn

theorem keyed_chan (s : State) : keyed s = { s with mem := { s.mem with chans := (keyed s).mem.chans }, free := s.free + 1 } ∧
    ∀ c, (keyed s).chan c = if c < 512 then { s.chan c with srKey := BitVec.ofNat 64 (s.fv c) } else s.chan c := by
  obtain ⟨u, hu, hf, hc⟩ := StartUp.sr_fold s (List.range 512) s rfl
  have hk : keyed s = u.drawn := congrArg State.drawn hu
  rw [hk]
  refine ⟨congrArg State.drawn hf, fun c => (hc c : u.drawn.chan c = _).trans (if_congr List.mem_range rfl rfl)⟩

theorem train_eq (h : Live s 4) (bad : List Nat) : exec (.train bad) s = .next (((bad.filter (· < 512)).foldl State.autoMapout (keyed s)).toStep 5) :=
  congrArg _ (if_neg (goes h))

theorem selftest_eq (h : Live s 5) (bad : List Nat) :
    exec (.selftest bad) s = .next ((bad.foldl (fun u p => (u.declareFailed p).remapSpare (p / 26)) s).toStep 6) := congrArg _ (if_neg (goes h))

end Early

section Courts

theorem courtStep_eq (img : CfgImage) : StartUp.courtStep img = img.boot := by
  funext s c
  unfold StartUp.courtStep CfgImage.boot
  cases img.court c <;> rfl

/-- The courts of an image created, then the roster's block. -/
def courtsMade (u : State) (img : CfgImage) : State := (((List.range 8).foldl img.boot (u.writeQuotas .empty img)).areaAny .roster 262144).1
/-- The session certificate issued. -/
def certified (u : State) : State := ({ u with sec := { u.sec with certGen := u.activeGen } }).toStep 7

theorem tailC_eq (img : CfgImage) (u : State) : StartUp.tailC img u = certified (courtsMade u img) := by
  unfold StartUp.tailC courtsMade
  rw [courtStep_eq]
  rfl

/-- The image of a slot with its courts as its bytes give them (16 R435). -/
def parsed (img : CfgImage) : CfgImage := { img with courts := (cfgParse img.bytes).courts }

theorem courts_eq {s : State} (h : Live s 6) : exec .courts s = .next (certified (courtsMade
    (({ s with ump := { s.ump with active := s.ump.committed } }).setSlot s.ump.committed
      { s.slotAt s.ump.committed with img := parsed (s.slotAt s.ump.committed).img }) (parsed (s.slotAt s.ump.committed).img))) :=
  (StartUp.courts_eq s h).trans (congrArg _ (tailC_eq _ _))

theorem certified_eq (u : State) : certified u =
    { { u with sec := { u.sec with certGen := u.activeGen } } with sec := { { u.sec with certGen := u.activeGen } with step := 7 } } := rfl

end Courts

section Late
variable {s : State}

theorem platform_up (h : Live s 7) : exec (.platform true) s = .next (s.toStep 8) := congrArg _ (if_neg (goes h))

/-- The mailboxes of applications closed (R482). -/
def appsClosed (s : State) : State := (List.range 64).foldl (fun s m => s.modMbx m (fun b => { b with closed := true })) s

theorem platform_down (h : Live s 7) : exec (.platform false) s =
    .next (((appsClosed s).openRecord (FRec.mk0 0 0 (ident 2 1024))).toStep 8) := by
  change execPlatform false s = _
  unfold execPlatform
  rw [if_neg (goes h)]
  exact congrArg _ (if_neg Bool.false_ne_true)

/-- The field rails open. -/
def opened (s : State) : State :=
  ((List.range 16).filter (fun k => decide (2 ≤ s.roleOf (upPort k)) || decide (2 ≤ s.roleOf (downPort k)))).foldl State.openRail
    { s with sec := { s.sec with ready := true } }

theorem openRail_recorded (s : State) (k : Nat) : (s.openRail k).ring.recorded = s.ring.recorded := rfl

theorem opened_recorded (s : State) : (opened s).ring.recorded = s.ring.recorded :=
  StepForm.foldl_inv (fun t : State => t.ring.recorded = s.ring.recorded) _ (fun t k ht => (openRail_recorded t k).trans ht) _ _ rfl

theorem serve_eq (h : Live s 8) (hr : s.sec.ready = false) : exec .serve s = .next (s.ring.recorded.elim (opened s).mark
    (fun p => (({ opened s with ring := { (opened s).ring with joining := some (none, p) } }).joinOn).mark)) := by
  refine congrArg _ ((if_neg (not_or.2 ⟨goes h, ne_true_of_eq_false hr⟩)).trans ?_)
  rw [← opened_recorded s]
  change (match (opened s).ring.recorded with
    | none => (opened s).mark
    | some p => (({ opened s with ring := { (opened s).ring with joining := some (none, p) } }).joinOn).mark) = _
  cases (opened s).ring.recorded <;> rfl

/-- Start-up has taken too long, or is still awaited (R482). -/
def Late (s : State) : Prop :=
  (2 ≤ s.sec.step ∨ (s.sec.resetN = true ∧ s.sec.pgood = true)) ∧ s.sec.step ≠ 9 ∧ s.sec.ready = false ∧ s.sec.failed = false

theorem not_late_iff : ((s.sec.step < 2 ∧ (!(s.sec.resetN && s.sec.pgood)) = true) ∨ s.sec.ready = true ∨ s.sec.failed = true ∨ s.sec.step = 9) ↔
    ¬Late s := by
  unfold Late
  rw [Bool.not_eq_true', ← Bool.not_eq_true, Bool.and_eq_true, ← not_le, ← not_or]
  simp only [not_and_or, Bool.not_eq_false, ne_eq, not_not]
  tauto

theorem timeout_fails (h : Late s) : exec .startupTimeout s = .next { s with sec := { s.sec with failed := true } } :=
  congrArg _ (if_neg (fun k => not_late_iff.1 k h))
theorem timeout_idle (h : ¬Late s) : exec .startupTimeout s = .next s := congrArg _ (if_pos (not_late_iff.2 h))

end Late

/-- Settles O50: it holds. -/
theorem startUpSteps : Obligations.StartUpSteps := by
  unfold Obligations.StartUpSteps
  intro s live go
  refine ⟨assert_high s, fun n p h => ⟨lowered s n p, assert_low h, rfl, rfl, rfl, rfl, rfl, ⟨rfl, rfl, rfl, rfl, rfl⟩, rfl, rfl, rfl, rfl, rfl, rfl,
    rfl, rfl, rfl, rfl, rfl⟩, release_starts, release_waits, ?bootRom, ?verify, ?train, selftest_eq, ?courts, ?platform, ?serve, ?waits,
    timeout_fails, timeout_idle⟩
  case bootRom => exact fun h => ⟨bootRom_eq h true true, bootRom_eq h true false, bootRom_eq h false true, bootRom_eq h false false⟩
  case verify => exact fun h => ⟨verify_current h, verify_other h, verify_recovers h⟩
  case train => exact fun h bad => ⟨keyed s, (keyed_chan s).1, (keyed_chan s).2, train_eq h bad⟩
  case courts =>
    intro h k x img u0 u1 u2
    exact (courts_eq h).trans (congrArg _ (certified_eq u2))
  case platform =>
    intro h
    refine ⟨platform_up h, ?_⟩
    obtain ⟨u, hu, hf, hm⟩ := StartUp.mbx_fold (List.range 64) s
    have hc : appsClosed s = u := hu
    refine ⟨u, (platform_down h).trans (by rw [hc]; rfl), hf, fun m => (hm m).trans ?_⟩
    rw [decide_eq_decide.2 List.mem_range]
  case serve =>
    intro h hr fields s1
    exact ⟨fun hn => (serve_eq h hr).trans (by rw [hn]; rfl), fun p hp => (serve_eq h hr).trans (by rw [hp]; rfl)⟩
  case waits =>
    exact fun a b bad ok => ⟨bootRom_waits a b, verify_waits, train_waits bad, selftest_waits bad, courts_waits, platform_waits ok, serve_waits⟩

end Sys2Proof.Machine.StartUpOrder

/-! SUPPORT. SMBus reads and transfers, management connections, and the ends of a challenge and an unlock. -/
namespace Sys2Proof.Machine.SMBusEvents

section Reads
variable {s : State} {pec : Bool}

/-- A transaction with a valid PEC, from step 2 on (R525). -/
def Up (s : State) (pec : Bool) : Prop := pec = true ∧ 2 ≤ s.sec.step

theorem smbUp_iff : s.smbUp pec = true ↔ Up s pec := by
  unfold State.smbUp Up
  rw [Bool.and_eq_true, decide_eq_true_iff]

theorem not_smbUp (h : ¬Up s pec) : (!s.smbUp pec) = true := by
  rw [Bool.not_eq_true', Bool.eq_false_iff]
  exact mt smbUp_iff.1 h

theorem not_not_smbUp (h : Up s pec) : ¬(!s.smbUp pec) = true := by
  rw [smbUp_iff.2 h]
  exact Bool.false_ne_true

theorem read_up (h : Up s pec) (bs : List Byte) : s.smbRead pec bs = s.smbOut bs := if_pos (smbUp_iff.2 h)
theorem read_nack (h : ¬Up s pec) (bs : List Byte) : s.smbRead pec bs = s.smbNack := if_neg (mt smbUp_iff.1 h)

/-- The number in block `i` of a list of two-byte blocks. -/
theorem leAt_pairs (g : Nat → Nat) (i : Nat) (hi : i < 5) : leAt ((List.range 5).flatMap (fun i => leBytes 2 (g i))) (2 * i) 2 = g i % 256 ^ 2 := by
  interval_cases i <;> exact leNat_leBytes 2 _

/-- The voltages of the blades, twelve bits each, in two bytes each. -/
def volts (s : State) : List Byte := (List.range 5).flatMap (fun i => leBytes 2 (bitsOf s.pwr.blades.toNat (12 * i + 11) (12 * i)))

theorem volts_at (s : State) (i : Nat) (hi : i < 5) : leAt (volts s) (2 * i) 2 = s.pwr.blades.toNat / 2 ^ (12 * i) % 4096 := by
  refine (leAt_pairs _ i hi).trans ?_
  unfold bitsOf
  rw [show 12 * i + 11 + 1 - 12 * i = 12 by omega]
  exact Nat.mod_eq_of_lt (lt_trans (Nat.mod_lt _ (by decide)) (by decide))

theorem addr_eq (d : List Byte) (h : Up s pec) : exec (.mgmtAddr pec d) s =
    .next (if d.length = 12 ∧ s.sec.step ≠ 9 then ({ s with smb := { s.smb with addr := d } }).smbAck else s.smbNack) := by
  change execMgmtAddr pec d s = _
  unfold execMgmtAddr
  by_cases hd : d.length = 12 ∧ s.sec.step ≠ 9
  · rw [if_pos hd, if_neg (not_or.2 ⟨not_not_smbUp h, not_or.2 ⟨hd.2, not_not.2 hd.1⟩⟩)]
  · rw [if_neg hd, if_pos (Or.inr ((not_and_or.1 hd).symm.imp_left not_not.1))]

theorem addr_nack (d : List Byte) (h : ¬Up s pec) : exec (.mgmtAddr pec d) s = .next s.smbNack := congrArg _ (if_pos (Or.inl (not_smbUp h)))

theorem alert_eq (h : Up s pec) : exec (.smbAlertResponse pec) s =
    .next (if s.smb.alert = true then ({ s with smb := { s.smb with alert := false } }).smbOut [0xA4] else s.smbNack) := by
  change execSmbAlertResponse pec s = _
  unfold execSmbAlertResponse
  by_cases ha : s.smb.alert = true
  · rw [if_pos ha, if_neg (not_or.2 ⟨not_not_smbUp h, by rw [ha]; exact Bool.false_ne_true⟩)]
  · rw [if_neg ha, if_pos (Or.inr ((Bool.not_eq_true' _).mpr (Bool.eq_false_iff.2 ha)))]

theorem alert_nack (h : ¬Up s pec) : exec (.smbAlertResponse pec) s = .next s.smbNack := congrArg _ (if_pos (Or.inl (not_smbUp h)))

end Reads

section Transfers
variable {s : State} {pec : Bool} {d : List Byte}

/-- The kind of transfer that is taken now: a bundle in recovery, else an anchor change (R489, R495). -/
def Taken (s : State) (kind : Nat) : Prop := (s.sec.step = 9 ∧ kind = 0) ∨ (s.sec.step ≠ 9 ∧ kind = 1)

theorem kindOk_iff (kind : Nat) : s.kindOk kind = true ↔ Taken s kind := by
  unfold State.kindOk Taken
  by_cases h : s.sec.step = 9
  · rw [if_pos h, decide_eq_true_iff]
    exact ⟨fun k => Or.inl ⟨h, k⟩, fun k => k.elim (·.2) (fun c => absurd h c.1)⟩
  · rw [if_neg h, decide_eq_true_iff]
    exact ⟨fun k => Or.inr ⟨h, k⟩, fun k => k.elim (fun c => absurd c.1 h) (·.2)⟩

theorem not_kindOk {kind : Nat} (h : ¬Taken s kind) : (!s.kindOk kind) = true := by
  rw [Bool.not_eq_true', Bool.eq_false_iff]
  exact mt (kindOk_iff kind).1 h
theorem not_not_kindOk {kind : Nat} (h : Taken s kind) : ¬(!s.kindOk kind) = true := by
  rw [(kindOk_iff kind).2 h]
  exact Bool.false_ne_true

/-- What has come of a transfer of a kind. -/
def sofar (s : State) (kind : Nat) : Mem := match s.smb.xfer with | some (k, m) => if k = kind then m else [] | none => []

theorem sofar_same {kind : Nat} {m : Mem} (h : s.smb.xfer = some (kind, m)) : sofar s kind = m := by
  unfold sofar
  rw [h]
  exact if_pos rfl
theorem sofar_other {kind : Nat} (h : ∀ m, s.smb.xfer ≠ some (kind, m)) : sofar s kind = [] := by
  unfold sofar
  split
  next k m hx =>
    refine if_neg fun hk => h m ?_
    rw [hx, hk]
  next => rfl

theorem data_taken (hu : Up s pec) (h6 : 6 ≤ d.length) (h255 : d.length ≤ 255) (hk : Taken s (leAt d 0 1)) : exec (.xferData pec d) s =
    .next ({ s with smb := { s.smb with
      xfer := some (leAt d 0 1, Mem.wrBytes (sofar s (leAt d 0 1)) (leAt d 1 4) (d.drop 5)) } }).smbAck :=
  congrArg _ (if_neg (not_or.2 ⟨not_not_smbUp hu, not_or.2 ⟨not_lt.2 h6, not_or.2 ⟨not_lt.2 h255, not_not_kindOk hk⟩⟩⟩))

theorem data_nack (h : ¬Up s pec ∨ d.length < 6 ∨ 255 < d.length ∨ ¬Taken s (leAt d 0 1)) : exec (.xferData pec d) s = .next s.smbNack :=
  congrArg _ (if_pos (h.imp not_smbUp (Or.imp_right (Or.imp_right not_kindOk))))

/-- What a whole transfer does: a bundle goes to bank A, an anchor change is applied, or a bit tells that it was refused (R488, R495). -/
def ended (s : State) (d : List Byte) (m : Mem) : State :=
  let b := Mem.rdBytes m 0 (leAt d 1 4)
  let s1 := { s with smb := { s.smb with xfer := none } }
  if leAt d 0 1 = 0 then
    if s.bundleCode b = 0 then ({ s1 with sec := { s1.sec with bankA := b } }).restart.smbAck
    else ({ s1 with smb := { s1.smb with bundleRefused := true } }).smbAck
  else if s.anchorOk b then
    let a := if leAt b 1 1 = 0 then AMap.insert s1.sec.anchors (leAt b 0 1) (bytesAt b 4 64) else AMap.erase s1.sec.anchors (leAt b 0 1)
    ({ s1 with smb := { s1.smb with anchorRefused := false }, sec := { s1.sec with anchors := a } }).smbAck
  else ({ s1 with smb := { s1.smb with anchorRefused := true } }).smbAck

theorem end_nack (h : ¬Up s pec ∨ d.length ≠ 5 ∨ ¬Taken s (leAt d 0 1) ∨ ∀ m, s.smb.xfer ≠ some (leAt d 0 1, m)) :
    exec (.xferEnd pec d) s = .next s.smbNack := by
  change execXferEnd pec d s = _
  unfold execXferEnd
  refine congrArg _ ?_
  cases hx : s.smb.xfer with
  | none => rfl
  | some e =>
    refine if_pos ?_
    rcases h with h | h | h | h
    · exact Or.inl (not_smbUp h)
    · exact Or.inr (Or.inl h)
    · exact Or.inr (Or.inr (Or.inr (not_kindOk h)))
    · refine Or.inr (Or.inr (Or.inl fun hk => h e.2 ?_))
      rw [hx, ← hk]

theorem end_taken {m : Mem} (hu : Up s pec) (hx : s.smb.xfer = some (leAt d 0 1, m)) (h5 : d.length = 5) (hk : Taken s (leAt d 0 1)) :
    exec (.xferEnd pec d) s = .next (ended s d m) := by
  change execXferEnd pec d s = _
  unfold execXferEnd
  simp only [hx]
  exact congrArg _ (if_neg (not_or.2 ⟨not_not_smbUp hu, not_or.2 ⟨not_not.2 h5, not_or.2 ⟨not_not.2 rfl, not_not_kindOk hk⟩⟩⟩))

variable {m : Mem}

theorem ended_bundle (h0 : leAt d 0 1 = 0) (hb : s.bundleCode (Mem.rdBytes m 0 (leAt d 1 4)) = 0) : ended s d m =
    ({ s with smb := { s.smb with xfer := none }, sec := { s.sec with bankA := Mem.rdBytes m 0 (leAt d 1 4) } }).restart.smbAck :=
  (if_pos h0).trans (if_pos hb)
theorem ended_refused (h0 : leAt d 0 1 = 0) (hb : s.bundleCode (Mem.rdBytes m 0 (leAt d 1 4)) ≠ 0) : ended s d m =
    ({ s with smb := { s.smb with xfer := none, bundleRefused := true } }).smbAck := (if_pos h0).trans (if_neg hb)
theorem ended_unchanged (h1 : leAt d 0 1 = 1) (hb : s.anchorOk (Mem.rdBytes m 0 (leAt d 1 4)) = false) : ended s d m =
    ({ s with smb := { s.smb with xfer := none, anchorRefused := true } }).smbAck :=
  (if_neg (by omega)).trans (if_neg (ne_true_of_eq_false hb))

/-- The anchors after a change: one more, or one less. -/
def changed (s : State) (b : List Byte) : AMap (List Byte) :=
  if leAt b 1 1 = 0 then AMap.insert s.sec.anchors (leAt b 0 1) (bytesAt b 4 64) else AMap.erase s.sec.anchors (leAt b 0 1)

theorem changed_find (s : State) (b : List Byte) (k : Nat) : AMap.find? (changed s b) k =
    if k = leAt b 0 1 then (if leAt b 1 1 = 0 then some (bytesAt b 4 64) else none) else AMap.find? s.sec.anchors k := by
  unfold changed
  by_cases h : leAt b 1 1 = 0
  · rw [if_pos h, if_pos h, AMap.find_insert]
  · rw [if_neg h, if_neg h, AMap.find_erase]

theorem ended_changed (h1 : leAt d 0 1 = 1) (hb : s.anchorOk (Mem.rdBytes m 0 (leAt d 1 4)) = true) : ended s d m =
    ({ s with smb := { s.smb with xfer := none, anchorRefused := false }, sec := { s.sec with anchors := changed s (Mem.rdBytes m 0 (leAt d 1 4)) } }).smbAck :=
  (if_neg (by omega)).trans (if_pos hb)

end Transfers

section Unlocks
variable {s : State}

theorem challenge_end {ch : List Byte} {e : Nat} (h : s.sec.challenge = some (ch, e)) : exec .debugChallengeExpiry s =
    .next (if e ≤ s.counter.toNat then { s with sec := { s.sec with challenge := none, token := none } } else s) := by
  change execDebugChallengeExpiry s = _
  unfold execDebugChallengeExpiry
  simp only [h]

theorem challenge_none (h : s.sec.challenge = none) : exec .debugChallengeExpiry s = .next s := by
  change execDebugChallengeExpiry s = _
  unfold execDebugChallengeExpiry
  rw [h]

theorem unlock_end (s : State) : exec .debugUnlockExpiry s = .next (if s.sec.unlocked ≠ none ∧ s.sec.unlockEnd ≤ s.counter.toNat
    then { s with sec := { s.sec with unlocked := none, unlockEnd := 0 } } else s) :=
  congrArg _ (if_congr (and_congr_left' Option.isSome_iff_ne_none) rfl rfl)

end Unlocks

/-- Settles O51: it holds. -/
theorem smBusAndDebug : Obligations.SMBusAndDebug := by
  unfold Obligations.SMBusAndDebug
  intro s up nack out ack
  refine ⟨?reads, ?nacks, ?transfers, ?connects, ?closes, fun ch e h => challenge_end h, challenge_none, unlock_end s⟩
  case reads =>
    intro pec h
    exact ⟨congrArg _ (read_up h _), ⟨volts s, congrArg _ (read_up h _), rfl, volts_at s⟩, congrArg _ (read_up h _), fun d => addr_eq d h, alert_eq h⟩
  case nacks =>
    intro pec d h
    exact ⟨congrArg _ (read_nack h _), congrArg _ (read_nack h _), congrArg _ (read_nack h _), addr_nack d h, alert_nack h, data_nack (Or.inl h),
      end_nack (Or.inl h)⟩
  case transfers =>
    intro pec d h kind takes
    refine ⟨fun h6 h255 hk => ⟨fun m hm => ?_, fun hn => ?_⟩, fun hn => data_nack (Or.inr hn), fun hn => end_nack (Or.inr hn), ?_⟩
    · exact (data_taken h h6 h255 hk).trans (by rw [sofar_same hm]; rfl)
    · exact (data_taken h h6 h255 hk).trans (by rw [sofar_other hn]; rfl)
    · intro m hm h5 hk b s1
      have hx := end_taken h hm h5 hk
      exact ⟨fun h0 hb => hx.trans (congrArg _ (ended_bundle h0 hb)), fun h0 hb => hx.trans (congrArg _ (ended_refused h0 hb)),
        fun h1 hb => hx.trans (congrArg _ (ended_unchanged h1 hb)), fun h1 hb => ⟨_, hx.trans (congrArg _ (ended_changed h1 hb)), rfl, changed_find s b⟩⟩
  case connects =>
    intro anchor known
    refine ⟨fun h => ?_, fun m hk h1 h2 hc hl => ⟨s.modMbx m (fun b => { b with closed := false }), ?_, rfl, fun j => State.mbx_modMbx s m j _⟩⟩
    · rcases h with h | h
      · refine UmpirePairs.connect_refused ((not_and_or.1 h).imp (fun k => Bool.eq_false_iff.2 k) (fun k e he hx => k ⟨e, he, hx⟩))
      · exact UmpirePairs.connect_full h
    · exact (UmpirePairs.connect_known hk.1 hk.2).trans (by rw [UmpirePairs.freeMgmt_some h1 h2 hc hl]; rfl)
  case closes =>
    intro m
    refine ⟨fun h => (UmpirePairs.close_eq m).trans (congrArg _ (if_neg ?_)), fun h1 h2 hc =>
      ⟨_, (UmpirePairs.close_eq m).trans (congrArg _ (if_pos ⟨h1, h2, hc⟩)), rfl, fun j => State.mbx_modMbx s m j _⟩⟩
    rintro ⟨h1, h2, hc⟩
    rcases h with h | h | h
    · omega
    · omega
    · exact ne_true_of_eq_false hc h

end Sys2Proof.Machine.SMBusEvents

/-! SUPPORT. Fault records taken in and acknowledged, audits, and folds of the ledger. -/
namespace Sys2Proof.Machine.RecordEvents

section TakeIn
variable {s : State} {unit : Nat}

theorem takeIn_none (h : ∀ e ∈ (s.unitQ unit).recs, e.2 = true) : exec (.faultRecordTakeIn unit) s = .next s := by
  change execFaultRecordTakeIn unit s = _
  unfold execFaultRecordTakeIn State.takeUnit
  rw [Folding.takeFirst_none _ h]
  rfl

/-- A unit's record marked as taken in. -/
def marked (s : State) (unit : Nat) (recs : List (FRec × Bool)) : State := s.setUnit unit { s.unitQ unit with recs := recs }

theorem takeIn_some {pre post : List (FRec × Bool)} {r : FRec} (h : (s.unitQ unit).recs = pre ++ (r, false) :: post) (hp : ∀ e ∈ pre, e.2 = true) :
    exec (.faultRecordTakeIn unit) s = .next ((marked s unit (pre ++ (r, true) :: post)).takeIn r) := by
  change execFaultRecordTakeIn unit s = _
  unfold execFaultRecordTakeIn State.takeUnit
  rw [h, Folding.takeFirst_some _ _ _ hp]
  rfl

/-- A record logged, the alert raised where it is of severity 2 (R500). -/
def logged (s : State) (r : FRec) : State := { s with
  flt := s.flt.keep (s.stampRec r), smb := { s.smb with alert := s.smb.alert || decide (r.severity = 2) } }

/-- The rest of a record taken in is told to the mailboxes (R514). -/
theorem takeIn_frame (s : State) (r : FRec) : InUmp (logged s r) (s.takeIn r) := by
  have h := (logged s r).eventMgmt_frame 0x0D02 (s.stampRec r).ctx (s.stampRec r).bytes
  change InUmp (logged s r) (if (s.stampRec r).ctx < 1024
    then ((logged s r).eventMgmt 0x0D02 (s.stampRec r).ctx (s.stampRec r).bytes).eventCtx (s.stampRec r).ctx 0x0D02 (s.stampRec r).bytes
    else (logged s r).eventMgmt 0x0D02 (s.stampRec r).ctx (s.stampRec r).bytes)
  split
  · exact InUmp.trans _ _ _ h (State.eventCtx_frame _ _ _ _)
  · exact h

/-- The log holds a new record under its number, while it has room (R500). -/
theorem keep_log (f : FltSt) (r : FRec) (h : f.log.length < 65536) (k : Nat) :
    AMap.find? (f.keep r).log k = if k = r.number then some r else AMap.find? f.log k := by
  have hl := Folding.insert_len f.log r.number r
  exact (congrArg (AMap.find? · k) (if_neg (by omega))).trans (AMap.find_insert _ _ _ _)

theorem unitQ_marked (s : State) (unit : Nat) (recs : List (FRec × Bool)) (k : Nat) :
    (marked s unit recs).unitQ k = if k = unit then { s.unitQ unit with recs := recs } else s.unitQ k := AMap.getD_insert _ _ _ _ _

theorem takeIn_flt (s : State) (r : FRec) : (s.takeIn r).flt = s.flt.keep (s.stampRec r) := by
  rw [takeIn_frame s r]
  rfl

end TakeIn

section Ack
variable {s : State} {unit : Nat}

theorem ack_none (h : ∀ r rest, (s.unitQ unit).recs ≠ (r, true) :: rest) : exec (.faultRecordAck unit) s = .next s := by
  change execFaultRecordAck unit s = _
  unfold execFaultRecordAck
  extract_lets q
  split
  next r rest hq => exact absurd hq (h r rest)
  next => rfl

theorem ack_some {r : FRec} {rest : List (FRec × Bool)} (h : (s.unitQ unit).recs = (r, true) :: rest) : exec (.faultRecordAck unit) s =
    .next (if (s.unitQ unit).suppressed = 0 then s.setUnit unit { s.unitQ unit with recs := rest }
      else s.setUnit unit ⟨rest ++ [((s.unitQ unit).overflow unit, false)], 0, 0, 0⟩) := by
  change execFaultRecordAck unit s = _
  unfold execFaultRecordAck
  simp only [h]

end Ack

section Audit
variable {s : State} {k : Nat}

theorem audit_out (late : Bool) (h : 7 ≤ k) : exec (.auditPass k late) s = .next s := congrArg _ (if_pos h)

theorem audit_late (h : k < 7) : exec (.auditPass k true) s = .next (s.setAud k { s.aud k with late := (s.aud k).late + 1 }) :=
  congrArg _ (if_neg (not_le.2 h))

theorem audit_pass (h : k < 7) : exec (.auditPass k false) s =
    .next (((s.balances k).filter (fun b => decide (b.2 ≠ 0))).foldl (fun u b => u.raise (mismatchRec k b))
      (s.setAud k ⟨(s.aud k).passes + 1, (s.aud k).mismatches + ((s.balances k).filter (fun b => decide (b.2 ≠ 0))).length, (s.aud k).late, s.counter⟩)) := by
  change execAuditPass k false s = _
  unfold execAuditPass
  rw [if_neg (not_le.2 h), if_neg Bool.false_ne_true]

end Audit

section Ledger

/-- The state that a fold starts from: what is counted as energy has been counted. -/
def counted (s : State) : State := s.countIdle.countUnstated

/-- A fold's ledger, from the accumulators of a state (R379). -/
def foldedLed (u : State) : LedgerSt := u.led.acc.foldl (fun l e => l.foldOne (u.ledLineOf (e.1 % 65536 / 16)) e.1 e.2) u.led

theorem foldLedger_eq (s : State) : s.foldLedger = { counted s with led := { foldedLed (counted s) with folds := (foldedLed (counted s)).folds + 1 } } := rfl

theorem counted_frame (s : State) : counted s = { s with led := (counted s).led, free := s.free + 1 } := rfl

theorem counted_lines (s : State) : (counted s).led.lines = s.led.lines ∧ (counted s).led.folds = s.led.folds := ⟨rfl, rfl⟩

theorem foldedLed_folds (u : State) : (foldedLed u).folds = u.led.folds := by
  unfold foldedLed
  rw [Folding.foldAll_frame (fun key => u.ledLineOf (key % 65536 / 16))]

theorem foldedLed_acc (u : State) (hw : AMap.wf u.led.acc = true) (k : Nat) :
    AMap.getD (foldedLed u).acc 0 k = AMap.getD u.led.acc 0 k % foldUnit (k % 16) := by
  refine (Folding.foldAll_acc (fun key => u.ledLineOf (key % 65536 / 16)) u.led.acc ((AMap.wf_iff _).1 hw) u.led k).trans ?_
  unfold AMap.getD
  cases h : AMap.find? u.led.acc k with
  | none => exact (Nat.zero_mod _).symm
  | some a => rfl

/-- A line and an item from the key of a ledger line. -/
theorem lineKey_inj {a b c d : Nat} (hb : b < 16) (hd : d < 16) : lineKey a b = lineKey c d ↔ a = c ∧ b = d := by
  unfold lineKey
  omega

theorem gain_eq (f : Nat → Nat) (line item : Nat) (hi : item < 16) (es : List (Nat × Nat)) : Folding.gain f (lineKey line item) es =
    ((es.filter (fun e => decide (f e.1 = line) && decide (e.1 % 16 = item))).map (fun e => BitVec.ofNat 64 (e.2 / foldUnit item))).foldr
      (· + ·) 0 := by
  induction es with
  | nil => rfl
  | cons e es ih =>
    have hm : e.1 % 16 < 16 := Nat.mod_lt _ (by decide)
    change (if lineKey line item = lineKey (f e.1) (e.1 % 16) then BitVec.ofNat 64 (e.2 / foldUnit (e.1 % 16)) else 0) + Folding.gain f (lineKey line item) es = _
    rw [ih]
    by_cases h : f e.1 = line ∧ e.1 % 16 = item
    · rw [if_pos ((lineKey_inj hi hm).2 ⟨h.1.symm, h.2.symm⟩), List.filter_cons_of_pos (by simp [h]), h.2]
      rfl
    · rw [if_neg (fun k => h ⟨((lineKey_inj hi hm).1 k).1.symm, ((lineKey_inj hi hm).1 k).2.symm⟩),
        List.filter_cons_of_neg (by simpa using h)]
      exact BitVec.zero_add _

theorem foldedLed_line (u : State) (line item : Nat) (hl : line < 1025) (hi : item < 16) :
    AMap.getD (foldedLed u).lines 0 (16 * line + item) = AMap.getD u.led.lines 0 (16 * line + item) +
      ((u.led.acc.filter (fun e => decide (u.ledLineOf (e.1 % 65536 / 16) = line) && decide (e.1 % 16 = item))).map
        (fun e => BitVec.ofNat 64 (e.2 / foldUnit item))).foldr (· + ·) 0 :=
  (Folding.foldAll_line (fun key => u.ledLineOf (key % 65536 / 16)) u.led.acc u.led (16 * line + item) (by omega)).trans
    (congrArg _ (gain_eq _ line item hi _))

end Ledger

/-- Settles O52: it holds. -/
theorem faultsAuditsAndLedger : Obligations.FaultsAuditsAndLedger := by
  unfold Obligations.FaultsAuditsAndLedger
  intro s
  refine ⟨?records, fun k late => audit_out late, fun k => audit_late, fun k => audit_pass, ?ledger⟩
  case records =>
    intro unit q
    refine ⟨takeIn_none, fun pre post r hq hp => ?taken, ack_none, fun r rest hq => ⟨fun h0 => ?_, fun h0 => ?_⟩⟩
    case taken =>
      intro r1
      refine ⟨_, takeIn_some hq hp, ?_, ?_, ?_, ?_⟩
      · rw [takeIn_frame (marked s unit _) r]
        rfl
      · exact (congrArg (fun f : FltSt => AMap.getD f.units .empty unit) (takeIn_flt (marked s unit _) r)).trans
          ((unitQ_marked s unit _ unit).trans (if_pos rfl))
      · exact fun k hk => (congrArg (fun f : FltSt => AMap.getD f.units .empty k) (takeIn_flt (marked s unit _) r)).trans
          ((unitQ_marked s unit _ k).trans (if_neg hk))
      · intro hl k
        rw [takeIn_flt]
        exact keep_log _ _ hl k
    · exact (ack_some hq).trans (congrArg _ (if_pos h0))
    · exact (ack_some hq).trans (congrArg _ (if_neg h0))
  case ledger =>
    intro u unit
    refine ⟨s.foldLedger, rfl, ?_, ?_, fun hw => ⟨fun k => foldedLed_acc u hw k, fun line item hl hi => foldedLed_line u line item hl hi⟩⟩
    · rw [foldLedger_eq, counted_frame s]
    · exact congrArg (· + 1) (foldedLed_folds u)

end Sys2Proof.Machine.RecordEvents


/-! SUPPORT. What a message command does whose request is served next, and the requests of sessions and of the configuration (16 R423, R424,
R430 to R436). -/
namespace Sys2Proof.Machine.MessageRequests

/-- A message command serves its opcode for its mailbox, and does nothing beside it; MSG_OBJ_FREE may also wait. -/
theorem exec_msgOf {i : Instr} {op m : Nat} (s : State) (h : msgOf i = some (op, m)) :
    ∃ f, exec i s = .next s ∨ exec i s = .next (serve op m f s) := by
  cases i with
  | msgHello k | msgBye k | msgPing k | msgUmpQuery k | msgConfigWrite k | msgConfigCommit k | msgConfigConfirm k | msgConfigRevert k
  | msgConfigQuery k | msgConfigRead k | msgPlaybookLoad k | msgPrecQuery k | msgFallbackSet k | msgTableLoad k | msgTableQuery k
  | msgShardRegister k | msgWgtCommit k | msgWgtBind k | msgSeqRepin k | msgAdapterRegister k | msgAdapterRelease k | msgWgtPriv k
  | msgWgtQuery k | msgSeqAdmit k | msgSeqEnd k | msgBatchSubmit k | msgCtxQuery k | msgRostGrant k | msgRostSet k | msgRostQuery k
  | msgFutureBranch k | msgFutureSeal k | msgFuturePrune k | msgFutureScore k | msgFutureQuery k | msgObjCreate k
  | msgTierMove k | msgTierQuery k | msgQuotaSet k | msgQuotaQuery k | msgKvQuery k | msgMemQuery k | msgChanMapout k | msgStateQuery k
  | msgStateExport k | msgStateImport k | msgStateClear k | msgCdcOpen k | msgCdcPool k | msgCdcFrame k | msgCdcSet k | msgCdcClose k
  | msgRingQuery k | msgRingJoin k | msgRingLeave k | msgPortRole k | msgPwrTolerance k | msgPwrProfile k | msgPwrQuery k
  | msgAttestQuote k | msgIdCert k | msgDebugChallenge k | msgDebugUnlock k | msgFwUpdate k | msgUpdPlan k | msgUpdStep k | msgUpdQuery k
  | msgUpdRelease k | msgLedgerRead k | msgFaultRead k | msgAuditQuery k | msgRegRead k | msgRegWrite k =>
    cases h; exact ⟨_, .inr rfl⟩
  | msgObjFree k => cases h; exact ⟨_, (ite_eq_or_eq _ _ _).imp (congrArg _) (congrArg _)⟩
  | _ => cases h

/-- A message command whose request is not the one served next does nothing. -/
theorem exec_idle {i : Instr} {op m : Nat} {s : State} (hi : msgOf i = some (op, m)) (hn : ∀ r, ¬s.Serves op m r) : exec i s = .next s := by
  obtain ⟨f, hf | hf⟩ := exec_msgOf s hi
  · exact hf
  · rw [hf, serve_idle hn]

/-- A message command whose request is served next does what its transaction does, the request taken. -/
theorem exec_served {i : Instr} {op m : Nat} {s t : State} {r : Req} {f : Req → State → State} (hi : exec i s = .next (serve op m f s))
    (hs : s.Serves op m r) (hf : f r (s.takeReq r) = t) : exec i s = .next t := by
  rw [hi, serve_run hs, hf]

end Sys2Proof.Machine.MessageRequests

namespace Sys2Proof.Machine.ConfigRequests
open MessageRequests

/-- A slot committed where its checks fail. -/
theorem commit_fails {s : State} {r : Req} {gen secs : Nat} {f : Code × Nat × Nat} (h : s.commitFail (1 - s.ump.active) gen = some f) :
    s.commit r gen secs = s.answerCommit r f.1 f.2.1 f.2.2 := by
  dsimp only [State.commit]; rw [h]

/-- The state in the trial of the slot not in force. -/
def inTrial (s : State) (gen secs : Nat) : State :=
  let t := (s.switchTo (1 - s.ump.active)).1
  { t with ump := { t.ump with trial := some ⟨gen, secs, 1 - (1 - s.ump.active), s.mismatches⟩, trialFailover := false } }

/-- A slot committed where its checks pass. -/
theorem commit_passes {s : State} {r : Req} {gen secs : Nat} (h : s.commitFail (1 - s.ump.active) gen = none) :
    s.commit r gen secs = (inTrial s gen secs).answerCommit r 0 0 0xFF := by
  dsimp only [State.commit]; rw [h]; rfl

/-- The seconds of a trial outside its range. -/
theorem secs_bad {n : Nat} (h : (0 < n ∧ n < 10) ∨ 3600 < n) : n ≠ 0 ∧ (n < 10 ∨ 3600 < n) := by omega
/-- The seconds of a trial in its range. -/
theorem secs_ok {n : Nat} (h : n = 0 ∨ (10 ≤ n ∧ n ≤ 3600)) : ¬(n ≠ 0 ∧ (n < 10 ∨ 3600 < n)) := by omega

variable {s : State} {r : Req} {m : Nat}

/-- MSG_HELLO at a version in its range. -/
def opened (u : State) (r : Req) (m : Nat) : State :=
  (u.modMbx m (fun b => { b with session := true, verMajor := 1, verMinor := 0, events := [], expect := BitVec.ofNat 32 (r.seq + 1), evCount := 0, dropMark := false })).answer r 0 (u.helloBody r 1)

/-- MSG_CONFIG_COMMIT outside a trial with a time in its range commits the slot not in force. -/
theorem exec_commit (ht : s.ump.trial = none) (hsec : r.fld 8 2 = 0 ∨ (10 ≤ r.fld 8 2 ∧ r.fld 8 2 ≤ 3600)) (hs : s.Serves 0x0101 m r) :
    exec (.msgConfigCommit m) s = .next ((s.takeReq r).commit r (r.fld 0 8) (if r.fld 8 2 = 0 then 60 else r.fld 8 2)) :=
  exec_served rfl hs ((if_neg (by rw [show (s.takeReq r).ump.trial = none from ht]; exact Bool.false_ne_true)).trans (if_neg (secs_ok hsec)))

/-- MSG_CONFIG_REVERT outside a trial commits the slot not in force. -/
theorem exec_revert_commit (ht : s.ump.trial = none) (hs : s.Serves 0x0103 m r) :
    exec (.msgConfigRevert m) s = .next ((s.takeReq r).commit r (r.fld 0 8) 60) :=
  exec_served rfl hs (by rw [show (s.takeReq r).ump.trial = none from ht])

/-- MSG_CONFIG_REVERT in a trial. -/
theorem exec_revert_trial {t : Trial} (ht : s.ump.trial = some t) (hs : s.Serves 0x0103 m r) :
    exec (.msgConfigRevert m) s = .next (if ((s.takeReq r).slotAt t.prev).gen = r.fld 0 8 then ((s.takeReq r).revertTrial t 2 0).answerCommit r 0 0 0xFF
      else (s.takeReq r).answerCommit r E_CFG_GEN 2 0xFF) :=
  exec_served rfl hs (by rw [show (s.takeReq r).ump.trial = some t from ht])

/-- MSG_CONFIG_CONFIRM in a trial. -/
theorem exec_confirm_trial {t : Trial} (ht : s.ump.trial = some t) (hs : s.Serves 0x0102 m r) :
    exec (.msgConfigConfirm m) s = .next (if r.fld 0 8 = t.gen then (s.takeReq r).finalTrial.refuse r 0 6 else (s.takeReq r).refuse r E_CFG_GEN 6) :=
  exec_served rfl hs (by rw [show (s.takeReq r).ump.trial = some t from ht])

/-- MSG_CONFIG_CONFIRM outside a trial. -/
theorem exec_confirm_none (ht : s.ump.trial = none) (hs : s.Serves 0x0102 m r) :
    exec (.msgConfigConfirm m) s = .next ((s.takeReq r).refuse r E_CFG_GEN 6) :=
  exec_served rfl hs (by rw [show (s.takeReq r).ump.trial = none from ht])

/-- What MSG_CONFIG_WRITE does with an image that was read. -/
def written (u : State) (r : Req) (w : State × Code × List Byte) : State :=
  if w.2.1 ≠ 0 then w.1.answer r w.2.1 (leBytes 2 0xFFFF ++ leBytes 12 0)
  else (cfgFail w.2.2).elim
    ((w.1.setSlot (1 - u.ump.active) ⟨cfgParse w.2.2, max u.ump.slot0.gen u.ump.slot1.gen + 1⟩).answer r 0
      (leBytes 2 0xFFFF ++ leBytes 4 0 ++ leBytes 8 (max u.ump.slot0.gen u.ump.slot1.gen + 1)))
    (fun i => w.1.answer r E_CFG_FORMAT (leBytes 2 i ++ leBytes 12 0))

/-- MSG_CONFIG_WRITE outside a trial of an image that is not too long. -/
theorem exec_write (ht : s.ump.trial = none) (hl : r.fld 8 4 ≤ 4194304) (hs : s.Serves 0x0100 m r) :
    exec (.msgConfigWrite m) s = .next (written (s.takeReq r) r ((s.takeReq r).objRead r.access (r.fld 0 8) (r.fld 8 4))) := by
  refine exec_served rfl hs ?_
  refine (if_neg (by rw [show (s.takeReq r).ump.trial = none from ht]; exact Bool.false_ne_true)).trans ((if_neg (not_lt.2 hl)).trans ?_)
  dsimp only [written]
  cases cfgFail ((s.takeReq r).objRead r.access (r.fld 0 8) (r.fld 8 4)).2.2 <;> rfl

end Sys2Proof.Machine.ConfigRequests

open Sys2Proof Sys2Proof.Machine Sys2Proof.Machine.MessageRequests Sys2Proof.Machine.ConfigRequests in
/-- Settles O54: it holds. Each request is one command, whose transaction runs where the request is served next; the transaction is then read
branch by branch. -/
theorem sessionAndConfigurationRequests : Obligations.SessionAndConfigurationRequests := by
  unfold Obligations.SessionAndConfigurationRequests
  intro s
  refine ⟨fun i op m hi hn => exec_idle hi hn, ?_⟩
  intro r m u ran lo hi opened'
  refine ⟨fun h1 h2 h3 hs => ?hello, fun h1 h2 h3 h4 => ?helloTrial, fun h hs => ?helloOut, fun hs => exec_served rfl hs rfl,
    fun hs => exec_served rfl hs rfl, fun hs => exec_served rfl hs rfl, ?write, ?commit, fun hs => exec_served rfl hs rfl, ?read⟩
  case hello =>
    refine exec_served rfl hs ((if_pos ⟨h1, h2⟩).trans (if_neg ?_))
    rintro ⟨hm, hn⟩
    obtain h | h := h3
    · exact Bool.false_ne_true (h.symm.trans hm)
    · exact Bool.false_ne_true (h.symm.trans hn)
  case helloTrial =>
    intro t hs
    exact exec_served rfl hs ((if_pos ⟨h1, h2⟩).trans (if_pos ⟨h3, h4⟩))
  case helloOut =>
    exact exec_served rfl hs (if_neg (by omega))
  case write =>
    intro none_ w gen
    refine ⟨fun ht hs => exec_served rfl hs (if_pos (Option.isSome_iff_ne_none.2 ht)), fun ht hl hw hs => (exec_write ht hl hs).trans (congrArg _ (if_pos hw)),
      fun i ht hl hw hi hs => (exec_write ht hl hs).trans (congrArg _ ((if_neg (not_not.2 hw)).trans ?_)),
      fun ht hl hw hi hs => (exec_write ht hl hs).trans (congrArg _ ((if_neg (not_not.2 hw)).trans ?_))⟩
    · rw [hi]; rfl
    · rw [hi]; rfl
  case commit =>
    intro tell k secs trialOf
    refine ⟨fun ht hs => exec_served rfl hs (if_pos (Option.isSome_iff_ne_none.2 ht)), fun ht hb hs => exec_served rfl hs ?_,
      fun ht hb => ⟨fun f hf hs => (exec_commit ht hb hs).trans (congrArg _ (commit_fails hf)),
        fun hf hs => (exec_commit ht hb hs).trans (congrArg _ (commit_passes hf))⟩,
      fun ht => ⟨fun f hf hs => (exec_revert_commit ht hs).trans (congrArg _ (commit_fails hf)),
        fun hf hs => (exec_revert_commit ht hs).trans (congrArg _ (commit_passes hf))⟩, fun t ht => ⟨?_, ?_, ?_, ?_⟩,
      fun ht hs => exec_confirm_none ht hs⟩
    · exact (if_neg (by rw [show (s.takeReq r).ump.trial = none from ht]; exact Bool.false_ne_true)).trans (if_pos (secs_bad hb))
    · exact fun hg => ⟨_, rfl, fun hs => (exec_confirm_trial ht hs).trans (congrArg _ (if_pos hg))⟩
    · exact fun hg hs => (exec_confirm_trial ht hs).trans (congrArg _ (if_neg hg))
    · exact fun hg hs => (exec_revert_trial ht hs).trans (congrArg _ (if_neg (Ne.symm hg)))
    · intro hg v v1 hs
      exact (exec_revert_trial ht hs).trans (congrArg _ (if_pos hg.symm))
  case read =>
    intro img w
    refine ⟨fun hb hs => exec_served rfl hs (if_pos hb), fun h1 h2 hw hs => exec_served rfl hs ((if_neg ?_).trans (if_neg (not_not.2 hw))),
      fun h1 h2 hw hs => exec_served rfl hs ((if_neg ?_).trans (if_pos hw))⟩
    · exact not_or.2 ⟨not_lt.2 h1, not_lt.2 h2⟩
    · exact not_or.2 ⟨not_lt.2 h1, not_lt.2 h2⟩


/-! SUPPORT. Every command but a failover has a next state (02 R48, 16 R414). -/
namespace Sys2Proof.Machine.Answers

/-- A step of a state whose queue is empty counts one tick. -/
theorem step_idle {s : State} (h : s.pending = []) : step s = .next s.tick := by
  unfold step; rw [h]

/-- Every command's meaning is a next state; only the failover asks for a ready standby first. -/
theorem exec_next {c : Instr} (s : State) (h : c ≠ .umpireFailover) : ∃ t, exec c s = .next t := by
  cases c with
  | umpireFailover => exact absurd rfl h
  | _ => exact ⟨_, rfl⟩

end Sys2Proof.Machine.Answers

open Sys2Proof Sys2Proof.Machine Sys2Proof.Machine.Answers in
/-- Settles O59: it holds. -/
theorem everyStepAnswers : Obligations.EveryStepAnswers := by
  unfold Obligations.EveryStepAnswers
  exact ⟨fun _ h => step_idle h, fun _ s h => exec_next s h⟩


/-! SUPPORT. What each register block reads after the RESET step of start-up (the Reset columns of 02 to 20). -/
namespace Sys2Proof.Machine.ResetReads

variable (n off : Nat)

/-- Every logical core has its own position after a reset (01 R16). -/
theorem physOf_reset {k : Nat} (hk : k < 25000) : State.reset.physOf k = some (26 * (k / 25) + k % 25) := if_pos hk

/-- A core's register block after a reset, at its logical and its physical number. -/
theorem readCore_reset (k p : Nat) (h : 0 < off) :
    Core.reset.now.readCore k p off = if off = 0x20 ∨ off = 0x28 ∨ off = 0x30 then 2 ^ 64 - 1 else 0 := by
  unfold CoreRegs.readCore
  split
  case h_1 => exact absurd h (lt_irrefl 0)
  case h_11 _ _ _ _ a20 a28 a30 _ _ _ => exact (if_neg (not_or.2 ⟨a20, not_or.2 ⟨a28, a30⟩⟩)).symm
  all_goals decide +kernel

theorem readReg_core_id {k : Nat} (hk : k < 25000) : State.reset.readReg 0x01 k 0x00 = k + 2 ^ 20 * (k % 25) := by
  dsimp only [State.readReg]
  rw [physOf_reset hk]
  change k + 2 ^ 20 * ((26 * (k / 25) + k % 25) % 26) = _
  omega

theorem readReg_core {k : Nat} (hk : k < 25000) (h : 0 < off) :
    State.reset.readReg 0x01 k off = if off = 0x20 ∨ off = 0x28 ∨ off = 0x30 then 2 ^ 64 - 1 else 0 := by
  dsimp only [State.readReg]
  rw [physOf_reset hk]
  exact readCore_reset off k _ h

theorem readReg_clu : State.reset.readReg 0x02 n off = if off = 0x10 then 0x00325B else 0 := by
  change Cluster.reset.read off = _
  unfold Cluster.read
  split
  case h_11 => exact (if_neg (by assumption)).symm
  all_goals rfl

/-- The per-core ACC_ registers read zero after a reset. -/
theorem readAcc_reset : Core.reset.now.readAcc off = 0 := by
  unfold CoreRegs.readAcc
  split <;> rfl

theorem readReg_acc : State.reset.readReg 0x03 n off = if off = 0x1000 then 1 + 2 ^ 8 * 64 else 0 := by
  by_cases h : off < 0x1000
  · rw [if_neg (by omega)]
    refine (if_pos h).trans ?_
    cases State.reset.physOf n with
    | none => rfl
    | some p => exact readAcc_reset off
  · refine (if_neg h).trans ?_
    unfold State.readMonitor
    split
    case h_4 h0 _ _ => exact (if_neg h0).symm
    all_goals decide +kernel

theorem readReg_mem : State.reset.readReg 0x04 n off = if off = 0x00 then 512 else if off = 0x08 then 1 else if off = 0x10 then 1000
    else if off = 0x18 then 1 + 2 ^ 8 * 360 else if off = 0x30 then 2 ^ 40 * 8 else 0 := by
  change State.reset.readMem off = _
  unfold State.readMem
  dsimp only
  split
  case h_10 a0 a1 a2 a3 _ _ a6 _ _ => rw [if_neg a0, if_neg a1, if_neg a2, if_neg a3, if_neg a6]
  all_goals decide +kernel

/-! Blocks that read zero at every offset. -/

theorem readReg_vat : State.reset.readReg 0x05 n off = 0 := by
  change Channel.reset.read off = _
  unfold Channel.read
  split <;> rfl
theorem readReg_tier : State.reset.readReg 0x06 n off = 0 := by
  change State.reset.readTier off = _
  unfold State.readTier
  split <;> rfl
theorem readReg_upd : State.reset.readReg 0x09 n off = 0 := by
  change State.reset.readUpd off = _
  unfold State.readUpd
  split <;> rfl
theorem readReg_rost : State.reset.readReg 0x0B n off = 0 := by
  change State.reset.readRost off = _
  unfold State.readRost
  split <;> rfl
theorem readReg_cdc : State.reset.readReg 0x0C n off = 0 := by
  change State.reset.readCdc off = _
  unfold State.readCdc
  dsimp only
  split
  case h_7 => rfl
  all_goals decide +kernel
theorem readReg_clk : State.reset.readReg 0x10 n off = 0 := by
  change State.reset.readClk off = _
  unfold State.readClk
  split <;> rfl
theorem readReg_aud : State.reset.readReg 0x14 n off = 0 := by
  change State.reset.readAud off = _
  unfold State.readAud
  split <;> rfl

/-! Blocks with a value beside zero. -/

theorem readReg_wgt : State.reset.readReg 0x08 n off = if off = 0x10 then 1 + 2 ^ 8 * 24 else 0 := by
  change State.reset.readWgt off = _
  unfold State.readWgt
  split
  case h_7 _ _ a _ _ _ => exact (if_neg a).symm
  all_goals rfl
theorem readReg_sch (h : off ≠ 0x28) : State.reset.readReg 0x0A n off = 0 := by
  change State.reset.readSch off = _
  unfold State.readSch
  split
  case h_6 => exact absurd rfl h
  case h_7 => rfl
  all_goals decide +kernel
theorem readReg_ump (h : off < 0x20) : State.reset.readReg 0x0D n off = 0 := by
  change State.reset.readUmp off = _
  unfold State.readUmp
  split
  case h_5 | h_6 | h_7 => exact absurd h (by decide)
  case h_8 => rfl
  all_goals decide +kernel
/-- Mailboxes differ after a reset only in whether they are closed. -/
theorem mbx_reset (m : Nat) : ∃ c, State.reset.mbx m = { Mbx.reset with closed := c } := by
  change ∃ c, AMap.getD [(64, { Mbx.reset with closed := true }), (65, { Mbx.reset with closed := true }),
    (66, { Mbx.reset with closed := true }), (67, { Mbx.reset with closed := true })] Mbx.reset m = _
  simp only [AMap.getD, AMap.find?]
  split_ifs <;> exact ⟨_, rfl⟩

theorem readReg_mbx {m : Nat} (hm : m < 72) (ho : off < 64) :
    State.reset.readReg 0x0E 0 (64 * m + off) = if off = 0x20 then 4 else 0 := by
  have hdiv : (64 * m + off) / 64 = m := by omega
  have hmod : (64 * m + off) % 64 = off := by omega
  refine (if_pos (hdiv.symm ▸ hm)).trans ?_
  rw [hmod]
  obtain ⟨c, hc⟩ := mbx_reset ((64 * m + off) / 64)
  rw [hc]
  change Mbx.reset.read off = _
  unfold Mbx.read
  split
  case h_6 a => exact (if_neg a).symm
  all_goals rfl
theorem readReg_rnd (h : off ≠ 0x08) : State.reset.readReg 0x0F n off = if off = 0x20 then 1000 else 0 := by
  change State.reset.readRnd off = _
  unfold State.readRnd
  split
  case h_2 => exact absurd rfl h
  case h_6 a => exact (if_neg a).symm
  all_goals decide +kernel
/-- RND_PORT_STAT, the role aside: the port shown is down, and its rail is not open. -/
theorem port_reset : State.reset.portStat / 4 = 4 := by decide +kernel
theorem readReg_pwr : State.reset.readReg 0x11 n off = if off = 0x10 then 2 ^ 32 * 30000 else 0 := by
  change State.reset.readPwr off = _
  unfold State.readPwr
  dsimp only
  split
  case h_7 _ _ a _ _ _ => exact (if_neg a).symm
  all_goals decide +kernel
theorem readReg_sec (h8 : off ≠ 0x08) (h18 : off ≠ 0x18) : State.reset.readReg 0x12 n off = if off = 0x00 then 1 else 0 := by
  change State.reset.readSec off = _
  unfold State.readSec
  split
  case h_2 => exact absurd rfl h8
  case h_4 => exact absurd rfl h18
  case h_6 a _ _ _ _ => exact (if_neg a).symm
  all_goals decide +kernel

/-- The fields software sets lie in their ranges after a reset. -/
theorem inRange_reset : State.reset.InRange := by unfold State.InRange Kept.inRange; decide

end Sys2Proof.Machine.ResetReads

open Sys2Proof Sys2Proof.Machine Sys2Proof.Machine.ResetReads in
/-- Settles O58: it holds, block by block. -/
theorem resetRegisters : Obligations.ResetRegisters := by
  unfold Obligations.ResetRegisters
  intro s
  exact ⟨fun _ hk => ⟨readReg_core_id hk, fun off h => readReg_core off hk h⟩, readReg_clu, readReg_acc, readReg_mem,
    fun n off => ⟨readReg_vat n off, readReg_tier n off, readReg_upd n off, readReg_rost n off, readReg_cdc n off, readReg_clk n off, readReg_aud n off⟩,
    fun _ => ⟨rfl, rfl⟩, readReg_wgt, readReg_sch, readReg_ump, fun _ off hm ho => readReg_mbx off hm ho,
    readReg_rnd, fun _ => port_reset, readReg_pwr, readReg_sec, rfl, rfl, inRange_reset⟩


/-! SUPPORT. The requests of the platform: memory, registers, records, the ledger, power, the ring, security and firmware (10 R270, 16 R438, 17
R461, 18 R480, 19 R496 to R498, 20 R513). -/
namespace Sys2Proof.Machine.PlatformRequests
open MessageRequests

theorem bytesAt_length (bs : List Byte) (off n : Nat) : (bytesAt bs off n).length = n := by
  simp only [bytesAt, List.length_append, List.length_replicate, List.length_take]; omega

variable {s : State} {r : Req} {m : Nat}

/-! Registers. -/

/-- A request that names no block's instance. -/
theorem not_instOk {b : Bool} (h : b = false) : (!b) = true := by rw [h]; rfl
theorem instOk_neg {b : Bool} (h : b = true) : ¬(!b) = true := by rw [h]; exact Bool.false_ne_true

theorem exec_regRead (h : instOk (r.fld 0 1) (r.fld 2 2) (r.fld 4 4) = true) (hs : s.Serves 0x0D04 m r) :
    exec (.msgRegRead m) s = .next ((s.takeReq r).answer r 0 (leBytes 6 0 ++
      leBytes 8 (if regWidth (r.fld 0 1) (r.fld 4 4) = 0 then 0 else (s.takeReq r).readReg (r.fld 0 1) (r.fld 2 2) (r.fld 4 4)))) :=
  exec_served rfl hs (if_neg (instOk_neg h))

theorem exec_regWrite (h : instOk (r.fld 0 1) (r.fld 2 2) (r.fld 4 4) = true) (hs : s.Serves 0x0D05 m r) :
    exec (.msgRegWrite m) s = .next ((if regWidth (r.fld 0 1) (r.fld 4 4) = 0 then s.takeReq r
      else (s.takeReq r).writeReg (r.fld 0 1) (r.fld 2 2) (r.fld 4 4) (BitVec.ofNat 64 (r.fld 8 8))).answer r 0 []) :=
  exec_served rfl hs (if_neg (instOk_neg h))

/-! Fault records. -/

/-- The arguments of MSG_FAULT_READ that are refused (R513). -/
def badFaultRead (r : Req) : Prop := r.fld 8 4 = 0 ∨ 4096 < r.fld 8 4 ∨ 2 < r.fld 12 1 ∨ r.fld 16 8 % 64 ≠ 0 ∨ r.fld 24 8 < 64 * r.fld 8 4

/-- The number that a reader of records asks for next. -/
def nextRecord (u : State) (all : List FRec) (count : Nat) : Nat :=
  (all[count]?).elim (u.flt.count.toNat + 1) (fun _ => ((all.take count).getLast?.elim 0 (·.number)) + 1)

/-- MSG_FAULT_READ with permitted arguments. -/
theorem exec_faultRead (h : ¬badFaultRead r) (hs : s.Serves 0x0D01 m r) :
    let u := s.takeReq r
    let all := u.matching r (r.fld 0 8) (r.fld 12 1)
    let w := u.objWrite r.access (r.fld 16 8) ((all.take (r.fld 8 4)).flatMap FRec.bytes)
    exec (.msgFaultRead m) s = .next (if w.2 ≠ 0 then w.1.refuse r w.2 14
      else w.1.answer r 0 (leBytes 2 0 ++ leBytes 4 (all.take (r.fld 8 4)).length ++ leBytes 8 (nextRecord u all (r.fld 8 4)))) := by
  intro u all w
  refine exec_served rfl hs ((if_neg h).trans ?_)
  have hnext : (match all[r.fld 8 4]? with
      | none => u.flt.count.toNat + 1
      | some _ => (match (all.take (r.fld 8 4)).getLast? with | some x => x.number | none => 0) + 1) = nextRecord u all (r.fld 8 4) := by
    unfold nextRecord
    cases all[r.fld 8 4]? <;> cases (all.take (r.fld 8 4)).getLast? <;> rfl
  exact congrArg (fun n => if w.2 ≠ 0 then w.1.refuse r w.2 14 else w.1.answer r 0 (leBytes 2 0 ++ leBytes 4 (all.take (r.fld 8 4)).length ++ leBytes 8 n)) hnext

/-- Where every record is told, the next number is the first not yet given. -/
theorem nextRecord_all {u : State} {all : List FRec} {count : Nat} (h : all.length ≤ count) : nextRecord u all count = u.flt.count.toNat + 1 := by
  unfold nextRecord; rw [List.getElem?_eq_none h]; rfl
/-- Where records are left, it is the one after the last told. -/
theorem nextRecord_some {u : State} {all : List FRec} {count : Nat} {x : FRec} (h : count < all.length) (hx : (all.take count).getLast? = some x) :
    nextRecord u all count = x.number + 1 := by
  unfold nextRecord; rw [List.getElem?_eq_getElem h, hx]; rfl

/-! Power. -/

/-- The answer of MSG_PWR_TOLERANCE. -/
def told (t : State) (r : Req) : State :=
  t.answer r 0 ([BitVec.ofNat 8 (t.shownPs (r.fld 0 1)), 0] ++ leBytes 4 (exitUs (t.shownPs (r.fld 0 1))))

/-- MSG_PWR_TOLERANCE of a defined court. -/
theorem exec_tolerance_court (hc : r.fld 0 1 ≠ 0xFF) (hd : s.courtDefined (r.fld 0 1) = true)
    (h1 : bitOf (r.fld 1 1) 0 = true → isMgmt r.mbx = true) (h2 : bitOf (r.fld 1 1) 0 = false → r.ctx < 1024) (hs : s.Serves 0x0A00 m r) :
    let u := s.takeReq r
    exec (.msgPwrTolerance m) s = .next (told ((if bitOf (r.fld 1 1) 0 = true
        then { u with pwr := { u.pwr with tolCourt := AMap.setD u.pwr.tolCourt 30000 (r.fld 0 1) (r.fld 4 4) } }
        else { u with pwr := { u.pwr with tolCtx := AMap.setD u.pwr.tolCtx 1 (1024 * r.fld 0 1 + r.ctx) (r.fld 4 4) } } : State).retune
          (r.fld 0 1) (u.effTol (r.fld 0 1))) r) := by
  intro u
  refine exec_served rfl hs ((if_neg ?_).trans ((if_neg hc).trans (if_neg ?_)))
  · rintro ⟨h | h, hn⟩
    · rw [h1 h] at hn; exact Bool.false_ne_true hn
    · exact hc h
  · rintro (h | ⟨h, hx⟩)
    · exact instOk_neg (b := s.courtDefined (r.fld 0 1)) hd h
    · exact absurd hx (not_lt.2 (Nat.le_of_lt_succ (h2 (by simpa using h))))

/-- MSG_PWR_TOLERANCE of the module, from a management mailbox. -/
theorem exec_tolerance_module (hc : r.fld 0 1 = 0xFF) (hm : isMgmt r.mbx = true) (hs : s.Serves 0x0A00 m r) :
    let u := s.takeReq r
    exec (.msgPwrTolerance m) s = .next (told (if r.fld 4 4 < 2000000 then ({ u with pwr := { u.pwr with tolModule := r.fld 4 4 } } : State).leavePs5
      else { u with pwr := { u.pwr with tolModule := r.fld 4 4 } }) r) :=
  exec_served rfl hs ((if_neg (fun h => instOk_neg hm h.2)).trans (if_pos hc))

/-! The ring. -/

/-- The first bytes of MSG_RING_QUERY's answer. -/
def ringHead (s : State) : List Byte :=
  leBytes 1 (b2n s.ring.member) ++ leBytes 1 (if s.ring.member then s.ring.position else 0xFF) ++ leBytes 2 s.memberMask ++ leBytes 1 s.railCount
/-- What MSG_RING_QUERY tells of a position. -/
def ringEntry (s : State) (n : Nat) : List Byte :=
  (AMap.find? s.ring.members n).elim (leBytes 8 0)
    (fun x => leBytes 1 1 ++ leBytes 1 (if n = s.ring.position then s.railCount else x.1) ++ leBytes 2 0 ++ bytesAt x.2 0 4)
/-- MSG_RING_QUERY's answer. -/
def ringBody (s : State) : List Byte := ringHead s ++ leBytes 9 0 ++ (List.range 16).flatMap (ringEntry s)

theorem ringHead_length (s : State) : (ringHead s).length = 5 := by
  unfold ringHead; simp only [List.length_append, leBytes_length]

theorem ringEntry_length (s : State) (n : Nat) : (ringEntry s n).length = 8 := by
  unfold ringEntry
  cases AMap.find? s.ring.members n with
  | none => exact leBytes_length 8 0
  | some x =>
    change (_ ++ _ ++ _ ++ bytesAt x.2 0 4).length = 8
    simp only [List.length_append, leBytes_length, bytesAt_length]

theorem ringBody_length (s : State) : (ringBody s).length = 142 := by
  unfold ringBody
  simp only [List.length_append, ringHead_length, leBytes_length, List.length_flatMap, ringEntry_length]
  decide

theorem ringBody_take (s : State) : (ringBody s).take 5 = ringHead s := by
  unfold ringBody; rw [List.append_assoc]; exact List.take_left' (ringHead_length s)

theorem exec_ringQuery (hs : s.Serves 0x0900 m r) : exec (.msgRingQuery m) s = .next ((s.takeReq r).answer r 0 (ringBody (s.takeReq r))) := by
  refine exec_served rfl hs (congrArg (fun l => (s.takeReq r).answer r 0 (ringHead (s.takeReq r) ++ leBytes 9 0 ++ l)) ?_)
  refine congrArg (fun f => (List.range 16).flatMap f) (funext fun n => ?_)
  unfold ringEntry
  cases AMap.find? (s.takeReq r).ring.members n <;> rfl

/-- Roles of ports: the arguments of MSG_PORT_ROLE that pass (R444). -/
def roleFits (r : Req) : Prop := r.fld 0 1 < 48 ∧ r.fld 1 1 ≤ 3 ∧ (r.fld 1 1 = 1 → isRailPort (r.fld 0 1) = true)

theorem not_roleFits_iff : (47 < r.fld 0 1 ∨ 3 < r.fld 1 1 ∨ (r.fld 1 1 = 1 ∧ (!isRailPort (r.fld 0 1)) = true)) ↔ ¬roleFits r := by
  simp only [roleFits, not_and_or, not_lt, not_le, Classical.not_imp, Bool.not_eq_true', Bool.not_eq_true, Nat.succ_le_iff]

/-- The answer of MSG_PORT_ROLE where the arguments pass. -/
theorem roleAnswer_fits (t : State) (code : Code) (h : roleFits r) :
    t.answer r code (leBytes 1 (if r.fld 0 1 < 48 then t.roleOf (r.fld 0 1) else 0) ++ leBytes 5 0) =
      t.answer r code (leBytes 1 (t.roleOf (r.fld 0 1)) ++ leBytes 5 0) := by rw [if_pos h.1]

/-! Security. -/

/-- The challenge that MSG_DEBUG_CHALLENGE gives: its random bytes are free values. -/
def challenge (s : State) : List Byte :=
  (List.range 32).map (fun i => BitVec.ofNat 8 (s.fv i)) ++ bytesAt (sha3 Config.identityKey) 0 24 ++ leBytes 4 s.sec.bootCount.toNat ++
    leBytes 4 s.counter.toNat

theorem challenge_length (s : State) : (challenge s).length = 64 := by
  unfold challenge; simp only [List.length_append, List.length_map, List.length_range, bytesAt_length, leBytes_length]

theorem challenge_drop (s : State) : (challenge s).drop 56 = leBytes 4 s.sec.bootCount.toNat ++ leBytes 4 s.counter.toNat := by
  unfold challenge; rw [List.append_assoc _ (leBytes 4 _)]
  exact List.drop_left' (by simp only [List.length_append, List.length_map, List.length_range, bytesAt_length])

/-- The arguments of MSG_DEBUG_UNLOCK that pass (R498). -/
def partFits (r : Req) : Prop :=
  r.fld 0 1 ≤ 7 ∧ 1 ≤ r.fld 1 1 ∧ r.fld 1 1 ≤ 8 ∧ 1 ≤ r.fld 2 2 ∧ r.fld 2 2 ≤ 992 ∧ 16 + r.fld 2 2 ≤ r.body.length

theorem not_partFits_iff : (7 < r.fld 0 1 ∨ r.fld 1 1 = 0 ∨ 8 < r.fld 1 1 ∨ r.fld 2 2 = 0 ∨ 992 < r.fld 2 2 ∨ r.body.length < 16 + r.fld 2 2) ↔
    ¬partFits r := by
  simp only [partFits, not_and_or, not_le, Nat.lt_one_iff]

/-- The bytes of the part of a token that a request holds. -/
def partData (r : Req) : List Byte := (r.body.drop 16).take (r.fld 2 2)

/-- A whole token verified: the challenge is spent. -/
def verified (u : State) (r : Req) (ch t : List Byte) : State :=
  let u1 : State := { u with sec := { u.sec with challenge := none, token := none } }
  if (!u.tokenOk ch t) = true then u1.refuse r E_DBG_VERIFY 0
  else (({ u1 with sec := { u1.sec with unlocked := some (leAt t 64 1), unlockEnd := u.counter.toNat + leAt t 68 4 * tickS } } : State).raise
    (FRec.mk0 E_DBG_UNLOCKED 0 (ident 2 1024))).answer r 0 []

/-- A part of the token taken, `before` held. -/
def partTaken (u : State) (r : Req) (ch before : List Byte) : State :=
  if r.fld 0 1 + 1 < r.fld 1 1
  then ({ u with sec := { u.sec with token := some (r.fld 0 1 + 1, r.fld 1 1, before ++ partData r) } } : State).answer r 0 []
  else verified u r ch (before ++ partData r)

/-- MSG_DEBUG_UNLOCK with the first part of a token. -/
theorem exec_unlock_first {ch : List Byte} {e : Nat} (hf : partFits r) (hch : s.sec.challenge = some (ch, e)) (he : s.counter.toNat < e)
    (ht : s.sec.token = none) (hp : r.fld 0 1 = 0) (hs : s.Serves 0x0B03 m r) :
    exec (.msgDebugUnlock m) s = .next (partTaken (s.takeReq r) r ch []) := by
  refine exec_served rfl hs ((if_neg (fun h => not_partFits_iff.1 h hf)).trans ?_)
  have hch' : (s.takeReq r).sec.challenge = some (ch, e) := hch
  have ht' : (s.takeReq r).sec.token = none := ht
  dsimp only [partTaken, verified, partData]
  rw [hch', ht']
  refine (if_neg ?_).trans rfl
  dsimp only
  rw [show (s.takeReq r).counter = s.counter from rfl, decide_eq_true he, decide_eq_true hp]
  exact Bool.false_ne_true

/-- MSG_DEBUG_UNLOCK with the part that comes next. -/
theorem exec_unlock_next {ch before : List Byte} {e : Nat} (hf : partFits r) (hch : s.sec.challenge = some (ch, e)) (he : s.counter.toNat < e)
    (ht : s.sec.token = some (r.fld 0 1, r.fld 1 1, before)) (hs : s.Serves 0x0B03 m r) :
    exec (.msgDebugUnlock m) s = .next (partTaken (s.takeReq r) r ch before) := by
  refine exec_served rfl hs ((if_neg (fun h => not_partFits_iff.1 h hf)).trans ?_)
  have hch' : (s.takeReq r).sec.challenge = some (ch, e) := hch
  have ht' : (s.takeReq r).sec.token = some (r.fld 0 1, r.fld 1 1, before) := ht
  dsimp only [partTaken, verified, partData]
  rw [hch', ht']
  refine (if_neg ?_).trans rfl
  dsimp only
  rw [show (s.takeReq r).counter = s.counter from rfl, decide_eq_true he, decide_eq_true rfl, decide_eq_true rfl]
  exact Bool.false_ne_true

/-- MSG_DEBUG_UNLOCK without a challenge in force. -/
theorem exec_unlock_none (hf : partFits r) (hch : ∀ ch e, s.sec.challenge = some (ch, e) → e ≤ s.counter.toNat) (hs : s.Serves 0x0B03 m r) :
    exec (.msgDebugUnlock m) s = .next ((s.takeReq r).refuse r E_DBG_STATE 0) := by
  refine exec_served rfl hs ((if_neg (fun h => not_partFits_iff.1 h hf)).trans (if_pos ?_))
  refine Bool.or_eq_true_iff.2 (.inl ?_)
  cases h : s.sec.challenge with
  | none => rw [show (s.takeReq r).sec.challenge = none from h]; rfl
  | some x =>
    rw [show (s.takeReq r).sec.challenge = some x from h]
    exact not_instOk (decide_eq_false (not_lt.2 (hch x.1 x.2 h)))

/-! Firmware. -/

/-- What MSG_FW_UPDATE waits for (R437). -/
def fwBusy (s : State) : Prop := s.ump.fw ≠ none ∨ s.ump.trial ≠ none ∨ s.mem.mapout ≠ none

theorem fwBusy_iff : (s.ump.fw.isSome = true ∨ s.ump.trial.isSome = true ∨ s.mem.mapout.isSome = true) ↔ fwBusy s := by
  simp only [fwBusy, Option.isSome_iff_ne_none]

/-- A bundle written to a bank leaves the version that runs. -/
theorem writeBank_fwVersion (s : State) (b : List Byte) : (s.writeBank b).sec.fwVersion = s.sec.fwVersion := by
  dsimp only [State.writeBank]; split <;> rfl

/-- MSG_FW_UPDATE with an image that was read. -/
def imageRead (w : State) (r : Req) (b : List Byte) : State :=
  if w.bundleCode b ≠ 0 then w.answerFw r (w.bundleCode b) 1 0 w.sec.fwVersion (leAt b 8 4)
  else if (!w.versionsOk (256 * leAt b 14 1 + leAt b 15 1) (256 * leAt b 16 1 + leAt b 17 1)) = true then
    w.answerFw r E_FW_VERSION 1 0 w.sec.fwVersion (leAt b 8 4)
  else { w.writeBank b with ump := { w.ump with fw := some ⟨r, 1, 0, (w.writeBank b).sec.fwVersion, leAt b 8 4, bytesAt b 64 64, b⟩ } }

theorem exec_fwUpdate_read (hb : ¬fwBusy s) (hl : r.fld 8 8 ≤ 268435456) (hw : ((s.takeReq r).objRead r.access (r.fld 0 8) (r.fld 8 8)).2.1 = 0)
    (hs : s.Serves 0x0B20 m r) :
    let w := (s.takeReq r).objRead r.access (r.fld 0 8) (r.fld 8 8)
    exec (.msgFwUpdate m) s = .next (imageRead w.1 r w.2.2) :=
  exec_served rfl hs ((if_neg (fun h => hb (fwBusy_iff.1 h))).trans ((if_neg (not_lt.2 hl)).trans (if_neg (not_not.2 hw))))

end Sys2Proof.Machine.PlatformRequests

open Sys2Proof Sys2Proof.Machine Sys2Proof.Machine.MessageRequests Sys2Proof.Machine.PlatformRequests in
/-- Settles O55: it holds. Each request is one command; its transaction is read branch by branch. -/
theorem platformRequests : Obligations.PlatformRequests := by
  unfold Obligations.PlatformRequests
  intro s r m u ran z
  refine ⟨?mem, ?regs, ?faults, ?audits, ?ledger, ?power, ?ringQuery, ?ring, ?role, ?quote, ?cert, ?chal, ?unlock, ?fw⟩
  case mem =>
    intro c body
    refine ⟨fun h hs => exec_served rfl hs ((if_neg (by omega)).trans (if_neg (by omega))), fun h hs => exec_served rfl hs (if_pos h),
      fun h h' hs => exec_served rfl hs ((if_neg h').trans (if_pos h)), fun h hs => exec_served rfl hs (if_pos h),
      fun h hs => exec_served rfl hs (if_neg h)⟩
  case regs =>
    intro blk inst off
    refine ⟨fun h => ⟨fun hs => exec_served rfl hs (if_pos (not_instOk h)), fun hs => exec_served rfl hs (if_pos (not_instOk h))⟩,
      fun h hw => ⟨fun hs => (exec_regRead h hs).trans ?_, fun hs => (exec_regWrite h hs).trans ?_⟩,
      fun h hw => ⟨fun hs => (exec_regRead h hs).trans ?_, fun hs => (exec_regWrite h hs).trans ?_⟩⟩
    · rw [if_pos hw]
    · rw [if_pos hw]
    · rw [if_neg hw]
    · rw [if_neg hw]
  case faults =>
    intro bad all recs w
    refine ⟨fun h hs => exec_served rfl hs (if_pos h), fun h hw hs => (exec_faultRead h hs).trans (congrArg _ (if_pos hw)),
      fun h hw hl hs => (exec_faultRead h hs).trans (congrArg _ ((if_neg (not_not.2 hw)).trans ?_)),
      fun x h hw hl hx hs => (exec_faultRead h hs).trans (congrArg _ ((if_neg (not_not.2 hw)).trans ?_))⟩
    · rw [nextRecord_all hl]; rfl
    · rw [nextRecord_some hl hx]
  case audits =>
    intro k
    exact ⟨fun h hs => exec_served rfl hs (if_pos h), fun h hs => exec_served rfl hs (if_neg (not_lt.2 h))⟩
  case ledger =>
    intro bad v w
    exact ⟨fun h hs => exec_served rfl hs (if_pos h), fun h hw hs => exec_served rfl hs ((if_neg h).trans (if_pos hw)),
      fun h hw hs => exec_served rfl hs ((if_neg h).trans (if_neg (not_not.2 hw)))⟩
  case power =>
    intro court tol mg told'
    refine ⟨fun h hm hs => exec_served rfl hs (if_pos ⟨h, not_instOk hm⟩), fun hc hm hs => exec_tolerance_module hc hm hs,
      fun hc hd hg hm hs => (exec_tolerance_court hc hd (fun _ => hm) (fun h => absurd (hg.symm.trans h) (by decide)) hs).trans ?_,
      fun hc hd hg hx hs => (exec_tolerance_court hc hd (fun h => absurd (hg.symm.trans h) (by decide)) (fun _ => hx) hs).trans ?_,
      fun h hs => exec_served rfl hs (if_pos h), fun h hs => exec_served rfl hs (if_neg (not_lt.2 h)),
      fun h hs => exec_served rfl hs (if_pos (not_instOk h)), fun h hs => exec_served rfl hs (if_neg (instOk_neg h))⟩
    · rw [if_pos hg]; rfl
    · rw [if_neg (ne_true_of_eq_false hg)]; rfl
  case ringQuery =>
    exact ⟨ringBody s, ringBody_length s, ringBody_take s, exec_ringQuery⟩
  case ring =>
    intro p
    refine ⟨fun h hs => exec_served rfl hs (if_pos (h.imp_right Option.isSome_iff_ne_none.2)),
      fun h1 h2 h3 h4 hs => exec_served rfl hs ((if_neg ?_).trans (if_pos ⟨h3, h4⟩)),
      fun h1 h2 h3 hs => exec_served rfl hs ((if_neg ?_).trans (if_neg (by omega))),
      fun h hs => exec_served rfl hs (if_pos (h.imp not_instOk Option.isSome_iff_ne_none.2)),
      fun h1 h2 hs => exec_served rfl hs (if_neg ?_)⟩
    · exact not_or.2 ⟨ne_true_of_eq_false h1, fun h => Option.isSome_iff_ne_none.1 h h2⟩
    · exact not_or.2 ⟨ne_true_of_eq_false h1, fun h => Option.isSome_iff_ne_none.1 h h2⟩
    · exact not_or.2 ⟨instOk_neg h1, fun h => Option.isSome_iff_ne_none.1 h h2⟩
  case role =>
    intro port role fits
    refine ⟨fun h hs => exec_served rfl hs (if_pos (not_roleFits_iff.2 h)),
      fun h hr hs => exec_served rfl hs ((if_neg (fun hn => not_roleFits_iff.1 hn h)).trans ((if_pos hr).trans ?_)),
      fun h hr hp hm hs => exec_served rfl hs ((if_neg (fun hn => not_roleFits_iff.1 hn h)).trans ((if_neg hr).trans ((if_pos ?_).trans ?_))),
      fun h hr hp => ?_⟩
    · exact (roleAnswer_fits u 0 h).trans (congrArg (fun k => u.answer r 0 (leBytes 1 k ++ z 5)) hr)
    · exact ⟨hp, hm.imp_right Option.isSome_iff_ne_none.2⟩
    · exact roleAnswer_fits u E_RING_STATE h
    · intro v hs
      refine exec_served rfl hs ((if_neg (fun hn => not_roleFits_iff.1 hn h)).trans ((if_neg hr).trans ((if_neg ?_).trans ?_)))
      · exact fun hn => ne_true_of_eq_false hp hn.1
      simp only [show isRailPort (r.fld 0 1) = false from hp, Bool.not_false, if_true, List.foldl_cons, List.foldl_nil]
      exact roleAnswer_fits _ 0 h
  case quote =>
    intro bad es n w
    exact ⟨fun h hs => exec_served rfl hs (if_pos h), fun h hr hs => exec_served rfl hs ((if_neg h).trans (if_pos hr)),
      fun h hr hw hs => exec_served rfl hs ((if_neg h).trans ((if_neg (not_lt.2 hr)).trans (if_pos hw))),
      fun h hr hw hs => exec_served rfl hs ((if_neg h).trans ((if_neg (not_lt.2 hr)).trans (if_neg (not_not.2 hw))))⟩
  case cert =>
    intro bad d w
    exact ⟨fun h hs => exec_served rfl hs (if_pos h), fun h hr hs => exec_served rfl hs ((if_neg h).trans (if_pos hr)),
      fun h hr hw hs => exec_served rfl hs ((if_neg h).trans ((if_neg (not_lt.2 hr)).trans (if_pos hw))),
      fun h hr hw hs => exec_served rfl hs ((if_neg h).trans ((if_neg (not_lt.2 hr)).trans (if_neg (not_not.2 hw))))⟩
  case chal =>
    exact ⟨challenge s, challenge_length s, challenge_drop s, fun hs => exec_served rfl hs rfl⟩
  case unlock =>
    intro part parts n fits data
    refine ⟨fun h hs => exec_served rfl hs (if_pos (not_partFits_iff.2 h)), fun ch e h hch he => ⟨fun ht hp hl hs => ?_, fun before ht => ⟨?_, ?_, ?_⟩⟩,
      fun h hch hs => exec_unlock_none h hch hs⟩
    · refine (exec_unlock_first h hch he ht hp hs).trans (congrArg _ ((if_pos ?_).trans ?_))
      · exact (congrArg (fun k => k + 1 < parts) hp).mpr hl
      · rw [show r.fld 0 1 = 0 from hp]; rfl
    · exact fun hl hs => (exec_unlock_next h hch he ht hs).trans (congrArg _ (if_pos hl))
    · exact fun hl hok hs => (exec_unlock_next h hch he ht hs).trans (congrArg _ ((if_neg (not_lt.2 hl)).trans (if_pos (not_instOk hok))))
    · intro hl hok opened hs
      exact (exec_unlock_next h hch he ht hs).trans (congrArg _ ((if_neg (not_lt.2 hl)).trans (if_neg (instOk_neg hok))))
  case fw =>
    intro busy w b no
    refine ⟨fun h hs => exec_served rfl hs (if_pos (fwBusy_iff.2 h)),
      fun h hl hw hc hs => (exec_fwUpdate_read h hl hw hs).trans (congrArg _ (if_pos hc)),
      fun h hl hw hc hv hs => (exec_fwUpdate_read h hl hw hs).trans (congrArg _ ((if_neg (not_not.2 hc)).trans ((if_neg (instOk_neg hv)).trans ?_)))⟩
    rw [writeBank_fwVersion]


/-! SUPPORT. Requests of precision plans, culture tables and playbooks (03 R93, R94; 04 R120 to R123; 06 R171, R173). -/
namespace Sys2Proof.Machine.TableRequests
open MessageRequests

theorem not_of_false {b : Bool} (h : b = false) : (!b) = true := by rw [h]; rfl
theorem not_not_of_true {b : Bool} (h : b = true) : ¬(!b) = true := by rw [h]; exact Bool.false_ne_true

variable {s : State} {r : Req} {m : Nat}

/-! The precision plan. -/

/-- The answer of MSG_PREC_QUERY for a layer. -/
def precAnswer (u : State) (r : Req) (e : PrecEnt) (f : FbRec) : State :=
  u.answer r 0 ([BitVec.ofNat 8 (if e.policy = 1 then 3 else if f.fallback = true then (if e.policy = 2 then 2 else 1) else 0), 0] ++
    leBytes 4 f.lastRate ++ leBytes 4 f.threshold ++ leBytes 2 (u.windowOf f) ++ leBytes 2 0 ++ leBytes 8 f.windows)

theorem exec_precQuery (hs : s.Serves 0x0220 m r) :
    let u := s.takeReq r
    exec (.msgPrecQuery m) s = .next (if (!u.courtDefined (r.fld 0 1)) = true ∨ r.fld 2 2 = 0xFFFF then u.refuse r E_PREC_ARG 22
      else (u.precIn (r.fld 0 1) (r.fld 2 2)).elim (u.refuse r E_PREC_ARG 22)
        (fun e => (u.fbRec (r.fld 0 1) (r.fld 2 2)).elim (u.refuse r E_PREC_ARG 22) (precAnswer u r e))) := by
  intro u
  refine exec_served rfl hs (ite_congr rfl (fun _ => rfl) (fun _ => ?_))
  cases u.precIn (r.fld 0 1) (r.fld 2 2) <;> cases u.fbRec (r.fld 0 1) (r.fld 2 2) <;> rfl

/-- MSG_FALLBACK_SET of one layer with permitted arguments. -/
theorem exec_fallbackSet {e : PrecEnt} (hd : s.courtDefined (r.fld 0 1) = true) (ha : r.fld 1 1 ≤ 1) (hl : r.fld 2 2 ≠ 0xFFFF)
    (he : (s.takeReq r).precIn (r.fld 0 1) (r.fld 2 2) = some e) (hs : s.Serves 0x0221 m r) :
    exec (.msgFallbackSet m) s = .next (if e.policy = 1 then (s.takeReq r).refuse r E_PREC_NOFB 0
      else ((s.takeReq r).switchLayer (r.fld 0 1) (r.fld 2 2) (r.fld 1 1 == 1)).answer r 0 []) := by
  refine exec_served rfl hs ((if_neg ?_).trans ((if_neg hl).trans ?_))
  · exact not_or.2 ⟨not_not_of_true (b := s.courtDefined (r.fld 0 1)) hd, not_lt.2 ha⟩
  · rw [he]

/-! Culture tables. -/

theorem exec_tableQuery (hd : s.courtDefined (r.fld 0 1) = true) (hk : r.fld 1 1 ≤ 7) (hs : s.Serves 0x0251 m r) :
    let u := s.takeReq r
    exec (.msgTableQuery m) s = .next ((AMap.find? u.book.tables (8 * r.fld 0 1 + r.fld 1 1)).elim (u.refuse r 0 14) (fun x =>
      u.answer r 0 ([BitVec.ofNat 8 x.2.mode, BitVec.ofNat 8 x.2.flags] ++ leBytes 2 x.2.segs ++ leBytes 2 0 ++ leBytes 4 x.1 ++
        leBytes 4 (u.tabPending (r.fld 0 1) (r.fld 1 1))))) := by
  intro u
  refine exec_served rfl hs ((if_neg ?_).trans ?_)
  · exact not_or.2 ⟨not_not_of_true (b := s.courtDefined (r.fld 0 1)) hd, not_lt.2 hk⟩
  · cases AMap.find? u.book.tables (8 * r.fld 0 1 + r.fld 1 1) <;> rfl

/-- A table accepted: staged on every core of its court, its answer awaited. -/
def tableTaken (v : State) (r : Req) (t : CTable) : State :=
  let k := 8 * r.fld 0 1 + r.fld 1 1
  let w := (v.courtCores (r.fld 0 1)).foldl (fun s p => s.modCore p (fun c => c.stageTable (r.fld 1 1) t)) v
  ({ w with book := { w.book with
    tables := AMap.insert w.book.tables k ((w.tabGen (r.fld 0 1) (r.fld 1 1) + 1) % 2 ^ 32, t)
    tableReq := AMap.insert w.book.tableReq k r } } : State).tabAnswer (r.fld 0 1) (r.fld 1 1)

/-- A table accepted, written out with the state in which its court's cores have it staged. -/
theorem tableTaken_eq {v w : State} {r : Req} {t : CTable}
    (h : (v.courtCores (r.fld 0 1)).foldl (fun s p => s.modCore p (fun c => c.stageTable (r.fld 1 1) t)) v = w) :
    tableTaken v r t = ({ w with book := { w.book with
      tables := AMap.insert w.book.tables (8 * r.fld 0 1 + r.fld 1 1) ((w.tabGen (r.fld 0 1) (r.fld 1 1) + 1) % 2 ^ 32, t)
      tableReq := AMap.insert w.book.tableReq (8 * r.fld 0 1 + r.fld 1 1) r } } : State).tabAnswer (r.fld 0 1) (r.fld 1 1) := by
  subst h
  rfl

/-- What MSG_TABLE_LOAD does with an image that was read. -/
def tableRead (q : State × Code × List Byte) (r : Req) : State :=
  if q.2.1 ≠ 0 then q.1.refuse r q.2.1 10
  else if (tableOf q.2.2).2 ≠ 0 then q.1.refuse r (tableOf q.2.2).2 10
  else tableTaken q.1 r (tableOf q.2.2).1

theorem exec_tableLoad (hd : s.courtDefined (r.fld 0 1) = true) (hk : r.fld 1 1 ≤ 7) (ha : r.fld 8 8 < 2 ^ 52) (hs : s.Serves 0x0250 m r) :
    let u := s.takeReq r
    exec (.msgTableLoad m) s = .next (if u.tabPending (r.fld 0 1) (r.fld 1 1) ≠ 0 ∨ (AMap.find? u.book.tableReq (8 * r.fld 0 1 + r.fld 1 1)).isSome = true
      then u.refuse r E_TAB_BUSY 10 else tableRead (u.objRead r.access (r.fld 8 8) (r.fld 16 4)) r) :=
  exec_served rfl hs (if_neg (not_or.2 ⟨not_not_of_true (b := s.courtDefined (r.fld 0 1)) hd, not_or.2 ⟨not_lt.2 hk, not_le.2 ha⟩⟩))

/-! Playbooks. -/

/-- A new playbook in service at once, as MSG_PLAYBOOK_LOAD without a replacement leaves it. -/
def loaded (v : State) (r : Req) (m : Nat) (p : Plan) : State :=
  let court := r.fld 0 1
  let id := v.book.nextBook
  let b : Playbook := ⟨court, r.ctx, m, p, (AMap.find? v.book.books 0).elim 0 (·.set), 0, true, 0⟩
  let w : State := { v with book := { v.book with books := AMap.insert v.book.books id b, nextBook := id + 1 } }
  (((w.stageKernels court).startFb court id p).makeScores id r.ctx p).answerLoad r none id

/-- What MSG_PLAYBOOK_LOAD does with a plan that was read, nothing being replaced. -/
def planRead (u : State) (q : State × Option PlanFail × Plan) (r : Req) (m : Nat) : State :=
  (firstFail [q.2.1, (if q.2.1.isSome then none else
    firstFail [planFail q.2.2 (u.court (r.fld 0 1)).dieList.length u.ringSize (u.court (r.fld 0 1)).roster,
      q.1.fitFail (u.court (r.fld 0 1)) (r.fld 0 1) r.ctx q.2.2 0])]).elim
    ((q.1.replaceFail q.2.2 0).2.elim (loaded (q.1.replaceFail q.2.2 0).1 r m q.2.2) (fun f => (q.1.replaceFail q.2.2 0).1.answerLoad r (some f) 0))
    (fun f => q.1.answerLoad r (some f) 0)

/-- The arguments of MSG_PLAYBOOK_LOAD that are refused. -/
def badLoad (s : State) (r : Req) : Prop :=
  (!s.courtDefined (r.fld 0 1)) = true ∨ r.fld 1 3 ≠ 0 ∨ r.fld 16 8 = 0 ∨ 2 ^ 32 < r.fld 16 8 ∨ 2 ^ 52 ≤ r.fld 8 8

theorem exec_load (ht : (s.takeReq r).trialCourt (r.fld 0 1) = false) (hb : ¬badLoad s r) {x : CtxRec} (hx : s.ctxRec r.ctx = some x)
    (hc : x.court = r.fld 0 1) (h0 : r.fld 4 4 = 0) (hs : s.Serves 0x0200 m r) :
    exec (.msgPlaybookLoad m) s = .next (planRead (s.takeReq r) ((s.takeReq r).readPlan r (r.fld 8 8) (r.fld 16 8)) r m) := by
  refine exec_served rfl hs ((if_neg (ne_true_of_eq_false ht)).trans ((if_neg hb).trans ((if_neg ?_).trans ?_)))
  · rw [show (s.takeReq r).ctxRec r.ctx = some x from hx]
    exact fun h => of_decide_eq_true h hc
  · dsimp only
    rw [h0]
    refine (if_neg Bool.false_ne_true).trans ?_
    dsimp only [planRead]
    cases firstFail [((s.takeReq r).readPlan r (r.fld 8 8) (r.fld 16 8)).2.1, _] with
    | some f => rfl
    | none =>
      generalize ((s.takeReq r).readPlan r (r.fld 8 8) (r.fld 16 8)).1.replaceFail _ _ = x
      cases x.2 with
      | some f => rfl
      | none =>
        simp only [loaded, Option.elim, if_true, decide_true]
        cases AMap.find? x.1.book.books 0 <;> rfl

section Read
variable {u : State} {q : State × Option PlanFail × Plan}

theorem planRead_unread {f : PlanFail} (h : q.2.1 = some f) : planRead u q r m = q.1.answerLoad r (some f) 0 := by
  unfold planRead firstFail; rw [h]; rfl

theorem planRead_bad {f : PlanFail} (h : q.2.1 = none)
    (hp : planFail q.2.2 (u.court (r.fld 0 1)).dieList.length u.ringSize (u.court (r.fld 0 1)).roster = some f) :
    planRead u q r m = q.1.answerLoad r (some f) 0 := by
  unfold planRead firstFail; rw [h, hp]; rfl

theorem planRead_ok (h : q.2.1 = none)
    (hp : planFail q.2.2 (u.court (r.fld 0 1)).dieList.length u.ringSize (u.court (r.fld 0 1)).roster = none)
    (hf : q.1.fitFail (u.court (r.fld 0 1)) (r.fld 0 1) r.ctx q.2.2 0 = none) (hr : (q.1.replaceFail q.2.2 0).2 = none) :
    planRead u q r m = loaded (q.1.replaceFail q.2.2 0).1 r m q.2.2 := by
  unfold planRead firstFail; rw [h, hp, hf, hr]; rfl
end Read

/-- A playbook put in service, written out with the weight set it takes over and the state that lists it. -/
theorem loaded_eq {v w : State} {r : Req} {m : Nat} {p : Plan} {set : Nat} (h : (AMap.find? v.book.books 0).elim 0 (·.set) = set)
    (hw : { v with book := { v.book with
      books := AMap.insert v.book.books v.book.nextBook ⟨r.fld 0 1, r.ctx, m, p, set, 0, true, 0⟩, nextBook := v.book.nextBook + 1 } } = w) :
    loaded v r m p = (((w.stageKernels (r.fld 0 1)).startFb (r.fld 0 1) v.book.nextBook p).makeScores v.book.nextBook r.ctx p).answerLoad r none v.book.nextBook := by
  subst h hw
  rfl

end Sys2Proof.Machine.TableRequests

/-! SUPPORT. Requests that name a sequence, a future or a stream, and batches (05 R159, 07 R202 to R205, 09 R239 to R243, 14 R368 to R384). -/
namespace Sys2Proof.Machine.SequenceRequests
open MessageRequests TableRequests

variable {s : State} {r : Req} {m : Nat}

/-! Admission. -/

theorem exec_admit_error {c : Code} (h : (s.takeReq r).admitCheck r = .error c) (hs : s.Serves 0x0400 m r) :
    exec (.msgSeqAdmit m) s = .next ((s.takeReq r).refuse r c 14) :=
  exec_served rfl hs (by rw [h])

/-- A sequence admitted: its roster entry, its list, its tokens and its stream. -/
def admitted (u : State) (r : Req) (m : Nat) (b : Playbook) (i gen : Nat) : State :=
  let q : Seq := { Seq.fresh r.ctx b.court (r.fld 4 4) m with
    st := 2, gen := gen, adapter := r.fld 2 2, passes := if b.plan.isRollout = true then 1 else r.fld 12 1, chunk := r.fld 14 2
    contrib := r.words 16, frame := r.fld 32 4, resvPages := b.plan.pageReserve, resvCave := b.plan.caveReserve }
  let v := ((u.setSeq i q).makeList i b.court b.plan).chargeQuota (some r.ctx) 2 b.plan.caveReserve
  let v1 := ((v.addTokens (umpAccess r.ctx) i (r.fld 8 4)).granted (r.fld 8 4)).createStream i b
  (if b.plan.isRollout = true then v1.assignFuture i 0 0 0 else v1).engage r.ctx

theorem exec_admit_ok {b : Playbook} {i gen : Nat} (h : (s.takeReq r).admitCheck r = .ok (b, i, gen)) (hs : s.Serves 0x0400 m r) :
    let v := admitted (s.takeReq r) r m b i gen
    exec (.msgSeqAdmit m) s = .next (v.answer r 0 (leBytes 2 i ++ leBytes 4 (match v.seq i with | some q => q.future | none => 0) ++
      leBytes 4 gen ++ leBytes 4 0)).mark :=
  exec_served rfl hs (by rw [h]; rfl)

/-! A sequence that a request names. -/

section Named
variable (hn : (s.takeReq r).namedSeq r (r.fld 0 1) (r.fld 2 2) = none)
include hn

theorem namedStream_none : (s.takeReq r).namedStream r = .error E_ROST_STATE := by
  dsimp only [State.namedStream]; rw [hn]
theorem namedFuture_none : (s.takeReq r).namedFuture r (r.fld 0 1) (r.fld 2 2) = none := by
  dsimp only [State.namedFuture]; rw [hn]

theorem exec_seqEnd_none (hs : s.Serves 0x0401 m r) : exec (.msgSeqEnd m) s = .next ((s.takeReq r).refuse r E_ROST_STATE 6) :=
  exec_served rfl hs (by dsimp only; rw [hn])
theorem exec_repin_none (hs : s.Serves 0x0303 m r) : exec (.msgSeqRepin m) s = .next ((s.takeReq r).refuse r E_ROST_STATE 10) :=
  exec_served rfl hs (by dsimp only; rw [hn])
theorem exec_kvQuery_none (hs : s.Serves 0x0640 m r) : exec (.msgKvQuery m) s = .next ((s.takeReq r).refuse r E_ROST_STATE 22) :=
  exec_served rfl hs (by rw [hn])
theorem exec_rostSet_none (hs : s.Serves 0x0501 m r) : exec (.msgRostSet m) s = .next ((s.takeReq r).refuse r E_ROST_STATE 0) :=
  exec_served rfl hs (by dsimp only; rw [hn])
theorem exec_score_none (hs : s.Serves 0x0563 m r) : exec (.msgFutureScore m) s = .next ((s.takeReq r).refuse r E_FUTURE_STATE 14) :=
  exec_served rfl hs (by dsimp only; rw [hn])
theorem exec_futureQuery_none (hs : s.Serves 0x0564 m r) : exec (.msgFutureQuery m) s = .next ((s.takeReq r).refuse r E_FUTURE_STATE 30) :=
  exec_served rfl hs (by rw [hn])
end Named

section NoFuture
variable (hn : (s.takeReq r).namedFuture r (r.fld 0 1) (r.fld 2 2) = none)
include hn

theorem exec_seal_none (hs : s.Serves 0x0561 m r) : exec (.msgFutureSeal m) s = .next ((s.takeReq r).refuse r E_FUTURE_STATE 10) :=
  exec_served rfl hs (by dsimp only; rw [hn])
theorem exec_prune_none (hs : s.Serves 0x0562 m r) : exec (.msgFuturePrune m) s = .next ((s.takeReq r).refuse r E_FUTURE_STATE 10) :=
  exec_served rfl hs (by dsimp only; rw [hn])
end NoFuture

section NoStream
variable {c : Code} (hn : (s.takeReq r).namedStream r = .error c)
include hn

theorem exec_stateQuery_error (hs : s.Serves 0x0700 m r) : exec (.msgStateQuery m) s = .next ((s.takeReq r).refuse r c 30) :=
  exec_served rfl hs (by rw [hn])
theorem exec_stateExport_error (hs : s.Serves 0x0701 m r) : exec (.msgStateExport m) s = .next ((s.takeReq r).refuse r c 22) :=
  exec_served rfl hs (by rw [hn])
theorem exec_stateImport_error (hs : s.Serves 0x0702 m r) : exec (.msgStateImport m) s = .next ((s.takeReq r).refuse r c 14) :=
  exec_served rfl hs (by rw [hn])
theorem exec_stateClear_error (hs : s.Serves 0x0703 m r) : exec (.msgStateClear m) s = .next ((s.takeReq r).refuse r c 0) :=
  exec_served rfl hs (by rw [hn])
end NoStream

/-- The sequence that a request names is one of the roster. -/
theorem seq_of_namedSeq {u : State} {court i : Nat} {q : Seq} (h : u.namedSeq r court i = some q) : u.seq i = some q := by
  unfold State.namedSeq at h
  cases hi : u.seq i with
  | none => rw [hi] at h; exact nomatch h
  | some x =>
    rw [hi] at h
    dsimp only at h
    split at h
    · exact h
    · exact nomatch h

section Found
variable {q : Seq} (hn : (s.takeReq r).namedSeq r (r.fld 0 1) (r.fld 2 2) = some q)
include hn

theorem namedFuture_some (hf : q.isFuture = true) (hp : q.pruning = false) :
    (s.takeReq r).namedFuture r (r.fld 0 1) (r.fld 2 2) = some q := by
  dsimp only [State.namedFuture]; rw [hn]; exact if_pos (by rw [hf, hp]; rfl)
theorem namedFuture_other (h : q.isFuture = false ∨ q.pruning = true) :
    (s.takeReq r).namedFuture r (r.fld 0 1) (r.fld 2 2) = none := by
  dsimp only [State.namedFuture]; rw [hn]
  refine if_neg fun hc => ?_
  obtain ⟨hf, hp⟩ := Bool.and_eq_true_iff.1 hc
  obtain h | h := h
  · exact Bool.false_ne_true (h.symm.trans hf)
  · rw [h] at hp; exact Bool.false_ne_true hp
theorem namedStream_some {b : Playbook} (hb : (s.takeReq r).bookOf q = some b) (hst : q.hasStream = true) :
    (s.takeReq r).namedStream r = .ok (r.fld 2 2, q, b) := by
  dsimp only [State.namedStream]; rw [hn]; dsimp only; rw [hb]; exact if_pos hst

theorem exec_seqEnd (hs : s.Serves 0x0401 m r) :
    exec (.msgSeqEnd m) s = .next (if q.pruning = true then (s.takeReq r).refuse r E_ROST_STATE 6
      else ((s.takeReq r).setSeq (r.fld 2 2) { q with st := 3, waits := q.waits ++ [.fin r] }).mark) :=
  exec_served rfl hs (by dsimp only; rw [hn])
theorem exec_repin (hs : s.Serves 0x0303 m r) :
    exec (.msgSeqRepin m) s = .next ((s.takeReq r).setSeq (r.fld 2 2) { q with waits := q.waits ++ [.repin r] }).mark :=
  exec_served rfl hs (by dsimp only; rw [hn])
theorem exec_kvQuery {b : Playbook} (hb : (s.takeReq r).bookOf q = some b) (hs : s.Serves 0x0640 m r) :
    let u := s.takeReq r
    exec (.msgKvQuery m) s = .next (u.answer r 0 (leBytes 2 0 ++ leBytes 4 (u.openPages q).length ++
      leBytes 4 (q.pageKeys.eraseDups.length - (u.openPages q).length) ++ leBytes 4 q.resvPages ++
      leBytes 4 (if b.plan.rowWidth = 0 then 0 else b.plan.rowsUsed q) ++ leBytes 4 q.leavesUsed)) :=
  exec_served rfl hs (by rw [hn]; dsimp only; rw [hb])

/-! The roster. -/

theorem exec_grant (hr : (s.takeReq r).rosterMode (r.fld 0 1) = true) (hs : s.Serves 0x0500 m r) :
    exec (.msgRostGrant m) s = .next (if r.fld 4 4 = 0 ∨ 2 ^ 31 ≤ r.fld 4 4 then (s.takeReq r).refuse r E_SCH_ARG 6
      else if 2 ^ 31 ≤ q.tokens + r.fld 4 4 then (s.takeReq r).refuse r E_ROST_STATE 6
      else ((((s.takeReq r).addTokens (umpAccess q.ctx) (r.fld 2 2) (r.fld 4 4)).granted (r.fld 4 4)).answer r 0
        (leBytes 2 0 ++ leBytes 4 (q.tokens + r.fld 4 4))).mark) :=
  exec_served rfl hs ((if_neg fun h => not_not_of_true hr h.2).trans (by rw [hn]))

theorem exec_rostSet (hs : s.Serves 0x0501 m r) :
    exec (.msgRostSet m) s = .next (if 2 < r.fld 1 1 ∨ (r.fld 1 1 = 2 ∧
        (!((s.takeReq r).bookOf q).elim false (fun b => contribOk b.plan (r.words 8))) = true) then (s.takeReq r).refuse r E_SCH_ARG 0
      else (((s.takeReq r).setSeq (r.fld 2 2) (if r.fld 1 1 = 0 then { q with paused := true }
        else if r.fld 1 1 = 1 then { q with paused := false } else { q with contrib := r.words 8 })).answer r 0 []).mark) := by
  refine exec_served rfl hs ?_
  dsimp only
  rw [hn]
  dsimp only
  cases (s.takeReq r).bookOf q <;> rfl

/-! Futures. -/

theorem exec_score (hs : s.Serves 0x0563 m r) (hbad : (!q.isFuture) = true ∨ 2 < r.fld 1 1 ∨ (r.fld 1 1 = 1 ∧ (r.fld 4 2 = 0 ∨ 4096 < r.fld 4 2)) ∨
      (!destOk (r.fld 16 8)) = true ∨ (!((s.takeReq r).bookOf q).elim false (fun b => b.plan.scored)) = true) :
    exec (.msgFutureScore m) s = .next ((s.takeReq r).refuse r E_FUTURE_STATE 14) := by
  refine exec_served rfl hs ?_
  dsimp only
  rw [hn]
  refine if_pos (hbad.imp_right (Or.imp_right (Or.imp_right (Or.imp_right ?_))))
  cases (s.takeReq r).bookOf q <;> exact id

/-- MSG_FUTURE_SCORE that only ranks. -/
theorem exec_score_ranks {b : Playbook} (hb : (s.takeReq r).bookOf q = some b) (hf : q.isFuture = true) (ha : r.fld 1 1 = 0)
    (hd : destOk (r.fld 16 8) = true) (hsc : b.plan.scored = true) (hs : s.Serves 0x0563 m r) :
    let u := s.takeReq r
    let ranked := rankMembers (u.members q.family)
    let w := u.objWrite r.access (r.fld 16 8) (ranked.flatMap (fun x => leBytes 2 x.seq ++ leBytes 2 0 ++ leBytes 4 x.score))
    exec (.msgFutureScore m) s = .next (if w.2 ≠ 0 then w.1.refuse r w.2 14
      else w.1.answer r 0 (leBytes 2 ranked.length ++ leBytes 4 (meanScore (u.members q.family)) ++ leBytes 2 0 ++ leBytes 6 0)) := by
  intro u ranked w
  refine exec_served rfl hs ?_
  dsimp only
  rw [hn]
  dsimp only
  rw [hb]
  refine (if_neg ?_).trans (ite_congr rfl (fun _ => rfl) (fun _ => ?_))
  · rintro (h | h | h | h | h)
    · exact not_not_of_true hf h
    · omega
    · omega
    · exact not_not_of_true hd h
    · exact not_not_of_true hsc h
  · rw [if_neg (show ¬r.fld 1 1 = 1 by omega), if_neg (show ¬r.fld 1 1 = 2 by omega)]
    exact if_pos rfl

theorem exec_futureQuery (hf : q.isFuture = true) (hs : s.Serves 0x0564 m r) :
    let u := s.takeReq r
    let refs := q.pageKeys.filterMap (fun k => (u.page k).map (·.refs))
    exec (.msgFutureQuery m) s = .next (u.answer r 0 (leBytes 2 q.depth ++ leBytes 4 q.future ++ leBytes 4 q.parent ++ leBytes 4 q.family ++
      leBytes 4 (refs.filter (fun n => decide (n = 1))).length ++ leBytes 4 (refs.filter (fun n => decide (1 < n))).length ++
      leBytes 8 (match AMap.find? s.sch.scores q.playbook with | some t => blockBytes * t | none => 0))) :=
  exec_served rfl hs (by rw [hn]; exact if_neg (not_not_of_true hf))
end Found

/-! Tokens. -/

theorem sch_of_inMemFlt {s t : State} (h : InMemFlt s t) : t.sch = s.sch := by unfold InMemFlt at h; rw [h]

theorem sch_objVat (s : State) (ac : Access) (code : BitVec 4) (a : Nat) (xs : List Byte) : (s.objVat ac code a xs).1.sch = s.sch := by
  unfold State.objVat State.vatApply
  dsimp only
  have hread (x : Nat) := sch_of_inMemFlt (s.stackRead_frame ac.sev ac.ctx x xs.length)
  split
  · rfl
  · split
    · rfl
    · split
      · rfl
      · split
        · exact hread _
        · exact (sch_of_inMemFlt (State.stackWrite_frame _ _ _ _ _)).trans ((sch_of_inMemFlt (State.markDirty_frame _ _ _)).trans (hread _))

/-- The state that tokens are added to: the roster's field in the stacks written, the scheduler as it was. -/
theorem addTokens_eq (s : State) (ac : Access) (i : Nat) (n : Int) :
    ∃ v : State, v.sch = s.sch ∧ s.addTokens ac i n = v.modSeq i (fun q => { q with tokens := ((q.tokens : Int) + n).toNat }) := by
  unfold State.addTokens
  dsimp only
  cases s.rosterAt with
  | none => exact ⟨s, rfl, rfl⟩
  | some a => exact ⟨_, sch_objVat .., rfl⟩

theorem granted_tokens {u : State} {q : Seq} {i : Nat} (hq : u.seq i = some q) (ac : Access) (n : Nat) (q' : Seq)
    (h : ((u.addTokens ac i n).granted n).seq i = some q') : q'.tokens = q.tokens + n := by
  obtain ⟨v, hv, he⟩ := addTokens_eq u ac i n
  rw [he] at h
  change (v.modSeq i _).seq i = some q' at h
  rw [Branches.seq_mod, if_pos rfl, show v.seq i = some q by unfold State.seq at hq ⊢; rw [hv]; exact hq] at h
  obtain rfl := Option.some.inj h
  exact (congrArg Int.toNat (Int.natCast_add _ _).symm).trans (Int.toNat_natCast _)

theorem granted_count (u : State) (ac : Access) (i n : Nat) :
    ((u.addTokens ac i n).granted n).sch.tokGranted = u.sch.tokGranted + BitVec.ofNat 64 n := by
  obtain ⟨v, hv, he⟩ := addTokens_eq u ac i n
  rw [he, ← hv]
  rfl

/-! Futures that a request may name. -/

section Future
variable {q : Seq} (hn : (s.takeReq r).namedFuture r (r.fld 0 1) (r.fld 2 2) = some q)
include hn

theorem exec_seal (hs : s.Serves 0x0561 m r) :
    exec (.msgFutureSeal m) s = .next ((s.takeReq r).setSeq (r.fld 2 2) { q with waits := q.waits ++ [.sealPages r] }).mark :=
  exec_served rfl hs (by dsimp only; rw [hn])

theorem exec_prune (hs : s.Serves 0x0562 m r) :
    let u := s.takeReq r
    let sub := (r.fld 1 1).testBit 0
    let out := r.fld 2 2 :: (if sub = true then (u.descendants q.future).map (·.1) else [])
    exec (.msgFuturePrune m) s = .next (out.foldl (fun s k => s.orderPrune (u.openPrunes r out.length none).2 k sub)
      (u.openPrunes r out.length none).1).mark :=
  exec_served rfl hs (by dsimp only; rw [hn])

theorem exec_branch {b : Playbook} {kids : List Nat} (h0 : 0 < r.fld 4 2) (h1 : r.fld 4 2 ≤ 1024) (hd : destOk (r.fld 8 8) = true)
    (hk : ((s.takeReq r).holdChildren q m (r.fld 4 2)).2 = some kids) (hb : (s.takeReq r).bookOf q = some b) (hs : s.Serves 0x0560 m r) :
    let u := s.takeReq r
    exec (.msgFutureBranch m) s = .next (if (!u.canReserve (r.fld 0 1) b.plan q.ctx (r.fld 4 2)) = true then u.refuse r E_KV_RESERVE 14
      else ((kids.foldl (fun s c => s.makeList c (r.fld 0 1) b.plan) (u.holdChildren q m (r.fld 4 2)).1).modSeq (r.fld 2 2)
        (fun q => { q with waits := q.waits ++ [.branch r ((r.fld 1 1).testBit 0) (r.fld 8 8) kids] })).mark) := by
  intro u
  refine exec_served rfl hs ((if_neg (by omega)).trans ?_)
  dsimp only
  rw [hn]
  refine (if_neg (not_not_of_true hd)).trans ?_
  rw [hk, hb]
end Future

/-! Streams that a request may name. -/

/-- The arguments of an export that pass. -/
theorem exportOk_iff : (r.fld 1 1 ≤ 2 ∧ r.fld 8 8 % 4096 = 0 ∧ r.fld 8 8 < 2 ^ 52) ↔ ¬(2 < r.fld 1 1 ∨ r.fld 8 8 % 4096 ≠ 0 ∨ 2 ^ 52 ≤ r.fld 8 8) := by
  simp only [not_or, not_lt, not_not, not_le]

section Stream
variable {q : Seq} {b : Playbook} (hn : (s.takeReq r).namedStream r = .ok (r.fld 2 2, q, b))
include hn

theorem exec_stateQuery (hs : s.Serves 0x0700 m r) :
    exec (.msgStateQuery m) s = .next ((s.takeReq r).answer r 0 ([BitVec.ofNat 8 q.streamCode] ++ leBytes 5 0 ++ leBytes 8 q.stream.seqNo.toNat ++
      leBytes 4 (match q.stream.slot with | some k => k | none => 0xFFFFFFFF) ++ leBytes 4 b.plan.streamTiles ++ leBytes 8 b.plan.imageLen)) :=
  exec_served rfl hs (by rw [hn] <;> rfl)

theorem exec_stateExport (hs : s.Serves 0x0701 m r) :
    let u := s.takeReq r
    exec (.msgStateExport m) s = .next (if 2 < r.fld 1 1 ∨ r.fld 8 8 % 4096 ≠ 0 ∨ 2 ^ 52 ≤ r.fld 8 8 then u.refuse r E_OBJ_ARG 22
      else if r.fld 16 8 < b.plan.imageLen then u.refuse r E_STATE_ROOM 22
      else if q.stream.st = .lost then u.refuse r E_STATE_LOST 22
      else if q.copying = true then u.refuse r E_STATE_BUSY 22
      else u.setSeq (r.fld 2 2) { q with waits := q.waits ++ [.exporting r (r.fld 1 1) (r.fld 8 8)] }) :=
  exec_served rfl hs (by rw [hn])

/-- An import whose image was checked. -/
def importStarted (r : Req) (q : Seq) (c : State × Code × List Byte × W64) : State :=
  if c.2.1 ≠ 0 then c.1.refuse r c.2.1 14
  else c.1.setSeq (r.fld 2 2) { q with
    copy := some ⟨false, r, 0, r.fld 8 8, r.fld 16 8, (r.fld 1 1).testBit 0, r.fld 24 8, q.stream.slot.isNone⟩
    stream := if q.stream.slot = none then { q.stream with slot := c.1.slotFor q } else q.stream }

theorem exec_stateImport (h1 : r.fld 8 8 % 4096 = 0) (h2 : r.fld 8 8 < 2 ^ 52) (h3 : q.copying = false) (h4 : 128 ≤ r.fld 16 8)
    (h5 : q.stream.image = none ∨ q.stream.image = some (r.fld 8 8)) (hs : s.Serves 0x0702 m r) :
    exec (.msgStateImport m) s = .next (importStarted r q
      ((s.takeReq r).importCheck r q b (r.fld 8 8) (r.fld 16 8) ((r.fld 1 1).testBit 0) (r.fld 24 8))) := by
  refine exec_served rfl hs ?_
  rw [hn]
  refine (if_neg (not_or.2 ⟨not_not.2 h1, not_le.2 h2⟩)).trans ((if_neg (ne_true_of_eq_false h3)).trans ((if_neg ?_).trans
    (ite_congr rfl (fun _ => rfl) (fun _ => ?_))))
  · rintro (h | ⟨h, hne⟩)
    · exact absurd h (not_lt.2 h4)
    · obtain h5 | h5 := h5
      · rw [h5] at h; exact Bool.false_ne_true h
      · exact hne h5
  · dsimp only
    rw [if_congr Option.isNone_iff_eq_none rfl rfl]

theorem exec_stateClear (hs : s.Serves 0x0703 m r) :
    let u := s.takeReq r
    exec (.msgStateClear m) s = .next (if q.copying = true then u.refuse r E_STATE_BUSY 0 else (u.slotFor q).elim (u.refuse r E_STATE_NOSLOT 0)
      (fun k => ((u.installStream (r.fld 2 2) k b (List.replicate (6144 * b.plan.streamTiles) 0) (BitVec.ofNat 64 (r.fld 8 8))).answer r 0 []).mark)) := by
  intro u
  refine exec_served rfl hs ?_
  rw [hn]
  refine ite_congr rfl (fun _ => rfl) (fun _ => ?_)
  cases u.slotFor q <;> rfl
end Stream

/-! Batches. -/

/-- A batch whose descriptor was read, of a context it names: with its playbook, and before that is found. -/
def batchFound (v : State) (r : Req) (sv : List Nat) (es : List StepEnt) (book : Nat) (b : Playbook) : State :=
  if b.plan.exceeds sv = true then v.answerBatch r E_SHAPE_OVER 0 0xFFFF
  else if 1 < (v.batchGens es).length ∨ (b.plan.wgt.any (fun w => w.parts.testBit 3) = true ∧ 1 < (v.batchAdapters es).length) then
    v.answerBatch r E_WGT_MIXED 0 0xFFFF
  else if 8 ≤ (v.ctxSt r.ctx).queue.length then v.answerBatch r E_SCH_QUEUE 0 0xFFFF
  else ((v.setCtx r.ctx { v.ctxSt r.ctx with queue := (v.ctxSt r.ctx).queue ++ [⟨r, r.fld 0 1, book, sv, es, v.modesNow (r.fld 0 1) b.plan,
    (v.batchGens es).headD 0⟩] }).engage r.ctx).mark
def batchRead (v : State) (r : Req) (sv : List Nat) (es : List StepEnt) (book : Nat) : State :=
  let c := v.batchEntries (r.fld 0 1) r.ctx book es [] 0
  if c.1 ≠ 0 then v.answerBatch r c.1 0 c.2
  else (AMap.find? v.book.books book).elim (v.answerBatch r E_ROST_STATE 0 0) (batchFound v r sv es book)

theorem batchRead_found {v : State} {sv : List Nat} {es : List StepEnt} {book : Nat} {b : Playbook}
    (he : (v.batchEntries (r.fld 0 1) r.ctx book es [] 0).1 = 0) (hb : AMap.find? v.book.books book = some b) :
    batchRead v r sv es book = batchFound v r sv es book b := by
  refine (if_neg (not_not.2 he)).trans ?_
  rw [hb]; rfl

/-- The shape values and the entries of a batch descriptor. -/
def batchShape (d : List Byte) : List Nat := (List.range 16).map (fun i => leAt d (4 * i) 4)
def batchEnts (r : Req) (d : List Byte) : List StepEnt := (List.range (r.fld 2 2)).map (fun i => stepEntOf (bytesAt d (64 + 16 * i) 16))

section Batch
variable (hd : s.courtDefined (r.fld 0 1) = true) (hmode : (s.takeReq r).rosterMode (r.fld 0 1) = false) (h1 : 1 ≤ r.fld 2 2) (h2 : r.fld 2 2 ≤ 4096)
  (h3 : r.fld 8 8 % 64 = 0)
include hd hmode h1 h2 h3

theorem exec_batch_unread {d : State × Code × List Byte} (hr : (s.takeReq r).objRead r.access (r.fld 8 8) (64 + 16 * r.fld 2 2) = d)
    (hc : d.2.1 ≠ 0) (hs : s.Serves 0x0402 m r) : exec (.msgBatchSubmit m) s = .next (d.1.answerBatch r d.2.1 0 0xFFFF) := by
  subst hr
  exact exec_served rfl hs ((if_neg (not_or.2 ⟨not_not_of_true (b := s.courtDefined (r.fld 0 1)) hd, ne_true_of_eq_false hmode⟩)).trans
    ((if_neg (by omega)).trans (if_pos hc)))

theorem exec_batch {q : Seq} {d : State × Code × List Byte} {sv : List Nat} {es : List StepEnt}
    (hr : (s.takeReq r).objRead r.access (r.fld 8 8) (64 + 16 * r.fld 2 2) = d) (hsv : batchShape d.2.2 = sv) (hes : batchEnts r d.2.2 = es)
    (hc : d.2.1 = 0) (hx : r.ctx ≠ 0xFFFF) (hq : es.findSome? (fun e => d.1.seq e.seq) = some q) (hs : s.Serves 0x0402 m r) :
    exec (.msgBatchSubmit m) s = .next (batchRead d.1 r sv es q.playbook) := by
  subst hr hsv hes
  refine exec_served rfl hs ((if_neg (not_or.2 ⟨not_not_of_true (b := s.courtDefined (r.fld 0 1)) hd, ne_true_of_eq_false hmode⟩)).trans
    ((if_neg (by omega)).trans ((if_neg (not_not.2 hc)).trans ?_)))
  dsimp only [batchRead, batchShape, batchEnts] at hq ⊢
  rw [if_neg hx, hq]
  refine ite_congr rfl (fun _ => rfl) (fun _ => ?_)
  cases AMap.find? _ q.playbook <;> rfl
end Batch

/-! Contexts and roster entries. -/

theorem exec_ctxQuery (hs : s.Serves 0x0403 m r) :
    let u := s.takeReq r
    let c := r.fld 0 2
    exec (.msgCtxQuery m) s = .next ((u.ctxRec c).elim (u.refuse r E_SCH_CONTEXT 22) (fun x => if (!u.permits m c) = true then u.refuse r E_SCH_CONTEXT 22
      else u.answer r 0 ([BitVec.ofNat 8 (u.ctxSt c).st, BitVec.ofNat 8 (b2n ((u.ctxSt c).st == 1 && u.blocked c) + 2 * b2n x.lc)] ++ leBytes 2 (u.liveIn c) ++
        [BitVec.ofNat 8 (if (u.ctxSt c).st = 1 then (u.ctxSt c).slot else 0xFF), 0] ++ leBytes 8 (u.benchBytes c) ++ leBytes 8 (u.ctxSt c).steps))) := by
  intro u c
  refine exec_served rfl hs ?_
  dsimp only
  cases (s.takeReq r).ctxRec (r.fld 0 2) <;> rfl

theorem exec_rostQuery {q : Seq} (hq : (s.takeReq r).seq (r.fld 2 2) = some q) (hs : s.Serves 0x0502 m r) :
    exec (.msgRostQuery m) s = .next (if q.court ≠ r.fld 0 1 ∨ (q.ctx ≠ r.ctx ∧ (!isMgmt m) = true) then (s.takeReq r).refuse r E_ROST_STATE 70
      else (s.takeReq r).answer r 0 (leBytes 6 0 ++ q.entryBytes)) :=
  exec_served rfl hs (by rw [hq])

end Sys2Proof.Machine.SequenceRequests

/-! SUPPORT. Requests of codec streams (15 R405 to R410). -/
namespace Sys2Proof.Machine.CodecRequests
open MessageRequests TableRequests

variable {s : State} {r : Req} {m : Nat}

/-! Opens. -/

/-- MSG_CDC_OPEN at the engine it goes to. -/
def opened (u : State) (r : Req) (e : Nat) : State :=
  let c := streamOfOpen r
  let load := c.loadAt c.fps
  let code := if c.dir = 0 then u.accessCode r.access.ag true c.ring c.outBytes else 0
  let q := u.createObj (some r.ctx) .made 393216 0 0
  let i := AMap.lowestFree q.1.cdc.streams 256 0
  if 1000000 < u.loadOf e + load ∨ 16 ≤ (u.streamsOf e).length then u.refuse r E_CDC_LOAD 10
  else if code ≠ 0 then u.refuse r code 10
  else if q.2.1 ≠ 0 then q.1.refuse r q.2.1 10
  else (q.1.setStream i { c with eng := e, load := load, obj := q.2.2 }).answer r 0 (leBytes 2 i ++ leBytes 1 e ++ leBytes 3 0 ++ leBytes 4 load)

theorem exec_open (h1 : (streamOfOpen r).argOk r = true) (h2 : r.ctx < 1024) (h3 : (streamOfOpen r).kindOk = true)
    (h4 : (streamOfOpen r).sizeOk = true) (hs : s.Serves 0x0800 m r) :
    exec (.msgCdcOpen m) s = .next (((s.takeReq r).engineFor (streamOfOpen r).eng).elim ((s.takeReq r).refuse r E_CDC_ENGINE 10)
      (opened (s.takeReq r) r)) := by
  refine exec_served rfl hs ((if_neg (not_or.2 ⟨not_not_of_true h1, not_lt.2 (Nat.le_of_lt_succ h2)⟩)).trans
    ((if_neg (not_or.2 ⟨not_not_of_true h3, not_not_of_true h4⟩)).trans ?_))
  dsimp only
  cases (s.takeReq r).engineFor (streamOfOpen r).eng <;> rfl

/-! Streams that a request may name. -/

section None
variable (hn : (s.takeReq r).streamFor r = none)
include hn

theorem exec_pool_none (hs : s.Serves 0x0801 m r) : exec (.msgCdcPool m) s = .next ((s.takeReq r).refuse r E_CDC_STATE 1) :=
  exec_served rfl hs (by rw [hn])
theorem exec_frame_none (hs : s.Serves 0x0802 m r) : exec (.msgCdcFrame m) s = .next ((s.takeReq r).refuse r E_CDC_STATE 4) :=
  exec_served rfl hs (by rw [hn])
theorem exec_set_none (hs : s.Serves 0x0804 m r) : exec (.msgCdcSet m) s = .next ((s.takeReq r).refuse r E_CDC_STATE 0) :=
  exec_served rfl hs (by rw [hn])
theorem exec_close_none (hs : s.Serves 0x0805 m r) : exec (.msgCdcClose m) s = .next ((s.takeReq r).refuse r E_CDC_STATE 0) :=
  exec_served rfl hs (by rw [hn])
end None

section Stream
variable {i : Nat} {c : CStream} (hn : (s.takeReq r).streamFor r = some (i, c))
include hn

theorem exec_close (hs : s.Serves 0x0805 m r) :
    exec (.msgCdcClose m) s = .next (((s.takeReq r).setStream i { c with closing := some 0 }).answer r 0 []) :=
  exec_served rfl hs (by rw [hn])

/-! The pool. -/

section Pool
variable (hk : r.fld 2 1 ≤ 15)
include hk

/-- A buffer joins the pool. -/
theorem exec_pool_add (h0 : r.fld 3 1 = 0) (ho : AMap.find? c.pool (r.fld 2 1) = none)
    (hb : (s.takeReq r).bufOk r.access.ag c ⟨r.fld 8 8, r.fld 16 4, r.fld 20 4, r.fld 24 8, 0, 0, 0⟩ = true) (hs : s.Serves 0x0801 m r) :
    exec (.msgCdcPool m) s = .next (((s.takeReq r).setStream i
      { c with pool := AMap.insert c.pool (r.fld 2 1) ⟨r.fld 8 8, r.fld 16 4, r.fld 20 4, r.fld 24 8, 0, 0, 0⟩ }).answer r 0 (leBytes 1 0)) := by
  refine exec_served rfl hs ?_
  rw [hn]
  refine (if_neg (by omega)).trans ((if_neg (not_lt.2 hk)).trans ?_)
  rw [h0, ho]
  exact if_pos hb

/-- A buffer leaves the pool where it is free. -/
theorem exec_pool_drop {b : PoolBuf} (h1 : r.fld 3 1 = 1) (ho : AMap.find? c.pool (r.fld 2 1) = some b) (hs : s.Serves 0x0801 m r) :
    exec (.msgCdcPool m) s = .next (if CStream.freeBuf b = true
      then ((s.takeReq r).setStream i { c with pool := AMap.erase c.pool (r.fld 2 1) }).answer r 0 (leBytes 1 b.marks.toNat)
      else (s.takeReq r).answer r E_CDC_POOL (leBytes 1 b.marks.toNat)) := by
  refine exec_served rfl hs ?_
  rw [hn]
  refine (if_neg (by omega)).trans ((if_neg (not_lt.2 hk)).trans ?_)
  rw [h1, ho] <;> rfl

/-- A buffer is given back. -/
theorem exec_pool_back {b : PoolBuf} (h2 : r.fld 3 1 = 2) (ho : AMap.find? c.pool (r.fld 2 1) = some b) (hs : s.Serves 0x0801 m r) :
    exec (.msgCdcPool m) s = .next (((s.takeReq r).setStream i
      { c with pool := AMap.insert c.pool (r.fld 2 1) { b with marks := b.marks &&& 0xF7#8 } }).answer r 0 (leBytes 1 (b.marks &&& 0xF7#8).toNat)) := by
  refine exec_served rfl hs ?_
  rw [hn]
  refine (if_neg (by omega)).trans ((if_neg (not_lt.2 hk)).trans ?_)
  rw [h2, ho] <;> rfl
end Pool

/-! Frames. -/

theorem exec_frame_full (hq : 32 ≤ c.queue.length) (hs : s.Serves 0x0802 m r) :
    exec (.msgCdcFrame m) s = .next ((s.takeReq r).refuse r E_CDC_STATE 4) :=
  exec_served rfl hs (by rw [hn]; exact if_pos hq)

/-- A frame accepted: its number, its place in the stream's queue, and the pool from then on. -/
def frameTaken (u : State) (r : Req) (i : Nat) (c : CStream) (pool : AMap PoolBuf) : State :=
  let v := u.setStream i { c with queue := c.queue ++ [⟨c.nextFrame, r.fld 2 1, r.fld 3 1, r.fld 4 4, r.fld 8 8, r.fld 16 8, r.fld 24 8, u.cdc.order⟩]
                                  nextFrame := c.nextFrame + 1, pool := pool }
  ({ v with cdc := { v.cdc with order := v.cdc.order + 1 } } : State).answer r 0 (leBytes 4 c.nextFrame)

theorem exec_frame_encode {b : PoolBuf} (hq : c.queue.length < 32) (hd : c.dir = 0) (hf : r.fld 2 1 ≤ 1) (h0 : r.fld 4 4 = 0)
    (ho : AMap.find? c.pool (r.fld 3 1) = some b) (hs : s.Serves 0x0802 m r) :
    exec (.msgCdcFrame m) s = .next (if CStream.freeBuf b = true then frameTaken (s.takeReq r) r i c
        (AMap.adjust c.pool (r.fld 3 1) (fun b => { b with marks := b.marks ||| 1#8, num := c.nextFrame, pts := r.fld 8 8 }))
      else (s.takeReq r).refuse r E_CDC_POOL 4) := by
  refine exec_served rfl hs ?_
  rw [hn]
  dsimp only
  rw [if_neg (not_le.2 hq), if_pos hd, decide_eq_true hf, decide_eq_true h0, if_neg (show ¬(!(true && true)) = true from Bool.false_ne_true), ho]
  by_cases hb : CStream.freeBuf b = true
  · rw [if_pos hb, if_neg fun h => not_not_of_true hb h.2, if_neg (show ¬c.dir = 1 by omega), if_neg (not_not.2 rfl), if_pos hd]
    rfl
  · rw [if_neg hb]
    exact if_pos ⟨hd, not_of_false (Bool.eq_false_iff.2 hb)⟩

theorem exec_frame_decode (hq : c.queue.length < 32) (hd : c.dir = 1) (hf : r.fld 2 1 = 0 ∨ r.fld 2 1 = 2) (h0 : r.fld 3 1 = 0)
    (ha : (s.takeReq r).accessCode r.access.ag false (r.fld 16 8) (r.fld 4 4) = 0) (hs : s.Serves 0x0802 m r) :
    exec (.msgCdcFrame m) s = .next (frameTaken (s.takeReq r) r i c c.pool) := by
  have hd0 : ¬c.dir = 0 := by omega
  refine exec_served rfl hs ?_
  rw [hn]
  dsimp only
  rw [if_neg (not_le.2 hq), if_neg hd0, decide_eq_true hf, decide_eq_true h0, if_neg (show ¬(!(true && true)) = true from Bool.false_ne_true),
    if_neg (fun h => hd0 h.1), if_pos hd, if_neg (not_not.2 ha), if_neg hd0]
  rfl

/-! Settings. -/

theorem exec_set_rate (h0 : r.fld 2 1 = 0) (hd : c.dir = 0) (hv : r.fld 8 8 < 2 ^ 32) (hs : s.Serves 0x0804 m r) :
    exec (.msgCdcSet m) s = .next (((s.takeReq r).setStream i { c with kbpsSet := r.fld 8 8 }).answer r 0 []) := by
  refine exec_served rfl hs ?_
  rw [hn]
  exact (if_pos h0).trans (if_pos ⟨hd, hv⟩)

theorem exec_set_fps (h1 : r.fld 2 1 = 1) (hv : 1 ≤ r.fld 8 8) (hv' : r.fld 8 8 ≤ 240000) (hs : s.Serves 0x0804 m r) :
    exec (.msgCdcSet m) s = .next (if 1000000 < (s.takeReq r).loadOf c.eng - c.load + c.loadAt (r.fld 8 8) then (s.takeReq r).refuse r E_CDC_LOAD 0
      else ((s.takeReq r).setStream i { c with fpsSet := r.fld 8 8, load := c.loadAt (r.fld 8 8) }).answer r 0 []) := by
  refine exec_served rfl hs ?_
  rw [hn]
  exact (if_neg (by omega)).trans ((if_pos h1).trans (if_neg (by omega)))

/-- The read offset moved on to a place in what the ring holds. -/
def nextRead (r : Req) (c : CStream) : Nat := c.rd + (r.fld 8 8 + c.outBytes - c.rd % max 1 c.outBytes) % max 1 c.outBytes

theorem exec_set_read (h2 : r.fld 2 1 = 2) (hd : c.dir = 0) (hv : r.fld 8 8 < c.outBytes) (hw : nextRead r c ≤ c.wr) (hs : s.Serves 0x0804 m r) :
    exec (.msgCdcSet m) s = .next (((s.takeReq r).setStream i { c with rd := nextRead r c }).answer r 0 []) := by
  refine exec_served rfl hs ?_
  rw [hn]
  exact (if_neg (by omega)).trans ((if_neg (by omega)).trans ((if_pos h2).trans (if_pos ⟨hd, hv, hw⟩)))

theorem exec_set_other (h : 2 < r.fld 2 1) (hs : s.Serves 0x0804 m r) : exec (.msgCdcSet m) s = .next ((s.takeReq r).refuse r E_CDC_ARG 0) := by
  refine exec_served rfl hs ?_
  rw [hn]
  exact (if_neg (by omega)).trans ((if_neg (by omega)).trans (if_neg (by omega)))
end Stream

end Sys2Proof.Machine.CodecRequests

open Sys2Proof Sys2Proof.Machine Sys2Proof.Machine.MessageRequests Sys2Proof.Machine.TableRequests Sys2Proof.Machine.SequenceRequests
  Sys2Proof.Machine.CodecRequests in
/-- Settles O56: it holds. Each request is one command; its transaction is read branch by branch. -/
theorem workRequests : Obligations.WorkRequests := by
  unfold Obligations.WorkRequests
  intro s r m u ran z court layer named
  refine ⟨?prec, ?precBad, ?fbBad, ?fb, ?tables, ?trial, ?loadBad, ?load, ?admitBad, ?admitOk, ?unnamed, ?named, ?batchMode, ?batch, ?ctx, ?query, ?cdcOpen,
    ?cdcNone, ?cdc⟩
  case prec =>
    intro e f hd hl he hf hs
    refine (exec_precQuery hs).trans (congrArg _ ((if_neg (not_or.2 ⟨not_not_of_true (b := s.courtDefined court) hd, hl⟩)).trans ?_))
    rw [he, hf]; rfl
  case precBad =>
    intro h hs
    obtain h | h | h := h
    · exact exec_served rfl hs (if_pos (.inl (not_of_false h)))
    · exact exec_served rfl hs (if_pos (.inr h))
    · refine (exec_precQuery hs).trans (congrArg _ ?_)
      rw [h]; exact ite_self _
  case fbBad =>
    exact fun h hs => exec_served rfl hs (if_pos (h.imp_left not_of_false))
  case fb =>
    exact fun e hd ha hl he => ⟨fun hp hs => (exec_fallbackSet hd ha hl he hs).trans (congrArg _ (if_pos hp)),
      fun hp hs => (exec_fallbackSet hd ha hl he hs).trans (congrArg _ (if_neg hp))⟩
  case tables =>
    intro hd hk k
    refine ⟨fun g t h hs => (exec_tableQuery hd hk hs).trans (congrArg _ ?_), fun h hs => (exec_tableQuery hd hk hs).trans (congrArg _ ?_),
      fun ha hb hs => (exec_tableLoad hd hk ha hs).trans (congrArg _ (if_pos (hb.imp_right Option.isSome_iff_ne_none.2))), ?_⟩
    · exact congrArg (fun o : Option (Nat × CTable) => o.elim _ _) h
    · exact congrArg (fun o : Option (Nat × CTable) => o.elim _ _) h
    · intro ha hp ht q t v
      have hfree : ¬(u.tabPending (r.fld 0 1) (r.fld 1 1) ≠ 0 ∨ (AMap.find? u.book.tableReq (8 * r.fld 0 1 + r.fld 1 1)).isSome = true) :=
        not_or.2 ⟨not_not.2 hp, fun h => Option.isSome_iff_ne_none.1 h ht⟩
      exact ⟨fun hq hs => (exec_tableLoad hd hk ha hs).trans (congrArg _ ((if_neg hfree).trans (if_pos hq))),
        fun hq ht hs => (exec_tableLoad hd hk ha hs).trans (congrArg _ ((if_neg hfree).trans ((if_neg (not_not.2 hq)).trans (if_pos ht)))),
        fun hq ht hs => (exec_tableLoad hd hk ha hs).trans (congrArg _ (((if_neg hfree).trans ((if_neg (not_not.2 hq)).trans (if_neg (not_not.2 ht)))).trans
          (tableTaken_eq (w := v) rfl)))⟩
  case trial =>
    exact fun h hs => exec_served rfl hs (if_pos h)
  case loadBad =>
    exact fun h hb hs => exec_served rfl hs ((if_neg (ne_true_of_eq_false h)).trans (if_pos (hb.imp_left not_of_false)))
  case load =>
    rintro c q ht hd h1 h2 h3 h4 ⟨x, hx, hc⟩ h0
    have hb : ¬badLoad s r := not_or.2 ⟨not_not_of_true hd, not_or.2 ⟨not_not.2 h1, not_or.2 ⟨h2, not_or.2 ⟨not_lt.2 h3, not_le.2 h4⟩⟩⟩⟩
    refine ⟨fun f hf hs => (exec_load ht hb hx hc h0 hs).trans (congrArg _ (planRead_unread hf)),
      fun f hf hp hs => (exec_load ht hb hx hc h0 hs).trans (congrArg _ (planRead_bad hf hp)), fun hf hp hfit hr => ?_⟩
    intro v set v1 hs
    have hset : (AMap.find? v.book.books 0).elim 0 (·.set) = set := by
      dsimp only [set]
      cases AMap.find? v.book.books 0 <;> rfl
    exact (exec_load ht hb hx hc h0 hs).trans (congrArg _ ((planRead_ok hf hp hfit hr).trans (loaded_eq (v := v) (w := v1) hset rfl)))
  case admitBad =>
    exact fun c h hs => exec_admit_error h hs
  case admitOk =>
    intro b i gen h q v v1 v2 hs
    exact exec_admit_ok h hs
  case unnamed =>
    intro hn
    exact ⟨exec_seqEnd_none hn, exec_repin_none hn, exec_kvQuery_none hn, exec_rostSet_none hn, exec_score_none hn, exec_futureQuery_none hn,
      exec_seal_none (namedFuture_none hn), exec_prune_none (namedFuture_none hn), exec_stateQuery_error (namedStream_none hn),
      exec_stateExport_error (namedStream_none hn), exec_stateImport_error (namedStream_none hn), exec_stateClear_error (namedStream_none hn)⟩
  case named =>
    intro q hn i put waits
    refine ⟨fun hp hs => (exec_seqEnd hn hs).trans (congrArg _ (if_pos hp)),
      fun hp hs => (exec_seqEnd hn hs).trans (congrArg _ (if_neg (ne_true_of_eq_false hp))), exec_repin hn, fun b hb => exec_kvQuery hn hb, ?grant,
      fun h hs => (exec_rostSet hn hs).trans (congrArg _ ((if_neg (by omega)).trans ?pause)),
      fun h hs => (exec_rostSet hn hs).trans (congrArg _ ((if_neg (by omega)).trans ?resume)), ?contrib,
      fun h hs => (exec_rostSet hn hs).trans (congrArg _ (if_pos (.inl h))), ?future, ?noFuture, ?branch, ?unscored, ?score, exec_futureQuery hn, ?stream⟩
    case grant =>
      intro hd hr n
      refine ⟨fun h hs => (exec_grant hn hr hs).trans (congrArg _ (if_pos h)),
        fun h1 h2 h3 hs => (exec_grant hn hr hs).trans (congrArg _ ((if_neg (by omega)).trans (if_pos h3))), fun h1 h2 h3 => ?_⟩
      intro v
      exact ⟨granted_tokens (seq_of_namedSeq hn) _ _, granted_count u _ _ _,
        fun hs => (exec_grant hn hr hs).trans (congrArg _ ((if_neg (by omega)).trans (if_neg (not_le.2 h3))))⟩
    case pause => rw [if_pos h]
    case resume => rw [if_neg (by omega), if_pos h]
    case contrib =>
      intro b h2 hb
      refine ⟨fun hc hs => (exec_rostSet hn hs).trans (congrArg _ ((if_neg ?_).trans ?_)), fun hc hs => (exec_rostSet hn hs).trans (congrArg _ (if_pos ?_))⟩
      · rw [hb]
        exact not_or.2 ⟨by omega, fun h => not_not_of_true hc h.2⟩
      · rw [if_neg (by omega), if_neg (by omega)]
      · rw [hb]
        exact .inr ⟨h2, not_of_false hc⟩
    case future =>
      intro hf hp sub out g
      exact ⟨exec_seal (namedFuture_some hn hf hp), exec_prune (namedFuture_some hn hf hp)⟩
    case noFuture =>
      exact fun h => ⟨exec_seal_none (namedFuture_other hn h), exec_prune_none (namedFuture_other hn h)⟩
    case branch =>
      exact fun b kids hf hp h0 h1 hd hk hb =>
        ⟨fun hc hs => (exec_branch (namedFuture_some hn hf hp) h0 h1 hd hk hb hs).trans (congrArg _ (if_pos (not_of_false hc))),
         fun hc hs => (exec_branch (namedFuture_some hn hf hp) h0 h1 hd hk hb hs).trans (congrArg _ (if_neg (not_not_of_true hc)))⟩
    case unscored =>
      exact fun b hb hf hsc hs => exec_score hn hs (.inr (.inr (.inr (.inr (by rw [hb]; exact not_of_false hsc)))))
    case score =>
      intro b hb hf ha hd hsc ms ranked w
      exact ⟨fun hw hs => (exec_score_ranks hn hb hf ha hd hsc hs).trans (congrArg _ (if_neg (not_not.2 hw))),
        fun hw hs => (exec_score_ranks hn hb hf ha hd hsc hs).trans (congrArg _ (if_pos hw))⟩
    case stream =>
      intro b hb hst
      have hx := namedStream_some hn hb hst
      refine ⟨exec_stateQuery hx, ?out, ?into, fun hc hs => (exec_stateClear hx hs).trans (congrArg _ (if_pos hc)),
        fun hc hk hs => (exec_stateClear hx hs).trans (congrArg _ ((if_neg (ne_true_of_eq_false hc)).trans ?noSlot)),
        fun k hc hk hs => (exec_stateClear hx hs).trans (congrArg _ ((if_neg (ne_true_of_eq_false hc)).trans ?slot))⟩
      case out =>
        intro ok
        have hok : ok → ¬(2 < r.fld 1 1 ∨ r.fld 8 8 % 4096 ≠ 0 ∨ 2 ^ 52 ≤ r.fld 8 8) := fun h => exportOk_iff.1 h
        exact ⟨fun h hs => (exec_stateExport hx hs).trans (congrArg _ (if_pos (not_not.1 (fun hn => h (exportOk_iff.2 hn))))),
          fun h hl hs => (exec_stateExport hx hs).trans (congrArg _ ((if_neg (hok h)).trans (if_pos hl))),
          fun h hl hq hs => (exec_stateExport hx hs).trans (congrArg _ ((if_neg (hok h)).trans ((if_neg (not_lt.2 hl)).trans (if_pos hq)))),
          fun h hl hq hc hs => (exec_stateExport hx hs).trans (congrArg _ ((if_neg (hok h)).trans ((if_neg (not_lt.2 hl)).trans ((if_neg hq).trans (if_pos hc))))),
          fun h hl hq hc hs => (exec_stateExport hx hs).trans (congrArg _ ((if_neg (hok h)).trans ((if_neg (not_lt.2 hl)).trans ((if_neg hq).trans
            (if_neg (ne_true_of_eq_false hc))))))⟩
      case into =>
        intro c h1 h2 h3 h4 h5
        exact ⟨fun hc hs => (exec_stateImport hx h1 h2 h3 h4 h5 hs).trans (congrArg _ (if_pos hc)),
          fun hc hs => (exec_stateImport hx h1 h2 h3 h4 h5 hs).trans (congrArg _ (if_neg (not_not.2 hc)))⟩
      case noSlot => rw [hk]; rfl
      case slot => rw [hk]; rfl
  case batchMode =>
    exact fun h hs => exec_served rfl hs (if_pos (h.imp_left not_of_false))
  case batch =>
    intro hd hmode h1 h2 h3 d sv es
    have hr : u.objRead r.access (r.fld 8 8) (64 + 16 * r.fld 2 2) = d := rfl
    have hsv : batchShape d.2.2 = sv := rfl
    have hes : batchEnts r d.2.2 = es := rfl
    clear_value sv es d
    refine ⟨fun hc => exec_batch_unread hd hmode h1 h2 h3 hr hc, fun q b hc hx hq => ⟨fun c k hne he hs => ?_, ?_⟩⟩
    · refine (exec_batch hd hmode h1 h2 h3 hr hsv hes hc hx hq hs).trans (congrArg _ ((if_pos ?_).trans ?_))
      · exact (congrArg Prod.fst he).trans_ne hne
      · rw [show d.1.batchEntries (r.fld 0 1) r.ctx q.playbook es [] 0 = (c, k) from he]
    · intro he hb mixed x
      have hrun (hs : s.Serves 0x0402 m r) : exec (.msgBatchSubmit m) s = .next (batchFound d.1 r sv es q.playbook b) :=
        (exec_batch hd hmode h1 h2 h3 hr hsv hes hc hx hq hs).trans (congrArg _ (batchRead_found he hb))
      exact ⟨fun ho hs => (hrun hs).trans (congrArg _ (if_pos ho)),
        fun ho hm hs => (hrun hs).trans (congrArg _ ((if_neg (ne_true_of_eq_false ho)).trans (if_pos hm))),
        fun ho hm hl hs => (hrun hs).trans (congrArg _ ((if_neg (ne_true_of_eq_false ho)).trans ((if_neg hm).trans (if_pos hl)))),
        fun ho hm hl hs => (hrun hs).trans (congrArg _ ((if_neg (ne_true_of_eq_false ho)).trans ((if_neg hm).trans (if_neg (not_le.2 hl)))))⟩
  case ctx =>
    intro c
    refine ⟨fun h hs => (exec_ctxQuery hs).trans (congrArg _ ?_), fun x hx hp => ?_⟩
    · obtain h | h := h
      · rw [show (s.takeReq r).ctxRec (r.fld 0 2) = none from h]; rfl
      · cases (s.takeReq r).ctxRec (r.fld 0 2) with
        | none => rfl
        | some x => exact if_pos (not_of_false h)
    · intro t hs
      refine (exec_ctxQuery hs).trans (congrArg _ ?_)
      rw [show (s.takeReq r).ctxRec (r.fld 0 2) = some x from hx]
      exact if_neg (not_not_of_true hp)
  case query =>
    intro q hq
    refine ⟨fun hc hx hs => (exec_rostQuery hq hs).trans (congrArg _ (if_neg ?_)), fun h hs => (exec_rostQuery hq hs).trans (congrArg _ (if_pos ?_))⟩
    · rintro (h | ⟨h, hm⟩)
      · exact h hc
      · exact hx.elim h (fun hx => not_not_of_true hx hm)
    · exact h.imp_right (And.imp_right not_of_false)
  case cdcOpen =>
    intro c load
    refine ⟨fun h hs => exec_served rfl hs (if_pos (.inl (not_of_false h))), fun h1 h2 h3 hs => exec_served rfl hs ((if_neg ?_).trans (if_pos ?_)), ?_⟩
    · exact not_or.2 ⟨not_not_of_true h1, not_lt.2 (Nat.le_of_lt_succ h2)⟩
    · exact h3.imp not_of_false not_of_false
    · intro h1 h2 h3 h4
      refine ⟨fun he hs => (exec_open h1 h2 h3 h4 hs).trans (congrArg _ ?_), fun e he => ?_⟩
      · rw [he]; rfl
      · intro full code q i
        have hrun (hs : s.Serves 0x0800 m r) : exec (.msgCdcOpen m) s = .next (opened u r e) := by
          refine (exec_open h1 h2 h3 h4 hs).trans (congrArg _ ?_)
          rw [he]; rfl
        exact ⟨fun hf hs => (hrun hs).trans (congrArg _ (if_pos hf)), fun hf hc hs => (hrun hs).trans (congrArg _ ((if_neg hf).trans (if_pos hc))),
          fun hf hc hq hs => (hrun hs).trans (congrArg _ ((if_neg hf).trans ((if_neg (not_not.2 hc)).trans (if_pos hq)))),
          fun hf hc hq hs => (hrun hs).trans (congrArg _ ((if_neg hf).trans ((if_neg (not_not.2 hc)).trans (if_neg (not_not.2 hq)))))⟩
  case cdcNone =>
    exact fun hn => ⟨exec_pool_none hn, exec_frame_none hn, exec_set_none hn, exec_close_none hn⟩
  case cdc =>
    intro i c hn k b0
    refine ⟨exec_close hn, fun hk => ⟨fun h0 ho hb => exec_pool_add hn hk h0 ho hb,
      fun b h1 ho hb hs => (exec_pool_drop hn hk h1 ho hs).trans (congrArg _ (if_pos hb)),
      fun b h1 ho hb hs => (exec_pool_drop hn hk h1 ho hs).trans (congrArg _ (if_neg (ne_true_of_eq_false hb))),
      fun b h2 ho => exec_pool_back hn hk h2 ho⟩, exec_frame_full hn, ?frames, ?settings⟩
    case frames =>
      intro hq frame done
      refine ⟨fun b hd hf h0 ho => ⟨fun hb hs => (exec_frame_encode hn hq hd hf h0 ho hs).trans (congrArg _ ((if_pos hb).trans ?_)),
        fun hb hs => (exec_frame_encode hn hq hd hf h0 ho hs).trans (congrArg _ (if_neg (ne_true_of_eq_false hb)))⟩,
        fun hd hf h0 ha => exec_frame_decode hn hq hd hf h0 ha⟩
      unfold frameTaken; rw [h0]; rfl
    case settings =>
      intro v load rd
      exact ⟨exec_set_rate hn, fun h1 hv hv' hl hs => (exec_set_fps hn h1 hv hv' hs).trans (congrArg _ (if_pos hl)),
        fun h1 hv hv' hl hs => (exec_set_fps hn h1 hv hv' hs).trans (congrArg _ (if_neg (not_lt.2 hl))), exec_set_read hn, exec_set_other hn⟩


/-! SUPPORT. Requests of objects, tiers and quotas (11 R281, R286, R298 to R302). -/
namespace Sys2Proof.Machine.ObjectRequests
open MessageRequests TableRequests

variable {s : State} {r : Req} {m : Nat}

/-- The answer of a creation. -/
def created (r : Req) (c : State × Code × Nat) : State := c.1.answer r c.2.1 (leBytes 6 0 ++ leBytes 8 c.2.2)

theorem exec_create (h1 : 0 < r.fld 0 8) (h2 : r.fld 0 8 ≤ 2 ^ 40) (h3 : r.fld 8 1 ≤ 5) (h4 : r.ctx < 1024) (hs : s.Serves 0x0600 m r) :
    exec (.msgObjCreate m) s = .next (created r ((s.takeReq r).createObj (some r.ctx) .client (r.fld 0 8) (r.fld 8 1) (r.fld 9 1 % 2))) := by
  refine exec_served rfl hs ((if_neg (by omega)).trans ?_)
  generalize (s.takeReq r).createObj (some r.ctx) .client (r.fld 0 8) (r.fld 8 1) (r.fld 9 1 % 2) = c
  rfl

/-- The object that MSG_OBJ_FREE names is reached by no transfer under way. -/
def idle (s : State) (r : Req) : Prop :=
  ∀ o, AMap.find? s.tier.objs (r.fld 0 8 / blockBytes) = some o → s.inFlight (r.fld 0 8) (blockBytes * o.blocks) = false

/-- MSG_OBJ_FREE waits for the transfers that reach its object. -/
theorem exec_free_busy {o : Obj} (ho : AMap.find? s.tier.objs (r.fld 0 8 / blockBytes) = some o)
    (hb : s.inFlight (r.fld 0 8) (blockBytes * o.blocks) = true) (hs : s.Serves 0x0601 m r) : exec (.msgObjFree m) s = .next s := by
  refine congrArg _ (if_pos ?_)
  rw [hs.next]
  dsimp only
  rw [ho]
  exact Bool.and_eq_true_iff.2 ⟨decide_eq_true hs.op, hb⟩

/-- MSG_OBJ_FREE of an object, nothing under way reaching it. -/
def freed (u : State) (r : Req) (b : Nat) (o : Obj) : State :=
  if (AMap.find? u.wgt.shards b).isSome = true then u.refuse r E_WGT_STATE 0
  else if u.planNames b o = true then u.refuse r E_UPD_OBJ 0
  else o.move.elim (u.freeFor b r) (fun x => if x.freeing.isSome = true then u.refuse r E_OBJ_ARG 0
    else u.setObj b { o with move := some { x with freeing := some r } })

theorem exec_free (hi : idle s r) (hs : s.Serves 0x0601 m r) :
    let u := s.takeReq r
    exec (.msgObjFree m) s = .next ((u.ownObj r (r.fld 0 8) false).elim (u.refuse r E_OBJ_ARG 0) (fun x => freed u r x.1 x.2)) := by
  intro u
  refine congrArg _ ((if_neg ?_).trans ((serve_run hs _).trans ?_))
  · rw [hs.next]
    dsimp only
    intro h
    obtain ⟨-, h⟩ := Bool.and_eq_true_iff.1 h
    cases ho : AMap.find? s.tier.objs (r.fld 0 8 / blockBytes) with
    | none => rw [ho] at h; exact Bool.false_ne_true h
    | some o => rw [ho] at h; exact Bool.false_ne_true ((hi o ho).symm.trans h)
  · cases u.ownObj r (r.fld 0 8) false with
    | none => rfl
    | some x =>
      refine ite_congr rfl (fun _ => rfl) (fun _ => ite_congr rfl (fun _ => rfl) (fun _ => ?_))
      cases x.2.move <;> rfl

/-- MSG_TIER_MOVE of an object into a tier. -/
def moved (u : State) (r : Req) (b : Nat) (o : Obj) : State :=
  if o.move.isNone = true ∧ u.blocksOutside b o (r.fld 8 1) = [] then
    u.answer r 0 ([BitVec.ofNat 8 (r.fld 8 1), 0] ++ leBytes 4 0 ++ leBytes 8 (u.objStored b o (r.fld 8 1)))
  else if u.moveCode b o (r.fld 8 1) ≠ 0 then u.refuse r (u.moveCode b o (r.fld 8 1)) 14
  else u.startMove b o (r.fld 8 1) (some r)

theorem exec_tierMove (hs : s.Serves 0x0602 m r) :
    let u := s.takeReq r
    exec (.msgTierMove m) s = .next ((u.ownObj r (r.fld 0 8) false).elim (u.refuse r E_OBJ_ARG 14)
      (fun x => if 2 < r.fld 8 1 then u.refuse r E_OBJ_ARG 14 else moved u r x.1 x.2)) := by
  intro u
  refine exec_served rfl hs ?_
  dsimp only
  cases (s.takeReq r).ownObj r (r.fld 0 8) false <;> rfl

theorem exec_tierQuery_none (h : (s.takeReq r).ownObj r (r.fld 0 8) true = none) (hs : s.Serves 0x0603 m r) :
    exec (.msgTierQuery m) s = .next ((s.takeReq r).refuse r E_OBJ_ARG 22) :=
  exec_served rfl hs (by rw [h])

theorem exec_tierQuery {b : Nat} {o : Obj} (h : (s.takeReq r).ownObj r (r.fld 0 8) true = some (b, o)) (hs : s.Serves 0x0603 m r) :
    let u := s.takeReq r
    exec (.msgTierQuery m) s = .next (u.answer r 0 ([BitVec.ofNat 8 (u.objTier b o), BitVec.ofNat 8 (b2n o.move.isSome), BitVec.ofNat 8 o.kind,
      BitVec.ofNat 8 o.flags] ++ leBytes 2 (match o.owner with | some c => c | none => 0xFFFF) ++ leBytes 8 o.size ++
      leBytes 8 (u.objStored b o 0 + u.objStored b o 1 + u.objStored b o 2 + (match o.move with | some x => 4096 * x.resv | none => 0)))) := by
  refine exec_served rfl hs ?_
  rw [h] <;> rfl

end Sys2Proof.Machine.ObjectRequests

/-! SUPPORT. Requests of weight sets, shards and adapters (12 R307, R310, R316 to R330). -/
namespace Sys2Proof.Machine.WeightRequests
open MessageRequests TableRequests

variable {s : State} {r : Req} {m : Nat}

/-! Registrations. -/

/-- The set that a shard is registered into, as it is or new. -/
def setFor (u : State) (r : Req) : WSet := (u.wset (r.fld 8 1)).getD ⟨isMgmt r.mbx, r.ctx, 1, []⟩

/-- The generation that a shard joins. -/
def joins (w : WSet) : Nat := if w.genIn 0 = 0 then w.next else w.genIn 0

/-- A shard whose header `h` was read, registered or refused. -/
def shardRead (u : State) (r : Req) (h : State × Code × List Part) : State :=
  let w := setFor u r
  let blk := r.fld 0 8 / blockBytes
  if h.2.1 ≠ 0 then h.1.refuse r h.2.1 6
  else if h.2.2.any (fun q => ((h.1.shardsOf (r.fld 8 1) (joins w)).flatMap (fun e => e.2.parts)).any (fun x => x.same q)) = true then
    h.1.refuse r E_WGT_FORMAT 6
  else (h.1.setWset (r.fld 8 1) (if w.genIn 0 = 0 then { w with next := w.next + 1, gens := AMap.insert w.gens (joins w) ⟨0, false⟩ } else w)).setShard blk
    ⟨r.fld 8 1, joins w, 0, r.ctx, r.fld 9 1, false, false, h.2.2, some r, h.1.counter.toNat, [], h.1.nextShard⟩

section Shard
variable (hp : (s.takeReq r).registerPerm r (r.fld 8 1) (((s.takeReq r).ownObj r (r.fld 0 8) false).map (·.2)) = true)
include hp

theorem exec_shard_known (h : (((s.takeReq r).ownObj r (r.fld 0 8) false).isSome = true ∧ AMap.find? s.wgt.shards (r.fld 0 8 / blockBytes) ≠ none) ∨
      1 < r.fld 9 1) (hs : s.Serves 0x0300 m r) :
    exec (.msgShardRegister m) s = .next ((s.takeReq r).refuse r E_WGT_STATE 6) := by
  refine exec_served rfl hs ((if_neg (not_not_of_true hp)).trans (if_pos (Bool.or_eq_true_iff.2 (h.imp (fun h => ?_) decide_eq_true))))
  exact Bool.and_eq_true_iff.2 ⟨h.1, Option.isSome_iff_ne_none.2 h.2⟩

section New
variable (hk : ((s.takeReq r).ownObj r (r.fld 0 8) false).isSome = false ∨ AMap.find? s.wgt.shards (r.fld 0 8 / blockBytes) = none)
  (ht : r.fld 9 1 ≤ 1)
include hk ht

omit hp in
theorem not_known : ¬((((s.takeReq r).ownObj r (r.fld 0 8) false).isSome && (AMap.find? s.wgt.shards (r.fld 0 8 / blockBytes)).isSome) ||
    decide (1 < r.fld 9 1)) = true := by
  intro h
  obtain h | h := Bool.or_eq_true_iff.1 h
  · obtain ⟨h1, h2⟩ := Bool.and_eq_true_iff.1 h
    obtain hk | hk := hk
    · exact Bool.false_ne_true (hk.symm.trans h1)
    · rw [hk] at h2; exact Bool.false_ne_true h2
  · exact absurd (of_decide_eq_true h) (not_lt.2 ht)

theorem exec_shard_gens (h0 : (setFor (s.takeReq r) r).genIn 0 = 0) (h8 : 8 ≤ (setFor (s.takeReq r) r).gens.length) (hs : s.Serves 0x0300 m r) :
    exec (.msgShardRegister m) s = .next ((s.takeReq r).refuse r E_WGT_GENS 6) :=
  exec_served rfl hs ((if_neg (not_not_of_true hp)).trans ((if_neg (not_known hk ht)).trans (if_pos ⟨h0, h8⟩)))

theorem exec_shard_new (hg : (setFor (s.takeReq r) r).genIn 0 ≠ 0 ∨ (setFor (s.takeReq r) r).gens.length < 8) (hs : s.Serves 0x0300 m r) :
    let u := s.takeReq r
    exec (.msgShardRegister m) s = .next ((u.ownObj r (r.fld 0 8) false).elim (u.refuse r E_OBJ_UNMAPPED 6)
      (fun x => shardRead u r (u.shardHeader (r.fld 0 8 / blockBytes) x.2))) := by
  intro u
  refine exec_served rfl hs ((if_neg (not_not_of_true hp)).trans ((if_neg (not_known hk ht)).trans ((if_neg ?_).trans ?_)))
  · exact fun h => hg.elim (fun hg => hg h.1) (fun hg => absurd h.2 (not_le.2 hg))
  · dsimp only
    cases (s.takeReq r).ownObj r (r.fld 0 8) false <;> rfl
end New
end Shard

/-- An adapter whose header `h` was read, registered or refused. -/
def adapterRead (r : Req) (h : State × Code × List Part) : State :=
  let blk := r.fld 0 8 / blockBytes
  let id := h.1.freeAdapter
  let t := h.1.setShard blk ⟨r.fld 8 1, 0, id, r.ctx, 0, false, false, h.2.2, some r, h.1.counter.toNat, [], h.1.nextShard⟩
  if h.2.1 ≠ 0 then h.1.refuse r h.2.1 2
  else if h.2.2.any (fun q => decide (q.part < 3)) = true then h.1.refuse r E_WGT_FORMAT 2
  else { t with wgt := { t.wgt with adapters := AMap.insert t.wgt.adapters id ⟨blk, r.ctx, r.fld 8 1, false⟩ } }

theorem exec_adapter_none (h : (s.takeReq r).ownObj r (r.fld 0 8) false = none) (hs : s.Serves 0x0304 m r) :
    exec (.msgAdapterRegister m) s = .next ((s.takeReq r).refuse r E_OBJ_UNMAPPED 2) :=
  exec_served rfl hs (by dsimp only; rw [h])

theorem exec_adapter {b : Nat} {o : Obj} (h : (s.takeReq r).ownObj r (r.fld 0 8) false = some (b, o)) (hs : s.Serves 0x0304 m r) :
    let u := s.takeReq r
    exec (.msgAdapterRegister m) s = .next (
      if (AMap.find? u.wgt.shards (r.fld 0 8 / blockBytes)).isSome = true ∨ r.fld 8 1 = 0 ∨ 63 < r.fld 8 1 then u.refuse r E_WGT_STATE 2
      else if 256 ≤ (u.wgt.adapters.filter (fun e => decide (e.2.ctx = r.ctx))).length ∨ 4095 ≤ u.wgt.adapters.length then u.refuse r E_WGT_LIMIT 2
      else adapterRead r (u.shardHeader (r.fld 0 8 / blockBytes) o)) := by
  refine exec_served rfl hs ?_
  dsimp only
  rw [h] <;> rfl

theorem exec_release_none (h : AMap.find? s.wgt.adapters (r.fld 0 2) = none) (hs : s.Serves 0x0305 m r) :
    exec (.msgAdapterRelease m) s = .next ((s.takeReq r).refuse r E_WGT_STATE 0) := by
  refine exec_served rfl hs ?_
  dsimp only
  rw [show AMap.find? (s.takeReq r).wgt.adapters (r.fld 0 2) = none from h]

theorem exec_release {a : Adapter} (h : AMap.find? s.wgt.adapters (r.fld 0 2) = some a) (hs : s.Serves 0x0305 m r) :
    let u := s.takeReq r
    exec (.msgAdapterRelease m) s = .next (if a.ctx ≠ r.ctx ∧ (!isMgmt r.mbx) = true then u.refuse r E_WGT_PERM 0
      else if (a.released || (AMap.find? u.wgt.shards a.obj).elim true (fun h => !h.registered)) = true then u.refuse r E_WGT_STATE 0
      else ((({ u with wgt := { u.wgt with adapters := AMap.insert u.wgt.adapters (r.fld 0 2) { a with released := true } } } : State).pinsFell 0 0
        (r.fld 0 2)).answer r 0 [])) := by
  intro u
  refine exec_served rfl hs ?_
  dsimp only
  rw [show AMap.find? (s.takeReq r).wgt.adapters (r.fld 0 2) = some a from h]
  refine ite_congr rfl (fun _ => rfl) (fun _ => ?_)
  cases AMap.find? (s.takeReq r).wgt.shards a.obj <;> rfl

/-! Commits. -/

/-- The response of MSG_WGT_COMMIT. -/
def committed (t : State) (r : Req) (c : Code) (check : Nat) : State := t.answer r c ([BitVec.ofNat 8 check, 0] ++ leBytes 4 (t.currentGen (r.fld 0 1)))

theorem exec_commit (hs : s.Serves 0x0301 m r) :
    let u := s.takeReq r
    let set := r.fld 0 1
    exec (.msgWgtCommit m) s = .next ((u.wset set).elim (committed u r E_WGT_STATE 1) (fun w =>
      if (!w.mayManage r) = true then committed u r E_WGT_PERM 0
      else if (r.fld 1 1).testBit 1 = true then (if w.genIn 0 = 0 then committed u r E_WGT_STATE 1 else committed (u.abortGen set (w.genIn 0) w) r 0 0)
      else if (u.commitCheck set (w.genIn 0)).2.1 ≠ 0 then
        committed (u.commitCheck set (w.genIn 0)).1 r (u.commitCheck set (w.genIn 0)).2.1 (u.commitCheck set (w.genIn 0)).2.2
      else committed ((u.commitCheck set (w.genIn 0)).1.switchGen set (w.genIn 0) ((r.fld 1 1).testBit 0)) r 0 0)) := by
  intro u set
  refine exec_served rfl hs ?_
  dsimp only
  cases (s.takeReq r).wset (r.fld 0 1) <;> rfl

theorem exec_wgtQuery_none (h : (s.takeReq r).wset (r.fld 0 1) = none) (hs : s.Serves 0x0307 m r) :
    exec (.msgWgtQuery m) s = .next ((s.takeReq r).refuse r E_WGT_STATE 22) :=
  exec_served rfl hs (by dsimp only; rw [h])

theorem exec_wgtQuery {w : WSet} (h : (s.takeReq r).wset (r.fld 0 1) = some w) (hs : s.Serves 0x0307 m r) :
    let u := s.takeReq r
    let set := r.fld 0 1
    let cur := w.genIn 1
    exec (.msgWgtQuery m) s = .next (u.answer r 0 ([BitVec.ofNat 8 w.gens.length,
      BitVec.ofNat 8 (b2n w.shared + 2 * b2n (w.genIn 0 != 0) + 4 * b2n (cur != 0 && u.genCorrupt set cur))] ++ leBytes 4 cur ++
      leBytes 4 (u.pins set cur) ++ leBytes 4 ((w.gens.filter (fun e => e.2.st == 2)).map (fun e => u.pins set e.1)).sum ++
      leBytes 8 ((s.wgt.shards.filter (fun e => decide (e.2.set = set) && decide (e.2.gen ≠ 0))).map (fun e =>
        match AMap.find? s.tier.objs e.1 with | some o => o.size | none => 0)).sum)) := by
  refine exec_served rfl hs ?_
  dsimp only
  rw [h] <;> rfl

/-! Binding a playbook to a set. -/

/-- A playbook bound to the set that the request names. -/
def bound (t : State) (r : Req) (b : Playbook) : State :=
  { t with book := { t.book with books := AMap.insert t.book.books (r.fld 4 4) { b with set := r.fld 1 1 } } }

/-- A playbook bound to a set `w` that its context may use. -/
def bindTo (u : State) (r : Req) (b : Playbook) (w : WSet) : State :=
  if w.genIn 1 = 0 then (bound u r b).answer r 0 []
  else if (u.genCheck b.plan (r.fld 1 1) (w.genIn 1)).2.1 ≠ 0 then
    (u.genCheck b.plan (r.fld 1 1) (w.genIn 1)).1.refuse r (u.genCheck b.plan (r.fld 1 1) (w.genIn 1)).2.1 0
  else (bound (u.genCheck b.plan (r.fld 1 1) (w.genIn 1)).1 r b).answer r 0 []

theorem exec_bind_none (h : AMap.find? s.book.books (r.fld 4 4) = none) (hs : s.Serves 0x0302 m r) :
    exec (.msgWgtBind m) s = .next ((s.takeReq r).refuse r E_SCH_ARG 0) := by
  refine exec_served rfl hs ?_
  dsimp only
  rw [show AMap.find? (s.takeReq r).book.books (r.fld 4 4) = none from h]

theorem exec_bind {b : Playbook} (h : AMap.find? s.book.books (r.fld 4 4) = some b) (hs : s.Serves 0x0302 m r) :
    let u := s.takeReq r
    exec (.msgWgtBind m) s = .next (if b.court ≠ r.fld 0 1 ∨ b.ctx ≠ r.ctx then u.refuse r E_SCH_ARG 0
      else if r.fld 1 1 = 0 then (if u.seqsOf (r.fld 4 4) ≠ [] then u.refuse r E_WGT_STATE 0 else (bound u r b).answer r 0 [])
      else (u.wset (r.fld 1 1)).elim (u.refuse r E_WGT_STATE 0) (fun w =>
        if (!w.shared) = true ∧ w.owner ≠ b.ctx then u.refuse r E_WGT_PERM 0
        else if u.seqsOf (r.fld 4 4) ≠ [] then u.refuse r E_WGT_STATE 0 else bindTo u r b w)) := by
  intro u
  refine exec_served rfl hs ?_
  dsimp only
  rw [show AMap.find? (s.takeReq r).book.books (r.fld 4 4) = some b from h]
  refine ite_congr rfl (fun _ => rfl) (fun _ => ite_congr rfl (fun _ => rfl) (fun _ => ?_))
  cases (s.takeReq r).wset (r.fld 1 1) with
  | none => rfl
  | some w =>
    refine ite_congr rfl (fun _ => rfl) (fun _ => ite_congr rfl (fun _ => rfl) (fun _ => ?_))
    unfold bindTo
    by_cases h0 : w.genIn 1 = 0
    · simp only [if_pos h0]
      exact if_neg (not_not.2 rfl)
    · simp only [if_neg h0]
      rfl

end Sys2Proof.Machine.WeightRequests

/-! SUPPORT. Requests of update plans (13 R335, R345, R349 to R352). -/
namespace Sys2Proof.Machine.PlanRequests
open MessageRequests TableRequests

variable {s : State} {r : Req} {m : Nat}

/-! Registration. -/

/-- The response of MSG_UPD_PLAN that refuses a layer. -/
def refused (t : State) (r : Req) (c : Code) (layer : Nat) : State := t.answer r c (leBytes 2 layer ++ leBytes 4 0)

/-- A plan registered, its statistics and roots set. -/
def registered (v : State) (r : Req) (p : UpdPlan) : State :=
  let t := p.layers.foldl (fun t l => t.resetStats l (umpAccess r.ctx)) v
  ({ t with upd := { t.upd with plans := AMap.insert t.upd.plans v.upd.nextId { p with next := r.fld 24 4 }, nextId := v.upd.nextId + 1 } } : State).answer r 0
    (leBytes 2 0xFFFF ++ leBytes 4 v.upd.nextId)

/-- A plan registered, written out with the state in which its statistics are set. -/
theorem registered_eq {v w : State} {p : UpdPlan} (h : p.layers.foldl (fun t l => t.resetStats l (umpAccess r.ctx)) v = w) :
    registered v r p = ({ w with upd := { w.upd with
      plans := AMap.insert w.upd.plans v.upd.nextId { p with next := r.fld 24 4 }, nextId := v.upd.nextId + 1 } } : State).answer r 0
        (leBytes 2 0xFFFF ++ leBytes 4 v.upd.nextId) := by
  subst h
  rfl

/-- A plan whose layers are sound and its context's, with room for it. -/
def planRoom (v : State) (r : Req) (p : UpdPlan) : State :=
  if 64 ≤ v.upd.plans.length ∨ 16 ≤ (v.upd.plans.filter (fun e => decide (e.2.ctx = r.ctx))).length then refused v r E_UPD_LIMIT 0xFFFF
  else (p.layers.find? (fun l => decide (v.resetCode l (umpAccess r.ctx) ≠ 0))).elim (registered v r p)
    (fun l => refused v r (v.resetCode l (umpAccess r.ctx)) l.layer)

/-- A plan that was parsed: its layers are checked one rule after another. -/
def planParsed (v : State) (r : Req) (p : UpdPlan) : State :=
  if p.steps ≤ r.fld 24 4 then refused v r E_UPD_PLAN 0xFFFF
  else (p.layers.find? (fun l => !v.updSizesOk l)).elim
    ((p.layers.find? (fun l => !v.updOwnOk r.ctx l)).elim
      ((v.updOverlap p.layers).elim (planRoom v r p) (refused v r E_UPD_OBJ))
      (fun l => refused v r E_UPD_OBJ l.layer))
    (fun l => refused v r E_UPD_PLAN l.layer)

/-- A plan whose image was read. -/
def planRead (r : Req) (q : State × Code × List Byte) : State :=
  if q.2.1 ≠ 0 then refused q.1 r q.2.1 0xFFFF
  else (updParse r.ctx (r.fld 0 1) q.2.2).elim (planParsed q.1 r) (refused q.1 r E_UPD_PLAN)

/-- The court that MSG_UPD_PLAN names, defined and of the request's context. -/
def courtNamed (s : State) (r : Req) : Prop :=
  r.fld 0 1 ≤ 7 ∧ s.courtDefined (r.fld 0 1) = true ∧ (s.takeReq r).courtOf r.ctx = r.fld 0 1

theorem not_courtNamed_iff : (7 < r.fld 0 1 ∨ (!s.courtDefined (r.fld 0 1)) = true ∨ (s.takeReq r).courtOf r.ctx ≠ r.fld 0 1) ↔ ¬courtNamed s r := by
  simp only [courtNamed, not_and_or, not_le, Bool.not_eq_true', Bool.not_eq_true, ne_eq]

theorem exec_plan (hn : courtNamed s r) (hs : s.Serves 0x0C00 m r) :
    exec (.msgUpdPlan m) s = .next (planRead r ((s.takeReq r).objRead r.access (r.fld 8 8) (r.fld 16 8))) := by
  refine exec_served rfl hs ((if_neg (fun h => not_courtNamed_iff.1 h hn)).trans ?_)
  generalize (s.takeReq r).objRead r.access (r.fld 8 8) (r.fld 16 8) = q
  refine ite_congr rfl (fun _ => rfl) (fun _ => ?_)
  dsimp only
  cases updParse r.ctx (r.fld 0 1) q.2.2 with
  | inr l => rfl
  | inl p =>
    refine ite_congr rfl (fun _ => rfl) (fun _ => ?_)
    cases p.layers.find? (fun l => !q.1.updSizesOk l) with
    | some l => rfl
    | none =>
      dsimp only [Option.elim]
      cases p.layers.find? (fun l => !q.1.updOwnOk r.ctx l) with
      | some l => rfl
      | none =>
        dsimp only
        cases q.1.updOverlap p.layers with
        | some l => rfl
        | none =>
          refine ite_congr rfl (fun _ => rfl) (fun _ => ?_)
          cases p.layers.find? (fun l => decide (q.1.resetCode l (umpAccess r.ctx) ≠ 0)) <;> rfl

/-- No layer of a list fails a check. -/
theorem find_none_of_ok {l : List UpdLayer} {f : UpdLayer → Bool} (h : ∀ x ∈ l, f x = true) : l.find? (fun x => !f x) = none :=
  List.find?_eq_none.2 (fun x hx => not_not_of_true (h x hx))

/-! Steps, queries and releases. -/

section None
variable (hn : (s.takeReq r).planOf r = none)
include hn

theorem exec_step_none (hs : s.Serves 0x0C01 m r) : exec (.msgUpdStep m) s = .next ((s.takeReq r).refuse r E_UPD_PLAN 14) :=
  exec_served rfl hs (by rw [hn])
theorem exec_query_none (hs : s.Serves 0x0C02 m r) : exec (.msgUpdQuery m) s = .next ((s.takeReq r).refuse r E_UPD_PLAN 14) :=
  exec_served rfl hs (by rw [hn])
theorem exec_release_none (hs : s.Serves 0x0C03 m r) : exec (.msgUpdRelease m) s = .next ((s.takeReq r).refuse r E_UPD_PLAN 0) :=
  exec_served rfl hs (by rw [hn])
end None

/-- A step that its plan waits for (R345). -/
def due (r : Req) (p : UpdPlan) : Prop := r.fld 4 4 = p.next ∧ p.next < p.steps ∧ p.waiting = none ∧ p.running = none

theorem not_due_iff {p : UpdPlan} : (r.fld 4 4 ≠ p.next ∨ p.steps ≤ r.fld 4 4 ∨ p.waiting.isSome = true ∨ p.running.isSome = true) ↔ ¬due r p := by
  unfold due
  constructor
  · rintro h ⟨h1, h2, h3, h4⟩
    obtain h | h | h | h := h
    · exact h h1
    · omega
    · rw [h3] at h; exact Bool.false_ne_true h
    · rw [h4] at h; exact Bool.false_ne_true h
  · intro h
    by_contra hc
    obtain ⟨h1, h2, h3, h4⟩ : r.fld 4 4 = p.next ∧ r.fld 4 4 < p.steps ∧ ¬p.waiting.isSome = true ∧ ¬p.running.isSome = true := by
      simpa only [not_or, not_not, not_le, ne_eq] using hc
    exact h ⟨h1, h1 ▸ h2, Option.not_isSome_iff_eq_none.1 h3, Option.not_isSome_iff_eq_none.1 h4⟩

section Found
variable {i : Nat} {p : UpdPlan} (hp : (s.takeReq r).planOf r = some (i, p))
include hp

theorem exec_step (hs : s.Serves 0x0C01 m r) :
    let u := s.takeReq r
    exec (.msgUpdStep m) s = .next (if p.torn = true then u.refuse r E_UPD_TORN 14
      else if r.fld 4 4 ≠ p.next ∨ p.steps ≤ r.fld 4 4 ∨ p.waiting.isSome = true ∨ p.running.isSome = true then u.refuse r E_UPD_STEP 14
      else (u.setPlan i { p with waiting := some r }).mark) :=
  exec_served rfl hs (by rw [hp])

theorem exec_query (hs : s.Serves 0x0C02 m r) :
    exec (.msgUpdQuery m) s = .next ((s.takeReq r).answer r 0 (leBytes 1 (if p.torn = true then 2 else if p.running.isSome = true then 1 else 0) ++
      leBytes 1 0 ++ leBytes 4 p.next ++ leBytes 4 (match p.lastRefresh with | some x => x | none => 0xFFFFFFFF) ++ leBytes 4 p.residual.toNat)) := by
  refine exec_served rfl hs ?_
  rw [hp] <;> rfl

theorem exec_release (hs : s.Serves 0x0C03 m r) :
    let u := s.takeReq r
    exec (.msgUpdRelease m) s = .next (if p.release.isSome = true then u.refuse r E_UPD_PLAN 0
      else if p.waiting.isSome = true ∨ p.running.isSome = true then u.setPlan i { p with release := some r }
      else (u.setPlan i { p with release := some r }).settleRelease i) :=
  exec_served rfl hs (by rw [hp])
end Found

/-- A release that nothing holds up. -/
theorem settleRelease_now (u : State) (i : Nat) (p : UpdPlan) :
    (u.setPlan i { p with release := some r }).settleRelease i =
      ({ u with upd := { u.upd with plans := AMap.erase (AMap.insert u.upd.plans i { p with release := some r }) i } } : State).answer r 0 [] := by
  unfold State.settleRelease
  rw [show AMap.find? (u.setPlan i { p with release := some r }).upd.plans i = some { p with release := some r } from
    (AMap.find_insert _ _ _ _).trans (if_pos rfl)] <;> rfl

end Sys2Proof.Machine.PlanRequests

open Sys2Proof Sys2Proof.Machine Sys2Proof.Machine.MessageRequests Sys2Proof.Machine.TableRequests Sys2Proof.Machine.ObjectRequests
  Sys2Proof.Machine.WeightRequests in
/-- Settles O57: it holds. Each request is one command; its transaction is read branch by branch. -/
theorem objectWeightAndUpdateRequests : Obligations.ObjectWeightAndUpdateRequests := by
  unfold Obligations.ObjectWeightAndUpdateRequests
  intro s r m u ran z addr own blk
  refine ⟨?create, fun o ho hb hs => exec_free_busy ho hb hs, ?free, ?move, exec_tierQuery_none, ?query, ?quota, ?shard, ?release, ?sets, ?bind, ?priv, ?plan,
    fun hn => ⟨PlanRequests.exec_step_none hn, PlanRequests.exec_query_none hn, PlanRequests.exec_release_none hn⟩, ?steps⟩
  case create =>
    intro size made
    have hmade : (s.takeReq r).createObj (some r.ctx) .client (r.fld 0 8) (r.fld 8 1) (r.fld 9 1 % 2) = made := rfl
    exact ⟨fun h hs => exec_served rfl hs (if_pos h),
      fun h1 h2 h3 h4 hs => (exec_create h1 h2 h3 h4 hs).trans (congrArg (fun c => Host.Outcome.next (created r c)) hmade)⟩
  case free =>
    intro hi
    refine ⟨fun hn hs => (exec_free hi hs).trans (congrArg _ ?_), fun b o ho => ?_⟩
    · rw [show (s.takeReq r).ownObj r (r.fld 0 8) false = none from hn]; rfl
    · have hrun (hs : s.Serves 0x0601 m r) : exec (.msgObjFree m) s = .next (freed u r b o) := by
        refine (exec_free hi hs).trans (congrArg _ ?_)
        rw [show (s.takeReq r).ownObj r (r.fld 0 8) false = some (b, o) from ho]; rfl
      have hfree (h : AMap.find? s.wgt.shards b = none) : ¬(AMap.find? s.wgt.shards b).isSome = true := fun hx => Option.isSome_iff_ne_none.1 hx h
      refine ⟨fun h hs => (hrun hs).trans (congrArg _ (if_pos (Option.isSome_iff_ne_none.2 h))),
        fun h hp hs => (hrun hs).trans (congrArg _ ((if_neg (hfree h)).trans (if_pos hp))), fun h hp =>
        ⟨fun hm hs => (hrun hs).trans (congrArg _ ((if_neg (hfree h)).trans ((if_neg (ne_true_of_eq_false hp)).trans ?_))),
         fun x hm hx hs => (hrun hs).trans (congrArg _ ((if_neg (hfree h)).trans ((if_neg (ne_true_of_eq_false hp)).trans ?_)))⟩⟩
      · rw [hm]; rfl
      · rw [hm]
        exact if_neg fun h => Option.isSome_iff_ne_none.1 h hx
  case move =>
    intro tier
    refine ⟨fun h hs => (exec_tierMove hs).trans (congrArg _ ?_), fun b o ho ht => ?_⟩
    · cases hown : (s.takeReq r).ownObj r (r.fld 0 8) false with
      | none => rfl
      | some x => exact if_pos (h.resolve_left (fun hn => Option.some_ne_none _ (hown.symm.trans hn)))
    · intro c there
      have hrun (hs : s.Serves 0x0602 m r) : exec (.msgTierMove m) s = .next (moved u r b o) := by
        refine (exec_tierMove hs).trans (congrArg _ ?_)
        rw [show (s.takeReq r).ownObj r (r.fld 0 8) false = some (b, o) from ho]
        exact if_neg (not_lt.2 ht)
      have hthere : (o.move.isNone = true ∧ u.blocksOutside b o (r.fld 8 1) = []) ↔ there := and_congr_left' Option.isNone_iff_eq_none
      exact ⟨fun h hs => (hrun hs).trans (congrArg _ (if_pos (hthere.2 h))),
        fun h hc hs => (hrun hs).trans (congrArg _ ((if_neg (fun hx => h (hthere.1 hx))).trans (if_pos hc))),
        fun h hc hs => (hrun hs).trans (congrArg _ ((if_neg (fun hx => h (hthere.1 hx))).trans (if_neg (not_not.2 hc))))⟩
  case query =>
    intro b o ho held hs
    exact exec_tierQuery ho hs
  case quota =>
    intro c tier n k
    exact ⟨fun h hs => exec_served rfl hs (if_pos h), fun h1 h2 h3 h4 hs => exec_served rfl hs (if_neg (by omega)),
      fun h hs => exec_served rfl hs (if_pos h), fun h1 h2 hs => exec_served rfl hs (if_neg (by omega))⟩
  case shard =>
    intro set w staged
    refine ⟨fun h hs => exec_served rfl hs (if_pos (not_of_false h)), fun hp => ⟨exec_shard_known hp, fun hk ht => ⟨exec_shard_gens hp hk ht, fun hg hn hs => ?_,
      fun b o hg ho => ?_⟩⟩, exec_adapter_none, fun b o ho => ?_⟩
    · refine (exec_shard_new hp hk ht hg hs).trans (congrArg _ ?_)
      rw [show (s.takeReq r).ownObj r (r.fld 0 8) false = none from hn]; rfl
    · intro h gen clash
      have hrun (hs : s.Serves 0x0300 m r) : exec (.msgShardRegister m) s = .next (shardRead u r h) := by
        refine (exec_shard_new hp hk ht hg hs).trans (congrArg _ ?_)
        rw [show (s.takeReq r).ownObj r (r.fld 0 8) false = some (b, o) from ho]; rfl
      clear_value h
      exact ⟨fun hh hs => (hrun hs).trans (congrArg _ (if_pos hh)),
        fun hh hc hs => (hrun hs).trans (congrArg _ ((if_neg (not_not.2 hh)).trans (if_pos hc))),
        fun hh hc hs => (hrun hs).trans (congrArg _ ((if_neg (not_not.2 hh)).trans (if_neg (ne_true_of_eq_false hc))))⟩
    · intro full h id t
      have hrun := exec_adapter (m := m) ho
      have hnew (hn : AMap.find? s.wgt.shards blk = none) (h1 : 1 ≤ set) (h2 : set ≤ 63) :
          ¬((AMap.find? (s.takeReq r).wgt.shards (r.fld 0 8 / blockBytes)).isSome = true ∨ r.fld 8 1 = 0 ∨ 63 < r.fld 8 1) := by
        rintro (hx | hx | hx)
        · exact Option.isSome_iff_ne_none.1 hx hn
        · exact absurd hx (Nat.ne_of_gt h1)
        · exact absurd hx (not_lt.2 h2)
      have hread (hn : AMap.find? s.wgt.shards blk = none) (h1 : 1 ≤ set) (h2 : set ≤ 63) (hf : ¬full) (hs : s.Serves 0x0304 m r) :
          exec (.msgAdapterRegister m) s = .next (adapterRead r h) :=
        (hrun hs).trans (congrArg _ ((if_neg (hnew hn h1 h2)).trans (if_neg hf)))
      refine ⟨fun hx hs => (hrun hs).trans (congrArg _ (if_pos (hx.imp_left Option.isSome_iff_ne_none.2))), fun hn h1 h2 =>
        ⟨fun hf hs => (hrun hs).trans (congrArg _ ((if_neg (hnew hn h1 h2)).trans (if_pos hf))), ?_⟩⟩
      clear_value h
      exact ⟨fun hf hh hs => (hread hn h1 h2 hf hs).trans (congrArg _ (if_pos hh)),
        fun hf hh hc hs => (hread hn h1 h2 hf hs).trans (congrArg _ ((if_neg (not_not.2 hh)).trans (if_pos hc))),
        fun hf hh hc hs => (hread hn h1 h2 hf hs).trans (congrArg _ ((if_neg (not_not.2 hh)).trans (if_neg (ne_true_of_eq_false hc))))⟩
  case release =>
    intro id
    refine ⟨exec_release_none, fun a ha => ?_⟩
    intro registered
    have hrun := exec_release (m := m) ha
    have hreg : (AMap.find? s.wgt.shards a.obj).elim true (fun h => !h.registered) = !registered := by
      dsimp only [registered]
      cases AMap.find? s.wgt.shards a.obj <;> rfl
    have hmay (h : a.ctx = r.ctx ∨ isMgmt r.mbx = true) : ¬(a.ctx ≠ r.ctx ∧ (!isMgmt r.mbx) = true) :=
      fun hx => h.elim hx.1 (fun h => not_not_of_true h hx.2)
    refine ⟨fun h hm hs => (hrun hs).trans (congrArg _ (if_pos ⟨h, not_of_false hm⟩)), fun h =>
      ⟨fun hr hs => (hrun hs).trans (congrArg _ ((if_neg (hmay h)).trans (if_pos ?_))),
       fun hr hg hs => (hrun hs).trans (congrArg _ ((if_neg (hmay h)).trans (if_neg ?_)))⟩⟩
    · exact Bool.or_eq_true_iff.2 (hr.imp_right (fun hr => hreg.trans (not_of_false hr)))
    · intro hx
      obtain hx | hx := Bool.or_eq_true_iff.1 hx
      · exact Bool.false_ne_true (hr.symm.trans hx)
      · exact not_not_of_true hg (hreg.symm.trans hx)
  case sets =>
    intro set resp
    refine ⟨fun hn => ⟨fun hs => (exec_commit hs).trans (congrArg _ ?_), exec_wgtQuery_none hn⟩, fun w hw => ?_⟩
    · rw [show (s.takeReq r).wset (r.fld 0 1) = none from hn]; rfl
    · intro gen abort c
      have hrun (hs : s.Serves 0x0301 m r) := (exec_commit hs).trans (congrArg (fun o : Option WSet => Host.Outcome.next (o.elim _ _)) hw)
      refine ⟨fun h hs => (hrun hs).trans (congrArg _ (if_pos (not_of_false h))), fun h =>
        ⟨fun ha hg hs => (hrun hs).trans (congrArg _ ((if_neg (not_not_of_true h)).trans ((if_pos ha).trans (if_pos hg)))),
         fun ha hg hs => (hrun hs).trans (congrArg _ ((if_neg (not_not_of_true h)).trans ((if_pos ha).trans (if_neg hg)))),
         fun ha hc hs => (hrun hs).trans (congrArg _ ((if_neg (not_not_of_true h)).trans ((if_neg (ne_true_of_eq_false ha)).trans (if_pos hc)))),
         fun ha hc hs => (hrun hs).trans (congrArg _ ((if_neg (not_not_of_true h)).trans ((if_neg (ne_true_of_eq_false ha)).trans (if_neg (not_not.2 hc)))))⟩, ?_⟩
      intro cur retiring held hs
      exact exec_wgtQuery hw hs
  case bind =>
    intro id set bound'
    refine ⟨exec_bind_none, fun b hb => ?_⟩
    have hrun := exec_bind (m := m) hb
    refine ⟨fun h hs => (hrun hs).trans (congrArg _ (if_pos h)), fun h1 h2 => ?_⟩
    have hown : ¬(b.court ≠ r.fld 0 1 ∨ b.ctx ≠ r.ctx) := not_or.2 ⟨not_not.2 h1, not_not.2 h2⟩
    refine ⟨fun h0 hq hs => (hrun hs).trans (congrArg _ ((if_neg hown).trans ((if_pos h0).trans (if_pos hq)))),
      fun h0 hq hs => (hrun hs).trans (congrArg _ ((if_neg hown).trans ((if_pos h0).trans (if_neg (not_not.2 hq))))),
      fun h0 hw hs => (hrun hs).trans (congrArg _ ((if_neg hown).trans ((if_neg h0).trans ?_))), fun w h0 hw => ?_⟩
    · rw [show (s.takeReq r).wset (r.fld 1 1) = none from hw]; rfl
    · have hset (hs : s.Serves 0x0302 m r) : exec (.msgWgtBind m) s = .next (if (!w.shared) = true ∧ w.owner ≠ b.ctx then u.refuse r E_WGT_PERM 0
          else if u.seqsOf (r.fld 4 4) ≠ [] then u.refuse r E_WGT_STATE 0 else bindTo u r b w) := by
        refine (hrun hs).trans (congrArg _ ((if_neg hown).trans ((if_neg h0).trans ?_)))
        rw [show (s.takeReq r).wset (r.fld 1 1) = some w from hw]; rfl
      refine ⟨fun h ho hs => (hset hs).trans (congrArg _ (if_pos ⟨not_of_false h, ho⟩)), fun h => ?_⟩
      have hmay : ¬((!w.shared) = true ∧ w.owner ≠ b.ctx) := fun hx => h.elim (fun h => not_not_of_true h hx.1) hx.2
      have hbind (hq : u.seqsOf id = []) (hs : s.Serves 0x0302 m r) : exec (.msgWgtBind m) s = .next (bindTo u r b w) :=
        (hset hs).trans (congrArg _ ((if_neg hmay).trans (if_neg (not_not.2 hq))))
      refine ⟨fun hq hs => (hset hs).trans (congrArg _ ((if_neg hmay).trans (if_pos hq))),
        fun hq hg hs => (hbind hq hs).trans (congrArg _ (if_pos hg)), fun hq hg => ?_⟩
      intro c
      exact ⟨fun hc hs => (hbind hq hs).trans (congrArg _ ((if_neg hg).trans (if_pos hc))),
        fun hc hs => (hbind hq hs).trans (congrArg _ ((if_neg hg).trans (if_neg (not_not.2 hc))))⟩
  case priv =>
    intro c rest now
    exact ⟨fun h hs => exec_served rfl hs (if_pos h), fun h1 h2 hs => exec_served rfl hs ((if_neg (by omega)).trans (if_pos h2)),
      fun h1 h2 h3 hs => exec_served rfl hs ((if_neg (by omega)).trans ((if_neg (by omega)).trans (if_pos h3))),
      fun h1 h2 h3 hs => exec_served rfl hs ((if_neg (by omega)).trans ((if_neg (by omega)).trans (if_neg (not_le.2 h3))))⟩
  case plan =>
    intro court q v no named
    have hrun (hn : named) (hs : s.Serves 0x0C00 m r) : exec (.msgUpdPlan m) s = .next (PlanRequests.planRead r q) := PlanRequests.exec_plan hn hs
    refine ⟨fun h hs => exec_served rfl hs (if_pos (PlanRequests.not_courtNamed_iff.2 h)), ?_⟩
    clear_value q
    have hparse (hn : named) (hq : q.2.1 = 0) (hs : s.Serves 0x0C00 m r) := (hrun hn hs).trans (congrArg Host.Outcome.next (if_neg (not_not.2 hq)))
    refine ⟨fun hn hq hs => (hrun hn hs).trans (congrArg _ (if_pos hq)), fun l hn hq hl hs => (hparse hn hq hs).trans (congrArg _ ?_), fun p hn hq hp => ?_⟩
    · rw [hl]; rfl
    · intro full
      have hplan (hs : s.Serves 0x0C00 m r) : exec (.msgUpdPlan m) s = .next (PlanRequests.planParsed v r p) := by
        refine (hparse hn hq hs).trans (congrArg _ ?_)
        rw [hp]; rfl
      refine ⟨fun h hs => (hplan hs).trans (congrArg _ (if_pos h)), fun hst =>
        ⟨fun l hl hs => (hplan hs).trans (congrArg _ ((if_neg (not_le.2 hst)).trans ?_)), fun hsz =>
        ⟨fun l hl hs => (hplan hs).trans (congrArg _ ((if_neg (not_le.2 hst)).trans ?_)), fun how => ?_⟩⟩⟩
      · rw [hl]; rfl
      · rw [PlanRequests.find_none_of_ok hsz, hl]; rfl
      · have hsound (hs : s.Serves 0x0C00 m r) : exec (.msgUpdPlan m) s = .next
            ((v.updOverlap p.layers).elim (PlanRequests.planRoom v r p) (PlanRequests.refused v r E_UPD_OBJ)) := by
          refine (hplan hs).trans (congrArg _ ((if_neg (not_le.2 hst)).trans ?_))
          rw [PlanRequests.find_none_of_ok hsz, PlanRequests.find_none_of_ok how]; rfl
        have hroom (ho : v.updOverlap p.layers = none) (hs : s.Serves 0x0C00 m r) : exec (.msgUpdPlan m) s = .next (PlanRequests.planRoom v r p) := by
          refine (hsound hs).trans (congrArg _ ?_)
          rw [ho]; rfl
        refine ⟨fun l hl hs => (hsound hs).trans (congrArg _ ?_), fun ho hf hs => (hroom ho hs).trans (congrArg _ (if_pos hf)),
          fun l ho hf hl hs => (hroom ho hs).trans (congrArg _ ((if_neg hf).trans ?_)), fun ho hf hz => ?_⟩
        · rw [hl]; rfl
        · rw [hl]; rfl
        · intro t hs
          refine (hroom ho hs).trans (congrArg _ ((if_neg hf).trans ?_))
          rw [List.find?_eq_none.2 (fun l hl h => absurd (hz l hl) (of_decide_eq_true h))]
          exact PlanRequests.registered_eq (w := t) rfl
  case steps =>
    intro i p hp due'
    have hwait (h : p.waiting = none) : ¬p.waiting.isSome = true := fun hx => Option.isSome_iff_ne_none.1 hx h
    have hrel (h : p.release = none) : ¬p.release.isSome = true := fun hx => Option.isSome_iff_ne_none.1 hx h
    refine ⟨fun h hs => (PlanRequests.exec_step hp hs).trans (congrArg _ (if_pos h)),
      fun h hd hs => (PlanRequests.exec_step hp hs).trans (congrArg _ ((if_neg (ne_true_of_eq_false h)).trans (if_pos (PlanRequests.not_due_iff.2 hd)))),
      fun h hd hs => (PlanRequests.exec_step hp hs).trans (congrArg _ ((if_neg (ne_true_of_eq_false h)).trans
        (if_neg (fun hx => PlanRequests.not_due_iff.1 hx hd)))), PlanRequests.exec_query hp,
      fun h hs => (PlanRequests.exec_release hp hs).trans (congrArg _ (if_pos (Option.isSome_iff_ne_none.2 h))),
      fun h hw hs => (PlanRequests.exec_release hp hs).trans (congrArg _ ((if_neg (hrel h)).trans
        (if_pos (hw.imp Option.isSome_iff_ne_none.2 Option.isSome_iff_ne_none.2)))),
      fun h hw hr hs => (PlanRequests.exec_release hp hs).trans (congrArg _ ((if_neg (hrel h)).trans ((if_neg ?_).trans
        (PlanRequests.settleRelease_now u i p))))⟩
    exact not_or.2 ⟨hwait hw, fun hx => Option.isSome_iff_ne_none.1 hx hr⟩
